-- ==== Sys2Proof/Word.lean ====
section
/-! DEFINITION. The words of the module and the plainest arithmetic on them: bytes, registers, counters that
saturate, and the reading of a natural number's bits.
-/

namespace Sys2Proof

/-- A byte of memory. -/
abbrev Byte := BitVec 8

/-- A 64-bit register or instruction word. -/
abbrev Word := BitVec 64

/-- The sum of `a` and `b` that stops at `limit` (R517: a saturating counter never wraps). -/
def satAdd (limit a b : Nat) : Nat := min limit (a + b)

/-- One more, stopping at the largest 32-bit value. -/
def satInc (a : Nat) : Nat := satAdd 0xFFFFFFFF a 1

/-- Bit `i` of the natural number `n`. -/
def natBit (n i : Nat) : Bool := n.testBit i

/-- Bits `[hi:lo]` of `n` (the notation of 00_scope). -/
def natBits (n hi lo : Nat) : Nat := (n >>> lo) % 2 ^ (hi + 1 - lo)

/-- The signed value of the low `w` bits of `n`, two's complement. -/
def signedOf (w n : Nat) : Int :=
  let r := n % 2 ^ w
  if r < 2 ^ (w - 1) then (r : Int) else (r : Int) - (2 ^ w : Nat)

/-- The low `w` bits of the two's complement of `v`. -/
def unsignedOf (w : Nat) (v : Int) : Nat := (v % ((2 ^ w : Nat) : Int)).toNat

/-- `b` as a number. -/
def boolNat (b : Bool) : Nat := if b then 1 else 0

/-- Quotient rounded up. -/
def ceilDiv (a b : Nat) : Nat := (a + (b - 1)) / b

end Sys2Proof
end

