-- ==== Sys2Proof/Machine/Isa.lean ====
section
/-! DEFINITION. The span instructions (R303, R304): one constructor for each of the 39 opcodes, with the fields that
Tables 11.3, 11.4, 11.6, 11.7, 12.3, 12.4, 12.6 and 12.8 name, each at its own width.
-/

namespace Sys2Proof

/-- A cell set field (R331). -/
structure CellSet where
  gr : BitVec 3
  gc : BitVec 3
  first : BitVec 7
deriving DecidableEq, Repr

/-- The name of one of P0 to P31. -/
abbrev PReg := BitVec 5

/-- A span instruction. -/
inductive SpanInstr where
  | nop
  | halt
  | br (off : BitVec 24)
  | brc (ra : PReg) (cond : BitVec 4) (off : BitVec 24)
  | loop (ra : PReg) (off : BitVec 24)
  | endlp
  | seti (rd : PReg) (hi : Bool) (imm : BitVec 32)
  | addi (rd ra : PReg) (imm : BitVec 32)
  | alu (rd ra rb : PReg) (fn : BitVec 6)
  | ldc (rd : PReg) (mode : BitVec 2) (n : BitVec 6)
  | rdtime (rd : PReg) (src : BitVec 6)
  | evrec (rb : PReg) (err op : Bool) (ev : BitVec 16)
  | evwait (rd rb : PReg) (timeout : BitVec 20) (ev : BitVec 16)
  | barrier (rd : PReg) (id : BitVec 8) (mask : BitVec 16)
  | fence (classes : BitVec 4)
  | dma (ra rb rc tag : PReg)
  | dmaw (rd : PReg) (f : Bool) (mask : BitVec 32)
  | atadd (rd ra rb : PReg) (ret wide : Bool)
  | atswp (rd ra rb : PReg) (wide : Bool)
  | bset (rd ra rb : PReg) (ret : Bool)
  | bclr (rd ra rb : PReg) (ret : Bool)
  | mcast (rd ra rb : PReg) (n1 : BitVec 6)
  | mma (t ra rb : PReg) (pair : BitVec 4) (shape : BitVec 2) (neg s1b : Bool) (cells : CellSet) (kq : BitVec 9)
  | mmaz (t ra rb : PReg) (e : BitVec 8) (pair : BitVec 4) (shape : BitVec 2) (neg s1b : Bool) (cells : CellSet)
      (kq : BitVec 9)
  | red (t ra rb : PReg) (shape op : BitVec 2) (cells : CellSet) (axis : BitVec 2)
  | ewo (rz ra rb rc : PReg) (zfmt xfmt yfmt : BitVec 4) (d : BitVec 8) (ybc : Bool) (op : BitVec 2)
  | accmv (t ra rb : PReg) (d : BitVec 8) (fmt : BitVec 4) (shape op : BitVec 2) (cells : CellSet) (yfmt : BitVec 4)
      (ybc clr : Bool)
  | accz (t : PReg) (e : BitVec 8) (shape : BitVec 2) (cells : CellSet)
  | cvt (ra rb rc : PReg) (ofmt ifmt : BitVec 4) (d : BitVec 8) (tr : Bool)
  | fldc (t ra rb rc : PReg) (pair : BitVec 4) (shape op : BitVec 2) (cells : CellSet) (qubo : Bool) (kq : BitVec 9)
  | sweep (rd : PReg)
  | fref (rd : PReg)
  | xchg (rd : PReg)
  | wrot (rd : PReg)
  | snap (rd : PReg)
  | gibbs (t ra rb rc : PReg) (shape : BitVec 2) (clr bias : Bool) (cells : CellSet) (bfmt : BitVec 4)
  | sched (rd ra : PReg) (t : BitVec 3) (mode : BitVec 2)
  | eaud (rd : PReg)
  | rmig (rd : PReg)
deriving DecidableEq, Repr, Inhabited

end Sys2Proof
end

