-- ==== Sys2Proof/Machine/Types.lean ====
section
/-! DEFINITION. The types of the commands' operands: ports, units, flit headers, link messages, and the outcomes
of physical and cryptographic events, which the environment supplies (entries 7 and 8 of the assumption log).
-/

namespace Sys2Proof

/-- The port a keystone request arrives on: the PCIe mailbox (R523) or the I3C management port with the
request's sequence number (R465). -/
inductive Port where
  | mailbox
  | i3c (seq : BitVec 16)
deriving DecidableEq, Repr

/-- The fenceable units of Table 17.5; a lane set is a mask of lanes of one link. -/
inductive FenceUnit where
  | span (n : Fin 16)
  | mem (n : Fin 8)
  | lanes (l : Fin 4) (mask : BitVec 8)
  | link (l : Fin 4)
  | cxl (p : Fin 2)
deriving DecidableEq, Repr

/-- A block with a fault interface (R419). -/
inductive BlockId where
  | spn (n : Fin 16)
  | mem (n : Fin 8)
  | cxl (p : Fin 2)
  | lnk (l : Fin 4)
  | mesh
  | fe
  | mon
  | rng
deriving DecidableEq, Repr

/-- What the reads of a command meet in the arrays' cells (R358, R359, R388, R391, R397): a physical event. -/
inductive MemEvent where
  /-- A corrected error in a span array (array code of Table 13.5). -/
  | spanCe (n : Fin 16) (array : Fin 8) (word : Nat)
  /-- An uncorrectable error in a span array. -/
  | spanUe (n : Fin 16) (array : Fin 8) (word : Nat)
  /-- A GDDR7 granule that inline ECC corrects. -/
  | ramCe (addr : Nat)
  /-- A GDDR7 granule that inline ECC cannot correct. -/
  | ramUe (addr : Nat)
  /-- A burst of GDDR7 interface `i` whose link CRC mismatches `count` times; `holds` says whether the retrain after a fifth
  mismatch can hold the rate (R388, R392). -/
  | crc (i : Fin 16) (count : Fin 6) (holds : Bool)
  /-- A CXL read whose data the device returns poisoned (R397). -/
  | cxlPoison (addr : Nat)
  /-- A page of an encrypted CXL port whose tag fails on a read (R399). -/
  | cxlTag (p : Fin 2) (addr : Nat)
  /-- A hop error of the mesh that its code corrects (R380). -/
  | hopCe
  /-- A VC2 flit that takes a port's next slot ahead of every channel (R371). -/
  | vc2Promote
  /-- An error of the event store that its ECC corrects (R416). -/
  | storeCe
  /-- An error of an array of the front end that its ECC cannot correct (R416). -/
  | frontEndUe
  /-- An operation error of the cipher block or the key block (R416). -/
  | cipherError
deriving DecidableEq, Repr

/-- A flit header (Table 9.8), without the fields its kind fixes, and the symbols that the FEC corrected in a flit that
arrives (Table 22.7); those of a flit to be sent are 0. -/
structure FlitHdr where
  seq : BitVec 8
  ack : BitVec 8
  nak : Bool
  vc : BitVec 2
  dst : BitVec 12
  src : BitVec 12
  ttl : BitVec 8
  crVc : BitVec 2
  crCount : BitVec 6
  run : BitVec 16
  fec : Nat
deriving DecidableEq, Repr

/-- One record of a FLIP_BATCH (Table 9.10). -/
structure LinkFlip where
  index : BitVec 24
  replica : BitVec 8
  value : Bool
  initial : Bool
  undo : Bool
deriving DecidableEq, Repr

/-- The payload of a FLIP_BATCH. -/
structure FlipBatch where
  epoch : BitVec 64
  ef : BitVec 16
  batch : BitVec 16
  seen : BitVec 32
  records : List LinkFlip
deriving DecidableEq, Repr

/-- One entry of a FIELD_INC. -/
structure FieldIncEntry where
  slot : BitVec 20
  span : BitVec 4
  inc : BitVec 64
deriving DecidableEq, Repr

/-- The system values that a settle-done marker brings for the records of the parts (R236, R237; entry 26). -/
structure SettleFields where
  best : BitVec 16
  energy : BitVec 64
  comp : BitVec 16
  rescales : BitVec 8
  rxAttempts : BitVec 32
  rxAccepts : BitVec 32
  flags : BitVec 3
  status : BitVec 16
deriving DecidableEq, Repr

/-- The payload of an EPOCH_MARKER message (all its subtypes). -/
structure Marker where
  number : BitVec 64
  batches : BitVec 32
  ef : BitVec 16
  cause : BitVec 8
  seen : BitVec 32
  k : BitVec 32
  replicas : BitVec 16
  mismatch : BitVec 16
  schedCrc : BitVec 32
  settle : SettleFields
deriving DecidableEq, Repr

/-- A reduction entry (Table 7.6). -/
structure RedEntry where
  value : BitVec 64
  comp : BitVec 16
  exp : BitVec 8
  index : BitVec 32
deriving DecidableEq, Repr

/-- What a march test found in one array of a span: `rows` failing rows in one bank of array `array`. -/
structure MarchFinding where
  span : Fin 16
  array : Fin 8
  bank : Fin 128
  rows : Nat
deriving DecidableEq, Repr

/-- The cryptographic check of one signed object that the model does not compute (R459; entry 8): its signature verifies. -/
structure ObjChecks where
  sigOk : Bool
deriving DecidableEq, Repr

/-- What the signed configuration block sets (R8, R22, R399, R416, R450, R491). -/
structure ConfigBlock where
  eccOn : Bool
  cxlEnc : Bool
  linkEnable : BitVec 4
  linkEnc : BitVec 4
  /-- Default severities other than those of Table 17.2: block, source, severity. -/
  severities : List (BlockId × Nat × Nat)
  personal : List Byte
deriving DecidableEq, Repr

/-- What CXL enumeration finds on one port (R395, R396). -/
structure CxlDevice where
  present : Bool
  type3 : Bool
  capBytes : Nat
  width : BitVec 3
  speed : BitVec 3
  trained : Bool
deriving DecidableEq, Repr

/-- A change of the MSI-X configuration (R409). -/
inductive MsixChange where
  | enable (b : Bool)
  | functionMask (b : Bool)
  | vectorMask (v : Fin 2048) (b : Bool)
deriving DecidableEq, Repr

/-- The speed and mode at which the host link trains (R401): the code of `DEV_PCIE_STATUS.speed`, and whether the link is in
flit mode; at 64 GT/s it always is (entry 16). -/
structure HostLink where
  speed : Fin 6
  flit : Bool
deriving DecidableEq, Repr

/-- A link in training, and its CBL_PRSNT_N as DETECT samples it (R501). -/
structure LinkDetect where
  link : Fin 4
  cable : Bool
deriving DecidableEq, Repr

/-- Which flip flit of a source arrives (R368): the oldest, or the oldest of those that entered under the newest tables. -/
structure FlitPick where
  source : Fin 20
  newest : Bool
deriving DecidableEq, Repr

/-- A write of configuration space that the model follows (R403, R404, R411, R412). -/
inductive ConfigWrite where
  | bar0Base (addr : BitVec 64)
  | bar2Base (addr : BitVec 64)
  | bar2Size (log2 : Nat)
  | busMaster (b : Bool)
  | maxPayload (bytes : Nat)
  | maxReadRequest (bytes : Nat)
  | completionTimeout (ms : Nat)
deriving DecidableEq, Repr

/-- A router that fails, and the places in the list of VC1 flits of those that are inside it (R381). -/
structure RouterLoss where
  router : Fin 36
  inside : List Nat
deriving DecidableEq, Repr

/-- How a device request to the host fails to complete (R412). -/
inductive HostError where
  | timeout
  | completer
  | poisoned
deriving DecidableEq, Repr

/-- The bit of `DEV_HERR` for a read of the host that fails (R412). -/
def HostError.bit : HostError → Nat
  | .timeout => 4
  | .completer => 5
  | .poisoned => 6

/-- How a read ends that its target does not answer: the host's failure (R412), or a CXL device that gives no response (R398). -/
inductive ReadFail where
  | host (how : HostError)
  | cxl
deriving DecidableEq, Repr

/-- What requested a read: a DMA tag of a span, a context's fetch, the read of its batch task's descriptor, its command in
execution (R412), or another module by the DMA_RD with these fields (R247). -/
inductive HostReader where
  | dma (n : Fin 16) (tag : Fin 32)
  | fetch (c : Fin 1024)
  | descriptor (c : Fin 1024)
  | command (c : Fin 1024)
  | linkRead (l : Fin 4) (h : FlitHdr) (addr : BitVec 64) (length tag : BitVec 16)
deriving DecidableEq, Repr

/-- What requested an access to a CXL device (R398): a reader, an atomic of a span, the host through BAR2, another module by
the message with these fields, or the sweep engine of a span. -/
inductive CxlRequester where
  | reader (r : HostReader)
  | atomic (n : Fin 16)
  | bar2Read (offset : BitVec 38) (enables : List Bool)
  | bar2Write (offset : BitVec 38) (data : List (Option Byte))
  | linkWrite (l : Fin 4) (h : FlitHdr) (addr : BitVec 64) (tag : BitVec 16) (reply : Bool) (data : List Byte)
  | linkAtadd (l : Fin 4) (h : FlitHdr) (addr : BitVec 48) (wide : Bool) (tag : BitVec 16) (value : BitVec 64)
  | linkMinIndex (l : Fin 4) (h : FlitHdr) (addr : BitVec 64) (least : Bool) (tag : BitVec 16) (entry : RedEntry)
  | sweep (n : Fin 16)
deriving DecidableEq, Repr

/-- A request to a CXL port that gets no response within 1 ms (R398), with the address of the access that gets none. -/
structure CxlRequest where
  port : Fin 2
  requester : CxlRequester
  addr : BitVec 48
deriving DecidableEq, Repr

/-- A debug-unlock token (Table 18.6) with the outcome of its signature check. -/
structure Token where
  magic : BitVec 32
  version : BitVec 16
  level : BitVec 16
  device : BitVec 256
  challenge : BitVec 256
  sigOk : Bool
deriving DecidableEq, Repr

/-- The kinds of signed object: extension image and configuration block (R458). -/
inductive ObjKind where
  | image
  | config
deriving DecidableEq, Repr

end Sys2Proof
end

