-- ==== Sys2Proof/Syntax.lean ====
section
/-! DEFINITION. The commands of the block: one constructor for each row of spec/opcode_table.json, in the table's
order. An operand names the unit a command acts in or carries what comes from outside; what the unit itself
holds (a packet of a ring, a word of an instruction buffer) is read from the state.
-/

namespace Sys2Proof

/-- A command of the module. -/
inductive Instr where
  /-- `LAUNCH` (R278): Host command that sends one launch to each span in its mask and completes when every
  launched pier has halted or faulted. -/
  | launch (c : Fin 1024)
  /-- `CONST` (R277): Host command that replaces the context's 256-byte constant buffer used by later launches. -/
  | constBuf (c : Fin 1024)
  /-- `EVREC` (R294): Host command that sets or adds a value on an event, optionally with the error flag. -/
  | evrec (c : Fin 1024)
  /-- `EVWAIT` (R295): Host command that waits until an event reaches a target value, with an optional timeout. -/
  | evwait (c : Fin 1024)
  /-- `COPY` (R279): Host command that copies memory in up to 64 parts spread over the DMA engines of the unfenced
  spans. -/
  | copy (c : Fin 1024)
  /-- `FILL` (R279): Host command that fills memory with a 64-bit pattern in parts spread over the span DMA
  engines. -/
  | fill (c : Fin 1024)
  /-- `PLOAD` (R281): Host command that runs the loader's seven stages on a problem image and writes the load
  report. -/
  | pload (c : Fin 1024)
  /-- `PFREE` (R281): Host command that marks a problem as freeing and completes once its runs that had already
  started have ended. -/
  | pfree (c : Fin 1024)
  /-- `ANNEAL` (R283): Host command that starts an anneal run of a loaded problem under a named SCHED section. -/
  | anneal (c : Fin 1024)
  /-- `ANNEAL_BATCH` (R290): Host command that starts a persistent task which takes run descriptors from a work
  queue in device memory. -/
  | annealBatch (c : Fin 1024)
  /-- `BATCH_DESCRIPTOR_TAKE` (R290): The batch task takes the next descriptor once the work event's value exceeds
  the count of consumed descriptors. -/
  | batchDescriptorTake (c : Fin 1024)
  /-- `END` (R292): Batch descriptor with opcode 0x00 that ends the ANNEAL_BATCH task. -/
  | endDescriptor (c : Fin 1024)
  /-- `SAMPLE` (R283): Host command that starts a sample run which writes samples to a buffer at a fixed sweep
  interval. -/
  | sample (c : Fin 1024)
  /-- `EVAL` (R286): Host command that writes the exact energy of each supplied state at the e_f in use at load. -/
  | eval (c : Fin 1024)
  /-- `CKPT` (R287): Host command that makes the executing run of a problem write a checkpoint at its next sweep
  boundary. -/
  | ckpt (c : Fin 1024)
  /-- `RESTORE` (R288): Host command that resumes a run from the valid checkpoint slot with the higher sequence. -/
  | restore (c : Fin 1024)
  /-- `MATMUL` (R273): Host command that computes a tensor product in chains of MMAs and converts the result. -/
  | matmul (c : Fin 1024)
  /-- `REDUCE` (R274): Host command that reduces a tensor by sum, max or min, across spans where the operand is
  split. -/
  | reduce (c : Fin 1024)
  /-- `EWISE` (R274): Host command that applies EWO to two tensors line by line. -/
  | ewise (c : Fin 1024)
  /-- `CONVERT` (R274): Host command that applies CVT to a tensor line by line, optionally transposing. -/
  | convert (c : Fin 1024)
  /-- `QSTOP` (R289): Host command that stops the executing run of a problem, optionally ending its batch task. -/
  | qstop (c : Fin 1024)
  /-- `NOPC` (R271): Host command that does nothing but complete. -/
  | nopc (c : Fin 1024)
  /-- `COMMAND_FETCH` (R264): The front end reads a published packet slot and checks its opcode and payload size. -/
  | commandFetch (c : Fin 1024)
  /-- `COMMAND_START` (R265): The front end starts a context's next command once the one before it has completed
  and every slot of the command is published, choosing among contexts by priority and then round-robin. -/
  | commandStart
  /-- `COMMAND_COMPLETION` (R269): At a command's completion the device makes its writes visible, then writes the
  completion entry, then performs the completion event, then raises the interrupt. -/
  | commandCompletion (c : Fin 1024)
  /-- `PIER_LAUNCH` (R275): A pier starts the next launch in its queue after the previous launch ends. -/
  | pierLaunch (n : Fin 16)
  /-- `CTX_DOORBELL` (R263): A host write of a new tail that publishes command slots, or stops the context with
  RING_ERR when the tail is invalid. -/
  | ctxDoorbell (c : Fin 1024) (tail : BitVec 32)
  /-- `CONTEXT_CREATE` (R258): A write of 1 to CTX_CTL.enable that creates a FREE context, or sets enable_pending
  while a destroy is in progress. -/
  | contextCreate (c : Fin 1024) (abort priority : Bool)
  /-- `CONTEXT_DESTROY` (R258): A write of 0 to CTX_CTL.enable that starts a destroy in DRAIN or ABORT mode. -/
  | contextDestroy (c : Fin 1024) (abort priority : Bool)
  /-- `DESTROY_ABORT` (R260): A write of 1 to CTX_CTL.abort during DRAINING that turns the destroy into ABORT
  mode. -/
  | destroyAbort (c : Fin 1024) (priority : Bool)
  /-- `RESUME` (R261): A write of 1 to CTX_CTL.resume that sets a STOPPED context ACTIVE so that fetching
  continues. -/
  | resume (c : Fin 1024) (abort priority : Bool)
  /-- `DESTROY_DONE` (R301): Once its drain or abort has finished, a destroy writes a DESTROY_DONE entry, sets
  destroy_done, raises the context's vector and frees the context. -/
  | destroyDone (c : Fin 1024)
  /-- `CTX_CPL_HEAD` (R268): A host write that consumes completion entries and frees room so a held context can
  continue. -/
  | ctxCplHead (c : Fin 1024) (head : BitVec 32)
  /-- `EVT_VALUE` (R294): A host write that sets an event's value and retests the waits on that event. -/
  | evtValue (e : BitVec 16) (value : BitVec 64)
  /-- `EVT_ADD` (R294): A host write that adds a value to an event and retests the waits on that event. -/
  | evtAdd (e : BitVec 16) (value : BitVec 32)
  /-- `EVT_ERROR_CLEAR` (R294): A host write of 1 to EVT_CTL.error that clears the event's error bit. -/
  | evtErrorClear (e : BitVec 16)
  /-- `FLT_ACK` (R426): A write of 1 to FLT_ACK.ack inside the escalation window stops the timer and returns the
  state to NORMAL. -/
  | fltAck
  /-- `DEV_TIME_SET` (R472): A write that sets a pending TIME_SEC value to be taken at the next rollover. -/
  | devTimeSet (sec : BitVec 32)
  /-- `DEV_SOFT_RESET` (R494): A write of 1 to DEV_RESET.soft that clears contexts, runs, events and problems and
  resets every unfenced span. -/
  | devSoftReset
  /-- `SPAN_RESET` (R495): A write of 1 to SPN_CTL.reset that resets an idle span's pier and registers, or records
  the refusal. -/
  | spanReset (n : Fin 16)
  /-- `MARCH_TEST_REQUEST` (R364): A write of 1 to SPN_MARCH_CTL.start that runs a destructive or preserving march
  test on an idle span, or records the refusal. -/
  | marchTestRequest (n : Fin 16) (preserve : Bool)
  /-- `MEM_RETRAIN` (R392): A write of 1 to MEM_CTL.retrain that requests a full retrain of a GDDR7 interface. -/
  | memRetrain (i : Fin 16) (holds : Bool)
  /-- `RNG_RESEED_REQUEST` (R451): A write of 1 to RNG_CTL.reseed that requests a DRBG reseed. -/
  | rngReseedRequest
  /-- `RNG_WORD` (R454): An 8-byte read that returns 32 bits of fresh DRBG output with their status, consuming
  that output. -/
  | rngWord
  /-- `LINK_ENABLE` (R528): A write of 1 to LNK_CTL.enable in state DISABLED that starts link training. -/
  | linkEnable (l : Fin 4) (fwdEn dateline : Bool)
  /-- `LINK_DISABLE` (R528): A write of 0 to LNK_CTL.enable that sends DOWN with cause 0 from an ACTIVE link and
  disables it. -/
  | linkDisable (l : Fin 4) (fwdEn dateline : Bool)
  /-- `LINK_RETRAIN` (R526): A write of 1 to LNK_CTL.retrain that retrains the link from DETECT. -/
  | linkRetrain (l : Fin 4)
  /-- `FLT_QUEUE_CLEAR` (R419): A write of 1 to <P>_FLT_QCTL.clear that empties a block's fault history queue. -/
  | fltQueueClear (b : BlockId)
  /-- `MSIX_UNMASK` (R409): A configuration change that lets a vector send, so that its pending bit produces one
  message and is cleared. -/
  | msixUnmask (m : MsixChange)
  /-- `D3HOT` (R402): A power-state change into or out of D3hot that stops or resumes BAR decoding and changes
  nothing else. -/
  | d3hot (enter : Bool)
  /-- `REGISTER_WRITE` (R517): A host write to a BAR0 register that has no row of its own, applied under its
  access code. -/
  | registerWrite (offset : BitVec 26) (bytes : Nat) (value : BitVec 64)
  /-- `BAR2_READ` (R406): A host read through BAR2 that reaches the device address its window maps, or is answered
  as unmapped, fenced or poisoned. -/
  | bar2Read (offset : BitVec 38) (enables : List Bool) (events : List MemEvent)
  /-- `BAR2_WRITE` (R406): A host write through BAR2 that takes effect at the owner of its device address, or is
  discarded. -/
  | bar2Write (offset : BitVec 38) (data : List (Option Byte)) (events : List MemEvent)
  /-- `STALL_REPORT` (R525): Status request that returns a bitmap of the stalled contexts. -/
  | stallReport (p : Port)
  /-- `FENCE_STATUS` (R525): Status request that returns the fenced units. -/
  | fenceStatus (p : Port)
  /-- `FAULT_STATE` (R525): Status request that returns the fault state, the recovery counter and the timers. -/
  | faultState (p : Port)
  /-- `FW_VERSION` (R525): Status request that returns the firmware versions and anti-rollback counters. -/
  | fwVersion (p : Port)
  /-- `RNG_READ` (R453): Management request that returns DRBG output, waiting while the RNG is STARTING. -/
  | rngRead (p : Port) (length : BitVec 12)
  /-- `FW_WRITE` (R461): Management request that writes up to 4,096 bytes into the slot that is not running. -/
  | fwWrite (p : Port) (k : ObjKind) (slot : Fin 2) (offset : Nat) (data : List Byte)
  /-- `FW_VERIFY` (R461): Management request that checks a slot as the boot ROM would and returns the result. -/
  | fwVerify (p : Port) (k : ObjKind) (checks : ObjChecks)
  /-- `FW_COMMIT` (R460): Management request that raises a kind's anti-rollback counter to the running object's
  security version. -/
  | fwCommit (p : Port) (k : ObjKind)
  /-- `SELF_TEST` (R446): Management request that reruns the known-answer tests, entering the self-test error
  state on a failure. -/
  | selfTest (p : Port) (pass : Bool)
  /-- `SET_SEVERITY` (R416): Management request that changes the severity of a fault source that is not fixed. -/
  | setSeverity (p : Port) (b : BlockId) (source : Fin 32) (severity : Fin 4)
  /-- `FENCE_UNIT` (R424): Management request that fences a named unit. -/
  | fenceUnit (p : Port) (u : FenceUnit)
  /-- `SET_FLT_PARAM` (R432): Management request that sets the escalation time, quiet period or recovery limit. -/
  | setFltParam (p : Port) (escMs quietMs limit window : Option Nat)
  /-- `KEY_INSTALL` (R457): Management request that writes a link key and salt into an idle key slot and returns a
  key check value. -/
  | keyInstall (p : Port) (l : Fin 4) (receive : Bool) (slot : Fin 2) (key : BitVec 256) (salt : BitVec 32)
  /-- `LINK_KEY_SWITCH` (R457): Management request that makes a link transmitter send KEY_SWITCH for its other key
  slot. -/
  | linkKeySwitch (p : Port) (l : Fin 4)
  /-- `KEY_ZEROIZE` (R457): Management request that clears the named key slots, taking down any link whose key in
  use is cleared. -/
  | keyZeroize (p : Port) (slots : BitVec 18)
  /-- `DRBG_RESEED` (R451): Management request that reseeds the DRBG with optional additional input. -/
  | drbgReseed (p : Port) (input : List Byte)
  /-- `DRBG_INSTANTIATE` (R450): Management request that instantiates the DRBG again with a new personalisation
  string. -/
  | drbgInstantiate (p : Port) (personal : List Byte)
  /-- `ATTEST` (R463): Management request that returns a signed attestation report over a nonce. -/
  | attest (p : Port) (nonce : BitVec 256)
  /-- `GET_IDENTITY` (R462): Management request that returns the device identity. -/
  | getIdentity (p : Port)
  /-- `DEBUG_CHALLENGE` (R466): Management request that returns a fresh 32-byte challenge from the DRBG. -/
  | debugChallenge (p : Port)
  /-- `DEBUG_UNLOCK` (R467): Management request that verifies a token and, on success, zeroizes the keys, leaves
  approved mode and opens J8. -/
  | debugUnlock (p : Port) (t : Token)
  /-- `NOP` (R305): Span instruction that does nothing. -/
  | nop (n : Fin 16)
  /-- `HALT` (R311): Span instruction that ends the launch once every earlier instruction has completed. -/
  | halt (n : Fin 16)
  /-- `ENDLP` (R310): Span instruction that ends a loop iteration and either returns to the loop start or pops the
  loop entry. -/
  | endlp (n : Fin 16)
  /-- `BR` (R309): Span instruction that branches to PC plus an offset. -/
  | br (n : Fin 16)
  /-- `BRC` (R309): Span instruction that branches when a register meets its condition. -/
  | brc (n : Fin 16)
  /-- `LOOP` (R310): Span instruction that pushes a counted loop onto the loop stack, or skips the body when the
  count is 0. -/
  | loop (n : Fin 16)
  /-- `SETI` (R312): Span instruction that sets a register, or its upper half, from an immediate. -/
  | seti (n : Fin 16)
  /-- `ADDI` (R312): Span instruction that adds a sign-extended immediate to a register. -/
  | addi (n : Fin 16)
  /-- `ALU` (R313): Span instruction that applies an ALU function to two registers. -/
  | alu (n : Fin 16)
  /-- `LDC` (R314): Span instruction that loads a constant from the buffer into a register. -/
  | ldc (n : Fin 16)
  /-- `RDTIME` (R315): Span instruction that reads the time counter or the span's cycle counter. -/
  | rdtime (n : Fin 16)
  /-- `SPAN_EVREC` (R316): Span instruction that, once every earlier instruction has completed, has FE perform an
  event operation. -/
  | spanEvrec (n : Fin 16)
  /-- `SPAN_EVWAIT` (R317): Span instruction that waits for an event to reach a target and writes the outcome to a
  register. -/
  | spanEvwait (n : Fin 16)
  /-- `BARRIER` (R318): Span instruction that completes when every span in its mask has arrived at the same
  barrier id. -/
  | barrier (n : Fin 16)
  /-- `FENCE` (R319): Span instruction that waits for every earlier instruction of the named classes to complete. -/
  | fence (n : Fin 16)
  /-- `DMA` (R320): Span instruction that starts a copy between two device addresses on a DMA tag. -/
  | dma (n : Fin 16)
  /-- `DMA_COMPLETE` (R320): A DMA ends when its last byte is written or it meets an error, and its tag becomes
  idle. -/
  | dmaComplete (n : Fin 16) (tag : Fin 32) (events : List MemEvent)
  /-- `DMAW` (R322): Span instruction that waits for the named tags to go idle and reports their errors, faulting
  on request. -/
  | dmaw (n : Fin 16)
  /-- `ATADD` (R324): Span instruction that adds atomically at the owner of a scratchpad, GDDR7 or CXL word,
  saturating at the limits. -/
  | atadd (n : Fin 16)
  /-- `ATSWP` (R324): Span instruction that swaps a word atomically and returns the previous contents. -/
  | atswp (n : Fin 16)
  /-- `BSET` (R325): Span instruction that atomically sets bits of a scratchpad word. -/
  | bset (n : Fin 16)
  /-- `BCLR` (R325): Span instruction that atomically clears bits of a scratchpad word. -/
  | bclr (n : Fin 16)
  /-- `MCAST` (R326): Span instruction that copies scratchpad units to the scratchpads of the spans in a mask. -/
  | mcast (n : Fin 16)
  /-- `DELIVERY_NOTICE` (R377): A delivery notice for an MCAST branch arrives at the source, which frees the slot
  when every branch is answered. -/
  | deliveryNotice (n : Fin 16) (slot : Fin 4) (target : Fin 16)
  /-- `CANCEL_NOTICE` (R379): A fenced span's router answers a discarded branch or request with status FENCED. -/
  | cancelNotice (n : Fin 16) (slot : Fin 4) (target : Fin 16)
  /-- `MMA` (R333): Span instruction that multiplies and accumulates into a tile in each cell of a set. -/
  | mma (n : Fin 16)
  /-- `MMAZ` (R333): Span instruction that zeroes a tile with a given exponent and then multiplies and accumulates
  into it. -/
  | mmaz (n : Fin 16)
  /-- `ACCZ` (R334): Span instruction that zeroes a tile and sets its exponent. -/
  | accz (n : Fin 16)
  /-- `RED` (R335): Span instruction that reduces tiles, or a vector of reduction entries, by sum, max or min. -/
  | red (n : Fin 16)
  /-- `ACCMV` (R336): Span instruction that converts tile entries into an output tensor, optionally combining them
  with Y and clearing the tile. -/
  | accmv (n : Fin 16)
  /-- `CVT` (R337): Span instruction that converts a scratchpad tensor, optionally transposing it. -/
  | cvt (n : Fin 16)
  /-- `EWO` (R337): Span instruction that combines two scratchpad tensors element by element. -/
  | ewo (n : Fin 16)
  /-- `FLDC_ACCUMULATE` (R344): Span instruction that accumulates coupling rows against values gathered from the
  deck into tiles. -/
  | fldcAccumulate (n : Fin 16)
  /-- `FLDC_COMMIT_ADD` (R345): Span instruction that adds tile entries into field-store slots. -/
  | fldcCommitAdd (n : Fin 16)
  /-- `FLDC_COMMIT_SET` (R345): Span instruction that replaces field-store slots with tile entries. -/
  | fldcCommitSet (n : Fin 16)
  /-- `GIBBS` (R347): Span instruction that decides every tile entry as a heat-bath Gibbs update and writes the
  new state bits. -/
  | gibbs (n : Fin 16)
  /-- `SCHED_BIND` (R339): Span instruction that binds a run from a run block and performs the run start in every
  span of the problem. -/
  | schedBind (n : Fin 16)
  /-- `SWEEP` (R341): Anneal instruction that runs epochs 0 to K − 1 of a sweep, then the flush and the settle. -/
  | sweep (n : Fin 16)
  /-- `FREF` (R148): Anneal instruction that performs the periodic or pending field refresh at the sweep boundary. -/
  | fref (n : Fin 16)
  /-- `EAUD` (R147): Anneal instruction that performs the energy audit at the sweep boundary. -/
  | eaud (n : Fin 16)
  /-- `SNAP` (R146): Anneal instruction that performs the best-state check, the snapshot and the sample slot. -/
  | snap (n : Fin 16)
  /-- `XCHG` (R119): Anneal instruction that performs replica exchange at the sweep boundary. -/
  | xchg (n : Fin 16)
  /-- `SCHED_END` (R342): Anneal instruction that ends the run as COMPLETE or by a stop cause and writes the
  result record, or lets the run continue. -/
  | schedEnd (n : Fin 16)
  /-- `RMIG` (R152): Anneal instruction that performs the row-migration round when it is due. -/
  | rmig (n : Fin 16)
  /-- `WROT` (R209): Anneal instruction that performs a window rotation when it is due. -/
  | wrot (n : Fin 16)
  /-- `SCHED_NEXT` (R341): Anneal instruction that sets each replica's β for the next sweep and writes a
  checkpoint when due. -/
  | schedNext (n : Fin 16)
  /-- `ILLEGAL_OP` (R304): An instruction with an undefined opcode faults the pier at issue. -/
  | illegalOp (n : Fin 16)
  /-- `SPAN_EVWAIT_TIMEOUT` (R317): A span EVWAIT that is not satisfied within its timeout writes rd = 2. -/
  | spanEvwaitTimeout (n : Fin 16)
  /-- `WAIT_TIMEOUT` (R295): A host EVWAIT that is not satisfied within its timeout ends with WAIT_TIMEOUT and a
  capture record. -/
  | waitTimeout (c : Fin 1024)
  /-- `HANG_LIMIT` (R280): A command executing beyond the context's hang limit is stopped and completes with HUNG. -/
  | hangLimit (c : Fin 1024)
  /-- `BLOCK_DECIDE` (R124): Once its tile is loaded and its field read is served, a span decides one block and
  commits its accepted moves. -/
  | blockDecide (n : Fin 16) (events : List MemEvent)
  /-- `CONTINUATION` (R126): After a split marker or a group move ends a block's decisions, the later lanes are
  decided once the field store holds the updates. -/
  | continuation (n : Fin 16)
  /-- `BLOCK_REFRESH` (R166): A block whose truncation count has reached the threshold is recomputed exactly once
  its pending applications have landed. -/
  | blockRefresh (n : Fin 16)
  /-- `SPAN_FLIP_FLIT` (R33): A flip flit arrives at a span's flip-apply engine for application at a later
  boundary. Sources 0 to 15 are spans, and source 16 + l is link stop l. -/
  | spanFlipFlit (n : Fin 16) (source : FlitPick)
  /-- `SPAN_EPOCH_MARKER` (R33): A span's epoch-marker multicast arrives, carrying the flit counts that complete
  an epoch's records. -/
  | spanEpochMarker (n : Fin 16) (source : Fin 16)
  /-- `EPOCH_BOUNDARY` (R135): Once the epoch's records are complete, a span applies the records due at the
  boundary, with their corrections and undos. -/
  | epochBoundary (n : Fin 16)
  /-- `SWEEP_FLUSH` (R142): At the end of a sweep every span applies every record not yet applied and commits the
  undo epoch. -/
  | sweepFlush (n : Fin 16)
  /-- `SETTLE` (R145): The energy home adds the spans' partials exactly to form each replica's total. -/
  | settle (q : Fin 64)
  /-- `DEADLINE` (R150): The run's deadline instant passes, putting the deadline stop cause in force. -/
  | deadline (q : Fin 64)
  /-- `SPAN_HEARTBEAT_TIMEOUT` (R416): A span gives no answer to the keystone's heartbeat within 1 ms. -/
  | spanHeartbeatTimeout (n : Fin 16)
  /-- `SPAN_REMAP` (R435): At the re-map boundary the keystone re-places a fenced span's blocks from the buddy's
  shadow and recomputes the fields and totals. -/
  | spanRemap (q : Fin 64)
  /-- `SCRUB_PERIOD` (R360): The scrubber reads and corrects every ECC word of a span once per scrub period. -/
  | scrubPeriod (n : Fin 16) (events : List MemEvent)
  /-- `ROUTER_FAILURE` (R380): A router reports a parity error, or a neighbour receives an uncorrectable flit from
  it, and it is declared failed. -/
  | routerFailure (r : RouterLoss)
  /-- `CREDIT_TIMEOUT` (R380): A neighbour has received no credit from a router for 4 µs, and the router is
  declared failed. -/
  | creditTimeout (r : RouterLoss)
  /-- `DETOUR_INSTALL` (R381): The built detour tables are installed, and the spans resend the VC1 flits of
  unapplied epochs. -/
  | detourInstall (built : Bool) (routes : List (List (Fin 36)))
  /-- `MEM_PERIODIC_RETRAIN` (R392): Every 100 ms a GDDR7 interface retrains in its staggered slot. -/
  | memPeriodicRetrain (i : Fin 16) (holds : Bool)
  /-- `CXL_TIMEOUT` (R398): A CXL.mem request with no response within 1 ms completes FENCED. -/
  | cxlTimeout (p : CxlRequest)
  /-- `CXL_LINK_LOSS` (R398): A CXL port loses its link. -/
  | cxlLinkLoss (p : Fin 2)
  /-- `CPL_TIMEOUT` (R412): A device read to the host receives no completion within the Completion Timeout and
  ends as ADDR_ERR. -/
  | cplTimeout (reader : HostReader) (addr : BitVec 48) (how : HostError)
  /-- `FLR` (R413): A Function Level Reset clears contexts, runs, events and problems and resets the
  configuration. -/
  | flr
  /-- `PERST_N_ASSERT` (R487): Assertion of PERST_N holds the die in reset and ends every activity at once. -/
  | perstNAssert
  /-- `PERST_N_RELEASE` (R488): Release of PERST_N starts the boot stages. -/
  | perstNRelease (slotId : BitVec 4)
  /-- `PWR_EN_ASSERT` (R485): Assertion of PWR_EN powers the module, which asserts PWRGD. -/
  | pwrEnAssert
  /-- `PWR_EN_DEASSERT` (R486): Deassertion of PWR_EN switches the regulators off and deasserts PWRGD. -/
  | pwrEnDeassert
  /-- `VIN_UNDERVOLTAGE` (R486): VIN below 38 V for 1 ms switches the module off. -/
  | vinUndervoltage
  /-- `VIN_OVERVOLTAGE` (R506): At 62 V or above, the input switch opens and the module switches off. -/
  | vinOvervoltage
  /-- `PLL_LOCK_LOSS` (R470): Loss of main-PLL lock resets the die as a PERST_N does. -/
  | pllLockLoss
  /-- `THERMAL_TRIP` (R483): A die sensor at 115 °C makes the analog comparator remove every die and memory rail. -/
  | thermalTrip
  /-- `MAIN_PLL_LOCK` (R488): Boot stage 5: the main PLL locks, the keystone ROM starts and PCIe training begins. -/
  | mainPllLock (speed : HostLink) (width : Fin 5)
  /-- `KNOWN_ANSWER_TESTS` (R446): Boot stage 6: the PUF is read, the ROM is hashed and the known-answer tests
  run. -/
  | knownAnswerTests (pass identityOk : Bool)
  /-- `MARCH_TEST` (R361): Boot stage 7: all SRAM is march-tested and failing rows are repaired with spares. -/
  | marchTest (findings : List MarchFinding) (serviceFail : Bool)
  /-- `ENTROPY_STARTUP_TEST` (R449): Boot stage 8: the entropy start-up test selects the active source or fails
  the RNG. -/
  | entropyStartupTest (main fallback : BitVec 4096)
  /-- `IMAGE_VERIFICATION` (R459): Boot stage 9: the extension image and configuration block are verified and the
  DRBG is instantiated. -/
  | imageVerification (i0 i1 c0 c1 : ObjChecks) (cfg : ConfigBlock)
  /-- `GDDR7_TRAINING` (R387): Boot stage 10: every GDDR7 interface is trained, fencing pairs that fail. -/
  | gddr7Training (rates : List (Option (Fin 3)))
  /-- `CXL_ENUMERATION` (R396): Boot stage 11: the CXL ports are enumerated and the CXL window is mapped. -/
  | cxlEnumeration (p0 p1 : CxlDevice)
  /-- `ENTROPY_HEALTH_FAILURE` (R452): A continuous health-test failure makes the RNG FAILED and zeroizes the DRBG
  state. -/
  | entropyHealthFailure
  /-- `DRBG_AUTO_RESEED` (R451): The DRBG reseeds after 2^20 generate requests or 60 s since its last seed. -/
  | drbgAutoReseed
  /-- `DRBG_RESEED_DONE` (R451): A reseed completes and the requests that waited on it proceed. -/
  | drbgReseedDone
  /-- `ESCALATION_EXPIRY` (R426): The escalation window ends without an acknowledgement. -/
  | escalationExpiry
  /-- `QUIET_PERIOD_END` (R429): The quiet period passes and the device recovers from FAULT to NORMAL. -/
  | quietPeriodEnd
  /-- `WATCHDOG_EXPIRY` (R431): The keystone's hardware watchdog expires and the device latches in FAULT. -/
  | watchdogExpiry
  /-- `STALL_CHECK` (R296): Every 100 ms the stall monitor marks as stalled each context whose EVWAIT has waited 1
  s or more. -/
  | stallCheck
  /-- `EXCHANGE_TIMEOUT` (R241): A system part's wait for a marker, batch or settle message lasts
  exchange_timeout, and the part stops the run. -/
  | exchangeTimeout (q : Fin 64)
  /-- `THERMAL_CONTROL` (R481): Every 1 ms the thermal controller adjusts the throttle level from Tj. -/
  | thermalControl
  /-- `SENSOR_SAMPLE` (R477): Every 100 µs the temperature sensors are sampled, raising limit sources and setting
  THERM_N. -/
  | sensorSample (die mod : List Int)
  /-- `VOLTAGE_SAMPLE` (R478): Every 10 µs the voltage monitors check the rails against their windows. -/
  | voltageSample (mv : List Nat)
  /-- `PROCESS_MONITOR_WINDOW` (R479): Each process monitor reports its cycle count at the end of each 4,096-tick
  window. -/
  | processMonitorWindow (n : Fin 16) (count : BitVec 16)
  /-- `PPS_CAPTURE` (R474): A rising edge on PPS_IN is captured with the counter value at the capture tick. -/
  | ppsCapture
  /-- `PPS_ACCEPT` (R475): At the acceptance tick an accepted edge aligns or jumps the time counter. -/
  | ppsAccept
  /-- `PPS_LOST` (R476): With no edge accepted for 1.5 s, the PPS state becomes LOST. -/
  | ppsLost
  /-- `TIME_ROLLOVER` (R471): TIME_SUB rolls over and TIME_SEC increments, or takes a pending set value. -/
  | timeRollover
  /-- `ALIVE_TOGGLE` (R504): ALIVE_OUT toggles every 125,000 TCLK ticks. -/
  | aliveToggle
  /-- `FLIP_BATCH` (R228): A link message of flip records that is mapped to ghosts and delivered to the spans as
  flip flits. -/
  | flipBatch (l : Fin 4) (h : FlitHdr) (b : FlipBatch)
  /-- `FIELD_INC` (R248): A link message of field increments, applied at the receiving span's next epoch boundary. -/
  | fieldInc (l : Fin 4) (h : FlitHdr) (ef : BitVec 16) (entries : List FieldIncEntry)
  /-- `LINK_ATADD` (R238): A link message that performs an atomic add at the owner and returns the saturation
  indication. -/
  | linkAtadd (l : Fin 4) (h : FlitHdr) (addr : BitVec 48) (wide : Bool) (tag : BitVec 16) (value : BitVec 64)
  /-- `DMA_RD` (R248): A link message that reads memory and is answered by COMPLETION messages. -/
  | dmaRd (l : Fin 4) (h : FlitHdr) (addr : BitVec 64) (length : BitVec 16) (tag : BitVec 16)
  /-- `DMA_WR` (R248): A link message that writes memory, with an optional completion. -/
  | dmaWr (l : Fin 4) (h : FlitHdr) (addr : BitVec 64) (tag : BitVec 16) (reply : Bool) (data : List Byte)
  /-- `COMPLETION` (R248): A link message that returns the status and data of an earlier request. -/
  | completion (l : Fin 4) (h : FlitHdr) (tag : BitVec 16) (status : BitVec 8) (offset : BitVec 64) (data : List Byte)
  /-- `EVENT_SIGNAL` (R248): A link message that performs an event operation as EVREC does. -/
  | eventSignal (l : Fin 4) (h : FlitHdr) (e : BitVec 16) (add error : Bool) (value : BitVec 64)
  /-- `FWD_CMD` (R248): A link message that appends a command packet to a context's ring and rings its doorbell. -/
  | fwdCmd (l : Fin 4) (h : FlitHdr) (c : Fin 1024) (tag : BitVec 16) (packet : List Byte)
  /-- `EPOCH_MARKER` (R229): A link epoch marker that completes an import part's records of an epoch. -/
  | epochMarker (l : Fin 4) (h : FlitHdr) (m : Marker)
  /-- `SWEEP_END_MARKER` (R232): A link marker carrying the count of batches an import part sent in the sweep. -/
  | sweepEndMarker (l : Fin 4) (h : FlitHdr) (m : Marker)
  /-- `UNDO_END_MARKER` (R232): A link marker carrying the count of undo batches, which completes the flush. -/
  | undoEndMarker (l : Fin 4) (h : FlitHdr) (m : Marker)
  /-- `READY_MARKER` (R227): A child's ready marker for the system start, compared and combined up the settle
  tree. -/
  | readyMarker (l : Fin 4) (h : FlitHdr) (m : Marker)
  /-- `RUN_START_MARKER` (R227): A run-start marker, forwarded down the settle tree, that fixes K or reports a
  mismatch. -/
  | runStartMarker (l : Fin 4) (h : FlitHdr) (m : Marker)
  /-- `START_MARKER` (R227): An import part's start marker that completes its initial-value batches. -/
  | startMarker (l : Fin 4) (h : FlitHdr) (m : Marker)
  /-- `SETTLE_UP_MARKER` (R235): A child's settle-up marker announcing that its settle entries are written. -/
  | settleUpMarker (l : Fin 4) (h : FlitHdr) (m : Marker)
  /-- `SETTLE_DONE_MARKER` (R236): A parent's settle-done marker carrying the system e_f, the best replica and the
  end cause. -/
  | settleDoneMarker (l : Fin 4) (h : FlitHdr) (m : Marker)
  /-- `MIN_INDEX` (R238): A link message that compares a reduction entry with the owner's entry and keeps the
  winner. -/
  | minIndex (l : Fin 4) (h : FlitHdr) (addr : BitVec 64) (least : Bool) (tag : BitVec 16) (entry : RedEntry)
  /-- `PARAM` (R251): A link management message that exchanges the module ID and width during training. -/
  | param (l : Fin 4) (h : FlitHdr) (module : BitVec 12) (widthCap : BitVec 8) (enc : Bool)
  /-- `KEY_SWITCH` (R254): A link management message that names the flit count at which the other key slot takes
  effect. -/
  | keySwitch (l : Fin 4) (h : FlitHdr) (slot : Fin 2) (count : BitVec 64)
  /-- `DOWN` (R241): A link management message announcing that the partner's link is going down. -/
  | down (l : Fin 4) (h : FlitHdr) (cause : BitVec 8)
  /-- `WIDTH` (R252): A link management message announcing a new link width after a lane failure. -/
  | width (l : Fin 4) (h : FlitHdr) (code : BitVec 8) (lanes : BitVec 8)
  /-- `RETRAIN` (R252): A link management message that requests a retrain. -/
  | retrain (l : Fin 4) (h : FlitHdr)
  /-- `PING` (R247): A link management message carrying a timestamp, answered by PONG. -/
  | ping (l : Fin 4) (h : FlitHdr) (time : BitVec 64)
  /-- `PONG` (R247): A link management message answering PING with a timestamp. -/
  | pong (l : Fin 4) (h : FlitHdr) (time : BitVec 64)
  /-- `BAD_KIND` (R247): A flit of a reserved kind is dropped and counted, raising the protocol source. -/
  | badKind (l : Fin 4) (h : FlitHdr)
  /-- `FLIT_FORWARD` (R253): A flit for another module has its TTL decremented and leaves on the exit the route
  table names, or is dropped. -/
  | flitForward (l : Fin 4) (h : FlitHdr) (kind : BitVec 4) (aux : BitVec 8) (payload : List Byte)
  /-- `FLIT_DISCARD` (R250): A bad or out-of-order flit is discarded and nak is set until ack + 1 arrives. -/
  | flitDiscard (l : Fin 4) (h : FlitHdr) (tagFail : Bool) (uncorrectable : Bool)
  /-- `REPLAY_TIMEOUT` (R250): On a nak, or when the ack has not advanced for 2 µs, the transmitter resends from
  ack + 1. -/
  | replayTimeout (l : Fin 4)
  /-- `REPLAY_LIMIT` (R250): A flit resent 8 times makes the link retrain. -/
  | replayLimit (l : Fin 4)
  /-- `LANE_FAILURE` (R252): A lane loses lock or exceeds its corrected-symbol limit, and the link narrows or goes
  down. -/
  | laneFailure (l : Fin 4) (lanes : BitVec 8)
  /-- `LINK_TRAINING_ADVANCE` (R251): A link training state completes and the next state begins. -/
  | linkTrainingAdvance (l : LinkDetect)
  /-- `LINK_TRAINING_TIMEOUT` (R251): A link not ACTIVE 2 s after training starts is down and retries every 2 s. -/
  | linkTrainingTimeout (l : Fin 4)
  /-- `IDLE_FLIT` (R250): An IDLE flit arrives on a link, carrying the partner's ack, nak and returned credits. -/
  | idleFlit (l : Fin 4) (h : FlitHdr)
  /-- `INSTRUCTION_COMPLETION` (R306): A tensor, atomic, EVREC or other in-flight span instruction completes at
  its cells or owner, some cycles after issue. -/
  | instructionCompletion (n : Fin 16) (k : Fin 192)
  /-- `MARCH_TEST_DONE` (R364): A requested march test of one span ends after about 50 ms or 150 ms, setting
  passed or spares exhausted and letting launches for the span proceed. -/
  | marchTestDone (n : Fin 16) (findings : List MarchFinding)
  /-- `MEM_TEMPERATURE_CHANGE` (R393): The hotter GDDR7 device of an interface crosses 85 °C, 95 °C or 105 °C,
  changing the refresh rate or raising the over-temperature source. -/
  | memTemperatureChange (i : Fin 16) (temp : BitVec 8)
  /-- `VIN_RESTORED` (R483): 48 V is removed and restored after a thermal trip, and the module starts as at power-
  up. -/
  | vinRestored
  /-- `CONFIGURATION_WRITE` (R404): A configuration write sets the BAR2 size, Bus Master Enable, the payload and
  read-request sizes or the Completion Timeout. -/
  | configurationWrite (w : ConfigWrite)
  /-- `MANAGEMENT_RESPONSE_READ` (R465): The I3C controller reads a response, which releases MGMT_INT_N and frees
  the target for the next request. -/
  | managementResponseRead
  /-- `DYNAMIC_ADDRESS_ASSIGNMENT` (R465): An ENTDAA or SETDASA on the I3C bus gives the management port its
  dynamic address. -/
  | dynamicAddressAssignment (addr : BitVec 7)
deriving DecidableEq, Repr

end Sys2Proof
end

