-- ==== Sys2Proof/Decode.lean ====
section
/-! DEFINITION. Words and commands. No row of the command table has bits (entry 20), so `decodeTableWord` answers none.
The span instructions that the pier reads from its instruction buffer have words of 64 bits (R303): their decoder
and encoder stand here, written from Tables 11.3, 11.4, 11.6, 11.7, 12.3, 12.4, 12.6 and 12.8.
-/

namespace Sys2Proof

/-- The command that a word of the command table spells: the table gives no row bits (entry 20). -/
def decodeTableWord (_nbits _w : Nat) : Option Instr := none

/-- Field [lo + n - 1 : lo] of an instruction word. -/
def wfield (w : Word) (lo n : Nat) : BitVec n := w.extractLsb' lo n

/-- Bit `k` of an instruction word. -/
def wbit (w : Word) (k : Nat) : Bool := w.getLsbD k

/-- A field at its place in a word. -/
def wput {n : Nat} (lo : Nat) (v : BitVec n) : Word := v.setWidth 64 <<< lo

/-- A bit at its place in a word. -/
def wputBit (k : Nat) (b : Bool) : Word := wput k (BitVec.ofBool b)

/-- The cell set field [24:12] (R331). -/
def wcells (w : Word) : CellSet := ⟨wfield w 22 3, wfield w 19 3, wfield w 12 7⟩

/-- The cell set at its place. -/
def wputCells (c : CellSet) : Word := wput 22 c.gr ||| wput 19 c.gc ||| wput 12 c.first

/-- rd [55:51]. -/
def wrd (w : Word) : PReg := wfield w 51 5
/-- ra [50:46]. -/
def wra (w : Word) : PReg := wfield w 46 5
/-- rb [45:41]. -/
def wrb (w : Word) : PReg := wfield w 41 5
/-- rc [40:36]. -/
def wrc (w : Word) : PReg := wfield w 36 5

/-- The span instruction that a word holds, none for an undefined opcode (R304). -/
def decodeSpan (w : Word) : Option SpanInstr :=
  match (wfield w 56 8).toNat with
  | 0x00 => some .nop
  | 0x01 => some .halt
  | 0x02 => some (.br (wfield w 0 24))
  | 0x03 => some (.brc (wra w) (wfield w 24 4) (wfield w 0 24))
  | 0x04 => some (.loop (wra w) (wfield w 0 24))
  | 0x05 => some .endlp
  | 0x08 => some (.seti (wrd w) (wbit w 32) (wfield w 0 32))
  | 0x09 => some (.addi (wrd w) (wra w) (wfield w 0 32))
  | 0x0A => some (.alu (wrd w) (wra w) (wrb w) (wfield w 0 6))
  | 0x0B => some (.ldc (wrd w) (wfield w 8 2) (wfield w 0 6))
  | 0x0C => some (.rdtime (wrd w) (wfield w 0 6))
  | 0x10 => some (.evrec (wrb w) (wbit w 17) (wbit w 16) (wfield w 0 16))
  | 0x11 => some (.evwait (wrd w) (wrb w) (wfield w 20 20) (wfield w 0 16))
  | 0x12 => some (.barrier (wrd w) (wfield w 20 8) (wfield w 0 16))
  | 0x13 => some (.fence (wfield w 0 4))
  | 0x20 => some (.dma (wra w) (wrb w) (wrc w) (wfield w 0 5))
  | 0x21 => some (.dmaw (wrd w) (wbit w 32) (wfield w 0 32))
  | 0x22 => some (.atadd (wrd w) (wra w) (wrb w) (wbit w 1) (wbit w 0))
  | 0x23 => some (.atswp (wrd w) (wra w) (wrb w) (wbit w 0))
  | 0x24 => some (.bset (wrd w) (wra w) (wrb w) (wbit w 1))
  | 0x25 => some (.bclr (wrd w) (wra w) (wrb w) (wbit w 1))
  | 0x26 => some (.mcast (wrd w) (wra w) (wrb w) (wfield w 0 6))
  | 0x30 => some (.mma (wrd w) (wra w) (wrb w) (wfield w 29 4) (wfield w 27 2) (wbit w 26) (wbit w 25) (wcells w)
      (wfield w 0 9))
  | 0x31 => some (.mmaz (wrd w) (wra w) (wrb w) (wfield w 33 8) (wfield w 29 4) (wfield w 27 2) (wbit w 26)
      (wbit w 25) (wcells w) (wfield w 0 9))
  | 0x32 => some (.red (wrd w) (wra w) (wrb w) (wfield w 27 2) (wfield w 25 2) (wcells w) (wfield w 0 2))
  | 0x33 => some (.ewo (wrd w) (wra w) (wrb w) (wrc w) (wfield w 32 4) (wfield w 28 4) (wfield w 24 4)
      (wfield w 16 8) (wbit w 15) (wfield w 0 2))
  | 0x34 => some (.accmv (wrd w) (wra w) (wrb w) (wfield w 33 8) (wfield w 29 4) (wfield w 27 2) (wfield w 25 2)
      (wcells w) (wfield w 8 4) (wbit w 7) (wbit w 6))
  | 0x35 => some (.accz (wrd w) (wfield w 33 8) (wfield w 27 2) (wcells w))
  | 0x36 => some (.cvt (wra w) (wrb w) (wrc w) (wfield w 32 4) (wfield w 28 4) (wfield w 16 8) (wbit w 15))
  | 0x40 => some (.fldc (wrd w) (wra w) (wrb w) (wrc w) (wfield w 29 4) (wfield w 27 2) (wfield w 25 2) (wcells w)
      (wbit w 11) (wfield w 0 9))
  | 0x41 => some (.sweep (wrd w))
  | 0x42 => some (.fref (wrd w))
  | 0x43 => some (.xchg (wrd w))
  | 0x44 => some (.wrot (wrd w))
  | 0x45 => some (.snap (wrd w))
  | 0x46 => some (.gibbs (wrd w) (wra w) (wrb w) (wrc w) (wfield w 27 2) (wbit w 26) (wbit w 25) (wcells w)
      (wfield w 8 4))
  | 0x47 => some (.sched (wrd w) (wra w) (wfield w 8 3) (wfield w 0 2))
  | 0x48 => some (.eaud (wrd w))
  | 0x49 => some (.rmig (wrd w))
  | _ => none

/-- An opcode at its place. -/
def wop (o : Nat) : Word := wput 56 (BitVec.ofNat 8 o)

/-- The word of a span instruction, its reserved bits 0 (R303). -/
def encodeSpan : SpanInstr → Word
  | .nop => wop 0x00
  | .halt => wop 0x01
  | .br off => wop 0x02 ||| wput 0 off
  | .brc ra cond off => wop 0x03 ||| wput 46 ra ||| wput 24 cond ||| wput 0 off
  | .loop ra off => wop 0x04 ||| wput 46 ra ||| wput 0 off
  | .endlp => wop 0x05
  | .seti rd hi imm => wop 0x08 ||| wput 51 rd ||| wputBit 32 hi ||| wput 0 imm
  | .addi rd ra imm => wop 0x09 ||| wput 51 rd ||| wput 46 ra ||| wput 0 imm
  | .alu rd ra rb fn => wop 0x0A ||| wput 51 rd ||| wput 46 ra ||| wput 41 rb ||| wput 0 fn
  | .ldc rd mode n => wop 0x0B ||| wput 51 rd ||| wput 8 mode ||| wput 0 n
  | .rdtime rd src => wop 0x0C ||| wput 51 rd ||| wput 0 src
  | .evrec rb err op ev => wop 0x10 ||| wput 41 rb ||| wputBit 17 err ||| wputBit 16 op ||| wput 0 ev
  | .evwait rd rb timeout ev => wop 0x11 ||| wput 51 rd ||| wput 41 rb ||| wput 20 timeout ||| wput 0 ev
  | .barrier rd id mask => wop 0x12 ||| wput 51 rd ||| wput 20 id ||| wput 0 mask
  | .fence classes => wop 0x13 ||| wput 0 classes
  | .dma ra rb rc tag => wop 0x20 ||| wput 46 ra ||| wput 41 rb ||| wput 36 rc ||| wput 0 tag
  | .dmaw rd f mask => wop 0x21 ||| wput 51 rd ||| wputBit 32 f ||| wput 0 mask
  | .atadd rd ra rb ret wide =>
    wop 0x22 ||| wput 51 rd ||| wput 46 ra ||| wput 41 rb ||| wputBit 1 ret ||| wputBit 0 wide
  | .atswp rd ra rb wide => wop 0x23 ||| wput 51 rd ||| wput 46 ra ||| wput 41 rb ||| wputBit 0 wide
  | .bset rd ra rb ret => wop 0x24 ||| wput 51 rd ||| wput 46 ra ||| wput 41 rb ||| wputBit 1 ret
  | .bclr rd ra rb ret => wop 0x25 ||| wput 51 rd ||| wput 46 ra ||| wput 41 rb ||| wputBit 1 ret
  | .mcast rd ra rb n1 => wop 0x26 ||| wput 51 rd ||| wput 46 ra ||| wput 41 rb ||| wput 0 n1
  | .mma t ra rb pair shape neg s1b cells kq =>
    wop 0x30 ||| wput 51 t ||| wput 46 ra ||| wput 41 rb ||| wput 29 pair ||| wput 27 shape ||| wputBit 26 neg
      ||| wputBit 25 s1b ||| wputCells cells ||| wput 0 kq
  | .mmaz t ra rb e pair shape neg s1b cells kq =>
    wop 0x31 ||| wput 51 t ||| wput 46 ra ||| wput 41 rb ||| wput 33 e ||| wput 29 pair ||| wput 27 shape
      ||| wputBit 26 neg ||| wputBit 25 s1b ||| wputCells cells ||| wput 0 kq
  | .red t ra rb shape op cells axis =>
    wop 0x32 ||| wput 51 t ||| wput 46 ra ||| wput 41 rb ||| wput 27 shape ||| wput 25 op ||| wputCells cells
      ||| wput 0 axis
  | .ewo rz ra rb rc zfmt xfmt yfmt d ybc op =>
    wop 0x33 ||| wput 51 rz ||| wput 46 ra ||| wput 41 rb ||| wput 36 rc ||| wput 32 zfmt ||| wput 28 xfmt
      ||| wput 24 yfmt ||| wput 16 d ||| wputBit 15 ybc ||| wput 0 op
  | .accmv t ra rb d fmt shape op cells yfmt ybc clr =>
    wop 0x34 ||| wput 51 t ||| wput 46 ra ||| wput 41 rb ||| wput 33 d ||| wput 29 fmt ||| wput 27 shape
      ||| wput 25 op ||| wputCells cells ||| wput 8 yfmt ||| wputBit 7 ybc ||| wputBit 6 clr
  | .accz t e shape cells => wop 0x35 ||| wput 51 t ||| wput 33 e ||| wput 27 shape ||| wputCells cells
  | .cvt ra rb rc ofmt ifmt d tr =>
    wop 0x36 ||| wput 46 ra ||| wput 41 rb ||| wput 36 rc ||| wput 32 ofmt ||| wput 28 ifmt ||| wput 16 d
      ||| wputBit 15 tr
  | .fldc t ra rb rc pair shape op cells qubo kq =>
    wop 0x40 ||| wput 51 t ||| wput 46 ra ||| wput 41 rb ||| wput 36 rc ||| wput 29 pair ||| wput 27 shape
      ||| wput 25 op ||| wputCells cells ||| wputBit 11 qubo ||| wput 0 kq
  | .sweep rd => wop 0x41 ||| wput 51 rd
  | .fref rd => wop 0x42 ||| wput 51 rd
  | .xchg rd => wop 0x43 ||| wput 51 rd
  | .wrot rd => wop 0x44 ||| wput 51 rd
  | .snap rd => wop 0x45 ||| wput 51 rd
  | .gibbs t ra rb rc shape clr bias cells bfmt =>
    wop 0x46 ||| wput 51 t ||| wput 46 ra ||| wput 41 rb ||| wput 36 rc ||| wput 27 shape ||| wputBit 26 clr
      ||| wputBit 25 bias ||| wputCells cells ||| wput 8 bfmt
  | .sched rd ra t mode => wop 0x47 ||| wput 51 rd ||| wput 46 ra ||| wput 8 t ||| wput 0 mode
  | .eaud rd => wop 0x48 ||| wput 51 rd
  | .rmig rd => wop 0x49 ||| wput 51 rd

end Sys2Proof
end

