-- ==== Sys2Proof/Config.lean ====
section
/-! DEFINITION. What the module's silicon fixes and the spec does not state: free values, identity, and the contents of
the mask ROM. None of them has a body, so no proof can rest on a value of it.
-/

namespace Sys2Proof.Config

/-- The 64-bit words that stand for values the spec leaves open, raw samples of the entropy sources among them, one for
each value of the counter `State.free` (18 R447-R449; entry 9). -/
opaque freeWord : Nat → BitVec 64

/-- The eight bytes of the load report's B when B has more bits than they hold, for each such B (03 Table 3.9; entry 9). -/
opaque wideBound : Nat → BitVec 64

/-- The granule of external memory at an address holds an item of an array of a problem: the array's order in Table 8.1, its
section, the item (15 R391; entry 110). -/
opaque granuleHolds : Nat → Nat → Nat → Nat → Bool

/-- The contents of the mask ROM (18 R462, Table 18.4; entry 21). -/
opaque romImage : List Byte

/-- The SHAKE256 hash of the firmware verification key that the mask ROM holds (18 R458; entry 21). -/
opaque romAnchor : BitVec 256

/-- The 72-byte seed that the physical unclonable function and its helper data give (18 R462; entry 21). -/
opaque identitySeed : BitVec 576

/-- The code of each response status of the management port, in the order in which the rule names them (18 R465; entry 65). -/
opaque mgmtCode : Nat → Byte

/-- `DEV_REV.sample`, `hw_digit` and `hw_letter` (22 R520; entry 21). -/
opaque revision : BitVec 9

/-- The mask ROM version of FW_VERSION (22 R525; entry 21). -/
opaque romVersion : BitVec 32

end Sys2Proof.Config
end

