-- ==== Sys2Proof/Machine/Crypto.lean ====
section
/-! DEFINITION. The cryptographic services of the security block (18 Table 18.1) computed: AES-256, SHAKE256, KMAC256, the
block-cipher derivation function and CTR_DRBG of SP 800-90A with AES-256 (R448, R450, R451), and AES-256-GCM of SP 800-38D
(R254, R399, R456). The standards are PRESUMED from their own texts (entry 111); the spec names them.
-/

namespace Sys2Proof.Machine

/-! ### Health tests of raw samples (R447)

A sample is one bit; sample `i` is bit `i` of a number (entry 112). -/

/-- The repetition count test: among `n` samples, one value `c` times in a row. -/
def repeats (c n w : Nat) : Bool :=
  (List.range (n + 1 - c)).any (fun i => decide ((w >>> i) % 2 ^ c = 0) || decide ((w >>> i) % 2 ^ c = 2 ^ c - 1))

/-- The adaptive proportion test: in some window of 1,024 samples, the value of the first one `c` times or more. -/
def proportionHigh (c n w : Nat) : Bool :=
  (List.range (n / 1024)).any (fun k => decide (c ≤ ((List.range 1024).filter (fun i =>
    w.testBit (1024 * k + i) = w.testBit (1024 * k))).length))

/-- A health test fails. The cut-offs are C = 1 + ⌈20 / H⌉, and the c that the rule's binomial gives for H = 0.5 and 0.8. -/
def healthFails (fallback : Bool) (n w : Nat) : Bool :=
  repeats (if fallback then 26 else 41) n w || proportionHigh (if fallback then 664 else 793) n w

/-! ### Big-endian bytes -/

/-- The number that big-endian bytes spell. -/
def beNat (l : List Byte) : Nat := l.foldl (fun a b => 256 * a + b.toNat) 0

/-- `n` big-endian bytes of a number. -/
def beBytes : Nat → Nat → List Byte
  | 0, _ => []
  | n + 1, v => beBytes n (v / 256) ++ [BitVec.ofNat 8 v]

/-- The bytes of a block. -/
def blockBytes (b : BitVec 128) : List Byte := beBytes 16 b.toNat

/-- The blocks of a string, the last one filled with zeros. -/
def blocksOf (l : List Byte) : List (BitVec 128) :=
  (List.range (ceilDiv l.length 16)).map (fun i =>
    let b := (l.drop (16 * i)).take 16
    BitVec.ofNat 128 (beNat b * 256 ^ (16 - b.length)))

/-! ### AES-256 (FIPS 197) -/

/-- The S-box: byte `i` of the part of 64 bytes that a value lies in is the image of 64 times the part plus `i`. -/
def sboxPart : Nat → Nat
  | 0 => 0x75B227EBE28012079A059618C323C7041531D871F1E5A534CCF73F362693FDB7C072A49CAFA2D4ADF04759FA7DC982CA76ABD7FE2B670130C56F6BF27B777C63
  | 1 => 0xD2F3FF1021DAB6BCF5389D928F40A351A89F3C507F02F94585334D43FBAAEFD0CF584C4A39BECB6A5BB1FC20ED00D153842FE329B3D63B52A05A6E1B1A2C8309
  | 2 => 0x08AE7A65EAF4566CA94ED58D6D37C8E779E4959162ACD3C25C2406490A3A32E0DB0B5EDE14B8EE4688902A22DC4F816073195D643D7EA7C41744975FEC130CCD
  | _ => 0x16BB54B00F2D99416842E6BF0D89A18CDF2855CEE9871E9B948ED9691198F8E19E1DC186B95735610EF6034866B53E708A8BBD4B1F74DDE8C6B4A61C2E2578BA

/-- SubBytes on one byte. -/
def sbox (b : Byte) : Byte := BitVec.ofNat 8 (sboxPart (b.toNat / 64) >>> (8 * (b.toNat % 64)))

/-- The exclusive or of two strings. -/
def xorBytes (a b : List Byte) : List Byte := List.zipWith (fun x y => x ^^^ y) a b

/-- Multiplication by x in GF(2^8). -/
def xtime (b : Byte) : Byte := if b.getLsbD 7 then (b <<< 1) ^^^ 0x1B#8 else b <<< 1

/-- A byte of a string. -/
def byteAt (l : List Byte) (i : Nat) : Byte := l.getD i 0#8

/-- ShiftRows on a state of four columns. -/
def shiftRows (l : List Byte) : List Byte := (List.range 16).map (fun i => byteAt l (i % 4 + 4 * ((i / 4 + i % 4) % 4)))

/-- MixColumns. -/
def mixColumns (l : List Byte) : List Byte :=
  (List.range 16).map (fun i =>
    let at_ (k : Nat) : Byte := byteAt l (i / 4 * 4 + (i + k) % 4)
    xtime (at_ 0) ^^^ (xtime (at_ 1) ^^^ at_ 1) ^^^ at_ 2 ^^^ at_ 3)

/-- Word `i` of the key schedule from the words before it. -/
def keyWord (ws : List (List Byte)) (i : Nat) : List Byte :=
  let t := ws.getD (i - 1) []
  let u := if i % 8 = 0 then xorBytes ((t.drop 1 ++ t.take 1).map sbox) [BitVec.ofNat 8 (2 ^ (i / 8 - 1)), 0, 0, 0]
    else if i % 8 = 4 then t.map sbox else t
  xorBytes (ws.getD (i - 8) []) u

/-- The 60 words of the key schedule. -/
def keySchedule (key : List Byte) : List (List Byte) :=
  (List.range 52).foldl (fun ws k => ws ++ [keyWord ws (k + 8)]) ((List.range 8).map (fun i => (key.drop (4 * i)).take 4))

/-- AES-256: the encryption of a block under a key; the first byte of either is the most significant one. -/
def aes256 (key : BitVec 256) (block : BitVec 128) : BitVec 128 :=
  let ws := keySchedule (beBytes 32 key.toNat)
  let round (k : Nat) : List Byte := ((ws.drop (4 * k)).take 4).flatten
  let middle := (List.range 13).foldl (fun st k => xorBytes (mixColumns (shiftRows (st.map sbox))) (round (k + 1)))
    (xorBytes (blockBytes block) (round 0))
  BitVec.ofNat 128 (beNat (xorBytes (shiftRows (middle.map sbox)) (round 14)))

/-- The key that 32 bytes spell. -/
def aesKey (l : List Byte) : BitVec 256 := BitVec.ofNat 256 (beNat l)

/-! ### SHAKE256 and KMAC256 (FIPS 202, SP 800-185) -/

/-- The rotation of lane x + 5y. -/
def keccakRot : List Nat :=
  [0, 1, 62, 28, 27, 36, 44, 6, 55, 20, 3, 10, 43, 25, 39, 41, 45, 15, 21, 8, 18, 2, 61, 56, 14]

/-- The constants of the 24 rounds. -/
def keccakConst : List (BitVec 64) :=
  [0x1, 0x8082, 0x800000000000808A, 0x8000000080008000,
   0x808B, 0x80000001, 0x8000000080008081, 0x8000000000008009,
   0x8A, 0x88, 0x80008009, 0x8000000A,
   0x8000808B, 0x800000000000008B, 0x8000000000008089, 0x8000000000008003,
   0x8000000000008002, 0x8000000000000080, 0x800A, 0x800000008000000A,
   0x8000000080008081, 0x8000000000008080, 0x80000001, 0x8000000080008008]

/-- A lane of a state of 25. -/
def lane (a : List (BitVec 64)) (i : Nat) : BitVec 64 := a.getD i 0

/-- One round of Keccak-f[1600]. -/
def keccakRound (a : List (BitVec 64)) (rc : BitVec 64) : List (BitVec 64) :=
  let c := (List.range 5).map (fun x => lane a x ^^^ lane a (x + 5) ^^^ lane a (x + 10) ^^^ lane a (x + 15) ^^^ lane a (x + 20))
  let t := (List.range 25).map (fun i => lane a i ^^^ lane c ((i + 4) % 5) ^^^ (lane c ((i + 1) % 5)).rotateLeft 1)
  let b := (List.range 25).map (fun i =>
    let j := (i % 5 + 3 * (i / 5)) % 5 + 5 * (i % 5)
    (lane t j).rotateLeft (keccakRot.getD j 0))
  (List.range 25).map (fun i =>
    let row := i / 5 * 5
    let v := lane b i ^^^ (~~~(lane b (row + (i + 1) % 5)) &&& lane b (row + (i + 2) % 5))
    if i = 0 then v ^^^ rc else v)

/-- Keccak-f[1600]. -/
def keccakF (a : List (BitVec 64)) : List (BitVec 64) := keccakConst.foldl keccakRound a

/-- Bytes of a rate of 136: the sponge of capacity 512. -/
def rateBytes : Nat := 136

/-- The lane that eight bytes spell. -/
def laneOf (l : List Byte) : BitVec 64 := BitVec.ofNat 64 (beNat l.reverse)

/-- Absorb one block of the rate. -/
def absorb (a : List (BitVec 64)) (block : List Byte) : List (BitVec 64) :=
  keccakF ((List.range 25).map (fun i => lane a i ^^^ laneOf ((block.drop (8 * i)).take 8)))

/-- The string with its domain suffix and padding, in whole blocks. -/
def padded (suffix : Byte) (l : List Byte) : List Byte :=
  let fill := rateBytes - l.length % rateBytes
  l ++ (if fill = 1 then [suffix ||| 0x80#8] else [suffix] ++ List.replicate (fill - 2) 0#8 ++ [0x80#8])

/-- The bytes of the rate of a state. -/
def rateOf (a : List (BitVec 64)) : List Byte := (a.take 17).flatMap (fun v => (beBytes 8 v.toNat).reverse)

/-- `k` blocks of output. -/
def squeeze : Nat → List (BitVec 64) → List Byte
  | 0, _ => []
  | k + 1, a => rateOf a ++ squeeze k (keccakF a)

/-- `n` bytes of the sponge over a string with a domain suffix. -/
def sponge (suffix : Byte) (l : List Byte) (n : Nat) : List Byte :=
  let p := padded suffix l
  let a := (List.range (p.length / rateBytes)).foldl (fun a i => absorb a ((p.drop (rateBytes * i)).take rateBytes))
    (List.replicate 25 0)
  (squeeze (ceilDiv n rateBytes) a).take n

/-- The first `n` bytes of SHAKE256. -/
def shake (l : List Byte) (n : Nat) : List Byte := sponge 0x1F#8 l n

/-- The bytes of a number without leading zeros, at least one. -/
def numBytes (v : Nat) : List Byte := beBytes (max 1 (ceilDiv (Nat.log2 v + 1) 8)) v

/-- left_encode. -/
def leftEncode (v : Nat) : List Byte := BitVec.ofNat 8 (numBytes v).length :: numBytes v

/-- encode_string. -/
def encodeString (l : List Byte) : List Byte := leftEncode (8 * l.length) ++ l

/-- bytepad to the rate. -/
def bytepad (l : List Byte) : List Byte :=
  let p := leftEncode rateBytes ++ l
  p ++ List.replicate ((rateBytes - p.length % rateBytes) % rateBytes) 0#8

/-- KMAC256 of a string under a key, with 256 bits of output and a customisation string. -/
def kmac256 (key x custom : List Byte) : List Byte :=
  sponge 0x04#8
    (bytepad (encodeString [0x4B#8, 0x4D#8, 0x41#8, 0x43#8] ++ encodeString custom)
      ++ bytepad (encodeString key) ++ x ++ numBytes 256 ++ [BitVec.ofNat 8 (numBytes 256).length]) 32

/-! ### The derivation function (R448) -/

/-- BCC: the chaining of a string's blocks under a key. -/
def bcc (key : BitVec 256) (l : List Byte) : BitVec 128 :=
  (blocksOf l).foldl (fun c b => aes256 key (c ^^^ b)) 0

/-- The fixed key of the derivation function: the bytes 0 to 31. -/
def dfKey : BitVec 256 := BitVec.ofNat 256 (beNat ((List.range 32).map (BitVec.ofNat 8)))

/-- The string that the derivation function chains: lengths, input, 0x80. -/
def dfString (input : List Byte) : List Byte := beBytes 4 input.length ++ beBytes 4 48 ++ input ++ [0x80#8]

/-- Block_Cipher_df with 384 bits of output, as a number. -/
def blockCipherDf (input : List Byte) : BitVec 384 :=
  let t := (List.range 3).flatMap (fun i => blockBytes (bcc dfKey (beBytes 4 i ++ List.replicate 12 0#8 ++ dfString input)))
  let key : BitVec 256 := BitVec.ofNat 256 (beNat (t.take 32))
  let x : BitVec 128 := BitVec.ofNat 128 (beNat (t.drop 32))
  let x1 := aes256 key x
  let x2 := aes256 key x1
  let x3 := aes256 key x2
  x1 ++ x2 ++ x3

/-! ### CTR_DRBG (R450, R451) -/

/-- The state of the DRBG: Key and V. -/
structure Drbg where
  key : BitVec 256
  v : BitVec 128
deriving DecidableEq, Repr

/-- The zeroized state. -/
def drbg0 : Drbg := ⟨0, 0⟩

/-- CTR_DRBG_Update. -/
def Drbg.update (d : Drbg) (data : BitVec 384) : Drbg :=
  let t := (aes256 d.key (d.v + 1) ++ aes256 d.key (d.v + 2) ++ aes256 d.key (d.v + 3)) ^^^ data
  ⟨t.extractLsb' 128 256, t.extractLsb' 0 128⟩

/-- The instantiation from entropy input, nonce and personalisation string. -/
def Drbg.instantiate (entropy nonce personal : List Byte) : Drbg :=
  drbg0.update (blockCipherDf (entropy ++ nonce ++ personal))

/-- A reseed from entropy input and additional input. -/
def Drbg.reseed (d : Drbg) (entropy input : List Byte) : Drbg := d.update (blockCipherDf (entropy ++ input))

/-- One generate request of at most 64 bytes (R451). -/
def Drbg.request (d : Drbg) (n : Nat) : List Byte × Drbg :=
  let k := ceilDiv n 16
  (((List.range k).flatMap (fun i => blockBytes (aes256 d.key (d.v + BitVec.ofNat 128 (i + 1))))).take n,
   { d with v := d.v + BitVec.ofNat 128 k }.update 0)

/-- `k` generate requests that give `n` bytes, at most 64 each. -/
def Drbg.requests : Nat → Nat → Drbg → List Byte × Drbg
  | 0, _, d => ([], d)
  | k + 1, n, d =>
    let r := d.request (min n 64)
    let q := Drbg.requests k (n - 64) r.2
    (r.1 ++ q.1, q.2)

/-! ### AES-256-GCM (R254, R399, R456) -/

/-- The product of two blocks in GF(2^128), first bit first. -/
def gfMul (x y : BitVec 128) : BitVec 128 :=
  ((List.range 128).foldl (fun (zv : BitVec 128 × BitVec 128) i =>
    (if x.getMsbD i then zv.1 ^^^ zv.2 else zv.1,
     if zv.2.getLsbD 0 then (zv.2 >>> 1) ^^^ 0xE1000000000000000000000000000000#128 else zv.2 >>> 1)) (0, y)).1

/-- GHASH of blocks under a hash key. -/
def ghash (h : BitVec 128) (l : List (BitVec 128)) : BitVec 128 := l.foldl (fun c b => gfMul (c ^^^ b) h) 0

/-- The counter block of an IV of 96 bits. -/
def gcmBlock (iv : List Byte) (i : Nat) : BitVec 128 := BitVec.ofNat 128 (beNat iv * 2 ^ 32 + i)

/-- The string that the counter blocks from 2 on make of a string: its encryption, and of that again the string itself. -/
def gcmText (key : BitVec 256) (iv l : List Byte) : List Byte :=
  let pad := (List.range (ceilDiv l.length 16)).flatMap (fun i => blockBytes (aes256 key (gcmBlock iv (i + 2))))
  xorBytes l pad

/-- The 16-byte tag of a ciphertext and its additional data. -/
def gcmTag (key : BitVec 256) (iv aad text : List Byte) : List Byte :=
  let s := ghash (aes256 key 0)
    (blocksOf aad ++ blocksOf text ++ [BitVec.ofNat 128 (8 * aad.length * 2 ^ 64 + 8 * text.length)])
  blockBytes (s ^^^ aes256 key (gcmBlock iv 1))

/-! ### Other services -/

/-- The key check value of a key: the first 4 bytes of the encryption of a zero block (R457). -/
def keyCheck (key : List Byte) : List Byte := (blockBytes (aes256 (aesKey key) 0)).take 4

end Sys2Proof.Machine
end

