-- ==== Sys2Proof/Machine/Signature.lean ====
section
/-! DEFINITION. The module's identity (18 R462, R463): the key pair of SLH-DSA-SHAKE-192f and its deterministic signature, as
FIPS 205 defines them (PRESUMED from the standard's text; entry 111).
-/

namespace Sys2Proof.Machine

/-- An address of a hash: layer, tree, type, and the three words that the type gives a meaning. -/
structure Adrs where
  layer : Nat
  tree : Nat
  kind : Nat
  pair : Nat
  height : Nat
  index : Nat

/-- The 32 bytes of an address. -/
def Adrs.bytes (x : Adrs) : List Byte :=
  beBytes 4 x.layer ++ beBytes 12 x.tree ++ beBytes 4 x.kind ++ beBytes 4 x.pair ++ beBytes 4 x.height ++ beBytes 4 x.index

/-- The kinds of address. -/
def adrsWots : Nat := 0
/-- The public key of a one-time signature. -/
def adrsWotsPk : Nat := 1
/-- A node of a Merkle tree. -/
def adrsTree : Nat := 2
/-- A node of a FORS tree. -/
def adrsFors : Nat := 3
/-- The roots of the FORS trees. -/
def adrsForsRoots : Nat := 4
/-- A secret value of a one-time signature. -/
def adrsWotsPrf : Nat := 5
/-- A secret value of a FORS tree. -/
def adrsForsPrf : Nat := 6

/-- A key pair: SK.seed, SK.prf and PK.seed, of 24 bytes each. -/
structure SlhKey where
  skSeed : List Byte
  skPrf : List Byte
  pkSeed : List Byte

/-- Bytes of a hash value of the parameter set 192f. -/
def slhN : Nat := 24
/-- Layers of the hypertree. -/
def slhLayers : Nat := 22
/-- Height of a tree of it. -/
def slhHeight : Nat := 3
/-- Height of a FORS tree. -/
def forsHeight : Nat := 8
/-- FORS trees. -/
def forsTrees : Nat := 33

/-- The hash of a string at an address: F, H and T of the standard. -/
def SlhKey.hash (k : SlhKey) (x : Adrs) (m : List Byte) : List Byte := shake (k.pkSeed ++ x.bytes ++ m) slhN

/-- The secret value at an address. -/
def SlhKey.secret (k : SlhKey) (x : Adrs) : List Byte := k.hash x k.skSeed

/-- `steps` steps of a chain from step `i`. -/
def SlhKey.chain (k : SlhKey) (x : Adrs) : Nat → Nat → List Byte → List Byte
  | 0, _, v => v
  | steps + 1, i, v => k.chain x steps (i + 1) (k.hash { x with index := i } v)

/-- The 51 digits of a hash value: its nibbles, and those of their checksum. -/
def wotsDigits (m : List Byte) : List Nat :=
  let d := m.flatMap (fun b => [b.toNat / 16, b.toNat % 16])
  let c := (d.map (fun v => 15 - v)).sum
  d ++ [c / 256 % 16, c / 16 % 16, c % 16]

/-- The chain values of a one-time key at the given digits. -/
def SlhKey.wots (k : SlhKey) (x : Adrs) (digits : List Nat) : List (List Byte) :=
  digits.zipIdx.map (fun q =>
    k.chain { x with kind := adrsWots, height := q.2 } q.1 0 (k.secret { x with kind := adrsWotsPrf, height := q.2, index := 0 }))

/-- The public key of a one-time key. -/
def SlhKey.wotsPk (k : SlhKey) (x : Adrs) : List Byte :=
  k.hash { x with kind := adrsWotsPk, height := 0, index := 0 } (k.wots x (List.replicate 51 15)).flatten

/-- Node `i` at height `z` of the tree of an address. -/
def SlhKey.node (k : SlhKey) (x : Adrs) : Nat → Nat → List Byte
  | 0, i => k.wotsPk { x with pair := i }
  | z + 1, i =>
    k.hash { x with kind := adrsTree, pair := 0, height := z + 1, index := i } (k.node x z (2 * i) ++ k.node x z (2 * i + 1))

/-- The sibling of a node at a height on the way from a leaf. -/
def sibling (leaf j : Nat) : Nat := (leaf / 2 ^ j) ^^^ 1

/-- The signature of one tree over a hash value: the one-time signature and the path. -/
def SlhKey.xmssSign (k : SlhKey) (x : Adrs) (leaf : Nat) (m : List Byte) : List Byte :=
  (k.wots { x with pair := leaf } (wotsDigits m)).flatten
    ++ (List.range slhHeight).flatMap (fun j => k.node x j (sibling leaf j))

/-- The signature of the hypertree from layer `j` on, `fuel` layers. -/
def SlhKey.htSign (k : SlhKey) : Nat → Nat → Nat → Nat → List Byte → List Byte
  | 0, _, _, _, _ => []
  | fuel + 1, j, tree, leaf, m =>
    let x : Adrs := ⟨j, tree, adrsTree, 0, 0, 0⟩
    k.xmssSign x leaf m
      ++ k.htSign fuel (j + 1) (tree / 2 ^ slhHeight) (tree % 2 ^ slhHeight) (k.node x slhHeight 0)

/-- A secret value of the FORS trees. -/
def SlhKey.forsSecret (k : SlhKey) (x : Adrs) (i : Nat) : List Byte :=
  k.secret { x with kind := adrsForsPrf, height := 0, index := i }

/-- Node `i` at height `z` of the FORS trees. -/
def SlhKey.forsNode (k : SlhKey) (x : Adrs) : Nat → Nat → List Byte
  | 0, i => k.hash { x with height := 0, index := i } (k.forsSecret x i)
  | z + 1, i => k.hash { x with height := z + 1, index := i } (k.forsNode x z (2 * i) ++ k.forsNode x z (2 * i + 1))

/-- The FORS signature over the digits of a digest, one byte for each tree. -/
def SlhKey.forsSign (k : SlhKey) (x : Adrs) (md : List Byte) : List Byte :=
  md.zipIdx.flatMap (fun q =>
    k.forsSecret x (q.2 * 2 ^ forsHeight + q.1.toNat)
      ++ (List.range forsHeight).flatMap (fun j => k.forsNode x j (q.2 * 2 ^ (forsHeight - j) + sibling q.1.toNat j)))

/-- The FORS public key. -/
def SlhKey.forsPk (k : SlhKey) (x : Adrs) : List Byte :=
  k.hash { x with kind := adrsForsRoots, height := 0, index := 0 }
    ((List.range forsTrees).flatMap (fun i => k.forsNode x forsHeight i))

/-- PK.root: the root of the top tree. -/
def SlhKey.root (k : SlhKey) : List Byte := k.node ⟨slhLayers - 1, 0, adrsTree, 0, 0, 0⟩ slhHeight 0

/-- The 48-byte public key. -/
def SlhKey.public (k : SlhKey) : List Byte := k.pkSeed ++ k.root

/-- The signature over a message, deterministic and with an empty context: R, the FORS signature, the hypertree's. -/
def SlhKey.sign (k : SlhKey) (msg : List Byte) : List Byte :=
  let m := [0#8, 0#8] ++ msg
  let r := shake (k.skPrf ++ k.pkSeed ++ m) slhN
  let digest := shake (r ++ k.public ++ m) 42
  let tree := beNat ((digest.drop 33).take 8) % 2 ^ 63
  let leaf := beNat ((digest.drop 41).take 1) % 2 ^ slhHeight
  let x : Adrs := ⟨0, tree, adrsFors, leaf, 0, 0⟩
  r ++ k.forsSign x (digest.take 33) ++ k.htSign slhLayers 0 tree leaf (k.forsPk x)

/-- The key pair that a 72-byte seed gives (R462). -/
def slhKey (seed : BitVec 576) : SlhKey :=
  let l := beBytes 72 seed.toNat
  ⟨l.take 24, (l.drop 24).take 24, l.drop 48⟩

end Sys2Proof.Machine
end

