-- ==== Sys2Proof/Machine/Exact.lean ====
section
/-! DEFINITION. Exact arithmetic on numbers m × 2^e, and the roundings the spec names: floor, nearest with ties to
even, nearest with ties up. Coefficients, energies and field contributions are computed here before they are
rounded once (02, 04, 05, 06).
-/

namespace Sys2Proof

/-- The number `m × 2^e`. For a stored coefficient `e` is the exponent of its block (R50, R160). -/
structure Dy where
  m : Int
  e : Int
deriving DecidableEq, Repr, Inhabited

/-- Zero. -/
def Dy.zero : Dy := ⟨0, 0⟩

/-- An integer. -/
def Dy.ofInt (v : Int) : Dy := ⟨v, 0⟩

/-- The mantissa of `a` on the finer exponent `e`, which is at most `a.e`. -/
def Dy.mantAt (a : Dy) (e : Int) : Int := a.m * (2 ^ (a.e - e).toNat : Nat)

/-- Exact sum. -/
def Dy.add (a b : Dy) : Dy :=
  if a.m = 0 then b else if b.m = 0 then a else
  let e := min a.e b.e
  ⟨a.mantAt e + b.mantAt e, e⟩

/-- Exact negation. -/
def Dy.neg (a : Dy) : Dy := ⟨-a.m, a.e⟩

/-- Exact difference. -/
def Dy.sub (a b : Dy) : Dy := a.add b.neg

/-- Exact product. -/
def Dy.mul (a b : Dy) : Dy := ⟨a.m * b.m, a.e + b.e⟩

/-- Product with an integer. -/
def Dy.smul (k : Int) (a : Dy) : Dy := ⟨k * a.m, a.e⟩

/-- Product with 2^d. -/
def Dy.shift (a : Dy) (d : Int) : Dy := ⟨a.m, a.e + d⟩

/-- Magnitude. -/
def Dy.abs (a : Dy) : Dy := ⟨(a.m.natAbs : Int), a.e⟩

/-- Exact sum of a list. -/
def Dy.sum (l : List Dy) : Dy := l.foldl Dy.add Dy.zero

/-- `a < b` as numbers. -/
def Dy.lt (a b : Dy) : Bool := decide ((a.sub b).m < 0)

/-- `a ≤ b` as numbers. -/
def Dy.le (a b : Dy) : Bool := decide ((a.sub b).m ≤ 0)

/-- `a = b` as numbers. -/
def Dy.eqv (a b : Dy) : Bool := decide ((a.sub b).m = 0)

/-- The greater of two. -/
def Dy.max (a b : Dy) : Dy := if a.lt b then b else a

/-- floor(a / 2^u). -/
def Dy.floorAt (a : Dy) (u : Int) : Int :=
  if a.e ≥ u then a.m * (2 ^ (a.e - u).toNat : Nat) else a.m / (2 ^ (u - a.e).toNat : Nat)

/-- ceiling(a / 2^u). -/
def Dy.ceilAt (a : Dy) (u : Int) : Int := -(a.neg.floorAt u)

/-- `n / d` rounded to nearest, ties to even; `d` is positive. -/
def roundEvenDiv (n : Int) (d : Nat) : Int :=
  let q := n / d
  let r := n % d
  if 2 * r < d then q else if 2 * r > d then q + 1 else if q % 2 = 0 then q else q + 1

/-- a / 2^u rounded to nearest with ties to even. -/
def Dy.roundEvenAt (a : Dy) (u : Int) : Int :=
  if a.e ≥ u then a.m * (2 ^ (a.e - u).toNat : Nat) else roundEvenDiv a.m (2 ^ (u - a.e).toNat)

/-- a / 2^u is an integer. -/
def Dy.isIntAt (a : Dy) (u : Int) : Bool :=
  if a.e ≥ u then true else decide (a.m % ((2 ^ (u - a.e).toNat : Nat) : Int) = 0)

/-- floor(log2 of a non-zero natural number). -/
def ilog2 (n : Nat) : Nat := Nat.log2 n

/-- floor(log2 |a|) of a non-zero number. -/
def Dy.log2 (a : Dy) : Int := (ilog2 a.m.natAbs : Int) + a.e

/-- The count of trailing zeros of a non-zero natural number, at most `fuel`. -/
def trailingZeros : Nat → Nat → Nat
  | 0, _ => 0
  | fuel + 1, n => if n % 2 = 1 then 0 else 1 + trailingZeros fuel (n / 2)

/-- The value of an FP32 bit pattern, none for NaN and the infinities (R55). -/
def fp32 (bits : Nat) : Option Dy :=
  let s : Int := if natBit bits 31 then -1 else 1
  let ex := natBits bits 30 23
  let fr := natBits bits 22 0
  if ex = 255 then none
  else if ex = 0 then some ⟨s * fr, -149⟩
  else some ⟨s * (fr + 2 ^ 23 : Nat), (ex : Int) - 150⟩

/-- The integer part F of a value V in units of 2^-16 of it (R157: nearest, ties up). -/
def fieldInt (v : Int) : Int := (v + 32768) / 65536

/-- The compensation C of a value V (R157). -/
def fieldComp (v : Int) : Int := v - 65536 * fieldInt v

/-- The value V of an integer part and a compensation. -/
def fieldVal (f c : Int) : Int := 65536 * f + c

/-- floor(V / 2), the shift of R170. -/
def halveVal (v : Int) : Int := v / 2

/-- `halveVal` applied `k` times. -/
def halveTimes : Nat → Int → Int
  | 0, v => v
  | k + 1, v => halveTimes k (halveVal v)

/-- F of the value lies outside the signed 32-bit range (R168). -/
def fieldOverflows (v : Int) : Bool :=
  decide (fieldInt v < -(2 ^ 31 : Nat)) || decide (fieldInt v > (2 ^ 31 - 1 : Nat))

end Sys2Proof
end

