-- ==== Sys2Proof/Machine/Store.lean ====
section
/-! DEFINITION. Sparse arrays: a list of (index, value) pairs, indexes strictly rising, in which an index that is
not listed holds the array's default value. Every array of the module that is too large to write out is one.
-/

namespace Sys2Proof

/-- A sparse array of `α`; the default of an unlisted index is given where it is read. -/
abbrev Store (α : Type) := List (Nat × α)

/-- The value at index `k`, `d` when it is not listed. -/
def Store.get {α : Type} (d : α) (k : Nat) : Store α → α
  | [] => d
  | (j, v) :: rest => if j = k then v else Store.get d k rest

/-- Insert or replace, keeping the indexes rising. -/
def Store.insert {α : Type} (k : Nat) (v : α) : Store α → Store α
  | [] => [(k, v)]
  | (j, w) :: rest =>
    if j < k then (j, w) :: Store.insert k v rest
    else if j = k then (k, v) :: rest
    else (k, v) :: (j, w) :: rest

/-- Remove an index. -/
def Store.erase {α : Type} (k : Nat) : Store α → Store α
  | [] => []
  | (j, w) :: rest => if j = k then Store.erase k rest else (j, w) :: Store.erase k rest

/-- Write `v` at `k`; writing the default unlists the index, so that equal arrays are equal lists. -/
def Store.put {α : Type} [DecidableEq α] (d : α) (k : Nat) (v : α) (m : Store α) : Store α :=
  if v = d then Store.erase k m else Store.insert k v m

/-- Change the value at `k`. -/
def Store.modify {α : Type} [DecidableEq α] (d : α) (k : Nat) (f : α → α) (m : Store α) : Store α :=
  Store.put d k (f (Store.get d k m)) m

/-- Write several values. -/
def Store.putAll {α : Type} [DecidableEq α] (d : α) (kvs : List (Nat × α)) (m : Store α) : Store α :=
  kvs.foldl (fun acc kv => Store.put d kv.1 kv.2 acc) m

/-- Apply `f` to every listed value, unlisting what becomes the default. -/
def Store.mapVals {α : Type} [DecidableEq α] (d : α) (f : α → α) (m : Store α) : Store α :=
  (m.map (fun kv => (kv.1, f kv.2))).filter (fun kv => decide (kv.2 ≠ d))

/-- The canonical form: indexes strictly rising, no listed default. -/
def Store.wf {α : Type} [DecidableEq α] (d : α) : Store α → Bool
  | [] => true
  | [(_, v)] => decide (v ≠ d)
  | (j, v) :: (k, w) :: rest => decide (v ≠ d) && decide (j < k) && Store.wf d ((k, w) :: rest)

end Sys2Proof
end

