-- ==== Sys2Proof/Machine/Problem.lean ====
section
/-! DEFINITION. A loaded problem as the loader leaves it: its quantised coefficients as exact numbers, its groups,
run settings, partition and placement (02, 03, 08), and the system descriptor of a part (09).
-/

namespace Sys2Proof

/-- An inverse temperature B16E8 (R105): `m × 2^(e - 15)`, `m` 0 or in [32,768, 65,535]. -/
structure Beta where
  m : Nat
  e : Int
deriving DecidableEq, Repr, Inhabited

/-- A segment of a schedule (Table 3.7). -/
structure Seg where
  start : Beta
  length : Nat
  ratio : Nat
deriving DecidableEq, Repr, Inhabited

/-- A replica entry (Table 3.7): mode 1 when `ladder`. -/
structure RepEntry where
  ladder : Bool
  index : Nat
  offset : Nat
deriving DecidableEq, Repr, Inhabited

/-- The acceptance rules (Table 3.6). -/
inductive Rule where
  | metropolis
  | heatBath
  | zeroTemp
  | greedy
deriving DecidableEq, Repr, Inhabited

/-- A SCHED section (Table 3.6), its defaults taken. -/
structure Sched where
  rule : Rule
  relaxed : Bool
  permuted : Bool
  zeroTie : Bool
  revert : Bool
  exchange : Bool
  sample : Bool
  coloured : Bool
  lag : Nat
  epochBlocks : Nat
  migrate : Nat
  exchangeSweeps : Nat
  threshold : Nat
  audit : Nat
  refresh : Nat
  segs : List Seg
  reps : List RepEntry
  ladder : List Beta
  /-- CRC-32C of the section body (R227). -/
  crc : Nat
deriving DecidableEq, Repr, Inhabited

/-- A stored sparse coupling: one entry of one target row (R72, R73). -/
structure SparseEntry where
  row : Nat
  src : Nat
  c : Dy
deriving DecidableEq, Repr, Inhabited

/-- A LINEAR section. -/
structure LinSec where
  base : Nat
  h : List Dy
deriving DecidableEq, Repr, Inhabited

/-- A DENSE section: the stored half-matrix couplings, `row < src` (R74). -/
structure DenseSec where
  base : Nat
  n : Nat
  entries : List SparseEntry
deriving DecidableEq, Repr, Inhabited

/-- A LOWRANK section: rows of U, and σ, with its exponent e_z (R43). -/
structure LowRank where
  base : Nat
  n : Nat
  k : Nat
  u : List (List Dy)
  sigma : List Dy
  ez : Int
deriving DecidableEq, Repr, Inhabited

/-- One product term of a KRON section: F and D, each a list of columns. -/
structure KronTerm where
  f : List (List Dy)
  d : List (List Dy)
deriving DecidableEq, Repr, Inhabited

/-- A KRON section. -/
structure Kron where
  base : Nat
  n : Nat
  m : Nat
  terms : List KronTerm
deriving DecidableEq, Repr, Inhabited

/-- A term of order 3 or 4. -/
structure HyperTerm where
  members : List Nat
  c : Dy
deriving DecidableEq, Repr, Inhabited

/-- A permutation block (R47). -/
structure PermBlock where
  base : Nat
  n : Nat
deriving DecidableEq, Repr, Inhabited

/-- A ghost of a part (R223): its local index, its owner part and the owner's index. -/
structure Ghost where
  local_ : Nat
  owner : Nat
  index : Nat
deriving DecidableEq, Repr, Inhabited

/-- The system descriptor of a part (Tables 9.1, 9.2). -/
structure SysDesc where
  part : Nat
  locked : Bool
  sysRun : Nat
  timeoutUs : Nat
  /-- Module ID and settle parent of each part. -/
  parts : List (Nat × Nat)
  ghosts : List Ghost
  /-- Local index and destination part of each export. -/
  exports : List (Nat × Nat)
  settleBase : Nat
deriving DecidableEq, Repr, Inhabited

/-- Where an array lies (Table 8.1). -/
inductive Tier where
  | scratch
  | gddr
  | cxl
deriving DecidableEq, Repr, Inhabited

/-- A placed part of an array: its order in Table 8.1, its tier, the span of a scratchpad, its bytes. -/
structure Placed where
  order : Nat
  tier : Tier
  span : Nat
  bytes : Nat
deriving DecidableEq, Repr, Inhabited

/-- A group of at most 64 variables of one window in one span (R82). -/
structure GroupRow where
  window : Nat
  span : Nat
  index : Nat
  colour : Nat
  vars : List Nat
deriving DecidableEq, Repr, Inhabited

/-- A diagonal tile with its descriptor (R16, R60): the variables of its lanes, the shift s, the null-tile flag, and the
entries that are not 0. Entry (i, k) has index 64 i + k, and lies at twice that byte. -/
structure Tile where
  lanes : List (Option Nat)
  shift : Nat
  null : Bool
  entries : List (Nat × BitVec 16)
deriving DecidableEq, Repr

/-- A loaded problem. -/
structure Problem where
  /-- The problem ID (R282); bits [5:0] are its slot. -/
  id : Nat
  /-- PFREE has marked it (R281). -/
  freeing : Bool
  /-- A fence has lost data of it (R394). -/
  lost : Bool
  /-- The spans fenced since the load that held blocks of it, oldest first, each with the spans that took them
  (R436, R439). -/
  replaced : List (Nat × List Nat)
  imageCrc : Nat
  ising : Bool
  nvars : Nat
  nrep : Nat
  e0 : Dy
  lins : List LinSec
  /-- Couplings of equal indexes folded into h (R40). -/
  folds : List (Nat × Dy)
  sparses : List (List SparseEntry)
  denses : List DenseSec
  lowranks : List LowRank
  krons : List Kron
  hypers : List HyperTerm
  onehots : List (List Nat)
  perms : List PermBlock
  clamped : List Nat
  scheds : List Sched
  /-- One bitmap a replica, bit i for variable i; one bitmap only when shared (R71). -/
  init : Option (List Nat)
  groups : List GroupRow
  colours : Option (List Nat)
  windows : Nat
  order : List Nat
  /-- The e_f in use at load and the computed one (R57). -/
  ef : Int
  efComputed : Int
  /-- Some section counts a coefficient in a block below e_f (R147). -/
  belowEf : Bool
  sys : Option SysDesc
  placed : List Placed
  /-- The recovery copy of R433 is whole (R394), or the loader is rebuilding it and has not completed. -/
  recovery : Bool
  rebuild : Bool
  /-- Checkpoint slot size in 4 KiB units (R281). -/
  ckptUnits : Nat
  /-- The diagonal tiles that the loader built, one for each group (R60). -/
  tiles : List Tile
  /-- The bytes of the state array and of the best-state array of a rotating problem, bitmaps laid out as those of INIT
  (R71, R206, R213); empty before its first run. -/
  stateArr : List Byte
  bestArr : List Byte
deriving DecidableEq, Repr, Inhabited

end Sys2Proof
end

