-- ==== Sys2Proof/Machine/State.lean ====
section
/-! DEFINITION. The state of the module: every register, array, queue, mode and pin that the spec gives it, as plain
data, with the value after reset of each, and the reasons a step can stop. Arrays are sparse (Store); an index that is not listed
holds the value that the `…0` definition of its kind gives. INVENTORY.md lists each field with its rule.
-/

namespace Sys2Proof.Machine

/-- Power, rails and pins (20 R485-R487, 21 R498-R506). -/
structure Power where
  vin : Bool
  en : Bool
  on : Bool
  good : Bool
  tripped : Bool
  /-- The thermal-trip cause latched in the auxiliary domain (R497). -/
  tripCause : Bool
  perst : Bool
  slotId : BitVec 4
  alive : Bool
  aliveRun : Bool
  aliveTick : Nat
  therm : Bool
  cxlPerst : BitVec 2
deriving DecidableEq, Repr

/-- Boot progress and reset registers (Table 20.4, DEV_CLK_STATUS of Table 19.2). -/
structure Boot where
  stage : Nat
  ready : Bool
  failed : Bool
  failCode : Nat
  cause : Nat
  lock : Bool
  relocks : Nat
  resetting : Bool
deriving DecidableEq, Repr

/-- A captured PPS edge (R474): the counter at the capture tick, and the tick. -/
structure PpsEdge where
  sec : Nat
  sub : Nat
  tick : Nat
deriving DecidableEq, Repr

/-- Time counter, elapsed ticks and PPS (R471-R476). -/
structure Time where
  sec : Nat
  sub : Nat
  ticks : Nat
  setTo : Option Nat
  hold : Nat
  cap : Option PpsEdge
  lastAcc : Option Nat
  lossMark : Nat
  pps : Nat
  jump : Bool
  lost : Bool
  ppsLast : Int
  jumps : Nat
  losses : Nat
  ignored : Nat
deriving DecidableEq, Repr

/-- An MSI-X table entry (R408). -/
structure MsixEntry where
  addr : BitVec 64
  data : BitVec 32
  masked : Bool
deriving DecidableEq, Repr

/-- The PCI Express function (16). -/
structure Pcie where
  bar2Log2 : Nat
  bme : Bool
  mps : Nat
  mrrs : Nat
  cplTimeout : Nat
  d3hot : Bool
  winBase : BitVec 20
  herr : BitVec 7
  /-- The address whose access fails in the row that is executed, and how: the model's own field, `none` between rows
  (R398, R412; entry 90). -/
  readFail : Option (Nat × ReadFail)
  /-- Bases of the two BARs (R403), and the sticky bits of AER (Table 16.6). -/
  bar0 : BitVec 64
  bar2 : BitVec 64
  aer : BitVec 32
  speed : BitVec 3
  width : BitVec 3
  flit : Bool
  msixEnable : Bool
  funcMask : Bool
  msix : Store MsixEntry
  /-- The vectors whose pending bit is set. -/
  pba : List Nat
deriving DecidableEq, Repr

/-- What the model records of the buses (entries 14 and 15): the last read answered, the MSI-X messages sent, whether the last
configuration request was answered with Configuration Request Retry Status (R410), and the bytes last read from the management
port (R465). -/
structure Bus where
  lastRead : List Byte
  lastPoisoned : Bool
  sent : List Nat
  retry : Bool
  mgmtRead : List Byte
deriving DecidableEq, Repr

/-- A voltage reading (Table 19.3). -/
structure Volt where
  mv : Nat
  low : Bool
  high : Bool
deriving DecidableEq, Repr

/-- Monitors and the thermal controller (R477-R484). Temperatures are in units of 0.125 °C. -/
structure Mon where
  die : Store Int
  mod : Store Int
  inletCold : Bool
  volt : Store Volt
  proc : Store Nat
  level : Nat
  steps : Nat
  hot : Bool
  modCond : List Nat
  voltCond : List Nat
  /-- The ticks of the last sample of the sensors, of the voltage monitors, of the last control step, and of the last window of
  each process monitor (R477-R481). -/
  sensorTick : Nat
  voltTick : Nat
  controlTick : Nat
  procTick : Store Nat
deriving DecidableEq, Repr

/-- The running escalation timer: its start and its length in ticks (R425). -/
structure EscTimer where
  start : Nat
  length : Nat
deriving DecidableEq, Repr

/-- The FLT block and the fences (17, Table 17.6). -/
structure Flt where
  state : Nat
  cause : Nat
  escTime : Nat
  quiet : Nat
  limit : Nat
  window : Nat
  recCount : Nat
  recs : List Nat
  esc : Option EscTimer
  quietFrom : Nat
  /-- Tick of the last FAULT entry (R427). -/
  faultTick : Nat
  spans : BitVec 16
  mems : BitVec 8
  links : BitVec 4
  cxls : BitVec 2
  startup : BitVec 16
  lanes : Store Nat
deriving DecidableEq, Repr

/-- A history entry (Table 17.4). `tick` is the tick of the raise, which no register shows: entries of one tick stand in order
of their sources (R420). -/
structure HistEntry where
  tick : Nat
  sec : Nat
  sub : Nat
  source : Nat
  severity : Nat
  mandatory : Bool
  detail : Nat
deriving DecidableEq, Repr

/-- A block's fault interface (Table 17.3). -/
structure FltIf where
  status : BitVec 32
  irqEn : BitVec 32
  sev : BitVec 64
  corr : Nat
  valid : Nat
  oldest : Nat
  ovf : Nat
  hist : Store HistEntry
deriving DecidableEq, Repr

/-- A stored key: the IV under which it is wrapped, and the wrapped bytes with their tag (R456). -/
structure KeySlot where
  iv : List Byte
  blob : List Byte
deriving DecidableEq, Repr

/-- Statuses of a management response (R465). -/
inductive MgmtStatus where
  | ok
  | denied
  | busy
  | badRequest
  | inUse
  | verifyFailed
  | rollback
  | rngFailed
  | identityFailed
  | locked
deriving DecidableEq, Repr

/-- A response of the management port (R465); `pos` is how much of its payload has been read. -/
structure MgmtResp where
  code : Nat
  seq : BitVec 16
  status : MgmtStatus
  data : List Byte
  pos : Nat
deriving DecidableEq, Repr

/-- The security block, its flash objects and the management port (18). -/
structure Sec where
  rng : Nat
  source : Bool
  reseeding : Bool
  reseeds : Nat
  /-- Key and V of the DRBG (R448, R450). -/
  drbg : Drbg
  gens : Nat
  seedTick : Nat
  /-- The additional input of the reseed in progress (R451). -/
  reseedInput : List Byte
  /-- The 32 bytes drawn at boot, the key from which wrapping keys are derived (R456). -/
  wrapSeed : BitVec 256
  approved : Bool
  debug : Bool
  identityOk : Bool
  /-- The 72-byte seed that the physical unclonable function gives (R462). -/
  identity : BitVec 576
  /-- The hash of the firmware verification key that the mask ROM holds (R458). -/
  romAnchor : BitVec 256
  recovery : Bool
  selfTestFail : Bool
  imageSlot : Nat
  configSlot : Nat
  debugLevel : Nat
  challenge : Option (BitVec 256)
  keys : Store (Option KeySlot)
  cxlKeys : Store (Option KeySlot)
  /-- Bytes of the four flash slots: image 0, image 1, configuration 0, configuration 1. -/
  flash : Store (Store Byte)
  arbImage : Nat
  arbConfig : Nat
  svImage : Nat
  svConfig : Nat
  cfg : ConfigBlock
  mgmtAddr : Option (BitVec 7)
  /-- Responses that the I3C controller has not read. -/
  mgmtResp : List MgmtResp
  mgmtWait : Option Instr
deriving DecidableEq, Repr

/-- The keystone mailbox (Table 22.5). -/
structure Mbx where
  code : Nat
  busy : Bool
  done : Bool
  overrun : Bool
  status : Nat
  seq : BitVec 16
  reqSeq : BitVec 16
  len : Nat
  resp : List Byte
deriving DecidableEq, Repr

/-- A record of a committed change, as flip flits carry it (R31): the variable, the replica, the values before
and after. -/
structure FlipRec where
  var : Nat
  replica : Nat
  old : Bool
  new : Bool
deriving DecidableEq, Repr

/-- A flip flit or a marker on VC1 (R31, R32, R142, R171, R172); the epoch is a run epoch number (R122). -/
inductive Vc1Body where
  | flit (epoch : Nat) (undo : Bool) (seq : Nat) (recs : List FlipRec)
  /-- The counts of flits by destination span (R367), e_f and e_z (R171, R173), raise limit met (R172). -/
  | marker (epoch : Nat) (undo : Bool) (counts : List Nat) (ef : Int) (ez : Store Int) (limit : Bool)
  /-- Records that a link stop delivers from another part (R228): source part, batch sequence, seen count, number of the
  first record. -/
  | batch (epoch : Nat) (undo : Bool) (part seq seen first : Nat) (ef : Int) (recs : List FlipRec)
deriving DecidableEq, Repr

/-- A VC1 flit on its way (R366, R375): its source (16 + l is link stop l), the spans of its mask that it has not reached,
the table generation under which it entered the mesh (R368), and whether it is sent again (R384). -/
structure Vc1Msg where
  src : Nat
  dests : List Nat
  body : Vc1Body
  gen : Nat
  again : Bool
deriving DecidableEq, Repr

/-- The mesh (Table 14.4). -/
structure Mesh where
  /-- The routes of the installed table that leave dimension order, from the first router to the last, by 36 × source +
  destination (R10, R381). -/
  routes : Store (List Nat)
  detour : Bool
  installBusy : Bool
  generation : Nat
  failed : BitVec 36
  drops : Nat
  hopCe : Nat
  promote : Nat
  lost : Nat
  /-- VC1 flits that routers have accepted, oldest first. -/
  vc1 : List Vc1Msg
deriving DecidableEq, Repr

/-- One GDDR7 interface (Table 15.3). -/
structure MemIface where
  active : Bool
  rate : Nat
  refresh : Nat
  ce : Nat
  retry : Nat
  ueAddr : Nat
  temp : Nat
  hot : Bool
  /-- The start of the last periodic retrain (R392). -/
  retrainTick : Nat
deriving DecidableEq, Repr

/-- One CXL port (Table 15.4). -/
structure CxlPort where
  present : Bool
  enc : Bool
  width : BitVec 3
  speed : BitVec 3
  capBytes : Nat
  poisonAddr : Nat
  timeouts : Nat
  recent : List Nat
  /-- Write counters of the encrypted pages (R399). -/
  counters : Store Nat
deriving DecidableEq, Repr

/-- A flit that a link has to send or has sent unacknowledged (R246, R250). -/
structure TxFlit where
  hdr : FlitHdr
  kind : Nat
  aux : Nat
  payload : List Byte
  resent : Nat
  /-- The tick at which it began to wait, and the flits that have left before it (R249). -/
  since : Nat
  passed : Nat
  /-- Bytes 12 to 251 as they were first sent: the payload with zeros after it, or ciphertext and tag (R246, R254). -/
  body : List Byte
  /-- This module makes the flit, so its source is the module ID when it is first sent (R527). -/
  own : Bool
deriving DecidableEq, Repr

/-- One Pechanen link (Table 22.7, R246-R254). -/
structure Link where
  enable : Bool
  fwdEn : Bool
  dateline : Bool
  state : Nat
  width : Nat
  failed : BitVec 8
  cable : Bool
  txEnc : Bool
  rxEnc : Bool
  txSlot : Nat
  rxSlot : Nat
  downRx : Nat
  downTx : Nat
  peer : BitVec 12
  peerValid : Bool
  replays : Nat
  fecCorr : Nat
  fecUncorr : Nat
  drops : Nat
  badKind : Nat
  unknownVar : Nat
  txSeq : BitVec 8
  rxNext : BitVec 8
  nak : Bool
  /-- The partner has asked for a replay that has not been made (R250). -/
  nakRx : Bool
  credits : Store Nat
  owed : Store Nat
  waiting : List TxFlit
  unacked : List TxFlit
  tagFails : Nat
  txCount : Nat
  rxCount : Nat
  txSwitch : Option (Nat × Nat)
  rxSwitch : Option (Nat × Nat)
  trainTick : Nat
  ackTick : Nat
  /-- The PARAM payload that this module sent in the present training, and whether the partner's has come in it (R251). -/
  paramTx : List Byte
  paramRx : Bool
  /-- The number of the next codeword (Table 9.5), and the flits of the codeword pair that was sent last, or is being filled
  (R244). -/
  cwSeq : BitVec 4
  line : List (List Byte)
deriving DecidableEq, Repr

/-- The registers that exist once for the four links (R527). -/
structure LinkSys where
  moduleId : BitVec 12
  encAny : Bool
  route : Store Nat
deriving DecidableEq, Repr

/-- A loop stack entry (R310). -/
structure LoopEntry where
  first : Nat
  last : Nat
  remaining : Nat
deriving DecidableEq, Repr

/-- An instruction in flight, with the operands it read at issue (R305). -/
structure InFlight where
  instr : SpanInstr
  a : Word
  b : Word
  c : Word
  /-- The DMA tag or multicast slot in use, or the bits of an answered branch. -/
  aux : Nat
deriving DecidableEq, Repr, Inhabited

/-- A launch (R277, R302): its context, the serial number of the command it works for, whether that command is a
batch descriptor, program, length and constants. Length 0 marks the launch of EVAL, MATMUL, REDUCE, EWISE or CONVERT, whose
program is the device's own (R276). -/
structure Launch where
  ctx : Nat
  cmd : Nat
  batch : Bool
  ibuf : Store Word
  count : Nat
  consts : Store (BitVec 32)
deriving DecidableEq, Repr

/-- A DMA tag (R320-R322). -/
structure Tag where
  busy : Bool
  err : Bool
  src : Nat
  dst : Nat
  len : Nat
  /-- A request of the transfer was lost at a failed router (R383). -/
  lost : Bool
  /-- The access of the transfer that fails, and how (R398, R412). -/
  readFail : Option (Nat × ReadFail)
deriving DecidableEq, Repr

/-- A multicast slot (R326, R377): its mask, the branches answered and those cancelled. -/
structure McastSlot where
  busy : Bool
  mask : Nat
  answered : Nat
  cancelled : Nat
deriving DecidableEq, Repr

/-- The pier (R302, R329). `blocked` is the blocking instruction that holds issue, with the tick of its start. -/
structure Pier where
  code : Nat
  pc : Nat
  launchSeq : Nat
  regs : Store Word
  loops : List LoopEntry
  flight : List InFlight
  blocked : Option (InFlight × Nat)
  launch : Option Launch
  queue : List Launch
  tags : Store Tag
  slots : Store McastSlot
  /-- The context of the current or last launch (Table 10.14). -/
  lastCtx : Nat
deriving DecidableEq, Repr

/-- A received flip flit (R33): source span, epoch, whether it is the undo epoch's, sequence number, records. -/
structure RxFlit where
  src : Nat
  epoch : Nat
  undo : Bool
  seq : Nat
  recs : List FlipRec
deriving DecidableEq, Repr

/-- A received epoch marker (R32, R171-R173): source span, epoch, count of flits, e_f, e_z, raise limit met. -/
structure RxMark where
  src : Nat
  epoch : Nat
  undo : Bool
  count : Nat
  ef : Int
  ez : Store Int
  limit : Bool
deriving DecidableEq, Repr

/-- A received batch of records of another part (R228): part, epoch, sequence, seen count, e_f, records. -/
structure RxBatch where
  part : Nat
  epoch : Nat
  undo : Bool
  seq : Nat
  seen : Nat
  ef : Int
  /-- The number of the batch's first record (R230). -/
  first : Nat
  recs : List FlipRec
deriving DecidableEq, Repr

/-- The change of one variable. -/
structure VarChange where
  var : Nat
  old : Bool
  new : Bool
deriving DecidableEq, Repr

/-- A move as the flip log keeps it (R140, R141): the epoch within the sweep, the replica, the changed variables
with the values before and after, whether it is an undo, the attempt number of its proposal, the numbers of its
records to each part (variable, part, number), and whether it is of an earlier sweep (R231). -/
structure LogMove where
  epoch : Nat
  replica : Nat
  changes : List VarChange
  undo : Bool
  att : Nat
  sent : List (Nat × Nat × Nat)
  past : Bool
  /-- It is an undo of a flush, and one that the flush has relabelled since (R142): it reaches the other spans with the undo
  epoch. -/
  flush : Bool
  late : Bool
deriving DecidableEq, Repr

/-- A group of Y^t entries held in BS16 (R45): its exponent and its mantissas. -/
structure YGroup where
  e : Int
  m : List Int
deriving DecidableEq, Repr

/-- The working data of one span's sweep engine, the part that a rescale replay restores (R169). -/
structure SpanData where
  /-- V of each slot, in units of 2^(e_f - 16) (R157). -/
  fields : Store Int
  deck : Store Word
  /-- Truncation counters of blocks (R164). -/
  counts : Store Nat
  z : Store (List Int)
  zCount : Store Nat
  y : Store YGroup
  yCount : Store Nat
  attempts : Store Nat
  /-- Partial energy of each replica, in units of 2^(e_f - 16) (R144). -/
  partials : Store Int
  log : List LogMove
  /-- Σ|Δv| of each replica since the last audit (R147). -/
  changed : Store Nat
  nAttempts : Nat
  nAccepts : Nat
  nConflicts : Nat
  nReverted : Nat
  nRefreshes : Nat
  nOver : Nat
  nRefreshBad : Nat
  /-- Exponents e_z of the low-rank sections in force (R173). -/
  ez : Store Int
  /-- Raises of e_z that this span has made (R174). -/
  ezRaises : Nat
  /-- Changes of the unit of work to variables of a group whose slots another span holds (R93, R436), by index variable × 256 +
  replica. -/
  far : List (Nat × Bool)
deriving DecidableEq, Repr

/-- A continuation that is due (R126): the block and the lanes, in decision order, still to be decided. -/
structure Cont where
  block : Nat
  lanes : List Nat
deriving DecidableEq, Repr

/-- Where a span stands in a sweep. -/
inductive EngPhase where
  | idle
  /-- Visiting the blocks of its epoch. -/
  | deciding
  /-- Waiting at the boundary that ends its epoch. -/
  | boundary
  /-- Waiting to apply the undo epoch of a flush. -/
  | undoing
  /-- Waiting at the re-map boundary, its records applied (R435). -/
  | held
  /-- Flushed: waiting for the settle. -/
  | flushed
  /-- Ended by the raise limit or an end cause before the flush. -/
  | ended
deriving DecidableEq, Repr

/-- The sweep engine of one span (05, 06). -/
structure Engine where
  phase : EngPhase
  epoch : Nat
  /-- Blocks of this epoch already visited. -/
  pos : Nat
  /-- Epochs of the sweep whose marker has been sent. -/
  sent : Nat
  /-- One past the last epoch of the sweep whose undo epoch's marker has been sent. -/
  undoSent : Nat
  /-- e_f that the last marker sent carries. -/
  sentEf : Int
  cont : Option Cont
  ef : Int
  data : SpanData
  /-- The working data at the start of the unit of work in progress (R169). -/
  unitStart : Option SpanData
  /-- Records of the block being decided, which enter flits when it ends (R169). -/
  blockRecs : List FlipRec
  /-- Records of the epoch, in commit order. -/
  epochRecs : List FlipRec
  /-- Received flits. -/
  flits : List RxFlit
  /-- Received markers. -/
  marks : List RxMark
  /-- Received batches of other parts. -/
  batches : List RxBatch
  /-- Increments received by FIELD_INC, in arrival order: slot, increment (R248). -/
  incs : List (Nat × Dy)
  /-- The increments that the flush in progress has applied (R169). -/
  incsTaken : List (Nat × Dy)
  /-- The next epoch of the sweep whose records are to be applied. -/
  applied : Nat
  /-- That epoch as the flush in progress began (R169). -/
  flushFrom : Nat
  /-- The span will make no further raise (R172). -/
  limit : Bool
  /-- Ghost values by index ghost × 256 + replica (R223). -/
  ghosts : Store Bool
  /-- The span has seen a stop cause in force and starts no further epoch (R150). -/
  stopped : Bool
  /-- Flits and markers that the injection limit holds back (R370). -/
  inject : List Vc1Msg
  /-- Flits and markers sent in the sweep, kept to be sent again (R384). -/
  kept : List Vc1Msg
  /-- Flits and markers from a buddy that this span shares no run with, and the run epoch whose records its shadow takes
  next (R33, R34; entry 114). -/
  pairFlits : List RxFlit
  pairMarks : List RxMark
  pairNext : Nat
deriving DecidableEq, Repr

/-- One span (Table 1.5 and the SPN registers). -/
structure Span where
  pier : Pier
  eng : Engine
  shadow : Store Word
  snap : Store Word
  /-- Accumulator entry V at cell × 8192 + entry (R184). -/
  acc : Store Int
  /-- Tile exponent E8 at cell × 32 + region (R185). -/
  texp : Store Nat
  /-- The slot of the problem whose run is bound (R339), and the next order of Table 12.7 due. -/
  bound : Option Nat
  order : Nat
  /-- The tile that the bound run uses for its field passes (R340). -/
  runTile : Nat
  resetRefused : Bool
  tenStatus : BitVec 5
  tileStalls : Nat
  replays : Nat
  memCe : Nat
  errArray : Nat
  errWord : Nat
  marchPreserve : Bool
  /-- The mode of the march test that runs (R364). -/
  marchKeep : Bool
  marchState : Nat
  marchRefused : Bool
  repaired : Nat
  spares : Store Nat
  scrub : Nat
  /-- The start of the last scrub (R360). -/
  scrubTick : Nat
  cycles : Nat
  /-- The heartbeat condition: the span has given no answer (R418). -/
  silent : Bool
  /-- Phase of the throttle pattern: ACLK cycles seen modulo 16 (R481). -/
  aclk : Nat
  /-- Poisoned words of the arrays but the scratchpad, by array × 2^28 + word, with one more than what the word held when it
  was poisoned (R359): a word that holds something else has been written. -/
  poison : Store Nat
  /-- The triangle unit's two tile buffers (Table 13.1): entry (i, k) of the tile in buffer b at 4096 b + 64 i + k
  (entry 117). -/
  tileBuf : Store (BitVec 16)
  /-- The sweep and the epoch that the registers of a fenced span show, those of the run bound at the fence (R530). -/
  fenceRun : Option (Nat × Nat)
  /-- `SPN_PIER_STATUS` of a fenced span, as at its fence (R530). -/
  fencePier : Nat
deriving DecidableEq, Repr

/-- An event (Table 10.12). -/
structure Event where
  value : BitVec 64
  error : Bool
  irqEn : Bool
  vector : BitVec 10
deriving DecidableEq, Repr

/-- A command fetched from a ring or a work queue: its slot index, its bytes (packet and payload), and its size
in slots. `bad` gives the offset of the field that fails the check at fetch (R264, R271); `unread` the first
address that could not be read and whether the packet slot itself failed (R534). -/
structure Fetched where
  slot : Nat
  addr : Nat
  bytes : List Byte
  slots : Nat
  bad : Option Nat
  unread : Option (Nat × Bool)
deriving DecidableEq, Repr

/-- How far the executing command is. -/
inductive CmdPhase where
  /-- Started; its effect has not begun. -/
  | started
  /-- Its effect is under way: launches, a run, a wait. -/
  | working
  /-- Its effect is done; its completion is due, with a status and a detail. -/
  | finished (status : Nat) (detail : Nat)
deriving DecidableEq, Repr

/-- The command in execution of a context. -/
structure Exec where
  cmd : Fetched
  start : Nat
  hangMs : Nat
  phase : CmdPhase
  /-- The count of commands started before this one; it names the command to piers and barriers. -/
  serial : Nat
  /-- Masks of spans: those that the command names, not yet ended, waiting at the front end for their launch, pier faulted, failed. -/
  spansAll : Nat
  /-- The spans that the command gives a launch (R278, R318). -/
  launched : Nat
  spansLeft : Nat
  unsent : Nat
  faulted : Nat
  failed : Nat
  /-- What the spans of `unsent` are to be sent (R275). -/
  launch : Option Launch
  /-- Indications of R200 and Table 10.4. -/
  orderSens : Bool
  saturated : Bool
  /-- A batch descriptor (R291). -/
  batch : Bool
  /-- The hang limit has ended the command, and its piers have not all stopped (R280). -/
  hung : Bool
  /-- The first address of a write that failed while the command executed (R533). -/
  lateFail : Option Nat
  /-- The event operations of the command's own EVREC instructions that were issued and not performed (R300). -/
  owed : List (Nat × Bool × Word)
deriving DecidableEq, Repr

/-- An ANNEAL_BATCH task (R290-R292). -/
structure Batch where
  queue : Nat
  entries : Nat
  event : Nat
  consumed : Nat
  cur : Option Exec
  /-- The descriptor read ahead while one runs (R291). -/
  next : Option Fetched
  ending : Bool
  /-- The spans that the task keeps between descriptors (R292). -/
  resident : Nat
deriving DecidableEq, Repr

/-- A completion entry that waits for room in the completion ring (R268, R534). -/
structure HeldEntry where
  tag : Nat
  opcode : Nat
  status : Nat
  detail : Nat
  slotAddr : Nat
  packet : List Byte
deriving DecidableEq, Repr

/-- States of a context (Table 10.2). -/
inductive CtxState where
  | free
  | active
  | stopped
  | draining
  | aborting
deriving DecidableEq, Repr

/-- A context (Tables 10.1 to 10.3). -/
structure Ctx where
  state : CtxState
  enablePending : Bool
  stalled : Bool
  destroyDone : Bool
  lastStatus : Nat
  enable : Bool
  abort : Bool
  priority : Bool
  ringBase : BitVec 48
  cplBase : BitVec 48
  ringLog2 : Nat
  cplLog2 : Nat
  hang : BitVec 32
  head : BitVec 32
  tail : BitVec 32
  cplTail : BitVec 32
  cplHead : BitVec 32
  capAddr : BitVec 48
  capture : List Byte
  consts : Store (BitVec 32)
  /-- The ring registers in use since the creation (R257). -/
  useRing : Nat
  useCpl : Nat
  useRingLog2 : Nat
  useCplLog2 : Nat
  /-- The tail that a drain runs to (R299). -/
  drainTail : Option (BitVec 32)
  fetched : List Fetched
  exec : Option Exec
  batch : Option Batch
  held : List HeldEntry
deriving DecidableEq, Repr

/-- An open barrier (R318): the context and command, its id and mask, the spans that issued it and those that
count as arrived. -/
structure Barrier where
  ctx : Nat
  batch : Bool
  cmd : Nat
  id : Nat
  mask : Nat
  issued : Nat
deriving DecidableEq, Repr

/-- The front end (Table 22.4, R266, R282, R318). -/
structure Fe where
  rrHigh : Nat
  rrNormal : Nat
  notify : Bool
  lostId : Nat
  loads : Nat
  barriers : List Barrier
  /-- Serial number of the next command to start. -/
  serial : Nat
  /-- The tick of the last check of the stall monitor (R296). -/
  stallTick : Nat
deriving DecidableEq, Repr

/-- A block of a run (R82, R436): the slots num × 64 + lane of a span, for one replica; `none` marks a slot that
holds no active variable. `home` and `homeNum` are the span and block number that R82 gave it, from which its epoch
follows when it has been re-mapped. -/
structure BlockRow where
  span : Nat
  num : Nat
  replica : Nat
  home : Nat
  homeNum : Nat
  colour : Nat
  vars : List (Option Nat)
deriving DecidableEq, Repr

/-- The stop causes in force (R88, R150, R234). -/
structure Stops where
  deadline : Bool
  stop : Bool
  abort : Bool
  hung : Bool
  fault : Bool
  spanLoss : Bool
  limit : Bool
deriving DecidableEq, Repr

/-- A received marker of another part (R229, R232): part, number, count of batches, e_f. -/
structure PartMark where
  part : Nat
  number : Nat
  count : Nat
  ef : Int
deriving DecidableEq, Repr

/-- Batches of a part that have arrived: part, run epoch, whether of the undo epoch, count. -/
structure PartCount where
  part : Nat
  epoch : Nat
  undo : Bool
  count : Nat
deriving DecidableEq, Repr

/-- Records that wait at the link stops for a batch (R228): destination part, run epoch, undo, the span that made them, the
records of the destination that it had applied before (R230), and the records. -/
structure PartOut where
  part : Nat
  epoch : Nat
  undo : Bool
  span : Nat
  seen : Nat
  recs : List FlipRec
deriving DecidableEq, Repr

/-- How far the start of a system run is (R227), and the settle of a sweep (R235, R236). -/
inductive SysStage where
  /-- Waiting for the ready markers of the children. -/
  | ready
  /-- Waiting for the run-start marker. -/
  | runStart
  /-- Waiting for the start markers and initial values of the import parts. -/
  | values
  /-- Sweeping, or between sweeps. -/
  | running
  /-- Waiting for the settle entries of the children. -/
  | settling
  /-- Waiting for the ladder and the settle-done marker of the parent. -/
  | done
deriving DecidableEq, Repr

/-- The system side of a run (09): what has come from other parts and what has gone to them. -/
structure SysRun where
  stage : SysStage
  /-- The settle in progress is that of the start (R227 step 5). -/
  first : Bool
  ready : List (Nat × Marker)
  started : Option Marker
  starts : List (Nat × Nat)
  initIn : List (Nat × Nat)
  initVals : Store Bool
  epochMarks : List PartMark
  sweepEnds : List PartMark
  undoEnds : List PartMark
  arrived : List PartCount
  /-- The children whose settle-up marker has come, with the sweeps that they have completed (R235, R237). -/
  settleUp : List (Nat × Nat)
  /-- Bytes of settle entries that have come, by child (R235). -/
  kidsIn : Store Nat
  settleDone : Option Marker
  /-- Bytes of the ladder that have come into the settle area (R236). -/
  ladderIn : Nat
  endCause : Nat
  /-- Run epoch of the cause, in an epoch-locked run (R234). -/
  causeEpoch : Nat
  /-- An end cause that came from a neighbour has gone on to the others (R234). -/
  causeForwarded : Bool
  out : List PartOut
  /-- By destination part: records sent since run start, batches of the epoch, of the sweep, undo batches. -/
  sentRecs : Store Nat
  epochBatches : Store Nat
  sweepBatches : Store Nat
  undoBatches : Store Nat
  /-- By part: records received since run start; records of ours that it has seen (R230, R231). -/
  recvRecs : Store Nat
  seen : Store Nat
  /-- Epochs of the sweep whose records and markers have gone to the other parts, and the epochs below the last undo epoch that
  has. -/
  closed : Nat
  closedUndo : Nat
  /-- e_f of the part at the end of an epoch or an undo epoch (R233): run epoch, undo, the greatest e_f of the spans that have
  ended it. -/
  endEf : List (Nat × Bool × Int)
  /-- Audit values and counts of this part's own terms (R236), by replica. -/
  audit : Store Int
  auditCount : Store Nat
  /-- System indications of Table 9.3 gathered at the last settle: fenced, not_repeatable, order_sensitive. -/
  flags : Nat
  /-- What the part waits for, and the start of that wait (R241). -/
  waiting : Option Nat
  waitFrom : Nat
  /-- The part waits for no other part any more (R241). -/
  alone : Bool
  /-- Step 3 has been performed in the settle of the sweep, and the audit of the system disagreed (R236). -/
  refreshed : Bool
  auditBad : Bool
  /-- The status that the settle gives the run's end (R237). -/
  status : Option Nat
deriving DecidableEq, Repr

/-- A run of a problem (05, R87, R283-R288). -/
structure Run where
  problem : Nat
  id : Nat
  ctx : Nat
  tag : Nat
  /-- The serial number of the command whose launch bound the run, and whether it is a batch descriptor. -/
  serial : Nat
  batch : Bool
  packet : List Byte
  sched : Nat
  windowSweeps : Nat
  record : Nat
  deadlineUs : Nat
  ckptSweeps : Nat
  ckptArea : Nat
  ckptSeq : Nat
  ckptAsked : Bool
  /-- The checkpoint that is being written at the boundary, and whether its last byte has been (R287, R437). -/
  ckptOpen : Option Bool
  keyLo : BitVec 32
  keyHi : BitVec 32
  spans : List Nat
  blocks : List BlockRow
  /-- K of R122, and for each colour one past its last epoch (R133). -/
  k : Nat
  colourEnds : List (Nat × Nat)
  sweep : Nat
  startTick : Nat
  startSec : Nat
  startSub : Nat
  begun : Bool
  betas : Store Beta
  rungs : Store (Option Nat)
  rounds : Nat
  totals : Store Int
  ef : Int
  raises : Nat
  bestSet : Bool
  best : Int
  bestReplica : Nat
  bestSweep : Nat
  newBest : Bool
  sweepsDone : Nat
  rxAttempts : Nat
  rxAccepts : Nat
  auditBad : Nat
  attempts : Nat
  accepts : Nat
  conflicts : Nat
  reverted : Nat
  refreshes : Nat
  overLength : Nat
  refreshBad : Nat
  stops : Stops
  /-- The stop causes that have taken effect at a block boundary (R88, R150). -/
  took : Stops
  fencedSpans : Nat
  /-- A fenced span has been re-mapped (Table 3.12). -/
  remapped : Bool
  rotations : Nat
  activation : Nat
  window : Nat
  /-- The count of the last migration round made since the window was activated, (w + 1) / M; none: load slots (R152). -/
  round : Option Nat
  /-- Values of the frozen variables: index variable × 256 + replica (R206). -/
  frozen : Store Bool
  /-- The best-state array of a rotating run (R213). -/
  bestState : Store Bool
  restored : Bool
  restoredFenced : Bool
  freeRun : Bool
  orderSens : Bool
  refreshAsked : Bool
  sampleBuf : Nat
  sampleInterval : Nat
  sampleCap : Nat
  sampleCount : Nat
  /-- The result of the last SWEEP (Table 12.7): 0 complete, 1 stop, 2 limit, 3 pair lost. -/
  sweepResult : Nat
  /-- The run's BINDs have not completed (R339). -/
  starting : Bool
  /-- The sweep is over and its SWEEP can complete. -/
  swept : Bool
  /-- The time at the last block boundary (Table 3.11). -/
  lastSec : Nat
  lastSub : Nat
  /-- A replica exchange has been made at the present boundary (R120). -/
  exchanged : Bool
  /-- The best fields and sweeps stay those of the last settle (R172, R438). -/
  noSteps : Bool
  /-- Best-state tracking restarts at the next step 5 (R437; entry 108). -/
  bestLost : Bool
  /-- The fenced spans to be re-mapped, each with the number of epochs of the sweep whose marker it had sent (R434). -/
  remap : List (Nat × Nat)
  sys : Option SysRun
deriving DecidableEq, Repr

/-- What a checkpoint that has been written stands for (R287; entry 24): the header written, the version of the firmware
that wrote it (R288), and the run with the sweep data of its spans. -/
structure Ckpt where
  header : List Byte
  firmware : Nat
  run : Run
  datas : List (Nat × SpanData)
  shadows : List (Nat × Store Word)
  snaps : List (Nat × Store Word)
deriving DecidableEq, Repr

/-- The module. -/
structure State where
  /-- The commands that wait, first in, first out. -/
  pending : List Instr
  pwr : Power
  boot : Boot
  time : Time
  pcie : Pcie
  bus : Bus
  mon : Mon
  flt : Flt
  blocks : Store FltIf
  sec : Sec
  mbx : Mbx
  mesh : Mesh
  mems : Store MemIface
  cxls : Store CxlPort
  links : Store Link
  linkSys : LinkSys
  spans : Store Span
  ctxs : Store Ctx
  events : Store Event
  fe : Fe
  problems : List Problem
  runs : List Run
  /-- Ready markers of system runs that have not started here: run number, source module, marker (R227). -/
  early : List (Nat × Nat × Marker)
  ckpts : List Ckpt
  mem : List Host.Cell
  poison : List Nat
  /-- Count of free values drawn (entry 9). -/
  free : Nat
deriving DecidableEq, Repr

/-- The machine stops with a fault: no command of this block does (the spec gives every event an effect or none). -/
inductive Fault where
  /-- Raised by no meaning: the spec names no event at which the module stops for good without a state. Safe. -/
  | none
deriving DecidableEq, Repr

/-- A command without a meaning. -/
inductive Refusal where
  /-- Answered by an arm of exec that has no meaning yet; no arm is left so. Safe. -/
  | notModelled (mnemonic : String)
deriving DecidableEq, Repr

/-! ### Values after reset -/

/-- The key of a block in `State.blocks`. -/
def blockKey : BlockId → Nat
  | .spn n => n.val
  | .mem n => 16 + n.val
  | .cxl p => 24 + p.val
  | .lnk l => 26 + l.val
  | .mesh => 30
  | .fe => 31
  | .mon => 32
  | .rng => 33

/-- The default severities of the sources of a block, source 0 first (Tables 15.2 and 17.2): 0 LOG, 1 CORR,
2 FENCE, 3 ESCALATE. -/
def defaultSeverities : BlockId → List Nat
  | .spn _ => [1, 2, 0, 0, 2]
  | .mem _ => [1, 0, 1, 2, 3, 1, 0, 1, 2, 3]
  | .cxl _ => [0, 0, 0, 2]
  | .lnk _ => [2, 0, 1, 0, 0, 0, 2]
  | .mesh => [1, 2]
  | .fe => [0, 1, 3]
  | .mon => [0, 3, 3, 3]
  | .rng => [3, 3, 0]

/-- The severity register that holds a list of severities (R419). -/
def sevWord (l : List Nat) : BitVec 64 :=
  BitVec.ofNat 64 (l.zipIdx.foldl (fun acc p => acc + p.1 * 4 ^ p.2) 0)

/-- A fault interface after reset (Table 17.3). -/
def fltIf0 (b : BlockId) : FltIf :=
  { status := 0, irqEn := 0xFFFFFFFF, sev := sevWord (defaultSeverities b), corr := 0, valid := 0, oldest := 0,
    ovf := 0, hist := [] }

/-- An empty history entry. -/
def hist0 : HistEntry := ⟨0, 0, 0, 0, 0, false, 0⟩

/-- An MSI-X entry after reset (entry 16). -/
def msix0 : MsixEntry := ⟨0, 0, true⟩

/-- A GDDR7 interface after reset (Table 15.3). -/
def memIface0 : MemIface := ⟨false, 0, 0, 0, 0, 0, 0, false, 0⟩

/-- A CXL port after reset (Table 15.4). -/
def cxlPort0 : CxlPort := ⟨false, false, 0, 0, 0, 0, 0, [], []⟩

/-- The receive buffers of a VC, which the credits equal at ACTIVE (R249). -/
def vcCredits : Nat → Nat
  | 0 => 32
  | 1 => 128
  | 2 => 256
  | _ => 128

/-- A link after reset (Table 22.7). -/
def link0 : Link :=
  { enable := false, fwdEn := false, dateline := false, state := 0, width := 0, failed := 0, cable := true,
    txEnc := false, rxEnc := false, txSlot := 0, rxSlot := 0, downRx := 0, downTx := 0, peer := 0, peerValid := false,
    replays := 0, fecCorr := 0, fecUncorr := 0, drops := 0, badKind := 0, unknownVar := 0, txSeq := 0, rxNext := 0,
    nak := false, nakRx := false, credits := [], owed := [], waiting := [], unacked := [], tagFails := 0, txCount := 0, rxCount := 0,
    txSwitch := none, rxSwitch := none, trainTick := 0, ackTick := 0, paramTx := [], paramRx := false,
    cwSeq := 0, line := [] }

/-- A DMA tag that is idle. -/
def tag0 : Tag := ⟨false, false, 0, 0, 0, false, none⟩

/-- A free multicast slot. -/
def mcastSlot0 : McastSlot := ⟨false, 0, 0, 0⟩

/-- A pier after span reset (Table 11.8). -/
def pier0 : Pier :=
  { code := 0, pc := 0, launchSeq := 0, regs := [], loops := [], flight := [], blocked := none, launch := none,
    queue := [], tags := [], slots := [], lastCtx := 0 }

/-- Working data of a span that has run nothing. -/
def spanData0 : SpanData :=
  { fields := [], deck := [], counts := [], z := [], zCount := [], y := [], yCount := [], attempts := [],
    partials := [], log := [], changed := [], nAttempts := 0, nAccepts := 0, nConflicts := 0, nReverted := 0,
    nRefreshes := 0, nOver := 0, nRefreshBad := 0, ez := [], ezRaises := 0, far := [] }

/-- An idle sweep engine. -/
def engine0 : Engine :=
  { phase := .idle, epoch := 0, pos := 0, sent := 0, undoSent := 0, sentEf := 0, cont := none, ef := 0, data := spanData0, unitStart := none,
    blockRecs := [], epochRecs := [], flits := [], marks := [], batches := [], incs := [], incsTaken := [], applied := 0, flushFrom := 0,
    limit := false, ghosts := [], stopped := false, inject := [], kept := [], pairFlits := [], pairMarks := [], pairNext := 0 }

/-- A span after reset (Tables 7.8, 7.9, 11.8, 13.5, 22.8; R361, R495). -/
def span0 : Span :=
  { pier := pier0, eng := engine0, shadow := [], snap := [], acc := [], texp := [], bound := none,
    order := 0, runTile := 0, resetRefused := false, tenStatus := 0, tileStalls := 0, replays := 0, memCe := 0, errArray := 0,
    errWord := 0, marchPreserve := false, marchKeep := false, marchState := 2, marchRefused := false, repaired := 0,
    spares := [], scrub := 1000, scrubTick := 0, cycles := 0, silent := false, aclk := 0, poison := [], tileBuf := [], fenceRun := none, fencePier := 0 }

/-- An event after reset (Table 10.12). -/
def event0 : Event := ⟨0, false, false, 0⟩

/-- A context after reset (Tables 10.2, 10.3). -/
def ctx0 : Ctx :=
  { state := .free, enablePending := false, stalled := false, destroyDone := false, lastStatus := 0, enable := false,
    abort := false, priority := false, ringBase := 0, cplBase := 0, ringLog2 := 4, cplLog2 := 4, hang := 0, head := 0,
    tail := 0, cplTail := 0, cplHead := 0, capAddr := 0, capture := [], consts := [], useRing := 0, useCpl := 0,
    useRingLog2 := 4, useCplLog2 := 4, drainTail := none, fetched := [], exec := none, batch := none, held := [] }

/-- No stop cause. -/
def stops0 : Stops := ⟨false, false, false, false, false, false, false⟩

/-- The bytes of a signed object's header (Table 18.3) with security version 0 (entry 22). -/
def flashHeader0 (kind : Nat) : Store Byte :=
  [(0, 0x51), (1, 0x53), (2, 0x47), (3, 0x4E), (4, BitVec.ofNat 8 kind)]

/-- The configuration block before one has been accepted (entry 23). -/
def cfg0 : ConfigBlock :=
  { eccOn := true, cxlEnc := false, linkEnable := 0, linkEnc := 0, severities := [], personal := [] }

/-- Power and pins after the release of PERST_N that follows power-up (entry 1). -/
def power0 : Power :=
  { vin := true, en := true, on := true, good := true, tripped := false, tripCause := false, perst := false,
    slotId := 15, alive := false, aliveRun := true, aliveTick := 0, therm := false, cxlPerst := 3 }

/-- Boot registers after reset (Table 20.4). -/
def boot0 : Boot := ⟨5, false, false, 0, 0, true, 0, false⟩

/-- Time after reset (R471, Table 19.2). -/
def time0 : Time :=
  { sec := 0, sub := 0, ticks := 0, setTo := none, hold := 0, cap := none, lastAcc := none, lossMark := 0, pps := 0,
    jump := false, lost := false, ppsLast := 0, jumps := 0, losses := 0, ignored := 0 }

/-- The function after reset (R404, R412, Table 16.7; entry 16). -/
def pcie0 : Pcie :=
  { bar2Log2 := 28, bme := false, mps := 128, mrrs := 512, cplTimeout := 50, d3hot := false, winBase := 0, herr := 0, readFail := none,
    bar0 := 0, bar2 := 0, aer := 0,
    speed := 0, width := 0, flit := true, msixEnable := false, funcMask := false, msix := [], pba := [] }

/-- Monitors after reset (Table 19.3). -/
def mon0 : Mon := ⟨[], [], false, [], [], 0, 0, false, [], [], 0, 0, 0, []⟩

/-- The FLT block after reset (Table 17.6). -/
def flt0 : Flt :=
  { state := 0, cause := 0, escTime := 1000, quiet := 10000, limit := 3, window := 3600, recCount := 0, recs := [],
    esc := none, quietFrom := 0, faultTick := 0, spans := 0, mems := 0, links := 0, cxls := 0, startup := 0, lanes := [] }

/-- The security block after reset (Table 18.7; entries 2, 22, 23). -/
def sec0 : Sec :=
  { rng := 0, source := false, reseeding := false, reseeds := 0, drbg := drbg0, gens := 0, seedTick := 0, reseedInput := [],
    wrapSeed := 0, approved := false,
    debug := false, identityOk := false, identity := 0, romAnchor := Config.romAnchor, recovery := false, selfTestFail := false, imageSlot := 0, configSlot := 0,
    debugLevel := 0, challenge := none, keys := [], cxlKeys := [],
    flash := [(0, flashHeader0 1), (2, flashHeader0 2)], arbImage := 0, arbConfig := 0, svImage := 0, svConfig := 0,
    cfg := cfg0, mgmtAddr := none, mgmtResp := [], mgmtWait := none }

/-- The mailbox after reset (Table 22.5). -/
def mbx0 : Mbx := ⟨0, false, false, false, 0, 0, 0, 0, []⟩

/-- The mesh after reset (Table 14.4). -/
def mesh0 : Mesh := ⟨[], false, false, 0, 0, 0, 0, 0, 0, []⟩

/-- The front end after reset (Table 22.4). -/
def fe0 : Fe := ⟨0, 0, false, 0, 0, [], 0, 0⟩

/-- The machine right after the release of PERST_N that follows power-up. -/
def State.reset : State :=
  { pending := [], pwr := power0, boot := boot0, time := time0, pcie := pcie0, bus := ⟨[], false, [], false, []⟩, mon := mon0,
    flt := flt0, blocks := [], sec := sec0, mbx := mbx0, mesh := mesh0, mems := [], cxls := [], links := [],
    linkSys := ⟨0, false, []⟩, spans := [], ctxs := [], events := [], fe := fe0, problems := [], runs := [],
    early := [], ckpts := [], mem := [], poison := [], free := 0 }

end Sys2Proof.Machine
end

