-- ==== Sys2Proof/Machine/Ops.lean ====
section
/-! DEFINITION. The operations that every family uses: reading and changing one unit of the state, time on the tick
counter, MSI-X vectors (R409), the fault interface of a block (R415, R419-R421) and free values.
-/

namespace Sys2Proof.Machine

/-- The outcome of a command. -/
abbrev Out := Host.Outcome State Fault Refusal

/-- The outcome that goes on. -/
abbrev goOn (s : State) : Out := .next s

/-! ### One unit of the state -/

/-- Span `n`. -/
def State.span (s : State) (n : Nat) : Span := Store.get span0 n s.spans
/-- Replace span `n`. -/
def State.setSpan (s : State) (n : Nat) (x : Span) : State := { s with spans := Store.put span0 n x s.spans }
/-- Change span `n`. -/
def State.modSpan (s : State) (n : Nat) (f : Span → Span) : State := s.setSpan n (f (s.span n))
/-- Change the pier of span `n`. -/
def State.modPier (s : State) (n : Nat) (f : Pier → Pier) : State :=
  s.modSpan n (fun x => { x with pier := f x.pier })
/-- Change the sweep engine of span `n`. -/
def State.modEng (s : State) (n : Nat) (f : Engine → Engine) : State :=
  s.modSpan n (fun x => { x with eng := f x.eng })
/-- The pier of span `n`. -/
def State.pier (s : State) (n : Nat) : Pier := (s.span n).pier
/-- The engine of span `n`. -/
def State.eng (s : State) (n : Nat) : Engine := (s.span n).eng
/-- Context `c`. -/
def State.ctx (s : State) (c : Nat) : Ctx := Store.get ctx0 c s.ctxs
/-- Replace context `c`. -/
def State.setCtx (s : State) (c : Nat) (x : Ctx) : State := { s with ctxs := Store.put ctx0 c x s.ctxs }
/-- Change context `c`. -/
def State.modCtx (s : State) (c : Nat) (f : Ctx → Ctx) : State := s.setCtx c (f (s.ctx c))
/-- Event `e`. -/
def State.event (s : State) (e : Nat) : Event := Store.get event0 e s.events
/-- Replace event `e`. -/
def State.setEvent (s : State) (e : Nat) (x : Event) : State := { s with events := Store.put event0 e x s.events }
/-- GDDR7 interface `i`. -/
def State.memIface (s : State) (i : Nat) : MemIface := Store.get memIface0 i s.mems
/-- Change GDDR7 interface `i`. -/
def State.modMem (s : State) (i : Nat) (f : MemIface → MemIface) : State :=
  { s with mems := Store.put memIface0 i (f (s.memIface i)) s.mems }
/-- CXL port `p`. -/
def State.cxl (s : State) (p : Nat) : CxlPort := Store.get cxlPort0 p s.cxls
/-- Change CXL port `p`. -/
def State.modCxl (s : State) (p : Nat) (f : CxlPort → CxlPort) : State :=
  { s with cxls := Store.put cxlPort0 p (f (s.cxl p)) s.cxls }
/-- Link `l`. -/
def State.link (s : State) (l : Nat) : Link := Store.get link0 l s.links
/-- Change link `l`. -/
def State.modLink (s : State) (l : Nat) (f : Link → Link) : State :=
  { s with links := Store.put link0 l (f (s.link l)) s.links }
/-- The fault interface of block `b`. -/
def State.block (s : State) (b : BlockId) : FltIf := Store.get (fltIf0 b) (blockKey b) s.blocks
/-- Change the fault interface of block `b`. -/
def State.modBlock (s : State) (b : BlockId) (f : FltIf → FltIf) : State :=
  { s with blocks := Store.put (fltIf0 b) (blockKey b) (f (s.block b)) s.blocks }
/-- Replace the FLT block. -/
def State.withFlt (s : State) (f : Flt) : State := { s with flt := f }

/-- The spans. -/
def spanIds : List Nat := List.range 16

/-- Spans of a mask. -/
def maskSpans (m : Nat) : List Nat := spanIds.filter (fun n => natBit m n)

/-- The mask of a list of spans. -/
def spansMask (l : List Nat) : Nat := l.foldl (fun m n => if natBit m n then m else m + 2 ^ n) 0

/-- Clear bit `n` of a mask. -/
def clearBit (m n : Nat) : Nat := if natBit m n then m - 2 ^ n else m

/-- Set bit `n` of a mask. -/
def setBit (m n : Nat) : Nat := if natBit m n then m else m + 2 ^ n

/-- Span `n` is fenced (`FLT_FENCED`). -/
def State.spanFenced (s : State) (n : Nat) : Bool := s.flt.spans.getLsbD n
/-- The interface pair of MEMn is fenced. -/
def State.memFenced (s : State) (n : Nat) : Bool := s.flt.mems.getLsbD n
/-- Link `l` is fenced. -/
def State.linkFenced (s : State) (l : Nat) : Bool := s.flt.links.getLsbD l
/-- CXL port `p` is fenced. -/
def State.cxlFenced (s : State) (p : Nat) : Bool := s.flt.cxls.getLsbD p
/-- The spans that are not fenced. -/
def State.liveSpans (s : State) : List Nat := spanIds.filter (fun n => !s.spanFenced n)

/-! ### Time -/

/-- Ticks of one microsecond (TCLK is 250 MHz, Table 0.5). -/
def tickUs : Nat := 250
/-- Ticks of one millisecond. -/
def tickMs : Nat := 250000
/-- Ticks of one second. -/
def tickSec : Nat := 250000000

/-- The present tick. -/
def State.now (s : State) : Nat := s.time.ticks

/-- The die is powered and out of reset, and its main PLL has not lost lock, so its clocks run (R470, R487). -/
def State.running (s : State) : Bool := s.pwr.on && !s.pwr.perst && s.boot.lock

/-- The half-open window of R7: `t` lies in [start, start + length). -/
def inWindow (start length t : Nat) : Bool := decide (start ≤ t) && decide (t < start + length)

/-! ### MSI-X (R408, R409) -/

/-- The vector can send. -/
def State.vectorAble (s : State) (v : Nat) : Bool :=
  s.pcie.msixEnable && !s.pcie.funcMask && !(Store.get msix0 v s.pcie.msix).masked

/-- Set a `DEV_HERR` bit (R412, Table 16.4). -/
def State.setHerr (s : State) (bit : Nat) : State :=
  { s with pcie := { s.pcie with herr := s.pcie.herr ||| (1#7 <<< bit) } }

/-- Send one message; with Bus Master Enable 0 it cannot be sent (R412). -/
def State.sendMsix (s : State) (v : Nat) : State :=
  if s.pcie.bme then { s with bus := { s.bus with sent := s.bus.sent ++ [v] } } else s.setHerr 3

/-- Raise a vector (R409): one message, or the pending bit, into which further raises merge. -/
def State.raiseVector (v : Nat) (s : State) : State :=
  if s.vectorAble v then s.sendMsix v
  else if s.pcie.pba.contains v then s
  else { s with pcie := { s.pcie with pba := s.pcie.pba ++ [v] } }

/-- Send what a change of masks has let go: one message for each pending vector that can send (R409). -/
def State.sendPending (s : State) : State :=
  let due := s.pcie.pba.filter (fun v => s.vectorAble v)
  due.foldl (fun st v => st.sendMsix v)
    { s with pcie := { s.pcie with pba := s.pcie.pba.filter (fun v => !s.vectorAble v) } }

/-- The vector of a block (Table 16.5; MESH on 1,041, R421). -/
def blockVector : BlockId → Nat
  | .spn n => 1024 + n.val
  | .mem n => 1050 + n.val
  | .cxl p => 1048 + p.val
  | .lnk l => 1044 + l.val
  | .mesh => 1041
  | .fe => 1040
  | .mon => 1042
  | .rng => 1043

/-! ### Raising a fault source -/

/-- The source has a unit in Table 17.2 (R417). -/
def hasUnit : BlockId → Nat → Bool
  | .spn _, _ | .mem _, _ | .cxl _, _ | .lnk _, _ => true
  | .mesh, k => decide (k = 1)
  | .fe, _ | .mon, _ | .rng, _ => false

/-- The source keeps its severity (Table 17.2: fixed). -/
def fixedSeverity : BlockId → Nat → Bool
  | .cxl _, k => decide (k = 3)
  | .mesh, k => decide (k = 1)
  | .rng, k => decide (k = 0) || decide (k = 1)
  | _, _ => false

/-- The number of sources of a block (Table 17.2). -/
def sourceCount (b : BlockId) : Nat := (defaultSeverities b).length

/-- The severity programmed for a source (`<P>_FLT_SEV`). -/
def FltIf.severity (f : FltIf) (k : Nat) : Nat := natBits f.sev.toNat (2 * k + 1) (2 * k)

/-- The severity that a raise applies (R415, R417). -/
def State.appliedSeverity (s : State) (b : BlockId) (k : Nat) : Nat :=
  let v := (s.block b).severity k
  if v = 2 && !hasUnit b k then 3 else v

/-- Move the newest entry, `pos` places after the oldest, before entries of the same tick with greater source numbers
(R420: raises of one TCLK cycle are entered in increasing source number). -/
def sinkEntry (oldest : Nat) : Nat → Store HistEntry → Store HistEntry
  | 0, h => h
  | pos + 1, h =>
    let a := (oldest + pos) % 8
    let b := (oldest + pos + 1) % 8
    let x := Store.get hist0 a h
    let y := Store.get hist0 b h
    if x.tick = y.tick && decide (y.source < x.source) then
      sinkEntry oldest pos (Store.put hist0 a y (Store.put hist0 b x h))
    else h

/-- Enter a history entry (R420). -/
def FltIf.enter (f : FltIf) (e : HistEntry) : FltIf :=
  let j := (f.oldest + f.valid) % 8
  let full := decide (f.valid = 8)
  let oldest := if full then (f.oldest + 1) % 8 else f.oldest
  let valid := if full then 8 else f.valid + 1
  { f with hist := sinkEntry oldest (valid - 1) (Store.put hist0 j e f.hist), oldest := oldest, valid := valid,
           ovf := if full then satInc f.ovf else f.ovf }

/-- Start the escalation timer, in NORMAL only (R425). -/
def State.startEscalation (s : State) : State :=
  if s.flt.state = 0 then
    s.withFlt { s.flt with state := 1, esc := some ⟨s.now, s.flt.escTime * tickMs⟩ }
  else s

/-- The device is in FAULT and its quiet period has not ended (R7, R429). -/
def State.inQuiet (s : State) : Bool :=
  decide (s.flt.state = 2) && inWindow s.flt.quietFrom (s.flt.quiet * tickMs) s.now

/-- What a raise does apart from the fence: status bit, history, count, vectors, escalation, and the start of the
quiet period anew (R415, R419-R421, R425, R429). `mandatory` marks a fence of R423. -/
def State.enterRaise (s : State) (b : BlockId) (k : Nat) (mandatory : Bool) (detail : Nat) : State :=
  let sev := s.appliedSeverity b k
  let irq := (s.block b).irqEn.getLsbD k
  let s := s.modBlock b (fun f =>
    { f.enter ⟨s.now, s.time.sec, s.time.sub, k, sev, mandatory, detail⟩ with
      status := f.status ||| (1#32 <<< k), corr := if sev = 1 then satInc f.corr else f.corr })
  let s := if irq then s.raiseVector (blockVector b) else s
  let s := if (sev ≥ 2 || mandatory) && !(irq && blockVector b = 1041) then s.raiseVector 1041 else s
  let s := if (sev ≥ 2 || mandatory) && s.inQuiet then s.withFlt { s.flt with quietFrom := s.now } else s
  if sev = 3 then s.startEscalation else s

/-! ### Free values (entry 9) -/

/-- The next free 64-bit word. -/
def State.drawWord (s : State) : BitVec 64 × State :=
  (Config.freeWord s.free, { s with free := s.free + 1 })

/-- `n` free bytes, eight from each word. -/
def State.drawBytes (s : State) (n : Nat) : List Byte × State :=
  ((List.range n).map (fun i =>
      BitVec.ofNat 8 ((Config.freeWord (s.free + i / 8)).toNat >>> (8 * (i % 8)))),
    { s with free := s.free + ceilDiv n 8 })

/-- Requests for random numbers wait: a reseed is in progress or due (R451). -/
def State.rngHeld (s : State) : Bool :=
  s.sec.reseeding || decide (2 ^ 20 ≤ s.sec.gens) || decide (s.sec.seedTick + 60 * tickSec ≤ s.now)

/-- `n` raw samples of the active entropy source, eight to a byte (R447, R448). -/
def State.samples (s : State) (n : Nat) : List Byte × State := s.drawBytes (n / 8)

/-- Raw samples of the active source fail a health test (R447): sample `i` is bit `i` of the little-endian number. -/
def Sec.badSamples (x : Sec) (l : List Byte) : Bool := healthFails x.source (8 * l.length) (beNat l.reverse)

/-- `n` bytes of DRBG output (R451): one generate request for each 64 of them. -/
def State.generate (s : State) (n : Nat) : List Byte × State :=
  let k := ceilDiv n 64
  let r := Drbg.requests k n s.sec.drbg
  (r.1, { s with sec := { s.sec with drbg := r.2, gens := s.sec.gens + k } })

/-- The key slot of a link, direction and slot number (R456). -/
def keyIndex (l : Nat) (receive : Bool) (slot : Nat) : Nat := 4 * l + 2 * boolNat receive + slot

/-- The wrapping key of a slot (R456): KMAC256 of the slot number, one byte (entry 8), under the 32 bytes drawn at boot, with
S = "QKEY". -/
def Sec.wrapping (x : Sec) (slot : Nat) : BitVec 256 :=
  aesKey (kmac256 (beBytes 32 x.wrapSeed.toNat).reverse [BitVec.ofNat 8 slot] [0x51#8, 0x4B#8, 0x45#8, 0x59#8])

/-- The wrapping of a key for its slot, under a fresh IV from the DRBG and the wrapping key of the slot (R456). -/
def State.wrapKey (s : State) (slot : Nat) (plain : List Byte) : KeySlot × State :=
  let iv := s.generate 12
  let k := iv.2.sec.wrapping slot
  let text := gcmText k iv.1 plain
  (⟨iv.1, text ++ gcmTag k iv.1 [] text⟩, iv.2)

/-- The key that a slot holds, unwrapped. -/
def Sec.unwrap (x : Sec) (slot : Nat) (w : KeySlot) : List Byte :=
  gcmText (x.wrapping slot) w.iv (w.blob.take (w.blob.length - 16))

/-! ### Bytes -/

/-- The number that little-endian bytes spell (R6). -/
def leNat : List Byte → Nat
  | [] => 0
  | b :: r => b.toNat + 256 * leNat r

/-- `n` little-endian bytes of a number (R6). -/
def leBytes : Nat → Nat → List Byte
  | 0, _ => []
  | k + 1, v => BitVec.ofNat 8 v :: leBytes k (v / 256)

/-- `n` bytes of a list from an offset, zeros past its end. -/
def bytesAt (l : List Byte) (off n : Nat) : List Byte :=
  let r := (l.drop off).take n
  r ++ List.replicate (n - r.length) 0#8

/-- The number at an offset of a byte list. -/
def numAt (l : List Byte) (off n : Nat) : Nat := leNat (bytesAt l off n)

/-- The signed number at an offset of a byte list. -/
def intAt (l : List Byte) (off n : Nat) : Int := signedOf (8 * n) (numAt l off n)

/-- CRC-32C, reflected, polynomial 0x82F6_3B78 (R65). -/
def crcBit (c : Nat) : Nat := if c % 2 = 1 then (c / 2) ^^^ 0x82F63B78 else c / 2

/-- CRC-32C over a byte. -/
def crcByte (c : Nat) (b : Byte) : Nat :=
  let c := c ^^^ b.toNat
  crcBit (crcBit (crcBit (crcBit (crcBit (crcBit (crcBit (crcBit c)))))))

/-- CRC-32C of a byte list. -/
def crc32c (l : List Byte) : Nat := (l.foldl crcByte 0xFFFFFFFF) ^^^ 0xFFFFFFFF

end Sys2Proof.Machine
end

