-- ==== Sys2Proof/Machine/Memory.lean ====
section
/-! DEFINITION. Device memory: the address map (R20-R28), reads, writes and atomics of the module's own units, poison
(R359, R391, R397), and the accesses of the host through BAR2 (R404-R406). Every write goes through `memPut`, which
keeps the canonical form of the memory list.
-/

namespace Sys2Proof.Machine

/-! ### The list of cells -/

/-- What an address that is not listed reads as (entry 3). -/
def memDefault : Byte := 0#8

/-- The byte stored at a key. -/
def memGet (m : List Host.Cell) (a : Nat) : Byte := Store.get memDefault a m

/-- Store a byte, unlisting the default. -/
def memPut (m : List Host.Cell) (a : Nat) (b : Byte) : List Host.Cell := Store.put memDefault a b m

/-- The canonical form: addresses strictly rising, no listed default. -/
def Memory.wf (m : List Host.Cell) : Bool := Store.wf memDefault m

/-- Store several bytes. -/
def memPutAll (m : List Host.Cell) (l : List Host.Cell) : List Host.Cell :=
  l.foldl (fun acc c => memPut acc c.1 c.2) m

/-! ### The address map -/

/-- Base of the CXL window. -/
def cxlBase : Nat := 0x010000000000
/-- Base of the span regions. -/
def spanBase : Nat := 0x400000000000
/-- Size of a span region. -/
def spanSize : Nat := 0x02000000
/-- Base of the host range (R24). -/
def hostBase : Nat := 0x800000000000
/-- Base of the region of span `n`. -/
def spanRegion (n : Nat) : Nat := spanBase + n * spanSize

/-- Length of a GDDR7 region (R21, R22). -/
def State.regionLen (s : State) : Nat := if s.sec.cfg.eccOn then 0x3C0000000 else 0x400000000

/-- Bytes of the CXL window that are mapped (R23). -/
def State.cxlMapped (s : State) : Nat :=
  let a := s.cxl 0
  let b := s.cxl 1
  if a.present && b.present then 2 * min a.capBytes b.capBytes
  else if a.present then a.capBytes else if b.present then b.capBytes else 0

/-- The CXL port that serves an offset of the window, and the port's own page (R23, R399). -/
def State.cxlPage (s : State) (o : Nat) : Nat × Nat :=
  if (s.cxl 0).present && (s.cxl 1).present then ((o / 4096) % 2, o / 4096 / 2)
  else if (s.cxl 0).present then (0, o / 4096) else (1, o / 4096)

/-- A fence of a present port loses the whole window (R398). -/
def State.cxlLost (s : State) : Bool :=
  ((s.cxl 0).present && s.cxlFenced 0) || ((s.cxl 1).present && s.cxlFenced 1)

/-- What an address names. -/
inductive Target where
  | gddr (region iface : Nat)
  | cxl (port page : Nat)
  | scratch (n off : Nat)
  | setAlias (n off : Nat)
  | clrAlias (n off : Nat)
  /-- The read-only window, by the offset in the span's region (R25, R26). -/
  | window (n off : Nat)
  | host
  | unmapped
deriving DecidableEq, Repr

/-- The address map of Table 1.9 and Table 1.10. -/
def State.target (s : State) (a : Nat) : Target :=
  let rl := s.regionLen
  if a < 8 * rl then .gddr (a / rl) (2 * (a / rl) + (a % rl / 256) % 2)
  else if cxlBase ≤ a && a < cxlBase + s.cxlMapped then
    let p := s.cxlPage (a - cxlBase)
    .cxl p.1 p.2
  else if spanBase ≤ a && a < spanBase + 16 * spanSize then
    let n := (a - spanBase) / spanSize
    let o := (a - spanBase) % spanSize
    if o < 0x800000 then .scratch n o
    else if o < 0x1000000 then .setAlias n (o - 0x800000)
    else if o < 0x1800000 then .clrAlias n (o - 0x1000000)
    else .window n o
  else if hostBase ≤ a && a < 2 * hostBase then .host
  else .unmapped

/-- The address under which poison of `a` is kept: its granule, or its scratchpad word (R359, R391). -/
def State.poisonKey (s : State) (a : Nat) : Option Nat :=
  match s.target a with
  | .gddr _ _ | .cxl _ _ => some (a - a % 64)
  | .scratch _ _ => some (a - a % 8)
  | .setAlias n o | .clrAlias n o => some (spanRegion n + (o - o % 8))
  | _ => none

/-- What a word of a span's arrays holds, by array code and index (Table 13.5); 0 in the arrays that no request reads. -/
def Span.wordIn (x : Span) (array w : Nat) : Nat :=
  match array with
  | 1 => unsignedOf 64 (Store.get 0 w x.eng.data.fields)
  | 2 => (Store.get 0#64 w x.eng.data.deck).toNat
  | 3 => (Store.get 0#64 w x.shadow).toNat
  | 4 => (Store.get 0#64 w x.snap).toNat
  | _ => 0

/-- A word of a span's arrays is poisoned: it still holds what it held when it was (R359; entry 92). -/
def Span.poisoned (x : Span) (array w : Nat) : Bool :=
  Store.get 0 (array * 2 ^ 28 + w) x.poison = x.wordIn array w + 1

/-- Words of an array that a write covers whole are poisoned no more, whatever they held. -/
def Span.unpoison (x : Span) (array : Nat) (written : Nat → Bool) : Span :=
  if x.poison.isEmpty then x
  else { x with poison := x.poison.filter (fun k => !(decide (k.1 / 2 ^ 28 = array) && written (k.1 % 2 ^ 28))) }

/-- Words that have been written since are poisoned no more. -/
def Span.prunePoison (x : Span) : Span :=
  { x with poison := x.poison.filter (fun k => k.2 = x.wordIn (k.1 / 2 ^ 28) (k.1 % 2 ^ 28) + 1) }

/-- The ECC word of a span's other arrays that a byte of the read-only window lies in: array code and index (Tables 13.1 and
13.5). -/
def windowWord (o : Nat) : Option (Nat × Nat) :=
  if o < 0x1820000 then some (2, (o - 0x1800000) / 8)
  else if o < 0x1840000 then some (3, (o - 0x1820000) / 8)
  else if o < 0x1860000 then some (4, (o - 0x1840000) / 8)
  else if o < 0x1A00000 then none
  else some (1, (o - 0x1A00000) / 6)

/-- The byte lies in a poisoned granule or word. -/
def State.poisonedAt (s : State) (a : Nat) : Bool :=
  match s.target a with
  | .window n o => match windowWord o with
    | some (array, w) => (s.span n).poisoned array w
    | none => false
  | _ => match s.poisonKey a with
    | some k => s.poison.contains k
    | none => false

/-- Byte `i` of a number. -/
def byteOf (v i : Nat) : Byte := BitVec.ofNat 8 (v >>> (8 * i))

/-- A byte of the read-only window (R25, R26): deck, shadow, snapshot, reserved, field store. -/
def Span.windowByte (x : Span) (o : Nat) : Byte :=
  if o < 0x1820000 then byteOf (Store.get 0#64 ((o - 0x1800000) / 8) x.eng.data.deck).toNat (o % 8)
  else if o < 0x1840000 then byteOf (Store.get 0#64 ((o - 0x1820000) / 8) x.shadow).toNat (o % 8)
  else if o < 0x1860000 then byteOf (Store.get 0#64 ((o - 0x1840000) / 8) x.snap).toNat (o % 8)
  else if o < 0x1A00000 then 0#8
  else
    let v := Store.get 0 ((o - 0x1A00000) / 6) x.eng.data.fields
    let k := (o - 0x1A00000) % 6
    if k < 4 then byteOf (unsignedOf 32 (fieldInt v)) k else byteOf (unsignedOf 16 (fieldComp v)) (k - 4)

/-- The data of one byte, whatever its status. -/
def State.rawByte (s : State) (a : Nat) : Byte :=
  match s.target a with
  | .gddr _ _ | .cxl _ _ | .scratch _ _ | .host => memGet s.mem a
  | .setAlias n o | .clrAlias n o => memGet s.mem (spanRegion n + o)
  | .window n o => (s.span n).windowByte o
  | .unmapped => 0#8

/-! ### Status of an access -/

/-- How an access of the module's own units to one byte ends (R28, R359, R379, R394, R412). -/
inductive Io where
  | ok
  | addrErr
  | fenced
  | dataErr
deriving DecidableEq, Repr

/-- The unit that holds the byte is fenced. -/
def State.fencedAt (s : State) (a : Nat) : Bool :=
  match s.target a with
  | .gddr r _ => s.memFenced r
  | .cxl _ _ => s.cxlLost
  | .scratch n _ | .setAlias n _ | .clrAlias n _ | .window n _ => s.spanFenced n
  | .host | .unmapped => false

/-- How the host answers the read of a byte that is to fail (R412): a poisoned completion gives no data of the word, as a
poisoned word does (R359). -/
def hostIo (f : Option (Nat × ReadFail)) (write : Bool) (a : Nat) : Io :=
  match f with
  | some (h, .host .poisoned) => if !write && a / 8 = h / 8 then .dataErr else .ok
  | some (h, .host _) => if !write && a = h then .addrErr else .ok
  | some (_, .cxl) | none => .ok

/-- The status of one byte of an access by the module. -/
def State.byteIo (s : State) (write : Bool) (a : Nat) : Io :=
  match s.target a with
  | .unmapped => .addrErr
  | .host => if !s.pcie.bme then .addrErr else hostIo s.pcie.readFail write a
  | _ => if s.fencedAt a || s.pcie.readFail = some (a, .cxl) then .fenced
    else if !write && s.poisonedAt a then .dataErr else .ok

/-- The first byte of a range whose access does not end well, with its status. -/
def State.firstBad (s : State) (write : Bool) (a n : Nat) : Option (Nat × Io) :=
  (List.range n).findSome? (fun i => if s.byteIo write (a + i) = .ok then none else some (a + i, s.byteIo write (a + i)))

/-- The flits that a message of `n` bytes travels in (R366; entry 91). -/
def flitsOf (n : Nat) : Nat := max 1 (ceilDiv n 128)

/-- The bit of `DEV_HERR` that a read of `n` bytes sets when the host does not complete it (R412). -/
def State.noteHostFail (s : State) (write : Bool) (a n : Nat) : State :=
  match s.pcie.readFail with
  | some (h, .host how) => if !write && s.pcie.bme && decide (a ≤ h) && decide (h < a + n) then s.setHerr how.bit else s
  | some (_, .cxl) | none => s

/-- What a request leaves behind besides its data: the bits of `DEV_HERR` (R412), the count of flits that a fenced span's
router discards (R378). -/
def State.noteRequest (s : State) (write : Bool) (a n : Nat) : State :=
  let host := decide (0 < n) && decide (hostBase < a + n) && decide (a < 2 * hostBase)
  let s := (if host && !s.pcie.bme then s.setHerr 3 else s).noteHostFail write a n
  match s.firstBad write a n with
  | some (b, .fenced) =>
    match s.target b with
    | .gddr _ _ | .cxl _ _ => s
    | _ => { s with mesh := { s.mesh with drops := satAdd 0xFFFFFFFF s.mesh.drops (if write then flitsOf (a + n - b) else 1) } }
  | _ => s

/-- The bytes of a range, zero where the access does not end well (R28, R359). -/
def State.readBytes (s : State) (a n : Nat) : List Byte :=
  (List.range n).map (fun i => if s.byteIo false (a + i) = .ok then s.rawByte (a + i) else 0#8)

/-- A little-endian number read from memory. -/
def State.readNat (s : State) (a n : Nat) : Nat := leNat (s.readBytes a n)

/-! ### Writes -/

/-- The 8-byte word that holds an address is poisoned, and a write has not covered it whole: `seen` lists what the write has
covered of poisoned words so far. -/
def State.stillPoisoned (s : State) (seen : List Nat) (k : Nat) : Bool :=
  s.poisonedAt k && !(List.range 8).all (fun i => seen.contains (k - k % 8 + i))

/-- Where a written byte goes, and what is stored there over memory `m`; nothing where the write is discarded (R27, R28). The
atomics of an alias are not performed on a word that is poisoned when they reach it (R356, R359). -/
def State.landing (s : State) (m : List Host.Cell) (seen : List Nat) (a : Nat) (b : Byte) : Option Host.Cell :=
  match s.target a with
  | .gddr _ _ | .cxl _ _ | .scratch _ _ | .host => some (a, b)
  | .setAlias n o =>
    if s.stillPoisoned seen (spanRegion n + o) then none
    else some (spanRegion n + o, memGet m (spanRegion n + o) ||| b)
  | .clrAlias n o =>
    if s.stillPoisoned seen (spanRegion n + o) then none
    else some (spanRegion n + o, memGet m (spanRegion n + o) &&& ~~~b)
  | .window _ _ | .unmapped => none

/-- The granules and words of `poison` that a write of the listed addresses covers whole stay poisoned no more. -/
def State.clearPoison (s : State) (covered : List Nat) : List Nat :=
  s.poison.filter (fun k =>
    let len := match s.target k with
      | .scratch _ _ => 8
      | _ => 64
    !(List.range len).all (fun i => covered.contains (k + i)))

/-- The pages of encrypted CXL ports that a write touches, each counted once (R399). -/
def State.bumpPages (s : State) (addrs : List Nat) : State :=
  let pages := (addrs.filterMap (fun a => match s.target a with
    | .cxl p g => if (s.cxl p).enc then some (p, g) else none
    | _ => none)).dedup
  pages.foldl (fun st pg => st.modCxl pg.1 (fun c =>
    { c with counters := Store.put 0 pg.2 (Store.get 0 pg.2 c.counters + 1) c.counters })) s

/-- Memory after the listed bytes are written one after another, so that a write of several words reaches each word after
those before it (R356). -/
def State.land (s : State) (m : List Host.Cell) (l : List (Nat × Byte)) : List Host.Cell :=
  (l.foldl (fun (q : List Host.Cell × List Nat) c =>
    (match s.landing q.1 q.2 c.1 c.2 with
      | some k => memPut q.1 k.1 k.2
      | none => q.1, if s.poisonedAt c.1 then c.1 :: q.2 else q.2)) (m, [])).1

/-- Write the listed bytes at the listed addresses; bytes whose access does not end well are not written. -/
def State.storeCells (s : State) (l : List (Nat × Byte)) : State :=
  let good := l.filter (fun c => s.byteIo true c.1 = .ok)
  let plain := (good.filter (fun c => match s.target c.1 with
    | .setAlias _ _ | .clrAlias _ _ => false
    | _ => true)).map Prod.fst
  let t := s.bumpPages (good.map Prod.fst)
  { t with mem := s.land s.mem good, poison := s.clearPoison plain }

/-- Write consecutive bytes. -/
def State.writeBytes (s : State) (a : Nat) (l : List Byte) : State :=
  (s.storeCells (l.zipIdx.map (fun p => (a + p.2, p.1)))).noteRequest true a l.length

/-- Write a little-endian number of `n` bytes. -/
def State.writeNat (s : State) (a n v : Nat) : State := s.writeBytes a (leBytes n v)

/-- The owner performs one atomic operation on `w` bytes: the old contents, and the state after it (R323-R325, R359,
R379). Where the word is poisoned or its unit fenced, nothing is performed and the result is 0. -/
def State.atomicAt (s : State) (a w : Nat) (f : Nat → Nat) : Nat × State :=
  match s.firstBad false a w with
  | some _ => (0, s.noteRequest false a w)
  | none => (s.readNat a w, s.writeNat a w (f (s.readNat a w) % 2 ^ (8 * w)))

/-- The range is mapped and no fenced unit holds it (R533): the first failing address. -/
def State.rangeFail (s : State) (a n : Nat) : Option Nat := (s.firstBad true a n).map Prod.fst

/-! ### Copies (R279, R320, R321) -/

/-- Two ranges overlap. -/
def overlaps (a b n : Nat) : Bool := decide (0 < n) && decide (a < b + n) && decide (b < a + n)

/-- The status of the byte at `src + i` as a source (R321): a read-only range, which ends each span's region, is an error
past its end. -/
def State.sourceIo (s : State) (src i : Nat) : Io :=
  if spanBase ≤ src && src < spanBase + 16 * spanSize
      && decide ((src - spanBase) / spanSize < (src + i - spanBase) / spanSize) then .addrErr
  else s.byteIo false (src + i)

/-- The first offset at which a copy of `n` bytes stops (R321), with the address. -/
def State.copyStop (s : State) (src dst n : Nat) : Option (Nat × Nat) :=
  (List.range n).findSome? (fun i =>
    match s.sourceIo src i with
    | .addrErr | .fenced => some (i, src + i)
    | .dataErr => none
    | .ok => if s.byteIo true (dst + i) ≠ .ok then some (i, dst + i) else none)

/-- Copy `n` bytes as a DMA does (R320, R321, R359): up to the first unmapped or fenced byte; the bytes of a poisoned
word are not written and end the transfer well for the others. Reads are made up to the byte that stops the copy, and writes of
what they bring. The first address that failed, if any. -/
def State.dmaCopy (s : State) (src dst n : Nat) : State × Option Nat :=
  let stop := s.copyStop src dst n
  let len := match stop with
    | some (i, _) => i
    | none => n
  let idx := (List.range len).filter (fun i => s.sourceIo src i = .ok)
  let poisoned := (List.range len).find? (fun i => s.sourceIo src i ≠ .ok)
  let made := (List.range (min n (len + 1))).filter (fun i => s.sourceIo src i = .ok)
  let t := (s.noteRequest false src (min n (len + 1))).noteRequest true dst (match made.getLast? with
    | some i => i + 1
    | none => 0)
  let cells := idx.map (fun i => (dst + i, s.rawByte (src + i)))
  (t.storeCells cells, match stop with
    | some (_, a) => some a
    | none => poisoned.map (fun i => src + i))

/-! ### Scratchpad units -/

/-- Size of the scratchpad. -/
def scratchSize : Nat := 0x800000

/-- Bytes of the span's own scratchpad as its engines use them: the stored bits, poisoned or not (R359). -/
def State.spadBytes (s : State) (n off len : Nat) : List Byte :=
  (List.range len).map (fun i => memGet s.mem (spanRegion n + off + i))

/-- A number of the span's own scratchpad. -/
def State.spadNat (s : State) (n off len : Nat) : Nat := leNat (s.spadBytes n off len)

/-- Write the span's own scratchpad. -/
def State.spadWrite (s : State) (n off : Nat) (l : List Byte) : State :=
  let addrs := l.zipIdx.map (fun p => (spanRegion n + off + p.2, p.1))
  { s with mem := memPutAll s.mem addrs, poison := s.clearPoison (addrs.map Prod.fst) }

/-! ### BAR2 (R404-R406) -/

/-- The device address of a BAR2 offset (Table 16.3). -/
def State.bar2Addr (s : State) (o : Nat) : Nat :=
  let w := s.pcie.winBase.toNat * 0x10000000
  if s.pcie.bar2Log2 ≤ 36 then w + o
  else if s.pcie.bar2Log2 = 37 then o
  else if o < 0x2000000000 then o
  else w + (o - 0x2000000000)

/-- How a BAR2 access to one byte ends (Table 16.4). -/
inductive Bar2Io where
  | ok
  | unmapped
  | fenced
  | poisoned
deriving DecidableEq, Repr

/-- The outcome of one byte of a BAR2 access; before `DEV_STATUS.ready` every byte is unmapped (R410). -/
def State.bar2Io (s : State) (a : Nat) : Bar2Io :=
  if !s.boot.ready then .unmapped
  else match s.target a with
    | .host | .unmapped => .unmapped
    | _ => if s.fencedAt a then .fenced else if s.poisonedAt a then .poisoned else .ok

/-- The data byte that a BAR2 read returns (Table 16.4). -/
def State.bar2Byte (s : State) (a : Nat) : Byte :=
  match s.bar2Io a with
  | .ok => s.rawByte a
  | .unmapped | .fenced => 0xFF#8
  | .poisoned => 0#8

end Sys2Proof.Machine
end

