-- ==== Sys2Proof/Machine/Mesh.lean ====
section
/-! DEFINITION. The mesh: its routers (R9), dimension-ordered routes and detours (R10, R381, R382), the requests that cross a
failed router (R374, R383), and the VC1 flits on their way (R366-R368, R370).
-/

namespace Sys2Proof.Machine

/-! ### Routers -/

/-- The stops of Table 1.2. -/
inductive Stop where
  | span (n : Nat)
  | mem (n : Nat)
  | lnk (l : Nat)
  | cxl (p : Nat)
  | empty
  /-- HST, FE, KS, SEC. -/
  | service
deriving DecidableEq, Repr

/-- The stop at router 6y + x (Table 1.2). -/
def stopAt : Nat → Stop
  | 0 => .mem 0 | 1 => .span 0 | 2 => .lnk 0 | 3 => .span 1 | 4 => .cxl 0 | 5 => .mem 1
  | 6 => .span 2 | 7 => .mem 2 | 8 => .span 3 | 9 => .span 4 | 10 => .mem 3 | 11 => .span 5
  | 12 => .lnk 1 | 13 => .span 6 | 16 => .span 7 | 17 => .lnk 2
  | 19 => .span 8 | 21 => .empty | 22 => .span 9 | 23 => .empty
  | 24 => .span 10 | 25 => .mem 4 | 26 => .span 11 | 27 => .span 12 | 28 => .mem 5 | 29 => .span 13
  | 30 => .mem 6 | 31 => .span 14 | 32 => .lnk 3 | 33 => .span 15 | 34 => .cxl 1 | 35 => .mem 7
  | _ => .service

/-- The router of a stop. -/
def routerOf (t : Stop) : Nat := ((List.range 36).find? (fun r => stopAt r = t)).getD 14

/-- The router of span `n`. -/
def spanRouter (n : Nat) : Nat := routerOf (.span n)

/-- The router of a VC1 source: a span, or link stop `src` - 16. -/
def sourceRouter (src : Nat) : Nat := if src < 16 then spanRouter src else routerOf (.lnk (src - 16))

/-- The router of the stop that owns an address; the host's at HST (2, 2). -/
def State.ownerRouter (s : State) (a : Nat) : Nat :=
  match s.target a with
  | .gddr r _ => routerOf (.mem r)
  | .cxl p _ => routerOf (.cxl p)
  | .scratch n _ | .setAlias n _ | .clrAlias n _ | .window n _ => spanRouter n
  | .host | .unmapped => 14

/-! ### Routes -/

/-- The numbers from `a` to `b`, both included, in either direction. -/
def stepsTo (a b : Nat) : List Nat :=
  if a ≤ b then (List.range (b - a + 1)).map (a + ·) else (List.range (a - b + 1)).map (a - ·)

/-- The dimension-ordered route between two routers (R10): along x, then along y. -/
def dimRoute (src dst : Nat) : List Nat :=
  (stepsTo (src % 6) (dst % 6)).map (src / 6 * 6 + ·)
    ++ ((stepsTo (src / 6) (dst / 6)).drop 1).map (fun y => y * 6 + dst % 6)

/-- The route between two routers under the installed table (R10). -/
def State.route (s : State) (src dst : Nat) : List Nat :=
  match Store.get [] (src * 36 + dst) s.mesh.routes with
  | [] => dimRoute src dst
  | l => l

/-- Router `r` has failed. -/
def State.routerFailed (s : State) (r : Nat) : Bool := s.mesh.failed.getLsbD r

/-- The route between two routers passes a failed one. -/
def State.routeFails (s : State) (src dst : Nat) : Bool := (s.route src dst).any s.routerFailed

/-- Two routers are neighbours. -/
def neighbours (a b : Nat) : Bool :=
  (a / 6 = b / 6 && (a % 6 + 1 = b % 6 || b % 6 + 1 = a % 6)) || (a % 6 = b % 6 && (a / 6 + 1 = b / 6 || b / 6 + 1 = a / 6))

/-- The hops of a route. -/
def hops (l : List Nat) : List (Nat × Nat) := l.zip (l.drop 1)

/-- The hops of a route that are made in the detour class (R382): those from where it leaves its dimension-ordered path. -/
def detourHops (l : List Nat) : List (Nat × Nat) :=
  let d := dimRoute (l.headD 0) (l.getLastD 0)
  (hops l).drop (((hops l).zip (hops d)).takeWhile (fun q => q.1 = q.2)).length

/-- A list of edges has no cycle: dropping the edges from whose end none goes on, `fuel` times, leaves none. -/
def acyclic : Nat → List (Nat × Nat) → Bool
  | 0, l => l.isEmpty
  | fuel + 1, l => l.isEmpty || acyclic fuel (l.filter (fun e => l.any (fun f => f.1 = e.2)))

/-- The buffer dependencies of routes in the detour class (R382): a flit that holds a buffer at the end of one hop waits for
one at the end of the next. -/
def detourEdges (l : List (List Nat)) : List (Nat × Nat) :=
  (l.flatMap (fun r => (hops (detourHops r)).map (fun q => (q.1.1 * 36 + q.1.2, q.2.1 * 36 + q.2.2)))).dedup
where
  hops (l : List (Nat × Nat)) : List ((Nat × Nat) × (Nat × Nat)) := l.zip (l.drop 1)

/-- The route of a table for a pair of routers: the listed one, or dimension order. -/
def tableRoute (l : List (List Nat)) (src dst : Nat) : List Nat :=
  (l.find? (fun r => r.head? = some src && r.getLast? = some dst)).getD (dimRoute src dst)

/-- The stops whose routers work. -/
def State.workingStops (s : State) : List Nat :=
  (List.range 36).filter (fun r => decide (stopAt r ≠ .empty) && !s.routerFailed r)

/-- A table that the builder may install (R381, R382): for every pair of working stops a route between neighbours, of at
most four hops more than its dimension-ordered route, through no failed router, and no cycle of buffer dependency in the
detour class. -/
def State.tablesOk (s : State) (l : List (List Nat)) : Bool :=
  s.workingStops.all (fun a => s.workingStops.all (fun b =>
    let r := tableRoute l a b
    (hops r).all (fun h => neighbours h.1 h.2) && decide (r.length ≤ (dimRoute a b).length + 4) && !r.any s.routerFailed))
    && acyclic 1296 (detourEdges l)

/-- The routes as the tables hold them: of two for one pair, the first. -/
def tableOf (l : List (List Nat)) : Store (List Nat) :=
  Store.putAll [] (l.reverse.map (fun r => (r.headD 0 * 36 + r.getLastD 0, r))) []

/-- The turn between two hops, one along x and one along y, is one that a builder avoids: with `up`, from a hop to a lower
router number to one to a higher; without, the other way round. Routes without such turns form no cycle. -/
def turnBad (up : Bool) (g h : Nat × Nat) : Bool :=
  let grows (q : Nat × Nat) : Bool := decide (q.1 < q.2)
  let along (q : Nat × Nat) : Bool := decide (q.1 / 6 = q.2 / 6)
  decide (along g ≠ along h) && decide (grows g ≠ grows h) && (grows g != up)

/-- The ways in which a route, last router first, can go on: to a working neighbour, on its dimension-ordered path, or off it
without a turn that the builder avoids. -/
def State.grow (s : State) (up : Bool) (dim p : List Nat) : List (List Nat) :=
  let r := p.headD 0
  ((List.range 36).filter (fun q => neighbours r q && !s.routerFailed q && !p.contains q)).filterMap (fun q =>
    let n := q :: p
    let on (l : List Nat) : Bool := l.reverse.isPrefixOf dim
    let bad := match p with
      | a :: b :: _ => !on p && turnBad up (b, a) (a, q)
      | _ => false
    if on n || !bad then some n else none)

/-- Keep the first route of those that end in the same hop. -/
def sameHop : List (List Nat) → List (List Nat) := List.foldl (fun acc p =>
  if acc.any (fun q => q.take 2 = p.take 2) then acc else acc ++ [p]) []

/-- The first route that reaches `dst` when routes grow at most `fuel` hops. -/
def State.growTo (s : State) (up : Bool) (dim : List Nat) (dst : Nat) : Nat → List (List Nat) → Option (List Nat)
  | 0, l => (l.find? (fun p => p.headD 0 = dst)).map List.reverse
  | fuel + 1, l =>
    match l.find? (fun p => p.headD 0 = dst) with
    | some p => some p.reverse
    | none => s.growTo up dim dst fuel (sameHop (l.flatMap (s.grow up dim)))

/-- A table for the pairs whose dimension-ordered route passes a failed router. -/
def State.turnTable (s : State) (up : Bool) : List (List Nat) :=
  s.workingStops.flatMap (fun src => s.workingStops.filterMap (fun dst =>
    let d := dimRoute src dst
    if d.any s.routerFailed then s.growTo up d dst (d.length + 3) [[src]] else none))

/-- A builder that avoids turns finds a table set (R382): where it does, one exists. -/
def State.tableExists (s : State) : Bool := s.tablesOk (s.turnTable true) || s.tablesOk (s.turnTable false)

/-! ### Requests -/

/-- A request between a span and a stop crosses a failed router, out or back (R383). -/
def State.crossesTo (s : State) (n r : Nat) : Bool := s.routeFails (spanRouter n) r || s.routeFails r (spanRouter n)

/-- A request between a span and the owner of an address crosses a failed router, out or back (R383). -/
def State.crosses (s : State) (n a : Nat) : Bool := s.crossesTo n (s.ownerRouter a)

/-- The routers of the stops that own the bytes of a range: owners change at multiples of 4 KiB. -/
def State.ownerRouters (s : State) (a n : Nat) : List Nat :=
  ((List.range (ceilDiv (a % 4096 + n) 4096)).map (fun i => s.ownerRouter (a / 4096 * 4096 + 4096 * i))).dedup

/-- Some request of a span to a range of addresses crosses a failed router, out or back (R383). -/
def State.crossesRange (s : State) (n a len : Nat) : Bool := (s.ownerRouters a len).any (s.crossesTo n)

/-- A request between a span and a stop is held until the tables are installed (R374, R381). -/
def State.heldTo (s : State) (n r : Nat) : Bool := s.mesh.installBusy && s.crossesTo n r

/-- A request between a span and the owner of an address is held until the tables are installed (R374, R381). -/
def State.requestHeld (s : State) (n a : Nat) : Bool := s.heldTo n (s.ownerRouter a)

/-- Some request between the stop at router `r` and the owners of a range is held until the tables are installed (R374, R381). -/
def State.rangeHeld (s : State) (r a len : Nat) : Bool :=
  s.mesh.installBusy && (s.ownerRouters a len).any (fun q => s.routeFails r q || s.routeFails q r)

/-- A message between two stops is held until the tables are installed (R374, R381). -/
def State.wayHeld (s : State) (r q : Nat) : Bool := s.mesh.installBusy && (s.routeFails r q || s.routeFails q r)

/-- The router of the front end (Table 1.2). -/
def feRouter : Nat := 15

/-- A message between the front end and a span is held until the tables are installed (R369, R374). -/
def State.feHeld (s : State) (n : Nat) : Bool := s.heldTo n feRouter

/-- Some byte of a range lies in a span in a preserving march test, where requests wait for its end (R364). -/
def State.marchHeld (s : State) (a n : Nat) : Bool :=
  spanIds.any (fun m => decide ((s.span m).marchState = 1) && (s.span m).marchKeep && !s.spanFenced m
    && decide (spanRegion m < a + n) && decide (a < spanRegion m + spanSize))

/-- A DMA of span `n` is held (R364, R374). -/
def State.dmaHeld (s : State) (n : Nat) (x : Tag) : Bool :=
  s.rangeHeld (spanRouter n) x.src x.len || s.rangeHeld (spanRouter n) x.dst x.len
    || s.marchHeld x.src x.len || s.marchHeld x.dst x.len

/-- Flits that a fenced span's router discards (R378). -/
def State.countDrops (s : State) (k : Nat) : State :=
  { s with mesh := { s.mesh with drops := satAdd 0xFFFFFFFF s.mesh.drops k } }

/-! ### VC1 -/

/-- A message without the copy for span `n`. -/
def Vc1Msg.after (m : Vc1Msg) (n : Nat) : List Vc1Msg :=
  let rest := m.dests.filter (· ≠ n)
  if rest.isEmpty then [] else [{ m with dests := rest }]

/-- The oldest message of a kind on its way from a source to a span, of a table generation that `pick` admits, and the others.
An older one of the same channel goes first, unless it entered under other tables (R368; entry 113). -/
def takeVc1 (src dst : Nat) (kind : Vc1Body → Bool) (pick : Nat → Bool) :
    List Nat → List Vc1Msg → Option (Vc1Body × List Vc1Msg)
  | _, [] => none
  | gens, m :: rest =>
    if m.src = src && m.dests.contains dst then
      if kind m.body && !gens.contains m.gen && pick m.gen then some (m.body, m.after dst ++ rest)
      else (takeVc1 src dst kind pick (m.gen :: gens) rest).map (fun q => (q.1, m :: q.2))
    else (takeVc1 src dst kind pick gens rest).map (fun q => (q.1, m :: q.2))

/-- Every table generation. -/
def anyGen (_ : Nat) : Bool := true

/-- The body is a marker. -/
def Vc1Body.isMarker : Vc1Body → Bool
  | .marker .. => true
  | _ => false

/-- Routers accept the first `k` flits that span `n` holds back (R370). -/
def State.injectFirst (s : State) (n k : Nat) : State :=
  let q := (s.eng n).inject
  if q.isEmpty || k = 0 then s
  else
    let gen := s.mesh.generation
    { s with mesh := { s.mesh with vc1 := s.mesh.vc1 ++ (q.take k).map (fun (m : Vc1Msg) => { m with gen := gen }) } }.modEng n (fun g =>
      { g with inject := g.inject.drop k })

/-- A flit of a kind from span `src` for span `n` has left the injection queue, with all before it, when it arrives. -/
def State.injectFor (s : State) (src n : Nat) (kind : Vc1Body → Bool) (pick : Nat → Bool) : State :=
  match (takeVc1 src n kind pick [] s.mesh.vc1).isNone && decide (src < 16),
      (s.eng src).inject.findIdx? (fun m => m.dests.contains n && kind m.body) with
  | true, some i => s.injectFirst src (i + 1)
  | _, _ => s

/-- A copy from a VC1 source to a span is held until the tables are installed (R374, R381). -/
def State.vc1Held (s : State) (src n : Nat) : Bool :=
  s.mesh.installBusy && s.routeFails (sourceRouter src) (spanRouter n)

/-- The copies of the flits at some places of `vc1` that were inside router `r` are lost with it (R381): those for the spans
whose routes pass it (R375). Link stops send theirs again. -/
def State.loseInside (s : State) (r : Nat) (lost : List Nat) : State :=
  { s with mesh := { s.mesh with vc1 := s.mesh.vc1.zipIdx.flatMap (fun q =>
      if lost.contains q.2 && decide (q.1.src < 16) then
        let dests := q.1.dests.filter (fun d => !(s.route (sourceRouter q.1.src) (spanRouter d)).contains r)
        if dests.isEmpty then [] else [{ q.1 with dests := dests }]
      else [q.1]) } }

end Sys2Proof.Machine
end

