-- ==== Sys2Proof/Machine/Launch.lean ====
section
/-! DEFINITION. Events and their waits (R294, R295, R317), and the life of a launch on a pier: how a pier ends,
faults and stops (R311, R327, R328), the blocking instructions (R307, R318, R319, R322), and launches that
wait at the front end (R275).
-/

namespace Sys2Proof.Machine

/-! ### Commands in execution -/

/-- The opcode of a fetched command (R270). -/
def Fetched.opcode (f : Fetched) : Nat := numAt f.bytes 0 1
/-- The payload size of a fetched command. -/
def Fetched.payload (f : Fetched) : Nat := numAt f.bytes 2 2
/-- The tag of a fetched command. -/
def Fetched.tag (f : Fetched) : Nat := numAt f.bytes 4 4
/-- The cpl flag. -/
def Fetched.cpl (f : Fetched) : Bool := natBit (numAt f.bytes 1 1) 0
/-- The irq flag. -/
def Fetched.irq (f : Fetched) : Bool := natBit (numAt f.bytes 1 1) 1
/-- The cev flag. -/
def Fetched.cev (f : Fetched) : Bool := natBit (numAt f.bytes 1 1) 2

/-- A number of the packet. -/
def Exec.num (e : Exec) (off n : Nat) : Nat := numAt e.cmd.bytes off n

/-- The command has work in progress. -/
def Exec.isWorking (e : Exec) : Bool := decide (e.phase = .working)

/-- Change the command in execution of context `c`, the batch descriptor when `batch` (R291). -/
def State.modExec (s : State) (c : Nat) (batch : Bool) (f : Exec → Exec) : State :=
  s.modCtx c (fun x =>
    if batch then { x with batch := x.batch.map (fun b => { b with cur := b.cur.map f }) }
    else { x with exec := x.exec.map f })

/-- The command in execution of context `c`, the batch descriptor when `batch`. -/
def State.execOf (s : State) (c : Nat) (batch : Bool) : Option Exec :=
  if batch then (s.ctx c).batch.bind (fun b => b.cur) else (s.ctx c).exec

/-- The effect of the command is done: its completion is due (R269). -/
def State.finishExec (s : State) (c : Nat) (batch : Bool) (status detail : Nat) : State :=
  s.modExec c batch (fun e => { e with phase := .finished status detail })

/-! ### Pier registers -/

/-- Read a P register. -/
def Pier.reg (p : Pier) (r : PReg) : Word := Store.get 0#64 r.toNat p.regs
/-- Write a P register. -/
def Pier.setReg (p : Pier) (r : PReg) (v : Word) : Pier := { p with regs := Store.put 0#64 r.toNat v p.regs }
/-- Instructions in flight (R305). -/
def Pier.inFlight (p : Pier) : Nat := p.flight.length + boolNat p.blocked.isSome
/-- `SPN_PIER_STATUS` (Table 11.8). -/
def Pier.statusWord (p : Pier) : Nat := p.code + p.loops.length * 2 ^ 8 + p.inFlight * 2 ^ 16
/-- The pier carries on its launch: RUNNING or WAITING. -/
def Pier.live (p : Pier) : Bool := p.launch.isSome && (decide (p.code = 1) || decide (p.code = 2))

/-- The class of FENCE that an instruction belongs to (R319, R338): 0 control and scalar, 1 memory, 2 tensor,
3 anneal. -/
def instrClass : SpanInstr → Nat
  | .dma .. | .atadd .. | .atswp .. | .bset .. | .bclr .. | .mcast .. => 1
  | .mma .. | .mmaz .. | .red .. | .ewo .. | .accmv .. | .accz .. | .cvt .. => 2
  | .fldc .. | .sweep .. | .fref .. | .xchg .. | .wrot .. | .snap .. | .gibbs .. | .sched .. | .eaud .. | .rmig .. => 3
  | .nop | .halt | .br .. | .brc .. | .loop .. | .endlp | .seti .. | .addi .. | .alu .. | .ldc .. | .rdtime ..
  | .evrec .. | .evwait .. | .barrier .. | .fence .. | .dmaw .. => 0

/-- The instruction is an EVREC. -/
def isEvrec : SpanInstr → Bool
  | .evrec .. => true
  | _ => false

/-! ### Runs by problem slot -/

/-- The run in execution of the problem in slot `q`. -/
def State.run (s : State) (q : Nat) : Option Run := s.runs.find? (fun r => r.problem = q)
/-- Change the run of slot `q`. -/
def State.modRun (s : State) (q : Nat) (f : Run → Run) : State :=
  { s with runs := s.runs.map (fun r => if r.problem = q then f r else r) }
/-- Put stop causes of run `q` in force (R150). -/
def State.stopRun (s : State) (q : Nat) (f : Stops → Stops) : State :=
  s.modRun q (fun r => { r with stops := f r.stops })

/-! ### Events -/

/-- Write the outcome of a blocking instruction and let the pier issue again. -/
def Pier.unblock (p : Pier) : Pier := { p with blocked := none, code := 1 }

/-- The instant lies in the half-open window that starts at a tick and lasts some ticks; 0 ticks mark no limit (R7). -/
def beforeLimit (now start ticks : Nat) : Bool := ticks = 0 || decide (now < start + ticks)

/-- Test the EVWAIT that blocks a pier against an event, inside its window (R317). -/
def Pier.testEvwait (p : Pier) (now e : Nat) (v : Event) : Pier :=
  match p.blocked with
  | some (i, start) =>
    match i.instr with
    | .evwait rd _ timeout ev =>
      if ev.toNat = e && decide (i.b ≤ v.value) && beforeLimit now start (timeout.toNat * tickUs) then (p.setReg rd (if v.error then 1 else 0)).unblock else p
    | _ => p
  | none => p

/-- Test the EVWAIT command of a context against an event, inside its window (R295). -/
def Ctx.testEvwait (x : Ctx) (now e : Nat) (v : Event) : Ctx :=
  match x.exec with
  | some ex =>
    if ex.cmd.opcode = 0x04 && ex.isWorking && ex.num 0x10 2 = e && decide (ex.num 0x18 8 ≤ v.value.toNat)
        && beforeLimit now ex.start (ex.num 0x14 4 * tickUs) && decide (x.state ≠ .aborting) then
      { x with stalled := false,
               exec := some { ex with phase := .finished (if v.error then 1 else 0) v.value.toNat } }
    else x
  | none => x

/-- Test every wait on event `e` (R295, R317). -/
def State.testWaits (s : State) (e : Nat) : State :=
  let v := s.event e
  let s := { s with ctxs := Store.mapVals ctx0 (fun x => x.testEvwait s.now e v) s.ctxs }
  spanIds.foldl (fun st n =>
    match (st.pier n).blocked with
    | some _ => st.modPier n (fun p => p.testEvwait st.now e v)
    | none => st) s

/-- One operation on an event (R294): set or add, the error flag, the interrupt, and the waits. -/
def State.eventOp (s : State) (e : Nat) (add : Bool) (value : Word) (error host : Bool) : State :=
  let v := s.event e
  let s := s.setEvent e { v with value := if add then v.value + value else value, error := v.error || error }
  let s := if v.irqEn && !host then s.raiseVector v.vector.toNat else s
  s.testWaits e

/-! ### Launches waiting at the front end (R275, R364) -/

/-- The span takes a launch: its queue has room, no march test runs, it is not fenced, and no table set that is to be installed
holds messages to it (R374, R381). -/
def State.takesLaunch (s : State) (n : Nat) : Bool :=
  let x := s.span n
  decide (x.pier.queue.length < 8) && decide (x.marchState ≠ 1) && !s.spanFenced n && !s.feHeld n

/-- The commands with a launch for span `n` that waits at the front end: serial number, context, batch, launch. -/
def State.waitingLaunches (s : State) (n : Nat) : List (Nat × Nat × Bool × Launch) :=
  s.ctxs.flatMap (fun cx =>
    let one (b : Bool) (ex : Option Exec) : List (Nat × Nat × Bool × Launch) :=
      match ex with
      | some e => match e.launch with
        | some l => if natBit e.unsent n then [(e.serial, cx.1, b, l)] else []
        | none => []
      | none => []
    one false cx.2.exec ++ one true (cx.2.batch.bind (fun b => b.cur)))

/-- The waiting launch of the command that started first. -/
def firstWaiting (l : List (Nat × Nat × Bool × Launch)) : Option (Nat × Nat × Bool × Launch) :=
  l.foldl (fun best x => match best with
    | none => some x
    | some b => if x.1 < b.1 then some x else best) none

/-- Send span `n` the launches that wait for it, in the order their commands started, while it takes one; at most
`fuel` of them. -/
def State.sendLaunches : Nat → Nat → State → State
  | 0, _, s => s
  | fuel + 1, n, s =>
    if s.takesLaunch n then
      match firstWaiting (s.waitingLaunches n) with
      | some (_, c, b, l) =>
        State.sendLaunches fuel n
          ((s.modExec c b (fun e => { e with unsent := clearBit e.unsent n })).modPier n
            (fun p => { p with queue := p.queue ++ [l] }))
      | none => s
    else s

/-- Send every span what waits for it. -/
def State.sendAllLaunches (s : State) : State := spanIds.foldl (fun st n => st.sendLaunches 8 n) s

/-! ### The end of a launch -/

/-- The completion of a LAUNCH whose last launch has ended (R278), or of a command that the hang limit has ended (R280). -/
def Exec.launchResult (e : Exec) : Exec :=
  if e.hung && e.spansLeft = 0 && e.unsent = 0 && e.isWorking then { e with phase := .finished 0x14 e.spansAll }
  else if e.cmd.opcode = 0x01 && e.spansLeft = 0 && e.unsent = 0 && e.isWorking then
    if e.faulted ≠ 0 then { e with phase := .finished 0x1F e.faulted }
    else if e.failed ≠ 0 then { e with phase := .finished 0x12 e.failed }
    else { e with phase := .finished 0 0 }
  else e

/-- Give the executing command a launch for the spans of a mask (R275, R278): a fenced span receives none and counts
as failed; a batch task's launch goes first on the spans that the task has kept (R292). -/
def State.dispatch (s : State) (c : Nat) (batch : Bool) (spans : List Nat) (l : Launch) : State :=
  let live := spans.filter (fun n => !s.spanFenced n)
  let dead := spansMask (spans.filter (fun n => s.spanFenced n))
  let kept := if batch then
      live.filter (fun n => match (s.ctx c).batch with
        | some t => natBit t.resident n
        | none => false)
    else []
  let s := s.modExec c batch (fun e =>
    { e with phase := .working, spansAll := spansMask spans, launched := spansMask live, spansLeft := spansMask live,
             unsent := spansMask (live.filter (fun n => !kept.contains n)), failed := dead, launch := some l }.launchResult)
  let s := kept.foldl (fun st n => st.modPier n (fun p => { p with queue := l :: p.queue })) s
  let s := if batch then s.modCtx c (fun x => { x with batch := x.batch.map (fun b => { b with resident := 0 }) }) else s
  s.sendAllLaunches

/-- A span's launch has ended, with a fault when `fault`. -/
def Exec.spanDone (e : Exec) (n : Nat) (fault fenced : Bool) : Exec :=
  { e with spansLeft := clearBit e.spansLeft n, unsent := clearBit e.unsent n,
           launched := if natBit e.unsent n then clearBit e.launched n else e.launched,
           faulted := if fault then setBit e.faulted n else e.faulted,
           failed := if fenced then setBit e.failed n else e.failed }.launchResult

/-- The launch belongs to the command in execution. -/
def State.launchExec (s : State) (l : Launch) : Option Exec :=
  match s.execOf l.ctx l.batch with
  | some e => if e.serial = l.cmd then some e else none
  | none => none

/-- Launches of context `c` queued on a pier are discarded (R300). -/
def State.dropQueued (s : State) (c : Nat) : State :=
  spanIds.foldl (fun st n =>
    if (st.pier n).queue.any (fun l => l.ctx = c) then
      st.modPier n (fun p => { p with queue := p.queue.filter (fun l => l.ctx ≠ c) })
    else st) s

/-- The pier runs a launch of context `c`, for the command with a serial number when one is given. -/
def Pier.runsFor (p : Pier) (c : Nat) (serial : Option Nat) : Bool :=
  match p.launch with
  | some l => decide (l.ctx = c) && (match serial with
    | some k => decide (l.cmd = k)
    | none => true)
  | none => false

/-- The spans that run a launch of a command now. -/
def State.runningFor (s : State) (c serial : Nat) : Nat :=
  spansMask (spanIds.filter (fun n => (s.pier n).runsFor c (some serial)))

/-- A run of the command is in execution. -/
def State.carriesRun (s : State) (c serial : Nat) : Bool := s.runs.any (fun r => r.ctx = c && r.serial = serial)

/-- A command that is to end early keeps only the spans that run its launch now. -/
def Exec.withdrawn (e : Exec) (left : Nat) : Exec := { e with unsent := 0, launch := none, spansLeft := left }

/-- Perform the EVRECs in flight with the error bit, in issue order (R327). -/
def State.performEvrecs (s : State) (l : List InFlight) : State :=
  l.foldl (fun st i => match i.instr with
    | .evrec _ _ op ev => st.eventOp ev.toNat op i.b true false
    | _ => st) s

/-- The launch of pier `n` ends (R311, R327): the report to the front end, the vector of a fault or a fence (R328). A run that is still
bound stops as under QSTOP (R343); one whose pier an abort, a FAULT or a fence stopped has that cause of its own. -/
def State.endLaunch (s : State) (n : Nat) : State :=
  let p := s.pier n
  match p.launch with
  | none => s
  | some l =>
    let fault := decide (p.code ≥ 0x10)
    let s := s.modPier n (fun q => { q with launch := none, flight := [], blocked := none })
    let s := s.modSpan n (fun x => { x with order := if x.bound.isNone then 0 else x.order })
    let s := match (s.span n).bound with
      | some q => if p.code = 4 || p.code = 5 then s else s.stopRun q (fun t => { t with stop := true })
      | none => s
    let s := match s.launchExec l with
      | some _ => s.modExec l.ctx l.batch (fun e => e.spanDone n fault (decide (p.code = 5)))
      | none => s
    if fault || p.code = 5 then s.raiseVector (1024 + n) else s

/-- The pier faults (R327): it stops issuing, holds the index of the instruction at `pc`, abandons what blocks it and
the anneal instructions; the run bound to the span stops (R343). -/
def State.pierFault (s : State) (n code pc : Nat) : State :=
  if (s.pier n).live then
    let s := s.modPier n (fun p =>
      { p with code := code, pc := pc, blocked := none, flight := p.flight.filter (fun i => instrClass i.instr ≠ 3) })
    match (s.span n).bound with
    | some q => s.stopRun q (fun t => { t with stop := true })
    | none => s
  else s

/-- The pier stops (R328): STOPPED by an abort or a hang limit, FENCED by a fence; what is in flight completes (R327). With `owe`, the EVRECs in flight are
kept for the command's completion (R300). -/
def State.pierStop (s : State) (n code : Nat) (owe : Bool) : State :=
  let p := s.pier n
  if p.live then
    let evrecs := p.flight.filter (fun i => isEvrec i.instr)
    let s := s.modPier n (fun q =>
      { q with code := code, blocked := none,
               flight := q.flight.filter (fun i => instrClass i.instr ≠ 3 && !(owe && isEvrec i.instr)) })
    match p.launch with
    | some l =>
      if owe then s.modExec l.ctx l.batch (fun e => { e with owed := e.owed ++ evrecs.filterMap (fun i =>
        match i.instr with
        | .evrec _ _ op ev => some (ev.toNat, op, i.b)
        | _ => none) })
      else s
    | none => s
  else s

/-! ### Barriers (R318) -/

/-- The span counts as arrived without having issued the BARRIER. -/
def State.countsArrived (s : State) (b : Barrier) (n : Nat) : Bool :=
  s.spanFenced n ||
  (match s.execOf b.ctx b.batch with
   | some e => e.serial = b.cmd && natBit e.faulted n
   | none => false) ||
  (match (s.pier n).launch with
   | some l => l.cmd = b.cmd && decide ((s.pier n).code ≥ 0x10)
   | none => false)

/-- Every span of the barrier's mask has arrived. -/
def State.barrierDone (s : State) (b : Barrier) : Bool :=
  (maskSpans b.mask).all (fun n => natBit b.issued n || s.countsArrived b n)

/-- The command that opened the barrier is in execution. -/
def State.barrierOpen (s : State) (b : Barrier) : Bool :=
  match s.execOf b.ctx b.batch with
  | some e => e.serial = b.cmd
  | none => false

/-- Answer the spans of a complete barrier: each that waits on it gets the mask of the spans that did not issue it. -/
def State.answerBarrier (s : State) (b : Barrier) : State :=
  let absent := spansMask ((maskSpans b.mask).filter (fun n => !natBit b.issued n))
  (maskSpans b.issued).foldl (fun st n =>
    match (st.pier n).blocked with
    | some (i, _) =>
      match i.instr with
      | .barrier rd id _ =>
        if id.toNat = b.id && (st.pier n).launch.map (fun l => l.cmd) = some b.cmd then
          st.modPier n (fun p => (p.setReg rd (BitVec.ofNat 64 absent)).unblock)
        else st
      | _ => st
    | none => st) s

/-- The barrier is answered: every span of its mask has arrived, and no answer is held until tables are installed (R374). -/
def State.barrierAnswered (s : State) (b : Barrier) : Bool := s.barrierDone b && !(maskSpans b.issued).any s.feHeld

/-- Close every complete barrier, and forget those whose command has ended. -/
def State.barrierPass (s : State) : State :=
  let s := { s with fe := { s.fe with barriers := s.fe.barriers.filter (fun b => s.barrierOpen b) } }
  let done := s.fe.barriers.filter (fun b => s.barrierAnswered b)
  done.foldl (fun st b => st.answerBarrier b)
    { s with fe := { s.fe with barriers := s.fe.barriers.filter (fun b => !s.barrierAnswered b) } }

/-! ### Waiting piers -/

/-- Some earlier instruction of the named classes is in flight (R319). -/
def classInFlight (classes : Nat) (flight : List InFlight) : Bool :=
  flight.any (fun i => classes = 0 || natBit classes (instrClass i.instr))

/-- The tags of a DMAW mask (R322). -/
def maskTags (m : Nat) : List Nat := (List.range 32).filter (fun t => m = 0 || natBit m t)

/-- The DMA tag `t` of a pier. -/
def Pier.tag (p : Pier) (t : Nat) : Tag := Store.get tag0 t p.tags
/-- Change a DMA tag. -/
def Pier.setTag (p : Pier) (t : Nat) (x : Tag) : Pier := { p with tags := Store.put tag0 t x p.tags }

/-- The reports of span `n` to the front end are held until tables are installed (R374). -/
def State.reportHeld (s : State) (n : Nat) : Bool := !s.spanFenced n && s.feHeld n

/-- Carry on what waits on pier `n`: a blocking instruction that can complete, the end of an ending launch, a program
that has run past its end (R311). -/
def State.retestPier (s : State) (n : Nat) : State :=
  let p := s.pier n
  match p.launch with
  | none => s
  | some l =>
    if !p.live then
      if p.flight.all (fun i => isEvrec i.instr) && !s.reportHeld n then (s.performEvrecs p.flight).endLaunch n else s
    else match p.blocked with
      | none => if p.pc ≥ l.count then s.pierFault n 0x12 p.pc else s
      | some (i, _) =>
        match i.instr with
        | .fence classes =>
          if classInFlight classes.toNat p.flight then s else s.modPier n Pier.unblock
        | .halt => if p.flight.isEmpty && !s.reportHeld n then (s.modPier n (fun q => { q with code := 3, blocked := none })).endLaunch n else s
        | .dmaw rd f mask =>
          let tags := maskTags mask.toNat
          if tags.any (fun t => (p.tag t).busy) then s
          else
            let errs := tags.filter (fun t => (p.tag t).err)
            let v := errs.foldl (fun m t => m + 2 ^ t) 0
            let s := s.modPier n (fun q =>
              ((errs.foldl (fun q t => q.setTag t { q.tag t with err := false }) q).setReg rd
                (BitVec.ofNat 64 v)).unblock)
            if f && decide (v ≠ 0) then s.pierFault n 0x14 (p.pc - 1) else s
        | _ => s

/-- Something on pier `n` may go on. -/
def State.pierDue (s : State) (n : Nat) : Bool :=
  let p := s.pier n
  match p.launch with
  | none => false
  | some l => p.blocked.isSome || !p.live || decide (p.pc ≥ l.count)

/-- Let every pier and barrier go on as far as it can, in at most `fuel` rounds. -/
def State.quiesceFor : Nat → State → State
  | 0, s => s
  | fuel + 1, s =>
    if spanIds.any (fun n => s.pierDue n) then
      State.quiesceFor fuel (spanIds.foldl (fun st n => st.retestPier n) s).barrierPass
    else s

/-- Let every pier and barrier go on as far as it can: each round that changes something ends or frees one of the
16 piers, or ends a fault that followed. -/
def State.quiesce (s : State) : State := s.quiesceFor 40

end Sys2Proof.Machine
end

