-- ==== Sys2Proof/Machine/Context.lean ====
section
/-! DEFINITION. Contexts: capture records (R298), completion entries (R267), the completion of a command (R269), the ways
a context stops (R261, R534, R533), and the end of a destroy (R299-R301).
-/

namespace Sys2Proof.Machine

/-! ### Capture records -/

/-- What a capture record names (Table 10.14). -/
structure CaptureInfo where
  status : Nat
  mask : Nat
  tag : Nat
  slotAddr : Nat
  detail : Nat
  packet : List Byte
  /-- The event awaited, for EVWAIT. -/
  event : Option Nat
deriving DecidableEq, Repr

/-- `SPN_PIER_STATUS` of span `n` (R329); a fenced span's is that of its fence (R530). -/
def State.pierStatus (s : State) (n : Nat) : Nat :=
  if s.spanFenced n then (s.span n).fencePier else (s.pier n).statusWord

/-- The bytes of one span in a capture record. -/
def State.captureSpan (s : State) (mask n : Nat) : List Byte :=
  let p := s.pier n
  leBytes 4 p.pc ++ leBytes 4 (s.pierStatus n) ++ leBytes 4 p.launchSeq ++ leBytes 2 p.lastCtx
    ++ leBytes 2 (boolNat (natBit mask n) + 2 * boolNat (s.spanFenced n))

/-- The DMA tags of one span in a capture record: busy in [31:0], in error in [63:32]. -/
def State.captureTags (s : State) (n : Nat) : List Byte :=
  let p := s.pier n
  let busy := (List.range 32).foldl (fun m t => if (p.tag t).busy then m + 2 ^ t else m) 0
  let err := (List.range 32).foldl (fun m t => if (p.tag t).err then m + 2 ^ t else m) 0
  leBytes 4 busy ++ leBytes 4 err

/-- The 512 bytes of a capture record (Table 10.14). -/
def State.captureBytes (s : State) (c : Nat) (i : CaptureInfo) : List Byte :=
  let ev : Nat := i.event.getD 0
  let evv : Nat := match i.event with
    | some e => (s.event e).value.toNat
    | none => 0
  leBytes 4 0x50414351 ++ leBytes 2 1 ++ leBytes 2 i.status ++ leBytes 2 c ++ leBytes 2 i.mask ++ leBytes 4 i.tag
    ++ leBytes 8 i.slotAddr ++ leBytes 4 s.time.sec ++ leBytes 4 s.time.sub ++ leBytes 8 i.detail
    ++ leBytes 2 ev ++ leBytes 6 0 ++ leBytes 8 evv ++ leBytes 8 0 ++ bytesAt i.packet 0 64
    ++ (spanIds.map (s.captureSpan i.mask)).flatten ++ (spanIds.map s.captureTags).flatten

/-- Write a capture record to the window, and at `CTX_CAP_ADDR` when that is not 0 (R298). -/
def State.capture (s : State) (c : Nat) (i : CaptureInfo) : State :=
  let bytes := s.captureBytes c i
  let a := (s.ctx c).capAddr.toNat
  let s := s.modCtx c (fun x => { x with capture := bytes })
  if a = 0 then s else s.writeBytes a bytes

/-! ### Completion entries -/

/-- Completion entries written and not consumed. -/
def Ctx.cplUsed (x : Ctx) : Nat := (x.cplTail - x.cplHead).toNat

/-- The completion ring is full (R268). -/
def Ctx.cplFull (x : Ctx) : Bool := decide (x.cplUsed = 2 ^ x.useCplLog2)

/-- The address of the next entry (R267). -/
def Ctx.cplAddr (x : Ctx) : Nat := x.useCpl + 16 * (x.cplTail.toNat % 2 ^ x.useCplLog2)

/-- The phase bit of the next entry (R267). -/
def Ctx.cplPhase (x : Ctx) : Nat := (x.cplTail.toNat / 2 ^ x.useCplLog2 % 2 + 1) % 2

/-- The bytes of the next entry (Table 10.4); `flags` without the phase. -/
def Ctx.entryBytes (x : Ctx) (tag opcode flags status detail : Nat) : List Byte :=
  leBytes 4 tag ++ leBytes 1 opcode ++ leBytes 1 (flags + 4 * x.cplPhase) ++ leBytes 2 status ++ leBytes 8 detail

/-- `CTX_HEAD` when the command in execution has completed. -/
def Ctx.restHead (x : Ctx) : BitVec 32 :=
  match x.exec with
  | some e => x.head + BitVec.ofNat 32 e.cmd.slots
  | none => x.head

/-- The context's last status. -/
def State.setLastStatus (s : State) (c status : Nat) : State := s.modCtx c (fun x => { x with lastStatus := status })

/-- Stop a context (R261): an ACTIVE one becomes STOPPED and raises its vector; in DRAINING the drain ends and later
commands are discarded (R299). A drain with a command in execution ends behind that command. -/
def State.stopCtx (s : State) (c : Nat) : State :=
  match (s.ctx c).state with
  | .active => (s.modCtx c (fun x => { x with state := .stopped, fetched := [] })).raiseVector c
  | .draining => s.modCtx c (fun x => { x with fetched := [], drainTail := some x.restHead })
  | _ => s

/-- Write a completion entry and advance the tail (R267). An entry whose address cannot be written is discarded, and
the context stops with ADDR_ERR (R533), with a capture record in its window. `info` says what the record names besides. -/
def State.writeEntry (s : State) (c opcode flags : Nat) (info : CaptureInfo) : State :=
  let x := s.ctx c
  match s.rangeFail x.cplAddr 16 with
  | none =>
    (s.writeBytes x.cplAddr (x.entryBytes info.tag opcode flags info.status info.detail)).modCtx c
      (fun y => { y with cplTail := y.cplTail + 1 })
  | some a =>
    let s := s.noteRequest true x.cplAddr 16
    let s := s.modCtx c (fun y => { y with capture := s.captureBytes c { info with status := 0x11, detail := a } })
    (s.setLastStatus c 0x11).stopCtx c

/-! ### The completion of a command -/

/-- The address of a ring slot (R263). -/
def Ctx.slotAddr (x : Ctx) (i : Nat) : Nat := x.useRing + 64 * (i % 2 ^ x.useRingLog2)

/-- The status and detail with which the command completes: ABORTED in ABORT mode (R300), ADDR_ERR for a write that
failed while it executed (R533), else its own. -/
def Exec.outcome (e : Exec) (aborting : Bool) (status detail : Nat) : Nat × Nat :=
  if aborting then (0x1B, 0)
  else match e.lateFail with
    | some a => (0x11, a)
    | none => (status, detail)

/-- The command needs an entry (R267). -/
def Exec.needsEntry (e : Exec) (status : Nat) : Bool :=
  e.cmd.cpl || decide (status ≠ 0) || e.orderSens || e.saturated

/-- The event that an EVWAIT awaits, for the capture record. -/
def Exec.awaited (e : Exec) : Option Nat := if e.cmd.opcode = 0x04 then some (e.num 0x10 2) else none

/-- The event operations of an aborted command's own work, with the error bit (R300): those its piers had issued, or
an EVREC's operation that it had not performed. -/
def State.abortEvents (s : State) (e : Exec) (performed : Bool) : State :=
  let s := e.owed.foldl (fun st o => st.eventOp o.1 o.2.1 o.2.2 true false) s
  if e.cmd.opcode = 0x03 && !performed then
    s.eventOp (e.num 0x10 2) (natBit (e.num 0x12 1) 0) (BitVec.ofNat 64 (e.num 0x18 8)) true false
  else s

/-- The completion of the command `e` of context `c` with a status: capture record, entry, completion event,
interrupt, in this order (R269, R271, R298), then the stop of R261. A batch descriptor's completion moves no ring
head and stops no context (R261, R291). -/
def State.completeWith (s : State) (c : Nat) (e : Exec) (status detail : Nat) : State :=
  let bad := decide (status ≥ 0x10)
  let info : CaptureInfo := ⟨status, e.spansAll, e.cmd.tag, e.cmd.addr, detail, e.cmd.bytes, e.awaited⟩
  let s := if bad then s.capture c info else s
  let flags := boolNat e.batch + 2 * boolNat bad + 8 * boolNat e.orderSens + 16 * boolNat e.saturated
  let s := if e.batch then s
    else s.modCtx c (fun x => { x with head := x.head + BitVec.ofNat 32 e.cmd.slots, exec := none, stalled := false })
  let s := if e.batch then s else s.setLastStatus c status
  let s := if e.needsEntry status then s.writeEntry c e.cmd.opcode flags info else s
  let s := if e.cmd.cev then
      s.eventOp (numAt e.cmd.bytes 8 2) (natBit (numAt e.cmd.bytes 0xA 1) 0)
        (BitVec.ofNat 64 (numAt e.cmd.bytes 0xC 4)) bad false
    else s
  let s := if e.cmd.irq then s.raiseVector c else s
  if bad && !e.batch then s.stopCtx c else s

/-- A command that has been fetched and has not started, as ABORT mode completes it (R300). -/
def Fetched.asExec (f : Fetched) (now : Nat) : Exec :=
  { cmd := f, start := now, hangMs := 0, phase := .finished 0x1B 0, serial := 0, spansAll := 0, launched := 0, spansLeft := 0,
    unsent := 0, faulted := 0, failed := 0, launch := none, orderSens := false, saturated := false, batch := false,
    hung := false, lateFail := none, owed := [] }

/-- A fault of a context without a readable command (R534): capture record, entry, stop; the head stays. -/
def State.slotFault (s : State) (c status : Nat) (tag opcode detail slotAddr : Nat) (packet : List Byte) : State :=
  let info : CaptureInfo := ⟨status, 0, tag, slotAddr, detail, packet, none⟩
  let s := s.capture c info
  let s := s.setLastStatus c status
  let s := if (s.ctx c).cplFull || !(s.ctx c).held.isEmpty then
      s.modCtx c (fun x => { x with held := x.held ++ [⟨tag, opcode, status, detail, slotAddr, packet⟩] })
    else s.writeEntry c opcode 2 info
  s.stopCtx c

/-- Write the entries that wait for room, while there is room (R268). -/
def State.flushHeld (c : Nat) : List HeldEntry → State → State
  | [], s => s.modCtx c (fun x => { x with held := [] })
  | h :: rest, s =>
    if (s.ctx c).cplFull then s.modCtx c (fun x => { x with held := h :: rest })
    else State.flushHeld c rest (s.writeEntry c h.opcode 2 ⟨h.status, 0, h.tag, h.slotAddr, h.detail, h.packet, none⟩)

/-! ### Creation and destruction -/

/-- Create a context (R258). -/
def Ctx.create (x : Ctx) : Ctx :=
  { x with state := .active, enablePending := false, head := x.tail, cplTail := 0, cplHead := 0, consts := [],
           useRing := x.ringBase.toNat, useCpl := x.cplBase.toNat, useRingLog2 := min 16 (max 4 x.ringLog2),
           useCplLog2 := min 16 (max 4 x.cplLog2), drainTail := none, fetched := [], exec := none, batch := none,
           stalled := false, held := [] }

/-- The end of a destroy (R301, R259): the DESTROY_DONE entry, destroy_done, the vector, FREE, and the create that
waited for it. -/
def State.finishDestroy (s : State) (c : Nat) : State :=
  let s := s.writeEntry c 0 0 ⟨0x02, 0, 0, 0, 0, [], none⟩
  let s := s.modCtx c (fun x =>
    { x with destroyDone := true, state := .free, fetched := [], exec := none, batch := none, drainTail := none,
             stalled := false, held := [] })
  let s := s.raiseVector c
  if (s.ctx c).enablePending then s.modCtx c Ctx.create else s

/-- Stop the piers that run launches of context `c` (R300, R280). -/
def State.stopPiersOf (s : State) (c : Nat) (serial : Option Nat) (owe : Bool) : State :=
  spanIds.foldl (fun st n => if (st.pier n).runsFor c serial then st.pierStop n 4 owe else st) s

end Sys2Proof.Machine
end

