-- ==== Sys2Proof/Machine/Codeword.lean ====
section
/-! DEFINITION. The codewords of a Pechanen link (R243, R244): the control field, the stream of flits, the FEC parity,
the lanes and the PAM4 levels.
-/

namespace Sys2Proof.Machine

/-! ### RS(544,514) over 10-bit symbols (R243; PRESUMED, entry 119: field, generator and order of IEEE Std 802.3) -/

/-- `a` times x modulo x^10 + x^3 + 1. -/
def rsDouble (a : Nat) : Nat := if 512 ≤ a then (2 * a) % 1024 ^^^ 9 else 2 * a

/-- The product of two field elements, from the bits of `b`, lowest first. -/
def rsMulBits : Nat → Nat → Nat → Nat
  | 0, _, _ => 0
  | n + 1, a, b => (if b % 2 = 1 then a else 0) ^^^ rsMulBits n (rsDouble a) (b / 2)

/-- The product of two field elements. -/
def rsMul (a b : Nat) : Nat := rsMulBits 10 a b

/-- A polynomial, highest power first, times (x - r). -/
def mulRoot (r : Nat) (g : List Nat) : List Nat :=
  (g ++ [0]).zipWith (fun a b => a ^^^ rsMul r b) (0 :: g)

/-- The generator: roots α^0 to α^29, and the power of α that comes next, after `n` roots. -/
def rsGenerator : Nat → List Nat × Nat
  | 0 => ([1], 1)
  | n + 1 => let g := rsGenerator n; (mulRoot g.2 g.1, rsDouble g.2)

/-- The 30 parity symbols of a message, the first symbol being the highest power. -/
def rsParity (message : List Nat) : List Nat :=
  let gen := (rsGenerator 30).1.drop 1
  message.foldl (fun (reg : List Nat) m =>
    let f := m ^^^ reg.headD 0
    (reg.drop 1 ++ [0]).zipWith (fun a g => a ^^^ rsMul f g) gen) (List.replicate 30 0)

/-! ### Codewords (R244) -/

/-- The control field (Table 9.5). -/
def controlField (seq : BitVec 4) (second : Bool) (width : Nat) (training : Bool) : Nat :=
  seq.toNat + 16 * boolNat second + 32 * (width % 4) + 128 * boolNat training

/-- The number that the bits of a byte list spell, byte 0 first and bit 0 of each byte first. -/
def streamBits : List Byte → Nat
  | [] => 0
  | b :: r => b.toNat + 256 * streamBits r

/-- The 512 message symbols of 640 bytes of flit stream: stream bit b in symbol b / 10 at bit b mod 10. -/
def streamSymbols (bytes : List Byte) : List Nat :=
  let v := streamBits bytes
  (List.range 512).map (fun k => v >>> (10 * k) % 1024)

/-- The 544 symbols of a codeword: control field, stream, parity. -/
def codeword (control : Nat) (bytes : List Byte) : List Nat :=
  let message := [control % 1024, control / 1024] ++ streamSymbols bytes
  message ++ rsParity message

/-- The two codewords that carry five flits: the first 640 bytes of them, and the rest. -/
def codewordPair (seq : BitVec 4) (width : Nat) (training : Bool) (flits : List (List Byte)) : List Nat × List Nat :=
  let l := flits.flatten
  (codeword (controlField seq false width training) (l.take 640),
   codeword (controlField (seq + 1) true width training) (l.drop 640))

/-- The lanes in use at a width code: 8, 4 or 2. -/
def laneCount (width : Nat) : Nat := 8 / 2 ^ width

/-- The symbols of a codeword that go to lane `k`, in order: symbol s goes to lane s mod n. -/
def laneSymbols (width k : Nat) (symbols : List Nat) : List Nat :=
  (symbols.zipIdx.filter (fun q => q.2 % laneCount width = k)).map Prod.fst

/-- The PAM4 level of two bits (R243). -/
def pamLevel : Nat → Int
  | 0 => -3
  | 1 => -1
  | 3 => 1
  | _ => 3

/-- The five PAM4 levels of a 10-bit symbol, bits [1:0] first. -/
def pamLevels (symbol : Nat) : List Int := (List.range 5).map (fun i => pamLevel (symbol >>> (2 * i) % 4))

/-- What lane `k` sends of a codeword. -/
def laneLevels (width k : Nat) (symbols : List Nat) : List Int := (laneSymbols width k symbols).flatMap pamLevels

end Sys2Proof.Machine
end

