-- ==== Sys2Proof/Machine/LinkBase.lean ====
section
/-! DEFINITION. The transmit side of a Pechanen link: codewords (R244), credits, the replay buffer, messages (R246-R250), and
a link that goes down (R241, R252, R427, R528).
-/

namespace Sys2Proof.Machine

/-- State codes of `LNK_STATUS` (Table 22.7). -/
def lnkDisabled : Nat := 0
/-- DETECT. -/
def lnkDetect : Nat := 1
/-- ALIGN. -/
def lnkAlign : Nat := 3
/-- ACTIVE. -/
def lnkActive : Nat := 6
/-- DOWN. -/
def lnkDown : Nat := 7

/-- The credit of a VC. -/
def Link.credit (x : Link) (vc : Nat) : Nat := Store.get 0 vc x.credits

/-- The VC of the credits to return with the next flit, and their count, at most 63 (R249). -/
def Link.creditReturn (x : Link) : Nat × Nat :=
  match (List.range 4).find? (fun v => decide (0 < Store.get 0 v x.owed)) with
  | some v => (v, min 63 (Store.get 0 v x.owed))
  | none => (0, 0)

/-- The order in which the transmitter chooses among ready flits (R249). -/
def vcOrder : List Nat := [0, 1, 3, 2]

/-- Sixteen flit times in ticks, rounded up: 34 ns at ×8 (Table 9.6). -/
def lateTicks (width : Nat) : Nat := (17 * 2 ^ width + 1) / 2

/-- A VC2 flit that has waited 16 flit times, by the clock or by the flits that have left since it waits (R249; entry 107). -/
def Link.late (x : Link) (now : Nat) (f : TxFlit) : Bool :=
  decide (f.hdr.vc = 2) && (decide (16 ≤ f.passed) || decide (f.since + lateTicks x.width ≤ now))

/-- The next flit to send: a VC2 flit that has waited 16 flit times, else the first waiting flit of the first class that has
one and a credit (R249). -/
def Link.choose (x : Link) (now : Nat) : Option TxFlit :=
  let usual := vcOrder.findSome? (fun v =>
    if 0 < x.credit v then x.waiting.find? (fun f => f.hdr.vc.toNat = v) else none)
  if 0 < x.credit 2 then (x.waiting.find? (x.late now)).orElse (fun _ => usual) else usual

/-- Remove the first element equal to `f`. -/
def dropFirst (f : TxFlit) : List TxFlit → List TxFlit
  | [] => []
  | x :: r => if x = f then r else x :: dropFirst f r

/-- The header of a flit as bytes 0 to 11 (Table 9.8). -/
def headerBytes (h : FlitHdr) (kind aux len : Nat) : List Byte :=
  leBytes 1 h.seq.toNat ++ leBytes 1 h.ack.toNat ++ leBytes 1 (boolNat h.nak + 4 * h.vc.toNat + 16 * (kind % 16))
    ++ leBytes 3 (h.dst.toNat + 4096 * h.src.toNat) ++ leBytes 1 h.ttl.toNat ++ leBytes 1 len
    ++ leBytes 1 (h.crVc.toNat + 4 * h.crCount.toNat) ++ leBytes 1 aux ++ leBytes 2 h.run.toNat

/-- Bytes 12 to 251 of a plain flit: the payload, and zeros after it (R246). -/
def plainBody (payload : List Byte) : List Byte := bytesAt payload 0 240

/-- Bytes 12 to 251 of an encrypted flit (R254): the ciphertext of 224 payload bytes, and the tag. `key` is a key with its
salt, `count` the flits sent before under it. The additional data is the header without what a replay may change. -/
def sealedBody (key : List Byte) (count : Nat) (h : FlitHdr) (kind aux : Nat) (payload : List Byte) : List Byte :=
  let k := aesKey (bytesAt key 0 32)
  let iv := bytesAt key 32 4 ++ leBytes 8 count
  let text := gcmText k iv (bytesAt payload 0 224)
  text ++ gcmTag k iv (headerBytes { h with ack := 0, nak := false, crVc := 0, crCount := 0 } kind aux payload.length) text

/-- The 256 bytes of a sent flit: header, body, and the CRC-32C of both (R246). -/
def TxFlit.bytes (f : TxFlit) : List Byte :=
  let l := headerBytes f.hdr f.kind f.aux f.payload.length ++ f.body
  l ++ leBytes 4 (crc32c l)

/-- A flit takes the next place of the codeword pair that is being filled, or starts a pair (R244). -/
def Link.toLine (x : Link) (flit : List Byte) : Link :=
  if x.line.length = 5 || x.line.isEmpty then { x with line := [flit], cwSeq := x.cwSeq + 2 }
  else { x with line := x.line ++ [flit] }

/-- The codeword pair that the link sent last (R244). -/
def Link.lastPair (x : Link) : List Nat × List Nat :=
  codewordPair (x.cwSeq - 2) x.width (decide (1 ≤ x.state) && decide (x.state < lnkActive)) x.line

/-- An IDLE flit (R244, Table 9.8): it names the next sequence number, and carries ack, nak and returned credits; destination
and class are DEDUCED (entry 119). -/
def Link.sendIdle (id : BitVec 12) (x : Link) : Link :=
  let cr := x.creditReturn
  let h : FlitHdr := { seq := x.txSeq, ack := x.rxNext - 1, nak := x.nak, vc := 0, dst := 0xFFF, src := id, ttl := 255,
                       crVc := BitVec.ofNat 2 cr.1, crCount := BitVec.ofNat 6 cr.2, run := 0, fec := 0 }
  let l := headerBytes h 0 0 0 ++ plainBody []
  let y : Link := { x with owed := Store.put 0 cr.1 (Store.get 0 cr.1 x.owed - cr.2) x.owed }
  y.toLine (l ++ leBytes 4 (crc32c l))

/-- IDLE flits fill the codeword pair, and go on while credits are to be returned, at most `fuel` of them (R244, R249). -/
def Link.fillIdle (id : BitVec 12) : Nat → Link → Link
  | 0, x => x
  | fuel + 1, x =>
    if x.line.length % 5 = 0 && (List.range 4).all (fun v => decide (Store.get 0 v x.owed = 0)) then x
    else Link.fillIdle id fuel (x.sendIdle id)

/-- Send one flit: it takes the next sequence number and a credit, carries ack, nak and returned credits, and enters
the replay buffer as it goes out (R246, R249, R250). An encrypted direction, whose keys are `keys`, counts it under its key
(R254). A flit that this module makes names its present ID (R527). -/
def Link.sendOne (keys : Nat → List Byte) (id : BitVec 12) (x : Link) (f : TxFlit) : Link :=
  let cr := x.creditReturn
  let h := { f.hdr with seq := x.txSeq, ack := x.rxNext - 1, nak := x.nak, crVc := BitVec.ofNat 2 cr.1,
                        crCount := BitVec.ofNat 6 cr.2, src := if f.own then id else f.hdr.src }
  let v := f.hdr.vc.toNat
  let body := if x.txEnc then sealedBody (keys x.txSlot) x.txCount h f.kind f.aux f.payload else plainBody f.payload
  let g := { f with hdr := h, body := body }
  let y : Link :=
  { x with waiting := (dropFirst f x.waiting).map (fun (g : TxFlit) => { g with passed := g.passed + 1 }),
           unacked := x.unacked ++ [g], txSeq := x.txSeq + 1,
           credits := Store.put 0 v (x.credit v - 1) x.credits,
           owed := Store.put 0 cr.1 (Store.get 0 cr.1 x.owed - cr.2) x.owed,
           txCount := if x.txEnc then x.txCount + 1 else x.txCount }
  y.toLine g.bytes

/-- The transmit direction changes to the other key slot when its count reaches the flit that KEY_SWITCH named; the
count restarts at 0 (R254). -/
def Link.switchTx (x : Link) : Link :=
  match x.txSwitch with
  | some (slot, at_) => if x.txCount ≥ at_ then { x with txSlot := slot, txCount := 0, txSwitch := none } else x
  | none => x

/-- Send what can be sent, at most `fuel` flits: only in ACTIVE, and with fewer than 128 flits unacknowledged
(R250, R251). With none to send, IDLE flits fill the codeword pair and return the credits that are left (R244, R249). -/
def Link.pump (keys : Nat → List Byte) (id : BitVec 12) (now : Nat) : Nat → Link → Link
  | 0, x => x
  | fuel + 1, x =>
    if x.state = lnkActive then
      match if x.unacked.length < 128 then x.choose now else none with
      | some f => Link.pump keys id now fuel (x.switchTx.sendOne keys id f)
      | none => x.fillIdle id 32
    else x

/-- The key and salt of a transmit slot of a link, none when it is empty (R456). -/
def State.linkKey (s : State) (l slot : Nat) : List Byte :=
  let k := keyIndex l false slot
  match Store.get none k s.sec.keys with
  | some w => s.sec.unwrap k w
  | none => []

/-- Pump a link. The time of the acknowledgement starts with the first flit that waits for one (R250). -/
def State.pumpLink (s : State) (l : Nat) : State :=
  let now := s.now
  s.modLink l (fun x =>
    let y := Link.pump (s.linkKey l) s.linkSys.moduleId now 129 x
    if x.unacked.isEmpty && !y.unacked.isEmpty then { y with ackTick := now } else y)

/-- The class of a message kind (Table 9.9). -/
def kindVc (kind : Nat) : Nat :=
  if kind = 1 || kind = 2 || kind = 9 then 1
  else if kind = 3 || kind = 4 || kind = 5 || kind = 10 then 2 else 0

/-- A message to be sent. -/
def mkFlit (src : BitVec 12) (dst : Nat) (kind aux vc ttl run : Nat) (payload : List Byte) : TxFlit :=
  { hdr := { seq := 0, ack := 0, nak := false, vc := BitVec.ofNat 2 vc, dst := BitVec.ofNat 12 dst, src := src,
             ttl := BitVec.ofNat 8 ttl, crVc := 0, crCount := 0, run := BitVec.ofNat 16 run, fec := 0 },
    kind := kind, aux := aux, payload := payload, resent := 0, since := 0, passed := 0, body := [], own := true }

/-- Queue a flit on a link and send what can be sent. -/
def State.queueFlit (s : State) (l : Nat) (f : TxFlit) : State :=
  let now := s.now
  (s.modLink l (fun x => { x with waiting := x.waiting ++ [{ f with since := now }] })).pumpLink l

/-- A message for the neighbour on link `l` (dst 0xFFF). -/
def State.sendNeighbour (s : State) (l kind aux : Nat) (payload : List Byte) : State :=
  s.queueFlit l (mkFlit s.linkSys.moduleId 0xFFF kind aux (kindVc kind) 255 0 payload)

/-- The exit link for a destination (R527). -/
def State.exitFor (s : State) (dst : Nat) : Nat := Store.get 0 dst s.linkSys.route

/-- The payload of a kind-0xF DOWN message. -/
def downPayload (cause : Nat) : List Byte := leBytes 1 cause

/-- A link leaves ACTIVE or training. A PARAM of the partner is no longer valid when it leaves ACTIVE (Table 22.7); a link that
is down uses no key (R457; entry 121); with `drop` its traffic is dropped (R422). -/
def Link.leave (x : Link) (st : Nat) (drop : Bool) : Link :=
  let off := decide (st = lnkDown) || decide (st = lnkDisabled)
  { x with state := st, peerValid := x.peerValid && decide (x.state ≠ lnkActive), paramRx := false,
           txEnc := x.txEnc && !off, rxEnc := x.rxEnc && !off,
           waiting := if drop then [] else x.waiting, unacked := if drop then [] else x.unacked }

/-- An ACTIVE link sends DOWN with a cause; then the link goes to a state (R427, R528). -/
def State.takeDown (s : State) (l cause st : Nat) (drop : Bool) : State :=
  let active := decide ((s.link l).state = lnkActive)
  let s := if active then
      (s.sendNeighbour l 0xF 2 (downPayload cause)).modLink l (fun x => { x with downTx := cause })
    else s
  let now := s.now
  s.modLink l (fun x => { x.leave st drop with trainTick := now })

/-- The widest width whose lanes hold no failed lane (R252): 0 ×8, 1 ×4, 2 ×2, none when no ×2 set is whole. -/
def widestWidth (failed : BitVec 8) : Option Nat :=
  let f := failed.toNat
  if f = 0 then some 0
  else if natBits f 3 0 = 0 || natBits f 7 4 = 0 then some 1
  else if natBits f 1 0 = 0 || natBits f 3 2 = 0 || natBits f 5 4 = 0 || natBits f 7 6 = 0 then some 2
  else none

/-- Lanes of link `l` fenced under R416. -/
def State.fencedLanes (s : State) (l : Nat) : BitVec 8 := BitVec.ofNat 8 (Store.get 0 l s.flt.lanes)

/-- Start training from DETECT (R251), at the widest width that is left. Lanes that have failed are tried again, but for the
fenced ones (R416). -/
def State.startTraining (s : State) (l : Nat) : State :=
  let now := s.now
  let lanes := s.fencedLanes l
  s.modLink l (fun x => { x.leave lnkDetect false with trainTick := now, failed := lanes,
                                                       width := (widestWidth lanes).getD x.width })

/-- A link takes a width and trains again from ALIGN (R252). No data is lost. -/
def State.retrainTo (s : State) (l width : Nat) : State :=
  let now := s.now
  s.modLink l (fun x =>
    { x.leave lnkAlign false with width := width, trainTick := now,
                                  unacked := x.unacked.map (fun f => { f with resent := 0 }) })

/-- Lanes of an ACTIVE or training link fail (R252): it moves to the widest width that holds none of them, announces it and
trains from ALIGN; with no ×2 set whole it sends DOWN and is down. Whether a width was left. -/
def State.loseLanes (s : State) (l : Nat) (lanes : BitVec 8) : Bool × State :=
  let x := s.link l
  let failed := x.failed ||| lanes
  let live := decide (1 ≤ x.state) && decide (x.state ≤ lnkActive)
  let s := s.modLink l (fun y => { y with failed := failed })
  match widestWidth failed with
  | some w =>
    (true, if live then
        (s.sendNeighbour l 0xF 3 (leBytes 1 (max w x.width) ++ leBytes 1 (~~~failed).toNat)).retrainTo l (max w x.width)
      else s)
  | none => (false, if live then s.takeDown l 2 lnkDown false else s)

end Sys2Proof.Machine
end

