-- ==== Sys2Proof/Machine/Moves.lean ====
section
/-! DEFINITION. The noise function and the acceptance rules (04): noise (R96), L and G (R109, R111), q (R106, R107), β
schedules (R115, R116), the first state of a run (R102) and replica exchange (R119).
-/

namespace Sys2Proof.Machine

/-! ### Noise (R96) -/

/-- Rotate a 32-bit word left. -/
def rotl32 (v : BitVec 32) (n : Nat) : BitVec 32 := (v <<< n) ||| (v >>> (32 - n))

/-- The working words of the noise function. -/
structure Noise where
  a : BitVec 32
  b : BitVec 32
  c : BitVec 32
  d : BitVec 32
deriving DecidableEq, Repr

/-- One round. -/
def Noise.round (lo hi : BitVec 32) (x : Noise) (r : Nat) : Noise :=
  let a := x.a + x.b + hi
  let d := rotl32 (x.d ^^^ a) 13
  let c := x.c + d
  let b := rotl32 (x.b ^^^ c) 22
  let a := a ^^^ (lo + BitVec.ofNat 32 r * 0x3C6EF372#32)
  let c := rotl32 c 7 + b
  ⟨a, b, c, d⟩

/-- The noise function. -/
def noise (lo hi w0 w1 w2 : BitVec 32) : BitVec 32 :=
  let x := (List.range 6).foldl (Noise.round lo hi) ⟨w0, w1, w2, lo ^^^ 0xB7E15163#32⟩
  x.a ^^^ x.c

/-- The noise value of three 32-bit words, as numbers. -/
def noiseOf (lo hi : BitVec 32) (w0 w1 w2 : Nat) : Nat :=
  (noise lo hi (BitVec.ofNat 32 w0) (BitVec.ofNat 32 w1) (BitVec.ofNat 32 w2)).toNat

/-- The noise value of Table 4.2 with its fields as numbers. -/
def noiseAt (lo hi : BitVec 32) (index stream sweep replica kind attempt : Nat) : Nat :=
  noiseOf lo hi (index % 2 ^ 24 + stream * 2 ^ 24) sweep
    (replica % 2 ^ 16 + kind % 256 * 2 ^ 16 + attempt % 256 * 2 ^ 24)

/-! ### Logarithms (R109, R111) -/

/-- Precision of the logarithm series. -/
def lnBits : Nat := 96

/-- Σ of term/(2k + 1) with term shrinking by y² each step, in units of 2^-lnBits. -/
def lnSeries (y2 : Nat) : Nat → Nat → Nat → Nat
  | 0, _, _ => 0
  | fuel + 1, term, k => term / (2 * k + 1) + lnSeries y2 fuel (term * y2 / 2 ^ lnBits) (k + 1)

/-- 2^24 × ln(num / den) rounded to nearest, for den ≤ num ≤ 2 den: twice the series of the inverse hyperbolic
tangent. -/
def ln24 (num den : Nat) : Nat :=
  let y := (num - den) * 2 ^ lnBits / (num + den)
  let sum := 2 * lnSeries (y * y / 2 ^ lnBits) 40 y 0
  (sum / 2 ^ (lnBits - 25) + 1) / 2

/-- LN2 of R109. -/
def ln2 : Int := 11629080

/-- T_L of R109. -/
def tableL (m : Nat) : Int := ln24 (4096 + 2 * m + 1) 4096

/-- T_C of R111. -/
def tableC (c : Nat) : Int := ln24 16384 (16384 - (2 * c + 1))

/-- Leading zeros of a 32-bit word. -/
def clz32 (u : Nat) : Nat := if u = 0 then 32 else 31 - Nat.log2 u

/-- The 11 bits after the leading one. -/
def mantBits (u : Nat) : Nat := ((u * 2 ^ clz32 u) % 2 ^ 32 / 2 ^ 20) % 2 ^ 11

/-- L(u) of R109. -/
def noiseL (u : Nat) : Int :=
  if u = 0 then 0xFFFF
  else (((clz32 u : Int) + 1) * ln2 - tableL (mantBits u) + 2 ^ 12) / 2 ^ 13

/-- G(u) of R111 for u below 2^31. -/
def noiseGLow (u : Nat) : Int :=
  let m := if u = 0 then 0 else mantBits u
  let x := ((clz32 u : Int) + 1) * ln2 - tableL m - tableC (u / 2 ^ 19)
  min (max ((x + 2 ^ 12) / 2 ^ 13) 0) 32767

/-- G(u) of R111. -/
def noiseG (u : Nat) : Int := if u ≥ 2 ^ 31 then -noiseGLow (0xFFFFFFFF - u) else noiseGLow u

/-! ### q (R104, R106, R107) -/

/-- D in its 40-bit range (R104). -/
def satD (d : Int) : Int := max (-(2 ^ 39 - 1)) (min (2 ^ 39 - 1) d)

/-- Q of R106. -/
def formQ (b : Beta) (ef d : Int) : Nat :=
  let p := b.m * min d.natAbs (2 ^ 32 - 1)
  let s := b.e + ef - 4
  if s ≥ 0 then p * 2 ^ s.toNat else (p + 2 ^ ((-s).toNat - 1)) / 2 ^ (-s).toNat

/-- q for Metropolis and replica exchange (R107). -/
def qMetropolis (b : Beta) (ef d : Int) : Int := min (formQ b ef d) 0xFFFF

/-- q for heat bath (R107). -/
def qHeat (b : Beta) (ef d : Int) : Int :=
  if d ≥ 0 then min (formQ b ef d) 32767 else -(min (formQ b ef d) 32768 : Nat)

/-- The acceptance of a move with energy change `d` (R108, R110, R112). -/
def accepts (rule : Rule) (tie : Bool) (b : Beta) (ef d : Int) (u : Nat) : Bool :=
  match rule with
  | .metropolis => decide (d ≤ 0) || decide (qMetropolis b ef d ≤ noiseL u)
  | .heatBath => decide (qHeat b ef d ≤ noiseG u)
  | .zeroTemp | .greedy => decide (d < 0) || (tie && decide (d = 0))

/-! ### β (R105, R115-R117) -/

end Sys2Proof.Machine

namespace Sys2Proof

/-- β = 0. -/
def betaZero : Beta := ⟨0, 0⟩

/-- Renormalise a mantissa of at most 16 bits (R116). -/
def renorm : Nat → Nat → Int → Beta
  | 0, m, e => ⟨m, e⟩
  | fuel + 1, m, e => if m < 32768 then renorm fuel (2 * m) (e - 1) else ⟨m, e⟩

/-- The renormalisation step of R116. -/
def Beta.norm (b : Beta) : Beta :=
  if b.m = 0 then betaZero
  else
    let r := renorm 16 b.m b.e
    if r.e < -128 then betaZero else r

/-- One step of the recurrence. -/
def Beta.step (b : Beta) (ratio : Nat) : Beta := Beta.norm ⟨b.m * ratio / 2 ^ 15, b.e⟩

/-- `t` steps. -/
def Beta.steps (ratio : Nat) : Nat → Beta → Beta
  | 0, b => b
  | t + 1, b => Beta.steps ratio t (b.step ratio)

/-- The value of a β. -/
def Beta.val (b : Beta) : Dy := ⟨b.m, b.e - 15⟩

/-- Sweeps of a schedule. -/
def Sched.total (c : Sched) : Nat := (c.segs.map (fun g => g.length)).sum

/-- β at schedule position p (R115, R116). -/
def betaAt : List Seg → Nat → Beta
  | [], _ => betaZero
  | g :: rest, p => if p < g.length then Beta.steps g.ratio p g.start.norm else betaAt rest (p - g.length)

/-- β of replica r in sweep n, with the ladder entry it holds (R115, R117). -/
def Sched.beta (c : Sched) (r n : Nat) (rung : Option Nat) : Beta :=
  match c.reps[r]? with
  | some x =>
    if x.ladder then (c.ladder[rung.getD x.index]?).getD betaZero
    else betaAt c.segs ((n + x.offset) % max 1 c.total)
  | none => betaAt c.segs (n % max 1 c.total)

end Sys2Proof

namespace Sys2Proof.Machine

/-! ### Replica exchange (R119) -/

/-- A magnitude rounded to B16E8 (R119 step 1). -/
def roundBeta (x : Dy) : Beta :=
  if x.m = 0 then betaZero
  else
    let e := x.log2
    let m := (x.roundEvenAt (e - 15)).toNat
    let r : Beta := if m = 65536 then ⟨32768, e + 1⟩ else ⟨m, e⟩
    if x.lt ⟨1, -128⟩ then betaZero else if r.e > 127 then ⟨65535, 127⟩ else r

/-- The pair is accepted (R119): the exact totals in units of 2^(e_f - 16), and the stream 5 value. -/
def exchangeAccepts (bk bk1 : Beta) (ek ek1 ef : Int) (u : Nat) : Bool :=
  let d := fieldInt (ek - ek1)
  let diff := bk.val.sub bk1.val
  let mag := roundBeta diff.abs
  if mag.m = 0 || d = 0 then true
  else if decide (diff.m > 0) = decide (d > 0) then true
  else decide (qMetropolis mag ef d ≤ noiseL u)

/-! ### The first state (R102) -/

/-- The stream 6 value. -/
def initNoise (lo hi : BitVec 32) (index replica attempt : Nat) : Nat := noiseAt lo hi index 6 0 replica 4 attempt

/-- Exchange positions i and j of a list. -/
def swapAt (l : List Nat) (i j : Nat) : List Nat := (l.set i (l.getD j 0)).set j (l.getD i 0)

/-- The permutation π of R102 for a block with base `b` and size `n`. -/
def initPerm (lo hi : BitVec 32) (b n replica : Nat) : List Nat :=
  (List.range (n - 1)).foldl (fun p i =>
    let u := initNoise lo hi (b + i * n) replica 1
    swapAt p i (i + u * (n - i) / 2 ^ 32)) (List.range n)

end Sys2Proof.Machine
end

