-- ==== Sys2Proof/Machine/Operands.lean ====
section
/-! DEFINITION. The operand forms of the span instructions: registers read and written (R305), cell sets, shapes and
tiles (R18, R19, R331, R332), tensor operand words (R177, R178, R330), element formats and pairs (Tables 7.1, 7.2,
10.9, 12.2), conversion to a format (R54, R196), and the tile use that orders instructions (R191).
-/

namespace Sys2Proof.Machine

/-! ### P registers (R305) -/

/-- The P registers that an instruction reads at issue. -/
def srcRegs : SpanInstr → List PReg
  | .brc ra _ _ | .loop ra _ | .addi _ ra _ | .sched _ ra _ 0 => [ra]
  | .alu _ ra rb _ => [ra, rb]
  | .seti rd hi _ => if hi then [rd] else []
  | .evrec rb _ _ _ | .evwait _ rb _ _ => [rb]
  | .dma ra rb rc _ => [ra, rb, rc]
  | .atadd _ ra rb _ _ | .atswp _ ra rb _ | .bset _ ra rb _ | .bclr _ ra rb _ | .mcast _ ra rb _ => [ra, rb]
  | .mma _ ra rb .. | .mmaz _ ra rb .. | .red _ ra rb .. | .accmv _ ra rb .. => [ra, rb]
  | .ewo rz ra rb rc .. => [rz, ra, rb, rc]
  | .cvt ra rb rc .. => [ra, rb, rc]
  | .fldc _ ra rb rc .. | .gibbs _ ra rb rc .. => [ra, rb, rc]
  | _ => []

/-- The P register that an instruction writes. -/
def dstReg : SpanInstr → Option PReg
  | .seti rd _ _ | .addi rd _ _ | .alu rd _ _ _ | .ldc rd _ _ | .rdtime rd _ | .evwait rd _ _ _ | .barrier rd _ _
  | .dmaw rd _ _ | .atswp rd _ _ _ | .mcast rd _ _ _ | .sweep rd | .fref rd | .xchg rd | .wrot rd | .snap rd
  | .sched rd _ _ _ | .eaud rd | .rmig rd => some rd
  | .atadd rd _ _ ret _ | .bset rd _ _ ret | .bclr rd _ _ ret => if ret then some rd else none
  | _ => none

/-- An instruction in flight writes a register that `i` reads or writes (R305). -/
def regHazard (flight : List InFlight) (i : SpanInstr) : Bool :=
  flight.any (fun f => match dstReg f.instr with
    | some rd => (srcRegs i).contains rd || dstReg i = some rd
    | none => false)

/-! ### Cell sets, shapes and tiles -/

end Sys2Proof.Machine

namespace Sys2Proof

/-- Rows of the cell set. -/
def CellSet.rows (c : CellSet) : Nat := 2 ^ c.gr.toNat
/-- Columns of the cell set. -/
def CellSet.cols (c : CellSet) : Nat := 2 ^ c.gc.toNat
/-- The cell set is legal (R331). -/
def CellSet.ok (c : CellSet) : Bool :=
  decide (c.gr.toNat + c.gc.toNat ≤ 7) && decide (c.first.toNat + c.rows * c.cols ≤ 128)
/-- Cells of the set: row, column and cell number, in increasing cell number. -/
def CellSet.cells (c : CellSet) : List (Nat × Nat × Nat) :=
  (List.range (c.rows * c.cols)).map (fun k => (k / c.cols, k % c.cols, c.first.toNat + k))
/-- The set holds a cell. -/
def CellSet.has (c : CellSet) (k : Nat) : Bool :=
  decide (c.first.toNat ≤ k) && decide (k < c.first.toNat + c.rows * c.cols)

/-- Two cell sets share a cell. -/
def CellSet.meets (a b : CellSet) : Bool :=
  decide (a.first.toNat < b.first.toNat + b.rows * b.cols) && decide (b.first.toNat < a.first.toNat + a.rows * a.cols)

end Sys2Proof

namespace Sys2Proof.Machine

/-- The shape of a tile (R332): rows and columns, none for the value 3. -/
def shapeOf (s : BitVec 2) : Option (Nat × Nat) :=
  match s.toNat with
  | 0 => some (32, 32)
  | 1 => some (32, 16)
  | 2 => some (16, 16)
  | _ => none

/-- The tile index exists for the shape (Table 1.6). -/
def tileOk (t m n : Nat) : Bool := decide ((t + 1) * (m * n) ≤ 8192)

/-- The 256-entry regions of a tile (R185). -/
def tileRegions (t m n : Nat) : List Nat := (List.range (m * n / 256)).map (fun k => t * (m * n / 256) + k)

/-- The exponent byte of region `r` of a cell. -/
def Span.region (x : Span) (cell r : Nat) : Nat := Store.get 127 (cell * 32 + r) x.texp

/-- The exponent E8 of a tile, none when its regions differ (R185). -/
def Span.tileExp (x : Span) (cell t m n : Nat) : Option Nat :=
  match (tileRegions t m n).map (x.region cell) with
  | [] => none
  | e :: rest => if rest.all (· = e) then some e else none

/-- Set the exponent of a tile. -/
def Span.setTileExp (x : Span) (cell t m n e : Nat) : Span :=
  { x with texp := Store.putAll 127 ((tileRegions t m n).map (fun r => (cell * 32 + r, e))) x.texp }

/-- The place of entry (i, j) of a tile in the cell's accumulators (R18). -/
def entryKey (cell t m n i j : Nat) : Nat := cell * 8192 + t * (m * n) + i * n + j

/-- The entry (i, j) of a tile. -/
def Span.entry (x : Span) (cell t m n i j : Nat) : Int := Store.get 0 (entryKey cell t m n i j) x.acc

/-- The rows and columns of a tile, in row-major order. -/
def tileCells (m n : Nat) : List (Nat × Nat) :=
  (List.range m).flatMap (fun i => (List.range n).map (fun j => (i, j)))

/-- What an instruction does with tiles (Table 7.5): cell set, first entry, entries, and whether it writes. -/
structure TileUse where
  cells : CellSet
  first : Nat
  len : Nat
  writes : Bool
deriving DecidableEq, Repr

/-- A tile use of a shape. -/
def tileUseOf (t : PReg) (shape : BitVec 2) (c : CellSet) (writes : Bool) : Option TileUse :=
  (shapeOf shape).map (fun mn => ⟨c, t.toNat * (mn.1 * mn.2), mn.1 * mn.2, writes⟩)

/-- Every cell of a span. -/
def everyCell : CellSet := ⟨7, 0, 0⟩

/-- Tile use by instruction (Table 7.5). The vector form of RED uses none. SWEEP, FREF, EAUD, RMIG and WROT read and write the
32 × 32 tile `run` of the bound run in every cell (R340; entry 50). -/
def tileUse (run : Nat) : SpanInstr → Option TileUse
  | .sweep _ | .fref _ | .eaud _ | .rmig _ | .wrot _ => some ⟨everyCell, run * 1024, 1024, true⟩
  | .mma t _ _ _ sh _ _ c _ | .mmaz t _ _ _ _ sh _ _ c _ | .accz t _ sh c | .fldc t _ _ _ _ sh _ c _ _
  | .gibbs t _ _ _ sh _ _ c _ => tileUseOf t sh c true
  | .red t _ _ sh _ c axis => if axis = 3 then none else tileUseOf t sh c false
  | .accmv t _ _ _ _ sh _ c _ _ clr => tileUseOf t sh c clr
  | _ => none

/-- The run tile by the time instruction `k` of the flight starts: that of an earlier BIND in flight, else that of the bound
run. -/
def runTileAt (run : Nat) (flight : List InFlight) (k : Nat) : Nat :=
  (flight.take k).foldl (fun t f => match f.instr with
    | .sched _ _ t' mode => if mode = 0 then t'.toNat else t
    | _ => t) run

/-- The tile use of instruction `k` of the flight. -/
def tileUseAt (run : Nat) (flight : List InFlight) (k : Nat) : Option TileUse :=
  (flight[k]?).bind (fun f => tileUse (runTileAt run flight k) f.instr)

/-- Two instructions of the flight name the same cell tile and one of them writes it (R19, R191). -/
def tileConflict (run : Nat) (flight : List InFlight) (i j : Nat) : Bool :=
  match tileUseAt run flight i, tileUseAt run flight j with
  | some a, some b =>
    a.cells.meets b.cells && decide (a.first < b.first + b.len) && decide (b.first < a.first + a.len)
      && (a.writes || b.writes)
  | _, _ => false

/-- Instruction `k` of the flight waits under R191 for an earlier one. -/
def tileWaits (run : Nat) (flight : List InFlight) (k : Nat) : Bool :=
  (List.range k).any (fun j => tileConflict run flight j k)

/-- Some instruction of the flight waits under R191, whether R338 holds it too or not (entry 50). -/
def anyTileWaits (run : Nat) (flight : List InFlight) : Bool := (List.range flight.length).any (tileWaits run flight)

/-! ### Element formats -/

/-- An element format (Table 7.1): bits, block size (0 for no shared exponent), and how the bits are read: 0 as 0 or 1,
1 as -1 or +1, 2 as two's complement. -/
structure Fmt where
  w : Nat
  block : Nat
  kind : Nat
deriving DecidableEq, Repr

/-- The format of a code (Table 10.9). -/
def fmtOf : Nat → Option Fmt
  | 0x1 => some ⟨4, 32, 2⟩
  | 0x2 => some ⟨8, 32, 2⟩
  | 0x3 => some ⟨16, 32, 2⟩
  | 0x4 => some ⟨8, 32, 2⟩
  | 0x5 => some ⟨16, 16, 2⟩
  | 0x6 => some ⟨4, 32, 2⟩
  | 0x7 => some ⟨1, 0, 0⟩
  | 0x8 => some ⟨1, 0, 1⟩
  | 0x9 => some ⟨4, 0, 2⟩
  | 0xA => some ⟨8, 0, 2⟩
  | 0xB => some ⟨16, 0, 2⟩
  | 0xC => some ⟨32, 0, 2⟩
  | 0xD => some ⟨64, 0, 2⟩
  | _ => none

/-- A pair of an MMA (Tables 7.2, 12.2): formats of A and B, group size, granule of K, and whether its inputs are
block-scaled (R190). -/
structure Pair where
  a : Fmt
  b : Fmt
  g : Nat
  granule : Nat
  scaled : Bool
deriving DecidableEq, Repr

/-- The pair of a code; `s1b` makes B the S1 operand (R333). -/
def pairOf (code : Nat) (s1b : Bool) : Option Pair :=
  let s1 : Fmt := ⟨1, 0, 1⟩
  let s1c (c : Fmt) (g : Nat) : Pair := if s1b then ⟨c, s1, g, 32, true⟩ else ⟨s1, c, g, 32, true⟩
  match code with
  | 0x0 => some ⟨⟨1, 0, 0⟩, ⟨1, 0, 0⟩, 8, 64, false⟩
  | 0x1 => some (s1c ⟨4, 32, 2⟩ 4)
  | 0x2 => some (s1c ⟨8, 32, 2⟩ 2)
  | 0x3 => some (s1c ⟨16, 32, 2⟩ 1)
  | 0x4 => some ⟨⟨4, 0, 2⟩, ⟨4, 0, 2⟩, 2, 32, false⟩
  | 0x5 => some ⟨⟨4, 32, 2⟩, ⟨4, 32, 2⟩, 2, 32, true⟩
  | 0x6 => some ⟨⟨8, 0, 2⟩, ⟨8, 0, 2⟩, 1, 32, false⟩
  | 0x7 => some ⟨⟨8, 32, 2⟩, ⟨8, 32, 2⟩, 1, 32, true⟩
  | 0x8 => some ⟨⟨16, 0, 2⟩, ⟨16, 0, 2⟩, 1, 16, false⟩
  | 0x9 => some ⟨⟨16, 16, 2⟩, ⟨16, 16, 2⟩, 1, 16, true⟩
  | _ => none

/-! ### Tensors -/

/-- A tensor (R177, R178): address of line 0, of its exponents, stride in bytes, elements of a line, format, and
whether one line serves every row. -/
structure Tens where
  data : Nat
  exps : Nat
  stride : Nat
  len : Nat
  fmt : Fmt
  bcast : Bool
deriving DecidableEq, Repr

/-- Bytes of a line, padded to whole units. -/
def lineBytes (f : Fmt) (len : Nat) : Nat := 64 * ceilDiv (f.w * len) 512
/-- Exponent bytes of a line. -/
def expBytes (f : Fmt) (len : Nat) : Nat := if f.block = 0 then 0 else ceilDiv len f.block
/-- The distance of the exponents of two lines (R178). -/
def expStride (f : Fmt) (len : Nat) : Nat := 64 * ceilDiv (expBytes f len) 64

/-- The line that row `l` uses. -/
def Tens.line (t : Tens) (l : Nat) : Nat := if t.bcast then 0 else l

/-- The stored bits of element `k` of line `l`. -/
def Tens.raw (t : Tens) (rd : Nat → Byte) (l k : Nat) : Nat :=
  let bit := t.fmt.w * k
  let a := t.data + t.line l * t.stride + bit / 8
  let n := (t.fmt.w + 7) / 8
  (((List.range n).foldl (fun v i => v + (rd (a + i)).toNat * 256 ^ i) 0) >>> (bit % 8)) % 2 ^ t.fmt.w

/-- The unbiased exponent of element `k` of line `l`; 0 for a format without a shared one (R186). -/
def Tens.exp (t : Tens) (rd : Nat → Byte) (l k : Nat) : Int :=
  if t.fmt.block = 0 then 0
  else ((rd (t.exps + t.line l * expStride t.fmt t.len + k / t.fmt.block)).toNat : Int) - 127

/-- The value of stored bits, as an integer mantissa. -/
def Fmt.mant (f : Fmt) (raw : Nat) : Int :=
  match f.kind with
  | 0 => raw
  | 1 => if raw = 1 then 1 else -1
  | _ => signedOf f.w raw

/-- The exact value of element `k` of line `l`. -/
def Tens.val (t : Tens) (rd : Nat → Byte) (l k : Nat) : Dy := ⟨t.fmt.mant (t.raw rd l k), t.exp rd l k⟩

/-- The ranges of a tensor of `lines` lines: its lines and its exponents. -/
def Tens.ranges (t : Tens) (lines : Nat) : List (Nat × Nat) :=
  let n := if t.bcast then 1 else lines
  (List.range n).flatMap (fun l =>
    [(t.data + l * t.stride, lineBytes t.fmt t.len), (t.exps + l * expStride t.fmt t.len, expBytes t.fmt t.len)])

/-- A tensor operand word (Table 12.1). -/
structure OpWord where
  base : Nat
  expBase : Nat
  stride : Nat
deriving DecidableEq, Repr

/-- The fields of a tensor operand word. -/
def opWord (w : Word) : OpWord :=
  ⟨natBits w.toNat 16 0, natBits w.toNat 33 17, natBits w.toNat 42 34⟩

/-- Units of a scratchpad. -/
def spadUnits : Nat := 131072

/-- The operand is legal for `lines` lines of `len` elements (R330). -/
def OpWord.ok (o : OpWord) (f : Fmt) (lines len : Nat) : Bool :=
  decide (o.stride ≠ 0) && decide (o.base + (lines - 1) * o.stride + lineBytes f len / 64 ≤ spadUnits)
    && (f.block = 0 || decide (o.expBase + lines * (expStride f len / 64) ≤ spadUnits))

/-- The tensor that an operand word of span `n` names. -/
def OpWord.tens (o : OpWord) (n : Nat) (f : Fmt) (len : Nat) : Tens :=
  ⟨spanRegion n + 64 * o.base, spanRegion n + 64 * o.expBase, 64 * o.stride, len, f, false⟩

/-! ### Conversion to a format (R54, R196) -/

/-- The least and the greatest mantissa of `w` bits. -/
def mantLo (w : Nat) : Int := -(2 ^ (w - 1) : Nat)
/-- The greatest mantissa of `w` bits. -/
def mantHi (w : Nat) : Int := (2 ^ (w - 1) : Nat) - 1
/-- The mantissa fits. -/
def mantFits (w : Nat) (v : Int) : Bool := decide (mantLo w ≤ v) && decide (v ≤ mantHi w)
/-- The nearest mantissa. -/
def mantClamp (w : Nat) (v : Int) : Int := max (mantLo w) (min (mantHi w) v)

/-- The greatest magnitude of a list. -/
def maxAbs (l : List Dy) : Dy := l.foldl (fun m x => m.max x.abs) Dy.zero

/-- Raise an exponent until every rounded value fits (the loop of R54, which runs at most three times). -/
def fitExp (w : Nat) (l : List Dy) : Nat → Int → Int
  | 0, e => e
  | fuel + 1, e => if l.all (fun x => mantFits w (x.roundEvenAt e)) then e else fitExp w l fuel (e + 1)

/-- The block exponent that R54 chooses, before any limit; none for a block of zeros. -/
def blockExp (w : Nat) (l : List Dy) : Option Int :=
  let m := maxAbs l
  if m.m = 0 then none else some (fitExp w l 3 (m.log2 - ((w : Int) - 1)))

/-- The exponent byte and the mantissas of a block, and whether it saturated (Table 7.7). -/
def blockConvert (w : Nat) (l : List Dy) : Nat × List Int × Bool :=
  match blockExp w l with
  | none => (0, l.map (fun _ => 0), false)
  | some e =>
    if e > 128 then (255, l.map (fun x => mantClamp w (x.roundEvenAt 128)), true)
    else
      let e := max e (-127)
      ((e + 127).toNat, l.map (fun x => x.roundEvenAt e), false)

/-- Split a list into blocks of `n`. -/
def chunks {α : Type} (n : Nat) : Nat → List α → List (List α)
  | 0, _ => []
  | fuel + 1, l => if l.isEmpty then [] else l.take n :: chunks n fuel (l.drop n)

/-- The stored elements and exponent bytes of a line of exact values, and whether an output saturated (Table 7.7). -/
def Fmt.convert (f : Fmt) (l : List Dy) : List Nat × List Nat × Bool :=
  if f.kind ≠ 2 then (l.map (fun x => if x.m > 0 then 1 else 0), [], false)
  else if f.block = 0 then
    let r := l.map (fun x => x.roundEvenAt 0)
    (r.map (fun v => unsignedOf f.w (mantClamp f.w v)), [], r.any (fun v => !mantFits f.w v))
  else
    let bs := (chunks f.block l.length l).map (blockConvert f.w)
    (bs.flatMap (fun b => b.2.1.map (unsignedOf f.w)), bs.map Prod.fst, bs.any (fun b => b.2.2))

/-- Pack elements of `w` bits into bytes, padded to whole units. -/
def packLine (f : Fmt) (elems : List Nat) : List Byte :=
  leBytes (lineBytes f elems.length) (elems.foldr (fun e acc => e + 2 ^ f.w * acc) 0)

/-- The cells that a line of exact values writes, and whether an output saturated. -/
def Tens.lineCells (t : Tens) (l : Nat) (vals : List Dy) : List (Nat × Byte) × Bool :=
  let r := t.fmt.convert vals
  let a := t.data + l * t.stride
  let b := t.exps + l * expStride t.fmt t.len
  ((packLine t.fmt r.1).zipIdx.map (fun p => (a + p.2, p.1))
    ++ r.2.1.zipIdx.map (fun p => (b + p.2, BitVec.ofNat 8 p.1)), r.2.2)

/-- The cells that a whole tensor of rows writes, and whether an output saturated. -/
def Tens.cells (t : Tens) (rows : List (List Dy)) : List (Nat × Byte) × Bool :=
  let parts := rows.zipIdx.map (fun p => t.lineCells p.2 p.1)
  (parts.flatMap Prod.fst, parts.any Prod.snd)

/-- Write cells into span `n`'s own scratchpad. -/
def State.spadCells (s : State) (l : List (Nat × Byte)) : State :=
  { s with mem := memPutAll s.mem l, poison := s.clearPoison (l.map Prod.fst) }

/-- A byte of a scratchpad as the span's engines read it. -/
def State.spadByte (s : State) (a : Nat) : Byte := memGet s.mem a

end Sys2Proof.Machine
end

