-- ==== Sys2Proof/Machine/Energy.lean ====
section
/-! DEFINITION. The energy function of a problem and its exact parts: values, couplings, fields, the energy change of a
move, z and Y^t (02), and the diagonal tile of a block (R60-R62, R170).
-/

namespace Sys2Proof

/-- The value v of a variable (R35). -/
def Problem.v (p : Problem) (x : Bool) : Int := if p.ising then (if x then 1 else -1) else if x then 1 else 0

/-- Δv of a change to `x` from its complement (R37). -/
def Problem.dv (p : Problem) (x : Bool) : Int := p.v x - p.v (!x)

/-- h_i with the folded couplings (R39, R40). -/
def Problem.linear (p : Problem) (i : Nat) : Dy :=
  (Dy.sum (p.lins.map (fun s => if s.base ≤ i && i < s.base + s.h.length then s.h.getD (i - s.base) Dy.zero else Dy.zero))).add
    (Dy.sum ((p.folds.filter (fun f => f.1 = i)).map Prod.snd))

/-- The stored couplings into target i: source and coefficient (R72-R74). -/
def Problem.into (p : Problem) (i : Nat) : List (Nat × Dy) :=
  p.sparses.flatMap (fun s => (s.filter (fun e => e.row = i)).map (fun e => (e.src, e.c)))
    ++ p.denses.flatMap (fun s => s.entries.filterMap (fun e =>
      if e.row = i then some (e.src, e.c) else if e.src = i then some (e.row, e.c) else none))

/-- Hyperedges that contain i and carry a non-zero K. -/
def Problem.hyperOf (p : Problem) (i : Nat) : List HyperTerm :=
  p.hypers.filter (fun h => h.members.contains i && h.c.m ≠ 0)

/-- The product of the values of a hyperedge's members other than those of a list. -/
def Problem.prodOthers (p : Problem) (h : HyperTerm) (skip : List Nat) (x : Nat → Bool) : Int :=
  (h.members.filter (fun m => !skip.contains m)).foldl (fun acc m => acc * p.v (x m)) 1

/-- The part of the field of i that the field store carries, exactly (R39). -/
def Problem.storeField (p : Problem) (x : Nat → Bool) (i : Nat) : Dy :=
  ((p.linear i).add (Dy.sum ((p.into i).map (fun e => e.2.smul (p.v (x e.1)))))).add
    (Dy.sum ((p.hyperOf i).map (fun h => h.c.smul (p.prodOthers h [i] x))))

/-- The section covers variable i. -/
def LowRank.has (s : LowRank) (i : Nat) : Bool := decide (s.base ≤ i) && decide (i < s.base + s.n)
/-- Row of U for variable i. -/
def LowRank.row (s : LowRank) (i : Nat) : List Dy := s.u.getD (i - s.base) []
/-- J_ij of a low-rank section. -/
def LowRank.pair (s : LowRank) (i j : Nat) : Dy :=
  if s.has i && s.has j && i ≠ j then
    Dy.sum (((s.row i).zip (s.sigma.zip (s.row j))).map (fun q => (q.1.mul q.2.1).mul q.2.2))
  else Dy.zero
/-- d_i of R39. -/
def LowRank.diag (s : LowRank) (i : Nat) : Dy :=
  Dy.sum (((s.row i).zip s.sigma).map (fun q => (q.1.mul q.1).mul q.2))

/-- The section covers variable i. -/
def Kron.has (s : Kron) (i : Nat) : Bool := decide (s.base ≤ i) && decide (i < s.base + s.n * s.m)
/-- Entry (i, j) of a factor held by columns. -/
def colEntry (cols : List (List Dy)) (i j : Nat) : Dy := (cols.getD j []).getD i Dy.zero
/-- J_(ia)(jb) of a Kronecker section (R39). -/
def Kron.pair (s : Kron) (u w : Nat) : Dy :=
  if s.has u && s.has w && u ≠ w then
    let i := (u - s.base) / s.m
    let a := (u - s.base) % s.m
    let j := (w - s.base) / s.m
    let b := (w - s.base) % s.m
    Dy.sum (s.terms.map (fun t => (colEntry t.f i j).mul (colEntry t.d a b)))
  else Dy.zero
/-- d_ia of R39. -/
def Kron.diag (s : Kron) (u : Nat) : Dy :=
  let i := (u - s.base) / s.m
  let a := (u - s.base) % s.m
  Dy.sum (s.terms.map (fun t => (colEntry t.f i i).mul (colEntry t.d a a)))

/-- J_ij stored in sparse and dense sections. -/
def Problem.storedPair (p : Problem) (i j : Nat) : Dy :=
  Dy.sum (((p.into i).filter (fun e => e.1 = j)).map Prod.snd)

/-- The total pairwise coupling over all kinds (R41, R60). -/
def Problem.pair (p : Problem) (i j : Nat) : Dy :=
  ((p.storedPair i j).add (Dy.sum (p.lowranks.map (fun s => s.pair i j)))).add (Dy.sum (p.krons.map (fun s => s.pair i j)))

/-- The exact field of i over every kind (R39). -/
def Problem.fieldAll (p : Problem) (x : Nat → Bool) (i : Nat) : Dy :=
  let others := (List.range p.nvars).filter (· ≠ i)
  let fact (f : Nat → Dy) : Dy := Dy.sum (others.map (fun j => (f j).smul (p.v (x j))))
  ((p.storeField x i).add (Dy.sum (p.lowranks.map (fun s => if s.has i then fact (s.pair i) else Dy.zero)))).add
    (Dy.sum (p.krons.map (fun s => if s.has i then fact (s.pair i) else Dy.zero)))

/-- The exact energy of a state, E_0 included (R36, R39): a factored pair counts once, the lower variable first. -/
def Problem.energy (p : Problem) (x : Nat → Bool) : Dy :=
  let is_ := List.range p.nvars
  let lin := Dy.sum (is_.map (fun i => (p.linear i).smul (p.v (x i))))
  let stored := Dy.sum (is_.flatMap (fun i =>
    ((p.into i).filter (fun e => i < e.1)).map (fun e => e.2.smul (p.v (x i) * p.v (x e.1)))))
  let fact := Dy.sum (is_.flatMap (fun i => (List.range i).map (fun j =>
    ((Dy.sum (p.lowranks.map (fun s => s.pair j i))).add (Dy.sum (p.krons.map (fun s => s.pair j i)))).smul
      (p.v (x i) * p.v (x j)))))
  let hyp := Dy.sum (p.hypers.map (fun h => h.c.smul (p.prodOthers h [] x)))
  ((((p.e0.add lin).add stored).add fact).add hyp)

/-- The energy in units of 2^(e_f - 16), rounded once as a whole (R89, R147). -/
def Problem.energyUnits (p : Problem) (x : Nat → Bool) (ef : Int) : Int := (p.energy x).roundEvenAt (ef - 16)

/-- The pair sum of R41 over a set of changes (variable, new value). -/
def Problem.pairSum (p : Problem) (s : List (Nat × Bool)) : Dy :=
  Dy.sum (s.flatMap (fun a => (s.filter (fun b => a.1 < b.1)).map (fun b =>
    (p.pair a.1 b.1).smul (p.dv a.2 * p.dv b.2))))

/-- H_S of R41, from the values before the move. -/
def Problem.hyperRest (p : Problem) (s : List (Nat × Bool)) (x : Nat → Bool) : Dy :=
  let after (m : Nat) : Bool := match s.find? (fun c => c.1 = m) with
    | some c => c.2
    | none => x m
  Dy.sum ((p.hypers.filter (fun h => decide (2 ≤ (s.filter (fun c => h.members.contains c.1)).length))).map (fun h =>
    let change := p.prodOthers h [] after - p.prodOthers h [] x
    let first := (s.filter (fun c => h.members.contains c.1)).foldl (fun acc c =>
      acc + p.dv c.2 * p.prodOthers h [c.1] x) 0
    h.c.smul (change - first)))

/-! ### Tiles (R60-R62, R170) -/

/-- Some hyperedge with a non-zero K contains both variables. -/
def Problem.sameHyper (p : Problem) (i j : Nat) : Bool := (p.hyperOf i).any (fun h => h.members.contains j)

/-- The shift s of a block's tile (R61): the least trailing-zero count among the non-zero J_ik that are whole units of 2^e_f,
at most 31. A J_ik that is not a whole number of them has no such count, and the model leaves it out, as the worked example
of 02 does (entry 95). -/
def Problem.tileShift (p : Problem) (vars : List Nat) : Nat :=
  let js := vars.flatMap (fun i => (vars.filter (fun k => i ≠ k)).map (fun k => p.pair i k))
  js.foldl (fun s j => if j.m = 0 || !j.isIntAt p.ef then s else min s (trailingZeros 31 (j.floorAt p.ef).natAbs)) 31

/-- The split marker (R60). -/
def splitMarker : BitVec 16 := 0x8000#16

/-- Entry (i, k) of a tile with shift `shift` (R60). -/
def Problem.tileWord (p : Problem) (shift i k : Nat) : BitVec 16 :=
  let j := p.pair i k
  let u := p.ef + shift
  if i = k then 0#16
  else if p.sameHyper i k || !j.isIntAt u || decide ((j.floorAt u).natAbs > 32767) then splitMarker
  else BitVec.ofInt 16 (j.floorAt u)

/-- The tile that the loader builds for a block with these lanes (R60, R61); one that holds only zeros is null (R16, R62). -/
def Problem.makeTile (p : Problem) (lanes : List (Option Nat)) : Tile :=
  let shift := p.tileShift (lanes.filterMap (fun x => x))
  let held := lanes.zipIdx.filterMap (fun q => q.1.map (fun v => (v, q.2)))
  let entries := held.flatMap (fun a => held.filterMap (fun b =>
    let w := p.tileWord shift a.1 b.1
    if w = 0#16 then none else some (64 * a.2 + b.2, w)))
  ⟨lanes, shift, entries.isEmpty, entries⟩

/-- The tile of a block: the one that the loader built, or the one rewritten for the lanes that a migration or a re-map
gave it (R152, R435). -/
def Problem.tileOf (p : Problem) (lanes : List (Option Nat)) : Tile :=
  match p.tiles.find? (fun t => t.lanes = lanes) with
  | some t => t
  | none => p.makeTile lanes

/-- What entry (i, k) of a tile adds to a working field at e_f `ef`, in units of 2^ef for each unit of Δv, for variables i and
k (R62, R170): none for the split marker. -/
def Tile.entry (t : Tile) (p : Problem) (ef : Int) (i k : Nat) : Option Int :=
  let w := ((t.entries.find? (fun q => q.1 = 64 * t.lanes.idxOf (some i) + t.lanes.idxOf (some k))).map Prod.snd).getD 0#16
  let x := w.toInt * ((2 ^ t.shift : Nat) : Int)
  let unit_ := ((2 ^ (ef - p.ef).toNat : Nat) : Int)
  if w = splitMarker || decide (x % unit_ ≠ 0) then none else some (x / unit_)

/-! ### Groups -/

/-- The one-hot group of a variable. -/
def Problem.onehotOf (p : Problem) (i : Nat) : Option (List Nat) := p.onehots.find? (fun g => g.contains i)

/-- The permutation block of a variable. -/
def Problem.permOf (p : Problem) (i : Nat) : Option PermBlock :=
  p.perms.find? (fun b => decide (b.base ≤ i) && decide (i < b.base + b.n * b.n))

/-- The members of the group that a variable belongs to (R94). -/
def Problem.groupOf (p : Problem) (i : Nat) : List Nat :=
  match p.onehotOf i with
  | some g => g
  | none => match p.permOf i with
    | some b => (List.range (b.n * b.n)).map (fun k => b.base + k)
    | none => []

/-- The member of a group that is on. -/
def onMember (g : List Nat) (x : Nat → Bool) : Option Nat := g.find? x

/-- The column that is on in row j of a permutation block. -/
def PermBlock.col (b : PermBlock) (x : Nat → Bool) (j : Nat) : Option Nat :=
  (List.range b.n).find? (fun a => x (b.base + j * b.n + a))

/-- Insert in increasing order. -/
def insertNat (a : Nat) : List Nat → List Nat
  | [] => [a]
  | b :: r => if a ≤ b then a :: b :: r else b :: insertNat a r

/-- Sort naturals. -/
def sortNats (l : List Nat) : List Nat := l.foldr insertNat []

/-! ### The first state (R77, R102) -/

/-! ### Granules that cannot be read (R391, R397; entry 110) -/

/-- An item of the problem's arrays lies in a granule, of the tier named, whose data is lost. -/
def Problem.inLost (p : Problem) (lost : List (Tier × Nat)) (order sec i : Nat) : Bool :=
  lost.any (fun q => p.placed.any (fun a => decide (a.order = order) && decide (a.tier = q.1) && decide (0 < a.bytes))
    && Config.granuleHolds q.2 order sec i)

/-- Some item that a block visit of these variables in a replica reads lies in a lost granule (R391; entry 110): the tile of the
block, entries of its variables in the coefficient arrays, the factored sections that cover one of them with z and Y^t, a
frozen value. -/
def Problem.readsLost (p : Problem) (lost : List (Tier × Nat)) (lanes : List (Option Nat)) (rep : Nat) : Bool :=
  let vars := lanes.filterMap (fun x => x)
  let lostAt (order sec i : Nat) : Bool := p.inLost lost order sec i
  !lost.isEmpty && (
    p.tiles.zipIdx.any (fun q => q.1.lanes = lanes && q.1.entries.any (fun c => lostAt 3 q.2 c.1))
    || p.lins.zipIdx.any (fun q => vars.any (fun v => decide (q.1.base ≤ v) && lostAt 12 q.2 (v - q.1.base)))
    || p.folds.any (fun q => vars.contains q.1 && lostAt 12 255 q.1)
    || p.sparses.zipIdx.any (fun q => q.1.zipIdx.any (fun c =>
        (vars.contains c.1.row || vars.contains c.1.src) && lostAt 4 q.2 c.2))
    || p.denses.zipIdx.any (fun q => q.1.entries.zipIdx.any (fun c =>
        (vars.contains c.1.row || vars.contains c.1.src) && lostAt 9 q.2 c.2))
    || p.hypers.zipIdx.any (fun q => vars.any q.1.members.contains && lostAt 5 0 q.2)
    || p.lowranks.zipIdx.any (fun q => vars.any q.1.has && (List.range q.1.k).any (fun t =>
        lostAt 2 (q.2 * 256 + rep) t || lostAt 10 q.2 (2 ^ 40 + t)
          || vars.any (fun v => q.1.has v && lostAt 10 q.2 ((v - q.1.base) * 4096 + t))))
    || p.krons.zipIdx.any (fun q => vars.any q.1.has && q.1.terms.zipIdx.any (fun t =>
        (List.range 4096).any (fun i => decide (i < max q.1.n q.1.m) && (
          (t.1.f.zipIdx.any (fun l => decide (i < l.1.length) && lostAt 7 (q.2 * 8 + 2 * t.2) (l.2 * 4096 + i)))
          || (t.1.d.zipIdx.any (fun l => decide (i < l.1.length) && lostAt 7 (q.2 * 8 + 2 * t.2 + 1) (l.2 * 4096 + i)))))))
    || vars.any (fun v => lostAt 11 rep v))

/-- Zero in place of what is lost. -/
def Dy.unless (c : Dy) (b : Bool) : Dy := if b then Dy.zero else c

/-- The problem as a span reads it that uses zero in place of lost coefficients and tile entries. -/
def Problem.without (p : Problem) (lost : List (Tier × Nat)) : Problem :=
  let cut (order sec i : Nat) (c : Dy) : Dy := c.unless (p.inLost lost order sec i)
  let cols (sec : Nat) (l : List (List Dy)) : List (List Dy) :=
    l.zipIdx.map (fun q => q.1.zipIdx.map (fun c => cut 7 sec (q.2 * 4096 + c.2) c.1))
  { p with
    lins := p.lins.zipIdx.map (fun q => { q.1 with h := q.1.h.zipIdx.map (fun c => cut 12 q.2 c.2 c.1) })
    folds := p.folds.map (fun q => (q.1, cut 12 255 q.1 q.2))
    sparses := p.sparses.zipIdx.map (fun q => q.1.zipIdx.map (fun c => { c.1 with c := cut 4 q.2 c.2 c.1.c }))
    denses := p.denses.zipIdx.map (fun q =>
      { q.1 with entries := q.1.entries.zipIdx.map (fun c => { c.1 with c := cut 9 q.2 c.2 c.1.c }) })
    lowranks := p.lowranks.zipIdx.map (fun q =>
      { q.1 with u := q.1.u.zipIdx.map (fun l => l.1.zipIdx.map (fun c => cut 10 q.2 (l.2 * 4096 + c.2) c.1))
                 sigma := q.1.sigma.zipIdx.map (fun c => cut 10 q.2 (2 ^ 40 + c.2) c.1) })
    krons := p.krons.zipIdx.map (fun q =>
      { q.1 with terms := q.1.terms.zipIdx.map (fun t =>
        { f := cols (q.2 * 8 + 2 * t.2) t.1.f, d := cols (q.2 * 8 + 2 * t.2 + 1) t.1.d }) })
    hypers := p.hypers.zipIdx.map (fun q => { q.1 with c := cut 5 0 q.2 q.1.c })
    tiles := p.tiles.zipIdx.map (fun q =>
      { q.1 with entries := q.1.entries.filter (fun c => !p.inLost lost 3 q.2 c.1) }) }

/-- The problem after the scratchpad of span `n`, at address `base`, has been filled with zeros (R364): what lies there is zero.
The tiles of its groups lie there when no tile lies elsewhere; of the rest, which items do is free (entry 110). -/
def Problem.zeroedIn (p : Problem) (n base : Nat) : Problem :=
  let q := p.without [(Tier.scratch, base)]
  let mine (t : Tile) : Bool := p.groups.any (fun g => g.span = n && g.vars.map some = t.lanes)
  if p.placed.any (fun a => decide (a.order = 3) && decide (a.tier ≠ .scratch)) then q
  else { q with tiles := q.tiles.map (fun t => if mine t then { t with entries := [] } else t) }

end Sys2Proof

namespace Sys2Proof.Machine

/-- The first value of variable i of replica r: INIT, or stream 6; a clamped variable without INIT is 0. -/
def firstValue (p : Problem) (lo hi : BitVec 32) (r i : Nat) : Bool :=
  match p.init with
  | some maps => natBit (maps.getD (if maps.length = 1 then 0 else r) 0) i
  | none =>
    if p.clamped.contains i then false
    else match p.onehotOf i with
      | some g =>
        let m := sortNats g
        let u := initNoise lo hi (m.headD 0) r 0
        m.getD (u * m.length / 2 ^ 32) 0 = i
      | none => match p.permOf i with
        | some b =>
          let k := i - b.base
          (initPerm lo hi b.base b.n r).getD (k / b.n) 0 = k % b.n
        | none => natBit (initNoise lo hi i r 0) 31

/-! ### z and Y^t (R42-R45, R161) -/

/-- z of a section from values, each entry rounded once (R43, R166). -/
def zExact (p : Problem) (s : LowRank) (ez : Int) (x : Nat → Bool) : List Int :=
  (List.range s.k).map (fun t =>
    (Dy.sum ((List.range s.n).map (fun j => ((s.u.getD j []).getD t Dy.zero).smul (p.v (x (s.base + j)))))).roundEvenAt (ez - 16))

/-- The groups of a row of Y^t = F^t X, rounded once (R45), each as the conversion to BS16 forms it (Table 7.7): an exponent
stays in E8 (entry 96). -/
def yExact (p : Problem) (s : Kron) (t : KronTerm) (i : Nat) (x : Nat → Bool) : List YGroup :=
  let vals := (List.range s.m).map (fun b =>
    Dy.sum ((List.range s.n).map (fun j => (colEntry t.f i j).smul (p.v (x (s.base + j * s.m + b))))))
  (chunks 16 s.m vals).map (fun g =>
    let c := blockConvert 16 g
    ⟨(c.1 : Int) - 127, c.2.1⟩)

/-- Raise the exponent of a group until the sum in element k fits, each raise rounding the other mantissas once (R45); at the
last exponent of E8 the sum takes the nearest limit (entry 96). The group, and the count of raises. -/
def yRaise (k : Nat) (sum : Dy) : Nat → YGroup → YGroup × Nat
  | 0, g => (g, 0)
  | fuel + 1, g =>
    let m := sum.roundEvenAt g.e
    if mantFits 16 m then (⟨g.e, g.m.set k m⟩, 0)
    else if g.e ≥ 128 then (⟨g.e, g.m.set k (mantClamp 16 m)⟩, 0)
    else
      let r := yRaise k sum fuel ⟨g.e + 1, g.m.zipIdx.map (fun q => if q.2 = k then q.1 else roundEvenDiv q.1 2)⟩
      (r.1, r.2 + 1)

/-- Add a number to element k of a group (R45): the group, and the truncating contributions counted (R45, R161): one for each
raise, or one for an addition whose low bits lie below the unit of the group. -/
def yAdd (k : Nat) (c : Dy) (g : YGroup) : YGroup × Nat :=
  let sum := Dy.add ⟨g.m.getD k 0, g.e⟩ c
  let r := yRaise k sum 256 g
  (r.1, if r.2 = 0 then boolNat !(sum.isIntAt r.1.e && mantFits 16 (sum.roundEvenAt r.1.e)) else r.2)

end Sys2Proof.Machine
end

