-- ==== Sys2Proof/Machine/Place.lean ====
section
/-! DEFINITION. Where the variables of a loaded problem lie: the blocks of a window (R82, R204), the re-placement of
a fenced span's blocks (R436, R439), and row migration (R151, R152).
-/

namespace Sys2Proof.Machine

/-- Blocks of a span. -/
def blocksPerSpan : Nat := 16384

/-- The blocks of one window as the loader places them (R82): group g of a span holds, for replica r, block
g × R + r. -/
def homeBlocks (p : Problem) (window : Nat) : List BlockRow :=
  (p.groups.filter (fun g => g.window = window)).flatMap (fun g =>
    (List.range p.nrep).map (fun r =>
      { span := g.span, num := g.index * p.nrep + r, replica := r, home := g.span, homeNum := g.index * p.nrep + r,
        colour := g.colour, vars := g.vars.map some }))

/-- Insert a block by number. -/
def insertBlock (b : BlockRow) : List BlockRow → List BlockRow
  | [] => [b]
  | x :: r => if b.num < x.num then b :: x :: r else x :: insertBlock b r

/-- Blocks in increasing number. -/
def sortBlocks (l : List BlockRow) : List BlockRow := l.foldr insertBlock []

/-- The lowest block of span `h` that holds no active slot. -/
def lowestFree (rows : List BlockRow) (h : Nat) : Option Nat :=
  (List.range blocksPerSpan).find? (fun k => !rows.any (fun b => b.span = h && b.num = k))

/-- The hosts, starting with the one at position `k`. -/
def rotateHosts (hosts : List Nat) (k : Nat) : List Nat := hosts.drop k ++ hosts.take k

/-- Give the blocks `todo` in turn to the hosts (R436): the rows placed so far, the blocks without room. -/
def giveBlocks (hosts : List Nat) : List BlockRow → Nat → List BlockRow → List BlockRow → List BlockRow × List BlockRow
  | [], _, rows, frozen => (rows, frozen)
  | b :: rest, turn, rows, frozen =>
    let order := rotateHosts hosts (turn % max 1 hosts.length)
    match order.findSome? (fun h => (lowestFree rows h).map (fun k => (h, k))) with
    | some (h, k) => giveBlocks hosts rest (hosts.idxOf h + 1) (rows ++ [{ b with span := h, num := k }]) frozen
    | none => giveBlocks hosts rest turn rows (frozen ++ [b])

/-- Move the blocks of span `f` to the hosts (R436): the rows, and the blocks for which no host has room. -/
def moveBlocks (f : Nat) (hosts : List Nat) (rows : List BlockRow) : List BlockRow × List BlockRow :=
  giveBlocks hosts (sortBlocks (rows.filter (fun b => b.span = f))) 0 (rows.filter (fun b => b.span ≠ f)) []

/-- The blocks of a window after every re-placement since the load, and the blocks that found no room. -/
def placedBlocks (p : Problem) (window : Nat) : List BlockRow × List BlockRow :=
  p.replaced.foldl (fun acc fh =>
    let r := moveBlocks fh.1 fh.2 acc.1
    (r.1, acc.2 ++ r.2)) (homeBlocks p window, [])

/-- The spans that hold blocks. -/
def blockSpans (rows : List BlockRow) : List Nat := spanIds.filter (fun n => rows.any (fun b => b.span = n))

/-- The spans that hold slots of a problem, in any of its windows. -/
def problemSpans (p : Problem) : List Nat :=
  spanIds.filter (fun n => (List.range (max 1 p.windows)).any (fun w =>
    (placedBlocks p w).1.any (fun b => b.span = n)))

/-- The spans that take the blocks of span `f`: those of the problem that are not fenced, but for its buddy (R436). -/
def hostsFor (spans : List Nat) (fenced : Nat → Bool) (f : Nat) : List Nat :=
  spans.filter (fun n => decide (n ≠ f) && decide (n ≠ f ^^^ 1) && !fenced n)

/-- Re-place a problem after the fence of span `f` (R439); none when some block finds no room. -/
def replaceProblem (p : Problem) (fenced : Nat → Bool) (f : Nat) : Option Problem :=
  if (problemSpans p).contains f then
    let hosts := hostsFor (problemSpans p) fenced f
    let q := { p with replaced := p.replaced ++ [(f, hosts)] }
    if (List.range (max 1 p.windows)).all (fun w => (placedBlocks q w).2.isEmpty) then some q else none
  else some p

/-- The slot of a variable of a replica: span, block number and lane. -/
def findSlot (rows : List BlockRow) (v r : Nat) : Option (Nat × Nat × Nat) :=
  rows.findSome? (fun b =>
    if b.replica = r then
      (b.vars.zipIdx.find? (fun x => x.1 = some v)).map (fun x => (b.span, b.num, x.2))
    else none)

/-! ### Row migration (R151, R152) -/

/-- A permutation block whose rows lie in two or more spans: its owning spans, the rows of each label, and the slots of
each position: home span, group and lane, in increasing row and column. -/
structure MigBlock where
  block : PermBlock
  spans : List Nat
  labels : List (List Nat)
  slots : List (List (Nat × Nat × Nat))
deriving DecidableEq, Repr

/-- The group and lane of a variable at load (R82), with its span. -/
def homeSlot (gs : List GroupRow) (v : Nat) : Option (Nat × Nat × Nat) :=
  gs.findSome? (fun g => (g.vars.zipIdx.find? (fun q => q.1 = v)).map (fun q => (g.span, g.index, q.2)))

/-- The owning spans of a block's rows, and the rows of the labels 0 to 2P - 1 (R151). -/
def migLabels (gs : List GroupRow) (b : PermBlock) : List Nat × List (List Nat) :=
  let spanOf (j : Nat) : Option Nat := (homeSlot gs (b.base + j * b.n)).map Prod.fst
  let spans := spanIds.filter (fun n => (List.range b.n).any (fun j => spanOf j = some n))
  let rows (n : Nat) : List Nat := (List.range b.n).filter (fun j => spanOf j = some n)
  let half (n : Nat) : Nat := ((rows n).length + 1) / 2
  (spans, spans.map (fun n => (rows n).take (half n)) ++ (spans.reverse).map (fun n => (rows n).drop (half n)))

/-- Place reserved slots one after another in new groups of a span. -/
def reserve (span first : Nat) : Nat → Nat → List (Nat × Nat × Nat)
  | _, 0 => []
  | at_, k + 1 => (span, first + at_ / 64, at_ % 64) :: reserve span first (at_ + 1) k

/-- The groups of a span at load that hold variables. -/
def groupCount (gs : List GroupRow) (n : Nat) : Nat :=
  (gs.filter (fun g => g.span = n && !g.vars.isEmpty)).foldl (fun m g => max m (g.index + 1)) 0

/-- The migrating blocks of a window, with the reserved slots of each span so far: they follow the span's groups at load, one
position's after another's (entry 27). -/
def migBlocks (gs : List GroupRow) (perms : List PermBlock) : List MigBlock :=
  (perms.foldl (fun (acc : List MigBlock × Store Nat) b =>
    let sl := migLabels gs b
    let whole := (List.range b.n).all (fun j => (homeSlot gs (b.base + j * b.n)).isSome)
    if sl.1.length < 2 || !whole then acc
    else
      let big := sl.2.foldl (fun m l => max m l.length) 0
      let h := sl.2.length
      let host (g : Nat) : Nat := sl.1.getD (if g < sl.1.length then g else h - 1 - g) 0
      let step (st : Store Nat × List (List (Nat × Nat × Nat))) (q : List Nat × Nat) :=
        let own := q.1.flatMap (fun j => (List.range b.n).map (fun c => (homeSlot gs (b.base + j * b.n + c)).getD (0, 0, 0)))
        let n := host q.2
        let used := Store.get 0 n st.1
        let extra := (big - q.1.length) * b.n
        (Store.put 0 n (used + extra) st.1, st.2 ++ [own ++ reserve n (groupCount gs n) used extra])
      let r := sl.2.zipIdx.foldl step (acc.2, [])
      (acc.1 ++ [⟨b, sl.1, sl.2, r.2⟩], r.1)) ([], [])).1

/-- The reserved groups that a window needs, one list of new group indexes for each span. -/
def reservedGroups (gs : List GroupRow) (perms : List PermBlock) (n : Nat) : List Nat :=
  let first := groupCount gs n
  sortNats (((migBlocks gs perms).flatMap (fun m => m.slots.flatMap (fun l =>
    (l.filter (fun q => q.1 = n && decide (first ≤ q.2.1))).map (fun q => q.2.1)))).dedup)

/-- The label at a position in round t (R151). -/
def labelAt (h t pos : Nat) : Nat := if pos = 0 then 0 else 1 + (pos - 1 + (h - 1) - t % (h - 1)) % (h - 1)

/-- The variable that a home slot holds in round t, when it is a position's slot. -/
def MigBlock.varAt (m : MigBlock) (t : Nat) (slot : Nat × Nat × Nat) : Option (Option Nat) :=
  m.slots.zipIdx.findSome? (fun q =>
    if q.1.contains slot then
      let k := q.1.idxOf slot
      let rows := m.labels.getD (labelAt m.labels.length t q.2) []
      some ((rows[k / m.block.n]?).map (fun j => m.block.base + j * m.block.n + k % m.block.n))
    else none)

/-- Lanes without the empty ones after the last variable. -/
def trimLanes (l : List (Option Nat)) : List (Option Nat) :=
  ((l.reverse).dropWhile Option.isNone).reverse

/-- The rows after migration to the rounds of a list (R152). -/
def migrateRows (nrep : Nat) (ms : List (MigBlock × Nat)) (rows : List BlockRow) : List BlockRow :=
  rows.map (fun (b : BlockRow) =>
    { b with vars := trimLanes ((List.range 64).map (fun lane =>
        match ms.findSome? (fun m => m.1.varAt m.2 (b.home, b.homeNum / nrep, lane)) with
        | some v => v
        | none => (b.vars[lane]?).join)) })

/-- The migrating blocks of a window of a problem. -/
def migratingIn (p : Problem) (window : Nat) : List MigBlock :=
  migBlocks (p.groups.filter (fun g => g.window = window)) p.perms

/-- Rows of a window after the migration round of count `k` (R152): each block takes its own round of that count; none: at load. -/
def atRound (p : Problem) (window : Nat) (round : Option Nat) (rows : List BlockRow) : List BlockRow :=
  match round with
  | none => rows
  | some k => migrateRows p.nrep ((migratingIn p window).map (fun m => (m, k % (m.labels.length - 1)))) rows

/-- The blocks of a window as the loader places them, in the variables of a migration round. -/
def homeRowsAt (p : Problem) (window : Nat) (round : Option Nat) : List BlockRow :=
  (atRound p window round (homeBlocks p window)).filter (fun b => b.vars.any Option.isSome)

/-- The rows of each migration round that differ, and those at load. -/
def roundRows (p : Problem) (window : Nat) : List (List BlockRow) :=
  homeRowsAt p window none :: (match migratingIn p window with
    | [] => []
    | ms => (List.range ((ms.map (fun m => m.labels.length - 1)).foldl Nat.lcm 1)).map (fun k => homeRowsAt p window (some k)))

end Sys2Proof.Machine
end

