-- ==== Sys2Proof/Machine/Fence.lean ====
section
/-! DEFINITION. Fences (R422-R424, R378, R379, R394, R398), raising a fault source with its fence (R415), entering FAULT
(R427), and the errors that reads meet in the arrays (R358, R359, R388, R391, R397, R399).
-/

namespace Sys2Proof.Machine

/-! ### Problems that are lost -/

/-- Report the loss of a problem (R522). -/
def State.notifyLost (s : State) (id : Nat) : State :=
  { s with fe := { s.fe with notify := true, lostId := id } }.raiseVector 1040

/-- Problems in increasing ID. -/
def sortIds (l : List Nat) : List Nat := l.foldr (fun x acc => acc.filter (· < x) ++ [x] ++ acc.filter (x ≤ ·)) []

/-- The problem in a slot. -/
def State.problem (s : State) (q : Nat) : Option Problem := s.problems.find? (fun p => p.id % 64 = q)

/-- The loaded problem that an ID names. -/
def State.problemById (s : State) (id : Nat) : Option Problem := s.problems.find? (fun p => p.id = id)

/-- Change the problem in a slot. -/
def State.modProblem (s : State) (q : Nat) (f : Problem → Problem) : State :=
  { s with problems := s.problems.map (fun p => if p.id % 64 = q then f p else p) }

/-- Free the problem with an ID. -/
def State.freeProblem (s : State) (id : Nat) : State :=
  { s with problems := s.problems.filter (fun p => p.id ≠ id) }

/-- Lose the problems that a test picks (R394): a run of one stops as under QSTOP; the losses are reported in
increasing ID. -/
def State.loseProblems (s : State) (pick : Problem → Bool) : State :=
  let ids := sortIds ((s.problems.filter (fun p => pick p && !p.lost)).map (fun p => p.id))
  let s := { s with problems := s.problems.map (fun p => if pick p then { p with lost := true } else p) }
  ids.foldl (fun st id => (st.stopRun (id % 64) (fun t => { t with stop := true })).notifyLost id) s

/-! ### Contexts whose rings are lost -/

/-- A ring of the context lies where a test picks (R394). -/
def Ctx.ringIn (x : Ctx) (pick : Nat → Bool) : Bool :=
  decide (x.state ≠ .free) &&
  ((List.range (2 ^ x.useRingLog2)).any (fun i => pick (x.useRing + 64 * i)) ||
   (List.range (2 ^ x.useCplLog2)).any (fun i => pick (x.useCpl + 16 * i)))

/-- Stop with ADDR_ERR every context whose command ring or completion ring lies where a test picks (R394). -/
def State.stopCtxsIn (s : State) (pick : Nat → Bool) : State :=
  (s.ctxs.filter (fun cx => cx.2.ringIn pick)).foldl (fun st cx => (st.setLastStatus cx.1 0x11).stopCtx cx.1) s

/-! ### Fencing a span -/

/-- The spans of a run that carry it still. -/
def State.runLive (s : State) (r : Run) : List Nat := r.spans.filter (fun n => !s.spanFenced n)

/-- The run loses a pair, its shadow, its hosts or its recovery copy with span `n` (R394, R438). -/
def State.spanLossBy (s : State) (r : Run) (n : Nat) : Bool :=
  s.spanFenced (n ^^^ 1)
  || (hostsFor r.spans (fun k => s.spanFenced k) n).isEmpty
  || !(match s.problem r.problem with
      | some p => p.recovery
      | none => false)

/-- Epochs of the sweep whose marker the router has accepted from a span (R434): those sent, but for the markers that the
injection limit holds back. -/
def Engine.accepted (e : Engine) : Nat :=
  e.sent - (e.inject.filter (fun m => !m.again && (match m.body with
    | .marker _ undo .. => !undo
    | _ => false))).length

/-- The injection queue of a span that is fenced is discarded (R378): what it holds was not sent, and the last marker that was
sent is one before it. `base` is the e_f that the run held at the last settle. -/
def Engine.dropInject (base : Int) (e : Engine) : Engine :=
  let left := e.kept.filter (fun m => !e.inject.contains m)
  let efs := left.filterMap (fun m => match m.body with
    | .marker _ _ _ ef _ _ => some ef
    | _ => none)
  let marker := e.inject.any (fun m => !m.again && m.body.isMarker)
  let undo := e.inject.any (fun m => !m.again && (match m.body with
    | .marker _ undo .. => undo
    | _ => false))
  { e with sent := e.accepted, undoSent := if undo then 0 else e.undoSent, inject := [], kept := left,
           sentEf := if marker then efs.getLastD base else e.sentEf }

/-- What the model keeps of the checkpoint that a run is writing. -/
def Ckpt.isNext (r : Run) (c : Ckpt) : Bool := c.run.serial = r.serial && c.run.ckptSeq = r.ckptSeq + 1

/-- The runs that hold slots in span `n` abandon the checkpoints that they are writing (R437). -/
def State.abandonCkpts (s : State) (n : Nat) : State :=
  { s with ckpts := s.ckpts.filter (fun c => !s.runs.any (fun r => r.spans.contains n && r.ckptOpen.isSome && Ckpt.isNext r c)) }

/-- What the fence of span `n` does to a run (R434, R438): one that holds slots there is to be re-mapped, and has
no checkpoint to wait for any more (R437); one that has still to re-map the buddy of `n` loses it with its shadow. -/
def State.fenceInRun (s : State) (n : Nat) (r : Run) : Run :=
  let shadowed := r.remap.any (fun q => q.1 = n ^^^ 1)
  if r.spans.contains n then
    { r with fencedSpans := setBit r.fencedSpans n, remap := r.remap ++ [(n, (s.eng n).accepted)], ckptOpen := r.ckptOpen.map (fun _ => true),
             stops := { r.stops with spanLoss := r.stops.spanLoss || shadowed || s.spanLossBy r n } }
  else { r with stops := { r.stops with spanLoss := r.stops.spanLoss || shadowed } }

/-- Re-place or free the problems that are not running (R439). -/
def State.replaceIdle (s : State) (n : Nat) : State :=
  let idle := s.problems.filter (fun p => (s.run (p.id % 64)).isNone)
  let ids := sortIds (idle.map (fun p => p.id))
  ids.foldl (fun st id =>
    match st.problemById id with
    | none => st
    | some p =>
      if !(problemSpans p).contains n then st
      else match (if p.recovery then replaceProblem p (fun k => st.spanFenced k) n else none) with
        | some q => st.modProblem (id % 64) (fun _ => q)
        | none => (st.freeProblem id).notifyLost id) s

/-- Launches for span `n` that are queued or wait are answered FENCED: their commands count the span as failed
(R278, R379). -/
def State.refuseLaunches (s : State) (n : Nat) : State :=
  let queued := (s.pier n).queue
  let waiting := s.waitingLaunches n
  let s := s.modPier n (fun p => { p with queue := [] })
  let fail (st : State) (l : Launch) : State :=
    match st.launchExec l with
    | some _ => st.modExec l.ctx l.batch (fun e => e.spanDone n false true)
    | none => st
  let s := queued.foldl fail s
  waiting.foldl (fun st w => fail st w.2.2.2) s

/-- Fence span `n` (R328, R378, R379, R422, R434): its router port is isolated, so the flits that it has not injected are
discarded; its pier stops; its launches fail; runs and problems follow R434 to R439. -/
def State.fenceSpan (n : Nat) (s : State) : State :=
  if s.spanFenced n then s else
  let shown := (s.span n).bound.map (fun q => (match s.run q with
    | some r => r.sweep % 2 ^ 32
    | none => 0, (s.eng n).epoch % 2 ^ 32))
  let base := (((s.span n).bound.bind s.run).map (fun r => r.ef)).getD (s.eng n).sentEf
  let s := s.abandonCkpts n
  let s := ({ s with runs := s.runs.map (s.fenceInRun n) }.modEng n (Engine.dropInject base)).modSpan n (fun x =>
    { x with fenceRun := shown })
  let s := s.withFlt { s.flt with spans := s.flt.spans ||| (1#16 <<< n) }
  let s := (s.pierStop n 5 false).modPier n (fun p => { p with code := 5 })
  let s := s.modSpan n (fun x => { x with fencePier := x.pier.statusWord })
  (s.refuseLaunches n).replaceIdle n

/-! ### Fencing memory, ports and links -/

/-- Some array of the problem other than its recovery copy lies in a tier (R394). -/
def usesTier (t : Tier) (p : Problem) : Bool := p.placed.any (fun a => decide (a.tier = t) && decide (0 < a.bytes))

/-- The bytes of a problem's arrays in all scratchpads, which its recovery copy repeats (R433). -/
def copyBytes (p : Problem) : Nat := ((p.placed.filter (fun a => a.tier = .scratch)).map (fun a => a.bytes)).sum

/-- The bytes that a problem takes in GDDR7 besides its recovery copy: arrays, settle area. -/
def gddrOwn (p : Problem) : Nat :=
  ((p.placed.filter (fun a => a.tier = .gddr)).map (fun a => a.bytes)).sum + (if p.sys.isSome then 65536 else 0)

/-- The bytes that a problem takes in GDDR7. -/
def gddrUsed (p : Problem) : Nat := gddrOwn p + (if p.recovery then copyBytes p else 0)

/-- The GDDR7 of the regions that are not fenced. -/
def State.gddrLeft (s : State) : Nat := ((List.range 8).filter (fun n => !s.memFenced n)).length * s.regionLen

/-- The loader begins to rebuild the recovery copies over the remaining regions, in increasing problem ID, each while room is
left; a problem for which no room is left, or none of whose copy was whole, has none (R394; entry 89). -/
def State.rebuildCopies (s : State) : State :=
  let room := s.gddrLeft - (s.problems.map gddrOwn).sum
  let ids := sortIds ((s.problems.filter (fun p => p.recovery || p.rebuild)).map (fun p => p.id))
  let kept := (ids.foldl (fun (acc : Nat × List Nat) id =>
    match s.problemById id with
    | some p => if copyBytes p ≤ acc.1 then (acc.1 - copyBytes p, id :: acc.2) else acc
    | none => acc) (room, [])).2
  { s with problems := s.problems.map (fun (p : Problem) =>
    { p with recovery := false, rebuild := kept.contains p.id }) }

/-- The copies that the loader rebuilds are whole. -/
def State.copiesRebuilt (s : State) : State :=
  { s with problems := s.problems.map (fun (p : Problem) =>
      { p with recovery := p.recovery || p.rebuild, rebuild := false }) }

/-- Fence the interface pair of MEMn (R394). GDDR7 arrays lie in every region (R216). -/
def State.fenceMem (n : Nat) (s : State) : State :=
  if s.memFenced n then s else
  let s := s.withFlt { s.flt with mems := s.flt.mems ||| (1#8 <<< n) }
  let rl := s.regionLen
  let s := (s.loseProblems (usesTier .gddr)).rebuildCopies
  s.stopCtxsIn (fun a => decide (n * rl ≤ a) && decide (a < (n + 1) * rl))

/-- Fence CXL port `p` (R398): R394 with the CXL window in place of the region; CXL_PERST_N goes low (R501). -/
def State.fenceCxl (p : Nat) (s : State) : State :=
  if s.cxlFenced p then s else
  let s := s.withFlt { s.flt with cxls := s.flt.cxls ||| (1#2 <<< p) }
  let s := { s with pwr := { s.pwr with cxlPerst := s.pwr.cxlPerst ||| (1#2 <<< p) } }
  if (s.cxl p).present then
    let len := s.cxlMapped
    (s.loseProblems (usesTier .cxl)).stopCtxsIn (fun a => decide (cxlBase ≤ a) && decide (a < cxlBase + len))
  else s

/-- Fence link `l` (R422): it sends DOWN, stops training and drops its traffic. -/
def State.fenceLink (l cause : Nat) (s : State) : State :=
  if s.linkFenced l then s else
  let s := s.withFlt { s.flt with links := s.flt.links ||| (1#4 <<< l) }
  s.takeDown l cause lnkDown true

/-- Take lanes of link `l` out of use until PERST_N (R416, R422): the link works at the widest width without them
(R252), and is down without one. -/
def State.fenceLanes (l mask : Nat) (s : State) : State :=
  let lanes := s.fencedLanes l ||| BitVec.ofNat 8 mask
  let s := s.withFlt { s.flt with lanes := Store.put 0 l lanes.toNat s.flt.lanes }
  if lanes &&& ~~~(s.link l).failed = 0 then s else (s.loseLanes l lanes).2

/-! ### Raising a source -/

/-- The fence of the unit that a source belongs to (Table 17.2). -/
def State.fenceUnitOf (s : State) (b : BlockId) (k detail : Nat) : State :=
  match b with
  | .spn n => s.fenceSpan n.val
  | .mem n => s.fenceMem n.val
  | .cxl p => s.fenceCxl p.val
  | .lnk l => if k = 0 then s.fenceLanes l.val detail else s.fenceLink l.val (if k = 6 then 3 else 0)
  | .mesh | .fe | .mon | .rng => s

/-- Raise source `k` of block `b` (R415): the history entry, and the effect of the severity applied. -/
def State.raise (s : State) (b : BlockId) (k detail : Nat) : State :=
  let sev := s.appliedSeverity b k
  let s := s.enterRaise b k false detail
  if sev = 2 then s.fenceUnitOf b k detail else s

/-- Raise a source whose fence takes place whatever its severity (R423). -/
def State.raiseMandatory (s : State) (b : BlockId) (k detail : Nat) : State :=
  (s.enterRaise b k true detail).fenceUnitOf b k detail

/-! ### Entering FAULT (R427) -/

/-- The opcode names a run or a batch of runs. -/
def isRunOp (op : Nat) : Bool := op = 0x12 || op = 0x13 || op = 0x14 || op = 0x17

/-- The command in execution is finished and its completion can be performed: an entry it needs has room (R268). -/
def Ctx.canComplete (x : Ctx) (e : Exec) (status : Nat) : Bool := !(e.needsEntry status && x.cplFull)

/-- A PLOAD that ends otherwise than with OK keeps nothing loaded (R282). -/
def State.undoLoad (s : State) (e : Exec) : State :=
  match e.phase with
  | .finished 0 detail => if e.cmd.opcode = 0x10 then s.freeProblem (detail % 2 ^ 32) else s
  | _ => s

/-- The completion of a command as it is counted: a PLOAD that completes with OK is a load, any other keeps nothing
(R282). -/
def State.completeCmd (s : State) (c : Nat) (e : Exec) (status detail : Nat) : State :=
  let s := if status ≠ 0 then s.undoLoad e
    else if e.cmd.opcode = 0x10 then { s with fe := { s.fe with loads := s.fe.loads + 1 } } else s
  s.completeWith c e status detail

/-- The command or batch descriptor that context `c` has in execution ends with DEVICE_FAULT (R262), unless its run is in
execution, which ends it. -/
def State.faultExec (s : State) (c : Nat) (batch : Bool) : State :=
  match s.execOf c batch with
  | none => s
  | some e =>
    if s.carriesRun c e.serial then s.modExec c batch (fun y => y.withdrawn (s.runningFor c e.serial))
    else (s.undoLoad e).modExec c batch (fun y => { y.withdrawn 0 with phase := .finished 0x1C 0 })

/-- A context at the FAULT entry (R262, R299): its queued launches are discarded; its command ends with DEVICE_FAULT, except
that a run's command ends with its run, and a batch task with its descriptor; an idle ACTIVE context stops; a drain without
a command ends; one that is ABORTING goes on under R300. -/
def State.faultCtx (s : State) (c : Nat) : State :=
  let s := s.dropQueued c
  let x := s.ctx c
  if x.state = .aborting then s else
  match x.exec with
  | some e =>
    if (x.batch.bind (fun b => b.cur)).isSome then s.faultExec c true
    else
      let s := s.modCtx c (fun y => { y with batch := none, stalled := false })
      let s := s.faultExec c false
      if x.canComplete e 0x1C && !s.carriesRun c e.serial then s.completeCmd c e 0x1C 0 else s
  | none =>
    match x.state with
    | .active => s.modCtx c (fun y => { y with state := .stopped, fetched := [] })
    | .draining => s.modCtx c (fun y => { y with fetched := [], drainTail := some y.head })
    | _ => s

/-- Enter FAULT (R427) in the state 2 or 3 with a cause: contexts, piers and runs, links, ALIVE_OUT, the state. -/
def State.enterFault (s : State) (state cause : Nat) : State :=
  let s := (s.ctxs.map Prod.fst).foldl State.faultCtx s
  let s := spanIds.foldl (fun st n => st.pierStop n 4 false) s
  let s := { s with runs := s.runs.map (fun (r : Run) => { r with stops := { r.stops with fault := true } }) }
  let s := (List.range 4).foldl (fun st l =>
    if (st.link l).state = lnkDisabled then st else st.takeDown l 1 lnkDown false) s
  let now := s.now
  let s := { s with pwr := { s.pwr with aliveRun := false } }
  s.withFlt { s.flt with state := state, cause := cause, esc := none, quietFrom := now, faultTick := now }

/-! ### Errors of the arrays -/

/-- Name a span's block. -/
def spnBlock (n : Nat) : BlockId := .spn (Fin.ofNat 16 n)
/-- Name a memory stop's block. -/
def memBlock (n : Nat) : BlockId := .mem (Fin.ofNat 8 n)
/-- Name a CXL port's block. -/
def cxlBlock (p : Nat) : BlockId := .cxl (Fin.ofNat 2 p)
/-- Name a link's block. -/
def lnkBlock (l : Nat) : BlockId := .lnk (Fin.ofNat 4 l)

/-- Poison an address key. -/
def State.addPoison (s : State) (k : Nat) : State :=
  if s.poison.contains k then s else { s with poison := s.poison ++ [k] }

/-- The memory stop and the source base of the interface that serves an address (Table 17.2). -/
def State.ramUnit (s : State) (a : Nat) : Option (Nat × Nat) :=
  match s.target a with
  | .gddr r i => some (r, i)
  | _ => none

/-- Retrain an interface (R392): it holds its rate, or moves to the next lower one; below 32 Gb/s, code 2, the retrain-failure
source is raised. -/
def State.retrainMem (s : State) (i : Nat) (holds : Bool) : State :=
  if holds then s
  else if (s.memIface i).rate < 2 then s.modMem i (fun x => { x with rate := x.rate + 1 })
  else s.raise (memBlock (i / 2)) (5 * (i % 2) + 3) 0

/-- Raise a source `k` times. -/
def State.raiseTimes (s : State) (b : BlockId) (k detail : Nat) : Nat → State
  | 0 => s
  | n + 1 => (s.raise b k detail).raiseTimes b k detail n

/-- One error that a read meets in a memory array, or an error of another unit. A fenced span meets none (R530), nor does a
memory interface whose inline ECC is off (R389), nor the tag check of a page that has never been written (R399). -/
def State.memEvent (s : State) : MemEvent → State
  | .spanCe n a w =>
    if s.spanFenced n.val then s else
    (s.modSpan n.val (fun x => { x with memCe := satInc x.memCe })).raise (.spn n) 0 (a.val * 2 ^ 28 + w % 2 ^ 28)
  | .spanUe n a w =>
    if s.spanFenced n.val then s else
    let s := if a.val = 0 then s.addPoison (spanRegion n.val + 8 * w)
      else s.modSpan n.val (fun x =>
        { x with poison := Store.put 0 (a.val * 2 ^ 28 + w) (x.wordIn a.val w + 1) x.poison })
    (s.modSpan n.val (fun x => { x with errArray := a.val, errWord := w % 2 ^ 28 })).raise (.spn n) 1
      (a.val * 2 ^ 28 + w % 2 ^ 28)
  | .ramCe a =>
    if !s.sec.cfg.eccOn then s else
    match s.ramUnit a with
    | some (r, i) => (s.modMem i (fun x => { x with ce := satInc x.ce })).raise (memBlock r) (5 * (i % 2)) (a - a % 64)
    | none => s
  | .ramUe a =>
    if !s.sec.cfg.eccOn then s else
    match s.ramUnit a with
    | some (r, i) =>
      ((s.addPoison (a - a % 64)).modMem i (fun x => { x with ueAddr := a - a % 64 })).raise (memBlock r)
        (5 * (i % 2) + 1) (a - a % 64)
    | none => s
  | .crc i n holds =>
    let retries := min 4 n.val
    let s := s.modMem i.val (fun x => { x with retry := satAdd 0xFFFFFFFF x.retry retries })
    let s := s.raiseTimes (memBlock (i.val / 2)) (5 * (i.val % 2) + 2) 0 retries
    if n.val = 5 then s.retrainMem i.val holds else s
  | .hopCe => { s with mesh := { s.mesh with hopCe := satInc s.mesh.hopCe } }.raise .mesh 0 0
  | .vc2Promote => { s with mesh := { s.mesh with promote := satInc s.mesh.promote } }
  | .cxlPoison a =>
    match s.target a with
    | .cxl p _ =>
      ((s.addPoison (a - a % 64)).modCxl p (fun x => { x with poisonAddr := a - a % 64 })).raise (cxlBlock p) 0
        (a - a % 64)
    | _ => s
  | .cxlTag p a =>
    match s.target a with
    | .cxl q page =>
      if q = p.val && (s.cxl q).enc && decide (Store.get 0 page (s.cxl q).counters ≠ 0) then
        ((List.range 64).foldl (fun st k => st.addPoison (a - a % 4096 + 64 * k)) s).raise (cxlBlock q) 1
          (a - a % 4096)
      else s
    | _ => s
  | .storeCe => s.raise .fe 1 0
  | .frontEndUe => s.raise .fe 2 0
  | .cipherError => s.raise .rng 2 0

/-- The errors that the reads of a command meet, in order. -/
def State.memEvents (s : State) (l : List MemEvent) : State := l.foldl State.memEvent s

end Sys2Proof.Machine
end

