-- ==== Sys2Proof/Machine/Clock.lean ====
section
/-! DEFINITION. Time: the time counter and elapsed ticks (R471-R473), PPS (R474-R476), the monitors and the thermal
controller (R477-R482), ALIVE_OUT (R504). A command that stands for an event at a stated instant brings time to
that instant (entry 5).
-/

namespace Sys2Proof.Machine

/-! ### Counting -/

/-- A captured edge that has not been accepted by its acceptance tick was not held for 25 ticks: it is ignored and counted
(R475). -/
def Time.missed (t : Time) (now : Nat) : Bool :=
  match t.cap with
  | some c => decide (c.tick + 24 < now)
  | none => false

/-- Count the time counter on by `k` ticks (R471, R472, R474): held ticks first, then counting; a pending set value is
taken at the first rollover. -/
def Time.advance (t : Time) (k : Nat) : Time :=
  let h := min t.hold k
  let total := t.sub + (k - h)
  let rolls := total / tickSec
  let sec := if rolls = 0 then t.sec
    else match t.setTo with
      | some v => (v + (rolls - 1)) % 2 ^ 32
      | none => (t.sec + rolls) % 2 ^ 32
  { t with hold := t.hold - h, sub := total % tickSec, sec := sec,
           setTo := if rolls = 0 then t.setTo else none, ticks := t.ticks + k,
           cap := if t.missed (t.ticks + k) then none else t.cap,
           ignored := if t.missed (t.ticks + k) then satAdd 65535 t.ignored 1 else t.ignored }

/-- ACLK cycles received of the first `n` at a throttle level (R481): 16 - level of every 16, spread evenly. -/
def aclkReceived (level n : Nat) : Nat := n * (16 - level) / 16

/-- A span counts `k` ticks of six ACLK cycles each (R315, R469, R481), and the cycles in which an instruction waits for
a tile (R191). -/
def Span.advance (x : Span) (level k : Nat) : Span :=
  let a := x.aclk
  let c := aclkReceived level (a + 6 * k) - aclkReceived level a
  { x with cycles := (x.cycles + c) % 2 ^ 64, aclk := (a + 6 * k) % 16,
           tileStalls := if anyTileWaits x.runTile x.pier.flight then satAdd 0xFFFFFFFF x.tileStalls c else x.tileStalls }

/-- `k` TCLK ticks of eight NCLK cycles pass, in each of which a span injects one VC1 flit (R370). The registers of a fenced
span keep their values (R530). What takes time and has no row of its own completes: an FLR or a DEV soft reset (R413, R494, entry
30), the rebuilding of recovery copies (R394, entry 89), the writing of a checkpoint (R287, entry 24). -/
def State.advance (s : State) (k : Nat) : State :=
  if !s.running || k = 0 then s
  else
    let s := { s with time := s.time.advance k,
                      boot := { s.boot with ready := s.boot.ready || s.boot.resetting, resetting := false },
                      runs := s.runs.map (fun (r : Run) => { r with ckptOpen := r.ckptOpen.map (fun _ => true) }) }.copiesRebuilt
    spanIds.foldl (fun st n =>
      if st.spanFenced n then st else (st.modSpan n (fun x => x.advance st.mon.level k)).injectFirst n k) s

/-- Time passes up to tick `t`. -/
def State.passTo (s : State) (t : Nat) : State := s.advance (t - s.now)

/-- One TCLK tick: what the block does when no command waits (entry 5). -/
def State.tick (s : State) : State := s.advance 1

/-- A host write to BAR0 outside the DEV block is taken (R402, R410). -/
def State.barOk (s : State) : Bool := s.running && s.boot.ready && !s.pcie.d3hot

/-! ### The rows of time -/

/-- DEV_TIME_SET (R472). -/
def execDevTimeSet (sec : BitVec 32) (s : State) : Out :=
  goOn (if s.barOk then { s with time := { s.time with setTo := some sec.toNat } } else s)

/-- TIME_ROLLOVER (R471, R472): time passes to the tick at which TIME_SUB rolls over. -/
def execTimeRollover (s : State) : Out := goOn (s.advance (s.time.hold + (tickSec - s.time.sub)))

/-- A rising edge on PPS_IN at its capture tick (R474, R475). One that comes too early is ignored and counted, and so
is an edge before it that has not been accepted, which has not been held. -/
def Time.capture (t : Time) : Time :=
  let t := if t.cap.isSome then { t with cap := none, ignored := satAdd 65535 t.ignored 1 } else t
  let early := match t.lastAcc with
    | some a => decide (t.ticks < a + tickSec / 2)
    | none => false
  if early then { t with ignored := satAdd 65535 t.ignored 1 }
  else { t with cap := some ⟨t.sec, t.sub, t.ticks⟩ }

/-- PPS_CAPTURE (R474, R475). -/
def execPpsCapture (s : State) : Out := goOn (if s.running then { s with time := s.time.capture } else s)

/-- d of step 2 of R474. -/
def ppsOffset (sub : Nat) : Int := (((sub : Int) - 3 + 125000000) % 250000000) - 125000000

/-- The counter at the acceptance tick of an edge captured at `c` (R474, R476). When the counter has rolled over since the
capture, the second that the edge starts is the one it rolled over to, which a pending write may have set (DEDUCED, entry 122:
the counter would read lower values otherwise). -/
def Time.accept (t : Time) (c : PpsEdge) : Time :=
  let d := ppsOffset c.sub
  let edge := if d ≥ 0 then c.sec else if t.sub < c.sub then t.sec else (c.sec + 1) % 2 ^ 32
  let second := t.setTo.getD edge
  let t := { t with setTo := none, cap := none, lastAcc := some c.tick, lossMark := c.tick, pps := 1, ppsLast := d }
  if -8 ≤ d && d ≤ 8 then
    if d > 0 then { t with sec := second, hold := d.toNat }
    else if d = 0 then { t with sec := second }
    else { t with sec := second, sub := 27, hold := 0 }
  else { t with sec := second, sub := 27, hold := 0, jump := true, jumps := satAdd 255 t.jumps 1 }

/-- PPS_ACCEPT (R474, R475): 24 ticks after the capture tick. -/
def execPpsAccept (s : State) : Out :=
  match s.time.cap with
  | some c =>
    if s.now ≤ c.tick + 24 then
      let s := s.passTo (c.tick + 24)
      let jump := decide (ppsOffset c.sub < -8) || decide (ppsOffset c.sub > 8)
      let s := { s with time := s.time.accept c }
      goOn (if jump then s.raiseVector 1042 else s)
    else goOn s
  | none => goOn s

/-- PPS_LOST (R476): 1.5 s without an accepted edge. -/
def execPpsLost (s : State) : Out :=
  if s.running && decide (s.time.pps ≠ 2) then
    let s := s.passTo (s.time.lossMark + 3 * tickSec / 2)
    goOn ({ s with time := { s.time with pps := 2, lost := true, losses := satAdd 255 s.time.losses 1 } }.raiseVector 1042)
  else goOn s

/-- ALIVE_TOGGLE (R504, R427): every 125,000 ticks, unless the output is held. -/
def execAliveToggle (s : State) : Out :=
  if s.running && s.pwr.aliveRun then
    let s := s.passTo (s.pwr.aliveTick + 125000)
    goOn { s with pwr := { s.pwr with alive := !s.pwr.alive, aliveTick := s.now } }
  else goOn s

/-! ### Monitors -/

/-- 1 °C in sensor units. -/
def degC : Int := 8

/-- Tj (R477): the highest of the 24 die readings. -/
def Mon.tj (m : Mon) : Int :=
  (List.range 24).foldl (fun acc n => max acc (Store.get 0 n m.die)) (Store.get 0 0 m.die)

/-- The limits of the module sensors (R480). -/
def modLimit : Nat → Int
  | 0 => 125 * degC
  | 1 => 45 * degC
  | 2 => 65 * degC
  | _ => 85 * degC

/-- The module sensors at or above their limits. -/
def Mon.atLimit (m : Mon) : List Nat := (List.range 4).filter (fun k => decide (modLimit k ≤ Store.get 0 k m.mod))

/-- THERM_N after a sample (R482). -/
def thermAfter (m : Mon) (was : Bool) : Bool :=
  if m.tj ≥ 105 * degC || !m.atLimit.isEmpty then true
  else if m.tj < 100 * degC then false else was

/-- The readings of a list, stored. -/
def storeReadings (l : List Int) : Store Int := Store.putAll 0 (l.zipIdx.map (fun p => (p.2, p.1))) []

/-- SENSOR_SAMPLE (R477, R480, R482, R418): 100 µs after the sample before. -/
def execSensorSample (die mod : List Int) (s : State) : Out :=
  if !s.running then goOn s else
  let s := s.passTo (s.mon.sensorTick + 100 * tickUs)
  let m := { s.mon with die := storeReadings die, mod := storeReadings mod, sensorTick := s.now }
  let m := { m with inletCold := decide (Store.get 0 1 m.mod < 15 * degC) }
  let hot := decide (m.tj ≥ 105 * degC)
  let newHot := hot && !s.mon.hot
  let lim := m.atLimit
  let newLim := lim.filter (fun k => !s.mon.modCond.contains k)
  let s := { s with mon := { m with hot := hot, modCond := lim },
                    pwr := { s.pwr with therm := thermAfter m s.pwr.therm } }
  let s := if newHot then s.raise .mon 1 0 else s
  goOn (newLim.foldl (fun st _ => st.raise .mon 3 0) s)

/-- The nominal voltage of a rail in mV, and VIN's window in units of 4 mV (Table 19.1). -/
def railNominal : Nat → Nat
  | 1 => 3300
  | 2 => 12000
  | 3 | 4 => 750
  | 5 => 850
  | 6 => 1200
  | 7 => 1100
  | 8 => 900
  | 9 => 1200
  | 10 => 1800
  | 11 => 900
  | _ => 48000

/-- A reading of rail `v` with its window flags (R478, Table 19.1). -/
def voltReading (v mv : Nat) : Volt :=
  if v = 0 then ⟨mv, decide (4 * mv < 40000), decide (4 * mv > 60000)⟩
  else ⟨mv, decide (100 * mv < 95 * railNominal v), decide (100 * mv > 105 * railNominal v)⟩

/-- VOLTAGE_SAMPLE (R478, R418): 10 µs after the sample before. -/
def execVoltageSample (mv : List Nat) (s : State) : Out :=
  if !s.running then goOn s else
  let s := s.passTo (s.mon.voltTick + 10 * tickUs)
  let readings := mv.zipIdx.map (fun p => (p.2, voltReading p.2 p.1))
  let out := (readings.filter (fun r => r.2.low || r.2.high)).map Prod.fst
  let new := out.filter (fun v => !s.mon.voltCond.contains v)
  let s := { s with mon := { s.mon with volt := Store.putAll ⟨0, false, false⟩ readings s.mon.volt, voltCond := out,
                                           voltTick := s.now } }
  goOn (new.foldl (fun st _ => st.raise .mon 2 0) s)

/-- PROCESS_MONITOR_WINDOW (R479): 4,096 ticks after the window before. -/
def execProcessMonitorWindow (n : Fin 16) (count : BitVec 16) (s : State) : Out :=
  if !s.running then goOn s else
  let s := s.passTo (Store.get 0 n.val s.mon.procTick + 4096)
  goOn { s with mon := { s.mon with proc := Store.put 0 n.val count.toNat s.mon.proc,
                                      procTick := Store.put 0 n.val s.now s.mon.procTick } }

/-- The throttle level after a control step (R481). -/
def nextLevel (tj : Int) (k : Nat) : Nat :=
  if tj ≥ 105 * degC then 8
  else if tj ≥ 95 * degC && k < 8 then k + 1
  else if tj < 92 * degC && k > 0 then k - 1 else k

/-- THERMAL_CONTROL (R481): 1 ms after the control step before. -/
def execThermalControl (s : State) : Out :=
  if !s.running then goOn s else
  let s := s.passTo (s.mon.controlTick + tickMs)
  let s := { s with mon := { s.mon with controlTick := s.now } }
  let k := nextLevel s.mon.tj s.mon.level
  if k = s.mon.level then goOn s
  else
    goOn ({ s with mon := { s.mon with level := k, steps := satAdd 65535 s.mon.steps 1 } }.raise .mon 0 0)

end Sys2Proof.Machine
end

