-- ==== Sys2Proof/Machine/Engine.lean ====
section
/-! DEFINITION. The sweep engine of one span on its working data: contributions and field reads (06), refreshes (R165,
R166), moves and their acceptance (R90-R95, R103-R113), exact, greedy and relaxed decisions of a block (R124-R132),
and the rescale replay (R168-R174). Everything here is a function of the data; a write that overflows ends the unit of
work with an error, and the unit is made again at a coarser scale.
-/

namespace Sys2Proof.Machine

/-- A unit of work on a span's data: it ends, or overflows in the field store (none) or in z of a section. -/
abbrev Try (α : Type) : Type := Except (Option Nat) α

/-- What a span's engine works with besides its data: the problem and settings, the placement, the inputs of the noise,
each replica's β, and the values that other spans hold, as this span has applied them. -/
structure Env where
  p : Problem
  sc : Sched
  n : Nat
  rows : List BlockRow
  sweep : Nat
  lo : BitVec 32
  hi : BitVec 32
  sample : Bool
  beta : Nat → Beta
  other : Nat → Nat → Bool
  /-- The field V, in units of 2^(e_f - 16) at the e_f given, of a variable of a replica that another span holds (R93). -/
  otherField : Int → Nat → Nat → Int

/-- The blocks of the span. -/
def Env.mine (e : Env) : List BlockRow := e.rows.filter (fun b => b.span = e.n)

/-- The slot that a variable of replica r has in this span. -/
def Env.slotOf (e : Env) (v r : Nat) : Option Nat :=
  (findSlot e.mine v r).map (fun s => s.2.1 * 64 + s.2.2)

/-- The variable of replica r is active: it is not frozen (R204, R436). -/
def Env.active (e : Env) (v r : Nat) : Bool := (findSlot e.rows v r).isSome

/-- The value in a slot. -/
def SpanData.bit (d : SpanData) (slot : Nat) : Bool := (Store.get 0#64 (slot / 64) d.deck).getLsbD (slot % 64)

/-- Set the value in a slot. -/
def SpanData.setBit (d : SpanData) (slot : Nat) (x : Bool) : SpanData :=
  let w := Store.get 0#64 (slot / 64) d.deck
  let m := 1#64 <<< (slot % 64)
  { d with deck := Store.put 0#64 (slot / 64) (if x then w ||| m else w &&& ~~~m) d.deck }

/-- The value of a variable as applied at this span (R166); one of another span that this span's unit of work has changed
holds the new value (R93). -/
def Env.x (e : Env) (d : SpanData) (r v : Nat) : Bool :=
  match e.slotOf v r with
  | some s => d.bit s
  | none => match d.far.find? (fun q => q.1 = v * 256 + r) with
    | some q => q.2
    | none => e.other v r

/-! ### Contributions (R159-R161) -/

/-- Key of z and of its counter. -/
def zKey (sec r : Nat) : Nat := sec * 256 + r
/-- Key of the counter of a row of Y^t. -/
def yRow (sec t r i : Nat) : Nat := ((sec * 4 + t) * 256 + r) * 4096 + i
/-- Key of a group of a row of Y^t. -/
def yKey (sec t r i g : Nat) : Nat := yRow sec t r i * 256 + g

/-- A group that nothing has been added to. -/
def yGroup0 : YGroup := ⟨-127, []⟩

/-- Count one truncating contribution. -/
def countOne (k : Nat) (c : Store Nat) : Store Nat := Store.put 0 k (satInc (Store.get 0 k c)) c

/-- Count `n` truncating contributions. -/
def countMore (n k : Nat) (c : Store Nat) : Store Nat := (List.range n).foldl (fun c _ => countOne k c) c

/-- Add a contribution to the field of variable i (R159, R160); a zero one is none. -/
def Env.contribute (e : Env) (ef : Int) (r i : Nat) (c : Dy) (d : SpanData) : Try SpanData :=
  if c.m = 0 then .ok d
  else match e.slotOf i r with
    | none => .ok d
    | some slot =>
      let v := Store.get 0 slot d.fields + c.floorAt (ef - 16)
      if fieldOverflows v then .error none
      else .ok { d with fields := Store.put 0 slot v d.fields,
                        counts := if c.e < ef then countOne (slot / 64) d.counts else d.counts }

/-- Add to z of every low-rank section that covers variable k (R42, R161, R173). The overflow of a 48-bit z entry is taken as
that of a 48-bit field entry, and a U entry of 0 is one that the update does not add (entry 97). -/
def Env.zUpdate (e : Env) (r k : Nat) (dv : Int) (d : SpanData) : Try SpanData :=
  e.p.lowranks.zipIdx.foldlM (fun d q =>
    let s := q.1
    let sec := q.2
    if !s.has k then .ok d
    else
      let ez := Store.get 0 sec d.ez
      let z := Store.get [] (zKey sec r) d.z
      let new := (z.zip (s.row k)).map (fun a => a.1 + (a.2.smul dv).floorAt (ez - 16))
      if new.any fieldOverflows then .error (some sec)
      else .ok { d with z := Store.put [] (zKey sec r) new d.z,
                        zCount := if (s.row k).any (fun u => decide (u.m ≠ 0) && decide (u.e < ez - 16)) then
                          countOne (zKey sec r) d.zCount else d.zCount }) d

/-- Add to Y^t of every Kronecker section that covers variable k (R45, R161). -/
def Env.yUpdate (e : Env) (r k : Nat) (dv : Int) (d : SpanData) : SpanData :=
  e.p.krons.zipIdx.foldl (fun d q =>
    let s := q.1
    if !s.has k then d
    else
      let j := (k - s.base) / s.m
      let b := (k - s.base) % s.m
      s.terms.zipIdx.foldl (fun d t =>
        (List.range s.n).foldl (fun d i =>
          let c := (colEntry t.1.f i j).smul dv
          if c.m = 0 then d
          else
            let key := yKey q.2 t.2 r i (b / 16)
            let g := yAdd (b % 16) c (Store.get yGroup0 key d.y)
            { d with y := Store.put yGroup0 key g.1 d.y,
                     yCount := countMore g.2 (yRow q.2 t.2 r i) d.yCount }) d) d) d

/-- The stored couplings out of variable k: target and coefficient, each copy with its own block exponent. A dense partner is
updated by J_ik Δv_k as a sparse one is, of the two ways that Table 2.1 allows (entry 98). -/
def outOf (p : Problem) (k : Nat) : List (Nat × Dy) :=
  p.sparses.flatMap (fun s => (s.filter (fun e => e.src = k)).map (fun e => (e.row, e.c)))
    ++ p.denses.flatMap (fun s => s.entries.filterMap (fun e =>
      if e.src = k then some (e.row, e.c) else if e.row = k then some (e.src, e.c) else none))

/-- Every update that a change of variable k to `new` makes in this span (R38, R39); the deck or the applied values
already hold the new value. -/
def Env.applyChange (e : Env) (ef : Int) (r k : Nat) (new : Bool) (d : SpanData) : Try SpanData := do
  let dv := e.p.dv new
  let d ← (outOf e.p k).foldlM (fun d t => e.contribute ef r t.1 (t.2.smul dv) d) d
  let d ← (e.p.hyperOf k).foldlM (fun d h =>
    (h.members.filter (· ≠ k)).foldlM (fun d i =>
      e.contribute ef r i (h.c.smul (e.p.prodOthers h [i, k] (e.x d r) * dv)) d) d) d
  let d ← e.zUpdate r k dv d
  return e.yUpdate r k dv d

/-! ### Field reads and refreshes (R43, R45, R164-R166) -/

/-- The low-rank part of a field in units of 2^(e_f - 16), one rounding for each section (R43). -/
def Env.lowRankPart (e : Env) (ef : Int) (r v : Nat) (x : Bool) (d : SpanData) : Int :=
  (e.p.lowranks.zipIdx.map (fun q =>
    if q.1.has v then
      let ez := Store.get 0 q.2 d.ez
      let z := Store.get [] (zKey q.2 r) d.z
      let s := Dy.sum (((q.1.row v).zip (q.1.sigma.zip z)).map (fun a => (a.1.mul a.2.1).mul ⟨a.2.2, ez - 16⟩))
      (s.sub ((q.1.diag v).smul (e.p.v x))).roundEvenAt (ef - 16)
    else 0)).sum

/-- The Kronecker part of a field, one rounding for each section (R45). -/
def Env.kronPart (e : Env) (ef : Int) (r v : Nat) (x : Bool) (d : SpanData) : Int :=
  (e.p.krons.zipIdx.map (fun q =>
    if q.1.has v then
      let i := (v - q.1.base) / q.1.m
      let a := (v - q.1.base) % q.1.m
      let s := Dy.sum (q.1.terms.zipIdx.map (fun t =>
        Dy.sum ((List.range q.1.m).map (fun b =>
          let g := Store.get yGroup0 (yKey q.2 t.2 r i (b / 16)) d.y
          Dy.mul ⟨g.m.getD (b % 16) 0, g.e⟩ (colEntry t.1.d b a)))))
      (s.sub ((q.1.diag v).smul (e.p.v x))).roundEvenAt (ef - 16)
    else 0)).sum

/-- The field V in a slot of this span with its factored parts added (R43, R45). -/
def Env.slotV (e : Env) (ef : Int) (r v slot : Nat) (d : SpanData) : Int :=
  let x := d.bit slot
  Store.get 0 slot d.fields + e.lowRankPart ef r v x d + e.kronPart ef r v x d

/-- The field V of a variable, as a read forms it: of one that another span holds, what that span reads (R93). -/
def Env.readV (e : Env) (ef : Int) (r v : Nat) (d : SpanData) : Try Int :=
  match e.slotOf v r with
  | none => .ok (e.otherField ef v r)
  | some slot => if fieldOverflows (e.slotV ef r v slot d) then .error none else .ok (e.slotV ef r v slot d)

/-- The truncation count N of a block (R164). -/
def Env.count (e : Env) (b : BlockRow) (d : SpanData) : Nat :=
  let vars := b.vars.filterMap id
  let zs := (e.p.lowranks.zipIdx.map (fun q =>
    if vars.any q.1.has then Store.get 0 (zKey q.2 b.replica) d.zCount else 0)).sum
  let ys := (e.p.krons.zipIdx.map (fun q =>
    let rows := ((vars.filter q.1.has).map (fun v => (v - q.1.base) / q.1.m)).dedup
    ((List.range q.1.terms.length).map (fun t =>
      (rows.map (fun i => Store.get 0 (yRow q.2 t b.replica i) d.yCount)).sum)).sum)).sum
  Store.get 0 b.num d.counts + zs + ys

/-- Recompute a field exactly: floor of the exact sum (R166, Table 6.1). -/
def Env.exactField (e : Env) (ef : Int) (r v : Nat) (d : SpanData) : Int := (e.p.storeField (e.x d r) v).floorAt (ef - 16)

/-- Recompute the stored fields of a block exactly and reset its counter. -/
def Env.recomputeBlock (e : Env) (ef : Int) (b : BlockRow) (d : SpanData) : Try SpanData := do
  let d ← b.vars.zipIdx.foldlM (fun d q => match q.1 with
    | some v =>
      let w := e.exactField ef b.replica v d
      if fieldOverflows w then Except.error (none : Option Nat)
      else Except.ok { d with fields := Store.put 0 (b.num * 64 + q.2) w d.fields }
    | none => Except.ok d) d
  return { d with counts := Store.put 0 b.num 0 d.counts }

/-- Recompute z of a section for a replica. -/
def Env.recomputeZ (e : Env) (sec r : Nat) (s : LowRank) (d : SpanData) : Try SpanData :=
  let z := zExact e.p s (Store.get 0 sec d.ez) (e.x d r)
  if z.any fieldOverflows then .error (some sec)
  else .ok { d with z := Store.put [] (zKey sec r) z d.z, zCount := Store.put 0 (zKey sec r) 0 d.zCount }

/-- Recompute row i of every Y^t of a section for a replica. -/
def Env.recomputeY (e : Env) (sec r i : Nat) (s : Kron) (d : SpanData) : SpanData :=
  s.terms.zipIdx.foldl (fun d t =>
    let gs := yExact e.p s t.1 i (e.x d r)
    { d with y := Store.putAll yGroup0 (gs.zipIdx.map (fun g => (yKey sec t.2 r i g.2, g.1))) d.y,
             yCount := Store.put 0 (yRow sec t.2 r i) 0 d.yCount }) d

/-- A block refresh (R166). -/
def Env.refreshBlock (e : Env) (ef : Int) (b : BlockRow) (d : SpanData) : Try SpanData := do
  let vars := b.vars.filterMap id
  let d ← e.recomputeBlock ef b d
  let d ← e.p.lowranks.zipIdx.foldlM (fun d q =>
    if vars.any q.1.has then e.recomputeZ q.2 b.replica q.1 d else .ok d) d
  return e.p.krons.zipIdx.foldl (fun d q =>
    (((vars.filter q.1.has).map (fun v => (v - q.1.base) / q.1.m)).dedup).foldl (fun d i =>
      e.recomputeY q.2 b.replica i q.1 d) d) d

/-- The count of a block has reached the threshold. -/
def Env.refreshDue (e : Env) (b : BlockRow) (d : SpanData) : Bool := decide (e.count b d ≥ e.sc.threshold)

/-- The test before a read (R165, in the order of entry 99): a forced refresh counts in refreshes, and at 65,536 in over_length. -/
def Env.testRead (e : Env) (ef : Int) (b : BlockRow) (d : SpanData) : Try SpanData :=
  if e.refreshDue b d then
    let long := decide (e.count b d ≥ 65536)
    e.refreshBlock ef b { d with nRefreshes := d.nRefreshes + 1, nOver := if long then d.nOver + 1 else d.nOver }
  else .ok d

/-- The block of this span that holds a variable. -/
def Env.blockOf (e : Env) (v r : Nat) : Option BlockRow :=
  e.mine.find? (fun b => b.replica = r && b.vars.contains (some v))

/-! ### Moves (R90-R98) -/

/-- A move: kind code, proposing variable, and the changes in increasing variable index. -/
structure Move where
  kind : Nat
  var : Nat
  changes : List (Nat × Bool)
deriving DecidableEq, Repr

/-- Insert a change by variable. -/
def insertChange (c : Nat × Bool) : List (Nat × Bool) → List (Nat × Bool)
  | [] => [c]
  | x :: r => if c.1 ≤ x.1 then c :: x :: r else x :: insertChange c r

/-- Changes in increasing variable index. -/
def sortChanges (l : List (Nat × Bool)) : List (Nat × Bool) := l.foldr insertChange []

/-- Entry (u × c) >> 32 of a list (R92). -/
def pickEntry (l : List Nat) (u : Nat) : Option Nat := l[u * l.length / 2 ^ 32]?

/-- An exchange in a one-hot group (R90, R92, R76); only active variables take part. -/
def Env.exchange (e : Env) (x : Nat → Bool) (r v att : Nat) (g : List Nat) : Option Move :=
  match onMember g x with
  | none => none
  | some p =>
    if e.p.clamped.contains p || !e.active p r then none
    else
      let q := if p = v then
          pickEntry (sortNats (g.filter (fun m => m ≠ p && !e.p.clamped.contains m && e.active m r)))
            (noiseAt e.lo e.hi p 2 e.sweep r 1 att)
        else some v
      q.map (fun q => ⟨1, v, sortChanges [(p, false), (q, true)]⟩)

/-- A row swap in a permutation block (R91, R92, R76). -/
def Env.rowSwap (e : Env) (x : Nat → Bool) (r v att : Nat) (b : PermBlock) : Option Move :=
  if !x v then none
  else
    let i := (v - b.base) / b.n
    let a := (v - b.base) % b.n
    let at_ (j c : Nat) : Nat := b.base + j * b.n + c
    let onVar (j : Nat) : Option Nat := (b.col x j).map (at_ j)
    let blocked (j : Nat) : Bool := match onVar j with
      | some o => e.p.clamped.contains o
      | none => true
    let rows := (List.range b.n).filter (fun j => j ≠ i && !blocked j &&
      (match onVar j with
       | some o => (e.slotOf o r).isSome
       | none => false))
    if blocked i then none
    else match pickEntry rows (noiseAt e.lo e.hi v 3 e.sweep r 2 att) with
      | none => none
      | some j => match b.col x j with
        | none => none
        | some c =>
          let ch := [(v, false), (at_ j c, false), (at_ i c, true), (at_ j a, true)]
          if ch.any (fun q => e.p.clamped.contains q.1 || !e.active q.1 r) then none else some ⟨2, v, sortChanges ch⟩

/-- The move that a visit proposes (R90). -/
def Env.propose (e : Env) (x : Nat → Bool) (r v att : Nat) : Option Move :=
  if e.p.clamped.contains v then none
  else match e.p.onehotOf v with
    | some g => e.exchange x r v att g
    | none => match e.p.permOf v with
      | some b => e.rowSwap x r v att b
      | none => some ⟨0, v, [(v, !x v)]⟩

/-- D of a move from integer fields (R103, R104). -/
def Env.formD (e : Env) (ef : Int) (x : Nat → Bool) (f : Nat → Int) (m : Move) : Int :=
  let first := m.changes.foldl (fun acc c => acc + e.p.dv c.2 * f c.1) 0
  let pairs := m.changes.flatMap (fun a => (m.changes.filter (fun b => a.1 < b.1)).map (fun b =>
    e.p.dv a.2 * e.p.dv b.2 * (e.p.pair a.1 b.1).roundEvenAt ef))
  satD (first + pairs.sum + (e.p.hyperRest m.changes x).roundEvenAt ef)

/-- ΔE of a move in units of 2^(e_f - 16) (R41, R144). -/
def Env.deltaE (e : Env) (ef : Int) (x : Nat → Bool) (v : Nat → Int) (m : Move) : Int :=
  let first := m.changes.foldl (fun acc c => acc + e.p.dv c.2 * v c.1) 0
  first + ((e.p.pairSum m.changes).add (e.p.hyperRest m.changes x)).floorAt (ef - 16)

/-- The acceptance of a move (R108-R112). -/
def Env.accept (e : Env) (ef d : Int) (r att : Nat) (m : Move) : Bool :=
  accepts e.sc.rule e.sc.zeroTie (e.beta r) ef d
    (noiseAt e.lo e.hi m.var (if e.sample then 4 else 0) e.sweep r m.kind att)

/-! ### Deciding a block -/

/-- The state of a block in decision: data, working fields V by variable, the records of its commits. -/
structure Work where
  d : SpanData
  wf : Store Int
  recs : List FlipRec
deriving DecidableEq, Repr

/-- The attempt number of a slot (R98, R132). -/
def Env.attempt (e : Env) (r v : Nat) (d : SpanData) : Nat :=
  if e.sc.revert then match e.slotOf v r with
    | some s => Store.get 0 s d.attempts
    | none => 0
  else 0

/-- Store an attempt number (R132). -/
def Env.setAttempt (e : Env) (r v a : Nat) (d : SpanData) : SpanData :=
  if e.sc.revert then match e.slotOf v r with
    | some s => { d with attempts := Store.put 0 s (a % 256) d.attempts }
    | none => d
  else d

/-- The lanes of a block in decision order (R100, R124). -/
def Env.laneOrder (e : Env) (b : BlockRow) : List Nat :=
  let lanes := (List.range 64).filter (fun k => ((b.vars[k]?).join).isSome)
  if e.sc.permuted then
    let key (k : Nat) : Nat := noiseAt e.lo e.hi (((b.vars[k]?).join).getD 0) 1 e.sweep b.replica 5 0
    (sortNats (lanes.map (fun k => key k * 64 + k))).map (fun q => q % 64)
  else lanes

/-- Variable of a lane. -/
def BlockRow.var (b : BlockRow) (k : Nat) : Option Nat := (b.vars[k]?).join

/-- Some group of the block's variables has a member outside the block (R94). -/
def Env.openGroup (e : Env) (b : BlockRow) : Bool :=
  (b.vars.filterMap id).any (fun v => (e.p.groupOf v).any (fun m => !b.vars.contains (some m)))

/-- The field V of a variable as a decision of the block uses it: the working copy of a lane of `held`, else a read (R124,
R127). -/
def Env.workV (e : Env) (ef : Int) (b : BlockRow) (held : List Nat) (w : Work) (v : Nat) : Try Int :=
  if held.contains v then .ok (Store.get 0 v w.wf) else e.readV ef b.replica v w.d

/-- Read the fields of the lanes of a block, after the test of R165 when it is a read of the field store. -/
def Env.loadBlock (e : Env) (ef : Int) (b : BlockRow) (test : Bool) (d : SpanData) : Try Work := do
  let d ← if test then e.testRead ef b d else Except.ok d
  let vs ← (b.vars.filterMap id).mapM (fun v => do
    let f ← e.readV ef b.replica v d
    return (v, f))
  return ⟨d, Store.putAll 0 vs [], []⟩

/-- Test the blocks of partner slots outside the block before they are read (R165). -/
def Env.testPartners (e : Env) (ef : Int) (b : BlockRow) (m : Move) (w : Work) : Try Work := do
  let outs := (m.changes.filterMap (fun c =>
    if b.vars.contains (some c.1) then none else e.blockOf c.1 b.replica)).dedup
  let d ← outs.foldlM (fun d o => e.testRead ef o d) w.d
  return { w with d := d }

/-- A formed move with its integer and exact energy change. -/
structure Formed where
  m : Move
  att : Nat
  dd : Int
  de : Int
deriving DecidableEq, Repr

/-- A move with its energy change, from the values of data and a read of each changed variable's field. -/
def Env.formed (e : Env) (ef : Int) (r att : Nat) (m : Move) (d : SpanData) (read : Nat → Try Int) : Try Formed := do
  let vs ← m.changes.mapM (fun c => do
    let f ← read c.1
    return (c.1, f))
  let vf (i : Nat) : Int := ((vs.find? (fun q => q.1 = i)).map Prod.snd).getD 0
  let x := e.x d r
  return ⟨m, att, e.formD ef x (fun i => fieldInt (vf i)) m, e.deltaE ef x vf m⟩

/-- Form the move of a variable and its energy change from the fields: the working ones of the variables `held`. The block's own
fields have been tested and read before the blocks of partner slots are tested (entry 99). -/
def Env.form (e : Env) (ef : Int) (b : BlockRow) (held : List Nat) (v : Nat) (w : Work) : Try (Work × Option Formed) := do
  let r := b.replica
  let att := e.attempt r v w.d
  match e.propose (e.x w.d r) r v att with
  | none => return (w, none)
  | some m =>
    let w ← e.testPartners ef b m w
    let f ← e.formed ef r att m w.d (e.workV ef b held w)
    return (w, some f)

/-- Add to a replica's partial energy. -/
def SpanData.addPartial (d : SpanData) (r : Nat) (x : Int) : SpanData :=
  { d with partials := Store.put 0 r (Store.get 0 r d.partials + x) d.partials }

/-- Set the value of a variable in this span. The change of one whose slots another span holds is kept until that span's deck
takes it (`State.commitFar`). -/
def Env.setValue (e : Env) (r : Nat) (c : Nat × Bool) (d : SpanData) : SpanData :=
  match e.slotOf c.1 r with
  | some s => d.setBit s c.2
  | none => { d with far := (d.far.filter (fun q => q.1 ≠ c.1 * 256 + r)) ++ [(c.1 * 256 + r, c.2)] }

/-- Change a variable and make its updates in this span (R93, R38). -/
def Env.change (e : Env) (ef : Int) (r : Nat) (c : Nat × Bool) (d : SpanData) : Try SpanData :=
  e.applyChange ef r c.1 c.2 (e.setValue r c d)

/-- Commit a move (R93, R95, R144): deck, fields, partial, log, records. Every committed change counts in the Σ|Δv| of the audit,
a variable changed several times once for each (R147; entry 123). -/
def Env.commit (e : Env) (ef : Int) (epoch r : Nat) (m : Move) (att : Nat) (de : Int) (undo : Bool) (w : Work) : Try Work := do
  let ch := m.changes.map (fun c => VarChange.mk c.1 (!c.2) c.2)
  let d ← m.changes.foldlM (fun d c => e.change ef r c d) w.d
  let d := d.addPartial r de
  let d := { d with
    log := d.log ++ [⟨epoch, r, ch, undo, att, [], false, false, false⟩], nAccepts := if undo then d.nAccepts else d.nAccepts + 1,
    changed := Store.put 0 r (Store.get 0 r d.changed
      + (m.changes.map (fun c => (e.p.dv c.2).natAbs)).sum) d.changed }
  return { w with d := d, recs := w.recs ++ m.changes.map (fun c => ⟨c.1, r, !c.2, c.2⟩) }

/-- Correct the working fields of the later lanes after a commit (R62): the work, and whether an entry is the split
marker for one of them. -/
def Env.correct (e : Env) (ef : Int) (b : BlockRow) (t : Tile) (later : List Nat) (m : Move) (w : Work) :
    Try (Work × Bool) := do
  let ins := m.changes.filter (fun c => b.vars.contains (some c.1))
  let split := later.any (fun i => ins.any (fun c => (t.entry e.p ef i c.1).isNone))
  let wf ← later.foldlM (fun wf i => do
    let add := ins.foldl (fun acc c => acc + (t.entry e.p ef i c.1).getD 0 * e.p.dv c.2) (0 : Int)
    let v := Store.get 0 i wf + 65536 * add
    if add ≠ 0 && fieldOverflows v then Except.error (none : Option Nat) else Except.ok (Store.put 0 i v wf)) w.wf
  return ({ w with wf := wf }, split)

/-- Decide lanes one at a time (R124): the work, and the lanes left for a continuation (R62, R94). -/
def Env.exactLanes (e : Env) (ef : Int) (epoch : Nat) (b : BlockRow) (t : Tile) (open_ : Bool) :
    List Nat → Work → Try (Work × List Nat)
  | [], w => .ok (w, [])
  | k :: rest, w =>
    match b.var k with
    | none => e.exactLanes ef epoch b t open_ rest w
    | some v => do
      let (w, f) ← e.form ef b ((k :: rest).filterMap b.var) v w
      match f with
      | none => e.exactLanes ef epoch b t open_ rest w
      | some f =>
        let w := { w with d := e.setAttempt b.replica v 0 { w.d with nAttempts := w.d.nAttempts + 1 } }
        if e.accept ef f.dd b.replica f.att f.m then
          let w ← e.commit ef epoch b.replica f.m f.att f.de false w
          let (w, split) ← e.correct ef b t (rest.filterMap b.var) f.m w
          if (split || open_) && !rest.isEmpty then return (w, rest)
          else e.exactLanes ef epoch b t open_ rest w
        else e.exactLanes ef epoch b t open_ rest w

/-- Decide a block under the greedy rule (R113). -/
def Env.greedyLanes (e : Env) (ef : Int) (epoch : Nat) (b : BlockRow) (lanes : List Nat) (w : Work) : Try Work := do
  let (w, forms) ← (lanes.filterMap b.var).foldlM (fun (acc : Work × List Formed) v => do
    let (w, f) ← e.form ef b (b.vars.filterMap id) v acc.1
    return (w, acc.2 ++ f.toList)) (w, [])
  let d := forms.foldl (fun d f => e.setAttempt b.replica f.m.var 0 { d with nAttempts := d.nAttempts + 1 }) w.d
  let w := { w with d := d }
  let best := forms.foldl (fun (m : Option Formed) f => match m with
    | some g => if f.dd < g.dd then some f else some g
    | none => some f) none
  match best with
  | some f =>
    if e.accept ef f.dd b.replica f.att f.m then e.commit ef epoch b.replica f.m f.att f.de false w else return w
  | none => return w

/-! ### Relaxed mode (R129-R132) -/

/-- Two moves change a common variable. -/
def Move.shares (a b : Move) : Bool := a.changes.any (fun c => b.changes.any (fun q => q.1 = c.1))

/-- Two moves that share no variable are coupled (R131): a tile entry that is not 0, or the split marker, joins a variable of
each. -/
def Env.coupled (e : Env) (ef : Int) (b : BlockRow) (t : Tile) (m q : Move) : Bool :=
  !m.shares q && m.changes.any (fun c => q.changes.any (fun k =>
    b.vars.contains (some c.1) && b.vars.contains (some k.1) && decide (t.entry e.p ef c.1 k.1 ≠ some 0)))

/-- An accepted move in relaxed mode, and the positions of the earlier moves for which the fields it was decided on were
corrected; none when it was decided on the block-start fields (R144). -/
structure Relaxed where
  f : Formed
  deps : List Nat
deriving DecidableEq, Repr

/-- The positions of earlier moves that change a variable of one of two moves. -/
def sharedWith (out : List Relaxed) (a b : Move) : List Nat :=
  (out.zipIdx.filter (fun q => a.shares q.1.f.m || b.shares q.1.f.m)).map Prod.snd

/-- R130, R144: a move is formed again from the present values, with its attempt number, and its energy change from the
block-start fields (`start`) corrected for the earlier moves that share a variable with its old or its new form. When a field that
it is decided on is that of a variable outside the block, the block's fields are tested as a continuation tests them (entry 100).
The work, the blocks refreshed, and the move with those earlier moves. -/
def Env.reform (e : Env) (ef : Int) (b : BlockRow) (start : SpanData) (out : List Relaxed) (f : Formed) (w : Work) :
    Try (Work × List BlockRow × Option Relaxed) := do
  let r := b.replica
  match e.propose (e.x w.d r) r f.m.var f.att with
  | none => return (w, [], none)
  | some g =>
    let deps := sharedWith out f.m g
    let ms := deps.filterMap (fun k => (out[k]?).map (fun o => o.f.m))
    let outside := g.changes.any (fun c => !b.vars.contains (some c.1))
    let partners := (g.changes.filterMap (fun c =>
      if b.vars.contains (some c.1) then none else e.blockOf c.1 r)).dedup
    let reads := (if outside then [b] else []) ++ partners
    let due := reads.filter (fun o => e.refreshDue o w.d)
    let d ← reads.foldlM (fun d o => e.testRead ef o d) w.d
    let c ← ms.foldlM (fun c m => m.changes.foldlM (fun c q => e.change ef r q c) c) start
    let c ← due.foldlM (fun c o => e.refreshBlock ef o c) c
    let g ← e.formed ef r f.att g c (fun v => e.readV ef r v c)
    return ({ w with d := d }, due, some ⟨g, deps⟩)

/-- R130, R131: an accepted move takes effect for the later ones. Under KEEP it commits; under REVERT_LATER only its values are
taken, for it may still be withheld, and what is withheld makes no write that could overflow (R168). -/
def Env.take (e : Env) (ef : Int) (epoch : Nat) (b : BlockRow) (f : Formed) (w : Work) : Try Work :=
  if e.sc.revert then .ok { w with d := f.m.changes.foldl (fun d c => e.setValue b.replica c d) w.d }
  else e.commit ef epoch b.replica f.m f.att f.de false w

/-- R130: take the accepted moves in decision order, forming again one that shares a variable with an earlier one and deciding
it again. The work, the moves taken, and the blocks refreshed. -/
def Env.serialise (e : Env) (ef : Int) (epoch : Nat) (b : BlockRow) (start : SpanData) (acc : List Formed) (w : Work) :
    Try (Work × List Relaxed × List BlockRow) :=
  acc.foldlM (fun (st : Work × List Relaxed × List BlockRow) f => do
    let (w, out, fresh) := st
    if (sharedWith out f.m f.m).isEmpty then
      let w ← e.take ef epoch b f w
      return (w, out ++ [⟨f, []⟩], fresh)
    else
      let (w, due, g) ← e.reform ef b start out f w
      match g with
      | none => return (w, out, fresh ++ due)
      | some g =>
        if e.accept ef g.f.dd b.replica g.f.att g.f.m then
          let w ← e.take ef epoch b g.f w
          return (w, out ++ [g], fresh ++ due)
        else return (w, out, fresh ++ due)) (w, [], [])

/-- The conflicts counted under KEEP, and the interaction terms of the coupled pairs of which the later move was decided on
fields without the earlier one (R131). -/
def Env.interactions (e : Env) (ef : Int) (b : BlockRow) (t : Tile) (out : List Relaxed) : Nat × Dy :=
  out.zipIdx.foldl (fun acc q =>
    (out.take q.2).zipIdx.foldl (fun acc o =>
      if e.coupled ef b t q.1.f.m o.1.f.m then
        let term := if q.1.deps.contains o.2 then Dy.zero
          else Dy.sum (q.1.f.m.changes.flatMap (fun c => o.1.f.m.changes.map (fun k =>
            (e.p.pair c.1 k.1).smul (e.p.dv c.2 * e.p.dv k.2))))
        (acc.1 + 1, acc.2.add term)
      else acc) acc) (0, Dy.zero)

/-- The least variable of a move. -/
def Move.least (m : Move) : Nat := (m.changes.head?.map Prod.fst).getD 0

/-- The positions withheld under REVERT_LATER (R131): in increasing order of least variable, a move coupled to a kept one; and
a move that was formed again from the values of a withheld one, without which it would break its group (R49; entry 100). -/
def Env.withheld (e : Env) (ef : Int) (b : BlockRow) (t : Tile) (out : List Relaxed) : List Nat :=
  let order := (sortNats (out.zipIdx.map (fun q => q.1.f.m.least * 64 + q.2))).map (fun k => k % 64)
  let r := order.foldl (fun (acc : List Relaxed × List Nat) k => match out[k]? with
    | some m => if acc.1.any (fun o => e.coupled ef b t m.f.m o.f.m) then (acc.1, acc.2 ++ [k])
        else (acc.1 ++ [m], acc.2)
    | none => acc) ([], [])
  out.zipIdx.foldl (fun held q => if q.1.deps.any held.contains && !held.contains q.2 then held ++ [q.2] else held) r.2

/-- Every lane of a block forms its move and decides it against the block-start fields (R129): the work, the moves formed, and
those accepted. -/
def Env.relaxedForms (e : Env) (ef : Int) (b : BlockRow) (lanes : List Nat) (w : Work) :
    Try (Work × List Formed × List Formed) :=
  (lanes.filterMap b.var).foldlM (fun (st : Work × List Formed × List Formed) v => do
    let (w, f) ← e.form ef b (b.vars.filterMap id) v st.1
    match f with
    | none => return (w, st.2)
    | some f =>
      let w := { w with d := { w.d with nAttempts := w.d.nAttempts + 1 } }
      return (w, st.2.1 ++ [f], if e.accept ef f.dd b.replica f.att f.m then st.2.2 ++ [f] else st.2.2)) (w, [], [])

/-- Store the attempt numbers that a block leaves (R132): 0 for every proposal, and one more for those withheld. -/
def Env.storeAttempts (e : Env) (r : Nat) (forms withheld : List Formed) (d : SpanData) : SpanData :=
  withheld.foldl (fun d f => e.setAttempt r f.m.var (f.att + 1) d) (forms.foldl (fun d f => e.setAttempt r f.m.var 0 d) d)

/-- Decide a block in relaxed mode (R129-R132). -/
def Env.relaxedLanes (e : Env) (ef : Int) (epoch : Nat) (b : BlockRow) (t : Tile) (lanes : List Nat) (w : Work) :
    Try Work := do
  let (w, forms, acc) ← e.relaxedForms ef b lanes w
  let (done, out, fresh) ← e.serialise ef epoch b w.d acc w
  if !e.sc.revert then
    let i := e.interactions ef b t out
    let d := { done.d with nConflicts := done.d.nConflicts + i.1 }
    return { done with d := d.addPartial b.replica (i.2.floorAt (ef - 16)) }
  else
    let held := e.withheld ef b t out
    let d ← fresh.foldlM (fun d o => e.refreshBlock ef o d) w.d
    let w := { w with d := { d with nRefreshes := done.d.nRefreshes, nOver := done.d.nOver } }
    let w ← out.zipIdx.foldlM (fun w q =>
      if held.contains q.2 then
        Except.ok { w with d := { w.d with nConflicts := w.d.nConflicts + 1, nReverted := w.d.nReverted + 1 } }
      else e.commit ef epoch b.replica q.1.f.m q.1.f.att q.1.f.de false w) w
    return { w with d := e.storeAttempts b.replica forms (held.filterMap (fun k => (out[k]?).map (fun o => o.f))) w.d }

/-- Decide the lanes of a block: the work, and the lanes left for a continuation. -/
def Env.decideBlock (e : Env) (ef : Int) (epoch : Nat) (b : BlockRow) (lanes : List Nat) (d : SpanData) :
    Try (Work × List Nat) := do
  let t := e.p.tileOf b.vars
  let w ← e.loadBlock ef b true d
  if e.sc.rule = .greedy then
    let w ← e.greedyLanes ef epoch b lanes w
    return (w, [])
  else if e.sc.relaxed then
    let w ← e.relaxedLanes ef epoch b t lanes w
    return (w, [])
  else e.exactLanes ef epoch b t (e.openGroup b) lanes w

/-! ### The rescale replay (R168-R174) -/

/-- Shift everything of the span at a raise of e_f (R170). -/
def Env.raiseEf (e : Env) (d : SpanData) : SpanData :=
  { d with fields := Store.mapVals 0 halveVal d.fields, partials := Store.mapVals 0 halveVal d.partials,
           counts := e.mine.foldl (fun c b => countOne b.num c) d.counts }

/-- Shift z of a section at a raise of its e_z (R173). -/
def raiseEz (sec : Nat) (d : SpanData) : SpanData :=
  { d with ez := Store.put 0 sec (Store.get 0 sec d.ez + 1) d.ez, ezRaises := d.ezRaises + 1,
           z := d.z.map (fun q => if q.1 / 256 = sec then (q.1, q.2.map halveVal) else q) }

/-- The raises above the values in use at load that the span knows of (R172, R174; entry 124). -/
def Env.raised (e : Env) (ef : Int) (d : SpanData) : Nat :=
  (ef - e.p.ef).toNat + (e.p.lowranks.zipIdx.map (fun q => (Store.get 0 q.2 d.ez - q.1.ez).toNat)).sum

/-- Make a unit of work from its start (R169, R170, R172): e_f and the data after it, or the data at its start when a
ninth raise would be needed. -/
def Env.unit {α : Type} (e : Env) (f : Int → SpanData → Try α) : Nat → Int → SpanData → Int × SpanData × Option α
  | 0, ef, d => (ef, d, none)
  | fuel + 1, ef, d =>
    match f ef d with
    | .ok a => (ef, d, some a)
    | .error which =>
      if e.raised ef d ≥ 8 then (ef, d, none)
      else match which with
        | none => e.unit f fuel (ef + 1) (e.raiseEf d)
        | some sec => e.unit f fuel ef (raiseEz sec d)

/-- The environment of a span that uses zero in place of lost data. -/
def Env.losing (e : Env) (lost : List (Tier × Nat)) : Env :=
  if lost.isEmpty then e
  else
    let frozen (v r : Nat) : Bool := !e.active v r && e.p.inLost lost 11 r v
    { e with p := e.p.without lost, other := fun v r => !frozen v r && e.other v r }

/-- The data of a span that uses zero in place of lost entries of z and Y^t. -/
def SpanData.losing (d : SpanData) (p : Problem) (lost : List (Tier × Nat)) : SpanData :=
  if lost.isEmpty then d
  else
    { d with z := d.z.map (fun q => (q.1, q.2.zipIdx.map (fun v => if p.inLost lost 2 q.1 v.2 then 0 else v.1)))
             y := d.y.map (fun q => (q.1, { q.2 with
               m := q.2.m.zipIdx.map (fun v => if p.inLost lost 6 (q.1 / 256) (16 * (q.1 % 256) + v.2) then 0 else v.1) })) }

/-- The most attempts that a unit takes: eight raises, and the last. -/
def unitTries : Nat := 10

end Sys2Proof.Machine
end

