-- ==== Sys2Proof/Machine/Boundary.lean ====
section
/-! DEFINITION. What a span does with records at an epoch boundary or a flush: applications, corrections and undos
(R135-R141), the field refresh (R148) and exact recomputes (R149, R152, R209, R435).
-/

namespace Sys2Proof.Machine

/-- A record due at a boundary: the epoch it belongs to, the record, and, for a batch of another part in a free-running
run, the part and its seen count (R230). -/
structure DueRec where
  epoch : Nat
  fr : FlipRec
  seen : Option (Nat × Nat)
deriving DecidableEq, Repr

/-- The value of a variable at the end of epoch `ep` - 1, from the present value and the log (R140). -/
def Env.rolledBack (e : Env) (ep r v : Nat) (d : SpanData) : Bool :=
  match d.log.find? (fun m => !m.past && m.replica = r && decide (ep ≤ m.epoch) && m.changes.any (fun c => c.var = v)) with
  | some m => ((m.changes.find? (fun c => c.var = v)).map (fun c => c.old)).getD false
  | none => e.x d r v

/-- The value of a variable as a part had seen it (R230): rolled back over the exported changes from number `seen` on, and over
those that wait for their number, which no part has seen. -/
def Env.rolledBackSeen (e : Env) (part seen r v : Nat) (d : SpanData) : Bool :=
  let out := (e.p.sys.map (fun y => y.exports.contains (v, part))).getD false
  let hit (m : LogMove) : Bool := m.replica = r && m.changes.any (fun c => c.var = v)
    && (match m.sent.find? (fun t => t.1 = v && t.2.1 = part) with
      | some t => decide (seen ≤ t.2.2)
      | none => out)
  match d.log.find? hit with
  | some m => ((m.changes.find? (fun c => c.var = v)).map (fun c => c.old)).getD false
  | none => e.x d r v

/-- Variable j stands before i in system order (R139, R222). -/
def Env.before (e : Env) (j i : Nat) : Bool :=
  match e.p.sys.bind (fun y => (y.ghosts.find? (fun g => g.local_ = j)).map (fun g => decide (g.owner < y.part))) with
  | some b => b
  | none => decide (j < i)

/-- The variables of replica r that the span holds. -/
def Env.held (e : Env) (r : Nat) : List Nat :=
  (e.mine.filter (fun b => b.replica = r)).flatMap (fun b => b.vars.filterMap id)

/-- A variable whose change a record conflicts with (R139). -/
structure Conflict where
  var : Nat
  replica : Nat
deriving DecidableEq, Repr

/-- The corrections of one record (R139): each is exact, counted and floored once. `seg` is the first epoch of the
sweep, or of the colour. -/
def Env.correctFor (e : Env) (ef : Int) (seg : Nat) (q : DueRec) (st : SpanData × List Conflict) :
    SpanData × List Conflict :=
  let r := q.fr.replica
  ((e.held r).filter (fun i => e.before q.fr.var i)).foldl (fun st i =>
    let j := e.p.pair i q.fr.var
    if j.m = 0 then st
    else
      let old := match q.seen with
        | some t => e.rolledBackSeen t.1 t.2 r i st.1
        | none => e.rolledBack (max seg (q.epoch - e.sc.lag)) r i st.1
      let cur := e.x st.1 r i
      let c := j.smul (e.p.dv q.fr.new * (e.p.v cur - e.p.v old))
      if c.m = 0 then st
      else ({ (st.1.addPartial r (c.floorAt (ef - 16))) with nConflicts := st.1.nConflicts + 1 },
        st.2 ++ [⟨i, r⟩])) st

/-- Apply a record of a change elsewhere (R136, R139). -/
def Env.applyRec (e : Env) (ef : Int) (seg : Nat) (q : DueRec) (st : SpanData × List Conflict) :
    Try (SpanData × List Conflict) := do
  let d ← e.applyChange ef q.fr.replica q.fr.var q.fr.new st.1
  return e.correctFor ef seg q (d, st.2)

/-- The move that last changed a variable. -/
def lastMove (d : SpanData) (r v : Nat) : Option LogMove :=
  (d.log.reverse).find? (fun m => !m.past && m.replica = r && m.changes.any (fun c => c.var = v))

/-- The moves to be undone (R141), each once, in increasing order of least variable. -/
def Env.undos (e : Env) (d : SpanData) (l : List Conflict) : List LogMove :=
  let ms := (l.filterMap (fun c => match lastMove d c.replica c.var with
    | some m => if !m.undo && m.changes.all (fun q => e.x d m.replica q.var = q.new) then some m else none
    | none => none)).dedup
  let key (m : LogMove) : Nat := (m.changes.head?.map (fun c => c.var)).getD 0
  ((sortNats (ms.zipIdx.map (fun q => key q.1 * 65536 + q.2))).map (fun k => k % 65536)).filterMap (fun k => ms[k]?)

/-- Undo one move (R141): a committed change of epoch `ep` formed from the then-current fields, counted in reverted. Every
variable of the move takes one more than the attempt number of the move's proposal (entry 101). -/
def Env.undoMove (e : Env) (ef : Int) (ep : Nat) (m : LogMove) (w : Work) : Try Work := do
  let r := m.replica
  if !m.changes.all (fun q => e.x w.d r q.var = q.new) then return w
  else
    let mv : Move := ⟨0, 0, m.changes.map (fun c => (c.var, c.old))⟩
    let blocks := (m.changes.filterMap (fun c => e.blockOf c.var r)).dedup
    let d ← blocks.foldlM (fun d o => e.testRead ef o d) w.d
    let vs ← mv.changes.mapM (fun c => do
      let f ← e.readV ef r c.1 d
      return (c.1, f))
    let de := e.deltaE ef (e.x d r) (fun i => ((vs.find? (fun q => q.1 = i)).map Prod.snd).getD 0) mv
    let w ← e.commit ef ep r mv (m.att + 1) de true { w with d := d }
    let d := mv.changes.foldl (fun d c => e.setAttempt r c.1 (m.att + 1) d) w.d
    return { w with d := { d with nReverted := d.nReverted + 1 } }

/-- Apply the increments that FIELD_INC brought (R248, R160): each in arrival order, as one truncating contribution to the block
that holds the field. -/
def Env.applyIncs (e : Env) (ef : Int) (l : List (Nat × Dy)) (d : SpanData) : Try SpanData :=
  l.foldlM (fun d q =>
    let v := Store.get 0 q.1 d.fields + q.2.floorAt (ef - 16)
    if !(e.mine.any (fun b => b.num = q.1 / 64)) then Except.ok d
    else if fieldOverflows v then Except.error (none : Option Nat)
    else Except.ok { d with fields := Store.put 0 q.1 v d.fields, counts := countOne (q.1 / 64) d.counts }) d

/-- The work of a boundary (R135-R141), one unit of work (R169): the increments received, then the records due, in order, then
the undos as moves of epoch `ep`, with the values that other spans hold before (`e`) and after (`after`). The increments come
first (entry 102). The data and the undo records. -/
def Env.boundary (e after : Env) (ef : Int) (seg ep : Nat) (incs : List (Nat × Dy)) (due : List DueRec) (undo : Bool)
    (d : SpanData) : Try (SpanData × List FlipRec) := do
  let d ← e.applyIncs ef incs d
  let (d, conf) ← due.foldlM (fun st q => e.applyRec ef seg q st) (d, [])
  if undo && e.sc.revert then
    let w ← (after.undos d conf).foldlM (fun w m => after.undoMove ef ep m w) (⟨d, [], []⟩ : Work)
    return (w.d, w.recs)
  else return (d, [])

/-! ### Refreshes and recomputes -/

/-- The bound that a stored field of a block keeps towards the exact one is broken (R148, R162). -/
def Env.refreshWrong (e : Env) (ef : Int) (b : BlockRow) (d : SpanData) : Bool :=
  let n := Store.get 0 b.num d.counts
  decide (n < 65536) && b.vars.zipIdx.any (fun q => match q.1 with
    | some v =>
      let stored : Dy := ⟨Store.get 0 (b.num * 64 + q.2) d.fields, ef - 16⟩
      let diff := (e.p.storeField (e.x d b.replica) v).sub stored
      decide (diff.m < 0) || !(diff.lt ⟨(n : Int) + 1, ef - 16⟩)
    | none => false)

/-- A field refresh of every block of the span (R148): the data, and the blocks that disagreed. -/
def Env.refreshAll (e : Env) (ef : Int) (d : SpanData) : Try (SpanData × Nat) :=
  e.mine.foldlM (fun (st : SpanData × Nat) b => do
    let bad := e.refreshWrong ef b st.1
    let d ← e.refreshBlock ef b st.1
    return ({ d with nRefreshBad := if bad then d.nRefreshBad + 1 else d.nRefreshBad }, if bad then st.2 + 1 else st.2))
    (d, 0)

/-- Recompute exactly every field of blocks that a test picks. -/
def Env.recomputeBlocks (e : Env) (ef : Int) (pick : BlockRow → Bool) (d : SpanData) : Try SpanData :=
  (e.mine.filter pick).foldlM (fun d b => e.recomputeBlock ef b d) d

/-- A low-rank section or a Kronecker section, by its place among those of its kind. -/
inductive Factored where
  | low (sec : Nat)
  | kron (sec : Nat)
deriving DecidableEq, Repr

/-- Compute z and Y^t of every replica exactly, of the sections that a test picks (R149, R152, R435). -/
def Env.recomputeFactors (e : Env) (pick : Factored → Bool) (d : SpanData) : Try SpanData := do
  let rs := List.range e.p.nrep
  let d ← e.p.lowranks.zipIdx.foldlM (fun d q =>
    if pick (.low q.2) then rs.foldlM (fun d r => e.recomputeZ q.2 r q.1 d) d else .ok d) d
  return e.p.krons.zipIdx.foldl (fun d q =>
    if pick (.kron q.2) then
      rs.foldl (fun d r => (List.range q.1.n).foldl (fun d i => e.recomputeY q.2 r i q.1 d) d) d
    else d) d

/-- The exact recompute of run start (R149 step 2). -/
def Env.recomputeAll (e : Env) (ef : Int) (d : SpanData) : Try SpanData := do
  let d ← e.recomputeFactors (fun _ => true) d
  e.recomputeBlocks ef (fun _ => true) d

end Sys2Proof.Machine
end

