-- ==== Sys2Proof/Machine/SysOut.lean ====
section
/-! DEFINITION. What a part of a system run sends: messages to other modules (R246, R253-R255), records of exported changes
and their batches (R225, R228), and the markers of epochs and sweeps (R229, R232).
-/

namespace Sys2Proof.Machine

/-! ### Messages to another module -/

/-- A flit that cannot leave on its exit is dropped, counted and reported (R253, R255). -/
def State.dropFlit (s : State) (l : Nat) : State :=
  (s.modLink l (fun x => { x with drops := satInc x.drops })).raise (lnkBlock l) 4 l

/-- The flit may leave on link `l`: the link is up or training, and an encrypted one takes at most 224 bytes. -/
def Link.takes (x : Link) (bytes : Nat) : Bool :=
  decide (x.state ≠ lnkDisabled) && decide (x.state ≠ lnkDown) && !(x.txEnc && decide (bytes > 224))

/-- Send a flit on the exit that the route table names, or drop it there (R253, R527). -/
def State.routeFlit (s : State) (f : TxFlit) : State :=
  let l := s.exitFor f.hdr.dst.toNat
  if (s.link l).takes f.payload.length then s.queueFlit l f else s.dropFlit l

/-- Send a message to a module. -/
def State.sendTo (s : State) (dst kind aux run : Nat) (payload : List Byte) : State :=
  s.routeFlit (mkFlit s.linkSys.moduleId dst kind aux (kindVc kind) 255 run payload)

/-- Bytes of data in a DMA_WR or COMPLETION (R248, R255). -/
def State.dataMax (s : State) : Nat := if s.linkSys.encAny then 208 else 224

/-- Records in a FLIP_BATCH (R255). -/
def State.batchMax (s : State) : Nat := if s.linkSys.encAny then 26 else 28

end Sys2Proof.Machine

namespace Sys2Proof

/-- Module of a part. -/
def SysDesc.moduleOf (y : SysDesc) (part : Nat) : Nat := (y.parts.getD part (0, 0)).1
/-- Settle parent of a part. -/
def SysDesc.parentOf (y : SysDesc) (part : Nat) : Nat := (y.parts.getD part (0, 0)).2
/-- Children of this part in the settle tree, in increasing part number. -/
def SysDesc.children (y : SysDesc) : List Nat :=
  (List.range y.parts.length).filter (fun k => decide (k ≠ 0) && y.parentOf k = y.part)
/-- The parts that hold variables of this part as ghosts. -/
def SysDesc.destParts (y : SysDesc) : List Nat := sortNats ((y.exports.map Prod.snd).dedup)
/-- The parts whose variables this part holds as ghosts. -/
def SysDesc.importParts (y : SysDesc) : List Nat := sortNats ((y.ghosts.map (fun g => g.owner)).dedup)
/-- Settle-tree neighbours of this part. -/
def SysDesc.neighbours (y : SysDesc) : List Nat := (if y.part = 0 then [] else [y.parentOf y.part]) ++ y.children

end Sys2Proof

namespace Sys2Proof.Machine

/-- The system values of a settle-done marker, from byte 0x20 on (entry 26). -/
def settleBytes (f : SettleFields) : List Byte :=
  leBytes 2 f.best.toNat ++ leBytes 2 f.comp.toNat ++ leBytes 1 f.rescales.toNat ++ leBytes 1 f.flags.toNat
    ++ leBytes 2 f.status.toNat ++ leBytes 8 f.energy.toNat ++ leBytes 4 f.rxAttempts.toNat ++ leBytes 4 f.rxAccepts.toNat

/-- The bytes of a marker of a kind (Table 9.10). -/
def markerBytes (aux : Nat) (m : Marker) : List Byte :=
  leBytes 8 m.number.toNat ++ leBytes 4 m.batches.toNat ++ leBytes 2 m.ef.toNat ++ leBytes 1 m.cause.toNat ++ leBytes 1 0
    ++ leBytes 4 m.seen.toNat ++ leBytes 4 m.k.toNat ++ leBytes 2 m.replicas.toNat ++ leBytes 2 m.mismatch.toNat
    ++ leBytes 4 m.schedCrc.toNat ++ (if aux = 6 then settleBytes m.settle else [])

/-- No system values, and no new best. -/
def settle0 : SettleFields := ⟨0xFFFF, 0, 0, 0, 0, 0, 0, 0⟩

/-- A marker with nothing in it. -/
def marker0 : Marker := ⟨0, 0, 0, 0, 0, 0, 0, 0xFFFF, 0, settle0⟩

/-- e_f in a message. -/
def efBits (ef : Int) : BitVec 16 := BitVec.ofNat 16 (unsignedOf 16 ef)

/-- Send a marker of a kind (aux of Table 9.9) to a part. -/
def State.sendMarker (s : State) (y : SysDesc) (part aux : Nat) (m : Marker) : State :=
  s.sendTo (y.moduleOf part) 9 aux y.sysRun (markerBytes aux m)

/-! ### Batches (R228) -/

/-- Change the system side of a run. -/
def State.modSys (s : State) (q : Nat) (f : SysRun → SysRun) : State :=
  s.modRun q (fun r => { r with sys := r.sys.map f })

/-- The greatest e_f of the run's spans. -/
def State.partEf (s : State) (r : Run) : Int := r.spans.foldl (fun m n => max m (s.eng n).ef) r.ef

/-- The records of a part that span `n` has applied (R230): those before the first batch that waits there or is on its way
there; `applied` tells the batches that are kept though they are applied. -/
def State.seenBy (s : State) (x : SysRun) (n part : Nat) (applied : RxBatch → Bool) : Nat :=
  let waiting := (s.eng n).batches.filter (fun b => b.part = part && !applied b)
  let flying := s.mesh.vc1.filterMap (fun m => match m.body with
    | .batch _ _ q _ _ first _ _ => if q = part && m.dests.contains n then some first else none
    | _ => none)
  (waiting.map (fun b => b.first) ++ flying).foldl min (Store.get 0 part x.recvRecs)

/-- The records of a part that every span of this part has applied (R231). -/
def State.appliedFrom (s : State) (r : Run) (x : SysRun) (part : Nat) : Nat :=
  (r.spans.map (fun n => s.seenBy x n part (fun _ => false))).foldl min (Store.get 0 part x.recvRecs)

/-- e_f at the end of an epoch, of what its spans have ended (R233). -/
def SysRun.efAt (x : SysRun) (run : Nat) (undo : Bool) (ef : Int) : Int :=
  match (x.endEf.filter (fun q => q.1 = run && q.2.1 = undo)).map (fun q => q.2.2) with
  | [] => ef
  | a :: l => l.foldl max a

/-- Note the e_f with which a span has ended an epoch. -/
def State.noteEndEf (s : State) (q run : Nat) (undo : Bool) (ef : Int) : State :=
  s.modSys q (fun x => { x with endEf := x.endEf ++ [(run, undo, ef)] })

/-- The batches due with the epochs below `to_` of the sweep; in a free-running run, all that are here. -/
def Run.batchPick (r : Run) (to_ : Nat) (b : RxBatch) : Bool :=
  !b.undo && (r.freeRun || decide (b.epoch < r.sweep * r.k + to_))

/-- A record as a batch carries it. -/
def flipBytes (initial undo : Bool) (x : FlipRec) : List Byte :=
  leBytes 8 (x.var % 2 ^ 24 + x.replica % 256 * 2 ^ 24 + boolNat x.new * 2 ^ 32 + boolNat initial * 2 ^ 33
    + boolNat undo * 2 ^ 34)

/-- Send a batch of records of one epoch to a part. -/
def State.sendBatch (s : State) (y : SysDesc) (part epoch : Nat) (initial undo : Bool) (seq seen : Nat) (ef : Int)
    (recs : List FlipRec) : State :=
  s.sendTo (y.moduleOf part) 1 0 y.sysRun
    (leBytes 8 epoch ++ leBytes 2 (efBits ef).toNat ++ leBytes 2 seq ++ leBytes 4 seen ++ recs.flatMap (flipBytes initial undo))

/-- Number the records of exported changes in the log of the span that made them. -/
def noteSent (epoch : Nat) (x : FlipRec) (part number : Nat) : List LogMove → List LogMove
  | [] => []
  | m :: rest =>
    if !m.past && m.epoch = epoch && m.replica = x.replica && m.changes.any (fun c => c.var = x.var && c.new = x.new)
        && !m.sent.any (fun t => t.1 = x.var && t.2.1 = part) then
      { m with sent := m.sent ++ [(x.var, part, number)] } :: rest
    else m :: noteSent epoch x part number rest

/-- The records that span `n` made in an epoch wait for the parts that hold their variables as ghosts (R228), with e_f at its end
(R233) and the records that the span's decisions had seen (R230). -/
def State.exportRecs (s : State) (p : Problem) (r : Run) (n epoch : Nat) (undo : Bool) (recs : List FlipRec) : State :=
  match p.sys, r.sys with
  | some y, some x =>
    let run := r.sweep * r.k + epoch
    let seen (d : Nat) : Nat := s.seenBy x n d (fun b => undo && r.batchPick (epoch + 1) b)
    let new := y.destParts.filterMap (fun d =>
      let l := recs.filter (fun f => y.exports.contains (f.var, d))
      if l.isEmpty then none else some ⟨d, run, undo, n, seen d, l⟩)
    (s.modSys r.problem (fun z => { z with out := z.out ++ new })).noteEndEf r.problem run undo (s.eng n).ef
  | _, _ => s

/-- Send records of one epoch that share a seen count to a part, in batches, each with its span: they take their numbers, which the
spans' logs note (R230). -/
def State.sendRecs (s : State) (y : SysDesc) (q part run : Nat) (undo : Bool) (seen : Nat) (ef : Int)
    (recs : List (Nat × FlipRec)) : State :=
  (chunks s.batchMax recs.length recs).foldl (fun st l =>
    match st.run q with
    | some r => match r.sys with
      | some x =>
        let k := Store.get 0 part (if undo then x.undoBatches else x.epochBatches)
        let number := Store.get 0 part x.sentRecs
        let local_ := run - r.sweep * r.k + boolNat undo
        let st := l.zipIdx.foldl (fun st f => st.modEng f.1.1 (fun g =>
          { g with data := { g.data with log := noteSent local_ f.1.2 part (number + f.2) g.data.log } })) st
        (st.sendBatch y part run false undo k seen ef (l.map Prod.snd)).modSys q (fun z =>
          let z := { z with sentRecs := Store.put 0 part (number + l.length) z.sentRecs }
          if undo then { z with undoBatches := Store.put 0 part (k + 1) z.undoBatches }
          else { z with epochBatches := Store.put 0 part (k + 1) z.epochBatches,
                        sweepBatches := Store.put 0 part (Store.get 0 part z.sweepBatches + 1) z.sweepBatches })
      | none => st
    | none => st) s

/-- Send what waits of an epoch to every part (R228): in increasing span; in a free-running run, records that have seen the same
share batches (R230). -/
def State.sendOut (s : State) (y : SysDesc) (r : Run) (x : SysRun) (run : Nat) (undo : Bool) : State :=
  let ef := x.efAt run undo (s.partEf r)
  let s := y.destParts.foldl (fun st d =>
    let mine := x.out.filter (fun o => o.part = d && o.epoch = run && o.undo = undo)
    let inOrder := (sortNats (mine.map (fun o => o.span)).dedup).flatMap (fun n => mine.filter (fun o => o.span = n))
    let least := mine.foldl (fun m o => min m o.seen) (Store.get 0 d x.recvRecs)
    let tagged (l : List PartOut) : List (Nat × FlipRec) := l.flatMap (fun o => o.recs.map (fun f => (o.span, f)))
    if y.locked then st.sendRecs y r.problem d run undo least ef (tagged inOrder)
    else (sortNats (mine.map (fun o => o.seen)).dedup).foldl (fun st k =>
      st.sendRecs y r.problem d run undo k ef (tagged (inOrder.filter (fun o => o.seen = k)))) st) s
  s.modSys r.problem (fun z => { z with out := z.out.filter (fun o => !(o.epoch = run && o.undo = undo)) })

/-- A marker of this part with its number, count, seen count, cause and e_f. -/
def partMarker (number count seen cause : Nat) (ef : Int) : Marker :=
  { marker0 with number := BitVec.ofNat 64 number, batches := BitVec.ofNat 32 count, ef := efBits ef,
                 cause := BitVec.ofNat 8 cause, seen := BitVec.ofNat 32 seen }

/-- Every span of the part has ended the epochs of the sweep below `k`, or ends no more of them (R150, R172). -/
def State.allSent (s : State) (r : Run) (k : Nat) : Bool :=
  let live := r.spans.filter (fun n => !s.spanFenced n)
  live.any (fun n => decide (k ≤ (s.eng n).sent))
    && live.all (fun n => decide (k ≤ (s.eng n).sent) || (s.eng n).stopped || decide ((s.eng n).phase = .ended))

/-- At the end of the sweep: the sweep-end markers (R232), with e_f at the end of its last epoch. -/
def State.sendSweepEnds (s : State) (y : SysDesc) (r : Run) (x : SysRun) : State :=
  let ef := x.efAt (r.sweep * r.k + r.k - 1) false (s.partEf r)
  y.destParts.foldl (fun st d =>
    st.sendMarker y d 1 (partMarker r.sweep (Store.get 0 d x.sweepBatches) (st.appliedFrom r x d) 0 ef)) s

/-- Close the epochs that every span has ended: their batches, and in an epoch-locked run their markers (R229), at most `fuel` of
them. -/
def State.closeEpochs (p : Problem) (q : Nat) : Nat → State → State
  | 0, s => s
  | fuel + 1, s =>
    match p.sys, s.run q with
    | some y, some r => match r.sys with
      | some x =>
        if decide (x.closed < r.k) && s.allSent r (x.closed + 1) then
          let run := r.sweep * r.k + x.closed
          let s := s.sendOut y r x run false
          let counts := ((s.run q).bind (fun r => r.sys)).map (fun z => z.epochBatches)
          let s := if y.locked then y.destParts.foldl (fun st d =>
              st.sendMarker y d 0 (partMarker run (Store.get 0 d (counts.getD [])) (st.appliedFrom r x d) 0
                (x.efAt run false (s.partEf r)))) s
            else s
          let s := match decide (x.closed + 1 = r.k), (s.run q).bind (fun r => r.sys) with
            | true, some z => s.sendSweepEnds y r z
            | _, _ => s
          State.closeEpochs p q fuel (s.modSys q (fun z => { z with closed := z.closed + 1, epochBatches := [] }))
        else s
      | none => s
    | _, _ => s

/-- Once every span has committed its undos of the flush that ends with epoch `last`: the undo batches and the undo-end markers
(R232). -/
def State.closeUndo (s : State) (p : Problem) (q last : Nat) : State :=
  match p.sys, s.run q with
  | some y, some r => match r.sys with
    | some x =>
      if last < x.closedUndo then s
      else
        let run := r.sweep * r.k + last
        let s := s.sendOut y r x run true
        let counts := (((s.run q).bind (fun r => r.sys)).map (fun z => z.undoBatches)).getD []
        let s := y.destParts.foldl (fun st d =>
          st.sendMarker y d 7 (partMarker run (Store.get 0 d counts) (st.appliedFrom r x d) 0 (x.efAt run true (s.partEf r)))) s
        s.modSys q (fun z => { z with closedUndo := last + 1, undoBatches := [] })
    | none => s
  | _, _ => s

end Sys2Proof.Machine
end

