-- ==== Sys2Proof/Machine/RunCore.lean ====
section
/-! DEFINITION. A run in progress over its spans: epochs (R121, R122, R133), the records and markers between spans
(R31-R33, R171, R172), block visits, boundaries, flushes and the settle (R135-R145), on the module's state.
-/

namespace Sys2Proof

/-- E of a section (Table 3.6). -/
def Sched.blocksPerEpoch (c : Sched) : Nat := max 1 c.epochBlocks

end Sys2Proof

namespace Sys2Proof.Machine

/-! ### Epochs -/

/-- The SCHED section of a run. -/
def Run.schedOf (r : Run) (p : Problem) : Sched := p.scheds.getD r.sched (p.scheds.getD 0 default)

/-- The blocks of rows that hold active slots and that R82 gave a home span, of one colour when one is given, in increasing
number (R121). -/
def homeList (rows : List BlockRow) (home : Nat) (colour : Option Nat) : List Nat :=
  sortNats ((rows.filter (fun b => b.home = home && b.vars.any Option.isSome && (match colour with
    | some c => decide (b.colour = c)
    | none => true))).map (fun b => b.homeNum))

/-- Epochs that the largest count of blocks needs. -/
def epochsFor (perEpoch : Nat) (counts : List Nat) : Nat := ceilDiv (counts.foldl max 0) perEpoch

/-- Colours of a list of blocks. -/
def coloursOf (rows : List BlockRow) : List Nat := sortNats ((rows.map (fun b => b.colour)).dedup)

/-- The epoch, for each colour, one past its last (R133), over the rows of each window and migration round (R211, R152). -/
def colourEndsOf (perEpoch : Nat) (windows : List (List BlockRow)) : List (Nat × Nat) :=
  ((sortNats ((windows.flatMap coloursOf).dedup)).foldl (fun (acc : Nat × List (Nat × Nat)) c =>
    let k := epochsFor perEpoch (windows.flatMap (fun rows => spanIds.map (fun n => (homeList rows n (some c)).length)))
    (acc.1 + k, acc.2 ++ [(c, acc.1 + k)])) (0, [])).2

/-- The first epoch of the colour segment that epoch `k` lies in, and one past its last; the sweep when not coloured. -/
def Run.segment (r : Run) (k : Nat) : Nat × Nat :=
  r.colourEnds.foldl (fun acc e => if e.2 ≤ k then (e.2, acc.2) else if e.2 < acc.2 then (acc.1, e.2) else acc) (0, r.k)

/-- The epoch in which a block is visited, from its home place (R122, R133, R436). -/
def Run.epochOf (r : Run) (p : Problem) (b : BlockRow) : Nat :=
  let c := r.schedOf p
  let rows := homeRowsAt p r.window r.round
  if c.coloured then
    (r.colourEnds.filter (fun q => q.1 < b.colour)).foldl (fun m q => max m q.2) 0
      + (homeList rows b.home (some b.colour)).idxOf b.homeNum / c.blocksPerEpoch
  else (homeList rows b.home none).idxOf b.homeNum / c.blocksPerEpoch

/-- The blocks that a span visits in an epoch: its own in increasing number, then those it hosts in increasing original
number (R121, R436). -/
def Run.epochBlocksOf (r : Run) (p : Problem) (n k : Nat) : List BlockRow :=
  let l := r.blocks.filter (fun b => b.span = n && r.epochOf p b = k && b.vars.any Option.isSome)
  let hosted := (l.filter (fun b => b.home ≠ n)).zipIdx
  sortBlocks (l.filter (fun b => b.home = n))
    ++ (sortNats (hosted.map (fun q => (q.1.homeNum * 16 + q.1.home) * 65536 + q.2))).filterMap (fun key =>
      (hosted[key % 65536]?).map Prod.fst)

/-! ### The environment of a span -/

/-- Span `n` has not applied a move of another span's log (R166): its epoch is still due, or it is an undo of a flush that `n`
has not yet finished, whether the span that made it has relabelled it or not. -/
def Engine.misses (g : Engine) (q : LogMove) : Bool :=
  let late (ep : Nat) : Bool := decide (g.applied < ep) || (g.phase = .undoing && decide (g.applied = ep))
  !q.past && (if !q.flush then decide (g.applied ≤ q.epoch) else late (if q.late then q.epoch + 1 else q.epoch))

/-- The value of a variable that span `m` holds, as applied at span `n`: `m`'s deck rolled back over the moves that `n` has not
applied (R166), which `m` made, or another span of a group that a re-map has split (R93, R436). -/
def State.remoteValue (s : State) (r : Run) (n v rep : Nat) : Bool :=
  match findSlot r.blocks v rep with
  | some (m, num, lane) =>
    let g := s.eng n
    let hit (k : Nat) : Option LogMove := (s.eng k).data.log.find? (fun q =>
      g.misses q && q.replica = rep && q.changes.any (fun c => c.var = v))
    match (m :: r.spans.filter (fun k => k ≠ m && k ≠ n)).findSome? hit with
    | some q => ((q.changes.find? (fun c => c.var = v)).map (fun c => c.old)).getD false
    | none => (s.eng m).data.bit (num * 64 + lane)
  | none =>
    match (s.problem r.problem).bind (fun p => p.sys) with
    | some y =>
      if y.ghosts.any (fun g => g.local_ = v) then Store.get false (v * 256 + rep) (s.eng n).ghosts
      else Store.get false (v * 256 + rep) r.frozen
    | none => Store.get false (v * 256 + rep) r.frozen

/-- The environment of span `n` in a run, without the fields that other spans hold. -/
def State.envBase (s : State) (p : Problem) (r : Run) (n : Nat) : Env :=
  let c := r.schedOf p
  { p := p, sc := c, n := n, rows := r.blocks, sweep := r.sweep % 2 ^ 32, lo := r.keyLo, hi := r.keyHi, sample := c.sample,
    beta := fun rep => Store.get ⟨0, 0⟩ rep r.betas, other := fun v rep => s.remoteValue r n v rep,
    otherField := fun _ _ _ => 0 }

/-- V brought from units of e_f `a` to those of `b`. -/
def inUnits (a b v : Int) : Int := if a ≤ b then halveTimes (b - a).toNat v else v * ((2 ^ (a - b).toNat : Nat) : Int)

/-- The field of a variable as the span that holds it reads it now, in units of e_f `ef` (R93; entry 103). -/
def State.fieldElsewhere (s : State) (p : Problem) (r : Run) (ef : Int) (v rep : Nat) : Int :=
  match findSlot r.blocks v rep with
  | some (m, num, lane) =>
    let g := s.eng m
    inUnits g.ef ef ((s.envBase p r m).slotV g.ef rep v (num * 64 + lane) g.data)
  | none => 0

/-- The environment of span `n` in a run. -/
def State.envOf (s : State) (p : Problem) (r : Run) (n : Nat) : Env :=
  { s.envBase p r n with otherField := s.fieldElsewhere p r }

/-- The changes that span `n` has committed to variables of other spans reach their decks (R93, R436; entry 103). -/
def State.commitFar (s : State) (r : Run) (n : Nat) : State :=
  let far := (s.eng n).data.far
  if far.isEmpty then s
  else
    let set (num lane : Nat) (x : Bool) (d : SpanData) : SpanData := d.setBit (num * 64 + lane) x
    (far.foldl (fun st q => match findSlot r.blocks (q.1 / 256) (q.1 % 256) with
      | some (m, num, lane) =>
        let st := st.modEng m (fun g => { g with data := set num lane q.2 g.data, unitStart := g.unitStart.map (set num lane q.2) })
        if m = n ^^^ 1 then st.modSpan n (fun x =>
          let w := Store.get 0#64 num x.shadow
          let b := 1#64 <<< lane
          { x with shadow := Store.put 0#64 num (if q.2 then w ||| b else w &&& ~~~b) x.shadow })
        else st
      | none => st) s).modEng n (fun g => { g with data := { g.data with far := [] } })

/-- The run bound to span `n`, with its problem. -/
def State.boundRun (s : State) (n : Nat) : Option (Problem × Run) :=
  match (s.span n).bound with
  | some q => match s.problem q, s.run q with
    | some p, some r => some (p, r)
    | _, _ => none
  | none => none

/-- The spans of a run that are not fenced. -/
def State.liveOf (s : State) (r : Run) : List Nat := r.spans.filter (fun n => !s.spanFenced n)

/-- The energy home (R144). -/
def State.homeOf (s : State) (r : Run) : Nat := (s.liveOf r).headD 0

/-- A cause that takes effect at the next block boundary (R150, R280, R300, R427). -/
def Stops.now (t : Stops) : Bool := t.deadline || t.stop || t.abort || t.hung || t.fault

/-- The deadline instant has come (R150, R283). -/
def Run.deadlineDue (r : Run) (now : Nat) : Bool :=
  r.begun && decide (r.deadlineUs ≠ 0) && decide (r.startTick + r.deadlineUs * tickUs ≤ now)

/-- Put the deadline in force once its instant has come. -/
def State.noteDeadline (s : State) (q : Nat) : State :=
  let now := s.now
  s.modRun q (fun r => if r.deadlineDue now then { r with stops := { r.stops with deadline := true } } else r)

/-- Causes of either. -/
def Stops.join (a b : Stops) : Stops :=
  ⟨a.deadline || b.deadline, a.stop || b.stop, a.abort || b.abort, a.hung || b.hung, a.fault || b.fault,
   a.spanLoss || b.spanLoss, a.limit || b.limit⟩

/-- The end cause that the run's own stop causes make (Table 9.10): the raise limit, a lost pair, a fault, a stop. -/
def Run.ownCause (r : Run) : Nat :=
  if r.stops.limit then 1 else if r.stops.spanLoss then 2 else if r.took.fault then 3 else 4

/-- The causes in force take effect at a block boundary (R88, R150). -/
def State.takeStops (s : State) (q : Nat) : State :=
  let now := s.now
  s.modRun q (fun r => { r with took := r.took.join { r.stops with deadline := r.stops.deadline || r.deadlineDue now } })

/-- A stop cause is in force in the run's spans (R150), or no span but a buddy is left to host (R438), or, in a
free-running system run, another part has ended it (R234). -/
def State.stopsNow (s : State) (r : Run) : Bool :=
  r.stops.now || r.deadlineDue s.now || (r.stops.spanLoss && r.remap.any (fun q => (hostsFor r.spans (fun k => s.spanFenced k) q.1).isEmpty))
  || r.freeRun && (match r.sys with
    | some x => decide (x.endCause ≠ 0)
    | none => false)

/-! ### Records and markers -/

/-- Span `n` holds a variable of a range, active or frozen (R42, R212). -/
def holdsVar (p : Problem) (rows : List BlockRow) (n : Nat) (has : Nat → Bool) : Bool :=
  let here (rows : List BlockRow) : Bool := rows.any (fun b => b.span = n && (b.vars.filterMap id).any has)
  here rows || (List.range p.windows).any (fun w => here (placedBlocks p w).1)

/-- Span `n` holds a variable of a factored section. -/
def holdsFactored (p : Problem) (rows : List BlockRow) (n : Nat) : Factored → Bool
  | .low k => (p.lowranks[k]?).any (fun q => holdsVar p rows n q.has)
  | .kron k => (p.krons[k]?).any (fun q => holdsVar p rows n q.has)

/-- The spans that hold a coupling of a variable. -/
def couplingSpans (p : Problem) (rows : List BlockRow) (v : Nat) : List Nat :=
  (blockSpans rows).filter (fun n => (rows.filter (fun b => b.span = n)).any (fun b =>
    (b.vars.filterMap id).any (fun i => (outOf p v).any (fun t => t.1 = i))))

/-- The spans that keep the value of a ghost (R223): those that hold a coupling of it, whichever window its variable is of. -/
def ghostHomes (p : Problem) (rows : List BlockRow) (v : Nat) : List Nat :=
  couplingSpans p (rows ++ (List.range p.windows).flatMap (fun w => (placedBlocks p w).1)) v

/-- The spans that a record of variable v of this source must reach: those that hold a coupling of it, or a variable of
a factored section of it, whichever window that variable is of (R42). The couplings of a hyperedge whose members a re-map or a
migration has put into different spans are not among them (entry 125). -/
def fanOut (p : Problem) (rows : List BlockRow) (src v : Nat) : List Nat :=
  let near := couplingSpans p rows v
  spanIds.filter (fun n => n ≠ src && (near.contains n || p.lowranks.any (fun q => q.has v && holdsVar p rows n q.has)
    || p.krons.any (fun q => q.has v && holdsVar p rows n q.has)))

/-- The buddy of span `n` shadows its deck: it is not fenced, or its fence is still to be followed by a re-map (R31, R363,
R436). -/
def State.shadowed (s : State) (r : Run) (n : Nat) : Bool :=
  !s.spanFenced (n ^^^ 1) || r.remap.any (fun q => q.1 = n ^^^ 1)

/-- The mask of a flit (R31): the spans that its records must reach, and the buddy of each span that holds a changed variable, a
span of the run or not. -/
def State.flitMask (s : State) (p : Problem) (r : Run) (n : Nat) (l : List FlipRec) : List Nat :=
  let reach := l.flatMap (fun x => fanOut p r.blocks n x.var)
  let owners := n :: l.filterMap (fun x => (findSlot r.blocks x.var x.replica).map (fun q => q.1))
  spanIds.filter (fun d => d ≠ n && (reach.contains d || owners.any (fun m => d = m ^^^ 1 && s.shadowed r m)))

/-- The VC1 messages of an epoch of span `n` (R31, R32, R142, R171-R173, R367): flits of 15 records, each with its mask, and
one marker for the other 15 spans with the count of flits for each. -/
def State.epochMsgs (s : State) (p : Problem) (r : Run) (n epoch : Nat) (undo : Bool) (recs : List FlipRec) (limit : Bool) :
    List Vc1Msg :=
  let run := r.sweep * r.k + epoch
  let flits := (chunks 15 recs.length recs).zipIdx.map (fun f => (f.1, f.2, s.flitMask p r n f.1))
  let counts := spanIds.map (fun d => (flits.filter (fun f => f.2.2.contains d)).length)
  (flits.filter (fun f => !f.2.2.isEmpty)).map (fun f => ⟨n, f.2.2, .flit run undo f.2.1 f.1, 0, false⟩)
    ++ [⟨n, spanIds.filter (· ≠ n), .marker run undo counts (s.eng n).ef (s.eng n).data.ez limit, 0, false⟩]

/-- Send the records of an epoch of span `n` and its marker: they wait in the injection queue (R370) and are kept (R384); and
the exported changes go to the other parts. -/
def State.sendEpoch (s : State) (p : Problem) (r : Run) (n epoch : Nat) (undo : Bool) (recs : List FlipRec) (limit : Bool) :
    State :=
  let msgs := s.epochMsgs p r n epoch undo recs limit
  let s := s.modEng n (fun e =>
    let e := { e with sentEf := e.ef, inject := e.inject ++ msgs, kept := e.kept ++ msgs }
    if undo then { e with undoSent := epoch + 1 } else { e with sent := e.sent + 1, epochRecs := [] })
  let s := s.exportRecs p r n epoch undo recs
  if undo then s else s.closeEpochs p r.problem (r.k + 1)

/-- The records of one source for one epoch are all here (R33). -/
def Engine.completeFrom (e : Engine) (src epoch : Nat) (undo : Bool) : Bool :=
  match e.marks.find? (fun m => m.src = src && m.epoch = epoch && m.undo = undo) with
  | some m => decide (m.count ≤ (e.flits.filter (fun f => f.src = src && f.epoch = epoch && f.undo = undo)).length)
  | none => false

/-- A source has sent or will send its marker of an epoch to span `n`: it lives and has not ended its work, or sent it
before. -/
def State.owesMarker (s : State) (src epoch : Nat) (undo : Bool) : Bool :=
  let e := s.eng src
  if undo then !s.spanFenced src && decide (e.phase ≠ .ended) || decide (epoch < e.undoSent)
  else if s.spanFenced src || e.stopped || decide (e.phase = .ended) then decide (epoch < e.sent) else true

/-- Every record of an epoch has reached span `n` (R33). -/
def State.epochComplete (s : State) (r : Run) (n epoch : Nat) (undo : Bool) : Bool :=
  (r.spans.filter (· ≠ n)).all (fun m =>
    !s.owesMarker m epoch undo || (s.eng n).completeFrom m epoch undo)

/-- Batches of a part for an epoch that have arrived at the module. -/
def SysRun.arrivedOf (x : SysRun) (part epoch : Nat) (undo : Bool) : Nat :=
  ((x.arrived.filter (fun a => a.part = part && a.epoch = epoch && a.undo = undo)).map (fun a => a.count)).sum

/-- Batches of a part that have arrived in sweep `w`. -/
def SysRun.arrivedIn (x : SysRun) (part w k : Nat) : Nat :=
  ((x.arrived.filter (fun a => a.part = part && !a.undo && decide (w * k ≤ a.epoch) && decide (a.epoch < (w + 1) * k))).map
    (fun a => a.count)).sum

/-- A batch of a part is on its way to span `n`. -/
def State.batchFlying (s : State) (n part : Nat) (undo : Bool) : Bool :=
  s.mesh.vc1.any (fun m => m.dests.contains n && (match m.body with
    | .batch _ u q _ _ _ _ _ => q = part && u = undo
    | _ => false))

/-- The part waits no more for the other parts' records of a run epoch: it waits for no part at all (R241), or a part has ended the
run, at once in a free-running run and else at an epoch not after it (R234). -/
def Run.waived (r : Run) (x : SysRun) (run : Nat) : Bool :=
  x.alone || (decide (x.endCause ≠ 0) && (r.freeRun || decide (x.causeEpoch ≤ run)))

/-- The records of the other parts for an epoch of the sweep are complete at span `n` (R229). -/
def State.partsComplete (s : State) (p : Problem) (r : Run) (n epoch : Nat) : Bool :=
  match p.sys, r.sys with
  | some y, some x => !y.locked || r.waived x (r.sweep * r.k + epoch) || y.importParts.all (fun q =>
      match x.epochMarks.find? (fun m => m.part = q && m.number = r.sweep * r.k + epoch) with
      | some m => decide (m.count ≤ x.arrivedOf q (r.sweep * r.k + epoch) false) && !s.batchFlying n q false
      | none => false)
  | _, _ => true

/-- The records of the sweep of the other parts are complete at span `n` (R232). -/
def State.partsSwept (s : State) (p : Problem) (r : Run) (n : Nat) : Bool :=
  match p.sys, r.sys with
  | some y, some x => r.waived x (r.sweep * r.k + r.k - 1) || y.importParts.all (fun q =>
      match x.sweepEnds.find? (fun m => m.part = q && m.number = r.sweep) with
      | some m => decide (m.count ≤ x.arrivedIn q r.sweep r.k) && !s.batchFlying n q false
      | none => false)
  | _, _ => true

/-- The undo records of the other parts for the flush that ends with epoch `last` are complete at span `n` (R232, R133; entry 109);
a part that has stopped waits for none. -/
def State.partsUndone (s : State) (p : Problem) (r : Run) (n last : Nat) : Bool :=
  let run := r.sweep * r.k + last
  match p.sys, r.sys with
  | some y, some x => r.waived x run || (decide (x.endCause ≠ 0) && (s.liveOf r).any (fun m => (s.eng m).stopped))
      || y.importParts.all (fun q =>
      match x.undoEnds.find? (fun m => m.part = q && m.number = run) with
      | some m => decide (m.count ≤ x.arrivedOf q run true) && !s.batchFlying n q true
      | none => false)
  | _, _ => true

/-- The batches of other parts that span `n` applies: in increasing part, and within one in increasing epoch and batch
sequence (R229). -/
def Engine.partBatches (e : Engine) (pick : RxBatch → Bool) : List RxBatch :=
  let l := (e.batches.filter pick).zipIdx
  (sortNats (l.map (fun b => ((b.1.part * 2 ^ 64 + b.1.epoch) * 2 ^ 16 + b.1.seq) * 65536 + b.2))).filterMap (fun k =>
    (l[k % 65536]?).map Prod.fst)

/-- The records of batches, as due records (R230). -/
def batchDue (r : Run) (l : List RxBatch) : List DueRec :=
  l.flatMap (fun b => b.recs.map (fun x =>
    ⟨b.epoch - r.sweep * r.k + boolNat b.undo, x, if r.freeRun then some (b.part, b.seen) else none⟩))

/-- The greatest e_f of batches and of the other parts' markers that come with them (R233): those of the epochs below `to_`, at the
end of the sweep its sweep-end markers too. -/
def partsEf (r : Run) (to_ : Nat) (l : List RxBatch) (ef : Int) : Int :=
  let a := l.foldl (fun m b => max m b.ef) ef
  match r.sys with
  | some x => (x.epochMarks.filter (fun m => decide (m.number < r.sweep * r.k + to_))
      ++ x.sweepEnds.filter (fun m => decide (to_ = r.k) && decide (m.number = r.sweep))).foldl (fun m k => max m k.ef) a
  | none => a

/-- The greatest e_f of undo batches and of the undo-end markers of the flush that ends with epoch `last` (R233). -/
def undoEf (r : Run) (last : Nat) (l : List RxBatch) (ef : Int) : Int :=
  let a := l.foldl (fun m b => max m b.ef) ef
  match r.sys with
  | some x => (x.undoEnds.filter (fun m => m.number = r.sweep * r.k + last)).foldl (fun m k => max m k.ef) a
  | none => a

/-- The ghost store of span `n` takes the records applied (R228). -/
def State.noteGhosts (s : State) (p : Problem) (n : Nat) (due : List DueRec) : State :=
  match p.sys with
  | none => s
  | some y => s.modEng n (fun e => { e with
      ghosts := due.foldl (fun g q =>
        if y.ghosts.any (fun h => h.local_ = q.fr.var) then Store.put false (q.fr.var * 256 + q.fr.replica) q.fr.new g else g)
        e.ghosts })

/-- The records of flits of one source in the order of their sequence numbers (R136). -/
def recsInOrder (fs : List RxFlit) : List FlipRec :=
  (sortNats (fs.map (fun f => f.seq))).flatMap (fun q => ((fs.find? (fun f => f.seq = q)).map (fun f => f.recs)).getD [])

/-- The records of an epoch in the order of R136: of the sources that have sent its marker. What a fenced span had sent of an
epoch whose marker its router never accepted is discarded (R434). -/
def Engine.dueRecs (e : Engine) (spans : List Nat) (epoch as_ : Nat) (undo : Bool) : List DueRec :=
  (spans.filter (fun m => e.marks.any (fun k => k.src = m && k.epoch = epoch && k.undo = undo))).flatMap (fun m =>
    (recsInOrder (e.flits.filter (fun f => f.src = m && f.epoch = epoch && f.undo = undo))).map (fun x => ⟨as_, x, none⟩))

/-- The largest e_f that the markers of an epoch carry (R171). -/
def Engine.markEf (e : Engine) (epoch : Nat) (undo : Bool) : Int :=
  (e.marks.filter (fun m => m.epoch = epoch && m.undo = undo)).foldl (fun x m => max x m.ef) e.ef

/-- The largest e_z of each section that the markers of an epoch carry (R173). -/
def Engine.markEz (e : Engine) (secs epoch : Nat) (undo : Bool) (ez : Store Int) : Store Int :=
  (e.marks.filter (fun m => m.epoch = epoch && m.undo = undo)).foldl (fun x m =>
    (List.range secs).foldl (fun x k => Store.put 0 k (max (Store.get 0 k x) (Store.get 0 k m.ez)) x) x) ez

/-- Some marker of an epoch carries the limit indication (R172). -/
def Engine.markLimit (e : Engine) (epoch : Nat) (undo : Bool) : Bool :=
  e.marks.any (fun m => m.epoch = epoch && m.undo = undo && m.limit)

/-- Raise the data of a span to an e_f step by step, without replay (R171). -/
def Env.adopt (e : Env) : Nat → SpanData → SpanData
  | 0, d => d
  | k + 1, d => e.adopt k (e.raiseEf d)

/-- Span `n` adopts an e_f. -/
def State.adoptEf (s : State) (p : Problem) (r : Run) (n : Nat) (ef : Int) : State :=
  let e := s.envOf p r n
  s.modEng n (fun g =>
    if ef ≤ g.ef then g
    else { g with ef := ef, data := e.adopt (ef - g.ef).toNat g.data, unitStart := g.unitStart.map (e.adopt (ef - g.ef).toNat) })

/-- Data adopts an e_z of each section (R173). -/
def adoptEz (ez : Store Int) (secs : Nat) (d : SpanData) : SpanData :=
  (List.range secs).foldl (fun d k =>
    (List.range (Store.get 0 k ez - Store.get 0 k d.ez).toNat).foldl (fun d _ =>
      let x := raiseEz k d
      { x with ezRaises := d.ezRaises }) d) d

/-- Span `n` adopts an e_z of each section. -/
def State.adoptEzOf (s : State) (p : Problem) (n : Nat) (ez : Store Int) : State :=
  s.modEng n (fun g => { g with data := adoptEz ez p.lowranks.length g.data,
                                unitStart := g.unitStart.map (adoptEz ez p.lowranks.length) })

/-- The shadow of span `n` follows the records of its buddy (R34). -/
def State.shadowRecs (s : State) (r : Run) (n : Nat) (due : List DueRec) : State :=
  due.foldl (fun st q => match findSlot r.blocks q.fr.var q.fr.replica with
    | some (m, num, lane) =>
      if m = n ^^^ 1 then st.modSpan n (fun x =>
        let w := Store.get 0#64 num x.shadow
        let b := 1#64 <<< lane
        { x with shadow := Store.put 0#64 num (if q.fr.new then w ||| b else w &&& ~~~b) x.shadow })
      else st
    | none => st) s

/-! ### Ending an epoch -/

/-- The span has no block left in its epoch and no continuation: it sends its records and markers and waits at the
boundary (R122, R32). -/
def State.endEpoch (s : State) (p : Problem) (r : Run) (n : Nat) : State :=
  let e := s.eng n
  (s.modEng n (fun g => { g with phase := .boundary })).sendEpoch p r n e.epoch false e.epochRecs false

/-- End the epoch when every block of it has been visited. -/
def State.endEpochIfDone (s : State) (p : Problem) (r : Run) (n : Nat) : State :=
  let e := s.eng n
  if e.phase = .deciding && e.cont.isNone && decide ((r.epochBlocksOf p n e.epoch).length ≤ e.pos) then s.endEpoch p r n else s

/-- Span `n` ends its work where it stands. -/
def State.endWork (s : State) (n : Nat) : State :=
  s.modEng n (fun g => { g with phase := .ended, cont := none, unitStart := none, blockRecs := [] })

/-- A span ends its work at the raise limit (R172): it sends its markers with the limit indication; at a boundary, where those of
its epoch have gone out, on the markers of the next epoch (entry 126). -/
def State.endLimit (s : State) (p : Problem) (r : Run) (n : Nat) : State :=
  let e := s.eng n
  let s := s.stopRun r.problem (fun t => { t with limit := true })
  let s := (s.endWork n).modEng n (fun g => { g with limit := true })
  if e.phase = .deciding then s.sendEpoch p r n e.epoch false e.epochRecs true
  else s.sendEpoch p r n (e.epoch + 1) false e.epochRecs true

/-- The span has visited every block of the sweep. -/
def Engine.sweptAll (e : Engine) (r : Run) : Bool :=
  decide (e.epoch + 1 = r.k) && (e.phase = .boundary || e.phase = .undoing || e.phase = .flushed) && !e.stopped

/-- A stop cause takes effect at a block boundary (R150): the span ends its epoch and starts no further one. One that has
visited every block of the sweep goes on to its end. -/
def State.stopSpan (s : State) (p : Problem) (r : Run) (n : Nat) : State :=
  let e := s.eng n
  if e.sweptAll r then s
  else
    let t := (s.takeStops r.problem).modEng n (fun g =>
      { g with phase := .boundary, stopped := true, cont := none, unitStart := none, blockRecs := [] })
    if e.phase = .deciding then t.sendEpoch p r n e.epoch false (e.epochRecs ++ e.blockRecs) false else t

/-! ### Block visits (R124-R132, R169) -/

/-- The time of a block boundary (Table 3.11). -/
def State.noteBlockEnd (s : State) (q : Nat) : State :=
  s.modRun q (fun r => { r with lastSec := s.time.sec, lastSub := s.time.sub })

/-- The triangle unit loads a block's tile into one of its buffers; a null tile is not loaded (R16, Table 13.1). -/
def State.loadTile (s : State) (p : Problem) (n : Nat) (b : BlockRow) : State :=
  let t := p.tileOf b.vars
  if t.null then s
  else
    let buf := (s.eng n).pos % 2
    s.modSpan n (fun x =>
      let kept := x.tileBuf.filter (fun q => q.1 / 4096 ≠ buf)
      let new := t.entries.map (fun q => (4096 * buf + q.1, q.2))
      { x with tileBuf := if buf = 0 then new ++ kept else kept ++ new })

/-- Store the outcome of a part of a block visit: the block ends, or a continuation is due. -/
def State.afterBlock (s : State) (p : Problem) (r : Run) (n : Nat) (b : BlockRow) (start : SpanData) (ef : Int)
    (w : Work) (rest : List Nat) (recs : List FlipRec) : State :=
  if rest.isEmpty then
    let s := s.modEng n (fun g => { g with ef := ef, data := w.d, cont := none, unitStart := none, blockRecs := [],
                                           epochRecs := g.epochRecs ++ recs ++ w.recs, pos := g.pos + 1 })
    -- the block's deck word is written back (R29, R359)
    let s := s.modSpan n (fun x => x.unpoison 2 (fun k => k = b.num))
    ((s.commitFar r n).noteBlockEnd r.problem).endEpochIfDone p r n
  else
    s.modEng n (fun g => { g with ef := ef, data := w.d, cont := some ⟨b.num, rest⟩, unitStart := some start,
                                  blockRecs := recs ++ w.recs })

/-- The poisoned granules of the tiers in which the problem has arrays (R391, R397, R399). -/
def State.lostGranules (s : State) (p : Problem) : List (Tier × Nat) :=
  (s.poison.filterMap (fun k => match s.target k with
    | .gddr _ _ => some (Tier.gddr, k)
    | .cxl _ _ => some (Tier.cxl, k)
    | _ => none)).filter (fun q => usesTier q.1 p)

/-- A visit of the block that has read a poisoned granule: the run stops at its next block boundary as under QSTOP (R391). -/
def State.stopIfLost (s : State) (p : Problem) (r : Run) (b : BlockRow) (lost : List (Tier × Nat)) : State :=
  if p.readsLost lost b.vars b.replica then s.stopRun r.problem (fun t => { t with stop := true }) else s

/-- The fields of a block have been written whole (R166, R359). -/
def State.fieldsWritten (s : State) (n : Nat) (b : BlockRow) : State :=
  s.modSpan n (fun x => x.unpoison 1 (fun k => k / 64 = b.num && ((b.vars[k % 64]?).join).isSome))

/-- Visit a block from its start, with replays (R169-R172). A refresh that BLOCK_REFRESH has made for it belongs to the
visit. Zero stands in place of what lies in a poisoned granule (R391). -/
def State.visitBlock (s : State) (p : Problem) (r : Run) (n : Nat) (b : BlockRow) : State :=
  let lost := s.lostGranules p
  let env := (s.envOf p r n).losing lost
  let s := (s.loadTile env.p n b).stopIfLost p r b lost
  let s := if env.refreshDue b (s.eng n).data then s.fieldsWritten n b else s
  let g := s.eng n
  match env.unit (fun ef d => env.decideBlock ef g.epoch b (env.laneOrder b) d) unitTries g.ef
      ((g.unitStart.getD g.data).losing p lost) with
  | (ef, start, some (w, rest)) => s.afterBlock p r n b start ef w rest []
  | (ef, start, none) => (s.modEng n (fun x => { x with ef := ef, data := start })).endLimit p r n

/-- A whole block visit, its continuations included. -/
def Env.wholeBlock (e : Env) (ef : Int) (epoch : Nat) (b : BlockRow) : Nat → List Nat → SpanData → List FlipRec →
    Try (SpanData × List FlipRec)
  | 0, _, d, recs => .ok (d, recs)
  | fuel + 1, lanes, d, recs => do
    let (w, rest) ← e.decideBlock ef epoch b lanes d
    if rest.isEmpty then return (w.d, recs ++ w.recs)
    else e.wholeBlock ef epoch b fuel rest w.d (recs ++ w.recs)

/-- Raise for an overflow that abandoned a unit, unless it would be the ninth raise (R170, R172, R173). -/
def Env.raiseOnce (e : Env) (which : Option Nat) (ef : Int) (d : SpanData) : Option (Int × SpanData) :=
  if e.raised ef d ≥ 8 then none
  else match which with
    | none => some (ef + 1, e.raiseEf d)
    | some sec => some (ef, raiseEz sec d)

/-- A continuation (R126): the later lanes are decided; an overflow abandons and replays the whole block visit. It reads the
arrays anew (entry 118). -/
def State.continueBlock (s : State) (p : Problem) (r : Run) (n : Nat) (b : BlockRow) (lanes : List Nat) : State :=
  let lost := s.lostGranules p
  let env := (s.envOf p r n).losing lost
  let s := s.stopIfLost p r b lost
  let g := s.eng n
  let start := g.unitStart.getD g.data
  match env.decideBlock g.ef g.epoch b lanes (g.data.losing p lost) with
  | .ok (w, rest) => s.afterBlock p r n b start g.ef w rest g.blockRecs
  | .error which =>
    match env.raiseOnce which g.ef start with
    | none => (s.modEng n (fun x => { x with data := start })).endLimit p r n
    | some (ef, d) =>
      match env.unit (fun ef d => env.wholeBlock ef g.epoch b 65 (env.laneOrder b) d []) unitTries ef d with
      | (ef, start, some (d, recs)) => s.afterBlock p r n b start ef ⟨d, [], recs⟩ [] []
      | (ef, start, none) => (s.modEng n (fun x => { x with ef := ef, data := start })).endLimit p r n

/-- The next block that span `n` is to visit. -/
def State.nextBlock (s : State) (n : Nat) : Option (Problem × Run × BlockRow) :=
  match s.boundRun n with
  | some (p, r) =>
    let e := s.eng n
    if s.running && !s.spanFenced n && e.phase = .deciding && e.cont.isNone then
      ((r.epochBlocksOf p n e.epoch)[e.pos]?).map (fun b => (p, r, b))
    else none
  | none => none

/-- The start of the run's first block (R87, R283). -/
def State.noteFirstBlock (s : State) (r : Run) : State :=
  if r.begun then s else
  let now := s.now
  s.modRun r.problem (fun q => { q with begun := true, startTick := now, startSec := s.time.sec, startSub := s.time.sub })

/-- The span's next block boundary: a stop cause in force ends its work (R150), else its next block is visited. -/
def State.decideNext (s : State) (n : Nat) : State :=
  match s.nextBlock n with
  | none => s
  | some (p, r, b) => if s.stopsNow r then s.stopSpan p r n else (s.noteFirstBlock r).visitBlock p r n b

/-- The granules that the reads of a block visit find lost, of the tiers in which the problem has arrays (R391, R397). -/
def State.lostReads (s : State) (p : Problem) (l : List MemEvent) : List (Tier × Nat) :=
  (l.filterMap (fun e => match e with
    | .ramUe a => some (Tier.gddr, a - a % 64)
    | .cxlPoison a => some (Tier.cxl, a - a % 64)
    | .cxlTag _ a => some (Tier.cxl, a - a % 64)
    | _ => none)).filter (fun q => usesTier q.1 p && s.poisonedAt q.2)

/-- A block visit whose reads meet errors: the visit uses zero in place of lost data, and the run then stops at its next
block boundary as under QSTOP (R391). -/
def State.decideWith (s : State) (n : Nat) (events : List MemEvent) : State :=
  match s.nextBlock n with
  | none => s
  | some (p, r, _) =>
    let s := s.memEvents events
    let lost := s.lostReads p events
    let s := s.decideNext n
    if lost.isEmpty then s else s.stopRun r.problem (fun t => { t with stop := true })

/-- The refresh of the next block ahead of its visit (R165, R166), which belongs to the unit of that visit. -/
def State.refreshNext (s : State) (n : Nat) : State :=
  match s.nextBlock n with
  | none => s
  | some (p, r, b) =>
    let lost := s.lostGranules p
    let env := (s.envOf p r n).losing lost
    let g := s.eng n
    if !env.refreshDue b g.data then s
    else
      let s := (s.stopIfLost p r b lost).fieldsWritten n b
      match env.unit (fun ef d => env.testRead ef b d) unitTries g.ef (g.data.losing p lost) with
      | (ef, start, some d) => s.modEng n (fun x => { x with ef := ef, data := d, unitStart := some start })
      | (ef, start, none) => (s.modEng n (fun x => { x with ef := ef, data := start })).endLimit p r n

/-! ### Arrival on VC1 (R33, R34, R378, R384) -/

/-- The run that a span carries. -/
def State.runOfSpan (s : State) (n : Nat) : Option Run := s.runs.find? (fun r => r.spans.contains n)

/-- Span `n`'s flip-apply engine takes a message of another span of its run, whose sweep starts at run epoch `base`; one that
it holds or has applied is discarded (R384). -/
def Engine.receive (g : Engine) (n src base : Nat) : Vc1Body → Engine
  | .flit run undo seq recs =>
    let k := run - base
    if run < base || decide (k + boolNat undo < g.applied)
        || g.flits.any (fun f => f.src = src && f.epoch = k && f.undo = undo && f.seq = seq) then g
    else { g with flits := g.flits ++ [⟨src, k, undo, seq, recs⟩] }
  | .marker run undo counts ef ez limit =>
    let k := run - base
    if run < base || decide (k + boolNat undo < g.applied)
        || g.marks.any (fun f => f.src = src && f.epoch = k && f.undo = undo) then g
    else { g with marks := g.marks ++ [⟨src, k, undo, counts.getD n 0, ef, ez, limit⟩] }
  | .batch epoch undo part seq seen first ef recs =>
    { g with batches := g.batches ++ [⟨part, epoch, undo, seq, seen, ef, first, recs⟩] }

/-- Span `n` takes a message of a buddy that it shares no run with. -/
def Engine.receivePair (g : Engine) (n src : Nat) : Vc1Body → Engine
  | .flit run undo seq recs =>
    if decide (run + boolNat undo < g.pairNext) || g.pairFlits.any (fun f => f.epoch = run && f.undo = undo && f.seq = seq) then g
    else { g with pairFlits := g.pairFlits ++ [⟨src, run, undo, seq, recs⟩] }
  | .marker run undo counts ef ez limit =>
    if decide (run + boolNat undo < g.pairNext) || g.pairMarks.any (fun f => f.epoch = run && f.undo = undo) then g
    else { g with pairMarks := g.pairMarks ++ [⟨src, run, undo, counts.getD n 0, ef, ez, limit⟩] }
  | .batch .. => g

/-- The next epoch of such a buddy that is complete. -/
def Engine.pairDue (g : Engine) : Option RxMark :=
  g.pairMarks.find? (fun m => m.epoch + boolNat m.undo = g.pairNext
    && decide (m.count ≤ (g.pairFlits.filter (fun f => f.epoch = m.epoch && f.undo = m.undo)).length))

/-- The shadow takes the complete epochs of a buddy of another run, oldest first (R33, R34). -/
def State.pairOn (r : Run) (n : Nat) : Nat → State → State
  | 0, s => s
  | fuel + 1, s =>
    let g := s.eng n
    match g.pairDue with
    | none => s
    | some m =>
      let fs := g.pairFlits.filter (fun f => f.epoch = m.epoch && f.undo = m.undo)
      State.pairOn r n fuel ((s.modEng n (fun g =>
        { g with pairNext := m.epoch + 1, pairMarks := g.pairMarks.filter (· ≠ m),
                 pairFlits := g.pairFlits.filter (fun f => !(f.epoch = m.epoch && f.undo = m.undo)) })).shadowRecs r n
          ((recsInOrder fs).map (fun x => ⟨0, x, none⟩)))

/-- A copy of a VC1 message reaches the local port of span `n`: a fenced span's router discards and counts it (R378). -/
def State.deliverVc1 (s : State) (n src : Nat) (b : Vc1Body) : State :=
  if s.spanFenced n then (if s.routerFailed (spanRouter n) then s else s.countDrops 1)
  else if 16 ≤ src then s.modEng n (fun g => g.receive n src 0 b)
  else match s.runOfSpan src with
    | none => s
    | some r =>
      if r.spans.contains n then s.modEng n (fun g => g.receive n src (r.sweep * r.k) b)
      else if n = src ^^^ 1 then State.pairOn r n ((s.eng n).pairMarks.length + 1) (s.modEng n (fun g => g.receivePair n src b))
      else s

/-- Deliver the copies that a test picks, of the flits that routers have accepted; the others stay. -/
def State.deliverWhere (s : State) (pick : Vc1Msg → Nat → Bool) : State :=
  let all := s.mesh.vc1
  let left := all.flatMap (fun m =>
    let rest := m.dests.filter (fun d => !pick m d)
    if rest.isEmpty then [] else [{ m with dests := rest }])
  all.foldl (fun st m => (m.dests.filter (pick m)).foldl (fun st d => st.deliverVc1 d m.src m.body) st)
    { s with mesh := { s.mesh with vc1 := left } }

/-- What the spans of a run have sent arrives, and so do the records of other parts for them. -/
def State.drainRun (s : State) (r : Run) : State :=
  (r.spans.foldl (fun st n => st.injectFirst n (st.eng n).inject.length) s).deliverWhere (fun m d =>
    r.spans.contains m.src || (decide (16 ≤ m.src) && r.spans.contains d))

/-! ### Boundaries (R135-R141, R435) -/

/-- Clear the records of the epochs below `k` that a span has applied. -/
def Engine.dropApplied (e : Engine) (k : Nat) : Engine :=
  { e with flits := e.flits.filter (fun f => decide (k ≤ f.epoch) || f.undo),
           marks := e.marks.filter (fun m => decide (k ≤ m.epoch) || m.undo) }

/-- The epochs from `a` to `b` - 1. -/
def epochsFrom (a b : Nat) : List Nat := (List.range (b - a)).map (· + a)

/-- The records due when span `n` applies the epochs from `a` to `b` - 1: its module's, then the other parts'. -/
def State.dueFor (s : State) (r : Run) (n a b : Nat) : List DueRec :=
  let e := s.eng n
  (epochsFrom a b).flatMap (fun k => e.dueRecs r.spans k k false) ++ batchDue r (e.partBatches (r.batchPick b))

/-- The e_f that span `n` adopts for those records (R171, R233). -/
def State.efFor (s : State) (r : Run) (n a b : Nat) : Int :=
  let e := s.eng n
  partsEf r b (e.partBatches (r.batchPick b)) ((epochsFrom a b).foldl (fun x k => max x (e.markEf k false)) e.ef)

/-- The e_z that span `n` adopts for those records (R173). -/
def State.ezFor (s : State) (p : Problem) (n a b : Nat) : Store Int :=
  let e := s.eng n
  (epochsFrom a b).foldl (fun x k => e.markEz p.lowranks.length k false x) e.data.ez

/-- Span `n` as it is once it has applied those records: the values of others that it reads. -/
def State.afterApply (s : State) (p : Problem) (r : Run) (n b : Nat) (due : List DueRec) : State :=
  ((s.modEng n (fun g => { g with applied := b })).noteGhosts p n due).shadowRecs r n due

/-- Span `n` applies the increments it has received (R248), the epochs from its next to `b` - 1, and commits the undos as epoch
`ep` (R136-R141); `keep` holds what it applied for a replay. The state, the data at the start of the unit, and the undo records, none when the raise
limit ends it. -/
def State.applyEpochs (s : State) (p : Problem) (r : Run) (n b ep : Nat) (keep : Bool) :
    State × SpanData × Option (List FlipRec) :=
  let a := (s.eng n).applied
  let s := (s.adoptEf p r n (s.efFor r n a b)).adoptEzOf p n (s.ezFor p n a b)
  let eng := s.eng n
  let due := s.dueFor r n a b
  let env := s.envOf p r n
  let t := s.afterApply p r n b due
  let seg := (r.segment eng.epoch).1
  match env.unit (fun ef d => env.boundary (t.envOf p r n) ef seg ep eng.incs due true d) unitTries eng.ef eng.data with
  | (ef, start, some (d, recs)) =>
    let t := t.modEng n (fun g => { g with ef := ef, data := d, incs := [], incsTaken := eng.incs })
    (if keep then t
      else (t.modEng n (fun g => Engine.dropApplied { g with batches := g.batches.filter (fun x => !r.batchPick b x) } b)).commitFar r n,
      start, some recs)
  | (ef, start, none) => (s.modEng n (fun g => { g with ef := ef, data := start, incs := [] }), start, none)

/-- A boundary that applies the epochs below `b` is the re-map boundary, or lies past it (R435). -/
def Run.remapAt (r : Run) (b : Nat) : Bool := r.remap.any (fun q => decide (q.2 < b))

/-- The span ends at a boundary that applies the epochs below `b`, without applying them: a marker of one carries the
limit (R172), a pair is lost (R438), or another part has ended (R234). -/
def State.endsAt (s : State) (p : Problem) (r : Run) (n b : Nat) : Bool :=
  let e := s.eng n
  (epochsFrom e.applied b).any (fun k => e.markLimit k false)
  || (r.stops.spanLoss && r.remapAt b)
  || (match p.sys, r.sys with
      | some y, some x => y.locked && decide (x.endCause ≠ 0) && decide (x.causeEpoch < r.sweep * r.k + b)
      | _, _ => false)

/-- The changes that the flip log of a span has room for (R140): four bytes each. -/
def logEntries (p : Problem) : Nat :=
  (p.scheds.map (fun c => 256 * c.blocksPerEpoch * (2 * c.lag + 1))).foldl max 0

/-- A part has not yet seen an exported change of a move (R231). -/
def SysRun.unseen (x : SysRun) (m : LogMove) : Bool := m.sent.any (fun t => decide (Store.get 0 t.2.1 x.seen ≤ t.2.2))

/-- A move holds an exported change that a part has not yet seen, or that waits to be sent (R231). -/
def SysRun.pending (x : SysRun) (y : SysDesc) (m : LogMove) : Bool :=
  x.unseen m || m.changes.any (fun c => y.exports.any (fun e => e.1 = c.var && !m.sent.any (fun t => t.1 = c.var && t.2.1 = e.2)))

/-- The flip log of span `n` has no free entry: what it must keep (R167, R231) fills it (entry 115). -/
def State.logFull (s : State) (p : Problem) (r : Run) (n : Nat) : Bool :=
  let kept (m : LogMove) : Bool :=
    (!m.past && (s.liveOf r).any (fun k => k ≠ n && decide ((s.eng k).applied ≤ m.epoch)))
      || (r.freeRun && (match p.sys, r.sys with
        | some y, some x => x.pending y m
        | _, _ => false))
  decide (logEntries p ≤ (((s.eng n).data.log.filter kept).map (fun m => m.changes.length)).sum)

/-- Move to the next epoch. -/
def State.nextEpoch (s : State) (p : Problem) (r : Run) (n : Nat) : State :=
  (s.modEng n (fun g => { g with phase := .deciding, epoch := g.epoch + 1, pos := 0 })).endEpochIfDone p r n

/-- The boundary after an epoch that ends no colour (R135): the records of lag epochs before. The span waits there while its flip
log is full (R167). -/
def State.plainBoundary (s : State) (p : Problem) (r : Run) (n : Nat) : State :=
  let e := s.eng n
  let seg := (r.segment e.epoch).1
  let b := max seg (e.epoch + 1 - (r.schedOf p).lag)
  if !((epochsFrom e.applied b).all (fun k => s.epochComplete r n k false && s.partsComplete p r n k)) then s
  else if s.endsAt p r n b then s.endWork n
  else match s.applyEpochs p r n (max e.applied b) (e.epoch + 1) false with
    | (s, _, none) => s.endLimit p r n
    | (s, _, some recs) =>
      let s := s.modEng n (fun g => { g with epochRecs := g.epochRecs ++ recs })
      if r.remapAt b then s.modEng n (fun g => { g with phase := .held })
      else if s.logFull p r n then s
      else s.nextEpoch p r n

/-! ### Flushes (R133, R142, R150) -/

/-- Every live span has stopped, or stands at the end of the sweep or beyond. -/
def State.allStopped (s : State) (r : Run) : Bool :=
  (s.liveOf r).all (fun n =>
    let e := s.eng n
    e.stopped || e.sweptAll r || e.phase = .flushed || e.phase = .ended)

/-- The most epochs of the sweep that a live span has sent. -/
def State.lastSent (s : State) (r : Run) : Nat := (s.liveOf r).foldl (fun x m => max x (s.eng m).sent) 0

/-- The last epoch that a flush at span `n`'s boundary covers, when it stands at one: that of the flush it has begun, the last
ended epoch at a stop, that of the sweep, or that of a colour. -/
def State.flushLast (s : State) (p : Problem) (r : Run) (n : Nat) : Option Nat :=
  let e := s.eng n
  if e.phase = .undoing then some (e.undoSent - 1)
  else if (s.liveOf r).any (fun m => (s.eng m).stopped) then
    if s.allStopped r then some (s.lastSent r - 1)
    -- another span has begun the flush of a colour at whose end this one has stopped
    else if e.undoSent ≤ e.epoch && (s.liveOf r).any (fun m => decide (e.epoch < (s.eng m).undoSent)) then some e.epoch
    else none
  else if e.epoch + 1 = r.k then some e.epoch
  else if (r.schedOf p).coloured && r.colourEnds.any (fun q => q.2 = e.epoch + 1) then some e.epoch
  else none

/-- The flush ends at the raise limit (R172): every span returns to the start of its flush and ends there. The flush at the end of
a colour counts among the units that find every span at one point (entry 126). -/
def State.flushLimit (s : State) (r : Run) : State :=
  let s := s.stopRun r.problem (fun t => { t with limit := true })
  (s.liveOf r).foldl (fun st n => (st.modEng n (fun g =>
    { g with data := if g.phase = .undoing || g.phase = .flushed then g.unitStart.getD g.data else g.data,
             limit := true })).endWork n) s

/-- The undos that a flush has made as moves of epoch `ep`. -/
def markFlush (ep : Nat) (d : SpanData) : SpanData :=
  { d with log := d.log.map (fun m => if m.epoch = ep && m.undo && !m.past then { m with flush := true } else m) }

/-- The first part of a flush at span `n`: every epoch not yet applied, and the undos, which go out as the undo epoch. -/
def State.flushApply (s : State) (p : Problem) (r : Run) (n last : Nat) : State :=
  let e := s.eng n
  if s.endsAt p r n (last + 1) then s.endWork n
  else if r.stops.limit && e.stopped then s.endWork n
  else if !((epochsFrom e.applied (last + 1)).all (fun k => s.epochComplete r n k false && s.partsComplete p r n k)) then s
  else if e.epoch + 1 = r.k && !s.partsSwept p r n then s
  else match s.applyEpochs p r n (last + 1) (last + 1) true with
    | (s, _, none) => s.flushLimit r
    | (s, start, some recs) =>
      let s := s.modEng n (fun g => { g with phase := .undoing, unitStart := some start, flushFrom := e.applied,
                                             data := markFlush (last + 1) g.data })
      s.sendEpoch p r n last true recs false

/-- Relabel the undo moves once applied: they count as changes of the last epoch (R142). -/
def relabelUndo (ep : Nat) (d : SpanData) : SpanData :=
  { d with log := d.log.map (fun m => if m.epoch = ep && !m.past then { m with epoch := ep - 1, flush := true, late := true } else m) }

/-- The undo records due at span `n` after epoch `last`. -/
def State.undoDue (s : State) (r : Run) (n last : Nat) : List DueRec :=
  let e := s.eng n
  e.dueRecs r.spans last (last + 1) true ++ batchDue r (e.partBatches (fun b => b.undo))

/-- The second part of a flush: the undo epoch (R142), with corrections and no further undo. An overflow replays the
flush from its start, without the records that it has sent (R169). -/
def State.flushUndo (s : State) (p : Problem) (r : Run) (n last : Nat) : State :=
  if !(s.epochComplete r n last true && s.partsUndone p r n last) then s
  else
    let eng := s.eng n
    let s := s.adoptEf p r n (undoEf r last (eng.partBatches (fun b => b.undo)) (eng.markEf last true))
    let s := s.adoptEzOf p n (eng.markEz p.lowranks.length last true eng.data.ez)
    let eng := s.eng n
    let due := s.undoDue r n last
    let t := s.afterApply p r n (last + 1) due
    let env := s.envOf p r n
    let seg := (r.segment last).1
    let second (ef : Int) (d : SpanData) : Try SpanData := do
      let (d, _) ← env.boundary (t.envOf p r n) ef seg (last + 1) [] due false d
      return d
    let before := (s.modEng n (fun g => { g with applied := g.flushFrom }))
    let whole (ef : Int) (d : SpanData) : Try SpanData := do
      let (d, _) ← (before.envOf p r n).boundary env ef seg (last + 1) eng.incsTaken
        (before.dueFor r n eng.flushFrom (last + 1)) true d
      second ef d
    let done (ef : Int) (start d : SpanData) : State :=
      (t.modEng n (fun g => Engine.dropApplied
        { g with ef := ef, data := relabelUndo (last + 1) d, unitStart := some start, phase := .flushed,
                 flits := g.flits.filter (fun f => !f.undo), marks := g.marks.filter (fun m => !m.undo),
                 batches := g.batches.filter (fun b => !b.undo && !r.batchPick (last + 1) b) } (last + 1))).commitFar r n
    let start := eng.unitStart.getD eng.data
    match second eng.ef eng.data with
    | .ok d => done eng.ef start d
    | .error which =>
      match env.raiseOnce which eng.ef start with
      | none => s.flushLimit r
      | some (ef, d) =>
        match env.unit whole unitTries ef d with
        | (ef, start, some d) => done ef start d
        | (ef, start, none) => (s.modEng n (fun g => { g with ef := ef, unitStart := some start })).flushLimit r

/-- Span `n` has made the flush of a colour: it goes on with the next one, waits for the re-map, or waits while its flip log is
full (R167). A span that has stopped waits for the flush that ends the run, unless that was it. -/
def State.colourOn (s : State) (p : Problem) (r : Run) (n last : Nat) : State :=
  if r.k ≤ last + 1 then s
  else if (s.eng n).stopped && s.allStopped r && decide (s.lastSent r ≤ last + 1) then
    s.modEng n (fun g => { g with phase := .flushed })
  else
    let s := s.modEng n (fun g => { g with phase := .boundary, unitStart := none })
    if (s.eng n).stopped then s
    else if r.remapAt (last + 2) then s.modEng n (fun g => { g with phase := .held })
    else if s.logFull p r n then s
    else s.nextEpoch p r n

/-- One step of a flush at span `n`. -/
def State.flushStep (s : State) (p : Problem) (r : Run) (n : Nat) : State :=
  match s.flushLast p r n with
  | none => s
  | some last =>
    match (s.eng n).phase with
    | .boundary => if last < (s.eng n).undoSent then s.colourOn p r n last else s.flushApply p r n last
    | .undoing =>
      let t := s.flushUndo p r n last
      if (t.eng n).phase = .flushed then t.colourOn p r n last else t
    | _ => s

/-- Once every live span has sent the undo epoch that span `n` has, this part's undo batches and markers go out (R232). -/
def State.closeUndoAll (s : State) (p : Problem) (r : Run) (n : Nat) : State :=
  let sent := (s.eng n).undoSent
  if r.sys.isSome && (s.liveOf r).all (fun m => decide (sent ≤ (s.eng m).undoSent)) then s.closeUndo p r.problem (sent - 1) else s

/-- Span `n` at a boundary: a stop, a flush, or a plain boundary. `flush` tells which of the last two is asked for. -/
def State.boundaryStep (s : State) (n : Nat) (flush : Bool) : State :=
  match s.boundRun n with
  | none => s
  | some (p, r) =>
    let e := s.eng n
    if !s.running || s.spanFenced n then s
    else
      -- a run that has lost a pair goes no further than the re-map boundary (R438)
      let s := if e.phase = .held && r.stops.spanLoss then s.endWork n
        else if s.stopsNow r && (e.phase = .boundary || e.phase = .held) then s.stopSpan p r n else s
      let e := s.eng n
      let ends := decide (e.epoch + 1 = r.k) || e.stopped
      let atColour := (r.schedOf p).coloured && r.colourEnds.any (fun q => q.2 = e.epoch + 1)
      if ends || atColour then
        if flush || (atColour && !ends) then
          (if e.phase = .undoing then s.closeUndoAll p r n else s).flushStep p r n
        else s
      else if e.phase = .boundary && !flush then s.plainBoundary p r n
      else s

end Sys2Proof.Machine
end

