-- ==== Sys2Proof/Machine/RunEnd.lean ====
section
/-! DEFINITION. The end of a sweep: settle (R145, R171), field refresh (R148), audit (R147), best state and snapshot (R146),
samples (R285), replica exchange (R118-R120), the end of a run and its record (R87-R89, R284), row migration (R151,
R152), window rotation (R207-R213), β (R117) and checkpoints (R287).
-/

namespace Sys2Proof.Machine

/-! ### Values -/

/-- The present value of a variable in a run: its deck, its ghost in a span that holds a coupling of it, or the frozen values. -/
def State.value (s : State) (p : Problem) (r : Run) (rep v : Nat) : Bool :=
  match findSlot r.blocks v rep with
  | some (n, num, lane) => (s.eng n).data.bit (num * 64 + lane)
  | none =>
    match p.sys with
    | some y => if y.ghosts.any (fun g => g.local_ = v) then
          (match r.sys with
           | some _ => ((ghostHomes p r.blocks v).find? (fun n => !s.spanFenced n)).map (fun n =>
               Store.get false (v * 256 + rep) (s.eng n).ghosts)
           | none => none).getD false
        else Store.get false (v * 256 + rep) r.frozen
    | none => Store.get false (v * 256 + rep) r.frozen

/-- Halve `k` times, when `k` is positive. -/
def halveBy (k : Int) (v : Int) : Int := halveTimes k.toNat v

/-! ### Settle -/

/-- The raises of a run (R174): steps of e_f, and of each e_z, above the values in use at load. -/
def State.raisesOf (s : State) (p : Problem) (r : Run) (ef : Int) : Nat :=
  (ef - p.ef).toNat + (p.lowranks.zipIdx.map (fun q =>
    (r.spans.foldl (fun m n => max m (Store.get 0 q.2 (s.eng n).data.ez)) q.1.ez - q.1.ez).toNat)).sum

/-- Every live span adopts the largest e_f and e_z (R171, R173), and the run's totals and best value with them. -/
def State.adoptAll (s : State) (p : Problem) (r : Run) : State :=
  let live := s.liveOf r
  let ef := live.foldl (fun m n => max m (s.eng n).ef) r.ef
  let ez : Store Int := p.lowranks.zipIdx.map (fun q =>
    (q.2, live.foldl (fun m n => max m (Store.get 0 q.2 (s.eng n).data.ez)) q.1.ez))
  let s := live.foldl (fun st n =>
    (st.adoptEf p r n ef).modEng n (fun g => { g with data := adoptEz ez p.lowranks.length g.data })) s
  let raises := s.raisesOf p r ef
  s.modRun r.problem (fun x =>
    { x with ef := ef, best := halveBy (ef - x.ef) x.best, totals := Store.mapVals 0 (halveBy (ef - x.ef)) x.totals,
             raises := raises })

/-- The home adds the partials, exactly, in increasing span order, and holds each total as its own (R145). -/
def State.formTotals (s : State) (p : Problem) (r : Run) : State :=
  let live := s.liveOf r
  let reps := List.range p.nrep
  let totals : Store Int := Store.putAll 0 (reps.map (fun k =>
    (k, (live.map (fun n => Store.get 0 k (s.eng n).data.partials)).sum))) []
  let home := s.homeOf r
  let s := live.foldl (fun st n => st.modEng n (fun g =>
    { g with data := { g.data with partials := if n = home then totals else [] } })) s
  s.modRun r.problem (fun x => { x with totals := totals })

/-- The counts of a span go to the run's (Table 3.11). -/
def State.gatherCounts (s : State) (r : Run) : State :=
  (s.liveOf r).foldl (fun st n =>
    let d := (st.eng n).data
    (st.modRun r.problem (fun x =>
      { x with attempts := x.attempts + d.nAttempts, accepts := x.accepts + d.nAccepts,
               conflicts := x.conflicts + d.nConflicts, reverted := x.reverted + d.nReverted,
               refreshes := x.refreshes + d.nRefreshes, overLength := x.overLength + d.nOver,
               refreshBad := x.refreshBad + d.nRefreshBad })).modEng n (fun g =>
      { g with data := { g.data with nAttempts := 0, nAccepts := 0, nConflicts := 0, nReverted := 0, nRefreshes := 0,
                                     nOver := 0, nRefreshBad := 0 } })) s

/-- The flip log once the sweep is over: in a free-running run it keeps the exported changes that a part has not yet
seen (R231). -/
def keepLog (r : Run) (l : List LogMove) : List LogMove :=
  match r.freeRun, r.sys with
  | true, some x => (l.filter x.unseen).map (fun (m : LogMove) =>
      { m with past := true })
  | _, _ => []

/-- The engines of a run come to rest, and what is still on its way between its spans is over. -/
def State.restEngines (s : State) (r : Run) : State :=
  let s := s.drainRun r
  r.spans.foldl (fun st n => st.modEng n (fun g =>
    { g with phase := .idle, cont := none, unitStart := none, blockRecs := [], epochRecs := [], flits := [], marks := [],
             batches := [], inject := [], kept := [], stopped := false, limit := false, data := { g.data with log := keepLog r g.data.log } })) s

/-- Every live span has ended its sweep. -/
def State.sweepOver (s : State) (r : Run) : Bool :=
  !(s.liveOf r).isEmpty && (s.liveOf r).all (fun n => (s.eng n).phase = .flushed || (s.eng n).phase = .ended)

/-- A fenced span is still to be re-mapped before this settle (R435). -/
def State.remapWaits (s : State) (r : Run) : Bool :=
  !r.stops.spanLoss && !r.stops.limit &&
  (r.remapAt (r.k + 1) || ((s.liveOf r).any (fun n => (s.eng n).stopped) && !r.remap.isEmpty))

/-- Total sweeps of a run. -/
def Run.lastSweep (r : Run) (p : Problem) : Nat := (r.schedOf p).total

/-- The result of the sweep (Table 12.7). -/
def State.resultOf (s : State) (p : Problem) (r : Run) : Nat :=
  if r.stops.limit then 2
  else if r.stops.spanLoss then 3
  else if (s.liveOf r).any (fun n => (s.eng n).stopped) then 1
  else if s.stopsNow r && decide (r.sweep + 1 < r.lastSweep p) then 1
  else if (s.liveOf r).any (fun n => (s.eng n).phase = .ended) then 1
  else 0

/-- Every span has visited every block of the sweep, which counts as completed (R150). -/
def State.sweepDone (s : State) (r : Run) : Bool :=
  (s.liveOf r).all (fun n => (s.eng n).phase = .flushed && !(s.eng n).stopped && decide ((s.eng n).epoch + 1 = r.k))

/-- Step 2 of Table 5.5 within the module. A run that has lost a pair takes no settle (R438): its record keeps e_f and rescales of
the last settle too (entry 127). At the raise limit the causes in force give their flags (R172). -/
def State.settleLocal (s : State) (p : Problem) (r : Run) : State :=
  let result := s.resultOf p r
  let done := s.sweepDone r && decide (result ≤ 1)
  let s := if r.noSteps || result = 3 then s else (s.adoptAll p r).formTotals p r
  let untaken := decide (result = 2) || (decide (result = 1) && !(s.liveOf r).any (fun n => (s.eng n).stopped))
  let s := if untaken && s.stopsNow r then s.takeStops r.problem else s
  let s := (s.gatherCounts r).restEngines r
  s.modRun r.problem (fun x =>
    { x with sweepResult := result, swept := true, sweepsDone := if done then x.sweep + 1 else x.sweepsDone, exchanged := false,
             noSteps := x.noSteps || decide (result = 3) })

/-! ### Exact energies -/

/-- The terms that a part owns (R236): not the pairs with a ghost of an earlier part. -/
def ownTerms (p : Problem) : Problem :=
  match p.sys with
  | none => p
  | some y =>
    let earlier (v : Nat) : Bool := y.ghosts.any (fun g => g.local_ = v && decide (g.owner < y.part))
    { p with sparses := p.sparses.map (fun (l : List SparseEntry) => l.filter (fun e => !earlier e.row && !earlier e.src)) }

/-- The exact energy of every replica, own terms only (R149, R236). -/
def State.exactTotals (s : State) (p : Problem) (r : Run) : Store Int :=
  let q := ownTerms p
  Store.putAll 0 ((List.range p.nrep).map (fun k => (k, q.energyUnits (s.value p r k) r.ef))) []

/-- The home holds totals as its partials, and every other span none. -/
def State.setPartials (s : State) (r : Run) (totals : Store Int) : State :=
  let home := s.homeOf r
  (s.liveOf r).foldl (fun st n => st.modEng n (fun g =>
    { g with data := { g.data with partials := if n = home then totals else [] } })) s

/-! ### Steps 3 and 4 -/

/-- The field refresh of step 3 in span `n`: the state and the blocks refreshed; none at the raise limit. -/
def State.refreshSpan (s : State) (p : Problem) (r : Run) (n : Nat) : State × Bool :=
  let env := s.envOf p r n
  let g := s.eng n
  match env.unit (fun ef d => env.refreshAll ef d) unitTries g.ef g.data with
  | (ef, start, some (d, bad)) =>
    ((s.modEng n (fun x => { x with ef := ef, data := d, unitStart := some start })).raiseTimes (spnBlock n) 3 0 bad, true)
  | (ef, start, none) => (s.modEng n (fun x => { x with ef := ef, data := start, unitStart := none }), false)

/-- Every span returns to the start of the unit of work that found all of them at one point, and the run ends (R172). -/
def State.limitEverywhere (s : State) (p : Problem) (r : Run) : State :=
  let s := (s.liveOf r).foldl (fun st n => st.modEng n (fun g =>
    { g with data := g.unitStart.getD g.data, unitStart := none })) s
  let s := s.modRun r.problem (fun x => { x with stops := { x.stops with limit := true }, sweepResult := 2 })
  (s.adoptAll p r).formTotals p r

/-- Clear the starts of a unit of work. -/
def State.unitDone (s : State) (r : Run) : State :=
  (s.liveOf r).foldl (fun st n => st.modEng n (fun g => { g with unitStart := none })) s

/-- A refresh is due at the end of the sweep (R143, R148). -/
def Run.refreshAt (r : Run) (p : Problem) : Bool :=
  let c := r.schedOf p
  r.refreshAsked || (decide (c.refresh ≠ 0) && decide ((r.sweep + 1) % c.refresh = 0))

/-- Step 3 (R148). -/
def State.refreshStep (s : State) (p : Problem) (r : Run) : State :=
  let out := (s.liveOf r).foldl (fun (acc : State × Bool) n =>
    if acc.2 then acc.1.refreshSpan p r n else acc) (s, true)
  let s := out.1.modRun r.problem (fun x => { x with refreshAsked := false })
  if out.2 then ((s.unitDone r).adoptAll p r).formTotals p r else s.limitEverywhere p r

/-- An audit is due (R143, R147). -/
def Run.auditAt (r : Run) (p : Problem) : Bool :=
  let c := r.schedOf p
  decide (c.audit ≠ 0) && decide ((r.sweep + 1) % c.audit = 0)

/-- The tolerance of an audit is 0 (R147). -/
def auditExact (p : Problem) : Bool := !p.belowEf && p.lowranks.isEmpty && p.krons.isEmpty

/-- Σ|Δv| of a replica since the last audit. -/
def State.changedBy (s : State) (r : Run) (k : Nat) : Nat :=
  ((s.liveOf r).map (fun n => Store.get 0 k (s.eng n).data.changed)).sum

/-- The totals take audit values; the number of replicas whose difference passed the tolerance (R147). -/
def State.auditAgainst (s : State) (p : Problem) (r : Run) (vals : Store Int) (counts : Store Nat) : State × Nat :=
  let bad := ((List.range p.nrep).filter (fun k =>
    let tol : Int := if auditExact p then 0 else ((Store.get (0 : Nat) k counts : Nat) : Int) * 65536
    decide ((Store.get 0 k vals - Store.get 0 k r.totals).natAbs > tol.toNat))).length
  let home := s.homeOf r
  let s := s.modRun r.problem (fun x => { x with totals := vals, auditBad := x.auditBad + bad })
  let s := (s.liveOf r).foldl (fun st n => st.modEng n (fun g =>
    { g with data := { g.data with changed := [], partials := if n = home then vals else g.data.partials } })) s
  (if bad = 0 then s else s.raise (spnBlock home) 2 0, bad)

/-- Step 4 (R147). -/
def State.auditStep (s : State) (p : Problem) (r : Run) : State × Nat :=
  let reps := List.range p.nrep
  s.auditAgainst p r
    (Store.putAll 0 (reps.map (fun k => (k, p.energyUnits (s.value p r k) r.ef))) [])
    (Store.putAll 0 (reps.map (fun k => (k, s.changedBy r k))) [])

/-! ### Step 5 -/

/-- The least total and its replica, the lower replica on a tie. -/
def bestOf (nrep : Nat) (totals : Store Int) : Nat × Int :=
  (List.range nrep).foldl (fun m k => if Store.get 0 k totals < m.2 then (k, Store.get 0 k totals) else m)
    (0, Store.get 0 0 totals)

/-- `l` padded with zeros to a multiple of 64 bytes. -/
def pad64 (l : List Byte) : List Byte := l ++ List.replicate ((64 - l.length % 64) % 64) 0#8

/-- A state bitmap in the layout of R71. -/
def bitmapBytes (nvars : Nat) (x : Nat → Bool) : List Byte :=
  pad64 ((List.range (ceilDiv nvars 8)).map (fun i =>
    BitVec.ofNat 8 ((List.range 8).foldl (fun m k => if decide (8 * i + k < nvars) && x (8 * i + k) then m + 2 ^ k else m) 0)))

/-- Every span copies the deck words of a replica into its snapshot, and a rotating run keeps its best state (R146,
R213). -/
def State.snapshot (s : State) (p : Problem) (r : Run) (rep : Nat) : State :=
  let nums (n : Nat) : List Nat := (r.blocks.filter (fun b => b.span = n && b.replica = rep)).map (fun b => b.num)
  let s := (s.liveOf r).foldl (fun st n => st.modSpan n (fun x =>
    let words := (nums n).foldl (fun m k => Store.put 0#64 k (Store.get 0#64 k x.eng.data.deck) m) x.snap
    { (x.unpoison 4 (fun k => (nums n).contains k)) with snap := words })) s
  if p.windows > 1 then
    let vals : Store Bool := Store.putAll false ((List.range p.nvars).map (fun v => (v, s.value p r rep v))) []
    (s.modRun r.problem (fun x => { x with bestState := vals })).modProblem (p.id % 64) (fun (q : Problem) =>
      { q with bestArr := bitmapBytes p.nvars (fun v => Store.get false v vals) })
  else s

/-- Step 5 (R146): the state, and whether a new best was recorded; one is after tracking has restarted (R437). -/
def State.bestStep (s : State) (p : Problem) (r : Run) : State × Bool :=
  let b := bestOf p.nrep r.totals
  if r.bestSet && (r.bestLost || decide (b.2 < r.best)) then
    ((s.modRun r.problem (fun x =>
      { x with best := b.2, bestReplica := b.1, bestSweep := x.sweep + 1, newBest := true, bestLost := false })).snapshot
      p r b.1, true)
  else (s.modRun r.problem (fun x => { x with newBest := false }), false)

/-- A write to a range of the run's command that can fail later: the first failing address is the command's (R533). -/
def State.runWrite (s : State) (r : Run) (a : Nat) (l : List Byte) : State :=
  let bad := s.rangeFail a l.length
  let s := s.writeBytes a l
  match bad with
  | none => s
  | some x =>
    s.modExec r.ctx r.batch (fun e =>
      if e.serial = r.serial && e.lateFail.isNone then { e with lateFail := some x } else e)

/-- Bytes 0x00 to 0x0B of a settle entry, in 16 bytes (Table 9.3). -/
def energyBytes (v ef : Int) : List Byte :=
  leBytes 8 (unsignedOf 64 (fieldInt v)) ++ leBytes 2 (unsignedOf 16 (fieldComp v)) ++ leBytes 2 (unsignedOf 16 ef)
    ++ leBytes 4 0

/-- The sample slot of R285. -/
def State.sampleStep (s : State) (p : Problem) (r : Run) : State :=
  if r.sampleInterval = 0 || (r.sweep + 1) % r.sampleInterval ≠ 0 then s
  else
    let reps := List.range p.nrep
    let body := leBytes 8 (r.sweep + 1) ++ leBytes 2 (unsignedOf 16 r.ef) ++ List.replicate 54 0#8
      ++ pad64 (reps.flatMap (fun k => energyBytes (Store.get 0 k r.totals) r.ef))
      ++ reps.flatMap (fun k => bitmapBytes p.nvars (s.value p r k))
    let slot := r.sampleBuf + 64 + (r.sampleCount % max 1 r.sampleCap) * body.length
    let s := s.runWrite r slot body
    (s.runWrite r r.sampleBuf (leBytes 8 (r.sampleCount + 1))).modRun r.problem (fun x =>
      { x with sampleCount := x.sampleCount + 1 })

/-! ### Step 6 -/

/-- The replica that holds a ladder entry. -/
def Run.holder (r : Run) (nrep k : Nat) : Option Nat := (List.range nrep).find? (fun i => Store.get none i r.rungs = some k)

/-- An exchange is due (R118). -/
def Run.exchangeAt (r : Run) (p : Problem) : Bool :=
  let c := r.schedOf p
  c.exchange && decide (c.exchangeSweeps ≠ 0) && decide ((r.sweep + 1) % c.exchangeSweeps = 0)

/-- One exchange round (R118, R119): the run, and the pairs exchanged. -/
def Run.exchangeRound (r : Run) (p : Problem) : Run × Nat :=
  let c := r.schedOf p
  let pairs := (List.range (c.ladder.length - 1)).filter (fun k => k % 2 = r.rounds % 2)
  let out := pairs.foldl (fun (acc : Run × Nat) k =>
    match r.holder p.nrep k, r.holder p.nrep (k + 1) with
    | some a, some b =>
      let u := noiseAt r.keyLo r.keyHi k 5 (r.sweep % 2 ^ 32) 0 3 0
      let ok := exchangeAccepts (c.ladder.getD k betaZero) (c.ladder.getD (k + 1) betaZero) (Store.get 0 a r.totals)
        (Store.get 0 b r.totals) r.ef u
      let x := { acc.1 with rxAttempts := acc.1.rxAttempts + 1 }
      if ok then ({ x with rxAccepts := x.rxAccepts + 1,
                           rungs := Store.put none b (some k) (Store.put none a (some (k + 1)) x.rungs) }, acc.2 + 1)
      else (x, acc.2)
    | _, _ => acc) (r, 0)
  ({ out.1 with rounds := r.rounds + 1, exchanged := true }, out.2)

/-! ### Step 7: the end of a run -/

/-- Status of the record (Table 3.13, R88, R172, R438); that of a system run is the system's (R237). -/
def Run.status (r : Run) (complete : Bool) : Nat :=
  match r.sys.bind (fun x => x.status) with
  | some st => st
  | none =>
  if r.stops.limit then 4
  else if r.stops.spanLoss then 5
  else if complete then 0
  else if r.took.fault then 6
  else if r.took.abort || r.took.hung then 3
  else if r.took.stop then 2
  else 1

/-- Flags of the record (Table 3.12). -/
def Run.flags (r : Run) (complete : Bool) : Nat :=
  let sys := (r.sys.map (fun x => x.flags)).getD 0
  let fenced := r.remapped || r.restoredFenced || natBit sys 0
  let dl := r.took.deadline && !complete
  let ab := (r.took.abort || r.took.hung) && !complete
  let st := r.took.stop && !complete
  boolNat fenced + 2 * boolNat (fenced || r.freeRun || dl || ab || st || natBit sys 1)
    + 4 * boolNat (r.orderSens || natBit sys 2)
    + 8 * boolNat dl + 16 * boolNat ab + 32 * boolNat st + 64 * boolNat (decide (r.raises ≠ 0))
    + 128 * boolNat (decide (r.auditBad ≠ 0) || decide (r.refreshBad ≠ 0)) + 256 * boolNat (decide (r.overLength ≠ 0))
    + 512 * boolNat r.restored

/-- The first 0xFC bytes of the result record (Table 3.11). -/
def Run.recordHead (r : Run) (id : Nat) (complete : Bool) : List Byte :=
  leBytes 2 (r.status complete) ++ leBytes 2 (r.flags complete) ++ leBytes 2 (unsignedOf 16 r.ef) ++ leBytes 1 r.raises
    ++ leBytes 1 0 ++ leBytes 8 (unsignedOf 64 (fieldInt r.best)) ++ leBytes 2 (unsignedOf 16 (fieldComp r.best))
    ++ leBytes 2 r.bestReplica ++ leBytes 4 0 ++ leBytes 8 r.bestSweep ++ leBytes 8 r.sweepsDone ++ leBytes 8 r.attempts
    ++ leBytes 8 r.accepts ++ leBytes 4 r.rxAttempts ++ leBytes 4 r.rxAccepts ++ leBytes 8 r.conflicts
    ++ leBytes 8 r.reverted ++ leBytes 8 r.refreshes ++ leBytes 8 r.overLength ++ leBytes 4 r.auditBad
    ++ leBytes 4 r.refreshBad ++ leBytes 4 r.startSec ++ leBytes 4 r.startSub ++ leBytes 4 r.lastSec ++ leBytes 4 r.lastSub
    ++ leBytes 2 r.fencedSpans ++ leBytes 2 r.ctx ++ leBytes 4 r.tag ++ leBytes 4 r.keyLo.toNat ++ leBytes 4 r.keyHi.toNat
    ++ leBytes 4 r.rotations ++ leBytes 4 id ++ List.replicate 104 0#8 ++ leBytes 4 1

/-- The result record. -/
def Run.record_ (r : Run) (id : Nat) (complete : Bool) : List Byte :=
  let b := r.recordHead id complete
  b ++ leBytes 4 (crc32c b)

/-- The status and detail with which the run's command completes (R284, Table 10.5): HUNG when the hang limit ended the run
(R280), with the span mask of the command in place of the detail here. -/
def Run.commandStatus (r : Run) (complete : Bool) : Nat × Nat :=
  let st := r.status complete
  match st with
  | 0 | 1 | 2 => (0, st + r.flags complete * 2 ^ 16)
  | 3 => if r.took.hung && !r.took.abort then (0x14, 0) else (0x1B, 0)
  | 6 => (0x1C, 0)
  | _ => (0x17, st)

/-- The command of a run, or its batch descriptor, is done. -/
def State.finishRunCmd (s : State) (r : Run) (status detail : Nat) : State :=
  s.modExec r.ctx r.batch (fun e =>
    if isRunOp e.cmd.opcode && e.serial = r.serial then
      match e.phase with
      | .finished _ _ => e
      | _ => { e with phase := .finished status (if status = 0x14 then e.spansAll else detail) }
    else e)

/-- Change the executing commands of every context with an opcode that have work in progress and name a problem. -/
def State.endWaits (s : State) (op id : Nat) (f : Exec → Exec) : State :=
  { s with ctxs := Store.mapVals ctx0 (fun x =>
      { x with exec := x.exec.map (fun e =>
          if e.cmd.opcode = op && e.isWorking && e.num 0x10 4 = id then f e else e) }) s.ctxs }

/-- A context that has asked for the end of the batch task with this run (R289). -/
def State.batchEndAsked (s : State) (id : Nat) : Bool :=
  s.ctxs.any (fun cx => match cx.2.exec with
    | some e => e.cmd.opcode = 0x30 && e.isWorking && e.num 0x10 4 = id && natBit (e.num 0x14 1) 0
    | none => false)

/-- The run commands in execution: their problem ID and serial number. -/
def State.runCommands (s : State) : List (Nat × Nat) :=
  s.ctxs.flatMap (fun cx =>
    let one (ex : Option Exec) : List (Nat × Nat) :=
      match ex with
      | some e =>
        if (e.cmd.opcode = 0x12 || e.cmd.opcode = 0x14 || e.cmd.opcode = 0x17)
            && (e.isWorking || decide (e.phase = .started)) then [(e.num 0x10 4, e.serial)]
        else []
      | none => []
    one cx.2.exec ++ one (cx.2.batch.bind (fun t => t.cur)))

/-- A run of the problem that started before the command with this serial number has not ended (R281). -/
def State.runBefore (s : State) (id serial : Nat) : Bool :=
  s.runs.any (fun r => r.id = id) || s.runCommands.any (fun p => p.1 = id && decide (p.2 < serial))

/-- Complete the PFREEs whose last run has ended, and free what is marked: the problem is freed (R281). -/
def State.finishFrees (s : State) : State :=
  let s := s.ctxs.foldl (fun st cx =>
    match cx.2.exec with
    | some e =>
      if e.cmd.opcode = 0x11 && e.isWorking && !st.runBefore (e.num 0x10 4) e.serial then
        (st.freeProblem (e.num 0x10 4)).finishExec cx.1 false 0 0
      else st
    | none => st) s
  let waits (id : Nat) : Bool := s.ctxs.any (fun cx => match cx.2.exec with
    | some e => e.cmd.opcode = 0x11 && e.isWorking && e.num 0x10 4 = id
    | none => false)
  { s with problems := s.problems.filter (fun p => !(p.freeing && (s.run (p.id % 64)).isNone && !waits p.id)) }

/-- A record is written (R87): not for a run that FLR or a soft reset ended, nor for one that FAULT ended and whose spans
reported too late: outside the 100 µs from the FAULT entry (R7, R427). -/
def State.writesRecord (s : State) (r : Run) : Bool :=
  !r.stops.fault || inWindow s.flt.faultTick (100 * tickUs) s.now

/-- The values of every variable in the state array (R206). -/
def State.stateArray (s : State) (p : Problem) (r : Run) : Store Bool :=
  Store.putAll false ((List.range p.nrep).flatMap (fun rep =>
    (List.range p.nvars).map (fun v => (v * 256 + rep, s.value p r rep v)))) r.frozen

/-- The state array of a rotating problem takes values of every variable: a bitmap for each replica, laid out as those of INIT
(R71, R206). -/
def State.keepStates (s : State) (p : Problem) (arr : Store Bool) : State :=
  if p.windows ≤ 1 then s
  else s.modProblem (p.id % 64) (fun (q : Problem) => { q with
    stateArr := (List.range p.nrep).flatMap (fun k => bitmapBytes p.nvars (fun v => Store.get false (v * 256 + k) arr)) })

/-- The problems that do not run are re-placed for every fenced span that still holds blocks of theirs (R439, R440). -/
def State.replaceAll (s : State) : State := (spanIds.filter (fun n => s.spanFenced n)).foldl State.replaceIdle s

/-- The run ends (R87, R284): the record, with the counts of its last boundary, its command, the waits for it; the spans are free
of it, and its problem is re-placed (R440). -/
def State.finishRun (s : State) (p : Problem) (r : Run) (complete : Bool) : State :=
  let s := s.gatherCounts r
  let r := (s.run r.problem).getD r
  let writes := s.writesRecord r
  let s := if writes then s.runWrite r r.record (r.record_ p.id complete) else s
  let st := if writes then r.commandStatus complete else (0x1C, 0)
  let s := s.finishRunCmd r st.1 st.2
  let s := if s.batchEndAsked p.id then s.modCtx r.ctx (fun x =>
      { x with batch := x.batch.map (fun b => { b with ending := true }) }) else s
  let s := s.endWaits 0x30 p.id (fun e => { e with phase := .finished 0 0 })
  let s := s.endWaits 0x16 p.id (fun e => { e with phase := .finished 3 p.id })
  let s := spanIds.foldl (fun st n =>
    if (st.span n).bound = some r.problem then st.modSpan n (fun x => { x with bound := none, order := 0 }) else st) s
  let s := (s.restEngines r).keepStates p (s.stateArray p r)
  ({ s with runs := s.runs.filter (fun x => x.problem ≠ r.problem) }).replaceAll.finishFrees

/-- The run has come to the end of its schedule (R115, R88). -/
def Run.complete (r : Run) (p : Problem) : Bool := r.sweepResult = 0 && decide (r.lastSweep p ≤ r.sweepsDone)

/-- The run ends at step 7 (R143, R88): its schedule is over, the sweep ended early, or a stop cause is in force and no
exchange has been made at this boundary (R120). -/
def State.endsNow (s : State) (p : Problem) (r : Run) : Bool :=
  r.complete p || decide (r.sweepResult ≠ 0) || (s.stopsNow r && !r.exchanged)

end Sys2Proof.Machine
end

