-- ==== Sys2Proof/Machine/RunNext.lean ====
section
/-! DEFINITION. What a run does between its sweeps after step 7 of Table 5.5: row migration (R151, R152), window rotation
(R207-R213), β for the next sweep (R117), checkpoints (R287), and the re-map of a fenced span (R435-R438).
-/

namespace Sys2Proof.Machine

/-! ### Slots that change their variables -/

/-- Put values into the decks of the run's spans, for every slot of the rows (a slot without a variable holds 0). The words are
written whole (R359). -/
def State.loadDecks (s : State) (r : Run) (rows : List BlockRow) (x : Nat → Nat → Bool) : State :=
  let word (b : BlockRow) : Word := BitVec.ofNat 64 (b.vars.zipIdx.foldl (fun m q => match q.1 with
    | some v => if x b.replica v then m + 2 ^ q.2 else m
    | none => m) 0)
  r.spans.foldl (fun st n =>
    if st.spanFenced n then st
    else
      let mine := rows.filter (fun b => b.span = n)
      let deck := mine.foldl (fun d b => Store.put 0#64 b.num (word b) d) (st.eng n).data.deck
      (st.modEng n (fun g => { g with data := { g.data with deck := deck } })).modSpan n (fun x =>
        x.unpoison 2 (fun k => mine.any (fun b => b.num = k)))) s

/-- The shadow of every live span's buddy, a span of the run or not, takes the span's deck (R34); a buddy outside the run
goes on with the records of run epoch `next`. -/
def State.loadShadows (s : State) (r : Run) (next : Nat) : State :=
  (s.liveOf r).foldl (fun st n =>
    if st.spanFenced (n ^^^ 1) then st
    else
      let deck := (st.eng n).data.deck
      st.modSpan (n ^^^ 1) (fun x =>
        { x.unpoison 3 (fun _ => true) with
                 shadow := deck,
                 eng := if r.spans.contains (n ^^^ 1) then x.eng
                   else { x.eng with pairNext := next, pairFlits := [], pairMarks := [] } })) s

/-- Recompute exactly the fields of the blocks that a test picks, in every live span (R149, R152, R169, R209, R435): the
state, and false at the raise limit, where a span keeps the raises it made (R172). `factors` picks the sections of each span of which
z or Y^t is recomputed too. -/
def State.recomputeIn (s : State) (p : Problem) (r : Run) (factors : Nat → Factored → Bool) (pick : BlockRow → Bool) :
    State × Bool :=
  let out := (s.liveOf r).foldl (fun (acc : State × Bool) n =>
    let st := acc.1
    let env := st.envOf p r n
    let g := st.eng n
    let unit_ (ef : Int) (d : SpanData) : Try SpanData := do
      let d ← env.recomputeFactors (factors n) d
      env.recomputeBlocks ef pick d
    let st := (r.blocks.filter (fun b => b.span = n && pick b)).foldl (fun st b => st.fieldsWritten n b) st
    match env.unit unit_ unitTries g.ef g.data with
    | (ef, _, some d) => (st.modEng n (fun x => { x with ef := ef, data := d }), acc.2)
    | (ef, start, none) => (st.modEng n (fun x => { x with ef := ef, data := start }), false)) (s, true)
  (out.1.adoptAll p r, out.2)

/-- The run ends at the start of a recompute that met the raise limit in `t`, with the raises made there (R172). -/
def State.limitAs (s t : State) (p : Problem) (r : Run) : State :=
  ((s.liveOf r).foldl (fun st n => (st.adoptEf p r n (t.eng n).ef).modEng n (fun g =>
    { g with data := adoptEz (t.eng n).data.ez p.lowranks.length g.data })) s).limitEverywhere p r

/-! ### Row migration (R151, R152) -/

/-- A migration round is due (R143, R152). -/
def Run.migrateAt (r : Run) (p : Problem) : Bool := decide ((r.sweep + 1) % max 1 (r.schedOf p).migrate = 0)

/-- A span comes to hold variables of a factored section between two placements, active or frozen ones; the others keep their z
and Y^t (R212). -/
def newlyFactored (p q : Problem) (before after : List BlockRow) (n : Nat) (f : Factored) : Bool :=
  holdsFactored q after n f && !holdsFactored p before n f

/-- The ghosts of which a span comes to hold a coupling take the values that a span which held one has applied (R223;
entry 104). -/
def State.bringGhosts (s : State) (p q : Problem) (r : Run) (before after : List BlockRow) : State :=
  match p.sys with
  | none => s
  | some y => y.ghosts.foldl (fun st h =>
      let had := ghostHomes p before h.local_
      match had.find? (fun n => !s.spanFenced n), had.head? with
      | none, none => st
      | some m, _ | none, some m =>
        ((ghostHomes q after h.local_).filter (fun n => r.spans.contains n && !had.contains n)).foldl (fun st n =>
          st.modEng n (fun g => { g with ghosts := (List.range p.nrep).foldl (fun a k =>
            Store.put false (h.local_ * 256 + k) (Store.get false (h.local_ * 256 + k) (s.eng m).ghosts) a) g.ghosts })) st) s

/-- The tiles of blocks that hold other variables are rewritten (R60, R152). -/
def State.rewriteTiles (s : State) (p : Problem) (rows : List BlockRow) : State :=
  let new := ((rows.map (fun b => b.vars)).dedup.filter (fun l => !p.tiles.any (fun t => t.lanes = l))).map p.makeTile
  if new.isEmpty then s else s.modProblem (p.id % 64) (fun (q : Problem) => { q with tiles := q.tiles ++ new })

/-- Step 8 (R152): the state, and the round performed, none when there is none. At the raise limit the run ends where it
stood (R172). Slots that share a block with a moved slot are recomputed with it (entry 128). -/
def State.migrateStep (s : State) (p : Problem) (r : Run) : State × Option Nat :=
  match migratingIn p r.window with
  | [] => (s, none)
  | first :: _ =>
    if !r.migrateAt p then (s, none)
    else
      let k := (r.sweep + 1) / max 1 (r.schedOf p).migrate
      let rows := atRound p r.window (some k) r.blocks
      let moved (b : BlockRow) : Bool := r.blocks.all (fun o => !(o.span = b.span && o.num = b.num && o.vars = b.vars))
      let x (rep v : Nat) : Bool := s.value p r rep v
      let r2 := { r with blocks := rows, round := some k }
      let t := ((s.modRun r.problem (fun _ => r2)).loadDecks r2 rows x).loadShadows r2 ((r.sweep + 1) * r.k)
      let t := (t.bringGhosts p p r2 r.blocks rows).rewriteTiles p rows
      match t.recomputeIn p r2 (newlyFactored p p r.blocks rows) moved with
      | (t, true) => (t, some (k % (first.labels.length - 1)))
      | (t, false) => (s.limitAs t p r, none)

/-! ### Window rotation (R207-R213) -/

/-- W of R207. -/
def Run.windowLength (r : Run) : Nat := if r.windowSweeps = 0 then 256 else r.windowSweeps

/-- Step 9: the state, and the window active after it (R207-R210). -/
def State.rotateStep (s : State) (p : Problem) (r : Run) : State × Nat :=
  if p.windows ≤ 1 || (r.sweep + 1) % r.windowLength ≠ 0 then (s, r.window)
  else
    let a := r.activation + 1
    let w := p.order.getD (a % max 1 p.order.length) 0
    if w = r.window then (s.modRun r.problem (fun x => { x with activation := a }), w)
    else
      let arr := s.stateArray p r
      let placed := placedBlocks p w
      let r2 := { r with blocks := placed.1, frozen := arr, window := w, round := none, activation := a,
                         rotations := r.rotations + 1 }
      let x (rep v : Nat) : Bool := Store.get false (v * 256 + rep) arr
      let t := ((s.modRun r.problem (fun _ => r2)).loadDecks r2 placed.1 x).loadShadows r2 ((r.sweep + 1) * r.k)
      let t := (t.keepStates p arr).bringGhosts p p r2 r.blocks placed.1
      let t := (t.liveOf r2).foldl (fun st n => st.modEng n (fun g =>
        { g with data := { g.data with counts := [], attempts := [] } })) t
      match t.recomputeIn p r2 (newlyFactored p p r.blocks placed.1) (fun _ => true) with
      | (t, true) => (t, w)
      | (t, false) => (s.limitAs t p r, r.window)

/-! ### Step 10 and checkpoints -/

/-- β of every replica for a sweep (R117). -/
def Run.betasFor (r : Run) (p : Problem) (sweep : Nat) : Store Beta :=
  Store.putAll betaZero ((List.range p.nrep).map (fun k => (k, (r.schedOf p).beta k sweep (Store.get none k r.rungs)))) []

/-- A checkpoint is due after step 10 of the boundary that ends sweep `w` (R287). -/
def Run.checkpointAt (r : Run) (w : Nat) : Bool :=
  decide (r.ckptArea ≠ 0) && (r.ckptAsked || (decide (r.ckptSweeps ≠ 0) && decide ((w + 1) % r.ckptSweeps = 0)))

/-- The first 0x3C bytes of a checkpoint header (Table 10.11). -/
def ckptHead (p : Problem) (r : Run) (seq bodyLen bodyCrc : Nat) : List Byte :=
  leBytes 4 0x504B4351 ++ leBytes 2 1 ++ leBytes 2 0 ++ leBytes 8 seq ++ leBytes 4 p.imageCrc ++ leBytes 4 p.id
    ++ leBytes 8 r.sweepsDone ++ leBytes 4 r.keyLo.toNat ++ leBytes 4 r.keyHi.toNat ++ leBytes 2 r.sched
    ++ leBytes 2 (r.windowLength % 2 ^ 16) ++ leBytes 4 r.activation ++ leBytes 8 bodyLen ++ leBytes 4 bodyCrc

/-- The slot of the run's next checkpoint (R287). -/
def Run.ckptSlot (r : Run) (p : Problem) : Nat := r.ckptArea + r.ckptSeq % 2 * (p.ckptUnits * 4096)

/-- The spans begin to write a checkpoint (R287): its slot is valid no more, and the body goes over it. The length and the bytes
of the body are open, so they are free values; the model keeps what the body stands for (entry 24). -/
def State.ckptBegin (s : State) (p : Problem) (r : Run) : State :=
  let seq := r.ckptSeq + 1
  let d := s.drawWord
  let len := d.1.toNat % (p.ckptUnits * 4096 - 63)
  let b := d.2.drawBytes len
  let s := b.2
  let head := ckptHead p r seq len (crc32c b.1)
  let s := s.runWrite r (r.ckptSlot p) (List.replicate 64 0#8 ++ b.1)
  let kept : Ckpt :=
    { header := head ++ leBytes 4 (crc32c head), firmware := s.sec.svImage, run := { r with ckptSeq := seq, ckptAsked := false },
      datas := r.spans.map (fun n => (n, (s.eng n).data)), shadows := r.spans.map (fun n => (n, (s.span n).shadow)),
      snaps := r.spans.map (fun n => (n, (s.span n).snap)) }
  let s := { s with ckpts := s.ckpts.filter (fun c => !Ckpt.isNext r c) ++ [kept] }
  s.modRun r.problem (fun x => { x with ckptOpen := some false })

/-- The checkpoint is written (R287): its header makes the slot valid, and the CKPTs that wait for it complete. One that a fence has
abandoned has none (R437). -/
def State.ckptClose (s : State) (p : Problem) (r : Run) : State :=
  match s.ckpts.find? (Ckpt.isNext r) with
  | none => s.modRun r.problem (fun x => { x with ckptOpen := none })
  | some c =>
    ((s.runWrite r (r.ckptSlot p) c.header).modRun r.problem (fun x =>
      { x with ckptSeq := x.ckptSeq + 1, ckptAsked := false, ckptOpen := none })).endWaits 0x16 p.id
        (fun e => { e with phase := .finished 0 0 })

/-- Step 10, and the beginning of the checkpoint that follows it. -/
def State.nextStep (s : State) (p : Problem) (r : Run) : State :=
  let w := r.sweep
  let s := s.modRun r.problem (fun x => { x with sweep := w + 1, betas := x.betasFor p (w + 1), newBest := false })
  match r.checkpointAt w, s.run r.problem with
  | true, some x => s.ckptBegin p x
  | _, _ => s

/-! ### The re-map (R435-R438) -/

/-- The buddy of fenced span `f` has applied to its shadow what `f` sent, when it is a span of another run or of none: its flits and
markers up to the last that `f`'s router accepted (R434, R435). -/
def State.shadowReady (s : State) (r : Run) (f : Nat) : Bool :=
  let b := f ^^^ 1
  r.spans.contains b || s.spanFenced b ||
    (decide (r.sweep * r.k + (s.eng f).sent ≤ (s.eng b).pairNext)
      && !s.mesh.vc1.any (fun m => m.src = f && m.dests.contains b))

/-- Every live span waits at the re-map boundary, or has made the last flush before it, and every shadow is up to date. -/
def State.remapReady (s : State) (r : Run) : Bool :=
  let live := s.liveOf r
  r.remap.all (fun q => s.shadowReady r q.1) &&
  !live.isEmpty && !r.remap.isEmpty && !r.stops.spanLoss && !r.stops.limit &&
  (live.all (fun n => (s.eng n).phase = .held) ||
   (live.all (fun n => (s.eng n).phase = .flushed) && s.remapWaits r))

/-- The value of a variable of fenced span `f` as its buddy's shadow holds it. -/
def State.shadowValue (s : State) (f num lane : Nat) : Bool :=
  (Store.get 0#64 num (s.span (f ^^^ 1)).shadow).getLsbD lane

/-- The newest fence entry of a block's history, counted from the oldest entry. -/
def FltIf.fenceEntry (f : FltIf) : Option Nat :=
  ((List.range f.valid).reverse).find? (fun k =>
    let e := Store.get hist0 ((f.oldest + k) % 8) f.hist
    decide (e.severity = 2) || e.mandatory)

/-- The block whose history holds the entry of span `f`'s fence: its own, or the mesh's where the fence is that of its router
(R380, R436). -/
def State.fenceBlock (s : State) (f : Nat) : BlockId :=
  if s.routerFailed (spanRouter f) && ((s.block (spnBlock f)).fenceEntry).isNone then .mesh else spnBlock f

/-- Set the detail of the newest fence entry of a block's history (R436). -/
def FltIf.setFenceDetail (f : FltIf) (detail : Nat) : FltIf :=
  match f.fenceEntry with
  | some k =>
    let j := (f.oldest + k) % 8
    { f with hist := Store.put hist0 j { Store.get hist0 j f.hist with detail := detail } f.hist }
  | none => f

/-- Move the blocks of one fenced span (R436): the run and the count of blocks that found no room, whose values freeze. -/
def State.remapSpan (s : State) (r : Run) (f : Nat) : Run × List BlockRow × Nat :=
  let hosts := hostsFor r.spans (fun k => s.spanFenced k) f
  let old := r.blocks.filter (fun b => b.span = f)
  let m := moveBlocks f hosts r.blocks
  let vals := old.flatMap (fun b => b.vars.zipIdx.filterMap (fun q =>
    q.1.map (fun v => (v * 256 + b.replica, s.shadowValue f b.num q.2))))
  ({ r with blocks := m.1, frozen := Store.putAll false vals r.frozen }, old, m.2.length)

/-- The shadows of the hosts' buddies take the deck words of the re-mapped blocks (R436). -/
def State.shadowWords (s : State) (rows : List BlockRow) : State :=
  rows.foldl (fun st b =>
    if st.spanFenced (b.span ^^^ 1) then st
    else
      let w := Store.get 0#64 b.num (st.eng b.span).data.deck
      st.modSpan (b.span ^^^ 1) (fun x => { x with shadow := Store.put 0#64 b.num w x.shadow })) s

/-- SPAN_REMAP at the re-map boundary (R435-R437), or the end of the run at the raise limit (R172). The hosts recompute the z and
Y^t of the sections of their new blocks, active or frozen ones. Best-state tracking restarts; in a system run it does at the next settle (entry 108). -/
def State.remap (s : State) (p : Problem) (r : Run) : State :=
  let fs := sortNats ((r.remap.map Prod.fst).dedup)
  let lost := fs.foldl (fun (acc : State × Run) f =>
    let m := acc.1.remapSpan acc.2 f
    (acc.1.modBlock (acc.1.fenceBlock f) (fun x => x.setFenceDetail m.2.2), m.1)) (s, r)
  let r2 := { lost.2 with remap := [], remapped := true }
  let isNew (b : BlockRow) : Bool := !r.blocks.any (fun o => o.span = b.span && o.num = b.num)
  let x (rep v : Nat) : Bool := Store.get false (v * 256 + rep) r2.frozen
  let ef := fs.foldl (fun m f => max m (s.eng f).sentEf) ((s.liveOf r).foldl (fun m n => max m (s.eng n).ef) r.ef)
  let s := lost.1.modRun r.problem (fun _ => r2)
  let s := (s.loadDecks r2 (r2.blocks.filter isNew) x).shadowWords (r2.blocks.filter isNew)
  let s := (s.liveOf r2).foldl (fun st n => (st.adoptEf p r2 n ef).modEng n (fun g =>
    { g with data := { g.data with
        attempts := (r2.blocks.filter (fun b => b.span = n && isNew b)).foldl (fun a b =>
          (List.range 64).foldl (fun a k => Store.put 0 (b.num * 64 + k) 0 a) a) g.data.attempts } })) s
  let s := fs.foldl (fun st f => st.modProblem r.problem (fun (q : Problem) =>
    { q with replaced := q.replaced ++ [(f, hostsFor r.spans (fun k => st.spanFenced k) f)] })) s
  let q := (s.problem r.problem).getD p
  let s := s.bringGhosts p q r2 r.blocks r2.blocks
  let touched (n : Nat) (f : Factored) : Bool :=
    holdsFactored { p with windows := 0 } (r2.blocks.filter isNew) n f || newlyFactored p q r.blocks r2.blocks n f
  match s.recomputeIn p r2 touched isNew with
  | (s, false) =>
    let s := s.modRun r.problem (fun q => { q with stops := { q.stops with limit := true }, noSteps := true })
    (s.liveOf r2).foldl (fun st n => st.endWork n) s
  | (s, true) =>
    match s.run r.problem with
    | none => s
    | some q =>
      let totals := s.exactTotals p q
      let s := s.setPartials q totals
      let b := bestOf p.nrep totals
      let s := if p.sys.isSome then s.modRun r.problem (fun z => { z with totals := totals, bestLost := true })
        else (s.modRun r.problem (fun z =>
          { z with totals := totals, bestSet := true, best := b.2, bestReplica := b.1, bestSweep := z.sweep + 1 })).snapshot p q b.1
      (s.liveOf q).foldl (fun st n =>
        if (st.eng n).phase = .held then
          match st.run r.problem with
          | some z => st.nextEpoch p z n
          | none => st
        else st) s

end Sys2Proof.Machine
end

