-- ==== Sys2Proof/Machine/RunStart.lean ====
section
/-! DEFINITION. The start of a run: the run block (R283, R339, Table 10.7), the first state (R102, R149), and the
continuation from a checkpoint (R155, R215, R288).
-/

namespace Sys2Proof.Machine

/-! ### The run block -/

/-- Flags of a run block: the key comes from the DRBG. A RESTORE takes the key of its checkpoint. -/
def drawsKey (b : List Byte) : Bool := natBit (numAt b 0x15 1) 0 && decide (numAt b 0 1 ≠ 0x17)

/-- The key of a run block in this part (R226). -/
def blockKeyHi (p : Problem) (hi : Nat) : BitVec 32 :=
  match p.sys with
  | some y => BitVec.ofNat 32 hi ^^^ BitVec.ofNat 32 (y.part * 2 ^ 20)
  | none => BitVec.ofNat 32 hi

/-- The system side of a run that starts (R227). -/
def sysRun0 (now : Nat) : SysRun :=
  { stage := .ready, first := true, ready := [], started := none, starts := [], initIn := [], initVals := [],
    epochMarks := [], sweepEnds := [], undoEnds := [], arrived := [], settleUp := [], kidsIn := [], settleDone := none, ladderIn := 0,
    endCause := 0, causeEpoch := 0, causeForwarded := false, out := [], sentRecs := [], epochBatches := [], sweepBatches := [], undoBatches := [],
    recvRecs := [], seen := [], closed := 0, closedUndo := 0, endEf := [], audit := [], auditCount := [], flags := 0,
    waiting := none, waitFrom := now, alone := false, refreshed := false, auditBad := false, status := none }

/-- The rows that the windows of a problem take at load and in their migration rounds. -/
def windowRows (p : Problem) : List (List BlockRow) := (List.range (max 1 p.windows)).flatMap (roundRows p)

/-- K of R122 and R211, with the colours' ends (R133). -/
def epochPlan (p : Problem) (c : Sched) : Nat × List (Nat × Nat) :=
  if c.coloured then
    let e := colourEndsOf c.blocksPerEpoch (windowRows p)
    (max 1 (e.foldl (fun m q => max m q.2) 0), e)
  else
    (max 1 (epochsFor c.blocksPerEpoch ((windowRows p).flatMap (fun rows =>
      spanIds.map (fun n => (homeList rows n none).length)))), [])

/-- A run of a block before anything of it has been computed (Table 10.7), by context, command and key. -/
def Run.ofBlock (p : Problem) (b : List Byte) (ctx serial : Nat) (batch : Bool) (lo hi : BitVec 32) (now : Nat) : Run :=
  let sched := numAt b 0x14 1
  let c := p.scheds.getD sched default
  let plan := epochPlan p c
  let w := p.order.getD 0 0
  let smp := decide (numAt b 0 1 = 0x14)
  { problem := p.id % 64, id := p.id, ctx := ctx, tag := numAt b 4 4, serial := serial, batch := batch, packet := b,
    sched := sched, windowSweeps := numAt b 0x16 2, record := numAt b 0x20 8, deadlineUs := numAt b 0x28 4,
    ckptSweeps := numAt b 0x2C 4, ckptArea := numAt b 0x30 8, ckptSeq := 0, ckptAsked := false, keyLo := lo, keyHi := hi,
    spans := problemSpans p, blocks := (placedBlocks p w).1, k := plan.1, colourEnds := plan.2, sweep := 0,
    startTick := 0, startSec := 0, startSub := 0, begun := false, betas := [], rungs := [], rounds := 0, totals := [],
    ef := p.ef, raises := 0, bestSet := false, best := 0, bestReplica := 0, bestSweep := 0, newBest := false,
    sweepsDone := 0, rxAttempts := 0, rxAccepts := 0, auditBad := 0, attempts := 0, accepts := 0, conflicts := 0,
    reverted := 0, refreshes := 0, overLength := 0, refreshBad := 0, stops := stops0, took := stops0, fencedSpans := 0,
    rotations := 0, activation := 0, window := w, round := none, frozen := [], bestState := [], restored := false,
    restoredFenced := false, remapped := false, ckptOpen := none,
    freeRun := match p.sys with
      | some y => !y.locked
      | none => false,
    orderSens := false, refreshAsked := false, sampleBuf := if smp then numAt b 0x40 8 else 0,
    sampleInterval := if smp then numAt b 0x48 4 else 0, sampleCap := if smp then numAt b 0x4C 4 else 0, sampleCount := 0,
    sweepResult := 0, starting := true, swept := false, lastSec := 0, lastSub := 0, exchanged := false, noSteps := false, bestLost := false,
    remap := [],
    sys := p.sys.map (fun _ => sysRun0 now) }

/-- The replica that each ladder entry starts with (R118): replica i takes the entry that its REPLICA entry names. -/
def startRungs (p : Problem) (c : Sched) : Store (Option Nat) :=
  Store.putAll none ((List.range p.nrep).map (fun i =>
    let e := c.reps.getD i default
    (i, if c.exchange && e.ladder then some e.index else none))) []

/-! ### Steps of R149 -/

/-- The engines of the run's spans at its start, and the binding. What a span has of a buddy of another run, whose deck it
shadows, stays (R34). -/
def State.placeRun (s : State) (p : Problem) (r : Run) : State :=
  let ez : Store Int := Store.putAll 0 (p.lowranks.zipIdx.map (fun q => (q.2, q.1.ez))) []
  r.spans.foldl (fun st n => st.modSpan n (fun x =>
    { x with bound := some r.problem, order := 1,
             eng := { engine0 with ef := r.ef, pairFlits := x.eng.pairFlits, pairMarks := x.eng.pairMarks,
                                   pairNext := x.eng.pairNext,
                                   data := { spanData0 with deck := x.eng.data.deck, fields := x.eng.data.fields, ez := ez } } }))
    { s with runs := s.runs ++ [r] }

/-- Step 1 of R149: the values of every variable, in the decks and in the array of the others. -/
def State.firstState (s : State) (p : Problem) (r : Run) : State :=
  let x (rep v : Nat) : Bool := firstValue p r.keyLo r.keyHi rep v
  let all : Store Bool := Store.putAll false ((List.range p.nrep).flatMap (fun rep =>
    (List.range p.nvars).map (fun v => (v * 256 + rep, x rep v)))) []
  let r := { r with frozen := all, rungs := startRungs p (r.schedOf p) }
  (((s.placeRun p r).loadDecks r r.blocks x).loadShadows r (r.sweep * r.k)).keepStates p all

/-- Step 4 of R149, from the totals: the first best, of sweep 0. -/
def State.firstBest (s : State) (p : Problem) (r : Run) : State :=
  let b := bestOf p.nrep r.totals
  (s.modRun r.problem (fun x =>
    { x with bestSet := true, best := b.2, bestReplica := b.1, bestSweep := 0 })).snapshot p r b.1

/-- Steps 2 and 3 of R149; at the raise limit the run has no totals and no best (R172). -/
def State.firstFields (s : State) (p : Problem) (r : Run) : State :=
  match s.recomputeIn p r (fun _ _ => true) (fun _ => true) with
  | (s, false) => s.modRun r.problem (fun x => { x with stops := { x.stops with limit := true }, noSteps := true })
  | (s, true) =>
    match s.run r.problem with
    | none => s
    | some r =>
      let totals := s.exactTotals p r
      (s.setPartials r totals).modRun r.problem (fun x => { x with totals := totals })

/-- Step 5 of R149. -/
def State.firstBetas (s : State) (p : Problem) (q : Nat) : State :=
  s.modRun q (fun x => { x with betas := x.betasFor p x.sweep })

/-- Steps 2 to 5 of R149 in a run of one module. -/
def State.formStart (s : State) (p : Problem) (r : Run) : State :=
  let s := s.firstFields p r
  let s := match s.run r.problem with
    | some x => if x.noSteps then s else s.firstBest p x
    | none => s
  s.firstBetas p r.problem

/-! ### Checkpoints (R155, R215, R288) -/

/-- The header of a checkpoint slot whose CRCs are valid. -/
def State.validSlot (s : State) (size a : Nat) : Option (List Byte) :=
  let h := s.readBytes a 64
  let len := numAt h 0x30 8
  if numAt h 0 4 = 0x504B4351 && numAt h 4 2 = 1 && crc32c (h.take 0x3C) = numAt h 0x3C 4 && decide (len ≤ size - 64)
      && crc32c (s.readBytes (a + 64) len) = numAt h 0x38 4 then
    some h
  else none

/-- The checkpoint that a RESTORE of the problem uses (R288): of the valid slot with the higher sequence, if this
firmware's version wrote it for the same image. A slot that the model did not write is another firmware's (entry 24). -/
def State.ckptFor (s : State) (p : Problem) (area : Nat) : Option Ckpt :=
  let size := p.ckptUnits * 4096
  let seq (h : List Byte) : Nat := numAt h 8 8
  let pick := match s.validSlot size area, s.validSlot size (area + size) with
    | some a, some b => some (if seq a < seq b then b else a)
    | some a, none => some a
    | none, b => b
  pick.bind (fun h =>
    if numAt h 0x10 4 = p.imageCrc then s.ckpts.find? (fun c => c.header = h && c.firmware = s.sec.svImage) else none)

/-- The data of a span in a checkpoint. -/
def Ckpt.dataOf (c : Ckpt) (n : Nat) : SpanData := ((c.datas.find? (fun q => q.1 = n)).map Prod.snd).getD spanData0

/-- The value of a variable in a checkpoint. -/
def Ckpt.value (c : Ckpt) (rep v : Nat) : Bool :=
  match findSlot c.run.blocks v rep with
  | some (n, num, lane) => (c.dataOf n).bit (num * 64 + lane)
  | none => Store.get false (v * 256 + rep) c.run.frozen

/-- The attempt number of a variable in a checkpoint. -/
def Ckpt.attempt (c : Ckpt) (rep v : Nat) : Nat :=
  match findSlot c.run.blocks v rep with
  | some (n, num, lane) => Store.get 0 (num * 64 + lane) (c.dataOf n).attempts
  | none => 0

/-- The snapshot's value of a variable in a checkpoint. -/
def Ckpt.snapValue (c : Ckpt) (v : Nat) : Bool :=
  match findSlot c.run.blocks v c.run.bestReplica with
  | some (n, num, lane) =>
    (Store.get 0#64 num (((c.snaps.find? (fun q => q.1 = n)).map Prod.snd).getD [])).getLsbD lane
  | none => false

/-- The blocks of a window in a migration round. -/
def rowsAt (p : Problem) (window : Nat) (round : Option Nat) : List BlockRow :=
  atRound p window round (placedBlocks p window).1

/-- The run that RESTORE resumes, on the placement of the present load. -/
def Ckpt.resume (c : Ckpt) (p : Problem) (r : Run) (now : Nat) : Run :=
  let o := c.run
  let plan := epochPlan p (p.scheds.getD o.sched default)
  { o with problem := r.problem, id := r.id, ctx := r.ctx, tag := r.tag, serial := r.serial, batch := r.batch,
           packet := r.packet, windowSweeps := if r.windowSweeps = 0 then o.windowSweeps else r.windowSweeps,
           record := r.record, deadlineUs := r.deadlineUs, ckptSweeps := r.ckptSweeps, ckptArea := r.ckptArea,
           spans := problemSpans p, blocks := rowsAt p o.window o.round,
           k := plan.1, colourEnds := plan.2, begun := false, stops := stops0, took := stops0, restored := true, starting := true, swept := false,
           sweepResult := 0,
           sampleBuf := 0, sampleInterval := 0, sampleCap := 0, sampleCount := 0, remap := [], exchanged := false,
           ckptOpen := none,
           sys := p.sys.map (fun _ => sysRun0 now) }

/-- The e_z of a section that a checkpoint holds (R175): the greatest of its spans, since one that was fenced adopts no more. -/
def Ckpt.ezOf (c : Ckpt) (k : Nat) : Int :=
  match c.datas.map (fun q => Store.get 0 k q.2.ez) with
  | [] => 0
  | a :: l => l.foldl max a

/-- Load the values of a checkpoint into the slots of another placement. -/
def State.loadCkpt (s : State) (p : Problem) (c : Ckpt) (r : Run) : State :=
  let s := (s.loadDecks r r.blocks c.value).loadShadows r (r.sweep * r.k)
  (s.liveOf r).foldl (fun st n =>
    let mine := r.blocks.filter (fun b => b.span = n)
    let atts := mine.flatMap (fun b => b.vars.zipIdx.filterMap (fun q => q.1.map (fun v =>
      (b.num * 64 + q.2, c.attempt b.replica v))))
    let words := (mine.filter (fun b => b.replica = r.bestReplica)).map (fun b =>
      (b.num, (BitVec.ofNat 64 (b.vars.zipIdx.foldl (fun m q => match q.1 with
        | some v => if c.snapValue v then m + 2 ^ q.2 else m
        | none => m) 0) : Word)))
    let ez : Store Int := Store.putAll 0 ((List.range p.lowranks.length).map (fun k => (k, c.ezOf k))) []
    st.modSpan n (fun x =>
      { x.unpoison 4 (fun _ => true) with
               snap := Store.putAll 0#64 words x.snap,
               eng := { x.eng with data := { x.eng.data with attempts := Store.putAll 0 atts [], ez := ez } } })) s

/-- Resume the run `r` from a checkpoint (R155, R215): with the blocks where they were, everything is as it was; else the
values are loaded and every field is computed exactly (entry 24). -/
def State.restoreRun (s : State) (p : Problem) (c : Ckpt) (r : Run) : State :=
  let fenced := c.run.spans.any (fun n => s.spanFenced n)
  let r := { r with restoredFenced := fenced || c.run.restoredFenced }
  let s := (s.placeRun p r).keepStates p r.frozen
  let s := s.modProblem r.problem (fun (q : Problem) => { q with
    bestArr := if p.windows ≤ 1 then q.bestArr else bitmapBytes p.nvars (fun v => Store.get false v r.bestState) })
  if r.blocks = c.run.blocks then
    (r.spans.foldl (fun st n => st.modSpan n (fun x =>
      { x.unpoison 4 (fun _ => true) with
               shadow := ((c.shadows.find? (fun q => q.1 = n)).map Prod.snd).getD [],
               snap := ((c.snaps.find? (fun q => q.1 = n)).map Prod.snd).getD [],
               eng := { x.eng with ef := r.ef, data := c.dataOf n } })) (r.blocks.foldl (fun (st : State) b => st.fieldsWritten b.span b)
        (s.loadDecks r r.blocks c.value))).loadShadows r (r.sweep * r.k)
  else
    let t := (s.loadCkpt p c r).setPartials r r.totals
    match t.recomputeIn p r (fun _ _ => true) (fun _ => true) with
    | (t, true) => t
    | (t, false) => t.modRun r.problem (fun x => { x with stops := { x.stops with limit := true }, noSteps := true })

end Sys2Proof.Machine
end

