-- ==== Sys2Proof/Machine/System.lean ====
section
/-! DEFINITION. A system run in one part (09): the start (R227), records and markers that arrive (R228-R234), the settle
(R235, R236), end causes (R234), and the end of a wait (R241).
-/

namespace Sys2Proof

/-- Base address of the settle area. -/
def SysDesc.settleAt (y : SysDesc) : Nat := y.settleBase * 0x10000

/-- The position of a part among its parent's children. -/
def SysDesc.placeOf (y : SysDesc) : Nat :=
  (((List.range y.parts.length).filter (fun k => decide (k ≠ 0) && y.parentOf k = y.parentOf y.part)).idxOf y.part)

end Sys2Proof

namespace Sys2Proof.Machine

/-- The part at a module. -/
def partAt (y : SysDesc) (module : Nat) : Option Nat := (y.parts.zipIdx.find? (fun q => q.1.1 = module)).map Prod.snd

/-- The run in execution of a system run number, with its problem, descriptor and system side. -/
def State.sysRunOf (s : State) (num : Nat) : Option (Problem × SysDesc × Run × SysRun) :=
  s.runs.findSome? (fun r => match s.problem r.problem with
    | some p => match p.sys, r.sys with
      | some y, some x => if y.sysRun = num then some (p, y, r, x) else none
      | _, _ => none
    | none => none)

/-- The run of a problem slot, with its problem, descriptor and system side. -/
def State.sysOf (s : State) (q : Nat) : Option (Problem × SysDesc × Run × SysRun) :=
  match s.problem q, s.run q with
  | some p, some r => match p.sys, r.sys with
    | some y, some x => some (p, y, r, x)
    | _, _ => none
  | _, _ => none

/-! ### End causes (R234) -/

/-- Send an end cause to parts. -/
def State.sendCause (s : State) (y : SysDesc) (r : Run) (parts : List Nat) (cause epoch : Nat) : State :=
  ((parts.filter (· ≠ y.part)).dedup).foldl (fun st d => st.sendMarker y d 0 (partMarker epoch 0 0 cause (st.partEf r))) s

/-- The part ends its run for a cause of its own: it tells every destination part and every neighbour. -/
def State.endPart (s : State) (y : SysDesc) (r : Run) (cause epoch : Nat) : State :=
  (s.modSys r.problem (fun x => { x with endCause := cause, causeEpoch := epoch })).sendCause y r
    (y.destParts ++ y.neighbours) cause epoch

/-- An end cause arrives from a part: it is taken, and the first that comes from a neighbour goes on to the other neighbours. A
later one can only bring the end forward: no records come of the epochs after it. -/
def State.takeCause (s : State) (y : SysDesc) (r : Run) (x : SysRun) (part : Nat) (m : Marker) : State :=
  if m.cause = 0 then s
  else
    let s := s.modSys r.problem (fun z =>
      if z.endCause ≠ 0 then { z with causeEpoch := min z.causeEpoch m.number.toNat }
      else { z with endCause := m.cause.toNat, causeEpoch := m.number.toNat })
    if y.neighbours.contains part && !x.causeForwarded then
      (s.modSys r.problem (fun z => { z with causeForwarded := true })).sendCause y r (y.neighbours.filter (· ≠ part))
        m.cause.toNat m.number.toNat
    else s

/-- A stop cause of the run's own is in force. -/
def Stops.own (t : Stops) : Bool := t.limit || t.spanLoss || t.now

/-- Once every span of the part has stopped, or ended its work at the raise limit or with a lost pair, the part ends its run
(R234): the records of the epochs that its spans have ended go out, and then the cause, with the epoch after them. -/
def State.noteCause (s : State) (p : Problem) (y : SysDesc) (r : Run) (x : SysRun) : State :=
  let live := s.liveOf r
  if decide (x.stage = .running) && x.endCause = 0 && (live.any (fun n => (s.eng n).stopped || decide ((s.eng n).phase = .ended))
      || (live.isEmpty && r.stops.spanLoss)) && s.allStopped r then
    (s.closeEpochs p r.problem (r.k + 1)).endPart y r r.ownCause (r.sweep * r.k + s.lastSent r)
  else s

/-! ### The start (R227) -/

/-- The mismatch field of the part's subtree. -/
def subtreeMismatch (p : Problem) (r : Run) (x : SysRun) : Nat :=
  (x.ready.flatMap (fun q =>
    (if q.2.replicas.toNat ≠ p.nrep || q.2.schedCrc.toNat ≠ (r.schedOf p).crc then [q.1] else [])
      ++ [q.2.mismatch.toNat])).foldl min 0xFFFF

/-- The largest K of the part and its subtree. -/
def subtreeK (r : Run) (x : SysRun) : Nat := x.ready.foldl (fun m q => max m q.2.k.toNat) r.k

/-- The initial-value records of one destination part. -/
def State.initRecs (s : State) (p : Problem) (y : SysDesc) (r : Run) (d : Nat) : List FlipRec :=
  (y.exports.filter (fun e => e.2 = d)).flatMap (fun e =>
    (List.range p.nrep).map (fun k => ⟨e.1, k, false, s.value p r k e.1⟩))

/-- Step 4 of R227: initial values and start markers. -/
def State.sendInitial (s : State) (p : Problem) (y : SysDesc) (r : Run) : State :=
  y.destParts.foldl (fun st d =>
    let l := st.initRecs p y r d
    let batches := chunks st.batchMax l.length l
    let st := batches.zipIdx.foldl (fun st b => st.sendBatch y d 0 true false b.2 0 r.ef b.1) st
    st.sendMarker y d 4 (partMarker 0 batches.length 0 0 r.ef)) s

/-- The run-start marker is here: it goes on to the children, and the part sends its values (R227). A mismatch ends the
run: the flag tells so. -/
def State.runStart (s : State) (p : Problem) (y : SysDesc) (r : Run) (m : Marker) : State :=
  let s := y.children.foldl (fun st d => st.sendMarker y d 3 m) s
  let s := s.modRun r.problem (fun z => { z with k := m.k.toNat, sys := z.sys.map (fun w =>
    { w with stage := .values, started := some m }) })
  if m.mismatch.toNat ≠ 0xFFFF then s
  else match s.run r.problem with
    | some z => s.sendInitial p y z
    | none => s

/-- The children's ready markers are in (R227 steps 2 and 3). -/
def State.readyDone (s : State) (p : Problem) (y : SysDesc) (r : Run) (x : SysRun) : State :=
  if !(y.children.all (fun c => x.ready.any (fun q => q.1 = c))) then s
  else
    let m := { marker0 with k := BitVec.ofNat 32 (subtreeK r x), replicas := BitVec.ofNat 16 p.nrep,
                            mismatch := BitVec.ofNat 16 (subtreeMismatch p r x), ef := efBits r.ef,
                            schedCrc := BitVec.ofNat 32 (r.schedOf p).crc }
    if y.part = 0 then s.runStart p y r m
    else (s.sendMarker y (y.parentOf y.part) 2 m).modSys r.problem (fun z => { z with stage := .runStart })

/-- Every import part's values are here. -/
def SysRun.valuesIn (x : SysRun) (y : SysDesc) : Bool :=
  y.importParts.all (fun q => match x.starts.find? (fun t => t.1 = q) with
    | some t => decide (t.2 ≤ (x.initIn.filter (fun i => i.1 = q)).length)
    | none => false)

/-- Step 5 of R227: the ghosts take their values, and the part performs steps 2 to 5 of R149; its totals go to the first
settle. A resumed run goes on where it was. -/
def State.valuesDone (s : State) (p : Problem) (r : Run) (x : SysRun) : State :=
  let s := (s.liveOf r).foldl (fun st n => st.modEng n (fun g => { g with ghosts := x.initVals })) s
  if r.restored then s.modSys r.problem (fun z => { z with stage := .running, first := false })
  else
    let s := s.firstFields p r
    (s.firstBetas p r.problem).modSys r.problem (fun z => { z with stage := .settling, first := true })

/-! ### The settle (R235, R236) -/

/-- Send bytes to the memory of a part, by DMA_WR messages without completion. -/
def State.sendWrite (s : State) (y : SysDesc) (part addr : Nat) (l : List Byte) : State :=
  let max_ := s.dataMax
  (chunks max_ l.length l).zipIdx.foldl (fun st c =>
    st.sendTo (y.moduleOf part) 5 0 y.sysRun
      (leBytes 8 (addr + max_ * c.2) ++ leBytes 2 c.1.length ++ leBytes 2 0 ++ leBytes 1 0 ++ leBytes 3 0 ++ c.1)) s

/-- A settle entry (Table 9.3) as numbers: value in units of 2^(ef - 16), e_f, flags, audit value, tolerance count. -/
structure SettleEntry where
  value : Int
  ef : Int
  flags : Nat
  audit : Int
  count : Nat
deriving DecidableEq, Repr

/-- A value of 64 bits with a compensation of 16, in units of 2^(ef - 16). -/
def entryValue (l : List Byte) (off : Nat) : Int := intAt l off 8 * 65536 + intAt l (off + 8) 2

/-- Read a settle entry. -/
def readEntry (l : List Byte) : SettleEntry :=
  ⟨entryValue l 0, intAt l 0xA 2, numAt l 0xC 4, entryValue l 0x10, numAt l 0x1C 4⟩

/-- The bytes of a settle entry. -/
def SettleEntry.bytes (e : SettleEntry) : List Byte :=
  leBytes 8 (unsignedOf 64 (fieldInt e.value)) ++ leBytes 2 (unsignedOf 16 (fieldComp e.value)) ++ leBytes 2 (unsignedOf 16 e.ef)
    ++ leBytes 4 e.flags ++ leBytes 8 (unsignedOf 64 (fieldInt e.audit)) ++ leBytes 2 (unsignedOf 16 (fieldComp e.audit))
    ++ leBytes 2 0 ++ leBytes 4 e.count

/-- Align an entry to an e_f (R170, R235). -/
def SettleEntry.align (e : SettleEntry) (ef : Int) : SettleEntry :=
  { e with value := halveBy (ef - e.ef) e.value, audit := halveBy (ef - e.ef) e.audit, ef := ef }

/-- Add aligned entries, in order. -/
def sumEntries (ef : Int) (l : List SettleEntry) : SettleEntry :=
  l.foldl (fun a e => ⟨a.value + e.value, ef, a.flags ||| e.flags, a.audit + e.audit, (a.count + e.count) % 2 ^ 32⟩)
    ⟨0, ef, 0, 0, 0⟩

/-- The flags of a part's entries. -/
def ownFlags (r : Run) : Nat :=
  boolNat (r.remapped || r.restoredFenced)
    + 2 * boolNat (r.remapped || r.restoredFenced || r.freeRun || r.took.deadline || r.took.stop || r.took.abort || r.took.hung)
    + 4 * boolNat r.orderSens

/-- The entry of a replica of this part, from the totals held at its home. -/
def State.ownEntry (s : State) (r : Run) (x : SysRun) (k : Nat) : SettleEntry :=
  ⟨Store.get 0 k (s.eng (s.homeOf r)).data.partials, r.ef, ownFlags r, Store.get 0 k x.audit, Store.get 0 k x.auditCount⟩

/-- The entry of a replica that the i-th child wrote. -/
def State.childEntry (s : State) (y : SysDesc) (i k : Nat) : SettleEntry :=
  readEntry (s.readBytes (y.settleAt + 0x2000 * i + 32 * k) 32)

/-- The children whose entries the part sums, by place: those that have announced them and whose bytes are all here, since a marker
may pass the writes before it (R235, R249). -/
def SysRun.settled (x : SysRun) (p : Problem) (y : SysDesc) : List Nat :=
  (List.range y.children.length).filter (fun i =>
    x.settleUp.any (fun q => q.1 = y.children.getD i 0) && decide (32 * p.nrep ≤ Store.get 0 i x.kidsIn))

/-- The sweeps that the part and its subtree have all completed (R237; entry 26). -/
def subtreeSweeps (r : Run) (x : SysRun) : Nat := (x.settleUp.map Prod.snd).foldl min r.sweepsDone

/-- The sums of a part for every replica, in increasing part order with the part's own before its children's greater
numbers. -/
def State.settleSums (s : State) (p : Problem) (y : SysDesc) (r : Run) (x : SysRun) : List SettleEntry :=
  let kids := x.settled p y
  (List.range p.nrep).map (fun k =>
    let es := (y.part, s.ownEntry r x k) :: kids.map (fun i => (y.children.getD i 0, s.childEntry y i k))
    let ef := es.foldl (fun m e => max m e.2.ef) r.ef
    let order := sortNats (es.map Prod.fst)
    sumEntries ef (order.filterMap (fun q => (es.find? (fun e => e.1 = q)).map (fun e => e.2.align ef))))

/-- Every live span, the run's totals and its best value adopt an e_f. -/
def State.adoptSys (s : State) (p : Problem) (r : Run) (ef : Int) : State :=
  ((s.liveOf r).foldl (fun st n => st.adoptEf p r n ef) s).adoptAll p r

/-- A part other than part 0 hands its sums on (steps 5 and 6 of R235). -/
def State.settleUp (s : State) (y : SysDesc) (r : Run) (sums : List SettleEntry) : State :=
  let parent := y.parentOf y.part
  let s := s.sendWrite y parent (y.settleAt + 0x2000 * y.placeOf) (sums.flatMap SettleEntry.bytes)
  match r.sys with
  | some x =>
    let s := (s.sendMarker y parent 5 (partMarker (subtreeSweeps r x) 0 0 0 (s.partEf r))).modSys r.problem (fun z =>
      { z with stage := .done, ladderIn := 0, settleUp := [], kidsIn := [] })
    if x.audit.isEmpty then s else s.setPartials r x.audit
  | none => s

/-- The bytes of the ladder permutation (R235). -/
def ladderBytes (p : Problem) (r : Run) : List Byte :=
  let n := (r.schedOf p).ladder.length
  if (r.schedOf p).exchange then
    (List.range n).flatMap (fun k => leBytes 2 ((r.holder p.nrep k).getD 0xFFFF))
  else []

/-- The settle-done marker of part 0 (R236); its number is the sweeps that the system has completed (R237; entry 26). -/
def doneMarker (r : Run) (first : Bool) (cause status flags : Nat) : Marker :=
  { marker0 with number := BitVec.ofNat 64 r.sweepsDone, ef := efBits r.ef, cause := BitVec.ofNat 8 cause,
                 settle := { best := if first || r.newBest then BitVec.ofNat 16 r.bestReplica else 0xFFFF,
                             energy := BitVec.ofNat 64 (unsignedOf 64 (fieldInt r.best)),
                             comp := BitVec.ofNat 16 (unsignedOf 16 (fieldComp r.best)),
                             rescales := BitVec.ofNat 8 r.raises, rxAttempts := BitVec.ofNat 32 r.rxAttempts,
                             rxAccepts := BitVec.ofNat 32 r.rxAccepts, flags := BitVec.ofNat 3 flags,
                             status := BitVec.ofNat 16 status } }

/-- Send each child the ladder and the settle-done marker. -/
def State.sendDone (s : State) (y : SysDesc) (ladder : List Byte) (m : Marker) : State :=
  y.children.foldl (fun st d =>
    (if ladder.isEmpty then st else st.sendWrite y d (y.settleAt + 0xE000) ladder).sendMarker y d 6 m) s

/-- Status code of an end cause (Table 3.13). -/
def causeStatus (cause : Nat) : Nat := if cause = 1 then 4 else if cause = 2 then 5 else if cause = 3 then 6 else 2

/-- The result of a sweep that an end cause ended (Table 12.7). -/
def causeResult (cause : Nat) : Nat := if cause = 1 then 2 else if cause = 2 then 3 else if cause = 0 then 0 else 1

/-- The stop causes of a run that a cause of another part has reached, by the status that it gives (Table 3.13, R237). -/
def Stops.reached (t : Stops) (cause status : Nat) : Stops :=
  if cause ≠ 4 then t
  else if status = 1 then { t with deadline := true }
  else if status = 3 then { t with abort := true }
  else { t with stop := true }

/-- An end cause from another part has ended the sweep: the run takes its status, and a stop sets its flag (R237). -/
def State.adoptCause (s : State) (q cause status : Nat) : State :=
  if cause = 0 then s
  else s.modRun q (fun r =>
    { r with sweepResult := max r.sweepResult (causeResult cause),
             stops := if r.stops.own then r.stops else { r.stops with stop := decide (cause = 4) },
             took := if r.stops.own then r.took else r.took.reached cause status,
             sys := r.sys.map (fun (x : SysRun) =>
               { x with status := if r.stops.own then x.status else some status }) })

/-- Part 0 has the sums of the system: totals, the audit (R236), and the first best at the start. -/
def State.settleRoot (s : State) (p : Problem) (y : SysDesc) (r : Run) (x : SysRun) (sums : List SettleEntry) : State :=
  let ef := sums.foldl (fun m e => max m e.ef) r.ef
  let s := s.adoptSys p r ef
  let totals : Store Int := Store.putAll 0 (sums.zipIdx.map (fun (e : SettleEntry × Nat) => (e.2, (e.1.align ef).value))) []
  let flags := sums.foldl (fun m e => m ||| e.flags) 0
  let lost := natBit flags 0 && !natBit x.flags 0 && !x.first
  let s := s.modRun r.problem (fun z =>
    { z with totals := totals, sweepsDone := subtreeSweeps r x, bestLost := z.bestLost || lost })
  let s := s.modSys r.problem (fun z =>
    { z with stage := .running, first := false, settleUp := [], kidsIn := [], flags := flags, auditBad := false })
  -- no audit follows a sweep that ended early in some part: it has no audit values
  let s := match s.run r.problem, (!x.first && r.auditAt p && !x.audit.isEmpty && decide (x.endCause = 0)) with
    | some z, true =>
      let vals : Store Int := Store.putAll 0 (sums.zipIdx.map (fun (e : SettleEntry × Nat) => (e.2, (e.1.align ef).audit))) []
      let counts : Store Nat := Store.putAll 0 (sums.zipIdx.map (fun (e : SettleEntry × Nat) => (e.2, e.1.count))) []
      let t := s.auditAgainst p z vals counts
      (t.1.setPartials z (Store.mapVals 0 (halveBy (ef - r.ef)) x.audit)).modSys r.problem (fun w => { w with auditBad := decide (t.2 ≠ 0) })
    | _, _ => s
  if x.first then
    match s.run r.problem with
    | some z =>
      let s := if z.noSteps then s else s.firstBest p z
      match s.run r.problem with
      | some w => s.sendDone y (ladderBytes p w) (doneMarker w true x.endCause 0 flags)
      | none => s
    | none => s
  else s.adoptCause r.problem x.endCause (causeStatus x.endCause)

/-- The settle goes on once the children's entries are here (R235). -/
def State.settleStep (s : State) (p : Problem) (y : SysDesc) (r : Run) (x : SysRun) : State :=
  if !(x.alone || decide ((x.settled p y).length = y.children.length)) then s
  else
    let sums := s.settleSums p y r x
    if y.part = 0 then s.settleRoot p y r x sums else s.settleUp y r sums

/-- A part whose refresh has met the raise limit tells the others (R234). -/
def State.noteLimit (s : State) (q : Nat) : State :=
  match s.sysOf q with
  | some (_, y, r, x) => if r.stops.limit && x.endCause = 0 then s.endPart y r 1 ((r.sweep + 1) * r.k) else s
  | none => s

/-- The steps of a system part at its own end of a sweep (R236): the refresh, and on an audit sweep the energy of the
terms it owns. -/
def State.sysSettle (s : State) (p : Problem) (r : Run) (ok : Bool) : State :=
  let refresh := ok && r.refreshAt p
  let s := if refresh then (s.refreshStep p r).noteLimit r.problem else s
  match s.run r.problem with
  | none => s
  | some r =>
    let audit := ok && r.auditAt p && !r.stops.limit
    let vals := if audit then s.exactTotals p r else []
    let counts : Store Nat := if audit then
        Store.putAll 0 ((List.range p.nrep).map (fun k => (k, s.changedBy r k))) [] else []
    let s := if audit then
        (s.liveOf r).foldl (fun st n => st.modEng n (fun g => { g with data := { g.data with changed := [] } })) s
      else s
    s.modSys r.problem (fun z =>
      { z with stage := .settling, refreshed := refresh, auditBad := false, audit := vals, auditCount := counts })

/-- The replica of each ladder entry that a ladder in the settle area names. -/
def State.takeLadder (s : State) (p : Problem) (y : SysDesc) (r : Run) : State :=
  let n := (r.schedOf p).ladder.length
  if !(r.schedOf p).exchange then s
  else s.modRun r.problem (fun z =>
    { z with rungs := (List.range n).foldl (fun m k =>
        let rep := s.readNat (y.settleAt + 0xE000 + 2 * k) 2
        if rep < p.nrep then Store.put none rep (some k) m else m) z.rungs })

/-- A part other than part 0 has the ladder and the settle-done marker (R236): both go on to its children, it adopts the
system e_f and the best replica, and its SWEEP or its start is over. -/
def State.settleDone (s : State) (p : Problem) (y : SysDesc) (r : Run) (x : SysRun) (m : Marker) : State :=
  let ladder := s.readBytes (y.settleAt + 0xE000) (ladderBytes p r).length
  let s := (s.sendDone y ladder m).takeLadder p y r
  let s := s.adoptSys p r (m.ef.toInt)
  let s := s.modRun r.problem (fun z =>
    { z with sweepsDone := m.number.toNat, bestLost := false, raises := m.settle.rescales.toNat, rxAttempts := m.settle.rxAttempts.toNat,
             rxAccepts := m.settle.rxAccepts.toNat, newBest := decide (m.settle.best.toNat ≠ 0xFFFF) && !x.first,
             bestSet := z.bestSet || decide (m.settle.best.toNat ≠ 0xFFFF),
             best := m.settle.energy.toInt * 65536 + m.settle.comp.toInt,
             bestReplica := if m.settle.best.toNat = 0xFFFF then z.bestReplica else m.settle.best.toNat,
             bestSweep := if m.settle.best.toNat = 0xFFFF || x.first then z.bestSweep else z.sweep + 1 })
  let s := s.modSys r.problem (fun z =>
    { z with stage := .running, first := false, settleDone := none, ladderIn := 0, flags := m.settle.flags.toNat,
             endCause := if z.endCause = 0 then m.cause.toNat else z.endCause })
  let s := match s.run r.problem with
    | some z => if m.settle.best.toNat ≠ 0xFFFF then s.snapshot p z m.settle.best.toNat else s
    | none => s
  if x.first then s
  else
    let cause := if m.cause = 0 then x.endCause else m.cause.toNat
    let status := if m.cause = 0 then causeStatus cause else m.settle.status.toNat
    (s.adoptCause r.problem cause status).modSys r.problem (fun z =>
      { z with status := if m.cause = 0 && z.status.isNone then none else some m.settle.status.toNat })

/-- Without the other parts, a part ends its settle by itself (R241). -/
def State.settleAlone (s : State) (p : Problem) (r : Run) (x : SysRun) : State :=
  let s := s.modSys r.problem (fun z => { z with stage := .running, first := false })
  if x.first then
    match s.run r.problem with
    | some z => if z.noSteps then s else s.firstBest p z
    | none => s
  else s.adoptCause r.problem x.endCause (causeStatus x.endCause)

/-! ### Going on -/

/-- One step that the system side of a run can make by itself. -/
def State.sysStep (s : State) (q : Nat) : State :=
  match s.sysOf q with
  | none => s
  | some (p, y, r, x) =>
    match x.stage with
    | .ready =>
      if x.alone then s.modSys q (fun z => { z with stage := .values, started := some marker0 })
      else s.readyDone p y r x
    | .runStart =>
      match x.started, x.alone with
      | some m, _ => s.runStart p y r m
      | none, true => s.modSys q (fun z => { z with stage := .values, started := some marker0 })
      | none, false => s
    | .values =>
      if (x.started.map (fun m => m.mismatch.toNat)).getD 0xFFFF ≠ 0xFFFF then s
      else if x.alone || x.valuesIn y then s.valuesDone p r x else s
    | .settling => s.settleStep p y r x
    | .done =>
      match x.settleDone with
      | some m => if decide ((ladderBytes p r).length ≤ x.ladderIn) then s.settleDone p y r x m else s
      | none => if x.alone then s.settleAlone p r x else s
    | .running => s.noteCause p y r x

/-- Span `n` of a free-running run waits at its boundary until other parts have seen its exported changes (R231). -/
def State.waitsSeen (s : State) (p : Problem) (r : Run) (n : Nat) : Bool :=
  r.freeRun && s.logFull p r n && !s.logFull p { r with freeRun := false } n

/-- What the part waits for, as a number that names the wait (R241): none when it waits for no other part. -/
def State.sysWait (s : State) (p : Problem) (y : SysDesc) (r : Run) (x : SysRun) : Option Nat :=
  if x.alone then none
  else match x.stage with
    | .ready => if y.children.all (fun c => x.ready.any (fun q => q.1 = c)) then none else some 0
    | .runStart => some 1
    | .values => if x.valuesIn y then none else some 2
    | .settling => some (3 + 8 * r.sweep)
    | .done => some (4 + 8 * r.sweep)
    | .running =>
      let waits (n : Nat) : Bool :=
        let e := s.eng n
        let misses (b : Nat) : Bool := (epochsFrom e.applied b).any (fun k => !s.partsComplete p r n k)
        if e.phase = .undoing then !s.partsUndone p r n (e.undoSent - 1)
        else if e.phase = .boundary then (s.waitsSeen p r n && !e.stopped) || (match s.flushLast p r n with
          | some last => misses (last + 1) || (decide (e.epoch + 1 = r.k) && !s.partsSwept p r n)
          | none => misses (max (r.segment e.epoch).1 (e.epoch + 1 - (r.schedOf p).lag)))
        else false
      ((s.liveOf r).find? waits).map (fun n => 5 + 8 * (r.sweep * r.k + (s.eng n).epoch) * 2
        + 8 * boolNat (decide ((s.eng n).phase = .undoing)))

/-- The part's wait ends without what it waited for (R241): it stops the run as QSTOP does, raises the exchange-timeout
source, and sends the stop cause. -/
def State.waitFails (s : State) (q : Nat) : State :=
  match s.sysOf q with
  | none => s
  | some (_, y, r, x) =>
    let s := (s.stopRun q (fun t => { t with stop := true })).raise .fe 0 0
    let s := s.modSys q (fun z => { z with alone := true, waiting := none })
    if x.endCause ≠ 0 then s else s.endPart y r 4 (r.sweep * r.k)

/-- The time that a part waits for another (R221, R241), in ticks. -/
def timeoutTicks (y : SysDesc) : Nat := (if y.timeoutUs = 0 then 100000 else y.timeoutUs) * tickUs

/-- A wait that has lasted its time fails: what comes at its end or later comes too late (R7, R241). -/
def State.expireWait (s : State) (q : Nat) : State :=
  match s.sysOf q with
  | none => s
  | some (_, y, _, x) =>
    if x.waiting.isSome && !inWindow x.waitFrom (timeoutTicks y) s.now then s.waitFails q else s

/-- The waits of every system run that have lasted their time fail. -/
def State.expireWaits (s : State) : State := (s.runs.map (fun r => r.problem)).foldl State.expireWait s

/-- The wait in progress, with its start, after a change; one that has lasted its time has failed. -/
def State.noteWait (s : State) (q : Nat) : State :=
  let s := s.expireWait q
  match s.sysOf q with
  | none => s
  | some (p, y, r, x) =>
    let w := s.sysWait p y r x
    let now := s.now
    if w = x.waiting then s else s.modSys q (fun z => { z with waiting := w, waitFrom := now })

/-- The bytes of settle entries and of the ladder that a write to memory brings (R235). -/
def State.noteSettle (s : State) (addr len : Nat) : State :=
  let s := s.expireWaits
  s.runs.foldl (fun st r => match st.sysOf r.problem with
    | some (_, y, r, _) =>
      let off := addr - y.settleAt
      if addr < y.settleAt || 0xE200 ≤ off then st
      else if 0xE000 ≤ off then st.modSys r.problem (fun z => { z with ladderIn := z.ladderIn + len })
      else st.modSys r.problem (fun z =>
        { z with kidsIn := Store.put 0 (off / 0x2000) (Store.get 0 (off / 0x2000) z.kidsIn + len) z.kidsIn })
    | none => st) s

/-! ### Messages that arrive -/

/-- A marker of a system run arrives (R227, R229, R232, R234-R236). A ready marker of a run that has not started here
waits. -/
def State.takeMarker (s : State) (num module aux : Nat) (m : Marker) : State :=
  let s := s.expireWaits
  match s.sysRunOf num with
  | none => if aux = 2 then { s with early := s.early ++ [(num, module, m)] } else s
  | some (_, y, r, x) =>
    match partAt y module with
    | none => s
    | some part =>
      let seen (z : SysRun) : SysRun :=
        { z with seen := Store.put 0 part (max (Store.get 0 part z.seen) m.seen.toNat) z.seen }
      let mark : PartMark := ⟨part, m.number.toNat, m.batches.toNat, m.ef.toInt⟩
      let q := r.problem
      let s := if aux = 6 then s else s.takeCause y r x part m
      match aux with
      | 0 => if m.cause ≠ 0 then s else s.modSys q (fun z => { seen z with epochMarks := z.epochMarks ++ [mark] })
      | 1 => s.modSys q (fun z => { seen z with sweepEnds := z.sweepEnds ++ [mark] })
      | 2 => s.modSys q (fun z => { z with ready := z.ready ++ [(part, m)] })
      | 3 => s.modSys q (fun z => { z with started := some m })
      | 4 => s.modSys q (fun z => { z with starts := z.starts ++ [(part, m.batches.toNat)] })
      | 5 => s.modSys q (fun z => { z with settleUp := z.settleUp ++ [(part, m.number.toNat)] })
      | 6 => s.modSys q (fun z => { z with settleDone := some m })
      | 7 => s.modSys q (fun z => { seen z with undoEnds := z.undoEnds ++ [mark] })
      | _ => s

/-- A batch of records arrives on link `l` (R228): each record is mapped to its ghost and goes to the spans that keep its value
(R223) as flip flits; records of a variable that the ghost table does not list are dropped, counted and reported (R225), all of them when
no run of that number is here or the source is no part of it. -/
def State.takeBatch (s : State) (l num module : Nat) (b : FlipBatch) : State :=
  let drop (bad : Nat) (st : State) : State :=
    (st.modLink l (fun k => { k with unknownVar := satAdd 0xFFFFFFFF k.unknownVar bad })).raiseTimes (lnkBlock l) 5 l bad
  let s := s.expireWaits
  match s.sysRunOf num with
  | none => drop b.records.length s
  | some (p, y, r, x) =>
    match partAt y module with
    | none => drop b.records.length s
    | some part =>
      let ghost (f : LinkFlip) : Option Nat :=
        (y.ghosts.find? (fun g => g.owner = part && g.index = f.index.toNat)).map (fun g => g.local_)
      let bad := (b.records.filter (fun f => (ghost f).isNone)).length
      let s := drop bad s
      let recs : List FlipRec := b.records.filterMap (fun f => (ghost f).map (fun v => ⟨v, f.replica.toNat, !f.value, f.value⟩))
      let initial := b.records.any (fun f => f.initial)
      let undo := b.records.any (fun f => f.undo)
      let q := r.problem
      if initial then
        s.modSys q (fun z => { z with initIn := z.initIn ++ [(part, b.batch.toNat)],
                                      initVals := Store.putAll false (recs.map (fun f => (f.var * 256 + f.replica, f.new))) z.initVals })
      else
        let first := Store.get 0 part x.recvRecs
        let msgs := (s.liveOf r).filterMap (fun n =>
          let mine := recs.filter (fun f => (ghostHomes p r.blocks f.var).contains n)
          if mine.isEmpty then none
          else some (Vc1Msg.mk (16 + l) [n] (.batch b.epoch.toNat undo part b.batch.toNat b.seen.toNat first b.ef.toInt mine) s.mesh.generation false))
        let s := { s with mesh := { s.mesh with vc1 := s.mesh.vc1 ++ msgs } }
        s.modSys q (fun z =>
          { z with arrived := z.arrived ++ [⟨part, b.epoch.toNat, undo, 1⟩],
                   recvRecs := Store.put 0 part (first + b.records.length) z.recvRecs,
                   seen := Store.put 0 part (max (Store.get 0 part z.seen) b.seen.toNat) z.seen })

end Sys2Proof.Machine
end

