-- ==== Sys2Proof/Machine/RunSeq.lean ====
section
/-! DEFINITION. The anneal instructions as piers carry them (R338-R343): binding a run, and the collective steps of Table
12.7 over the spans of the run.
-/

namespace Sys2Proof.Machine

/-- The anneal instruction that a pier may carry out, with its place in flight: the first of its class (R338). -/
def Pier.annealHead (p : Pier) : Option (Nat × InFlight) :=
  (p.flight.zipIdx.find? (fun q => instrClass q.1.instr = 3)).map (fun q => (q.2, q.1))

/-- That of pier `n`, when it carries on its launch and does not wait for the run tile (R191, R340). -/
def State.annealHead (s : State) (n : Nat) : Option (Nat × InFlight) :=
  if (s.pier n).live && !s.spanFenced n then
    (s.pier n).annealHead.bind (fun q => if tileWaits (s.span n).runTile (s.pier n).flight q.1 then none else some q)
  else none

/-- The order of an anneal instruction in Table 12.7; 0 is BIND. -/
def annealOrder : SpanInstr → Option Nat
  | .sched _ _ _ mode => match mode.toNat with
    | 0 => some 0
    | 1 => some 6
    | 2 => some 9
    | _ => none
  | .sweep _ => some 1
  | .fref _ => some 2
  | .eaud _ => some 3
  | .snap _ => some 4
  | .xchg _ => some 5
  | .rmig _ => some 7
  | .wrot _ => some 8
  | _ => none

/-- The order of a span whose SCHED END has ended the run of its launch (R342). -/
def orderEnded : Nat := 10

/-- The order that pier `n` is to carry out. -/
def State.headOrder (s : State) (n : Nat) : Option Nat := (s.annealHead n).bind (fun q => annealOrder q.2.instr)

/-- Complete the anneal instruction of pier `n` with a value of rd. -/
def State.completeAnneal (s : State) (n : Nat) (v : Word) : State :=
  match s.annealHead n with
  | some (k, i) => s.modPier n (fun p =>
      let q := { p with flight := p.flight.eraseIdx k }
      match dstReg i.instr with
      | some rd => q.setReg rd v
      | none => q)
  | none => s

/-- Fault the pier at its anneal instruction. -/
def State.faultAnneal (s : State) (n code : Nat) : State :=
  match s.annealHead n with
  | some (_, i) => s.pierFault n code i.aux
  | none => s

/-! ### Binding (R339) -/

/-- The spans that issue BIND for one command's launch. -/
def State.binders (s : State) (ctx cmd : Nat) (batch : Bool) : List Nat :=
  spanIds.filter (fun n => s.headOrder n = some 0 && (match (s.pier n).launch with
    | some l => l.ctx = ctx && l.cmd = cmd && l.batch = batch
    | none => false))

/-- The run command that a launch works for; none for a LAUNCH. -/
def State.runExec (s : State) (n : Nat) : Option Exec :=
  match (s.pier n).launch with
  | some l => (s.launchExec l).bind (fun e => if isRunOp e.cmd.opcode then some e else none)
  | none => none

/-- The run block that the BIND of span `n` reads: the front end's program finds its command's packet at unit 0 of the
staging area. -/
def State.bindBlock (s : State) (n : Nat) : List Byte :=
  match s.runExec n, s.annealHead n with
  | some e, _ => if e.cmd.opcode = 0x14 then bytesAt e.cmd.bytes 0 128 else bytesAt e.cmd.bytes 0 64
  | none, some (_, i) =>
    let u := 64 * natBits i.a.toNat 16 0
    if s.spadNat n u 1 = 0x14 then s.spadBytes n u 128 else s.spadBytes n u 64
  | none, none => []

/-- The tile that a BIND gives its run (R340). -/
def bindTile : SpanInstr → Nat
  | .sched _ _ t _ => t.toNat
  | _ => 0

/-- Every issuing span faults with BIND_FAILED, and a run command completes with a status. -/
def State.failBind (s : State) (spans : List Nat) (status detail : Nat) : State :=
  let s := match spans.head?.bind (fun n => (s.pier n).launch) with
    | some l => s.modExec l.ctx l.batch (fun e =>
        if e.serial = l.cmd && isRunOp e.cmd.opcode && e.isWorking then { e with phase := .finished status detail } else e)
    | none => s
  spans.foldl (fun st n => st.faultAnneal n 0x22) s

/-- The problem that a block names, as BIND finds it loaded (R281, R394). -/
def State.bindProblem (s : State) (b : List Byte) (forCmd : Bool) : Option Problem :=
  (s.problemById (numAt b 0x10 4)).bind (fun p => if p.lost || (p.freeing && !forCmd) then none else some p)

/-- Some span that the problem needs will not issue BIND: every span of the command that still runs issues, and that one
does not. -/
def State.bindLacks (s : State) (p : Problem) (spans : List Nat) : Bool :=
  let need := (problemSpans p).filter (fun n => !s.spanFenced n)
  let left := match spans.head?.bind (fun n => (s.pier n).launch) with
    | some l => match s.launchExec l with
      | some e => (maskSpans e.spansLeft).all (fun n => spans.contains n)
      | none => true
    | none => true
  left && need.any (fun n => !spans.contains n)

/-- The settings of a block are those of a run (R283; entry 29). -/
def schedFault (p : Problem) (b : List Byte) : Bool :=
  decide (numAt b 0 1 ≠ 0x17) && (match p.scheds[numAt b 0x14 1]? with
    | none => true
    | some c => c.sample != decide (numAt b 0 1 = 0x14))

/-- Place and start the run of a block (R149, R227, R288). -/
def State.startRun (s : State) (p : Problem) (r : Run) (c : Option Ckpt) : State :=
  let s := match c with
    | some c => s.restoreRun p c (c.resume p r s.now)
    | none => s.firstState p r
  match p.sys with
  | none => match c, s.run r.problem with
    | none, some x => s.formStart p x
    | _, _ => s
  | some y =>
    let mine := s.early.filter (fun e => e.1 = y.sysRun)
    let ready := mine.filterMap (fun e => (partAt y e.2.1).map (fun q => (q, e.2.2)))
    let s := { s with early := s.early.filter (fun e => e.1 ≠ y.sysRun) }
    s.modSys r.problem (fun x => { x with ready := ready })

/-- Carry on the BINDs of one command; none when they wait. -/
def State.bindStep (s : State) (ctx cmd : Nat) (batch : Bool) : Option State :=
  let spans := s.binders ctx cmd batch
  let busy := spans.filter (fun n => (s.span n).bound.isSome && !(match s.boundRun n with
    | some (_, r) => r.starting && r.ctx = ctx && r.serial = cmd && r.batch = batch
    | none => false))
  let new := spans.filter (fun n => (s.span n).bound.isNone)
  if !busy.isEmpty then some (busy.foldl (fun st n => st.faultAnneal n 0x23) s)
  else match new with
    | [] => none
    | n :: _ =>
      let b := s.bindBlock n
      let cmdExec := s.runExec n
      let fail (status detail : Nat) : Option State := some (s.failBind new status detail)
      let op := numAt b 0 1
      if new.any (fun m => decide (s.bindBlock m ≠ b)) then fail 0x1F 0
      else if !(op = 0x12 || op = 0x14 || op = 0x17) then fail 0x10 0
      else match s.bindProblem b cmdExec.isSome with
        | none => fail 0x15 (numAt b 0x10 4)
        | some p =>
          if new.any (fun m => !(problemSpans p).contains m) then fail 0x1F (spansMask new)
          else if (s.run (p.id % 64)).isSome then none
          else if s.bindLacks p new then fail 0x1F (spansMask new)
          else if ((problemSpans p).filter (fun m => !s.spanFenced m)).any (fun m => !new.contains m) then none
          else if schedFault p b then fail 0x19 0
          else if drawsKey b && s.sec.rng = 2 then fail 0x1E 0
          else if drawsKey b && (s.sec.rng = 0 || s.rngHeld) then none
          else
            let d := if drawsKey b then s.generate 8 else (bytesAt b 0x18 8, s)
            let r := Run.ofBlock p b ctx cmd batch (BitVec.ofNat 32 (numAt d.1 0 4)) (blockKeyHi p (numAt d.1 4 4)) s.now
            let s := match cmdExec with
              | some _ => new.foldl (fun (st : State) m => st.spadWrite m 0 b) d.2
              | none => d.2
            let s := new.foldl (fun (st : State) m => match st.annealHead m with
              | some (_, i) => st.modSpan m (fun x => { x with runTile := bindTile i.instr })
              | none => st) s
            if op = 0x17 then
              match s.ckptFor p r.ckptArea with
              | some c => some (s.startRun p r (some c))
              | none => some (s.failBind new 0x1A 0)
            else some (s.startRun p r none)

/-! ### The steps of a sweep (R341, R342) -/

/-- The spans of a run whose piers carry it. -/
def State.carriers (s : State) (r : Run) : List Nat :=
  r.spans.filter (fun n => !s.spanFenced n && (s.pier n).live && decide ((s.span n).bound = some r.problem))

/-- Every live span's engine is at rest. -/
def State.atRest (s : State) (r : Run) : Bool := (s.liveOf r).all (fun n => (s.eng n).phase = .idle)

/-- The run is not held up by its system. -/
def Run.sysFree (r : Run) : Bool :=
  match r.sys with
  | some x => decide (x.stage = .running)
  | none => true

/-- Complete the instruction of every carrier, with a value for each, and go to the next order. -/
def State.completeAll (s : State) (r : Run) (next : Nat) (v : Nat → Word) : State :=
  let s := (s.carriers r).foldl (fun st n => st.completeAnneal n (v n)) s
  r.spans.foldl (fun st n =>
    if (st.span n).bound = some r.problem then st.modSpan n (fun x => { x with order := next }) else st) s

/-- What a sweep starts with in its engines and in the system side of its run (R122, R229, R232). At the raise limit every
span has ended. -/
def State.startSweep (s : State) (p : Problem) (r : Run) : State :=
  let limit := r.stops.limit
  let w := r.sweep
  let s := s.modRun r.problem (fun x => { x with remap := x.remap.map (fun q => (q.1, 0)), sweepResult := 0 })
  let s := s.modSys r.problem (fun (x : SysRun) =>
    { x with epochMarks := x.epochMarks.filter (fun m => decide (w * r.k ≤ m.number)),
             sweepEnds := x.sweepEnds.filter (fun m => decide (w ≤ m.number)),
             undoEnds := x.undoEnds.filter (fun m => decide (w * r.k ≤ m.number)),
             arrived := x.arrived.filter (fun a => decide (w * r.k ≤ a.epoch)), out := [], epochBatches := [],
             sweepBatches := [], undoBatches := [], closed := 0, closedUndo := 0, endEf := [], audit := [],
             auditCount := [], refreshed := false })
  let s := r.spans.foldl (fun st n =>
    if st.spanFenced n then st.modEng n (fun g => { g with sent := 0, undoSent := 0 })
    else st.modEng n (fun g =>
      { g with phase := if limit then .ended else .deciding, epoch := 0, pos := 0, sent := 0, undoSent := 0, applied := 0,
               flushFrom := 0, stopped := false, limit := limit, cont := none, unitStart := none, blockRecs := [],
               epochRecs := [], flits := [], marks := [], kept := [] })) s
  if limit then s
  else (s.liveOf r).foldl (fun st n => match st.run r.problem with
    | some x => st.endEpochIfDone p x n
    | none => st) s

/-- The part of a system run; 0 outside one. -/
def partOf (p : Problem) : Nat := (p.sys.map (fun y => y.part)).getD 0

/-- The run ends here (R342): by R88 in a run of one module and in part 0, by the settle in another part (R236). No cause ends it at
a boundary at which an exchange has been made (R120). -/
def State.endsHere (s : State) (p : Problem) (r : Run) : Bool :=
  if partOf p = 0 then
    s.endsNow p r || (!r.exchanged && (match r.sys with
      | some x => decide (x.endCause ≠ 0)
      | none => false))
  else r.complete p || decide (r.sweepResult ≠ 0) || (match r.sys with
    | some x => decide (x.endCause ≠ 0)
    | none => false)

/-- Part 0 tells its children how the system goes on (R236). -/
def State.tellChildren (s : State) (p : Problem) (r : Run) (ends : Bool) : State :=
  match p.sys, r.sys with
  | some y, some x =>
    if y.part ≠ 0 then s
    else
      let cause := if !ends || r.complete p then 0 else if x.endCause ≠ 0 then x.endCause else r.ownCause
      s.sendDone y (ladderBytes p r) (doneMarker r false cause (r.status (r.complete p)) x.flags)
  | _, _ => s

/-- Step 7 of Table 5.5 (R342). The causes in force give their flags, at the raise limit too (R172). -/
def State.endStep (s : State) (p : Problem) (r : Run) : State :=
  let ends := s.endsHere p r
  let s := if (r.sweepResult = 0 || r.sweepResult = 2) && !r.complete p && s.stopsNow r then s.takeStops r.problem else s
  let r := (s.run r.problem).getD r
  let s := s.tellChildren p r ends
  if ends then
    let cs := s.carriers r
    let s := cs.foldl (fun st n => st.completeAnneal n 1) s
    -- RMIG, WROT and NEXT are then out of order (R342)
    cs.foldl (fun st n => st.modSpan n (fun x => { x with order := orderEnded })) (s.finishRun p r (r.complete p))
  else s.completeAll r 7 (fun _ => 0)

/-- A bound run records its best and writes its sample (step 5). Another part than part 0 has them from the settle. -/
def State.snapStep (s : State) (p : Problem) (r : Run) : State × Bool :=
  if r.noSteps || !r.bestSet then (s, false)
  else
    let b := if partOf p = 0 then s.bestStep p r else (s, r.newBest)
    match b.1.run r.problem with
    | some x => if r.sweepResult = 0 then (b.1.sampleStep p x, b.2) else b
    | none => b

/-- Blocks of the run in a span. -/
def Run.blocksIn (r : Run) (n : Nat) : Nat := (r.blocks.filter (fun b => b.span = n)).length

/-- FREF (R148, R342). -/
def State.frefStep (s : State) (p : Problem) (r : Run) : State :=
  let counts (n : Nat) : Word := BitVec.ofNat 64 (r.blocksIn n)
  match r.sys with
  | some x => s.completeAll r 3 (fun n => if x.refreshed then counts n else 0)
  | none =>
    if r.sweepResult = 0 && r.refreshAt p then
      let s := s.refreshStep p r
      let ok := match s.run r.problem with
        | some x => decide (x.sweepResult = 0)
        | none => false
      s.completeAll r 3 (fun n => if ok then counts n else 0)
    else s.completeAll r 3 (fun _ => 0)

/-- EAUD (R147, R342). -/
def State.eaudStep (s : State) (p : Problem) (r : Run) : State :=
  match r.sys with
  | some x => s.completeAll r 4 (fun _ => if x.auditBad then 1 else 0)
  | none =>
    if r.sweepResult = 0 && r.auditAt p then
      let t := s.auditStep p r
      t.1.completeAll r 4 (fun _ => if t.2 = 0 then 0 else 1)
    else s.completeAll r 4 (fun _ => 0)

/-- XCHG (R118-R120, R342): none while a stop cause, or an end cause of another part, is in force before the last sweep. -/
def State.xchgStep (s : State) (p : Problem) (r : Run) : State :=
  let ended := match r.sys with
    | some x => decide (x.endCause ≠ 0)
    | none => false
  let stopped := (s.stopsNow r || ended) && decide (r.sweep + 1 < r.lastSweep p)
  if r.sweepResult = 0 && r.exchangeAt p && !stopped && partOf p = 0 then
    let t := r.exchangeRound p
    (s.modRun r.problem (fun _ => t.1)).completeAll r 6 (fun _ => BitVec.ofNat 64 t.2)
  else s.completeAll r 6 (fun _ => 0)

/-- RMIG (R152). -/
def State.rmigStep (s : State) (p : Problem) (r : Run) : State :=
  let t := s.migrateStep p r
  t.1.completeAll r 8 (fun _ => match t.2 with
    | some k => BitVec.ofNat 64 k
    | none => BitVec.allOnes 64)

/-- WROT (R209). -/
def State.wrotStep (s : State) (p : Problem) (r : Run) : State :=
  let t := if r.stops.limit then (s, r.window) else s.rotateStep p r
  t.1.completeAll r 9 (fun _ => BitVec.ofNat 64 t.2)

/-- SCHED NEXT (R117, R287): the spans hold until the checkpoint of this boundary, if one is due, is written, or a fence has
abandoned it (R437); none while they hold. -/
def State.schedNextStep (s : State) (p : Problem) (r : Run) : Option State :=
  match r.ckptOpen with
  | some false => none
  | some true => some ((s.ckptClose p r).completeAll r 1 (fun _ => BitVec.ofNat 64 r.sweep))
  | none =>
    let t := if r.stops.limit then s.modRun r.problem (fun x => { x with sweep := x.sweep + 1 }) else s.nextStep p r
    match (t.run r.problem).bind (fun x => x.ckptOpen) with
    | some _ => some t
    | none => some (t.completeAll r 1 (fun _ => BitVec.ofNat 64 (r.sweep + 1)))

/-- The step of Table 12.7 that every carrier has come to; none when it waits. -/
def State.collective (s : State) (p : Problem) (r : Run) (order : Nat) : Option State :=
  if order = 1 then
    if r.swept then
      some ((s.modRun r.problem (fun x => { x with swept := false })).completeAll r 2 (fun _ => BitVec.ofNat 64 r.sweepResult))
    else if s.atRest r then some (s.startSweep p r) else none
  else if order = 2 then some (s.frefStep p r)
  else if order = 3 then some (s.eaudStep p r)
  else if order = 4 then
    let t := s.snapStep p r
    some (t.1.completeAll r 5 (fun _ => if t.2 then 1 else 0))
  else if order = 5 then some (s.xchgStep p r)
  else if order = 6 then some (s.endStep p r)
  else if order = 7 then some (s.rmigStep p r)
  else if order = 8 then some (s.wrotStep p r)
  else if order = 9 then s.schedNextStep p r
  else none

/-- Do a step for the run of a slot as it then is. -/
def State.onRun (s : State) (q : Nat) (f : State → Run → State) : State :=
  match s.run q with
  | some r => f s r
  | none => s

/-- A run that no pier carries any more ends by itself once its engines are at rest (R150, R343): the steps from the one that the
piers had come to, step 5 of a run that was stopped, steps 3 to 6 of one whose schedule is over (R88, R120), and the record. -/
def State.endUncarried (s : State) (p : Problem) (r : Run) : State :=
  let order := match s.liveOf r with
    | n :: _ => (s.span n).order
    | [] => 9
  let whole := !r.starting && r.complete p
  let q := r.problem
  let s := if whole && decide (order ≤ 2) then s.onRun q (fun st x => st.frefStep p x) else s
  let s := if whole && decide (order ≤ 3) then s.onRun q (fun st x => st.eaudStep p x) else s
  let s := if !r.starting && decide (order ≤ 4) then s.onRun q (fun st x => (st.snapStep p x).1) else s
  let s := if whole && decide (order ≤ 5) then s.onRun q (fun st x => st.xchgStep p x) else s
  let s := if r.took = stops0 then s.takeStops r.problem else s
  match s.run r.problem with
  | some x => (s.tellChildren p x true).finishRun p x (!x.starting && x.complete p)
  | none => s

/-- The ready markers differ (R227): no part starts, no record is written, and the command completes with SYS_MISMATCH. -/
def State.mismatch (s : State) (r : Run) (part : Nat) : State :=
  let cs := s.carriers r
  let s := s.finishRunCmd r 0x18 part
  let s := spanIds.foldl (fun st n =>
    if (st.span n).bound = some r.problem then st.modSpan n (fun x => { x with bound := none, order := 0 }) else st) s
  let s := cs.foldl (fun st n => if st.headOrder n = some 0 then st.faultAnneal n 0x22 else st) s
  let s := (s.endWaits 0x30 r.id (fun e => { e with phase := .finished 3 r.id })).endWaits 0x16 r.id
    (fun e => { e with phase := .finished 3 r.id })
  ({ s with runs := s.runs.filter (fun x => x.problem ≠ r.problem) }).finishFrees

/-- The part that the start of a run has found to differ. -/
def Run.mismatched (r : Run) : Option Nat :=
  match r.sys with
  | some x => if r.starting && x.stage = .values then
      x.started.bind (fun m => if m.mismatch.toNat = 0xFFFF then none else some m.mismatch.toNat)
    else none
  | none => none

/-- One step that a run makes by itself; none when it waits. -/
def State.runStep (s : State) (r : Run) : Option State :=
  match s.problem r.problem with
  | none => none
  | some p =>
    match r.mismatched with
    | some part => some (s.mismatch r part)
    | none =>
      let cs := s.carriers r
      if !r.sysFree && !(s.liveOf r).isEmpty then none
      else if r.starting && !cs.isEmpty then
        if cs.all (fun n => s.headOrder n = some 0) then
          some ((s.modRun r.problem (fun x => { x with starting := false })).completeAll r 1 (fun _ => 0))
        else none
      else match cs with
        | [] =>
          if r.swept then some ((s.modRun r.problem (fun x => { x with swept := false })).completeAll r 2 (fun _ => 0))
          else if s.atRest r then some (s.endUncarried p r) else none
        | n :: _ =>
          match s.headOrder n with
          | some (k + 1) => if cs.all (fun m => s.headOrder m = some (k + 1)) then s.collective p r (k + 1) else none
          | _ => none

/-- The fault of an instruction of Table 12.7 out of its order, or without a run (R341). -/
def State.orderStep (s : State) (n : Nat) : Option State :=
  match s.headOrder n with
  | some (k + 1) =>
    if (s.span n).bound.isNone then
      some (s.faultAnneal n (if (s.span n).order = orderEnded && decide (7 ≤ k + 1) then 0x21 else 0x20))
    else if (s.span n).order ≠ k + 1 || (match s.boundRun n with
        | some (_, r) => r.starting
        | none => false) then some (s.faultAnneal n 0x21)
    else none
  | _ => none

/-- One step of the anneal instructions; none when all of them wait. -/
def State.annealStep (s : State) : Option State :=
  match spanIds.findSome? s.orderStep with
  | some t => some t
  | none =>
    match s.runs.findSome? s.runStep with
    | some t => some t
    | none =>
      let keys := (spanIds.filterMap (fun n => if s.headOrder n = some 0 then
        (s.pier n).launch.map (fun l => (l.ctx, l.cmd, l.batch)) else none)).dedup
      keys.findSome? (fun k => s.bindStep k.1 k.2.1 k.2.2)

/-- Let the anneal instructions go on as far as they can. -/
def State.annealOn : Nat → State → State
  | 0, s => s
  | fuel + 1, s =>
    match s.annealStep with
    | some t => State.annealOn fuel t.quiesce
    | none => s

end Sys2Proof.Machine
end

