-- ==== Sys2Proof/Machine/Carry.lean ====
section
/-! DEFINITION. What follows by itself after a command has acted: waiting piers and barriers, the anneal instructions, and the
system side of runs.
-/

namespace Sys2Proof.Machine

/-- The system side of every run makes its steps, at most `fuel` for each. -/
def State.sysOn (s : State) : Nat → State
  | 0 => s
  | fuel + 1 => ((s.runs.map (fun r => r.problem)).foldl (fun st q => st.sysStep q) s).sysOn fuel

/-- Note the waits of every system run (R241). -/
def State.noteWaits (s : State) : State := (s.runs.map (fun r => r.problem)).foldl (fun st q => st.noteWait q) s

/-- The words of the spans' arrays that have been written are poisoned no more (R359). -/
def State.prunePoison (s : State) : State :=
  spanIds.foldl (fun st n => if (st.span n).poison.isEmpty then st else st.modSpan n Span.prunePoison) s

/-- Let piers, barriers and runs go on as far as they can: at most as many anneal steps as instructions can be in flight,
and the stages of a system run. -/
def State.carryOn (s : State) : State :=
  let s := s.prunePoison.quiesce
  let s := (s.sysOn 2).annealOn 4000
  if s.runs.any (fun r => r.sys.isSome) then
    (((s.sysOn 4).annealOn 4000).sysOn 4).noteWaits
  else s

end Sys2Proof.Machine
end

