-- ==== Sys2Proof/Machine/Faults.lean ====
section
/-! DEFINITION. The rows of faults, fences and memories: escalation and FAULT (R425-R431), the span heartbeat (R416), the
scrubber (R360), router failures (R380, R381), GDDR7 and CXL (R387-R398), and the stall monitor (R296).
-/

namespace Sys2Proof.Machine

/-! ### Escalation and FAULT -/

/-- A write of 1 to `FLT_ACK.ack` (R426): only inside the window of the running timer. -/
def State.ackFault (s : State) : State :=
  match s.flt.esc with
  | some e =>
    if s.flt.state = 1 && inWindow e.start e.length s.now then s.withFlt { s.flt with state := 0, esc := none } else s
  | none => s

/-- FLT_ACK (R426). -/
def execFltAck (s : State) : Out := goOn (if s.barOk then s.ackFault else s)

/-- ESCALATION_EXPIRY (R426, R427): the window ends without an acknowledgement. -/
def execEscalationExpiry (s : State) : Out :=
  match s.flt.esc with
  | some e => if s.running && s.flt.state = 1 then goOn ((s.passTo (e.start + e.length)).enterFault 2 1).carryOn else goOn s
  | none => goOn s

/-- Recoveries made in the window of R430 that ends at `e`. -/
def Flt.recoveriesIn (f : Flt) (e : Nat) : Nat :=
  (f.recs.filter (fun t => decide (e ≤ t + f.window * tickSec) && decide (t < e))).length

/-- The device leaves FAULT (R429): the recovery is counted, ALIVE_OUT toggles on, the links train. -/
def State.recover (s : State) : State :=
  let now := s.now
  let s := s.withFlt { s.flt with recCount := satAdd 65535 s.flt.recCount 1, recs := s.flt.recs ++ [now], state := 0 }
  let s := { s with pwr := { s.pwr with aliveRun := true, aliveTick := now } }
  let s := (List.range 4).foldl (fun st l =>
    if (st.link l).enable && (st.link l).state = lnkDown && !st.linkFenced l then st.startTraining l else st) s
  s.raiseVector 1041

/-- QUIET_PERIOD_END (R429, R430). -/
def execQuietPeriodEnd (s : State) : Out :=
  if s.running && s.flt.state = 2 then
    let s := s.passTo (s.flt.quietFrom + s.flt.quiet * tickMs)
    if s.flt.recoveriesIn s.now ≥ s.flt.limit then goOn (s.withFlt { s.flt with state := 3, cause := 4 })
    else goOn s.recover.carryOn
  else goOn s

/-- WATCHDOG_EXPIRY (R431): LATCHED with cause watchdog, without the escalation timer. -/
def execWatchdogExpiry (s : State) : Out := goOn (if s.running then (s.enterFault 3 2).carryOn else s)

/-- SPAN_HEARTBEAT_TIMEOUT (R416, R418): SPN source 4, when the condition arises; it clears when the span's pier is heard of again
(entry 129). -/
def execSpanHeartbeatTimeout (n : Fin 16) (s : State) : Out :=
  goOn (if s.running && !s.spanFenced n.val && !(s.span n.val).silent then
    ((s.modSpan n.val (fun x => { x with silent := true })).raise (.spn n) 4 0).carryOn else s)

/-- The span whose array an error is met in. -/
def eventSpan : MemEvent → Option Nat
  | .spanCe n _ _ | .spanUe n _ _ => some n.val
  | .ramCe _ | .ramUe _ | .crc _ _ _ | .cxlPoison _ | .cxlTag _ _ | .hopCe | .vc2Promote | .storeCe | .frontEndUe
  | .cipherError => none

/-- SCRUB_PERIOD (R360): one period after the scrub before, the scrubber meets the errors of the span's arrays; a period of 0
turns it off. -/
def execScrubPeriod (n : Fin 16) (events : List MemEvent) (s : State) : Out :=
  if s.running && !s.spanFenced n.val && decide ((s.span n.val).scrub ≠ 0) then
    let s := s.passTo ((s.span n.val).scrubTick + (s.span n.val).scrub * tickMs)
    let now := s.now
    let s := s.modSpan n.val (fun x => { x with scrubTick := now })
    goOn (s.memEvents (events.filter (fun e => eventSpan e = some n.val))).carryOn
  else goOn s

/-- The SPN block of a fenced span takes no write but W1C (R530). -/
def State.blockTakesWrites (s : State) : BlockId → Bool
  | .spn n => !s.spanFenced n.val
  | .mem _ | .cxl _ | .lnk _ | .mesh | .fe | .mon | .rng => true

/-- FLT_QUEUE_CLEAR (R419): the history queue is emptied. -/
def execFltQueueClear (b : BlockId) (s : State) : Out :=
  goOn (if s.barOk && s.blockTakesWrites b then s.modBlock b (fun f => { f with valid := 0 }) else s)

/-! ### The stall monitor -/

/-- The context's EVWAIT has waited 1 s or more (R296). -/
def Ctx.stallDue (x : Ctx) (now : Nat) : Bool :=
  match x.exec with
  | some e => e.cmd.opcode = 0x04 && e.isWorking && decide (e.start + tickSec ≤ now) && !x.stalled
  | none => false

/-- STALL_CHECK (R296): 100 ms after the check before, each newly stalled context sets its bit and raises vector 1,058 once. -/
def execStallCheck (s : State) : Out :=
  if s.running then
    let s := s.passTo (s.fe.stallTick + 100 * tickMs)
    let s := { s with fe := { s.fe with stallTick := s.now } }
    goOn ((s.ctxs.filter (fun cx => cx.2.stallDue s.now)).foldl (fun st cx =>
      (st.modCtx cx.1 (fun x => { x with stalled := true })).raiseVector 1058) s)
  else goOn s

/-! ### Routers and detours -/

/-- A router is declared failed (R380, R381): the flits inside it are lost, MESH source 1 is raised, the stop behind it is
fenced as Table 14.3 states, and a detour is to be built. -/
def State.routerFails (s : State) (r : Nat) (lost : List Nat) : State :=
  if !s.running || s.routerFailed r then s else
  let s := s.loseInside r lost
  let s := { s with mesh := { s.mesh with failed := s.mesh.failed ||| (1#36 <<< r), installBusy := true } }
  let s := s.enterRaise .mesh 1 true 0
  match stopAt r with
  | .span n => s.fenceSpan n
  | .mem n => s.fenceMem n
  | .lnk l => s.fenceLink l 0
  | .cxl p => s.fenceCxl p
  | .empty => s
  | .service => { s with mesh := { s.mesh with installBusy := false } }.enterFault 3 3

/-- ROUTER_FAILURE (R380). -/
def execRouterFailure (r : RouterLoss) (s : State) : Out := goOn (s.routerFails r.router.val r.inside).carryOn

/-- CREDIT_TIMEOUT (R380). -/
def execCreditTimeout (r : RouterLoss) (s : State) : Out := goOn (s.routerFails r.router.val r.inside).carryOn

/-- The mark of an in-flight request that was lost or failed. -/
def lostMark : Nat := 2 ^ 20

/-- The address of an atomic in flight. -/
def atomicAddr (i : InFlight) : Option Nat :=
  match i.instr with
  | .atadd .. | .atswp .. | .bset .. | .bclr .. => some (i.a.toNat % 2 ^ 48)
  | _ => none

/-! ### GDDR7 and CXL -/

/-- MEM_PERIODIC_RETRAIN (R392): 100 ms after the one before, so the interfaces keep their distances. -/
def execMemPeriodicRetrain (i : Fin 16) (holds : Bool) (s : State) : Out :=
  if s.running && (s.memIface i.val).active && !s.memFenced (i.val / 2) then
    let due := (s.memIface i.val).retrainTick + 100 * tickMs
    goOn (((s.passTo due).modMem i.val (fun x => { x with retrainTick := due })).retrainMem i.val holds).carryOn
  else goOn s

/-- MEM_RETRAIN (R392): a write of 1 to `MEM_CTL.retrain`. -/
def execMemRetrain (i : Fin 16) (holds : Bool) (s : State) : Out :=
  goOn (if s.barOk && (s.memIface i.val).active && !s.memFenced (i.val / 2) then
    (s.retrainMem i.val holds).carryOn else s)

/-- The refresh rate at a temperature (R393): 0 ×1, 1 ×2, 2 ×4. -/
def refreshRate (t : Nat) : Nat := if t < 85 then 0 else if t < 95 then 1 else 2

/-- MEM_TEMPERATURE_CHANGE (R393). -/
def execMemTemperatureChange (i : Fin 16) (temp : BitVec 8) (s : State) : Out :=
  if !s.running then goOn s else
  let t := temp.toNat
  let was := (s.memIface i.val).hot
  let s := s.modMem i.val (fun x => { x with temp := t, refresh := refreshRate t, hot := decide (105 ≤ t) })
  goOn (if decide (105 ≤ t) && !was then (s.raise (memBlock (i.val / 2)) (5 * (i.val % 2) + 4) 0).carryOn else s)

/-- CXL_LINK_LOSS (R398): the port's link-down source, whose fence is fixed. -/
def execCxlLinkLoss (p : Fin 2) (s : State) : Out :=
  goOn (if s.running && (s.cxl p.val).present && !s.cxlFenced p.val then (s.raiseMandatory (.cxl p) 3 0).carryOn else s)

end Sys2Proof.Machine
end

