-- ==== Sys2Proof/Machine/Reset.lean ====
section
/-! DEFINITION. The resets (R413, R487, R493-R496): a span reset, FLR and DEV soft reset, the reset of the whole die, power
off and on, and the march test that host software requests (R361-R364).
-/

namespace Sys2Proof.Machine

/-! ### Span reset (R495) -/

/-- The registers of a span after a span reset (R202, R365, R495). The arrays, the scrub period, the repair fields and
the poison of words stay, and so does what the span has of a run of its buddy, whose deck shadow it keeps (R34). -/
def Span.reset (x : Span) : Span :=
  { x with pier := pier0,
           eng := { engine0 with data := x.eng.data, ghosts := x.eng.ghosts, pairFlits := x.eng.pairFlits,
                                 pairMarks := x.eng.pairMarks, pairNext := x.eng.pairNext },
           texp := [], bound := none,
           order := 0, resetRefused := false, tenStatus := 0, tileStalls := 0, replays := 0, memCe := 0, errArray := 0,
           errWord := 0, marchPreserve := false, marchKeep := false, marchState := 2, marchRefused := false, cycles := 0,
           silent := false }

/-- No launch is queued or running on span `n`, none waits for it at the front end, and no run is bound (R364, R495). -/
def State.spanIdle (s : State) (n : Nat) : Bool :=
  let x := s.span n
  x.pier.launch.isNone && x.pier.queue.isEmpty && (s.waitingLaunches n).isEmpty && x.bound.isNone

/-- A write of 1 to `SPN_CTL.reset` (R495, R530). -/
def State.spanReset (s : State) (n : Nat) : State :=
  if s.spanFenced n then s
  else if s.spanIdle n && decide ((s.span n).marchState ≠ 1) then s.modSpan n Span.reset
  else s.modSpan n (fun x => { x with resetRefused := true })

/-- SPAN_RESET (R495). -/
def execSpanReset (n : Fin 16) (s : State) : Out := goOn (if s.barOk then s.spanReset n.val else s)

/-! ### March tests (R361-R364) -/

/-- Spare rows of one bank of an array (Table 13.4). -/
def spareRows : Nat → Nat
  | 0 => 16
  | 1 => 8
  | 2 | 3 | 4 | 5 | 6 => 4
  | _ => 2

/-- The key of a bank in `Span.spares`. -/
def spareKey (f : MarchFinding) : Nat := f.array.val * 128 + f.bank.val

/-- Take spares for failing rows (R362); `repaired` counts the rows that take one (Table 13.5). -/
def Span.takeSpares (x : Span) (fs : List MarchFinding) : Span :=
  let spares := fs.foldl (fun m f =>
    Store.put 0 (spareKey f) (min (spareRows f.array.val) (Store.get 0 (spareKey f) m + f.rows)) m) x.spares
  { x with spares := spares, repaired := satAdd 255 0 ((spares.map Prod.snd).sum - (x.spares.map Prod.snd).sum) }

/-- A bank has more failing rows than spares (R363). -/
def Span.sparesOut (x : Span) (fs : List MarchFinding) : Bool :=
  fs.any (fun f =>
    decide (spareRows f.array.val < Store.get 0 (spareKey f) x.spares
      + ((fs.filter (fun g => spareKey g = spareKey f)).map (fun g => g.rows)).sum))

/-- The result of a march test of span `n` (R362-R364): spares are taken; where they run out, the span is fenced. -/
def State.marchResult (s : State) (n : Nat) (fs : List MarchFinding) : State :=
  let mine := fs.filter (fun f => f.span.val = n)
  let out := (s.span n).sparesOut mine
  let s := s.modSpan n (fun x => { x.takeSpares mine with marchState := if out then 3 else 2 })
  if out then s.raiseMandatory (spnBlock n) 1 0 else s

/-- The arrays of span `n` that a destructive test leaves zero (R361). -/
def State.zeroSpan (s : State) (n : Nat) : State :=
  let lo := spanRegion n
  let s := { s with mem := s.mem.filter (fun c => !(decide (lo ≤ c.1) && decide (c.1 < lo + scratchSize))),
                    problems := s.problems.map (fun (p : Problem) => p.zeroedIn n lo),
                    poison := s.poison.filter (fun k => !(decide (lo ≤ k) && decide (k < lo + scratchSize))) }
  s.modSpan n (fun x =>
    { x with eng := { x.eng with data := spanData0 }, shadow := [], snap := [], acc := [], poison := [], tileBuf := [] })

/-- A write of 1 to `SPN_MARCH_CTL.start` (R364). In destructive mode every array is zero from here on: what the mesh
reads or writes meanwhile waits for the end of the test, so it finds the zeros and is not undone by them. -/
def State.marchRequest (s : State) (n : Nat) : State :=
  if s.spanFenced n then s
  else if s.spanIdle n && decide ((s.span n).marchState ≠ 1) then
    let s := if (s.span n).marchPreserve then s else s.zeroSpan n
    s.modSpan n (fun x => { x with marchState := 1, marchKeep := x.marchPreserve })
  else s.modSpan n (fun x => { x with marchRefused := true })

/-- MARCH_TEST_REQUEST (R364): the write sets `preserve` and starts the test. -/
def execMarchTestRequest (n : Fin 16) (preserve : Bool) (s : State) : Out :=
  goOn (if s.barOk && !s.spanFenced n.val then
    (s.modSpan n.val (fun x => { x with marchPreserve := preserve })).marchRequest n.val else s)

/-- MARCH_TEST_DONE (R364): spares are taken, and launches for the span proceed. The registers of a fenced span hold their last
values (R530). -/
def execMarchTestDone (n : Fin 16) (findings : List MarchFinding) (s : State) : Out :=
  if s.running && !s.spanFenced n.val && decide ((s.span n.val).marchState = 1) then
    goOn ((s.marchResult n.val findings).sendLaunches 8 n.val).carryOn
  else goOn s

/-! ### FLR and DEV soft reset (R413, R494) -/

/-- The parts of system runs tell the others that they stop (Table 16.6, R234). -/
def State.tellStops (s : State) : State :=
  s.runs.foldl (fun st r => match st.sysOf r.problem with
    | some (_, y, r, x) => if x.endCause = 0 then st.endPart y r 4 (r.sweep * r.k) else st
    | none => st) s

/-- A FAULT by escalation or recovery limit ends, and the recovery count is reset (Table 16.6). ALIVE_OUT toggles and
links train as after a recovery (R429). -/
def State.leaveFault (s : State) : State :=
  let s := s.withFlt { s.flt with recCount := 0, recs := [] }
  if s.flt.state = 2 || (s.flt.state = 3 && s.flt.cause = 4) then
    let now := s.now
    let s := s.withFlt { s.flt with state := 0 }
    let s := { s with pwr := { s.pwr with aliveRun := true, aliveTick := now } }
    (List.range 4).foldl (fun st l =>
      if (st.link l).enable && (st.link l).state = lnkDown && !st.linkFenced l then st.startTraining l else st) s
  else s

/-- What FLR and DEV soft reset do to contexts, runs, launches, events and loaded problems (Tables 16.6, 20.3): no entry,
capture record or result record is written. Every unfenced span takes a span reset. -/
def State.clearWork (s : State) : State :=
  let s := s.tellStops
  let s := spanIds.foldl (fun st n =>
    if st.spanFenced n then st.modSpan n (fun x => { x with bound := none, pier := { x.pier with launch := none, queue := [] } })
    else st.modSpan n Span.reset) s
  { s with ctxs := [], events := [], problems := [], runs := [], early := [],
           mesh := { s.mesh with vc1 := [] },
           fe := { s.fe with rrHigh := 0, rrNormal := 0, loads := 0, barriers := [] } }

/-- The cause of the last reset (Table 20.4). -/
def State.setCause (s : State) (c : Nat) : State := { s with boot := { s.boot with cause := c } }

/-- ready is 0 until the reset completes (R413, R494); a reset during the boot leaves the boot to raise it (R496). -/
def State.startReset (s : State) : State :=
  { s with boot := { s.boot with resetting := s.boot.ready || s.boot.resetting, ready := false } }

/-- The function's registers take their reset values: configuration space but for the sticky bits of AER, BAR sizes, MSI-X,
`DEV_WIN_BASE` and `DEV_HERR`. What the port has trained to is kept (Table 16.6). -/
def State.resetFunction (s : State) : State :=
  { s with pcie := { pcie0 with speed := s.pcie.speed, width := s.pcie.width, flit := s.pcie.flit, aer := s.pcie.aer } }

/-- FLR (R413): from its initiation on nothing is sent to the host, so the function is reset before the work is stopped, and what
the stops leave in its registers goes too. -/
def State.functionReset (s : State) : State :=
  (s.resetFunction.clearWork.leaveFault.setCause 3).startReset.resetFunction

/-- FLR (R413, R496). -/
def execFlr (s : State) : Out := goOn (if s.running then s.functionReset else s)

/-- DEV soft reset (R494). -/
def State.softReset (s : State) : State := (s.clearWork.leaveFault.setCause 4).startReset

/-- DEV_SOFT_RESET (R494): a write before ready is ignored (R410). -/
def execDevSoftReset (s : State) : Out := goOn (if s.barOk then s.softReset else s)

/-! ### The reset of the die (R487, R493) -/

/-- The die after a reset as at PERST_N: every register, array and memory of the module is at its reset value; flash, mask ROM,
host memory, what software has put there, and the count of relocks stay. -/
def State.dieReset (s : State) (cause : Nat) : State :=
  { s with
    boot := { boot0 with cause := cause, relocks := s.boot.relocks }, time := time0, pcie := pcie0, mon := mon0,
    flt := flt0, blocks := [], mbx := mbx0, mesh := mesh0, mems := [], cxls := [],
    sec := { sec0 with flash := s.sec.flash, arbImage := s.sec.arbImage, arbConfig := s.sec.arbConfig,
                       romAnchor := s.sec.romAnchor },
    links := ((List.range 4).filter (fun l => !(s.link l).cable)).map (fun l => (l, { link0 with cable := false })),
    linkSys := ⟨0, false, []⟩,
    spans := [], ctxs := [], events := [], fe := fe0, problems := [], runs := [], early := [],
    mem := s.mem.filter (fun c => decide (hostBase ≤ c.1)), poison := [] }

/-- PERST_N_ASSERT (R487): the die is held in reset and every activity ends at once. -/
def execPerstNAssert (s : State) : Out :=
  if s.pwr.perst then goOn s
  else
    let t := s.dieReset 1
    goOn { t with pwr := { t.pwr with perst := true, alive := false, aliveRun := true, aliveTick := 0, therm := t.pwr.tripped,
                                      cxlPerst := 3 } }

/-- PERST_N_RELEASE (R485, R488, R505): the boot starts at stage 5, and SLOT_ID is sampled. -/
def execPerstNRelease (slotId : BitVec 4) (s : State) : Out :=
  if s.pwr.perst then goOn { s with pwr := { s.pwr with perst := false, slotId := slotId } } else goOn s

/-- The regulators switch off (R486): device memory is lost. -/
def State.powerOff (s : State) : State :=
  let t := s.dieReset 0
  { t with boot := { t.boot with relocks := 0 },
           pwr := { t.pwr with on := false, good := false, alive := false, aliveRun := true, aliveTick := 0, cxlPerst := 3 } }

/-- The module starts as at power-up (R485): its last reset is a power-on, or the thermal trip that the auxiliary domain
has latched (R497). -/
def State.powerOn (s : State) : State :=
  let t := s.dieReset (if s.pwr.tripCause then 5 else 0)
  { t with pwr := { t.pwr with on := true, good := true, therm := false, tripped := false, tripCause := false,
                               alive := false, aliveRun := true, aliveTick := 0 } }

/-- PWR_EN_ASSERT (R485, R483). -/
def execPwrEnAssert (s : State) : Out :=
  if s.pwr.en then goOn s
  else
    let s := { s with pwr := { s.pwr with en := true } }
    goOn (if s.pwr.vin then s.powerOn else s)

/-- PWR_EN_DEASSERT (R486). -/
def execPwrEnDeassert (s : State) : Out :=
  if s.pwr.en then
    let s := if s.pwr.on then s.powerOff else s
    goOn { s with pwr := { s.pwr with en := false } }
  else goOn s

/-- VIN_UNDERVOLTAGE (R486): 48 V is gone, and with it what the auxiliary domain has latched. -/
def execVinUndervoltage (s : State) : Out :=
  let s := if s.pwr.on then s.powerOff else s
  goOn { s with pwr := { s.pwr with vin := false, tripCause := false, therm := false } }

/-- VIN_OVERVOLTAGE (R506): the module switches off. -/
def execVinOvervoltage (s : State) : Out := goOn (if s.pwr.on then s.powerOff else s)

/-- VIN_RESTORED (R483): after a thermal trip the module starts as at power-up; otherwise it waits for PWR_EN (R486). -/
def execVinRestored (s : State) : Out :=
  if s.pwr.vin then goOn s
  else
    let s := { s with pwr := { s.pwr with vin := true } }
    goOn (if s.pwr.tripped && s.pwr.en then s.powerOn else { s with pwr := { s.pwr with tripped := false } })

/-- THERMAL_TRIP (R483): every die and memory rail is removed; THERM_N is held asserted. -/
def execThermalTrip (s : State) : Out :=
  if s.pwr.on then
    let t := s.powerOff
    goOn { t with pwr := { t.pwr with therm := true, tripped := true, tripCause := true } }
  else goOn s

/-- PLL_LOCK_LOSS (R470): the die resets as at a PERST_N and restarts when lock returns. -/
def execPllLockLoss (s : State) : Out :=
  if s.running then
    let t := s.dieReset 2
    goOn { t with boot := { t.boot with lock := false, relocks := satAdd 255 s.boot.relocks 1 },
                  pwr := { t.pwr with alive := false, aliveRun := true, aliveTick := 0, cxlPerst := 3, therm := false } }
  else goOn s

end Sys2Proof.Machine
end

