-- ==== Sys2Proof/Machine/RegMap.lean ====
section
/-! DEFINITION. The reads of BAR0 (22): the value of every register word, by offset. No read of BAR0 but that of `RNG_WORD`
changes the state (R516), which has a command of its own.
-/

namespace Sys2Proof.Machine

/-- Bit `i` of a word when the condition holds. -/
def bitIf (b : Bool) (i : Nat) : Nat := if b then 2 ^ i else 0

/-- The lower half of a 64-bit number. -/
def lo32 (n : Nat) : Nat := n % 2 ^ 32
/-- The upper half of a 64-bit number. -/
def hi32 (n : Nat) : Nat := n / 2 ^ 32 % 2 ^ 32

/-! ### Words that the mailbox and the management port return too -/

/-- A unit is fenced (R424). -/
def Flt.degraded (f : Flt) : Bool := decide (f.spans ≠ 0) || decide (f.mems ≠ 0) || decide (f.links ≠ 0) || decide (f.cxls ≠ 0) ||
  f.lanes.any (fun q => decide (q.2 ≠ 0))

/-- `FLT_STATE` (Table 17.6). -/
def State.fltStateWord (s : State) : Nat :=
  s.flt.state + bitIf s.flt.degraded 2 + bitIf s.pwr.aliveRun 3 + s.flt.cause * 2 ^ 4

/-- `FLT_ESC_LEFT`: the time left in the window in ms, rounded down. -/
def State.escLeft (s : State) : Nat :=
  match s.flt.esc with
  | some e => (e.start + e.length - s.now) / tickMs
  | none => 0

/-- `FLT_REC`: recoveries since the reset of R430, and those in the window that ends now. -/
def State.fltRecWord (s : State) : Nat := s.flt.recCount + min 255 (s.flt.recoveriesIn s.now) * 2 ^ 16

/-- `FLT_FENCED`. -/
def Flt.fencedWord (f : Flt) : Nat := f.spans.toNat + f.mems.toNat * 2 ^ 16 + f.links.toNat * 2 ^ 24 + f.cxls.toNat * 2 ^ 28

/-- ms left in the quiet period, rounded down; 0 outside FAULT (R525). -/
def State.quietLeft (s : State) : Nat :=
  if s.flt.state = 2 then (s.flt.quietFrom + s.flt.quiet * tickMs - s.now) / tickMs else 0

/-- `SEC_STATUS` (Table 18.7). -/
def Sec.statusWord (x : Sec) : Nat :=
  bitIf x.approved 0 + bitIf x.debug 1 + bitIf x.identityOk 2 + bitIf x.recovery 3 + bitIf x.selfTestFail 4
    + x.imageSlot * 2 ^ 5 + x.configSlot * 2 ^ 6

/-! ### Blocks -/

/-- The DEV block (Tables 16.7, 19.2, 20.4, 22.3). -/
def State.devWord (s : State) (o : Nat) : Nat :=
  match o with
  | 0x00 => 0x20481F7B
  | 0x04 =>
    let r := Config.revision.toNat
    1 + natBits r 0 0 * 2 ^ 8 + natBits r 4 1 * 2 ^ 16 + natBits r 8 5 * 2 ^ 20
  | 0x08 => boolNat s.boot.ready + s.boot.stage * 2 + bitIf s.boot.failed 5 + s.boot.failCode * 2 ^ 8
  | 0x14 => s.boot.cause
  | 0x20 => s.pcie.speed.toNat + s.pcie.width.toNat * 2 ^ 3 + bitIf s.pcie.flit 6
  | 0x40 => s.pcie.winBase.toNat % 16 * 2 ^ 28
  | 0x44 => s.pcie.winBase.toNat / 16
  | 0x48 => s.pcie.herr.toNat
  | 0x80 => s.time.sub
  | 0x84 => s.time.sec
  | 0x90 => lo32 s.time.ticks
  | 0x94 => hi32 s.time.ticks
  | 0x98 => s.time.pps + bitIf s.time.jump 2 + bitIf s.time.lost 3
  | 0x9C => unsignedOf 32 s.time.ppsLast
  | 0xA0 => s.time.jumps + s.time.losses * 2 ^ 8 + s.time.ignored * 2 ^ 16
  | 0xA8 => boolNat s.boot.lock + s.boot.relocks * 2 ^ 8
  | _ => 0

/-- The FE block (Table 22.4). -/
def State.feWord (s : State) (o : Nat) : Nat :=
  match o with
  | 0x00 => (s.ctxs.filter (fun c => decide (c.2.state ≠ .free))).length + s.problems.length * 2 ^ 16
  | 0x08 => boolNat s.fe.notify
  | 0x0C => s.fe.lostId
  | _ => 0

/-- The MON block (Table 19.3). -/
def State.monWord (s : State) (o : Nat) : Nat :=
  let k := o / 4
  if o < 0x60 then unsignedOf 12 (Store.get 0 k s.mon.die)
  else if o < 0x70 then unsignedOf 12 (Store.get 0 (k - 0x18) s.mon.mod)
  else if o = 0x70 then boolNat s.mon.inletCold
  else if 0x80 ≤ o && o < 0xB0 then
    let v := Store.get ⟨0, false, false⟩ (k - 0x20) s.mon.volt
    v.mv % 2 ^ 16 + bitIf v.low 16 + bitIf v.high 17
  else if 0xC0 ≤ o && o < 0x100 then Store.get 0 (k - 0x30) s.mon.proc
  else if o = 0x100 then s.mon.level + s.mon.steps * 2 ^ 16
  else if o = 0x104 then unsignedOf 12 s.mon.tj
  else 0

/-- The FLT block (Table 17.6). -/
def State.fltWord (s : State) (o : Nat) : Nat :=
  match o with
  | 0x00 => s.fltStateWord
  | 0x0C => s.flt.escTime
  | 0x10 => s.escLeft
  | 0x14 => s.flt.quiet
  | 0x18 => s.fltRecWord
  | 0x1C => s.flt.limit + s.flt.window * 2 ^ 8
  | 0x20 => s.flt.fencedWord
  | _ => 0

/-- The RNG block without `RNG_WORD` (Table 18.7). -/
def State.rngWordAt (s : State) (o : Nat) : Nat :=
  match o with
  | 0x08 => s.sec.rng + bitIf s.sec.source 2 + bitIf s.sec.reseeding 3
  | 0x10 => s.sec.reseeds
  | 0x18 => s.sec.statusWord
  | _ => 0

/-- The MBX block (Table 22.5). -/
def State.mbxWord (s : State) (o : Nat) : Nat :=
  if o = 0x04 then
    boolNat s.mbx.busy + bitIf s.mbx.done 1 + bitIf s.mbx.overrun 2 + s.mbx.status * 2 ^ 8 + s.mbx.seq.toNat * 2 ^ 16
  else if o = 0x08 then s.mbx.len
  else if 0x100 ≤ o && o < 0x180 then numAt s.mbx.resp (o - 0x100) 4
  else 0

/-- The MESH block (Table 14.4). -/
def State.meshWord (s : State) (o : Nat) : Nat :=
  match o with
  | 0x00 => boolNat s.mesh.detour + bitIf s.mesh.installBusy 1 + s.mesh.generation * 2 ^ 8
  | 0x08 => lo32 s.mesh.failed.toNat
  | 0x0C => hi32 s.mesh.failed.toNat
  | 0x10 => s.mesh.drops
  | 0x14 => s.mesh.hopCe
  | 0x18 => s.mesh.promote
  | 0x1C => s.mesh.lost
  | 0x20 => natBits (s.block .mesh).status.toNat 1 0
  | _ => 0

/-- A MEM block (Table 15.3): interface i of stop `n` at 0x100 × i. -/
def State.memWord (s : State) (n o : Nat) : Nat :=
  if 0x200 ≤ o then 0 else
  let x := s.memIface (2 * n + o / 0x100)
  match o % 0x100 with
  | 0x00 => boolNat (x.active && !s.memFenced n) + bitIf (s.memFenced n) 1 + x.rate * 2 ^ 2 + bitIf s.sec.cfg.eccOn 4 + x.refresh * 2 ^ 5
  | 0x08 => x.ce
  | 0x0C => x.retry
  | 0x10 => lo32 x.ueAddr
  | 0x14 => hi32 x.ueAddr
  | 0x18 => x.temp
  | 0x20 => natBits ((s.block (memBlock n)).status.toNat >>> (5 * (o / 0x100))) 4 0
  | _ => 0

/-- A CXL block (Table 15.4). -/
def State.cxlWord (s : State) (p o : Nat) : Nat :=
  let x := s.cxl p
  match o with
  | 0x00 => boolNat x.present + bitIf (s.cxlFenced p) 1 + bitIf x.enc 2 + x.width.toNat * 2 ^ 3 + x.speed.toNat * 2 ^ 6
  | 0x08 => x.capBytes / 0x10000000
  | 0x10 => lo32 x.poisonAddr
  | 0x14 => hi32 x.poisonAddr
  | 0x18 => x.timeouts
  | 0x20 => natBits (s.block (cxlBlock p)).status.toNat 3 0
  | _ => 0

/-- The word of `LNK_ROUTE` that holds entries 16w to 16w + 15 (R527). -/
def LinkSys.routeWord (x : LinkSys) (w : Nat) : Nat :=
  (List.range 16).foldl (fun acc m => acc + Store.get 0 (16 * w + m) x.route * 4 ^ m) 0

/-- A LNK block (Table 22.7, R527). -/
def State.lnkWord (s : State) (l o : Nat) : Nat :=
  let x := s.link l
  if 0x1000 ≤ o && o < 0x1400 then s.linkSys.routeWord ((o - 0x1000) / 4)
  else match o with
  | 0x00 => boolNat x.enable + bitIf x.fwdEn 1 + bitIf x.dateline 2
  | 0x04 =>
    x.state + x.width * 2 ^ 3 + x.failed.toNat * 2 ^ 5 + bitIf x.txEnc 13 + bitIf x.rxEnc 14 + x.txSlot * 2 ^ 15
      + x.rxSlot * 2 ^ 16 + x.downRx * 2 ^ 17 + x.downTx * 2 ^ 20
  | 0x08 => x.peer.toNat + bitIf x.peerValid 12
  | 0x10 => s.linkSys.moduleId.toNat + bitIf s.linkSys.encAny 12
  | 0x20 => x.replays
  | 0x24 => x.fecCorr
  | 0x28 => x.fecUncorr
  | 0x2C => x.drops
  | 0x30 => x.badKind
  | 0x34 => x.unknownVar
  | _ => 0

/-- Spare rows in use in a span (`SPN_SPARE.used`). -/
def Span.sparesUsed (x : Span) : Nat := (x.spares.map Prod.snd).sum

/-- Fewest spares left in any bank or array (`SPN_SPARE.min_left`): 2 while no bank has fewer (Table 13.4). -/
def Span.sparesLeft (x : Span) : Nat := x.spares.foldl (fun m k => min m (spareRows (k.1 / 128) - k.2)) 2

/-- A SPN block (Tables 7.8, 7.9, 11.8, 13.5, 20.4, 22.8). -/
def State.spnWord (s : State) (n o : Nat) : Nat :=
  let x := s.span n
  let shown := if s.spanFenced n then x.fenceRun
    else x.bound.map (fun q => (match s.run q with
      | some r => lo32 r.sweep
      | none => 0, lo32 x.eng.epoch))
  match o with
  | 0x000 => bitIf x.resetRefused 1
  | 0x008 => boolNat (s.spanFenced n) + bitIf shown.isSome 1 + bitIf (x.marchState = 1) 2
  | 0x020 => lo32 x.cycles
  | 0x024 => hi32 x.cycles
  | 0x028 => (shown.map Prod.fst).getD 0
  | 0x02C => (shown.map Prod.snd).getD 0
  | 0x100 => s.pierStatus n
  | 0x104 => x.pier.pc
  | 0x108 => x.pier.launchSeq
  | 0x400 => x.tenStatus.toNat
  | 0x408 => x.tileStalls
  | 0x410 => x.replays
  | 0x500 => x.memCe
  | 0x504 => natBits (s.block (spnBlock n)).status.toNat 1 0
  | 0x508 => x.errWord + x.errArray * 2 ^ 28
  | 0x510 => bitIf x.marchPreserve 1
  | 0x514 => x.marchState + bitIf x.marchRefused 2 + x.repaired * 2 ^ 8
  | 0x518 => x.sparesUsed % 2 ^ 16 + x.sparesLeft * 2 ^ 16
  | 0x51C => x.scrub
  | _ => 0

/-- A context's state as `CTX_STATUS` shows it. -/
def CtxState.code : CtxState → Nat
  | .free => 0
  | .active => 1
  | .stopped => 2
  | .draining => 3
  | .aborting => 4

/-- A context window (Tables 10.1 to 10.3, R298). -/
def State.ctxWord (s : State) (c o : Nat) : Nat :=
  let x := s.ctx c
  if 0x800 ≤ o && o < 0xA00 then numAt x.capture (o - 0x800) 4
  else match o with
  | 0x00 => x.tail.toNat
  | 0x40 => boolNat x.enable + bitIf x.abort 1 + bitIf x.priority 3
  | 0x44 =>
    x.state.code + bitIf x.enablePending 3 + bitIf x.stalled 4 + bitIf x.destroyDone 5 + x.lastStatus * 2 ^ 16
  | 0x48 => lo32 x.ringBase.toNat
  | 0x4C => hi32 x.ringBase.toNat
  | 0x50 => lo32 x.cplBase.toNat
  | 0x54 => hi32 x.cplBase.toNat
  | 0x58 => x.ringLog2 + x.cplLog2 * 2 ^ 8
  | 0x5C => x.hang.toNat
  | 0x60 => x.head.toNat
  | 0x64 => x.cplTail.toNat
  | 0x68 => x.cplHead.toNat
  | 0x70 => lo32 x.capAddr.toNat
  | 0x74 => hi32 x.capAddr.toNat
  | _ => 0

/-- The registers of an event (Table 10.12). -/
def State.evtWord (s : State) (e o : Nat) : Nat :=
  let x := s.event e
  match o with
  | 0x0 => lo32 x.value.toNat
  | 0x4 => hi32 x.value.toNat
  | 0x8 => boolNat x.error + bitIf x.irqEn 1 + x.vector.toNat * 4
  | _ => 0

/-- The MSI-X table (R408). -/
def State.msixWord (s : State) (o : Nat) : Nat :=
  let x := Store.get msix0 (o / 16) s.pcie.msix
  match o % 16 with
  | 0x0 => lo32 x.addr.toNat
  | 0x4 => hi32 x.addr.toNat
  | 0x8 => x.data.toNat
  | _ => boolNat x.masked

/-- The pending-bit array (R408). -/
def State.pbaWord (s : State) (o : Nat) : Nat :=
  (List.range 32).foldl (fun acc k => acc + bitIf (s.pcie.pba.contains (8 * o + k)) k) 0

/-- The bytes of a history entry (Table 17.4). -/
def HistEntry.bytes (e : HistEntry) : List Byte :=
  leBytes 8 (e.sub + e.sec * 2 ^ 32) ++ leBytes 1 e.source ++ leBytes 1 (e.severity + bitIf e.mandatory 2) ++ leBytes 6 e.detail

/-- The block fault interface (Table 17.3), by its offset in the block. -/
def FltIf.word (f : FltIf) (o : Nat) : Nat :=
  if 0xF80 ≤ o then numAt (Store.get hist0 ((o - 0xF80) / 16) f.hist).bytes (o % 16) 4
  else match o with
  | 0xF00 => f.status.toNat
  | 0xF04 => f.irqEn.toNat
  | 0xF08 => lo32 f.sev.toNat
  | 0xF0C => hi32 f.sev.toNat
  | 0xF10 => f.corr
  | 0xF14 => f.valid + f.oldest * 2 ^ 4
  | 0xF18 => f.ovf
  | _ => 0

/-! ### The block map (R518, R519) -/

/-- What an offset of BAR0 lies in: a block with the offset in it (Table 22.1). -/
inductive Place where
  | dev
  | fe
  | mon
  | flt
  | rng
  | mbx
  | mesh
  | mem (n : Nat)
  | cxl (p : Nat)
  | lnk (l : Nat)
  | spn (n : Nat)
  | ctx (c : Nat)
  | evt (e : Nat)
  | msix
  | pba
  | reserved
deriving DecidableEq, Repr

/-- The place of an offset, and the offset in it. -/
def placeAt (o : Nat) : Place × Nat :=
  let k := o / 0x10000
  let r := o % 0x10000
  if o < 0x80000 then
    ((match k with
      | 0 => .dev
      | 1 => .fe
      | 2 => .mon
      | 3 => .flt
      | 4 => .rng
      | 5 => .mbx
      | 6 => .mesh
      | _ => .reserved), r)
  else if o < 0x100000 then (.mem (k - 8), r)
  else if o < 0x120000 then (.cxl (k - 0x10), r)
  else if o < 0x160000 then (.lnk (k - 0x12), r)
  else if o < 0x200000 then (.reserved, r)
  else if o < 0x300000 then (.spn (k - 0x20), r)
  else if o < 0x400000 then (.reserved, r)
  else if o < 0x800000 then (.ctx ((o - 0x400000) / 0x1000), o % 0x1000)
  else if o < 0x900000 then (.evt ((o - 0x800000) / 16), o % 16)
  else if o < 0x908000 then (.msix, o - 0x900000)
  else if 0x980000 ≤ o && o < 0x980100 then (.pba, o - 0x980000)
  else (.reserved, r)

/-- The block whose fault interface a place holds (R419). -/
def Place.block : Place → Option BlockId
  | .fe => some .fe
  | .mon => some .mon
  | .rng => some .rng
  | .mesh => some .mesh
  | .mem n => some (memBlock n)
  | .cxl p => some (cxlBlock p)
  | .lnk l => some (lnkBlock l)
  | .spn n => some (spnBlock n)
  | .dev | .flt | .mbx | .ctx _ | .evt _ | .msix | .pba | .reserved => none

/-- The 32-bit word at an offset of BAR0 that is a multiple of 4 (R513, R519). -/
def State.bar0Word (s : State) (o : Nat) : Nat :=
  let p := placeAt o
  let r := p.2
  match p.1.block, decide (0xF00 ≤ r) && decide (r < 0x1000) with
  | some b, true => (s.block b).word r
  | _, _ =>
    match p.1 with
    | .dev => s.devWord r
    | .fe => s.feWord r
    | .mon => s.monWord r
    | .flt => s.fltWord r
    | .rng => s.rngWordAt r
    | .mbx => s.mbxWord r
    | .mesh => s.meshWord r
    | .mem n => s.memWord n r
    | .cxl q => s.cxlWord q r
    | .lnk l => s.lnkWord l r
    | .spn n => s.spnWord n r
    | .ctx c => s.ctxWord c r
    | .evt e => s.evtWord e r
    | .msix => s.msixWord r
    | .pba => s.pbaWord r
    | .reserved => 0

/-- A naturally aligned access of 4 or 8 bytes (R514). -/
def barAligned (o n : Nat) : Bool := (n = 4 && o % 4 = 0) || (n = 8 && o % 8 = 0)

/-- What a host read of `n` bytes at offset `o` of BAR0 returns (R410, R513-R517), but for `RNG_WORD`; nothing while BAR0
is not decoded (R402, R487). -/
def State.bar0Read (s : State) (o n : Nat) : Option (List Byte) :=
  if !s.running || s.pcie.d3hot then none
  else if !barAligned o n || (!s.boot.ready && (placeAt o).1 ≠ .dev) then some (List.replicate n 0#8)
  else if n = 4 then some (leBytes 4 (s.bar0Word o))
  else some (leBytes 4 (s.bar0Word o) ++ leBytes 4 (s.bar0Word (o + 4)))

end Sys2Proof.Machine
end

