-- ==== Sys2Proof/Machine/Sec.lean ====
section
/-! DEFINITION. The security block (18): the random number generator (R446-R455), keys (R456, R457), firmware (R458-R461),
identity and attestation (R462, R463), debug unlock (R466, R467); and the requests of the mailbox (R297, R523-R525) and of
the management port (R464, R465, R490).
-/

namespace Sys2Proof.Machine

/-- Change the security block. -/
def State.modSec (s : State) (f : Sec → Sec) : State := { s with sec := f s.sec }

/-- The RNG becomes FAILED (R452): the DRBG state is zeroized and source 0 is raised. -/
def State.rngFail (s : State) : State :=
  (s.modSec (fun x => { x with rng := 2, reseeding := false, gens := 0, drbg := drbg0, reseedInput := [] })).raise .rng 0 0

/-- The DRBG takes a new state from 1,024 samples of entropy input, 512 of nonce and a personalisation string (R448, R450); the RNG
fails when the samples fail a health test (R447, R452; entry 112). -/
def State.seedDrbg (s : State) (personal : List Byte) : State :=
  let e := s.samples 1024
  let n := e.2.samples 512
  if s.sec.badSamples (e.1 ++ n.1) then n.2.rngFail
  else { n.2 with sec := { n.2.sec with drbg := Drbg.instantiate e.1 n.1 personal, gens := 0, seedTick := n.2.now } }

/-- The DRBG is reseeded from 1,024 samples and the additional input (R448, R451); the RNG fails when the samples fail a health test
(R447, R452; entry 112). -/
def State.reseedDrbg (s : State) : State :=
  let e := s.samples 1024
  let x := e.2.sec
  if x.badSamples e.1 then e.2.rngFail
  else { e.2 with sec := { x with drbg := x.drbg.reseed e.1 x.reseedInput, gens := 0, seedTick := e.2.now, reseedInput := [],
                                  reseeding := false, reseeds := satInc x.reseeds } }

/-! ### Keys and the self-test error state -/

/-- A key slot holds a key. -/
def State.hasKey (s : State) (l : Nat) (receive : Bool) (slot : Nat) : Bool :=
  (Store.get none (keyIndex l receive slot) s.sec.keys).isSome

/-- The slot is in use in its direction (R457). -/
def Link.slotInUse (x : Link) (receive : Bool) (slot : Nat) : Bool :=
  if receive then x.rxEnc && x.rxSlot = slot else x.txEnc && x.txSlot = slot

/-- The link has an encrypted direction. -/
def Link.encrypted (x : Link) : Bool := x.txEnc || x.rxEnc

/-- Clear the key slots of a mask, the link keys by their index, then the CXL keys; a link whose key in use is cleared sends
DOWN (R457; entry 68). -/
def State.zeroizeKeys (s : State) (slots : Nat) : State :=
  let hit (l : Nat) : Bool := [false, true].any (fun d => [0, 1].any (fun k =>
    natBit slots (keyIndex l d k) && (s.link l).slotInUse d k))
  let s := s.modSec (fun x => { x with keys := x.keys.filter (fun k => !natBit slots k.1),
                                       cxlKeys := x.cxlKeys.filter (fun k => !natBit slots (16 + k.1)) })
  (List.range 4).foldl (fun st l => if hit l then st.takeDown l 4 lnkDown false else st) s

/-- Fence every encrypted CXL port (R455, R467). -/
def State.fenceEncrypted (s : State) : State :=
  (List.range 2).foldl (fun st p => if (st.cxl p).enc then st.fenceCxl p else st) s

/-- The self-test error state (R446, R455): source 1, the RNG FAILED, encrypted links and ports taken down. -/
def State.selfTestError (s : State) : State :=
  let s := (s.raise .rng 1 0).rngFail
  let s := (List.range 4).foldl (fun st l =>
    if (st.link l).encrypted then st.takeDown l 5 lnkDown false else st) s
  s.fenceEncrypted.modSec (fun x => { x with selfTestFail := true, approved := false })

/-! ### Objects in flash (R458-R461) -/

/-- The flash slot of a kind. -/
def flashIndex (k : ObjKind) (slot : Nat) : Nat :=
  match k with
  | .image => slot
  | .config => 2 + slot

/-- A number in a flash slot. -/
def Sec.flashNat (x : Sec) (k : ObjKind) (slot off n : Nat) : Nat :=
  let f := Store.get [] (flashIndex k slot) x.flash
  leNat ((List.range n).map (fun i => Store.get 0#8 (off + i) f))

/-- The security version of a slot (Table 18.3). -/
def Sec.slotVersion (x : Sec) (k : ObjKind) (slot : Nat) : Nat := x.flashNat k slot 8 4

/-- The anti-rollback counter of a kind. -/
def Sec.counter (x : Sec) : ObjKind → Nat
  | .image => x.arbImage
  | .config => x.arbConfig

/-- The kind field of an object of a kind. -/
def kindCode : ObjKind → Nat
  | .image => 1
  | .config => 2

/-- The hash of the public key of the object in a slot, taken to 32 bytes, is the anchor in mask ROM (R458, R459). -/
def Sec.anchored (x : Sec) (k : ObjKind) (slot : Nat) : Bool :=
  let f := Store.get [] (flashIndex k slot) x.flash
  decide (BitVec.ofNat 256 (leNat (shake ((List.range 64).map (fun i => Store.get 0#8 (0x10 + i) f)) 32)) = x.romAnchor)

/-- The key and the signature of the object in a slot are good, and its kind is right (R459). -/
def Sec.genuine (x : Sec) (k : ObjKind) (slot : Nat) (c : ObjChecks) : Bool :=
  c.sigOk && x.anchored k slot && x.flashNat k slot 4 2 = kindCode k

/-- The ROM accepts a slot (R459). -/
def Sec.accepts (x : Sec) (k : ObjKind) (slot : Nat) (c : ObjChecks) : Bool :=
  x.genuine k slot c && decide (x.counter k ≤ x.slotVersion k slot)

/-- The slot that boots: the accepted one with the higher security version, slot 0 on equal versions (R459). -/
def Sec.bootSlot (x : Sec) (k : ObjKind) (c0 c1 : ObjChecks) : Option Nat :=
  match x.accepts k 0 c0, x.accepts k 1 c1 with
  | true, true => some (if x.slotVersion k 0 < x.slotVersion k 1 then 1 else 0)
  | true, false => some 0
  | false, true => some 1
  | false, false => none

/-- The slot of a kind that runs; none on a recovery boot. -/
def Sec.running (x : Sec) (k : ObjKind) : Option Nat :=
  if x.recovery then none else match k with
    | .image => some x.imageSlot
    | .config => some x.configSlot

/-- The bytes that a flash slot can hold (Table 18.3). -/
def flashSize : Nat := 0x80 + 0x800000 + 29792

/-! ### Requests -/

/-- The code of a request (Tables 10.13, 18.5). -/
def reqCode : Instr → Nat
  | .stallReport _ => 0x01
  | .fenceStatus _ => 0x02
  | .faultState _ => 0x03
  | .fwVersion _ => 0x04
  | .fwWrite .. => 0x10
  | .fwVerify .. => 0x11
  | .fwCommit .. => 0x12
  | .selfTest .. => 0x13
  | .setSeverity .. => 0x20
  | .fenceUnit .. => 0x21
  | .setFltParam .. => 0x22
  | .keyInstall .. => 0x30
  | .linkKeySwitch .. => 0x31
  | .keyZeroize .. => 0x32
  | .rngRead .. => 0x38
  | .drbgReseed .. => 0x39
  | .drbgInstantiate .. => 0x3A
  | .attest .. => 0x40
  | .getIdentity .. => 0x41
  | .debugChallenge .. => 0x50
  | .debugUnlock .. => 0x51
  | _ => 0

/-- The codes of Table 18.5 that are no status requests. -/
def managementCodes : List Nat :=
  [0x10, 0x11, 0x12, 0x13, 0x20, 0x21, 0x22, 0x30, 0x31, 0x32, 0x38, 0x39, 0x3A, 0x40, 0x41, 0x50, 0x51]

/-- Status requests (Table 10.13). -/
def isStatus (code : Nat) : Bool := decide (1 ≤ code) && decide (code ≤ 4)

/-- Firmware requests (Table 18.5). -/
def isFirmware (code : Nat) : Bool := decide (0x10 ≤ code) && decide (code ≤ 0x13)

/-- The response of STALL_REPORT: bit c of byte c / 8 for context c (R525). -/
def State.stallBytes (s : State) : List Byte :=
  leBytes 128 (s.ctxs.foldl (fun acc cx => if cx.2.stalled then acc + 2 ^ cx.1 else acc) 0)

/-- The response of a status request (Table 22.6). -/
def State.statusData (s : State) (code : Nat) : List Byte :=
  match code with
  | 1 => s.stallBytes
  | 2 => leBytes 4 s.flt.fencedWord ++ (List.range 4).flatMap (fun l => leBytes 1 (s.fencedLanes l).toNat)
      ++ leBytes 4 s.flt.startup.toNat
  | 3 => leBytes 4 s.fltStateWord ++ leBytes 4 s.fltRecWord ++ leBytes 4 s.escLeft ++ leBytes 4 s.quietLeft
  | 4 => leBytes 4 Config.romVersion.toNat ++ leBytes 4 s.sec.svImage ++ leBytes 4 s.sec.svConfig ++ leBytes 4 s.sec.arbImage
      ++ leBytes 4 s.sec.arbConfig ++ leBytes 4 s.sec.statusWord
  | _ => []

/-- What handling a request gives: it waits, or it is answered. -/
inductive Reply where
  | wait
  | done (status : MgmtStatus) (data : List Byte) (s : State)

/-- Answer a request that needs the DRBG (Table 18.2): it waits while the RNG is STARTING or reseeds, and is refused once it
has FAILED. -/
def State.withRng (s : State) (f : State → Reply) : Reply :=
  if s.sec.rng = 2 then .done .rngFailed [] s
  else if s.sec.rng = 0 || s.rngHeld then .wait
  else f s

/-- The key pair of the module (R462). -/
def Sec.slhKey (x : Sec) : SlhKey := Machine.slhKey x.identity

/-- The device ID (R462): the hash of the public key. -/
def Sec.deviceId (x : Sec) : List Byte := shake x.slhKey.public 32

/-- The device ID and the identity public key. -/
def Sec.identityBytes (x : Sec) : List Byte := x.deviceId ++ x.slhKey.public

/-- The hash of the mask ROM (Table 18.4). -/
def romHash : List Byte := shake Config.romImage 32

/-- The bytes of the object in a slot of flash (Table 18.3). -/
def Sec.objectBytes (x : Sec) (k : ObjKind) (slot : Nat) : List Byte :=
  let f := Store.get [] (flashIndex k slot) x.flash
  (List.range (min flashSize (0x80 + x.flashNat k slot 0xC 4 + 29792))).map (fun i => Store.get 0#8 i f)

/-- The attestation report over a nonce (Table 18.4). -/
def State.attestReport (s : State) (nonce : BitVec 256) : List Byte :=
  let x := s.sec
  let flags := bitIf x.approved 0 + bitIf x.debug 1 + bitIf (x.rng = 2) 2 + bitIf x.selfTestFail 3
  leBytes 4 0x54544151 ++ leBytes 2 1 ++ leBytes 2 256 ++ leBytes 32 nonce.toNat ++ x.identityBytes
    ++ romHash ++ shake (x.objectBytes .image x.imageSlot) 32
    ++ shake (x.objectBytes .config x.configSlot) 32 ++ leBytes 4 x.arbImage ++ leBytes 4 x.arbConfig ++ leBytes 4 x.svImage ++ leBytes 4 x.svConfig ++ leBytes 4 flags
    ++ leBytes 4 s.time.sec ++ leBytes 4 s.time.sub ++ leBytes 2 s.pwr.slotId.toNat ++ leBytes 10 0

/-- FW_WRITE (R461). -/
def State.doFwWrite (s : State) (k : ObjKind) (slot off : Nat) (data : List Byte) : Reply :=
  if s.sec.running k = some slot then .done .inUse [] s
  else if flashSize < off + data.length || decide (4096 < data.length) then .done .badRequest [] s
  else
    let i := flashIndex k slot
    let cells := Store.putAll 0#8 (data.zipIdx.map (fun q => (off + q.2, q.1))) (Store.get [] i s.sec.flash)
    .done .ok [] (s.modSec (fun x => { x with flash := Store.put [] i cells x.flash }))

/-- FW_VERIFY (R461): the slot that is not running; slot 1 on a recovery boot. -/
def State.doFwVerify (s : State) (k : ObjKind) (c : ObjChecks) : Reply :=
  let slot := match s.sec.running k with
    | some 1 => 0
    | _ => 1
  if s.sec.accepts k slot c then .done .ok [] s
  else if s.sec.genuine k slot c then .done .rollback [] s
  else .done .verifyFailed [] s

/-- FW_COMMIT (R460). -/
def State.doFwCommit (s : State) (k : ObjKind) : Reply :=
  match s.sec.running k with
  | none => .done .badRequest [] s
  | some _ => .done .ok [] (s.modSec (fun x => match k with
      | .image => { x with arbImage := max x.arbImage x.svImage }
      | .config => { x with arbConfig := max x.arbConfig x.svConfig }))

/-- SELF_TEST (R446). -/
def State.doSelfTest (s : State) (pass : Bool) : Reply :=
  if pass then .done .ok [] s else .done .verifyFailed [] s.selfTestError

/-- SET_SEVERITY (R416): a fixed source keeps its severity. -/
def State.doSetSeverity (s : State) (b : BlockId) (k sev : Nat) : Reply :=
  if sourceCount b ≤ k then .done .badRequest [] s
  else if fixedSeverity b k then .done .ok [] s
  else .done .ok [] (s.modBlock b (fun f =>
    { f with sev := (f.sev &&& ~~~(3#64 <<< (2 * k))) ||| (BitVec.ofNat 64 sev <<< (2 * k)) }))

/-- Fence a unit on request (R424). -/
def State.fenceNamed (s : State) : FenceUnit → State
  | .span n => s.fenceSpan n.val
  | .mem n => s.fenceMem n.val
  | .lanes l mask =>
    let t := s.fenceLanes l.val mask.toNat
    if (t.link l.val).state = lnkDown && decide ((s.link l.val).state ≠ lnkDown) then t.raise (.lnk l) 1 l.val else t
  | .link l => s.fenceLink l.val 0
  | .cxl p => s.fenceCxl p.val

/-- A number lies in a range, when it is given. -/
def inRange (lo hi : Nat) : Option Nat → Bool
  | none => true
  | some v => decide (lo ≤ v) && decide (v ≤ hi)

/-- SET_FLT_PARAM (R432, Table 17.6). -/
def State.doSetFltParam (s : State) (esc quiet limit window : Option Nat) : Reply :=
  if inRange 1 16000 esc && inRange 1000 600000 quiet && inRange 1 255 limit && inRange 1 86400 window then
    .done .ok [] (s.withFlt { s.flt with escTime := esc.getD s.flt.escTime, quiet := quiet.getD s.flt.quiet,
                                         limit := limit.getD s.flt.limit, window := window.getD s.flt.window })
  else .done .badRequest [] s

/-- The 32 bytes of a key, first byte first. -/
def keyBytes (key : BitVec 256) : List Byte := leBytes 32 key.toNat

/-- KEY_INSTALL (R457): the key is stored wrapped (R456), and its key check value returned. -/
def State.doKeyInstall (s : State) (l : Nat) (receive : Bool) (slot : Nat) (key : BitVec 256) (salt : BitVec 32) : Reply :=
  s.withRng (fun s =>
    if (s.link l).slotInUse receive slot then .done .inUse [] s
    else
      let w := s.wrapKey (keyIndex l receive slot) (keyBytes key ++ leBytes 4 salt.toNat)
      .done .ok (keyCheck (keyBytes key)) (w.2.modSec (fun x =>
        { x with keys := Store.put none (keyIndex l receive slot) (some w.1) x.keys })))

/-- The payload of KEY_SWITCH (Table 9.10). -/
def switchPayload (slot count : Nat) : List Byte := leBytes 8 slot ++ leBytes 8 count

/-- LINK_KEY_SWITCH (R457, R254). -/
def State.doKeySwitch (s : State) (l : Nat) : Reply :=
  let x := s.link l
  let slot := 1 - x.txSlot
  if x.txEnc && s.hasKey l false slot then
    let at_ := x.txCount + 4096
    .done .ok [] ((s.modLink l (fun y => { y with txSwitch := some (slot, at_) })).sendNeighbour l 0xF 1 (switchPayload slot at_))
  else .done .badRequest [] s

/-- DRBG_RESEED (R451): it starts a reseed or joins the one in progress, and is answered when that is done. -/
def State.doReseed (s : State) (first : Bool) (input : List Byte) : Reply :=
  if s.sec.rng = 2 then .done .rngFailed [] s
  else if 32 < input.length then .done .badRequest [] s
  else if first || s.sec.rng = 0 then .wait
  else .done .ok [] s

/-- DRBG_INSTANTIATE (R450). -/
def State.doInstantiate (s : State) (personal : List Byte) : Reply :=
  if 32 < personal.length then .done .badRequest [] s
  else s.withRng (fun s =>
    let t := s.seedDrbg personal
    .done (if t.sec.rng = 2 then .rngFailed else .ok) [] t)

/-- DEBUG_UNLOCK (R466, R467). The challenge is spent whatever the result. A token that the rule answers with LOCKED is answered so
even when its other fields are wrong (entry 65). -/
def State.doUnlock (s : State) (t : Token) : Reply :=
  let latest := s.sec.challenge
  let s := s.modSec (fun x => { x with challenge := none })
  if !t.sigOk || decide (leBytes 32 t.device.toNat ≠ s.sec.deviceId) || decide (latest ≠ some t.challenge) then .done .locked [] s
  else if t.magic ≠ 0x47424451 || t.version ≠ 1 || (t.level ≠ 1 && t.level ≠ 2) then .done .badRequest [] s
  else
    let s := (s.zeroizeKeys 0x3FFFF).fenceEncrypted
    .done .ok [] (s.modSec (fun x =>
      { x with approved := false, debug := true, debugLevel := t.level.toNat }))

/-- Handle a request; `first` is false for one that has waited for a reseed. -/
def State.handle (s : State) (first : Bool) : Instr → Reply
  | .stallReport _ => .done .ok (s.statusData 1) s
  | .fenceStatus _ => .done .ok (s.statusData 2) s
  | .faultState _ => .done .ok (s.statusData 3) s
  | .fwVersion _ => .done .ok (s.statusData 4) s
  | .rngRead _ n => s.withRng (fun s =>
      let d := s.generate n.toNat
      .done .ok d.1 d.2)
  | .fwWrite _ k slot off data => s.doFwWrite k slot.val off data
  | .fwVerify _ k c => s.doFwVerify k c
  | .fwCommit _ k => s.doFwCommit k
  | .selfTest _ pass => s.doSelfTest pass
  | .setSeverity _ b k sev => s.doSetSeverity b k.val sev.val
  | .fenceUnit _ u => .done .ok [] (s.fenceNamed u)
  | .setFltParam _ a b c d => s.doSetFltParam a b c d
  | .keyInstall _ l r slot key salt => s.doKeyInstall l.val r slot.val key salt
  | .linkKeySwitch _ l => s.doKeySwitch l.val
  | .keyZeroize _ slots => .done .ok [] (s.zeroizeKeys slots.toNat)
  | .drbgReseed _ input => s.doReseed first input
  | .drbgInstantiate _ personal => s.doInstantiate personal
  | .attest _ nonce =>
    if s.sec.identityOk then
      let r := s.attestReport nonce
      .done .ok (r ++ s.sec.slhKey.sign r) s
    else .done .identityFailed [] s
  | .getIdentity _ => if s.sec.identityOk then .done .ok s.sec.identityBytes s else .done .identityFailed [] s
  | .debugChallenge _ => s.withRng (fun s =>
      let d := s.generate 32
      .done .ok d.1 (d.2.modSec (fun x => { x with challenge := some (BitVec.ofNat 256 (leNat d.1)) })))
  | .debugUnlock _ t => s.doUnlock t
  | _ => .done .badRequest [] s

/-! ### The management port (R464, R465, R490) -/

/-- The port acknowledges its address (R490); a loss of main-PLL lock acts as a PERST_N (R470). -/
def State.portOk (s : State) : Bool := s.pwr.good && !s.pwr.perst && s.boot.lock

/-- The address of the port on the I3C bus (R465, R505): the one that it has been given, or 0x50 + SLOT_ID. -/
def State.portAddress (s : State) : BitVec 7 := s.sec.mgmtAddr.getD (0x50 + s.pwr.slotId.zeroExtend 7)

/-- MGMT_INT_N is asserted (R465): a response has not been read. -/
def State.mgmtInt (s : State) : Bool := !s.sec.mgmtResp.isEmpty

/-- The place of a status in the list of R465. -/
def MgmtStatus.index : MgmtStatus → Nat
  | .ok => 0
  | .denied => 1
  | .busy => 2
  | .badRequest => 3
  | .inUse => 4
  | .verifyFailed => 5
  | .rollback => 6
  | .rngFailed => 7
  | .identityFailed => 8
  | .locked => 9

/-- The header of a response (R465): code, status, sequence number, length of the payload. The codes of the statuses are free
(entry 65). -/
def MgmtResp.header (r : MgmtResp) : List Byte :=
  [BitVec.ofNat 8 r.code, Config.mgmtCode r.status.index] ++ leBytes 2 r.seq.toNat ++ leBytes 4 r.data.length

/-- Whether a request can be handled now: some answer of the port itself, or none while it is held (R490, R459). -/
inductive Gate where
  | handle
  | hold
  | deny
  | ignore
deriving DecidableEq, Repr

/-- What the boot allows (R446, R459, R490). -/
def State.gate (s : State) (code : Nat) : Gate :=
  if s.sec.recovery then (if isStatus code || isFirmware code then .handle else .deny)
  else if s.boot.failed then (if isStatus code then .handle else .ignore)
  else if s.boot.stage ≤ 6 then .hold
  else if s.boot.stage ≤ 9 then (if isStatus code then .handle else .hold)
  else .handle

/-- Put a response in front of the controller. -/
def State.respond (s : State) (code : Nat) (seq : BitVec 16) (st : MgmtStatus) (data : List Byte) : State :=
  s.modSec (fun x => { x with mgmtResp := x.mgmtResp ++ [⟨code, seq, st, data, 0⟩] })

/-- A reseed that a request starts (R451). -/
def State.reseedFor (s : State) (i : Instr) : State :=
  match i with
  | .drbgReseed _ input =>
    if s.sec.rng = 1 && !s.sec.reseeding then s.modSec (fun x => { x with reseeding := true, reseedInput := input }) else s
  | _ => s

/-- Try the request that the port holds. -/
def State.tryRequest (s : State) (seq : BitVec 16) (first : Bool) (i : Instr) : State :=
  let code := reqCode i
  match s.gate code with
  | .hold => s.modSec (fun x => { x with mgmtWait := some i })
  | .ignore => s.modSec (fun x => { x with mgmtWait := none })
  | .deny => (s.modSec (fun x => { x with mgmtWait := none })).respond code seq .denied []
  | .handle =>
    match s.handle first i with
    | .wait => (s.modSec (fun x => { x with mgmtWait := some i })).reseedFor i
    | .done st data t => (t.modSec (fun x => { x with mgmtWait := none })).respond code seq st data

/-- The port of a request. -/
def reqPort : Instr → Option Port
  | .stallReport p | .fenceStatus p | .faultState p | .fwVersion p | .rngRead p _ | .fwWrite p _ _ _ _ | .fwVerify p _ _
  | .fwCommit p _ | .selfTest p _ | .setSeverity p _ _ _ | .fenceUnit p _ | .setFltParam p _ _ _ _ | .keyInstall p _ _ _ _ _
  | .linkKeySwitch p _ | .keyZeroize p _ | .drbgReseed p _ | .drbgInstantiate p _ | .attest p _ | .getIdentity p
  | .debugChallenge p | .debugUnlock p _ => some p
  | _ => none

/-- Try again the request that waits, after something it waits for. -/
def State.retryRequest (s : State) (first : Bool) : State :=
  match s.sec.mgmtWait with
  | some i => match reqPort i with
    | some (.i3c seq) => s.tryRequest seq first i
    | _ => s
  | none => s

/-- The mailbox answers (R524). -/
def State.answerMailbox (s : State) (status : Nat) (data : List Byte) : State :=
  { s with mbx := { s.mbx with busy := false, done := true, status := status, seq := s.mbx.reqSeq, len := data.length,
                               resp := data } }.raiseVector 1058

/-- A request that arrives on a port. On the mailbox it is the one that `MBX_CMD` has started (R524), and only status is
returned (R297); D3hot does not keep the keystone from answering it (R402). The management port holds one request at a time; a second completes with BUSY (R465). -/
def State.requestOn (s : State) (p : Port) (i : Instr) : State :=
  let code := reqCode i
  match p with
  | .mailbox =>
    if s.running && s.boot.ready && s.mbx.busy && s.mbx.code = code then
      if isStatus code then s.answerMailbox 0 (s.statusData code) else s.answerMailbox 1 []
    else s
  | .i3c seq =>
    if !s.portOk then s
    else if s.sec.mgmtWait.isSome || !s.sec.mgmtResp.isEmpty then s.respond code seq .busy []
    else (s.tryRequest seq true i).carryOn

/-! ### Rows: requests -/

/-- STALL_REPORT. -/
def execStallReport (p : Port) (s : State) : Out := goOn (s.requestOn p (.stallReport p))
/-- FENCE_STATUS. -/
def execFenceStatus (p : Port) (s : State) : Out := goOn (s.requestOn p (.fenceStatus p))
/-- FAULT_STATE. -/
def execFaultState (p : Port) (s : State) : Out := goOn (s.requestOn p (.faultState p))
/-- FW_VERSION. -/
def execFwVersion (p : Port) (s : State) : Out := goOn (s.requestOn p (.fwVersion p))
/-- RNG_READ (R453). -/
def execRngRead (p : Port) (length : BitVec 12) (s : State) : Out := goOn (s.requestOn p (.rngRead p length))
/-- FW_WRITE. -/
def execFwWrite (p : Port) (k : ObjKind) (slot : Fin 2) (offset : Nat) (data : List Byte) (s : State) : Out :=
  goOn (s.requestOn p (.fwWrite p k slot offset data))
/-- FW_VERIFY. -/
def execFwVerify (p : Port) (k : ObjKind) (checks : ObjChecks) (s : State) : Out :=
  goOn (s.requestOn p (.fwVerify p k checks))
/-- FW_COMMIT. -/
def execFwCommit (p : Port) (k : ObjKind) (s : State) : Out := goOn (s.requestOn p (.fwCommit p k))
/-- SELF_TEST. -/
def execSelfTest (p : Port) (pass : Bool) (s : State) : Out := goOn (s.requestOn p (.selfTest p pass))
/-- SET_SEVERITY. -/
def execSetSeverity (p : Port) (b : BlockId) (source : Fin 32) (severity : Fin 4) (s : State) : Out :=
  goOn (s.requestOn p (.setSeverity p b source severity))
/-- FENCE_UNIT. -/
def execFenceUnit (p : Port) (u : FenceUnit) (s : State) : Out := goOn (s.requestOn p (.fenceUnit p u))
/-- SET_FLT_PARAM. -/
def execSetFltParam (p : Port) (escMs quietMs limit window : Option Nat) (s : State) : Out :=
  goOn (s.requestOn p (.setFltParam p escMs quietMs limit window))
/-- KEY_INSTALL. -/
def execKeyInstall (p : Port) (l : Fin 4) (receive : Bool) (slot : Fin 2) (key : BitVec 256) (salt : BitVec 32) (s : State) :
    Out := goOn (s.requestOn p (.keyInstall p l receive slot key salt))
/-- LINK_KEY_SWITCH. -/
def execLinkKeySwitch (p : Port) (l : Fin 4) (s : State) : Out := goOn (s.requestOn p (.linkKeySwitch p l))
/-- KEY_ZEROIZE. -/
def execKeyZeroize (p : Port) (slots : BitVec 18) (s : State) : Out := goOn (s.requestOn p (.keyZeroize p slots))
/-- DRBG_RESEED. -/
def execDrbgReseed (p : Port) (input : List Byte) (s : State) : Out := goOn (s.requestOn p (.drbgReseed p input))
/-- DRBG_INSTANTIATE. -/
def execDrbgInstantiate (p : Port) (personal : List Byte) (s : State) : Out :=
  goOn (s.requestOn p (.drbgInstantiate p personal))
/-- ATTEST. -/
def execAttest (p : Port) (nonce : BitVec 256) (s : State) : Out := goOn (s.requestOn p (.attest p nonce))
/-- GET_IDENTITY. -/
def execGetIdentity (p : Port) (s : State) : Out := goOn (s.requestOn p (.getIdentity p))
/-- DEBUG_CHALLENGE. -/
def execDebugChallenge (p : Port) (s : State) : Out := goOn (s.requestOn p (.debugChallenge p))
/-- DEBUG_UNLOCK. -/
def execDebugUnlock (p : Port) (t : Token) (s : State) : Out := goOn (s.requestOn p (.debugUnlock p t))

/-- The controller reads: the header of the first response and up to 4,096 bytes of its payload, from where the last read of it
ended (R465; entry 137). With the last bytes the response is read, and the target is free once none is left. -/
def State.readResponse (s : State) : State :=
  match s.sec.mgmtResp with
  | [] => s
  | r :: rest =>
    let part := (r.data.drop r.pos).take 4096
    let left := if r.data.length ≤ r.pos + 4096 then rest else { r with pos := r.pos + 4096 } :: rest
    { s.modSec (fun x => { x with mgmtResp := left }) with bus := { s.bus with mgmtRead := r.header ++ part } }

/-- MANAGEMENT_RESPONSE_READ (R465). -/
def execManagementResponseRead (s : State) : Out := goOn (if s.portOk then s.readResponse else s)

/-- DYNAMIC_ADDRESS_ASSIGNMENT (R465). -/
def execDynamicAddressAssignment (addr : BitVec 7) (s : State) : Out :=
  goOn (if s.portOk then s.modSec (fun x => { x with mgmtAddr := some addr }) else s)

/-! ### Rows: the RNG -/

/-- A reseed is requested (R451): one in progress takes it in. -/
def State.requestReseed (s : State) : State := if s.sec.rng = 1 then s.modSec (fun x => { x with reseeding := true }) else s

/-- RNG_RESEED_REQUEST (R451). -/
def execRngReseedRequest (s : State) : Out := goOn (if s.barOk then s.requestReseed else s)

/-- DRBG_AUTO_RESEED (R451): after 2^20 generate requests, or 60 s after the last seed, to which time passes. -/
def execDrbgAutoReseed (s : State) : Out :=
  if s.running && s.sec.rng = 1 && !s.sec.reseeding then
    let s := if s.sec.gens < 2 ^ 20 then s.passTo (s.sec.seedTick + 60 * tickSec) else s
    goOn s.requestReseed
  else goOn s

/-- DRBG_RESEED_DONE (R451): the requests that waited proceed. -/
def execDrbgReseedDone (s : State) : Out :=
  if s.running && s.sec.reseeding then
    goOn (s.reseedDrbg.retryRequest false).carryOn
  else goOn s

/-- ENTROPY_HEALTH_FAILURE (R447, R452): in the READY state, samples of the active source fail a test. -/
def execEntropyHealthFailure (s : State) : Out :=
  if s.running && s.sec.rng = 1 then goOn (s.rngFail.retryRequest false).carryOn else goOn s

/-- RNG_WORD (R454, R516, Table 18.2): the eight bytes that the read returns. Table 18.2 says what a read returns in STARTING and
FAILED, before `ready` too; in READY, R410 makes it 0 until then (DEDUCED, entry 136). -/
def execRngWord (s : State) : Out :=
  let answer (st : State) (data : List Byte) (status : Nat) : State :=
    { st with bus := { st.bus with lastRead := data ++ leBytes 4 status, lastPoisoned := false } }
  if !s.running || s.pcie.d3hot then goOn s
  else if s.sec.rng = 2 then goOn (answer s (leBytes 4 0) 2)
  else if s.sec.rng = 0 then goOn (answer s (leBytes 4 0) 1)
  else if !s.boot.ready then goOn (answer s (leBytes 4 0) 0)
  else if s.rngHeld then goOn (answer s (leBytes 4 0) 1)
  else
    let d := s.generate 4
    goOn (answer d.2 d.1 0)

end Sys2Proof.Machine
end

