-- ==== Sys2Proof/Machine/BootRows.lean ====
section
/-! DEFINITION. The boot stages after the release of PERST_N (R446, R449, R459, R361-R363, R387, R396, R488-R492).
-/

namespace Sys2Proof.Machine

/-- The boot is in a stage. -/
def State.atStage (s : State) (k : Nat) : Bool := s.running && !s.boot.failed && s.boot.stage = k

/-- The boot goes on with a stage. -/
def State.setStage (s : State) (k : Nat) : State := { s with boot := { s.boot with stage := k } }

/-- The boot stops with a fail code (R492). -/
def State.failBoot (s : State) (code : Nat) : State := { s with boot := { s.boot with failed := true, failCode := code } }

/-- MAIN_PLL_LOCK: stage 5. After a loss of lock the die leaves its reset here (R470). The host port trains to a speed and a width
(R401); at 64 GT/s the link is in flit mode. -/
def execMainPllLock (link : HostLink) (width : Fin 5) (s : State) : Out :=
  if s.pwr.on && !s.pwr.perst && !s.boot.failed && decide (s.boot.stage = 5) then
    goOn ({ s with
      boot := { s.boot with lock := true }
      pcie := { s.pcie with speed := BitVec.ofNat 3 link.speed.val, width := BitVec.ofNat 3 width.val,
                            flit := link.flit || decide (link.speed = 0) } }.setStage 6)
  else goOn s

/-- KNOWN_ANSWER_TESTS: stage 6 (R446, R462). The management port answers status requests from its end on (R490). -/
def execKnownAnswerTests (pass identityOk : Bool) (s : State) : Out :=
  if s.atStage 6 then
    let s := s.modSec (fun x => { x with identityOk := identityOk, identity := if identityOk then Config.identitySeed else 0 })
    let s := if pass then s.setStage 7 else s.failBoot 6
    goOn (s.retryRequest true)
  else goOn s

/-- MARCH_TEST: stage 7 (R361-R363). A span whose spares run out is fenced at start-up. When the boot stops, a request that the
management port holds is dropped or answered (R490). -/
def execMarchTest (findings : List MarchFinding) (serviceFail : Bool) (s : State) : Out :=
  if s.atStage 7 then
    let s := spanIds.foldl (fun st n =>
      let t := st.marchResult n findings
      if t.spanFenced n && !st.spanFenced n then t.withFlt { t.flt with startup := t.flt.startup ||| (1#16 <<< n) } else t) s
    goOn (if serviceFail then (s.failBoot 7).retryRequest true else s.setStage 8)
  else goOn s

/-- ENTROPY_STARTUP_TEST: stage 8, with 4,096 samples of each source, those of the fallback used when the main one fails
(R447, R449, R452). -/
def execEntropyStartupTest (main fallback : BitVec 4096) (s : State) : Out :=
  if s.atStage 8 then
    let s := if !healthFails false 4096 main.toNat then s
      else if !healthFails true 4096 fallback.toNat then s.modSec (fun x => { x with source := true })
      else s.rngFail
    goOn (s.setStage 9).carryOn
  else goOn s

/-- The DRBG is instantiated with the personalisation string of the configuration block, and the 32 bytes for wrapping keys are
drawn (R450, R456, R489), unless the RNG has failed or its samples fail now (entry 112). -/
def State.instantiate (s : State) : State :=
  if s.sec.rng = 0 then
    let s := s.seedDrbg s.sec.cfg.personal
    if s.sec.rng = 2 then s
    else
      let w := s.generate 32
      w.2.modSec (fun x => { x with rng := 1, wrapSeed := BitVec.ofNat 256 (leNat w.1) })
  else s

/-- The severities of a configuration block become the defaults (R416). -/
def State.applySeverities (s : State) (l : List (BlockId × Nat × Nat)) : State :=
  l.foldl (fun st q =>
    match st.doSetSeverity q.1 q.2.1 (q.2.2 % 4) with
    | .done _ _ t => t
    | .wait => st) s

/-- IMAGE_VERIFICATION: stage 9 (R459, R489-R491). -/
def execImageVerification (i0 i1 c0 c1 : ObjChecks) (cfg : ConfigBlock) (s : State) : Out :=
  if s.atStage 9 then
    match s.sec.bootSlot .image i0 i1, s.sec.bootSlot .config c0 c1 with
    | some i, some c =>
      let s := s.modSec (fun x =>
        { x with imageSlot := i, configSlot := c, svImage := x.slotVersion .image i, svConfig := x.slotVersion .config c,
                 cfg := cfg })
      let s := s.instantiate.applySeverities cfg.severities
      let s := (List.range 4).foldl (fun st l =>
        if cfg.linkEnable.getLsbD l then (st.modLink l (fun x => { x with enable := true })).startTraining l else st) s
      goOn ((s.setStage 10).retryRequest true).carryOn
    | _, _ =>
      let s := (s.modSec (fun x => { x with recovery := true })).instantiate
      goOn ((s.failBoot 9).retryRequest true).carryOn
  else goOn s

/-- GDDR7_TRAINING: stage 10 (R387). An interface that passes at no rate is fenced with the other of its stop, entered as its
retrain-failure source (R423; entry 94). The periodic retrains of the others follow at sixteenths of 100 ms (R392). Stage 11 then releases CXL_PERST_N (R501). -/
def execGddr7Training (rates : List (Option (Fin 3))) (s : State) : Out :=
  if s.atStage 10 then
    let now := s.now
    let s := (rates.zipIdx.take 16).foldl (fun st q => match q.1 with
      | some r => st.modMem q.2 (fun x => { x with active := true, rate := r.val, retrainTick := now + q.2 * (100 * tickMs / 16) })
      | none => st.raiseMandatory (memBlock (q.2 / 2)) (5 * (q.2 % 2) + 3) 0) s
    goOn ({ s with pwr := { s.pwr with cxlPerst := s.flt.cxls } }.setStage 11).carryOn
  else goOn s

/-- Bytes of a device that are used (R396, R399): at most 512 GiB, without the metadata of an encrypted port. -/
def usableBytes (d : CxlDevice) (enc : Bool) : Nat :=
  let c := min d.capBytes 0x8000000000
  if enc then c * 127 / 128 else c

/-- One port is enumerated (R396, R399): with encryption at rest it needs the RNG, which draws its key. A port whose link
does not train is fenced (R398). -/
def State.enumerate (s : State) (p : Nat) (d : CxlDevice) : State :=
  let enc := s.sec.cfg.cxlEnc
  if !d.present || !d.type3 || d.capBytes = 0 then s
  else if !d.trained then s.raiseMandatory (cxlBlock p) 3 0
  else if enc && s.sec.rng ≠ 1 then s
  else
    let k := if enc then s.generate 32 else ([], s)
    let s := k.2
    let w := if enc then s.wrapKey (16 + p) k.1 else (⟨[], []⟩, s)
    let s := if enc then w.2.modSec (fun x => { x with cxlKeys := Store.put none p (some w.1) x.cxlKeys }) else s
    s.modCxl p (fun x =>
      { x with present := true, enc := enc, width := d.width, speed := d.speed, capBytes := usableBytes d enc })

/-- CXL_ENUMERATION: stage 11 (R396, R492). The device is ready when it ends, and in approved mode (R445). -/
def execCxlEnumeration (p0 p1 : CxlDevice) (s : State) : Out :=
  if s.atStage 11 then
    let s := (s.enumerate 0 p0).enumerate 1 p1
    let s := { s with boot := { s.boot with ready := true, stage := 12 } }
    goOn (s.modSec (fun x => { x with approved := !x.selfTestFail && !x.debug })).carryOn
  else goOn s

end Sys2Proof.Machine
end

