-- ==== Sys2Proof/Machine/Frontend.lean ====
section
/-! DEFINITION. The front end: register writes of contexts and events (R257-R263, R268, R293, R294), fetching, starting
and completing commands (R263-R269, R271), launches (R275, R302), batches (R290-R292), destroys (R299-R301) and
timeouts (R280, R295).
-/

namespace Sys2Proof.Machine

/-- The device is in FAULT or LATCHED: the front end fetches and starts nothing (R428). -/
def State.faulted (s : State) : Bool := decide (s.flt.state ≥ 2)

/-! ### Packets -/

/-- The payload size of an opcode (Table 10.6), none for an opcode that is absent. -/
def payloadOf : Nat → Option Nat
  | 0x01 | 0x03 | 0x04 | 0x05 | 0x06 => some 0
  | 0x02 => some 4
  | 0x10 | 0x11 | 0x12 | 0x13 | 0x15 | 0x16 | 0x17 | 0x30 | 0x3F => some 0
  | 0x14 | 0x21 | 0x23 => some 1
  | 0x20 | 0x22 => some 2
  | _ => none

/-- The check of a packet slot at fetch (R264): the offset of the offending field. -/
def packetFault (bytes : List Byte) : Option Nat :=
  match payloadOf (numAt bytes 0 1) with
  | none => some 0
  | some p => if p = numAt bytes 2 2 then none else some 2

/-- The operation of a completion event is in its range (R270, R271). -/
def Exec.cevFault (e : Exec) : Option Nat := if e.cmd.cev && decide (e.num 0xA 1 > 1) then some 0xA else none

/-- The first of the listed checks that fails: offset of the field, and whether it fails (R271). -/
def firstFault (l : List (Nat × Bool)) : Option Nat := (l.find? (fun p => p.2)).map Prod.fst

/-! ### The hang limit (R280) -/

/-- Stop the runs of a command (R150, R280, R300). -/
def State.stopRunsOf (s : State) (c serial : Nat) (f : Stops → Stops) : State :=
  { s with runs := s.runs.map (fun r => if r.ctx = c && r.serial = serial then { r with stops := f r.stops } else r) }

/-- The hang limit holds for the command of a context: it is not EVWAIT or ANNEAL_BATCH, and no abort or FAULT has ended it. -/
def Ctx.limited (x : Ctx) (e : Exec) : Bool :=
  decide (e.hangMs ≠ 0) && decide (e.cmd.opcode ≠ 0x04) && decide (e.cmd.opcode ≠ 0x13) && decide (x.state ≠ .aborting)
    && decide (e.phase ≠ .finished 0x1B 0) && decide (e.phase ≠ .finished 0x1C 0)

/-- The window of the hang limit is over (R7, R280). -/
def Ctx.hangDue (x : Ctx) (e : Exec) (now : Nat) : Bool := x.limited e && decide (e.start + e.hangMs * tickMs ≤ now)

/-- The hang limit ends the command of context `c` (R280): its piers stop as in ABORT mode, and a run it carries writes its record
with status ABORTED; when both have ended, the command ends with HUNG. -/
def State.hangNow (s : State) (c : Nat) (e : Exec) : State :=
  let s := (s.stopPiersOf c (some e.serial) false).dropQueued c
  let s := s.stopRunsOf c e.serial (fun t => { t with hung := true })
  let s := s.undoLoad e
  let left := s.runningFor c e.serial
  let carries := s.carriesRun c e.serial
  s.modExec c false (fun y =>
    if carries then y.withdrawn left
    else if left = 0 then { y.withdrawn 0 with phase := .finished 0x14 y.spansAll }
    else { y.withdrawn left with phase := .working, hung := true })

/-- HANG_LIMIT (R280): time passes to the end of the limit, if that is still to come. -/
def execHangLimit (c : Fin 1024) (s : State) : Out :=
  match (s.ctx c.val).exec with
  | some e =>
    if s.running && (s.ctx c.val).limited e then
      goOn ((s.passTo (e.start + e.hangMs * tickMs)).hangNow c.val e).carryOn
    else goOn s
  | none => goOn s

/-! ### Starting a command's own effect -/

/-- The start of a command's own effect: context `c` executes a command (or batch descriptor) with the opcode that has
started and done nothing, and the context is not being aborted; `bad` gives the offset of a field out of range
(R271). A command that the hang limit has caught up with ends instead (R280). -/
def State.withCmd (s : State) (c op : Nat) (bad : Exec → Option Nat) (f : Bool → Exec → State → State) : State :=
  let x := s.ctx c
  let go (batch : Bool) (e : Exec) : State :=
    if e.cmd.opcode = op && decide (e.phase = .started) && decide (x.state ≠ .aborting) && s.running then
      if !batch && x.hangDue e s.now then (s.hangNow c e).carryOn
      else match (e.cevFault.orElse fun _ => bad e) with
      | some off => s.finishExec c batch 0x10 off
      | none => f batch e s
    else s
  match x.batch.bind (fun b => b.cur) with
  | some d => go true d
  | none => match x.exec with
    | some e => go false e
    | none => s

/-- The command's work has begun. -/
def State.setWorking (s : State) (c : Nat) (batch : Bool) : State :=
  s.modExec c batch (fun e => { e with phase := .working })

/-- The spans of a command's mask (0 names every span that is not fenced). -/
def State.maskOf (s : State) (m : Nat) : List Nat := if m = 0 then s.liveSpans else maskSpans m

/-! ### Fetching (R263-R265) -/

/-- Slots of the ring that the executing and the fetched commands hold. -/
def Ctx.slotsHeld (x : Ctx) : Nat :=
  (match x.exec with
   | some e => e.cmd.slots
   | none => 0) + (x.fetched.map (fun f => f.slots)).sum

/-- A command has every byte it is made of, or a fault that needs none. -/
def Fetched.whole (f : Fetched) : Bool := f.unread.isSome || f.bad.isSome || decide (f.bytes.length = 64 * f.slots)

/-- The index one past the last slot that may be fetched. -/
def Ctx.fetchLimit (x : Ctx) : BitVec 32 :=
  match x.drainTail with
  | some t => t
  | none => x.tail

/-- Slots published from index `i` on. -/
def Ctx.published (x : Ctx) (i : BitVec 32) : Nat := (x.fetchLimit - i).toNat

/-- Read a packet slot (R264, R534). -/
def State.readPacket (s : State) (c : Nat) (i : BitVec 32) : Fetched :=
  let a := (s.ctx c).slotAddr i.toNat
  match s.firstBad false a 64 with
  | some (b, .addrErr) | some (b, .fenced) => ⟨i.toNat, a, List.replicate 64 0#8, 1, none, some (b, true)⟩
  | _ =>
    let bytes := s.readBytes a 64
    match packetFault bytes with
    | some off => ⟨i.toNat, a, bytes, 1, some off, none⟩
    | none => ⟨i.toNat, a, bytes, 1 + numAt bytes 2 2, none, none⟩

/-- Read the payload slots of a command whose packet has been read. -/
def State.readPayload (s : State) (c : Nat) (f : Fetched) : Fetched :=
  let addrs := (List.range (f.slots - 1)).map (fun k => (s.ctx c).slotAddr (f.slot + 1 + k))
  match addrs.findSome? (fun a => match s.firstBad false a 64 with
    | some (b, .addrErr) | some (b, .fenced) => some b
    | _ => none) with
  | some b => { f with unread := some (b, false) }
  | none => { f with bytes := f.bytes ++ (addrs.map (fun a => s.readBytes a 64)).flatten }

/-- The bookkeeping of the reads of a fetch: `DEV_HERR.bme` (R412). -/
def State.noteFetch (s : State) (c : Nat) (f : Fetched) : State :=
  (List.range f.slots).foldl (fun st k => st.noteRequest false ((s.ctx c).slotAddr (f.slot + k)) 64) s

/-- The context may fetch: ACTIVE or DRAINING, not in FAULT, prefetching at most two commands behind the executing one
(R265). -/
def State.mayFetch (s : State) (c : Nat) : Bool :=
  let x := s.ctx c
  s.running && s.boot.ready && !s.faulted && (decide (x.state = .active) || decide (x.state = .draining))
    && decide (x.fetched.length < 3 - boolNat x.exec.isSome || x.fetched.any (fun f => !f.whole))
    && !x.fetched.any (fun f => f.unread.isSome)

/-- COMMAND_FETCH (R264): the next packet slot, or the payload of the last packet once the tail covers it. -/
def execCommandFetch (c : Fin 1024) (s : State) : Out :=
  let x := s.ctx c.val
  if !s.mayFetch c.val then goOn s
  else
    let complete (f : Fetched) (before : List Fetched) (st : State) : State :=
      let g := if f.whole then f
        else if x.published (BitVec.ofNat 32 f.slot) ≥ f.slots then st.readPayload c.val f else f
      (st.noteFetch c.val g).modCtx c.val (fun y => { y with fetched := before ++ [g] })
    match x.fetched.getLast? with
    | some f =>
      if !f.whole then goOn (complete f x.fetched.dropLast s)
      else
        let i := x.head + BitVec.ofNat 32 x.slotsHeld
        if x.published i = 0 then goOn s else goOn (complete (s.readPacket c.val i) x.fetched s)
    | none =>
      let i := x.head + BitVec.ofNat 32 x.slotsHeld
      if x.published i = 0 then goOn s else goOn (complete (s.readPacket c.val i) [] s)

/-! ### Starting (R265, R266) -/

/-- The context's next command is ready to start. -/
def Ctx.ready (x : Ctx) : Bool :=
  (decide (x.state = .active) || decide (x.state = .draining)) && x.exec.isNone && !x.cplFull && x.held.isEmpty &&
  (match x.fetched with
   | f :: _ => f.whole
   | [] => false)

/-- Among context numbers, the first at or after `from_`, else the first of all (round robin). -/
def pickRound (from_ : Nat) (l : List Nat) : Option Nat :=
  match l.find? (fun c => decide (from_ ≤ c)) with
  | some c => some c
  | none => l.head?

/-- The context whose command starts next (R266): priority 1 first, then round robin. -/
def State.nextStart (s : State) : Option (Nat × Bool) :=
  let ready := s.ctxs.filter (fun cx => cx.2.ready)
  let high := (ready.filter (fun cx => cx.2.priority)).map Prod.fst
  let normal := (ready.filter (fun cx => !cx.2.priority)).map Prod.fst
  match pickRound s.fe.rrHigh high with
  | some c => some (c, true)
  | none => (pickRound s.fe.rrNormal normal).map (fun c => (c, false))

/-- A command that starts. -/
def startExec (f : Fetched) (now hang serial : Nat) (batch : Bool) : Exec :=
  { cmd := f, start := now, hangMs := hang, serial := serial, hung := false, spansAll := 0, launched := 0, spansLeft := 0, unsent := 0, faulted := 0,
    failed := 0, launch := none, orderSens := false, saturated := false, batch := batch, lateFail := none, owed := [],
    phase := match f.bad with
      | some off => .finished 0x10 off
      | none => .started }

/-- COMMAND_START (R265, R266): one command; one that could not be read stops its context instead (R534). -/
def execCommandStart (s : State) : Out :=
  if !s.running || s.faulted then goOn s else
  match s.nextStart with
  | none => goOn s
  | some (c, high) =>
    let s := { s with fe := if high then { s.fe with rrHigh := c + 1 } else { s.fe with rrNormal := c + 1 } }
    match (s.ctx c).fetched with
    | [] => goOn s
    | f :: rest =>
      match f.unread with
      | some (b, packet) =>
        let s := s.modCtx c (fun x => { x with fetched := [] })
        if packet then goOn (s.slotFault c 0x11 0 0 b f.addr [])
        else goOn (s.slotFault c 0x11 f.tag f.opcode b f.addr f.bytes)
      | none =>
        let e := startExec f s.now (s.ctx c).hang.toNat s.fe.serial false
        let s := { s with fe := { s.fe with serial := s.fe.serial + 1 } }
        goOn (s.modCtx c (fun x => { x with exec := some e, fetched := rest }))

/-! ### Simple commands -/

/-- NOPC (R271). -/
def execNopc (c : Fin 1024) (s : State) : Out :=
  goOn (s.withCmd c.val 0x3F (fun _ => none) (fun b _ st => st.finishExec c.val b 0 0))

/-- CONST (R277): the 64 words of the payload. -/
def execConstBuf (c : Fin 1024) (s : State) : Out :=
  goOn (s.withCmd c.val 0x02 (fun _ => none) (fun b e st =>
    let words := (List.range 64).map (fun i => (i, BitVec.ofNat 32 (e.num (0x40 + 4 * i) 4)))
    (st.modCtx c.val (fun x => { x with consts := Store.putAll 0#32 words x.consts })).finishExec c.val b 0 0))

/-- EVREC (R294). -/
def execEvrec (c : Fin 1024) (s : State) : Out :=
  goOn (s.withCmd c.val 0x03 (fun e => firstFault [(0x12, decide (e.num 0x12 1 > 1))]) (fun b e st =>
    ((st.finishExec c.val b 0 0).eventOp (e.num 0x10 2) (natBit (e.num 0x12 1) 0) (BitVec.ofNat 64 (e.num 0x18 8))
      (natBit (e.num 0x13 1) 0) false).carryOn))

/-- EVWAIT (R295): tested when the wait starts. -/
def execEvwait (c : Fin 1024) (s : State) : Out :=
  goOn (s.withCmd c.val 0x04 (fun _ => none) (fun b e st =>
    let now := st.now
    let st := st.modExec c.val b (fun y => { y with phase := .working, start := now })
    st.modCtx c.val (fun x => x.testEvwait now (e.num 0x10 2) (st.event (e.num 0x10 2)))))

/-- WAIT_TIMEOUT (R295): the window of a wait with a timeout ends. -/
def execWaitTimeout (c : Fin 1024) (s : State) : Out :=
  match (s.ctx c.val).exec with
  | some e =>
    if s.running && e.cmd.opcode = 0x04 && e.isWorking && decide (e.num 0x14 4 ≠ 0) then
      let s := s.passTo (e.start + e.num 0x14 4 * tickUs)
      let v := (s.event (e.num 0x10 2)).value.toNat
      goOn ((s.finishExec c.val false 0x13 v).modCtx c.val (fun x => { x with stalled := false }))
    else goOn s
  | none => goOn s

/-! ### COPY and FILL (R279) -/

/-- The parts of a transfer: offset and length (R279). -/
def partsOf (total len : Nat) : List (Nat × Nat) :=
  (List.range (ceilDiv total len)).map (fun k => (k * len, min len (total - k * len)))

/-- The outcome of the parts (R279, R441): OK, PARTIAL with the failed parts, or ADDR_ERR when all fail. -/
def partsOutcome (fails : List (Option Nat)) : Nat × Nat :=
  let failed := (fails.zipIdx.filter (fun p => p.1.isSome)).map Prod.snd
  if failed.isEmpty then (0, 0)
  else if failed.length = fails.length then (0x11, (fails.head?.join).getD 0)
  else (0x12, failed.foldl (fun m k => m + 2 ^ k) 0)

/-- A transfer of parts waits: one of them, on the engine of its span, would meet a preserving march test (R364) or is held until
tables are installed (R374). -/
def State.partsHeld (s : State) (src : Option Nat) (dst : Nat) (parts : List (Nat × Nat)) : Bool :=
  let live := s.liveSpans
  parts.zipIdx.any (fun p =>
    let r := spanRouter (live.getD (p.2 % max 1 live.length) 0)
    let held (a : Nat) : Bool := s.rangeHeld r (a + p.1.1) p.1.2 || s.marchHeld (a + p.1.1) p.1.2
    held dst || src.any held)

/-- COPY (R279). With no span unfenced, no part has an engine and every part fails. -/
def execCopy (c : Fin 1024) (s : State) : Out :=
  goOn (s.withCmd c.val 0x05
    (fun e => firstFault [(0x20, decide (e.num 0x20 8 = 0) || decide (e.num 0x20 8 > 2 ^ 40)),
      (0x18, overlaps (e.num 0x10 8) (e.num 0x18 8) (e.num 0x20 8))])
    (fun b e st =>
      let src := e.num 0x10 8
      let dst := e.num 0x18 8
      let parts := partsOf (e.num 0x20 8) (ceilDiv (e.num 0x20 8) 64)
      if st.partsHeld (some src) dst parts then st else
      let r := parts.foldl (fun acc p =>
        if st.liveSpans.isEmpty then (acc.1, acc.2 ++ [some src])
        else
          let t := acc.1.dmaCopy (src + p.1) (dst + p.1) p.2
          (t.1, acc.2 ++ [t.2])) (st, ([] : List (Option Nat)))
      let o := partsOutcome r.2
      r.1.finishExec c.val b o.1 o.2))

/-- Fill `n` bytes with a pattern, up to the first byte that cannot be written. -/
def State.dmaFill (s : State) (dst n : Nat) (pattern : List Byte) : State × Option Nat :=
  let stop := s.firstBad true dst n
  let len := match stop with
    | some (a, _) => a - dst
    | none => n
  let cells := (List.range len).map (fun i => (dst + i, pattern.getD (i % 8) 0#8))
  ((s.noteRequest true dst (min n (len + 1))).storeCells cells, stop.map Prod.fst)

/-- FILL (R279). -/
def execFill (c : Fin 1024) (s : State) : Out :=
  goOn (s.withCmd c.val 0x06
    (fun e => firstFault [(0x10, decide (e.num 0x10 8 % 8 ≠ 0)),
      (0x18, decide (e.num 0x18 8 % 8 ≠ 0) || decide (e.num 0x18 8 < 8) || decide (e.num 0x18 8 > 2 ^ 40))])
    (fun b e st =>
      let dst := e.num 0x10 8
      let len := e.num 0x18 8
      let pattern := leBytes 8 (e.num 0x20 8)
      if st.partsHeld none dst (partsOf len (8 * ceilDiv len 512)) then st else
      let r := (partsOf len (8 * ceilDiv len 512)).foldl (fun acc p =>
        if st.liveSpans.isEmpty then (acc.1, acc.2 ++ [some dst])
        else
          let t := acc.1.dmaFill (dst + p.1) p.2 pattern
          (t.1, acc.2 ++ [t.2])) (st, ([] : List (Option Nat)))
      let o := partsOutcome r.2
      r.1.finishExec c.val b o.1 o.2))

/-! ### LAUNCH and the pier's launch queue -/

/-- The words of a program read from memory. -/
def State.readProgram (s : State) (a count : Nat) : Store Word :=
  Store.putAll 0#64 ((List.range count).map (fun i => (i, BitVec.ofNat 64 (s.readNat (a + 8 * i) 8)))) []

/-- LAUNCH (R277, R278). -/
def execLaunch (c : Fin 1024) (s : State) : Out :=
  goOn (s.withCmd c.val 0x01
    (fun e => firstFault [(0x10, decide (e.num 0x10 8 % 8 ≠ 0)),
      (0x18, decide (e.num 0x18 4 = 0) || decide (e.num 0x18 4 > 8192))])
    (fun b e st =>
      let a := e.num 0x10 8
      let n := e.num 0x18 4
      match st.firstBad false a (8 * n) with
      | some (bad, _) => (st.noteRequest false a (8 * n)).finishExec c.val b 0x11 bad
      | none =>
        st.dispatch c.val b (st.maskOf (e.num 0x1C 2))
          ⟨c.val, e.serial, b, st.readProgram a n, n, (st.ctx c.val).consts⟩))

/-- The registers at launch (R302). -/
def launchRegs (n ctx seq : Nat) : Store Word :=
  Store.putAll 0#64 [(30, BitVec.ofNat 64 (spanRegion n)), (31, BitVec.ofNat 64 (n + ctx * 16 + seq * 2 ^ 32))] []

/-- The pier at the start of a launch (Table 11.1). -/
def Pier.start (p : Pier) (n : Nat) (l : Launch) (rest : List Launch) : Pier :=
  let seq := (p.launchSeq + 1) % 2 ^ 32
  { code := 1, pc := 0, launchSeq := seq, regs := launchRegs n l.ctx seq, loops := [], flight := [], blocked := none,
    launch := some l, queue := rest, tags := [], slots := [], lastCtx := l.ctx }

/-- A batch task keeps span `n` between its descriptors (R292): it lets no launch but its own begin there. -/
def State.keptFrom (s : State) (n : Nat) (l : Launch) : Bool :=
  s.ctxs.any (fun cx => match cx.2.batch with
    | some t =>
      (natBit t.resident n || (match t.cur with
        | some d => (match d.phase with
          | .finished _ _ => natBit d.spansAll n
          | _ => false)
        | none => false)) && !(l.batch && l.ctx = cx.1)
    | none => false)

/-- PIER_LAUNCH (R275, R302): the next launch of the queue, when the one before it has ended. That of an operator command
begins in the command's own row. -/
def execPierLaunch (n : Fin 16) (s : State) : Out :=
  let s := s.sendLaunches 8 n.val
  let p := s.pier n.val
  if !s.running || p.launch.isSome || s.spanFenced n.val || (s.span n.val).marchState = 1 then goOn s
  else match p.queue with
    | [] => goOn s
    | l :: rest =>
      if s.keptFrom n.val l || l.count = 0 then goOn s
      else goOn ((s.modPier n.val (fun q => q.start n.val l rest)).sendLaunches 8 n.val).carryOn

/-! ### QSTOP, CKPT, PFREE -/

/-- The status of a QSTOP or CKPT that finds no run: NO_PROBLEM for a problem that is lost (R394), else NO_RUN (R281). -/
def State.noRunStatus (s : State) (id : Nat) : Nat := if (s.problemById id).any (fun p => p.lost) then 0x15 else 0x03

/-- The run in execution of a problem, unless the problem is lost or a PFREE has marked it (R281, R289, R394). -/
def State.runById (s : State) (id : Nat) : Option Run :=
  match s.problemById id with
  | some p => if p.freeing || p.lost then none else s.runs.find? (fun r => r.id = id)
  | none => none

/-- QSTOP (R289). -/
def execQstop (c : Fin 1024) (s : State) : Out :=
  goOn (s.withCmd c.val 0x30 (fun _ => none) (fun b e st =>
    let id := e.num 0x10 4
    match st.runById id with
    | none => st.finishExec c.val b (st.noRunStatus id) id
    | some r =>
      let st := (st.setWorking c.val b).stopRun r.problem (fun t => { t with stop := true })
      let st := if natBit (e.num 0x14 1) 0 then
          st.modCtx r.ctx (fun x => { x with batch := x.batch.map (fun t => { t with ending := true }) })
        else st
      st.carryOn))

/-- CKPT (R287): the run is asked for a checkpoint at its next sweep boundary. -/
def execCkpt (c : Fin 1024) (s : State) : Out :=
  goOn (s.withCmd c.val 0x16 (fun _ => none) (fun b e st =>
    let id := e.num 0x10 4
    match st.runById id with
    | some r =>
      if r.ckptArea = 0 then st.finishExec c.val b 0x03 id
      else (st.setWorking c.val b).modRun r.problem (fun q => { q with ckptAsked := true })
    | none => st.finishExec c.val b (st.noRunStatus id) id))

/-- PFREE (R281). -/
def execPfree (c : Fin 1024) (s : State) : Out :=
  goOn (s.withCmd c.val 0x11 (fun _ => none) (fun b e st =>
    let id := e.num 0x10 4
    match st.problemById id with
    | none => st.finishExec c.val b 0x15 id
    | some p =>
      if p.freeing then st.finishExec c.val b 0x15 id
      else ((st.modProblem (id % 64) (fun q => { q with freeing := true })).setWorking c.val b).finishFrees))

/-! ### Batches (R290-R292) -/

/-- A power of two from 2 to 65,536. -/
def isQueueSize (n : Nat) : Bool := decide (2 ≤ n) && decide (n ≤ 65536) && decide (2 ^ Nat.log2 n = n)

/-- ANNEAL_BATCH (R290): the task waits on its work event. In a context that is being destroyed it ends at once (R292). -/
def execAnnealBatch (c : Fin 1024) (s : State) : Out :=
  goOn (s.withCmd c.val 0x13
    (fun e => firstFault [(0x10, decide (e.num 0x10 8 % 64 ≠ 0)), (0x18, !isQueueSize (e.num 0x18 4))])
    (fun b e st => if (st.ctx c.val).state = .draining then st.finishExec c.val b 0 0 else
      (st.setWorking c.val b).modCtx c.val (fun x =>
      { x with batch := some ⟨e.num 0x10 8, e.num 0x18 4, e.num 0x1C 2, 0, none, none, false, 0⟩ })))

/-- What a descriptor's opcode allows (R291): ANNEAL and RESTORE with payload size 0, and END. -/
def descriptorFault (bytes : List Byte) : Option Nat :=
  let op := numAt bytes 0 1
  if op = 0 then none
  else if op = 0x12 || op = 0x17 then (if numAt bytes 2 2 = 0 then none else some 2)
  else some 0

/-- Read descriptor `k` of a task's queue. -/
def State.readDescriptor (s : State) (t : Batch) (k : Nat) : Fetched :=
  let a := t.queue + 64 + 64 * (k % t.entries)
  match s.firstBad false a 64 with
  | some (bad, .addrErr) | some (bad, .fenced) => ⟨k, a, [], 0, none, some (bad, true)⟩
  | _ =>
    let bytes := s.readBytes a 64
    ⟨k, a, bytes, 0, descriptorFault bytes, none⟩

/-- A descriptor that has been read begins; one that could not be read ends the task. -/
def State.startDescriptor (s : State) (c : Nat) (f : Fetched) : State :=
  match f.unread with
  | some (bad, _) => s.modCtx c (fun y =>
      { y with batch := none, exec := y.exec.map (fun e => { e with phase := .finished 0x11 bad }) })
  | none =>
    let d := startExec f s.now 0 s.fe.serial true
    let s := { s with fe := { s.fe with serial := s.fe.serial + 1 } }
    s.modCtx c (fun y => { y with batch := y.batch.map (fun u => { u with cur := some d, next := none }) })

/-- BATCH_DESCRIPTOR_TAKE (R290, R291): descriptor c, once the work event's value exceeds c; while descriptor c runs,
descriptor c + 1 is read ahead, once the value exceeds c + 1. -/
def execBatchDescriptorTake (c : Fin 1024) (s : State) : Out :=
  let x := s.ctx c.val
  match x.batch, x.exec with
  | some t, some e =>
    let k := t.consumed + boolNat t.cur.isSome
    if s.running && !s.faulted && e.isWorking && !t.ending && decide (x.state ≠ .aborting)
        && decide (k < (s.event t.event).value.toNat) then
      match t.cur, t.next with
      | none, some f => goOn (s.startDescriptor c.val f)
      | none, none =>
        let f := s.readDescriptor t k
        goOn ((s.noteRequest false f.addr 64).startDescriptor c.val f)
      | some _, none =>
        let f := s.readDescriptor t k
        goOn ((s.noteRequest false f.addr 64).modCtx c.val (fun y =>
          { y with batch := y.batch.map (fun u => { u with next := some f }) }))
      | some _, some _ => goOn s
    else goOn s
  | _, _ => goOn s

/-- END (R292): the task ends. -/
def execEndDescriptor (c : Fin 1024) (s : State) : Out :=
  match (s.ctx c.val).batch.bind (fun t => t.cur) with
  | some d =>
    if s.running && d.cmd.opcode = 0 && decide (d.phase = .started) then
      goOn ((s.finishExec c.val true 0 0).modCtx c.val (fun x =>
        { x with batch := x.batch.map (fun t => { t with ending := true }) }))
    else goOn s
  | none => goOn s

/-- A descriptor has completed (R291, R292): the count is written and the task ends where it must; one that a destroy ends, with
the status of its descriptor. -/
def State.descriptorDone (s : State) (c : Nat) (t : Batch) (status : Nat) : State :=
  let fails := status = 0x1B || status = 0x1C
  s.modCtx c (fun x =>
    if t.ending || fails then
      { x with batch := none,
               exec := x.exec.map (fun e => { e with phase := .finished (if fails || x.state = .draining then status else 0) 0 }) }
    else
      let kept := match t.cur with
        | some d => if d.spansAll = 0 then t.resident else d.spansAll
        | none => 0
      let more := decide (t.consumed + 1 < (s.event t.event).value.toNat)
      { x with batch := some { t with cur := none, consumed := t.consumed + 1, resident := if more then kept else 0 } })

/-- COMMAND_COMPLETION (R267-R271, R298, R300): of the batch descriptor, of the executing command, or, in ABORT mode,
of the next command that has been fetched. It waits for room when it needs an entry (R268). A command that completes at the end of its
hang limit or later is one that the limit has ended (R7, R280). -/
def execCommandCompletion (c : Fin 1024) (s : State) : Out :=
  let x := s.ctx c.val
  let aborting := decide (x.state = .aborting)
  let finish (e : Exec) (st : State) (status detail : Nat) (performed : Bool) : State :=
    let o := e.outcome aborting status detail
    let st := if aborting then st.abortEvents e performed else st
    st.completeCmd c.val e o.1 o.2
  if !s.running then goOn s
  else match x.batch with
    | some t =>
      match t.cur with
      | some d =>
        match d.phase with
        | .finished status detail =>
          let o := d.outcome aborting status detail
          if x.canComplete d o.1 then
            let s := s.writeNat t.queue 8 (t.consumed + 1)
            goOn ((finish d s status detail true).descriptorDone c.val t o.1).carryOn
          else goOn s
        | _ => goOn s
      | none => goOn s
    | none =>
      let s := match x.exec with
        | some e => if x.hangDue e s.now then s.hangNow c.val e else s
        | none => s
      let x := s.ctx c.val
      match x.exec with
      | some e =>
        match e.phase with
        | .finished status detail =>
          let o := e.outcome aborting status detail
          if x.canComplete e o.1 then goOn (finish e s status detail (decide (status ≠ 0x1B))).carryOn else goOn s
        | _ => goOn s
      | none =>
        match aborting, x.fetched with
        | true, f :: rest =>
          let e := f.asExec s.now
          if f.whole && f.unread.isNone then
            if x.canComplete e 0x1B then
              goOn (finish e (s.modCtx c.val (fun y => { y with fetched := rest })) 0x1B 0 false).carryOn
            else goOn s
          else goOn (s.modCtx c.val (fun y => { y with fetched := [] }))
        | _, _ => goOn s

/-! ### Register writes of a context -/

/-- A new tail (R263, R299, R301): a valid one is taken; an invalid one stops the context (R534). -/
def State.doorbell (s : State) (c : Nat) (tail : BitVec 32) : State :=
  let x := s.ctx c
  match x.state with
  | .active | .stopped =>
    if (tail - x.head).toNat ≤ 2 ^ x.useRingLog2 && (tail - x.tail).toNat ≤ 2 ^ x.useRingLog2 then
      s.modCtx c (fun y => { y with tail := tail })
    else (s.slotFault c 0x1D 0 0 tail.toNat 0 []).carryOn
  | .free | .draining | .aborting => s.modCtx c (fun y => { y with tail := tail })

/-- CTX_DOORBELL (R263). -/
def execCtxDoorbell (c : Fin 1024) (tail : BitVec 32) (s : State) : Out :=
  goOn (if s.barOk then s.doorbell c.val tail else s)

/-- Begin ABORT mode (R300): fetching stops, the piers stop, runs stop at their next block boundary, a wait is
abandoned, that of a batch task on its work event among them, and work that has not begun is not done. -/
def State.beginAbort (s : State) (c : Nat) : State :=
  let s := s.modCtx c (fun x => { x with state := .aborting, stalled := false })
  let s := (s.stopPiersOf c none true).dropQueued c
  let s := { s with runs := s.runs.map (fun r => if r.ctx = c then { r with stops := { r.stops with abort := true } } else r) }
  let end_ (batch : Bool) (st : State) : State :=
    match st.execOf c batch with
    | none => st
    | some e =>
      let left := st.runningFor c e.serial
      let carries := st.carriesRun c e.serial
      let waits := e.cmd.opcode = 0x13 && ((st.ctx c).batch.bind (fun t => t.cur)).isSome
      let st := st.undoLoad e
      st.modExec c batch (fun y =>
        let y := y.withdrawn left
        if waits || carries || (y.cmd.opcode = 0x01 && decide (left ≠ 0)) then y
        else match y.phase with
          | .finished _ _ => y
          | _ => { y with phase := .finished 0x1B 0 })
  let s := end_ true s
  let s := match (s.ctx c).batch with
    | some t => if t.cur.isNone then s.modCtx c (fun x => { x with batch := none }) else s
    | none => s
  end_ false s

/-- The drain has fetched and run what it can: a packet whose payload lies past the drain's tail is no command of it (R264,
R299). -/
def Ctx.drained (x : Ctx) : Bool :=
  match x.fetched with
  | [] => decide (x.fetchLimit = x.head)
  | [f] => !f.whole && decide (x.published (BitVec.ofNat 32 f.slot) < f.slots)
  | _ => false

/-- The context's work is over: nothing executes, nothing fetched waits, no pier runs a launch of it (R299, R300). -/
def State.destroyReady (s : State) (c : Nat) : Bool :=
  let x := s.ctx c
  x.exec.isNone && x.batch.isNone && !x.cplFull && x.held.isEmpty &&
  spanIds.all (fun n => !(s.pier n).runsFor c none) &&
  (match x.state with
   | .aborting => x.fetched.isEmpty
   | .draining => x.drained
   | _ => false)

/-- DESTROY_DONE (R301). -/
def execDestroyDone (c : Fin 1024) (s : State) : Out :=
  goOn (if s.running && s.destroyReady c.val then (s.finishDestroy c.val).carryOn else s)

/-- The batch task of a context ends by a destroy (R292): behind the descriptor that runs, or at once. -/
def Ctx.endTask (x : Ctx) : Ctx :=
  match x.batch with
  | some t =>
    if t.cur.isSome then { x with batch := some { t with ending := true } }
    else { x with batch := none, exec := x.exec.map (fun e => { e with phase := .finished 0 0 }) }
  | none => x

/-- Begin a destroy (R258, R292, R299-R301). That of a STOPPED context completes at once, or once its ring has room; what a context
stopped by its ring has left in execution ends with it (entry 88). -/
def State.beginDestroy (s : State) (c : Nat) (abort : Bool) : State :=
  let x := s.ctx c
  let was := x.state
  let s := s.modCtx c (fun y => { y with drainTail := some y.tail, state := if abort then .aborting else .draining })
  match was with
  | .stopped =>
    let s := (s.beginAbort c).modCtx c (fun y =>
      { y with fetched := [], exec := none, batch := none, drainTail := some y.head, state := if abort then .aborting else .draining })
    if (s.ctx c).cplFull || !(s.ctx c).held.isEmpty then s else s.finishDestroy c
  | _ => if abort then s.beginAbort c else s.modCtx c Ctx.endTask

/-- A write of `CTX_CTL` (R258-R261). -/
def State.ctlWrite (s : State) (c : Nat) (enable abort resume priority : Bool) : State :=
  let x := s.ctx c
  let st0 := x.state
  let s := s.modCtx c (fun y =>
    { y with enable := enable, priority := priority, abort := if st0 = .aborting then y.abort else abort })
  let s := match st0, enable with
    | .free, true => s.modCtx c Ctx.create
    | .draining, true | .aborting, true => s.modCtx c (fun y => { y with enablePending := true })
    | .draining, false | .aborting, false => s.modCtx c (fun y => { y with enablePending := false })
    | .active, false | .stopped, false => s.beginDestroy c abort
    | _, _ => s
  let s := if st0 = .draining && abort then s.beginAbort c else s
  if resume && st0 = .stopped && enable && !s.faulted then
    s.modCtx c (fun y => { y with state := .active, fetched := [] })
  else s

/-- CONTEXT_CREATE (R258, R259): a write of 1 to `CTX_CTL.enable`. -/
def execContextCreate (c : Fin 1024) (abort priority : Bool) (s : State) : Out :=
  goOn (if s.barOk then (s.ctlWrite c.val true abort false priority).carryOn else s)

/-- CONTEXT_DESTROY (R258): a write of 0 to `CTX_CTL.enable`. -/
def execContextDestroy (c : Fin 1024) (abort priority : Bool) (s : State) : Out :=
  goOn (if s.barOk then (s.ctlWrite c.val false abort false priority).carryOn else s)

/-- DESTROY_ABORT (R260): a write of 1 to `CTX_CTL.abort` that leaves enable as it is. -/
def execDestroyAbort (c : Fin 1024) (priority : Bool) (s : State) : Out :=
  goOn (if s.barOk && (decide ((s.ctx c.val).state = .draining) || decide ((s.ctx c.val).state = .aborting)) then
    (s.ctlWrite c.val (s.ctx c.val).enable true false priority).carryOn else s)

/-- RESUME (R261, R428): a write of 1 to `CTX_CTL.resume`, with enable 1. -/
def execResume (c : Fin 1024) (abort priority : Bool) (s : State) : Out :=
  goOn (if s.barOk then (s.ctlWrite c.val true abort true priority).carryOn else s)

/-- A new completion head (R268): held entries are written as room allows. -/
def State.cplHeadWrite (s : State) (c : Nat) (head : BitVec 32) : State :=
  let s := s.modCtx c (fun x => { x with cplHead := head })
  if (s.ctx c).held.isEmpty then s else s.flushHeld c (s.ctx c).held

/-- CTX_CPL_HEAD (R268). -/
def execCtxCplHead (c : Fin 1024) (head : BitVec 32) (s : State) : Out :=
  goOn (if s.barOk then s.cplHeadWrite c.val head else s)

/-! ### Register writes of an event (R293, R294) -/

/-- EVT_VALUE. -/
def execEvtValue (e : BitVec 16) (value : BitVec 64) (s : State) : Out :=
  goOn (if s.barOk then (s.eventOp e.toNat false value false true).carryOn else s)

/-- EVT_ADD. -/
def execEvtAdd (e : BitVec 16) (value : BitVec 32) (s : State) : Out :=
  goOn (if s.barOk then (s.eventOp e.toNat true (value.setWidth 64) false true).carryOn else s)

/-- EVT_ERROR_CLEAR. -/
def execEvtErrorClear (e : BitVec 16) (s : State) : Out :=
  goOn (if s.barOk then s.setEvent e.toNat { s.event e.toNat with error := false } else s)

end Sys2Proof.Machine
end

