-- ==== Sys2Proof/Machine/ConfigSpace.lean ====
section
/-! DEFINITION. Configuration space (16 R401-R404, R410-R413): the identifiers of Table 16.1, the capabilities of Table 16.2, the
BARs, and when a configuration request is answered. The spec gives values and offsets of capabilities; the places of fields within
a header or a capability are those of the PCI Express specification (PRESUMED, entry 138). A field that the spec does not name reads 0
here.
-/

namespace Sys2Proof.Machine

/-- The function cannot complete a configuration request yet and answers with Configuration Request Retry Status: before the host
port has trained at boot, and during an FLR (R410, R413; DESIGN CHOICE, entry 139). -/
def State.cfgRetry (s : State) : Bool := decide (s.boot.stage = 5) || (s.boot.resetting && decide (s.boot.cause = 3))

/-- Subsystem ID: that of an engineering sample, which `DEV_REV.sample` marks, or of the production module (Table 16.1). -/
def subsystemId : Nat := if natBits Config.revision.toNat 0 0 = 1 then 0x0001 else 0x0100

/-- A base address register: the base from bit `size` on, and the type bits. -/
def barWord (base : BitVec 64) (size kind : Nat) : Nat := base.toNat / 2 ^ size * 2 ^ size + kind

/-- The code of a payload or read-request size of 128 · 2^k bytes is k. -/
def sizeCode (bytes : Nat) : Nat := Nat.log2 (bytes / 128)

/-- The Link Status register (R401): speed 6 for 64 GT/s down to 1 for 2.5 GT/s, and the count of lanes. -/
def Pcie.linkStatus (p : Pcie) : Nat := (6 - p.speed.toNat) + 16 * (16 / 2 ^ p.width.toNat)

/-- The header of a capability in the first 256 bytes: its ID and the offset of the next. -/
def capHeader (id next rest : Nat) : Nat := id + next * 2 ^ 8 + rest * 2 ^ 16

/-- The header of an extended capability. -/
def extHeader (id next : Nat) : Nat := id + 2 ^ 16 + next * 2 ^ 20

/-- The header words (Table 16.1, R403). -/
def State.cfgHeader (s : State) : Nat → Nat
  | 0x00 => 0x20481F7B
  | 0x04 => bitIf s.pcie.bme 2 + 2 ^ 20
  | 0x08 => 1 + 0x120000 * 2 ^ 8
  | 0x10 => lo32 (barWord s.pcie.bar0 26 4)
  | 0x14 => hi32 (barWord s.pcie.bar0 26 4)
  | 0x18 => lo32 (barWord s.pcie.bar2 s.pcie.bar2Log2 0xC)
  | 0x1C => hi32 (barWord s.pcie.bar2 s.pcie.bar2Log2 0xC)
  | 0x2C => 0x1F7B + subsystemId * 2 ^ 16
  | 0x34 => 0x40
  | _ => 0

/-- The words of the capabilities (Table 16.2): Power Management, PCI Express, MSI-X, and the extended ones. -/
def State.cfgCaps (s : State) : Nat → Nat
  | 0x40 => capHeader 0x01 0x50 3
  | 0x44 => (if s.pcie.d3hot then 3 else 0) + 2 ^ 3
  | 0x50 => capHeader 0x10 0xB0 2
  | 0x54 => 2 + 2 ^ 28
  | 0x58 => sizeCode s.pcie.mps * 2 ^ 5 + sizeCode s.pcie.mrrs * 2 ^ 12
  | 0x5C => 6 + 16 * 2 ^ 4
  | 0x60 => s.pcie.linkStatus * 2 ^ 16
  | 0xB0 => capHeader 0x11 0 (2047 + bitIf s.pcie.funcMask 14 + bitIf s.pcie.msixEnable 15)
  | 0xB4 => 0x900000
  | 0xB8 => 0x980000
  | 0x100 => extHeader 0x01 0x148
  | 0x104 => s.pcie.aer.toNat
  | 0x148 => extHeader 0x15 0x158
  | 0x14C => (2 ^ 11 - 1) * 2 ^ 12
  | 0x150 => 2 + 1 * 2 ^ 5 + (s.pcie.bar2Log2 - 20) * 2 ^ 8
  | 0x158 => extHeader 0x19 0x178
  | 0x178 => extHeader 0x26 0x1A8
  | 0x1A8 => extHeader 0x2A 0x1D0
  | 0x1D0 => extHeader 0x31 0x1F0
  | 0x1F0 => extHeader 0x32 0
  | _ => 0

/-- The word at an offset of configuration space that is a multiple of 4. -/
def State.configWord (s : State) (o : Nat) : Nat := if o < 0x40 then s.cfgHeader o else s.cfgCaps o

/-- What a configuration read returns: none for Configuration Request Retry Status (R410), or while no link is driven (R487). -/
def State.configRead (s : State) (o : Nat) : Option Nat := if s.running && !s.cfgRetry then some (s.configWord o) else none

/-- A configuration write, answered with a change of state or with Configuration Request Retry Status (R410). -/
def State.configure (s : State) (f : State → State) : State :=
  if !s.running then s
  else if s.cfgRetry then { s with bus := { s.bus with retry := true } }
  else f { s with bus := { s.bus with retry := false } }

end Sys2Proof.Machine
end

