-- ==== Sys2Proof/Machine/Flags.lean ====
section
/-! DEFINITION. The flags of `SPN_TEN_STATUS` (Table 7.8) and the indications that go to the command (R200).
-/

namespace Sys2Proof.Machine

/-- An integer MMA or a reduction sum saturated. -/
def flagIntSat : Nat := 0
/-- A block-scaled MMA saturated after four replays. -/
def flagBsSat : Nat := 1
/-- ACCMV, CVT or EWO saturated an output. -/
def flagCvtSat : Nat := 2
/-- An ATADD issued by this span saturated. -/
def flagAtaddSat : Nat := 3
/-- An instruction met a tile with mixed exponents. -/
def flagExpMixed : Nat := 4

/-- The command that the launch of span `n` works for has a saturated indication (Table 10.4). -/
def State.markSaturated (s : State) (n : Nat) : State :=
  match (s.pier n).launch with
  | some l => match s.launchExec l with
    | some _ => s.modExec l.ctx l.batch (fun e => { e with saturated := true })
    | none => s
  | none => s

/-- Set a flag of `SPN_TEN_STATUS`, which a fence freezes (R530); int_sat, bs_sat and cvt_sat are indications of the command too
(R267). -/
def State.tenFlag (s : State) (n flag : Nat) : State :=
  let s := if s.spanFenced n then s else s.modSpan n (fun x => { x with tenStatus := x.tenStatus ||| (1#5 <<< flag) })
  if flag ≤ flagCvtSat then s.markSaturated n else s

/-- Set a flag when a condition holds. -/
def State.tenFlagIf (s : State) (n flag : Nat) (c : Bool) : State := if c then s.tenFlag n flag else s

/-- The saturated sum of R199: the value and whether it saturated. -/
def satSum (w : Nat) (a b : Int) : Int × Bool := (mantClamp w (a + b), !mantFits w (a + b))

end Sys2Proof.Machine
end

