-- ==== Sys2Proof/Machine/PierIsa.lean ====
section
/-! DEFINITION. The span instructions of control, scalar, event, barrier, fence and memory (11): each row issues the
instruction at the pier's PC when it is of the row's kind. An instruction that takes no time is done at issue; one that
stays in flight completes by INSTRUCTION_COMPLETION, DMA_COMPLETE or a delivery notice (entry 10).
-/

namespace Sys2Proof.Machine

/-- The instruction that pier `n` can issue now (R305, R307), with its launch; the instruction is none for an undefined
opcode (R304). -/
def State.atIssue (s : State) (n : Nat) : Option (Launch × Option SpanInstr) :=
  let p := s.pier n
  match p.launch with
  | some l =>
    if s.running && p.live && p.blocked.isNone && decide (p.pc < l.count) && decide (p.inFlight < 192)
        && !s.spanFenced n then some (l, decodeSpan (Store.get 0#64 p.pc l.ibuf))
    else none
  | none => none

/-- Issue the instruction at PC (R305). `act` gives the state after the issue of an instruction of the row's kind, and
none for another kind; an instruction whose registers an earlier one still writes waits. -/
def State.issue (s : State) (n : Nat) (act : Launch → SpanInstr → Pier → State → Option State) : State :=
  match s.atIssue n with
  | some (l, some i) =>
    if regHazard (s.pier n).flight i then s
    else match act l i (s.pier n) (s.modPier n (fun p => { p with code := 1 })) with
      | some t => t.carryOn
      | none => s
  | _ => s

/-- Change the pier and go to the next instruction. -/
def State.nextPc (s : State) (n : Nat) (f : Pier → Pier) : State := s.modPier n (fun p => { f p with pc := p.pc + 1 })

/-- An instruction enters flight with the operands it read (R305). -/
def State.fly (s : State) (n : Nat) (i : SpanInstr) (a b c : Word) (aux : Nat) : State :=
  s.nextPc n (fun p => { p with flight := p.flight ++ [⟨i, a, b, c, aux⟩] })

/-- An instruction blocks issue (R307). -/
def State.block_ (s : State) (n : Nat) (i : SpanInstr) (b : Word) : State :=
  let now := s.now
  s.nextPc n (fun p => { p with blocked := some (⟨i, 0, b, 0, 0⟩, now), code := 2 })

/-- The pier waits at issue for a tag or a slot. -/
def State.holdIssue (s : State) (n : Nat) : State := s.modPier n (fun p => { p with code := 2 })

/-- The fault of an illegal operand at issue (R304). -/
def State.illegal (s : State) (n pc : Nat) : State := s.pierFault n 0x11 pc

/-! ### Control (R309-R311) -/

/-- NOP. -/
def execNop (n : Fin 16) (s : State) : Out :=
  goOn (s.issue n.val (fun _ i _ st => match i with
    | .nop => some (st.nextPc n.val id)
    | _ => none))

/-- HALT (R311): it blocks until every earlier instruction has completed. -/
def execHalt (n : Fin 16) (s : State) : Out :=
  goOn (s.issue n.val (fun _ i _ st => match i with
    | .halt => some (st.block_ n.val i 0)
    | _ => none))

/-- Pop the loop entries whose range does not contain the target, from the top down (R310). -/
def popLoops (target : Nat) : List LoopEntry → List LoopEntry
  | [] => []
  | e :: rest => if e.first ≤ target && target ≤ e.last then e :: rest else popLoops target rest

/-- A taken branch (R309, R310). -/
def State.branch (s : State) (n count pc : Nat) (off : BitVec 24) : State :=
  let t : Int := pc + off.toInt
  if t < 0 || t ≥ count then s.pierFault n 0x12 pc
  else s.modPier n (fun p => { p with pc := t.toNat, loops := popLoops t.toNat p.loops })

/-- BR (R309). -/
def execBr (n : Fin 16) (s : State) : Out :=
  goOn (s.issue n.val (fun l i p st => match i with
    | .br off => some (st.branch n.val l.count p.pc off)
    | _ => none))

/-- The condition of a BRC on a signed value (R309), none for a code that is absent. -/
def branchCond (cond : Nat) (v : Int) : Option Bool :=
  match cond with
  | 0 => some (decide (v = 0))
  | 1 => some (decide (v ≠ 0))
  | 2 => some (decide (v < 0))
  | 3 => some (decide (v ≥ 0))
  | 4 => some (decide (v > 0))
  | 5 => some (decide (v ≤ 0))
  | _ => none

/-- BRC (R309). -/
def execBrc (n : Fin 16) (s : State) : Out :=
  goOn (s.issue n.val (fun l i p st => match i with
    | .brc ra cond off => some (match branchCond cond.toNat (p.reg ra).toInt with
      | none => st.illegal n.val p.pc
      | some true => st.branch n.val l.count p.pc off
      | some false => st.nextPc n.val id)
    | _ => none))

/-- LOOP (R310). -/
def execLoop (n : Fin 16) (s : State) : Out :=
  goOn (s.issue n.val (fun _ i p st => match i with
    | .loop ra off =>
      let count := (p.reg ra).toNat % 2 ^ 32
      some (
        if off.toNat = 0 || off.toNat > 8191 then st.illegal n.val p.pc
        else if p.loops.length ≥ 4 then st.pierFault n.val 0x13 p.pc
        else if count = 0 then st.modPier n.val (fun q => { q with pc := p.pc + off.toNat + 1 })
        else st.nextPc n.val (fun q => { q with loops := ⟨p.pc + 1, p.pc + off.toNat, count⟩ :: q.loops }))
    | _ => none))

/-- ENDLP (R310). -/
def execEndlp (n : Fin 16) (s : State) : Out :=
  goOn (s.issue n.val (fun _ i p st => match i with
    | .endlp => some (match p.loops with
      | e :: rest =>
        if e.last ≠ p.pc then st.pierFault n.val 0x13 p.pc
        else if e.remaining - 1 ≠ 0 then
          st.modPier n.val (fun q => { q with pc := e.first, loops := { e with remaining := e.remaining - 1 } :: rest })
        else st.nextPc n.val (fun q => { q with loops := rest })
      | [] => st.pierFault n.val 0x13 p.pc)
    | _ => none))

/-- ILLEGAL_OP (R304). -/
def execIllegalOp (n : Fin 16) (s : State) : Out :=
  match s.atIssue n.val with
  | some (_, none) => goOn (s.pierFault n.val 0x10 (s.pier n.val).pc).carryOn
  | _ => goOn s

/-! ### Scalar (R312-R315) -/

/-- The value that SETI leaves in rd (R312). -/
def setiValue (hi : Bool) (imm : BitVec 32) (old : Word) : Word :=
  if hi then imm ++ old.extractLsb' 0 32 else imm.signExtend 64

/-- SETI (R312). -/
def execSeti (n : Fin 16) (s : State) : Out :=
  goOn (s.issue n.val (fun _ i p st => match i with
    | .seti rd hi imm => some (st.nextPc n.val (fun q => q.setReg rd (setiValue hi imm (p.reg rd))))
    | _ => none))

/-- ADDI (R312). -/
def execAddi (n : Fin 16) (s : State) : Out :=
  goOn (s.issue n.val (fun _ i p st => match i with
    | .addi rd ra imm => some (st.nextPc n.val (fun q => q.setReg rd (p.reg ra + imm.signExtend 64)))
    | _ => none))

/-- The ALU functions (Table 11.5), none from 16 on. -/
def aluFn (fn : Nat) (a b : Word) : Option Word :=
  let sh := b.toNat % 64
  match fn with
  | 0 => some (a + b)
  | 1 => some (a - b)
  | 2 => some (a &&& b)
  | 3 => some (a ||| b)
  | 4 => some (a ^^^ b)
  | 5 => some (a <<< sh)
  | 6 => some (a >>> sh)
  | 7 => some (a.sshiftRight sh)
  | 8 => some (a * b)
  | 9 => some (if a.toInt ≤ b.toInt then a else b)
  | 10 => some (if a.toInt ≤ b.toInt then b else a)
  | 11 => some (if a.toNat ≤ b.toNat then a else b)
  | 12 => some (if a.toNat ≤ b.toNat then b else a)
  | 13 => some (if a.toInt < b.toInt then 1 else 0)
  | 14 => some (if a.toNat < b.toNat then 1 else 0)
  | 15 => some (if a = b then 1 else 0)
  | _ => none

/-- ALU (R313). -/
def execAlu (n : Fin 16) (s : State) : Out :=
  goOn (s.issue n.val (fun _ i p st => match i with
    | .alu rd ra rb fn => some (match aluFn fn.toNat (p.reg ra) (p.reg rb) with
      | some v => st.nextPc n.val (fun q => q.setReg rd v)
      | none => st.illegal n.val p.pc)
    | _ => none))

/-- The value of an LDC (R314), none for an illegal mode. -/
def ldcValue (consts : Store (BitVec 32)) (mode k : Nat) : Option Word :=
  let c (j : Nat) : BitVec 32 := Store.get 0#32 j consts
  match mode with
  | 0 => some ((c k).zeroExtend 64)
  | 1 => some ((c k).signExtend 64)
  | 2 => if k = 63 then none else some (c (k + 1) ++ c k)
  | _ => none

/-- LDC (R314). -/
def execLdc (n : Fin 16) (s : State) : Out :=
  goOn (s.issue n.val (fun l i p st => match i with
    | .ldc rd mode k => some (match ldcValue l.consts mode.toNat k.toNat with
      | some v => st.nextPc n.val (fun q => q.setReg rd v)
      | none => st.illegal n.val p.pc)
    | _ => none))

/-- The value of an RDTIME (R315), none for another source. -/
def State.timeValue (s : State) (n src : Nat) : Option Word :=
  match src with
  | 0 => some (BitVec.ofNat 64 (s.time.sec % 2 ^ 32 * 2 ^ 32 + s.time.sub % 2 ^ 28))
  | 1 => some (BitVec.ofNat 64 (s.span n).cycles)
  | _ => none

/-- RDTIME (R315). -/
def execRdtime (n : Fin 16) (s : State) : Out :=
  goOn (s.issue n.val (fun _ i p st => match i with
    | .rdtime rd src => some (match st.timeValue n.val src.toNat with
      | some v => st.nextPc n.val (fun q => q.setReg rd v)
      | none => st.illegal n.val p.pc)
    | _ => none))

/-! ### Events, barriers, fences (R316-R319) -/

/-- EVREC of a span program (R316): it enters flight and waits there (R307). -/
def execSpanEvrec (n : Fin 16) (s : State) : Out :=
  goOn (s.issue n.val (fun _ i p st => match i with
    | .evrec rb _ _ _ => some (st.fly n.val i 0 (p.reg rb) 0 0)
    | _ => none))

/-- EVWAIT of a span program (R317): tested when it starts. -/
def execSpanEvwait (n : Fin 16) (s : State) : Out :=
  goOn (s.issue n.val (fun _ i p st => match i with
    | .evwait _ rb _ ev =>
      some ((st.block_ n.val i (p.reg rb)).modPier n.val (fun q => q.testEvwait st.now ev.toNat (st.event ev.toNat)))
    | _ => none))

/-- SPAN_EVWAIT_TIMEOUT (R317): the window of the wait ends; rd = 2. -/
def execSpanEvwaitTimeout (n : Fin 16) (s : State) : Out :=
  match (s.pier n.val).blocked with
  | some (i, start) =>
    match i.instr with
    | .evwait rd _ timeout _ =>
      if s.running && timeout ≠ 0 && (s.pier n.val).live then
        goOn ((s.passTo (start + timeout.toNat * tickUs)).modPier n.val (fun p => (p.setReg rd 2).unblock)).carryOn
      else goOn s
    | _ => goOn s
  | none => goOn s

/-- The spans that the command of a launch launched (R318): none that was fenced when the launch was to be sent (R278). -/
def State.launchedSpans (s : State) (n : Nat) (l : Launch) : Nat :=
  match s.launchExec l with
  | some e => e.launched
  | none => 2 ^ n

/-- Register the BARRIER of span `n` at the front end (R318), and block. -/
def State.enterBarrier (s : State) (n : Nat) (l : Launch) (i : SpanInstr) (id mask : Nat) : State :=
  let mine (b : Barrier) : Bool := b.ctx = l.ctx && b.batch = l.batch && b.cmd = l.cmd && b.id = id
  let open_ := s.fe.barriers.any mine
  let bs := if open_ then s.fe.barriers.map (fun (b : Barrier) => if mine b then { b with issued := setBit b.issued n } else b)
    else s.fe.barriers ++ [⟨l.ctx, l.batch, l.cmd, id, mask, 2 ^ n⟩]
  { s with fe := { s.fe with barriers := bs } }.block_ n i 0

/-- BARRIER (R318): its message waits while tables that are to be installed hold it (R374). -/
def execBarrier (n : Fin 16) (s : State) : Out :=
  goOn (s.issue n.val (fun l i p st => match i with
    | .barrier _ id m =>
      let all := st.launchedSpans n.val l
      let mask := if m = 0 then all else m.toNat
      let other := st.fe.barriers.any (fun b =>
        b.ctx = l.ctx && b.batch = l.batch && b.cmd = l.cmd && b.id = id.toNat && decide (b.mask ≠ mask))
      some (
        if (maskSpans mask).any (fun k => !natBit all k) then st.illegal n.val p.pc
        else if st.feHeld n.val then st.holdIssue n.val
        else if other then st.pierFault n.val 0x16 p.pc
        else st.enterBarrier n.val l i id.toNat mask)
    | _ => none))

/-- FENCE (R319). -/
def execFence (n : Fin 16) (s : State) : Out :=
  goOn (s.issue n.val (fun _ i _ st => match i with
    | .fence _ => some (st.block_ n.val i 0)
    | _ => none))

/-! ### DMA (R320-R322) -/

/-- DMA (R320): its tag becomes busy; one whose tag is busy waits at issue. -/
def execDma (n : Fin 16) (s : State) : Out :=
  goOn (s.issue n.val (fun _ i p st => match i with
    | .dma ra rb rc t =>
      let dst := (p.reg ra).toNat % 2 ^ 48
      let src := (p.reg rb).toNat % 2 ^ 48
      let len := (p.reg rc).toNat % 2 ^ 32
      some (
        if (p.tag t.toNat).busy then st.holdIssue n.val
        else if len = 0 || len > 2 ^ 31 || overlaps src dst len then st.illegal n.val p.pc
        else (st.modPier n.val (fun q => q.setTag t.toNat ⟨true, (p.tag t.toNat).err, src, dst, len, false, none⟩)).fly n.val i
          (p.reg ra) (p.reg rb) (p.reg rc) t.toNat)
    | _ => none))

/-- The place in flight of the DMA that holds a tag. -/
def Pier.dmaOf (p : Pier) (t : Nat) : Option Nat :=
  p.flight.findIdx? (fun i => match i.instr with
    | .dma .. => i.aux = t
    | _ => false)

/-- Remove instruction `k` from flight. -/
def Pier.land (p : Pier) (k : Nat) : Pier := { p with flight := p.flight.eraseIdx k }

/-- The transfer of a DMA of span `n` (R320, R321): as far as its accesses end well, one that gets no answer among them (R398, R412);
nothing of one that a failed router has lost (R383). The data that comes back to a span that is fenced is discarded and counted
(R378; entry 130). Whether the tag is to show an error. -/
def State.dmaMove (s : State) (n : Nat) (x : Tag) : State × Bool :=
  if s.spanFenced n then
    (if decide (spanRegion n ≤ x.src) && decide (x.src < spanRegion n + spanSize) then s else s.countDrops (flitsOf x.len), true)
  else if x.lost then (s, true)
  else
    let r := { s with pcie := { s.pcie with readFail := x.readFail } }.dmaCopy x.src x.dst x.len
    ({ r.1 with pcie := { r.1.pcie with readFail := none } }, r.2.isSome)

/-- DMA_COMPLETE (R320, R321, R359, R412): the bytes are copied as far as R321 allows and the tag becomes idle. -/
def execDmaComplete (n : Fin 16) (tag : Fin 32) (events : List MemEvent) (s : State) : Out :=
  if !s.running || s.dmaHeld n.val ((s.pier n.val).tag tag.val) || ((s.pier n.val).dmaOf tag.val).isNone then goOn s
  else
    let s := s.memEvents events
    match (s.pier n.val).dmaOf tag.val with
    | none => goOn s.carryOn
    | some k =>
      let x := (s.pier n.val).tag tag.val
      let r := s.dmaMove n.val x
      goOn (r.1.modPier n.val (fun p =>
        (p.land k).setTag tag.val { x with busy := false, lost := false, readFail := none, err := x.err || r.2 })).carryOn

/-- DMAW (R322). -/
def execDmaw (n : Fin 16) (s : State) : Out :=
  goOn (s.issue n.val (fun _ i _ st => match i with
    | .dmaw .. => some (st.block_ n.val i 0)
    | _ => none))

/-! ### Atomics (R323-R325) -/

/-- An atomic of span `n` in flight is held (R364, R374). -/
def State.atomicHeld (s : State) (n : Nat) (i : InFlight) : Bool :=
  let a := i.a.toNat % 2 ^ 48
  s.requestHeld n a || s.marchHeld a 8

/-- Issue an atomic of `w` bytes: alignment, then the address (R323). -/
def State.issueAtomic (s : State) (n : Nat) (i : SpanInstr) (p : Pier) (ra rb : PReg) (w : Nat) (spadOnly : Bool) : State :=
  let a := (p.reg ra).toNat % 2 ^ 48
  if a % w ≠ 0 then s.illegal n p.pc
  else match s.target a, spadOnly with
    | .scratch _ _, _ | .gddr _ _, false | .cxl _ _, false => s.fly n i (p.reg ra) (p.reg rb) 0 0
    | _, _ => s.pierFault n 0x15 p.pc

/-- The width of an atomic in bytes. -/
def atomicWidth (wide : Bool) : Nat := if wide then 8 else 4

/-- ATADD (R323, R324): issue. -/
def execAtadd (n : Fin 16) (s : State) : Out :=
  goOn (s.issue n.val (fun _ i p st => match i with
    | .atadd _ ra rb _ wide => some (st.issueAtomic n.val i p ra rb (atomicWidth wide) false)
    | _ => none))

/-- ATSWP (R323, R324): issue. -/
def execAtswp (n : Fin 16) (s : State) : Out :=
  goOn (s.issue n.val (fun _ i p st => match i with
    | .atswp _ ra rb wide => some (st.issueAtomic n.val i p ra rb (atomicWidth wide) false)
    | _ => none))

/-- BSET (R323, R325): issue. -/
def execBset (n : Fin 16) (s : State) : Out :=
  goOn (s.issue n.val (fun _ i p st => match i with
    | .bset _ ra rb _ => some (st.issueAtomic n.val i p ra rb 8 true)
    | _ => none))

/-- BCLR (R323, R325): issue. -/
def execBclr (n : Fin 16) (s : State) : Out :=
  goOn (s.issue n.val (fun _ i p st => match i with
    | .bclr _ ra rb _ => some (st.issueAtomic n.val i p ra rb 8 true)
    | _ => none))

/-- The saturation indication reaches the command and the run (R200). -/
def State.markOrder (s : State) (n : Nat) : State :=
  let s := s.tenFlag n flagAtaddSat
  let s := match (s.pier n).launch with
    | some l => match s.launchExec l with
      | some _ => s.modExec l.ctx l.batch (fun e => { e with orderSens := true })
      | none => s
    | none => s
  match (s.span n).bound with
  | some q => s.modRun q (fun r => { r with orderSens := true })
  | none => s

/-- What an atomic in flight leaves at its word: width, and the new contents from the old. -/
def atomicFn (i : InFlight) : Nat × (Nat → Nat) :=
  match i.instr with
  | .atadd _ _ _ _ wide =>
    let w := atomicWidth wide
    (w, fun old => unsignedOf (8 * w) (satSum (8 * w) (signedOf (8 * w) old) (signedOf (8 * w) i.b.toNat)).1)
  | .atswp _ _ _ wide => (atomicWidth wide, fun _ => i.b.toNat % 2 ^ (8 * atomicWidth wide))
  | .bset .. => (8, fun old => old ||| i.b.toNat)
  | .bclr .. => (8, fun old => old &&& (2 ^ 64 - 1 - i.b.toNat))
  | _ => (8, id)

/-- The addition of an ATADD in flight saturates at this old value (R199). -/
def atomicSat (i : InFlight) (old : Nat) : Bool :=
  match i.instr with
  | .atadd _ _ _ _ wide =>
    (satSum (8 * atomicWidth wide) (signedOf (8 * atomicWidth wide) old) (signedOf (8 * atomicWidth wide) i.b.toNat)).2
  | _ => false

/-- The owner performs the atomic `k` of the flight and the pier takes its result (R324, R379, R383). The request of a span that has
been fenced since goes on to its owner, and the result is discarded and counted (R378; entry 130). -/
def State.completeAtomic (s : State) (n k : Nat) (i : InFlight) : State :=
  let a := i.a.toNat % 2 ^ 48
  let f := atomicFn i
  let own := decide (spanRegion n ≤ a) && decide (a < spanRegion n + spanSize)
  let done := i.aux < 2 ^ 20 && (s.firstBad false a f.1).isNone
  let r := if i.aux < 2 ^ 20 && !(s.spanFenced n && own) then s.atomicAt a f.1 f.2 else (0, s)
  let v := BitVec.ofInt 64 (signedOf (8 * f.1) r.1)
  let s := if s.spanFenced n then (if own then r.2 else r.2.countDrops 1).modPier n (fun p => p.land k)
    else r.2.modPier n (fun p => match dstReg i.instr with
      | some rd => (p.land k).setReg rd v
      | none => p.land k)
  if done && atomicSat i r.1 then s.markOrder n else s

/-- The 8-byte word of an atomic in flight. -/
def atomicWord (i : InFlight) : Option Nat :=
  match i.instr with
  | .atadd .. | .atswp .. | .bset .. | .bclr .. => some (i.a.toNat % 2 ^ 48 / 8)
  | _ => none

/-! ### Multicast (R326, R377, R379) -/

/-- A multicast slot. -/
def Pier.slot (p : Pier) (k : Nat) : McastSlot := Store.get mcastSlot0 k p.slots
/-- Replace a multicast slot. -/
def Pier.setSlot (p : Pier) (k : Nat) (x : McastSlot) : Pier := { p with slots := Store.put mcastSlot0 k x p.slots }

/-- MCAST (R326): its branches leave for the other spans of the mask. -/
def execMcast (n : Fin 16) (s : State) : Out :=
  goOn (s.issue n.val (fun _ i p st => match i with
    | .mcast rd ra rb n1 =>
      let mask := clearBit ((p.reg ra).toNat % 2 ^ 16) n.val
      let units := n1.toNat + 1
      let src := natBits (p.reg rb).toNat 16 0
      let dst := natBits (p.reg rb).toNat 48 32
      some (
        if src + units > 131072 || dst + units > 131072 then st.illegal n.val p.pc
        else if mask = 0 then st.nextPc n.val (fun q => q.setReg rd 0)
        else match (List.range 4).find? (fun k => !(p.slot k).busy) with
          | none => st.holdIssue n.val
          | some k => (st.modPier n.val (fun q => q.setSlot k ⟨true, mask, 0, 0⟩)).fly n.val i (p.reg ra) (p.reg rb) 0 k)
    | _ => none))

/-- The place in flight of the MCAST that holds a slot. -/
def Pier.mcastOf (p : Pier) (k : Nat) : Option Nat :=
  p.flight.findIdx? (fun i => match i.instr with
    | .mcast .. => i.aux = k
    | _ => false)

/-- A branch is answered (R377): when every branch is, the slot is free and rd holds the cancelled ones. -/
def State.answerBranch (s : State) (n slot target : Nat) (cancelled : Bool) : State :=
  let p := s.pier n
  match p.mcastOf slot with
  | none => s
  | some k =>
    let x := p.slot slot
    let x := { x with answered := setBit x.answered target,
                      cancelled := if cancelled then setBit x.cancelled target else x.cancelled }
    if x.answered = x.mask then
      s.modPier n (fun q => match (q.flight[k]?).map (fun i => dstReg i.instr) with
        | some (some rd) => ((q.land k).setSlot slot mcastSlot0).setReg rd (BitVec.ofNat 64 x.cancelled)
        | _ => (q.land k).setSlot slot mcastSlot0)
    else s.modPier n (fun q => q.setSlot slot x)

/-- The branch of a slot to a span is still to be answered. -/
def State.branchOpen (s : State) (n slot target : Nat) : Bool :=
  let x := (s.pier n).slot slot
  s.running && x.busy && natBit x.mask target && !natBit x.answered target && ((s.pier n).mcastOf slot).isSome

/-- Copy the units of an MCAST to one span's scratchpad; the bytes of a poisoned word are not written (R359). -/
def State.deliverMcast (s : State) (n slot target : Nat) : State :=
  match ((s.pier n).mcastOf slot).bind (fun k => (s.pier n).flight[k]?) with
  | some i =>
    match i.instr with
    | .mcast _ _ _ n1 =>
      let src := natBits i.b.toNat 16 0
      let dst := natBits i.b.toNat 48 32
      let from_ := spanRegion n + 64 * src
      let idx := (List.range (64 * (n1.toNat + 1))).filter (fun i => !s.poisonedAt (from_ + i))
      let cells := idx.map (fun i => (spanRegion target + 64 * dst + i, memGet s.mem (from_ + i)))
      { s with mem := memPutAll s.mem cells, poison := s.clearPoison (cells.map Prod.fst) }
    | _ => s
  | none => s

/-- A notice or a result that comes back to a span that is fenced is discarded and counted (R378; entry 130). -/
def State.returnTo (s : State) (n : Nat) : State := if s.spanFenced n then s.countDrops 1 else s

/-- DELIVERY_NOTICE (R377): the branch has delivered. -/
def execDeliveryNotice (n : Fin 16) (slot : Fin 4) (target : Fin 16) (s : State) : Out :=
  goOn (if s.branchOpen n.val slot.val target.val && !s.spanFenced target.val && !s.heldTo n.val (spanRouter target.val)
      && !s.marchHeld (spanRegion target.val) 1 then
    ((s.deliverMcast n.val slot.val target.val).returnTo n.val |>.answerBranch n.val slot.val target.val false).carryOn
  else s)

/-- The flits of a branch of the MCAST in a slot. -/
def State.mcastFlits (s : State) (n slot : Nat) : Nat :=
  match ((s.pier n).mcastOf slot).bind (fun k => (s.pier n).flight[k]?) with
  | some i =>
    match i.instr with
    | .mcast _ _ _ n1 => flitsOf (64 * (n1.toNat + 1))
    | _ => 0
  | none => 0

/-- CANCEL_NOTICE (R378, R379): the router of a fenced span discards the branch and answers it. -/
def execCancelNotice (n : Fin 16) (slot : Fin 4) (target : Fin 16) (s : State) : Out :=
  goOn (if s.branchOpen n.val slot.val target.val && s.spanFenced target.val && !s.heldTo n.val (spanRouter target.val) then
    ((s.countDrops (s.mcastFlits n.val slot.val)).returnTo n.val |>.answerBranch n.val slot.val target.val true).carryOn
  else s)

end Sys2Proof.Machine
end

