-- ==== Sys2Proof/Machine/Tensor.lean ====
section
/-! DEFINITION. The tensor instructions and FLDC and GIBBS (07, 12 R330-R347): their checks at issue, and their effect
when they complete. An instruction computes everything at its completion.
-/

namespace Sys2Proof.Machine

/-! ### MMA (R180-R190) -/

/-- The entry V saturated in the direction of the overflow (R189). -/
def satEntry (v : Int) : Int := if v < 0 then -(2 ^ 31 : Nat) * 65536 else ((2 ^ 31 : Nat) - 1) * 65536

/-- Add aligned sums to an entry in order (R187, R188): the entry and whether an addition overflowed, in which case it
saturates (R189). -/
def addSums (v : Int) (l : List Int) : Int × Bool :=
  l.foldl (fun acc x =>
    if fieldOverflows (acc.1 + x) then (satEntry (acc.1 + x), true) else (acc.1 + x, acc.2)) (v, false)

/-- The sum of four aligned group sums (Table 7.3). -/
def quadSum : List Int → Int
  | q0 :: q1 :: q2 :: q3 :: _ => (q0 + q1) + (q2 + q3)
  | l => l.sum

/-- The sums that are added to one entry, in order (R186, R187): one for each group, or for each step of four groups
on a 16 × 16 tile. `a` and `b` give mantissa and exponent of an element of the entry's two lines. -/
def entrySums (g kk : Nat) (quad neg : Bool) (et : Int) (a b : Nat → Int × Int) : List Int :=
  let groups := (List.range (kk / g)).map (fun gi =>
    let m := (List.range g).foldl (fun acc t => acc + (a (gi * g + t)).1 * (b (gi * g + t)).1) 0
    let v := Dy.floorAt ⟨m, (a (gi * g)).2 + (b (gi * g)).2⟩ (et - 16)
    if neg then -v else v)
  if quad then (chunks 4 groups.length groups).map quadSum else groups

/-- Run an MMA over the entries of a tile (R188-R190): `sums` gives, at the tile exponent E, the sums of each entry in
row-major order; `replays` is the number of replays that are left. The entries, E, the replays made, and whether an
entry saturated. -/
def mmaTile (sums : Int → List (List Int)) : Nat → Nat → List Int → List Int × Nat × Nat × Bool
  | 0, e, vs =>
    let r := (vs.zip (sums ((e : Int) - 127))).map (fun p => addSums p.1 p.2)
    (r.map Prod.fst, e, 0, r.any Prod.snd)
  | left + 1, e, vs =>
    let r := (vs.zip (sums ((e : Int) - 127))).map (fun p => addSums p.1 p.2)
    if !r.any Prod.snd then (r.map Prod.fst, e, 0, false)
    else if e ≥ 255 then (r.map Prod.fst, e, 0, true)
    else
      let q := mmaTile sums left (e + 1) (vs.map halveVal)
      (q.1, q.2.1, q.2.2.1 + 1, q.2.2.2)

/-- One MMA: the tile, its cells, group size, K, block-scaled or not, negate, and the elements of line i of A and line
j of B over the whole product. -/
structure MmaJob where
  t : Nat
  m : Nat
  n : Nat
  cells : CellSet
  g : Nat
  k : Nat
  scaled : Bool
  neg : Bool

/-- The result of an MMA in one cell: the entries by place, the exponent, the replays, saturation. -/
def mmaCell (x : Span) (j : MmaJob) (rc : Nat × Nat × Nat) (e : Nat) (a b : Nat → Nat → Int × Int) :
    List (Nat × Int) × Nat × Nat × Bool :=
  let ijs := tileCells j.m j.n
  let vs := ijs.map (fun p => x.entry rc.2.2 j.t j.m j.n p.1 p.2)
  let sums (et : Int) : List (List Int) := ijs.map (fun p =>
    entrySums j.g j.k (j.m = 16) j.neg et (a (rc.1 * j.m + p.1)) (b (rc.2.1 * j.n + p.2)))
  let r := mmaTile sums (if j.scaled then 4 else 0) e vs
  ((ijs.zip r.1).map (fun (p : (Nat × Nat) × Int) => (entryKey rc.2.2 j.t j.m j.n p.1.1 p.1.2, p.2)), r.2.1, r.2.2.1, r.2.2.2)

/-- Some cell's tile has mixed exponents (R185). -/
def Span.mixed (x : Span) (t m n : Nat) (c : CellSet) : Bool :=
  c.cells.any (fun rc => (x.tileExp rc.2.2 t m n).isNone)

/-- Perform an MMA on span `n` (R180-R190). -/
def State.doMma (s : State) (n : Nat) (j : MmaJob) (a b : Nat → Nat → Int × Int) : State :=
  if (s.span n).mixed j.t j.m j.n j.cells then s.tenFlag n flagExpMixed
  else
    j.cells.cells.foldl (fun st rc =>
      let x := st.span n
      let r := mmaCell x j rc ((x.tileExp rc.2.2 j.t j.m j.n).getD 127) a b
      let st := st.setSpan n
        { (x.setTileExp rc.2.2 j.t j.m j.n r.2.1) with
          acc := Store.putAll 0 r.1 x.acc, replays := if st.spanFenced n then x.replays else satAdd 0xFFFFFFFF x.replays r.2.2.1 }
      st.tenFlagIf n (if j.scaled then flagBsSat else flagIntSat) r.2.2.2) s

/-- The exponent that a field e names (Table 12.3): 0 selects 127. -/
def namedExp (e : BitVec 8) : Nat := if e = 0 then 127 else e.toNat

/-- Zero a tile and set its exponent in each cell of a set (R334). -/
def Span.zeroTile (x : Span) (t m n : Nat) (c : CellSet) (e : Nat) : Span :=
  c.cells.foldl (fun y rc =>
    ({ y with acc := Store.putAll 0 ((tileCells m n).map (fun (p : Nat × Nat) => (entryKey rc.2.2 t m n p.1 p.2, 0))) y.acc }).setTileExp
      rc.2.2 t m n e) x

/-- Elements of the lines of a tensor operand. -/
def Tens.elems (t : Tens) (rd : Nat → Byte) (l k : Nat) : Int × Int := (t.fmt.mant (t.raw rd l k), t.exp rd l k)

/-- The job of an MMA or MMAZ that is legal (R331-R333), with its operands. -/
def mmaJob (n : Nat) (t : PReg) (a b : Word) (pair : BitVec 4) (shape : BitVec 2) (neg s1b : Bool) (c : CellSet)
    (kq : BitVec 9) : Option (MmaJob × Tens × Tens) :=
  match shapeOf shape, pairOf pair.toNat s1b with
  | some (m, nn), some p =>
    let k := 16 * kq.toNat
    if c.ok && tileOk t.toNat m nn && decide (kq.toNat ≠ 0) && decide (kq.toNat ≤ 256) && k % p.granule = 0
        && (opWord a).ok p.a (c.rows * m) k && (opWord b).ok p.b (c.cols * nn) k then
      some (⟨t.toNat, m, nn, c, p.g, k, p.scaled, neg⟩, (opWord a).tens n p.a k, (opWord b).tens n p.b k)
    else none
  | _, _ => none

/-! ### RED (R192-R194, R335) -/

/-- A reduction entry as numbers: V = value × 2^16 + comp, exp, index. -/
structure RedVal where
  v : Int
  e : Nat
  index : Nat
deriving DecidableEq, Repr, Inhabited

/-- The exact value of a reduction entry (Table 7.6). -/
def RedVal.exact (r : RedVal) : Dy := ⟨r.v, (r.e : Int) - 127 - 16⟩

/-- The 16 bytes of a reduction entry (Table 7.6). -/
def RedVal.bytes (r : RedVal) : List Byte :=
  leBytes 8 (unsignedOf 64 (fieldInt r.v)) ++ leBytes 2 (unsignedOf 16 (fieldComp r.v)) ++ leBytes 1 r.e
    ++ leBytes 1 0 ++ leBytes 4 r.index

/-- A reduction entry read from 16 bytes. -/
def redOf (l : List Byte) : RedVal := ⟨65536 * intAt l 0 8 + intAt l 8 2, numAt l 10 1, numAt l 12 4⟩

/-- The better of two for max (op 1) or min (op 2), the first on a tie of value and index (R193, R194). -/
def redBetter (op : Nat) (x y : RedVal) : RedVal :=
  let d := x.exact.sub y.exact
  let yWins := if d.m = 0 then decide (y.index < x.index) else if op = 1 then decide (d.m < 0) else decide (d.m > 0)
  if yWins then y else x

/-- The winner of a list. -/
def redWinner (op : Nat) : List RedVal → RedVal
  | [] => ⟨0, 0, 0⟩
  | x :: rest => rest.foldl (redBetter op) x

/-- The integer part lies in the signed 64-bit range. -/
def fits64 (v : Int) : Bool := mantFits 64 (fieldInt v)

/-- A sum over a vector of entries (R194): aligned by floor to the largest exp, added in order, saturating. -/
def redSum (l : List RedVal) : RedVal × Bool :=
  let e : Nat := l.foldl (fun (m : Nat) x => max m x.e) 0
  let r := l.foldl (fun (acc : Int × Bool) x =>
    let v := acc.1 + Dy.floorAt x.exact ((e : Int) - 127 - 16)
    if fits64 v then (v, acc.2) else (65536 * mantClamp 64 (fieldInt v), true)) ((0 : Int), false)
  (⟨r.1, e, 0⟩, r.2)

/-- The reduced lines of a tile, each a list of places (i, j) (R335). -/
def redLines (axis m n : Nat) : List (List (Nat × Nat)) :=
  match axis with
  | 0 => (List.range m).map (fun i => (List.range n).map (fun j => (i, j)))
  | 1 => (List.range n).map (fun j => (List.range m).map (fun i => (i, j)))
  | _ => [tileCells m n]

/-- The results of RED over the tiles of a cell set, in order (R193, R335). -/
def Span.redTiles (x : Span) (t m n op axis base : Nat) (c : CellSet) : List RedVal :=
  c.cells.zipIdx.flatMap (fun cp =>
    let rc := cp.1
    let off := match axis with
      | 0 => rc.2.1 * n
      | 1 => rc.1 * m
      | _ => cp.2 * (m * n)
    let e := (x.tileExp rc.2.2 t m n).getD 127
    (redLines axis m n).map (fun line =>
      let vals := line.zipIdx.map (fun p => RedVal.mk (x.entry rc.2.2 t m n p.1.1 p.1.2) e ((base + off + p.2) % 2 ^ 32))
      if op = 0 then ⟨(vals.map (fun v => v.v)).sum, e, 0⟩ else redWinner op vals))

/-- The number of results of RED in one cell. -/
def redCount (axis m n : Nat) : Nat :=
  match axis with
  | 0 => m
  | 1 => n
  | _ => 1

/-- RED is legal (R330-R332, R335). -/
def redOk (t : PReg) (a b : Word) (shape op : BitVec 2) (c : CellSet) (axis : BitVec 2) : Bool :=
  decide ((opWord a).stride ≠ 0) && if axis = 3 then
    decide (op ≠ 3) && decide (1 ≤ natBits b.toNat 44 32) && decide (natBits b.toNat 44 32 ≤ 4096)
      && decide (64 * natBits b.toNat 16 0 + 16 * natBits b.toNat 44 32 ≤ scratchSize)
  else match shapeOf shape with
    | some (m, n) =>
      decide (op ≠ 3) && c.ok && tileOk t.toNat m n
        && decide (64 * (opWord a).base + 16 * (c.rows * c.cols * redCount axis.toNat m n) ≤ scratchSize)
    | none => false

/-- Perform RED (R192-R194, R335). -/
def State.doRed (s : State) (n : Nat) (t : PReg) (a b : Word) (shape op : BitVec 2) (c : CellSet) (axis : BitVec 2) : State :=
  let out := 64 * (opWord a).base
  if axis = 3 then
    let l := (List.range (natBits b.toNat 44 32)).map (fun k =>
      redOf (s.spadBytes n (64 * natBits b.toNat 16 0 + 16 * k) 16))
    if op = 0 then
      let r := redSum l
      (s.spadWrite n out r.1.bytes).tenFlagIf n flagIntSat r.2
    else s.spadWrite n out (redWinner op.toNat l).bytes
  else match shapeOf shape with
    | some (m, nn) =>
      if (s.span n).mixed t.toNat m nn c then s.tenFlag n flagExpMixed
      else s.spadWrite n out
        (((s.span n).redTiles t.toNat m nn op.toNat axis.toNat (b.toNat % 2 ^ 32) c).flatMap RedVal.bytes)
    | none => s

/-! ### ACCMV, CVT, EWO (R195-R198, R336, R337) -/

/-- Stage 3 of R195 with the operations of ACCMV: 0 none, 1 add, 2 multiply. -/
def stage3 (op : Nat) (x y : Dy) : Dy :=
  match op with
  | 1 => x.add y
  | 2 => x.mul y
  | _ => x

/-- The exact value of a tile entry (R184). -/
def Span.entryVal (x : Span) (cell t m n i j : Nat) : Dy :=
  ⟨x.entry cell t m n i j, ((x.region cell ((t * (m * n) + i * n + j) / 256) : Nat) : Int) - 127 - 16⟩

/-- The output line length of one cell (R336). -/
def padTo (f : Fmt) (n : Nat) : Nat := if f.block = 0 then n else f.block * ceilDiv n f.block

/-- The operands of a legal ACCMV: shape, output and Y tensors. -/
def accmvOps (n : Nat) (t : PReg) (a b : Word) (fmt : BitVec 4) (shape op : BitVec 2) (c : CellSet) (yfmt : BitVec 4)
    (ybc : Bool) : Option (Nat × Nat × Tens × Option Tens) :=
  match shapeOf shape, fmtOf fmt.toNat with
  | some (m, nn), some f =>
    let len := c.cols * padTo f nn
    if c.ok && tileOk t.toNat m nn && decide (op ≠ 3) && (opWord a).ok f (c.rows * m) len then
      if op = 0 then some (m, nn, (opWord a).tens n f len, none)
      else match fmtOf yfmt.toNat with
        | some y =>
          if y.kind = 2 && (opWord b).ok y (if ybc then 1 else c.rows * m) (c.cols * nn) then
            some (m, nn, (opWord a).tens n f len, some { (opWord b).tens n y (c.cols * nn) with bcast := ybc })
          else none
        | none => none
    else none
  | _, _ => none

/-- Perform ACCMV (R195, R196, R336). -/
def State.doAccmv (s : State) (n : Nat) (t : PReg) (a b : Word) (d : BitVec 8) (fmt : BitVec 4) (shape op : BitVec 2)
    (c : CellSet) (yfmt : BitVec 4) (ybc clr : Bool) : State :=
  match accmvOps n t a b fmt shape op c yfmt ybc with
  | none => s
  | some (m, nn, out, y) =>
    let x := s.span n
    if x.mixed t.toNat m nn c then s.tenFlag n flagExpMixed
    else
      let rows := (List.range (c.rows * m)).map (fun row =>
        (List.range c.cols).flatMap (fun cc =>
          let cell := c.first.toNat + row / m * c.cols + cc
          (List.range (padTo out.fmt nn)).map (fun j =>
            if j < nn then
              let v := (x.entryVal cell t.toNat m nn (row % m) j).shift d.toInt
              match y with
              | some yt => stage3 op.toNat v (yt.val s.spadByte row (cc * nn + j))
              | none => v
            else Dy.zero)))
      let r := out.cells rows
      let s := (s.spadCells r.1).tenFlagIf n flagCvtSat r.2
      if clr then s.modSpan n (fun z => { z with acc := Store.putAll 0 (c.cells.flatMap (fun rc =>
        (tileCells m nn).map (fun p => (entryKey rc.2.2 t.toNat m nn p.1 p.2, 0)))) z.acc }) else s

/-- The dims register: lines and elements (R337). -/
def dimsOf (w : Word) : Nat × Nat := (natBits w.toNat 15 0, natBits w.toNat 47 32)

/-- The values of CVT by output line (R198, R337). -/
def cvtRows (inp : Tens) (rd : Nat → Byte) (lines len : Nat) (d : Int) (tr : Bool) : List (List Dy) :=
  if tr then (List.range len).map (fun j => (List.range lines).map (fun i => (inp.val rd i j).shift d))
  else (List.range lines).map (fun l => (List.range len).map (fun k => (inp.val rd l k).shift d))

/-- The operands of a legal CVT: input, output, lines and elements. -/
def cvtOps (n : Nat) (a b dims : Word) (ofmt ifmt : BitVec 4) (tr : Bool) : Option (Tens × Tens × Nat × Nat) :=
  match fmtOf ifmt.toNat, fmtOf ofmt.toNat with
  | some fi, some fo =>
    let d := dimsOf dims
    let o := if tr then (d.2, d.1) else d
    if decide (d.1 ≠ 0) && decide (d.2 ≠ 0) && (!tr || (d.1 % 32 = 0 && d.2 % 32 = 0)) && (opWord a).ok fi d.1 d.2
        && (opWord b).ok fo o.1 o.2 then
      some ((opWord a).tens n fi d.2, (opWord b).tens n fo o.2, d.1, d.2)
    else none
  | _, _ => none

/-- Perform CVT. -/
def State.doCvt (s : State) (n : Nat) (a b dims : Word) (ofmt ifmt : BitVec 4) (d : BitVec 8) (tr : Bool) : State :=
  match cvtOps n a b dims ofmt ifmt tr with
  | none => s
  | some (inp, out, lines, len) =>
    let r := out.cells (cvtRows inp s.spadByte lines len d.toInt tr)
    (s.spadCells r.1).tenFlagIf n flagCvtSat r.2

/-- The operation of EWO: 0 add, 1 multiply, 2 max, 3 min. -/
def ewoOp (op : Nat) (x y : Dy) : Dy :=
  match op with
  | 0 => x.add y
  | 1 => x.mul y
  | 2 => x.max y
  | _ => if y.lt x then y else x

/-- The values of EWO by line (R198, R337). -/
def ewoRows (x y : Tens) (rd : Nat → Byte) (lines len : Nat) (d : Int) (op : Nat) : List (List Dy) :=
  (List.range lines).map (fun l => (List.range len).map (fun k => ewoOp op ((x.val rd l k).shift d) (y.val rd l k)))

/-- The operands of a legal EWO: X, Y, Z, lines and elements. -/
def ewoOps (n : Nat) (z a b dims : Word) (zfmt xfmt yfmt : BitVec 4) (ybc : Bool) :
    Option (Tens × Tens × Tens × Nat × Nat) :=
  match fmtOf xfmt.toNat, fmtOf yfmt.toNat, fmtOf zfmt.toNat with
  | some fx, some fy, some fz =>
    let d := dimsOf dims
    if decide (d.1 ≠ 0) && decide (d.2 ≠ 0) && (opWord a).ok fx d.1 d.2 && (opWord b).ok fy (if ybc then 1 else d.1) d.2
        && (opWord z).ok fz d.1 d.2 then
      some ((opWord a).tens n fx d.2, { (opWord b).tens n fy d.2 with bcast := ybc }, (opWord z).tens n fz d.2, d.1, d.2)
    else none
  | _, _, _ => none

/-- Perform EWO. -/
def State.doEwo (s : State) (n : Nat) (z a b dims : Word) (zfmt xfmt yfmt : BitVec 4) (d : BitVec 8) (ybc : Bool)
    (op : BitVec 2) : State :=
  match ewoOps n z a b dims zfmt xfmt yfmt ybc with
  | none => s
  | some (x, y, out, lines, len) =>
    let r := out.cells (ewoRows x y s.spadByte lines len d.toInt op.toNat)
    (s.spadCells r.1).tenFlagIf n flagCvtSat r.2

/-! ### FLDC (R344, R345) -/

/-- The gather word of FLDC (R344). -/
structure Gather where
  first : Nat
  word : Nat
  line : Nat
  source : Nat
deriving DecidableEq, Repr

/-- The fields of the gather word. -/
def gatherOf (w : Word) : Gather :=
  ⟨natBits w.toNat 13 0, natBits w.toNat 27 14, natBits w.toNat 41 28, natBits w.toNat 43 42⟩

/-- The job of a legal FLDC accumulate. -/
def fldcJob (n : Nat) (t : PReg) (a b : Word) (pair : BitVec 4) (shape : BitVec 2) (c : CellSet) (kq : BitVec 9) :
    Option (MmaJob × Tens × Gather) :=
  match shapeOf shape, pairOf pair.toNat true with
  | some (m, nn), some p =>
    let k := 16 * kq.toNat
    let g := gatherOf b
    if c.ok && tileOk t.toNat m nn && decide (1 ≤ pair.toNat) && decide (pair.toNat ≤ 3) && decide (kq.toNat ≠ 0)
        && decide (kq.toNat ≤ 256) && k % 64 = 0 && (opWord a).ok p.a (c.rows * m) k && decide (g.source ≠ 3)
        && decide (g.first + (c.cols * nn - 1) * g.line + (k / 64 - 1) * g.word < 16384) then
      some (⟨t.toNat, m, nn, c, p.g, k, true, false⟩, (opWord a).tens n p.a k, g)
    else none
  | _, _ => none

/-- The source words of a gather. -/
def Span.gatherWords (x : Span) (source : Nat) : Store Word :=
  match source with
  | 0 => x.eng.data.deck
  | 1 => x.shadow
  | _ => x.snap

/-- Perform FLDC accumulate (R344). -/
def State.doFldcAcc (s : State) (n : Nat) (t : PReg) (a b : Word) (pair : BitVec 4) (shape : BitVec 2) (c : CellSet)
    (qubo : Bool) (kq : BitVec 9) : State :=
  match fldcJob n t a b pair shape c kq with
  | none => s
  | some (j, ta, g) =>
    let words := (s.span n).gatherWords g.source
    let bit (l k : Nat) : Int × Int :=
      let w : Word := Store.get 0#64 (g.first + l * g.line + k / 64 * g.word) words
      (if w.getLsbD (k % 64) then 1 else if qubo then 0 else -1, 0)
    s.doMma n j (ta.elems s.spadByte) bit

/-- The slots of FLDC commit (R345): cell, entry and slot of each, and whether all are legal. -/
def fldcSlots (t : PReg) (w : Word) (shape : BitVec 2) (c : CellSet) : Option (List (Nat × Nat × Nat × Nat) × Nat × Nat) :=
  match shapeOf shape with
  | some (m, nn) =>
    let first := natBits w.toNat 19 0
    let cstep := natBits w.toNat 35 20
    let gstep := natBits w.toNat 51 36
    let l := c.cells.flatMap (fun rc => (tileCells m nn).map (fun p =>
      let row := rc.1 * m + p.1
      (rc.2.2, p.1, p.2, first + 64 * (gstep * (row / 64) + cstep * (rc.2.1 * nn + p.2)) + row % 64)))
    if c.ok && tileOk t.toNat m nn && first % 64 = 0 && l.all (fun x => decide (x.2.2.2 ≤ 1048575)) then some (l, m, nn)
    else none
  | none => none

/-- Add to or replace a field (R168: an overflow leaves it unwritten); an addition counts as a truncating contribution
of the slot's block, one of zero too (R159, R160). -/
def SpanData.commitField (x : SpanData) (set_ : Bool) (slot : Nat) (v : Int) : SpanData :=
  let w := if set_ then v else Store.get 0 slot x.fields + v
  let x := if set_ then x
    else { x with counts := Store.put 0 (slot / 64) (satInc (Store.get 0 (slot / 64) x.counts)) x.counts }
  if fieldOverflows w then x else { x with fields := Store.put 0 slot w x.fields }

/-- Perform FLDC commit (R345): RUN_BUSY while a run is bound. V is the entry's value in its tile's scale, so regions of
different exponents change nothing here. -/
def State.doFldcCommit (s : State) (n pc : Nat) (t : PReg) (w : Word) (shape : BitVec 2) (c : CellSet) (set_ : Bool) : State :=
  if (s.span n).bound.isSome then s.pierFault n 0x23 pc
  else match fldcSlots t w shape c with
    | none => s
    | some (l, m, nn) =>
      let x := s.span n
      let ds := signedOf 8 (natBits w.toNat 59 52)
      s.modEng n (fun e => { e with data := l.foldl (fun d q =>
        d.commitField set_ q.2.2.2 (Dy.floorAt ⟨x.entry q.1 t.toNat m nn q.2.1 q.2.2.1, ds⟩ 0)) e.data })

/-! ### GIBBS (R346, R347) -/

/-- The parameter block of GIBBS (Table 12.9). -/
structure GibbsPar where
  lo : BitVec 32
  hi : BitVec 32
  sweep : Nat
  unit : Nat
  chain : Nat
  beta : Beta
  d : Int
  eg : Int
  given : Bool
  ising : Bool
  out : Nat
deriving DecidableEq, Repr

/-- Read a parameter block. -/
def gibbsPar (l : List Byte) : GibbsPar :=
  { lo := BitVec.ofNat 32 (numAt l 0 4), hi := BitVec.ofNat 32 (numAt l 4 4), sweep := numAt l 8 4,
    unit := numAt l 0xC 3, chain := numAt l 0x10 2, beta := ⟨numAt l 0x12 2, intAt l 0x14 1⟩, d := intAt l 0x15 1,
    eg := intAt l 0x16 2, given := natBit (numAt l 0x18 1) 0, ising := natBit (numAt l 0x18 1) 1, out := numAt l 0x1C 4 }

/-- The parameters are in range (R347). -/
def GibbsPar.ok (p : GibbsPar) : Bool :=
  (!p.given || p.beta.m = 0 || (decide (32768 ≤ p.beta.m) && decide (p.beta.m ≤ 65535)))
    && decide (-160 ≤ p.eg) && decide (p.eg ≤ 160)

/-- The decision of one entry (R347): x'' in, the new bit out. The noise words keep the sums of a base and a row or a
column whole. -/
def GibbsPar.bit (p : GibbsPar) (x : Dy) (row col : Nat) : Bool :=
  let d := satD (x.roundEvenAt p.eg)
  let d := satD (if p.ising then 2 * d else d)
  let b := if p.given then p.beta else ⟨32768, 0⟩
  decide (qHeat b p.eg d ≤ noiseG (noiseOf p.lo p.hi ((p.unit + row) ||| 4 * 2 ^ 24) p.sweep (p.chain + col)))

/-- The operands of a legal GIBBS: shape, output word, bias tensor. -/
def gibbsOps (n : Nat) (t : PReg) (a b : Word) (shape : BitVec 2) (bias : Bool) (c : CellSet) (bfmt : BitVec 4) :
    Option (Nat × Nat × OpWord × Option Tens) :=
  match shapeOf shape with
  | some (m, nn) =>
    if c.ok && tileOk t.toNat m nn && decide ((opWord a).stride ≠ 0)
        && decide ((opWord a).base + (c.cols * nn - 1) * (opWord a).stride < spadUnits) then
      if bias then match fmtOf bfmt.toNat with
        | some f => if (opWord b).ok f 1 (c.rows * m) then
            some (m, nn, opWord a, some ((opWord b).tens n f (c.rows * m))) else none
        | none => none
      else some (m, nn, opWord a, none)
    else none
  | none => none

/-- Every output line of GIBBS ends inside the scratchpad: `rows` elements from the output element base of `par`. -/
def gibbsLines (par : List Byte) (o : OpWord) (rows cols : Nat) : Bool :=
  decide (512 * (o.base + (cols - 1) * o.stride) + (gibbsPar par).out + rows ≤ 8 * scratchSize)

/-- The parameter block that register value `rc` names (R346). -/
def State.gibbsBlock (s : State) (n : Nat) (rc : Word) : List Byte := s.spadBytes n (64 * natBits rc.toNat 16 0) 32

/-- GIBBS is legal at issue (R304, R330): its operands, and its output lines by the parameter block as it then stands. -/
def State.gibbsOk (s : State) (n : Nat) (t : PReg) (a b rc : Word) (shape : BitVec 2) (bias : Bool) (c : CellSet)
    (bfmt : BitVec 4) : Bool :=
  match gibbsOps n t a b shape bias c bfmt with
  | some (m, nn, o, _) => gibbsLines (s.gibbsBlock n rc) o (c.rows * m) (c.cols * nn)
  | none => false

/-- Set or clear a bit of the scratchpad. -/
def State.putSpadBit (s : State) (n off bit : Nat) (v : Bool) : State :=
  let a := off + bit / 8
  let old := (s.spadBytes n a 1).headD 0
  s.spadWrite n a [if v then old ||| (1#8 <<< (bit % 8)) else old &&& ~~~(1#8 <<< (bit % 8))]

/-- Perform GIBBS (R346, R347), each entry in its region's exponent (R185 names no GIBBS): a parameter out of range faults with PARAM_RANGE; an output line that a block changed
since issue puts past the scratchpad is an illegal operand (R330). -/
def State.doGibbs (s : State) (n pc : Nat) (t : PReg) (a b rc : Word) (shape : BitVec 2) (clr bias : Bool) (c : CellSet)
    (bfmt : BitVec 4) : State :=
  match gibbsOps n t a b shape bias c bfmt with
  | none => s
  | some (m, nn, o, bt) =>
    let p := gibbsPar (s.gibbsBlock n rc)
    let x := s.span n
    if !p.ok then s.pierFault n 0x24 pc
    else if !gibbsLines (s.gibbsBlock n rc) o (c.rows * m) (c.cols * nn) then s.pierFault n 0x11 pc
    else
      let bits := c.cells.flatMap (fun q => (tileCells m nn).map (fun ij =>
        let row := q.1 * m + ij.1
        let col := q.2.1 * nn + ij.2
        let v := (x.entryVal q.2.2 t.toNat m nn ij.1 ij.2).shift p.d
        let v := match bt with
          | some y => v.add (y.val s.spadByte 0 row)
          | none => v
        (64 * (o.base + col * o.stride), p.out + row, p.bit v row col)))
      let s := bits.foldl (fun st w => st.putSpadBit n w.1 w.2.1 w.2.2) s
      if clr then s.modSpan n (fun z => { z with acc := Store.putAll 0 (c.cells.flatMap (fun q =>
        (tileCells m nn).map (fun ij => (entryKey q.2.2 t.toNat m nn ij.1 ij.2, 0)))) z.acc }) else s

/-! ### Issue -/

/-- Issue a tensor or anneal instruction that is legal; else the operand is illegal. -/
def State.flyIf (s : State) (n : Nat) (ok : Bool) (i : SpanInstr) (p : Pier) (a b c : PReg) : State :=
  if ok then s.fly n i (p.reg a) (p.reg b) (p.reg c) p.pc else s.illegal n p.pc

/-- MMA (R333): issue. -/
def execMma (n : Fin 16) (s : State) : Out :=
  goOn (s.issue n.val (fun _ i p st => match i with
    | .mma t ra rb pair sh neg s1b c kq =>
      some (st.flyIf n.val (mmaJob n.val t (p.reg ra) (p.reg rb) pair sh neg s1b c kq).isSome i p ra rb 0)
    | _ => none))

/-- MMAZ (R333): issue. -/
def execMmaz (n : Fin 16) (s : State) : Out :=
  goOn (s.issue n.val (fun _ i p st => match i with
    | .mmaz t ra rb _ pair sh neg s1b c kq =>
      some (st.flyIf n.val (mmaJob n.val t (p.reg ra) (p.reg rb) pair sh neg s1b c kq).isSome i p ra rb 0)
    | _ => none))

/-- ACCZ (R334): issue. -/
def execAccz (n : Fin 16) (s : State) : Out :=
  goOn (s.issue n.val (fun _ i p st => match i with
    | .accz t _ sh c =>
      let ok := match shapeOf sh with
        | some (m, nn) => c.ok && tileOk t.toNat m nn
        | none => false
      some (st.flyIf n.val ok i p 0 0 0)
    | _ => none))

/-- RED (R335): issue. -/
def execRed (n : Fin 16) (s : State) : Out :=
  goOn (s.issue n.val (fun _ i p st => match i with
    | .red t ra rb sh op c axis => some (st.flyIf n.val (redOk t (p.reg ra) (p.reg rb) sh op c axis) i p ra rb 0)
    | _ => none))

/-- ACCMV (R336): issue. -/
def execAccmv (n : Fin 16) (s : State) : Out :=
  goOn (s.issue n.val (fun _ i p st => match i with
    | .accmv t ra rb _ fmt sh op c yfmt ybc _ =>
      some (st.flyIf n.val (accmvOps n.val t (p.reg ra) (p.reg rb) fmt sh op c yfmt ybc).isSome i p ra rb 0)
    | _ => none))

/-- CVT (R337): issue. -/
def execCvt (n : Fin 16) (s : State) : Out :=
  goOn (s.issue n.val (fun _ i p st => match i with
    | .cvt ra rb rc ofmt ifmt _ tr =>
      some (st.flyIf n.val (cvtOps n.val (p.reg ra) (p.reg rb) (p.reg rc) ofmt ifmt tr).isSome i p ra rb rc)
    | _ => none))

/-- EWO (R337): issue. The Z word, which it reads, is kept with the instruction. -/
def execEwo (n : Fin 16) (s : State) : Out :=
  goOn (s.issue n.val (fun _ i p st => match i with
    | .ewo rz ra rb rc zfmt xfmt yfmt _ ybc _ =>
      let ok := (ewoOps n.val (p.reg rz) (p.reg ra) (p.reg rb) (p.reg rc) zfmt xfmt yfmt ybc).isSome
      some (if ok then st.fly n.val i (p.reg ra) (p.reg rb) (p.reg rc) (p.reg rz).toNat else st.illegal n.val p.pc)
    | _ => none))

/-- FLDC accumulate (R344): issue. -/
def execFldcAccumulate (n : Fin 16) (s : State) : Out :=
  goOn (s.issue n.val (fun _ i p st => match i with
    | .fldc t ra rb rc pair sh op c _ kq =>
      if op = 0 then
        some (st.flyIf n.val (fldcJob n.val t (p.reg ra) (p.reg rb) pair sh c kq).isSome i p ra rb rc)
      else if op = 3 then some (st.illegal n.val p.pc) else none
    | _ => none))

/-- FLDC commit add (R345): issue. -/
def execFldcCommitAdd (n : Fin 16) (s : State) : Out :=
  goOn (s.issue n.val (fun _ i p st => match i with
    | .fldc t ra rb rc _ sh op c _ _ =>
      if op = 1 then some (st.flyIf n.val (fldcSlots t (p.reg rc) sh c).isSome i p ra rb rc) else none
    | _ => none))

/-- FLDC commit set (R345): issue. -/
def execFldcCommitSet (n : Fin 16) (s : State) : Out :=
  goOn (s.issue n.val (fun _ i p st => match i with
    | .fldc t ra rb rc _ sh op c _ _ =>
      if op = 2 then some (st.flyIf n.val (fldcSlots t (p.reg rc) sh c).isSome i p ra rb rc) else none
    | _ => none))

/-- GIBBS (R346): issue. -/
def execGibbs (n : Fin 16) (s : State) : Out :=
  goOn (s.issue n.val (fun _ i p st => match i with
    | .gibbs t ra rb rc sh _ bias c bfmt =>
      some (st.flyIf n.val (s.gibbsOk n.val t (p.reg ra) (p.reg rb) (p.reg rc) sh bias c bfmt) i p ra rb rc)
    | _ => none))

/-! ### Completion (R306, R308, R338) -/

/-- The effect of a tensor instruction, FLDC or GIBBS that completes. -/
def State.doTensor (s : State) (n : Nat) (f : InFlight) : State :=
  match f.instr with
  | .mma t _ _ pair sh neg s1b c kq =>
    match mmaJob n t f.a f.b pair sh neg s1b c kq with
    | some (j, a, b) => s.doMma n j (a.elems s.spadByte) (b.elems s.spadByte)
    | none => s
  | .mmaz t _ _ e pair sh neg s1b c kq =>
    match mmaJob n t f.a f.b pair sh neg s1b c kq with
    | some (j, a, b) =>
      (s.modSpan n (fun x => x.zeroTile j.t j.m j.n c (namedExp e))).doMma n j (a.elems s.spadByte) (b.elems s.spadByte)
    | none => s
  | .accz t e sh c =>
    match shapeOf sh with
    | some (m, nn) => s.modSpan n (fun x => x.zeroTile t.toNat m nn c (namedExp e))
    | none => s
  | .red t _ _ sh op c axis => s.doRed n t f.a f.b sh op c axis
  | .accmv t _ _ d fmt sh op c yfmt ybc clr => s.doAccmv n t f.a f.b d fmt sh op c yfmt ybc clr
  | .cvt _ _ _ ofmt ifmt d tr => s.doCvt n f.a f.b f.c ofmt ifmt d tr
  | .ewo _ _ _ _ zfmt xfmt yfmt d ybc op => s.doEwo n (BitVec.ofNat 64 f.aux) f.a f.b f.c zfmt xfmt yfmt d ybc op
  | .fldc t _ _ _ pair sh op c qubo kq =>
    if op = 0 then s.doFldcAcc n t f.a f.b pair sh c qubo kq
    else s.doFldcCommit n f.aux t f.c sh c (op = 2)
  | .gibbs t _ _ _ sh clr bias c bfmt => s.doGibbs n f.aux t f.a f.b f.c sh clr bias c bfmt
  | _ => s

/-- The instruction completes by INSTRUCTION_COMPLETION as a tensor instruction, FLDC or GIBBS. -/
def isTensorLike : SpanInstr → Bool
  | .mma .. | .mmaz .. | .accz .. | .red .. | .accmv .. | .cvt .. | .ewo .. | .fldc .. | .gibbs .. => true
  | _ => false

/-- Instruction `k` of the flight may complete now, `run` being the run tile: tiles (R191), anneal instructions one at a time in order (R338),
atomics of one word in order (R308), EVREC after every earlier one (R307). -/
def mayComplete (run : Nat) (flight : List InFlight) (k : Nat) (i : InFlight) : Bool :=
  let before := flight.take k
  if isTensorLike i.instr then
    !tileWaits run flight k && (decide (instrClass i.instr ≠ 3) || !before.any (fun f => instrClass f.instr = 3))
  else if (atomicWord i).isSome then !before.any (fun f => atomicWord f = atomicWord i)
  else isEvrec i.instr && before.isEmpty

/-- The span has been heard of again (R418; entry 129). -/
def State.heard (s : State) (n : Nat) : State :=
  if (s.span n).silent && !s.spanFenced n then s.modSpan n (fun x => { x with silent := false }) else s

/-- INSTRUCTION_COMPLETION (R306): instruction `k` in flight takes effect and completes. -/
def execInstructionCompletion (n : Fin 16) (k : Fin 192) (s : State) : Out :=
  let p := s.pier n.val
  match p.flight[k.val]? with
  | some i =>
    if !s.running || !mayComplete (s.span n.val).runTile p.flight k.val i then goOn s
    else if isTensorLike i.instr then
      goOn (((s.heard n.val).modPier n.val (fun q => q.land k.val)).doTensor n.val i).carryOn
    else if isEvrec i.instr then
      if !p.live || s.feHeld n.val then goOn s
      else match i.instr with
        | .evrec _ err op ev =>
          goOn (((s.heard n.val).modPier n.val (fun q => q.land k.val)).eventOp ev.toNat op i.b err false).carryOn
        | _ => goOn s
    else if s.atomicHeld n.val i then goOn s
    else goOn ((s.heard n.val).completeAtomic n.val k.val i).carryOn
  | none => goOn s

end Sys2Proof.Machine
end

