-- ==== Sys2Proof/Machine/Links.lean ====
section
/-! DEFINITION. The Pechanen links (09 R246-R255, 22 R526-R528): receiving and forwarding flits, the messages of Table 9.9,
replay, training, lane failures, and the writes of `LNK_CTL`.
-/

namespace Sys2Proof.Machine

/-! ### The receive side (R249, R250, R254) -/

/-- The acknowledgement of a header covers the flits up to the one it names. -/
def Link.acked (x : Link) (ack : BitVec 8) (now : Nat) : Link :=
  match x.unacked.findIdx? (fun f => f.hdr.seq = ack) with
  | some i => { x with unacked := x.unacked.drop (i + 1), ackTick := now }
  | none => x

/-- Take ack, nak and returned credits from the header of a flit that arrived in order and intact, or of an IDLE flit. -/
def Link.takeHdr (x : Link) (h : FlitHdr) (now : Nat) : Link :=
  let y := x.acked h.ack now
  { y with nakRx := h.nak && !y.unacked.isEmpty,
           credits := Store.put 0 h.crVc.toNat (y.credit h.crVc.toNat + h.crCount.toNat) y.credits }

/-- The FEC symbols that were corrected in the codewords that carried a flit are counted (Table 22.7). -/
def Link.corrected (x : Link) (h : FlitHdr) : Link := { x with fecCorr := satAdd 0xFFFFFFFF x.fecCorr h.fec }

/-- The receive direction changes to the other key slot at the count that KEY_SWITCH named (R254). -/
def Link.switchRx (x : Link) : Link :=
  match x.rxSwitch with
  | some (slot, at_) => if x.rxCount ≥ at_ then { x with rxSlot := slot, rxCount := 0, rxSwitch := none } else x
  | none => x

/-- Accept the flit numbered ack + 1 (R250): it leaves its buffer at once, so a credit is owed for it (R249). -/
def Link.accept (x : Link) (h : FlitHdr) (now : Nat) : Link :=
  let y := (x.takeHdr h now).switchRx
  let v := h.vc.toNat
  { y with rxNext := y.rxNext + 1, nak := false, tagFails := 0, owed := Store.put 0 v (Store.get 0 v y.owed + 1) y.owed,
           rxCount := if y.rxEnc then y.rxCount + 1 else y.rxCount }

/-- The flit is for this module (R253). -/
def State.mine (s : State) (h : FlitHdr) : Bool := h.dst = s.linkSys.moduleId || h.dst = 0xFFF

/-- The VC of a flit after it has crossed link `l` (R242, R253). -/
def Link.vcAfter (x : Link) (vc : BitVec 2) : BitVec 2 := if x.dateline then 3 else vc

/-- A flit for another module that arrived on link `l` (R253, R255): its ttl goes down, and it is dropped or leaves on the
exit that the route table names. -/
def State.forwardFlit (s : State) (l : Nat) (h : FlitHdr) (kind aux : Nat) (payload : List Byte) : State :=
  if h.ttl.toNat ≤ 1 then s.dropFlit l
  else s.routeFlit { hdr := { h with ttl := h.ttl - 1, vc := (s.link l).vcAfter h.vc, nak := false, crVc := 0, crCount := 0,
                                     fec := 0 },
                     kind := kind, aux := aux, payload := payload, resent := 0, since := 0, passed := 0, body := [], own := false }

/-- The router of link stop `l`. -/
def linkRouter (l : Nat) : Nat := routerOf (.lnk l)

/-- A flit that arrived on link `l` for another module waits at the link stop for the tables (R253, R374). -/
def State.transitHeld (s : State) (l : Nat) (h : FlitHdr) : Bool :=
  !s.mine h && s.wayHeld (linkRouter l) (linkRouter (s.exitFor h.dst.toNat))

/-- A request that arrived on link `l` for `n` bytes of this module waits at the link stop: for the tables (R374), or for the end
of a preserving march test (R364). -/
def State.accessHeld (s : State) (l : Nat) (h : FlitHdr) (a n : Nat) : Bool :=
  s.mine h && (s.rangeHeld (linkRouter l) a n || s.marchHeld a n)

/-- A sequenced flit arrives on link `l`: only in ACTIVE (R251), and only the flit numbered ack + 1 is accepted (R250). It is
delivered or forwarded, and the link sends what it now can. A flit that the mesh does not take yet has not arrived. -/
def State.receive (s : State) (l : Nat) (h : FlitHdr) (kind aux : Nat) (payload : List Byte) (deliver : State → State) :
    State :=
  let x := s.link l
  if !s.running || decide (x.state ≠ lnkActive) || s.transitHeld l h then s
  else if h.seq ≠ x.rxNext then s.modLink l (fun y => { y.corrected h with nak := true })
  else
    let now := s.now
    let s := s.modLink l (fun y => (y.corrected h).accept h now)
    let s := if s.mine h then deliver s else s.forwardFlit l h kind aux payload
    (s.pumpLink l).carryOn

/-! ### Payloads (Table 9.10) -/

/-- The payload of a COMPLETION. -/
def completionBytes (tag status offset : Nat) (data : List Byte) : List Byte :=
  leBytes 2 tag ++ leBytes 1 status ++ leBytes 1 0 ++ leBytes 2 data.length ++ leBytes 2 0 ++ leBytes 8 offset ++ data

/-- Answer a request. -/
def State.sendCompletion (s : State) (h : FlitHdr) (tag status offset : Nat) (data : List Byte) : State :=
  s.sendTo h.src.toNat 6 0 h.run.toNat (completionBytes tag status offset data)

/-- The payload of a FLIP_BATCH. -/
def batchBytes (b : FlipBatch) : List Byte :=
  leBytes 8 b.epoch.toNat ++ leBytes 2 b.ef.toNat ++ leBytes 2 b.batch.toNat ++ leBytes 4 b.seen.toNat
    ++ b.records.flatMap (fun f => leBytes 8 (f.index.toNat + f.replica.toNat * 2 ^ 24 + boolNat f.value * 2 ^ 32
      + boolNat f.initial * 2 ^ 33 + boolNat f.undo * 2 ^ 34))

/-- The payload of a FIELD_INC. -/
def incBytes (ef : BitVec 16) (l : List FieldIncEntry) : List Byte :=
  leBytes 2 ef.toNat ++ leBytes 14 0
    ++ l.flatMap (fun e => leBytes 4 (e.slot.toNat + e.span.toNat * 2 ^ 20) ++ leBytes 8 e.inc.toNat)

/-- The 16 bytes of a reduction entry that a message carries. -/
def redEntryBytes (e : RedEntry) : List Byte :=
  leBytes 8 e.value.toNat ++ leBytes 2 e.comp.toNat ++ leBytes 1 e.exp.toNat ++ leBytes 1 0 ++ leBytes 4 e.index.toNat

/-- Completion status of an access to memory: 0 OK, 1 ADDR_ERR. -/
def State.accessStatus (s : State) (write : Bool) (a n : Nat) : Nat := if (s.firstBad write a n).isSome then 1 else 0

/-! ### Messages that reach memory (R238, R248) -/

/-- ATADD at the owner (R199, R238): the sum saturates at the limits, and the completion says so. -/
def State.linkAtadd (s : State) (h : FlitHdr) (a : Nat) (wide : Bool) (tag : Nat) (value : BitVec 64) : State :=
  let w := atomicWidth wide
  if decide (a % w ≠ 0) || (s.firstBad false a w).isSome then
    (s.noteRequest false a w).sendCompletion h tag 1 0 []
  else
    let add := satSum (8 * w) (signedOf (8 * w) (s.readNat a w)) (signedOf (8 * w) value.toNat)
    let r := s.atomicAt a w (fun _ => unsignedOf (8 * w) add.1)
    r.2.sendCompletion h tag (if add.2 then 2 else 0) 0 []

/-- A DMA_RD is answered in increasing offset by COMPLETIONs (R248). -/
def State.linkRead (s : State) (h : FlitHdr) (a n tag : Nat) : State :=
  let max_ := s.dataMax
  let s := s.noteRequest false a n
  (List.range (ceilDiv n max_)).foldl (fun st k =>
    let o := max_ * k
    let len := min max_ (n - o)
    st.sendCompletion h tag (st.accessStatus false (a + o) len) o (st.readBytes (a + o) len)) s

/-- A DMA_WR writes memory (R248); bytes of the settle area are noted (R235, R236). -/
def State.linkWrite (s : State) (h : FlitHdr) (a tag : Nat) (reply : Bool) (data : List Byte) : State :=
  let st := s.accessStatus true a data.length
  let s := (s.writeBytes a data).noteSettle a data.length
  if reply then s.sendCompletion h tag st 0 [] else s

/-- MIN_INDEX at the owner (R238, R194): the stored entry counts as the earlier position. -/
def State.linkMinIndex (s : State) (h : FlitHdr) (a : Nat) (least : Bool) (tag : Nat) (e : RedEntry) : State :=
  if (s.firstBad false a 16).isSome then (s.noteRequest false a 16).sendCompletion h tag 1 0 []
  else
    let old := redOf (s.readBytes a 16)
    let new := redOf (redEntryBytes e)
    let best := redBetter (if least then 2 else 1) old new
    let s := if best = old then s else s.writeBytes a (redEntryBytes e)
    s.sendCompletion h tag 0 0 []

/-! ### FIELD_INC and FWD_CMD (R248) -/

/-- The increments of a message wait for the next epoch boundary of their spans. -/
def State.linkIncs (s : State) (ef : BitVec 16) (l : List FieldIncEntry) : State :=
  l.foldl (fun st e =>
    let n := e.span.toNat
    if (st.span n).bound.isSome && !st.spanFenced n then
      st.modEng n (fun g => { g with incs := g.incs ++ [(e.slot.toNat, Dy.mk e.inc.toInt (ef.toInt - 16))] })
    else st) s

/-- A command packet for a context's ring (R248): DISABLED while the link takes none or the context accepts none, RING_FULL
while no slot is free, otherwise the slot is written and the doorbell rung. -/
def State.linkCommand (s : State) (l : Nat) (h : FlitHdr) (c tag : Nat) (packet : List Byte) : State :=
  let x := s.ctx c
  if !(s.link l).fwdEn || !(decide (x.state = .active) || decide (x.state = .stopped)) then s.sendCompletion h tag 3 0 []
  else if 2 ^ x.useRingLog2 ≤ (x.tail - x.head).toNat then s.sendCompletion h tag 4 0 []
  else
    let s := s.writeBytes (x.slotAddr x.tail.toNat) (bytesAt packet 0 64)
    (s.doorbell c (x.tail + 1)).sendCompletion h tag 0 0 []

/-! ### Rows: messages -/

/-- A request to memory that arrives on a link: it waits where it must, and is delivered as any flit. -/
def State.request (s : State) (l : Nat) (h : FlitHdr) (a n kind : Nat) (payload : List Byte) (deliver : State → State) : State :=
  if s.accessHeld l h a n then s else s.receive l h kind 0 payload deliver

/-- A message for spans, or for the front end, that arrives on a link: it waits for the tables where its way to one of their
routers crosses a failed one (R374). -/
def State.message (s : State) (l : Nat) (h : FlitHdr) (stops : List Nat) (kind : Nat) (payload : List Byte) (deliver : State → State) :
    State :=
  if s.mine h && stops.any (s.wayHeld (linkRouter l)) then s else s.receive l h kind 0 payload deliver

/-- FLIP_BATCH (R228). -/
def execFlipBatch (l : Fin 4) (h : FlitHdr) (b : FlipBatch) (s : State) : Out :=
  goOn (s.receive l.val h 1 0 (batchBytes b) (fun st => st.takeBatch l.val h.run.toNat h.src.toNat b))

/-- FIELD_INC (R248). -/
def execFieldInc (l : Fin 4) (h : FlitHdr) (ef : BitVec 16) (entries : List FieldIncEntry) (s : State) : Out :=
  goOn (s.message l.val h (entries.map (fun e => spanRouter e.span.toNat)) 2 (incBytes ef entries) (fun st => st.linkIncs ef entries))

/-- ATADD (R238). -/
def execLinkAtadd (l : Fin 4) (h : FlitHdr) (addr : BitVec 48) (wide : Bool) (tag : BitVec 16) (value : BitVec 64)
    (s : State) : Out :=
  goOn (s.request l.val h addr.toNat (atomicWidth wide) 3
    (leBytes 8 addr.toNat ++ leBytes 1 (boolNat wide) ++ leBytes 1 0 ++ leBytes 2 tag.toNat ++ leBytes 4 0 ++ leBytes 8 value.toNat)
    (fun st => st.linkAtadd h addr.toNat wide tag.toNat value))

/-- DMA_RD (R248). -/
def execDmaRd (l : Fin 4) (h : FlitHdr) (addr : BitVec 64) (length tag : BitVec 16) (s : State) : Out :=
  goOn (s.request l.val h addr.toNat length.toNat 4 (leBytes 8 addr.toNat ++ leBytes 2 length.toNat ++ leBytes 2 tag.toNat)
    (fun st => st.linkRead h addr.toNat length.toNat tag.toNat))

/-- DMA_WR (R248). -/
def execDmaWr (l : Fin 4) (h : FlitHdr) (addr : BitVec 64) (tag : BitVec 16) (reply : Bool) (data : List Byte) (s : State) :
    Out :=
  goOn (s.request l.val h addr.toNat data.length 5
    (leBytes 8 addr.toNat ++ leBytes 2 data.length ++ leBytes 2 tag.toNat ++ leBytes 4 (boolNat reply) ++ data)
    (fun st => st.linkWrite h addr.toNat tag.toNat reply data))

/-- COMPLETION (R248). No request of this module asks for one, so it changes the link only. -/
def execCompletion (l : Fin 4) (h : FlitHdr) (tag : BitVec 16) (status : BitVec 8) (offset : BitVec 64) (data : List Byte)
    (s : State) : Out :=
  goOn (s.receive l.val h 6 0 (completionBytes tag.toNat status.toNat offset.toNat data) id)

/-- EVENT_SIGNAL (R248): as EVREC. -/
def execEventSignal (l : Fin 4) (h : FlitHdr) (e : BitVec 16) (add error : Bool) (value : BitVec 64) (s : State) : Out :=
  goOn (s.message l.val h [feRouter] 7
    (leBytes 2 e.toNat ++ leBytes 1 (boolNat add) ++ leBytes 1 (boolNat error) ++ leBytes 4 0 ++ leBytes 8 value.toNat)
    (fun st => st.eventOp e.toNat add value error false))

/-- FWD_CMD (R248). -/
def execFwdCmd (l : Fin 4) (h : FlitHdr) (c : Fin 1024) (tag : BitVec 16) (packet : List Byte) (s : State) : Out :=
  goOn (s.message l.val h [feRouter] 8 (leBytes 2 c.val ++ leBytes 2 tag.toNat ++ leBytes 12 0 ++ bytesAt packet 0 64)
    (fun st => st.linkCommand l.val h c.val tag.toNat packet))

/-- A marker of a kind arrives. -/
def State.marker (s : State) (l : Nat) (h : FlitHdr) (aux : Nat) (m : Marker) : State :=
  s.receive l h 9 aux (markerBytes aux m) (fun st => st.takeMarker h.run.toNat h.src.toNat aux m)

/-- EPOCH_MARKER, epoch (R229). -/
def execEpochMarker (l : Fin 4) (h : FlitHdr) (m : Marker) (s : State) : Out := goOn (s.marker l.val h 0 m)
/-- EPOCH_MARKER, sweep end (R232). -/
def execSweepEndMarker (l : Fin 4) (h : FlitHdr) (m : Marker) (s : State) : Out := goOn (s.marker l.val h 1 m)
/-- EPOCH_MARKER, undo end (R232). -/
def execUndoEndMarker (l : Fin 4) (h : FlitHdr) (m : Marker) (s : State) : Out := goOn (s.marker l.val h 7 m)
/-- EPOCH_MARKER, ready (R227). -/
def execReadyMarker (l : Fin 4) (h : FlitHdr) (m : Marker) (s : State) : Out := goOn (s.marker l.val h 2 m)
/-- EPOCH_MARKER, run start (R227). -/
def execRunStartMarker (l : Fin 4) (h : FlitHdr) (m : Marker) (s : State) : Out := goOn (s.marker l.val h 3 m)
/-- EPOCH_MARKER, start (R227). -/
def execStartMarker (l : Fin 4) (h : FlitHdr) (m : Marker) (s : State) : Out := goOn (s.marker l.val h 4 m)
/-- EPOCH_MARKER, settle up (R235). -/
def execSettleUpMarker (l : Fin 4) (h : FlitHdr) (m : Marker) (s : State) : Out := goOn (s.marker l.val h 5 m)
/-- EPOCH_MARKER, settle done (R236). -/
def execSettleDoneMarker (l : Fin 4) (h : FlitHdr) (m : Marker) (s : State) : Out := goOn (s.marker l.val h 6 m)

/-- MIN_INDEX (R238). -/
def execMinIndex (l : Fin 4) (h : FlitHdr) (addr : BitVec 64) (least : Bool) (tag : BitVec 16) (entry : RedEntry) (s : State) :
    Out :=
  goOn (s.request l.val h addr.toNat 16 10
    (leBytes 8 addr.toNat ++ leBytes 1 (boolNat least) ++ leBytes 1 0 ++ leBytes 2 tag.toNat ++ leBytes 4 0 ++ redEntryBytes entry)
    (fun st => st.linkMinIndex h addr.toNat least tag.toNat entry))

/-! ### Rows: link management (R251-R254) -/

/-- The partner's PARAM is taken: its module ID, the narrower of the two widths, and whether it encrypts. -/
def Link.takeParam (x : Link) (module : BitVec 12) (widthCap : Nat) (enc : Bool) : Link :=
  { x with peer := module, peerValid := true, paramRx := true, width := max x.width (min 2 widthCap), rxEnc := enc }

/-- PARAM (R251): it is exchanged in training, in state PARAM. One that comes as a flit of an ACTIVE link names the partner
anew. -/
def execParam (l : Fin 4) (h : FlitHdr) (module : BitVec 12) (widthCap : BitVec 8) (enc : Bool) (s : State) : Out :=
  if s.running && decide ((s.link l.val).state = 5) then
    goOn (s.modLink l.val (fun x => (x.corrected h).takeParam module widthCap.toNat enc))
  else
    goOn (s.receive l.val h 0xF 0 (leBytes 2 module.toNat ++ leBytes 1 widthCap.toNat ++ leBytes 1 (boolNat enc))
      (fun st => st.modLink l.val (fun x => { x with peer := module, peerValid := true })))

/-- KEY_SWITCH (R254). -/
def execKeySwitch (l : Fin 4) (h : FlitHdr) (slot : Fin 2) (count : BitVec 64) (s : State) : Out :=
  goOn (s.receive l.val h 0xF 1 (switchPayload slot.val count.toNat)
    (fun st => st.modLink l.val (fun x => if x.rxEnc then { x with rxSwitch := some (slot.val, count.toNat) } else x)))

/-- The wait of a run ends when a link goes down that is the exit to a part of it (R241). -/
def State.exitLost (s : State) (l : Nat) : State :=
  (s.runs.map (fun r => r.problem)).foldl (fun st q =>
    match st.sysOf q with
    | some (_, y, _, x) =>
      if x.waiting.isSome && (List.range y.parts.length).any (fun k =>
          decide (k ≠ y.part) && decide (st.exitFor (y.moduleOf k) = l)) then st.waitFails q
      else st
    | none => st) s

/-- DOWN (R241, R528): the cause is kept, and the link is down. -/
def execDown (l : Fin 4) (h : FlitHdr) (cause : BitVec 8) (s : State) : Out :=
  goOn (s.receive l.val h 0xF 2 (downPayload cause.toNat) (fun st =>
    let now := st.now
    (st.modLink l.val (fun x =>
      { x.leave lnkDown false with downRx := cause.toNat % 8, trainTick := now })).exitLost l.val))

/-- WIDTH (R252): the link takes the partner's new width and trains from ALIGN. -/
def execWidth (l : Fin 4) (h : FlitHdr) (code lanes : BitVec 8) (s : State) : Out :=
  goOn (s.receive l.val h 0xF 3 (leBytes 1 code.toNat ++ leBytes 1 lanes.toNat)
    (fun st => st.retrainTo l.val (min 2 code.toNat)))

/-- RETRAIN (R252). -/
def execRetrain (l : Fin 4) (h : FlitHdr) (s : State) : Out :=
  goOn (s.receive l.val h 0xF 4 [] (fun st => st.retrainTo l.val (st.link l.val).width))

/-- The eight bytes of a timestamp, as `DEV_TIME` lays it out. -/
def State.stamp (s : State) : List Byte := leBytes 4 s.time.sub ++ leBytes 4 s.time.sec

/-- PING (R247): answered by PONG with this module's time. -/
def execPing (l : Fin 4) (h : FlitHdr) (time : BitVec 64) (s : State) : Out :=
  goOn (s.receive l.val h 0xF 5 (leBytes 8 time.toNat) (fun st => st.sendNeighbour l.val 0xF 6 st.stamp))

/-- PONG (R247): it changes the link only. -/
def execPong (l : Fin 4) (h : FlitHdr) (time : BitVec 64) (s : State) : Out :=
  goOn (s.receive l.val h 0xF 6 (leBytes 8 time.toNat) id)

/-! ### Rows: other flits -/

/-- BAD_KIND (R247): dropped, counted and reported, wherever it was going. -/
def execBadKind (l : Fin 4) (h : FlitHdr) (s : State) : Out :=
  goOn (s.receive l.val { h with dst := 0xFFF } 0xB 0 [] (fun st =>
    (st.modLink l.val (fun x => { x with badKind := satInc x.badKind })).raise (.lnk l) 3 l.val))

/-- FLIT_FORWARD (R253): a flit for another module. One for this module is a message, which has a row of its own. -/
def execFlitForward (l : Fin 4) (h : FlitHdr) (kind : BitVec 4) (aux : BitVec 8) (payload : List Byte) (s : State) : Out :=
  goOn (if s.mine h then s else s.receive l.val h kind.toNat aux.toNat payload id)

/-- FLIT_DISCARD (R250, R254): the flit is bad. Four tag failures in a row on one flit take the link down. -/
def execFlitDiscard (l : Fin 4) (h : FlitHdr) (tagFail uncorrectable : Bool) (s : State) : Out :=
  let x := s.link l.val
  if !s.running || decide (x.state ≠ lnkActive) then goOn s
  else
    let fails := if tagFail && x.rxEnc && h.seq = x.rxNext then x.tagFails + 1 else x.tagFails
    let s := s.modLink l.val (fun y =>
      { (if uncorrectable then y else y.corrected h) with
          nak := true, tagFails := fails, fecUncorr := if uncorrectable then satInc y.fecUncorr else y.fecUncorr })
    if fails ≥ 4 && decide (x.tagFails < 4) then
      goOn ((s.takeDown l.val 3 lnkDown false).raise (.lnk l) 6 l.val).carryOn
    else goOn s

/-- IDLE_FLIT (R244, R250): it is not sequenced. -/
def execIdleFlit (l : Fin 4) (h : FlitHdr) (s : State) : Out :=
  if s.running && decide ((s.link l.val).state = lnkActive) then
    let now := s.now
    goOn ((s.modLink l.val (fun x => (x.corrected h).takeHdr h now)).pumpLink l.val)
  else goOn s

/-! ### Rows: replay (R250) -/

/-- Resend what is unacknowledged, in the original order, byte for byte. -/
def Link.replay (x : Link) (now : Nat) : Link :=
  { x.unacked.foldl (fun (y : Link) (f : TxFlit) => y.toLine f.bytes) x with
      unacked := x.unacked.map (fun (f : TxFlit) => { f with resent := f.resent + 1 }), nakRx := false, ackTick := now,
      replays := satAdd 0xFFFFFFFF x.replays x.unacked.length }

/-- A flit has been resent 8 times. -/
def Link.spent (x : Link) : Bool := x.unacked.any (fun f => decide (8 ≤ f.resent))

/-- REPLAY_TIMEOUT (R250): on a nak, or 2 µs after the ack last advanced. -/
def execReplayTimeout (l : Fin 4) (s : State) : Out :=
  let x := s.link l.val
  if s.running && decide (x.state = lnkActive) && !x.unacked.isEmpty && !x.spent then
    let s := if x.nakRx then s else s.passTo (x.ackTick + 2 * tickUs)
    let now := s.now
    goOn ((s.modLink l.val (fun y => y.replay now)).pumpLink l.val)
  else goOn s

/-- REPLAY_LIMIT (R250, R252): the link trains again from ALIGN. -/
def execReplayLimit (l : Fin 4) (s : State) : Out :=
  let x := s.link l.val
  if s.running && decide (x.state = lnkActive) && x.spent then
    goOn ((s.retrainTo l.val x.width).raise (.lnk l) 2 l.val).carryOn
  else goOn s

/-! ### Rows: training (R251, R252) -/

/-- The state is one of training. -/
def Link.training (x : Link) : Bool := decide (1 ≤ x.state) && decide (x.state ≤ 5)

/-- The security block can run the link (R455): not an encrypted direction in the self-test error state. -/
def State.cipherOk (s : State) (l : Nat) : Bool := !(s.sec.selfTestFail && (s.sec.cfg.linkEnc.getLsbD l || (s.link l).rxEnc))

/-- The module lets the link train: it is enabled and not fenced, the device is not in FAULT (R422, R427), and its encryption can be
had (R455). -/
def State.mayTrain (s : State) (l : Nat) : Bool := (s.link l).enable && !s.linkFenced l && !s.faulted && s.cipherOk l

/-- The transmit direction of a link encrypts: the configuration block says so and the key is there (R254). -/
def State.encrypts (s : State) (l : Nat) : Bool :=
  s.sec.cfg.linkEnc.getLsbD l && s.hasKey l false (s.link l).txSlot && !s.sec.selfTestFail

/-- The PARAM payload of this module (Table 9.10): its module ID, its width and whether it encrypts. -/
def State.ownParam (s : State) (l : Nat) : List Byte :=
  leBytes 2 s.linkSys.moduleId.toNat ++ leBytes 1 (s.link l).width ++ leBytes 1 (boolNat (s.encrypts l))

/-- At ACTIVE (R249, R250, R254): full credits, and none to return; the transmit direction is encrypted as its PARAM said;
what is unacknowledged is sent again. -/
def State.activate (s : State) (l : Nat) : State :=
  let enc := s.encrypts l
  let now := s.now
  let s := s.modLink l (fun x =>
    { (if x.unacked.isEmpty then x else x.replay now) with
        state := lnkActive, txEnc := enc, nak := false, nakRx := false, owed := [],
        credits := (List.range 4).map (fun v => (v, vcCredits v)) })
  s.pumpLink l

/-- A link that trains is down, and its source is raised. -/
def State.trainFails (s : State) (l : Nat) : State := (s.modLink l (fun y => y.leave lnkDown false)).raise (lnkBlock l) 1 l

/-- LINK_TRAINING_ADVANCE (R251): a state completes. DETECT fails at once without a cable (R501); PARAM, at whose start this module
sends its own, does not complete without the partner's. -/
def execLinkTrainingAdvance (d : LinkDetect) (s : State) : Out :=
  let l := d.link.val
  let x := s.link l
  if s.running && x.training && s.mayTrain l then
    if x.state = 1 then
      let s := s.modLink l (fun y => { y with cable := d.cable })
      goOn (if d.cable then s.modLink l (fun y => { y with state := 2 }) else (s.trainFails l).carryOn)
    else if x.state = 4 then
      let own := s.ownParam l
      goOn (s.modLink l (fun y => { y with state := 5, paramTx := own }))
    else if x.state < 4 then goOn (s.modLink l (fun y => { y with state := y.state + 1 }))
    else goOn (if x.paramRx then s.activate l else s)
  else goOn s

/-- LINK_TRAINING_TIMEOUT (R251): a link that trains is down 2 s after the start; one that is down trains again 2 s after
its last start or after it went down, while some width is left (R252). -/
def execLinkTrainingTimeout (l : Fin 4) (s : State) : Out :=
  let x := s.link l.val
  if s.running && x.training then
    let s := s.passTo (x.trainTick + 2 * tickSec)
    goOn (s.trainFails l.val).carryOn
  else if s.running && s.mayTrain l.val && decide (x.state = lnkDown) && (widestWidth (s.fencedLanes l.val)).isSome then
    goOn ((s.passTo (x.trainTick + 2 * tickSec)).startTraining l.val)
  else goOn s

/-- LANE_FAILURE (R252, R416): the lanes have failed; the link announces the width that is left and trains from ALIGN, or
sends DOWN and is down. -/
def execLaneFailure (l : Fin 4) (lanes : BitVec 8) (s : State) : Out :=
  let x := s.link l.val
  if s.running && s.mayTrain l.val && (x.training || decide (x.state = lnkActive)) && decide (lanes ≠ 0) then
    let r := s.loseLanes l.val lanes
    let s := if r.1 then r.2 else r.2.raise (.lnk l) 1 l.val
    goOn (s.raise (.lnk l) 0 lanes.toNat).carryOn
  else goOn s

/-! ### Rows: `LNK_CTL` (R526, R528) -/

/-- A write of `LNK_CTL`. -/
def State.lnkCtl (s : State) (l : Nat) (enable fwdEn dateline retrain : Bool) : State :=
  let st0 := (s.link l).state
  let s := s.modLink l (fun x => { x with enable := enable, fwdEn := fwdEn, dateline := dateline })
  let s := if !enable then (if st0 = lnkDisabled then s else s.takeDown l 0 lnkDisabled false)
    else if st0 = lnkDisabled then
      (if s.mayTrain l then s.startTraining l else s.modLink l (fun x => { x with state := lnkDown }))
    else s
  if retrain && enable && decide (st0 ≠ lnkDisabled) && s.mayTrain l then s.startTraining l else s

/-- LINK_ENABLE (R528). -/
def execLinkEnable (l : Fin 4) (fwdEn dateline : Bool) (s : State) : Out :=
  goOn (if s.barOk then (s.lnkCtl l.val true fwdEn dateline false).carryOn else s)

/-- LINK_DISABLE (R528). -/
def execLinkDisable (l : Fin 4) (fwdEn dateline : Bool) (s : State) : Out :=
  goOn (if s.barOk then (s.lnkCtl l.val false fwdEn dateline false).carryOn else s)

/-- LINK_RETRAIN (R526): a write of 1 to retrain that leaves the other bits. -/
def execLinkRetrain (l : Fin 4) (s : State) : Out :=
  let x := s.link l.val
  goOn (if s.barOk then (s.lnkCtl l.val x.enable x.fwdEn x.dateline true).carryOn else s)

end Sys2Proof.Machine
end

