-- ==== Sys2Proof/Machine/Host.lean ====
section
/-! DEFINITION. What the host does to the function (16, 22): writes of BAR0 under the access codes (R4, R513-R517), BAR2 (R404-R406),
MSI-X masks (R409), D3hot (R402) and configuration writes (R404, R411, R412).
-/

namespace Sys2Proof.Machine

/-! ### Access codes (Table 0.6) -/

/-- A 64-bit value with one half replaced (R515). -/
def putHalf {w : Nat} (old : BitVec w) (upper : Bool) (v : Nat) : BitVec w :=
  let n := old.toNat
  BitVec.ofNat w (if upper then n % 2 ^ 32 + v * 2 ^ 32 else n / 2 ^ 32 * 2 ^ 32 + v)

/-- The bit of a flag after a write to its W1C field. -/
def w1c (b : Bool) (v i : Nat) : Bool := b && !natBit v i

/-! ### Blocks -/

/-- A write to a block fault interface (Table 17.3). -/
def State.fltIfWrite (s : State) (b : BlockId) (o v : Nat) : State :=
  match o with
  | 0xF00 => s.modBlock b (fun f => { f with status := f.status &&& ~~~(BitVec.ofNat 32 v) })
  | 0xF04 => if s.blockTakesWrites b then s.modBlock b (fun f => { f with irqEn := BitVec.ofNat 32 v }) else s
  | 0xF14 => if natBit v 8 && s.blockTakesWrites b then s.modBlock b (fun f => { f with valid := 0 }) else s
  | _ => s

/-- Clear the bits of a block's status from bit `shift` on that a register of `n` bits shows (R419). -/
def State.clearStatus (s : State) (b : BlockId) (shift n v : Nat) : State :=
  s.fltIfWrite b 0xF00 (v % 2 ^ n * 2 ^ shift)

/-- A write to the DEV block; before ready only `DEV_WIN_BASE` is written (R410). -/
def State.devWrite (s : State) (o v : Nat) : State :=
  match o with
  | 0x40 => { s with pcie := { s.pcie with winBase := BitVec.ofNat 20 (s.pcie.winBase.toNat / 16 * 16 + natBits v 31 28) } }
  | 0x44 => { s with pcie := { s.pcie with winBase := BitVec.ofNat 20 (s.pcie.winBase.toNat % 16 + v % 2 ^ 16 * 16) } }
  | _ =>
    if !s.boot.ready then s
    else match o with
    | 0x0C => if natBit v 0 then s.softReset else s
    | 0x48 => { s with pcie := { s.pcie with herr := s.pcie.herr &&& ~~~(BitVec.ofNat 7 v) } }
    | 0x88 => { s with time := { s.time with setTo := some v } }
    | 0x98 => { s with time := { s.time with jump := w1c s.time.jump v 2, lost := w1c s.time.lost v 3 } }
    | _ => s

/-- A write to `MBX_CMD` (R524): refused with overrun while busy. A code that no request has is answered at once; any other
is handled by the keystone. -/
def State.mbxCommand (s : State) (v : Nat) : State :=
  if s.mbx.busy then { s with mbx := { s.mbx with overrun := true } }
  else
    let code := natBits v 7 0
    let s := { s with mbx := { s.mbx with code := code, busy := true, done := false, reqSeq := BitVec.ofNat 16 (natBits v 31 16) } }
    if isStatus code || managementCodes.contains code then s else s.answerMailbox 2 []

/-- A write to the MBX block (Table 22.5). -/
def State.mbxWrite (s : State) (o v : Nat) : State :=
  match o with
  | 0x00 => s.mbxCommand v
  | 0x04 => { s with mbx := { s.mbx with done := w1c s.mbx.done v 1, overrun := w1c s.mbx.overrun v 2 } }
  | _ => s

/-- A write to a MEM block (Table 15.3). A retrain that the host asks for here holds the rate; MEM_RETRAIN is the row with
another outcome. -/
def State.memWrite (s : State) (n o v : Nat) : State :=
  let i := o / 0x100
  if 2 ≤ i then s
  else match o % 0x100 with
  | 0x20 => s.clearStatus (memBlock n) (5 * i) 5 v
  | 0x28 =>
    if natBit v 0 && (s.memIface (2 * n + i)).active && !s.memFenced n then s.retrainMem (2 * n + i) true else s
  | _ => s

/-- A write to a LNK block (Table 22.7, R527). -/
def State.lnkWrite (s : State) (l o v : Nat) : State :=
  if 0x1000 ≤ o && o < 0x1400 then
    let w := (o - 0x1000) / 4
    { s with linkSys := { s.linkSys with
        route := Store.putAll 0 ((List.range 16).map (fun m => (16 * w + m, natBits v (2 * m + 1) (2 * m)))) s.linkSys.route } }
  else match o with
  | 0x00 => s.lnkCtl l (natBit v 0) (natBit v 1) (natBit v 2) (natBit v 3)
  | 0x10 => { s with linkSys := { s.linkSys with moduleId := BitVec.ofNat 12 v, encAny := natBit v 12 } }
  | _ => s

/-- A write to a SPN block. That of a fenced span takes W1C writes only (R530). -/
def State.spnWrite (s : State) (n o v : Nat) : State :=
  let fenced := s.spanFenced n
  match o with
  | 0x000 =>
    let s := s.modSpan n (fun x => { x with resetRefused := w1c x.resetRefused v 1 })
    if natBit v 0 then s.spanReset n else s
  | 0x400 => s.modSpan n (fun x => { x with tenStatus := x.tenStatus &&& ~~~(BitVec.ofNat 5 v) })
  | 0x504 => s.clearStatus (spnBlock n) 0 2 v
  | 0x510 =>
    if fenced then s
    else
      let s := s.modSpan n (fun x => { x with marchPreserve := natBit v 1 })
      if natBit v 0 then s.marchRequest n else s
  | 0x514 => s.modSpan n (fun x => { x with marchRefused := w1c x.marchRefused v 2 })
  | 0x51C => if fenced then s else s.modSpan n (fun x => { x with scrub := v % 2 ^ 16 })
  | _ => s

/-- A write to a context window (Tables 10.1 to 10.3, R257). -/
def State.ctxWrite (s : State) (c o v : Nat) : State :=
  let free := decide ((s.ctx c).state = .free) || (s.ctx c).enablePending
  match o with
  | 0x00 => s.doorbell c (BitVec.ofNat 32 v)
  | 0x40 => s.ctlWrite c (natBit v 0) (natBit v 1) (natBit v 2) (natBit v 3)
  | 0x44 => s.modCtx c (fun x => { x with destroyDone := w1c x.destroyDone v 5 })
  | 0x48 => if free then s.modCtx c (fun x => { x with ringBase := putHalf x.ringBase false v }) else s
  | 0x4C => if free then s.modCtx c (fun x => { x with ringBase := putHalf x.ringBase true v }) else s
  | 0x50 => if free then s.modCtx c (fun x => { x with cplBase := putHalf x.cplBase false v }) else s
  | 0x54 => if free then s.modCtx c (fun x => { x with cplBase := putHalf x.cplBase true v }) else s
  | 0x58 => if free then s.modCtx c (fun x => { x with ringLog2 := natBits v 4 0, cplLog2 := natBits v 12 8 }) else s
  | 0x5C => s.modCtx c (fun x => { x with hang := BitVec.ofNat 32 v })
  | 0x68 => s.cplHeadWrite c (BitVec.ofNat 32 v)
  | 0x70 => s.modCtx c (fun x => { x with capAddr := putHalf x.capAddr false v })
  | 0x74 => s.modCtx c (fun x => { x with capAddr := putHalf x.capAddr true v })
  | _ => s

/-- A write to the registers of an event (Table 10.12, R294, R515). -/
def State.evtWrite (s : State) (e o v : Nat) : State :=
  let x := s.event e
  match o with
  | 0x0 => s.eventOp e false (putHalf x.value false v) false true
  | 0x4 => s.eventOp e false (putHalf x.value true v) false true
  | 0x8 => s.setEvent e { x with error := w1c x.error v 0, irqEn := natBit v 1, vector := BitVec.ofNat 10 (natBits v 11 2) }
  | _ => s.eventOp e true (BitVec.ofNat 64 v) false true

/-- A write to the MSI-X table (R408); a vector that is unmasked can send (R409). -/
def State.msixWrite (s : State) (o v : Nat) : State :=
  let k := o / 16
  let x := Store.get msix0 k s.pcie.msix
  let y : MsixEntry := match o % 16 with
    | 0x0 => { x with addr := putHalf x.addr false (v / 4 * 4) }
    | 0x4 => { x with addr := putHalf x.addr true v }
    | 0x8 => { x with data := BitVec.ofNat 32 v }
    | _ => { x with masked := natBit v 0 }
  { s with pcie := { s.pcie with msix := Store.put msix0 k y s.pcie.msix } }.sendPending

/-- A write of the 32-bit word at an offset of BAR0 that is a multiple of 4 (R513, R519). -/
def State.bar0WriteWord (s : State) (o v : Nat) : State :=
  let p := placeAt o
  let r := p.2
  match p.1.block, decide (0xF00 ≤ r) && decide (r < 0x1000) with
  | some b, true => s.fltIfWrite b r v
  | _, _ =>
    match p.1 with
    | .dev => s.devWrite r v
    | .fe => if r = 0x08 then { s with fe := { s.fe with notify := w1c s.fe.notify v 0 } } else s
    | .flt => if r = 0x08 && natBit v 0 then s.ackFault else s
    | .rng => if r = 0x0C && natBit v 0 then s.requestReseed else s
    | .mbx => s.mbxWrite r v
    | .mesh => if r = 0x20 then s.clearStatus .mesh 0 2 v else s
    | .mem n => s.memWrite n r v
    | .cxl q => if r = 0x20 then s.clearStatus (cxlBlock q) 0 4 v else s
    | .lnk l => s.lnkWrite l r v
    | .spn n => s.spnWrite n r v
    | .ctx c => s.ctxWrite c r v
    | .evt e => s.evtWrite e r v
    | .msix => s.msixWrite r v
    | .mon | .pba | .reserved => s

/-- The 64-bit register that an 8-byte write sets in one operation. -/
def wholeEvent (o n : Nat) : Option Nat :=
  match placeAt o with
  | (.evt e, 0) => if n = 8 then some e else none
  | _ => none

/-- A host write of `n` bytes at an offset of BAR0 (R402, R410, R514, R515, R517). -/
def State.bar0Write (s : State) (o n v : Nat) : State :=
  if !s.running || s.pcie.d3hot || !barAligned o n || (!s.boot.ready && (placeAt o).1 ≠ .dev) then s
  else match wholeEvent o n with
  | some e => s.eventOp e false (BitVec.ofNat 64 v) false true
  | none =>
    let s := s.bar0WriteWord o (lo32 v)
    if n = 8 then s.bar0WriteWord (o + 4) (hi32 v) else s

/-- REGISTER_WRITE (R517). -/
def execRegisterWrite (offset : BitVec 26) (bytes : Nat) (value : BitVec 64) (s : State) : Out :=
  goOn (s.bar0Write offset.toNat bytes value.toNat).carryOn

/-! ### BAR2 (R404-R406, R410) -/

/-- The function decodes a BAR2 access. -/
def State.bar2Decodes (s : State) (o n : Nat) : Bool :=
  s.running && !s.pcie.d3hot && decide (0 < n) && decide (o + n ≤ 2 ^ s.pcie.bar2Log2)

/-- The address lies in a span. -/
def State.inSpanRegion (s : State) (a : Nat) : Bool :=
  match s.target a with
  | .scratch _ _ | .setAlias _ _ | .clrAlias _ _ | .window _ _ => true
  | _ => false

/-- The `DEV_HERR` bits of an access whose bytes have these addresses and outcomes (Table 16.4), and the flit that the router of a
fenced span discards (R378). -/
def State.bar2Note (s : State) (write : Bool) (l : List (Nat × Bar2Io)) : State :=
  let t := if l.any (fun q => q.2 = .unmapped) then s.setHerr 0 else s
  let t := if l.any (fun q => q.2 = .fenced) then t.setHerr 1 else t
  let t := if !write && l.any (fun q => q.2 = .poisoned) then t.setHerr 2 else t
  let gone := l.filter (fun q => q.2 = .fenced && s.inSpanRegion q.1)
  if gone.isEmpty then t else t.countDrops (if write then flitsOf gone.length else 1)

/-- The outcome of a byte of a BAR2 read: `t` is the state that the errors met by the read leave. A byte of a word or granule that
they poison is poisoned (R359, R391), whatever else they cause; a request to a CXL device that gives no answer ends FENCED (R398). -/
def State.readOutcome (s t : State) (a : Nat) : Bar2Io :=
  match s.bar2Io a with
  | .ok => if s.pcie.readFail = some (a, .cxl) then .fenced else if t.poisonedAt a then .poisoned else .ok
  | .unmapped => .unmapped
  | .fenced => .fenced
  | .poisoned => .poisoned

/-- The byte that a BAR2 read returns for an outcome (Table 16.4). -/
def State.outcomeByte (s : State) (a : Nat) : Bar2Io → Byte
  | .ok => s.rawByte a
  | .unmapped | .fenced => 0xFF#8
  | .poisoned => 0#8

/-- A BAR2 access to the bytes at some addresses waits: for the end of a preserving march test (R364), or for the tables when
its way crosses a failed router (R374). -/
def State.bar2Held (s : State) (addrs : List Nat) : Bool :=
  addrs.any (fun a => s.marchHeld a 1
    || (s.mesh.installBusy && (s.routeFails 14 (s.ownerRouter a) || s.routeFails (s.ownerRouter a) 14)))

/-- The addresses of the enabled bytes of a BAR2 access. -/
def State.enabledAddrs (s : State) (offset : Nat) (enables : List Bool) : List Nat :=
  (enables.zipIdx.filter Prod.fst).map (fun q => s.bar2Addr (offset + q.2))

/-- BAR2_READ (R406): the bytes returned for the enabled bytes are the last read of the bus. -/
def execBar2Read (offset : BitVec 38) (enables : List Bool) (events : List MemEvent) (s : State) : Out :=
  let addrs := s.enabledAddrs offset.toNat enables
  if s.bar2Decodes offset.toNat enables.length && !s.bar2Held addrs then
    let t := if s.boot.ready then s.memEvents events else s
    let l : List (Nat × Bar2Io) := addrs.map (fun a => (a, s.readOutcome t a))
    let t := { t with bus := { t.bus with lastRead := l.map (fun (q : Nat × Bar2Io) => s.outcomeByte q.1 q.2),
                                          lastPoisoned := l.any (fun (q : Nat × Bar2Io) => decide (q.2 = Bar2Io.poisoned)) } }
    goOn (t.bar2Note false l).carryOn
  else goOn s

/-- The outcome of a byte of a BAR2 write. -/
def State.writeOutcome (s : State) (a : Nat) : Bar2Io :=
  if s.bar2Io a ≠ .unmapped && s.pcie.readFail = some (a, .cxl) then .fenced else s.bar2Io a

/-- BAR2_WRITE (R406): each enabled byte lands where it can; a whole write clears poison (R391). -/
def execBar2Write (offset : BitVec 38) (data : List (Option Byte)) (events : List MemEvent) (s : State) : Out :=
  let cells := data.zipIdx.filterMap (fun p => p.1.map (fun b => (s.bar2Addr (offset.toNat + p.2), b)))
  if s.bar2Decodes offset.toNat data.length && !s.bar2Held (cells.map Prod.fst) then
    let s := if s.boot.ready then s.memEvents events else s
    let l := cells.map (fun c => (c, s.writeOutcome c.1))
    let good := (l.filter (fun q => q.2 = .ok || q.2 = .poisoned)).map Prod.fst
    goOn ((s.bar2Note true (l.map (fun q => (q.1.1, q.2)))).storeCells good).carryOn
  else goOn s

/-! ### Configuration space -/

/-- MSIX_UNMASK (R409): a change of the MSI-X Enable or of the Function Mask, which lie in configuration space, or of a vector's
mask in the table in BAR0. -/
def execMsixUnmask (m : MsixChange) (s : State) : Out :=
  match m with
  | .enable b => goOn (s.configure (fun t => { t with pcie := { t.pcie with msixEnable := b } }.sendPending))
  | .functionMask b => goOn (s.configure (fun t => { t with pcie := { t.pcie with funcMask := b } }.sendPending))
  | .vectorMask v b => goOn (if s.barOk then s.msixWrite (16 * v.val + 12) (boolNat b) else s)

/-- D3HOT (R402). -/
def execD3hot (enter : Bool) (s : State) : Out :=
  goOn (s.configure (fun t => { t with pcie := { t.pcie with d3hot := enter } }))

/-- A value is a power of two in a range. -/
def pow2In (lo hi n : Nat) : Bool := decide (lo ≤ n) && decide (n ≤ hi) && decide (2 ^ Nat.log2 n = n)

/-- The function takes a write of configuration space; a value that it does not support is not taken. -/
def Pcie.take (p : Pcie) : ConfigWrite → Pcie
  | .bar0Base a => { p with bar0 := a }
  | .bar2Base a => { p with bar2 := a }
  | .bar2Size n => if 28 ≤ n ∧ n ≤ 38 then { p with bar2Log2 := n } else p
  | .busMaster b => { p with bme := b }
  | .maxPayload n => if pow2In 128 512 n then { p with mps := n } else p
  | .maxReadRequest n => if pow2In 128 4096 n then { p with mrrs := n } else p
  | .completionTimeout n => { p with cplTimeout := n }

/-- CONFIGURATION_WRITE (R401, R403, R404, R410-R412). -/
def execConfigurationWrite (w : ConfigWrite) (s : State) : Out :=
  goOn (s.configure (fun t => { t with pcie := t.pcie.take w }))

end Sys2Proof.Machine
end

