-- ==== Sys2Proof/Machine/LoadImage.lean ====
section
/-! DEFINITION. Reading a problem image: the header (R67), the section table and body headers (R68-R71, R531), the system
descriptor (R221, R235) and the arrays with their entry checks (R72-R79, R224), stages 1 to 3 of R84.
-/

namespace Sys2Proof.Machine

/-- A load that fails (R84, R535): the code of Table 3.8, the failing section, the two details. -/
structure LoadFail where
  status : Nat
  sec : Nat
  d1 : Int
  d2 : Nat
deriving DecidableEq, Repr

/-- A stage of the loader. -/
abbrev Load (α : Type) := Except LoadFail α

/-- Fail when a check does not hold. -/
def failIf (bad : Bool) (status sec : Nat) (d1 : Int) : Load Unit := if bad then .error ⟨status, sec, d1, 0⟩ else .ok ()

/-- Fail at the first entry of a list that a check names, with its status. -/
def failFirst {α : Type} (sec : Nat) (l : List α) (f : α → Option (Nat × Int)) : Load Unit :=
  match l.findSome? f with
  | some q => .error ⟨q.1, sec, q.2, 0⟩
  | none => .ok ()

/-- Read bytes of the image (R66): the load ends at the first byte that cannot be read. -/
def State.imgRead (s : State) (img sec off n : Nat) : Load (List Byte) :=
  match s.firstBad false (img + off) n with
  | some (a, _) => .error ⟨0x12, sec, (a - img : Nat), 0⟩
  | none => .ok (s.readBytes (img + off) n)

/-- The next multiple of 64. -/
def al64 (n : Nat) : Nat := 64 * ceilDiv n 64

/-! ### Stage 1: the header -/

/-- What the image header gives (Table 3.1). -/
structure ImgHead where
  bytes : List Byte
  size : Nat
  ising : Bool
  rotation : Bool
  override : Option Int
  count : Nat
  nvars : Nat
  nrep : Nat
  e0 : Dy
  table : Nat

/-- Stage 1 (R67, R84). -/
def State.loadHead (s : State) (img : Nat) : Load ImgHead := do
  let h ← s.imgRead img 0xFFFF 0 128
  failIf (numAt h 0 4 ≠ 0x474D4951) 0x01 0xFFFF 0
  failIf (numAt h 4 2 ≠ 1) 0x02 0xFFFF (numAt h 4 2)
  let size := numAt h 8 8
  let sc := numAt h 0x14 2
  let tbl := numAt h 0x30 8
  failIf (crc32c (h.take 0x7C) ≠ numAt h 0x7C 4 || numAt h 6 2 ≠ 128 || decide (size < 128)
    || decide (numAt h 0x18 4 = 0) || decide (numAt h 0x18 4 > 2 ^ 24) || decide (numAt h 0x1C 2 = 0)
    || decide (numAt h 0x1C 2 > 256) || decide (sc = 0) || decide (sc > 256) || tbl % 64 ≠ 0 || decide (tbl < 128)
    || decide (tbl + 32 * sc > size)) 0x03 0xFFFF 0
  let flags := numAt h 0x10 4
  return { bytes := h, size := size, ising := natBit flags 0, rotation := natBit flags 1,
           override := if natBit flags 2 then some (intAt h 0x1E 2) else none, count := sc, nvars := numAt h 0x18 4,
           nrep := numAt h 0x1C 2, e0 := ⟨intAt h 0x20 8, (numAt h 0x28 1 : Int) - 127⟩, table := tbl }

/-! ### Stage 2: the section table and the body headers -/

/-- A section: its table entry, its body header, and, once read, the bytes of its arrays. -/
structure Body where
  idx : Nat
  typ : Nat
  pre : Bool
  fmt : Nat
  off : Nat
  len : Nat
  hdr : List Byte
  arrays : List (List Byte)
deriving Inhabited

/-- A field of the body header. -/
def Body.num (b : Body) (off n : Nat) : Nat := numAt b.hdr off n

/-- Sections of a type that an image may have (Table 3.3), none for an unknown type. -/
def sectionLimit : Nat → Option Nat
  | 0x01 | 0x09 | 0x0B | 0x0C | 0x0D => some 1
  | 0x02 => some 256
  | 0x03 => some 64
  | 0x04 | 0x07 | 0x08 | 0x0A => some 16
  | 0x05 | 0x06 => some 4
  | _ => none

/-- The stored format is allowed for the section's coefficients (R69, Table 2.3). -/
def formatAllowed (typ fmt : Nat) : Bool :=
  match typ with
  | 0x02 | 0x07 => decide (fmt = 3)
  | 0x03 | 0x04 => decide (1 ≤ fmt) && decide (fmt ≤ 3)
  | 0x05 => decide (fmt = 4) || decide (fmt = 5)
  | 0x06 => decide (fmt = 5)
  | _ => true

/-- Mantissa width and block length of a stored format (Table 2.2, Table 3.4). -/
def storedFmt : Nat → Nat × Nat
  | 1 => (4, 32)
  | 2 => (8, 32)
  | 4 => (8, 32)
  | 5 => (16, 16)
  | _ => (16, 32)

/-- The blocks of rows given as pairs of a repeat count and a length. -/
def blockCount (bs : Nat) (rows : List (Nat × Nat)) : Nat := (rows.map (fun r => r.1 * ceilDiv r.2 bs)).sum

/-- The coefficients of such rows. -/
def coefCount (rows : List (Nat × Nat)) : Nat := (rows.map (fun r => r.1 * r.2)).sum

/-- The lengths of the arrays of a coefficient array (R70). -/
def coefLens (pre : Bool) (fmt : Nat) (rows : List (Nat × Nat)) : List Nat :=
  if pre then
    let f := storedFmt fmt
    let nb := blockCount f.2 rows
    [nb * (f.1 * f.2 / 8), nb]
  else [4 * coefCount rows]

/-- The row lengths that a row_ptr gives. -/
def rowLens (ptr : List Nat) : List (Nat × Nat) := (ptr.zip ptr.tail).map (fun q => (1, q.2 - q.1))

/-- The lengths of the arrays of a body, in order (Table 3.5); those of the coefficients of a pre-quantised SPARSE
section follow from its row_ptr. -/
def Body.lens (b : Body) (nvars nrep : Nat) (ptr : Option (List Nat)) : List Nat :=
  match b.typ with
  | 0x01 => [nvars]
  | 0x02 => coefLens b.pre b.fmt [(1, b.num 4 4)]
  | 0x03 => [8 * (b.num 4 4 + 1), 4 * b.num 8 8] ++
      (if b.pre then (match ptr with
        | some p => coefLens true b.fmt (rowLens p)
        | none => []) else [4 * b.num 8 8])
  | 0x04 => let nt := b.num 4 4 / 64
      coefLens b.pre b.fmt [(64 * (nt * (nt + 1) / 2), 64)]
  | 0x05 => coefLens b.pre b.fmt [(b.num 4 4, b.num 8 2)] ++ coefLens b.pre 3 [(1, b.num 8 2)]
  | 0x06 => (List.range (b.num 8 1)).flatMap (fun _ =>
      coefLens b.pre b.fmt [(b.num 4 2, b.num 4 2)] ++ coefLens b.pre b.fmt [(b.num 6 2, b.num 6 2)])
  | 0x07 => [4 * b.num 0 1 * b.num 4 4] ++ coefLens b.pre b.fmt [(1, b.num 4 4)]
  | 0x08 => [4 * (b.num 0 4 + 1), 4 * b.num 8 8]
  | 0x09 => [8 * b.num 0 2]
  | 0x0A => [12 * b.num 0x18 2, 8 * nrep, 4 * b.num 0x1A 2]
  | 0x0B => [(if natBit (b.num 0 1) 0 then 1 else nrep) * al64 (ceilDiv nvars 8)]
  | 0x0C => [4 * nvars, 2 * b.num 2 2]
  | _ => [nvars]

/-- The places of arrays from a body offset on: each at a multiple of 64 (R70, R71). -/
def placeArrays : Nat → List Nat → List (Nat × Nat)
  | _, [] => []
  | at_, n :: rest => (al64 at_, n) :: placeArrays (al64 at_ + n) rest

/-- Every array lies within the body. -/
def Body.roomy (b : Body) (lens : List Nat) : Bool :=
  (placeArrays 64 lens).all (fun q => decide (q.2 = 0) || decide (q.1 + q.2 ≤ b.len))

/-- The header field that breaks R531. -/
def Body.fieldFault (b : Body) (nvars : Nat) : Option Nat :=
  let bad : List (Nat × Bool) := match b.typ with
    | 0x01 => [(0, decide (b.num 0 4 ≠ nvars))]
    | 0x04 => [(0, decide (b.num 0 4 % 64 ≠ 0)), (4, decide (b.num 4 4 % 64 ≠ 0))]
    | 0x05 => [(8, decide (b.num 8 2 = 0))]
    | 0x06 => [(4, decide (b.num 4 2 = 0)), (6, decide (b.num 6 2 = 0)), (8, decide (b.num 8 1 = 0))]
    | 0x07 => [(0, decide (b.num 0 1 ≠ 3) && decide (b.num 0 1 ≠ 4))]
    | 0x0D => [(0, decide (b.num 0 2 < 2) || decide (b.num 0 2 > 256))]
    | _ => []
  (bad.find? (fun q => q.2)).map Prod.fst

/-- Stage 2 for the sections from index `k` on: the sections read so far. -/
def State.loadTable (s : State) (img : Nat) (h : ImgHead) (tbl : List Byte) : Nat → Nat → List Body → Load (List Body)
  | 0, _, done => .ok done
  | fuel + 1, k, done => do
    let e := bytesAt tbl (32 * k) 32
    let typ := numAt e 0 2
    let off := numAt e 8 8
    let len := numAt e 0x10 8
    let fmt := natBits (numAt e 2 2) 7 4
    let taken := [(0, 128), (h.table, h.table + 32 * h.count)] ++ done.map (fun b => (b.off, b.off + b.len))
    let many := match sectionLimit typ with
      | some n => decide (n ≤ (done.filter (fun b => b.typ = typ)).length)
      | none => true
    failIf (many || off % 64 ≠ 0 || decide (len < 64) || decide (off + len > h.size)
      || taken.any (fun q => decide (off < q.2) && decide (q.1 < off + len)) || !formatAllowed typ fmt) 0x04 k 0
    let hdr ← s.imgRead img k off 64
    let b : Body := { idx := k, typ := typ, pre := natBit (numAt e 2 2) 0, fmt := fmt, off := off, len := len, hdr := hdr,
                      arrays := [] }
    match b.fieldFault h.nvars with
    | some o => .error ⟨0x04, k, o, 0⟩
    | none =>
      failIf (!b.roomy (b.lens h.nvars h.nrep none)) 0x04 k 0
      State.loadTable s img h tbl fuel (k + 1) (done ++ [b])

/-! ### The system descriptor (R221, R235) -/

/-- Numbers of `n` bytes, in order. -/
def numsOf (n : Nat) (l : List Byte) : List Nat := (List.range (l.length / n)).map (fun i => numAt l (n * i) n)

/-- Each number is greater than the one before it. -/
def rising (l : List Nat) : Bool := (l.zip l.tail).all (fun q => decide (q.1 < q.2))

/-- Part `k` reaches part 0 by settle parents in at most `fuel` steps. -/
def reachesRoot (parents : List Nat) : Nat → Nat → Bool
  | _, 0 => true
  | 0, _ => false
  | fuel + 1, k => reachesRoot parents fuel (parents.getD k 0)

/-- The settle area is free: whole regions not fenced, and no other loaded problem's (R235). -/
def State.settleFree (s : State) (base : Nat) : Bool :=
  let a := base * 65536
  decide (a + 65536 ≤ 8 * s.regionLen) && !s.memFenced (a / s.regionLen) && !s.memFenced ((a + 65535) / s.regionLen)
    && !s.problems.any (fun p => match p.sys with
      | some y => decide (y.settleBase = base)
      | none => false)

/-- Read and check the descriptor; a check that fails, or a byte that cannot be read, names no section. -/
def State.loadSys (s : State) (a nvars : Nat) : Load SysDesc := do
  let h ← s.imgRead a 0xFFFF 0 64
  let parts := numAt h 8 2
  let part := numAt h 6 2
  let mode := numAt h 0x0A 1
  let po := numAt h 0x20 8
  let go := numAt h 0x28 8
  let eo := numAt h 0x30 8
  failIf (numAt h 0 4 ≠ 0x53595351 || numAt h 4 2 ≠ 1 || crc32c (h.take 0x3C) ≠ numAt h 0x3C 4
    || decide (parts < 2) || decide (parts > 4096) || decide (parts ≤ part) || !(mode = 1 || mode = 2)
    || po % 64 ≠ 0 || go % 64 ≠ 0 || eo % 64 ≠ 0) 0x04 0xFFFF 0
  let pt := numsOf 4 (← s.imgRead a 0xFFFF po (4 * parts))
  let gt := numsOf 8 (← s.imgRead a 0xFFFF go (8 * numAt h 0x14 4))
  let et := numsOf 8 (← s.imgRead a 0xFFFF eo (8 * numAt h 0x18 4))
  let parents := pt.map (fun w => natBits w 23 12)
  let ghosts := gt.map (fun w => ({ local_ := natBits w 23 0, owner := natBits w 35 24, index := natBits w 59 36 } : Ghost))
  let exports := et.map (fun w => (natBits w 23 0, natBits w 35 24))
  let children (k : Nat) : Nat := ((parents.zipIdx.filter (fun q => q.1 = k && q.2 ≠ 0))).length
  failIf (!rising (ghosts.map (fun g => g.owner * 2 ^ 24 + g.index))
    || !rising (exports.map (fun x => x.1 * 4096 + x.2))
    || ghosts.any (fun g => decide (nvars ≤ g.local_) || decide (parts ≤ g.owner) || decide (g.owner = part))
    || !decide ((ghosts.map (fun g => g.local_)).Nodup)
    || exports.any (fun x => decide (nvars ≤ x.1) || decide (parts ≤ x.2) || decide (x.2 = part)
        || ghosts.any (fun g => g.local_ = x.1))
    || parents.headD 0 ≠ 0 || !(List.range parts).all (reachesRoot parents parts)
    || (List.range parts).any (fun k => decide (children k > 7))
    || !s.settleFree (numAt h 0x38 4)) 0x04 0xFFFF 0
  return { part := part, locked := decide (mode = 2), sysRun := numAt h 0x0C 2, timeoutUs := numAt h 0x10 4,
           parts := (pt.map (fun w => natBits w 11 0)).zip parents, ghosts := ghosts, exports := exports,
           settleBase := numAt h 0x38 4 }

/-! ### Stage 3: the arrays -/

/-- The first pointer that R531 finds faulty among those read, of a pointer array of `n`. -/
def ptrFault (n : Nat) (p : List Nat) (count : Nat) : Option Nat :=
  (List.range p.length).find? (fun i => decide (if i = 0 then p.getD 0 0 ≠ 0 else p.getD i 0 < p.getD (i - 1) 0)
    || (decide (i + 1 = n) && decide (p.getD i 0 ≠ count)))

/-- Read arrays one after another (R65, R66): those read, the last up to the first byte that cannot be read, and the failure
of that byte. -/
def State.readArrays (s : State) (img sec base : Nat) : List (Nat × Nat) → List (List Byte) × Option LoadFail
  | [] => ([], none)
  | q :: rest => match s.firstBad false (img + base + q.1) q.2 with
    | some (a, _) => ([s.readBytes (img + base + q.1) (a - (img + base + q.1))], some ⟨0x12, sec, (a - img : Nat), 0⟩)
    | none =>
      let r := State.readArrays s img sec base rest
      (s.readBytes (img + base + q.1) q.2 :: r.1, r.2)

/-- The entries of a pointer array. -/
def Body.ptrCount (b : Body) : Nat := (if b.typ = 0x03 then b.num 4 4 else b.num 0 4) + 1

/-- Read the arrays of a body (R65); of an INIT bitmap the bytes that hold variables. The body with what was read, and the
failure of the first byte that cannot be read. -/
def State.loadArrays (s : State) (img : Nat) (h : ImgHead) (b : Body) : Load (Body × Option LoadFail) :=
  let rd (l : List (Nat × Nat)) : List (List Byte) × Option LoadFail := s.readArrays img b.idx b.off l
  if b.typ = 0x0B then
    let n := if natBit (b.num 0 1) 0 then 1 else h.nrep
    let r := rd ((List.range n).map (fun i => (64 + i * al64 (ceilDiv h.nvars 8), ceilDiv h.nvars 8)))
    .ok ({ b with arrays := r.1 }, r.2)
  else if b.typ = 0x03 && b.pre then
    let first := rd ((placeArrays 64 (b.lens h.nvars h.nrep none)).take 1)
    let p := numsOf 8 (first.1.headD [])
    match ptrFault b.ptrCount p (b.num 8 8), first.2 with
    | some i, _ => .error ⟨0x06, b.idx, i, 0⟩
    | none, some f => .error f
    | none, none => do
      let lens := b.lens h.nvars h.nrep (some p)
      failIf (!b.roomy lens) 0x04 b.idx 0
      let r := rd ((placeArrays 64 lens).drop 1)
      return ({ b with arrays := first.1 ++ r.1 }, r.2)
  else
    let r := rd (placeArrays 64 (b.lens h.nvars h.nrep none))
    .ok ({ b with arrays := r.1 }, r.2)

/-- Array `k` of a body. -/
def Body.arr (b : Body) (k : Nat) : List Byte := b.arrays.getD k []

/-- Mantissa `j` of a block's mantissa field (R51). -/
def mantAt (w j v : Nat) : Int := signedOf w (v >>> (w * j))

/-- The blocks of a quantised coefficient array (R70): exponent e and mantissas. -/
def preBlocks (fmt : Nat) (mants exps : List Byte) : List (Int × List Int) :=
  let f := storedFmt fmt
  let n := f.1 * f.2 / 8
  exps.zipIdx.map (fun q => ((q.1.toNat : Int) - 127,
    (List.range f.2).map (fun j => mantAt f.1 j (numAt mants (q.2 * n) n))))

/-- The coefficients of a quantised array whose rows have the given lengths, without the padding of their last
blocks: for each row its coefficients. -/
def preRows (bs : Nat) : List Nat → List (Int × List Int) → List (List Dy)
  | [], _ => []
  | n :: rest, blocks =>
    let nb := ceilDiv n bs
    ((blocks.take nb).flatMap (fun b => b.2.map (fun m => (⟨m, b.1⟩ : Dy)))).take n :: preRows bs rest (blocks.drop nb)

/-- The values of a coefficient array as the image gives them, none for NaN and the infinities: arrays from number `k`
on, rows of the given lengths. -/
def Body.given (b : Body) (k fmt : Nat) (rows : List Nat) : List (Option Dy) :=
  if b.pre then
    (preRows (storedFmt fmt).2 rows (preBlocks fmt (b.arr k) (b.arr (k + 1)))).flatten.map some
  else (numsOf 4 (b.arr k)).map fp32

/-- The arrays that one coefficient array takes. -/
def Body.step (b : Body) : Nat := if b.pre then 2 else 1

/-- row_ptr, or grp_ptr. -/
def Body.ptr (b : Body) : List Nat := numsOf (if b.typ = 0x03 then 8 else 4) (b.arr 0)

/-- The entries of a SPARSE section: entry number, target row, source, and the source before it in the row. -/
def Body.sparseEntries (b : Body) : List (Nat × Nat × Nat × Option Nat) :=
  let src := (numsOf 4 (b.arr 1)).map (fun w => natBits w 23 0)
  let p := b.ptr
  (List.range (p.length - 1)).flatMap (fun r =>
    let first := p.getD r 0
    let row := (src.drop first).take (p.getD (r + 1) 0 - first)
    row.zipIdx.map (fun q => (first + q.2, b.num 0 4 + r, q.1, if q.2 = 0 then none else row[q.2 - 1]?)))

/-- The values of a SPARSE section, entry by entry. -/
def Body.sparseGiven (b : Body) : List (Option Dy) := b.given 2 b.fmt ((rowLens b.ptr).map Prod.snd)

/-- The members of a HYPER section's terms. -/
def Body.terms (b : Body) : List (List Nat) :=
  let o := b.num 0 1
  let m := numsOf 4 (b.arr 0)
  (List.range (b.num 4 4)).map (fun t => (m.drop (o * t)).take o)

/-- The groups of an ONEHOT section. -/
def Body.groups (b : Body) : List (List Nat) :=
  let p := b.ptr
  let m := numsOf 4 (b.arr 1)
  (List.range (p.length - 1)).map (fun g => (m.drop (p.getD g 0)).take (p.getD (g + 1) 0 - p.getD g 0))

/-- The blocks of a PERM section. -/
def Body.permBlocks (b : Body) : List PermBlock :=
  (List.range (b.num 0 2)).map (fun k => ⟨numAt (b.arr 0) (8 * k) 4, numAt (b.arr 0) (8 * k + 4) 2⟩)

/-- A factor of a KRON section as given: its size, its values as a list of columns, and in a plain section their bits. -/
structure GivenFactor where
  n : Nat
  vals : List (Option Dy)
  bits : List Nat

/-- The factors of a KRON section: for each term, F and D. -/
def Body.factors (b : Body) : List GivenFactor :=
  (List.range (2 * b.num 8 1)).map (fun k =>
    let n := if k % 2 = 0 then b.num 4 2 else b.num 6 2
    ⟨n, b.given (k * b.step) b.fmt (List.replicate n n), if b.pre then [] else numsOf 4 (b.arr (k * b.step))⟩)

/-- β of an entry in the normalised form (R78). -/
def betaEntry (l : List Byte) (off : Nat) : Beta := Beta.norm ⟨numAt l off 2, intAt l (off + 2) 1⟩

/-- A SCHED section, its defaults taken (Tables 3.6, 3.7). -/
def Body.sched (b : Body) (nrep : Nat) : Sched :=
  let modes := b.num 1 1
  let pick (v d : Nat) : Nat := if v = 0 then d else v
  { rule := match b.num 0 1 with
      | 0 => .metropolis
      | 1 => .heatBath
      | 2 => .zeroTemp
      | _ => .greedy,
    relaxed := natBit modes 0, permuted := natBit modes 1, zeroTie := natBit modes 2, revert := natBit modes 3,
    exchange := natBit modes 4, sample := natBit modes 5, coloured := natBit modes 6, lag := b.num 2 1,
    epochBlocks := pick (b.num 4 2) 16, migrate := pick (b.num 6 2) 4, exchangeSweeps := b.num 8 4,
    threshold := pick (b.num 0xC 4) 16384, audit := b.num 0x10 4, refresh := b.num 0x14 4,
    segs := (List.range (b.num 0x18 2)).map (fun k =>
      ⟨betaEntry (b.arr 0) (12 * k), numAt (b.arr 0) (12 * k + 4) 4, numAt (b.arr 0) (12 * k + 8) 2⟩),
    reps := (List.range nrep).map (fun k =>
      ⟨decide (numAt (b.arr 1) (8 * k) 1 = 1), numAt (b.arr 1) (8 * k + 2) 2, numAt (b.arr 1) (8 * k + 4) 4⟩),
    ladder := (List.range (b.num 0x1A 2)).map (fun k => betaEntry (b.arr 2) (4 * k)),
    crc := crc32c (b.hdr ++ b.arrays.flatten) }

/-- The first `n` bytes of an array have been read. -/
def Body.hasRead (b : Body) (k n : Nat) : Bool := decide (n ≤ (b.arr k).length)

/-- The entry of a SCHED section that R79 names, of those read. -/
def Body.schedFaultAt (b : Body) (nrep : Nat) (colour : Bool) : Option Nat :=
  let rt := b.num 0xC 4
  let sc := b.num 0x18 2
  let lc := b.num 0x1A 2
  let modes := b.num 1 1
  if decide (b.num 0 1 > 3) || decide (b.num 2 1 > 2) || decide (b.num 4 2 > 256)
      || !(decide (rt = 0) || (decide (1024 ≤ rt) && decide (rt ≤ 32768))) || decide (sc = 0) || decide (sc > 4096)
      || decide (lc > 256) || (natBit modes 4 && decide (b.num 8 4 = 0)) || (natBit modes 6 && !colour) then some 0
  else
    let seg := (List.range sc).find? (fun k => b.hasRead 0 (12 * k + 12) &&
      (decide (numAt (b.arr 0) (12 * k + 4) 4 = 0) || decide (numAt (b.arr 0) (12 * k + 8) 2 > 0x8000)))
    let mode (r : Nat) : Nat := numAt (b.arr 1) (8 * r) 1
    let idx (r : Nat) : Nat := numAt (b.arr 1) (8 * r + 2) 2
    let rep := (List.range nrep).find? (fun r => b.hasRead 1 (8 * r + 8) && (decide (mode r > 1)
      || (decide (mode r = 1) && (decide (lc ≤ idx r)
      || (List.range r).any (fun q => decide (mode q = 1) && decide (idx q = idx r))))))
    match seg with
    | some k => some (1 + k)
    | none => rep.map (fun r => 1 + sc + r)

/-- The first offset of a range of variables that no coefficient may name: beyond var_count, or a ghost (R71, R224). -/
def badOffset (nvars : Nat) (ghost : Nat → Bool) (base n : Nat) : Option Nat :=
  (List.range n).find? (fun o => decide (nvars ≤ base + o) || ghost (base + o))

/-- The first entry of a factor that differs from its mirror (R44), of those read: in value, or in its bits where both are NaN or
an infinity, which stage 3 does not refuse yet (entry 131). -/
def asymAt (f : GivenFactor) : Option Nat :=
  (List.range (f.n * f.n)).find? (fun k =>
    let m := k % f.n * f.n + k / f.n
    match f.vals[k]?, f.vals[m]? with
    | some (some a), some (some b) => !a.eqv b
    | some none, some (some _) => true
    | some (some _), some none => true
    | some none, some none => decide (f.bits[k]? ≠ f.bits[m]?)
    | _, _ => false)

/-- The entry checks of one section (stage 3) that the bytes read decide (R66); `done` are the sections before it. An empty SPARSE
row, or an empty range, whose row or base lies at or above var_count names no variable, and the model takes it (entry 105). A
KRON range that leaves var_count is named at entry 0 (entry 132). -/
def Body.check (b : Body) (h : ImgHead) (ghost : Nat → Bool) (colour : Bool) (done : List Body) : Load Unit :=
  let bad (v : Nat) : Bool := decide (h.nvars ≤ v) || ghost v
  match b.typ with
  | 0x01 => failFirst b.idx (List.range h.nvars) (fun v =>
      if b.hasRead 0 (v + 1) && ghost v && natBit (numAt (b.arr 0) v 1) 0 then some (0x05, (v : Int)) else none)
  | 0x02 => failFirst b.idx (List.range (b.num 4 4)) (fun k =>
      let i := b.num 0 4 + k
      if bad i then some (0x05, (k : Int))
      else if done.any (fun c => c.typ = 0x02 && decide (c.num 0 4 ≤ i) && decide (i < c.num 0 4 + c.num 4 4)) then
        some (0x07, (k : Int))
      else none)
  | 0x03 =>
    match ptrFault b.ptrCount b.ptr (b.num 8 8) with
    | some i => .error ⟨0x06, b.idx, i, 0⟩
    | none =>
      let es := if b.ptr.length = b.ptrCount then b.sparseEntries else []
      let vals := b.sparseGiven
      failFirst b.idx es (fun e =>
        let row := e.2.1
        let src := e.2.2.1
        let prev := e.2.2.2
        if decide (h.nvars ≤ row) || decide (h.nvars ≤ src) || (ghost row && ghost src) then some (0x05, (e.1 : Int))
        else if prev = some src then some (0x07, (e.1 : Int))
        else if (!b.pre && decide (src < row)) || (match prev with
            | some q => decide (src < q)
            | none => false) then some (0x06, (e.1 : Int))
        else if b.pre then
          match es.find? (fun f => f.2.1 = src && f.2.2.1 = row) with
          | none => if b.hasRead 1 (4 * b.num 8 8) then some (0x08, (e.1 : Int)) else none
          | some f => match vals[e.1]?, vals[f.1]? with
            | some (some x), some (some y) => if x.eqv y then none else some (0x08, (e.1 : Int))
            | _, _ => none
        else none)
  | 0x04 => match badOffset h.nvars ghost (b.num 0 4) (b.num 4 4) with
    | some o => .error ⟨0x05, b.idx, (o / 64 * 4096 + o % 64 : Nat), 0⟩
    | none => .ok ()
  | 0x05 => match badOffset h.nvars ghost (b.num 0 4) (b.num 4 4) with
    | some o => .error ⟨0x05, b.idx, (o * b.num 8 2 : Nat), 0⟩
    | none => .ok ()
  | 0x06 => match badOffset h.nvars ghost (b.num 0 4) (b.num 4 2 * b.num 6 2) with
    | some _ => .error ⟨0x05, b.idx, 0, 0⟩
    | none =>
      let go := b.factors.foldl (fun (acc : Nat × Option Nat) f =>
        match acc.2 with
        | some _ => acc
        | none => (acc.1 + f.n * f.n, (asymAt f).map (· + acc.1))) (0, none)
      match go.2 with
      | some k => .error ⟨0x08, b.idx, k, 0⟩
      | none => .ok ()
  | 0x07 =>
    let ts := b.terms.filter (fun t => t.length = b.num 0 1)
    failFirst b.idx ts.zipIdx (fun q =>
      if q.1.any bad || !rising q.1 then some (0x05, (q.2 : Int))
      else if (ts.take q.2).contains q.1 then some (0x07, (q.2 : Int)) else none)
  | 0x08 =>
    match ptrFault b.ptrCount b.ptr (b.num 8 8) with
    | some i => .error ⟨0x06, b.idx, i, 0⟩
    | none => failFirst b.idx (numsOf 4 (b.arr 1)).zipIdx (fun q => if bad q.1 then some (0x05, (q.2 : Int)) else none)
  | 0x09 => failFirst b.idx b.permBlocks.zipIdx (fun q =>
      if b.hasRead 0 (8 * q.2 + 8) && (badOffset h.nvars ghost q.1.base (q.1.n * q.1.n)).isSome then some (0x05, (q.2 : Int))
      else none)
  | 0x0A => match b.schedFaultAt h.nrep colour with
    | some k => .error ⟨0x0E, b.idx, k, 0⟩
    | none => .ok ()
  | _ => .ok ()

/-- Stage 3 for a list of sections: of each, what can be read of its arrays, the checks that those bytes decide, then a byte that
cannot be read (R65, R66). -/
def State.loadBodies (s : State) (img : Nat) (h : ImgHead) (ghost : Nat → Bool) (colour : Bool) :
    List Body → List Body → Load (List Body)
  | [], done => .ok done
  | b :: rest, done => do
    let r ← s.loadArrays img h b
    r.1.check h ghost colour done
    match r.2 with
    | some f => .error f
    | none => State.loadBodies s img h ghost colour rest (done ++ [r.1])

/-- An image as read: header, sections, descriptor. -/
structure Image where
  head : ImgHead
  bodies : List Body
  sys : Option SysDesc
  crc : Nat

/-- The variable is a ghost of the part (R223). -/
def isGhost (y : Option SysDesc) (v : Nat) : Bool :=
  match y with
  | some d => d.ghosts.any (fun g => g.local_ = v)
  | none => false

/-- Stages 1 to 3. -/
def State.loadImage (s : State) (img desc : Nat) (h : ImgHead) : Load Image := do
  let tbl ← s.imgRead img 0xFFFF h.table (32 * h.count)
  let bs ← s.loadTable img h tbl h.count 0 []
  failIf (!bs.any (fun b => b.typ = 0x0A)) 0x04 0xFFFF 0
  let y ← if desc = 0 then Except.ok none else (s.loadSys desc h.nvars).map some
  let bodies ← s.loadBodies img h (isGhost y) (bs.any (fun b => b.typ = 0x0D)) bs []
  return { head := h, bodies := bodies, sys := y,
           crc := crc32c (h.bytes ++ tbl ++ bs.flatMap (fun b => b.hdr) ++ bodies.flatMap (fun b => b.arrays.flatten)) }

end Sys2Proof.Machine
end

