-- ==== Sys2Proof/Machine/Quantise.lean ====
section
/-! DEFINITION. Stage 4 of the loader: quantising the coefficients of every section (R54, R55, R59, R532), the folds (R40),
the bound B and the field exponent (R56, R57), and the statistics of the load report (R58).
-/

namespace Sys2Proof.Machine

/-- The statistics of one section (Table 2.4): the blocks with their exponents, the non-zero coefficients that the
count below e_f takes from each, and whether a mantissa is non-zero. -/
structure CoefStats where
  quantised : Nat
  inexact : Nat
  toZero : Nat
  err : Dy
  blocks : List (Int × Nat × Bool)
deriving Inhabited

/-- No coefficient. -/
def CoefStats.none : CoefStats := ⟨0, 0, 0, Dy.zero, []⟩

/-- Both. -/
def CoefStats.add (a b : CoefStats) : CoefStats :=
  ⟨a.quantised + b.quantised, a.inexact + b.inexact, a.toZero + b.toZero, a.err.max b.err, a.blocks ++ b.blocks⟩

/-- The exponent and the mantissas of a block (R54, R55). -/
def quantBlock (sec blk w : Nat) (l : List Dy) : Load (Int × List Int) :=
  match blockExp w l with
  | none => .ok (-127, l.map (fun _ => 0))
  | some e =>
    if e > 128 then .error ⟨0x0D, sec, blk, 0⟩
    else .ok (max e (-127), l.map (fun x => x.roundEvenAt (max e (-127))))

/-- The rounding error of a value rounded to `m` units of 2^e, as a fraction of the unit. -/
def roundErr (x : Dy) (m e : Int) : Dy := ((x.shift (-e)).sub ⟨m, 0⟩).abs

/-- The statistics of values rounded to mantissas of one exponent. -/
def statsOf (l : List (Dy × Int)) (e : Int) : CoefStats :=
  let errs := l.map (fun q => (q, roundErr q.1 q.2 e))
  { quantised := l.length, inexact := (errs.filter (fun q => q.2.m ≠ 0)).length,
    toZero := (l.filter (fun q => q.1.m ≠ 0 && q.2 = 0)).length, err := errs.foldl (fun m q => m.max q.2) Dy.zero,
    blocks := [(e, (l.filter (fun q => q.2 ≠ 0)).length, l.any (fun q => q.2 ≠ 0))] }

/-- Quantise one block of a section: its coefficients, each with whether it is read (R74); entry and block numbers are
those of its first coefficient. A pre-quantised block is taken as it is (R59). -/
def quantChunk (pre : Bool) (w sec entry blk : Nat) (l : List (Bool × Option Dy)) : Load (List Dy × CoefStats) :=
  let live := l.filter Prod.fst
  if pre then
    let vals := l.map (fun q => if q.1 then q.2.getD Dy.zero else Dy.zero)
    let e := ((l.head?.bind Prod.snd).getD Dy.zero).e
    let nz := (vals.filter (fun v => v.m ≠ 0)).length
    .ok (vals, { CoefStats.none with blocks := [(e, nz, decide (nz ≠ 0))] })
  else
    match (l.zipIdx.find? (fun q => q.1.1 && q.1.2.isNone)).map Prod.snd with
    | some k => .error ⟨0x0C, sec, (entry + k : Nat), 0⟩
    | none => do
      let xs := live.map (fun q => q.2.getD Dy.zero)
      let r ← quantBlock sec blk w xs
      let all := l.map (fun q => if q.1 then (⟨(q.2.getD Dy.zero).roundEvenAt r.1, r.1⟩ : Dy) else Dy.zero)
      return (all, statsOf (xs.zip r.2) r.1)

/-- Quantise blocks one after another. -/
def quantChunks (pre : Bool) (w sec : Nat) :
    Nat → Nat → List (List (Bool × Option Dy)) → Load (List Dy × CoefStats)
  | _, _, [] => .ok ([], CoefStats.none)
  | entry, blk, c :: rest => do
    let a ← quantChunk pre w sec entry blk c
    let b ← quantChunks pre w sec (entry + c.length) (blk + 1) rest
    return (a.1 ++ b.1, a.2.add b.2)

/-- Cut a list into rows of the given lengths. -/
def cutRows {α : Type} : List Nat → List α → List (List α)
  | [], _ => []
  | n :: rest, l => l.take n :: cutRows rest (l.drop n)

/-- The blocks of rows (R52). -/
def rowChunks {α : Type} (bs : Nat) (rows : List (List α)) : List (List α) := rows.flatMap (fun r => chunks bs r.length r)

/-- Quantise the coefficient array `k` of a body: rows of the given lengths, in a stored format; `live` tells which
coefficients are read. -/
def Body.quant (b : Body) (k fmt entry blk : Nat) (rows : List Nat) (live : Nat → Bool) : Load (List Dy × CoefStats) :=
  let f := storedFmt fmt
  let given := (b.given k fmt rows).zipIdx.map (fun q => (live q.2, q.1))
  quantChunks b.pre f.1 b.idx entry blk (rowChunks f.2 (cutRows rows given))

/-! ### FP32 SPARSE sections (R72, R532) -/

/-- A pair of an FP32 SPARSE section. -/
structure FpPair where
  lo : Nat
  hi : Nat
  c : Dy
deriving Inhabited

/-- The stored blocks of the pairs: target row, source and pair number of each entry, rows in increasing target, sources
increasing (R52). -/
def storedBlocks (pairs : List FpPair) : List (List (Nat × Nat × Nat)) :=
  let key (t s q : Nat) : Nat := (t * 2 ^ 24 + s) * 2 ^ 48 + q
  let keys := sortNats (pairs.zipIdx.flatMap (fun p => [key p.1.lo p.1.hi p.2, key p.1.hi p.1.lo p.2]))
  let entries := keys.map (fun k => (k / 2 ^ 72, k / 2 ^ 48 % 2 ^ 24, k % 2 ^ 48))
  let targets := (entries.map Prod.fst).dedup
  targets.flatMap (fun t =>
    let row := entries.filter (fun e => e.1 = t)
    chunks 32 row.length row)

/-- e_p of a pair: the greater exponent of the blocks that hold it. -/
def pairExp (blocks : List (List (Nat × Nat × Nat))) (es : List Int) (q : Nat) : Int :=
  (blocks.zip es).foldl (fun m be => if be.1.any (fun e => e.2.2 = q) then max m be.2 else m) (-127)

/-- The loop of R532: exponents raised until every mantissa fits, at most `fuel` rounds. -/
def sparseLoop (sec w : Nat) (pairs : List FpPair) (blocks : List (List (Nat × Nat × Nat))) :
    Nat → List Int → Load (List Int)
  | 0, es => .ok es
  | fuel + 1, es =>
    let ep := (List.range pairs.length).map (pairExp blocks es)
    let rp := (pairs.zip ep).map (fun q => q.1.c.roundEvenAt q.2)
    let next := (blocks.zip es).map (fun be =>
      if be.1.any (fun e => !mantFits w (rp.getD e.2.2 0 * 2 ^ ((ep.getD e.2.2 0 - be.2).toNat))) then be.2 + 1 else be.2)
    match next.findIdx? (fun e => decide (e > 128)) with
    | some k => .error ⟨0x0D, sec, k, 0⟩
    | none => if next = es then .ok es else sparseLoop sec w pairs blocks fuel next

/-- The first exponents of the stored blocks. -/
def firstExps (sec w : Nat) (pairs : List FpPair) : Nat → List (List (Nat × Nat × Nat)) → Load (List Int)
  | _, [] => .ok []
  | k, b :: rest => do
    let r ← quantBlock sec k w (b.map (fun e => (pairs.getD e.2.2 default).c))
    let more ← firstExps sec w pairs (k + 1) rest
    return r.1 :: more

/-- The folded couplings J_ii, each a block of its own (R40). -/
def quantFolds (sec w : Nat) : Nat → List (Nat × Dy) → Load (List (Nat × Dy) × CoefStats)
  | _, [] => .ok ([], CoefStats.none)
  | k, (i, c) :: rest => do
    let r ← quantBlock sec k w [c]
    let more ← quantFolds sec w (k + 1) rest
    return ((i, ⟨r.2.headD 0, r.1⟩) :: more.1, (statsOf [(c, r.2.headD 0)] r.1).add more.2)

/-- Quantise an FP32 SPARSE section: its stored entries and its folds. -/
def Body.quantSparse (b : Body) : Load (List SparseEntry × List (Nat × Dy) × CoefStats) := do
  let w := (storedFmt b.fmt).1
  let given := b.sparseEntries.zip b.sparseGiven
  match (given.find? (fun q => q.2.isNone)).map (fun q => q.1.1) with
  | some k => .error ⟨0x0C, b.idx, k, 0⟩
  | none =>
    let vals := given.map (fun q => (q.1.2.1, q.1.2.2.1, q.2.getD Dy.zero))
    let pairs := (vals.filter (fun q => q.1 ≠ q.2.1)).map (fun q => (⟨q.1, q.2.1, q.2.2⟩ : FpPair))
    let diag := (vals.filter (fun q => q.1 = q.2.1)).map (fun q => (q.1, q.2.2))
    let blocks := storedBlocks pairs
    let es0 ← firstExps b.idx w pairs 0 blocks
    let es ← sparseLoop b.idx w pairs blocks (260 * blocks.length + 1) es0
    let ep := (List.range pairs.length).map (pairExp blocks es)
    let rp := (pairs.zip ep).map (fun q => q.1.c.roundEvenAt q.2)
    let low (q : Nat) : Option Nat := ((blocks.zip es).zipIdx.filter (fun x => x.1.1.any (fun e => e.2.2 = q))).foldl
      (fun (m : Option (Int × Nat)) x => match m with
        | some y => if x.1.2 < y.1 then some (x.1.2, x.2) else m
        | none => some (x.1.2, x.2)) none |>.map Prod.snd
    let entries := (blocks.zip es).flatMap (fun be => be.1.map (fun e =>
      ({ row := e.1, src := e.2.1, c := ⟨rp.getD e.2.2 0 * 2 ^ ((ep.getD e.2.2 0 - be.2).toNat), be.2⟩ } : SparseEntry)))
    let per := ((pairs.zip rp).zip ep).map (fun q => statsOf [(q.1.1.c, q.1.2)] q.2)
    let sums := per.foldl CoefStats.add CoefStats.none
    let bl := (blocks.zip es).zipIdx.map (fun x =>
      let nz := x.1.1.filter (fun e => rp.getD e.2.2 0 ≠ 0)
      (x.1.2, (nz.filter (fun e => low e.2.2 = some x.2)).length, !nz.isEmpty))
    let folds ← quantFolds b.idx w blocks.length diag
    return (entries, folds.1, CoefStats.add { sums with blocks := bl } folds.2)

/-! ### The problem -/

/-- A problem of which nothing but the header is known. -/
def Problem.start (h : ImgHead) (crc : Nat) (sys : Option SysDesc) : Problem :=
  { id := 0, freeing := false, lost := false, replaced := [], imageCrc := crc, ising := h.ising, nvars := h.nvars,
    nrep := h.nrep, e0 := h.e0, lins := [], folds := [], sparses := [], denses := [], lowranks := [], krons := [],
    hypers := [], onehots := [], perms := [], clamped := [], scheds := [], init := none, groups := [], colours := none,
    windows := 1, order := [0], ef := 0, efComputed := 0, belowEf := false, sys := sys, placed := [], recovery := true,
    rebuild := false,
    ckptUnits := 0, tiles := [], stateArr := [], bestArr := [] }

/-- Fold couplings J_ii (R40): into h_i in QUBO form, into E_0 in Ising form. -/
def foldInto (p : Problem) (l : List (Nat × Dy)) : Problem :=
  let l := l.filter (fun q => q.2.m ≠ 0)
  if p.ising then { p with e0 := p.e0.add (Dy.sum (l.map Prod.snd)) } else { p with folds := p.folds ++ l }

/-- The tiles (I, J), I ≤ J, of a dense section over `nt` tile rows. -/
def denseTiles (nt : Nat) : List (Nat × Nat) :=
  (List.range nt).flatMap (fun i => (List.range (nt - i)).map (fun k => (i, i + k)))

/-- The indexes within the section of coefficient `k` of a dense section. -/
def densePos (tiles : List (Nat × Nat)) (k : Nat) : Nat × Nat :=
  let t := tiles.getD (k / 4096) (0, 0)
  (64 * t.1 + k / 64 % 64, 64 * t.2 + k % 64)

/-- The statistics of a pre-quantised SPARSE section: a pair counts once below e_f, as in an FP32 one, in the block of its lower
exponent (Table 3.10). -/
def sparseStats (all : List ((Nat × Nat × Nat × Option Nat) × Dy)) (st : CoefStats) : CoefStats :=
  let row (q : (Nat × Nat × Nat × Option Nat) × Dy) : Nat := q.1.2.1
  let src (q : (Nat × Nat × Nat × Option Nat) × Dy) : Nat := q.1.2.2.1
  let first (q : (Nat × Nat × Nat × Option Nat) × Dy) : Bool :=
    match all.find? (fun o => row o = src q && src o = row q) with
    | some o => decide (q.2.e < o.2.e) || (decide (q.2.e = o.2.e) && decide (row q < src q))
    | none => true
  let counted := all.filter (fun q => !(q.2.m == 0) && (decide (row q = src q) || first q))
  { st with blocks := st.blocks.map (fun q => (q.1, 0, q.2.2)) ++ counted.map (fun q => (q.2.e, 1, true)) }

/-- Add one section to the problem (stage 4), with its statistics. A diagonal entry of a DENSE section is quantised in its tile
row's block, before it is folded (entry 57). -/
def addSection (p : Problem) (b : Body) : Load (Problem × CoefStats) := do
  let every : Nat → Bool := fun _ => true
  match b.typ with
  | 0x01 =>
    return ({ p with clamped := (List.range p.nvars).filter (fun v => natBit (numAt (b.arr 0) v 1) 0) }, CoefStats.none)
  | 0x02 =>
    let r ← b.quant 0 b.fmt 0 0 [b.num 4 4] every
    return ({ p with lins := p.lins ++ [⟨b.num 0 4, r.1⟩] }, r.2)
  | 0x03 =>
    if b.pre then
      let r ← b.quant 2 b.fmt 0 0 ((rowLens b.ptr).map Prod.snd) every
      let all := b.sparseEntries.zip r.1
      let off := (all.filter (fun q => q.1.2.1 ≠ q.1.2.2.1)).map (fun q =>
        ({ row := q.1.2.1, src := q.1.2.2.1, c := q.2 } : SparseEntry))
      let diag := (all.filter (fun q => q.1.2.1 = q.1.2.2.1)).map (fun q => (q.1.2.1, q.2))
      return (foldInto { p with sparses := p.sparses ++ [off] } diag, sparseStats all r.2)
    else
      let r ← b.quantSparse
      return (foldInto { p with sparses := p.sparses ++ [r.1] } r.2.1, r.2.2)
  | 0x04 =>
    let nt := b.num 4 4 / 64
    let tiles := denseTiles nt
    let r ← b.quant 0 b.fmt 0 0 (List.replicate (64 * tiles.length) 64)
      (fun k => decide ((densePos tiles k).1 ≤ (densePos tiles k).2))
    let all := (r.1.zipIdx.filter (fun q => q.1.m ≠ 0)).map (fun q => (densePos tiles q.2, q.1))
    let off := (all.filter (fun q => q.1.1 ≠ q.1.2)).map (fun q =>
      ({ row := b.num 0 4 + q.1.1, src := b.num 0 4 + q.1.2, c := q.2 } : SparseEntry))
    let diag := (all.filter (fun q => q.1.1 = q.1.2)).map (fun q => (b.num 0 4 + q.1.1, q.2))
    return (foldInto { p with denses := p.denses ++ [⟨b.num 0 4, b.num 4 4, off⟩] } diag, r.2)
  | 0x05 =>
    let n := b.num 4 4
    let k := b.num 8 2
    let u ← b.quant 0 b.fmt 0 0 (List.replicate n k) every
    let s ← b.quant b.step 3 (n * k) (n * ceilDiv k (storedFmt b.fmt).2) [k] every
    let st := u.2.add s.2
    return ({ p with lowranks := p.lowranks ++ [⟨b.num 0 4, n, k, cutRows (List.replicate n k) u.1, s.1, 0⟩] },
      { st with blocks := st.blocks.map (fun q => (q.1, 0, q.2.2)) })
  | 0x06 =>
    let n := b.num 4 2
    let m := b.num 6 2
    let factor (i k entry blk : Nat) : Load (List (List Dy) × CoefStats) := do
      let r ← b.quant (i * b.step) b.fmt entry blk (List.replicate k k) every
      return (cutRows (List.replicate k k) r.1, r.2)
    let bl (k : Nat) : Nat := k * ceilDiv k (storedFmt b.fmt).2
    let parts ← (List.range (b.num 8 1)).mapM (fun t => do
      let f ← factor (2 * t) n (t * (n * n + m * m)) (t * (bl n + bl m))
      let d ← factor (2 * t + 1) m (t * (n * n + m * m) + n * n) (t * (bl n + bl m) + bl n)
      return ((⟨f.1, d.1⟩ : KronTerm), f.2.add d.2))
    let st := (parts.map Prod.snd).foldl CoefStats.add CoefStats.none
    return ({ p with krons := p.krons ++ [⟨b.num 0 4, n, m, parts.map Prod.fst⟩] },
      { st with blocks := st.blocks.map (fun q => (q.1, 0, q.2.2)) })
  | 0x07 =>
    let r ← b.quant 1 b.fmt 0 0 [b.num 4 4] every
    return ({ p with hypers := p.hypers ++ (b.terms.zip r.1).map (fun q => ⟨q.1, q.2⟩) }, r.2)
  | 0x08 => return ({ p with onehots := p.onehots ++ b.groups }, CoefStats.none)
  | 0x09 => return ({ p with perms := p.perms ++ b.permBlocks }, CoefStats.none)
  | 0x0A => return ({ p with scheds := p.scheds ++ [b.sched p.nrep] }, CoefStats.none)
  | 0x0B => return ({ p with init := some (b.arrays.map leNat) }, CoefStats.none)
  | 0x0D => return ({ p with colours := some (numsOf 1 (b.arr 0)) }, CoefStats.none)
  | _ => return (p, CoefStats.none)

/-- Stage 4 for a list of sections. -/
def addSections : List Body → Problem → List CoefStats → Load (Problem × List CoefStats)
  | [], p, st => .ok (p, st)
  | b :: rest, p, st => do
    let r ← addSection p b
    addSections rest r.1 (st ++ [r.2])

/-- B_i of R56. -/
def boundOf (p : Problem) (i : Nat) : Dy :=
  let lin := p.lins.map (fun s => if s.base ≤ i && i < s.base + s.h.length then (s.h.getD (i - s.base) Dy.zero).abs else Dy.zero)
  let fold := (p.folds.filter (fun f => f.1 = i)).map (fun f => f.2.abs)
  let stored := (p.into i).map (fun e => e.2.abs)
  let hyp := (p.hyperOf i).map (fun h => h.c.abs)
  let low := (p.lowranks.filter (fun s => s.has i)).map (fun s =>
    (Dy.sum (((s.row i).zip s.sigma).zipIdx.map (fun q => (q.1.1.abs.mul q.1.2.abs).mul
      (Dy.sum (s.u.map (fun r => (r.getD q.2 Dy.zero).abs)))))).add (s.diag i).abs)
  let kr := (p.krons.filter (fun s => s.has i)).map (fun s =>
    let a := (i - s.base) % s.m
    let r := (i - s.base) / s.m
    (Dy.sum (s.terms.map (fun t =>
      (Dy.sum ((List.range s.n).map (fun j => (colEntry t.f r j).abs))).mul
        (Dy.sum ((List.range s.m).map (fun c => (colEntry t.d a c).abs)))))).add (s.diag i).abs)
  Dy.sum (lin ++ fold ++ stored ++ hyp ++ low ++ kr)

/-- The smallest e with B ≤ 2^(30 + e); 0 when B is 0 (R56). -/
def expFor (b : Dy) : Int :=
  if b.m ≤ 0 then 0
  else
    let n := b.m.natAbs
    let up : Nat := if n = 1 then 0 else Nat.log2 (n - 1) + 1
    (up : Int) + b.e - 30

/-- B of R56 over the variables that have a field. -/
def problemBound (p : Problem) : Dy :=
  ((List.range p.nvars).filter (fun v => !isGhost p.sys v)).foldl (fun m i => m.max (boundOf p i)) Dy.zero

/-- e_z of a low-rank section (R43). -/
def withEz (s : LowRank) : LowRank :=
  { s with ez := expFor ((List.range s.k).foldl (fun m t => m.max (Dy.sum (s.u.map (fun r => (r.getD t Dy.zero).abs)))) Dy.zero) }

/-- What stage 4 leaves: the problem without its layout, B, and the statistics. -/
structure Quantised where
  p : Problem
  bound : Dy
  stats : List CoefStats

/-- Coefficients of a section counted below e_f. -/
def CoefStats.below (st : CoefStats) (ef : Int) : Nat := ((st.blocks.filter (fun q => decide (q.1 < ef))).map (fun q => q.2.1)).sum

/-- Stage 4 but for the range of e_f. -/
def Image.quantise (im : Image) : Load Quantised := do
  let r ← addSections im.bodies (Problem.start im.head im.crc im.sys) []
  let p := { r.1 with lowranks := r.1.lowranks.map withEz }
  let b := problemBound p
  let ec := expFor b
  let ef := im.head.override.getD ec
  return { p := { p with ef := ef, efComputed := ec, belowEf := r.2.any (fun st => decide (st.below ef ≠ 0)) }, bound := b,
           stats := r.2 }

/-- The e_f in use lies in its range (R57). -/
def Quantised.inRange (z : Quantised) : Load Unit :=
  failIf (decide (z.p.ef < -160) || decide (z.p.ef > 160)) 0x0D 0xFFFF z.p.ef

end Sys2Proof.Machine
end

