-- ==== Sys2Proof/Machine/Layout.lean ====
section
/-! DEFINITION. Stages 5 and 6 of the loader: components and the automatic partition (R81), windows (R203, R218), groups of
64 (R82) with the slots reserved for row migration (R152), and the checks of layout and initial state (R46, R48, R49,
R80, R83, R214).
-/

namespace Sys2Proof.Machine

/-- Where a variable lies: window and span; none for a ghost (R223). -/
abbrev Assign := List (Option (Nat × Nat))

/-- The place of a variable. -/
def placeOf (a : Assign) (v : Nat) : Option (Nat × Nat) := (a[v]?).join

/-! ### Components (R81) -/

/-- The sets of variables that a component keeps together. -/
def tiesOf (p : Problem) : List (List Nat) :=
  p.hypers.map (fun h => h.members) ++ p.onehots ++
    p.perms.flatMap (fun b => (List.range b.n).map (fun i => (List.range b.n).map (fun a => b.base + i * b.n + a)))

/-- Join the components of a set: each takes the smallest root. -/
def joinRoots (roots : List Nat) (set : List Nat) : List Nat :=
  let rs := set.map (fun v => roots.getD v v)
  match rs with
  | [] => roots
  | r :: rest =>
    let m := rest.foldl min r
    roots.map (fun x => if rs.contains x then m else x)

/-- The components, in increasing order of their smallest member, ghosts left out. -/
def componentsOf (p : Problem) : List (List Nat) :=
  let roots := (tiesOf p).foldl joinRoots (List.range p.nvars)
  let vars := (List.range p.nvars).filter (fun v => !isGhost p.sys v)
  (vars.filter (fun v => roots.getD v v = v)).map (fun r => vars.filter (fun v => roots.getD v v = r))

/-! ### The automatic partition and windows -/

/-- Steps 3 and 4 of R81, and step 3 of R218: components to bins in turn, `bins` bins of a target size, bin `cur` holding
`held` variables. A component larger than the target stays in an empty current bin, and the last bin takes all that remains
beyond the target: R81 states both for spans, R218 neither for windows (DESIGN CHOICE, entry 134). -/
def fillBins (target bins : Nat) : List (List Nat) → Nat → Nat → List (List Nat × Nat)
  | [], _, _ => []
  | c :: rest, cur, held =>
    if decide (0 < held) && decide (held + c.length > target) && decide (cur + 1 < bins) then
      (c, cur + 1) :: fillBins target bins rest (cur + 1) c.length
    else (c, cur) :: fillBins target bins rest cur (held + c.length)

/-- The spans of the components of one window (R81, R439). -/
def partition (live : List Nat) (comps : List (List Nat)) : List (List Nat × Nat) :=
  let n := (comps.map List.length).sum
  let t := al64 (ceilDiv n (max 1 live.length))
  (fillBins t live.length comps 0 0).map (fun q => (q.1, live.getD q.2 0))

/-- The assignment that a list of components with their windows and spans gives. -/
def assignOf (nvars : Nat) (l : List (List Nat × Nat × Nat)) : Assign :=
  let st : Store (Option (Nat × Nat)) := l.foldl (fun acc q => q.1.foldl (fun a v => Store.put none v (some q.2) a) acc) []
  (List.range nvars).map (fun v => Store.get none v st)

/-- The automatic partition of a resident problem. -/
def autoAssign (p : Problem) (live : List Nat) : Assign :=
  assignOf p.nvars ((partition live (componentsOf p)).map (fun q => (q.1, 0, q.2)))

/-- The windows of R218 for a window count; the target counts every variable, ghosts too. -/
def windowAssign (p : Problem) (live : List Nat) (nw : Nat) : Assign :=
  let bins := fillBins (ceilDiv p.nvars nw) nw (componentsOf p) 0 0
  assignOf p.nvars ((List.range nw).flatMap (fun w =>
    (partition live ((bins.filter (fun q => q.2 = w)).map Prod.fst)).map (fun q => (q.1, w, q.2))))

/-! ### Groups (R82) -/

/-- The groups of one window in one span, in order. -/
def spanGroups (p : Problem) (a : Assign) (w n : Nat) : List GroupRow :=
  let vs := (List.range p.nvars).filter (fun v => placeOf a v = some (w, n))
  let parts := match p.colours with
    | none => [(0, vs)]
    | some c => (sortNats ((vs.map (fun v => c.getD v 0)).dedup)).map (fun k => (k, vs.filter (fun v => c.getD v 0 = k)))
  let gs := parts.flatMap (fun q => (chunks 64 q.2.length q.2).map (fun g => (q.1, g)))
  gs.zipIdx.map (fun q => ({ window := w, span := n, index := q.2, colour := q.1.1, vars := q.1.2 } : GroupRow))

/-- Every group of a window, with the groups that row migration needs (R152): those hold no variable at load, follow the
blocks of the span's last colour and take that colour (entry 27). -/
def windowGroups (p : Problem) (a : Assign) (w : Nat) : List GroupRow :=
  let gs := spanIds.flatMap (fun n => spanGroups p a w n)
  gs ++ spanIds.flatMap (fun n =>
    let top := ((gs.filter (fun g => g.span = n)).map (fun g => g.colour)).foldl max 0
    (reservedGroups gs p.perms n).map (fun k => ({ window := w, span := n, index := k, colour := top, vars := [] } : GroupRow)))

/-- The slots of one window in one span (R205). -/
def slotsIn (p : Problem) (gs : List GroupRow) (w n : Nat) : Nat :=
  (gs.filter (fun g => g.window = w && g.span = n)).length * p.nrep * 64

/-- Slots of a span. -/
def spanSlots : Nat := 1048576

/-- The largest excess of a span's slots in any window (R205, R219). -/
def slotExcess (p : Problem) (gs : List GroupRow) (windows : Nat) : Nat :=
  ((List.range windows).flatMap (fun w => spanIds.map (fun n => slotsIn p gs w n - spanSlots))).foldl max 0

/-- A layout: the assignment, the window count, the order and the groups. -/
structure Layout where
  assign : Assign
  windows : Nat
  order : List Nat
  groups : List GroupRow

/-- The layout of an assignment. -/
def layoutOf (p : Problem) (a : Assign) (windows : Nat) (order : List Nat) : Layout :=
  ⟨a, windows, order, (List.range windows).flatMap (windowGroups p a)⟩

/-- Variable-replica slots of the module (Table 2.5). -/
def moduleSlots : Nat := 16777216

/-- The slots that the problem's layout needs: its variables, ghosts left out (they take none, R223), times its replicas. -/
def slotsNeeded (p : Problem) : Nat := ((List.range p.nvars).filter (fun v => !isGhost p.sys v)).length * p.nrep

/-- The layout fits the slots (R205), and without windows the module's slots. -/
def fitsSlots (p : Problem) (l : Layout) : Bool :=
  decide (slotExcess p l.groups l.windows = 0) && (decide (1 < l.windows) || decide (slotsNeeded p ≤ moduleSlots))

/-- Windows formed with `nw` windows or more (R218). -/
def formWindows (p : Problem) (live : List Nat) : Nat → Nat → Option Layout
  | 0, _ => none
  | fuel + 1, nw =>
    if nw > 4096 then none
    else
      let l := layoutOf p (windowAssign p live nw) nw (List.range nw)
      if fitsSlots p l then some l else formWindows p live fuel (nw + 1)

/-! ### Stage 5 -/

/-- The map of a PART section. -/
def partAssign (p : Problem) (b : Body) : Assign :=
  (List.range p.nvars).map (fun v =>
    let w := numAt (b.arr 0) (4 * v) 4
    if isGhost p.sys v then none else some (natBits w 15 4, natBits w 3 0))

/-- The checks of a PART section (R80, R439). With a window missing from the order and an order entry out of range, the model
reports the entry (entry 106). -/
def partCheck (p : Problem) (fenced : Nat → Bool) (b : Body) : Load Unit :=
  let wc := b.num 0 2
  let order := numsOf 2 (b.arr 1)
  let a := partAssign p b
  match (List.range p.nvars).find? (fun v => match placeOf a v with
      | some q => decide (max 1 wc ≤ q.1) || fenced q.2
      | none => false) with
  | some v => .error ⟨0x0F, b.idx, v, 0⟩
  | none =>
    match order.findIdx? (fun w => decide (max 1 wc ≤ w)) with
    | some k => .error ⟨0x0F, b.idx, k, 2⟩
    | none => match (List.range wc).find? (fun w => !order.contains w) with
      | some w => .error ⟨0x0F, b.idx, w, 1⟩
      | none => .ok ()

/-- All variables of a list lie in one span. -/
def oneSpan (a : Assign) (l : List Nat) : Bool := ((l.map (fun v => (placeOf a v).map Prod.snd)).dedup).length ≤ 1

/-- All variables of a list lie in one window. -/
def oneWindow (a : Assign) (l : List Nat) : Bool := ((l.map (fun v => (placeOf a v).map Prod.fst)).dedup).length ≤ 1

/-- The first set of a list that breaks R48: too small, split, or a variable already in a group. -/
def groupFault (ok : List Nat → List Nat → Bool) : List (List Nat) → List Nat → Nat → Option Nat × List Nat
  | [], seen, _ => (none, seen)
  | g :: rest, seen, k => if ok g seen then groupFault ok rest (seen ++ g) (k + 1) else (some k, seen)

/-- The rows of a permutation block. -/
def permRows (b : PermBlock) : List (List Nat) :=
  (List.range b.n).map (fun i => (List.range b.n).map (fun c => b.base + i * b.n + c))

/-- The variable is joined to another of its colour, or its colour is out of range (R83). Of a joined pair the model names the
lower variable (entry 106). -/
def colourFault (p : Problem) (count : Nat) (c : List Nat) (v : Nat) : Bool :=
  decide (count ≤ c.getD v 0) ||
    (List.range p.nvars).any (fun j => decide (j ≠ v) && decide (c.getD j 0 = c.getD v 0)
      && (decide ((p.pair v j).m ≠ 0) || p.sameHyper v j))

/-- Stage 5 for a list of sections: `seen` are the variables of the groups so far. A one-hot group that lists one member twice
fails the load with GROUP_LAYOUT as well: the spec names no status for it (DESIGN CHOICE, entry 135). -/
def layoutChecks (p : Problem) (fenced : Nat → Bool) (a : Assign) : List Body → List Nat → Load Unit
  | [], _ => .ok ()
  | b :: rest, seen =>
    match b.typ with
    | 0x0C => do
      partCheck p fenced b
      layoutChecks p fenced a rest seen
    | 0x07 => do
      failFirst b.idx b.terms.zipIdx (fun q => if oneSpan a q.1 then none else some (0x09, (q.2 : Int)))
      layoutChecks p fenced a rest seen
    | 0x08 =>
      match groupFault (fun g s => decide (2 ≤ g.length) && oneSpan a g && !g.any s.contains && decide g.Nodup)
          b.groups seen 0 with
      | (some k, _) => .error ⟨0x0A, b.idx, k, 0⟩
      | (none, s) => layoutChecks p fenced a rest s
    | 0x09 =>
      let ok (g s : List Nat) : Bool := !g.any s.contains
      let sets := b.permBlocks.map (fun q => (permRows q).flatten)
      let shape (k : Nat) : Bool := match b.permBlocks[k]? with
        | some q => decide (2 ≤ q.n) && (permRows q).all (fun r => oneSpan a r && oneWindow a r)
        | none => false
      match (List.range sets.length).find? (fun k => !shape k), groupFault ok sets seen 0 with
      | some i, (some j, _) => .error ⟨0x0A, b.idx, (min i j : Nat), 0⟩
      | some i, _ => .error ⟨0x0A, b.idx, i, 0⟩
      | none, (some j, _) => .error ⟨0x0A, b.idx, j, 0⟩
      | none, (none, s) => layoutChecks p fenced a rest s
    | 0x0D => do
      let c := p.colours.getD []
      failFirst b.idx (List.range p.nvars) (fun v =>
        if !isGhost p.sys v && colourFault p (b.num 0 2) c v then some (0x10, (v : Int)) else none)
      layoutChecks p fenced a rest seen
    | _ => layoutChecks p fenced a rest seen

/-! ### Stage 6 -/

/-- The value of a variable of a replica in the INIT section (R71). -/
def initValue (bits : List Nat) (r v : Nat) : Bool := natBit (bits.getD (if bits.length = 1 then 0 else r) 0) v

/-- Exactly one variable of the set is on. -/
def oneOn (bits : List Nat) (r : Nat) (set : List Nat) : Bool :=
  decide ((set.filter (initValue bits r)).length = 1)

/-- The state check of one group, given as its one-hot sets (R49, R77): the failing replica. -/
def stateFault (p : Problem) (sets : List (List Nat)) : Option Nat :=
  match p.init with
  | none => if sets.any (fun g => g.any p.clamped.contains) then some 0 else none
  | some bits => (List.range p.nrep).find? (fun r => !sets.all (oneOn bits r))

/-- The one-hot sets of a permutation block: rows and columns. -/
def permSets (b : PermBlock) : List (List Nat) :=
  permRows b ++ (List.range b.n).map (fun c => (List.range b.n).map (fun i => b.base + i * b.n + c))

/-- Stage 6 (R535): section by section, group by group, replica by replica. -/
def stateChecks (p : Problem) : List Body → Load Unit
  | [] => .ok ()
  | b :: rest =>
    let units : List (List (List Nat)) :=
      if b.typ = 0x08 then b.groups.map (fun g => [g]) else if b.typ = 0x09 then b.permBlocks.map permSets else []
    match units.zipIdx.findSome? (fun q => (stateFault p q.1).map (fun r => (r, q.2))) with
    | some (r, g) => .error ⟨0x0B, b.idx, r, g⟩
    | none => stateChecks p rest

/-- Stages 5 and 6: the layout of the problem, windows not yet formed. -/
def Image.layout (im : Image) (p : Problem) (live : List Nat) (fenced : Nat → Bool) : Load Layout := do
  let part := im.bodies.find? (fun b => b.typ = 0x0C)
  let a := match part with
    | some b => partAssign p b
    | none => autoAssign p live
  layoutChecks p fenced a im.bodies []
  stateChecks p im.bodies
  match part with
  | some b =>
    let order := numsOf 2 (b.arr 1)
    return layoutOf p a (max 1 (b.num 0 2)) (if order.isEmpty then [0] else order)
  | none => return layoutOf p a 1 [0]

end Sys2Proof.Machine
end

