-- ==== Sys2Proof/Machine/Capacity.lean ====
section
/-! DEFINITION. Stage 7 of the loader: the sizes of a problem's arrays, their placement in the memory tiers (R216, R217,
R433), the limits of Table 2.5 (R85), and the estimated sweep times (R220).
-/

namespace Sys2Proof.Machine

/-! ### Free memory -/

/-- The bytes of a problem's arrays in a scratchpad. -/
def spadUsed (p : Problem) (n : Nat) : Nat :=
  ((p.placed.filter (fun a => a.tier = .scratch && a.span = n)).map (fun a => a.bytes)).sum

/-- The bytes that a problem takes in the CXL window. -/
def cxlUsed (p : Problem) : Nat := ((p.placed.filter (fun a => a.tier = .cxl)).map (fun a => a.bytes)).sum

/-- Free bytes of each tier. -/
structure FreeMem where
  spad : Store Nat
  gddr : Nat
  cxl : Nat

/-- The memory free at a load (R216): the scratchpads of the spans that are not fenced but for their 256 KiB staging areas
(10, the operator commands), the regions that are not fenced, the mapped CXL window. -/
def State.freeMem (s : State) : FreeMem :=
  let sum (f : Problem → Nat) : Nat := (s.problems.map f).sum
  { spad := s.liveSpans.map (fun n => (n, scratchSize - 262144 - sum (fun p => spadUsed p n))),
    gddr := s.gddrLeft - sum gddrUsed,
    cxl := (if s.cxlLost then 0 else s.cxlMapped) - sum cxlUsed }

/-! ### Array sizes -/

/-- Bytes of rows of coefficients in a stored format: whole blocks with their exponents (R50, R52). -/
def rowBytes (fmt n : Nat) : Nat :=
  let f := storedFmt fmt
  ceilDiv n f.2 * (f.1 * f.2 / 8 + 1)

/-- The sections of a type. -/
def Image.ofType (im : Image) (t : Nat) : List Body := im.bodies.filter (fun b => b.typ = t)

/-- A section of an image with its quantised form. -/
def Image.withBodies {α : Type} (im : Image) (t : Nat) (l : List α) : List (Body × α) := (im.ofType t).zip l

/-- An array, or a span's share of one: its order in Table 8.1, its span, its bytes, its tiers after the scratchpad. -/
structure Item where
  order : Nat
  span : Nat
  bytes : Nat
  tiers : List Tier

/-- A variable of a list has its slots in the span. -/
def inSpan (a : Assign) (n v : Nat) : Bool := match placeOf a v with
  | some q => decide (q.2 = n)
  | none => false

/-- The spans that hold slots. -/
def Layout.spans (l : Layout) : List Nat := spanIds.filter (fun n => l.groups.any (fun g => g.span = n))

/-- The rows of a Kronecker section that a span owns (R216). -/
def kronRows (a : Assign) (s : Kron) (n : Nat) : Nat := ((List.range s.n).filter (fun i => inSpan a n (s.base + i * s.m))).length

/-- The span holds a variable of a range. -/
def holdsRange (a : Assign) (n base len : Nat) : Bool := (List.range len).any (fun k => inSpan a n (base + k))

/-- The tile of a group is not null (R60). -/
def tileLive (p : Problem) (g : GroupRow) : Bool :=
  !(p.makeTile (g.vars.map some)).null

/-- The variable is the source of a stored coupling. -/
def isSource (p : Problem) (v : Nat) : Bool :=
  p.sparses.any (fun s => s.any (fun e => e.src = v)) || p.denses.any (fun d => decide (d.base ≤ v) && decide (v < d.base + d.n))
    || p.lowranks.any (fun s => s.has v) || p.krons.any (fun s => s.has v)

/-- The arrays of Table 8.1 but for the dense tiles, in placement order. -/
def Image.items (im : Image) (p : Problem) (l : Layout) : List Item :=
  let sp := l.spans
  let r := p.nrep
  let per (order : Nat) (tiers : List Tier) (f : Nat → Nat) : List Item := sp.map (fun n => ⟨order, n, f n, tiers⟩)
  let vars (n : Nat) : List Nat := (List.range p.nvars).filter (inSpan l.assign n)
  let blocks (n : Nat) : Nat := ((List.range l.windows).map (fun w =>
    (l.groups.filter (fun g => g.window = w && g.span = n)).length * r)).foldl max 0
  let log := (p.scheds.map (fun c => 1024 * c.epochBlocks * (2 * c.lag + 1))).foldl max 0
  let attempts := if p.scheds.any (fun c => c.revert) then 1048576 else 0
  let ghosts (n : Nat) : Nat := ((match p.sys with
    | some y => y.ghosts
    | none => []).filter (fun (g : Ghost) => p.sparses.any (fun s => s.any (fun e => e.src = g.local_ && inSpan l.assign n e.row)))).length
  let zs (n : Nat) : List LowRank := p.lowranks.filter (fun s => holdsRange l.assign n s.base s.n)
  per 1 [] (fun n => 4 * (blocks n + (zs n).length * r + ((p.krons.map (fun s => kronRows l.assign s n * s.terms.length)).sum) * r)
      + log + attempts + ceilDiv (ghosts n * r) 8)
  ++ per 2 [.gddr] (fun n => ((zs n).map (fun s => 6 * s.k * r)).sum)
  ++ per 3 [.gddr] (fun n => 8192 * (l.groups.filter (fun g => g.span = n && tileLive p g)).length)
  ++ per 4 [.gddr, .cxl] (fun n =>
      ((im.withBodies 0x03 p.sparses).map (fun q => ((vars n).map (fun v =>
        let d := (q.2.filter (fun e => e.row = v)).length
        4 * d + rowBytes q.1.fmt d)).sum)).sum + 2 * ((vars n).filter (isSource p)).length)
  ++ per 5 [.gddr, .cxl] (fun n => ((p.hypers.filter (fun h => inSpan l.assign n (h.members.headD 0))).map (fun h =>
      4 * h.members.length * h.members.length)).sum
      + rowBytes 3 (p.hypers.filter (fun h => inSpan l.assign n (h.members.headD 0))).length)
  ++ per 6 [.gddr] (fun n => (p.krons.map (fun s => kronRows l.assign s n * s.terms.length * r * rowBytes 5 s.m)).sum)
  ++ per 7 [.gddr] (fun n => (p.krons.map (fun s => s.terms.length * (kronRows l.assign s n * rowBytes 5 s.n
      + (if holdsRange l.assign n s.base (s.n * s.m) then s.m * rowBytes 5 s.m else 0)))).sum)

/-- The arrays after the dense tiles. -/
def Image.lateItems (im : Image) (p : Problem) (l : Layout) : List Item :=
  let home := l.spans.headD 0
  let u := ((im.withBodies 0x05 p.lowranks).map (fun q => q.2.n * rowBytes q.1.fmt q.2.k + rowBytes 3 q.2.k)).sum
  let bitmap := al64 (ceilDiv p.nvars 8)
  [⟨10, home, u, [.gddr, .cxl]⟩, ⟨11, home, if l.windows > 1 then (p.nrep + 1) * bitmap else 0, [.gddr]⟩]
  ++ l.spans.map (fun n => ⟨12, n, rowBytes 3 (((List.range p.nvars).filter (inSpan l.assign n)).length)
      + (if n = home then 9 else 0), [.gddr]⟩)

/-! ### Placement (R216, R217) -/

/-- Put bytes in the tiers in turn: what was placed, the free memory, the bytes that found no tier. -/
def putBytes (order span : Nat) : List Tier → Nat → FreeMem → List Placed × FreeMem × Nat
  | [], n, m => ([], m, n)
  | t :: rest, n, m =>
    let room := match t with
      | .scratch => Store.get 0 span m.spad
      | .gddr => m.gddr
      | .cxl => m.cxl
    let k := min room n
    let m := match t with
      | .scratch => { m with spad := Store.insert span (room - k) m.spad }
      | .gddr => { m with gddr := room - k }
      | .cxl => { m with cxl := room - k }
    let r := putBytes order span rest (n - k) m
    ((if k = 0 then [] else [(⟨order, t, span, k⟩ : Placed)]) ++ r.1, r.2.1, r.2.2)

/-- Place arrays one after another; the arrays of orders 10 and 11 have no place in a scratchpad. -/
def putItems : List Item → FreeMem → List Placed × FreeMem × Nat
  | [], m => ([], m, 0)
  | i :: rest, m =>
    let tiers := if i.order = 10 || i.order = 11 then i.tiers else Tier.scratch :: i.tiers
    let a := putBytes i.order i.span tiers i.bytes m
    let b := putItems rest a.2.1
    (a.1 ++ b.1, b.2.1, a.2.2 + b.2.2)

/-- Place the dense sections (orders 8 and 9): spread evenly over the scratchpads when the whole section fits, else in
GDDR7 and the CXL window. -/
def putDense (spans : List Nat) : List Nat → FreeMem → List Placed × FreeMem × Nat
  | [], m => ([], m, 0)
  | bytes :: rest, m =>
    let share := ceilDiv bytes (max 1 spans.length)
    let fits := !spans.isEmpty && spans.all (fun n => decide (share ≤ Store.get 0 n m.spad))
    let a := if fits then putItems (spans.map (fun n => (⟨8, n, share, []⟩ : Item))) m
      else putBytes 9 (spans.headD 0) [.gddr, .cxl] bytes m
    let b := putDense spans rest a.2.1
    (a.1 ++ b.1, b.2.1, a.2.2 + b.2.2)

/-- The bytes of each dense section's tiles. -/
def Image.denseBytes (im : Image) : List Nat :=
  (im.ofType 0x04).map (fun b => let nt := b.num 4 4 / 64
    64 * (nt * (nt + 1) / 2) * rowBytes b.fmt 64)

/-- The placement of a problem, and the bytes missing, the recovery copy and the settle area counted (R217, R433). -/
def Image.place (im : Image) (p : Problem) (l : Layout) (m : FreeMem) : List Placed × Nat :=
  let m := if p.sys.isSome then { m with gddr := m.gddr - 65536 } else m
  let a := putItems (im.items p l) m
  let b := putDense l.spans im.denseBytes a.2.1
  let c := putItems (im.lateItems p l) b.2.1
  let placed := a.1 ++ b.1 ++ c.1
  let copy := ((placed.filter (fun q => q.tier = .scratch)).map (fun q => q.bytes)).sum
  (placed, a.2.2 + b.2.2 + c.2.2 + (copy - c.2.1.gddr))

/-! ### The rows of Table 2.5 (R85) -/

/-- The first section at which a row of Table 2.5 other than the slots passes its limit. -/
def tableFault : List Body → Nat → Nat → Nat → Option Nat
  | [], _, _, _ => none
  | b :: rest, rank, terms, groups =>
    let rank := if b.typ = 0x05 then rank + b.num 8 2 else rank
    let terms := if b.typ = 0x07 then terms + b.num 4 4 else terms
    let groups := if b.typ = 0x08 then groups + b.num 0 4 else groups
    let bad := match b.typ with
      | 0x04 => decide (b.num 4 4 > 2097152)
      | 0x05 => decide (rank > 4096)
      | 0x06 => decide (b.num 8 1 > 4) || decide (b.num 4 2 > 4096) || decide (b.num 6 2 > 4096)
      | 0x07 => decide (terms > 268435456)
      | 0x08 => decide (groups > 1048576) || b.groups.any (fun g => decide (g.length > 4096))
      | 0x09 => decide (b.num 0 2 > 256) || b.permBlocks.any (fun q => decide (q.n > 4096))
      | _ => false
    if bad then some b.idx else tableFault rest rank terms groups

/-- Stage 7 but for the problem ID; a shortfall of slots is reported before another row of Table 2.5, and that before a shortfall
of bytes (entry 17): the layout in force and the placement (R85, R205, R218, R219, R439). -/
def Image.capacity (im : Image) (p : Problem) (l : Layout) (live : List Nat) (m : FreeMem) : Load (Layout × List Placed) :=
  let hasPart := !(im.ofType 0x0C).isEmpty
  if live.isEmpty then .error ⟨0x11, 0xFFFF, (p.nvars * p.nrep : Nat), 0⟩
  else
    let formed := if fitsSlots p l || hasPart || !im.head.rotation then some l
      else formWindows p live 4097 (max 1 (ceilDiv (p.nvars * p.nrep) moduleSlots))
    let l2 := formed.getD l
    let excess := slotExcess p l2.groups l2.windows
    let missing : Nat :=
      if hasPart then excess
      else if fitsSlots p l2 then 0
      else if p.nvars * p.nrep > moduleSlots then p.nvars * p.nrep - moduleSlots else excess
    let placed := im.place p l2 m
    if missing ≠ 0 then .error ⟨0x11, 0xFFFF, missing, placed.2⟩
    else match tableFault im.bodies 0 0 0 with
      | some k => .error ⟨0x11, k, 0, 0⟩
      | none => if placed.2 ≠ 0 then .error ⟨0x11, 0xFFFF, 0, placed.2⟩ else .ok (l2, placed.1)

/-! ### Estimated sweep times (R220, Tables 8.2 and 8.3) -/

/-- The load of a sweep on the tiers: ACLK cycles of each scratchpad, nanoseconds of GDDR7 and of CXL. -/
structure Traffic where
  spad : Store Rat
  gddr : Rat
  cxl : Rat

/-- The time of one byte of CXL in sequence and of one random unit (Table 8.2): one or two ports, 90 % of the figures
with encryption at rest. -/
def State.cxlRates (s : State) : Rat × Rat :=
  let two := (s.cxl 0).present && (s.cxl 1).present
  let enc := (s.cxl 0).enc || (s.cxl 1).enc
  let f : Rat := if enc then 10 / 9 else 1
  if two then (f / 100, f * 5 / 6) else (f / 50, f * 5 / 3)

/-- The part of the bytes of some orders that lies in a tier. -/
def partIn (placed : List Placed) (pick : Placed → Bool) (t : Tier) : Rat :=
  let all := placed.filter pick
  let n := (all.map (fun q => q.bytes)).sum
  if n = 0 then (if t = .gddr then 1 else 0)
  else (((all.filter (fun q => q.tier = t)).map (fun q => q.bytes)).sum : Nat) / (n : Rat)

/-- Add traffic of an array to the tiers where it lies: bytes in sequence and random units; a scratchpad moves 64 units
of 64 bytes a cycle. -/
def Traffic.add (x : Traffic) (rates : Rat × Rat) (placed : List Placed) (pick : Placed → Bool) (bytes units : Rat) : Traffic :=
  let sp := (placed.filter pick).filter (fun q => q.tier = .scratch)
  let total := ((sp.map (fun q => q.bytes)).sum : Nat)
  let inSp := partIn placed pick .scratch
  let cyc := inSp * (bytes / 4096 + units / 64)
  { spad := sp.foldl (fun acc q => Store.insert q.span (Store.get 0 q.span acc + cyc * (q.bytes : Rat) / (total : Rat)) acc) x.spad,
    gddr := x.gddr + partIn placed pick .gddr * (bytes / 2560 + units / 20),
    cxl := x.cxl + partIn placed pick .cxl * (bytes * rates.1 + units * rates.2) }

/-- The two members of a one-hot group that the model's move of member `v` changes: the member taken as on, which is the
first that is not clamped (entry 18), and `v`, or the next one when `v` is itself that member (Table 4.1). -/
def exchangeVars (p : Problem) (h : List Nat) (v : Nat) : List Nat :=
  match h.filter (fun k => !p.clamped.contains k) with
  | on :: next :: _ => if v = on then [on, next] else [on, v]
  | _ => []

/-- The changed variables of the one move that the model takes in a visited block, that of its first proposing lane; none
when no lane proposes. Every member of a one-hot group proposes, on or off (Table 4.1); the on variable of a row is taken as
its first (entry 18). -/
def moveVars (p : Problem) (g : GroupRow) : List Nat :=
  match g.vars.find? (fun v => !p.clamped.contains v && (match p.onehotOf v with
      | some h => !(exchangeVars p h v).isEmpty
      | none => match p.permOf v with
        | some b => (v - b.base) % b.n = 0
        | none => true)) with
  | none => []
  | some v => match p.onehotOf v with
    | some h => exchangeVars p h v
    | none => match p.permOf v with
      | some b => let i := (v - b.base) / b.n
          let j := if i + 1 < b.n then i + 1 else 0
          [b.base + i * b.n, b.base + i * b.n + 1, b.base + j * b.n, b.base + j * b.n + 1]
      | none => [v]

/-- The bytes of a stored coupling (Table 2.6). -/
def couplingBytes (fmt : Nat) : Rat := match fmt with
  | 1 => 145 / 32
  | 2 => 161 / 32
  | _ => 193 / 32

/-- The bytes of a dense coupling with its share of the exponent. -/
def denseCoupling (fmt : Nat) : Rat := match fmt with
  | 1 => 17 / 32
  | 2 => 33 / 32
  | _ => 65 / 32

/-- MACs of a cell in an ACLK cycle for S1 × C (Table 7.2). -/
def macRate : Nat → Rat
  | 1 => 4096
  | 2 => 2048
  | 4 => 512
  | 5 => 128
  | _ => 1024

/-- T_w and T_act,w of one window, in nanoseconds. The entries of a block are those of its coupling rows and of its variables'
hyperedge lists (Table 6.2). A block with a move needs a continuation when its tile holds a split marker, or a
group of it has a member outside it (R62, R94). -/
def State.windowTimes (s : State) (im : Image) (p : Problem) (l : Layout) (placed : List Placed) (w : Nat) : Rat × Rat :=
  let gs := l.groups.filter (fun g => g.window = w && !g.vars.isEmpty)
  let r : Rat := p.nrep
  let reps : Rat := ceilDiv p.nrep 64
  let rates := s.cxlRates
  let continues (g : GroupRow) : Bool :=
    (p.makeTile (g.vars.map some)).entries.any (fun q => q.2 = splitMarker)
      || g.vars.any (fun v => (p.groupOf v).any (fun m => !g.vars.contains m))
  let cycles (n : Nat) : Rat := ((gs.filter (fun g => g.span = n)).map (fun g =>
    r * (2 + (if continues g && !(moveVars p g).isEmpty then 5 else 0)))).sum
  let decide_ := (spanIds.map cycles).foldl max 0
  let changed := gs.flatMap (moveVars p)
  let at_ (o : Nat) (q : Placed) : Bool := decide (q.order = o)
  let x : Traffic := ⟨[], 0, 0⟩
  let tiles : Rat := (gs.filter (tileLive p)).length
  let outside := 1 - partIn placed (at_ 3) .scratch
  let x := if outside = 0 then x else { x with gddr := x.gddr + tiles * 8192 * outside / 2560 }
  let x := (im.withBodies 0x03 p.sparses).foldl (fun x q => l.spans.foldl (fun x n =>
    let units : Rat := (changed.map (fun v =>
      let d : Rat := ((q.2.filter (fun e => e.src = v && inSpan l.assign n e.row)).length : Nat)
      ((Rat.ceil (d * couplingBytes q.1.fmt / 64) : Int) : Rat))).sum
    x.add rates placed (fun a => decide (a.order = 4) && decide (a.span = n)) 0 (units * r)) x) x
  let x := (im.withBodies 0x04 p.denses).foldl (fun x q =>
    x.add rates placed (fun a => decide (a.order = 8) || decide (a.order = 9))
      (((q.2.n * q.2.n : Nat) : Rat) * denseCoupling q.1.fmt * reps) 0) x
  let x := (im.withBodies 0x05 p.lowranks).foldl (fun x q =>
    let b : Rat := if q.1.fmt = 4 then 33 / 32 else 33 / 16
    let sp : Rat := ((l.spans.filter (fun n => holdsRange l.assign n q.2.base q.2.n)).length : Nat)
    let ch : Rat := ((changed.filter (fun v => q.2.has v)).length : Nat)
    x.add rates placed (at_ 10) (((q.2.n * q.2.k : Nat) : Rat) * b * reps + sp * q.2.k * b * ch * r) 0) x
  let x := p.krons.foldl (fun x q =>
    let t : Rat := q.terms.length
    let ch : Rat := ((changed.filter (fun v => q.has v)).length : Nat)
    let sp : Rat := ((l.spans.filter (fun n => holdsRange l.assign n q.base (q.n * q.m))).length : Nat)
    let x := x.add rates placed (at_ 7) (t * (q.n * q.m : Nat) * q.m * (33 / 16) * reps) 0
    let x := x.add rates placed (at_ 6) 0 (t * 2 * ((q.n : Rat) / 16) * sp * ch * r)
    x.add rates placed (at_ 7) 0 (t * (ceilDiv (33 * q.n) 16384 : Nat) * sp * ch * r)) x
  let x := l.spans.foldl (fun x n =>
    let units : Rat := ((changed.filter (inSpan l.assign n)).map (fun v =>
      (ceilDiv (((p.hypers.filter (fun h => h.members.contains v)).map (fun h => 4 * h.members.length + 2)).sum) 64 : Nat) )).sum
    x.add rates placed (fun a => decide (a.order = 5) && decide (a.span = n)) 0 (units * r)) x
  let mac := ((im.withBodies 0x04 p.denses).map (fun q => ((q.2.n * q.2.n : Nat) : Rat) * r / (macRate q.1.fmt * 2048))).sum
    + ((im.withBodies 0x05 p.lowranks).map (fun q => ((q.2.n * q.2.k : Nat) : Rat) * r / (macRate q.1.fmt * 2048))).sum
    + (p.krons.map (fun q => ((q.n * q.m * q.m * q.terms.length : Nat) : Rat) * r / (128 * 2048))).sum
  let spad := (x.spad.map Prod.snd).foldl max 0
  let tw := max (max (max decide_ mac) spad * 2 / 3) (max x.gddr x.cxl) + 200
  let entries (g : GroupRow) : Rat := ((p.sparses.map (fun sp => (sp.filter (fun e => g.vars.contains e.row)).length)).sum
    + (p.hypers.map (fun h => (g.vars.filter h.members.contains).length * h.members.length)).sum : Nat)
  let act (n : Nat) : Rat := ((gs.filter (fun g => g.span = n)).map (fun g => r * (24 + entries g / 64))).sum
  let busy := (spanIds.map act).foldl max 0
  let rows := (im.withBodies 0x03 p.sparses).foldl (fun (x : Traffic) q =>
    x.add rates placed (at_ 4) ((((q.2.filter (fun e => gs.any (fun g => g.vars.contains e.row))).length : Nat) : Rat)
      * couplingBytes q.1.fmt) 0) ⟨[], 0, 0⟩
  let rowTime := max ((rows.spad.map Prod.snd).foldl max 0 * 2 / 3) (max rows.gddr rows.cxl)
  (tw, max (busy * 2 / 3) rowTime)

/-- The two estimates of the load report, in whole nanoseconds: resident, and with rotation for W = 256. -/
def State.sweepTimes (s : State) (im : Image) (p : Problem) (l : Layout) (placed : List Placed) : Nat × Nat :=
  let whole (x : Rat) : Nat := (Rat.ceil x).toNat
  if l.windows ≤ 1 then (whole (s.windowTimes im p l placed 0).1, 0)
  else
    let ts := l.order.map (s.windowTimes im p l placed)
    let total := (ts.map (fun t => 256 * t.1 + t.2)).sum
    (0, whole (total / (256 * (l.order.length : Rat))))

end Sys2Proof.Machine
end

