-- ==== Sys2Proof/Machine/RunRows.lean ====
section
/-! DEFINITION. The rows of runs: ANNEAL, SAMPLE, RESTORE (R283, R288), the anneal instructions (R338-R342), block visits
(R124-R132, R165), records and markers between spans (R33), boundaries, flushes and settles (R135-R145), the deadline
(R150), the re-map (R435), detours (R381-R384) and the exchange timeout (R241).
-/

namespace Sys2Proof.Machine

/-! ### Run commands -/

/-- The program that a run command expands to (ch. 12), with the run block at unit 0 and tile A7. -/
def runProgram : List SpanInstr :=
  [.seti 1 false 0, .sched 2 1 7 0, .sweep 3, .fref 4, .eaud 5, .snap 6, .xchg 7, .sched 8 0 0 1, .brc 8 1 5, .rmig 9,
   .wrot 10, .sched 11 0 0 2, .br (BitVec.ofInt 24 (-10)), .halt]

/-- The program as an instruction buffer holds it. -/
def runProgramWords : Store Word := Store.putAll 0#64 (runProgram.zipIdx.map (fun q => (q.2, encodeSpan q.1))) []

/-- The problem that a command names, unless it is lost, or marked as freeing before the command started (R281,
R394). -/
def State.problemFor (s : State) (id serial : Nat) : Option Problem :=
  (s.problemById id).bind (fun p =>
    let later := s.ctxs.any (fun cx => match cx.2.exec with
      | some e => e.cmd.opcode = 0x11 && e.isWorking && e.num 0x10 4 = id && decide (serial < e.serial)
      | none => false)
    if p.lost || (p.freeing && !later) then none else some p)

/-- The range checks of a run body (Table 10.7). -/
def runBodyFault (e : Exec) : Option Nat :=
  firstFault [(0x20, decide (e.num 0x20 8 % 256 ≠ 0)), (0x30, decide (e.num 0x30 8 % 4096 ≠ 0))]

/-- The ranges that a run will write, each with its length (R533). -/
def runRanges (p : Problem) (e : Exec) : List (Nat × Nat) :=
  let area := e.num 0x30 8
  [(e.num 0x20 8, 256)]
    ++ (if area = 0 then [] else [(area, 2 * p.ckptUnits * 4096)])
    ++ (if e.cmd.opcode = 0x14 then
        let slot := 64 + (16 * p.nrep + 63) / 64 * 64 + p.nrep * ((ceilDiv p.nvars 8 + 63) / 64 * 64)
        [(e.num 0x40 8, 64 + e.num 0x4C 4 * slot)] else [])

/-- The first address of some ranges that cannot be written. -/
def State.rangesFail (s : State) (l : List (Nat × Nat)) : Option Nat := l.findSome? (fun q => s.rangeFail q.1 q.2)

/-- A run command begins (R283, R288): its checks, then its program on every span that holds slots of the problem
(R276). -/
def State.beginRunCmd (s : State) (c : Nat) (batch : Bool) (e : Exec) : State :=
  let id := e.num 0x10 4
  match s.problemFor id e.serial with
  | none => s.finishExec c batch 0x15 id
  | some p =>
    let sched := p.scheds[e.num 0x14 1]?
    let restore := decide (e.cmd.opcode = 0x17)
    if sched.isNone && !restore then s.finishExec c batch 0x10 0x14
    else if schedFault p e.cmd.bytes then s.finishExec c batch 0x19 0
    else match s.rangesFail (runRanges p e) with
      | some a => s.finishExec c batch 0x11 a
      | none =>
        if drawsKey e.cmd.bytes && s.sec.rng = 2 then s.finishExec c batch 0x1E 0
        else if restore && (s.ckptFor p (e.num 0x30 8)).isNone then s.finishExec c batch 0x1A 0
        else s.dispatch c batch (problemSpans p) ⟨c, e.serial, batch, runProgramWords, runProgram.length, []⟩

/-- ANNEAL (R283). -/
def execAnneal (c : Fin 1024) (s : State) : Out :=
  goOn (s.withCmd c.val 0x12 runBodyFault (fun b e st => (st.beginRunCmd c.val b e).carryOn))

/-- SAMPLE (R283, R285). -/
def execSample (c : Fin 1024) (s : State) : Out :=
  goOn (s.withCmd c.val 0x14
    (fun e => (runBodyFault e).orElse fun _ => firstFault [(0x40, decide (e.num 0x40 8 % 64 ≠ 0)),
      (0x48, decide (e.num 0x48 4 = 0)), (0x4C, decide (e.num 0x4C 4 = 0))])
    (fun b e st => (st.beginRunCmd c.val b e).carryOn))

/-- RESTORE (R288). -/
def execRestore (c : Fin 1024) (s : State) : Out :=
  goOn (s.withCmd c.val 0x17 runBodyFault (fun b e st => (st.beginRunCmd c.val b e).carryOn))

/-! ### Anneal instructions: issue -/

/-- SCHED BIND (R339): it enters flight; a mode that is absent is an illegal operand (R304). -/
def execSchedBind (n : Fin 16) (s : State) : Out :=
  goOn (s.issue n.val (fun _ i p st => match i with
    | .sched _ ra _ mode =>
      if mode = 0 then some (st.fly n.val i (p.reg ra) 0 0 p.pc)
      else if mode = 3 then some (st.illegal n.val p.pc) else none
    | _ => none))

/-- SWEEP (R341). -/
def execSweep (n : Fin 16) (s : State) : Out :=
  goOn (s.issue n.val (fun _ i p st => match i with
    | .sweep _ => some (st.fly n.val i 0 0 0 p.pc)
    | _ => none))

/-- FREF (R148, R341). -/
def execFref (n : Fin 16) (s : State) : Out :=
  goOn (s.issue n.val (fun _ i p st => match i with
    | .fref _ => some (st.fly n.val i 0 0 0 p.pc)
    | _ => none))

/-- EAUD (R147, R341). -/
def execEaud (n : Fin 16) (s : State) : Out :=
  goOn (s.issue n.val (fun _ i p st => match i with
    | .eaud _ => some (st.fly n.val i 0 0 0 p.pc)
    | _ => none))

/-- SNAP (R146, R341). -/
def execSnap (n : Fin 16) (s : State) : Out :=
  goOn (s.issue n.val (fun _ i p st => match i with
    | .snap _ => some (st.fly n.val i 0 0 0 p.pc)
    | _ => none))

/-- XCHG (R119, R341). -/
def execXchg (n : Fin 16) (s : State) : Out :=
  goOn (s.issue n.val (fun _ i p st => match i with
    | .xchg _ => some (st.fly n.val i 0 0 0 p.pc)
    | _ => none))

/-- SCHED END (R342). -/
def execSchedEnd (n : Fin 16) (s : State) : Out :=
  goOn (s.issue n.val (fun _ i p st => match i with
    | .sched _ _ _ mode => if mode = 1 then some (st.fly n.val i 0 0 0 p.pc) else none
    | _ => none))

/-- RMIG (R152, R341). -/
def execRmig (n : Fin 16) (s : State) : Out :=
  goOn (s.issue n.val (fun _ i p st => match i with
    | .rmig _ => some (st.fly n.val i 0 0 0 p.pc)
    | _ => none))

/-- WROT (R209, R341). -/
def execWrot (n : Fin 16) (s : State) : Out :=
  goOn (s.issue n.val (fun _ i p st => match i with
    | .wrot _ => some (st.fly n.val i 0 0 0 p.pc)
    | _ => none))

/-- SCHED NEXT (R341). -/
def execSchedNext (n : Fin 16) (s : State) : Out :=
  goOn (s.issue n.val (fun _ i p st => match i with
    | .sched _ _ _ mode => if mode = 2 then some (st.fly n.val i 0 0 0 p.pc) else none
    | _ => none))

/-! ### Within a sweep -/

/-- BLOCK_DECIDE (R124-R132, R150). -/
def execBlockDecide (n : Fin 16) (events : List MemEvent) (s : State) : Out :=
  goOn (if (s.nextBlock n.val).isSome then (s.decideWith n.val events).carryOn else s)

/-- The continuation that is due in span `n`, with its block. -/
def State.contDue (s : State) (n : Nat) : Option (Problem × Run × BlockRow × List Nat) :=
  match s.boundRun n, (s.eng n).cont with
  | some (p, r), some c =>
    if s.running && !s.spanFenced n && decide ((s.eng n).phase = .deciding) then
      (r.blocks.find? (fun b => b.span = n && b.num = c.block)).map (fun b => (p, r, b, c.lanes))
    else none
  | _, _ => none

/-- CONTINUATION (R126): it belongs to its block's visit, so no stop takes effect before it. -/
def execContinuation (n : Fin 16) (s : State) : Out :=
  match s.contDue n.val with
  | some (p, r, b, lanes) => goOn (s.continueBlock p r n.val b lanes).carryOn
  | none => goOn s

/-- BLOCK_REFRESH (R165, R166). -/
def execBlockRefresh (n : Fin 16) (s : State) : Out :=
  goOn (if (s.nextBlock n.val).isSome then (s.refreshNext n.val).carryOn else s)

/-- The copy of the oldest message of a kind from a source, of a table generation that `pick` admits, reaches a span (R33, R368),
unless it is held (R374). -/
def State.arriveVc1 (s : State) (src n : Nat) (kind : Vc1Body → Bool) (pick : Nat → Bool) : State :=
  let s := s.injectFor src n kind pick
  match takeVc1 src n kind pick [] s.mesh.vc1 with
  | some (b, rest) =>
    if s.vc1Held src n then s else ({ s with mesh := { s.mesh with vc1 := rest } }.deliverVc1 n src b).carryOn
  | none => s

/-- SPAN_FLIP_FLIT (R33): the oldest flip flit of a source, or the oldest of those that entered under the tables in force, which
may pass the others (R368). -/
def execSpanFlipFlit (n : Fin 16) (pick : FlitPick) (s : State) : Out :=
  let gen (g : Nat) : Bool := !pick.newest || decide (g = s.mesh.generation)
  goOn (if s.running then s.arriveVc1 pick.source.val n.val (fun b => !b.isMarker) gen else s)

/-- SPAN_EPOCH_MARKER (R32, R33, R171-R173). -/
def execSpanEpochMarker (n source : Fin 16) (s : State) : Out :=
  goOn (if s.running then s.arriveVc1 source.val n.val Vc1Body.isMarker anyGen else s)

/-- EPOCH_BOUNDARY (R135-R141). -/
def execEpochBoundary (n : Fin 16) (s : State) : Out :=
  goOn (if (s.boundRun n.val).isSome then (s.boundaryStep n.val false).carryOn else s)

/-- SWEEP_FLUSH (R142). -/
def execSweepFlush (n : Fin 16) (s : State) : Out :=
  goOn (if (s.boundRun n.val).isSome then (s.boundaryStep n.val true).carryOn else s)

/-- The settle of a run is due. -/
def State.settleDue (s : State) (r : Run) : Bool :=
  s.running && !r.swept && r.sysFree && s.sweepOver r && !s.remapWaits r

/-- SETTLE (R145, R236). -/
def execSettle (q : Fin 64) (s : State) : Out :=
  match s.problem q.val, s.run q.val with
  | some p, some r =>
    if s.settleDue r then
      let s := s.settleLocal p r
      let s := match s.run q.val with
        | some x => if x.sys.isSome then s.sysSettle p x (decide (x.sweepResult = 0)) else s
        | none => s
      goOn s.carryOn
    else goOn s
  | _, _ => goOn s

/-- DEADLINE (R150, R283): time comes to the deadline instant. -/
def execDeadline (q : Fin 64) (s : State) : Out :=
  match s.run q.val with
  | some r =>
    if s.running && r.begun && decide (r.deadlineUs ≠ 0) && !r.stops.deadline then
      goOn ((s.passTo (r.startTick + r.deadlineUs * tickUs)).noteDeadline q.val).carryOn
    else goOn s
  | none => goOn s

/-- SPAN_REMAP (R435-R438). -/
def execSpanRemap (q : Fin 64) (s : State) : Out :=
  match s.problem q.val, s.run q.val with
  | some p, some r => goOn (if s.running && s.remapReady r then (s.remap p r).carryOn else s)
  | _, _ => goOn s

/-! ### Detours (R381-R384) -/

/-- Complete with LOST the requests of span `n` that crossed a failed router (R383): its DMA tags, its atomics and the
branches of its multicasts. Their number, and the state. -/
def State.loseRequests (s : State) (n : Nat) : Nat × State :=
  let p := s.pier n
  let tags := (List.range 32).filter (fun t =>
    let x := p.tag t
    x.busy && !x.lost && (s.crossesRange n x.src x.len || s.crossesRange n x.dst x.len))
  let hit (i : InFlight) : Bool :=
    match atomicAddr i with
    | some a => i.aux < lostMark && s.crosses n a
    | none => false
  let branches := (List.range 4).flatMap (fun k => (spanIds.filter (fun t =>
    s.branchOpen n k t && s.crossesTo n (spanRouter t))).map (fun t => (k, t)))
  let t := s.modPier n (fun q =>
    tags.foldl (fun q t => q.setTag t { q.tag t with lost := true })
      { q with flight := q.flight.map (fun i => if hit i then { i with aux := i.aux + lostMark } else i) })
  (tags.length + (p.flight.filter hit).length + branches.length,
    branches.foldl (fun st b => st.answerBranch n b.1 b.2 true) t)

/-- A flit that a span of run `r` has sent is of an epoch that some span has not applied (R384). -/
def State.unapplied (s : State) (r : Run) (m : Vc1Msg) : Bool :=
  let base := r.sweep * r.k
  let late (run : Nat) (undo : Bool) : Bool :=
    (s.liveOf r).any (fun d => if undo then decide ((s.eng d).phase ≠ .flushed) else decide (base + (s.eng d).applied ≤ run))
      || spanIds.any (fun d => !r.spans.contains d && d ^^^ 1 = m.src && decide ((s.eng d).pairNext ≤ run + boolNat undo))
  match m.body with
  | .flit run undo _ _ => late run undo
  | .marker run undo _ _ _ _ => late run undo
  | .batch .. => false

/-- The flits that span `n` sends again after an installation (R384); the keystone sends those of a fenced span. -/
def State.resend (s : State) (n : Nat) : State :=
  match s.runOfSpan n with
  | none => s
  | some r =>
    let g := s.eng n
    let l := (g.kept.filter (fun m => !g.inject.contains m && s.unapplied r m)).map (fun m => { m with again := true })
    let s := s.modEng n (fun g => { g with inject := g.inject ++ l })
    if s.spanFenced n then s.injectFirst n l.length else s

/-- Copies for a span whose router has failed go nowhere. -/
def State.dropUnreachable (s : State) : State :=
  { s with mesh := { s.mesh with vc1 := s.mesh.vc1.flatMap (fun m =>
      let rest := m.dests.filter (fun d => !s.routerFailed (spanRouter d))
      if rest.isEmpty then [] else [{ m with dests := rest }]) } }

/-- The tables are written (R381): the flits with valid routes have drained, and the requests that crossed a failed router
under the previous tables are lost (R383). -/
def State.install (s : State) (l : List (List Nat)) : State :=
  let s := s.deliverWhere (fun m d => !s.routeFails (sourceRouter m.src) (spanRouter d))
  let r := spanIds.foldl (fun acc n =>
    let t := acc.2.loseRequests n
    (acc.1 + t.1, t.2)) (0, s.dropUnreachable)
  let s := r.2
  let s := { s with mesh := { s.mesh with routes := tableOf l, detour := true, installBusy := false,
                                          generation := (s.mesh.generation + 1) % 256,
                                          lost := satAdd 0xFFFFFFFF s.mesh.lost r.1 } }
  spanIds.foldl State.resend s

/-- DETOUR_INSTALL (R381-R384): the tables that the builder found are written, or it found none and the device enters FAULT,
LATCHED with cause mesh (R382, R431). No table but one that R381 and R382 admit is installed, and no FAULT follows where a
table set that the rule admits is at hand (entry 13). -/
def execDetourInstall (built : Bool) (routes : List (List (Fin 36))) (s : State) : Out :=
  let l := routes.map (fun r => r.map Fin.val)
  if !s.running || !s.mesh.installBusy then goOn s
  else if !built && s.tableExists then goOn s
  else if !built then goOn ({ s with mesh := { s.mesh with installBusy := false } }.enterFault 3 3).carryOn
  else goOn (if s.tablesOk l then (s.install l).carryOn else s)

/-- EXCHANGE_TIMEOUT (R241). -/
def execExchangeTimeout (q : Fin 64) (s : State) : Out :=
  match s.sysOf q.val with
  | some (_, y, _, x) =>
    if s.running && x.waiting.isSome then
      goOn ((s.passTo (x.waitFrom + timeoutTicks y)).waitFails q.val).carryOn
    else goOn s
  | none => goOn s

end Sys2Proof.Machine
end

