-- ==== Sys2Proof/Machine/Loader.lean ====
section
/-! DEFINITION. PLOAD: the loader's stages in order, the load report (R84-R86), the problem ID (R282) and the completion
(R281, R533); and EVAL (R286).
-/

namespace Sys2Proof.Machine

/-- What a load has found: the problem with its layout, its statistics and its estimates. -/
structure Loaded where
  p : Problem
  bound : Dy
  stats : List CoefStats
  splits : Nat
  times : Nat × Nat

/-- The entries of diagonal tiles set to the split marker (R60), one tile for each group (R82). -/
def splitCount (p : Problem) : Nat :=
  (p.tiles.map (fun t => (t.entries.filter (fun q => q.2 = splitMarker)).length)).sum

/-- A problem with the tiles of its groups (R60). -/
def Problem.withTiles (p : Problem) : Problem :=
  { p with tiles := (p.groups.filter (fun g => !g.vars.isEmpty)).map (fun g => p.makeTile (g.vars.map some)) }

/-- The slots of the problems whose PLOAD has not completed yet: no load takes one of them, should its problem be freed meanwhile, so
that each ID names one load (R282). -/
def State.slotsPending (s : State) : List Nat :=
  s.ctxs.filterMap (fun cx => cx.2.exec.bind (fun e => match e.phase with
    | .finished 0 detail => if e.cmd.opcode = 0x10 then some (detail % 64) else none
    | _ => none))

/-- The lowest loaded-problem slot that is free (R282). -/
def State.freeSlot (s : State) : Option Nat :=
  (List.range 64).find? (fun k => !s.problems.any (fun p => p.id % 64 = k) && !s.slotsPending.contains k)

/-- Stages 5 to 7 for a quantised image: the problem as it will be loaded. -/
def State.loadRest (s : State) (im : Image) (z : Quantised) : Load Loaded := do
  let live := s.liveSpans
  let l ← im.layout z.p live (fun n => s.spanFenced n)
  let c ← im.capacity z.p l live s.freeMem
  match s.freeSlot with
  | none => .error ⟨0x13, 0xFFFF, 0, 0⟩
  | some slot =>
    let p := Problem.withTiles { z.p with groups := c.1.groups, windows := c.1.windows, order := c.1.order, placed := c.2,
                                          id := slot + 64 * (s.fe.loads % 2 ^ 26) }
    return { p := p, bound := z.bound, stats := z.stats, splits := splitCount p, times := s.sweepTimes im p c.1 c.2 }

/-! ### The load report (Tables 3.9, 3.10) -/

/-- B in units of 2^(e_f - 16), rounded up (Table 3.9). -/
def boundUnits (b : Dy) (ef : Int) : Nat := (b.ceilAt (ef - 16)).toNat

/-- The section record. The largest error is taken down to Q0.16 (entry 133). -/
def CoefStats.record (st : CoefStats) (ef : Int) : List Byte :=
  let es := (st.blocks.filter (fun q => q.2.2)).map (fun q => q.1)
  let lo := es.foldl min (es.headD 0)
  let hi := es.foldl max (es.headD 0)
  leBytes 8 st.quantised ++ leBytes 8 st.inexact ++ leBytes 8 st.toZero ++ leBytes 8 (st.below ef)
    ++ leBytes 2 ((st.err.floorAt (-16)).toNat) ++ leBytes 2 (unsignedOf 16 lo) ++ leBytes 2 (unsignedOf 16 hi)
    ++ List.replicate 26 0#8

/-- The eight bytes of B; for a B that they cannot hold, a free value of that B (R153; entry 9). -/
def boundBytes (b : Dy) (ef : Int) : List Byte :=
  if boundUnits b ef < 2 ^ 64 then leBytes 8 (boundUnits b ef) else leBytes 8 (Config.wideBound (boundUnits b ef)).toNat

/-- The report of a load that succeeds. -/
def goodReport (x : Loaded) : List Byte :=
  leBytes 2 0 ++ leBytes 2 0xFFFF ++ leBytes 4 x.p.id ++ leBytes 8 0 ++ leBytes 8 0
    ++ leBytes 2 (unsignedOf 16 x.p.efComputed) ++ leBytes 2 (unsignedOf 16 x.p.ef) ++ leBytes 2 x.p.windows ++ leBytes 2 0
    ++ boundBytes x.bound x.p.ef ++ leBytes 8 x.splits ++ leBytes 8 x.times.1 ++ leBytes 8 x.times.2
    ++ x.stats.flatMap (fun st => st.record x.p.ef)

/-- The report of a load that fails: status, section and details, and e_f and B once they have been computed (R57). What the
load has not found is a free value (entry 9). -/
def State.badReport (s : State) (f : LoadFail) (z : Option Quantised) : List Byte × State :=
  let d := s.drawBytes 64
  let head := leBytes 2 f.status ++ leBytes 2 f.sec ++ d.1.take 4 ++ leBytes 8 (unsignedOf 64 f.d1) ++ leBytes 8 f.d2
  match z with
  | none => (head ++ (d.1.drop 0x18).take 6 ++ leBytes 2 0 ++ d.1.drop 0x20, d.2)
  | some q =>
    (head ++ leBytes 2 (unsignedOf 16 q.p.efComputed) ++ leBytes 2 (unsignedOf 16 q.p.ef) ++ (d.1.drop 0x1C).take 2
      ++ leBytes 2 0 ++ boundBytes q.bound q.p.ef ++ d.1.drop 0x28, d.2)

/-- A load fails: the report's header is written, and PLOAD completes (R84, R281). -/
def State.failLoad (s : State) (c : Nat) (batch : Bool) (img report : Nat) (f : LoadFail) (z : Option Quantised) : State :=
  let r := s.badReport f z
  let s := if f.status = 0x12 then r.2.noteRequest false (img + f.d1.toNat) 1 else r.2
  (s.writeBytes report r.1).finishExec c batch 0x16 f.status

/-- PLOAD in progress: the loader. -/
def State.pload (s : State) (c : Nat) (batch : Bool) (e : Exec) : State :=
  let img := e.num 0x10 8
  let report := e.num 0x18 8
  match s.rangeFail report 64 with
  | some a => s.finishExec c batch 0x11 a
  | none => match s.loadHead img with
    | .error f => s.failLoad c batch img report f none
    | .ok h => match s.rangeFail (report + 64) (64 * h.count) with
      | some a => s.finishExec c batch 0x11 a
      | none => match s.loadImage img (e.num 0x20 8) h with
        | .error f => s.failLoad c batch img report f none
        | .ok im => match im.quantise with
          | .error f => s.failLoad c batch img report f none
          | .ok z => match z.inRange.bind (fun _ => s.loadRest im z) with
            | .error f => s.failLoad c batch img report f (some z)
            | .ok x =>
              let d := s.drawWord
              let units := d.1.toNat % 2 ^ 32
              let s := d.2.writeBytes report (goodReport x)
              ({ s with problems := s.problems ++ [{ x.p with ckptUnits := units }] }).finishExec c batch 0
                (x.p.id + units * 2 ^ 32)

/-- PLOAD (R281). -/
def execPload (c : Fin 1024) (s : State) : Out :=
  goOn (s.withCmd c.val 0x10 (fun e => firstFault [(0x18, decide (e.num 0x18 8 % 64 ≠ 0))])
    (fun b e st => st.pload c.val b e))

/-! ### EVAL (R286) -/

/-- A launch of another command holds one of the spans, a batch task keeps one for its next descriptor (R276, R292), or a message to
one is held (R374). -/
def State.spansBusy (s : State) (l : Launch) (spans : List Nat) : Bool :=
  spans.any (fun n => (s.pier n).launch.isSome || !(s.pier n).queue.isEmpty || decide ((s.span n).marchState = 1)
    || s.keptFrom n l || s.feHeld n)

/-- The launch of a command whose program is the device's own (R276). -/
def Exec.opLaunch (e : Exec) (c : Nat) : Launch := ⟨c, e.serial, e.batch, [], 0, []⟩

/-- The operator command of context `c` whose launches wait in queues. -/
def State.opWaiting (s : State) (c op : Nat) : Option Exec :=
  match (s.ctx c).exec with
  | some e =>
    if e.cmd.opcode = op && e.isWorking && e.launch.map (fun l => l.count) = some 0 && s.running
        && decide ((s.ctx c).state ≠ .aborting) && !(s.ctx c).hangDue e s.now then some e
    else none
  | none => none

/-- Span `n` has nothing before the operator launch of a command. -/
def State.opNext (s : State) (e : Exec) (n : Nat) : Bool :=
  let p := s.pier n
  p.launch.isNone && decide ((s.span n).marchState ≠ 1) &&
  (match p.queue with
   | l :: _ => l.count = 0 && l.cmd = e.serial && !s.keptFrom n l
   | [] => false)

/-- The operator launch of a command runs on spans, to its HALT (R302, R329): each counts it as a launch and starts it with the state of
Table 11.1. The instruction index at which a program of the device's own halts is open, so it is a free value (entry 9). -/
def State.countOps (s : State) (c : Nat) (e : Exec) (spans : List Nat) : State :=
  spans.foldl (fun st n =>
    let d := st.drawWord
    d.2.modPier n (fun p =>
      { p.start n (e.opLaunch c) p.queue with code := 3, launch := none, pc := d.1.toNat % 8193 })) s

/-- The launches of an operator command that wait in queues or at the front end are withdrawn. -/
def State.dropOps (s : State) (c : Nat) (batch : Bool) (e : Exec) : State :=
  (spanIds.foldl (fun st n =>
    if (st.pier n).queue.any (fun l => l.ctx = c && l.cmd = e.serial) then
      st.modPier n (fun p => { p with queue := p.queue.filter (fun l => !(l.ctx = c && l.cmd = e.serial)) })
    else st) (s.modExec c batch (fun y => y.withdrawn 0))).sendAllLaunches

/-- A command that works on spans as one launch (R275, R276): it begins at once where no launch holds them; else its launches
wait in the queues of the spans until each has nothing before it. -/
def State.asLaunch (s : State) (c : Nat) (batch : Bool) (e : Exec) (spans : List Nat) (f : State → State) : State :=
  let live := spans.filter (fun n => !s.spanFenced n)
  if decide (e.phase = .started) then
    if s.spansBusy (e.opLaunch c) live then s.dispatch c batch spans (e.opLaunch c)
    else f ((s.modExec c batch (fun y => { y with spansAll := spansMask spans })).countOps c e live)
  else if live.all (s.opNext e) then
    f ((live.foldl (fun st n => (st.modPier n (fun p => { p with queue := p.queue.drop 1 })).sendLaunches 8 n) s).countOps c e live)
  else s

/-- The row of a command that works on spans as a launch: of one that waits in the queues, or of one that starts. -/
def State.withOp (s : State) (c op : Nat) (bad : Exec → Option Nat) (f : Bool → Exec → State → State) : State :=
  match s.opWaiting c op with
  | some e => f false e (spanIds.foldl (fun st n => st.sendLaunches 8 n) s)
  | none => s.withCmd c op bad f

/-- The energy results of the states of EVAL, at the e_f in use at load. -/
def State.evalBytes (s : State) (p : Problem) (array count : Nat) : List Byte :=
  let size := al64 (ceilDiv p.nvars 8)
  (List.range count).flatMap (fun k =>
    let bits := s.readNat (array + k * size) (ceilDiv p.nvars 8)
    energyBytes (p.energyUnits (natBit bits) p.ef) p.ef)

/-- The effect of EVAL (R286): the results are written where they can be; a unit that was fenced since the command started ends it with
ADDR_ERR (R533). -/
def State.evalOn (s : State) (c : Nat) (batch : Bool) (e : Exec) (p : Problem) : State :=
  let count := e.num 0x14 2
  let size := al64 (ceilDiv p.nvars 8)
  match s.firstBad false (e.num 0x18 8) (size * count) with
  | some (a, _) => (s.noteRequest false (e.num 0x18 8) (size * count)).finishExec c batch 0x11 a
  | none =>
    let t := s.writeBytes (e.num 0x20 8) (s.evalBytes p (e.num 0x18 8) count)
    match s.rangeFail (e.num 0x20 8) (16 * count) with
    | some a => t.finishExec c batch 0x11 a
    | none => t.finishExec c batch 0 0

/-- EVAL (R286), a launch on the spans of the problem; its range is tested when it starts (R533). -/
def execEval (c : Fin 1024) (s : State) : Out :=
  goOn (s.withOp c.val 0x15
    (fun e => firstFault [(0x14, decide (e.num 0x14 2 = 0)), (0x20, decide (e.num 0x20 8 % 16 ≠ 0))])
    (fun b e st =>
      match st.problemFor (e.num 0x10 4) e.serial with
      | none => (st.dropOps c.val b e).finishExec c.val b 0x15 (e.num 0x10 4)
      | some p =>
        match decide (e.phase = .started), st.rangeFail (e.num 0x20 8) (16 * e.num 0x14 2) with
        | true, some a => st.finishExec c.val b 0x11 a
        | _, _ => st.asLaunch c.val b e (problemSpans p) (fun st => st.evalOn c.val b e p)))

end Sys2Proof.Machine
end

