-- ==== Sys2Proof/Machine/Operator.lean ====
section
/-! DEFINITION. The operator commands MATMUL, REDUCE, EWISE and CONVERT (R272-R274, R201, R441): tensor descriptors, the
division of the work over spans, and what each command writes. The operand is divided into patches of 32 × 32 elements,
and which span carries out a patch is a free value.
-/

namespace Sys2Proof.Machine

/-! ### Tensor descriptors (R272) -/

/-- A tensor descriptor of a packet (Table 10.8). -/
structure TDesc where
  code : Nat
  rows : Nat
  t : Tens
deriving DecidableEq, Repr

/-- The descriptor at an offset of a command's bytes; B1 stands in for a format code that does not exist. -/
def Exec.desc (e : Exec) (off : Nat) : TDesc :=
  let code := e.num (off + 0x1C) 1
  ⟨code, e.num (off + 0x10) 4,
    ⟨e.num off 8, e.num (off + 8) 8, e.num (off + 0x18) 4, e.num (off + 0x14) 4, (fmtOf code).getD ⟨1, 0, 0⟩,
      natBit (e.num (off + 0x1D) 1) 0⟩⟩

/-- The checks of a descriptor at an offset of the packet (R271, R272). -/
def Exec.descChecks (e : Exec) (off : Nat) : List (Nat × Bool) :=
  [(off, decide (e.num off 8 % 64 ≠ 0)), (off + 0x18, decide (e.num (off + 0x18) 4 % 64 ≠ 0)),
   (off + 0x1C, (fmtOf (e.num (off + 0x1C) 1)).isNone)]

/-- The output at an offset has the stated rows and columns. -/
def Exec.dimChecks (e : Exec) (off rows cols : Nat) : List (Nat × Bool) :=
  [(off + 0x10, decide ((e.desc off).rows ≠ rows)), (off + 0x14, decide ((e.desc off).t.len ≠ cols))]

/-- The byte ranges that hold elements `k0` to `k1 - 1` of line `l` and their exponents. -/
def Tens.partRanges (t : Tens) (l k0 k1 : Nat) : List (Nat × Nat) :=
  let lo := t.fmt.w * k0 / 8
  let hi := ceilDiv (t.fmt.w * k1) 8
  let b := t.fmt.block
  [(t.data + t.line l * t.stride + lo, hi - lo)] ++
    (if b = 0 then [] else [(t.exps + t.line l * expStride t.fmt t.len + k0 / b, ceilDiv k1 b - k0 / b)])

/-- Some byte of the ranges cannot be accessed. -/
def State.rangesBad (s : State) (write : Bool) (l : List (Nat × Nat)) : Bool :=
  l.any (fun r => (s.firstBad write r.1 r.2).isSome)

/-- What the accesses to the ranges leave behind. -/
def State.noteRanges (s : State) (write : Bool) (l : List (Nat × Nat)) : State :=
  l.foldl (fun st r => st.noteRequest write r.1 r.2) s

/-! ### Patches -/

/-- Side of a patch. -/
def patchSide : Nat := 32

/-- Patches of a row of `n` elements. -/
def patchCount (n : Nat) : Nat := ceilDiv n patchSide

/-- The indexes of patch `p` of `n`. -/
def patchIdx (p n : Nat) : List Nat := (List.range (min patchSide (n - patchSide * p))).map (fun k => patchSide * p + k)

/-- One patch: its row and column, the span that carries it out, and whether it is carried out should its part fail
elsewhere. -/
structure Patch where
  pi : Nat
  pj : Nat
  span : Nat
  early : Bool
deriving DecidableEq, Repr

/-- The patches of an operand of `rows` × `cols` elements over spans, two free words for each (entry 9). -/
def State.patches (s : State) (rows cols : Nat) (spans : List Nat) : List Patch × State :=
  let w := patchCount cols
  let n := patchCount rows * w
  if spans.isEmpty then ([], s) else
  ((List.range n).map (fun k =>
      ⟨k / w, k % w, spans.getD ((Config.freeWord (s.free + 2 * k)).toNat % spans.length) 0,
        (Config.freeWord (s.free + 2 * k + 1)).getLsbD 0⟩),
    { s with free := s.free + 2 * n })

/-- Split patches that are carried out from the spans whose part fails (R441): a part fails when its span is fenced or
one of its patches meets an address it cannot use. -/
def State.partFails (s : State) (spans : List Nat) (ps : List Patch) (bad : Patch → Bool) : List Nat :=
  spans.filter (fun n => s.spanFenced n || ps.any (fun p => p.span = n && bad p))

/-- The bytes that a patch's part of output line `l` writes, with its exponents, and whether an output saturated
(R196); the last patch of a line writes the padding too (R177). -/
def Tens.patchCells (t : Tens) (l pj : Nat) (vals : List Dy) : List (Nat × Byte) × Bool :=
  let r := t.fmt.convert vals
  let off := 4 * t.fmt.w * pj
  let n := if pj + 1 = patchCount t.len then lineBytes t.fmt t.len - off else 4 * t.fmt.w
  let bytes := leBytes n (r.1.foldr (fun e acc => e + 2 ^ t.fmt.w * acc) 0)
  let b := t.exps + l * expStride t.fmt t.len + (if t.fmt.block = 0 then 0 else patchSide * pj / t.fmt.block)
  (bytes.zipIdx.map (fun p => (t.data + l * t.stride + off + p.2, p.1))
    ++ r.2.1.zipIdx.map (fun p => (b + p.2, BitVec.ofNat 8 p.1)), r.2.2)

/-- The ranges that a patch writes. -/
def TDesc.patchOut (d : TDesc) (p : Patch) : List (Nat × Nat) :=
  (patchIdx p.pi d.rows).flatMap (fun l =>
    let k0 := patchSide * p.pj
    if p.pj + 1 = patchCount d.t.len then
      [(d.t.data + l * d.t.stride + 4 * d.t.fmt.w * p.pj, lineBytes d.t.fmt d.t.len - 4 * d.t.fmt.w * p.pj)]
        ++ ({ d.t with bcast := false }.partRanges l k0 d.t.len).drop 1
    else { d.t with bcast := false }.partRanges l k0 (k0 + patchSide))

/-- The ranges that a patch of an operand reads. -/
def TDesc.patchIn (d : TDesc) (p : Patch) : List (Nat × Nat) :=
  (patchIdx p.pi d.rows).flatMap (fun l => d.t.partRanges l (patchSide * p.pj) (min d.t.len (patchSide * (p.pj + 1))))

/-- What a patch of the output holds: the values by line, the replays, and the saturation of its MMAs, if any. -/
structure PatchVals where
  lines : List (Nat × List Dy)
  replays : Nat
  sat : Option Nat

/-- Write the patches of an output that are carried out, with the flags of their spans; whether a flag was set. -/
def State.writePatches (s : State) (z : TDesc) (ps : List Patch) (vals : Patch → PatchVals) : State × Bool :=
  ps.foldl (fun acc p =>
    let v := vals p
    let r := v.lines.map (fun q => z.t.patchCells q.1 p.pj q.2)
    let sat := r.any Prod.snd
    let st := acc.1.storeCells (r.flatMap Prod.fst)
    let st := st.modSpan p.span (fun x => { x with replays := satAdd 0xFFFFFFFF x.replays v.replays })
    let st := st.tenFlagIf p.span flagCvtSat sat
    let st := match v.sat with
      | some f => st.tenFlag p.span f
      | none => st
    (st, acc.2 || sat || v.sat.isSome)) (s, false)

/-- The completion of an operator command (R441): PARTIAL with the failed spans, or OK. -/
def State.finishParts (s : State) (c : Nat) (batch : Bool) (fails : List Nat) : State :=
  if fails.isEmpty then s.finishExec c batch 0 0 else s.finishExec c batch 0x12 (spansMask fails)

/-- Give the command its saturated and ORDER_SENSITIVE indications. -/
def State.indicate (s : State) (c : Nat) (batch sat order : Bool) : State :=
  s.modExec c batch (fun e => { e with saturated := e.saturated || sat, orderSens := e.orderSens || order })

/-- Carry out a command that writes a tensor patch by patch: the ranges that a patch reads, and its values. -/
def State.tensorCmd (s : State) (c : Nat) (batch : Bool) (spans : List Nat) (z : TDesc) (reads : Patch → List (Nat × Nat))
    (vals : State → Patch → PatchVals) : State :=
  let d := s.patches z.rows z.t.len spans
  let s := d.2
  let bad (p : Patch) : Bool := s.rangesBad false (reads p) || s.rangesBad true (z.patchOut p)
  let fails := s.partFails spans d.1 bad
  let done := d.1.filter (fun p => !s.spanFenced p.span && !bad p && (!fails.contains p.span || p.early))
  let v := vals s
  let t := (d.1.filter (fun p => !s.spanFenced p.span)).foldl (fun st p =>
    (st.noteRanges false (reads p)).noteRanges true (z.patchOut p)) s
  let r := t.writePatches z done v
  (r.1.indicate c batch r.2 false).finishParts c batch fails

/-- An operator command, a launch on the spans of its mask (R276). -/
def State.withSpans (s : State) (c op : Nat) (checks : Exec → List (Nat × Bool))
    (f : Bool → Exec → List Nat → State → State) : State :=
  s.withOp c op (fun e => firstFault (checks e)) (fun b e st =>
    let spans := if decide (e.phase = .started) then st.maskOf (e.num 0x10 2) else maskSpans e.spansAll
    st.asLaunch c b e spans (f b e spans))

/-! ### EWISE and CONVERT (R274, R198) -/

/-- EWISE. -/
def execEwise (c : Fin 1024) (s : State) : Out :=
  goOn (s.withSpans c.val 0x22
    (fun e =>
      let x := e.desc 0x40
      [(0x12, decide (e.num 0x12 1 > 3))] ++ e.descChecks 0x40 ++ e.descChecks 0x60
        ++ (if (e.desc 0x60).t.bcast then [(0x74, decide ((e.desc 0x60).t.len ≠ x.t.len))]
            else e.dimChecks 0x60 x.rows x.t.len)
        ++ e.descChecks 0x80 ++ e.dimChecks 0x80 x.rows x.t.len)
    (fun b e spans st =>
      let x := e.desc 0x40
      let y := e.desc 0x60
      let z := e.desc 0x80
      let d := intAt e.cmd.bytes 0x13 1
      st.tensorCmd c.val b spans z
        (fun p => { x with rows := z.rows }.patchIn p ++ { y with rows := z.rows }.patchIn p)
        (fun t p => ⟨(patchIdx p.pi z.rows).map (fun l => (l, (patchIdx p.pj z.t.len).map (fun k =>
          ewoOp (e.num 0x12 1) ((x.t.val t.rawByte l k).shift d) (y.t.val t.rawByte l k)))), 0, none⟩)))

/-- CONVERT. -/
def execConvert (c : Fin 1024) (s : State) : Out :=
  goOn (s.withSpans c.val 0x23
    (fun e =>
      let x := e.desc 0x40
      let tr := natBit (e.num 0x14 1) 0
      e.descChecks 0x40
        ++ [(0x50, tr && decide (x.rows % 32 ≠ 0)), (0x54, tr && decide (x.t.len % 32 ≠ 0))]
        ++ e.descChecks 0x60
        ++ (if tr then e.dimChecks 0x60 x.t.len x.rows else e.dimChecks 0x60 x.rows x.t.len))
    (fun b e spans st =>
      let x := e.desc 0x40
      let z := e.desc 0x60
      let tr := natBit (e.num 0x14 1) 0
      let d := intAt e.cmd.bytes 0x13 1
      st.tensorCmd c.val b spans z
        (fun p => x.patchIn (if tr then { p with pi := p.pj, pj := p.pi } else p))
        (fun t p => ⟨(patchIdx p.pi z.rows).map (fun l => (l, (patchIdx p.pj z.t.len).map (fun k =>
          (if tr then x.t.val t.rawByte k l else x.t.val t.rawByte l k).shift d))), 0, none⟩)))

/-! ### MATMUL (R273) -/

/-- The pair of two format codes (Table 7.2): an entry of Table 12.2, S1 as either operand. -/
def pairOfFmts (a b : Nat) : Option Pair :=
  match a, b with
  | 0x7, 0x7 => pairOf 0 false
  | 0x1, 0x8 => pairOf 1 true
  | 0x2, 0x8 => pairOf 2 true
  | 0x3, 0x8 => pairOf 3 true
  | 0x8, 0x1 => pairOf 1 false
  | 0x8, 0x2 => pairOf 2 false
  | 0x8, 0x3 => pairOf 3 false
  | 0x9, 0x9 => pairOf 4 false
  | 0x6, 0x6 => pairOf 5 false
  | 0xA, 0xA => pairOf 6 false
  | 0x4, 0x4 => pairOf 7 false
  | 0xB, 0xB => pairOf 8 false
  | 0x5, 0x5 => pairOf 9 false
  | _, _ => none

/-- How a MATMUL forms its entries: pair, K, negate, first tile exponent, tile shape and the K of each MMA of the
chain. -/
structure Chain where
  pair : Pair
  k : Nat
  neg : Bool
  e : Nat
  m : Nat
  n : Nat
  step : Nat

/-- One tile of a MATMUL: the chain of MMAs over the entries at the listed places; entries, exponent, replays and
saturation (R180, R187-R190). -/
def Chain.tile (h : Chain) (ijs : List (Nat × Nat)) (a b : Nat → Nat → Int × Int) : List Int × Nat × Nat × Bool :=
  let at_ (f : Nat → Nat → Int × Int) (l k : Nat) : Int × Int := if k < h.k then f l k else (0, 0)
  (List.range (ceilDiv h.k h.step)).foldl (fun acc q =>
    let kk := h.pair.g * ceilDiv (min h.step (h.k - q * h.step)) h.pair.g
    let sums (et : Int) : List (List Int) := ijs.map (fun p =>
      entrySums h.pair.g kk (h.m = 16) h.neg et (fun t => at_ a p.1 (q * h.step + t)) (fun t => at_ b p.2 (q * h.step + t)))
    let r := mmaTile sums (if h.pair.scaled then 4 else 0) acc.2.1 acc.1
    (r.1, r.2.1, acc.2.2.1 + r.2.2.1, acc.2.2.2 || r.2.2.2)) (ijs.map (fun _ => 0), h.e, 0, false)

/-- The values of the product in a patch, by place, with replays and saturation. -/
def Chain.patch (h : Chain) (p : Patch) (rows cols : Nat) (a b : Nat → Nat → Int × Int) :
    List ((Nat × Nat) × Dy) × Nat × Bool :=
  let origins := (List.range (patchSide / h.m)).flatMap (fun i => (List.range (patchSide / h.n)).map (fun j => (i, j)))
  origins.foldl (fun acc o =>
    let ijs := ((tileCells h.m h.n).map (fun q =>
      (patchSide * p.pi + o.1 * h.m + q.1, patchSide * p.pj + o.2 * h.n + q.2))).filter (fun q =>
        decide (q.1 < rows) && decide (q.2 < cols))
    let r := h.tile ijs a b
    (acc.1 ++ (ijs.zip r.1).map (fun (q : (Nat × Nat) × Int) => (q.1, (⟨q.2, (r.2.1 : Int) - 127 - 16⟩ : Dy))),
      acc.2.1 + r.2.2.1, acc.2.2 || r.2.2.2)) ([], 0, false)

/-- The value at a place of a list, zero where it is absent. -/
def valueAt (l : List ((Nat × Nat) × Dy)) (i j : Nat) : Dy :=
  match l.find? (fun q => q.1 = (i, j)) with
  | some q => q.2
  | none => Dy.zero

/-- Tile shape and K of the MMAs of a MATMUL, which the spec leaves to the device: two free words (entry 9). -/
def State.drawChain (s : State) (p : Pair) (k e : Nat) (neg : Bool) : Chain × State :=
  let w := s.drawWord
  let v := w.2.drawWord
  let mn := (shapeOf (BitVec.ofNat 2 (w.1.toNat % 3))).getD (32, 32)
  (⟨p, k, neg, e, mn.1, mn.2, p.granule * (1 + v.1.toNat % (4096 / p.granule))⟩, v.2)

/-- MATMUL. -/
def execMatmul (c : Fin 1024) (s : State) : Out :=
  goOn (s.withSpans c.val 0x20
    (fun e =>
      let a := e.desc 0x40
      let bb := e.desc 0x60
      [(0x12, decide (e.num 0x12 1 > 2))] ++ e.descChecks 0x40 ++ [(0x54, decide (a.t.len > 65536))]
        ++ e.descChecks 0x60 ++ [(0x74, decide (bb.t.len ≠ a.t.len)), (0x7C, (pairOfFmts a.code bb.code).isNone)]
        ++ (if e.num 0x12 1 = 0 then []
            else e.descChecks 0x80 ++ [(0x9C, (e.desc 0x80).code = 0x7 || (e.desc 0x80).code = 0x8)]
              ++ (if (e.desc 0x80).t.bcast then [(0x94, decide ((e.desc 0x80).t.len ≠ bb.rows))]
                  else e.dimChecks 0x80 a.rows bb.rows))
        ++ e.descChecks 0xA0 ++ e.dimChecks 0xA0 a.rows bb.rows)
    (fun b e spans st =>
      let x := e.desc 0x40
      let y := e.desc 0x60
      let yy := e.desc 0x80
      let z := e.desc 0xA0
      let op := e.num 0x12 1
      let d := intAt e.cmd.bytes 0x13 1
      match pairOfFmts x.code y.code with
      | none => st
      | some pr =>
        let h := st.drawChain pr x.t.len (namedExp (BitVec.ofNat 8 (e.num 0x15 1))) (natBit (e.num 0x14 1) 0)
        h.2.tensorCmd c.val b spans z
          (fun p => (patchIdx p.pi z.rows).flatMap (fun l => x.t.partRanges l 0 x.t.len)
            ++ (patchIdx p.pj z.t.len).flatMap (fun l => y.t.partRanges l 0 y.t.len)
            ++ (if op = 0 then [] else { yy with rows := z.rows }.patchIn p))
          (fun t p =>
            let r := h.1.patch p z.rows z.t.len (x.t.elems t.rawByte) (y.t.elems t.rawByte)
            ⟨(patchIdx p.pi z.rows).map (fun l => (l, (patchIdx p.pj z.t.len).map (fun k =>
                stage3 op ((valueAt r.1 l k).shift d) (if op = 0 then Dy.zero else yy.t.val t.rawByte l k)))),
              r.2.1, if r.2.2 then some (if pr.scaled then flagBsSat else flagIntSat) else none⟩)))

/-! ### REDUCE (R274, R192-R194, R201) -/

/-- The number of results of REDUCE. -/
def reduceCount (axis rows cols : Nat) : Nat := if axis = 0 then rows else if axis = 1 then cols else 1

/-- The result that an element belongs to, and its position along the reduced line (R193). -/
def reducePlace (axis cols i j : Nat) : Nat × Nat := if axis = 0 then (i, j) else if axis = 1 then (j, i) else (0, i * cols + j)

/-- The elements of a patch. -/
def TDesc.patchElems (x : TDesc) (p : Patch) : List (Nat × Nat) :=
  (patchIdx p.pi x.rows).flatMap (fun i => (patchIdx p.pj x.t.len).map (fun j => (i, j)))

/-- Insert by a key. -/
def insertKey (x : Nat × Nat) : List (Nat × Nat) → List (Nat × Nat)
  | [] => [x]
  | y :: r => if x.1 ≤ y.1 then x :: y :: r else y :: insertKey x r

/-- The spans in an order that the spec leaves open (R199): a free word for each (entry 9). -/
def State.freeOrder (s : State) (spans : List Nat) : List Nat × State :=
  ((spans.zipIdx.foldr (fun p acc => insertKey ((Config.freeWord (s.free + p.2)).toNat, p.1) acc) []).map Prod.snd,
    { s with free := s.free + spans.length })

/-- The parts of one result of a sum: each span's exact partial, rounded once to units of 2^e_out (R201), and whether
the conversion saturated. -/
def sumPart (x : TDesc) (rd : Nat → Byte) (eout : Int) (elems : List (Nat × Nat)) : Int × Bool :=
  let v := (Dy.sum (elems.map (fun q => x.t.val rd q.1 q.2))).roundEvenAt eout
  (mantClamp 64 v, !mantFits 64 v)

/-- One result of a sum: the parts are added in order, each addition saturating (R199). -/
def State.reduceSum (s : State) (c : Nat) (batch : Bool) (addr : Nat) (parts : List (Nat × Int × Bool)) : State :=
  let s := s.writeNat addr 8 0
  parts.foldl (fun st q =>
    let old := intAt (st.readBytes addr 8) 0 8
    let r := satSum 64 old q.2.1
    let st := (st.writeNat addr 8 (unsignedOf 64 r.1)).tenFlagIf q.1 flagCvtSat q.2.2
    let st := st.tenFlagIf q.1 flagAtaddSat r.2
    st.indicate c batch q.2.2 r.2) s

/-- The reduction entry of an element: its own mantissa and exponent (Table 7.6). -/
def TDesc.redVal (x : TDesc) (rd : Nat → Byte) (index i j : Nat) : RedVal :=
  ⟨65536 * x.t.fmt.mant (x.t.raw rd i j), (x.t.exp rd i j + 127).toNat, index % 2 ^ 32⟩

/-- REDUCE. -/
def execReduce (c : Fin 1024) (s : State) : Out :=
  goOn (s.withSpans c.val 0x21
    (fun e => [(0x12, decide (e.num 0x12 1 > 2)), (0x13, decide (e.num 0x13 1 > 2))] ++ e.descChecks 0x40)
    (fun b e spans st =>
      let x := e.desc 0x40
      let op := e.num 0x12 1
      let axis := e.num 0x13 1
      let size := if op = 0 then 8 else 16
      let out := e.num 0x18 8
      let ps := st.patches x.rows x.t.len spans
      let st := ps.2
      let outs (p : Patch) : List (Nat × Nat) :=
        ((x.patchElems p).map (fun q => (reducePlace axis x.t.len q.1 q.2).1)).dedup.map (fun r => (out + size * r, size))
      let bad (p : Patch) : Bool := st.rangesBad false (x.patchIn p) || st.rangesBad true (outs p)
      let fails := st.partFails spans ps.1 bad
      let good := ps.1.filter (fun p => !fails.contains p.span)
      let rd := st.rawByte
      let elemsOf (r n : Nat) : List (Nat × Nat) :=
        ((good.filter (fun p => p.span = n)).flatMap x.patchElems).filter (fun q => (reducePlace axis x.t.len q.1 q.2).1 = r)
      let t := (ps.1.filter (fun p => !st.spanFenced p.span)).foldl (fun u p =>
        (u.noteRanges false (x.patchIn p)).noteRanges true (outs p)) st
      let eout := intAt e.cmd.bytes 0x14 2
      let t := (List.range (reduceCount axis x.rows x.t.len)).foldl (fun u r =>
        if op = 0 then
          let o := u.freeOrder spans
          o.2.reduceSum c.val b (out + 8 * r) (o.1.map (fun n => (n, sumPart x rd eout (elemsOf r n))))
        else
          let l := spans.flatMap (fun n => (elemsOf r n).map (fun q =>
            x.redVal rd (e.num 0x20 4 + (reducePlace axis x.t.len q.1 q.2).2) q.1 q.2))
          if l.isEmpty then u else u.writeBytes (out + 16 * r) (redWinner op l).bytes) t
      t.finishParts c.val b fails))

end Sys2Proof.Machine
end

