-- ==== Sys2Proof/Machine/Timeouts.lean ====
section
/-! DEFINITION. Requests that get no answer: reads of the host (R412), requests to a CXL device (R398). The row names the access that
gets none. A DMA tag keeps it until the transfer completes; the row of any other requester is executed with that one access failing
(entry 90).
-/

namespace Sys2Proof.Machine

/-- The row of the command that a context executes, by its opcode: those that access memory. -/
def State.rowOf (s : State) (c : Fin 1024) : Out :=
  let x := s.ctx c.val
  match (x.batch.bind (fun b => b.cur)).orElse (fun _ => x.exec) with
  | some e => match e.cmd.opcode with
    | 0x01 => execLaunch c s
    | 0x05 => execCopy c s
    | 0x06 => execFill c s
    | 0x10 => execPload c s
    | 0x12 => execAnneal c s
    | 0x14 => execSample c s
    | 0x15 => execEval c s
    | 0x17 => execRestore c s
    | 0x20 => execMatmul c s
    | 0x21 => execReduce c s
    | 0x22 => execEwise c s
    | 0x23 => execConvert c s
    | _ => goOn s
  | none => goOn s

/-- A row executed while the access to an address fails. -/
def State.failing (s : State) (a : Nat) (how : ReadFail) (row : State → Out) : Out :=
  match row { s with pcie := { s.pcie with readFail := some (a, how) } } with
  | .next t => .next { t with pcie := { t.pcie with readFail := none } }
  | other => other

/-- A transfer of a busy tag accesses an address. -/
def Tag.reaches (x : Tag) (a : Nat) : Bool :=
  let within (b : Nat) : Bool := decide (b ≤ a) && decide (a < b + x.len)
  x.busy && x.readFail.isNone && (within x.src || within x.dst)

/-- The access of a reader to an address fails. -/
def State.readerFails (s : State) (r : HostReader) (a : Nat) (how : ReadFail) : Out :=
  match r with
  | .dma n tag =>
    let x := (s.pier n.val).tag tag.val
    goOn (if x.reaches a then s.modPier n.val (fun p => p.setTag tag.val { x with readFail := some (a, how) }) else s)
  | .fetch c => s.failing a how (execCommandFetch c)
  | .descriptor c => s.failing a how (execBatchDescriptorTake c)
  | .command c => s.failing a how (fun t => t.rowOf c)
  | .linkRead l h b len tag => s.failing a how (execDmaRd l h b len tag)

/-- CPL_TIMEOUT (R412): a read of the host at an address ends without its data, as ADDR_ERR at that address, or without the data of
the word where the completion is poisoned. -/
def execCplTimeout (reader : HostReader) (addr : BitVec 48) (how : HostError) (s : State) : Out :=
  if !s.running || decide (addr.toNat < hostBase) then goOn s else s.readerFails reader addr.toNat (.host how)

/-- The address lies on a CXL port. -/
def State.onPort (s : State) (p a : Nat) : Bool :=
  match s.target a with
  | .cxl q _ => q = p
  | _ => false

/-- The first atomic of span `n` in flight to an address is not performed (R379, R398). -/
def State.failAtomic (s : State) (n a : Nat) : State :=
  let hit (i : InFlight) : Bool := decide (i.aux < lostMark) && decide (atomicAddr i = some a)
  s.modPier n (fun q =>
    match q.flight.findIdx? hit with
    | some k => { q with flight := q.flight.modify k (fun i => { i with aux := i.aux + lostMark }) }
    | none => q)

/-- The request that gets no response completes with FENCED for its requester (R398). The run whose sweep engine asked stops at its
next block boundary, as where the data itself is lost (R391; DESIGN CHOICE, entry 90). -/
def State.cxlFails (s : State) (r : CxlRequester) (a : Nat) : Out :=
  match r with
  | .reader q => s.readerFails q a .cxl
  | .atomic n => goOn (s.failAtomic n.val a)
  | .bar2Read o enables => s.failing a .cxl (execBar2Read o enables [])
  | .bar2Write o data => s.failing a .cxl (execBar2Write o data [])
  | .linkWrite l h b tag reply data => s.failing a .cxl (execDmaWr l h b tag reply data)
  | .linkAtadd l h b wide tag value => s.failing a .cxl (execLinkAtadd l h b wide tag value)
  | .linkMinIndex l h b least tag entry => s.failing a .cxl (execMinIndex l h b least tag entry)
  | .sweep n => goOn (match s.boundRun n.val with
    | some (_, r) => (s.stopRun r.problem (fun t => { t with stop := true })).carryOn
    | none => s)

/-- A request to a port that got no response is counted, and raises the port's timeout source; the third within one 1 s window
fences the port (R398). -/
def State.countTimeout (s : State) (p : Fin 2) : State :=
  let now := s.now
  let recent := ((s.cxl p.val).recent.filter (fun t => inWindow t tickSec now)) ++ [now]
  let s := s.modCxl p.val (fun x => { x with timeouts := satInc x.timeouts, recent := recent })
  (if recent.length ≥ 3 then (s.enterRaise (.cxl p) 2 true 0).fenceCxl p.val else s.raise (.cxl p) 2 0).carryOn

/-- CXL_TIMEOUT (R398). -/
def execCxlTimeout (q : CxlRequest) (s : State) : Out :=
  let p := q.port
  if s.running && (s.cxl p.val).present && !s.cxlFenced p.val && s.onPort p.val q.addr.toNat then
    match s.cxlFails q.requester q.addr.toNat with
    | .next t => goOn (t.countTimeout p)
    | other => other
  else goOn s

end Sys2Proof.Machine
end

