-- ==== Sys2Proof/Machine/Dispatch.lean ====
section
/-!
DEFINITION. One arm for each command: a direct call of its meaning.
-/

namespace Sys2Proof.Machine

/-- The effect of a command on everything but the queue. -/
def exec (i : Instr) (s : State) : Host.Outcome State Fault Refusal :=
  match i with
  | .launch c => Sys2Proof.Machine.execLaunch c s
  | .constBuf c => Sys2Proof.Machine.execConstBuf c s
  | .evrec c => Sys2Proof.Machine.execEvrec c s
  | .evwait c => Sys2Proof.Machine.execEvwait c s
  | .copy c => Sys2Proof.Machine.execCopy c s
  | .fill c => Sys2Proof.Machine.execFill c s
  | .pload c => Sys2Proof.Machine.execPload c s
  | .pfree c => Sys2Proof.Machine.execPfree c s
  | .anneal c => Sys2Proof.Machine.execAnneal c s
  | .annealBatch c => Sys2Proof.Machine.execAnnealBatch c s
  | .batchDescriptorTake c => Sys2Proof.Machine.execBatchDescriptorTake c s
  | .endDescriptor c => Sys2Proof.Machine.execEndDescriptor c s
  | .sample c => Sys2Proof.Machine.execSample c s
  | .eval c => Sys2Proof.Machine.execEval c s
  | .ckpt c => Sys2Proof.Machine.execCkpt c s
  | .restore c => Sys2Proof.Machine.execRestore c s
  | .matmul c => Sys2Proof.Machine.execMatmul c s
  | .reduce c => Sys2Proof.Machine.execReduce c s
  | .ewise c => Sys2Proof.Machine.execEwise c s
  | .convert c => Sys2Proof.Machine.execConvert c s
  | .qstop c => Sys2Proof.Machine.execQstop c s
  | .nopc c => Sys2Proof.Machine.execNopc c s
  | .commandFetch c => Sys2Proof.Machine.execCommandFetch c s
  | .commandStart => Sys2Proof.Machine.execCommandStart s
  | .commandCompletion c => Sys2Proof.Machine.execCommandCompletion c s
  | .pierLaunch n => Sys2Proof.Machine.execPierLaunch n s
  | .ctxDoorbell c tail => Sys2Proof.Machine.execCtxDoorbell c tail s
  | .contextCreate c abort priority => Sys2Proof.Machine.execContextCreate c abort priority s
  | .contextDestroy c abort priority => Sys2Proof.Machine.execContextDestroy c abort priority s
  | .destroyAbort c priority => Sys2Proof.Machine.execDestroyAbort c priority s
  | .resume c abort priority => Sys2Proof.Machine.execResume c abort priority s
  | .destroyDone c => Sys2Proof.Machine.execDestroyDone c s
  | .ctxCplHead c head => Sys2Proof.Machine.execCtxCplHead c head s
  | .evtValue e value => Sys2Proof.Machine.execEvtValue e value s
  | .evtAdd e value => Sys2Proof.Machine.execEvtAdd e value s
  | .evtErrorClear e => Sys2Proof.Machine.execEvtErrorClear e s
  | .fltAck => Sys2Proof.Machine.execFltAck s
  | .devTimeSet sec => Sys2Proof.Machine.execDevTimeSet sec s
  | .devSoftReset => Sys2Proof.Machine.execDevSoftReset s
  | .spanReset n => Sys2Proof.Machine.execSpanReset n s
  | .marchTestRequest n preserve => Sys2Proof.Machine.execMarchTestRequest n preserve s
  | .memRetrain idx rate => Sys2Proof.Machine.execMemRetrain idx rate s
  | .rngReseedRequest => Sys2Proof.Machine.execRngReseedRequest s
  | .rngWord => Sys2Proof.Machine.execRngWord s
  | .linkEnable l fwdEn dateline => Sys2Proof.Machine.execLinkEnable l fwdEn dateline s
  | .linkDisable l fwdEn dateline => Sys2Proof.Machine.execLinkDisable l fwdEn dateline s
  | .linkRetrain l => Sys2Proof.Machine.execLinkRetrain l s
  | .fltQueueClear b => Sys2Proof.Machine.execFltQueueClear b s
  | .msixUnmask m => Sys2Proof.Machine.execMsixUnmask m s
  | .d3hot enter => Sys2Proof.Machine.execD3hot enter s
  | .registerWrite offset bytes value => Sys2Proof.Machine.execRegisterWrite offset bytes value s
  | .bar2Read offset length events => Sys2Proof.Machine.execBar2Read offset length events s
  | .bar2Write offset data events => Sys2Proof.Machine.execBar2Write offset data events s
  | .stallReport p => Sys2Proof.Machine.execStallReport p s
  | .fenceStatus p => Sys2Proof.Machine.execFenceStatus p s
  | .faultState p => Sys2Proof.Machine.execFaultState p s
  | .fwVersion p => Sys2Proof.Machine.execFwVersion p s
  | .rngRead p length => Sys2Proof.Machine.execRngRead p length s
  | .fwWrite p k slot offset data => Sys2Proof.Machine.execFwWrite p k slot offset data s
  | .fwVerify p k checks => Sys2Proof.Machine.execFwVerify p k checks s
  | .fwCommit p k => Sys2Proof.Machine.execFwCommit p k s
  | .selfTest p pass => Sys2Proof.Machine.execSelfTest p pass s
  | .setSeverity p b source severity => Sys2Proof.Machine.execSetSeverity p b source severity s
  | .fenceUnit p u => Sys2Proof.Machine.execFenceUnit p u s
  | .setFltParam p escMs quietMs limit window => Sys2Proof.Machine.execSetFltParam p escMs quietMs limit window s
  | .keyInstall p l receive slot key salt => Sys2Proof.Machine.execKeyInstall p l receive slot key salt s
  | .linkKeySwitch p l => Sys2Proof.Machine.execLinkKeySwitch p l s
  | .keyZeroize p slots => Sys2Proof.Machine.execKeyZeroize p slots s
  | .drbgReseed p input => Sys2Proof.Machine.execDrbgReseed p input s
  | .drbgInstantiate p personal => Sys2Proof.Machine.execDrbgInstantiate p personal s
  | .attest p nonce => Sys2Proof.Machine.execAttest p nonce s
  | .getIdentity p => Sys2Proof.Machine.execGetIdentity p s
  | .debugChallenge p => Sys2Proof.Machine.execDebugChallenge p s
  | .debugUnlock p t => Sys2Proof.Machine.execDebugUnlock p t s
  | .nop n => Sys2Proof.Machine.execNop n s
  | .halt n => Sys2Proof.Machine.execHalt n s
  | .endlp n => Sys2Proof.Machine.execEndlp n s
  | .br n => Sys2Proof.Machine.execBr n s
  | .brc n => Sys2Proof.Machine.execBrc n s
  | .loop n => Sys2Proof.Machine.execLoop n s
  | .seti n => Sys2Proof.Machine.execSeti n s
  | .addi n => Sys2Proof.Machine.execAddi n s
  | .alu n => Sys2Proof.Machine.execAlu n s
  | .ldc n => Sys2Proof.Machine.execLdc n s
  | .rdtime n => Sys2Proof.Machine.execRdtime n s
  | .spanEvrec n => Sys2Proof.Machine.execSpanEvrec n s
  | .spanEvwait n => Sys2Proof.Machine.execSpanEvwait n s
  | .barrier n => Sys2Proof.Machine.execBarrier n s
  | .fence n => Sys2Proof.Machine.execFence n s
  | .dma n => Sys2Proof.Machine.execDma n s
  | .dmaComplete n tag events => Sys2Proof.Machine.execDmaComplete n tag events s
  | .dmaw n => Sys2Proof.Machine.execDmaw n s
  | .atadd n => Sys2Proof.Machine.execAtadd n s
  | .atswp n => Sys2Proof.Machine.execAtswp n s
  | .bset n => Sys2Proof.Machine.execBset n s
  | .bclr n => Sys2Proof.Machine.execBclr n s
  | .mcast n => Sys2Proof.Machine.execMcast n s
  | .deliveryNotice n slot target => Sys2Proof.Machine.execDeliveryNotice n slot target s
  | .cancelNotice n slot target => Sys2Proof.Machine.execCancelNotice n slot target s
  | .mma n => Sys2Proof.Machine.execMma n s
  | .mmaz n => Sys2Proof.Machine.execMmaz n s
  | .accz n => Sys2Proof.Machine.execAccz n s
  | .red n => Sys2Proof.Machine.execRed n s
  | .accmv n => Sys2Proof.Machine.execAccmv n s
  | .cvt n => Sys2Proof.Machine.execCvt n s
  | .ewo n => Sys2Proof.Machine.execEwo n s
  | .fldcAccumulate n => Sys2Proof.Machine.execFldcAccumulate n s
  | .fldcCommitAdd n => Sys2Proof.Machine.execFldcCommitAdd n s
  | .fldcCommitSet n => Sys2Proof.Machine.execFldcCommitSet n s
  | .gibbs n => Sys2Proof.Machine.execGibbs n s
  | .schedBind n => Sys2Proof.Machine.execSchedBind n s
  | .sweep n => Sys2Proof.Machine.execSweep n s
  | .fref n => Sys2Proof.Machine.execFref n s
  | .eaud n => Sys2Proof.Machine.execEaud n s
  | .snap n => Sys2Proof.Machine.execSnap n s
  | .xchg n => Sys2Proof.Machine.execXchg n s
  | .schedEnd n => Sys2Proof.Machine.execSchedEnd n s
  | .rmig n => Sys2Proof.Machine.execRmig n s
  | .wrot n => Sys2Proof.Machine.execWrot n s
  | .schedNext n => Sys2Proof.Machine.execSchedNext n s
  | .illegalOp n => Sys2Proof.Machine.execIllegalOp n s
  | .spanEvwaitTimeout n => Sys2Proof.Machine.execSpanEvwaitTimeout n s
  | .waitTimeout c => Sys2Proof.Machine.execWaitTimeout c s
  | .hangLimit c => Sys2Proof.Machine.execHangLimit c s
  | .blockDecide n events => Sys2Proof.Machine.execBlockDecide n events s
  | .continuation n => Sys2Proof.Machine.execContinuation n s
  | .blockRefresh n => Sys2Proof.Machine.execBlockRefresh n s
  | .spanFlipFlit n source => Sys2Proof.Machine.execSpanFlipFlit n source s
  | .spanEpochMarker n source => Sys2Proof.Machine.execSpanEpochMarker n source s
  | .epochBoundary n => Sys2Proof.Machine.execEpochBoundary n s
  | .sweepFlush n => Sys2Proof.Machine.execSweepFlush n s
  | .settle q => Sys2Proof.Machine.execSettle q s
  | .deadline q => Sys2Proof.Machine.execDeadline q s
  | .spanHeartbeatTimeout n => Sys2Proof.Machine.execSpanHeartbeatTimeout n s
  | .spanRemap q => Sys2Proof.Machine.execSpanRemap q s
  | .scrubPeriod n events => Sys2Proof.Machine.execScrubPeriod n events s
  | .routerFailure r => Sys2Proof.Machine.execRouterFailure r s
  | .creditTimeout r => Sys2Proof.Machine.execCreditTimeout r s
  | .detourInstall built routes => Sys2Proof.Machine.execDetourInstall built routes s
  | .memPeriodicRetrain idx rate => Sys2Proof.Machine.execMemPeriodicRetrain idx rate s
  | .cxlTimeout p => Sys2Proof.Machine.execCxlTimeout p s
  | .cxlLinkLoss p => Sys2Proof.Machine.execCxlLinkLoss p s
  | .cplTimeout reader addr how => Sys2Proof.Machine.execCplTimeout reader addr how s
  | .flr => Sys2Proof.Machine.execFlr s
  | .perstNAssert => Sys2Proof.Machine.execPerstNAssert s
  | .perstNRelease slotId => Sys2Proof.Machine.execPerstNRelease slotId s
  | .pwrEnAssert => Sys2Proof.Machine.execPwrEnAssert s
  | .pwrEnDeassert => Sys2Proof.Machine.execPwrEnDeassert s
  | .vinUndervoltage => Sys2Proof.Machine.execVinUndervoltage s
  | .vinOvervoltage => Sys2Proof.Machine.execVinOvervoltage s
  | .pllLockLoss => Sys2Proof.Machine.execPllLockLoss s
  | .thermalTrip => Sys2Proof.Machine.execThermalTrip s
  | .mainPllLock speed width => Sys2Proof.Machine.execMainPllLock speed width s
  | .knownAnswerTests pass identityOk => Sys2Proof.Machine.execKnownAnswerTests pass identityOk s
  | .marchTest findings serviceFail => Sys2Proof.Machine.execMarchTest findings serviceFail s
  | .entropyStartupTest main fallback => Sys2Proof.Machine.execEntropyStartupTest main fallback s
  | .imageVerification i0 i1 c0 c1 cfg => Sys2Proof.Machine.execImageVerification i0 i1 c0 c1 cfg s
  | .gddr7Training rates => Sys2Proof.Machine.execGddr7Training rates s
  | .cxlEnumeration p0 p1 => Sys2Proof.Machine.execCxlEnumeration p0 p1 s
  | .entropyHealthFailure => Sys2Proof.Machine.execEntropyHealthFailure s
  | .drbgAutoReseed => Sys2Proof.Machine.execDrbgAutoReseed s
  | .drbgReseedDone => Sys2Proof.Machine.execDrbgReseedDone s
  | .escalationExpiry => Sys2Proof.Machine.execEscalationExpiry s
  | .quietPeriodEnd => Sys2Proof.Machine.execQuietPeriodEnd s
  | .watchdogExpiry => Sys2Proof.Machine.execWatchdogExpiry s
  | .stallCheck => Sys2Proof.Machine.execStallCheck s
  | .exchangeTimeout q => Sys2Proof.Machine.execExchangeTimeout q s
  | .thermalControl => Sys2Proof.Machine.execThermalControl s
  | .sensorSample die mod => Sys2Proof.Machine.execSensorSample die mod s
  | .voltageSample mv => Sys2Proof.Machine.execVoltageSample mv s
  | .processMonitorWindow n count => Sys2Proof.Machine.execProcessMonitorWindow n count s
  | .ppsCapture => Sys2Proof.Machine.execPpsCapture s
  | .ppsAccept => Sys2Proof.Machine.execPpsAccept s
  | .ppsLost => Sys2Proof.Machine.execPpsLost s
  | .timeRollover => Sys2Proof.Machine.execTimeRollover s
  | .aliveToggle => Sys2Proof.Machine.execAliveToggle s
  | .flipBatch l h b => Sys2Proof.Machine.execFlipBatch l h b s
  | .fieldInc l h ef entries => Sys2Proof.Machine.execFieldInc l h ef entries s
  | .linkAtadd l h addr wide tag value => Sys2Proof.Machine.execLinkAtadd l h addr wide tag value s
  | .dmaRd l h addr length tag => Sys2Proof.Machine.execDmaRd l h addr length tag s
  | .dmaWr l h addr tag reply data => Sys2Proof.Machine.execDmaWr l h addr tag reply data s
  | .completion l h tag status offset data => Sys2Proof.Machine.execCompletion l h tag status offset data s
  | .eventSignal l h e add error value => Sys2Proof.Machine.execEventSignal l h e add error value s
  | .fwdCmd l h c tag packet => Sys2Proof.Machine.execFwdCmd l h c tag packet s
  | .epochMarker l h m => Sys2Proof.Machine.execEpochMarker l h m s
  | .sweepEndMarker l h m => Sys2Proof.Machine.execSweepEndMarker l h m s
  | .undoEndMarker l h m => Sys2Proof.Machine.execUndoEndMarker l h m s
  | .readyMarker l h m => Sys2Proof.Machine.execReadyMarker l h m s
  | .runStartMarker l h m => Sys2Proof.Machine.execRunStartMarker l h m s
  | .startMarker l h m => Sys2Proof.Machine.execStartMarker l h m s
  | .settleUpMarker l h m => Sys2Proof.Machine.execSettleUpMarker l h m s
  | .settleDoneMarker l h m => Sys2Proof.Machine.execSettleDoneMarker l h m s
  | .minIndex l h addr least tag entry => Sys2Proof.Machine.execMinIndex l h addr least tag entry s
  | .param l h module widthCap enc => Sys2Proof.Machine.execParam l h module widthCap enc s
  | .keySwitch l h slot count => Sys2Proof.Machine.execKeySwitch l h slot count s
  | .down l h cause => Sys2Proof.Machine.execDown l h cause s
  | .width l h code lanes => Sys2Proof.Machine.execWidth l h code lanes s
  | .retrain l h => Sys2Proof.Machine.execRetrain l h s
  | .ping l h time => Sys2Proof.Machine.execPing l h time s
  | .pong l h time => Sys2Proof.Machine.execPong l h time s
  | .badKind l h => Sys2Proof.Machine.execBadKind l h s
  | .flitForward l h kind aux payload => Sys2Proof.Machine.execFlitForward l h kind aux payload s
  | .flitDiscard l h tagFail uncorrectable => Sys2Proof.Machine.execFlitDiscard l h tagFail uncorrectable s
  | .replayTimeout l => Sys2Proof.Machine.execReplayTimeout l s
  | .replayLimit l => Sys2Proof.Machine.execReplayLimit l s
  | .laneFailure l lanes => Sys2Proof.Machine.execLaneFailure l lanes s
  | .linkTrainingAdvance l => Sys2Proof.Machine.execLinkTrainingAdvance l s
  | .linkTrainingTimeout l => Sys2Proof.Machine.execLinkTrainingTimeout l s
  | .idleFlit l h => Sys2Proof.Machine.execIdleFlit l h s
  | .instructionCompletion n k => Sys2Proof.Machine.execInstructionCompletion n k s
  | .marchTestDone n findings => Sys2Proof.Machine.execMarchTestDone n findings s
  | .memTemperatureChange idx temp => Sys2Proof.Machine.execMemTemperatureChange idx temp s
  | .vinRestored => Sys2Proof.Machine.execVinRestored s
  | .configurationWrite w => Sys2Proof.Machine.execConfigurationWrite w s
  | .managementResponseRead => Sys2Proof.Machine.execManagementResponseRead s
  | .dynamicAddressAssignment addr => Sys2Proof.Machine.execDynamicAddressAssignment addr s

end Sys2Proof.Machine
end

