-- ==== Sys2Proof/Safety.lean ====
section
/-! DEFINITION. What a safe step is, the invariant that every step keeps, and the situations that the statements speak of:
a span that can issue an instruction, a command that has started, a link that takes a flit, a port that takes a request,
a state in which nothing waits, and states that differ in one unit only.
-/

namespace Sys2Proof.Machine

/-- The outcome is a next state. -/
def Goes (o : Host.Outcome State Fault Refusal) : Prop :=
  match o with
  | .next _ => True
  | .fault _ | .refused _ => False

/-- What every step keeps: the memory list in its canonical form, a legal fault state, an escalation timer exactly while
the device escalates (R425, R426), and an ALIVE_OUT that toggles unless the device is in FAULT (R427, R429). -/
structure Inv (s : State) : Prop where
  mem : Memory.wf s.mem = true
  legal : s.flt.state ≤ 3
  timer : s.flt.esc.isSome = true ↔ s.flt.state = 1
  alive : s.pwr.aliveRun = true ↔ s.flt.state < 2

/-- The commands that put the whole die through its reset: PERST_N, the rails going off or on, and a loss of PLL lock. -/
def isDieReset : Instr → Bool
  | .perstNAssert | .pwrEnAssert | .pwrEnDeassert | .vinUndervoltage | .vinOvervoltage | .vinRestored | .thermalTrip
  | .pllLockLoss => true
  | _ => false

/-! ### States that differ in one unit -/

/-- `t` is `s` with span `n` changed to `x`. -/
structure SpanOnly (s t : State) (n : Nat) (x : Span) : Prop where
  here : t.span n = x
  others : ∀ m, m ≠ n → t.span m = s.span m
  rest : { t with spans := s.spans } = s

/-- `t` is `s` with the pier of span `n` changed to `p`. -/
abbrev PierOnly (s t : State) (n : Nat) (p : Pier) : Prop := SpanOnly s t n { s.span n with pier := p }

/-- `t` is `s` with context `c` changed to `x`. -/
structure CtxOnly (s t : State) (c : Nat) (x : Ctx) : Prop where
  here : t.ctx c = x
  others : ∀ m, m ≠ c → t.ctx m = s.ctx m
  rest : { t with ctxs := s.ctxs } = s

/-- `t` is `s` with link `l` changed to `x`. -/
structure LinkOnly (s t : State) (l : Nat) (x : Link) : Prop where
  here : t.link l = x
  others : ∀ m, m ≠ l → t.link m = s.link m
  rest : { t with links := s.links } = s

/-- `t` is `s` with event `e` changed to `x`. -/
structure EventOnly (s t : State) (e : Nat) (x : Event) : Prop where
  here : t.event e = x
  others : ∀ m, m ≠ e → t.event m = s.event m
  rest : { t with events := s.events } = s

/-- `t` is `s` with GDDR7 interface `i` changed to `x`. -/
structure MemOnly (s t : State) (i : Nat) (x : MemIface) : Prop where
  here : t.memIface i = x
  others : ∀ m, m ≠ i → t.memIface m = s.memIface m
  rest : { t with mems := s.mems } = s

/-- `t` is `s` after a reset of the die (R487, R493): it is as after reset but for the queue, the power domain, what the
boot block holds (`boot`), flash with its counters and the anchor in mask ROM, the cables, the bus, host memory with the
checkpoints in it, and the count of free values. -/
structure AfterDieReset (s t : State) (boot : Boot) : Prop where
  boot : t.boot = boot
  flash : t.sec = { State.reset.sec with
    flash := s.sec.flash, arbImage := s.sec.arbImage, arbConfig := s.sec.arbConfig, romAnchor := s.sec.romAnchor }
  cables : ∀ l, l < 4 → t.link l = { link0 with cable := (s.link l).cable }
  host : t.mem = s.mem.filter (fun c => decide (hostBase ≤ c.1))
  kept : t.pending = s.pending ∧ t.ckpts = s.ckpts ∧ t.bus = s.bus ∧ t.free = s.free
  rest : { t with pending := [], pwr := State.reset.pwr, boot := State.reset.boot, sec := State.reset.sec, links := [],
                  bus := State.reset.bus, mem := [], ckpts := [], free := 0 } = State.reset

/-- The memory cell that the bits of an address lie in (R27): its own, or for the set and clear aliases the scratchpad's. -/
def State.cellOf (s : State) (a : Nat) : Option Nat :=
  match s.target a with
  | .gddr _ _ | .cxl _ _ | .scratch _ _ | .host => some a
  | .setAlias n o | .clrAlias n o => some (spanRegion n + o)
  | .window _ _ | .unmapped => none

/-- No byte of some ranges (address and length) lies in cell `k`. -/
def State.clearOf (s : State) (ranges : List (Nat × Nat)) (k : Nat) : Prop :=
  ∀ r, r ∈ ranges → ∀ i, i < r.2 → s.cellOf (r.1 + i) ≠ some k

/-- `u` is `s` after an operator command of context `c` that wrote at most `out`: the command has ended, with PARTIAL and the
mask of the spans in `fails` where there are any (R441), and nothing else changed but the flags and replays of spans, the piers,
each as it was or halted after the launch (R302, R329), poison that whole writes cleared, page counters, what requests note, and free values drawn. -/
structure OperatorDone (s u : State) (c : Nat) (batch : Bool) (out : List (Nat × Nat)) (fails : List Nat) : Prop where
  ended : (u.execOf c batch).map (fun e => e.phase) =
    some (.finished (if fails.isEmpty then 0 else 0x12) (if fails.isEmpty then 0 else spansMask fails))
  others : ∀ m, m ≠ c → u.ctx m = s.ctx m
  memory : ∀ k, s.clearOf out k → memGet u.mem k = memGet s.mem k
  spans : ∀ n, { u.span n with
    replays := (s.span n).replays, tenStatus := (s.span n).tenStatus, pier := s.pier n } = s.span n
  piers : ∀ n, u.pier n = s.pier n ∨ u.pier n =
    { (s.pier n).start n ⟨c, 0, false, [], 0, []⟩ (s.pier n).queue with code := 3, launch := none, pc := (u.pier n).pc }
  rest : { u with ctxs := s.ctxs, mem := s.mem, poison := s.poison, cxls := s.cxls, spans := s.spans, pcie := s.pcie,
                  mesh := s.mesh, free := s.free } = s

/-! ### Situations -/

/-- Pier `n` issues `i`, the instruction at its PC (R302, R305, R307): it runs a launch, nothing blocks it, fewer than
192 instructions are in flight, and no earlier one still writes a register that `i` names. -/
structure Issuing (s : State) (n : Nat) (l : Launch) (i : SpanInstr) : Prop where
  running : s.running = true
  unfenced : s.spanFenced n = false
  launch : (s.pier n).launch = some l
  live : (s.pier n).code = 1 ∨ (s.pier n).code = 2
  free : (s.pier n).blocked = none
  inside : (s.pier n).pc < l.count
  room : (s.pier n).inFlight < 192
  word : decodeSpan (Store.get 0#64 (s.pier n).pc l.ibuf) = some i
  hazard : regHazard (s.pier n).flight i = false

/-- Context `c` executes `e`, a batch descriptor when `b`, with opcode `op`: it has started and done nothing, its
completion event is in range, the context is not being aborted and its hang limit has not passed (R265, R271, R280, R291). -/
structure Starting (s : State) (c : Nat) (b : Bool) (op : Nat) (e : Exec) : Prop where
  running : s.running = true
  alive : (s.ctx c).state ≠ .aborting
  cmd : s.execOf c b = some e
  front : b = false → (s.ctx c).batch.bind (fun t => t.cur) = none
  opcode : e.cmd.opcode = op
  phase : e.phase = .started
  event : e.cevFault = none
  fresh : b = false → (s.ctx c).hangDue e s.now = false

/-- The management port takes request `i` and handles it (R465, R490): nothing is outstanding, and the boot has come far
enough. -/
structure Requesting (s : State) (i : Instr) : Prop where
  port : s.portOk = true
  idle : s.sec.mgmtWait = none
  read : s.sec.mgmtResp = []
  gate : s.gate (reqCode i) = .handle

/-- The state in which the port's answer to a request is ready (R465). -/
def State.answered (s : State) (i : Instr) (seq : BitVec 16) (st : MgmtStatus) (data : List Byte) : State :=
  { s with sec := { s.sec with mgmtWait := none, mgmtResp := s.sec.mgmtResp ++ [⟨reqCode i, seq, st, data, 0⟩] } }

/-- Link `l` is ACTIVE, the flit with header `h` is the next in order (R250), and where it is to go on the mesh takes it (R374). -/
structure Arriving (s : State) (l : Nat) (h : FlitHdr) : Prop where
  running : s.running = true
  active : (s.link l).state = lnkActive
  next : h.seq = (s.link l).rxNext
  free : s.transitHeld l h = false

/-- Nothing waits: no run is in execution, no pier waits or has run past its program, no anneal instruction is at the
head of a pier, and no word of the spans' arrays is poisoned. -/
structure Quiet (s : State) : Prop where
  runs : s.runs = []
  piers : ∀ n, n < 16 → s.pierDue n = false
  heads : ∀ n, n < 16 → s.headOrder n = none
  clean : ∀ n, n < 16 → (s.span n).poison = []

end Sys2Proof.Machine
end

