-- ==== Sys2Proof/WellFormed.lean ====
section
/-! DEFINITION. Which commands are well formed: lengths, ranges and sizes that the operands' types do not fix. A command
that is not well formed is one that the module's surroundings cannot send.
-/

namespace Sys2Proof

/-- The sizes of configuration settings that exist (R401, R404). -/
def ConfigWrite.wf : ConfigWrite → Bool
  | .bar0Base _ | .bar2Base _ => true
  | .bar2Size n => decide (28 ≤ n) && decide (n ≤ 38)
  | .busMaster _ => true
  | .maxPayload b => b = 128 || b = 256 || b = 512
  | .maxReadRequest b => b = 128 || b = 256 || b = 512 || b = 1024 || b = 2048 || b = 4096
  | .completionTimeout ms => decide (0 < ms)

/-- An error names a word or an address of the array it is met in. -/
def MemEvent.wf : MemEvent → Bool
  | .spanCe _ _ w | .spanUe _ _ w => decide (w < 2 ^ 28)
  | .ramCe a | .ramUe a | .cxlPoison a | .cxlTag _ a => decide (a < 2 ^ 48)
  | .crc _ n _ => decide (0 < n.val)
  | .hopCe | .vc2Promote | .storeCe | .frontEndUe | .cipherError => true

/-- A march finding names failing rows. -/
def MarchFinding.wf (f : MarchFinding) : Bool := decide (0 < f.rows)

/-- What CXL enumeration can find: a device with a multiple of 256 MiB. -/
def CxlDevice.wf (d : CxlDevice) : Bool := decide (d.capBytes % 0x10000000 = 0)

/-- The command is well formed. -/
def Instr.wf : Instr → Bool
  | .bar2Read o l evs =>
    decide (0 < l.length) && decide (l.length ≤ 4096) && decide (o.toNat + l.length ≤ 2 ^ 38) && evs.all MemEvent.wf
  | .bar2Write o l evs =>
    decide (0 < l.length) && decide (l.length ≤ 4096) && decide (o.toNat + l.length ≤ 2 ^ 38) && evs.all MemEvent.wf
  | .fwWrite _ _ _ _ l => decide (0 < l.length) && decide (l.length ≤ 4096)
  | .dmaComplete _ _ evs | .blockDecide _ evs | .scrubPeriod _ evs => evs.all MemEvent.wf
  | .marchTest fs _ | .marchTestDone _ fs => fs.all MarchFinding.wf
  | .cxlEnumeration a b => a.wf && b.wf
  | .sensorSample d m => d.length = 24 && m.length = 4
  | .voltageSample l => l.length = 12
  | .gddr7Training l => l.length = 16
  | .configurationWrite w => w.wf
  | .flipBatch _ _ b => decide (b.records.length ≤ 28)
  | .fieldInc _ _ _ es => decide (es.length ≤ 18)
  | .dmaRd _ _ _ n _ => decide (0 < n.toNat) && decide (n.toNat ≤ 4096)
  | .dmaWr _ _ _ _ _ l => decide (0 < l.length) && decide (l.length ≤ 224)
  | .completion _ _ _ _ _ l => decide (l.length ≤ 224)
  | .fwdCmd _ _ _ _ l => l.length = 64
  | .flitForward _ _ k _ l => decide (l.length ≤ 240) && decide (k.toNat ≠ 0)
  | _ => true

end Sys2Proof
end

