-- ==== Sys2Proof/Certificates/Slice0/Obligations.lean ====
section
/-! DEFINITION. The statements for the provers, in the order of OBLIGATIONS.json: the machine as a whole, time and monitors,
faults and memories, resets and boot, host and security, the front end, span instructions, runs, links.
-/

open Sys2Proof Sys2Proof.Machine

/-! ### The machine as a whole -/

/-- With a command in front of the queue, a step is that command's effect on the state with the queue's rest. -/
def Obligations.StepRunsFrontCommand : Prop :=
  ∀ (c : Instr) (rest : List Instr) (s : State),
    step { s with pending := c :: rest } = exec c { s with pending := rest }

/-- With an empty queue a step is one TCLK tick (log entry 5): nothing where the die has no clock, and otherwise the time
counter and the count of ticks go on by one (R471, R473), and every span that is not fenced counts its cycles and injects
the first of the VC1 flits that it holds (R370), which the mesh takes in the order of the spans. What takes time and has no row
of its own completes: a reset of the function, the rebuilding of recovery copies, the writing of a checkpoint (entries 24, 30, 89).
-/
def Obligations.IdleStepIsOneTick : Prop :=
  ∀ s : State, s.pending = [] →
    ∃ t, step s = .next t ∧ (s.running = false → t = s) ∧
      (s.running = true → t.time = s.time.advance 1 ∧ t.time.ticks = s.time.ticks + 1 ∧ t.pending = [] ∧
        (∀ n, n < 16 → t.span n = if s.spanFenced n then s.span n else { (s.span n).advance s.mon.level 1 with
          eng := { (s.span n).eng with inject := (s.span n).eng.inject.drop 1 } }) ∧
        t.mesh = { s.mesh with vc1 := s.mesh.vc1 ++ spanIds.flatMap (fun n => if s.spanFenced n then []
          else ((s.eng n).inject.take 1).map (fun (m : Vc1Msg) => { m with gen := s.mesh.generation })) } ∧
        t.boot = { s.boot with ready := s.boot.ready || s.boot.resetting, resetting := false } ∧
        t.runs = s.runs.map (fun (r : Run) => { r with ckptOpen := r.ckptOpen.map (fun _ => true) }) ∧
        t.problems = s.problems.map (fun (p : Problem) => { p with recovery := p.recovery || p.rebuild, rebuild := false }) ∧
        { t with spans := s.spans, time := s.time, boot := s.boot, mesh := s.mesh, runs := s.runs, problems := s.problems } = s)

/-- What the state holds after reset, as the spec gives it: the boot is in stage 5 and the device is not ready (Table
20.4), time is 0 (R471, R473), no fault, fence or timer (Table 17.6), contexts FREE, links DISABLED, the RNG STARTING
(R452), piers IDLE with launch sequence 0, tile exponents 127 (R495), no command waiting and no memory listed. -/
def Obligations.ResetValues : Prop :=
  State.reset.pending = [] ∧ State.reset.boot.stage = 5 ∧ State.reset.boot.ready = false ∧ State.reset.boot.cause = 0 ∧
  State.reset.time.sec = 0 ∧ State.reset.time.sub = 0 ∧ State.reset.time.ticks = 0 ∧ State.reset.time.pps = 0 ∧
  State.reset.flt.state = 0 ∧ State.reset.flt.escTime = 1000 ∧ State.reset.flt.quiet = 10000 ∧
  State.reset.flt.limit = 3 ∧ State.reset.flt.window = 3600 ∧ State.reset.flt.esc = none ∧
  State.reset.flt.spans = 0 ∧ State.reset.flt.mems = 0 ∧ State.reset.flt.links = 0 ∧ State.reset.flt.cxls = 0 ∧
  State.reset.sec.rng = 0 ∧ State.reset.sec.debug = false ∧ State.reset.mem = [] ∧ State.reset.runs = [] ∧
  State.reset.problems = [] ∧
  (∀ c, (State.reset.ctx c).state = .free) ∧ (∀ l, (State.reset.link l).state = lnkDisabled) ∧
  (∀ b, (State.reset.block b).status = 0 ∧ (State.reset.block b).irqEn = 0xFFFFFFFF) ∧
  (∀ n, (State.reset.pier n).code = 0 ∧ (State.reset.pier n).launchSeq = 0 ∧ (State.reset.pier n).loops = [] ∧
    (State.reset.span n).texp = [] ∧ (State.reset.span n).cycles = 0 ∧ (State.reset.span n).scrub = 1000)

/-- The invariant holds after reset. -/
def Obligations.InvAtReset : Prop := Inv State.reset

/-- Every step from a state with the invariant, reachable or not, gives a state with it: memory keeps its canonical form,
the fault state stays legal, the escalation timer runs exactly while the device escalates (R425, R426), and ALIVE_OUT
toggles exactly while the device is not in FAULT (R427, R429). -/
def Obligations.StepKeepsInv : Prop := ∀ s t : State, Inv s → step s = .next t → Inv t

/-- Every command, in every state and with every operand, has a next state: ordinary data ends no run. Its effect is on
everything but the queue, which that state holds as before. -/
def Obligations.EveryCommandGoes : Prop :=
  ∀ (c : Instr) (s : State), ∃ t : State, exec c s = .next t ∧ t.pending = s.pending

/-- A fence lasts until PERST_N or a power cycle (R424), and a loss of PLL lock, which acts as one (R470): no other
command lifts the fence of a span, of a memory stop, of a link, of a set of a link's lanes or of a CXL port. -/
def Obligations.FencesLast : Prop :=
  ∀ (c : Instr) (s t : State), isDieReset c = false → exec c s = .next t →
    (∀ n, s.spanFenced n = true → t.spanFenced n = true) ∧ (∀ n, s.memFenced n = true → t.memFenced n = true) ∧
    (∀ l, s.linkFenced l = true → t.linkFenced l = true) ∧
    (∀ l k, (s.fencedLanes l).getLsbD k = true → (t.fencedLanes l).getLsbD k = true) ∧ (∀ p, s.cxlFenced p = true → t.cxlFenced p = true)

/-- What goes on by itself after a command (waiting piers, barriers and runs) never touches the queue, power and pins but the
CXL resets, the boot, time, configuration, monitors, keys, flash, the mailbox, the bus but what is sent on it, or the
link-system registers, nor of the security block anything but the DRBG that a run's seed comes from, and leaves the fault state
and its timer as they are or starts the timer from NORMAL. -/
def Obligations.GoingOnFrame : Prop :=
  ∀ s : State, let t := s.carryOn
    t.pending = s.pending ∧ t.boot = s.boot ∧ t.time = s.time ∧ t.mon = s.mon ∧ t.mbx = s.mbx ∧ t.linkSys = s.linkSys ∧
    { t.pwr with cxlPerst := s.pwr.cxlPerst } = s.pwr ∧ { t.sec with gens := s.sec.gens, drbg := s.sec.drbg } = s.sec ∧
    { t.pcie with herr := s.pcie.herr, pba := s.pcie.pba } = s.pcie ∧ { t.bus with sent := s.bus.sent } = s.bus ∧
    t.flt.cause = s.flt.cause ∧ t.flt.recs = s.flt.recs ∧ t.flt.recCount = s.flt.recCount ∧
    (t.flt.state = s.flt.state ∧ t.flt.esc = s.flt.esc ∨
      s.flt.state = 0 ∧ t.flt.state = 1 ∧ t.flt.esc = some ⟨s.time.ticks, s.flt.escTime * 250000⟩) ∧
    (Memory.wf s.mem = true → Memory.wf t.mem = true)

/-- In a state in which no run is in execution, no pier waits, no anneal instruction is at the head of a pier and no word of
the spans' arrays is poisoned, nothing goes on by itself. -/
def Obligations.NothingGoesOnWhenQuiet : Prop := ∀ s : State, Quiet s → s.carryOn = s

/-- Encoding a span instruction and decoding the word gives the instruction back, for every opcode and every value of
every field (R303, R304). -/
def Obligations.SpanWordsRoundTrip : Prop := ∀ i : SpanInstr, decodeSpan (encodeSpan i) = some i




/-! ### Time and monitors -/

/-- One TCLK tick of the time counter while no ticks are held (R471-R473): TIME_SUB increments, and from 249,999,999 it
rolls over to 0 and TIME_SEC increments modulo 2^32, or takes a pending set value, which is consumed; the count of ticks
goes on by one, and nothing else of the time block changes, but that a captured edge which was not accepted by its acceptance tick
is ignored and counted (R475). -/
def Obligations.TimeCounts : Prop :=
  ∀ t : Time, t.hold = 0 →
    let late : Prop := ∃ c, t.cap = some c ∧ c.tick + 24 ≤ t.ticks
    let u : Time := { t.advance 1 with cap := t.cap, ignored := t.ignored }
    (t.sub < 249999999 → u = { t with sub := t.sub + 1, ticks := t.ticks + 1 }) ∧
    (t.sub = 249999999 → t.setTo = none → u = { t with sub := 0, sec := (t.sec + 1) % 2 ^ 32, ticks := t.ticks + 1 }) ∧
    (t.sub = 249999999 → ∀ v, v < 2 ^ 32 → t.setTo = some v →
      u = { t with sub := 0, sec := v, setTo := none, ticks := t.ticks + 1 }) ∧
    (late → (t.advance 1).cap = none ∧ (t.advance 1).ignored = min 65535 (t.ignored + 1)) ∧
    (¬ late → (t.advance 1).cap = t.cap ∧ (t.advance 1).ignored = t.ignored)

/-- DEV_TIME_SET (R472): a write makes S the pending value, in place of an earlier one, and changes nothing else; a write
that the function does not take changes nothing. TIME_ROLLOVER brings time to the next rollover (log entry 5), at which
TIME_SUB is 0 and TIME_SEC is the pending value, which is consumed, or one more. -/
def Obligations.TimeIsSetAtRollover : Prop :=
  (∀ (v : BitVec 32) (s : State), exec (.devTimeSet v) s =
    .next (if s.barOk then { s with time := { s.time with setTo := some v.toNat } } else s)) ∧
  (∀ s : State, s.running = true → s.time.sub < 250000000 → ∃ t : State, exec .timeRollover s = .next t ∧
    { t.time with cap := s.time.cap, ignored := s.time.ignored } = { s.time with
      hold := 0, sub := 0, setTo := none, ticks := s.time.ticks + (s.time.hold + (250000000 - s.time.sub)),
      sec := match s.time.setTo with
        | some v => v % 2 ^ 32
        | none => (s.time.sec + 1) % 2 ^ 32 } ∧
    { t with time := s.time, spans := s.spans, boot := s.boot, mesh := s.mesh, runs := s.runs, problems := s.problems } = s)

/-- The edges of PPS (R474-R476). PPS_CAPTURE: a rising edge is captured with the counter and the tick, unless it comes
less than 0.5 s after the capture tick of the last accepted edge: then it is ignored and counted. (An edge captured before
and not accepted counts as ignored too: it was not high for 25 ticks.) PPS_ACCEPT: 24 ticks after the capture tick the
edge aligns the counter, or jumps it, with d the offset of the capture from 3 ticks past a second and S the second that
the edge marks, or the pending set value; a rollover since the capture has started that second (log entry 122). PPS_LOST: 1.5 s without an accepted edge set state LOST and the lost bit, count
the loss and raise vector 1,042. A timed row brings time to its instant (log entry 5). -/
def Obligations.PpsEdges : Prop :=
  (∀ s : State, s.running = true →
    let early : Prop := ∃ a, s.time.lastAcc = some a ∧ s.time.ticks < a + 125000000
    let lost := if s.time.cap.isSome then min 65535 (s.time.ignored + 1) else s.time.ignored
    (early → exec .ppsCapture s = .next { s with time := { s.time with cap := none, ignored := min 65535 (lost + 1) } }) ∧
    (¬ early → exec .ppsCapture s = .next { s with time := { s.time with
      cap := some ⟨s.time.sec, s.time.sub, s.time.ticks⟩, ignored := lost } })) ∧
  (∀ (s : State) (c : PpsEdge), s.time.cap = some c → s.now ≤ c.tick + 24 →
    let r := (s.passTo (c.tick + 24)).time
    let d := ((c.sub : Int) - 3 + 125000000) % 250000000 - 125000000
    let second := r.setTo.getD (if 0 ≤ d then c.sec else if r.sub < c.sub then r.sec else (c.sec + 1) % 2 ^ 32)
    ∃ t : State, exec .ppsAccept s = .next t ∧ t.time.sec = second ∧ t.time.pps = 1 ∧ t.time.ppsLast = d ∧
      t.time.setTo = none ∧ t.time.cap = none ∧ t.time.lastAcc = some c.tick ∧ t.time.ticks = r.ticks ∧
      (0 < d → d ≤ 8 → t.time.sub = r.sub ∧ t.time.hold = d.toNat ∧ t.time.jumps = r.jumps) ∧
      (d = 0 → t.time.sub = r.sub ∧ t.time.jumps = r.jumps) ∧
      (-8 ≤ d → d < 0 → t.time.sub = 27 ∧ t.time.hold = 0 ∧ t.time.jumps = r.jumps) ∧
      (d < -8 ∨ 8 < d → t.time.sub = 27 ∧ t.time.hold = 0 ∧ t.time.jump = true ∧ t.time.jumps = min 255 (r.jumps + 1))) ∧
  (∀ s : State, s.running = true → s.time.pps ≠ 2 →
    let r := s.passTo (s.time.lossMark + 375000000)
    exec .ppsLost s = .next ({ r with time := { r.time with
      pps := 2, lost := true, losses := min 255 (r.time.losses + 1) } }.raiseVector 1042))

/-- SENSOR_SAMPLE (R477, R480, R482), 100 µs after the sample before it: the readings are stored, in units of 0.125 °C; the
inlet is cold below 15 °C; THERM_N is asserted at a Tj of 105 °C or with a module sensor at its limit, is released below 100 °C
with none at its limit, and stays between; source 1 is raised when the sample is the first at 105 °C, and source 3 for each
module sensor newly at its limit. A timed row brings time to its instant (log entry 5). -/
def Obligations.SensorSamples : Prop :=
  ∀ (die mod : List Int) (s : State), s.running = true →
    let r := s.passTo (s.mon.sensorTick + 25000)
    let m : Mon := { r.mon with die := storeReadings die, mod := storeReadings mod, sensorTick := r.now }
    let limits : List Nat := m.atLimit
    let new := limits.filter (fun k => !r.mon.modCond.contains k)
    let s₁ : State := { r with
      mon := { m with inletCold := decide (Store.get 0 1 m.mod < 120), hot := decide (840 ≤ m.tj), modCond := limits },
      pwr := { r.pwr with therm :=
        if 840 ≤ m.tj || !limits.isEmpty then true else if m.tj < 800 then false else r.pwr.therm } }
    let s₂ := if 840 ≤ m.tj && !r.mon.hot then s₁.raise .mon 1 0 else s₁
    exec (.sensorSample die mod) s = .next (new.foldl (fun t _ => t.raise .mon 3 0) s₂)

/-- THERMAL_CONTROL (R481), 1 ms after the control step before it: at a Tj of 105 °C the throttle level becomes 8, otherwise
from 95 °C it rises by 1 up to 8, and below 92 °C it falls by 1 down to 0; a change is counted and raises MON source 0, and with
no change nothing else happens. ALIVE_TOGGLE (R504): ALIVE_OUT toggles 125,000 ticks after it last did. A timed row brings time
to its instant (log entry 5). -/
def Obligations.ThrottleAndAlive : Prop :=
  (∀ s : State, s.running = true →
    let r := s.passTo (s.mon.controlTick + 250000)
    let u : State := { r with mon := { r.mon with controlTick := r.now } }
    let k := u.mon.level
    let next := if 840 ≤ u.mon.tj then 8 else if 760 ≤ u.mon.tj ∧ k < 8 then k + 1
      else if u.mon.tj < 736 ∧ 0 < k then k - 1 else k
    exec .thermalControl s = .next (if next = k then u
      else { u with mon := { u.mon with level := next, steps := min 65535 (u.mon.steps + 1) } }.raise .mon 0 0)) ∧
  (∀ s : State, s.running = true → s.pwr.aliveRun = true →
    let r := s.passTo (s.pwr.aliveTick + 125000)
    exec .aliveToggle s = .next { r with pwr := { r.pwr with alive := !r.pwr.alive, aliveTick := r.now } })

/-- VOLTAGE_SAMPLE (R478), 10 µs after the sample before it: each rail's reading is stored with whether it lies below or above
its window of Table 19.1, and source 2 is raised for each rail that has newly left its window. PROCESS_MONITOR_WINDOW (R479),
4,096 ticks after the window before it: the monitor's count is stored, and nothing is raised. A timed row brings time to its
instant (log entry 5). -/
def Obligations.VoltagesAndProcess : Prop :=
  (∀ (mv : List Nat) (s : State), s.running = true →
    let r := s.passTo (s.mon.voltTick + 2500)
    let readings := mv.zipIdx.map (fun p => (p.2, voltReading p.2 p.1))
    let out := (readings.filter (fun q => q.2.low || q.2.high)).map Prod.fst
    let new := out.filter (fun v => !r.mon.voltCond.contains v)
    exec (.voltageSample mv) s = .next (new.foldl (fun t _ => t.raise .mon 2 0)
      { r with mon := { r.mon with volt := Store.putAll ⟨0, false, false⟩ readings r.mon.volt, voltCond := out,
                                   voltTick := r.now } })) ∧
  (voltReading 0 9999).low = true ∧ (voltReading 0 10000).low = false ∧ (voltReading 0 15000).high = false ∧
  (voltReading 0 15001).high = true ∧ (voltReading 3 712).low = true ∧ (voltReading 3 713).low = false ∧
  (voltReading 3 787).high = false ∧ (voltReading 3 788).high = true ∧
  (∀ (n : Fin 16) (count : BitVec 16) (s : State), s.running = true →
    let r := s.passTo (Store.get 0 n.val s.mon.procTick + 4096)
    exec (.processMonitorWindow n count) s =
      .next { r with mon := { r.mon with proc := Store.put 0 n.val count.toNat r.mon.proc,
                                         procTick := Store.put 0 n.val r.now r.mon.procTick } })

/-! ### Faults, fences and memories -/

/-- Raising a source (R415, R419-R421, R425, R429): the history queue takes an entry with the time, the source, the
severity applied and the detail, the source's status bit is set and the CORR count goes up for that severity; the block's vector is
raised where the source is enabled, and vector 1,041 for FENCE and ESCALATE, once where both are the same vector. A FENCE
or ESCALATE in FAULT, before the quiet period's end, starts the quiet period anew, and an ESCALATE in NORMAL starts the timer. -/
def Obligations.RaiseEntersHistory : Prop :=
  ∀ (s : State) (b : BlockId) (k detail : Nat),
    let sev := s.appliedSeverity b k
    let irq := (s.block b).irqEn.getLsbD k
    let f := s.block b
    let t := s.enterRaise b k false detail
    t.block b = { f.enter ⟨s.now, s.time.sec, s.time.sub, k, sev, false, detail⟩ with
      status := f.status ||| (1#32 <<< k), corr := if sev = 1 then min 0xFFFFFFFF (f.corr + 1) else f.corr } ∧
    (f.valid < 8 → (t.block b).valid = f.valid + 1 ∧ (t.block b).ovf = f.ovf ∧ (t.block b).oldest = f.oldest) ∧
    (f.valid = 8 → (t.block b).valid = 8 ∧ (t.block b).ovf = min 0xFFFFFFFF (f.ovf + 1) ∧
      (t.block b).oldest = (f.oldest + 1) % 8) ∧
    t.flt = (if sev = 3 ∧ s.flt.state = 0 then
        { s.flt with state := 1, esc := some ⟨s.now, s.flt.escTime * 250000⟩ }
      else if 2 ≤ sev ∧ s.inQuiet = true then { s.flt with quietFrom := s.now } else s.flt) ∧
    (let v : State := if irq = true then s.raiseVector (blockVector b) else s
     let w : State := if 2 ≤ sev ∧ ¬ (irq = true ∧ blockVector b = 1041) then v.raiseVector 1041 else v
     t.pcie = w.pcie ∧ t.bus = w.bus) ∧
    { t with blocks := s.blocks, flt := s.flt, pcie := s.pcie, bus := s.bus } = s

/-- FLT_ACK (R426): a write of 1 to `FLT_ACK.ack` at an instant inside the window [start, start + length) stops the timer,
and the state returns to NORMAL; a write at any other time, at the window's end among them, has no effect. When the
window ends without such a write, the device enters FAULT. -/
def Obligations.AcknowledgeInsideTheWindow : Prop :=
  ∀ s : State, s.barOk = true →
    (∀ e, s.flt.state = 1 → s.flt.esc = some e → e.start ≤ s.now → s.now < e.start + e.length →
      exec .fltAck s = .next { s with flt := { s.flt with state := 0, esc := none } }) ∧
    (s.flt.state ≠ 1 → exec .fltAck s = .next s) ∧
    (∀ e, s.flt.esc = some e → s.now < e.start ∨ e.start + e.length ≤ s.now → exec .fltAck s = .next s) ∧
    (s.flt.esc = none → exec .fltAck s = .next s) ∧
    (∀ e, s.flt.state = 1 → s.flt.esc = some e → s.now = e.start + e.length → ∃ u : State,
      exec .escalationExpiry s = .next u.carryOn ∧ u = s.enterFault 2 1 ∧ u.flt.state = 2 ∧ u.flt.cause = 1)

/-- ESCALATION_EXPIRY (R426, R427): when the window ends the device enters FAULT with cause escalation, at the window's
end. WATCHDOG_EXPIRY (R431): the state becomes LATCHED with cause watchdog. In both cases ALIVE_OUT stops, no timer runs,
every link is DISABLED or DOWN, and every run has the fault among its stop causes. A timed row brings time to its instant
(log entry 5). -/
def Obligations.EnteringFault : Prop :=
  (∀ (s : State) (e : EscTimer), s.running = true → s.flt.state = 1 → s.flt.esc = some e →
    ∃ u : State, exec .escalationExpiry s = .next u.carryOn ∧ u = (s.passTo (e.start + e.length)).enterFault 2 1) ∧
  (∀ s : State, s.running = true → ∃ u : State, exec .watchdogExpiry s = .next u.carryOn ∧ u = s.enterFault 3 2) ∧
  (∀ (s : State) (state cause : Nat), let u := s.enterFault state cause
    u.flt.state = state ∧ u.flt.cause = cause ∧ u.flt.esc = none ∧ u.flt.quietFrom = s.now ∧ u.pwr.aliveRun = false ∧
    u.pwr.alive = s.pwr.alive ∧ u.time = s.time ∧ u.boot = s.boot ∧ u.pending = s.pending ∧
    (∀ l, l < 4 → (u.link l).state = lnkDisabled ∨ (u.link l).state = lnkDown) ∧
    (∀ r, r ∈ u.runs → r.stops.fault = true))

/-- QUIET_PERIOD_END (R429, R430): at the end of the quiet period the device recovers to NORMAL, the recovery is counted,
ALIVE_OUT toggles again and vector 1,041 is raised; but where as many recoveries as the limit lie in the window before, it
does not leave FAULT, and the state becomes LATCHED with cause recovery limit. A timed row brings time to its instant (log
entry 5). -/
def Obligations.QuietPeriodEnds : Prop :=
  ∀ s : State, s.running = true → s.flt.state = 2 →
    let r := s.passTo (s.flt.quietFrom + s.flt.quiet * 250000)
    let made := (r.flt.recs.filter (fun t => decide (r.now ≤ t + r.flt.window * 250000000) && decide (t < r.now))).length
    (r.flt.limit ≤ made → exec .quietPeriodEnd s = .next { r with flt := { r.flt with state := 3, cause := 4 } }) ∧
    (made < r.flt.limit → ∃ u : State, exec .quietPeriodEnd s = .next u.carryOn ∧
      u.flt = { r.flt with state := 0, recCount := min 65535 (r.flt.recCount + 1), recs := r.flt.recs ++ [r.now] } ∧
      u.pwr = { r.pwr with aliveRun := true, aliveTick := r.now } ∧
      (∀ l, l < 4 → u.link l = if (r.link l).enable ∧ (r.link l).state = lnkDown ∧ ¬ r.linkFenced l then
          (r.startTraining l).link l else r.link l) ∧
      u.pcie = (r.raiseVector 1041).pcie ∧ u.bus = (r.raiseVector 1041).bus ∧
      { u with flt := r.flt, pwr := r.pwr, links := r.links, pcie := r.pcie, bus := r.bus } = r)

/-- FLT_QUEUE_CLEAR (R419): the block's history queue is emptied and nothing else changes; the block of a fenced span
takes no such write (R530). SPAN_HEARTBEAT_TIMEOUT (R416, R418): source 4 of the span's block is raised when the condition
arises, and not again while it lasts. STALL_CHECK (R296), 100 ms after the check before it: an EVWAIT that has waited 1 s marks
its context as stalled and raises vector 1,058 (stated where one context is listed), and with no stall due nothing else
happens. A timed row brings time to its instant (log entry 5). That a row out of place changes nothing is the model's choice
(log entry 6). -/
def Obligations.QueueClearHeartbeatStall : Prop :=
  (∀ (b : BlockId) (s : State), exec (.fltQueueClear b) s =
    .next (if s.barOk && s.blockTakesWrites b then s.modBlock b (fun f => { f with valid := 0 }) else s)) ∧
  (∀ (b : BlockId) (s : State), (s.modBlock b (fun f => { f with valid := 0 })).block b = { s.block b with valid := 0 }) ∧
  (∀ (n : Fin 16) (s : State), s.running = true → s.spanFenced n.val = false →
    ((s.span n.val).silent = false → exec (.spanHeartbeatTimeout n) s =
      .next ((s.modSpan n.val (fun x => { x with silent := true })).raise (.spn n) 4 0).carryOn) ∧
    ((s.span n.val).silent = true → exec (.spanHeartbeatTimeout n) s = .next s)) ∧
  (∀ s : State, s.running = true →
    let r := s.passTo (s.fe.stallTick + 25000000)
    let t : State := { r with fe := { r.fe with stallTick := r.now } }
    (∀ (c : Nat) (x : Ctx) (e : Exec), t.ctxs = [(c, x)] → x.exec = some e →
      e.cmd.opcode = 0x04 → e.phase = .working → e.start + 250000000 ≤ t.now → x.stalled = false →
      exec .stallCheck s = .next ((t.modCtx c (fun y => { y with stalled := true })).raiseVector 1058)) ∧
    ((∀ q, q ∈ t.ctxs → q.2.stallDue t.now = false) → exec .stallCheck s = .next t))

/-- ROUTER_FAILURE and CREDIT_TIMEOUT (R380, R381): a router that fails takes the flits inside it with it, it is marked, MESH
source 1 is raised with its fixed fence, and a detour is to be built; the stop behind it is fenced where Table 14.3 says so (a
span, a memory stop, a link, a CXL port), nothing is behind the two empty places, and the loss of HST, FE, KS or SEC puts the
device into LATCHED with cause mesh. One that has failed before changes nothing. That a row out of place changes nothing is the
model's choice (log entry 6). -/
def Obligations.RoutersFail : Prop :=
  ∀ (f : RouterLoss) (s : State), s.running = true →
    let r := f.router
    let q := s.loseInside r.val f.inside
    let u := { q with mesh := { q.mesh with failed := s.mesh.failed ||| (1#36 <<< r.val), installBusy := true } }.enterRaise .mesh 1 true 0
    exec (.creditTimeout f) s = exec (.routerFailure f) s ∧
    { q with mesh := { q.mesh with vc1 := s.mesh.vc1 } } = s ∧
    (s.mesh.failed.getLsbD r.val = true → exec (.routerFailure f) s = .next s.carryOn) ∧
    (s.mesh.failed.getLsbD r.val = false →
      (∀ n, stopAt r.val = .span n → exec (.routerFailure f) s = .next (u.fenceSpan n).carryOn) ∧
      (∀ n, stopAt r.val = .mem n → exec (.routerFailure f) s = .next (u.fenceMem n).carryOn) ∧
      (∀ l, stopAt r.val = .lnk l → exec (.routerFailure f) s = .next (u.fenceLink l 0).carryOn) ∧
      (∀ p, stopAt r.val = .cxl p → exec (.routerFailure f) s = .next (u.fenceCxl p).carryOn) ∧
      (stopAt r.val = .empty → exec (.routerFailure f) s = .next u.carryOn) ∧
      (stopAt r.val = .service → exec (.routerFailure f) s =
        .next ({ u with mesh := { u.mesh with installBusy := false } }.enterFault 3 3).carryOn))

/-- DETOUR_INSTALL (R381-R384): tables that give every pair of working stops a route of at most four more hops around the
failed routers, with no cycle of buffer dependency, are in force as the next generation, and installation is no longer in
progress; where the builder found none, and no table that the model finds serves (log entry 13), the device enters FAULT as
LATCHED with cause mesh (R382, R431); with no installation in progress nothing happens. That tables which R381 and R382 do not
admit, and a row out of place, change nothing is the model's choice (log entry 6). -/
def Obligations.DetoursAreInstalled : Prop :=
  (∀ (l : List (List (Fin 36))) (s : State), s.running = true → s.mesh.installBusy = true →
    let tables := l.map (fun r => r.map Fin.val)
    (s.tablesOk tables = true → ∃ u : State, exec (.detourInstall true l) s = .next u.carryOn ∧ u = s.install tables ∧
      u.mesh.routes = tableOf tables ∧ u.mesh.detour = true ∧ u.mesh.installBusy = false ∧
      u.mesh.generation = (s.mesh.generation + 1) % 256 ∧ u.mesh.failed = s.mesh.failed ∧ u.flt = s.flt) ∧
    (s.tablesOk tables = false → exec (.detourInstall true l) s = .next s)) ∧
  (∀ (l : List (List (Fin 36))) (s : State), s.running = true → s.mesh.installBusy = true →
    (s.tableExists = true → exec (.detourInstall false l) s = .next s) ∧
    (s.tableExists = false → exec (.detourInstall false l) s = .next ({ s with mesh := { s.mesh with installBusy := false } }.enterFault 3 3).carryOn)) ∧
  (∀ (built : Bool) (l : List (List (Fin 36))) (s : State), s.mesh.installBusy = false →
    exec (.detourInstall built l) s = .next s)

/-- MEM_RETRAIN and MEM_PERIODIC_RETRAIN (R392): an interface that retrains holds its rate or moves to the next lower one, 40,
36 and 32 Gb/s being codes 0, 1 and 2; one that fails at 32 Gb/s raises its retrain-failure source. The periodic retrain is due
100 ms after the one before it was. A timed row brings time to its instant (log entry 5). -/
def Obligations.InterfacesRetrain : Prop :=
  (∀ (i : Fin 16) (holds : Bool) (s : State), s.barOk = true → (s.memIface i.val).active = true →
    s.memFenced (i.val / 2) = false → exec (.memRetrain i holds) s = .next (s.retrainMem i.val holds).carryOn) ∧
  (∀ (i : Fin 16) (holds : Bool) (s : State), s.running = true → (s.memIface i.val).active = true →
    s.memFenced (i.val / 2) = false →
    let due := (s.memIface i.val).retrainTick + 25000000
    exec (.memPeriodicRetrain i holds) s =
      .next (((s.passTo due).modMem i.val (fun x => { x with retrainTick := due })).retrainMem i.val holds).carryOn) ∧
  (∀ (s : State) (i : Nat), s.retrainMem i true = s ∧
    ((s.memIface i).rate < 2 → MemOnly s (s.retrainMem i false) i { s.memIface i with rate := (s.memIface i).rate + 1 }) ∧
    (2 ≤ (s.memIface i).rate → s.retrainMem i false = s.raise (memBlock (i / 2)) (5 * (i % 2) + 3) 0))

/-- MEM_TEMPERATURE_CHANGE (R393): the refresh rate is ×1 below 85 °C, ×2 from 85 °C and ×4 from 95 °C, and the
interface's over-temperature source is raised when 105 °C is newly reached. SCRUB_PERIOD (R360): one
period after the scrub before it the scrubber meets the errors of its span, and of no other, unless its period is 0. A timed
row brings time to its instant (log entry 5). That a row out of place changes nothing is the model's choice
(log entry 6). -/
def Obligations.MemoryTemperatureAndScrub : Prop :=
  (∀ (i : Fin 16) (temp : BitVec 8) (s : State), s.running = true →
    let t := temp.toNat
    let u := s.modMem i.val (fun x => { x with
      temp := t, refresh := if t < 85 then 0 else if t < 95 then 1 else 2, hot := decide (105 ≤ t) })
    exec (.memTemperatureChange i temp) s =
      .next (if 105 ≤ t && !(s.memIface i.val).hot then (u.raise (memBlock (i.val / 2)) (5 * (i.val % 2) + 4) 0).carryOn else u)) ∧
  (∀ (n : Fin 16) (events : List MemEvent) (s : State), s.running = true → s.spanFenced n.val = false →
    (s.span n.val).scrub ≠ 0 →
    let r := s.passTo ((s.span n.val).scrubTick + (s.span n.val).scrub * 250000)
    exec (.scrubPeriod n events) s = .next ((r.modSpan n.val (fun x => { x with scrubTick := r.now })).memEvents
      (events.filter (fun e => eventSpan e = some n.val))).carryOn) ∧
  (∀ (n : Fin 16) (events : List MemEvent) (s : State), (s.span n.val).scrub = 0 → exec (.scrubPeriod n events) s = .next s)

/-- CXL_TIMEOUT (R398): the request that gets no response fails for its requester, and the timeout is counted and raised as
source 2; the third within one second fences the port. A DMA transfer keeps the address and the cause for its end, an atomic is
not performed, the row of any other requester is executed with that one access failing (log entry 90). CXL_LINK_LOSS (R398,
R423): source 3, whose fence is fixed. CPL_TIMEOUT (R412): so fails a read of the host, and no other read. -/
def Obligations.PortsAndHostReadsFail : Prop :=
  (∀ (q : CxlRequest) (s t : State), s.running = true → let p := q.port
    let a := q.addr.toNat
    (s.cxl p.val).present = true → s.cxlFenced p.val = false → s.onPort p.val a = true → s.cxlFails q.requester a = .next t →
    let recent := ((t.cxl p.val).recent.filter (fun k => decide (k ≤ t.now) && decide (t.now < k + 250000000))) ++ [t.now]
    let v := t.modCxl p.val (fun x => { x with timeouts := min 0xFFFFFFFF (x.timeouts + 1), recent := recent })
    exec (.cxlTimeout q) s = .next (if 3 ≤ recent.length then (v.enterRaise (.cxl p) 2 true 0).fenceCxl p.val
      else v.raise (.cxl p) 2 0).carryOn) ∧
  (∀ (p : Fin 2) (s : State), s.running = true → (s.cxl p.val).present = true → s.cxlFenced p.val = false →
    exec (.cxlLinkLoss p) s = .next ((s.enterRaise (.cxl p) 3 true 0).fenceCxl p.val).carryOn) ∧
  (∀ (c : Fin 1024) (a : Nat) (how : ReadFail) (s : State),
    let f : State := { s with pcie := { s.pcie with readFail := some (a, how) } }
    ∃ t u v : State,
      (exec (.commandFetch c) f = .next t ∧
        s.readerFails (.fetch c) a how = .next { t with pcie := { t.pcie with readFail := none } }) ∧
      (exec (.batchDescriptorTake c) f = .next u ∧
        s.readerFails (.descriptor c) a how = .next { u with pcie := { u.pcie with readFail := none } }) ∧
      (f.rowOf c = .next v ∧
        s.readerFails (.command c) a how = .next { v with pcie := { v.pcie with readFail := none } })) ∧
  (∀ (n : Fin 16) (tag : Fin 32) (a : Nat) (how : ReadFail) (s : State),
    let x := (s.pier n.val).tag tag.val
    x.busy = true → x.readFail = none → (x.src ≤ a ∧ a < x.src + x.len) ∨ (x.dst ≤ a ∧ a < x.dst + x.len) →
    s.readerFails (.dma n tag) a how =
      .next (s.modPier n.val (fun p => p.setTag tag.val { x with readFail := some (a, how) }))) ∧
  (∀ (n : Fin 16) (a : Nat) (s : State), ∃ u : State, s.cxlFails (.atomic n) a = .next u ∧
    { u with spans := s.spans } = s) ∧
  (∀ (r : HostReader) (a : BitVec 48) (how : HostError) (s : State), s.running = true → 2 ^ 47 ≤ a.toNat →
    exec (.cplTimeout r a how) s = s.readerFails r a.toNat (.host how))
/-! ### Resets and boot -/

/-- PERST_N_ASSERT and PLL_LOCK_LOSS reset the die (R470, R487, R493): nothing of the die is kept but flash, ALIVE_OUT is
low, and a loss of lock is counted. PERST_N_RELEASE (R505) samples SLOT_ID. -/
def Obligations.DieResets : Prop :=
  (∀ s : State, s.pwr.perst = false → ∃ t : State, exec .perstNAssert s = .next t ∧
    AfterDieReset s t { State.reset.boot with cause := 1, relocks := s.boot.relocks } ∧
    t.pwr = { s.pwr with perst := true, alive := false, aliveRun := true, aliveTick := 0, therm := s.pwr.tripped, cxlPerst := 3 }) ∧
  (∀ s : State, s.running = true → ∃ t : State, exec .pllLockLoss s = .next t ∧
    AfterDieReset s t { State.reset.boot with cause := 2, lock := false, relocks := min 255 (s.boot.relocks + 1) } ∧
    t.pwr = { s.pwr with alive := false, aliveRun := true, aliveTick := 0, therm := false, cxlPerst := 3 }) ∧
  (∀ (slot : BitVec 4) (s : State), s.pwr.perst = true →
    exec (.perstNRelease slot) s = .next { s with pwr := { s.pwr with perst := false, slotId := slot } })

/-- The power rows (R483, R485, R486, R506): when the rails go off the die is reset, PWRGD is deasserted and ALIVE_OUT is
low; when they come on, it starts with cause power-on, or thermal trip where one is latched; a trip holds THERM_N asserted
and the module off until PWR_EN is reasserted or 48 V restored. -/
def Obligations.PowerRows : Prop :=
  let off (p : Power) : Power :=
    { p with on := false, good := false, alive := false, aliveRun := true, aliveTick := 0, cxlPerst := 3 }
  let on (p : Power) : Power :=
    { p with on := true, good := true, therm := false, tripped := false, tripCause := false, alive := false,
             aliveRun := true, aliveTick := 0 }
  let start (s : State) : Boot := { State.reset.boot with cause := if s.pwr.tripCause then 5 else 0, relocks := s.boot.relocks }
  (∀ s : State, s.pwr.en = false → s.pwr.vin = true → ∃ t : State, exec .pwrEnAssert s = .next t ∧
    AfterDieReset s t (start s) ∧ t.pwr = on { s.pwr with en := true }) ∧
  (∀ s : State, s.pwr.en = true → s.pwr.on = true → ∃ t : State, exec .pwrEnDeassert s = .next t ∧
    AfterDieReset s t State.reset.boot ∧ t.pwr = off { s.pwr with en := false }) ∧
  (∀ s : State, s.pwr.on = true → ∃ t : State, exec .vinUndervoltage s = .next t ∧
    AfterDieReset s t State.reset.boot ∧ t.pwr = off { s.pwr with vin := false, tripCause := false, therm := false }) ∧
  (∀ s : State, s.pwr.on = true → ∃ t : State, exec .vinOvervoltage s = .next t ∧
    AfterDieReset s t State.reset.boot ∧ t.pwr = off s.pwr) ∧
  (∀ s : State, s.pwr.vin = false → s.pwr.tripped = true → s.pwr.en = true → ∃ t : State, exec .vinRestored s = .next t ∧
    AfterDieReset s t (start s) ∧ t.pwr = on { s.pwr with vin := true }) ∧
  (∀ s : State, s.pwr.on = true → ∃ t : State, exec .thermalTrip s = .next t ∧
    AfterDieReset s t State.reset.boot ∧ t.pwr = off { s.pwr with therm := true, tripped := true, tripCause := true })

/-- FLR and DEV soft reset (R413, R494): contexts are FREE, events zero, problems freed and runs gone, with nothing
written; every unfenced span takes a span reset and keeps its arrays; a FAULT by escalation or recovery limit ends and one
by watchdog or mesh is kept; ready is 0 until the reset completes. FLR also resets configuration space but for the sticky bits
of AER, BAR sizes, MSI-X, `DEV_WIN_BASE` and `DEV_HERR`, and keeps the link to the host. (A system run tells its other parts; where a link drops what
it says, that is raised besides, so the links of the exits are taken to take it.) -/
def Obligations.FunctionResets : Prop :=
  ∀ s : State, (∀ r, r ∈ s.runs → r.sys = none) ∨ (∀ d, (s.link (s.exitFor d)).takes 224 = true) →
    let ends (f : Flt) : Bool := decide (f.state = 2) || (decide (f.state = 3) && decide (f.cause = 4))
    let same (cause : Nat) (t : State) : Prop :=
      t.ctxs = [] ∧ t.events = [] ∧ t.problems = [] ∧ t.runs = [] ∧ t.fe.barriers = [] ∧
      t.boot = { s.boot with cause := cause, ready := false, resetting := s.boot.ready || s.boot.resetting } ∧
      t.flt = { s.flt with recCount := 0, recs := [], state := if ends s.flt then 0 else s.flt.state } ∧
      t.pwr = (if ends s.flt then { s.pwr with aliveRun := true, aliveTick := s.now } else s.pwr) ∧
      (∀ n, n < 16 → (t.span n).bound = none ∧ (t.pier n).launch = none ∧ (t.pier n).queue = [] ∧
        (t.eng n).data = (s.eng n).data ∧ (t.span n).shadow = (s.span n).shadow ∧ (t.span n).spares = (s.span n).spares ∧
        (s.spanFenced n = false → t.pier n = pier0 ∧ (t.span n).texp = [] ∧ (t.span n).cycles = 0)) ∧
      { t with pcie := s.pcie, boot := s.boot, flt := s.flt, pwr := s.pwr, spans := s.spans, ctxs := s.ctxs,
               events := s.events, problems := s.problems, runs := s.runs, early := s.early, mesh := s.mesh,
               fe := s.fe, links := s.links } = s
    (s.running = true → ∃ t : State, exec .flr s = .next t ∧ same 3 t ∧
      t.pcie = { State.reset.pcie with
        speed := s.pcie.speed, width := s.pcie.width, flit := s.pcie.flit, aer := s.pcie.aer }) ∧
    (s.barOk = true → ∃ t : State, exec .devSoftReset s = .next t ∧ same 4 t ∧ t.pcie = s.pcie)

/-- SPAN_RESET (R495): with no launch queued, running or waiting, no run bound and no march test running, the pier becomes IDLE
with an empty loop stack and idle tags, the launch sequence and the cycle counter become 0, every tile exponent 127 (stored as
unlisted), and the arrays stay, with what the span has of its buddy's run (R34); otherwise reset_refused is set and nothing else; a fenced span takes nothing. The march test
(R361, R364): the request starts it where the same holds, and in destructive mode every array is zero from then on;
MARCH_TEST_DONE takes spares for what failed, and a span whose spares run out is fenced, which its block's history shows as a
fence whatever the severity (R363, R423). -/
def Obligations.SpanResetAndMarch : Prop :=
  ∀ (n : Fin 16) (s : State),
    (s.barOk = true → s.spanFenced n.val = false →
      let ok := s.spanIdle n.val && decide ((s.span n.val).marchState ≠ 1)
      ∃ t : State, exec (.spanReset n) s = .next t ∧
        (ok = false → SpanOnly s t n.val { s.span n.val with resetRefused := true }) ∧
        (ok = true → SpanOnly s t n.val { span0 with
          eng := { engine0 with data := (s.eng n.val).data, ghosts := (s.eng n.val).ghosts,
                                pairFlits := (s.eng n.val).pairFlits, pairMarks := (s.eng n.val).pairMarks,
                                pairNext := (s.eng n.val).pairNext }, shadow := (s.span n.val).shadow,
          snap := (s.span n.val).snap, acc := (s.span n.val).acc, poison := (s.span n.val).poison,
          spares := (s.span n.val).spares, repaired := (s.span n.val).repaired, scrub := (s.span n.val).scrub,
          aclk := (s.span n.val).aclk, runTile := (s.span n.val).runTile, scrubTick := (s.span n.val).scrubTick,
          tileBuf := (s.span n.val).tileBuf, fenceRun := (s.span n.val).fenceRun, fencePier := (s.span n.val).fencePier })) ∧
    (s.spanFenced n.val = true → exec (.spanReset n) s = .next s) ∧
    (∀ preserve : Bool, s.barOk = true → s.spanFenced n.val = false → s.spanIdle n.val = true →
      (s.span n.val).marchState ≠ 1 → ∃ t : State, exec (.marchTestRequest n preserve) s = .next t ∧
        (t.span n.val).marchState = 1 ∧ (t.span n.val).marchPreserve = preserve ∧ (t.span n.val).marchKeep = preserve ∧
        (∀ m, m ≠ n.val → t.span m = s.span m) ∧
        { t with spans := s.spans, mem := s.mem, poison := s.poison, problems := s.problems } = s ∧
        (preserve = true → t.mem = s.mem ∧ t.eng n.val = s.eng n.val ∧ t.problems = s.problems) ∧
        (preserve = false → (t.eng n.val).data = spanData0 ∧ (t.span n.val).shadow = [] ∧ (t.span n.val).snap = [] ∧
          (t.span n.val).acc = [] ∧ (t.span n.val).tileBuf = [] ∧
          t.problems = s.problems.map (fun p => p.zeroedIn n.val (spanRegion n.val)) ∧ ∀ a, memGet t.mem a =
            if spanRegion n.val ≤ a ∧ a < spanRegion n.val + scratchSize then 0#8 else memGet s.mem a)) ∧
    (∀ fs : List MarchFinding, s.running = true → s.spanFenced n.val = false → (s.span n.val).marchState = 1 →
      let mine := fs.filter (fun f => f.span = n)
      let out := (s.span n.val).sparesOut mine
      ∃ u : State, exec (.marchTestDone n fs) s = .next u.carryOn ∧
        u = ((let v := s.modSpan n.val (fun x => { x.takeSpares mine with marchState := if out then 3 else 2 });
              if out then v.raiseMandatory (spnBlock n.val) 1 0 else v)).sendLaunches 8 n.val)

/-- Boot stages 5 to 8 (R401, R446, R449, R452, R462, R488, R490, R492): lock goes on to stage 6, and the host port has trained
to a speed and a width, in flit mode at 64 GT/s; failed known-answer tests stop the boot with fail code 6 and an identity failure
does not; failed service rows in FE, KS or SEC stop it with fail code 7, and a span whose spares run out is fenced, which is
noted as at start-up; a request that the management port holds is then tried (R490); the entropy test takes the fallback source where the samples of the
main one fail a health test, and makes the RNG FAILED where those of both do. At another stage nothing happens. That a row out
of place changes nothing is the model's choice (log entry 6). -/
def Obligations.BootStages5To8 : Prop :=
  (∀ (h : HostLink) (width : Fin 5) (s : State), s.pwr.on = true → s.pwr.perst = false → s.boot.failed = false →
    s.boot.stage = 5 → exec (.mainPllLock h width) s = .next
      { s with boot := { s.boot with lock := true, stage := 6 },
               pcie := { s.pcie with speed := BitVec.ofNat 3 h.speed.val, width := BitVec.ofNat 3 width.val,
                                     flit := h.flit || decide (h.speed = 0) } }) ∧
  (∀ (h : HostLink) (width : Fin 5) (s : State), s.boot.stage ≠ 5 → exec (.mainPllLock h width) s = .next s) ∧
  (∀ (pass id : Bool) (s : State), s.atStage 6 = true → exec (.knownAnswerTests pass id) s = .next
    (({ s with sec := { s.sec with identityOk := id, identity := if id then Config.identitySeed else 0 },
               boot := if pass then { s.boot with stage := 7 }
                 else { s.boot with failed := true, failCode := 6 } }).retryRequest true)) ∧
  (∀ (fs : List MarchFinding) (bad : Bool) (s : State), s.atStage 7 = true → ∃ t : State,
    exec (.marchTest fs bad) s = .next (if bad then t.retryRequest true else t) ∧
    t.boot = (if bad then { s.boot with failed := true, failCode := 7 } else { s.boot with stage := 8 }) ∧
    (∀ n, n < 16 → t.spanFenced n = (s.spanFenced n || (s.span n).sparesOut (fs.filter (fun f => f.span.val = n)))) ∧
    (∀ n, n < 16 → (t.flt.startup.getLsbD n) = (s.flt.startup.getLsbD n || (t.spanFenced n && !s.spanFenced n)))) ∧
  (∀ (main fallback : BitVec 4096) (s : State), s.atStage 8 = true → ∃ u : State, exec (.entropyStartupTest main fallback) s = .next u.carryOn ∧
    u = (let v := if healthFails false 4096 main.toNat = false then s
        else if healthFails true 4096 fallback.toNat = false then { s with sec := { s.sec with source := true } } else s.rngFail;
      { v with boot := { v.boot with stage := 9 } }))
/-- Boot stages 9 to 11 (R387, R396, R459, R488-R492): the accepted image and configuration block with the higher security
version boot, slot 0 on equal versions and none below its anti-rollback counter; their slots, versions and settings are taken,
the RNG becomes READY, with a DRBG that is instantiated from free samples and the personalisation string, unless it has failed
or these samples fail a health test (R447), and the links they enable train. Without one of the two a recovery boot stops with fail code 9. A request that the management
port holds is tried in either case (R490). Interfaces take the rate at which they trained, and one that trains at none is fenced
with the other of its stop; their periodic retrains are a sixteenth of 100 ms apart (R392; log entry 120). A CXL device that answers is used, a link that does not train fences its port, and the device is
ready. -/
def Obligations.BootStages9To11 : Prop :=
  (∀ (x : Sec) (k : ObjKind) (c0 c1 : ObjChecks) (i : Nat), x.bootSlot k c0 c1 = some i →
    (i = 0 ∧ x.accepts k 0 c0 = true ∨ i = 1 ∧ x.accepts k 1 c1 = true) ∧ x.counter k ≤ x.slotVersion k i ∧
    (x.accepts k 0 c0 = true → x.accepts k 1 c1 = true →
      (i = 1 ↔ x.slotVersion k 0 < x.slotVersion k 1))) ∧
  (∀ s : State,
    let e := s.samples 1024
    let n := e.2.samples 512
    let d := Drbg.instantiate e.1 n.1 s.sec.cfg.personal
    let w := Drbg.requests 1 32 d
    (s.sec.rng ≠ 0 → s.instantiate = s) ∧
    (s.sec.rng = 0 → s.sec.badSamples (e.1 ++ n.1) = false → s.instantiate = { s with
      free := s.free + 24,
      sec := { s.sec with rng := 1, gens := 1, seedTick := s.now, drbg := w.2,
                          wrapSeed := BitVec.ofNat 256 (leNat w.1) } }) ∧
    (s.sec.rng = 0 → s.sec.badSamples (e.1 ++ n.1) = true →
      s.instantiate = { s with free := s.free + 24 }.rngFail ∧ s.instantiate.sec.rng = 2)) ∧
  (∀ (i0 i1 c0 c1 : ObjChecks) (cfg : ConfigBlock) (s : State), s.atStage 9 = true →
    (∀ i c, s.sec.bootSlot .image i0 i1 = some i → s.sec.bootSlot .config c0 c1 = some c →
      let v : State := State.instantiate { s with sec := { s.sec with
          imageSlot := i, configSlot := c, svImage := s.sec.slotVersion .image i,
          svConfig := s.sec.slotVersion .config c, cfg := cfg } }
      ∃ u : State, exec (.imageVerification i0 i1 c0 c1 cfg) s = .next (u.retryRequest true).carryOn ∧
        u.boot = { v.boot with stage := 10 } ∧ u.blocks = (v.applySeverities cfg.severities).blocks ∧
        (∀ l, l < 4 → let x := v.link l
          u.link l = if cfg.linkEnable.getLsbD l then
            { x with enable := true, state := lnkDetect, peerValid := x.peerValid && decide (x.state ≠ lnkActive), paramRx := false,
                     trainTick := v.now, failed := v.fencedLanes l, width := (widestWidth (v.fencedLanes l)).getD x.width }
          else x) ∧
        { u with boot := v.boot, links := v.links, blocks := v.blocks } = v) ∧
    (s.sec.bootSlot .image i0 i1 = none ∨ s.sec.bootSlot .config c0 c1 = none →
      let q := { s with sec := { s.sec with recovery := true } }.instantiate
      exec (.imageVerification i0 i1 c0 c1 cfg) s =
        .next ({ q with boot := { q.boot with failed := true, failCode := 9 } }.retryRequest true).carryOn)) ∧
  (∀ (rates : List (Option (Fin 3))) (s : State), s.atStage 10 = true →
    ∃ u : State, exec (.gddr7Training rates) s = .next u.carryOn ∧ u.boot = { s.boot with stage := 11 } ∧
      u.pwr = { s.pwr with cxlPerst := s.flt.cxls } ∧
      (∀ (i : Nat) (r : Fin 3), i < 16 → rates[i]? = some (some r) → u.memIface i =
        { s.memIface i with active := true, rate := r.val, retrainTick := s.now + i * 1562500 }) ∧
      (∀ i : Nat, i < 16 → rates[i]? = some none → u.memIface i = s.memIface i ∧ u.memFenced (i / 2) = true) ∧
      (∀ i : Nat, rates.length ≤ i → u.memIface i = s.memIface i) ∧
      (∀ n, n < 8 → u.memFenced n = true → s.memFenced n = true ∨ ∃ i, i / 2 = n ∧ rates[i]? = some none)) ∧
  (∀ (p0 p1 : CxlDevice) (s : State), s.atStage 11 = true →
    ∃ u : State, exec (.cxlEnumeration p0 p1) s = .next u.carryOn ∧ u.boot = { s.boot with ready := true, stage := 12 } ∧
      u.sec.approved = (!s.sec.selfTestFail && !s.sec.debug) ∧
      ∀ q ∈ [(0, p0), (1, p1)], let d : CxlDevice := q.2
        let answers : Prop := d.present = true ∧ d.type3 = true ∧ d.capBytes ≠ 0
        let enc := s.sec.cfg.cxlEnc
        (answers → d.trained = true → (enc = true → s.sec.rng = 1) → u.cxl q.1 = { s.cxl q.1 with
            present := true, enc := enc, width := d.width, speed := d.speed,
            capBytes := if enc then min d.capBytes 0x8000000000 * 127 / 128 else min d.capBytes 0x8000000000 } ∧
          (enc = true → (Store.get none q.1 u.sec.cxlKeys).isSome = true)) ∧
        (answers → d.trained = true → enc = true → s.sec.rng ≠ 1 → u.cxl q.1 = s.cxl q.1) ∧
        (answers → d.trained = false → u.cxlFenced q.1 = true ∧ u.cxl q.1 = s.cxl q.1) ∧
        (¬ answers → u.cxl q.1 = s.cxl q.1))

/-- Where the rows of the last boot stages, of the end of the quiet period and of register writes complete, under conditions on
the state and the operands alone. IMAGE_VERIFICATION (R459, R489) in stage 9 with an accepted image and configuration block:
their slots are taken, and stage 10 follows. GDDR7_TRAINING (R387) in stage 10: each interface that trains is in use at its
rate, and stage 11 follows. CXL_ENUMERATION (R396, R492) in stage 11: ready becomes 1. QUIET_PERIOD_END (R429) in FAULT, with
fewer recoveries made than the limit: the device is NORMAL, the recovery is counted, and ALIVE_OUT toggles. REGISTER_WRITE (R402,
R410) of an aligned word, or of a pair of words, while the function is ready and in D0: the words take the value; so it is for the
registers of rings and events (R263, R268, R294). The requests of identity and debug (R462, R463, R466), the read of a response and
an address assignment (R465), each where the port takes it. -/
def Obligations.BootQuietPeriodAndWritesComplete : Prop :=
  ∀ s : State,
    (∀ (i0 i1 c0 c1 : ObjChecks) (cfg : ConfigBlock) (i c : Nat), s.running = true → s.boot.failed = false →
      s.boot.stage = 9 → s.sec.bootSlot .image i0 i1 = some i → s.sec.bootSlot .config c0 c1 = some c →
      ∃ u : State, exec (.imageVerification i0 i1 c0 c1 cfg) s = .next (u.retryRequest true).carryOn ∧
        u.boot.stage = 10 ∧ u.boot.failed = false ∧ u.sec.imageSlot = i ∧ u.sec.configSlot = c ∧ u.sec.cfg = cfg) ∧
    (∀ rates : List (Option (Fin 3)), s.running = true → s.boot.failed = false → s.boot.stage = 10 →
      ∃ u : State, exec (.gddr7Training rates) s = .next u.carryOn ∧ u.boot.stage = 11 ∧ u.boot.failed = false ∧
        ∀ (i : Nat) (r : Fin 3), i < 16 → rates[i]? = some (some r) →
          (u.memIface i).active = true ∧ (u.memIface i).rate = r.val) ∧
    (∀ p0 p1 : CxlDevice, s.running = true → s.boot.failed = false → s.boot.stage = 11 →
      ∃ u : State, exec (.cxlEnumeration p0 p1) s = .next u.carryOn ∧ u.boot.stage = 12 ∧ u.boot.failed = false ∧
        u.boot.ready = true) ∧
    (s.running = true → s.flt.state = 2 → let e := max s.now (s.flt.quietFrom + s.flt.quiet * 250000)
      (s.flt.recs.filter (fun t => decide (e ≤ t + s.flt.window * 250000000) && decide (t < e))).length < s.flt.limit →
      ∃ u : State, exec .quietPeriodEnd s = .next u.carryOn ∧ u.now = e ∧ u.flt.state = 0 ∧
        u.flt.recCount = min 65535 (s.flt.recCount + 1) ∧ u.pwr.aliveRun = true) ∧
    (∀ (o : BitVec 26) (v : BitVec 64), s.running = true → s.boot.ready = true → s.pcie.d3hot = false →
      let word (t : State) (at_ w : Nat) : State := t.bar0WriteWord at_ w
      (o.toNat % 4 = 0 → exec (.registerWrite o 4 v) s = .next (word s o.toNat (v.toNat % 2 ^ 32)).carryOn) ∧
      (o.toNat % 8 = 0 → wholeEvent o.toNat 8 = none → exec (.registerWrite o 8 v) s =
        .next (word (word s o.toNat (v.toNat % 2 ^ 32)) (o.toNat + 4) (v.toNat / 2 ^ 32)).carryOn)) ∧
    (s.barOk = true →
      (∀ (c : Fin 1024) (v : BitVec 32), let x := s.ctx c.val
        (x.state = .active ∨ x.state = .stopped → (v - x.head).toNat ≤ 2 ^ x.useRingLog2 → (v - x.tail).toNat ≤ 2 ^ x.useRingLog2 →
          ∃ u : State, exec (.ctxDoorbell c v) s = .next u ∧ (u.ctx c.val).tail = v) ∧
        ∃ u : State, exec (.ctxCplHead c v) s = .next u ∧ (u.ctx c.val).cplHead = v) ∧
      (∀ (e : BitVec 16) (v : BitVec 64) (w : BitVec 32),
        (∃ u : State, exec (.evtValue e v) s = .next u.carryOn ∧ (u.event e.toNat).value = v) ∧
        (∃ u : State, exec (.evtAdd e w) s = .next u.carryOn ∧ (u.event e.toNat).value = (s.event e.toNat).value + w.setWidth 64) ∧
        (∃ u : State, exec (.evtErrorClear e) s = .next u ∧ (u.event e.toNat).error = false))) ∧
    (∀ seq : BitVec 16, s.portOk = true → s.sec.mgmtWait = none → s.sec.mgmtResp = [] →
      let ready (i : Instr) : Prop := s.gate (reqCode i) = .handle
      let gives (i : Instr) (f : State → List Byte → Prop) : Prop := ready i → ∃ (u : State) (data : List Byte),
        exec i s = .next u.carryOn ∧ u.sec.mgmtWait = none ∧ u.sec.mgmtResp = [⟨reqCode i, seq, .ok, data, 0⟩] ∧ f u data
      (s.sec.identityOk = true → gives (.getIdentity (.i3c seq)) (fun _ d => d.length = 80) ∧
        ∀ nonce : BitVec 256, gives (.attest (.i3c seq) nonce) (fun _ d => d.length = 35920)) ∧
      (s.sec.rng = 1 → s.rngHeld = false → gives (.debugChallenge (.i3c seq)) (fun u d => d.length = 32 ∧
        u.sec.challenge = some (BitVec.ofNat 256 (leNat d)))) ∧
      (∀ tok : Token, tok.magic = 0x47424451 → tok.version = 1 → tok.level = 1 ∨ tok.level = 2 → tok.sigOk = true →
        leBytes 32 tok.device.toNat = s.sec.deviceId → s.sec.challenge = some tok.challenge →
        gives (.debugUnlock (.i3c seq) tok) (fun u _ => u.sec.debug = true ∧ u.sec.debugLevel = tok.level.toNat ∧
          u.sec.challenge = none))) ∧
    (s.portOk = true →
      (∀ (r : MgmtResp) (rest : List MgmtResp), s.sec.mgmtResp = r :: rest → ∃ u : State,
        exec .managementResponseRead s = .next u ∧ (r.data.length ≤ 4096 → u.sec.mgmtResp = rest)) ∧
      (∀ addr : BitVec 7, ∃ u : State, exec (.dynamicAddressAssignment addr) s = .next u ∧ u.sec.mgmtAddr = some addr))

/-! ### Host and security -/

/-- BAR2_READ and BAR2_WRITE (R359, R404, R406, R410, Table 16.4): a read returns each enabled byte by the state of what holds it
and by the errors that it meets itself, and changes no memory but what these do; a write stores each enabled byte where it lands
and changes no other byte; what is unmapped, fenced or poisoned sets its bit of `DEV_HERR`. The errors that the access meets in the
arrays come first, once the device is ready. An access that waits, for the end of a preserving march test or for the tables (R364,
R374), changes nothing yet. -/
def Obligations.HostMemoryWindow : Prop :=
  ∀ (o : BitVec 38) (events : List MemEvent) (s : State),
    let v := if s.boot.ready then s.memEvents events else s
    (∀ en : List Bool, s.bar2Decodes o.toNat en.length = true →
      let addrs := (en.zipIdx.filter Prod.fst).map (fun q => s.bar2Addr (o.toNat + q.2))
      (s.bar2Held addrs = true → exec (.bar2Read o en events) s = .next s) ∧ (s.bar2Held addrs = false →
      let out (a : Nat) : Bar2Io := s.readOutcome v a
      let some_ (x : Bar2Io) : Bool := addrs.any (fun a => out a = x)
      ∃ u : State, exec (.bar2Read o en events) s = .next u.carryOn ∧
        u.bus = { v.bus with lastRead := addrs.map (fun a => s.outcomeByte a (out a)), lastPoisoned := some_ .poisoned } ∧
        (∀ i, i < 7 → u.pcie.herr.getLsbD i = (v.pcie.herr.getLsbD i || (decide (i = 0) && some_ .unmapped)
          || (decide (i = 1) && some_ .fenced) || (decide (i = 2) && some_ .poisoned))) ∧
        { u with bus := v.bus, pcie := { u.pcie with herr := v.pcie.herr }, mesh := v.mesh } = v)) ∧
    (∀ a : Nat, (s.outcomeByte a .unmapped = 0xFF#8 ∧ s.outcomeByte a .fenced = 0xFF#8 ∧
      s.outcomeByte a .poisoned = 0#8 ∧ s.outcomeByte a .ok = s.rawByte a) ∧
      (s.readOutcome v a = .unmapped ↔ s.bar2Io a = .unmapped) ∧
      (s.bar2Io a = .ok → s.pcie.readFail ≠ some (a, .cxl) →
        s.readOutcome v a = if v.poisonedAt a then .poisoned else .ok)) ∧
    (∀ data : List (Option Byte), s.bar2Decodes o.toNat data.length = true →
      let cells := data.zipIdx.filterMap (fun p => p.1.map (fun b => (s.bar2Addr (o.toNat + p.2), b)))
      (s.bar2Held (cells.map Prod.fst) = true → exec (.bar2Write o data events) s = .next s) ∧
      (s.bar2Held (cells.map Prod.fst) = false →
      let good := cells.filter (fun c => v.writeOutcome c.1 = .ok || v.writeOutcome c.1 = .poisoned)
      ∃ u : State, exec (.bar2Write o data events) s = .next u.carryOn ∧
        u.mem = v.land v.mem good ∧
        (∀ k, (∀ c, c ∈ good → v.cellOf c.1 ≠ some k) → memGet u.mem k = memGet v.mem k) ∧
        (∀ k, k ∈ u.poison → k ∈ v.poison) ∧
        (∀ i, i < 7 → u.pcie.herr.getLsbD i = (v.pcie.herr.getLsbD i
          || (decide (i = 0) && cells.any (fun c => v.bar2Io c.1 = .unmapped))
          || (decide (i = 1) && cells.any (fun c => v.writeOutcome c.1 = .fenced)))) ∧
        { u with mem := v.mem, poison := v.poison, pcie := { u.pcie with herr := v.pcie.herr }, mesh := v.mesh, cxls := v.cxls } = v)) ∧
    (s.pcie.d3hot = true → exec (.bar2Read o (List.replicate 4 true) events) s = .next s)

/-- REGISTER_WRITE (R402, R410, R514, R515, R517): a write that is not aligned, comes in D3hot, or before ready to another block
than DEV, has no effect; a 4-byte write sets the word at its offset; an 8-byte write of a register pair sets the lower word,
then the upper, and one of an event's value sets it in one operation. `DEV_WIN_BASE` is written at any time; an interrupt
enable, a scrub period, a W1C bit as their access codes say. That a row out of place changes nothing is the model's choice (log
entry 6). -/
def Obligations.RegisterWrites : Prop :=
  ∀ (o : BitVec 26) (v : BitVec 64) (s : State),
    let w := v.toNat % 2 ^ 32
    (∀ n : Nat, (s.running = false ∨ s.pcie.d3hot = true ∨ barAligned o.toNat n = false ∨
        s.boot.ready = false ∧ (placeAt o.toNat).1 ≠ .dev) → exec (.registerWrite o n v) s = .next s.carryOn) ∧
    (s.running = true → s.pcie.d3hot = false →
      exec (.registerWrite 0x40 4 v) s = .next { s with pcie := { s.pcie with
        winBase := BitVec.ofNat 20 (s.pcie.winBase.toNat / 16 * 16 + w / 2 ^ 28) } }.carryOn) ∧
    (s.barOk = true →
      (barAligned o.toNat 4 = true → exec (.registerWrite o 4 v) s = .next (s.bar0WriteWord o.toNat w).carryOn) ∧
      (∀ e, barAligned o.toNat 8 = true → wholeEvent o.toNat 8 = some e →
        exec (.registerWrite o 8 v) s = .next (s.eventOp e false v false true).carryOn) ∧
      (barAligned o.toNat 8 = true → wholeEvent o.toNat 8 = none → exec (.registerWrite o 8 v) s =
        .next ((s.bar0WriteWord o.toNat w).bar0WriteWord (o.toNat + 4) (v.toNat / 2 ^ 32)).carryOn) ∧
      exec (.registerWrite 0x48 4 v) s =
        .next { s with pcie := { s.pcie with herr := s.pcie.herr &&& ~~~(BitVec.ofNat 7 w) } }.carryOn ∧
      exec (.registerWrite 0x20F04 4 v) s =
        .next (s.modBlock .mon (fun f => { f with irqEn := BitVec.ofNat 32 w })).carryOn ∧
      exec (.registerWrite 0x20F00 4 v) s =
        .next (s.modBlock .mon (fun f => { f with status := f.status &&& ~~~(BitVec.ofNat 32 w) })).carryOn)

/-- MSIX_UNMASK (R409): every pending vector that the change lets go sends one message, in the order in which they became
pending, and is pending no more; with Bus Master Enable 0 `DEV_HERR.bme` tells it instead. D3HOT (R402) and
CONFIGURATION_WRITE (R403, R404, R410-R412): the setting is taken where the function supports it, and nothing else changes but
that the request has been answered; a function that is not ready for it answers with a retry and changes nothing (log entry
139). -/
def Obligations.HostConfiguration : Prop :=
  (∀ s : State,
    let let_go (t u : State) : Prop :=
      let due := t.pcie.pba.filter (fun v => t.vectorAble v)
      u = { t with pcie := { t.pcie with pba := t.pcie.pba.filter (fun v => !t.vectorAble v),
                                         herr := if t.pcie.bme || due.isEmpty then t.pcie.herr else t.pcie.herr ||| 8#7 },
                   bus := { t.bus with sent := if t.pcie.bme then t.bus.sent ++ due else t.bus.sent } }
    let taken (p : Pcie) : State := { s with pcie := p, bus := { s.bus with retry := false } }
    (∀ b : Bool, s.running = true → s.cfgRetry = false → ∃ u : State, exec (.msixUnmask (.enable b)) s = .next u ∧
      let_go (taken { s.pcie with msixEnable := b }) u) ∧
    (∀ b : Bool, s.running = true → s.cfgRetry = false → ∃ u : State, exec (.msixUnmask (.functionMask b)) s = .next u ∧
      let_go (taken { s.pcie with funcMask := b }) u) ∧
    (∀ (k : Fin 2048) (b : Bool), s.barOk = true → ∃ u : State, exec (.msixUnmask (.vectorMask k b)) s = .next u ∧
      let_go { s with pcie := { s.pcie with
        msix := Store.put msix0 k.val { Store.get msix0 k.val s.pcie.msix with masked := b } s.pcie.msix } } u)) ∧
  (∀ s : State, s.running = true → s.cfgRetry = false →
    let taken (p : Pcie) : State := { s with pcie := p, bus := { s.bus with retry := false } }
    (∀ b : Bool, exec (.d3hot b) s = .next (taken { s.pcie with d3hot := b })) ∧
    (∀ a, exec (.configurationWrite (.bar0Base a)) s = .next (taken { s.pcie with bar0 := a }) ∧
      exec (.configurationWrite (.bar2Base a)) s = .next (taken { s.pcie with bar2 := a })) ∧
    (∀ n : Nat, exec (.configurationWrite (.bar2Size n)) s =
      .next (taken (if 28 ≤ n ∧ n ≤ 38 then { s.pcie with bar2Log2 := n } else s.pcie))) ∧
    (∀ b : Bool, exec (.configurationWrite (.busMaster b)) s = .next (taken { s.pcie with bme := b })) ∧
    (∀ n : Nat, n = 128 ∨ n = 256 ∨ n = 512 →
      exec (.configurationWrite (.maxPayload n)) s = .next (taken { s.pcie with mps := n })) ∧
    (∀ n : Nat, n = 128 ∨ n = 256 ∨ n = 512 ∨ n = 1024 ∨ n = 2048 ∨ n = 4096 →
      exec (.configurationWrite (.maxReadRequest n)) s = .next (taken { s.pcie with mrrs := n })) ∧
    (∀ n, exec (.configurationWrite (.completionTimeout n)) s = .next (taken { s.pcie with cplTimeout := n }))) ∧
  (∀ s : State, s.running = true → s.cfgRetry = true →
    let again : State := { s with bus := { s.bus with retry := true } }
    (∀ b : Bool, exec (.d3hot b) s = .next again ∧ exec (.msixUnmask (.enable b)) s = .next again ∧
      exec (.msixUnmask (.functionMask b)) s = .next again) ∧
    ∀ w : ConfigWrite, exec (.configurationWrite w) s = .next again)
/-- Requests on a port. The mailbox (R297, R524) answers the request that `MBX_CMD` has started: a status request with its
data, any other with DENIED, and raises vector 1,058. The management port (R465, R490) answers a status request without any
change of the device, with 128, 12, 16 or 24 bytes; and a request that comes while another is outstanding with BUSY. -/
def Obligations.RequestsAreAnswered : Prop :=
  (∀ (i : Instr) (s : State), reqPort i = some .mailbox → s.running = true → s.boot.ready = true → s.mbx.busy = true → s.mbx.code = reqCode i →
    let data := if isStatus (reqCode i) then s.statusData (reqCode i) else []
    exec i s = .next ({ s with mbx := { s.mbx with
      busy := false, done := true, seq := s.mbx.reqSeq, resp := data,
      len := data.length, status := if isStatus (reqCode i) then 0 else 1 } }.raiseVector 1058)) ∧
  (∀ (seq : BitVec 16) (s : State) (i : Instr),
    i ∈ [.stallReport (.i3c seq), .fenceStatus (.i3c seq), .faultState (.i3c seq), .fwVersion (.i3c seq)] →
    Requesting s i → exec i s = .next (s.answered i seq .ok (s.statusData (reqCode i))).carryOn) ∧
  (∀ s : State, (s.statusData 1).length = 128 ∧ (s.statusData 2).length = 12 ∧ (s.statusData 3).length = 16 ∧
    (s.statusData 4).length = 24) ∧
  (∀ (seq : BitVec 16) (i : Instr) (s : State), reqPort i = some (.i3c seq) → s.portOk = true →
    s.sec.mgmtWait.isSome = true ∨ s.sec.mgmtResp ≠ [] →
    exec i s = .next { s with sec := { s.sec with mgmtResp := s.sec.mgmtResp ++ [⟨reqCode i, seq, .busy, [], 0⟩] } })

/-- Firmware requests (R446, R459-R461): FW_WRITE stores its bytes in the flash slot, and in no other, unless that slot is
running, and refuses what the slot does not hold or one request does not carry; FW_VERIFY says whether the slot that is not
running would be accepted; FW_COMMIT raises the anti-rollback counter of its kind to the version that runs, never lowers it, and
nothing else; SELF_TEST that passes changes nothing, and one that fails enters the self-test error state (R455): sources 1 and 0
of the RNG are raised, the RNG is FAILED, encrypted links are DOWN and encrypted CXL ports fenced. -/
def Obligations.FirmwareRequests : Prop :=
  (∀ (seq : BitVec 16) (k : ObjKind) (slot : Fin 2) (off : Nat) (data : List Byte) (s : State),
    Requesting s (.fwWrite (.i3c seq) k slot off data) → s.sec.running k ≠ some slot.val → off + data.length ≤ flashSize →
    data.length ≤ 4096 → ∃ t : State, exec (.fwWrite (.i3c seq) k slot off data) s =
        .next (t.answered (.fwWrite (.i3c seq) k slot off data) seq .ok []).carryOn ∧
      (∀ (j a : Nat), Store.get 0#8 a (Store.get [] j t.sec.flash) =
        if j = flashIndex k slot.val ∧ off ≤ a ∧ a < off + data.length then data.getD (a - off) 0#8
        else Store.get 0#8 a (Store.get [] j s.sec.flash)) ∧
      { t with sec := { t.sec with flash := s.sec.flash } } = s) ∧
  (∀ (seq : BitVec 16) (k : ObjKind) (slot : Fin 2) (off : Nat) (data : List Byte) (s : State),
    Requesting s (.fwWrite (.i3c seq) k slot off data) → s.sec.running k = some slot.val →
    exec (.fwWrite (.i3c seq) k slot off data) s =
      .next (s.answered (.fwWrite (.i3c seq) k slot off data) seq .inUse []).carryOn) ∧
  (∀ (seq : BitVec 16) (k : ObjKind) (slot : Fin 2) (off : Nat) (data : List Byte) (s : State),
    Requesting s (.fwWrite (.i3c seq) k slot off data) → s.sec.running k ≠ some slot.val →
    flashSize < off + data.length ∨ 4096 < data.length → exec (.fwWrite (.i3c seq) k slot off data) s =
      .next (s.answered (.fwWrite (.i3c seq) k slot off data) seq .badRequest []).carryOn) ∧
  (∀ (seq : BitVec 16) (k : ObjKind) (c : ObjChecks) (s : State), Requesting s (.fwVerify (.i3c seq) k c) →
    let slot := if s.sec.running k = some 1 then 0 else 1
    exec (.fwVerify (.i3c seq) k c) s = .next (s.answered (.fwVerify (.i3c seq) k c) seq
      (if s.sec.accepts k slot c then .ok
       else if c.sigOk ∧ s.sec.anchored k slot ∧ s.sec.flashNat k slot 4 2 = kindCode k then .rollback else .verifyFailed) []).carryOn) ∧
  (∀ (seq : BitVec 16) (s : State), Requesting s (.fwCommit (.i3c seq) .image) → s.sec.recovery = false →
    exec (.fwCommit (.i3c seq) .image) s = .next ({ s with sec := { s.sec with
      arbImage := max s.sec.arbImage s.sec.svImage } }.answered (.fwCommit (.i3c seq) .image) seq .ok []).carryOn) ∧
  (∀ (seq : BitVec 16) (s : State), Requesting s (.fwCommit (.i3c seq) .config) → s.sec.recovery = false →
    exec (.fwCommit (.i3c seq) .config) s = .next ({ s with sec := { s.sec with
      arbConfig := max s.sec.arbConfig s.sec.svConfig } }.answered (.fwCommit (.i3c seq) .config) seq .ok []).carryOn) ∧
  (∀ (seq : BitVec 16) (s : State), Requesting s (.selfTest (.i3c seq) true) →
    exec (.selfTest (.i3c seq) true) s = .next (s.answered (.selfTest (.i3c seq) true) seq .ok []).carryOn) ∧
  (∀ (seq : BitVec 16) (s : State), Requesting s (.selfTest (.i3c seq) false) →
    ∃ t : State, exec (.selfTest (.i3c seq) false) s =
        .next (t.answered (.selfTest (.i3c seq) false) seq .verifyFailed []).carryOn ∧
      t.sec.selfTestFail = true ∧ t.sec.approved = false ∧ t.sec.rng = 2 ∧
      (t.block .rng).status.getLsbD 1 = true ∧ (t.block .rng).status.getLsbD 0 = true ∧
      (∀ l, l < 4 → (s.link l).encrypted = true → (t.link l).state = lnkDown) ∧
      (∀ p, p < 2 → (s.cxl p).enc = true → t.cxlFenced p = true))

/-- Policy requests (R416, R424, R432): SET_SEVERITY sets the severity of its source and of no other, and leaves a fixed one;
FENCE_UNIT fences its unit, whatever any severity holds; SET_FLT_PARAM takes what lies in the ranges of Table 17.6, leaves
what it does not name, and with a value outside them changes nothing. -/
def Obligations.PolicyRequests : Prop :=
  (∀ (seq : BitVec 16) (b : BlockId) (k : Fin 32) (sev : Fin 4) (s : State),
    let i : Instr := .setSeverity (.i3c seq) b k sev
    Requesting s i → k.val < sourceCount b →
    (fixedSeverity b k.val = true → exec i s = .next (s.answered i seq .ok []).carryOn) ∧
    (fixedSeverity b k.val = false → ∃ x : FltIf,
      exec i s = .next ((s.modBlock b (fun _ => x)).answered i seq .ok []).carryOn ∧
      { x with sev := (s.block b).sev } = s.block b ∧
      ∀ j, j < 32 → x.severity j = if j = k.val then sev.val else (s.block b).severity j)) ∧
  (∀ (seq : BitVec 16) (u : FenceUnit) (s : State), Requesting s (.fenceUnit (.i3c seq) u) →
    ∃ t : State, exec (.fenceUnit (.i3c seq) u) s = .next (t.answered (.fenceUnit (.i3c seq) u) seq .ok []).carryOn ∧
      match u with
      | .span n => t.spanFenced n.val = true
      | .mem n => t.memFenced n.val = true
      | .lanes l mask => t.fencedLanes l.val = s.fencedLanes l.val ||| BitVec.ofNat 8 mask.toNat
      | .link l => t.linkFenced l.val = true
      | .cxl p => t.cxlFenced p.val = true) ∧
  (∀ (seq : BitVec 16) (esc quiet limit window : Option Nat) (s : State),
    let i : Instr := .setFltParam (.i3c seq) esc quiet limit window
    let fits (lo hi : Nat) (o : Option Nat) : Prop := ∀ v, o = some v → lo ≤ v ∧ v ≤ hi
    let all : Prop := fits 1 16000 esc ∧ fits 1000 600000 quiet ∧ fits 1 255 limit ∧ fits 1 86400 window
    Requesting s i →
    (all → exec i s = .next ({ s with flt := { s.flt with
      escTime := esc.getD s.flt.escTime,
      quiet := quiet.getD s.flt.quiet, limit := limit.getD s.flt.limit, window := window.getD s.flt.window } }.answered
        i seq .ok []).carryOn) ∧
    (¬ all → exec i s = .next (s.answered i seq .badRequest []).carryOn))

/-- Keys (R456, R457): KEY_INSTALL puts a key with its salt, wrapped, into a slot that is not in use, and answers its key check
value; it takes one generate request of the DRBG and leaves the rest of the device as it is; LINK_KEY_SWITCH names the other
slot for the 4,096th flit from now on and tells the partner; KEY_ZEROIZE clears the slots of its mask and no other, and takes
down a link whose key in use is cleared. That bits 16 and 17 of the mask name the keys of the CXL ports is the model's choice
(log entry 68). -/
def Obligations.KeyRequests : Prop :=
  (∀ (seq : BitVec 16) (l : Fin 4) (receive : Bool) (slot : Fin 2) (key : BitVec 256) (salt : BitVec 32) (s : State),
    let i : Instr := .keyInstall (.i3c seq) l receive slot key salt
    let k := keyIndex l.val receive slot.val
    Requesting s i → s.sec.rng = 1 → s.rngHeld = false →
    ((s.link l.val).slotInUse receive slot.val = true → exec i s = .next (s.answered i seq .inUse []).carryOn) ∧
    ((s.link l.val).slotInUse receive slot.val = false → ∃ (t : State) (w : KeySlot),
      exec i s = .next (t.answered i seq .ok (keyCheck (keyBytes key))).carryOn ∧
      Store.get none k t.sec.keys = some w ∧ t.sec.unwrap k w = leBytes 32 key.toNat ++ leBytes 4 salt.toNat ∧
      (∀ j, j ≠ k → Store.get none j t.sec.keys = Store.get none j s.sec.keys) ∧
      t.sec.gens = s.sec.gens + 1 ∧ t.sec.drbg = (Drbg.requests 1 12 s.sec.drbg).2 ∧
      { t with sec := { t.sec with keys := s.sec.keys, gens := s.sec.gens, drbg := s.sec.drbg } } = s)) ∧
  (∀ (seq : BitVec 16) (l : Fin 4) (s : State),
    let i : Instr := .linkKeySwitch (.i3c seq) l
    let x := s.link l.val
    Requesting s i → x.txEnc = true → s.hasKey l.val false (1 - x.txSlot) = true →
    exec i s = .next (((s.modLink l.val (fun y => { y with txSwitch := some (1 - x.txSlot, x.txCount + 4096) })).sendNeighbour
      l.val 0xF 1 (leBytes 8 (1 - x.txSlot) ++ leBytes 8 (x.txCount + 4096))).answered i seq .ok []).carryOn) ∧
  (∀ (seq : BitVec 16) (slots : BitVec 18) (s : State),
    let i : Instr := .keyZeroize (.i3c seq) slots
    let hit (l : Nat) : Prop := ∃ (d : Bool) (k : Nat), k < 2 ∧ natBit slots.toNat (keyIndex l d k) = true ∧
      (s.link l).slotInUse d k = true
    Requesting s i → ∃ t : State, exec i s = .next (t.answered i seq .ok []).carryOn ∧
      (∀ j, Store.get none j t.sec.keys = if natBit slots.toNat j then none else Store.get none j s.sec.keys) ∧
      (∀ p, Store.get none p t.sec.cxlKeys =
        if natBit slots.toNat (16 + p) then none else Store.get none p s.sec.cxlKeys) ∧
      (∀ l, l < 4 → (hit l → (t.link l).state = lnkDown) ∧ (¬ hit l → t.link l = s.link l)) ∧
      { t with sec := { t.sec with keys := s.sec.keys, cxlKeys := s.sec.cxlKeys }, links := s.links } = s)

/-- Random numbers (R447, R450-R454, Table 18.2): while the RNG is READY, RNG_READ and RNG_WORD return output of the DRBG, whose
generate requests count; STARTING and a reseed, in progress or due, give status 1 with data 0, FAILED status 2. A reseed is
asked for by three rows, the automatic one after 2^20 generate requests or at 60 s, and its end counts it and takes fresh
samples with the additional input; a request that waits is tried again. DRBG_INSTANTIATE takes a new state and starts the counts
anew. Samples that fail a health test, these among them, make the RNG FAILED, with its state zeroized, and raise source 0. A
timed row brings time to its instant (log entry 5), and a row out of place changes nothing (log entry 6). That the read in READY
before ready is 0 with status 0 is the model's choice (log entry 136). The samples are free values (log entry 9). -/
def Obligations.RandomNumbers : Prop :=
  (∀ (seq : BitVec 16) (n : BitVec 12) (s : State), let i : Instr := .rngRead (.i3c seq) n
    let g := Drbg.requests (ceilDiv n.toNat 64) n.toNat s.sec.drbg
    Requesting s i → s.sec.rng = 1 → s.rngHeld = false → g.1.length = n.toNat ∧
      exec i s = .next ({ s with
        sec := { s.sec with drbg := g.2, gens := s.sec.gens + ceilDiv n.toNat 64 } }.answered i seq .ok g.1).carryOn) ∧
  (∀ s : State, s.running = true → s.pcie.d3hot = false →
    let g := Drbg.requests 1 4 s.sec.drbg
    let returns (t : State) (data : List Byte) (status : Nat) : Prop :=
      exec .rngWord s = .next { t with bus := { t.bus with lastRead := data ++ leBytes 4 status, lastPoisoned := false } }
    (s.sec.rng = 2 → returns s (leBytes 4 0) 2) ∧ (s.sec.rng = 0 → returns s (leBytes 4 0) 1) ∧
    (s.sec.rng = 1 → s.boot.ready = false → returns s (leBytes 4 0) 0) ∧
    (s.sec.rng = 1 → s.boot.ready = true → s.rngHeld = true → returns s (leBytes 4 0) 1) ∧
    (s.sec.rng = 1 → s.boot.ready = true → s.rngHeld = false → g.1.length = 4 ∧
      returns { s with sec := { s.sec with drbg := g.2, gens := s.sec.gens + 1 } } g.1 0) ∧
    (s.sec.rng = 1 → s.boot.ready = true → exec .rngReseedRequest s = .next { s with sec := { s.sec with reseeding := true } })) ∧
  (∀ s : State, s.running = true → s.sec.rng = 1 → s.sec.reseeding = false →
    let r := if s.sec.gens < 2 ^ 20 then s.passTo (s.sec.seedTick + 15000000000) else s
    exec .drbgAutoReseed s = .next { r with sec := { r.sec with reseeding := true } }) ∧
  (∀ s : State, s.running = true → s.sec.reseeding = true →
    let e := (s.samples 1024).1
    let u : State := { s with free := s.free + 16 }
    (s.sec.badSamples e = false → exec .drbgReseedDone s = .next ({ u with sec := { s.sec with
        reseeding := false, reseeds := min 0xFFFFFFFF (s.sec.reseeds + 1), gens := 0, seedTick := s.now,
        drbg := s.sec.drbg.reseed e s.sec.reseedInput, reseedInput := [] } }.retryRequest false).carryOn) ∧
    (s.sec.badSamples e = true → exec .drbgReseedDone s = .next (u.rngFail.retryRequest false).carryOn)) ∧
  (∀ (seq : BitVec 16) (input : List Byte) (s : State), let i : Instr := .drbgReseed (.i3c seq) input
    Requesting s i → s.sec.rng = 1 → input.length ≤ 32 →
      exec i s = .next { s with sec := { s.sec with
        reseeding := true, mgmtWait := some i,
        reseedInput := if s.sec.reseeding then s.sec.reseedInput else input } }.carryOn) ∧
  (∀ (seq : BitVec 16) (text : List Byte) (s : State), let i : Instr := .drbgInstantiate (.i3c seq) text
    let e := (s.samples 1024).1
    let n := ((s.samples 1024).2.samples 512).1
    let u : State := { s with free := s.free + 24 }
    Requesting s i → s.sec.rng = 1 → s.rngHeld = false → text.length ≤ 32 →
      (s.sec.badSamples (e ++ n) = false → exec i s = .next ({ u with sec := { s.sec with
        gens := 0, seedTick := s.now, drbg := Drbg.instantiate e n text } }.answered i seq .ok []).carryOn) ∧
      (s.sec.badSamples (e ++ n) = true → exec i s = .next (u.rngFail.answered i seq .rngFailed []).carryOn)) ∧
  (∀ s : State, s.running = true → s.sec.rng = 1 → exec .entropyHealthFailure s = .next (s.rngFail.retryRequest false).carryOn) ∧
  (∀ s : State, s.rngFail = { s with sec := { s.sec with
    rng := 2, reseeding := false, gens := 0, drbg := drbg0, reseedInput := [] } }.raise .rng 0 0) ∧
  (∀ s : State, s.sec.rng ≠ 1 → exec .entropyHealthFailure s = .next s)

/-- Identity, debug and the management port (R458, R462, R463, R465-R467): GET_IDENTITY answers the device ID and its key, the
one a hash of the other; ATTEST a report over the nonce, with the hashes of the ROM and of the objects that run, and its
signature under that key; DEBUG_CHALLENGE takes a challenge from the DRBG; DEBUG_UNLOCK spends it, and a valid token for this
device over it zeroizes every key, ends approved mode and unlocks; with another signature, device or challenge it answers LOCKED,
and with wrong other fields BAD_REQUEST. A response is read with its header, in reads of at most 4,096 bytes of payload, the last
of which frees the port (log entry 137), and an address assignment is kept. The seed of the identity and the contents of the mask
ROM are free values (log entry 21), as is the code of a status (log entry 65). -/
def Obligations.IdentityAndDebug : Prop :=
  (∀ (seq : BitVec 16) (s : State), let i : Instr := .getIdentity (.i3c seq)
    let key := s.sec.slhKey
    Requesting s i → s.sec.identityOk = true →
    exec i s = .next (s.answered i seq .ok (shake key.public 32 ++ key.public)).carryOn) ∧
  (∀ (seq : BitVec 16) (nonce : BitVec 256) (s : State), let i : Instr := .attest (.i3c seq) nonce
    let key := s.sec.slhKey
    Requesting s i → s.sec.identityOk = true → ∃ report : List Byte,
      exec i s = .next (s.answered i seq .ok (report ++ key.sign report)).carryOn ∧
      report.length = 256 ∧ (key.sign report).length = 35664 ∧
      report.take 40 = leBytes 4 0x54544151 ++ leBytes 2 1 ++ leBytes 2 256 ++ leBytes 32 nonce.toNat ∧
      (report.drop 40).take 80 = shake key.public 32 ++ key.public ∧
      (report.drop 120).take 32 = shake Config.romImage 32 ∧
      (report.drop 152).take 64 = shake (s.sec.objectBytes .image s.sec.imageSlot) 32
        ++ shake (s.sec.objectBytes .config s.sec.configSlot) 32 ∧
      (report.drop 216).take 40 = leBytes 4 s.sec.arbImage ++ leBytes 4 s.sec.arbConfig ++ leBytes 4 s.sec.svImage
        ++ leBytes 4 s.sec.svConfig
        ++ leBytes 4 (boolNat s.sec.approved + 2 * boolNat s.sec.debug + 4 * boolNat (decide (s.sec.rng = 2))
            + 8 * boolNat s.sec.selfTestFail)
        ++ leBytes 4 s.time.sec ++ leBytes 4 s.time.sub ++ leBytes 2 s.pwr.slotId.toNat ++ leBytes 10 0) ∧
  (∀ (seq : BitVec 16) (nonce : BitVec 256) (s : State), s.sec.identityOk = false →
    ∀ i ∈ [Instr.getIdentity (.i3c seq), Instr.attest (.i3c seq) nonce], Requesting s i →
      exec i s = .next (s.answered i seq .identityFailed []).carryOn) ∧
  (∀ (seq : BitVec 16) (s : State), let i : Instr := .debugChallenge (.i3c seq)
    let g := Drbg.requests 1 32 s.sec.drbg
    Requesting s i → s.sec.rng = 1 → s.rngHeld = false → g.1.length = 32 ∧
      exec i s = .next ({ s with sec := { s.sec with
        drbg := g.2, gens := s.sec.gens + 1,
        challenge := some (BitVec.ofNat 256 (leNat g.1)) } }.answered i seq .ok g.1).carryOn) ∧
  (∀ (seq : BitVec 16) (tok : Token) (s : State), let i : Instr := .debugUnlock (.i3c seq) tok
    let wellFormed : Prop := tok.magic = 0x47424451 ∧ tok.version = 1 ∧ (tok.level = 1 ∨ tok.level = 2)
    let valid : Prop := tok.sigOk = true ∧ leBytes 32 tok.device.toNat = s.sec.deviceId ∧ s.sec.challenge = some tok.challenge
    let spent : State := { s with sec := { s.sec with challenge := none } }
    Requesting s i →
    (wellFormed → valid → ∃ t : State, exec i s = .next (t.answered i seq .ok []).carryOn ∧
      t.sec = { s.sec with challenge := none, keys := t.sec.keys, cxlKeys := t.sec.cxlKeys, approved := false, debug := true,
                           debugLevel := tok.level.toNat } ∧
      (∀ j, j < 16 → Store.get none j t.sec.keys = none) ∧ (∀ p, p < 2 → Store.get none p t.sec.cxlKeys = none) ∧
      (∀ p, p < 2 → (s.cxl p).enc = true → t.cxlFenced p = true)) ∧
    (¬ valid → exec i s = .next (spent.answered i seq .locked []).carryOn) ∧
    (valid → ¬ wellFormed → exec i s = .next (spent.answered i seq .badRequest []).carryOn)) ∧
  (∀ (s : State) (r : MgmtResp) (rest : List MgmtResp), s.portOk = true → s.sec.mgmtResp = r :: rest →
    exec .managementResponseRead s = .next { s with
      sec := { s.sec with mgmtResp := if r.data.length ≤ r.pos + 4096 then rest else { r with pos := r.pos + 4096 } :: rest },
      bus := { s.bus with
        mgmtRead := [BitVec.ofNat 8 r.code, Config.mgmtCode r.status.index] ++ leBytes 2 r.seq.toNat ++
          leBytes 4 r.data.length ++ (r.data.drop r.pos).take 4096 } }) ∧
  (∀ s : State, s.sec.mgmtResp = [] → exec .managementResponseRead s = .next s) ∧
  (∀ (s : State) (addr : BitVec 7), s.portOk = true →
    exec (.dynamicAddressAssignment addr) s = .next { s with sec := { s.sec with mgmtAddr := some addr } })
/-! ### The front end -/

/-- The life of a context (R258-R261, R299-R301): CONTEXT_CREATE of a FREE context makes it ACTIVE at the ring head equal to
the tail; CONTEXT_DESTROY without abort drains it up to the tail of that moment, and a batch task ends behind the descriptor
that runs, or at once (R292); with abort, and by DESTROY_ABORT from
DRAINING, it is ABORTING, no launch of it is queued and its runs have the abort among their stop causes; RESUME of a STOPPED
context makes it ACTIVE again; DESTROY_DONE writes the DESTROY_DONE entry and the context is FREE. -/
def Obligations.ContextLife : Prop :=
  ∀ (c : Fin 1024) (abort priority : Bool) (s : State), let x := s.ctx c.val
    s.barOk = true →
    (x.state = .free → ∃ u : State, exec (.contextCreate c abort priority) s = .next u.carryOn ∧
      CtxOnly s u c.val { x with
        enable := true, priority := priority, abort := abort, state := .active,
        enablePending := false, head := x.tail, cplTail := 0, cplHead := 0, consts := [], useRing := x.ringBase.toNat,
        useCpl := x.cplBase.toNat, useRingLog2 := min 16 (max 4 x.ringLog2), useCplLog2 := min 16 (max 4 x.cplLog2),
        drainTail := none, fetched := [], exec := none, batch := none, stalled := false, held := [] }) ∧
    (x.state = .active → ∃ u : State, exec (.contextDestroy c false priority) s = .next u.carryOn ∧
      CtxOnly s u c.val (Ctx.endTask { x with enable := false, priority := priority, abort := false, state := .draining,
                                              drainTail := some x.tail })) ∧
    (∀ y : Ctx, (y.batch = none → y.endTask = y) ∧ ∀ t, y.batch = some t →
      (t.cur.isSome = true → y.endTask = { y with batch := some { t with ending := true } }) ∧
      (t.cur = none → y.endTask =
        { y with batch := none, exec := y.exec.map (fun e => { e with phase := .finished 0 0 }) })) ∧
    (let aborts (u : State) : Prop := (u.ctx c.val).state = .aborting ∧ (u.ctx c.val).stalled = false ∧
        (∀ r, r ∈ u.runs → r.ctx = c.val → r.stops.abort = true) ∧
        (∀ n, n < 16 → ∀ l, l ∈ (u.pier n).queue → l.ctx ≠ c.val) ∧
        (∀ n, n < 16 → (s.pier n).runsFor c.val none = true → (s.pier n).live = true → (u.pier n).code = 4) ∧
        u.mem = s.mem ∧ u.events = s.events ∧ u.bus = s.bus ∧ u.pcie = s.pcie;
      (x.state = .active → ∃ u : State, exec (.contextDestroy c true priority) s = .next u.carryOn ∧ aborts u) ∧
      (x.state = .draining → ∃ u : State, exec (.destroyAbort c priority) s = .next u.carryOn ∧ aborts u)) ∧
    (x.state = .stopped → s.faulted = false → ∃ u : State, exec (.resume c abort priority) s = .next u.carryOn ∧
      CtxOnly s u c.val { x with enable := true, priority := priority, abort := abort, state := .active, fetched := [] }) ∧
    (s.destroyReady c.val = true → x.enablePending = false → s.rangeFail x.cplAddr 16 = none →
      ∃ u : State, exec (.destroyDone c) s = .next u.carryOn ∧ (u.ctx c.val).state = .free ∧
        (u.ctx c.val).destroyDone = true ∧ (u.ctx c.val).cplTail = x.cplTail + 1 ∧
        u.mem = (s.writeBytes x.cplAddr (x.entryBytes 0 0 0 0x02 0)).mem ∧
        (∀ m, m ≠ c.val → u.ctx m = s.ctx m) ∧
        { u with ctxs := s.ctxs, mem := s.mem, poison := s.poison, cxls := s.cxls, pcie := s.pcie, bus := s.bus } = s)

/-- Register writes of rings and events (R263, R268, R294): a valid tail is taken, and an invalid one stops the context with
RING_ERR, which is its last status, and is not taken (log entry 35): the entry of the stop names RING_ERR and the tail that was
written, behind the capture record, and waits where the completion ring has no room; a completion head is taken. EVT_VALUE sets, EVT_ADD adds modulo 2^64 and EVT_ERROR_CLEAR
clears the error bit of its event, of no other, and without an interrupt; a set or add tests the waits. -/
def Obligations.RingAndEventWrites : Prop :=
  (∀ (c : Fin 1024) (v : BitVec 32) (s : State), s.barOk = true → let x := s.ctx c.val
    (x.state = .active ∨ x.state = .stopped →
      ((v - x.head).toNat ≤ 2 ^ x.useRingLog2 → (v - x.tail).toNat ≤ 2 ^ x.useRingLog2 →
        ∃ u : State, exec (.ctxDoorbell c v) s = .next u ∧ CtxOnly s u c.val { x with tail := v }) ∧
      (2 ^ x.useRingLog2 < (v - x.head).toNat ∨ 2 ^ x.useRingLog2 < (v - x.tail).toNat →
        let w := s.capture c.val ⟨0x1D, 0, 0, 0, v.toNat, [], none⟩
        ∃ u : State, exec (.ctxDoorbell c v) s = .next u.carryOn ∧ (u.ctx c.val).state = .stopped ∧
          (u.ctx c.val).tail = x.tail ∧ (u.ctx c.val).head = x.head ∧
          (x.cplFull = false → x.held = [] → w.rangeFail x.cplAddr 16 = none →
            (u.ctx c.val).lastStatus = 0x1D ∧ (u.ctx c.val).cplTail = x.cplTail + 1 ∧
            u.mem = (w.writeBytes x.cplAddr (x.entryBytes 0 0 2 0x1D v.toNat)).mem) ∧
          (x.cplFull = true ∨ x.held ≠ [] → (u.ctx c.val).lastStatus = 0x1D ∧ (u.ctx c.val).cplTail = x.cplTail ∧
            (u.ctx c.val).held = x.held ++ [⟨0, 0, 0x1D, v.toNat, 0, []⟩] ∧ u.mem = w.mem))) ∧
    (∃ u : State, exec (.ctxCplHead c v) s = .next u ∧ (u.ctx c.val).cplHead = v) ∧
    (x.held = [] → ∃ u : State, exec (.ctxCplHead c v) s = .next u ∧ CtxOnly s u c.val { x with cplHead := v })) ∧
  (∀ (e : BitVec 16) (v : BitVec 64) (w : BitVec 32) (s : State), s.barOk = true →
    let old := s.event e.toNat
    let took (x : Event) (u : State) : Prop := u.event e.toNat = x ∧ (∀ k, k ≠ e.toNat → u.event k = s.event k) ∧
      u.ctxs = Store.mapVals ctx0 (fun y => y.testEvwait s.now e.toNat x) s.ctxs ∧
      (∀ n, n < 16 → u.pier n = (s.pier n).testEvwait s.now e.toNat x) ∧
      { u with events := s.events, ctxs := s.ctxs, spans := s.spans } = s
    (∃ u : State, exec (.evtValue e v) s = .next u.carryOn ∧ took { old with value := v } u) ∧
    (∃ u : State, exec (.evtAdd e w) s = .next u.carryOn ∧ took { old with value := old.value + w.setWidth 64 } u) ∧
    (∃ u : State, exec (.evtErrorClear e) s = .next u ∧ EventOnly s u e.toNat { old with error := false }))

/-- Fetching, starting and completing (R264-R271). COMMAND_FETCH reads the packet slot at the head and its payload slots,
when the tail covers them and they can be read; COMMAND_START starts the next command of the context whose turn it is,
numbered by a serial; COMMAND_COMPLETION of a command without a completion event, whose status is below 0x10, moves the
ring head past its slots, unless its hang limit has passed (R280), leaves its status, and writes the entry of Table 10.4 where one is needed; that of a PLOAD that
completes with OK counts a load (R282). That a row out of
place changes nothing is the model's choice (log entry 6). -/
def Obligations.FetchStartComplete : Prop :=
  (∀ (c : Fin 1024) (s : State) (p : Nat), let x := s.ctx c.val
    let i := x.head + BitVec.ofNat 32 x.slotsHeld
    s.mayFetch c.val = true → x.fetched = [] → 1 + p ≤ x.published i →
    (∀ k, k ≤ p → s.firstBad false (x.slotAddr (i.toNat + k)) 64 = none) →
    packetFault (s.readBytes (x.slotAddr i.toNat) 64) = none → numAt (s.readBytes (x.slotAddr i.toNat) 64) 2 2 = p →
    ∃ u : State, exec (.commandFetch c) s = .next u ∧ u.ctx c.val = { x with fetched := [⟨i.toNat, x.slotAddr i.toNat,
        (List.range (1 + p)).flatMap (fun k => s.readBytes (x.slotAddr (i.toNat + k)) 64), 1 + p, none, none⟩] } ∧
      (∀ m, m ≠ c.val → u.ctx m = s.ctx m) ∧ { u with ctxs := s.ctxs, pcie := s.pcie } = s) ∧
  (∀ (s : State) (c : Nat) (high : Bool) (f : Fetched) (rest : List Fetched), s.running = true → s.faulted = false →
    s.nextStart = some (c, high) → (s.ctx c).fetched = f :: rest → f.unread = none →
    ∃ u : State, exec .commandStart s = .next u ∧
      u.ctx c = { s.ctx c with
        fetched := rest,
        exec := some (startExec f s.now (s.ctx c).hang.toNat s.fe.serial false) } ∧
      (∀ m, m ≠ c → u.ctx m = s.ctx m) ∧ u.fe.serial = s.fe.serial + 1 ∧
      u.fe.rrHigh = (if high then c + 1 else s.fe.rrHigh) ∧ u.fe.rrNormal = (if high then s.fe.rrNormal else c + 1) ∧
      { u with ctxs := s.ctxs, fe := { u.fe with serial := s.fe.serial, rrHigh := s.fe.rrHigh, rrNormal := s.fe.rrNormal } } = s) ∧
  (∀ (c : Fin 1024) (s : State) (e : Exec) (status detail : Nat), let x := s.ctx c.val
    s.running = true → x.batch = none → x.exec = some e → e.phase = .finished status detail → x.state ≠ .aborting →
    x.hangDue e s.now = false → e.lateFail = none → e.batch = false → e.cmd.cev = false → e.cmd.irq = false → status < 0x10 →
    let v : State := if status = 0 ∧ e.cmd.opcode = 0x10 then { s with fe := { s.fe with loads := s.fe.loads + 1 } } else s
    (e.needsEntry status = false → ∃ u : State, exec (.commandCompletion c) s = .next u.carryOn ∧
      CtxOnly v u c.val { x with head := x.head + BitVec.ofNat 32 e.cmd.slots, exec := none, stalled := false,
                                 lastStatus := status }) ∧
    (e.needsEntry status = true → x.cplFull = false → s.rangeFail x.cplAddr 16 = none →
      let flags := 8 * boolNat e.orderSens + 16 * boolNat e.saturated
      ∃ u : State, exec (.commandCompletion c) s = .next u.carryOn ∧
        u.ctx c.val = { x with head := x.head + BitVec.ofNat 32 e.cmd.slots, exec := none, stalled := false,
                               lastStatus := status, cplTail := x.cplTail + 1 } ∧
        (∀ m, m ≠ c.val → u.ctx m = s.ctx m) ∧
        u.mem = (s.writeBytes x.cplAddr (x.entryBytes e.cmd.tag e.cmd.opcode flags status detail)).mem ∧
        { u with ctxs := s.ctxs, mem := s.mem, poison := s.poison, cxls := s.cxls, pcie := s.pcie } = v) ∧
    (e.needsEntry status = true → x.cplFull = true → exec (.commandCompletion c) s = .next s))

/-- Commands of the front end itself (R271, R277, R294, R295): NOPC does nothing; CONST replaces the 64 words of the
context's buffer; EVREC performs its event operation; EVWAIT waits, and ends at once where its event has the value; a
WAIT_TIMEOUT ends it with status TIMEOUT and the event's value. A timed row brings time to its instant (log entry 5). -/
def Obligations.FrontEndCommands : Prop :=
  ∀ (c : Fin 1024) (b : Bool) (e : Exec) (s : State),
    (Starting s c.val b 0x3F e → exec (.nopc c) s = .next (s.finishExec c.val b 0 0)) ∧
    (Starting s c.val b 0x02 e → ∃ w : Store (BitVec 32),
      exec (.constBuf c) s = .next ((s.modCtx c.val (fun x => { x with consts := w })).finishExec c.val b 0 0) ∧
      ∀ i, i < 64 → Store.get 0#32 i w = BitVec.ofNat 32 (numAt e.cmd.bytes (0x40 + 4 * i) 4)) ∧
    (Starting s c.val b 0x03 e → e.num 0x12 1 ≤ 1 → exec (.evrec c) s =
      .next ((s.finishExec c.val b 0 0).eventOp (e.num 0x10 2) (natBit (e.num 0x12 1) 0) (BitVec.ofNat 64 (e.num 0x18 8))
        (natBit (e.num 0x13 1) 0) false).carryOn) ∧
    (Starting s c.val false 0x04 e → let v := s.event (e.num 0x10 2)
      ∃ u : State, exec (.evwait c) s = .next u ∧ CtxOnly s u c.val (if e.num 0x18 8 ≤ v.value.toNat then
          { s.ctx c.val with
            stalled := false,
            exec := some { e with start := s.now, phase := .finished (boolNat v.error) v.value.toNat } }
        else { s.ctx c.val with exec := some { e with start := s.now, phase := .working } })) ∧
    (s.running = true → (s.ctx c.val).exec = some e → e.cmd.opcode = 0x04 → e.phase = .working → e.num 0x14 4 ≠ 0 →
      let r := s.passTo (e.start + e.num 0x14 4 * 250)
      ∃ u : State, exec (.waitTimeout c) s = .next u ∧ CtxOnly r u c.val { s.ctx c.val with
        stalled := false,
        exec := some { e with phase := .finished 0x13 (r.event (e.num 0x10 2)).value.toNat } })

/-- LAUNCH and PIER_LAUNCH (R275-R278, R302): a readable program goes as one launch, with the context's constants, to the
spans of the mask; a program that cannot be read ends with ADDR_ERR and the first address. A pier that has none takes the
next launch of its queue: PC 0, an empty loop stack, idle tags, the next launch sequence, R30 the span's base, R31 the span,
context and launch sequence, and every other register 0. -/
def Obligations.Launches : Prop :=
  (∀ (c : Fin 1024) (b : Bool) (e : Exec) (s : State), Starting s c.val b 0x01 e →
    let a := e.num 0x10 8
    let n := e.num 0x18 4
    a % 8 = 0 → 1 ≤ n → n ≤ 8192 →
    (s.firstBad false a (8 * n) = none → ∃ l : Launch,
      exec (.launch c) s = .next (s.dispatch c.val b (if e.num 0x1C 2 = 0 then s.liveSpans else maskSpans (e.num 0x1C 2)) l) ∧
      l.ctx = c.val ∧ l.cmd = e.serial ∧ l.batch = b ∧ l.count = n ∧ l.consts = (s.ctx c.val).consts ∧
      ∀ i, i < n → Store.get 0#64 i l.ibuf = BitVec.ofNat 64 (s.readNat (a + 8 * i) 8)) ∧
    (∀ bad why, s.firstBad false a (8 * n) = some (bad, why) → exec (.launch c) s =
      .next ((s.noteRequest false a (8 * n)).finishExec c.val b 0x11 bad))) ∧
  (∀ (n : Fin 16) (s : State) (l : Launch) (rest : List Launch), s.running = true → s.spanFenced n.val = false →
    (s.span n.val).marchState ≠ 1 → (s.pier n.val).launch = none → (s.pier n.val).queue = l :: rest →
    s.waitingLaunches n.val = [] → s.keptFrom n.val l = false → l.count ≠ 0 →
    ∃ (u : State) (p : Pier), exec (.pierLaunch n) s = .next u.carryOn ∧ PierOnly s u n.val p ∧
      p.code = 1 ∧ p.pc = 0 ∧ p.loops = [] ∧ p.flight = [] ∧ p.blocked = none ∧ p.launch = some l ∧ p.queue = rest ∧
      p.tags = [] ∧ p.slots = [] ∧ p.lastCtx = l.ctx ∧ p.launchSeq = ((s.pier n.val).launchSeq + 1) % 2 ^ 32 ∧
      p.reg 30 = BitVec.ofNat 64 (0x400000000000 + n.val * 0x2000000) ∧
      p.reg 31 = BitVec.ofNat 64 (n.val + l.ctx * 16 + p.launchSeq * 2 ^ 32) ∧
      ∀ r : PReg, r ≠ 30 → r ≠ 31 → p.reg r = 0)
/-- COPY and FILL (R279) over ordinary memory that can be used: the destination holds what the source held, or the pattern,
every other byte is as before, and the command ends with OK, where no part waits for a march test or for the mesh's tables (R364,
R374); with no span to carry out a part, ADDR_ERR. PLOAD (R281) whose load
passes every stage adds one problem, with a free slot size, writes its report and ends with its ID; one whose header fails adds
none and ends with LOAD_FAILED. PFREE with no run of the problem before it frees it; EVAL, where nothing holds the problem's
spans and no operator of the context waits, runs as one on each of them and writes its results. What the spec leaves open is a free value (log entry 9). -/
def Obligations.MemoryAndProblemCommands : Prop :=
  ∀ (c : Fin 1024) (b : Bool) (e : Exec) (s : State),
    let a := e.num 0x10 8
    let w := e.num 0x18 8
    let use (write : Bool) (t : Nat) : Prop := s.cellOf t = some t ∧ s.byteIo write t = .ok
    (Starting s c.val b 0x05 e → let len := e.num 0x20 8
      1 ≤ len → len ≤ 2 ^ 40 → overlaps a w len = false →
      s.partsHeld (some a) w (partsOf len (ceilDiv len 64)) = false →
      (s.liveSpans = [] → exec (.copy c) s = .next (s.finishExec c.val b 0x11 a)) ∧
      (s.liveSpans ≠ [] → (∀ i, i < len → use false (a + i) ∧ use true (w + i)) →
        ∃ u : State, exec (.copy c) s = .next u ∧ u.ctxs = (s.finishExec c.val b 0 0).ctxs ∧
          (∀ k, memGet u.mem k = if w ≤ k ∧ k < w + len then memGet s.mem (a + (k - w)) else memGet s.mem k) ∧
          { u with ctxs := s.ctxs, mem := s.mem, poison := s.poison, cxls := s.cxls, pcie := s.pcie } = s)) ∧
    (Starting s c.val b 0x06 e → a % 8 = 0 → w % 8 = 0 → 8 ≤ w → w ≤ 2 ^ 40 → s.liveSpans ≠ [] →
      s.partsHeld none a (partsOf w (8 * ceilDiv w 512)) = false →
      (∀ i, i < w → use true (a + i)) →
        ∃ u : State, exec (.fill c) s = .next u ∧ u.ctxs = (s.finishExec c.val b 0 0).ctxs ∧
          (∀ k, memGet u.mem k = if a ≤ k ∧ k < a + w then BitVec.ofNat 8 (e.num 0x20 8 / 2 ^ (8 * ((k - a) % 8))) else memGet s.mem k) ∧
          { u with ctxs := s.ctxs, mem := s.mem, poison := s.poison, cxls := s.cxls, pcie := s.pcie } = s) ∧
    (Starting s c.val b 0x10 e → w % 64 = 0 → s.rangeFail w 64 = none →
      (∀ h im z x, s.loadHead a = .ok h → s.rangeFail (w + 64) (64 * h.count) = none → s.loadImage a (e.num 0x20 8) h = .ok im →
        im.quantise = .ok z → z.inRange = .ok () → s.loadRest im z = .ok x → ∃ (u : State) (units : Nat), units < 2 ^ 32 ∧ exec (.pload c) s = .next u ∧
          u.problems = s.problems ++ [{ x.p with ckptUnits := units }] ∧ u.mem = (s.writeBytes w (goodReport x)).mem ∧
          u.ctxs = (s.finishExec c.val b 0 (x.p.id + units * 2 ^ 32)).ctxs ∧
          { u with problems := s.problems, ctxs := s.ctxs, mem := s.mem, poison := s.poison, cxls := s.cxls,
                   pcie := s.pcie, mesh := s.mesh, free := s.free } = s) ∧
      (∀ f, s.loadHead a = .error f → ∃ u : State, exec (.pload c) s = .next u ∧ u.ctxs = (s.finishExec c.val b 0x16 f.status).ctxs ∧
          { u with ctxs := s.ctxs, mem := s.mem, poison := s.poison, cxls := s.cxls, pcie := s.pcie, mesh := s.mesh,
                   free := s.free } = s)) ∧
    (Starting s c.val false 0x11 e → ∀ p, s.problemById (e.num 0x10 4) = some p → p.freeing = false →
      s.runBefore (e.num 0x10 4) e.serial = false → ∃ u : State, exec (.pfree c) s = .next u ∧
        (∀ q, q ∈ u.problems → q.id ≠ e.num 0x10 4 ∧ ∃ r, r ∈ s.problems ∧ r.id = q.id) ∧
        ((u.ctx c.val).exec.map (fun y => y.phase)) = some (.finished 0 0) ∧
        { u with problems := s.problems, ctxs := s.ctxs } = s) ∧
    (Starting s c.val b 0x15 e → s.opWaiting c.val 0x15 = none → ∀ p, s.problemFor (e.num 0x10 4) e.serial = some p →
      let count := e.num 0x14 2
      let out := e.num 0x20 8
      let size := 64 * ((ceilDiv p.nvars 8 + 63) / 64)
      let live := (problemSpans p).filter (fun n => !s.spanFenced n)
      let t := (s.modExec c.val b (fun y => { y with spansAll := spansMask (problemSpans p) })).countOps c.val e live
      count ≠ 0 → out % 16 = 0 → s.rangeFail out (16 * count) = none → s.spansBusy (e.opLaunch c.val) live = false →
      t.firstBad false w (size * count) = none → t.mem = s.mem ∧
      exec (.eval c) s = .next ((t.writeBytes out ((List.range count).flatMap (fun k =>
        energyBytes (p.energyUnits (natBit (t.readNat (w + k * size) (ceilDiv p.nvars 8))) p.ef) p.ef))).finishExec c.val b 0 0))

/-- Run commands (R283-R292, R280): ANNEAL, SAMPLE and RESTORE that pass their checks send the expansion of a run, which
ends with HALT, to the spans that hold slots of the problem; CKPT asks its run for a checkpoint and QSTOP stops it, and
its batch where it says so; ANNEAL_BATCH opens a task whose descriptors start one by one once the work event exceeds their
index, unless its context drains (R292), and END ends it. HANG_LIMIT stops a command's piers and its run; with HUNG and the mask of its spans the command ends at
once where it has neither, and otherwise once they have ended. A timed row brings time to its
instant (log entry 5). -/
def Obligations.RunCommands : Prop :=
  ∀ (c : Fin 1024) (b : Bool) (e : Exec) (s : State), let id := e.num 0x10 4
    (∀ p, s.problemFor id e.serial = some p → e.num 0x20 8 % 256 = 0 → e.num 0x30 8 % 4096 = 0 →
      s.rangesFail (runRanges p e) = none → (drawsKey e.cmd.bytes = true → s.sec.rng ≠ 2) →
      let sent := (s.dispatch c.val b (problemSpans p) ⟨c.val, e.serial, b, runProgramWords, 14, []⟩).carryOn
      (∀ d, p.scheds[e.num 0x14 1]? = some d →
        (Starting s c.val b 0x12 e → d.sample = false → exec (.anneal c) s = .next sent) ∧
        (Starting s c.val b 0x14 e → d.sample = true → e.num 0x40 8 % 64 = 0 → e.num 0x48 4 ≠ 0 → e.num 0x4C 4 ≠ 0 →
          exec (.sample c) s = .next sent)) ∧
      (Starting s c.val b 0x17 e → (s.ckptFor p (e.num 0x30 8)).isSome = true → exec (.restore c) s = .next sent)) ∧
    (∀ r, s.runById id = some r →
      (Starting s c.val b 0x16 e → r.ckptArea ≠ 0 → exec (.ckpt c) s =
        .next ((s.setWorking c.val b).modRun r.problem (fun q => { q with ckptAsked := true }))) ∧
      (Starting s c.val b 0x30 e →
        let u := (s.setWorking c.val b).modRun r.problem (fun q => { q with stops := { q.stops with stop := true } })
        exec (.qstop c) s = .next (if natBit (e.num 0x14 1) 0 then
            u.modCtx r.ctx (fun x => { x with batch := x.batch.map (fun t => { t with ending := true }) })
          else u).carryOn)) ∧
    (Starting s c.val false 0x13 e → e.num 0x10 8 % 64 = 0 → isQueueSize (e.num 0x18 4) = true →
      ((s.ctx c.val).state = .draining → exec (.annealBatch c) s = .next (s.finishExec c.val false 0 0)) ∧
      ((s.ctx c.val).state ≠ .draining → ∃ u : State, exec (.annealBatch c) s = .next u ∧ CtxOnly s u c.val { s.ctx c.val with
        exec := some { e with phase := .working },
        batch := some ⟨e.num 0x10 8, e.num 0x18 4, e.num 0x1C 2, 0, none, none, false, 0⟩ })) ∧
    (∀ t, (s.ctx c.val).batch = some t → s.running = true →
      (s.faulted = false → (s.ctx c.val).exec = some e → e.phase = .working → t.cur = none → t.next = none → t.ending = false →
        (s.ctx c.val).state ≠ .aborting → t.consumed < (s.event t.event).value.toNat →
        let slot := t.queue + 64 + 64 * (t.consumed % t.entries)
        s.firstBad false slot 64 = none → ∃ u : State, exec (.batchDescriptorTake c) s = .next u ∧
          u.ctx c.val = { s.ctx c.val with batch := some { t with cur := some (startExec ⟨t.consumed, slot,
            s.readBytes slot 64, 0, descriptorFault (s.readBytes slot 64), none⟩ s.now 0 s.fe.serial true) } } ∧
          (∀ m, m ≠ c.val → u.ctx m = s.ctx m) ∧ u.fe = { s.fe with serial := s.fe.serial + 1 } ∧
          { u with ctxs := s.ctxs, fe := s.fe } = s) ∧
      (∀ d, t.cur = some d → d.cmd.opcode = 0 → d.phase = .started → ∃ u : State, exec (.endDescriptor c) s = .next u ∧
        CtxOnly s u c.val { s.ctx c.val with batch := some { t with
          ending := true,
          cur := some { d with phase := .finished 0 0 } } })) ∧
    (s.running = true → (s.ctx c.val).exec = some e → (s.ctx c.val).state ≠ .aborting → e.hangMs ≠ 0 →
      e.cmd.opcode ≠ 0x04 → e.cmd.opcode ≠ 0x13 → e.phase ≠ .finished 0x1B 0 → e.phase ≠ .finished 0x1C 0 →
      let left := s.runningFor c.val e.serial
      ∃ u : State, exec (.hangLimit c) s = .next u.carryOn ∧
        (u.ctx c.val).exec = some (
          if s.carriesRun c.val e.serial = true then { e with unsent := 0, launch := none, spansLeft := left }
          else if left = 0 then { e with unsent := 0, launch := none, spansLeft := 0, phase := .finished 0x14 e.spansAll }
          else { e with unsent := 0, launch := none, spansLeft := left, phase := .working, hung := true }) ∧
        (∀ r, r ∈ u.runs → r.ctx = c.val → r.serial = e.serial → r.stops.hung = true) ∧
        (∀ n, n < 16 → (s.pier n).runsFor c.val (some e.serial) = true → (s.pier n).live = true → (u.pier n).code = 4) ∧
        u.time = (s.passTo (e.start + e.hangMs * 250000)).time ∧ u.mem = s.mem ∧ u.events = s.events)

/-- Operator commands (R272-R274, R441): MATMUL, REDUCE, EWISE and CONVERT whose descriptors pass their checks, and whose spans
run no launch and are kept by none, run as one launch on each (R275, R276), where no operator of the context waits, and end with OK, or with PARTIAL and the spans whose part failed, every
fenced span of the mask among them; they write nothing outside their output and nothing else changes but flags, replays and
what OperatorDone names. -/
def Obligations.OperatorCommands : Prop :=
  ∀ (c : Fin 1024) (b : Bool) (e : Exec) (s : State),
    let spans := if e.num 0x10 2 = 0 then s.liveSpans else maskSpans (e.num 0x10 2)
    let ends (o : Out) (out : List (Nat × Nat)) : Prop := ∃ (u : State) (fails : List Nat), o = .next u ∧
      OperatorDone s u c.val b out fails ∧ (∀ n, n ∈ fails → n ∈ spans) ∧
      (∀ n, n ∈ spans → s.spanFenced n = true → n ∈ fails) ∧
      (∀ n, n ∈ spans → s.spanFenced n = false → (u.pier n).launchSeq = ((s.pier n).launchSeq + 1) % 2 ^ 32)
    let written (d : TDesc) : List (Nat × Nat) := { d.t with bcast := false }.ranges d.rows
    let x := e.desc 0x40
    s.spansBusy (e.opLaunch c.val) (spans.filter (fun n => !s.spanFenced n)) = false →
    (∀ op, s.opWaiting c.val op = none) →
    (Starting s c.val b 0x22 e → firstFault ([(0x12, decide (e.num 0x12 1 > 3))] ++ e.descChecks 0x40 ++ e.descChecks 0x60
        ++ (if (e.desc 0x60).t.bcast then [(0x74, decide ((e.desc 0x60).t.len ≠ x.t.len))]
            else e.dimChecks 0x60 x.rows x.t.len) ++ e.descChecks 0x80 ++ e.dimChecks 0x80 x.rows x.t.len) = none →
      ends (exec (.ewise c) s) (written (e.desc 0x80))) ∧
    (Starting s c.val b 0x23 e → let tr := natBit (e.num 0x14 1) 0
      firstFault (e.descChecks 0x40 ++ [(0x50, tr && decide (x.rows % 32 ≠ 0)), (0x54, tr && decide (x.t.len % 32 ≠ 0))]
        ++ e.descChecks 0x60
        ++ (if tr then e.dimChecks 0x60 x.t.len x.rows else e.dimChecks 0x60 x.rows x.t.len)) = none →
      ends (exec (.convert c) s) (written (e.desc 0x60))) ∧
    (Starting s c.val b 0x20 e → let y := e.desc 0x60
      firstFault ([(0x12, decide (e.num 0x12 1 > 2))] ++ e.descChecks 0x40 ++ [(0x54, decide (x.t.len > 65536))]
        ++ e.descChecks 0x60 ++ [(0x74, decide (y.t.len ≠ x.t.len)), (0x7C, (pairOfFmts x.code y.code).isNone)]
        ++ (if e.num 0x12 1 = 0 then []
            else e.descChecks 0x80 ++ [(0x9C, (e.desc 0x80).code = 0x7 || (e.desc 0x80).code = 0x8)]
              ++ (if (e.desc 0x80).t.bcast then [(0x94, decide ((e.desc 0x80).t.len ≠ y.rows))]
                  else e.dimChecks 0x80 x.rows y.rows))
        ++ e.descChecks 0xA0 ++ e.dimChecks 0xA0 x.rows y.rows) = none →
      ends (exec (.matmul c) s) (written (e.desc 0xA0))) ∧
    (Starting s c.val b 0x21 e →
      firstFault ([(0x12, decide (e.num 0x12 1 > 2)), (0x13, decide (e.num 0x13 1 > 2))] ++ e.descChecks 0x40) = none →
      ends (exec (.reduce c) s) [(e.num 0x18 8,
        (if e.num 0x12 1 = 0 then 8 else 16) * reduceCount (e.num 0x13 1) x.rows x.t.len)])
/-! ### Span instructions -/

/-- Scalar and control instructions (R302-R304, R309-R315), each issued at the PC of a pier that can issue it. NOP, SETI, ADDI,
LDC and RDTIME go to the next instruction with their result in rd; a branch that is taken goes to PC plus its offset and
leaves the loops that do not hold the target; LOOP opens a loop or skips its body, and ENDLP goes round or leaves; an
undefined opcode faults the pier with ILLEGAL_OP at its PC. -/
def Obligations.ScalarAndControl : Prop :=
  ∀ (n : Fin 16) (s : State) (l : Launch), let p := s.pier n.val
    let next (o : Out) (f : Pier → Pier) : Prop := ∃ u : State, o = .next u.carryOn ∧
      PierOnly s u n.val (f { p with code := 1, pc := p.pc + 1 })
    let goes (o : Out) (pc : Nat) (loops : List LoopEntry) : Prop := ∃ u : State, o = .next u.carryOn ∧
      PierOnly s u n.val { p with code := 1, pc := pc, loops := loops }
    (Issuing s n.val l .nop → next (exec (.nop n) s) id) ∧
    (∀ rd hi imm, Issuing s n.val l (.seti rd hi imm) → next (exec (.seti n) s) (fun q => q.setReg rd
      (if hi then BitVec.ofNat 64 (imm.toNat * 2 ^ 32 + (p.reg rd).toNat % 2 ^ 32) else BitVec.ofInt 64 imm.toInt))) ∧
    (∀ rd ra imm, Issuing s n.val l (.addi rd ra imm) →
      next (exec (.addi n) s) (fun q => q.setReg rd (p.reg ra + BitVec.ofInt 64 imm.toInt))) ∧
    (∀ rd mode k v, Issuing s n.val l (.ldc rd mode k) → ldcValue l.consts mode.toNat k.toNat = some v →
      next (exec (.ldc n) s) (fun q => q.setReg rd v)) ∧
    (∀ rd src, Issuing s n.val l (.rdtime rd src) →
      (src.toNat = 0 → next (exec (.rdtime n) s) (fun q => q.setReg rd
        (BitVec.ofNat 64 (s.time.sec % 2 ^ 32 * 2 ^ 32 + s.time.sub % 2 ^ 28)))) ∧
      (src.toNat = 1 → next (exec (.rdtime n) s) (fun q => q.setReg rd (BitVec.ofNat 64 (s.span n.val).cycles)))) ∧
    (∀ off, Issuing s n.val l (.br off) → let t : Int := p.pc + off.toInt
      0 ≤ t → t < l.count → goes (exec (.br n) s) t.toNat (popLoops t.toNat p.loops)) ∧
    (∀ ra cond off, Issuing s n.val l (.brc ra cond off) → let t : Int := p.pc + off.toInt
      (branchCond cond.toNat (p.reg ra).toInt = some true → 0 ≤ t → t < l.count →
        goes (exec (.brc n) s) t.toNat (popLoops t.toNat p.loops)) ∧
      (branchCond cond.toNat (p.reg ra).toInt = some false → goes (exec (.brc n) s) (p.pc + 1) p.loops)) ∧
    (∀ ra off, Issuing s n.val l (.loop ra off) → 1 ≤ off.toNat → off.toNat ≤ 8191 → p.loops.length < 4 →
      let count := (p.reg ra).toNat % 2 ^ 32
      (count = 0 → goes (exec (.loop n) s) (p.pc + off.toNat + 1) p.loops) ∧
      (count ≠ 0 → goes (exec (.loop n) s) (p.pc + 1) (⟨p.pc + 1, p.pc + off.toNat, count⟩ :: p.loops))) ∧
    (∀ top rest, Issuing s n.val l .endlp → p.loops = top :: rest → top.last = p.pc →
      (top.remaining ≤ 1 → goes (exec (.endlp n) s) (p.pc + 1) rest) ∧
      (1 < top.remaining → goes (exec (.endlp n) s) top.first ({ top with remaining := top.remaining - 1 } :: rest))) ∧
    (s.atIssue n.val = some (l, none) → decodeSpan (Store.get 0#64 p.pc l.ibuf) = none ∧
      ∃ u : State, exec (.illegalOp n) s = .next u.carryOn ∧ (u.pier n.val).code = 0x10 ∧ (u.pier n.val).pc = p.pc)

/-- ALU (R313, Table 11.5): rd takes the wrapping sum, difference or product, one of the three bitwise operations, ra shifted
by the low six bits of rb, a minimum or maximum, or a comparison, signed or unsigned; from fn 16 on the pier faults with
ILLEGAL_OPERAND at its PC and writes nothing. -/
def Obligations.AluInstruction : Prop :=
  ∀ (n : Fin 16) (s : State) (l : Launch) (rd ra rb : PReg) (fn : BitVec 6), Issuing s n.val l (.alu rd ra rb fn) →
    let p := s.pier n.val
    let a := p.reg ra
    let b := p.reg rb
    let sh := b.toNat % 64
    let sets (v : Word) : Prop := ∃ u : State, exec (.alu n) s = .next u.carryOn ∧
      PierOnly s u n.val ({ p with code := 1, pc := p.pc + 1 }.setReg rd v)
    (fn = 0 → sets (BitVec.ofNat 64 (a.toNat + b.toNat))) ∧ (fn = 1 → sets (BitVec.ofInt 64 (a.toInt - b.toInt))) ∧
    (fn = 2 → sets (a &&& b)) ∧ (fn = 3 → sets (a ||| b)) ∧ (fn = 4 → sets (a ^^^ b)) ∧
    (fn = 5 → sets (BitVec.ofNat 64 (a.toNat * 2 ^ sh))) ∧ (fn = 6 → sets (BitVec.ofNat 64 (a.toNat / 2 ^ sh))) ∧
    (fn = 7 → sets (BitVec.ofInt 64 (a.toInt / 2 ^ sh))) ∧ (fn = 8 → sets (BitVec.ofNat 64 (a.toNat * b.toNat))) ∧
    (fn = 9 → sets (BitVec.ofInt 64 (min a.toInt b.toInt))) ∧ (fn = 10 → sets (BitVec.ofInt 64 (max a.toInt b.toInt))) ∧
    (fn = 11 → sets (BitVec.ofNat 64 (min a.toNat b.toNat))) ∧ (fn = 12 → sets (BitVec.ofNat 64 (max a.toNat b.toNat))) ∧
    (fn = 13 → sets (if a.toInt < b.toInt then 1 else 0)) ∧ (fn = 14 → sets (if a.toNat < b.toNat then 1 else 0)) ∧
    (fn = 15 → sets (if a = b then 1 else 0)) ∧
    (16 ≤ fn.toNat → ∃ u : State, exec (.alu n) s = .next u.carryOn ∧ (u.pier n.val).code = 0x11 ∧
      (u.pier n.val).pc = p.pc ∧ (u.pier n.val).regs = p.regs ∧ u.mem = s.mem)

/-- Instructions that wait and instructions of memory (R307, R316-R326): EVREC, DMA, the atomics and MCAST enter flight
with the operands they read; EVWAIT, BARRIER, FENCE, DMAW and HALT block the pier, an EVWAIT only until its event has the
value, with rd the error bit, or 2 at its timeout; a BARRIER names spans that the command launched, none that was fenced then
(R278, R318), and waits at issue while the mesh's tables hold its message (R374); a DMA takes its idle tag and an MCAST a free
slot, or writes 0 where no other span is named. A timed row brings time to its instant (log entry 5). -/
def Obligations.WaitsAndMemoryIssue : Prop :=
  ∀ (n : Fin 16) (s : State) (l : Launch), let p := s.pier n.val
    let q : Pier := { p with code := 1, pc := p.pc + 1 }
    let becomes (o : Out) (x : Pier) : Prop := ∃ u : State, o = .next u.carryOn ∧ PierOnly s u n.val x
    let flies (o : Out) (x : Pier) (i : SpanInstr) (a b c : Word) (aux : Nat) : Prop :=
      becomes o { x with flight := x.flight ++ [⟨i, a, b, c, aux⟩] }
    let blocks (o : Out) (i : SpanInstr) (b : Word) : Prop :=
      becomes o { q with code := 2, blocked := some (⟨i, 0, b, 0, 0⟩, s.now) }
    let aligned (a : Word) (w : Nat) : Prop := a.toNat % 2 ^ 48 % w = 0
    let spad (a : Word) : Prop := ∃ m o, s.target (a.toNat % 2 ^ 48) = .scratch m o
    let memory (a : Word) : Prop := spad a ∨ (∃ r i, s.target (a.toNat % 2 ^ 48) = .gddr r i) ∨
      (∃ c g, s.target (a.toNat % 2 ^ 48) = .cxl c g)
    (∀ rb err op ev, Issuing s n.val l (.evrec rb err op ev) →
      flies (exec (.spanEvrec n) s) q (.evrec rb err op ev) 0 (p.reg rb) 0 0) ∧
    (∀ rd rb t ev, Issuing s n.val l (.evwait rd rb t ev) → let v := s.event ev.toNat
      (p.reg rb ≤ v.value → becomes (exec (.spanEvwait n) s) (q.setReg rd (if v.error then 1 else 0))) ∧
      (v.value < p.reg rb → blocks (exec (.spanEvwait n) s) (.evwait rd rb t ev) (p.reg rb))) ∧
    (∀ i start rd rb t ev, s.running = true → p.live = true → p.blocked = some (i, start) → i.instr = .evwait rd rb t ev →
      t ≠ 0 → let r := s.passTo (start + t.toNat * 250)
      ∃ u : State, exec (.spanEvwaitTimeout n) s = .next u.carryOn ∧
        PierOnly r u n.val ({ p with blocked := none, code := 1 }.setReg rd 2)) ∧
    (∀ rd id m, Issuing s n.val l (.barrier rd id m) → let all := s.launchedSpans n.val l
      let mask := if m = 0 then all else m.toNat
      let mine (x : Barrier) : Bool := x.ctx = l.ctx && x.batch = l.batch && x.cmd = l.cmd && x.id = id.toNat
      ((∃ k, k ∈ maskSpans mask ∧ natBit all k = false) → ∃ u : State, exec (.barrier n) s = .next u.carryOn ∧
        (u.pier n.val).code = 0x11 ∧ (u.pier n.val).pc = p.pc) ∧
      ((∀ k, k ∈ maskSpans mask → natBit all k = true) → s.feHeld n.val = true →
        becomes (exec (.barrier n) s) { p with code := 2 }) ∧
      ((∀ k, k ∈ maskSpans mask → natBit all k = true) → s.feHeld n.val = false →
        (∀ x, x ∈ s.fe.barriers → mine x = true → x.mask = mask) → ∃ u : State, exec (.barrier n) s = .next u.carryOn ∧
        u.pier n.val = { q with code := 2, blocked := some (⟨.barrier rd id m, 0, 0, 0, 0⟩, s.now) } ∧
        u.fe.barriers = (if s.fe.barriers.any mine then
            s.fe.barriers.map (fun (x : Barrier) => if mine x then { x with issued := setBit x.issued n.val } else x)
          else s.fe.barriers ++ [⟨l.ctx, l.batch, l.cmd, id.toNat, mask, 2 ^ n.val⟩]) ∧
        (∀ k, k ≠ n.val → u.span k = s.span k) ∧ { u with spans := s.spans, fe := s.fe } = s)) ∧
    (∀ classes, Issuing s n.val l (.fence classes) → blocks (exec (.fence n) s) (.fence classes) 0) ∧
    (∀ rd f mask, Issuing s n.val l (.dmaw rd f mask) → blocks (exec (.dmaw n) s) (.dmaw rd f mask) 0) ∧
    (Issuing s n.val l .halt → blocks (exec (.halt n) s) .halt 0) ∧
    (∀ ra rb rc t, Issuing s n.val l (.dma ra rb rc t) → let dst := (p.reg ra).toNat % 2 ^ 48
      let src := (p.reg rb).toNat % 2 ^ 48
      let len := (p.reg rc).toNat % 2 ^ 32
      (p.tag t.toNat).busy = false → 1 ≤ len → len ≤ 2 ^ 31 → overlaps src dst len = false →
      flies (exec (.dma n) s) (q.setTag t.toNat ⟨true, (p.tag t.toNat).err, src, dst, len, false, none⟩) (.dma ra rb rc t)
        (p.reg ra) (p.reg rb) (p.reg rc) t.toNat) ∧
    (∀ rd ra rb ret wide, Issuing s n.val l (.atadd rd ra rb ret wide) → aligned (p.reg ra) (if wide then 8 else 4) →
      memory (p.reg ra) → flies (exec (.atadd n) s) q (.atadd rd ra rb ret wide) (p.reg ra) (p.reg rb) 0 0) ∧
    (∀ rd ra rb wide, Issuing s n.val l (.atswp rd ra rb wide) → aligned (p.reg ra) (if wide then 8 else 4) →
      memory (p.reg ra) → flies (exec (.atswp n) s) q (.atswp rd ra rb wide) (p.reg ra) (p.reg rb) 0 0) ∧
    (∀ rd ra rb ret, Issuing s n.val l (.bset rd ra rb ret) → aligned (p.reg ra) 8 → spad (p.reg ra) →
      flies (exec (.bset n) s) q (.bset rd ra rb ret) (p.reg ra) (p.reg rb) 0 0) ∧
    (∀ rd ra rb ret, Issuing s n.val l (.bclr rd ra rb ret) → aligned (p.reg ra) 8 → spad (p.reg ra) →
      flies (exec (.bclr n) s) q (.bclr rd ra rb ret) (p.reg ra) (p.reg rb) 0 0) ∧
    (∀ rd ra rb n1, Issuing s n.val l (.mcast rd ra rb n1) →
      let mask := clearBit ((p.reg ra).toNat % 2 ^ 16) n.val
      natBits (p.reg rb).toNat 16 0 + n1.toNat + 1 ≤ 131072 → natBits (p.reg rb).toNat 48 32 + n1.toNat + 1 ≤ 131072 →
      (mask = 0 → becomes (exec (.mcast n) s) (q.setReg rd 0)) ∧
      (∀ k, mask ≠ 0 → k < 4 → (p.slot k).busy = false → (∀ j, j < k → (p.slot j).busy = true) →
        flies (exec (.mcast n) s) (q.setSlot k ⟨true, mask, 0, 0⟩) (.mcast rd ra rb n1) (p.reg ra) (p.reg rb) 0 k))

/-- Completions (R306, R320-R326, R359, R377-R379, R383). DMA_COMPLETE copies as far as it can, to the access that fails where one
does, frees the tag and records an error; of a lost transfer, or for a span that is fenced, nothing is copied;
an atomic that may complete gives its rd the sign-extended old value and leaves the new one in its word; an EVREC performs
its operation once nothing before it is in flight; a delivery copies an MCAST's units to the target span and a cancellation
does not, and the last answer frees the slot with the cancelled spans in rd. A span whose instruction completes has been heard of
(log entry 129), and what comes back to a fenced span is counted (log entry 130). What is held for the tables of a detour or for
the end of a march test (R364, R374) changes nothing yet. -/
def Obligations.MemoryCompletions : Prop :=
  ∀ (n : Fin 16) (s : State), s.running = true →
    (∀ (tag : Fin 32) (events : List MemEvent), s.dmaHeld n.val ((s.pier n.val).tag tag.val) = true →
      exec (.dmaComplete n tag events) s = .next s) ∧
    (∀ (tag : Fin 32) (events : List MemEvent) (k : Nat), ((s.pier n.val).dmaOf tag.val).isSome = true →
      s.dmaHeld n.val ((s.pier n.val).tag tag.val) = false →
      let v := s.memEvents events
      let x := (v.pier n.val).tag tag.val
      let ends (t : State) (err : Bool) : Prop := exec (.dmaComplete n tag events) s = .next (t.modPier n.val (fun p =>
        { p with flight := p.flight.eraseIdx k }.setTag tag.val
          { x with busy := false, lost := false, readFail := none, err := x.err || err })).carryOn
      let r := { v with pcie := { v.pcie with readFail := x.readFail } }.dmaCopy x.src x.dst x.len
      (v.pier n.val).dmaOf tag.val = some k →
        (v.spanFenced n.val = false → x.lost = false → ends { r.1 with pcie := { r.1.pcie with readFail := none } } r.2.isSome) ∧
        (v.spanFenced n.val = false → x.lost = true → ends v true) ∧
        (v.spanFenced n.val = true → ends (if spanRegion n.val ≤ x.src ∧ x.src < spanRegion n.val + spanSize then v
          else v.countDrops (flitsOf x.len)) true)) ∧
    (∀ (k : Fin 192) (i : InFlight), (s.pier n.val).flight[k.val]? = some i →
      mayComplete (s.span n.val).runTile (s.pier n.val).flight k.val i = true → i.aux < 2 ^ 20 →
      s.atomicHeld n.val i = false → s.spanFenced n.val = false →
      let a := i.a.toNat % 2 ^ 48
      let h := s.heard n.val
      let lands (w : Nat) (new : Nat → Nat) (rd : Option PReg) (sat : Nat → Bool) : Prop :=
        s.firstBad false a w = none → let old := s.readNat a w
        exec (.instructionCompletion n k) s = .next (let t := (h.writeNat a w (new old)).modPier n.val (fun p =>
            let p := { p with flight := p.flight.eraseIdx k.val }
            match rd with
            | some r => p.setReg r (BitVec.ofInt 64 (signedOf (8 * w) old))
            | none => p)
          if sat old then t.markOrder n.val else t).carryOn
      (∀ rd ra rb ret wide, i.instr = .atadd rd ra rb ret wide → let w := if wide then 8 else 4
        let sum (old : Nat) : Int := signedOf (8 * w) old + signedOf (8 * w) i.b.toNat
        lands w (fun old => unsignedOf (8 * w) (max (-(2 ^ (8 * w - 1) : Nat)) (min ((2 ^ (8 * w - 1) : Nat) - 1) (sum old)))
          % 2 ^ (8 * w)) (if ret then some rd else none)
          (fun old => decide (sum old < -(2 ^ (8 * w - 1) : Nat)) || decide ((2 ^ (8 * w - 1) : Nat) - 1 < sum old))) ∧
      (∀ rd ra rb wide, i.instr = .atswp rd ra rb wide → let w := if wide then 8 else 4
        lands w (fun _ => i.b.toNat % 2 ^ (8 * w)) (some rd) (fun _ => false)) ∧
      (∀ rd ra rb ret, i.instr = .bset rd ra rb ret →
        lands 8 (fun old => (old ||| i.b.toNat) % 2 ^ 64) (if ret then some rd else none) (fun _ => false)) ∧
      (∀ rd ra rb ret, i.instr = .bclr rd ra rb ret →
        lands 8 (fun old => (old &&& (2 ^ 64 - 1 - i.b.toNat)) % 2 ^ 64) (if ret then some rd else none) (fun _ => false))) ∧
    (∀ (k : Fin 192) (i : InFlight) rb err op ev, (s.pier n.val).flight[k.val]? = some i → i.instr = .evrec rb err op ev →
      mayComplete (s.span n.val).runTile (s.pier n.val).flight k.val i = true → (s.pier n.val).live = true → s.feHeld n.val = false → k.val = 0 ∧
      exec (.instructionCompletion n k) s = .next (((s.heard n.val).modPier n.val (fun p =>
        { p with flight := p.flight.eraseIdx k.val })).eventOp ev.toNat op i.b err false).carryOn) ∧
    (∀ (slot : Fin 4) (target : Fin 16) (k : Nat) (i : InFlight) rd ra rb n1, s.branchOpen n.val slot.val target.val = true →
      (s.pier n.val).mcastOf slot.val = some k → (s.pier n.val).flight[k]? = some i → i.instr = .mcast rd ra rb n1 →
      s.heldTo n.val (spanRouter target.val) = false →
      let x := (s.pier n.val).slot slot.val
      let src := spanRegion n.val + 64 * natBits i.b.toNat 16 0
      let dst := spanRegion target.val + 64 * natBits i.b.toNat 48 32
      let answered := setBit x.answered target.val
      let answer (cancelled : Nat) (p : Pier) : Pier :=
        if answered = x.mask then
          ({ p with flight := p.flight.eraseIdx k }.setSlot slot.val mcastSlot0).setReg rd (BitVec.ofNat 64 cancelled)
        else p.setSlot slot.val { x with answered := answered, cancelled := cancelled }
      (s.spanFenced target.val = false → s.marchHeld (spanRegion target.val) 1 = false →
        ∃ u : State, exec (.deliveryNotice n slot target) s = .next u.carryOn ∧
          (∀ a, memGet u.mem a = if dst ≤ a ∧ a < dst + 64 * (n1.toNat + 1) ∧ s.poisonedAt (src + (a - dst)) = false then
            memGet s.mem (src + (a - dst)) else memGet s.mem a) ∧
          { u with mem := s.mem, poison := s.poison } = (s.returnTo n.val).modPier n.val (answer x.cancelled)) ∧
      (s.spanFenced target.val = true → exec (.cancelNotice n slot target) s =
        .next ({ s with mesh := { s.mesh with drops := min 0xFFFFFFFF (s.mesh.drops + flitsOf (64 * (n1.toNat + 1))) } } |>.returnTo n.val |>.modPier n.val
          (answer (setBit x.cancelled target.val))).carryOn))

/-- Tensor and anneal instructions (R330-R347, R338-R342): one whose operands are legal enters flight with the operands it read
and its PC, and takes effect when it completes; a tensor instruction that may complete has its effect then. An anneal instruction of
Table 12.7 completes in every pier that carries the run once all have come to its order: the run makes its step, each pier takes its
value of rd, and the run's spans go to the next order. One out of its order, or without a run, faults its pier. BIND starts a run
that every span of its problem issues it for, or fails in every pier that issues it. -/
def Obligations.TensorAndAnnealIssue : Prop :=
  ∀ (n : Fin 16) (s : State) (l : Launch), let p := s.pier n.val
    let flies (o : Out) (i : SpanInstr) (a b c : Word) (aux : Nat) : Prop := ∃ u : State, o = .next u.carryOn ∧
      PierOnly s u n.val { p with code := 1, pc := p.pc + 1, flight := p.flight ++ [⟨i, a, b, c, aux⟩] }
    (∀ t ra rb pair sh neg s1b c kq, let i : SpanInstr := .mma t ra rb pair sh neg s1b c kq
      Issuing s n.val l i → (mmaJob n.val t (p.reg ra) (p.reg rb) pair sh neg s1b c kq).isSome = true →
      flies (exec (.mma n) s) i (p.reg ra) (p.reg rb) (p.reg 0) p.pc) ∧
    (∀ t ra rb e pair sh neg s1b c kq, let i : SpanInstr := .mmaz t ra rb e pair sh neg s1b c kq
      Issuing s n.val l i → (mmaJob n.val t (p.reg ra) (p.reg rb) pair sh neg s1b c kq).isSome = true →
      flies (exec (.mmaz n) s) i (p.reg ra) (p.reg rb) (p.reg 0) p.pc) ∧
    (∀ t e sh c m k, let i : SpanInstr := .accz t e sh c
      Issuing s n.val l i → shapeOf sh = some (m, k) → c.ok = true → tileOk t.toNat m k = true →
      flies (exec (.accz n) s) i (p.reg 0) (p.reg 0) (p.reg 0) p.pc) ∧
    (∀ t ra rb sh op c axis, let i : SpanInstr := .red t ra rb sh op c axis
      Issuing s n.val l i → redOk t (p.reg ra) (p.reg rb) sh op c axis = true →
      flies (exec (.red n) s) i (p.reg ra) (p.reg rb) (p.reg 0) p.pc) ∧
    (∀ t ra rb d fmt sh op c yfmt ybc clr, let i : SpanInstr := .accmv t ra rb d fmt sh op c yfmt ybc clr
      Issuing s n.val l i → (accmvOps n.val t (p.reg ra) (p.reg rb) fmt sh op c yfmt ybc).isSome = true →
      flies (exec (.accmv n) s) i (p.reg ra) (p.reg rb) (p.reg 0) p.pc) ∧
    (∀ ra rb rc ofmt ifmt d tr, let i : SpanInstr := .cvt ra rb rc ofmt ifmt d tr
      Issuing s n.val l i → (cvtOps n.val (p.reg ra) (p.reg rb) (p.reg rc) ofmt ifmt tr).isSome = true →
      flies (exec (.cvt n) s) i (p.reg ra) (p.reg rb) (p.reg rc) p.pc) ∧
    (∀ rz ra rb rc zfmt xfmt yfmt d ybc op, let i : SpanInstr := .ewo rz ra rb rc zfmt xfmt yfmt d ybc op
      Issuing s n.val l i →
      (ewoOps n.val (p.reg rz) (p.reg ra) (p.reg rb) (p.reg rc) zfmt xfmt yfmt ybc).isSome = true →
      flies (exec (.ewo n) s) i (p.reg ra) (p.reg rb) (p.reg rc) (p.reg rz).toNat) ∧
    (∀ t ra rb rc pair sh op c qubo kq, let i : SpanInstr := .fldc t ra rb rc pair sh op c qubo kq
      Issuing s n.val l i →
      (op = 0 → (fldcJob n.val t (p.reg ra) (p.reg rb) pair sh c kq).isSome = true →
        flies (exec (.fldcAccumulate n) s) i (p.reg ra) (p.reg rb) (p.reg rc) p.pc) ∧
      (op = 1 → (fldcSlots t (p.reg rc) sh c).isSome = true →
        flies (exec (.fldcCommitAdd n) s) i (p.reg ra) (p.reg rb) (p.reg rc) p.pc) ∧
      (op = 2 → (fldcSlots t (p.reg rc) sh c).isSome = true →
        flies (exec (.fldcCommitSet n) s) i (p.reg ra) (p.reg rb) (p.reg rc) p.pc)) ∧
    (∀ t ra rb rc sh clr bias c bfmt, let i : SpanInstr := .gibbs t ra rb rc sh clr bias c bfmt
      Issuing s n.val l i → s.gibbsOk n.val t (p.reg ra) (p.reg rb) (p.reg rc) sh bias c bfmt = true →
      flies (exec (.gibbs n) s) i (p.reg ra) (p.reg rb) (p.reg rc) p.pc) ∧
    (∀ rd ra m2, let i (mode : BitVec 2) : SpanInstr := .sched rd ra m2 mode
      (Issuing s n.val l (i 0) → flies (exec (.schedBind n) s) (i 0) (p.reg ra) 0 0 p.pc) ∧
      (Issuing s n.val l (i 1) → flies (exec (.schedEnd n) s) (i 1) 0 0 0 p.pc) ∧
      (Issuing s n.val l (i 2) → flies (exec (.schedNext n) s) (i 2) 0 0 0 p.pc)) ∧
    (∀ rd,
      (Issuing s n.val l (.sweep rd) → flies (exec (.sweep n) s) (.sweep rd) 0 0 0 p.pc) ∧
      (Issuing s n.val l (.fref rd) → flies (exec (.fref n) s) (.fref rd) 0 0 0 p.pc) ∧
      (Issuing s n.val l (.eaud rd) → flies (exec (.eaud n) s) (.eaud rd) 0 0 0 p.pc) ∧
      (Issuing s n.val l (.snap rd) → flies (exec (.snap n) s) (.snap rd) 0 0 0 p.pc) ∧
      (Issuing s n.val l (.xchg rd) → flies (exec (.xchg n) s) (.xchg rd) 0 0 0 p.pc) ∧
      (Issuing s n.val l (.rmig rd) → flies (exec (.rmig n) s) (.rmig rd) 0 0 0 p.pc) ∧
      (Issuing s n.val l (.wrot rd) → flies (exec (.wrot n) s) (.wrot rd) 0 0 0 p.pc)) ∧
    (∀ (k : Fin 192) (i : InFlight), s.running = true → p.flight[k.val]? = some i → isTensorLike i.instr = true →
      mayComplete (s.span n.val).runTile p.flight k.val i = true → exec (.instructionCompletion n k) s =
        .next (((s.heard n.val).modPier n.val (fun q => { q with flight := q.flight.eraseIdx k.val })).doTensor n.val i).carryOn)  ∧
    (∀ (t : State) (r : Run) (next : Nat) (v : Nat → Word), r.spans.Nodup → let u := t.completeAll r next v
      (∀ m k i, m ∈ t.carriers r → t.annealHead m = some (k, i) → let q := { t.pier m with flight := (t.pier m).flight.eraseIdx k }
        u.pier m = match dstReg i.instr with
          | some rd => q.setReg rd (v m)
          | none => q) ∧
      (∀ m, ¬ m ∈ t.carriers r → u.pier m = t.pier m) ∧
      (∀ m, u.span m = { t.span m with
        pier := u.pier m, order := if m ∈ r.spans ∧ (t.span m).bound = some r.problem then next else (t.span m).order }) ∧
      { u with spans := t.spans } = t) ∧
    (∀ (p : Problem) (r : Run), s.problem r.problem = some p → s.run r.problem = some r → r.mismatched = none →
      r.sysFree = true → s.carriers r ≠ [] →
      let done (t : State) (next : Nat) (v : Nat → Word) : Prop := s.runStep r = some (t.completeAll r next v)
      let at_ (k : Nat) : Prop := ∀ m, m ∈ s.carriers r → s.headOrder m = some k
      let here (f : Run → Run) : State := s.modRun r.problem f
      let reps := List.range p.nrep
      (r.starting = true → at_ 0 → done (here (fun x => { x with starting := false })) 1 (fun _ => 0)) ∧
      (r.starting = false →
        (at_ 1 → (r.swept = true → done (here (fun x => { x with swept := false })) 2 (fun _ => BitVec.ofNat 64 r.sweepResult)) ∧
          (r.swept = false → s.atRest r = true → s.runStep r = some (s.startSweep p r)) ∧
          (r.swept = false → s.atRest r = false → s.runStep r = none)) ∧
        (at_ 2 → let blocks (m : Nat) : Word := BitVec.ofNat 64 (r.blocksIn m)
          let due : Prop := r.sweepResult = 0 ∧ r.refreshAt p = true
          (∀ x, r.sys = some x → done s 3 (fun m => if x.refreshed then blocks m else 0)) ∧
          (r.sys = none → ¬ due → done s 3 (fun _ => 0)) ∧
          (r.sys = none → due → ∀ x, (s.refreshStep p r).run r.problem = some x →
            done (s.refreshStep p r) 3 (fun m => if x.sweepResult = 0 then blocks m else 0))) ∧
        (at_ 3 → let due : Prop := r.sweepResult = 0 ∧ r.auditAt p = true
          let exact (k : Nat) : Int := p.energyUnits (s.value p r k) r.ef
          let bad := reps.filter (fun k => decide ((if auditExact p then 0 else s.changedBy r k * 65536) <
            (exact k - Store.get 0 k r.totals).natAbs))
          (∀ x, r.sys = some x → done s 4 (fun _ => if x.auditBad then 1 else 0)) ∧
          (r.sys = none → ¬ due → done s 4 (fun _ => 0)) ∧
          (r.sys = none → due → ∃ t, done t 4 (fun _ => if bad = [] then 0 else 1) ∧
            (bad = [] → ∃ x, t.run r.problem = some x ∧ x.auditBad = r.auditBad ∧
              ∀ k, k < p.nrep → Store.get 0 k x.totals = exact k))) ∧
        (at_ 4 → let b := bestOf p.nrep r.totals
          let new : Prop := r.bestLost = true ∨ b.2 < r.best
          let due : Prop := r.sweepResult = 0 ∧ r.sampleInterval ≠ 0 ∧ (r.sweep + 1) % r.sampleInterval = 0
          (r.noSteps = true ∨ r.bestSet = false → done s 5 (fun _ => 0)) ∧
          (r.noSteps = false → r.bestSet = true → partOf p = 0 → ∃ t x, t.run r.problem = some x ∧
            x.sampleCount = r.sampleCount + (if due then 1 else 0) ∧
            (¬ new → done t 5 (fun _ => 0) ∧ x.best = r.best ∧ x.bestReplica = r.bestReplica ∧ x.bestSweep = r.bestSweep) ∧
            (new → done t 5 (fun _ => 1) ∧ x.best = b.2 ∧ x.bestReplica = b.1 ∧ x.bestSweep = r.sweep + 1))) ∧
        (at_ 5 → let stopped : Prop := (s.stopsNow r = true ∨ ∃ x, r.sys = some x ∧ x.endCause ≠ 0) ∧ r.sweep + 1 < r.lastSweep p
          let due : Prop := r.sweepResult = 0 ∧ r.exchangeAt p = true ∧ ¬ stopped ∧ partOf p = 0
          (¬ due → done s 6 (fun _ => 0)) ∧
          (due → done (here (fun _ => (r.exchangeRound p).1)) 6 (fun _ => BitVec.ofNat 64 (r.exchangeRound p).2) ∧
            (r.exchangeRound p).1.rounds = r.rounds + 1)) ∧
        (at_ 6 → r.sys = none →
          let t := if (r.sweepResult = 0 ∨ r.sweepResult = 2) ∧ r.complete p = false ∧ s.stopsNow r = true then s.takeStops r.problem else s
          (s.endsHere p r = false → done t 7 (fun _ => 0)) ∧
          (s.endsHere p r = true → ∃ u, s.runStep r = some u ∧ u.run r.problem = none ∧
            ∀ m, m ∈ s.carriers r → m < 16 → (u.span m).bound = none ∧ (u.span m).order = 10)) ∧
        (at_ 7 → let t := s.migrateStep p r
          done t.1 8 (fun _ => match t.2 with
            | some k => BitVec.ofNat 64 k
            | none => BitVec.allOnes 64) ∧
          (migratingIn p r.window = [] ∨ r.migrateAt p = false → t = (s, none))) ∧
        (at_ 8 → let t := s.rotateStep p r
          (r.stops.limit = true → done s 9 (fun _ => BitVec.ofNat 64 r.window)) ∧
          (r.stops.limit = false → done t.1 9 (fun _ => BitVec.ofNat 64 t.2)) ∧
          (p.windows ≤ 1 ∨ (r.sweep + 1) % r.windowLength ≠ 0 → t = (s, r.window))) ∧
        (at_ 9 → let next : State := here (fun x => { x with sweep := r.sweep + 1, betas := x.betasFor p (r.sweep + 1), newBest := false })
          let to_ (k : Nat) : Nat → Word := fun _ => BitVec.ofNat 64 k
          (r.ckptOpen = none → r.stops.limit = false → r.checkpointAt r.sweep = false → done next 1 (to_ (r.sweep + 1))) ∧
          (r.ckptOpen = none → r.stops.limit = true → done (here (fun x => { x with sweep := x.sweep + 1 })) 1 (to_ (r.sweep + 1))) ∧
          (r.ckptOpen = none → r.stops.limit = false → r.checkpointAt r.sweep = true → ∃ t x, s.runStep r = some t ∧
            t.run r.problem = some x ∧ x.sweep = r.sweep + 1 ∧ x.ckptOpen = some false) ∧
          (r.ckptOpen = some false → s.runStep r = none) ∧
          (r.ckptOpen = some true → done (s.ckptClose p r) 1 (to_ r.sweep))))) ∧
    (∀ m k, s.headOrder m = some (k + 1) →
      ((s.span m).bound = none → s.orderStep m =
        some (s.faultAnneal m (if (s.span m).order = 10 ∧ 7 ≤ k + 1 then 0x21 else 0x20))) ∧
      (∀ q, (s.span m).bound = some q → (s.span m).order ≠ k + 1 → s.orderStep m = some (s.faultAnneal m 0x21))) ∧
    (∀ (ctx cmd : Nat) (batch : Bool) (m : Nat) (rest : List Nat), s.binders ctx cmd batch = m :: rest →
      (∀ x, x ∈ m :: rest → (s.span x).bound = none) → let b := s.bindBlock m
      let fails (status detail : Nat) : Prop := s.bindStep ctx cmd batch = some (s.failBind (m :: rest) status detail)
      let same : Prop := ∀ x, x ∈ rest → s.bindBlock x = b
      let legal : Prop := numAt b 0 1 = 0x12 ∨ numAt b 0 1 = 0x14 ∨ numAt b 0 1 = 0x17
      (¬ same → fails 0x1F 0) ∧ (same → ¬ legal → fails 0x10 0) ∧
      (same → legal → s.bindProblem b (s.runExec m).isSome = none → fails 0x15 (numAt b 0x10 4)) ∧
      (same → legal → ∀ p, s.bindProblem b (s.runExec m).isSome = some p → s.run (p.id % 64) = none → s.bindLacks p (m :: rest) = false →
        (∀ x, x ∈ m :: rest → x ∈ problemSpans p) → (∀ x, x ∈ problemSpans p → s.spanFenced x = false → x ∈ m :: rest) →
        (schedFault p b = true → fails 0x19 0) ∧
        (schedFault p b = false → s.runExec m = none → drawsKey b = false → numAt b 0 1 ≠ 0x17 →
          let t := (m :: rest).foldl (fun (t : State) x => match t.annealHead x with
            | some (_, i) => t.modSpan x (fun y => { y with runTile := bindTile i.instr })
            | none => t) s
          s.bindStep ctx cmd batch = some (t.startRun p (Run.ofBlock p b ctx cmd batch
            (BitVec.ofNat 32 (numAt b 0x18 4)) (blockKeyHi p (numAt b 0x1C 4)) s.now) none))))

/-! ### Runs -/

/-- Block visits (R93, R124-R132, R150, R165, R169, R391). At its next block a span whose run has a stop cause in force ends its
epoch there and sends its records; otherwise it makes the visit of the block: the run has begun, and the block ends, or
leaves the lanes of a continuation, which goes on with them. What lies in a poisoned granule is zero to a visit that reads it, and
the run then stops as QSTOP stops it. Words written whole are poisoned no more (R359). BLOCK_REFRESH makes the test read of the next block ahead of its visit, in that visit's unit of work, when one is
due. That a row out of place changes nothing is the model's choice (log entry 6). -/
def Obligations.BlockVisits : Prop :=
  ∀ (n : Fin 16) (s : State) (p : Problem) (r : Run) (b : BlockRow),
    let visited (t u : State) (q : Run) : Prop :=
      (∀ m, u.span m = t.span m) ∧ u.run r.problem = some q ∧ (∀ k, k ≠ r.problem → u.run k = t.run k) ∧
        { u with spans := t.spans, runs := t.runs } = t
    let holding (t : State) (x : Engine) : State := t.modEng n.val (fun _ => x)
    let deckWritten (t : State) : State := t.modSpan n.val (fun x => x.unpoison 2 (fun k => k = b.num))
    let stopping (q : Run) : Run := if p.readsLost (s.lostGranules p) b.vars b.replica
      then { q with stops := { q.stops with stop := true } } else q
    (∀ (events : List MemEvent) (p0 : Problem) (r0 : Run) (b0 : BlockRow), s.nextBlock n.val = some (p0, r0, b0) →
      let v := s.memEvents events
      v.nextBlock n.val = some (p, r, b) → let g := v.eng n.val
      let lost := v.lostReads p0 events
      let gone := v.lostGranules p
      let goes (u : State) : Prop := exec (.blockDecide n events) s = .next
        (if lost = [] then u else u.stopRun r0.problem (fun t => { t with stop := true })).carryOn
      let env := ((v.noteFirstBlock r).envOf p r n.val).losing gone
      let start := (g.unitStart.getD g.data).losing p gone
      let t := let loaded := v.loadTile env.p n.val b
        if env.refreshDue b g.data then loaded.fieldsWritten n.val b else loaded
      let began : Run := { (if r.begun then r else
        { r with begun := true, startTick := v.now, startSec := v.time.sec, startSub := v.time.sub }) with
        stops := if p.readsLost gone b.vars b.replica then { r.stops with stop := true } else r.stops }
      (v.stopsNow r = true → let msgs := v.epochMsgs p r n.val g.epoch false (g.epochRecs ++ g.blockRecs) false
        ∃ u : State, goes u ∧ ∀ m, { u.eng m with data := { (u.eng m).data with log := (v.eng m).data.log } } =
          if m = n.val then { g with
            phase := .boundary, stopped := true, cont := none, unitStart := none, blockRecs := [], epochRecs := [],
            sent := g.sent + 1, sentEf := g.ef, inject := g.inject ++ msgs, kept := g.kept ++ msgs }
          else v.eng m) ∧
      (v.stopsNow r = false → ∀ (w : Work) (rest : List Nat),
        env.decideBlock g.ef g.epoch b (env.laneOrder b) start = .ok (w, rest) →
        (rest ≠ [] → ∃ u : State, goes u ∧ visited (holding t { g with
          data := w.d, cont := some ⟨b.num, rest⟩, unitStart := some start, blockRecs := w.recs }) u began) ∧
        (rest = [] → g.pos + 1 < (r.epochBlocksOf p n.val g.epoch).length → ∃ u : State, goes u ∧
          visited ((deckWritten (holding t { g with
            data := w.d, unitStart := none, blockRecs := [], epochRecs := g.epochRecs ++ w.recs,
            pos := g.pos + 1 })).commitFar r n.val) u { began with lastSec := v.time.sec, lastSub := v.time.sub }))) ∧
    (∀ lanes : List Nat, s.contDue n.val = some (p, r, b, lanes) → let g := s.eng n.val
      ∀ (w : Work) (rest : List Nat),
        ((s.envOf p r n.val).losing (s.lostGranules p)).decideBlock g.ef g.epoch b lanes
          (g.data.losing p (s.lostGranules p)) = .ok (w, rest) →
        (rest ≠ [] → ∃ u : State, exec (.continuation n) s = .next u.carryOn ∧
          visited (holding s { g with
            data := w.d, cont := some ⟨b.num, rest⟩, unitStart := some (g.unitStart.getD g.data),
            blockRecs := g.blockRecs ++ w.recs }) u (stopping r)) ∧
        (rest = [] → g.pos + 1 < (r.epochBlocksOf p n.val g.epoch).length →
          ∃ u : State, exec (.continuation n) s = .next u.carryOn ∧
            visited ((deckWritten (holding s { g with
              data := w.d, cont := none, unitStart := none, blockRecs := [],
              epochRecs := g.epochRecs ++ g.blockRecs ++ w.recs, pos := g.pos + 1 })).commitFar r n.val) u
              { stopping r with lastSec := s.time.sec, lastSub := s.time.sub })) ∧
    (s.nextBlock n.val = some (p, r, b) → let g := s.eng n.val
      let env := (s.envOf p r n.val).losing (s.lostGranules p)
      let data := g.data.losing p (s.lostGranules p)
      (env.refreshDue b g.data = false → exec (.blockRefresh n) s = .next s.carryOn) ∧
      (∀ d : SpanData, env.refreshDue b g.data = true → env.testRead g.ef b data = .ok d →
        ∃ u : State, exec (.blockRefresh n) s = .next u.carryOn ∧
          visited (holding (s.fieldsWritten n.val b) { g with data := d, unitStart := some data }) u (stopping r)))

/-- Records between spans and epoch boundaries (R31-R33, R135-R142, R167, R171, R172, R234, R367, R368, R370, R378, R384). The
oldest flip flit, batch or marker of a channel of VC1 reaches its span, and a flip flit that entered under the tables in force may
pass those that entered under others (R368), once the routers have accepted it; the
flip-apply engine takes it unless it holds it or has applied its epoch, and the router of a fenced span counts and drops it. A
boundary that is not a flush waits until the records of every epoch that it applies are there, ends the span's work where an end
is due, and otherwise applies them, with the undos as the first records of the next epoch, and goes on to it, unless a re-map or
a full flip log holds the span. A flush waits as well, applies every epoch that is left, and sends the undo epoch. That a row
out of place changes nothing is the model's choice (log entry 6). -/
def Obligations.RecordsAndBoundaries : Prop :=
  (∀ (n : Fin 16) (s : State) (before after : List Vc1Msg) (m : Vc1Msg), s.running = true →
    s.mesh.vc1 = before ++ m :: after → n.val ∈ m.dests → (∀ x, x ∈ before → ¬ (x.src = m.src ∧ n.val ∈ x.dests)) →
    s.vc1Held m.src n.val = false → ∀ pick : FlitPick, (pick.newest = true → m.gen = s.mesh.generation) →
    let mesh : Mesh := { s.mesh with vc1 := before ++ (m.after n.val ++ after) }
    let taken (i : Instr) (x : Engine) : Prop := ∃ u : State, exec i s = .next u.carryOn ∧
      u.mesh = mesh ∧ u.span n.val = { s.span n.val with eng := x } ∧
      (∀ k, k ≠ n.val → u.span k = s.span k) ∧ { u with spans := s.spans, mesh := s.mesh } = s
    let g := s.eng n.val
    (s.spanFenced n.val = true → ∀ i : Instr,
        (m.src = pick.source.val ∧ m.body.isMarker = false ∧ i = .spanFlipFlit n pick) ∨
        (∃ src : Fin 16, m.src = src.val ∧ m.body.isMarker = true ∧ i = .spanEpochMarker n src) →
      let u : State := { s with mesh := mesh }
      exec i s = .next (if s.routerFailed (spanRouter n.val) then u else u.countDrops 1).carryOn) ∧
    (s.spanFenced n.val = false →
      (∀ epoch undo part seq seen first ef recs, m.src = pick.source.val → 16 ≤ m.src →
        m.body = .batch epoch undo part seq seen first ef recs →
        taken (.spanFlipFlit n pick) { g with batches := g.batches ++ [⟨part, epoch, undo, seq, seen, ef, first, recs⟩] }) ∧
      (∀ run undo seq recs, m.src = pick.source.val → m.src < 16 → m.body = .flit run undo seq recs →
        let i : Instr := .spanFlipFlit n pick
        (s.runOfSpan m.src = none → taken i g) ∧
        (∀ r : Run, s.runOfSpan m.src = some r → n.val ∈ r.spans → let k := run - r.sweep * r.k
          let old : Prop := run < r.sweep * r.k ∨ k + boolNat undo < g.applied ∨
            ∃ f, f ∈ g.flits ∧ f.src = m.src ∧ f.epoch = k ∧ f.undo = undo ∧ f.seq = seq
          (old → taken i g) ∧ (¬ old → taken i { g with flits := g.flits ++ [⟨m.src, k, undo, seq, recs⟩] })) ∧
        (∀ r : Run, s.runOfSpan m.src = some r → ¬ n.val ∈ r.spans → n.val ≠ m.src ^^^ 1 → taken i g) ∧
        (∀ r : Run, s.runOfSpan m.src = some r → ¬ n.val ∈ r.spans → n.val = m.src ^^^ 1 →
          let y := g.receivePair n.val m.src m.body
          y.pairDue = none → taken i y)) ∧
      (∀ (src : Fin 16) run undo counts ef ez limit, m.src = src.val → m.body = .marker run undo counts ef ez limit →
        ∀ r : Run, s.runOfSpan src.val = some r → n.val ∈ r.spans → let k := run - r.sweep * r.k
          let old : Prop := run < r.sweep * r.k ∨ k + boolNat undo < g.applied ∨
            ∃ f, f ∈ g.marks ∧ f.src = src.val ∧ f.epoch = k ∧ f.undo = undo
          (old → taken (.spanEpochMarker n src) g) ∧
          (¬ old → taken (.spanEpochMarker n src)
            { g with marks := g.marks ++ [⟨src.val, k, undo, counts.getD n.val 0, ef, ez, limit⟩] })))) ∧
  (∀ (n src : Fin 16) (s : State) (before after : List Vc1Msg) (m : Vc1Msg), s.running = true →
    (s.eng src.val).inject = before ++ m :: after → n.val ∈ m.dests → (∀ x, x ∈ before → ¬ n.val ∈ x.dests) →
    (∀ x, x ∈ s.mesh.vc1 → ¬ (x.src = src.val ∧ n.val ∈ x.dests)) → m.src = src.val →
    let t := s.injectFirst src.val (before.length + 1)
    (m.body.isMarker = false → ∀ newest : Bool, let i : Instr := .spanFlipFlit n ⟨src.castLE (by decide), newest⟩
      exec i s = exec i t) ∧
    (m.body.isMarker = true → exec (.spanEpochMarker n src) s = exec (.spanEpochMarker n src) t)) ∧
  (∀ (n : Fin 16) (s : State) (p : Problem) (r : Run), s.running = true → s.spanFenced n.val = false →
    s.boundRun n.val = some (p, r) → s.stopsNow r = false → (s.liveOf r).all (fun m => !(s.eng m).stopped) = true →
    let g := s.eng n.val
    g.phase = .boundary → g.stopped = false →
    let ends : Prop := g.epoch + 1 = r.k
    let colour : Prop := (r.schedOf p).coloured = true ∧ ∃ q, q ∈ r.colourEnds ∧ q.2 = g.epoch + 1
    let there (b : Nat) : Prop := ∀ k, g.applied ≤ k → k < b → s.epochComplete r n.val k false = true ∧
      s.partsComplete p r n.val k = true
    let ended (u : State) : Prop := SpanOnly s u n.val { s.span n.val with eng :=
      { g with phase := .ended, cont := none, unitStart := none, blockRecs := [] } }
    (¬ ends → ¬ colour → let b := max (r.segment g.epoch).1 (g.epoch + 1 - (r.schedOf p).lag)
      let i : Instr := .epochBoundary n
      (¬ there b → exec i s = .next s.carryOn) ∧
      (there b → s.endsAt p r n.val b = true → ∃ u : State, exec i s = .next u.carryOn ∧ ended u) ∧
      (there b → s.endsAt p r n.val b = false →
        ∀ (t : State) (d : SpanData) (undos : List FlipRec),
        s.applyEpochs p r n.val (max g.applied b) (g.epoch + 1) false = (t, d, some undos) →
        let goes (f : Engine → Engine) : Prop := ∃ u : State, exec i s = .next u.carryOn ∧
          SpanOnly t u n.val { t.span n.val with
            eng := f { t.eng n.val with epochRecs := (t.eng n.val).epochRecs ++ undos } }
        (r.remapAt b = true → goes (fun e => { e with phase := .held })) ∧
        (r.remapAt b = false → t.logFull p r n.val = true → goes id) ∧
        (r.remapAt b = false → t.logFull p r n.val = false → r.epochBlocksOf p n.val ((t.eng n.val).epoch + 1) ≠ [] →
          goes (fun e => { e with phase := .deciding, epoch := e.epoch + 1, pos := 0 })))) ∧
    (g.undoSent ≤ g.epoch → ∀ i : Instr, (i = .sweepFlush n ∧ (ends ∨ colour)) ∨ (i = .epochBoundary n ∧ colour ∧ ¬ ends) →
      let b := g.epoch + 1
      (s.endsAt p r n.val b = true → ∃ u : State, exec i s = .next u.carryOn ∧ ended u) ∧
      (s.endsAt p r n.val b = false → ¬ there b → exec i s = .next s.carryOn) ∧
      (s.endsAt p r n.val b = false → there b → ends → s.partsSwept p r n.val = false → exec i s = .next s.carryOn) ∧
      (s.endsAt p r n.val b = false → there b → (ends → s.partsSwept p r n.val = true) →
        ∀ (t : State) (d : SpanData) (undos : List FlipRec),
        s.applyEpochs p r n.val b b true = (t, d, some undos) →
        let msgs := t.epochMsgs p r n.val g.epoch true undos false
        ∃ u : State, exec i s = .next u.carryOn ∧ (∀ k, k ≠ r.problem → u.run k = t.run k) ∧
          SpanOnly t { u with runs := t.runs } n.val { t.span n.val with eng := { t.eng n.val with
            phase := .undoing, unitStart := some d, data := markFlush b (t.eng n.val).data, flushFrom := g.applied, undoSent := b, sentEf := (t.eng n.val).ef,
            inject := (t.eng n.val).inject ++ msgs, kept := (t.eng n.val).kept ++ msgs } })))

/-- The ends of sweeps and runs (R145, R150, R221, R236, R241, R283, R435, R436). A settle that is due marks the sweep as
settled, with its result, and counts it where it is complete; DEADLINE puts the deadline in force at its instant;
SPAN_REMAP leaves no block on a re-mapped span; EXCHANGE_TIMEOUT stops the run as QSTOP does, raises source 0 of FE, and
the part goes on alone, with end cause 4, sent on links that take it, unless it has another. No other run changes. A timed
row brings time to its instant (log entry 5). -/
def Obligations.SettlesAndStops : Prop :=
  ∀ (q : Fin 64) (s : State) (r : Run), s.running = true → s.run q.val = some r →
    let alone (u t : State) : Prop := ∀ k, k ≠ q.val → u.run k = t.run k
    (∀ p, s.problem q.val = some p → s.settleDue r = true →
      ∃ (u : State) (x : Run), exec (.settle q) s = .next u.carryOn ∧ u.run q.val = some x ∧ (r.sys = none → alone u s) ∧
        x.swept = true ∧ x.exchanged = false ∧ x.sweep = r.sweep ∧ x.sys.isSome = r.sys.isSome ∧
        x.sweepsDone = (if s.sweepDone r = true ∧ s.resultOf p r ≤ 1 then r.sweep + 1 else r.sweepsDone) ∧
        (r.sys = none → x.sweepResult = s.resultOf p r) ∧ (∀ y, x.sys = some y → y.stage = .settling)) ∧
    (r.begun = true → r.deadlineUs ≠ 0 → r.stops.deadline = false →
      let v := s.passTo (r.startTick + r.deadlineUs * 250)
      ∃ (u : State) (z : Run), exec (.deadline q) s = .next u.carryOn ∧ v.run q.val = some z ∧
        { z with ckptOpen := r.ckptOpen } = r ∧
        u.run q.val = some { z with stops := { z.stops with deadline := true } } ∧ alone u v ∧
        { u with runs := v.runs } = v ∧ r.startTick + r.deadlineUs * 250 ≤ v.now) ∧
    (∀ p, s.problem q.val = some p → s.remapReady r = true → (∀ f, f ∈ r.remap → s.spanFenced f.1 = true) →
      ∃ (u : State) (x : Run), exec (.spanRemap q) s = .next u.carryOn ∧ u.run q.val = some x ∧ (r.sys = none → alone u s) ∧
        x.remap = [] ∧
        ∀ b, b ∈ x.blocks → ∀ f, f ∈ r.remap → b.span ≠ f.1) ∧
    (∀ p y x, s.sysOf q.val = some (p, y, r, x) → x.waiting.isSome = true →
      let v := s.passTo (x.waitFrom + (if y.timeoutUs = 0 then 100000 else y.timeoutUs) * 250)
      let t := (v.stopRun q.val (fun z => { z with stop := true })).raise .fe 0 0
      (x.endCause = 0 → ∀ d, (t.link (t.exitFor d)).takes 224 = true) →
      ∃ u : State, exec (.exchangeTimeout q) s = .next u.carryOn ∧ alone u t ∧ { u with runs := t.runs, links := t.links } = t ∧
        ∀ z, t.run q.val = some z → u.run q.val = some { z with sys := z.sys.map (fun w =>
          { w with
            alone := true, waiting := none, endCause := if x.endCause = 0 then 4 else w.endCause,
            causeEpoch := if x.endCause = 0 then r.sweep * r.k else w.causeEpoch }) })

/-! ### Links -/

/-- Messages on the links (R225-R238, R247-R254). The flit next in order is accepted: the link counts on from it, takes what
its header acknowledges and the credits that it returns, and owes one credit for it. A flit for this module has the effect of
its message, unless it waits at the link stop for tables to be installed (R374) or for the end of a march test (R364); a flit for
another module goes on, with its ttl one lower and VC3 behind a dateline, or is dropped at ttl 1. -/
def Obligations.LinkMessages : Prop :=
  ∀ (l : Fin 4) (h : FlitHdr) (s : State), Arriving s l.val h → let x := s.link l.val
    let a := s.modLink l.val (fun y => (y.corrected h).accept h s.now)
    let gets (i : Instr) (t : State) : Prop := exec i s = .next (t.pumpLink l.val).carryOn
    let run := h.run.toNat
    let src := h.src.toNat
    let reply (t : State) (tag : BitVec 16) (status : Nat) (offset : Nat) (data : List Byte) : State :=
      t.sendCompletion h tag.toNat status offset data
    let way (stop : Nat) : Prop := s.wayHeld (linkRouter l.val) stop = false
    let free (o n : Nat) : Prop := s.accessHeld l.val h o n = false
    ((a.link l.val).rxNext = h.seq + 1 ∧ (a.link l.val).fecCorr = min 0xFFFFFFFF (x.fecCorr + h.fec) ∧ (a.link l.val).nak = false ∧
      (∀ v, Store.get 0 v (a.link l.val).credits = Store.get 0 v x.credits + if v = h.crVc.toNat then h.crCount.toNat else 0) ∧
      (∀ v, Store.get 0 v (a.link l.val).owed = Store.get 0 v x.owed + if v = h.vc.toNat then 1 else 0) ∧
      (∀ before f after, x.unacked = before ++ f :: after → f.hdr.seq = h.ack → (∀ g, g ∈ before → g.hdr.seq ≠ h.ack) →
        (a.link l.val).unacked = after) ∧
      ((∀ f, f ∈ x.unacked → f.hdr.seq ≠ h.ack) → (a.link l.val).unacked = x.unacked)) ∧
    (∀ (kind : BitVec 4) (aux : BitVec 8) (payload : List Byte), s.mine h = false → let i : Instr := .flitForward l h kind aux payload
      let e := s.exitFor h.dst.toNat
      (h.ttl.toNat ≤ 1 → gets i ((a.modLink l.val (fun y => { y with drops := min 0xFFFFFFFF (y.drops + 1) })).raise (.lnk l) 4 l.val)) ∧
      (1 < h.ttl.toNat → (s.link e).takes payload.length = true → gets i (a.queueFlit e
        { hdr := { h with
            ttl := h.ttl - 1, vc := if x.dateline then 3 else h.vc, nak := false, crVc := 0, crCount := 0, fec := 0 },
          kind := kind.toNat, aux := aux.toNat, payload := payload, resent := 0, since := 0, passed := 0, body := [], own := false })) ∧
      (1 < h.ttl.toNat → (s.link e).takes payload.length = false → gets i (a.dropFlit e))) ∧
    gets (.badKind l h) ((a.modLink l.val (fun y => { y with badKind := min 0xFFFFFFFF (y.badKind + 1) })).raise (.lnk l) 3 l.val) ∧
    (s.mine h = true →
      (∀ b, gets (.flipBatch l h b) (a.takeBatch l.val run src b)) ∧
      (∀ ef entries, (∀ e, e ∈ entries → way (spanRouter e.span.toNat)) → ∃ u : State, gets (.fieldInc l h ef entries) u ∧ { u with spans := a.spans } = a ∧
        ∀ n, let more := (entries.filter (fun e => e.span.toNat = n && (s.span n).bound.isSome && !s.spanFenced n)).map
                  (fun (e : FieldIncEntry) => (e.slot.toNat, Dy.mk e.inc.toInt (ef.toInt - 16)));
          u.span n = { a.span n with eng := { a.eng n with incs := (a.eng n).incs ++ more } }) ∧
      (∀ addr wide tag value, let w := if wide then 8 else 4
        free (BitVec.toNat addr) w →
        let bad := a.firstBad false (BitVec.toNat addr) w
        let sum : Int := signedOf (8 * w) (a.readNat addr.toNat w) + signedOf (8 * w) (BitVec.toNat value)
        let low : Int := -(2 ^ (8 * w - 1) : Nat)
        let high : Int := (2 ^ (8 * w - 1) : Nat) - 1
        (addr.toNat % w ≠ 0 ∨ bad.isSome = true →
          gets (.linkAtadd l h addr wide tag value) (reply (a.noteRequest false addr.toNat w) tag 1 0 [])) ∧
        (addr.toNat % w = 0 → bad = none → gets (.linkAtadd l h addr wide tag value)
          (reply (a.writeNat addr.toNat w (unsignedOf (8 * w) (max low (min high sum)) % 2 ^ (8 * w))) tag
            (if sum < low ∨ high < sum then 2 else 0) 0 []))) ∧
      (∀ addr length tag, let n := BitVec.toNat length
        free (BitVec.toNat addr) n →
        let max_ := if s.linkSys.encAny then 208 else 224
        gets (.dmaRd l h addr length tag) ((List.range ((n + (max_ - 1)) / max_)).foldl (fun t k =>
          let o := BitVec.toNat addr + max_ * k
          let len := min max_ (n - max_ * k)
          reply t tag (if (t.firstBad false o len).isSome then 1 else 0) (max_ * k) (t.readBytes o len))
          (a.noteRequest false addr.toNat n))) ∧
      (∀ addr tag answer data, free (BitVec.toNat addr) (List.length data) → let t := (a.writeBytes (BitVec.toNat addr) data).noteSettle addr.toNat data.length
        gets (.dmaWr l h addr tag answer data)
          (if answer then reply t tag (if (a.firstBad true addr.toNat data.length).isSome then 1 else 0) 0 [] else t)) ∧
      (∀ tag status offset data, gets (.completion l h tag status offset data) a) ∧
      (way feRouter → ∀ e add error value, gets (.eventSignal l h e add error value) (a.eventOp e.toNat add value error false)) ∧
      (way feRouter → ∀ c tag packet, let y := s.ctx (Fin.val c)
        let takes : Prop := x.fwdEn = true ∧ (y.state = .active ∨ y.state = .stopped)
        let full : Prop := 2 ^ y.useRingLog2 ≤ (y.tail - y.head).toNat
        (¬ takes → gets (.fwdCmd l h c tag packet) (reply a tag 3 0 [])) ∧
        (takes → full → gets (.fwdCmd l h c tag packet) (reply a tag 4 0 [])) ∧
        (takes → ¬ full → gets (.fwdCmd l h c tag packet)
          (reply ((a.writeBytes (y.slotAddr y.tail.toNat) (bytesAt packet 0 64)).doorbell c.val (y.tail + 1)) tag 0 0 []))) ∧
      (∀ m, gets (.epochMarker l h m) (a.takeMarker run src 0 m) ∧ gets (.sweepEndMarker l h m) (a.takeMarker run src 1 m) ∧
        gets (.readyMarker l h m) (a.takeMarker run src 2 m) ∧ gets (.runStartMarker l h m) (a.takeMarker run src 3 m) ∧
        gets (.startMarker l h m) (a.takeMarker run src 4 m) ∧ gets (.settleUpMarker l h m) (a.takeMarker run src 5 m) ∧
        gets (.settleDoneMarker l h m) (a.takeMarker run src 6 m) ∧ gets (.undoEndMarker l h m) (a.takeMarker run src 7 m)) ∧
      (∀ addr least tag entry, let o := BitVec.toNat addr
        free o 16 →
        let bad := a.firstBad false o 16
        (bad.isSome = true → gets (.minIndex l h addr least tag entry) (reply (a.noteRequest false o 16) tag 1 0 [])) ∧
        (bad = none → redBetter (if least then 2 else 1) (redOf (a.readBytes o 16)) (redOf (redEntryBytes entry)) =
            redOf (a.readBytes o 16) → gets (.minIndex l h addr least tag entry) (reply a tag 0 0 [])) ∧
        (bad = none → redBetter (if least then 2 else 1) (redOf (a.readBytes o 16)) (redOf (redEntryBytes entry)) ≠
            redOf (a.readBytes o 16) →
          gets (.minIndex l h addr least tag entry) (reply (a.writeBytes o (redEntryBytes entry)) tag 0 0 []))) ∧
      (∀ module widthCap enc, gets (.param l h module widthCap enc)
        (a.modLink l.val (fun y => { y with peer := module, peerValid := true }))) ∧
      (∀ slot count, gets (.keySwitch l h slot count)
        (a.modLink l.val (fun y => { y with rxSwitch := if y.rxEnc then some (slot.val, count.toNat) else y.rxSwitch }))) ∧
      (∀ cause, gets (.down l h cause) ((a.modLink l.val (fun y =>
        { y with state := 7, peerValid := false, paramRx := false, txEnc := false, rxEnc := false, downRx := cause.toNat % 8, trainTick := s.now })).exitLost l.val)) ∧
      (∀ code lanes, gets (.width l h code lanes) (a.retrainTo l.val (min 2 code.toNat))) ∧
      gets (.retrain l h) (a.retrainTo l.val x.width) ∧
      (∀ time, gets (.ping l h time) (a.sendNeighbour l.val 15 6 (leBytes 4 s.time.sub ++ leBytes 4 s.time.sec))) ∧
      (∀ time, gets (.pong l h time) a))

/-- The life of a link (R244, R250-R252, R254, R526, R528). A flit out of order, or a discarded one, makes the link ask
for a replay; four tag failures in a row take it down. A replay sends what is unacknowledged again, and a flit sent eight
times trains the link from ALIGN. Training fails at once without a cable (R501), and otherwise goes on state by state to ACTIVE, or is down after 2 s. Failed lanes narrow the
link, or take it down. `LNK_CTL` enables, disables and trains it. A timed row brings time to its instant (log entry 5).
That a row out of place changes nothing is the model's choice (log entry 6). -/
def Obligations.LinkLife : Prop :=
  ∀ (l : Fin 4) (s : State), let x := s.link l.val
    let fenced := s.fencedLanes l.val
    let becomes (i : Instr) (y : Link) : Prop := ∃ u : State, exec i s = .next u ∧ LinkOnly s u l.val y
    let resent : Link := { x.unacked.foldl (fun (y : Link) f => y.toLine f.bytes) x with
      unacked := x.unacked.map (fun f => { f with resent := f.resent + 1 }) }
    let counted : Nat := min 0xFFFFFFFF (x.replays + x.unacked.length)
    (s.running = true → x.state = 6 →
      (∀ (h : FlitHdr) time, h.seq ≠ x.rxNext → s.transitHeld l.val h = false →
        becomes (.pong l h time) { x.corrected h with nak := true }) ∧
      (∀ (h : FlitHdr) (tagFail uncorrectable : Bool),
        let fails := if tagFail = true ∧ x.rxEnc = true ∧ h.seq = x.rxNext then x.tagFails + 1 else x.tagFails
        let y : Link := { (if uncorrectable then x else x.corrected h) with
          nak := true, tagFails := fails, fecUncorr := if uncorrectable then min 0xFFFFFFFF (x.fecUncorr + 1) else x.fecUncorr }
        (fails < 4 ∨ 4 ≤ x.tagFails → becomes (.flitDiscard l h tagFail uncorrectable) y) ∧
        (fails = 4 → x.tagFails = 3 → exec (.flitDiscard l h tagFail uncorrectable) s =
          .next (((s.modLink l.val (fun _ => y)).takeDown l.val 3 7 false).raise (.lnk l) 6 l.val).carryOn)) ∧
      (∀ h : FlitHdr, exec (.idleFlit l h) s = .next ((s.modLink l.val (fun y => (y.corrected h).takeHdr h s.now)).pumpLink l.val)) ∧
      (x.unacked ≠ [] → (∀ f, f ∈ x.unacked → f.resent < 8) →
        let v := if x.nakRx then s else s.passTo (x.ackTick + 500)
        exec (.replayTimeout l) s = .next ((v.modLink l.val (fun _ => { resent with
          nakRx := false, ackTick := v.now, replays := counted })).pumpLink l.val)) ∧
      ((∃ f, f ∈ x.unacked ∧ 8 ≤ f.resent) → exec (.replayLimit l) s =
        .next ((s.modLink l.val (fun _ => { x with
          state := 3, peerValid := false, paramRx := false, trainTick := s.now,
          unacked := x.unacked.map (fun f => { f with resent := 0 }) })).raise (.lnk l) 2 l.val).carryOn)) ∧
    (s.running = true → s.mayTrain l.val = true →
      let encrypts : Bool := s.sec.cfg.linkEnc.getLsbD l.val && s.hasKey l.val false x.txSlot && !s.sec.selfTestFail
      (∀ h module widthCap enc, x.state = 5 → becomes (.param l h module widthCap enc)
        { x.corrected h with peer := module, peerValid := true, paramRx := true, width := max x.width (min 2 (BitVec.toNat widthCap)), rxEnc := enc }) ∧
      (x.state = 1 → becomes (.linkTrainingAdvance ⟨l, true⟩) { x with cable := true, state := 2 }) ∧
      (x.state = 1 → exec (.linkTrainingAdvance ⟨l, false⟩) s = .next ((s.modLink l.val (fun _ => { x with
        cable := false, state := 7, paramRx := false, txEnc := false, rxEnc := false })).raise (.lnk l) 1 l.val).carryOn) ∧
      (2 ≤ x.state → x.state < 4 → ∀ c, becomes (.linkTrainingAdvance ⟨l, c⟩) { x with state := x.state + 1 }) ∧
      (x.state = 4 → ∀ c, becomes (.linkTrainingAdvance ⟨l, c⟩) { x with
        state := 5,
        paramTx := leBytes 2 s.linkSys.moduleId.toNat ++ leBytes 1 x.width ++ leBytes 1 (boolNat encrypts) }) ∧
      (x.state = 5 → x.paramRx = false → ∀ c, exec (.linkTrainingAdvance ⟨l, c⟩) s = .next s) ∧
      (x.state = 5 → x.paramRx = true → ∀ c, exec (.linkTrainingAdvance ⟨l, c⟩) s = .next ((s.modLink l.val (fun _ => { resent with
        state := 6, txEnc := encrypts, nak := false, nakRx := false, owed := [],
        credits := (List.range 4).map (fun v => (v, vcCredits v)),
        ackTick := if x.unacked = [] then x.ackTick else s.now,
        replays := if x.unacked = [] then x.replays else counted })).pumpLink l.val)) ∧
      (x.state = 7 → ∀ w, widestWidth fenced = some w → let v := s.passTo (x.trainTick + 500000000)
        ∃ u : State, exec (.linkTrainingTimeout l) s = .next u ∧ LinkOnly v u l.val
          { x with state := 1, paramRx := false, trainTick := v.now, failed := fenced, width := w }) ∧
      (x.state = 7 → widestWidth fenced = none → exec (.linkTrainingTimeout l) s = .next s) ∧
      (∀ lanes : BitVec 8, lanes ≠ 0 → 1 ≤ x.state → x.state ≤ 6 → let failed := x.failed ||| lanes
        let y := s.modLink l.val (fun y => { y with failed := failed })
        (∀ w, widestWidth failed = some w → exec (.laneFailure l lanes) s =
          .next ((((y.sendNeighbour l.val 15 3 (leBytes 1 (max w x.width) ++ leBytes 1 (~~~failed).toNat)).retrainTo l.val
            (max w x.width)).raise (.lnk l) 0 lanes.toNat).carryOn)) ∧
        (widestWidth failed = none → exec (.laneFailure l lanes) s =
          .next ((((y.takeDown l.val 2 7 false).raise (.lnk l) 1 l.val).raise (.lnk l) 0 lanes.toNat).carryOn)))) ∧
    (s.running = true → 1 ≤ x.state → x.state ≤ 5 → let v := s.passTo (x.trainTick + 500000000)
      exec (.linkTrainingTimeout l) s = .next ((v.modLink l.val (fun _ => { x with
        state := 7, paramRx := false, txEnc := false, rxEnc := false })).raise (.lnk l) 1 l.val).carryOn) ∧
    (∀ fwdEn dateline : Bool, s.barOk = true →
      let goes (i : Instr) (y : Link) : Prop := ∃ u : State, exec i s = .next u.carryOn ∧ LinkOnly s u l.val y
      let y : Link := { x with fwdEn := fwdEn, dateline := dateline }
      let trained (z : Link) : Link :=
        { z with
          state := 1, peerValid := z.peerValid && decide (z.state ≠ 6), paramRx := false, trainTick := s.now, failed := fenced, width := (widestWidth fenced).getD x.width }
      (x.state ≠ 0 → goes (.linkEnable l fwdEn dateline) { y with enable := true }) ∧
      (x.state = 0 → s.linkFenced l.val = false → s.flt.state < 2 → s.cipherOk l.val = true →
        goes (.linkEnable l fwdEn dateline) (trained { y with enable := true })) ∧
      (x.state = 0 → s.linkFenced l.val = true ∨ 2 ≤ s.flt.state ∨ s.cipherOk l.val = false →
        goes (.linkEnable l fwdEn dateline) { y with enable := true, state := 7 }) ∧
      (x.state = 0 → goes (.linkDisable l fwdEn dateline) { y with enable := false }) ∧
      (x.state ≠ 0 → x.state ≠ 6 → goes (.linkDisable l fwdEn dateline)
        { y with enable := false, state := 0, paramRx := false, txEnc := false, rxEnc := false, trainTick := s.now }) ∧
      (x.state = 6 → exec (.linkDisable l fwdEn dateline) s =
        .next (((s.modLink l.val (fun _ => { y with enable := false })).takeDown l.val 0 0 false).carryOn)) ∧
      (x.state ≠ 0 → s.mayTrain l.val = true → goes (.linkRetrain l) (trained x)) ∧
      (x.state ≠ 0 → x.enable = true → s.mayTrain l.val = false → goes (.linkRetrain l) x) ∧
      (x.state = 0 ∧ x.enable = true → exec (.linkRetrain l) s = exec (.linkEnable l x.fwdEn x.dateline) s) ∧
      (x.enable = false → exec (.linkRetrain l) s = exec (.linkDisable l x.fwdEn x.dateline) s))
end

