-- ==== Sys2Proof/Laws/Store.lean ====
section
/-! SUPPORT. Laws of sparse arrays: reading after writing, the canonical form, and that every operation keeps it.
-/

namespace Sys2Proof

section
variable {α : Type}

/-- Every listed index lies above `k`. -/
def Store.above (k : Nat) (m : Store α) : Prop := ∀ p ∈ m, k < p.1

/-- The listed indexes rise strictly. -/
def Store.rising : Store α → Prop
  | [] => True
  | p :: rest => Store.above p.1 rest ∧ Store.rising rest

theorem Store.get_of_above {d : α} {k : Nat} {m : Store α} (h : Store.above k m) : Store.get d k m = d := by
  induction m with
  | nil => rfl
  | cons p rest ih =>
    have hp : k < p.1 := h p (by simp)
    have hne : p.1 ≠ k := by omega
    obtain ⟨j, v⟩ := p
    simp only [Store.get, if_neg hne]
    exact ih (fun q hq => h q (by simp [hq]))

theorem Store.above_insert {j k : Nat} {v : α} {m : Store α} (hj : j < k) (h : Store.above j m) :
    Store.above j (Store.insert k v m) := by
  induction m with
  | nil => intro p hp; simp [Store.insert] at hp; subst hp; exact hj
  | cons q rest ih =>
    obtain ⟨i, w⟩ := q
    have hq : j < i := h (i, w) (by simp)
    have hr : Store.above j rest := fun p hp => h p (by simp [hp])
    simp only [Store.insert]
    split
    · intro p hp
      rcases List.mem_cons.mp hp with rfl | hp
      · exact hq
      · exact ih hr p hp
    · split
      · intro p hp
        rcases List.mem_cons.mp hp with rfl | hp
        · exact hj
        · exact hr p hp
      · intro p hp
        rcases List.mem_cons.mp hp with rfl | hp
        · exact hj
        · exact h p hp

theorem Store.rising_insert {k : Nat} {v : α} {m : Store α} (h : Store.rising m) :
    Store.rising (Store.insert k v m) := by
  induction m with
  | nil => exact ⟨fun _ hp => by simp at hp, trivial⟩
  | cons q rest ih =>
    obtain ⟨i, w⟩ := q
    obtain ⟨ha, hr⟩ := h
    simp only [Store.insert]
    split
    · rename_i hik
      exact ⟨Store.above_insert hik ha, ih hr⟩
    · rename_i hik
      split
      · rename_i he; exact ⟨fun p hp => he ▸ ha p hp, hr⟩
      · rename_i hne
        refine ⟨fun p hp => ?_, ha, hr⟩
        have hki : k < i := by omega
        rcases List.mem_cons.mp hp with rfl | hp
        · exact hki
        · exact Nat.lt_trans hki (ha p hp)

theorem Store.mem_erase {k : Nat} {m : Store α} {p : Nat × α} (h : p ∈ Store.erase k m) : p ∈ m := by
  induction m with
  | nil => exact h
  | cons q rest ih =>
    obtain ⟨i, w⟩ := q
    simp only [Store.erase] at h
    split at h
    · exact List.mem_cons_of_mem _ (ih h)
    · rcases List.mem_cons.mp h with rfl | h
      · exact List.mem_cons_self
      · exact List.mem_cons_of_mem _ (ih h)

theorem Store.rising_erase {k : Nat} {m : Store α} (h : Store.rising m) : Store.rising (Store.erase k m) := by
  induction m with
  | nil => trivial
  | cons q rest ih =>
    obtain ⟨i, w⟩ := q
    obtain ⟨ha, hr⟩ := h
    simp only [Store.erase]
    split
    · exact ih hr
    · exact ⟨fun p hp => ha p (Store.mem_erase hp), ih hr⟩

theorem Store.mem_insert {k : Nat} {v : α} {m : Store α} {p : Nat × α} (h : p ∈ Store.insert k v m) :
    p = (k, v) ∨ p ∈ m := by
  induction m with
  | nil => simpa [Store.insert] using h
  | cons q rest ih =>
    obtain ⟨i, w⟩ := q
    simp only [Store.insert] at h
    split at h
    · rcases List.mem_cons.mp h with rfl | h
      · exact .inr List.mem_cons_self
      · exact (ih h).imp_right (List.mem_cons_of_mem _)
    · split at h
      · rcases List.mem_cons.mp h with rfl | h
        · exact .inl rfl
        · exact .inr (List.mem_cons_of_mem _ h)
      · rcases List.mem_cons.mp h with rfl | h
        · exact .inl rfl
        · exact .inr h

variable [DecidableEq α]

/-- The canonical form says that indexes rise and that no default is listed. -/
theorem Store.wf_iff {d : α} {m : Store α} : Store.wf d m = true ↔ Store.rising m ∧ ∀ p ∈ m, p.2 ≠ d := by
  induction m with
  | nil => simp [Store.wf, Store.rising]
  | cons p rest ih =>
    obtain ⟨j, v⟩ := p
    cases rest with
    | nil => simp [Store.wf, Store.rising, Store.above]
    | cons q rest =>
      obtain ⟨k, w⟩ := q
      simp only [Store.wf, Bool.and_eq_true, decide_eq_true_eq, ih, Store.rising]
      constructor
      · rintro ⟨⟨hv, hjk⟩, ⟨ha, hr⟩, hd⟩
        refine ⟨⟨fun p hp => ?_, ha, hr⟩, fun p hp => ?_⟩
        · rcases List.mem_cons.mp hp with rfl | hp
          · exact hjk
          · exact Nat.lt_trans hjk (ha p hp)
        · rcases List.mem_cons.mp hp with rfl | hp
          · exact hv
          · exact hd p hp
      · rintro ⟨⟨hb, ha, hr⟩, hd⟩
        exact ⟨⟨hd (j, v) (by simp), hb (k, w) (by simp)⟩, ⟨ha, hr⟩, fun p hp => hd p (by simp [hp])⟩

/-- Writing one index keeps the canonical form. -/
theorem Store.put_wf {d v : α} {k : Nat} {m : Store α} (h : Store.wf d m = true) :
    Store.wf d (Store.put d k v m) = true := by
  obtain ⟨hr, hd⟩ := Store.wf_iff.mp h
  unfold Store.put
  split
  · exact Store.wf_iff.mpr ⟨Store.rising_erase hr, fun p hp => hd p (Store.mem_erase hp)⟩
  · rename_i hv
    refine Store.wf_iff.mpr ⟨Store.rising_insert hr, fun p hp => ?_⟩
    rcases Store.mem_insert hp with rfl | hp
    · exact hv
    · exact hd p hp

/-- Dropping entries keeps the canonical form. -/
theorem Store.filter_wf {d : α} {m : Store α} (f : Nat × α → Bool) (h : Store.wf d m = true) :
    Store.wf d (m.filter f) = true := by
  obtain ⟨hr, hd⟩ := Store.wf_iff.mp h
  refine Store.wf_iff.mpr ⟨?_, fun p hp => hd p (List.mem_filter.mp hp).1⟩
  clear h hd
  induction m with
  | nil => trivial
  | cons q rest ih =>
    obtain ⟨ha, hr⟩ := hr
    rw [List.filter_cons]
    split
    · exact ⟨fun p hp => ha p (List.mem_filter.mp hp).1, ih hr⟩
    · exact ih hr

omit [DecidableEq α] in
theorem Store.get_insert_self {d v : α} {k : Nat} {m : Store α} : Store.get d k (Store.insert k v m) = v := by
  induction m with
  | nil => simp [Store.insert, Store.get]
  | cons q rest ih =>
    obtain ⟨i, w⟩ := q
    simp only [Store.insert]
    split
    · rename_i h
      have : i ≠ k := by omega
      simp [Store.get, this, ih]
    · split <;> simp [Store.get]

omit [DecidableEq α] in
theorem Store.get_insert_ne {d v : α} {j k : Nat} {m : Store α} (h : j ≠ k) :
    Store.get d j (Store.insert k v m) = Store.get d j m := by
  induction m with
  | nil => simp [Store.insert, Store.get, Ne.symm h]
  | cons q rest ih =>
    obtain ⟨i, w⟩ := q
    simp only [Store.insert]
    split
    · simp only [Store.get, ih]
    · split
      · rename_i he; subst he; simp [Store.get, Ne.symm h]
      · simp [Store.get, Ne.symm h]

omit [DecidableEq α] in
theorem Store.get_erase_ne {d : α} {j k : Nat} {m : Store α} (h : j ≠ k) :
    Store.get d j (Store.erase k m) = Store.get d j m := by
  induction m with
  | nil => rfl
  | cons q rest ih =>
    obtain ⟨i, w⟩ := q
    simp only [Store.erase]
    split
    · rename_i he; subst he; simp [Store.get, Ne.symm h, ih]
    · simp only [Store.get, ih]

omit [DecidableEq α] in
theorem Store.get_erase_self {d : α} {k : Nat} {m : Store α} : Store.get d k (Store.erase k m) = d := by
  induction m with
  | nil => rfl
  | cons q rest ih =>
    obtain ⟨i, w⟩ := q
    simp only [Store.erase]
    split
    · exact ih
    · rename_i h; simp [Store.get, h, ih]

/-- Reading the index that was written gives the value written. -/
@[simp] theorem Store.get_put_self {d v : α} {k : Nat} {m : Store α} : Store.get d k (Store.put d k v m) = v := by
  unfold Store.put
  split
  · rename_i h; rw [Store.get_erase_self, h]
  · exact Store.get_insert_self

/-- Writing one index leaves every other index alone. -/
theorem Store.get_put_ne {d v : α} {j k : Nat} {m : Store α} (h : j ≠ k) :
    Store.get d j (Store.put d k v m) = Store.get d j m := by
  unfold Store.put
  split
  · exact Store.get_erase_ne h
  · exact Store.get_insert_ne h

/-- Reading after one write. -/
theorem Store.get_put {d v : α} {j k : Nat} {m : Store α} :
    Store.get d j (Store.put d k v m) = if j = k then v else Store.get d j m := by
  split
  · rename_i h; subst h; exact Store.get_put_self
  · rename_i h; exact Store.get_put_ne h

end

end Sys2Proof
end

