-- ==== Sys2Proof/Laws/State.lean ====
section
/-! SUPPORT. What each named update of the state leaves alone, field by field, and what it changes, read through the
accessors: no later proof unfolds a record update.
-/

namespace Sys2Proof.Machine

variable (s : State)

/-! ### setSpan -/

@[simp] theorem State.setSpan_pending (n : Nat) (x : Span) : (s.setSpan n x).pending = s.pending := rfl
@[simp] theorem State.setSpan_pwr (n : Nat) (x : Span) : (s.setSpan n x).pwr = s.pwr := rfl
@[simp] theorem State.setSpan_boot (n : Nat) (x : Span) : (s.setSpan n x).boot = s.boot := rfl
@[simp] theorem State.setSpan_time (n : Nat) (x : Span) : (s.setSpan n x).time = s.time := rfl
@[simp] theorem State.setSpan_pcie (n : Nat) (x : Span) : (s.setSpan n x).pcie = s.pcie := rfl
@[simp] theorem State.setSpan_bus (n : Nat) (x : Span) : (s.setSpan n x).bus = s.bus := rfl
@[simp] theorem State.setSpan_mon (n : Nat) (x : Span) : (s.setSpan n x).mon = s.mon := rfl
@[simp] theorem State.setSpan_flt (n : Nat) (x : Span) : (s.setSpan n x).flt = s.flt := rfl
@[simp] theorem State.setSpan_blocks (n : Nat) (x : Span) : (s.setSpan n x).blocks = s.blocks := rfl
@[simp] theorem State.setSpan_sec (n : Nat) (x : Span) : (s.setSpan n x).sec = s.sec := rfl
@[simp] theorem State.setSpan_mbx (n : Nat) (x : Span) : (s.setSpan n x).mbx = s.mbx := rfl
@[simp] theorem State.setSpan_mesh (n : Nat) (x : Span) : (s.setSpan n x).mesh = s.mesh := rfl
@[simp] theorem State.setSpan_mems (n : Nat) (x : Span) : (s.setSpan n x).mems = s.mems := rfl
@[simp] theorem State.setSpan_cxls (n : Nat) (x : Span) : (s.setSpan n x).cxls = s.cxls := rfl
@[simp] theorem State.setSpan_links (n : Nat) (x : Span) : (s.setSpan n x).links = s.links := rfl
@[simp] theorem State.setSpan_linkSys (n : Nat) (x : Span) : (s.setSpan n x).linkSys = s.linkSys := rfl
@[simp] theorem State.setSpan_ctxs (n : Nat) (x : Span) : (s.setSpan n x).ctxs = s.ctxs := rfl
@[simp] theorem State.setSpan_events (n : Nat) (x : Span) : (s.setSpan n x).events = s.events := rfl
@[simp] theorem State.setSpan_fe (n : Nat) (x : Span) : (s.setSpan n x).fe = s.fe := rfl
@[simp] theorem State.setSpan_problems (n : Nat) (x : Span) : (s.setSpan n x).problems = s.problems := rfl
@[simp] theorem State.setSpan_runs (n : Nat) (x : Span) : (s.setSpan n x).runs = s.runs := rfl
@[simp] theorem State.setSpan_early (n : Nat) (x : Span) : (s.setSpan n x).early = s.early := rfl
@[simp] theorem State.setSpan_ckpts (n : Nat) (x : Span) : (s.setSpan n x).ckpts = s.ckpts := rfl
@[simp] theorem State.setSpan_mem (n : Nat) (x : Span) : (s.setSpan n x).mem = s.mem := rfl
@[simp] theorem State.setSpan_poison (n : Nat) (x : Span) : (s.setSpan n x).poison = s.poison := rfl
@[simp] theorem State.setSpan_free (n : Nat) (x : Span) : (s.setSpan n x).free = s.free := rfl

/-! ### modSpan -/

@[simp] theorem State.modSpan_pending (n : Nat) (f : Span → Span) : (s.modSpan n f).pending = s.pending := rfl
@[simp] theorem State.modSpan_pwr (n : Nat) (f : Span → Span) : (s.modSpan n f).pwr = s.pwr := rfl
@[simp] theorem State.modSpan_boot (n : Nat) (f : Span → Span) : (s.modSpan n f).boot = s.boot := rfl
@[simp] theorem State.modSpan_time (n : Nat) (f : Span → Span) : (s.modSpan n f).time = s.time := rfl
@[simp] theorem State.modSpan_pcie (n : Nat) (f : Span → Span) : (s.modSpan n f).pcie = s.pcie := rfl
@[simp] theorem State.modSpan_bus (n : Nat) (f : Span → Span) : (s.modSpan n f).bus = s.bus := rfl
@[simp] theorem State.modSpan_mon (n : Nat) (f : Span → Span) : (s.modSpan n f).mon = s.mon := rfl
@[simp] theorem State.modSpan_flt (n : Nat) (f : Span → Span) : (s.modSpan n f).flt = s.flt := rfl
@[simp] theorem State.modSpan_blocks (n : Nat) (f : Span → Span) : (s.modSpan n f).blocks = s.blocks := rfl
@[simp] theorem State.modSpan_sec (n : Nat) (f : Span → Span) : (s.modSpan n f).sec = s.sec := rfl
@[simp] theorem State.modSpan_mbx (n : Nat) (f : Span → Span) : (s.modSpan n f).mbx = s.mbx := rfl
@[simp] theorem State.modSpan_mesh (n : Nat) (f : Span → Span) : (s.modSpan n f).mesh = s.mesh := rfl
@[simp] theorem State.modSpan_mems (n : Nat) (f : Span → Span) : (s.modSpan n f).mems = s.mems := rfl
@[simp] theorem State.modSpan_cxls (n : Nat) (f : Span → Span) : (s.modSpan n f).cxls = s.cxls := rfl
@[simp] theorem State.modSpan_links (n : Nat) (f : Span → Span) : (s.modSpan n f).links = s.links := rfl
@[simp] theorem State.modSpan_linkSys (n : Nat) (f : Span → Span) : (s.modSpan n f).linkSys = s.linkSys := rfl
@[simp] theorem State.modSpan_ctxs (n : Nat) (f : Span → Span) : (s.modSpan n f).ctxs = s.ctxs := rfl
@[simp] theorem State.modSpan_events (n : Nat) (f : Span → Span) : (s.modSpan n f).events = s.events := rfl
@[simp] theorem State.modSpan_fe (n : Nat) (f : Span → Span) : (s.modSpan n f).fe = s.fe := rfl
@[simp] theorem State.modSpan_problems (n : Nat) (f : Span → Span) : (s.modSpan n f).problems = s.problems := rfl
@[simp] theorem State.modSpan_runs (n : Nat) (f : Span → Span) : (s.modSpan n f).runs = s.runs := rfl
@[simp] theorem State.modSpan_early (n : Nat) (f : Span → Span) : (s.modSpan n f).early = s.early := rfl
@[simp] theorem State.modSpan_ckpts (n : Nat) (f : Span → Span) : (s.modSpan n f).ckpts = s.ckpts := rfl
@[simp] theorem State.modSpan_mem (n : Nat) (f : Span → Span) : (s.modSpan n f).mem = s.mem := rfl
@[simp] theorem State.modSpan_poison (n : Nat) (f : Span → Span) : (s.modSpan n f).poison = s.poison := rfl
@[simp] theorem State.modSpan_free (n : Nat) (f : Span → Span) : (s.modSpan n f).free = s.free := rfl

/-! ### modPier -/

@[simp] theorem State.modPier_pending (n : Nat) (f : Pier → Pier) : (s.modPier n f).pending = s.pending := rfl
@[simp] theorem State.modPier_pwr (n : Nat) (f : Pier → Pier) : (s.modPier n f).pwr = s.pwr := rfl
@[simp] theorem State.modPier_boot (n : Nat) (f : Pier → Pier) : (s.modPier n f).boot = s.boot := rfl
@[simp] theorem State.modPier_time (n : Nat) (f : Pier → Pier) : (s.modPier n f).time = s.time := rfl
@[simp] theorem State.modPier_pcie (n : Nat) (f : Pier → Pier) : (s.modPier n f).pcie = s.pcie := rfl
@[simp] theorem State.modPier_bus (n : Nat) (f : Pier → Pier) : (s.modPier n f).bus = s.bus := rfl
@[simp] theorem State.modPier_mon (n : Nat) (f : Pier → Pier) : (s.modPier n f).mon = s.mon := rfl
@[simp] theorem State.modPier_flt (n : Nat) (f : Pier → Pier) : (s.modPier n f).flt = s.flt := rfl
@[simp] theorem State.modPier_blocks (n : Nat) (f : Pier → Pier) : (s.modPier n f).blocks = s.blocks := rfl
@[simp] theorem State.modPier_sec (n : Nat) (f : Pier → Pier) : (s.modPier n f).sec = s.sec := rfl
@[simp] theorem State.modPier_mbx (n : Nat) (f : Pier → Pier) : (s.modPier n f).mbx = s.mbx := rfl
@[simp] theorem State.modPier_mesh (n : Nat) (f : Pier → Pier) : (s.modPier n f).mesh = s.mesh := rfl
@[simp] theorem State.modPier_mems (n : Nat) (f : Pier → Pier) : (s.modPier n f).mems = s.mems := rfl
@[simp] theorem State.modPier_cxls (n : Nat) (f : Pier → Pier) : (s.modPier n f).cxls = s.cxls := rfl
@[simp] theorem State.modPier_links (n : Nat) (f : Pier → Pier) : (s.modPier n f).links = s.links := rfl
@[simp] theorem State.modPier_linkSys (n : Nat) (f : Pier → Pier) : (s.modPier n f).linkSys = s.linkSys := rfl
@[simp] theorem State.modPier_ctxs (n : Nat) (f : Pier → Pier) : (s.modPier n f).ctxs = s.ctxs := rfl
@[simp] theorem State.modPier_events (n : Nat) (f : Pier → Pier) : (s.modPier n f).events = s.events := rfl
@[simp] theorem State.modPier_fe (n : Nat) (f : Pier → Pier) : (s.modPier n f).fe = s.fe := rfl
@[simp] theorem State.modPier_problems (n : Nat) (f : Pier → Pier) : (s.modPier n f).problems = s.problems := rfl
@[simp] theorem State.modPier_runs (n : Nat) (f : Pier → Pier) : (s.modPier n f).runs = s.runs := rfl
@[simp] theorem State.modPier_early (n : Nat) (f : Pier → Pier) : (s.modPier n f).early = s.early := rfl
@[simp] theorem State.modPier_ckpts (n : Nat) (f : Pier → Pier) : (s.modPier n f).ckpts = s.ckpts := rfl
@[simp] theorem State.modPier_mem (n : Nat) (f : Pier → Pier) : (s.modPier n f).mem = s.mem := rfl
@[simp] theorem State.modPier_poison (n : Nat) (f : Pier → Pier) : (s.modPier n f).poison = s.poison := rfl
@[simp] theorem State.modPier_free (n : Nat) (f : Pier → Pier) : (s.modPier n f).free = s.free := rfl

/-! ### modEng -/

@[simp] theorem State.modEng_pending (n : Nat) (f : Engine → Engine) : (s.modEng n f).pending = s.pending := rfl
@[simp] theorem State.modEng_pwr (n : Nat) (f : Engine → Engine) : (s.modEng n f).pwr = s.pwr := rfl
@[simp] theorem State.modEng_boot (n : Nat) (f : Engine → Engine) : (s.modEng n f).boot = s.boot := rfl
@[simp] theorem State.modEng_time (n : Nat) (f : Engine → Engine) : (s.modEng n f).time = s.time := rfl
@[simp] theorem State.modEng_pcie (n : Nat) (f : Engine → Engine) : (s.modEng n f).pcie = s.pcie := rfl
@[simp] theorem State.modEng_bus (n : Nat) (f : Engine → Engine) : (s.modEng n f).bus = s.bus := rfl
@[simp] theorem State.modEng_mon (n : Nat) (f : Engine → Engine) : (s.modEng n f).mon = s.mon := rfl
@[simp] theorem State.modEng_flt (n : Nat) (f : Engine → Engine) : (s.modEng n f).flt = s.flt := rfl
@[simp] theorem State.modEng_blocks (n : Nat) (f : Engine → Engine) : (s.modEng n f).blocks = s.blocks := rfl
@[simp] theorem State.modEng_sec (n : Nat) (f : Engine → Engine) : (s.modEng n f).sec = s.sec := rfl
@[simp] theorem State.modEng_mbx (n : Nat) (f : Engine → Engine) : (s.modEng n f).mbx = s.mbx := rfl
@[simp] theorem State.modEng_mesh (n : Nat) (f : Engine → Engine) : (s.modEng n f).mesh = s.mesh := rfl
@[simp] theorem State.modEng_mems (n : Nat) (f : Engine → Engine) : (s.modEng n f).mems = s.mems := rfl
@[simp] theorem State.modEng_cxls (n : Nat) (f : Engine → Engine) : (s.modEng n f).cxls = s.cxls := rfl
@[simp] theorem State.modEng_links (n : Nat) (f : Engine → Engine) : (s.modEng n f).links = s.links := rfl
@[simp] theorem State.modEng_linkSys (n : Nat) (f : Engine → Engine) : (s.modEng n f).linkSys = s.linkSys := rfl
@[simp] theorem State.modEng_ctxs (n : Nat) (f : Engine → Engine) : (s.modEng n f).ctxs = s.ctxs := rfl
@[simp] theorem State.modEng_events (n : Nat) (f : Engine → Engine) : (s.modEng n f).events = s.events := rfl
@[simp] theorem State.modEng_fe (n : Nat) (f : Engine → Engine) : (s.modEng n f).fe = s.fe := rfl
@[simp] theorem State.modEng_problems (n : Nat) (f : Engine → Engine) : (s.modEng n f).problems = s.problems := rfl
@[simp] theorem State.modEng_runs (n : Nat) (f : Engine → Engine) : (s.modEng n f).runs = s.runs := rfl
@[simp] theorem State.modEng_early (n : Nat) (f : Engine → Engine) : (s.modEng n f).early = s.early := rfl
@[simp] theorem State.modEng_ckpts (n : Nat) (f : Engine → Engine) : (s.modEng n f).ckpts = s.ckpts := rfl
@[simp] theorem State.modEng_mem (n : Nat) (f : Engine → Engine) : (s.modEng n f).mem = s.mem := rfl
@[simp] theorem State.modEng_poison (n : Nat) (f : Engine → Engine) : (s.modEng n f).poison = s.poison := rfl
@[simp] theorem State.modEng_free (n : Nat) (f : Engine → Engine) : (s.modEng n f).free = s.free := rfl

/-! ### setCtx -/

@[simp] theorem State.setCtx_pending (n : Nat) (x : Ctx) : (s.setCtx n x).pending = s.pending := rfl
@[simp] theorem State.setCtx_pwr (n : Nat) (x : Ctx) : (s.setCtx n x).pwr = s.pwr := rfl
@[simp] theorem State.setCtx_boot (n : Nat) (x : Ctx) : (s.setCtx n x).boot = s.boot := rfl
@[simp] theorem State.setCtx_time (n : Nat) (x : Ctx) : (s.setCtx n x).time = s.time := rfl
@[simp] theorem State.setCtx_pcie (n : Nat) (x : Ctx) : (s.setCtx n x).pcie = s.pcie := rfl
@[simp] theorem State.setCtx_bus (n : Nat) (x : Ctx) : (s.setCtx n x).bus = s.bus := rfl
@[simp] theorem State.setCtx_mon (n : Nat) (x : Ctx) : (s.setCtx n x).mon = s.mon := rfl
@[simp] theorem State.setCtx_flt (n : Nat) (x : Ctx) : (s.setCtx n x).flt = s.flt := rfl
@[simp] theorem State.setCtx_blocks (n : Nat) (x : Ctx) : (s.setCtx n x).blocks = s.blocks := rfl
@[simp] theorem State.setCtx_sec (n : Nat) (x : Ctx) : (s.setCtx n x).sec = s.sec := rfl
@[simp] theorem State.setCtx_mbx (n : Nat) (x : Ctx) : (s.setCtx n x).mbx = s.mbx := rfl
@[simp] theorem State.setCtx_mesh (n : Nat) (x : Ctx) : (s.setCtx n x).mesh = s.mesh := rfl
@[simp] theorem State.setCtx_mems (n : Nat) (x : Ctx) : (s.setCtx n x).mems = s.mems := rfl
@[simp] theorem State.setCtx_cxls (n : Nat) (x : Ctx) : (s.setCtx n x).cxls = s.cxls := rfl
@[simp] theorem State.setCtx_links (n : Nat) (x : Ctx) : (s.setCtx n x).links = s.links := rfl
@[simp] theorem State.setCtx_linkSys (n : Nat) (x : Ctx) : (s.setCtx n x).linkSys = s.linkSys := rfl
@[simp] theorem State.setCtx_spans (n : Nat) (x : Ctx) : (s.setCtx n x).spans = s.spans := rfl
@[simp] theorem State.setCtx_events (n : Nat) (x : Ctx) : (s.setCtx n x).events = s.events := rfl
@[simp] theorem State.setCtx_fe (n : Nat) (x : Ctx) : (s.setCtx n x).fe = s.fe := rfl
@[simp] theorem State.setCtx_problems (n : Nat) (x : Ctx) : (s.setCtx n x).problems = s.problems := rfl
@[simp] theorem State.setCtx_runs (n : Nat) (x : Ctx) : (s.setCtx n x).runs = s.runs := rfl
@[simp] theorem State.setCtx_early (n : Nat) (x : Ctx) : (s.setCtx n x).early = s.early := rfl
@[simp] theorem State.setCtx_ckpts (n : Nat) (x : Ctx) : (s.setCtx n x).ckpts = s.ckpts := rfl
@[simp] theorem State.setCtx_mem (n : Nat) (x : Ctx) : (s.setCtx n x).mem = s.mem := rfl
@[simp] theorem State.setCtx_poison (n : Nat) (x : Ctx) : (s.setCtx n x).poison = s.poison := rfl
@[simp] theorem State.setCtx_free (n : Nat) (x : Ctx) : (s.setCtx n x).free = s.free := rfl

/-! ### modCtx -/

@[simp] theorem State.modCtx_pending (n : Nat) (f : Ctx → Ctx) : (s.modCtx n f).pending = s.pending := rfl
@[simp] theorem State.modCtx_pwr (n : Nat) (f : Ctx → Ctx) : (s.modCtx n f).pwr = s.pwr := rfl
@[simp] theorem State.modCtx_boot (n : Nat) (f : Ctx → Ctx) : (s.modCtx n f).boot = s.boot := rfl
@[simp] theorem State.modCtx_time (n : Nat) (f : Ctx → Ctx) : (s.modCtx n f).time = s.time := rfl
@[simp] theorem State.modCtx_pcie (n : Nat) (f : Ctx → Ctx) : (s.modCtx n f).pcie = s.pcie := rfl
@[simp] theorem State.modCtx_bus (n : Nat) (f : Ctx → Ctx) : (s.modCtx n f).bus = s.bus := rfl
@[simp] theorem State.modCtx_mon (n : Nat) (f : Ctx → Ctx) : (s.modCtx n f).mon = s.mon := rfl
@[simp] theorem State.modCtx_flt (n : Nat) (f : Ctx → Ctx) : (s.modCtx n f).flt = s.flt := rfl
@[simp] theorem State.modCtx_blocks (n : Nat) (f : Ctx → Ctx) : (s.modCtx n f).blocks = s.blocks := rfl
@[simp] theorem State.modCtx_sec (n : Nat) (f : Ctx → Ctx) : (s.modCtx n f).sec = s.sec := rfl
@[simp] theorem State.modCtx_mbx (n : Nat) (f : Ctx → Ctx) : (s.modCtx n f).mbx = s.mbx := rfl
@[simp] theorem State.modCtx_mesh (n : Nat) (f : Ctx → Ctx) : (s.modCtx n f).mesh = s.mesh := rfl
@[simp] theorem State.modCtx_mems (n : Nat) (f : Ctx → Ctx) : (s.modCtx n f).mems = s.mems := rfl
@[simp] theorem State.modCtx_cxls (n : Nat) (f : Ctx → Ctx) : (s.modCtx n f).cxls = s.cxls := rfl
@[simp] theorem State.modCtx_links (n : Nat) (f : Ctx → Ctx) : (s.modCtx n f).links = s.links := rfl
@[simp] theorem State.modCtx_linkSys (n : Nat) (f : Ctx → Ctx) : (s.modCtx n f).linkSys = s.linkSys := rfl
@[simp] theorem State.modCtx_spans (n : Nat) (f : Ctx → Ctx) : (s.modCtx n f).spans = s.spans := rfl
@[simp] theorem State.modCtx_events (n : Nat) (f : Ctx → Ctx) : (s.modCtx n f).events = s.events := rfl
@[simp] theorem State.modCtx_fe (n : Nat) (f : Ctx → Ctx) : (s.modCtx n f).fe = s.fe := rfl
@[simp] theorem State.modCtx_problems (n : Nat) (f : Ctx → Ctx) : (s.modCtx n f).problems = s.problems := rfl
@[simp] theorem State.modCtx_runs (n : Nat) (f : Ctx → Ctx) : (s.modCtx n f).runs = s.runs := rfl
@[simp] theorem State.modCtx_early (n : Nat) (f : Ctx → Ctx) : (s.modCtx n f).early = s.early := rfl
@[simp] theorem State.modCtx_ckpts (n : Nat) (f : Ctx → Ctx) : (s.modCtx n f).ckpts = s.ckpts := rfl
@[simp] theorem State.modCtx_mem (n : Nat) (f : Ctx → Ctx) : (s.modCtx n f).mem = s.mem := rfl
@[simp] theorem State.modCtx_poison (n : Nat) (f : Ctx → Ctx) : (s.modCtx n f).poison = s.poison := rfl
@[simp] theorem State.modCtx_free (n : Nat) (f : Ctx → Ctx) : (s.modCtx n f).free = s.free := rfl

/-! ### setEvent -/

@[simp] theorem State.setEvent_pending (n : Nat) (x : Event) : (s.setEvent n x).pending = s.pending := rfl
@[simp] theorem State.setEvent_pwr (n : Nat) (x : Event) : (s.setEvent n x).pwr = s.pwr := rfl
@[simp] theorem State.setEvent_boot (n : Nat) (x : Event) : (s.setEvent n x).boot = s.boot := rfl
@[simp] theorem State.setEvent_time (n : Nat) (x : Event) : (s.setEvent n x).time = s.time := rfl
@[simp] theorem State.setEvent_pcie (n : Nat) (x : Event) : (s.setEvent n x).pcie = s.pcie := rfl
@[simp] theorem State.setEvent_bus (n : Nat) (x : Event) : (s.setEvent n x).bus = s.bus := rfl
@[simp] theorem State.setEvent_mon (n : Nat) (x : Event) : (s.setEvent n x).mon = s.mon := rfl
@[simp] theorem State.setEvent_flt (n : Nat) (x : Event) : (s.setEvent n x).flt = s.flt := rfl
@[simp] theorem State.setEvent_blocks (n : Nat) (x : Event) : (s.setEvent n x).blocks = s.blocks := rfl
@[simp] theorem State.setEvent_sec (n : Nat) (x : Event) : (s.setEvent n x).sec = s.sec := rfl
@[simp] theorem State.setEvent_mbx (n : Nat) (x : Event) : (s.setEvent n x).mbx = s.mbx := rfl
@[simp] theorem State.setEvent_mesh (n : Nat) (x : Event) : (s.setEvent n x).mesh = s.mesh := rfl
@[simp] theorem State.setEvent_mems (n : Nat) (x : Event) : (s.setEvent n x).mems = s.mems := rfl
@[simp] theorem State.setEvent_cxls (n : Nat) (x : Event) : (s.setEvent n x).cxls = s.cxls := rfl
@[simp] theorem State.setEvent_links (n : Nat) (x : Event) : (s.setEvent n x).links = s.links := rfl
@[simp] theorem State.setEvent_linkSys (n : Nat) (x : Event) : (s.setEvent n x).linkSys = s.linkSys := rfl
@[simp] theorem State.setEvent_spans (n : Nat) (x : Event) : (s.setEvent n x).spans = s.spans := rfl
@[simp] theorem State.setEvent_ctxs (n : Nat) (x : Event) : (s.setEvent n x).ctxs = s.ctxs := rfl
@[simp] theorem State.setEvent_fe (n : Nat) (x : Event) : (s.setEvent n x).fe = s.fe := rfl
@[simp] theorem State.setEvent_problems (n : Nat) (x : Event) : (s.setEvent n x).problems = s.problems := rfl
@[simp] theorem State.setEvent_runs (n : Nat) (x : Event) : (s.setEvent n x).runs = s.runs := rfl
@[simp] theorem State.setEvent_early (n : Nat) (x : Event) : (s.setEvent n x).early = s.early := rfl
@[simp] theorem State.setEvent_ckpts (n : Nat) (x : Event) : (s.setEvent n x).ckpts = s.ckpts := rfl
@[simp] theorem State.setEvent_mem (n : Nat) (x : Event) : (s.setEvent n x).mem = s.mem := rfl
@[simp] theorem State.setEvent_poison (n : Nat) (x : Event) : (s.setEvent n x).poison = s.poison := rfl
@[simp] theorem State.setEvent_free (n : Nat) (x : Event) : (s.setEvent n x).free = s.free := rfl

/-! ### modMem -/

@[simp] theorem State.modMem_pending (n : Nat) (f : MemIface → MemIface) : (s.modMem n f).pending = s.pending := rfl
@[simp] theorem State.modMem_pwr (n : Nat) (f : MemIface → MemIface) : (s.modMem n f).pwr = s.pwr := rfl
@[simp] theorem State.modMem_boot (n : Nat) (f : MemIface → MemIface) : (s.modMem n f).boot = s.boot := rfl
@[simp] theorem State.modMem_time (n : Nat) (f : MemIface → MemIface) : (s.modMem n f).time = s.time := rfl
@[simp] theorem State.modMem_pcie (n : Nat) (f : MemIface → MemIface) : (s.modMem n f).pcie = s.pcie := rfl
@[simp] theorem State.modMem_bus (n : Nat) (f : MemIface → MemIface) : (s.modMem n f).bus = s.bus := rfl
@[simp] theorem State.modMem_mon (n : Nat) (f : MemIface → MemIface) : (s.modMem n f).mon = s.mon := rfl
@[simp] theorem State.modMem_flt (n : Nat) (f : MemIface → MemIface) : (s.modMem n f).flt = s.flt := rfl
@[simp] theorem State.modMem_blocks (n : Nat) (f : MemIface → MemIface) : (s.modMem n f).blocks = s.blocks := rfl
@[simp] theorem State.modMem_sec (n : Nat) (f : MemIface → MemIface) : (s.modMem n f).sec = s.sec := rfl
@[simp] theorem State.modMem_mbx (n : Nat) (f : MemIface → MemIface) : (s.modMem n f).mbx = s.mbx := rfl
@[simp] theorem State.modMem_mesh (n : Nat) (f : MemIface → MemIface) : (s.modMem n f).mesh = s.mesh := rfl
@[simp] theorem State.modMem_cxls (n : Nat) (f : MemIface → MemIface) : (s.modMem n f).cxls = s.cxls := rfl
@[simp] theorem State.modMem_links (n : Nat) (f : MemIface → MemIface) : (s.modMem n f).links = s.links := rfl
@[simp] theorem State.modMem_linkSys (n : Nat) (f : MemIface → MemIface) : (s.modMem n f).linkSys = s.linkSys := rfl
@[simp] theorem State.modMem_spans (n : Nat) (f : MemIface → MemIface) : (s.modMem n f).spans = s.spans := rfl
@[simp] theorem State.modMem_ctxs (n : Nat) (f : MemIface → MemIface) : (s.modMem n f).ctxs = s.ctxs := rfl
@[simp] theorem State.modMem_events (n : Nat) (f : MemIface → MemIface) : (s.modMem n f).events = s.events := rfl
@[simp] theorem State.modMem_fe (n : Nat) (f : MemIface → MemIface) : (s.modMem n f).fe = s.fe := rfl
@[simp] theorem State.modMem_problems (n : Nat) (f : MemIface → MemIface) : (s.modMem n f).problems = s.problems := rfl
@[simp] theorem State.modMem_runs (n : Nat) (f : MemIface → MemIface) : (s.modMem n f).runs = s.runs := rfl
@[simp] theorem State.modMem_early (n : Nat) (f : MemIface → MemIface) : (s.modMem n f).early = s.early := rfl
@[simp] theorem State.modMem_ckpts (n : Nat) (f : MemIface → MemIface) : (s.modMem n f).ckpts = s.ckpts := rfl
@[simp] theorem State.modMem_mem (n : Nat) (f : MemIface → MemIface) : (s.modMem n f).mem = s.mem := rfl
@[simp] theorem State.modMem_poison (n : Nat) (f : MemIface → MemIface) : (s.modMem n f).poison = s.poison := rfl
@[simp] theorem State.modMem_free (n : Nat) (f : MemIface → MemIface) : (s.modMem n f).free = s.free := rfl

/-! ### modCxl -/

@[simp] theorem State.modCxl_pending (n : Nat) (f : CxlPort → CxlPort) : (s.modCxl n f).pending = s.pending := rfl
@[simp] theorem State.modCxl_pwr (n : Nat) (f : CxlPort → CxlPort) : (s.modCxl n f).pwr = s.pwr := rfl
@[simp] theorem State.modCxl_boot (n : Nat) (f : CxlPort → CxlPort) : (s.modCxl n f).boot = s.boot := rfl
@[simp] theorem State.modCxl_time (n : Nat) (f : CxlPort → CxlPort) : (s.modCxl n f).time = s.time := rfl
@[simp] theorem State.modCxl_pcie (n : Nat) (f : CxlPort → CxlPort) : (s.modCxl n f).pcie = s.pcie := rfl
@[simp] theorem State.modCxl_bus (n : Nat) (f : CxlPort → CxlPort) : (s.modCxl n f).bus = s.bus := rfl
@[simp] theorem State.modCxl_mon (n : Nat) (f : CxlPort → CxlPort) : (s.modCxl n f).mon = s.mon := rfl
@[simp] theorem State.modCxl_flt (n : Nat) (f : CxlPort → CxlPort) : (s.modCxl n f).flt = s.flt := rfl
@[simp] theorem State.modCxl_blocks (n : Nat) (f : CxlPort → CxlPort) : (s.modCxl n f).blocks = s.blocks := rfl
@[simp] theorem State.modCxl_sec (n : Nat) (f : CxlPort → CxlPort) : (s.modCxl n f).sec = s.sec := rfl
@[simp] theorem State.modCxl_mbx (n : Nat) (f : CxlPort → CxlPort) : (s.modCxl n f).mbx = s.mbx := rfl
@[simp] theorem State.modCxl_mesh (n : Nat) (f : CxlPort → CxlPort) : (s.modCxl n f).mesh = s.mesh := rfl
@[simp] theorem State.modCxl_mems (n : Nat) (f : CxlPort → CxlPort) : (s.modCxl n f).mems = s.mems := rfl
@[simp] theorem State.modCxl_links (n : Nat) (f : CxlPort → CxlPort) : (s.modCxl n f).links = s.links := rfl
@[simp] theorem State.modCxl_linkSys (n : Nat) (f : CxlPort → CxlPort) : (s.modCxl n f).linkSys = s.linkSys := rfl
@[simp] theorem State.modCxl_spans (n : Nat) (f : CxlPort → CxlPort) : (s.modCxl n f).spans = s.spans := rfl
@[simp] theorem State.modCxl_ctxs (n : Nat) (f : CxlPort → CxlPort) : (s.modCxl n f).ctxs = s.ctxs := rfl
@[simp] theorem State.modCxl_events (n : Nat) (f : CxlPort → CxlPort) : (s.modCxl n f).events = s.events := rfl
@[simp] theorem State.modCxl_fe (n : Nat) (f : CxlPort → CxlPort) : (s.modCxl n f).fe = s.fe := rfl
@[simp] theorem State.modCxl_problems (n : Nat) (f : CxlPort → CxlPort) : (s.modCxl n f).problems = s.problems := rfl
@[simp] theorem State.modCxl_runs (n : Nat) (f : CxlPort → CxlPort) : (s.modCxl n f).runs = s.runs := rfl
@[simp] theorem State.modCxl_early (n : Nat) (f : CxlPort → CxlPort) : (s.modCxl n f).early = s.early := rfl
@[simp] theorem State.modCxl_ckpts (n : Nat) (f : CxlPort → CxlPort) : (s.modCxl n f).ckpts = s.ckpts := rfl
@[simp] theorem State.modCxl_mem (n : Nat) (f : CxlPort → CxlPort) : (s.modCxl n f).mem = s.mem := rfl
@[simp] theorem State.modCxl_poison (n : Nat) (f : CxlPort → CxlPort) : (s.modCxl n f).poison = s.poison := rfl
@[simp] theorem State.modCxl_free (n : Nat) (f : CxlPort → CxlPort) : (s.modCxl n f).free = s.free := rfl

/-! ### modLink -/

@[simp] theorem State.modLink_pending (n : Nat) (f : Link → Link) : (s.modLink n f).pending = s.pending := rfl
@[simp] theorem State.modLink_pwr (n : Nat) (f : Link → Link) : (s.modLink n f).pwr = s.pwr := rfl
@[simp] theorem State.modLink_boot (n : Nat) (f : Link → Link) : (s.modLink n f).boot = s.boot := rfl
@[simp] theorem State.modLink_time (n : Nat) (f : Link → Link) : (s.modLink n f).time = s.time := rfl
@[simp] theorem State.modLink_pcie (n : Nat) (f : Link → Link) : (s.modLink n f).pcie = s.pcie := rfl
@[simp] theorem State.modLink_bus (n : Nat) (f : Link → Link) : (s.modLink n f).bus = s.bus := rfl
@[simp] theorem State.modLink_mon (n : Nat) (f : Link → Link) : (s.modLink n f).mon = s.mon := rfl
@[simp] theorem State.modLink_flt (n : Nat) (f : Link → Link) : (s.modLink n f).flt = s.flt := rfl
@[simp] theorem State.modLink_blocks (n : Nat) (f : Link → Link) : (s.modLink n f).blocks = s.blocks := rfl
@[simp] theorem State.modLink_sec (n : Nat) (f : Link → Link) : (s.modLink n f).sec = s.sec := rfl
@[simp] theorem State.modLink_mbx (n : Nat) (f : Link → Link) : (s.modLink n f).mbx = s.mbx := rfl
@[simp] theorem State.modLink_mesh (n : Nat) (f : Link → Link) : (s.modLink n f).mesh = s.mesh := rfl
@[simp] theorem State.modLink_mems (n : Nat) (f : Link → Link) : (s.modLink n f).mems = s.mems := rfl
@[simp] theorem State.modLink_cxls (n : Nat) (f : Link → Link) : (s.modLink n f).cxls = s.cxls := rfl
@[simp] theorem State.modLink_linkSys (n : Nat) (f : Link → Link) : (s.modLink n f).linkSys = s.linkSys := rfl
@[simp] theorem State.modLink_spans (n : Nat) (f : Link → Link) : (s.modLink n f).spans = s.spans := rfl
@[simp] theorem State.modLink_ctxs (n : Nat) (f : Link → Link) : (s.modLink n f).ctxs = s.ctxs := rfl
@[simp] theorem State.modLink_events (n : Nat) (f : Link → Link) : (s.modLink n f).events = s.events := rfl
@[simp] theorem State.modLink_fe (n : Nat) (f : Link → Link) : (s.modLink n f).fe = s.fe := rfl
@[simp] theorem State.modLink_problems (n : Nat) (f : Link → Link) : (s.modLink n f).problems = s.problems := rfl
@[simp] theorem State.modLink_runs (n : Nat) (f : Link → Link) : (s.modLink n f).runs = s.runs := rfl
@[simp] theorem State.modLink_early (n : Nat) (f : Link → Link) : (s.modLink n f).early = s.early := rfl
@[simp] theorem State.modLink_ckpts (n : Nat) (f : Link → Link) : (s.modLink n f).ckpts = s.ckpts := rfl
@[simp] theorem State.modLink_mem (n : Nat) (f : Link → Link) : (s.modLink n f).mem = s.mem := rfl
@[simp] theorem State.modLink_poison (n : Nat) (f : Link → Link) : (s.modLink n f).poison = s.poison := rfl
@[simp] theorem State.modLink_free (n : Nat) (f : Link → Link) : (s.modLink n f).free = s.free := rfl

/-! ### modBlock -/

@[simp] theorem State.modBlock_pending (b : BlockId) (f : FltIf → FltIf) : (s.modBlock b f).pending = s.pending := rfl
@[simp] theorem State.modBlock_pwr (b : BlockId) (f : FltIf → FltIf) : (s.modBlock b f).pwr = s.pwr := rfl
@[simp] theorem State.modBlock_boot (b : BlockId) (f : FltIf → FltIf) : (s.modBlock b f).boot = s.boot := rfl
@[simp] theorem State.modBlock_time (b : BlockId) (f : FltIf → FltIf) : (s.modBlock b f).time = s.time := rfl
@[simp] theorem State.modBlock_pcie (b : BlockId) (f : FltIf → FltIf) : (s.modBlock b f).pcie = s.pcie := rfl
@[simp] theorem State.modBlock_bus (b : BlockId) (f : FltIf → FltIf) : (s.modBlock b f).bus = s.bus := rfl
@[simp] theorem State.modBlock_mon (b : BlockId) (f : FltIf → FltIf) : (s.modBlock b f).mon = s.mon := rfl
@[simp] theorem State.modBlock_flt (b : BlockId) (f : FltIf → FltIf) : (s.modBlock b f).flt = s.flt := rfl
@[simp] theorem State.modBlock_sec (b : BlockId) (f : FltIf → FltIf) : (s.modBlock b f).sec = s.sec := rfl
@[simp] theorem State.modBlock_mbx (b : BlockId) (f : FltIf → FltIf) : (s.modBlock b f).mbx = s.mbx := rfl
@[simp] theorem State.modBlock_mesh (b : BlockId) (f : FltIf → FltIf) : (s.modBlock b f).mesh = s.mesh := rfl
@[simp] theorem State.modBlock_mems (b : BlockId) (f : FltIf → FltIf) : (s.modBlock b f).mems = s.mems := rfl
@[simp] theorem State.modBlock_cxls (b : BlockId) (f : FltIf → FltIf) : (s.modBlock b f).cxls = s.cxls := rfl
@[simp] theorem State.modBlock_links (b : BlockId) (f : FltIf → FltIf) : (s.modBlock b f).links = s.links := rfl
@[simp] theorem State.modBlock_linkSys (b : BlockId) (f : FltIf → FltIf) : (s.modBlock b f).linkSys = s.linkSys := rfl
@[simp] theorem State.modBlock_spans (b : BlockId) (f : FltIf → FltIf) : (s.modBlock b f).spans = s.spans := rfl
@[simp] theorem State.modBlock_ctxs (b : BlockId) (f : FltIf → FltIf) : (s.modBlock b f).ctxs = s.ctxs := rfl
@[simp] theorem State.modBlock_events (b : BlockId) (f : FltIf → FltIf) : (s.modBlock b f).events = s.events := rfl
@[simp] theorem State.modBlock_fe (b : BlockId) (f : FltIf → FltIf) : (s.modBlock b f).fe = s.fe := rfl
@[simp] theorem State.modBlock_problems (b : BlockId) (f : FltIf → FltIf) : (s.modBlock b f).problems = s.problems := rfl
@[simp] theorem State.modBlock_runs (b : BlockId) (f : FltIf → FltIf) : (s.modBlock b f).runs = s.runs := rfl
@[simp] theorem State.modBlock_early (b : BlockId) (f : FltIf → FltIf) : (s.modBlock b f).early = s.early := rfl
@[simp] theorem State.modBlock_ckpts (b : BlockId) (f : FltIf → FltIf) : (s.modBlock b f).ckpts = s.ckpts := rfl
@[simp] theorem State.modBlock_mem (b : BlockId) (f : FltIf → FltIf) : (s.modBlock b f).mem = s.mem := rfl
@[simp] theorem State.modBlock_poison (b : BlockId) (f : FltIf → FltIf) : (s.modBlock b f).poison = s.poison := rfl
@[simp] theorem State.modBlock_free (b : BlockId) (f : FltIf → FltIf) : (s.modBlock b f).free = s.free := rfl

/-! ### withFlt -/

@[simp] theorem State.withFlt_pending (f : Flt) : (s.withFlt f).pending = s.pending := rfl
@[simp] theorem State.withFlt_pwr (f : Flt) : (s.withFlt f).pwr = s.pwr := rfl
@[simp] theorem State.withFlt_boot (f : Flt) : (s.withFlt f).boot = s.boot := rfl
@[simp] theorem State.withFlt_time (f : Flt) : (s.withFlt f).time = s.time := rfl
@[simp] theorem State.withFlt_pcie (f : Flt) : (s.withFlt f).pcie = s.pcie := rfl
@[simp] theorem State.withFlt_bus (f : Flt) : (s.withFlt f).bus = s.bus := rfl
@[simp] theorem State.withFlt_mon (f : Flt) : (s.withFlt f).mon = s.mon := rfl
@[simp] theorem State.withFlt_blocks (f : Flt) : (s.withFlt f).blocks = s.blocks := rfl
@[simp] theorem State.withFlt_sec (f : Flt) : (s.withFlt f).sec = s.sec := rfl
@[simp] theorem State.withFlt_mbx (f : Flt) : (s.withFlt f).mbx = s.mbx := rfl
@[simp] theorem State.withFlt_mesh (f : Flt) : (s.withFlt f).mesh = s.mesh := rfl
@[simp] theorem State.withFlt_mems (f : Flt) : (s.withFlt f).mems = s.mems := rfl
@[simp] theorem State.withFlt_cxls (f : Flt) : (s.withFlt f).cxls = s.cxls := rfl
@[simp] theorem State.withFlt_links (f : Flt) : (s.withFlt f).links = s.links := rfl
@[simp] theorem State.withFlt_linkSys (f : Flt) : (s.withFlt f).linkSys = s.linkSys := rfl
@[simp] theorem State.withFlt_spans (f : Flt) : (s.withFlt f).spans = s.spans := rfl
@[simp] theorem State.withFlt_ctxs (f : Flt) : (s.withFlt f).ctxs = s.ctxs := rfl
@[simp] theorem State.withFlt_events (f : Flt) : (s.withFlt f).events = s.events := rfl
@[simp] theorem State.withFlt_fe (f : Flt) : (s.withFlt f).fe = s.fe := rfl
@[simp] theorem State.withFlt_problems (f : Flt) : (s.withFlt f).problems = s.problems := rfl
@[simp] theorem State.withFlt_runs (f : Flt) : (s.withFlt f).runs = s.runs := rfl
@[simp] theorem State.withFlt_early (f : Flt) : (s.withFlt f).early = s.early := rfl
@[simp] theorem State.withFlt_ckpts (f : Flt) : (s.withFlt f).ckpts = s.ckpts := rfl
@[simp] theorem State.withFlt_mem (f : Flt) : (s.withFlt f).mem = s.mem := rfl
@[simp] theorem State.withFlt_poison (f : Flt) : (s.withFlt f).poison = s.poison := rfl
@[simp] theorem State.withFlt_free (f : Flt) : (s.withFlt f).free = s.free := rfl

/-! ### setHerr -/

@[simp] theorem State.setHerr_pending (b : Nat) : (s.setHerr b).pending = s.pending := rfl
@[simp] theorem State.setHerr_pwr (b : Nat) : (s.setHerr b).pwr = s.pwr := rfl
@[simp] theorem State.setHerr_boot (b : Nat) : (s.setHerr b).boot = s.boot := rfl
@[simp] theorem State.setHerr_time (b : Nat) : (s.setHerr b).time = s.time := rfl
@[simp] theorem State.setHerr_bus (b : Nat) : (s.setHerr b).bus = s.bus := rfl
@[simp] theorem State.setHerr_mon (b : Nat) : (s.setHerr b).mon = s.mon := rfl
@[simp] theorem State.setHerr_flt (b : Nat) : (s.setHerr b).flt = s.flt := rfl
@[simp] theorem State.setHerr_blocks (b : Nat) : (s.setHerr b).blocks = s.blocks := rfl
@[simp] theorem State.setHerr_sec (b : Nat) : (s.setHerr b).sec = s.sec := rfl
@[simp] theorem State.setHerr_mbx (b : Nat) : (s.setHerr b).mbx = s.mbx := rfl
@[simp] theorem State.setHerr_mesh (b : Nat) : (s.setHerr b).mesh = s.mesh := rfl
@[simp] theorem State.setHerr_mems (b : Nat) : (s.setHerr b).mems = s.mems := rfl
@[simp] theorem State.setHerr_cxls (b : Nat) : (s.setHerr b).cxls = s.cxls := rfl
@[simp] theorem State.setHerr_links (b : Nat) : (s.setHerr b).links = s.links := rfl
@[simp] theorem State.setHerr_linkSys (b : Nat) : (s.setHerr b).linkSys = s.linkSys := rfl
@[simp] theorem State.setHerr_spans (b : Nat) : (s.setHerr b).spans = s.spans := rfl
@[simp] theorem State.setHerr_ctxs (b : Nat) : (s.setHerr b).ctxs = s.ctxs := rfl
@[simp] theorem State.setHerr_events (b : Nat) : (s.setHerr b).events = s.events := rfl
@[simp] theorem State.setHerr_fe (b : Nat) : (s.setHerr b).fe = s.fe := rfl
@[simp] theorem State.setHerr_problems (b : Nat) : (s.setHerr b).problems = s.problems := rfl
@[simp] theorem State.setHerr_runs (b : Nat) : (s.setHerr b).runs = s.runs := rfl
@[simp] theorem State.setHerr_early (b : Nat) : (s.setHerr b).early = s.early := rfl
@[simp] theorem State.setHerr_ckpts (b : Nat) : (s.setHerr b).ckpts = s.ckpts := rfl
@[simp] theorem State.setHerr_mem (b : Nat) : (s.setHerr b).mem = s.mem := rfl
@[simp] theorem State.setHerr_poison (b : Nat) : (s.setHerr b).poison = s.poison := rfl
@[simp] theorem State.setHerr_free (b : Nat) : (s.setHerr b).free = s.free := rfl

/-! ### modSec -/

@[simp] theorem State.modSec_pending (f : Sec → Sec) : (s.modSec f).pending = s.pending := rfl
@[simp] theorem State.modSec_pwr (f : Sec → Sec) : (s.modSec f).pwr = s.pwr := rfl
@[simp] theorem State.modSec_boot (f : Sec → Sec) : (s.modSec f).boot = s.boot := rfl
@[simp] theorem State.modSec_time (f : Sec → Sec) : (s.modSec f).time = s.time := rfl
@[simp] theorem State.modSec_pcie (f : Sec → Sec) : (s.modSec f).pcie = s.pcie := rfl
@[simp] theorem State.modSec_bus (f : Sec → Sec) : (s.modSec f).bus = s.bus := rfl
@[simp] theorem State.modSec_mon (f : Sec → Sec) : (s.modSec f).mon = s.mon := rfl
@[simp] theorem State.modSec_flt (f : Sec → Sec) : (s.modSec f).flt = s.flt := rfl
@[simp] theorem State.modSec_blocks (f : Sec → Sec) : (s.modSec f).blocks = s.blocks := rfl
@[simp] theorem State.modSec_mbx (f : Sec → Sec) : (s.modSec f).mbx = s.mbx := rfl
@[simp] theorem State.modSec_mesh (f : Sec → Sec) : (s.modSec f).mesh = s.mesh := rfl
@[simp] theorem State.modSec_mems (f : Sec → Sec) : (s.modSec f).mems = s.mems := rfl
@[simp] theorem State.modSec_cxls (f : Sec → Sec) : (s.modSec f).cxls = s.cxls := rfl
@[simp] theorem State.modSec_links (f : Sec → Sec) : (s.modSec f).links = s.links := rfl
@[simp] theorem State.modSec_linkSys (f : Sec → Sec) : (s.modSec f).linkSys = s.linkSys := rfl
@[simp] theorem State.modSec_spans (f : Sec → Sec) : (s.modSec f).spans = s.spans := rfl
@[simp] theorem State.modSec_ctxs (f : Sec → Sec) : (s.modSec f).ctxs = s.ctxs := rfl
@[simp] theorem State.modSec_events (f : Sec → Sec) : (s.modSec f).events = s.events := rfl
@[simp] theorem State.modSec_fe (f : Sec → Sec) : (s.modSec f).fe = s.fe := rfl
@[simp] theorem State.modSec_problems (f : Sec → Sec) : (s.modSec f).problems = s.problems := rfl
@[simp] theorem State.modSec_runs (f : Sec → Sec) : (s.modSec f).runs = s.runs := rfl
@[simp] theorem State.modSec_early (f : Sec → Sec) : (s.modSec f).early = s.early := rfl
@[simp] theorem State.modSec_ckpts (f : Sec → Sec) : (s.modSec f).ckpts = s.ckpts := rfl
@[simp] theorem State.modSec_mem (f : Sec → Sec) : (s.modSec f).mem = s.mem := rfl
@[simp] theorem State.modSec_poison (f : Sec → Sec) : (s.modSec f).poison = s.poison := rfl
@[simp] theorem State.modSec_free (f : Sec → Sec) : (s.modSec f).free = s.free := rfl

/-! ### Reading the unit that has changed -/

@[simp] theorem State.span_setSpan_self (n : Nat) (x : Span) : (s.setSpan n x).span n = x := Store.get_put_self

theorem State.span_setSpan_ne {m n : Nat} (x : Span) (h : m ≠ n) : (s.setSpan n x).span m = s.span m :=
  Store.get_put_ne h

@[simp] theorem State.span_modSpan_self (n : Nat) (f : Span → Span) : (s.modSpan n f).span n = f (s.span n) :=
  Store.get_put_self

theorem State.span_modSpan_ne {m n : Nat} (f : Span → Span) (h : m ≠ n) : (s.modSpan n f).span m = s.span m :=
  Store.get_put_ne h

@[simp] theorem State.span_modPier_self (n : Nat) (f : Pier → Pier) :
    (s.modPier n f).span n = { s.span n with pier := f (s.pier n) } := Store.get_put_self

theorem State.span_modPier_ne {m n : Nat} (f : Pier → Pier) (h : m ≠ n) : (s.modPier n f).span m = s.span m :=
  Store.get_put_ne h

@[simp] theorem State.pier_modPier_self (n : Nat) (f : Pier → Pier) : (s.modPier n f).pier n = f (s.pier n) := by
  simp [State.pier]

theorem State.pier_modPier_ne {m n : Nat} (f : Pier → Pier) (h : m ≠ n) : (s.modPier n f).pier m = s.pier m := by
  simp [State.pier, State.span_modPier_ne s f h]

@[simp] theorem State.span_modEng_self (n : Nat) (f : Engine → Engine) :
    (s.modEng n f).span n = { s.span n with eng := f (s.eng n) } := Store.get_put_self

theorem State.span_modEng_ne {m n : Nat} (f : Engine → Engine) (h : m ≠ n) : (s.modEng n f).span m = s.span m :=
  Store.get_put_ne h

@[simp] theorem State.eng_modEng_self (n : Nat) (f : Engine → Engine) : (s.modEng n f).eng n = f (s.eng n) := by
  simp [State.eng]

@[simp] theorem State.ctx_modCtx_self (c : Nat) (f : Ctx → Ctx) : (s.modCtx c f).ctx c = f (s.ctx c) :=
  Store.get_put_self

theorem State.ctx_modCtx_ne {b c : Nat} (f : Ctx → Ctx) (h : b ≠ c) : (s.modCtx c f).ctx b = s.ctx b :=
  Store.get_put_ne h

@[simp] theorem State.event_setEvent_self (e : Nat) (x : Event) : (s.setEvent e x).event e = x := Store.get_put_self

theorem State.event_setEvent_ne {d e : Nat} (x : Event) (h : d ≠ e) : (s.setEvent e x).event d = s.event d :=
  Store.get_put_ne h

@[simp] theorem State.memIface_modMem_self (i : Nat) (f : MemIface → MemIface) :
    (s.modMem i f).memIface i = f (s.memIface i) := Store.get_put_self

theorem State.memIface_modMem_ne {i j : Nat} (f : MemIface → MemIface) (h : j ≠ i) :
    (s.modMem i f).memIface j = s.memIface j := Store.get_put_ne h

@[simp] theorem State.cxl_modCxl_self (p : Nat) (f : CxlPort → CxlPort) : (s.modCxl p f).cxl p = f (s.cxl p) :=
  Store.get_put_self

theorem State.cxl_modCxl_ne {p q : Nat} (f : CxlPort → CxlPort) (h : q ≠ p) : (s.modCxl p f).cxl q = s.cxl q :=
  Store.get_put_ne h

@[simp] theorem State.link_modLink_self (l : Nat) (f : Link → Link) : (s.modLink l f).link l = f (s.link l) :=
  Store.get_put_self

theorem State.link_modLink_ne {k l : Nat} (f : Link → Link) (h : k ≠ l) : (s.modLink l f).link k = s.link k :=
  Store.get_put_ne h

@[simp] theorem State.block_modBlock_self (b : BlockId) (f : FltIf → FltIf) : (s.modBlock b f).block b = f (s.block b) :=
  Store.get_put_self

@[simp] theorem State.withFlt_flt (f : Flt) : (s.withFlt f).flt = f := rfl

@[simp] theorem State.modSec_sec (f : Sec → Sec) : (s.modSec f).sec = f s.sec := rfl

/-- The accessors of one kind of unit see nothing of a change of another kind. -/
theorem State.accessors_modPier (n : Nat) (f : Pier → Pier) (k : Nat) :
    (s.modPier n f).ctx k = s.ctx k ∧ (s.modPier n f).event k = s.event k ∧ (s.modPier n f).link k = s.link k
      ∧ (s.modPier n f).spanFenced k = s.spanFenced k := ⟨rfl, rfl, rfl, rfl⟩

theorem State.accessors_modCtx (c : Nat) (f : Ctx → Ctx) (k : Nat) :
    (s.modCtx c f).span k = s.span k ∧ (s.modCtx c f).event k = s.event k ∧ (s.modCtx c f).link k = s.link k
      ∧ (s.modCtx c f).spanFenced k = s.spanFenced k := ⟨rfl, rfl, rfl, rfl⟩

end Sys2Proof.Machine
end

