-- ==== Sys2Proof/Laws/Access.lean ====
section
/-! SUPPORT. What reading one unit of the state gives after one unit was changed, and the changes of one unit as the
relations that the statements use.
-/

namespace Sys2Proof.Machine

variable (s : State)

/-! ### Reading after a change -/

@[simp] theorem State.span_modSpan (n m : Nat) (f : Span → Span) :
    (s.modSpan n f).span m = if m = n then f (s.span n) else s.span m := by
  simp [State.modSpan, State.setSpan, State.span, Store.get_put]

@[simp] theorem State.span_modPier (n m : Nat) (f : Pier → Pier) :
    (s.modPier n f).span m = if m = n then { s.span n with pier := f (s.pier n) } else s.span m := by
  simp [State.modPier, State.pier]

@[simp] theorem State.span_modEng (n m : Nat) (f : Engine → Engine) :
    (s.modEng n f).span m = if m = n then { s.span n with eng := f (s.eng n) } else s.span m := by
  simp [State.modEng, State.eng]

@[simp] theorem State.pier_modPier (n m : Nat) (f : Pier → Pier) :
    (s.modPier n f).pier m = if m = n then f (s.pier n) else s.pier m := by
  by_cases h : m = n <;> simp [State.pier, h]

@[simp] theorem State.eng_modPier (n m : Nat) (f : Pier → Pier) : (s.modPier n f).eng m = s.eng m := by
  by_cases h : m = n <;> simp [State.eng, h]

@[simp] theorem State.eng_modEng (n m : Nat) (f : Engine → Engine) :
    (s.modEng n f).eng m = if m = n then f (s.eng n) else s.eng m := by
  by_cases h : m = n <;> simp [State.eng, h]

@[simp] theorem State.pier_modEng (n m : Nat) (f : Engine → Engine) : (s.modEng n f).pier m = s.pier m := by
  by_cases h : m = n <;> simp [State.pier, h]

@[simp] theorem State.ctx_modCtx (c d : Nat) (f : Ctx → Ctx) :
    (s.modCtx c f).ctx d = if d = c then f (s.ctx c) else s.ctx d := by
  simp [State.modCtx, State.setCtx, State.ctx, Store.get_put]

@[simp] theorem State.link_modLink (l m : Nat) (f : Link → Link) :
    (s.modLink l f).link m = if m = l then f (s.link l) else s.link m := by
  simp [State.modLink, State.link, Store.get_put]

@[simp] theorem State.event_setEvent (e d : Nat) (x : Event) :
    (s.setEvent e x).event d = if d = e then x else s.event d := by
  simp [State.setEvent, State.event, Store.get_put]

@[simp] theorem State.memIface_modMem (i j : Nat) (f : MemIface → MemIface) :
    (s.modMem i f).memIface j = if j = i then f (s.memIface i) else s.memIface j := by
  simp [State.modMem, State.memIface, Store.get_put]

@[simp] theorem State.cxl_modCxl (p q : Nat) (f : CxlPort → CxlPort) :
    (s.modCxl p f).cxl q = if q = p then f (s.cxl p) else s.cxl q := by
  simp [State.modCxl, State.cxl, Store.get_put]

/-! ### One unit changed -/

theorem SpanOnly.modSpan (n : Nat) (f : Span → Span) : SpanOnly s (s.modSpan n f) n (f (s.span n)) :=
  ⟨by simp, fun m h => by simp [h], rfl⟩

theorem SpanOnly.modPier (n : Nat) (f : Pier → Pier) : PierOnly s (s.modPier n f) n (f (s.pier n)) :=
  ⟨by simp, fun m h => by simp [h], rfl⟩

theorem SpanOnly.modEng (n : Nat) (f : Engine → Engine) :
    SpanOnly s (s.modEng n f) n { s.span n with eng := f (s.eng n) } :=
  ⟨by simp, fun m h => by simp [h], rfl⟩

theorem CtxOnly.modCtx (c : Nat) (f : Ctx → Ctx) : CtxOnly s (s.modCtx c f) c (f (s.ctx c)) :=
  ⟨by simp, fun m h => by simp [h], rfl⟩

theorem LinkOnly.modLink (l : Nat) (f : Link → Link) : LinkOnly s (s.modLink l f) l (f (s.link l)) :=
  ⟨by simp, fun m h => by simp [h], rfl⟩

theorem EventOnly.setEvent (e : Nat) (x : Event) : EventOnly s (s.setEvent e x) e x :=
  ⟨by simp, fun m h => by simp [h], rfl⟩

theorem MemOnly.modMem (i : Nat) (f : MemIface → MemIface) : MemOnly s (s.modMem i f) i (f (s.memIface i)) :=
  ⟨by simp, fun m h => by simp [h], rfl⟩

variable {s}

/-- A unit changed twice is a unit changed. -/
theorem SpanOnly.trans {t u : State} {n : Nat} {x y : Span} (h : SpanOnly s t n x) (k : SpanOnly t u n y) :
    SpanOnly s u n y := by
  refine ⟨k.here, fun m hm => (k.others m hm).trans (h.others m hm), ?_⟩
  have e := congrArg (fun (v : State) => { v with spans := s.spans }) k.rest
  simp only at e
  rw [h.rest] at e
  exact e

theorem CtxOnly.trans {t u : State} {c : Nat} {x y : Ctx} (h : CtxOnly s t c x) (k : CtxOnly t u c y) :
    CtxOnly s u c y := by
  refine ⟨k.here, fun m hm => (k.others m hm).trans (h.others m hm), ?_⟩
  have e := congrArg (fun (v : State) => { v with ctxs := s.ctxs }) k.rest
  simp only at e
  rw [h.rest] at e
  exact e

theorem LinkOnly.trans {t u : State} {l : Nat} {x y : Link} (h : LinkOnly s t l x) (k : LinkOnly t u l y) :
    LinkOnly s u l y := by
  refine ⟨k.here, fun m hm => (k.others m hm).trans (h.others m hm), ?_⟩
  have e := congrArg (fun (v : State) => { v with links := s.links }) k.rest
  simp only at e
  rw [h.rest] at e
  exact e

end Sys2Proof.Machine
end

