-- ==== Sys2Proof/Laws/Clock.lean ====
section
/-! SUPPORT. What the passage of time does: the time counter, the spans that are not fenced with the flits that they inject,
the end of a reset in progress, and nothing else.
-/

namespace Sys2Proof.Machine

/-- A span after `k` ticks, its first flits injected (R370). -/
def Span.ticked (x : Span) (level k : Nat) : Span :=
  { x.advance level k with eng := { x.eng with inject := x.eng.inject.drop k } }

/-- The flits that span `n` injects in `k` ticks, each under the generation of the tables in force (R370). -/
def State.injected (s : State) (n k : Nat) : List Vc1Msg :=
  if s.spanFenced n then [] else ((s.eng n).inject.take k).map (fun (m : Vc1Msg) => { m with gen := s.mesh.generation })

/-- What one span does in `k` ticks. -/
def State.spanTicks (k : Nat) (s : State) (n : Nat) : State :=
  if s.spanFenced n then s else (s.modSpan n (fun x => x.advance s.mon.level k)).injectFirst n k

/-- One span counts and injects; nothing else changes. -/
theorem State.spanTicks_takes {k : Nat} (hk : k ≠ 0) (s : State) (n : Nat) :
    (∀ m, (s.spanTicks k n).span m =
      if m = n ∧ s.spanFenced n = false then (s.span n).ticked s.mon.level k else s.span m) ∧
    { s.spanTicks k n with spans := s.spans, mesh := s.mesh } = s ∧
    (s.spanTicks k n).mesh = { s.mesh with vc1 := s.mesh.vc1 ++ s.injected n k } := by
  unfold State.spanTicks State.injected
  by_cases hf : s.spanFenced n
  · simp [hf]
  · simp only [hf, Bool.false_eq_true, if_false, and_true]
    have he : (s.modSpan n (fun x => x.advance s.mon.level k)).eng n = s.eng n := by
      simp [State.eng, Span.advance]
    unfold State.injectFirst
    dsimp only
    rw [he]
    by_cases hi : (s.eng n).inject.isEmpty
    · have h0 : (s.eng n).inject = [] := by simpa using hi
      simp only [hi, Bool.true_or, if_true]
      refine ⟨fun m => ?_, rfl, ?_⟩
      · by_cases hm : m = n
        · subst hm
          have h1 : (s.span m).eng.inject = [] := h0
          rw [State.span_modSpan_self, if_pos rfl]
          unfold Span.ticked
          have h2 : ((s.span m).advance s.mon.level k).eng = (s.span m).eng := rfl
          rw [h1, List.drop_nil, ← h1, ← h2]
        · rw [State.span_modSpan_ne _ _ hm, if_neg hm]
      · simp [h0]
    · simp only [hi, Bool.false_or, decide_eq_true_eq, hk, if_false]
      refine ⟨fun m => ?_, rfl, rfl⟩
      by_cases hm : m = n
      · subst hm
        rw [if_pos rfl]
        simp [State.modEng, Span.ticked, State.span, State.modSpan, State.setSpan, Store.get_put_self, Span.advance]
      · rw [if_neg hm]
        have e1 := State.span_modSpan_ne s (fun x => x.advance s.mon.level k) hm
        refine Eq.trans ?_ e1
        exact Store.get_put_ne hm

/-- Spans of a list that are not fenced count and inject; nothing else changes. -/
theorem advance_fold {k : Nat} (hk : k ≠ 0) : ∀ (l : List Nat), l.Nodup → ∀ a : State,
    let b := l.foldl (State.spanTicks k) a
    (∀ n, b.span n =
      if n ∈ l then (if a.spanFenced n then a.span n else (a.span n).ticked a.mon.level k) else a.span n) ∧
    { b with spans := a.spans, mesh := a.mesh } = a ∧
    b.mesh = { a.mesh with vc1 := a.mesh.vc1 ++ l.flatMap (fun n => a.injected n k) }
  | [], _, a => by simp
  | n :: l, hn, a => by
    obtain ⟨h1, h2⟩ := List.nodup_cons.mp hn
    obtain ⟨t1, t2, t3⟩ := State.spanTicks_takes hk a n
    rw [List.foldl_cons]
    generalize a.spanTicks k n = c at t1 t2 t3 ⊢
    have hmon : c.mon = a.mon := by have e := congrArg State.mon t2; exact e
    have hflt : c.flt = a.flt := by have e := congrArg State.flt t2; exact e
    have hf : ∀ m, c.spanFenced m = a.spanFenced m := fun m => congrArg (fun f : Flt => f.spans.getLsbD m) hflt
    have hs : ∀ m, m ≠ n → c.span m = a.span m := fun m h => by rw [t1 m, if_neg (fun e => h e.1)]
    have hne : ∀ m, m ∈ l → m ≠ n := fun m h e => h1 (e ▸ h)
    obtain ⟨i1, i2, i3⟩ := advance_fold hk l h2 c
    refine ⟨fun m => ?_, ?_, ?_⟩
    · rw [i1 m, hf, hmon]
      by_cases hm : m = n
      · subst hm
        rw [if_neg h1, t1 m]
        by_cases hq : a.spanFenced m <;> simp [hq]
      · simp [hs m hm, hm]
    · have e := congrArg (fun (x : State) => { x with spans := a.spans, mesh := a.mesh }) i2
      exact e.trans t2
    · rw [i3, t3]
      have hg : l.flatMap (fun m => c.injected m k) = l.flatMap (fun m => a.injected m k) := by
        refine List.flatMap_congr (fun m hm => ?_)
        unfold State.injected State.eng
        rw [hf, hs m (hne m hm), t3]
      simp [hg]

/-- What the passage of `k` ticks does before the spans count and inject. -/
def State.passed (s : State) (k : Nat) : State :=
  { s with time := s.time.advance k,
           boot := { s.boot with ready := s.boot.ready || s.boot.resetting, resetting := false },
           runs := s.runs.map (fun (r : Run) => { r with ckptOpen := r.ckptOpen.map (fun _ => true) }) }.copiesRebuilt

/-- The passage of time leaves everything but time, the spans, the mesh, the boot registers, the checkpoints
being written and the copies being rebuilt. -/
theorem State.advance_rest (s : State) (k : Nat) :
    { s.advance k with spans := s.spans, mesh := s.mesh, time := s.time, boot := s.boot, runs := s.runs,
                       problems := s.problems } = s := by
  unfold State.advance
  split
  · rfl
  · rename_i h
    have hk : k ≠ 0 := by rintro rfl; simp at h
    have h := (advance_fold hk spanIds (by decide)
      (s.passed k)).2.1
    exact congrArg (fun (x : State) => ({ x with time := s.time, boot := s.boot, runs := s.runs, problems := s.problems } : State)) h

/-- While the clock runs, the time counter goes on. -/
theorem State.advance_time {s : State} {k : Nat} (h : s.running = true) (hk : k ≠ 0) :
    (s.advance k).time = s.time.advance k := by
  unfold State.advance
  simp only [h]
  rw [if_neg (by simpa using hk)]
  have e := congrArg State.time (advance_fold hk spanIds (by decide)
    (s.passed k)).2.1
  exact e

/-- The count of ticks goes on by as many as pass. -/
theorem State.advance_ticks {s : State} (k : Nat) (h : s.running = true) :
    (s.advance k).time.ticks = s.time.ticks + k := by
  by_cases hk : k = 0
  · subst hk; simp [State.advance]
  · rw [State.advance_time h hk]; rfl

/-- While the clock runs, each span that is not fenced counts and injects. -/
theorem State.advance_span {s : State} {k n : Nat} (h : s.running = true) (hk : k ≠ 0) (hn : n < 16) :
    (s.advance k).span n = if s.spanFenced n then s.span n else (s.span n).ticked s.mon.level k := by
  unfold State.advance
  simp only [h]
  rw [if_neg (by simpa using hk)]
  have e := (advance_fold hk spanIds (by decide)
    (s.passed k)).1 n
  exact e.trans (if_pos (by simpa [spanIds] using hn))

/-- The mesh takes what the spans inject, in span order. -/
theorem State.advance_mesh {s : State} {k : Nat} (h : s.running = true) (hk : k ≠ 0) :
    (s.advance k).mesh = { s.mesh with vc1 := s.mesh.vc1 ++ spanIds.flatMap (fun n => s.injected n k) } := by
  unfold State.advance
  simp only [h]
  rw [if_neg (by simpa using hk)]
  exact (advance_fold hk spanIds (by decide)
    (s.passed k)).2.2

/-- Without a clock no time passes. -/
theorem State.advance_stopped {s : State} (k : Nat) (h : s.running = false) : s.advance k = s := by
  simp [State.advance, h]

end Sys2Proof.Machine
end

