-- ==== Sys2Proof/Laws/Closed.lean ====
section
/-! SUPPORT. What the ordinary work of the block can change, said once: a property of states is `Closed` when the
changes that work is made of keep it. Each operation then has one law: it keeps every closed property.
-/

namespace Sys2Proof.Machine

/-- No fence is lifted. -/
structure Grown (a b : Flt) : Prop where
  spans : ∀ k, a.spans.getLsbD k = true → b.spans.getLsbD k = true
  mems : ∀ k, a.mems.getLsbD k = true → b.mems.getLsbD k = true
  links : ∀ k, a.links.getLsbD k = true → b.links.getLsbD k = true
  cxls : ∀ k, a.cxls.getLsbD k = true → b.cxls.getLsbD k = true

/-- The fences are the same. -/
theorem Grown.same {a b : Flt} (h₁ : b.spans = a.spans) (h₂ : b.mems = a.mems) (h₃ : b.links = a.links)
    (h₄ : b.cxls = a.cxls) : Grown a b :=
  ⟨fun _ h => by rw [h₁]; exact h, fun _ h => by rw [h₂]; exact h, fun _ h => by rw [h₃]; exact h,
   fun _ h => by rw [h₄]; exact h⟩

/-- Fences only grow, and the fault state, its cause and its timer stay. -/
structure FenceOnly (a b : Flt) : Prop extends Grown a b where
  state : b.state = a.state
  cause : b.cause = a.cause
  esc : b.esc = a.esc
  escTime : b.escTime = a.escTime
  quiet : b.quiet = a.quiet
  limit : b.limit = a.limit
  window : b.window = a.window
  recs : b.recs = a.recs
  recCount : b.recCount = a.recCount
  faultTick : b.faultTick = a.faultTick

/-- A property that ordinary work keeps. -/
structure Closed (P : State → Prop) : Prop where
  /-- Everything that the other fields do not name may change in any way. -/
  rest : ∀ {a : State} {blocks mesh mems cxls links spans ctxs events fe problems runs early ckpts poison free},
    P a → P { a with blocks := blocks, mesh := mesh, mems := mems, cxls := cxls, links := links, spans := spans,
                     ctxs := ctxs, events := events, fe := fe, problems := problems, runs := runs, early := early,
                     ckpts := ckpts, poison := poison, free := free }
  mem : ∀ {a : State} (l : List Host.Cell), P a → P { a with mem := memPutAll a.mem l }
  herr : ∀ {a : State} (x : BitVec 7), P a → P { a with pcie := { a.pcie with herr := x } }
  pba : ∀ {a : State} (x : List Nat), P a → P { a with pcie := { a.pcie with pba := x } }
  sent : ∀ {a : State} (x : List Nat), P a → P { a with bus := { a.bus with sent := x } }
  drbg : ∀ {a : State} (x : Nat) (d : Drbg), P a → P { a with sec := { a.sec with drbg := d, gens := x } }
  cxlPerst : ∀ {a : State} (x : BitVec 2), P a → P { a with pwr := { a.pwr with cxlPerst := x } }
  fence : ∀ {a : State} (f : Flt), FenceOnly a.flt f → P a → P { a with flt := f }
  escalate : ∀ {a : State}, a.flt.state = 0 → P a →
    P { a with flt := { a.flt with state := 1, esc := some ⟨a.time.ticks, a.flt.escTime * tickMs⟩ } }

/-- A fold keeps what each of its steps keeps. -/
theorem foldl_keep {α : Type} {P : State → Prop} {f : State → α → State} (h : ∀ s a, P s → P (f s a)) :
    ∀ (l : List α) (s : State), P s → P (l.foldl f s)
  | [], _, hs => hs
  | a :: l, s, hs => foldl_keep h l (f s a) (h s a hs)

/-- A fold over a pair with the state first. -/
theorem foldl_keep₁ {α β : Type} {P : State → Prop} {f : State × β → α → State × β}
    (h : ∀ s a, P s.1 → P (f s a).1) : ∀ (l : List α) (s : State × β), P s.1 → P (l.foldl f s).1
  | [], _, hs => hs
  | a :: l, s, hs => foldl_keep₁ h l (f s a) (h s a hs)

/-- A fold over a pair with the state second. -/
theorem foldl_keep₂ {α β : Type} {P : State → Prop} {f : β × State → α → β × State}
    (h : ∀ s a, P s.2 → P (f s a).2) : ∀ (l : List α) (s : β × State), P s.2 → P (l.foldl f s).2
  | [], _, hs => hs
  | a :: l, s, hs => foldl_keep₂ h l (f s a) (h s a hs)

/-- A state that may be answered keeps the property. -/
def Maybe (P : State → Prop) (o : Option State) : Prop := ∀ t, o = some t → P t

/-- An answer that is named. -/
theorem let_maybe {P : State → Prop} {a : Option State} {Q : Option State → Prop} (ha : Maybe P a)
    (hf : ∀ t, Maybe P t → Q t) : (let t := a; Q t) := hf a ha

/-- A state that is named keeps what it is named for. -/
theorem let_keep {P Q : State → Prop} {a : State} (ha : P a) (hf : ∀ t, P t → Q t) : (let t := a; Q t) := hf a ha

/-- A pair with a state second that is named. -/
theorem let_keep₂ {α : Type} {P : State → Prop} {a : α × State} {Q : α × State → Prop} (ha : P a.2)
    (hf : ∀ t, P t.2 → Q t) : (let t := a; Q t) := hf a ha

/-- A pair with a state first that is named. -/
theorem let_keep₁ {α : Type} {P : State → Prop} {a : State × α} {Q : State × α → Prop} (ha : P a.1)
    (hf : ∀ t, P t.1 → Q t) : (let t := a; Q t) := hf a ha

/-- A function that is named: it is put in its place. -/
theorem let_function {α γ : Type} {a : α → γ} {Q : (α → γ) → Prop} (hf : Q a) : (let t := a; Q t) := hf

/-- A value that is named. -/
theorem let_any {α : Type} {a : α} {Q : α → Prop} (hf : ∀ t, Q t) : (let t := a; Q t) := hf a

/-- The state of a pair that has been taken apart. -/
theorem of_fst {α : Type} {P : State → Prop} {x : State × α} {a : State} {b : α} (e : x = (a, b)) (h : P x.1) : P a := by
  subst e; exact h

/-- The state of a pair that has been taken apart. -/
theorem of_snd {α : Type} {P : State → Prop} {x : α × State} {a : α} {b : State} (e : x = (a, b)) (h : P x.2) : P b := by
  subst e; exact h

theorem maybe_none {P : State → Prop} : Maybe P none := fun _ h => by cases h

theorem maybe_some {P : State → Prop} {s : State} (h : P s) : Maybe P (some s) := fun _ e => by cases e; exact h

theorem of_maybe {P : State → Prop} {o : Option State} {t : State} (e : o = some t) (h : Maybe P o) : P t := h t e

/-- A choice keeps what both sides keep. -/
theorem ite_keep {P : State → Prop} {c : Prop} [Decidable c] {a b : State} (ha : P a) (hb : P b) :
    P (if c then a else b) := by split <;> assumption

/-- A choice between answers. -/
theorem ite_maybe {P : State → Prop} {c : Prop} [Decidable c] {a b : Option State} (ha : Maybe P a) (hb : Maybe P b) :
    Maybe P (if c then a else b) := by split <;> assumption

/-- The first answer of a list. -/
theorem findSome_maybe {α : Type} {P : State → Prop} {f : α → Option State} (h : ∀ a, Maybe P (f a)) (l : List α) :
    Maybe P (l.findSome? f) := by
  induction l with
  | nil => exact maybe_none
  | cons a l ih =>
    rw [List.findSome?_cons]
    split
    · rename_i t e; exact maybe_some (h a t e)
    · exact ih

/-- Or-ing bits into a register loses none. -/
theorem getLsbD_or_of {w : Nat} {a b : BitVec w} {k : Nat} (h : a.getLsbD k = true) :
    (a ||| b).getLsbD k = true := by simp [h]

theorem memPutAll_wf {m : List Host.Cell} (l : List Host.Cell) (h : Memory.wf m = true) :
    Memory.wf (memPutAll m l) = true := by
  induction l generalizing m with
  | nil => exact h
  | cons c l ih => exact ih (Store.put_wf h)

/-- Bytes that land one after another are cells that are stored. -/
theorem State.land_cells (s : State) (m : List Host.Cell) (l : List (Nat × Byte)) :
    ∃ cells, s.land m l = memPutAll m cells := by
  unfold State.land
  generalize ([] : List Nat) = seen
  induction l generalizing m seen with
  | nil => exact ⟨[], rfl⟩
  | cons c l ih =>
    rw [List.foldl_cons]
    cases h : s.landing m seen c.1 c.2 with
    | none => exact ih m _
    | some q =>
      obtain ⟨cells, e⟩ := ih (memPut m q.1 q.2) (if s.poisonedAt c.1 then c.1 :: seen else seen)
      exact ⟨q :: cells, e⟩

end Sys2Proof.Machine
end

