-- ==== Sys2Proof/Laws/Crypto.lean ====
section
/-! SUPPORT. The lengths of what the cryptographic services give (18 R444, R451, R462, R463): hashes, output of the DRBG, keys and
signatures; and that little-endian bytes spell the number that they were made of.
-/

namespace Sys2Proof.Machine

@[simp] theorem leBytes_length (n v : Nat) : (leBytes n v).length = n := by
  induction n generalizing v with
  | zero => rfl
  | succ k ih => simp [leBytes, ih]

@[simp] theorem beBytes_length (n v : Nat) : (beBytes n v).length = n := by
  induction n generalizing v with
  | zero => rfl
  | succ k ih => simp [beBytes, ih]

theorem leNat_lt (l : List Byte) : leNat l < 256 ^ l.length := by
  induction l with
  | nil => simp [leNat]
  | cons b r ih =>
    have hb := b.isLt
    simp only [leNat, List.length_cons, Nat.pow_succ]
    omega

/-- Little-endian bytes of the number that a string spells are the string. -/
theorem leBytes_leNat (l : List Byte) : leBytes l.length (leNat l) = l := by
  induction l with
  | nil => rfl
  | cons b r ih =>
    have hb := b.isLt
    have h1 : (b.toNat + 256 * leNat r) / 256 = leNat r := by omega
    simp only [List.length_cons, leNat, leBytes, h1, ih, List.cons.injEq, and_true]
    apply BitVec.eq_of_toNat_eq
    simp only [BitVec.toNat_ofNat]
    omega

/-! ### SHAKE256 -/

@[simp] theorem keccakRound_length (a : List (BitVec 64)) (rc : BitVec 64) : (keccakRound a rc).length = 25 := by
  simp [keccakRound]

@[simp] theorem keccakF_length (a : List (BitVec 64)) : (keccakF a).length = 25 := by simp [keccakF, keccakConst]

theorem rateOf_length {a : List (BitVec 64)} (h : a.length = 25) : (rateOf a).length = 136 := by
  simp [rateOf, h]

theorem squeeze_length (k : Nat) {a : List (BitVec 64)} (h : a.length = 25) : (squeeze k a).length = k * 136 := by
  induction k generalizing a with
  | zero => simp [squeeze]
  | succ k ih => simp [squeeze, rateOf_length h, ih (keccakF_length a)]; omega

theorem absorb_length (a : List (BitVec 64)) (b : List Byte) : (absorb a b).length = 25 := by simp [absorb]

theorem absorb_all_length (f : Nat → List Byte) (l : List Nat) {a : List (BitVec 64)} (h : a.length = 25) :
    (l.foldl (fun a i => absorb a (f i)) a).length = 25 := by
  induction l generalizing a with
  | nil => exact h
  | cons i r ih => exact ih (absorb_length _ _)

@[simp] theorem shake_length (l : List Byte) (n : Nat) : (shake l n).length = n := by
  have h := squeeze_length (ceilDiv n rateBytes) (absorb_all_length
    (fun i => ((padded 0x1F#8 l).drop (rateBytes * i)).take rateBytes) (List.range ((padded 0x1F#8 l).length / rateBytes))
    (List.length_replicate (n := 25) (a := (0 : BitVec 64))))
  have : n ≤ ceilDiv n rateBytes * 136 := by simp only [ceilDiv, rateBytes]; omega
  simp only [shake, sponge, List.length_take, h]
  omega

/-! ### The DRBG (R451) -/

@[simp] theorem blockBytes_length (b : BitVec 128) : (blockBytes b).length = 16 := by simp [blockBytes]

theorem Drbg.request_length (d : Drbg) (n : Nat) : (d.request n).1.length = n := by
  have : n ≤ ceilDiv n 16 * 16 := by simp only [ceilDiv]; omega
  simp [Drbg.request]
  omega

/-- Generate requests give the bytes asked for. -/
theorem Drbg.requests_length (n : Nat) (d : Drbg) : (Drbg.requests (ceilDiv n 64) n d).1.length = n := by
  have general : ∀ (k n : Nat) (d : Drbg), n ≤ k * 64 → (Drbg.requests k n d).1.length = n := by
    intro k
    induction k with
    | zero => intro n d h; simp [Drbg.requests]; omega
    | succ k ih =>
      intro n d h
      simp only [Drbg.requests, List.length_append, Drbg.request_length, ih (n - 64) _ (by omega)]
      omega
  exact general _ n d (by simp only [ceilDiv]; omega)

/-! ### SLH-DSA (R462, R463) -/

@[simp] theorem SlhKey.hash_length (k : SlhKey) (x : Adrs) (m : List Byte) : (k.hash x m).length = 24 := by
  simp [SlhKey.hash, slhN]

@[simp] theorem SlhKey.secret_length (k : SlhKey) (x : Adrs) : (k.secret x).length = 24 := by simp [SlhKey.secret]

theorem SlhKey.chain_length (k : SlhKey) (x : Adrs) (n i : Nat) {v : List Byte} (h : v.length = 24) :
    (k.chain x n i v).length = 24 := by
  induction n generalizing i v with
  | zero => exact h
  | succ n ih => exact ih _ (k.hash_length _ _)

/-- A one-time signature is 24 bytes for each digit. -/
@[simp] theorem SlhKey.wots_length (k : SlhKey) (x : Adrs) (d : List Nat) :
    ((k.wots x d).map List.length).sum = 24 * d.length := by
  have h : (k.wots x d).map List.length = d.zipIdx.map (fun _ => 24) := by
    simp only [SlhKey.wots, List.map_map]
    exact List.map_congr_left (fun q _ => k.chain_length _ _ _ (k.secret_length _))
  simp [h, Nat.mul_comm]

@[simp] theorem SlhKey.node_length (k : SlhKey) (x : Adrs) (z i : Nat) : (k.node x z i).length = 24 := by
  cases z <;> simp [SlhKey.node, SlhKey.wotsPk]

@[simp] theorem SlhKey.forsNode_length (k : SlhKey) (x : Adrs) (z i : Nat) : (k.forsNode x z i).length = 24 := by
  cases z <;> simp [SlhKey.forsNode]

theorem wotsDigits_length (m : List Byte) : (wotsDigits m).length = 2 * m.length + 3 := by
  simp [wotsDigits]
  omega

theorem SlhKey.xmssSign_length (k : SlhKey) (x : Adrs) (leaf : Nat) {m : List Byte} (h : m.length = 24) :
    (k.xmssSign x leaf m).length = 24 * 54 := by
  simp [SlhKey.xmssSign, wotsDigits_length, h, slhHeight]

theorem SlhKey.htSign_length (k : SlhKey) (n j tree leaf : Nat) {m : List Byte} (h : m.length = 24) :
    (k.htSign n j tree leaf m).length = n * (24 * 54) := by
  induction n generalizing j tree leaf m with
  | zero => simp [SlhKey.htSign]
  | succ n ih =>
    simp only [SlhKey.htSign, List.length_append, k.xmssSign_length _ _ h, ih _ _ _ (k.node_length ..)]
    omega

theorem SlhKey.forsSign_length (k : SlhKey) (x : Adrs) (md : List Byte) :
    (k.forsSign x md).length = md.length * (24 * 9) := by
  simp [SlhKey.forsSign, List.length_flatMap, SlhKey.forsSecret, forsHeight]

/-- A signature of SLH-DSA-SHAKE-192f is 35,664 bytes long (R463). -/
theorem SlhKey.sign_length (k : SlhKey) (msg : List Byte) : (k.sign msg).length = 35664 := by
  simp [SlhKey.sign, SlhKey.forsSign_length, SlhKey.htSign_length, SlhKey.forsPk, slhN, slhLayers]

/-- The public key is 48 bytes long (R462). -/
theorem slhKey_public_length (seed : BitVec 576) : (slhKey seed).public.length = 48 := by
  simp [SlhKey.public, SlhKey.root, slhKey]

/-- The device ID is 32 bytes long (R462). -/
@[simp] theorem Sec.deviceId_length (x : Sec) : x.deviceId.length = 32 := by simp [Sec.deviceId]

/-- The device ID and the public key are 80 bytes. -/
theorem Sec.identityBytes_length (x : Sec) : x.identityBytes.length = 80 := by
  simp [Sec.identityBytes, Sec.slhKey, slhKey_public_length]

/-- Some 256-bit number is spelled by the device ID, so that a token can name the device. -/
theorem Sec.leBytes_deviceId (x : Sec) : leBytes 32 (BitVec.ofNat 256 (leNat x.deviceId)).toNat = x.deviceId := by
  have h := leNat_lt x.deviceId
  rw [Sec.deviceId_length] at h
  rw [BitVec.toNat_ofNat, Nat.mod_eq_of_lt (by omega)]
  have r := leBytes_leNat x.deviceId
  rwa [Sec.deviceId_length] at r

end Sys2Proof.Machine
end

