-- ==== Sys2Proof/Laws/KeepOps.lean ====
section
/-! SUPPORT. Every closed property is kept by the operations of Machine/Ops.lean.
-/

namespace Sys2Proof.Machine

set_option linter.all false

variable {P : State → Prop}

theorem State.setSpan_keep (C : Closed P) {s : State} (n : Nat) (x : Span) (hs : P s) :
    P (State.setSpan s n x) := by
  unfold State.setSpan
  repeat' (first
    | with_reducible assumption
    | with_reducible refine C.rest ?_)

theorem State.modSpan_keep (C : Closed P) {s : State} (n : Nat) (f : Span → Span) (hs : P s) :
    P (State.modSpan s n f) := by
  unfold State.modSpan
  repeat' (first
    | with_reducible assumption
    | with_reducible apply State.setSpan_keep C)

theorem State.modPier_keep (C : Closed P) {s : State} (n : Nat) (f : Pier → Pier) (hs : P s) :
    P (State.modPier s n f) := by
  unfold State.modPier
  repeat' (first
    | with_reducible assumption
    | with_reducible apply State.modSpan_keep C)

theorem State.modEng_keep (C : Closed P) {s : State} (n : Nat) (f : Engine → Engine) (hs : P s) :
    P (State.modEng s n f) := by
  unfold State.modEng
  repeat' (first
    | with_reducible assumption
    | with_reducible apply State.modSpan_keep C)

theorem State.setCtx_keep (C : Closed P) {s : State} (c : Nat) (x : Ctx) (hs : P s) :
    P (State.setCtx s c x) := by
  unfold State.setCtx
  repeat' (first
    | with_reducible assumption
    | with_reducible refine C.rest ?_)

theorem State.modCtx_keep (C : Closed P) {s : State} (c : Nat) (f : Ctx → Ctx) (hs : P s) :
    P (State.modCtx s c f) := by
  unfold State.modCtx
  repeat' (first
    | with_reducible assumption
    | with_reducible apply State.setCtx_keep C)

theorem State.setEvent_keep (C : Closed P) {s : State} (e : Nat) (x : Event) (hs : P s) :
    P (State.setEvent s e x) := by
  unfold State.setEvent
  repeat' (first
    | with_reducible assumption
    | with_reducible refine C.rest ?_)

theorem State.modMem_keep (C : Closed P) {s : State} (i : Nat) (f : MemIface → MemIface) (hs : P s) :
    P (State.modMem s i f) := by
  unfold State.modMem
  repeat' (first
    | with_reducible assumption
    | with_reducible refine C.rest ?_)

theorem State.modCxl_keep (C : Closed P) {s : State} (p : Nat) (f : CxlPort → CxlPort) (hs : P s) :
    P (State.modCxl s p f) := by
  unfold State.modCxl
  repeat' (first
    | with_reducible assumption
    | with_reducible refine C.rest ?_)

theorem State.modLink_keep (C : Closed P) {s : State} (l : Nat) (f : Link → Link) (hs : P s) :
    P (State.modLink s l f) := by
  unfold State.modLink
  repeat' (first
    | with_reducible assumption
    | with_reducible refine C.rest ?_)

theorem State.modBlock_keep (C : Closed P) {s : State} (b : BlockId) (f : FltIf → FltIf) (hs : P s) :
    P (State.modBlock s b f) := by
  unfold State.modBlock
  repeat' (first
    | with_reducible assumption
    | with_reducible refine C.rest ?_)

theorem State.withFlt_keep (C : Closed P) {s : State} (f : Flt) (hf : FenceOnly s.flt f) (hs : P s) :
    P (s.withFlt f) :=
  C.fence f hf hs

theorem State.setHerr_keep (C : Closed P) {s : State} (bit : Nat) (hs : P s) : P (s.setHerr bit) :=
  C.herr _ hs

theorem State.sendMsix_keep (C : Closed P) {s : State} (v : Nat) (hs : P s) : P (s.sendMsix v) := by
  unfold State.sendMsix
  split
  · exact C.sent _ hs
  · exact State.setHerr_keep C _ hs

theorem State.raiseVector_keep (C : Closed P) {s : State} (v : Nat) (hs : P s) : P (State.raiseVector v s) := by
  unfold State.raiseVector
  split
  · exact State.sendMsix_keep C _ hs
  · split
    · exact hs
    · exact C.pba _ hs

theorem State.sendPending_keep (C : Closed P) {s : State} (hs : P s) : P s.sendPending :=
  foldl_keep (fun _ _ h => State.sendMsix_keep C _ h) _ _ (C.pba _ hs)

theorem State.startEscalation_keep (C : Closed P) {s : State} (hs : P s) : P s.startEscalation := by
  unfold State.startEscalation
  split
  · rename_i h
    exact C.escalate h hs
  · exact hs

theorem State.enterRaise_keep (C : Closed P) {s : State} (b : BlockId) (k : Nat) (mandatory : Bool) (detail : Nat)
    (hs : P s) : P (s.enterRaise b k mandatory detail) := by
  unfold State.enterRaise
  dsimp -proj only
  have h1 : ∀ t, P t → P (if s.appliedSeverity b k = 3 then t.startEscalation else t) := by
    intro t ht
    split
    · exact State.startEscalation_keep C ht
    · exact ht
  apply h1
  have h2 : ∀ (c : Prop) [Decidable c] (t : State), P t →
      P (if c then t.withFlt { t.flt with quietFrom := t.now } else t) := by
    intro c _ t ht
    split
    · exact C.fence _ ⟨.same rfl rfl rfl rfl, rfl, rfl, rfl, rfl, rfl, rfl, rfl, rfl, rfl, rfl⟩ ht
    · exact ht
  apply h2
  have h3 : ∀ (c : Prop) [Decidable c] (v : Nat) (t : State), P t → P (if c then State.raiseVector v t else t) := by
    intro c _ v t ht
    split
    · exact State.raiseVector_keep C _ ht
    · exact ht
  apply h3
  apply h3
  exact State.modBlock_keep C _ _ hs

theorem State.drawWord_keep (C : Closed P) {s : State} (hs : P s) :
    P (State.drawWord s).2 := by
  unfold State.drawWord
  repeat' (first
    | with_reducible assumption
    | split
    | dsimp only
    | dsimp only
    | with_reducible refine C.rest ?_)

theorem State.drawBytes_keep (C : Closed P) {s : State} (n : Nat) (hs : P s) :
    P (State.drawBytes s n).2 := by
  unfold State.drawBytes
  repeat' (first
    | with_reducible assumption
    | split
    | dsimp only
    | dsimp only
    | with_reducible refine C.rest ?_)

theorem State.samples_keep (C : Closed P) {s : State} (n : Nat) (hs : P s) :
    P (State.samples s n).2 := by
  unfold State.samples
  repeat' (first
    | with_reducible assumption
    | split
    | dsimp only
    | with_reducible apply State.drawBytes_keep C
    | dsimp only
    | (with_reducible refine of_snd (by with_reducible assumption) ?_))

theorem State.generate_keep (C : Closed P) {s : State} (n : Nat) (hs : P s) : P (s.generate n).2 :=
  C.drbg _ _ hs

theorem State.wrapKey_keep (C : Closed P) {s : State} (slot : Nat) (plain : List Byte) (hs : P s) :
    P (State.wrapKey s slot plain).2 := by
  unfold State.wrapKey
  repeat' (first
    | with_reducible assumption
    | split
    | dsimp only
    | (extract_lets +onlyGivenNames _t; revert _t
       first
       | (with_reducible refine let_keep (P := P) ?_ (fun _ _ => ?_))
       | (with_reducible refine let_keep₂ (P := P) ?_ (fun _ _ => ?_))
       | (with_reducible refine let_keep₁ (P := P) ?_ (fun _ _ => ?_))
       | (with_reducible refine let_maybe (P := P) ?_ (fun _ _ => ?_))
       | (with_reducible refine let_function ?_)
       | (with_reducible refine let_any (fun _ => ?_)))
    | with_reducible apply State.generate_keep C
    | dsimp only
    | (with_reducible refine of_snd (by with_reducible assumption) ?_))

end Sys2Proof.Machine
end

