-- ==== Sys2Proof/Laws/KeepMemory.lean ====
section
/-! SUPPORT. Every closed property is kept by the operations of Machine/Memory.lean.
-/

namespace Sys2Proof.Machine

set_option linter.all false

variable {P : State → Prop}

theorem State.noteHostFail_keep (C : Closed P) {s : State} (write : Bool) (a n : Nat) (hs : P s) :
    P (s.noteHostFail write a n) := by
  unfold State.noteHostFail
  split
  · exact ite_keep (State.setHerr_keep C _ hs) hs
  · exact hs
  · exact hs

theorem State.noteRequest_keep (C : Closed P) {s : State} (write : Bool) (a n : Nat) (hs : P s) :
    P (s.noteRequest write a n) := by
  unfold State.noteRequest
  extract_lets host s1
  have h1 : P s1 := State.noteHostFail_keep C _ _ _ (ite_keep (State.setHerr_keep C _ hs) hs)
  clear_value s1 host
  split
  · split
    · exact h1
    · exact h1
    · exact C.rest h1
  · exact h1

theorem State.bumpPages_keep (C : Closed P) {s : State} (addrs : List Nat) (hs : P s) : P (s.bumpPages addrs) :=
  foldl_keep (fun _ _ h => State.modCxl_keep C _ _ h) _ _ hs

theorem State.bumpPages_mem (s : State) (addrs : List Nat) : (s.bumpPages addrs).mem = s.mem := by
  unfold State.bumpPages
  refine foldl_keep (P := fun t => t.mem = s.mem) (fun _ _ h => ?_) _ _ rfl
  exact h

theorem State.storeCells_keep (C : Closed P) {s : State} (l : List (Nat × Byte)) (hs : P s) : P (s.storeCells l) := by
  unfold State.storeCells
  dsimp -proj only
  have hm : ∀ (t : State), t.mem = s.mem → P t → ∀ m cells q, m = memPutAll s.mem cells →
      P { t with mem := m, poison := q } := by
    intro t ht hp m cells q e
    rw [e, ← ht]
    exact C.rest (C.mem cells hp)
  obtain ⟨cells, e⟩ := s.land_cells s.mem (l.filter (fun c => s.byteIo true c.1 = .ok))
  exact hm _ (State.bumpPages_mem s _) (State.bumpPages_keep C _ hs) _ cells _ e

theorem State.writeBytes_keep (C : Closed P) {s : State} (a : Nat) (l : List Byte) (hs : P s) :
    P (State.writeBytes s a l) := by
  unfold State.writeBytes
  repeat' (first
    | with_reducible assumption
    | with_reducible apply State.noteRequest_keep C
    | with_reducible apply State.storeCells_keep C)

theorem State.writeNat_keep (C : Closed P) {s : State} (a : Nat) (n : Nat) (v : Nat) (hs : P s) :
    P (State.writeNat s a n v) := by
  unfold State.writeNat
  repeat' (first
    | with_reducible assumption
    | with_reducible apply State.writeBytes_keep C)

theorem State.atomicAt_keep (C : Closed P) {s : State} (a : Nat) (w : Nat) (f : Nat → Nat) (hs : P s) :
    P (State.atomicAt s a w f).2 := by
  unfold State.atomicAt
  repeat' (first
    | with_reducible assumption
    | split
    | dsimp only
    | with_reducible apply State.noteRequest_keep C
    | with_reducible apply State.writeNat_keep C
    | dsimp only
    | split)

theorem State.dmaCopy_keep (C : Closed P) {s : State} (src dst n : Nat) (hs : P s) : P (s.dmaCopy src dst n).1 := by
  unfold State.dmaCopy
  extract_lets stop len idx poisoned made t cells
  have ht : P t := State.noteRequest_keep C _ _ _ (State.noteRequest_keep C _ _ _ hs)
  clear_value stop len idx poisoned made cells t
  exact State.storeCells_keep C _ ht

theorem State.spadWrite_keep (C : Closed P) {s : State} (n off : Nat) (l : List Byte) (hs : P s) :
    P (s.spadWrite n off l) :=
  C.rest (C.mem _ hs)

end Sys2Proof.Machine
end

