-- ==== Sys2Proof/Laws/KeepMesh.lean ====
section
/-! SUPPORT. Every closed property is kept by the operations of Machine/Mesh.lean.
-/

namespace Sys2Proof.Machine

set_option linter.all false

variable {P : State → Prop}

theorem State.countDrops_keep (C : Closed P) {s : State} (k : Nat) (hs : P s) :
    P (State.countDrops s k) := by
  unfold State.countDrops
  repeat' (first
    | with_reducible assumption
    | with_reducible refine C.rest ?_)

theorem State.injectFirst_keep (C : Closed P) {s : State} (n : Nat) (k : Nat) (hs : P s) :
    P (State.injectFirst s n k) := by
  unfold State.injectFirst
  repeat' (first
    | with_reducible assumption
    | (extract_lets +onlyGivenNames _t; revert _t
       first
       | (with_reducible refine let_keep (P := P) ?_ (fun _ _ => ?_))
       | (with_reducible refine let_keep₂ (P := P) ?_ (fun _ _ => ?_))
       | (with_reducible refine let_keep₁ (P := P) ?_ (fun _ _ => ?_))
       | (with_reducible refine let_maybe (P := P) ?_ (fun _ _ => ?_))
       | (with_reducible refine let_function ?_)
       | (with_reducible refine let_any (fun _ => ?_)))
    | with_reducible apply State.modEng_keep C
    | (with_reducible refine ite_keep ?_ ?_)
    | split
    | with_reducible refine C.rest ?_)

theorem State.injectFor_keep (C : Closed P) {s : State} (src : Nat) (n : Nat) (kind : Vc1Body → Bool) (pick : Nat → Bool) (hs : P s) :
    P (State.injectFor s src n kind pick) := by
  unfold State.injectFor
  repeat' (first
    | with_reducible assumption
    | with_reducible apply State.injectFirst_keep C
    | split)

theorem State.loseInside_keep (C : Closed P) {s : State} (r : Nat) (lost : List Nat) (hs : P s) :
    P (State.loseInside s r lost) := by
  unfold State.loseInside
  repeat' (first
    | with_reducible assumption
    | (extract_lets +onlyGivenNames _t; revert _t
       first
       | (with_reducible refine let_keep (P := P) ?_ (fun _ _ => ?_))
       | (with_reducible refine let_keep₂ (P := P) ?_ (fun _ _ => ?_))
       | (with_reducible refine let_keep₁ (P := P) ?_ (fun _ _ => ?_))
       | (with_reducible refine let_maybe (P := P) ?_ (fun _ _ => ?_))
       | (with_reducible refine let_function ?_)
       | (with_reducible refine let_any (fun _ => ?_)))
    | (with_reducible refine ite_keep ?_ ?_)
    | split
    | with_reducible refine C.rest ?_)

end Sys2Proof.Machine
end

