-- ==== Sys2Proof/Laws/KeepLaunch.lean ====
section
/-! SUPPORT. Every closed property is kept by the operations of Machine/Launch.lean.
-/

namespace Sys2Proof.Machine

set_option linter.all false

variable {P : State → Prop}

theorem State.modExec_keep (C : Closed P) {s : State} (c : Nat) (batch : Bool) (f : Exec → Exec) (hs : P s) :
    P (State.modExec s c batch f) := by
  unfold State.modExec
  repeat' (first
    | with_reducible assumption
    | with_reducible apply State.modCtx_keep C
    | (with_reducible refine ite_keep ?_ ?_)
    | split)

theorem State.finishExec_keep (C : Closed P) {s : State} (c : Nat) (batch : Bool) (status : Nat) (detail : Nat) (hs : P s) :
    P (State.finishExec s c batch status detail) := by
  unfold State.finishExec
  repeat' (first
    | with_reducible assumption
    | with_reducible apply State.modExec_keep C)

theorem State.modRun_keep (C : Closed P) {s : State} (q : Nat) (f : Run → Run) (hs : P s) :
    P (State.modRun s q f) := by
  unfold State.modRun
  repeat' (first
    | with_reducible assumption
    | (with_reducible refine ite_keep ?_ ?_)
    | split
    | with_reducible refine C.rest ?_)

theorem State.stopRun_keep (C : Closed P) {s : State} (q : Nat) (f : Stops → Stops) (hs : P s) :
    P (State.stopRun s q f) := by
  unfold State.stopRun
  repeat' (first
    | with_reducible assumption
    | with_reducible apply State.modRun_keep C)

theorem State.testWaits_keep (C : Closed P) {s : State} (e : Nat) (hs : P s) :
    P (State.testWaits s e) := by
  unfold State.testWaits
  repeat' (first
    | with_reducible assumption
    | (extract_lets +onlyGivenNames _t; revert _t
       first
       | (with_reducible refine let_keep (P := P) ?_ (fun _ _ => ?_))
       | (with_reducible refine let_keep₂ (P := P) ?_ (fun _ _ => ?_))
       | (with_reducible refine let_keep₁ (P := P) ?_ (fun _ _ => ?_))
       | (with_reducible refine let_maybe (P := P) ?_ (fun _ _ => ?_))
       | (with_reducible refine let_function ?_)
       | (with_reducible refine let_any (fun _ => ?_)))
    | with_reducible apply State.modPier_keep C
    | (with_reducible refine foldl_keep₁ (fun _ _ _ => ?_) _ _ ?_) <;> try beta_reduce
    | (with_reducible refine foldl_keep₂ (fun _ _ _ => ?_) _ _ ?_) <;> try beta_reduce
    | (with_reducible refine foldl_keep (fun _ _ _ => ?_) _ _ ?_) <;> try beta_reduce
    | split
    | dsimp only
    | with_reducible refine C.rest ?_)

theorem State.eventOp_keep (C : Closed P) {s : State} (e : Nat) (add : Bool) (value : Word) (error : Bool) (host : Bool) (hs : P s) :
    P (State.eventOp s e add value error host) := by
  unfold State.eventOp
  repeat' (first
    | with_reducible assumption
    | (extract_lets +onlyGivenNames _t; revert _t
       first
       | (with_reducible refine let_keep (P := P) ?_ (fun _ _ => ?_))
       | (with_reducible refine let_keep₂ (P := P) ?_ (fun _ _ => ?_))
       | (with_reducible refine let_keep₁ (P := P) ?_ (fun _ _ => ?_))
       | (with_reducible refine let_maybe (P := P) ?_ (fun _ _ => ?_))
       | (with_reducible refine let_function ?_)
       | (with_reducible refine let_any (fun _ => ?_)))
    | with_reducible apply State.setEvent_keep C
    | with_reducible apply State.raiseVector_keep C
    | with_reducible apply State.testWaits_keep C
    | (with_reducible refine ite_keep ?_ ?_)
    | split)

theorem State.sendLaunches_keep (C : Closed P) {s : State}  (x0 : Nat) (x1 : Nat) (hs : P s) :
    P (State.sendLaunches  x0 x1 s) := by
  induction x0 generalizing s x1 with
  | zero =>
    unfold State.sendLaunches
    repeat' (first
      | with_reducible assumption
      | with_reducible apply State.modPier_keep C
      | with_reducible apply State.modExec_keep C
      | (with_reducible refine ite_keep ?_ ?_)
      | split)
  | succ k ih =>
    unfold State.sendLaunches
    repeat' (first
      | with_reducible assumption
      | with_reducible apply State.modPier_keep C
      | with_reducible apply State.modExec_keep C
      | with_reducible apply ih
      | (with_reducible refine ite_keep ?_ ?_)
      | split)

theorem State.sendAllLaunches_keep (C : Closed P) {s : State} (hs : P s) :
    P (State.sendAllLaunches s) := by
  unfold State.sendAllLaunches
  repeat' (first
    | with_reducible assumption
    | with_reducible apply State.sendLaunches_keep C
    | (with_reducible refine foldl_keep₁ (fun _ _ _ => ?_) _ _ ?_) <;> try beta_reduce
    | (with_reducible refine foldl_keep₂ (fun _ _ _ => ?_) _ _ ?_) <;> try beta_reduce
    | (with_reducible refine foldl_keep (fun _ _ _ => ?_) _ _ ?_) <;> try beta_reduce
    | dsimp only)

theorem State.dispatch_keep (C : Closed P) {s : State} (c : Nat) (batch : Bool) (spans : List Nat) (l : Launch) (hs : P s) :
    P (State.dispatch s c batch spans l) := by
  unfold State.dispatch
  repeat' (first
    | with_reducible assumption
    | (extract_lets +onlyGivenNames _t; revert _t
       first
       | (with_reducible refine let_keep (P := P) ?_ (fun _ _ => ?_))
       | (with_reducible refine let_keep₂ (P := P) ?_ (fun _ _ => ?_))
       | (with_reducible refine let_keep₁ (P := P) ?_ (fun _ _ => ?_))
       | (with_reducible refine let_maybe (P := P) ?_ (fun _ _ => ?_))
       | (with_reducible refine let_function ?_)
       | (with_reducible refine let_any (fun _ => ?_)))
    | with_reducible apply State.modPier_keep C
    | with_reducible apply State.modCtx_keep C
    | with_reducible apply State.modExec_keep C
    | with_reducible apply State.sendAllLaunches_keep C
    | (with_reducible refine foldl_keep₁ (fun _ _ _ => ?_) _ _ ?_) <;> try beta_reduce
    | (with_reducible refine foldl_keep₂ (fun _ _ _ => ?_) _ _ ?_) <;> try beta_reduce
    | (with_reducible refine foldl_keep (fun _ _ _ => ?_) _ _ ?_) <;> try beta_reduce
    | (with_reducible refine ite_keep ?_ ?_)
    | split
    | dsimp only)

theorem State.dropQueued_keep (C : Closed P) {s : State} (c : Nat) (hs : P s) :
    P (State.dropQueued s c) := by
  unfold State.dropQueued
  repeat' (first
    | with_reducible assumption
    | with_reducible apply State.modPier_keep C
    | (with_reducible refine foldl_keep₁ (fun _ _ _ => ?_) _ _ ?_) <;> try beta_reduce
    | (with_reducible refine foldl_keep₂ (fun _ _ _ => ?_) _ _ ?_) <;> try beta_reduce
    | (with_reducible refine foldl_keep (fun _ _ _ => ?_) _ _ ?_) <;> try beta_reduce
    | (with_reducible refine ite_keep ?_ ?_)
    | split
    | dsimp only)

theorem State.performEvrecs_keep (C : Closed P) {s : State} (l : List InFlight) (hs : P s) :
    P (State.performEvrecs s l) := by
  unfold State.performEvrecs
  repeat' (first
    | with_reducible assumption
    | with_reducible apply State.eventOp_keep C
    | (with_reducible refine foldl_keep₁ (fun _ _ _ => ?_) _ _ ?_) <;> try beta_reduce
    | (with_reducible refine foldl_keep₂ (fun _ _ _ => ?_) _ _ ?_) <;> try beta_reduce
    | (with_reducible refine foldl_keep (fun _ _ _ => ?_) _ _ ?_) <;> try beta_reduce
    | split
    | dsimp only)

theorem State.endLaunch_keep (C : Closed P) {s : State} (n : Nat) (hs : P s) :
    P (State.endLaunch s n) := by
  unfold State.endLaunch
  repeat' (first
    | with_reducible assumption
    | (extract_lets +onlyGivenNames _t; revert _t
       first
       | (with_reducible refine let_keep (P := P) ?_ (fun _ _ => ?_))
       | (with_reducible refine let_keep₂ (P := P) ?_ (fun _ _ => ?_))
       | (with_reducible refine let_keep₁ (P := P) ?_ (fun _ _ => ?_))
       | (with_reducible refine let_maybe (P := P) ?_ (fun _ _ => ?_))
       | (with_reducible refine let_function ?_)
       | (with_reducible refine let_any (fun _ => ?_)))
    | with_reducible apply State.modSpan_keep C
    | with_reducible apply State.modPier_keep C
    | with_reducible apply State.raiseVector_keep C
    | with_reducible apply State.modExec_keep C
    | with_reducible apply State.stopRun_keep C
    | (with_reducible refine ite_keep ?_ ?_)
    | split)

theorem State.pierFault_keep (C : Closed P) {s : State} (n : Nat) (code : Nat) (pc : Nat) (hs : P s) :
    P (State.pierFault s n code pc) := by
  unfold State.pierFault
  repeat' (first
    | with_reducible assumption
    | (extract_lets +onlyGivenNames _t; revert _t
       first
       | (with_reducible refine let_keep (P := P) ?_ (fun _ _ => ?_))
       | (with_reducible refine let_keep₂ (P := P) ?_ (fun _ _ => ?_))
       | (with_reducible refine let_keep₁ (P := P) ?_ (fun _ _ => ?_))
       | (with_reducible refine let_maybe (P := P) ?_ (fun _ _ => ?_))
       | (with_reducible refine let_function ?_)
       | (with_reducible refine let_any (fun _ => ?_)))
    | with_reducible apply State.modPier_keep C
    | with_reducible apply State.stopRun_keep C
    | (with_reducible refine ite_keep ?_ ?_)
    | split)

theorem State.pierStop_keep (C : Closed P) {s : State} (n : Nat) (code : Nat) (owe : Bool) (hs : P s) :
    P (State.pierStop s n code owe) := by
  unfold State.pierStop
  repeat' (first
    | with_reducible assumption
    | (extract_lets +onlyGivenNames _t; revert _t
       first
       | (with_reducible refine let_keep (P := P) ?_ (fun _ _ => ?_))
       | (with_reducible refine let_keep₂ (P := P) ?_ (fun _ _ => ?_))
       | (with_reducible refine let_keep₁ (P := P) ?_ (fun _ _ => ?_))
       | (with_reducible refine let_maybe (P := P) ?_ (fun _ _ => ?_))
       | (with_reducible refine let_function ?_)
       | (with_reducible refine let_any (fun _ => ?_)))
    | with_reducible apply State.modPier_keep C
    | with_reducible apply State.modExec_keep C
    | (with_reducible refine ite_keep ?_ ?_)
    | split)

theorem State.answerBarrier_keep (C : Closed P) {s : State} (b : Barrier) (hs : P s) :
    P (State.answerBarrier s b) := by
  unfold State.answerBarrier
  repeat' (first
    | with_reducible assumption
    | (extract_lets +onlyGivenNames _t; revert _t
       first
       | (with_reducible refine let_keep (P := P) ?_ (fun _ _ => ?_))
       | (with_reducible refine let_keep₂ (P := P) ?_ (fun _ _ => ?_))
       | (with_reducible refine let_keep₁ (P := P) ?_ (fun _ _ => ?_))
       | (with_reducible refine let_maybe (P := P) ?_ (fun _ _ => ?_))
       | (with_reducible refine let_function ?_)
       | (with_reducible refine let_any (fun _ => ?_)))
    | with_reducible apply State.modPier_keep C
    | (with_reducible refine foldl_keep₁ (fun _ _ _ => ?_) _ _ ?_) <;> try beta_reduce
    | (with_reducible refine foldl_keep₂ (fun _ _ _ => ?_) _ _ ?_) <;> try beta_reduce
    | (with_reducible refine foldl_keep (fun _ _ _ => ?_) _ _ ?_) <;> try beta_reduce
    | (with_reducible refine ite_keep ?_ ?_)
    | split
    | dsimp only)

theorem State.barrierPass_keep (C : Closed P) {s : State} (hs : P s) :
    P (State.barrierPass s) := by
  unfold State.barrierPass
  repeat' (first
    | with_reducible assumption
    | (extract_lets +onlyGivenNames _t; revert _t
       first
       | (with_reducible refine let_keep (P := P) ?_ (fun _ _ => ?_))
       | (with_reducible refine let_keep₂ (P := P) ?_ (fun _ _ => ?_))
       | (with_reducible refine let_keep₁ (P := P) ?_ (fun _ _ => ?_))
       | (with_reducible refine let_maybe (P := P) ?_ (fun _ _ => ?_))
       | (with_reducible refine let_function ?_)
       | (with_reducible refine let_any (fun _ => ?_)))
    | with_reducible apply State.answerBarrier_keep C
    | (with_reducible refine foldl_keep₁ (fun _ _ _ => ?_) _ _ ?_) <;> try beta_reduce
    | (with_reducible refine foldl_keep₂ (fun _ _ _ => ?_) _ _ ?_) <;> try beta_reduce
    | (with_reducible refine foldl_keep (fun _ _ _ => ?_) _ _ ?_) <;> try beta_reduce
    | dsimp only
    | with_reducible refine C.rest ?_)

theorem State.retestPier_keep (C : Closed P) {s : State} (n : Nat) (hs : P s) :
    P (State.retestPier s n) := by
  unfold State.retestPier
  repeat' (first
    | with_reducible assumption
    | (extract_lets +onlyGivenNames _t; revert _t
       first
       | (with_reducible refine let_keep (P := P) ?_ (fun _ _ => ?_))
       | (with_reducible refine let_keep₂ (P := P) ?_ (fun _ _ => ?_))
       | (with_reducible refine let_keep₁ (P := P) ?_ (fun _ _ => ?_))
       | (with_reducible refine let_maybe (P := P) ?_ (fun _ _ => ?_))
       | (with_reducible refine let_function ?_)
       | (with_reducible refine let_any (fun _ => ?_)))
    | with_reducible apply State.modPier_keep C
    | with_reducible apply State.performEvrecs_keep C
    | with_reducible apply State.endLaunch_keep C
    | with_reducible apply State.pierFault_keep C
    | (with_reducible refine foldl_keep₁ (fun _ _ _ => ?_) _ _ ?_) <;> try beta_reduce
    | (with_reducible refine foldl_keep₂ (fun _ _ _ => ?_) _ _ ?_) <;> try beta_reduce
    | (with_reducible refine foldl_keep (fun _ _ _ => ?_) _ _ ?_) <;> try beta_reduce
    | (with_reducible refine ite_keep ?_ ?_)
    | split
    | dsimp only)

theorem State.quiesceFor_keep (C : Closed P) {s : State}  (x0 : Nat) (hs : P s) :
    P (State.quiesceFor  x0 s) := by
  induction x0 generalizing s with
  | zero =>
    unfold State.quiesceFor
    repeat' (first
      | with_reducible assumption
      | with_reducible apply State.barrierPass_keep C
      | with_reducible apply State.retestPier_keep C
      | (with_reducible refine foldl_keep₁ (fun _ _ _ => ?_) _ _ ?_) <;> try beta_reduce
      | (with_reducible refine foldl_keep₂ (fun _ _ _ => ?_) _ _ ?_) <;> try beta_reduce
      | (with_reducible refine foldl_keep (fun _ _ _ => ?_) _ _ ?_) <;> try beta_reduce
      | (with_reducible refine ite_keep ?_ ?_)
      | split
      | dsimp only)
  | succ k ih =>
    unfold State.quiesceFor
    repeat' (first
      | with_reducible assumption
      | with_reducible apply State.barrierPass_keep C
      | with_reducible apply State.retestPier_keep C
      | with_reducible apply ih
      | (with_reducible refine foldl_keep₁ (fun _ _ _ => ?_) _ _ ?_) <;> try beta_reduce
      | (with_reducible refine foldl_keep₂ (fun _ _ _ => ?_) _ _ ?_) <;> try beta_reduce
      | (with_reducible refine foldl_keep (fun _ _ _ => ?_) _ _ ?_) <;> try beta_reduce
      | (with_reducible refine ite_keep ?_ ?_)
      | split
      | dsimp only)

theorem State.quiesce_keep (C : Closed P) {s : State} (hs : P s) :
    P (State.quiesce s) := by
  unfold State.quiesce
  repeat' (first
    | with_reducible assumption
    | with_reducible apply State.quiesceFor_keep C)

end Sys2Proof.Machine
end

