-- ==== Sys2Proof/Laws/KeepContext.lean ====
section
/-! SUPPORT. Every closed property is kept by the operations of Machine/Context.lean.
-/

namespace Sys2Proof.Machine

set_option linter.all false

variable {P : State → Prop}

theorem State.capture_keep (C : Closed P) {s : State} (c : Nat) (i : CaptureInfo) (hs : P s) :
    P (State.capture s c i) := by
  unfold State.capture
  repeat' (first
    | with_reducible assumption
    | (extract_lets +onlyGivenNames _t; revert _t
       first
       | (with_reducible refine let_keep (P := P) ?_ (fun _ _ => ?_))
       | (with_reducible refine let_keep₂ (P := P) ?_ (fun _ _ => ?_))
       | (with_reducible refine let_keep₁ (P := P) ?_ (fun _ _ => ?_))
       | (with_reducible refine let_maybe (P := P) ?_ (fun _ _ => ?_))
       | (with_reducible refine let_function ?_)
       | (with_reducible refine let_any (fun _ => ?_)))
    | with_reducible apply State.modCtx_keep C
    | with_reducible apply State.writeBytes_keep C
    | (with_reducible refine ite_keep ?_ ?_)
    | split)

theorem State.setLastStatus_keep (C : Closed P) {s : State} (c : Nat) (status : Nat) (hs : P s) :
    P (State.setLastStatus s c status) := by
  unfold State.setLastStatus
  repeat' (first
    | with_reducible assumption
    | with_reducible apply State.modCtx_keep C)

theorem State.stopCtx_keep (C : Closed P) {s : State} (c : Nat) (hs : P s) :
    P (State.stopCtx s c) := by
  unfold State.stopCtx
  repeat' (first
    | with_reducible assumption
    | with_reducible apply State.modCtx_keep C
    | with_reducible apply State.raiseVector_keep C
    | split)

theorem State.writeEntry_keep (C : Closed P) {s : State} (c : Nat) (opcode : Nat) (flags : Nat) (info : CaptureInfo) (hs : P s) :
    P (State.writeEntry s c opcode flags info) := by
  unfold State.writeEntry
  repeat' (first
    | with_reducible assumption
    | (extract_lets +onlyGivenNames _t; revert _t
       first
       | (with_reducible refine let_keep (P := P) ?_ (fun _ _ => ?_))
       | (with_reducible refine let_keep₂ (P := P) ?_ (fun _ _ => ?_))
       | (with_reducible refine let_keep₁ (P := P) ?_ (fun _ _ => ?_))
       | (with_reducible refine let_maybe (P := P) ?_ (fun _ _ => ?_))
       | (with_reducible refine let_function ?_)
       | (with_reducible refine let_any (fun _ => ?_)))
    | with_reducible apply State.modCtx_keep C
    | with_reducible apply State.noteRequest_keep C
    | with_reducible apply State.writeBytes_keep C
    | with_reducible apply State.capture_keep C
    | with_reducible apply State.setLastStatus_keep C
    | with_reducible apply State.stopCtx_keep C
    | split)

theorem State.abortEvents_keep (C : Closed P) {s : State} (e : Exec) (performed : Bool) (hs : P s) :
    P (State.abortEvents s e performed) := by
  unfold State.abortEvents
  repeat' (first
    | with_reducible assumption
    | (extract_lets +onlyGivenNames _t; revert _t
       first
       | (with_reducible refine let_keep (P := P) ?_ (fun _ _ => ?_))
       | (with_reducible refine let_keep₂ (P := P) ?_ (fun _ _ => ?_))
       | (with_reducible refine let_keep₁ (P := P) ?_ (fun _ _ => ?_))
       | (with_reducible refine let_maybe (P := P) ?_ (fun _ _ => ?_))
       | (with_reducible refine let_function ?_)
       | (with_reducible refine let_any (fun _ => ?_)))
    | with_reducible apply State.eventOp_keep C
    | (with_reducible refine foldl_keep₁ (fun _ _ _ => ?_) _ _ ?_) <;> try beta_reduce
    | (with_reducible refine foldl_keep₂ (fun _ _ _ => ?_) _ _ ?_) <;> try beta_reduce
    | (with_reducible refine foldl_keep (fun _ _ _ => ?_) _ _ ?_) <;> try beta_reduce
    | (with_reducible refine ite_keep ?_ ?_)
    | split
    | dsimp only)

theorem State.completeWith_keep (C : Closed P) {s : State} (c : Nat) (e : Exec) (status : Nat) (detail : Nat) (hs : P s) :
    P (State.completeWith s c e status detail) := by
  unfold State.completeWith
  repeat' (first
    | with_reducible assumption
    | (extract_lets +onlyGivenNames _t; revert _t
       first
       | (with_reducible refine let_keep (P := P) ?_ (fun _ _ => ?_))
       | (with_reducible refine let_keep₂ (P := P) ?_ (fun _ _ => ?_))
       | (with_reducible refine let_keep₁ (P := P) ?_ (fun _ _ => ?_))
       | (with_reducible refine let_maybe (P := P) ?_ (fun _ _ => ?_))
       | (with_reducible refine let_function ?_)
       | (with_reducible refine let_any (fun _ => ?_)))
    | with_reducible apply State.modCtx_keep C
    | with_reducible apply State.raiseVector_keep C
    | with_reducible apply State.eventOp_keep C
    | with_reducible apply State.capture_keep C
    | with_reducible apply State.setLastStatus_keep C
    | with_reducible apply State.stopCtx_keep C
    | with_reducible apply State.writeEntry_keep C
    | (with_reducible refine ite_keep ?_ ?_)
    | split)

theorem State.slotFault_keep (C : Closed P) {s : State} (c : Nat) (status : Nat) (tag : Nat) (opcode : Nat) (detail : Nat) (slotAddr : Nat) (packet : List Byte) (hs : P s) :
    P (State.slotFault s c status tag opcode detail slotAddr packet) := by
  unfold State.slotFault
  repeat' (first
    | with_reducible assumption
    | (extract_lets +onlyGivenNames _t; revert _t
       first
       | (with_reducible refine let_keep (P := P) ?_ (fun _ _ => ?_))
       | (with_reducible refine let_keep₂ (P := P) ?_ (fun _ _ => ?_))
       | (with_reducible refine let_keep₁ (P := P) ?_ (fun _ _ => ?_))
       | (with_reducible refine let_maybe (P := P) ?_ (fun _ _ => ?_))
       | (with_reducible refine let_function ?_)
       | (with_reducible refine let_any (fun _ => ?_)))
    | with_reducible apply State.modCtx_keep C
    | with_reducible apply State.capture_keep C
    | with_reducible apply State.setLastStatus_keep C
    | with_reducible apply State.stopCtx_keep C
    | with_reducible apply State.writeEntry_keep C
    | (with_reducible refine ite_keep ?_ ?_)
    | split)

theorem State.flushHeld_keep (C : Closed P) {s : State} (c : Nat) (x0 : List HeldEntry) (hs : P s) :
    P (State.flushHeld c x0 s) := by
  induction x0 generalizing s with
  | nil =>
    unfold State.flushHeld
    repeat' (first
      | with_reducible assumption
      | with_reducible apply State.modCtx_keep C
      | with_reducible apply State.writeEntry_keep C
      | (with_reducible refine ite_keep ?_ ?_)
      | split)
  | cons _ _ ih =>
    unfold State.flushHeld
    repeat' (first
      | with_reducible assumption
      | with_reducible apply State.modCtx_keep C
      | with_reducible apply State.writeEntry_keep C
      | with_reducible apply ih
      | (with_reducible refine ite_keep ?_ ?_)
      | split)

theorem State.finishDestroy_keep (C : Closed P) {s : State} (c : Nat) (hs : P s) :
    P (State.finishDestroy s c) := by
  unfold State.finishDestroy
  repeat' (first
    | with_reducible assumption
    | (extract_lets +onlyGivenNames _t; revert _t
       first
       | (with_reducible refine let_keep (P := P) ?_ (fun _ _ => ?_))
       | (with_reducible refine let_keep₂ (P := P) ?_ (fun _ _ => ?_))
       | (with_reducible refine let_keep₁ (P := P) ?_ (fun _ _ => ?_))
       | (with_reducible refine let_maybe (P := P) ?_ (fun _ _ => ?_))
       | (with_reducible refine let_function ?_)
       | (with_reducible refine let_any (fun _ => ?_)))
    | with_reducible apply State.modCtx_keep C
    | with_reducible apply State.raiseVector_keep C
    | with_reducible apply State.writeEntry_keep C
    | (with_reducible refine ite_keep ?_ ?_)
    | split)

theorem State.stopPiersOf_keep (C : Closed P) {s : State} (c : Nat) (serial : Option Nat) (owe : Bool) (hs : P s) :
    P (State.stopPiersOf s c serial owe) := by
  unfold State.stopPiersOf
  repeat' (first
    | with_reducible assumption
    | with_reducible apply State.pierStop_keep C
    | (with_reducible refine foldl_keep₁ (fun _ _ _ => ?_) _ _ ?_) <;> try beta_reduce
    | (with_reducible refine foldl_keep₂ (fun _ _ _ => ?_) _ _ ?_) <;> try beta_reduce
    | (with_reducible refine foldl_keep (fun _ _ _ => ?_) _ _ ?_) <;> try beta_reduce
    | (with_reducible refine ite_keep ?_ ?_)
    | split
    | dsimp only)

end Sys2Proof.Machine
end

