-- ==== Sys2Proof/Laws/KeepOperands.lean ====
section
/-! SUPPORT. Every closed property is kept by the operations of Machine/Operands.lean.
-/

namespace Sys2Proof.Machine

set_option linter.all false

variable {P : State → Prop}

theorem State.spadCells_keep (C : Closed P) {s : State} (l : List (Nat × Byte)) (hs : P s) : P (s.spadCells l) :=
  C.rest (C.mem _ hs)

end Sys2Proof.Machine
end

