-- ==== Sys2Proof/Laws/KeepFlags.lean ====
section
/-! SUPPORT. Every closed property is kept by the operations of Machine/Flags.lean.
-/

namespace Sys2Proof.Machine

set_option linter.all false

variable {P : State → Prop}

theorem State.markSaturated_keep (C : Closed P) {s : State} (n : Nat) (hs : P s) :
    P (State.markSaturated s n) := by
  unfold State.markSaturated
  repeat' (first
    | with_reducible assumption
    | with_reducible apply State.modExec_keep C
    | split)

theorem State.tenFlag_keep (C : Closed P) {s : State} (n : Nat) (flag : Nat) (hs : P s) :
    P (State.tenFlag s n flag) := by
  unfold State.tenFlag
  repeat' (first
    | with_reducible assumption
    | (extract_lets +onlyGivenNames _t; revert _t
       first
       | (with_reducible refine let_keep (P := P) ?_ (fun _ _ => ?_))
       | (with_reducible refine let_keep₂ (P := P) ?_ (fun _ _ => ?_))
       | (with_reducible refine let_keep₁ (P := P) ?_ (fun _ _ => ?_))
       | (with_reducible refine let_maybe (P := P) ?_ (fun _ _ => ?_))
       | (with_reducible refine let_function ?_)
       | (with_reducible refine let_any (fun _ => ?_)))
    | with_reducible apply State.modSpan_keep C
    | with_reducible apply State.markSaturated_keep C
    | (with_reducible refine ite_keep ?_ ?_)
    | split)

theorem State.tenFlagIf_keep (C : Closed P) {s : State} (n : Nat) (flag : Nat) (c : Bool) (hs : P s) :
    P (State.tenFlagIf s n flag c) := by
  unfold State.tenFlagIf
  repeat' (first
    | with_reducible assumption
    | with_reducible apply State.tenFlag_keep C
    | (with_reducible refine ite_keep ?_ ?_)
    | split)

end Sys2Proof.Machine
end

