-- ==== Sys2Proof/Laws/KeepLinkBase.lean ====
section
/-! SUPPORT. Every closed property is kept by the operations of Machine/LinkBase.lean.
-/

namespace Sys2Proof.Machine

set_option linter.all false

variable {P : State → Prop}

theorem State.pumpLink_keep (C : Closed P) {s : State} (l : Nat) (hs : P s) :
    P (State.pumpLink s l) := by
  unfold State.pumpLink
  repeat' (first
    | with_reducible assumption
    | (extract_lets +onlyGivenNames _t; revert _t
       first
       | (with_reducible refine let_keep (P := P) ?_ (fun _ _ => ?_))
       | (with_reducible refine let_keep₂ (P := P) ?_ (fun _ _ => ?_))
       | (with_reducible refine let_keep₁ (P := P) ?_ (fun _ _ => ?_))
       | (with_reducible refine let_maybe (P := P) ?_ (fun _ _ => ?_))
       | (with_reducible refine let_function ?_)
       | (with_reducible refine let_any (fun _ => ?_)))
    | with_reducible apply State.modLink_keep C
    | (with_reducible refine ite_keep ?_ ?_)
    | split)

theorem State.queueFlit_keep (C : Closed P) {s : State} (l : Nat) (f : TxFlit) (hs : P s) :
    P (State.queueFlit s l f) := by
  unfold State.queueFlit
  repeat' (first
    | with_reducible assumption
    | (extract_lets +onlyGivenNames _t; revert _t
       first
       | (with_reducible refine let_keep (P := P) ?_ (fun _ _ => ?_))
       | (with_reducible refine let_keep₂ (P := P) ?_ (fun _ _ => ?_))
       | (with_reducible refine let_keep₁ (P := P) ?_ (fun _ _ => ?_))
       | (with_reducible refine let_maybe (P := P) ?_ (fun _ _ => ?_))
       | (with_reducible refine let_function ?_)
       | (with_reducible refine let_any (fun _ => ?_)))
    | with_reducible apply State.modLink_keep C
    | with_reducible apply State.pumpLink_keep C)

theorem State.sendNeighbour_keep (C : Closed P) {s : State} (l : Nat) (kind : Nat) (aux : Nat) (payload : List Byte) (hs : P s) :
    P (State.sendNeighbour s l kind aux payload) := by
  unfold State.sendNeighbour
  repeat' (first
    | with_reducible assumption
    | with_reducible apply State.queueFlit_keep C)

theorem State.takeDown_keep (C : Closed P) {s : State} (l : Nat) (cause : Nat) (st : Nat) (drop : Bool) (hs : P s) :
    P (State.takeDown s l cause st drop) := by
  unfold State.takeDown
  repeat' (first
    | with_reducible assumption
    | (extract_lets +onlyGivenNames _t; revert _t
       first
       | (with_reducible refine let_keep (P := P) ?_ (fun _ _ => ?_))
       | (with_reducible refine let_keep₂ (P := P) ?_ (fun _ _ => ?_))
       | (with_reducible refine let_keep₁ (P := P) ?_ (fun _ _ => ?_))
       | (with_reducible refine let_maybe (P := P) ?_ (fun _ _ => ?_))
       | (with_reducible refine let_function ?_)
       | (with_reducible refine let_any (fun _ => ?_)))
    | with_reducible apply State.modLink_keep C
    | with_reducible apply State.sendNeighbour_keep C
    | (with_reducible refine ite_keep ?_ ?_)
    | split)

theorem State.startTraining_keep (C : Closed P) {s : State} (l : Nat) (hs : P s) :
    P (State.startTraining s l) := by
  unfold State.startTraining
  repeat' (first
    | with_reducible assumption
    | (extract_lets +onlyGivenNames _t; revert _t
       first
       | (with_reducible refine let_keep (P := P) ?_ (fun _ _ => ?_))
       | (with_reducible refine let_keep₂ (P := P) ?_ (fun _ _ => ?_))
       | (with_reducible refine let_keep₁ (P := P) ?_ (fun _ _ => ?_))
       | (with_reducible refine let_maybe (P := P) ?_ (fun _ _ => ?_))
       | (with_reducible refine let_function ?_)
       | (with_reducible refine let_any (fun _ => ?_)))
    | with_reducible apply State.modLink_keep C)

theorem State.retrainTo_keep (C : Closed P) {s : State} (l : Nat) (width : Nat) (hs : P s) :
    P (State.retrainTo s l width) := by
  unfold State.retrainTo
  repeat' (first
    | with_reducible assumption
    | (extract_lets +onlyGivenNames _t; revert _t
       first
       | (with_reducible refine let_keep (P := P) ?_ (fun _ _ => ?_))
       | (with_reducible refine let_keep₂ (P := P) ?_ (fun _ _ => ?_))
       | (with_reducible refine let_keep₁ (P := P) ?_ (fun _ _ => ?_))
       | (with_reducible refine let_maybe (P := P) ?_ (fun _ _ => ?_))
       | (with_reducible refine let_function ?_)
       | (with_reducible refine let_any (fun _ => ?_)))
    | with_reducible apply State.modLink_keep C)

theorem State.loseLanes_keep (C : Closed P) {s : State} (l : Nat) (lanes : BitVec 8) (hs : P s) :
    P (State.loseLanes s l lanes).2 := by
  unfold State.loseLanes
  repeat' (first
    | with_reducible assumption
    | split
    | dsimp only
    | (extract_lets +onlyGivenNames _t; revert _t
       first
       | (with_reducible refine let_keep (P := P) ?_ (fun _ _ => ?_))
       | (with_reducible refine let_keep₂ (P := P) ?_ (fun _ _ => ?_))
       | (with_reducible refine let_keep₁ (P := P) ?_ (fun _ _ => ?_))
       | (with_reducible refine let_maybe (P := P) ?_ (fun _ _ => ?_))
       | (with_reducible refine let_function ?_)
       | (with_reducible refine let_any (fun _ => ?_)))
    | with_reducible apply State.modLink_keep C
    | with_reducible apply State.sendNeighbour_keep C
    | with_reducible apply State.takeDown_keep C
    | with_reducible apply State.retrainTo_keep C
    | dsimp only
    | (with_reducible refine ite_keep ?_ ?_)
    | split)

end Sys2Proof.Machine
end

