-- ==== Sys2Proof/Laws/KeepFence.lean ====
section
/-! SUPPORT. Every closed property is kept by the operations of Machine/Fence.lean.
-/

namespace Sys2Proof.Machine

set_option linter.all false

variable {P : State → Prop}

theorem State.notifyLost_keep (C : Closed P) {s : State} (id : Nat) (hs : P s) :
    P (State.notifyLost s id) := by
  unfold State.notifyLost
  repeat' (first
    | with_reducible assumption
    | with_reducible apply State.raiseVector_keep C
    | with_reducible refine C.rest ?_)

theorem State.modProblem_keep (C : Closed P) {s : State} (q : Nat) (f : Problem → Problem) (hs : P s) :
    P (State.modProblem s q f) := by
  unfold State.modProblem
  repeat' (first
    | with_reducible assumption
    | (with_reducible refine ite_keep ?_ ?_)
    | split
    | with_reducible refine C.rest ?_)

theorem State.freeProblem_keep (C : Closed P) {s : State} (id : Nat) (hs : P s) :
    P (State.freeProblem s id) := by
  unfold State.freeProblem
  repeat' (first
    | with_reducible assumption
    | with_reducible refine C.rest ?_)

theorem State.loseProblems_keep (C : Closed P) {s : State} (pick : Problem → Bool) (hs : P s) :
    P (State.loseProblems s pick) := by
  unfold State.loseProblems
  repeat' (first
    | with_reducible assumption
    | (extract_lets +onlyGivenNames _t; revert _t
       first
       | (with_reducible refine let_keep (P := P) ?_ (fun _ _ => ?_))
       | (with_reducible refine let_keep₂ (P := P) ?_ (fun _ _ => ?_))
       | (with_reducible refine let_keep₁ (P := P) ?_ (fun _ _ => ?_))
       | (with_reducible refine let_maybe (P := P) ?_ (fun _ _ => ?_))
       | (with_reducible refine let_function ?_)
       | (with_reducible refine let_any (fun _ => ?_)))
    | with_reducible apply State.stopRun_keep C
    | with_reducible apply State.notifyLost_keep C
    | (with_reducible refine foldl_keep₁ (fun _ _ _ => ?_) _ _ ?_) <;> try beta_reduce
    | (with_reducible refine foldl_keep₂ (fun _ _ _ => ?_) _ _ ?_) <;> try beta_reduce
    | (with_reducible refine foldl_keep (fun _ _ _ => ?_) _ _ ?_) <;> try beta_reduce
    | (with_reducible refine ite_keep ?_ ?_)
    | split
    | dsimp only
    | with_reducible refine C.rest ?_)

theorem State.stopCtxsIn_keep (C : Closed P) {s : State} (pick : Nat → Bool) (hs : P s) :
    P (State.stopCtxsIn s pick) := by
  unfold State.stopCtxsIn
  repeat' (first
    | with_reducible assumption
    | with_reducible apply State.setLastStatus_keep C
    | with_reducible apply State.stopCtx_keep C
    | (with_reducible refine foldl_keep₁ (fun _ _ _ => ?_) _ _ ?_) <;> try beta_reduce
    | (with_reducible refine foldl_keep₂ (fun _ _ _ => ?_) _ _ ?_) <;> try beta_reduce
    | (with_reducible refine foldl_keep (fun _ _ _ => ?_) _ _ ?_) <;> try beta_reduce
    | dsimp only)

theorem State.abandonCkpts_keep (C : Closed P) {s : State} (n : Nat) (hs : P s) :
    P (State.abandonCkpts s n) := by
  unfold State.abandonCkpts
  repeat' (first
    | with_reducible assumption
    | with_reducible refine C.rest ?_)

theorem State.replaceIdle_keep (C : Closed P) {s : State} (n : Nat) (hs : P s) :
    P (State.replaceIdle s n) := by
  unfold State.replaceIdle
  repeat' (first
    | with_reducible assumption
    | (extract_lets +onlyGivenNames _t; revert _t
       first
       | (with_reducible refine let_keep (P := P) ?_ (fun _ _ => ?_))
       | (with_reducible refine let_keep₂ (P := P) ?_ (fun _ _ => ?_))
       | (with_reducible refine let_keep₁ (P := P) ?_ (fun _ _ => ?_))
       | (with_reducible refine let_maybe (P := P) ?_ (fun _ _ => ?_))
       | (with_reducible refine let_function ?_)
       | (with_reducible refine let_any (fun _ => ?_)))
    | with_reducible apply State.notifyLost_keep C
    | with_reducible apply State.modProblem_keep C
    | with_reducible apply State.freeProblem_keep C
    | (with_reducible refine foldl_keep₁ (fun _ _ _ => ?_) _ _ ?_) <;> try beta_reduce
    | (with_reducible refine foldl_keep₂ (fun _ _ _ => ?_) _ _ ?_) <;> try beta_reduce
    | (with_reducible refine foldl_keep (fun _ _ _ => ?_) _ _ ?_) <;> try beta_reduce
    | (with_reducible refine ite_keep ?_ ?_)
    | split
    | dsimp only)

theorem State.refuseLaunches_keep (C : Closed P) {s : State} (n : Nat) (hs : P s) :
    P (State.refuseLaunches s n) := by
  unfold State.refuseLaunches
  repeat' (first
    | with_reducible assumption
    | (extract_lets +onlyGivenNames _t; revert _t
       first
       | (with_reducible refine let_keep (P := P) ?_ (fun _ _ => ?_))
       | (with_reducible refine let_keep₂ (P := P) ?_ (fun _ _ => ?_))
       | (with_reducible refine let_keep₁ (P := P) ?_ (fun _ _ => ?_))
       | (with_reducible refine let_maybe (P := P) ?_ (fun _ _ => ?_))
       | (with_reducible refine let_function ?_)
       | (with_reducible refine let_any (fun _ => ?_)))
    | with_reducible apply State.modPier_keep C
    | with_reducible apply State.modExec_keep C
    | (with_reducible refine foldl_keep₁ (fun _ _ _ => ?_) _ _ ?_) <;> try beta_reduce
    | (with_reducible refine foldl_keep₂ (fun _ _ _ => ?_) _ _ ?_) <;> try beta_reduce
    | (with_reducible refine foldl_keep (fun _ _ _ => ?_) _ _ ?_) <;> try beta_reduce
    | split
    | dsimp only)

theorem State.fenceSpan_keep (C : Closed P) {s : State} (n : Nat) (hs : P s) :
    P (State.fenceSpan n s) := by
  unfold State.fenceSpan
  repeat' (first
    | with_reducible assumption
    | (extract_lets +onlyGivenNames _t; revert _t
       first
       | (with_reducible refine let_keep (P := P) ?_ (fun _ _ => ?_))
       | (with_reducible refine let_keep₂ (P := P) ?_ (fun _ _ => ?_))
       | (with_reducible refine let_keep₁ (P := P) ?_ (fun _ _ => ?_))
       | (with_reducible refine let_maybe (P := P) ?_ (fun _ _ => ?_))
       | (with_reducible refine let_function ?_)
       | (with_reducible refine let_any (fun _ => ?_)))
    | with_reducible apply State.modSpan_keep C
    | with_reducible apply State.modPier_keep C
    | with_reducible apply State.modEng_keep C
    | with_reducible apply State.withFlt_keep C
    | with_reducible apply State.pierStop_keep C
    | with_reducible apply State.abandonCkpts_keep C
    | with_reducible apply State.replaceIdle_keep C
    | with_reducible apply State.refuseLaunches_keep C
    | (with_reducible refine ite_keep ?_ ?_)
    | split
    | (refine FenceOnly.mk (Grown.mk ?_ ?_ ?_ ?_) rfl rfl rfl rfl rfl rfl rfl rfl rfl rfl <;>
        first | exact fun _ h => h | exact fun _ h => getLsbD_or_of h)
    | with_reducible refine C.rest ?_)

theorem State.rebuildCopies_keep (C : Closed P) {s : State} (hs : P s) :
    P (State.rebuildCopies s) := by
  unfold State.rebuildCopies
  repeat' (first
    | with_reducible assumption
    | (extract_lets +onlyGivenNames _t; revert _t
       first
       | (with_reducible refine let_keep (P := P) ?_ (fun _ _ => ?_))
       | (with_reducible refine let_keep₂ (P := P) ?_ (fun _ _ => ?_))
       | (with_reducible refine let_keep₁ (P := P) ?_ (fun _ _ => ?_))
       | (with_reducible refine let_maybe (P := P) ?_ (fun _ _ => ?_))
       | (with_reducible refine let_function ?_)
       | (with_reducible refine let_any (fun _ => ?_)))
    | (with_reducible refine foldl_keep₁ (fun _ _ _ => ?_) _ _ ?_) <;> try beta_reduce
    | (with_reducible refine foldl_keep₂ (fun _ _ _ => ?_) _ _ ?_) <;> try beta_reduce
    | (with_reducible refine foldl_keep (fun _ _ _ => ?_) _ _ ?_) <;> try beta_reduce
    | (with_reducible refine ite_keep ?_ ?_)
    | split
    | dsimp only
    | with_reducible refine C.rest ?_)

theorem State.copiesRebuilt_keep (C : Closed P) {s : State} (hs : P s) :
    P (State.copiesRebuilt s) := by
  unfold State.copiesRebuilt
  repeat' (first
    | with_reducible assumption
    | with_reducible refine C.rest ?_)

theorem State.fenceMem_keep (C : Closed P) {s : State} (n : Nat) (hs : P s) :
    P (State.fenceMem n s) := by
  unfold State.fenceMem
  repeat' (first
    | with_reducible assumption
    | (extract_lets +onlyGivenNames _t; revert _t
       first
       | (with_reducible refine let_keep (P := P) ?_ (fun _ _ => ?_))
       | (with_reducible refine let_keep₂ (P := P) ?_ (fun _ _ => ?_))
       | (with_reducible refine let_keep₁ (P := P) ?_ (fun _ _ => ?_))
       | (with_reducible refine let_maybe (P := P) ?_ (fun _ _ => ?_))
       | (with_reducible refine let_function ?_)
       | (with_reducible refine let_any (fun _ => ?_)))
    | with_reducible apply State.withFlt_keep C
    | with_reducible apply State.loseProblems_keep C
    | with_reducible apply State.stopCtxsIn_keep C
    | with_reducible apply State.rebuildCopies_keep C
    | (with_reducible refine ite_keep ?_ ?_)
    | split
    | (refine FenceOnly.mk (Grown.mk ?_ ?_ ?_ ?_) rfl rfl rfl rfl rfl rfl rfl rfl rfl rfl <;>
        first | exact fun _ h => h | exact fun _ h => getLsbD_or_of h)
    | with_reducible refine C.rest ?_)

theorem State.fenceCxl_keep (C : Closed P) {s : State} (p : Nat) (hs : P s) :
    P (State.fenceCxl p s) := by
  unfold State.fenceCxl
  repeat' (first
    | with_reducible assumption
    | (extract_lets +onlyGivenNames _t; revert _t
       first
       | (with_reducible refine let_keep (P := P) ?_ (fun _ _ => ?_))
       | (with_reducible refine let_keep₂ (P := P) ?_ (fun _ _ => ?_))
       | (with_reducible refine let_keep₁ (P := P) ?_ (fun _ _ => ?_))
       | (with_reducible refine let_maybe (P := P) ?_ (fun _ _ => ?_))
       | (with_reducible refine let_function ?_)
       | (with_reducible refine let_any (fun _ => ?_)))
    | with_reducible apply State.withFlt_keep C
    | with_reducible apply State.loseProblems_keep C
    | with_reducible apply State.stopCtxsIn_keep C
    | (with_reducible refine ite_keep ?_ ?_)
    | split
    | (refine FenceOnly.mk (Grown.mk ?_ ?_ ?_ ?_) rfl rfl rfl rfl rfl rfl rfl rfl rfl rfl <;>
        first | exact fun _ h => h | exact fun _ h => getLsbD_or_of h)
    | with_reducible refine C.cxlPerst _ ?_
    | with_reducible refine C.rest ?_)

theorem State.fenceLink_keep (C : Closed P) {s : State} (l : Nat) (cause : Nat) (hs : P s) :
    P (State.fenceLink l cause s) := by
  unfold State.fenceLink
  repeat' (first
    | with_reducible assumption
    | (extract_lets +onlyGivenNames _t; revert _t
       first
       | (with_reducible refine let_keep (P := P) ?_ (fun _ _ => ?_))
       | (with_reducible refine let_keep₂ (P := P) ?_ (fun _ _ => ?_))
       | (with_reducible refine let_keep₁ (P := P) ?_ (fun _ _ => ?_))
       | (with_reducible refine let_maybe (P := P) ?_ (fun _ _ => ?_))
       | (with_reducible refine let_function ?_)
       | (with_reducible refine let_any (fun _ => ?_)))
    | with_reducible apply State.withFlt_keep C
    | with_reducible apply State.takeDown_keep C
    | (with_reducible refine ite_keep ?_ ?_)
    | split
    | (refine FenceOnly.mk (Grown.mk ?_ ?_ ?_ ?_) rfl rfl rfl rfl rfl rfl rfl rfl rfl rfl <;>
        first | exact fun _ h => h | exact fun _ h => getLsbD_or_of h)
    | with_reducible refine C.rest ?_)

theorem State.fenceLanes_keep (C : Closed P) {s : State} (l : Nat) (mask : Nat) (hs : P s) :
    P (State.fenceLanes l mask s) := by
  unfold State.fenceLanes
  repeat' (first
    | with_reducible assumption
    | (extract_lets +onlyGivenNames _t; revert _t
       first
       | (with_reducible refine let_keep (P := P) ?_ (fun _ _ => ?_))
       | (with_reducible refine let_keep₂ (P := P) ?_ (fun _ _ => ?_))
       | (with_reducible refine let_keep₁ (P := P) ?_ (fun _ _ => ?_))
       | (with_reducible refine let_maybe (P := P) ?_ (fun _ _ => ?_))
       | (with_reducible refine let_function ?_)
       | (with_reducible refine let_any (fun _ => ?_)))
    | with_reducible apply State.withFlt_keep C
    | with_reducible apply State.loseLanes_keep C
    | (with_reducible refine ite_keep ?_ ?_)
    | split
    | (with_reducible refine of_snd (by with_reducible assumption) ?_)
    | (refine FenceOnly.mk (Grown.mk ?_ ?_ ?_ ?_) rfl rfl rfl rfl rfl rfl rfl rfl rfl rfl <;>
        first | exact fun _ h => h | exact fun _ h => getLsbD_or_of h))

theorem State.fenceUnitOf_keep (C : Closed P) {s : State} (b : BlockId) (k : Nat) (detail : Nat) (hs : P s) :
    P (State.fenceUnitOf s b k detail) := by
  unfold State.fenceUnitOf
  repeat' (first
    | with_reducible assumption
    | with_reducible apply State.fenceSpan_keep C
    | with_reducible apply State.fenceMem_keep C
    | with_reducible apply State.fenceCxl_keep C
    | with_reducible apply State.fenceLink_keep C
    | with_reducible apply State.fenceLanes_keep C
    | (with_reducible refine ite_keep ?_ ?_)
    | split)

theorem State.raise_keep (C : Closed P) {s : State} (b : BlockId) (k : Nat) (detail : Nat) (hs : P s) :
    P (State.raise s b k detail) := by
  unfold State.raise
  repeat' (first
    | with_reducible assumption
    | (extract_lets +onlyGivenNames _t; revert _t
       first
       | (with_reducible refine let_keep (P := P) ?_ (fun _ _ => ?_))
       | (with_reducible refine let_keep₂ (P := P) ?_ (fun _ _ => ?_))
       | (with_reducible refine let_keep₁ (P := P) ?_ (fun _ _ => ?_))
       | (with_reducible refine let_maybe (P := P) ?_ (fun _ _ => ?_))
       | (with_reducible refine let_function ?_)
       | (with_reducible refine let_any (fun _ => ?_)))
    | with_reducible apply State.enterRaise_keep C
    | with_reducible apply State.fenceUnitOf_keep C
    | (with_reducible refine ite_keep ?_ ?_)
    | split)

theorem State.raiseMandatory_keep (C : Closed P) {s : State} (b : BlockId) (k : Nat) (detail : Nat) (hs : P s) :
    P (State.raiseMandatory s b k detail) := by
  unfold State.raiseMandatory
  repeat' (first
    | with_reducible assumption
    | with_reducible apply State.enterRaise_keep C
    | with_reducible apply State.fenceUnitOf_keep C)

theorem State.undoLoad_keep (C : Closed P) {s : State} (e : Exec) (hs : P s) :
    P (State.undoLoad s e) := by
  unfold State.undoLoad
  repeat' (first
    | with_reducible assumption
    | with_reducible apply State.freeProblem_keep C
    | (with_reducible refine ite_keep ?_ ?_)
    | split)

theorem State.completeCmd_keep (C : Closed P) {s : State} (c : Nat) (e : Exec) (status : Nat) (detail : Nat) (hs : P s) :
    P (State.completeCmd s c e status detail) := by
  unfold State.completeCmd
  repeat' (first
    | with_reducible assumption
    | (extract_lets +onlyGivenNames _t; revert _t
       first
       | (with_reducible refine let_keep (P := P) ?_ (fun _ _ => ?_))
       | (with_reducible refine let_keep₂ (P := P) ?_ (fun _ _ => ?_))
       | (with_reducible refine let_keep₁ (P := P) ?_ (fun _ _ => ?_))
       | (with_reducible refine let_maybe (P := P) ?_ (fun _ _ => ?_))
       | (with_reducible refine let_function ?_)
       | (with_reducible refine let_any (fun _ => ?_)))
    | with_reducible apply State.completeWith_keep C
    | with_reducible apply State.undoLoad_keep C
    | (with_reducible refine ite_keep ?_ ?_)
    | split
    | with_reducible refine C.rest ?_)

theorem State.faultExec_keep (C : Closed P) {s : State} (c : Nat) (batch : Bool) (hs : P s) :
    P (State.faultExec s c batch) := by
  unfold State.faultExec
  repeat' (first
    | with_reducible assumption
    | with_reducible apply State.modExec_keep C
    | with_reducible apply State.undoLoad_keep C
    | (with_reducible refine ite_keep ?_ ?_)
    | split)

theorem State.faultCtx_keep (C : Closed P) {s : State} (c : Nat) (hs : P s) :
    P (State.faultCtx s c) := by
  unfold State.faultCtx
  repeat' (first
    | with_reducible assumption
    | (extract_lets +onlyGivenNames _t; revert _t
       first
       | (with_reducible refine let_keep (P := P) ?_ (fun _ _ => ?_))
       | (with_reducible refine let_keep₂ (P := P) ?_ (fun _ _ => ?_))
       | (with_reducible refine let_keep₁ (P := P) ?_ (fun _ _ => ?_))
       | (with_reducible refine let_maybe (P := P) ?_ (fun _ _ => ?_))
       | (with_reducible refine let_function ?_)
       | (with_reducible refine let_any (fun _ => ?_)))
    | with_reducible apply State.modCtx_keep C
    | with_reducible apply State.dropQueued_keep C
    | with_reducible apply State.completeCmd_keep C
    | with_reducible apply State.faultExec_keep C
    | (with_reducible refine ite_keep ?_ ?_)
    | split)

theorem State.addPoison_keep (C : Closed P) {s : State} (k : Nat) (hs : P s) :
    P (State.addPoison s k) := by
  unfold State.addPoison
  repeat' (first
    | with_reducible assumption
    | (with_reducible refine ite_keep ?_ ?_)
    | split
    | with_reducible refine C.rest ?_)

theorem State.retrainMem_keep (C : Closed P) {s : State} (i : Nat) (holds : Bool) (hs : P s) :
    P (State.retrainMem s i holds) := by
  unfold State.retrainMem
  repeat' (first
    | with_reducible assumption
    | with_reducible apply State.modMem_keep C
    | with_reducible apply State.raise_keep C
    | (with_reducible refine ite_keep ?_ ?_)
    | split)

theorem State.raiseTimes_keep (C : Closed P) {s : State} (b : BlockId) (k : Nat) (detail : Nat) (x0 : Nat) (hs : P s) :
    P (State.raiseTimes s b k detail x0) := by
  induction x0 generalizing s with
  | zero =>
    unfold State.raiseTimes
    repeat' (first
      | with_reducible assumption
      | with_reducible apply State.raise_keep C
      | split)
  | succ k ih =>
    unfold State.raiseTimes
    repeat' (first
      | with_reducible assumption
      | with_reducible apply State.raise_keep C
      | with_reducible apply ih
      | split)

theorem State.memEvent_keep (C : Closed P) {s : State}  (x0 : MemEvent) (hs : P s) :
    P (State.memEvent s x0) := by
  unfold State.memEvent
  repeat' (first
    | with_reducible assumption
    | (extract_lets +onlyGivenNames _t; revert _t
       first
       | (with_reducible refine let_keep (P := P) ?_ (fun _ _ => ?_))
       | (with_reducible refine let_keep₂ (P := P) ?_ (fun _ _ => ?_))
       | (with_reducible refine let_keep₁ (P := P) ?_ (fun _ _ => ?_))
       | (with_reducible refine let_maybe (P := P) ?_ (fun _ _ => ?_))
       | (with_reducible refine let_function ?_)
       | (with_reducible refine let_any (fun _ => ?_)))
    | with_reducible apply State.modSpan_keep C
    | with_reducible apply State.modMem_keep C
    | with_reducible apply State.modCxl_keep C
    | with_reducible apply State.raise_keep C
    | with_reducible apply State.addPoison_keep C
    | with_reducible apply State.retrainMem_keep C
    | with_reducible apply State.raiseTimes_keep C
    | (with_reducible refine foldl_keep₁ (fun _ _ _ => ?_) _ _ ?_) <;> try beta_reduce
    | (with_reducible refine foldl_keep₂ (fun _ _ _ => ?_) _ _ ?_) <;> try beta_reduce
    | (with_reducible refine foldl_keep (fun _ _ _ => ?_) _ _ ?_) <;> try beta_reduce
    | (with_reducible refine ite_keep ?_ ?_)
    | split
    | dsimp only
    | with_reducible refine C.rest ?_)

theorem State.memEvents_keep (C : Closed P) {s : State} (l : List MemEvent) (hs : P s) :
    P (State.memEvents s l) := by
  unfold State.memEvents
  repeat' (first
    | with_reducible assumption
    | with_reducible apply State.memEvent_keep C
    | (with_reducible refine foldl_keep₁ (fun _ _ _ => ?_) _ _ ?_) <;> try beta_reduce
    | (with_reducible refine foldl_keep₂ (fun _ _ _ => ?_) _ _ ?_) <;> try beta_reduce
    | (with_reducible refine foldl_keep (fun _ _ _ => ?_) _ _ ?_) <;> try beta_reduce
    | dsimp only)

end Sys2Proof.Machine
end

