-- ==== Sys2Proof/Laws/KeepSysOut.lean ====
section
/-! SUPPORT. Every closed property is kept by the operations of Machine/SysOut.lean.
-/

namespace Sys2Proof.Machine

set_option linter.all false

variable {P : State → Prop}

theorem State.dropFlit_keep (C : Closed P) {s : State} (l : Nat) (hs : P s) :
    P (State.dropFlit s l) := by
  unfold State.dropFlit
  repeat' (first
    | with_reducible assumption
    | with_reducible apply State.modLink_keep C
    | with_reducible apply State.raise_keep C)

theorem State.routeFlit_keep (C : Closed P) {s : State} (f : TxFlit) (hs : P s) :
    P (State.routeFlit s f) := by
  unfold State.routeFlit
  repeat' (first
    | with_reducible assumption
    | (extract_lets +onlyGivenNames _t; revert _t
       first
       | (with_reducible refine let_keep (P := P) ?_ (fun _ _ => ?_))
       | (with_reducible refine let_keep₂ (P := P) ?_ (fun _ _ => ?_))
       | (with_reducible refine let_keep₁ (P := P) ?_ (fun _ _ => ?_))
       | (with_reducible refine let_maybe (P := P) ?_ (fun _ _ => ?_))
       | (with_reducible refine let_function ?_)
       | (with_reducible refine let_any (fun _ => ?_)))
    | with_reducible apply State.queueFlit_keep C
    | with_reducible apply State.dropFlit_keep C
    | (with_reducible refine ite_keep ?_ ?_)
    | split)

theorem State.sendTo_keep (C : Closed P) {s : State} (dst : Nat) (kind : Nat) (aux : Nat) (run : Nat) (payload : List Byte) (hs : P s) :
    P (State.sendTo s dst kind aux run payload) := by
  unfold State.sendTo
  repeat' (first
    | with_reducible assumption
    | with_reducible apply State.routeFlit_keep C)

theorem State.sendMarker_keep (C : Closed P) {s : State} (y : SysDesc) (part : Nat) (aux : Nat) (m : Marker) (hs : P s) :
    P (State.sendMarker s y part aux m) := by
  unfold State.sendMarker
  repeat' (first
    | with_reducible assumption
    | with_reducible apply State.sendTo_keep C)

theorem State.modSys_keep (C : Closed P) {s : State} (q : Nat) (f : SysRun → SysRun) (hs : P s) :
    P (State.modSys s q f) := by
  unfold State.modSys
  repeat' (first
    | with_reducible assumption
    | with_reducible apply State.modRun_keep C)

theorem State.noteEndEf_keep (C : Closed P) {s : State} (q : Nat) (run : Nat) (undo : Bool) (ef : Int) (hs : P s) :
    P (State.noteEndEf s q run undo ef) := by
  unfold State.noteEndEf
  repeat' (first
    | with_reducible assumption
    | with_reducible apply State.modSys_keep C)

theorem State.sendBatch_keep (C : Closed P) {s : State} (y : SysDesc) (part : Nat) (epoch : Nat) (initial : Bool) (undo : Bool) (seq : Nat) (seen : Nat) (ef : Int) (recs : List FlipRec) (hs : P s) :
    P (State.sendBatch s y part epoch initial undo seq seen ef recs) := by
  unfold State.sendBatch
  repeat' (first
    | with_reducible assumption
    | with_reducible apply State.sendTo_keep C)

theorem State.exportRecs_keep (C : Closed P) {s : State} (p : Problem) (r : Run) (n : Nat) (epoch : Nat) (undo : Bool) (recs : List FlipRec) (hs : P s) :
    P (State.exportRecs s p r n epoch undo recs) := by
  unfold State.exportRecs
  repeat' (first
    | with_reducible assumption
    | (extract_lets +onlyGivenNames _t; revert _t
       first
       | (with_reducible refine let_keep (P := P) ?_ (fun _ _ => ?_))
       | (with_reducible refine let_keep₂ (P := P) ?_ (fun _ _ => ?_))
       | (with_reducible refine let_keep₁ (P := P) ?_ (fun _ _ => ?_))
       | (with_reducible refine let_maybe (P := P) ?_ (fun _ _ => ?_))
       | (with_reducible refine let_function ?_)
       | (with_reducible refine let_any (fun _ => ?_)))
    | with_reducible apply State.modSys_keep C
    | with_reducible apply State.noteEndEf_keep C
    | (with_reducible refine ite_keep ?_ ?_)
    | split)

theorem State.sendRecs_keep (C : Closed P) {s : State} (y : SysDesc) (q : Nat) (part : Nat) (run : Nat) (undo : Bool) (seen : Nat) (ef : Int) (recs : List (Nat × FlipRec)) (hs : P s) :
    P (State.sendRecs s y q part run undo seen ef recs) := by
  unfold State.sendRecs
  repeat' (first
    | with_reducible assumption
    | (extract_lets +onlyGivenNames _t; revert _t
       first
       | (with_reducible refine let_keep (P := P) ?_ (fun _ _ => ?_))
       | (with_reducible refine let_keep₂ (P := P) ?_ (fun _ _ => ?_))
       | (with_reducible refine let_keep₁ (P := P) ?_ (fun _ _ => ?_))
       | (with_reducible refine let_maybe (P := P) ?_ (fun _ _ => ?_))
       | (with_reducible refine let_function ?_)
       | (with_reducible refine let_any (fun _ => ?_)))
    | with_reducible apply State.modEng_keep C
    | with_reducible apply State.modSys_keep C
    | with_reducible apply State.sendBatch_keep C
    | (with_reducible refine foldl_keep₁ (fun _ _ _ => ?_) _ _ ?_) <;> try beta_reduce
    | (with_reducible refine foldl_keep₂ (fun _ _ _ => ?_) _ _ ?_) <;> try beta_reduce
    | (with_reducible refine foldl_keep (fun _ _ _ => ?_) _ _ ?_) <;> try beta_reduce
    | (with_reducible refine ite_keep ?_ ?_)
    | split
    | dsimp only)

theorem State.sendOut_keep (C : Closed P) {s : State} (y : SysDesc) (r : Run) (x : SysRun) (run : Nat) (undo : Bool) (hs : P s) :
    P (State.sendOut s y r x run undo) := by
  unfold State.sendOut
  repeat' (first
    | with_reducible assumption
    | (extract_lets +onlyGivenNames _t; revert _t
       first
       | (with_reducible refine let_keep (P := P) ?_ (fun _ _ => ?_))
       | (with_reducible refine let_keep₂ (P := P) ?_ (fun _ _ => ?_))
       | (with_reducible refine let_keep₁ (P := P) ?_ (fun _ _ => ?_))
       | (with_reducible refine let_maybe (P := P) ?_ (fun _ _ => ?_))
       | (with_reducible refine let_function ?_)
       | (with_reducible refine let_any (fun _ => ?_)))
    | with_reducible apply State.modSys_keep C
    | with_reducible apply State.sendRecs_keep C
    | (with_reducible refine foldl_keep₁ (fun _ _ _ => ?_) _ _ ?_) <;> try beta_reduce
    | (with_reducible refine foldl_keep₂ (fun _ _ _ => ?_) _ _ ?_) <;> try beta_reduce
    | (with_reducible refine foldl_keep (fun _ _ _ => ?_) _ _ ?_) <;> try beta_reduce
    | (with_reducible refine ite_keep ?_ ?_)
    | split
    | dsimp only)

theorem State.sendSweepEnds_keep (C : Closed P) {s : State} (y : SysDesc) (r : Run) (x : SysRun) (hs : P s) :
    P (State.sendSweepEnds s y r x) := by
  unfold State.sendSweepEnds
  repeat' (first
    | with_reducible assumption
    | (extract_lets +onlyGivenNames _t; revert _t
       first
       | (with_reducible refine let_keep (P := P) ?_ (fun _ _ => ?_))
       | (with_reducible refine let_keep₂ (P := P) ?_ (fun _ _ => ?_))
       | (with_reducible refine let_keep₁ (P := P) ?_ (fun _ _ => ?_))
       | (with_reducible refine let_maybe (P := P) ?_ (fun _ _ => ?_))
       | (with_reducible refine let_function ?_)
       | (with_reducible refine let_any (fun _ => ?_)))
    | with_reducible apply State.sendMarker_keep C
    | (with_reducible refine foldl_keep₁ (fun _ _ _ => ?_) _ _ ?_) <;> try beta_reduce
    | (with_reducible refine foldl_keep₂ (fun _ _ _ => ?_) _ _ ?_) <;> try beta_reduce
    | (with_reducible refine foldl_keep (fun _ _ _ => ?_) _ _ ?_) <;> try beta_reduce
    | dsimp only)

theorem State.closeEpochs_keep (C : Closed P) {s : State} (p : Problem) (q : Nat) (x0 : Nat) (hs : P s) :
    P (State.closeEpochs p q x0 s) := by
  induction x0 generalizing s with
  | zero =>
    unfold State.closeEpochs
    repeat' (first
      | with_reducible assumption
      | (extract_lets +onlyGivenNames _t; revert _t
         first
         | (with_reducible refine let_keep (P := P) ?_ (fun _ _ => ?_))
         | (with_reducible refine let_keep₂ (P := P) ?_ (fun _ _ => ?_))
         | (with_reducible refine let_keep₁ (P := P) ?_ (fun _ _ => ?_))
         | (with_reducible refine let_maybe (P := P) ?_ (fun _ _ => ?_))
         | (with_reducible refine let_function ?_)
         | (with_reducible refine let_any (fun _ => ?_)))
      | with_reducible apply State.sendMarker_keep C
      | with_reducible apply State.modSys_keep C
      | with_reducible apply State.sendOut_keep C
      | with_reducible apply State.sendSweepEnds_keep C
      | (with_reducible refine foldl_keep₁ (fun _ _ _ => ?_) _ _ ?_) <;> try beta_reduce
      | (with_reducible refine foldl_keep₂ (fun _ _ _ => ?_) _ _ ?_) <;> try beta_reduce
      | (with_reducible refine foldl_keep (fun _ _ _ => ?_) _ _ ?_) <;> try beta_reduce
      | (with_reducible refine ite_keep ?_ ?_)
      | split
      | dsimp only)
  | succ k ih =>
    unfold State.closeEpochs
    repeat' (first
      | with_reducible assumption
      | (extract_lets +onlyGivenNames _t; revert _t
         first
         | (with_reducible refine let_keep (P := P) ?_ (fun _ _ => ?_))
         | (with_reducible refine let_keep₂ (P := P) ?_ (fun _ _ => ?_))
         | (with_reducible refine let_keep₁ (P := P) ?_ (fun _ _ => ?_))
         | (with_reducible refine let_maybe (P := P) ?_ (fun _ _ => ?_))
         | (with_reducible refine let_function ?_)
         | (with_reducible refine let_any (fun _ => ?_)))
      | with_reducible apply State.sendMarker_keep C
      | with_reducible apply State.modSys_keep C
      | with_reducible apply State.sendOut_keep C
      | with_reducible apply State.sendSweepEnds_keep C
      | with_reducible apply ih
      | (with_reducible refine foldl_keep₁ (fun _ _ _ => ?_) _ _ ?_) <;> try beta_reduce
      | (with_reducible refine foldl_keep₂ (fun _ _ _ => ?_) _ _ ?_) <;> try beta_reduce
      | (with_reducible refine foldl_keep (fun _ _ _ => ?_) _ _ ?_) <;> try beta_reduce
      | (with_reducible refine ite_keep ?_ ?_)
      | split
      | dsimp only)

theorem State.closeUndo_keep (C : Closed P) {s : State} (p : Problem) (q : Nat) (last : Nat) (hs : P s) :
    P (State.closeUndo s p q last) := by
  unfold State.closeUndo
  repeat' (first
    | with_reducible assumption
    | (extract_lets +onlyGivenNames _t; revert _t
       first
       | (with_reducible refine let_keep (P := P) ?_ (fun _ _ => ?_))
       | (with_reducible refine let_keep₂ (P := P) ?_ (fun _ _ => ?_))
       | (with_reducible refine let_keep₁ (P := P) ?_ (fun _ _ => ?_))
       | (with_reducible refine let_maybe (P := P) ?_ (fun _ _ => ?_))
       | (with_reducible refine let_function ?_)
       | (with_reducible refine let_any (fun _ => ?_)))
    | with_reducible apply State.sendMarker_keep C
    | with_reducible apply State.modSys_keep C
    | with_reducible apply State.sendOut_keep C
    | (with_reducible refine foldl_keep₁ (fun _ _ _ => ?_) _ _ ?_) <;> try beta_reduce
    | (with_reducible refine foldl_keep₂ (fun _ _ _ => ?_) _ _ ?_) <;> try beta_reduce
    | (with_reducible refine foldl_keep (fun _ _ _ => ?_) _ _ ?_) <;> try beta_reduce
    | (with_reducible refine ite_keep ?_ ?_)
    | split
    | dsimp only)

end Sys2Proof.Machine
end

