-- ==== Sys2Proof/Laws/KeepRunCore.lean ====
section
/-! SUPPORT. Every closed property is kept by the operations of Machine/RunCore.lean.
-/

namespace Sys2Proof.Machine

set_option linter.all false

variable {P : State → Prop}

theorem State.commitFar_keep (C : Closed P) {s : State} (r : Run) (n : Nat) (hs : P s) :
    P (State.commitFar s r n) := by
  unfold State.commitFar
  repeat' (first
    | with_reducible assumption
    | (extract_lets +onlyGivenNames _t; revert _t
       first
       | (with_reducible refine let_keep (P := P) ?_ (fun _ _ => ?_))
       | (with_reducible refine let_keep₂ (P := P) ?_ (fun _ _ => ?_))
       | (with_reducible refine let_keep₁ (P := P) ?_ (fun _ _ => ?_))
       | (with_reducible refine let_maybe (P := P) ?_ (fun _ _ => ?_))
       | (with_reducible refine let_function ?_)
       | (with_reducible refine let_any (fun _ => ?_)))
    | with_reducible apply State.modSpan_keep C
    | with_reducible apply State.modEng_keep C
    | (with_reducible refine foldl_keep₁ (fun _ _ _ => ?_) _ _ ?_) <;> try beta_reduce
    | (with_reducible refine foldl_keep₂ (fun _ _ _ => ?_) _ _ ?_) <;> try beta_reduce
    | (with_reducible refine foldl_keep (fun _ _ _ => ?_) _ _ ?_) <;> try beta_reduce
    | (with_reducible refine ite_keep ?_ ?_)
    | split
    | dsimp only)

theorem State.noteDeadline_keep (C : Closed P) {s : State} (q : Nat) (hs : P s) :
    P (State.noteDeadline s q) := by
  unfold State.noteDeadline
  repeat' (first
    | with_reducible assumption
    | (extract_lets +onlyGivenNames _t; revert _t
       first
       | (with_reducible refine let_keep (P := P) ?_ (fun _ _ => ?_))
       | (with_reducible refine let_keep₂ (P := P) ?_ (fun _ _ => ?_))
       | (with_reducible refine let_keep₁ (P := P) ?_ (fun _ _ => ?_))
       | (with_reducible refine let_maybe (P := P) ?_ (fun _ _ => ?_))
       | (with_reducible refine let_function ?_)
       | (with_reducible refine let_any (fun _ => ?_)))
    | with_reducible apply State.modRun_keep C
    | (with_reducible refine ite_keep ?_ ?_)
    | split)

theorem State.takeStops_keep (C : Closed P) {s : State} (q : Nat) (hs : P s) :
    P (State.takeStops s q) := by
  unfold State.takeStops
  repeat' (first
    | with_reducible assumption
    | (extract_lets +onlyGivenNames _t; revert _t
       first
       | (with_reducible refine let_keep (P := P) ?_ (fun _ _ => ?_))
       | (with_reducible refine let_keep₂ (P := P) ?_ (fun _ _ => ?_))
       | (with_reducible refine let_keep₁ (P := P) ?_ (fun _ _ => ?_))
       | (with_reducible refine let_maybe (P := P) ?_ (fun _ _ => ?_))
       | (with_reducible refine let_function ?_)
       | (with_reducible refine let_any (fun _ => ?_)))
    | with_reducible apply State.modRun_keep C)

theorem State.sendEpoch_keep (C : Closed P) {s : State} (p : Problem) (r : Run) (n : Nat) (epoch : Nat) (undo : Bool) (recs : List FlipRec) (limit : Bool) (hs : P s) :
    P (State.sendEpoch s p r n epoch undo recs limit) := by
  unfold State.sendEpoch
  repeat' (first
    | with_reducible assumption
    | (extract_lets +onlyGivenNames _t; revert _t
       first
       | (with_reducible refine let_keep (P := P) ?_ (fun _ _ => ?_))
       | (with_reducible refine let_keep₂ (P := P) ?_ (fun _ _ => ?_))
       | (with_reducible refine let_keep₁ (P := P) ?_ (fun _ _ => ?_))
       | (with_reducible refine let_maybe (P := P) ?_ (fun _ _ => ?_))
       | (with_reducible refine let_function ?_)
       | (with_reducible refine let_any (fun _ => ?_)))
    | with_reducible apply State.modEng_keep C
    | with_reducible apply State.exportRecs_keep C
    | with_reducible apply State.closeEpochs_keep C
    | (with_reducible refine ite_keep ?_ ?_)
    | split)

theorem State.noteGhosts_keep (C : Closed P) {s : State} (p : Problem) (n : Nat) (due : List DueRec) (hs : P s) :
    P (State.noteGhosts s p n due) := by
  unfold State.noteGhosts
  repeat' (first
    | with_reducible assumption
    | with_reducible apply State.modEng_keep C
    | (with_reducible refine foldl_keep₁ (fun _ _ _ => ?_) _ _ ?_) <;> try beta_reduce
    | (with_reducible refine foldl_keep₂ (fun _ _ _ => ?_) _ _ ?_) <;> try beta_reduce
    | (with_reducible refine foldl_keep (fun _ _ _ => ?_) _ _ ?_) <;> try beta_reduce
    | (with_reducible refine ite_keep ?_ ?_)
    | split
    | dsimp only)

theorem State.adoptEf_keep (C : Closed P) {s : State} (p : Problem) (r : Run) (n : Nat) (ef : Int) (hs : P s) :
    P (State.adoptEf s p r n ef) := by
  unfold State.adoptEf
  repeat' (first
    | with_reducible assumption
    | (extract_lets +onlyGivenNames _t; revert _t
       first
       | (with_reducible refine let_keep (P := P) ?_ (fun _ _ => ?_))
       | (with_reducible refine let_keep₂ (P := P) ?_ (fun _ _ => ?_))
       | (with_reducible refine let_keep₁ (P := P) ?_ (fun _ _ => ?_))
       | (with_reducible refine let_maybe (P := P) ?_ (fun _ _ => ?_))
       | (with_reducible refine let_function ?_)
       | (with_reducible refine let_any (fun _ => ?_)))
    | with_reducible apply State.modEng_keep C
    | (with_reducible refine ite_keep ?_ ?_)
    | split)

theorem State.adoptEzOf_keep (C : Closed P) {s : State} (p : Problem) (n : Nat) (ez : Store Int) (hs : P s) :
    P (State.adoptEzOf s p n ez) := by
  unfold State.adoptEzOf
  repeat' (first
    | with_reducible assumption
    | with_reducible apply State.modEng_keep C)

theorem State.shadowRecs_keep (C : Closed P) {s : State} (r : Run) (n : Nat) (due : List DueRec) (hs : P s) :
    P (State.shadowRecs s r n due) := by
  unfold State.shadowRecs
  repeat' (first
    | with_reducible assumption
    | (extract_lets +onlyGivenNames _t; revert _t
       first
       | (with_reducible refine let_keep (P := P) ?_ (fun _ _ => ?_))
       | (with_reducible refine let_keep₂ (P := P) ?_ (fun _ _ => ?_))
       | (with_reducible refine let_keep₁ (P := P) ?_ (fun _ _ => ?_))
       | (with_reducible refine let_maybe (P := P) ?_ (fun _ _ => ?_))
       | (with_reducible refine let_function ?_)
       | (with_reducible refine let_any (fun _ => ?_)))
    | with_reducible apply State.modSpan_keep C
    | (with_reducible refine foldl_keep₁ (fun _ _ _ => ?_) _ _ ?_) <;> try beta_reduce
    | (with_reducible refine foldl_keep₂ (fun _ _ _ => ?_) _ _ ?_) <;> try beta_reduce
    | (with_reducible refine foldl_keep (fun _ _ _ => ?_) _ _ ?_) <;> try beta_reduce
    | (with_reducible refine ite_keep ?_ ?_)
    | split
    | dsimp only)

theorem State.endEpoch_keep (C : Closed P) {s : State} (p : Problem) (r : Run) (n : Nat) (hs : P s) :
    P (State.endEpoch s p r n) := by
  unfold State.endEpoch
  repeat' (first
    | with_reducible assumption
    | (extract_lets +onlyGivenNames _t; revert _t
       first
       | (with_reducible refine let_keep (P := P) ?_ (fun _ _ => ?_))
       | (with_reducible refine let_keep₂ (P := P) ?_ (fun _ _ => ?_))
       | (with_reducible refine let_keep₁ (P := P) ?_ (fun _ _ => ?_))
       | (with_reducible refine let_maybe (P := P) ?_ (fun _ _ => ?_))
       | (with_reducible refine let_function ?_)
       | (with_reducible refine let_any (fun _ => ?_)))
    | with_reducible apply State.modEng_keep C
    | with_reducible apply State.sendEpoch_keep C)

theorem State.endEpochIfDone_keep (C : Closed P) {s : State} (p : Problem) (r : Run) (n : Nat) (hs : P s) :
    P (State.endEpochIfDone s p r n) := by
  unfold State.endEpochIfDone
  repeat' (first
    | with_reducible assumption
    | (extract_lets +onlyGivenNames _t; revert _t
       first
       | (with_reducible refine let_keep (P := P) ?_ (fun _ _ => ?_))
       | (with_reducible refine let_keep₂ (P := P) ?_ (fun _ _ => ?_))
       | (with_reducible refine let_keep₁ (P := P) ?_ (fun _ _ => ?_))
       | (with_reducible refine let_maybe (P := P) ?_ (fun _ _ => ?_))
       | (with_reducible refine let_function ?_)
       | (with_reducible refine let_any (fun _ => ?_)))
    | with_reducible apply State.endEpoch_keep C
    | (with_reducible refine ite_keep ?_ ?_)
    | split)

theorem State.endWork_keep (C : Closed P) {s : State} (n : Nat) (hs : P s) :
    P (State.endWork s n) := by
  unfold State.endWork
  repeat' (first
    | with_reducible assumption
    | with_reducible apply State.modEng_keep C)

theorem State.endLimit_keep (C : Closed P) {s : State} (p : Problem) (r : Run) (n : Nat) (hs : P s) :
    P (State.endLimit s p r n) := by
  unfold State.endLimit
  repeat' (first
    | with_reducible assumption
    | (extract_lets +onlyGivenNames _t; revert _t
       first
       | (with_reducible refine let_keep (P := P) ?_ (fun _ _ => ?_))
       | (with_reducible refine let_keep₂ (P := P) ?_ (fun _ _ => ?_))
       | (with_reducible refine let_keep₁ (P := P) ?_ (fun _ _ => ?_))
       | (with_reducible refine let_maybe (P := P) ?_ (fun _ _ => ?_))
       | (with_reducible refine let_function ?_)
       | (with_reducible refine let_any (fun _ => ?_)))
    | with_reducible apply State.modEng_keep C
    | with_reducible apply State.stopRun_keep C
    | with_reducible apply State.sendEpoch_keep C
    | with_reducible apply State.endWork_keep C
    | (with_reducible refine ite_keep ?_ ?_)
    | split)

theorem State.stopSpan_keep (C : Closed P) {s : State} (p : Problem) (r : Run) (n : Nat) (hs : P s) :
    P (State.stopSpan s p r n) := by
  unfold State.stopSpan
  repeat' (first
    | with_reducible assumption
    | (extract_lets +onlyGivenNames _t; revert _t
       first
       | (with_reducible refine let_keep (P := P) ?_ (fun _ _ => ?_))
       | (with_reducible refine let_keep₂ (P := P) ?_ (fun _ _ => ?_))
       | (with_reducible refine let_keep₁ (P := P) ?_ (fun _ _ => ?_))
       | (with_reducible refine let_maybe (P := P) ?_ (fun _ _ => ?_))
       | (with_reducible refine let_function ?_)
       | (with_reducible refine let_any (fun _ => ?_)))
    | with_reducible apply State.modEng_keep C
    | with_reducible apply State.takeStops_keep C
    | with_reducible apply State.sendEpoch_keep C
    | (with_reducible refine ite_keep ?_ ?_)
    | split)

theorem State.noteBlockEnd_keep (C : Closed P) {s : State} (q : Nat) (hs : P s) :
    P (State.noteBlockEnd s q) := by
  unfold State.noteBlockEnd
  repeat' (first
    | with_reducible assumption
    | with_reducible apply State.modRun_keep C)

theorem State.loadTile_keep (C : Closed P) {s : State} (p : Problem) (n : Nat) (b : BlockRow) (hs : P s) :
    P (State.loadTile s p n b) := by
  unfold State.loadTile
  repeat' (first
    | with_reducible assumption
    | (extract_lets +onlyGivenNames _t; revert _t
       first
       | (with_reducible refine let_keep (P := P) ?_ (fun _ _ => ?_))
       | (with_reducible refine let_keep₂ (P := P) ?_ (fun _ _ => ?_))
       | (with_reducible refine let_keep₁ (P := P) ?_ (fun _ _ => ?_))
       | (with_reducible refine let_maybe (P := P) ?_ (fun _ _ => ?_))
       | (with_reducible refine let_function ?_)
       | (with_reducible refine let_any (fun _ => ?_)))
    | with_reducible apply State.modSpan_keep C
    | (with_reducible refine ite_keep ?_ ?_)
    | split)

theorem State.afterBlock_keep (C : Closed P) {s : State} (p : Problem) (r : Run) (n : Nat) (b : BlockRow) (start : SpanData) (ef : Int) (w : Work) (rest : List Nat) (recs : List FlipRec) (hs : P s) :
    P (State.afterBlock s p r n b start ef w rest recs) := by
  unfold State.afterBlock
  repeat' (first
    | with_reducible assumption
    | (extract_lets +onlyGivenNames _t; revert _t
       first
       | (with_reducible refine let_keep (P := P) ?_ (fun _ _ => ?_))
       | (with_reducible refine let_keep₂ (P := P) ?_ (fun _ _ => ?_))
       | (with_reducible refine let_keep₁ (P := P) ?_ (fun _ _ => ?_))
       | (with_reducible refine let_maybe (P := P) ?_ (fun _ _ => ?_))
       | (with_reducible refine let_function ?_)
       | (with_reducible refine let_any (fun _ => ?_)))
    | with_reducible apply State.modSpan_keep C
    | with_reducible apply State.modEng_keep C
    | with_reducible apply State.commitFar_keep C
    | with_reducible apply State.endEpochIfDone_keep C
    | with_reducible apply State.noteBlockEnd_keep C
    | (with_reducible refine ite_keep ?_ ?_)
    | split)

theorem State.stopIfLost_keep (C : Closed P) {s : State} (p : Problem) (r : Run) (b : BlockRow) (lost : List (Tier × Nat)) (hs : P s) :
    P (State.stopIfLost s p r b lost) := by
  unfold State.stopIfLost
  repeat' (first
    | with_reducible assumption
    | with_reducible apply State.stopRun_keep C
    | (with_reducible refine ite_keep ?_ ?_)
    | split)

theorem State.fieldsWritten_keep (C : Closed P) {s : State} (n : Nat) (b : BlockRow) (hs : P s) :
    P (State.fieldsWritten s n b) := by
  unfold State.fieldsWritten
  repeat' (first
    | with_reducible assumption
    | with_reducible apply State.modSpan_keep C)

theorem State.visitBlock_keep (C : Closed P) {s : State} (p : Problem) (r : Run) (n : Nat) (b : BlockRow) (hs : P s) :
    P (State.visitBlock s p r n b) := by
  unfold State.visitBlock
  repeat' (first
    | with_reducible assumption
    | (extract_lets +onlyGivenNames _t; revert _t
       first
       | (with_reducible refine let_keep (P := P) ?_ (fun _ _ => ?_))
       | (with_reducible refine let_keep₂ (P := P) ?_ (fun _ _ => ?_))
       | (with_reducible refine let_keep₁ (P := P) ?_ (fun _ _ => ?_))
       | (with_reducible refine let_maybe (P := P) ?_ (fun _ _ => ?_))
       | (with_reducible refine let_function ?_)
       | (with_reducible refine let_any (fun _ => ?_)))
    | with_reducible apply State.modEng_keep C
    | with_reducible apply State.endLimit_keep C
    | with_reducible apply State.loadTile_keep C
    | with_reducible apply State.afterBlock_keep C
    | with_reducible apply State.stopIfLost_keep C
    | with_reducible apply State.fieldsWritten_keep C
    | (with_reducible refine ite_keep ?_ ?_)
    | split)

theorem State.continueBlock_keep (C : Closed P) {s : State} (p : Problem) (r : Run) (n : Nat) (b : BlockRow) (lanes : List Nat) (hs : P s) :
    P (State.continueBlock s p r n b lanes) := by
  unfold State.continueBlock
  repeat' (first
    | with_reducible assumption
    | (extract_lets +onlyGivenNames _t; revert _t
       first
       | (with_reducible refine let_keep (P := P) ?_ (fun _ _ => ?_))
       | (with_reducible refine let_keep₂ (P := P) ?_ (fun _ _ => ?_))
       | (with_reducible refine let_keep₁ (P := P) ?_ (fun _ _ => ?_))
       | (with_reducible refine let_maybe (P := P) ?_ (fun _ _ => ?_))
       | (with_reducible refine let_function ?_)
       | (with_reducible refine let_any (fun _ => ?_)))
    | with_reducible apply State.modEng_keep C
    | with_reducible apply State.endLimit_keep C
    | with_reducible apply State.afterBlock_keep C
    | with_reducible apply State.stopIfLost_keep C
    | split)

theorem State.noteFirstBlock_keep (C : Closed P) {s : State} (r : Run) (hs : P s) :
    P (State.noteFirstBlock s r) := by
  unfold State.noteFirstBlock
  repeat' (first
    | with_reducible assumption
    | (extract_lets +onlyGivenNames _t; revert _t
       first
       | (with_reducible refine let_keep (P := P) ?_ (fun _ _ => ?_))
       | (with_reducible refine let_keep₂ (P := P) ?_ (fun _ _ => ?_))
       | (with_reducible refine let_keep₁ (P := P) ?_ (fun _ _ => ?_))
       | (with_reducible refine let_maybe (P := P) ?_ (fun _ _ => ?_))
       | (with_reducible refine let_function ?_)
       | (with_reducible refine let_any (fun _ => ?_)))
    | with_reducible apply State.modRun_keep C
    | (with_reducible refine ite_keep ?_ ?_)
    | split)

theorem State.decideNext_keep (C : Closed P) {s : State} (n : Nat) (hs : P s) :
    P (State.decideNext s n) := by
  unfold State.decideNext
  repeat' (first
    | with_reducible assumption
    | with_reducible apply State.stopSpan_keep C
    | with_reducible apply State.visitBlock_keep C
    | with_reducible apply State.noteFirstBlock_keep C
    | (with_reducible refine ite_keep ?_ ?_)
    | split)

theorem State.decideWith_keep (C : Closed P) {s : State} (n : Nat) (events : List MemEvent) (hs : P s) :
    P (State.decideWith s n events) := by
  unfold State.decideWith
  repeat' (first
    | with_reducible assumption
    | (extract_lets +onlyGivenNames _t; revert _t
       first
       | (with_reducible refine let_keep (P := P) ?_ (fun _ _ => ?_))
       | (with_reducible refine let_keep₂ (P := P) ?_ (fun _ _ => ?_))
       | (with_reducible refine let_keep₁ (P := P) ?_ (fun _ _ => ?_))
       | (with_reducible refine let_maybe (P := P) ?_ (fun _ _ => ?_))
       | (with_reducible refine let_function ?_)
       | (with_reducible refine let_any (fun _ => ?_)))
    | with_reducible apply State.stopRun_keep C
    | with_reducible apply State.memEvents_keep C
    | with_reducible apply State.decideNext_keep C
    | (with_reducible refine ite_keep ?_ ?_)
    | split)

theorem State.refreshNext_keep (C : Closed P) {s : State} (n : Nat) (hs : P s) :
    P (State.refreshNext s n) := by
  unfold State.refreshNext
  repeat' (first
    | with_reducible assumption
    | (extract_lets +onlyGivenNames _t; revert _t
       first
       | (with_reducible refine let_keep (P := P) ?_ (fun _ _ => ?_))
       | (with_reducible refine let_keep₂ (P := P) ?_ (fun _ _ => ?_))
       | (with_reducible refine let_keep₁ (P := P) ?_ (fun _ _ => ?_))
       | (with_reducible refine let_maybe (P := P) ?_ (fun _ _ => ?_))
       | (with_reducible refine let_function ?_)
       | (with_reducible refine let_any (fun _ => ?_)))
    | with_reducible apply State.modEng_keep C
    | with_reducible apply State.endLimit_keep C
    | with_reducible apply State.stopIfLost_keep C
    | with_reducible apply State.fieldsWritten_keep C
    | (with_reducible refine ite_keep ?_ ?_)
    | split)

theorem State.pairOn_keep (C : Closed P) {s : State} (r : Run) (n : Nat) (x0 : Nat) (hs : P s) :
    P (State.pairOn r n x0 s) := by
  induction x0 generalizing s with
  | zero =>
    unfold State.pairOn
    repeat' (first
      | with_reducible assumption
      | (extract_lets +onlyGivenNames _t; revert _t
         first
         | (with_reducible refine let_keep (P := P) ?_ (fun _ _ => ?_))
         | (with_reducible refine let_keep₂ (P := P) ?_ (fun _ _ => ?_))
         | (with_reducible refine let_keep₁ (P := P) ?_ (fun _ _ => ?_))
         | (with_reducible refine let_maybe (P := P) ?_ (fun _ _ => ?_))
         | (with_reducible refine let_function ?_)
         | (with_reducible refine let_any (fun _ => ?_)))
      | with_reducible apply State.modEng_keep C
      | with_reducible apply State.shadowRecs_keep C
      | split)
  | succ k ih =>
    unfold State.pairOn
    repeat' (first
      | with_reducible assumption
      | (extract_lets +onlyGivenNames _t; revert _t
         first
         | (with_reducible refine let_keep (P := P) ?_ (fun _ _ => ?_))
         | (with_reducible refine let_keep₂ (P := P) ?_ (fun _ _ => ?_))
         | (with_reducible refine let_keep₁ (P := P) ?_ (fun _ _ => ?_))
         | (with_reducible refine let_maybe (P := P) ?_ (fun _ _ => ?_))
         | (with_reducible refine let_function ?_)
         | (with_reducible refine let_any (fun _ => ?_)))
      | with_reducible apply State.modEng_keep C
      | with_reducible apply State.shadowRecs_keep C
      | with_reducible apply ih
      | split)

theorem State.deliverVc1_keep (C : Closed P) {s : State} (n : Nat) (src : Nat) (b : Vc1Body) (hs : P s) :
    P (State.deliverVc1 s n src b) := by
  unfold State.deliverVc1
  repeat' (first
    | with_reducible assumption
    | with_reducible apply State.modEng_keep C
    | with_reducible apply State.countDrops_keep C
    | with_reducible apply State.pairOn_keep C
    | (with_reducible refine ite_keep ?_ ?_)
    | split)

theorem State.deliverWhere_keep (C : Closed P) {s : State} (pick : Vc1Msg → Nat → Bool) (hs : P s) :
    P (State.deliverWhere s pick) := by
  unfold State.deliverWhere
  repeat' (first
    | with_reducible assumption
    | (extract_lets +onlyGivenNames _t; revert _t
       first
       | (with_reducible refine let_keep (P := P) ?_ (fun _ _ => ?_))
       | (with_reducible refine let_keep₂ (P := P) ?_ (fun _ _ => ?_))
       | (with_reducible refine let_keep₁ (P := P) ?_ (fun _ _ => ?_))
       | (with_reducible refine let_maybe (P := P) ?_ (fun _ _ => ?_))
       | (with_reducible refine let_function ?_)
       | (with_reducible refine let_any (fun _ => ?_)))
    | with_reducible apply State.deliverVc1_keep C
    | (with_reducible refine foldl_keep₁ (fun _ _ _ => ?_) _ _ ?_) <;> try beta_reduce
    | (with_reducible refine foldl_keep₂ (fun _ _ _ => ?_) _ _ ?_) <;> try beta_reduce
    | (with_reducible refine foldl_keep (fun _ _ _ => ?_) _ _ ?_) <;> try beta_reduce
    | (with_reducible refine ite_keep ?_ ?_)
    | split
    | dsimp only
    | with_reducible refine C.rest ?_)

theorem State.drainRun_keep (C : Closed P) {s : State} (r : Run) (hs : P s) :
    P (State.drainRun s r) := by
  unfold State.drainRun
  repeat' (first
    | with_reducible assumption
    | with_reducible apply State.injectFirst_keep C
    | with_reducible apply State.deliverWhere_keep C
    | (with_reducible refine foldl_keep₁ (fun _ _ _ => ?_) _ _ ?_) <;> try beta_reduce
    | (with_reducible refine foldl_keep₂ (fun _ _ _ => ?_) _ _ ?_) <;> try beta_reduce
    | (with_reducible refine foldl_keep (fun _ _ _ => ?_) _ _ ?_) <;> try beta_reduce
    | dsimp only)

theorem State.afterApply_keep (C : Closed P) {s : State} (p : Problem) (r : Run) (n : Nat) (b : Nat) (due : List DueRec) (hs : P s) :
    P (State.afterApply s p r n b due) := by
  unfold State.afterApply
  repeat' (first
    | with_reducible assumption
    | with_reducible apply State.modEng_keep C
    | with_reducible apply State.noteGhosts_keep C
    | with_reducible apply State.shadowRecs_keep C)

theorem State.applyEpochs_keep (C : Closed P) {s : State} (p : Problem) (r : Run) (n : Nat) (b : Nat) (ep : Nat) (keep : Bool) (hs : P s) :
    P (State.applyEpochs s p r n b ep keep).1 := by
  unfold State.applyEpochs
  repeat' (first
    | with_reducible assumption
    | split
    | dsimp only
    | (extract_lets +onlyGivenNames _t; revert _t
       first
       | (with_reducible refine let_keep (P := P) ?_ (fun _ _ => ?_))
       | (with_reducible refine let_keep₂ (P := P) ?_ (fun _ _ => ?_))
       | (with_reducible refine let_keep₁ (P := P) ?_ (fun _ _ => ?_))
       | (with_reducible refine let_maybe (P := P) ?_ (fun _ _ => ?_))
       | (with_reducible refine let_function ?_)
       | (with_reducible refine let_any (fun _ => ?_)))
    | with_reducible apply State.modEng_keep C
    | with_reducible apply State.commitFar_keep C
    | with_reducible apply State.adoptEf_keep C
    | with_reducible apply State.adoptEzOf_keep C
    | with_reducible apply State.afterApply_keep C
    | dsimp only
    | (with_reducible refine ite_keep ?_ ?_)
    | split)

theorem State.nextEpoch_keep (C : Closed P) {s : State} (p : Problem) (r : Run) (n : Nat) (hs : P s) :
    P (State.nextEpoch s p r n) := by
  unfold State.nextEpoch
  repeat' (first
    | with_reducible assumption
    | with_reducible apply State.modEng_keep C
    | with_reducible apply State.endEpochIfDone_keep C)

theorem State.plainBoundary_keep (C : Closed P) {s : State} (p : Problem) (r : Run) (n : Nat) (hs : P s) :
    P (State.plainBoundary s p r n) := by
  unfold State.plainBoundary
  repeat' (first
    | with_reducible assumption
    | (extract_lets +onlyGivenNames _t; revert _t
       first
       | (with_reducible refine let_keep (P := P) ?_ (fun _ _ => ?_))
       | (with_reducible refine let_keep₂ (P := P) ?_ (fun _ _ => ?_))
       | (with_reducible refine let_keep₁ (P := P) ?_ (fun _ _ => ?_))
       | (with_reducible refine let_maybe (P := P) ?_ (fun _ _ => ?_))
       | (with_reducible refine let_function ?_)
       | (with_reducible refine let_any (fun _ => ?_)))
    | with_reducible apply State.modEng_keep C
    | with_reducible apply State.endWork_keep C
    | with_reducible apply State.endLimit_keep C
    | with_reducible apply State.applyEpochs_keep C
    | with_reducible apply State.nextEpoch_keep C
    | (with_reducible refine ite_keep ?_ ?_)
    | split
    | (with_reducible refine of_fst (by with_reducible assumption) ?_))

theorem State.flushLimit_keep (C : Closed P) {s : State} (r : Run) (hs : P s) :
    P (State.flushLimit s r) := by
  unfold State.flushLimit
  repeat' (first
    | with_reducible assumption
    | (extract_lets +onlyGivenNames _t; revert _t
       first
       | (with_reducible refine let_keep (P := P) ?_ (fun _ _ => ?_))
       | (with_reducible refine let_keep₂ (P := P) ?_ (fun _ _ => ?_))
       | (with_reducible refine let_keep₁ (P := P) ?_ (fun _ _ => ?_))
       | (with_reducible refine let_maybe (P := P) ?_ (fun _ _ => ?_))
       | (with_reducible refine let_function ?_)
       | (with_reducible refine let_any (fun _ => ?_)))
    | with_reducible apply State.modEng_keep C
    | with_reducible apply State.stopRun_keep C
    | with_reducible apply State.endWork_keep C
    | (with_reducible refine foldl_keep₁ (fun _ _ _ => ?_) _ _ ?_) <;> try beta_reduce
    | (with_reducible refine foldl_keep₂ (fun _ _ _ => ?_) _ _ ?_) <;> try beta_reduce
    | (with_reducible refine foldl_keep (fun _ _ _ => ?_) _ _ ?_) <;> try beta_reduce
    | (with_reducible refine ite_keep ?_ ?_)
    | split
    | dsimp only)

theorem State.flushApply_keep (C : Closed P) {s : State} (p : Problem) (r : Run) (n : Nat) (last : Nat) (hs : P s) :
    P (State.flushApply s p r n last) := by
  unfold State.flushApply
  repeat' (first
    | with_reducible assumption
    | (extract_lets +onlyGivenNames _t; revert _t
       first
       | (with_reducible refine let_keep (P := P) ?_ (fun _ _ => ?_))
       | (with_reducible refine let_keep₂ (P := P) ?_ (fun _ _ => ?_))
       | (with_reducible refine let_keep₁ (P := P) ?_ (fun _ _ => ?_))
       | (with_reducible refine let_maybe (P := P) ?_ (fun _ _ => ?_))
       | (with_reducible refine let_function ?_)
       | (with_reducible refine let_any (fun _ => ?_)))
    | with_reducible apply State.modEng_keep C
    | with_reducible apply State.sendEpoch_keep C
    | with_reducible apply State.endWork_keep C
    | with_reducible apply State.applyEpochs_keep C
    | with_reducible apply State.flushLimit_keep C
    | (with_reducible refine ite_keep ?_ ?_)
    | split
    | (with_reducible refine of_fst (by with_reducible assumption) ?_))

theorem State.flushUndo_keep (C : Closed P) {s : State} (p : Problem) (r : Run) (n : Nat) (last : Nat) (hs : P s) :
    P (State.flushUndo s p r n last) := by
  unfold State.flushUndo
  repeat' (first
    | with_reducible assumption
    | (extract_lets +onlyGivenNames _t; revert _t
       first
       | (with_reducible refine let_keep (P := P) ?_ (fun _ _ => ?_))
       | (with_reducible refine let_keep₂ (P := P) ?_ (fun _ _ => ?_))
       | (with_reducible refine let_keep₁ (P := P) ?_ (fun _ _ => ?_))
       | (with_reducible refine let_maybe (P := P) ?_ (fun _ _ => ?_))
       | (with_reducible refine let_function ?_)
       | (with_reducible refine let_any (fun _ => ?_)))
    | with_reducible apply State.modEng_keep C
    | with_reducible apply State.commitFar_keep C
    | with_reducible apply State.adoptEf_keep C
    | with_reducible apply State.adoptEzOf_keep C
    | with_reducible apply State.afterApply_keep C
    | with_reducible apply State.flushLimit_keep C
    | (with_reducible refine ite_keep ?_ ?_)
    | split)

theorem State.colourOn_keep (C : Closed P) {s : State} (p : Problem) (r : Run) (n : Nat) (last : Nat) (hs : P s) :
    P (State.colourOn s p r n last) := by
  unfold State.colourOn
  repeat' (first
    | with_reducible assumption
    | (extract_lets +onlyGivenNames _t; revert _t
       first
       | (with_reducible refine let_keep (P := P) ?_ (fun _ _ => ?_))
       | (with_reducible refine let_keep₂ (P := P) ?_ (fun _ _ => ?_))
       | (with_reducible refine let_keep₁ (P := P) ?_ (fun _ _ => ?_))
       | (with_reducible refine let_maybe (P := P) ?_ (fun _ _ => ?_))
       | (with_reducible refine let_function ?_)
       | (with_reducible refine let_any (fun _ => ?_)))
    | with_reducible apply State.modEng_keep C
    | with_reducible apply State.nextEpoch_keep C
    | (with_reducible refine ite_keep ?_ ?_)
    | split)

theorem State.flushStep_keep (C : Closed P) {s : State} (p : Problem) (r : Run) (n : Nat) (hs : P s) :
    P (State.flushStep s p r n) := by
  unfold State.flushStep
  repeat' (first
    | with_reducible assumption
    | (extract_lets +onlyGivenNames _t; revert _t
       first
       | (with_reducible refine let_keep (P := P) ?_ (fun _ _ => ?_))
       | (with_reducible refine let_keep₂ (P := P) ?_ (fun _ _ => ?_))
       | (with_reducible refine let_keep₁ (P := P) ?_ (fun _ _ => ?_))
       | (with_reducible refine let_maybe (P := P) ?_ (fun _ _ => ?_))
       | (with_reducible refine let_function ?_)
       | (with_reducible refine let_any (fun _ => ?_)))
    | with_reducible apply State.flushApply_keep C
    | with_reducible apply State.flushUndo_keep C
    | with_reducible apply State.colourOn_keep C
    | (with_reducible refine ite_keep ?_ ?_)
    | split)

theorem State.closeUndoAll_keep (C : Closed P) {s : State} (p : Problem) (r : Run) (n : Nat) (hs : P s) :
    P (State.closeUndoAll s p r n) := by
  unfold State.closeUndoAll
  repeat' (first
    | with_reducible assumption
    | (extract_lets +onlyGivenNames _t; revert _t
       first
       | (with_reducible refine let_keep (P := P) ?_ (fun _ _ => ?_))
       | (with_reducible refine let_keep₂ (P := P) ?_ (fun _ _ => ?_))
       | (with_reducible refine let_keep₁ (P := P) ?_ (fun _ _ => ?_))
       | (with_reducible refine let_maybe (P := P) ?_ (fun _ _ => ?_))
       | (with_reducible refine let_function ?_)
       | (with_reducible refine let_any (fun _ => ?_)))
    | with_reducible apply State.closeUndo_keep C
    | (with_reducible refine ite_keep ?_ ?_)
    | split)

theorem State.boundaryStep_keep (C : Closed P) {s : State} (n : Nat) (flush : Bool) (hs : P s) :
    P (State.boundaryStep s n flush) := by
  unfold State.boundaryStep
  repeat' (first
    | with_reducible assumption
    | (extract_lets +onlyGivenNames _t; revert _t
       first
       | (with_reducible refine let_keep (P := P) ?_ (fun _ _ => ?_))
       | (with_reducible refine let_keep₂ (P := P) ?_ (fun _ _ => ?_))
       | (with_reducible refine let_keep₁ (P := P) ?_ (fun _ _ => ?_))
       | (with_reducible refine let_maybe (P := P) ?_ (fun _ _ => ?_))
       | (with_reducible refine let_function ?_)
       | (with_reducible refine let_any (fun _ => ?_)))
    | with_reducible apply State.endWork_keep C
    | with_reducible apply State.stopSpan_keep C
    | with_reducible apply State.plainBoundary_keep C
    | with_reducible apply State.flushStep_keep C
    | with_reducible apply State.closeUndoAll_keep C
    | (with_reducible refine ite_keep ?_ ?_)
    | split)

end Sys2Proof.Machine
end

