-- ==== Sys2Proof/Laws/KeepRunEnd.lean ====
section
/-! SUPPORT. Every closed property is kept by the operations of Machine/RunEnd.lean.
-/

namespace Sys2Proof.Machine

set_option linter.all false

variable {P : State → Prop}

theorem State.adoptAll_keep (C : Closed P) {s : State} (p : Problem) (r : Run) (hs : P s) :
    P (State.adoptAll s p r) := by
  unfold State.adoptAll
  repeat' (first
    | with_reducible assumption
    | (extract_lets +onlyGivenNames _t; revert _t
       first
       | (with_reducible refine let_keep (P := P) ?_ (fun _ _ => ?_))
       | (with_reducible refine let_keep₂ (P := P) ?_ (fun _ _ => ?_))
       | (with_reducible refine let_keep₁ (P := P) ?_ (fun _ _ => ?_))
       | (with_reducible refine let_maybe (P := P) ?_ (fun _ _ => ?_))
       | (with_reducible refine let_function ?_)
       | (with_reducible refine let_any (fun _ => ?_)))
    | with_reducible apply State.modEng_keep C
    | with_reducible apply State.modRun_keep C
    | with_reducible apply State.adoptEf_keep C
    | (with_reducible refine foldl_keep₁ (fun _ _ _ => ?_) _ _ ?_) <;> try beta_reduce
    | (with_reducible refine foldl_keep₂ (fun _ _ _ => ?_) _ _ ?_) <;> try beta_reduce
    | (with_reducible refine foldl_keep (fun _ _ _ => ?_) _ _ ?_) <;> try beta_reduce
    | dsimp only)

theorem State.formTotals_keep (C : Closed P) {s : State} (p : Problem) (r : Run) (hs : P s) :
    P (State.formTotals s p r) := by
  unfold State.formTotals
  repeat' (first
    | with_reducible assumption
    | (extract_lets +onlyGivenNames _t; revert _t
       first
       | (with_reducible refine let_keep (P := P) ?_ (fun _ _ => ?_))
       | (with_reducible refine let_keep₂ (P := P) ?_ (fun _ _ => ?_))
       | (with_reducible refine let_keep₁ (P := P) ?_ (fun _ _ => ?_))
       | (with_reducible refine let_maybe (P := P) ?_ (fun _ _ => ?_))
       | (with_reducible refine let_function ?_)
       | (with_reducible refine let_any (fun _ => ?_)))
    | with_reducible apply State.modEng_keep C
    | with_reducible apply State.modRun_keep C
    | (with_reducible refine foldl_keep₁ (fun _ _ _ => ?_) _ _ ?_) <;> try beta_reduce
    | (with_reducible refine foldl_keep₂ (fun _ _ _ => ?_) _ _ ?_) <;> try beta_reduce
    | (with_reducible refine foldl_keep (fun _ _ _ => ?_) _ _ ?_) <;> try beta_reduce
    | (with_reducible refine ite_keep ?_ ?_)
    | split
    | dsimp only)

theorem State.gatherCounts_keep (C : Closed P) {s : State} (r : Run) (hs : P s) :
    P (State.gatherCounts s r) := by
  unfold State.gatherCounts
  repeat' (first
    | with_reducible assumption
    | (extract_lets +onlyGivenNames _t; revert _t
       first
       | (with_reducible refine let_keep (P := P) ?_ (fun _ _ => ?_))
       | (with_reducible refine let_keep₂ (P := P) ?_ (fun _ _ => ?_))
       | (with_reducible refine let_keep₁ (P := P) ?_ (fun _ _ => ?_))
       | (with_reducible refine let_maybe (P := P) ?_ (fun _ _ => ?_))
       | (with_reducible refine let_function ?_)
       | (with_reducible refine let_any (fun _ => ?_)))
    | with_reducible apply State.modEng_keep C
    | with_reducible apply State.modRun_keep C
    | (with_reducible refine foldl_keep₁ (fun _ _ _ => ?_) _ _ ?_) <;> try beta_reduce
    | (with_reducible refine foldl_keep₂ (fun _ _ _ => ?_) _ _ ?_) <;> try beta_reduce
    | (with_reducible refine foldl_keep (fun _ _ _ => ?_) _ _ ?_) <;> try beta_reduce
    | dsimp only)

theorem State.restEngines_keep (C : Closed P) {s : State} (r : Run) (hs : P s) :
    P (State.restEngines s r) := by
  unfold State.restEngines
  repeat' (first
    | with_reducible assumption
    | (extract_lets +onlyGivenNames _t; revert _t
       first
       | (with_reducible refine let_keep (P := P) ?_ (fun _ _ => ?_))
       | (with_reducible refine let_keep₂ (P := P) ?_ (fun _ _ => ?_))
       | (with_reducible refine let_keep₁ (P := P) ?_ (fun _ _ => ?_))
       | (with_reducible refine let_maybe (P := P) ?_ (fun _ _ => ?_))
       | (with_reducible refine let_function ?_)
       | (with_reducible refine let_any (fun _ => ?_)))
    | with_reducible apply State.modEng_keep C
    | with_reducible apply State.drainRun_keep C
    | (with_reducible refine foldl_keep₁ (fun _ _ _ => ?_) _ _ ?_) <;> try beta_reduce
    | (with_reducible refine foldl_keep₂ (fun _ _ _ => ?_) _ _ ?_) <;> try beta_reduce
    | (with_reducible refine foldl_keep (fun _ _ _ => ?_) _ _ ?_) <;> try beta_reduce
    | dsimp only)

theorem State.settleLocal_keep (C : Closed P) {s : State} (p : Problem) (r : Run) (hs : P s) :
    P (State.settleLocal s p r) := by
  unfold State.settleLocal
  repeat' (first
    | with_reducible assumption
    | (extract_lets +onlyGivenNames _t; revert _t
       first
       | (with_reducible refine let_keep (P := P) ?_ (fun _ _ => ?_))
       | (with_reducible refine let_keep₂ (P := P) ?_ (fun _ _ => ?_))
       | (with_reducible refine let_keep₁ (P := P) ?_ (fun _ _ => ?_))
       | (with_reducible refine let_maybe (P := P) ?_ (fun _ _ => ?_))
       | (with_reducible refine let_function ?_)
       | (with_reducible refine let_any (fun _ => ?_)))
    | with_reducible apply State.modRun_keep C
    | with_reducible apply State.takeStops_keep C
    | with_reducible apply State.adoptAll_keep C
    | with_reducible apply State.formTotals_keep C
    | with_reducible apply State.gatherCounts_keep C
    | with_reducible apply State.restEngines_keep C
    | (with_reducible refine ite_keep ?_ ?_)
    | split)

theorem State.setPartials_keep (C : Closed P) {s : State} (r : Run) (totals : Store Int) (hs : P s) :
    P (State.setPartials s r totals) := by
  unfold State.setPartials
  repeat' (first
    | with_reducible assumption
    | (extract_lets +onlyGivenNames _t; revert _t
       first
       | (with_reducible refine let_keep (P := P) ?_ (fun _ _ => ?_))
       | (with_reducible refine let_keep₂ (P := P) ?_ (fun _ _ => ?_))
       | (with_reducible refine let_keep₁ (P := P) ?_ (fun _ _ => ?_))
       | (with_reducible refine let_maybe (P := P) ?_ (fun _ _ => ?_))
       | (with_reducible refine let_function ?_)
       | (with_reducible refine let_any (fun _ => ?_)))
    | with_reducible apply State.modEng_keep C
    | (with_reducible refine foldl_keep₁ (fun _ _ _ => ?_) _ _ ?_) <;> try beta_reduce
    | (with_reducible refine foldl_keep₂ (fun _ _ _ => ?_) _ _ ?_) <;> try beta_reduce
    | (with_reducible refine foldl_keep (fun _ _ _ => ?_) _ _ ?_) <;> try beta_reduce
    | (with_reducible refine ite_keep ?_ ?_)
    | split
    | dsimp only)

theorem State.refreshSpan_keep (C : Closed P) {s : State} (p : Problem) (r : Run) (n : Nat) (hs : P s) :
    P (State.refreshSpan s p r n).1 := by
  unfold State.refreshSpan
  repeat' (first
    | with_reducible assumption
    | split
    | dsimp only
    | (extract_lets +onlyGivenNames _t; revert _t
       first
       | (with_reducible refine let_keep (P := P) ?_ (fun _ _ => ?_))
       | (with_reducible refine let_keep₂ (P := P) ?_ (fun _ _ => ?_))
       | (with_reducible refine let_keep₁ (P := P) ?_ (fun _ _ => ?_))
       | (with_reducible refine let_maybe (P := P) ?_ (fun _ _ => ?_))
       | (with_reducible refine let_function ?_)
       | (with_reducible refine let_any (fun _ => ?_)))
    | with_reducible apply State.modEng_keep C
    | with_reducible apply State.raiseTimes_keep C
    | dsimp only
    | split)

theorem State.limitEverywhere_keep (C : Closed P) {s : State} (p : Problem) (r : Run) (hs : P s) :
    P (State.limitEverywhere s p r) := by
  unfold State.limitEverywhere
  repeat' (first
    | with_reducible assumption
    | (extract_lets +onlyGivenNames _t; revert _t
       first
       | (with_reducible refine let_keep (P := P) ?_ (fun _ _ => ?_))
       | (with_reducible refine let_keep₂ (P := P) ?_ (fun _ _ => ?_))
       | (with_reducible refine let_keep₁ (P := P) ?_ (fun _ _ => ?_))
       | (with_reducible refine let_maybe (P := P) ?_ (fun _ _ => ?_))
       | (with_reducible refine let_function ?_)
       | (with_reducible refine let_any (fun _ => ?_)))
    | with_reducible apply State.modEng_keep C
    | with_reducible apply State.modRun_keep C
    | with_reducible apply State.adoptAll_keep C
    | with_reducible apply State.formTotals_keep C
    | (with_reducible refine foldl_keep₁ (fun _ _ _ => ?_) _ _ ?_) <;> try beta_reduce
    | (with_reducible refine foldl_keep₂ (fun _ _ _ => ?_) _ _ ?_) <;> try beta_reduce
    | (with_reducible refine foldl_keep (fun _ _ _ => ?_) _ _ ?_) <;> try beta_reduce
    | dsimp only)

theorem State.unitDone_keep (C : Closed P) {s : State} (r : Run) (hs : P s) :
    P (State.unitDone s r) := by
  unfold State.unitDone
  repeat' (first
    | with_reducible assumption
    | with_reducible apply State.modEng_keep C
    | (with_reducible refine foldl_keep₁ (fun _ _ _ => ?_) _ _ ?_) <;> try beta_reduce
    | (with_reducible refine foldl_keep₂ (fun _ _ _ => ?_) _ _ ?_) <;> try beta_reduce
    | (with_reducible refine foldl_keep (fun _ _ _ => ?_) _ _ ?_) <;> try beta_reduce
    | dsimp only)

theorem State.refreshStep_keep (C : Closed P) {s : State} (p : Problem) (r : Run) (hs : P s) :
    P (State.refreshStep s p r) := by
  unfold State.refreshStep
  repeat' (first
    | with_reducible assumption
    | (extract_lets +onlyGivenNames _t; revert _t
       first
       | (with_reducible refine let_keep (P := P) ?_ (fun _ _ => ?_))
       | (with_reducible refine let_keep₂ (P := P) ?_ (fun _ _ => ?_))
       | (with_reducible refine let_keep₁ (P := P) ?_ (fun _ _ => ?_))
       | (with_reducible refine let_maybe (P := P) ?_ (fun _ _ => ?_))
       | (with_reducible refine let_function ?_)
       | (with_reducible refine let_any (fun _ => ?_)))
    | with_reducible apply State.modRun_keep C
    | with_reducible apply State.adoptAll_keep C
    | with_reducible apply State.formTotals_keep C
    | with_reducible apply State.refreshSpan_keep C
    | with_reducible apply State.limitEverywhere_keep C
    | with_reducible apply State.unitDone_keep C
    | (with_reducible refine foldl_keep₁ (fun _ _ _ => ?_) _ _ ?_) <;> try beta_reduce
    | (with_reducible refine foldl_keep₂ (fun _ _ _ => ?_) _ _ ?_) <;> try beta_reduce
    | (with_reducible refine foldl_keep (fun _ _ _ => ?_) _ _ ?_) <;> try beta_reduce
    | (with_reducible refine ite_keep ?_ ?_)
    | split
    | dsimp only
    | (with_reducible refine of_fst (by with_reducible assumption) ?_))

theorem State.auditAgainst_keep (C : Closed P) {s : State} (p : Problem) (r : Run) (vals : Store Int) (counts : Store Nat) (hs : P s) :
    P (State.auditAgainst s p r vals counts).1 := by
  unfold State.auditAgainst
  repeat' (first
    | with_reducible assumption
    | split
    | dsimp only
    | (extract_lets +onlyGivenNames _t; revert _t
       first
       | (with_reducible refine let_keep (P := P) ?_ (fun _ _ => ?_))
       | (with_reducible refine let_keep₂ (P := P) ?_ (fun _ _ => ?_))
       | (with_reducible refine let_keep₁ (P := P) ?_ (fun _ _ => ?_))
       | (with_reducible refine let_maybe (P := P) ?_ (fun _ _ => ?_))
       | (with_reducible refine let_function ?_)
       | (with_reducible refine let_any (fun _ => ?_)))
    | with_reducible apply State.modEng_keep C
    | with_reducible apply State.modRun_keep C
    | with_reducible apply State.raise_keep C
    | dsimp only
    | (with_reducible refine foldl_keep₁ (fun _ _ _ => ?_) _ _ ?_) <;> try beta_reduce
    | (with_reducible refine foldl_keep₂ (fun _ _ _ => ?_) _ _ ?_) <;> try beta_reduce
    | (with_reducible refine foldl_keep (fun _ _ _ => ?_) _ _ ?_) <;> try beta_reduce
    | (with_reducible refine ite_keep ?_ ?_)
    | split
    | dsimp only)

theorem State.auditStep_keep (C : Closed P) {s : State} (p : Problem) (r : Run) (hs : P s) :
    P (State.auditStep s p r).1 := by
  unfold State.auditStep
  repeat' (first
    | with_reducible assumption
    | split
    | dsimp only
    | (extract_lets +onlyGivenNames _t; revert _t
       first
       | (with_reducible refine let_keep (P := P) ?_ (fun _ _ => ?_))
       | (with_reducible refine let_keep₂ (P := P) ?_ (fun _ _ => ?_))
       | (with_reducible refine let_keep₁ (P := P) ?_ (fun _ _ => ?_))
       | (with_reducible refine let_maybe (P := P) ?_ (fun _ _ => ?_))
       | (with_reducible refine let_function ?_)
       | (with_reducible refine let_any (fun _ => ?_)))
    | with_reducible apply State.auditAgainst_keep C
    | dsimp only
    | (with_reducible refine of_fst (by with_reducible assumption) ?_))

theorem State.snapshot_keep (C : Closed P) {s : State} (p : Problem) (r : Run) (rep : Nat) (hs : P s) :
    P (State.snapshot s p r rep) := by
  unfold State.snapshot
  repeat' (first
    | with_reducible assumption
    | (extract_lets +onlyGivenNames _t; revert _t
       first
       | (with_reducible refine let_keep (P := P) ?_ (fun _ _ => ?_))
       | (with_reducible refine let_keep₂ (P := P) ?_ (fun _ _ => ?_))
       | (with_reducible refine let_keep₁ (P := P) ?_ (fun _ _ => ?_))
       | (with_reducible refine let_maybe (P := P) ?_ (fun _ _ => ?_))
       | (with_reducible refine let_function ?_)
       | (with_reducible refine let_any (fun _ => ?_)))
    | with_reducible apply State.modSpan_keep C
    | with_reducible apply State.modRun_keep C
    | with_reducible apply State.modProblem_keep C
    | (with_reducible refine foldl_keep₁ (fun _ _ _ => ?_) _ _ ?_) <;> try beta_reduce
    | (with_reducible refine foldl_keep₂ (fun _ _ _ => ?_) _ _ ?_) <;> try beta_reduce
    | (with_reducible refine foldl_keep (fun _ _ _ => ?_) _ _ ?_) <;> try beta_reduce
    | (with_reducible refine ite_keep ?_ ?_)
    | split
    | dsimp only)

theorem State.bestStep_keep (C : Closed P) {s : State} (p : Problem) (r : Run) (hs : P s) :
    P (State.bestStep s p r).1 := by
  unfold State.bestStep
  repeat' (first
    | with_reducible assumption
    | split
    | dsimp only
    | (extract_lets +onlyGivenNames _t; revert _t
       first
       | (with_reducible refine let_keep (P := P) ?_ (fun _ _ => ?_))
       | (with_reducible refine let_keep₂ (P := P) ?_ (fun _ _ => ?_))
       | (with_reducible refine let_keep₁ (P := P) ?_ (fun _ _ => ?_))
       | (with_reducible refine let_maybe (P := P) ?_ (fun _ _ => ?_))
       | (with_reducible refine let_function ?_)
       | (with_reducible refine let_any (fun _ => ?_)))
    | with_reducible apply State.modRun_keep C
    | with_reducible apply State.snapshot_keep C
    | dsimp only
    | (with_reducible refine ite_keep ?_ ?_)
    | split)

theorem State.runWrite_keep (C : Closed P) {s : State} (r : Run) (a : Nat) (l : List Byte) (hs : P s) :
    P (State.runWrite s r a l) := by
  unfold State.runWrite
  repeat' (first
    | with_reducible assumption
    | (extract_lets +onlyGivenNames _t; revert _t
       first
       | (with_reducible refine let_keep (P := P) ?_ (fun _ _ => ?_))
       | (with_reducible refine let_keep₂ (P := P) ?_ (fun _ _ => ?_))
       | (with_reducible refine let_keep₁ (P := P) ?_ (fun _ _ => ?_))
       | (with_reducible refine let_maybe (P := P) ?_ (fun _ _ => ?_))
       | (with_reducible refine let_function ?_)
       | (with_reducible refine let_any (fun _ => ?_)))
    | with_reducible apply State.writeBytes_keep C
    | with_reducible apply State.modExec_keep C
    | (with_reducible refine ite_keep ?_ ?_)
    | split)

theorem State.sampleStep_keep (C : Closed P) {s : State} (p : Problem) (r : Run) (hs : P s) :
    P (State.sampleStep s p r) := by
  unfold State.sampleStep
  repeat' (first
    | with_reducible assumption
    | (extract_lets +onlyGivenNames _t; revert _t
       first
       | (with_reducible refine let_keep (P := P) ?_ (fun _ _ => ?_))
       | (with_reducible refine let_keep₂ (P := P) ?_ (fun _ _ => ?_))
       | (with_reducible refine let_keep₁ (P := P) ?_ (fun _ _ => ?_))
       | (with_reducible refine let_maybe (P := P) ?_ (fun _ _ => ?_))
       | (with_reducible refine let_function ?_)
       | (with_reducible refine let_any (fun _ => ?_)))
    | with_reducible apply State.modRun_keep C
    | with_reducible apply State.runWrite_keep C
    | (with_reducible refine ite_keep ?_ ?_)
    | split)

theorem State.finishRunCmd_keep (C : Closed P) {s : State} (r : Run) (status : Nat) (detail : Nat) (hs : P s) :
    P (State.finishRunCmd s r status detail) := by
  unfold State.finishRunCmd
  repeat' (first
    | with_reducible assumption
    | with_reducible apply State.modExec_keep C
    | (with_reducible refine ite_keep ?_ ?_)
    | split)

theorem State.endWaits_keep (C : Closed P) {s : State} (op : Nat) (id : Nat) (f : Exec → Exec) (hs : P s) :
    P (State.endWaits s op id f) := by
  unfold State.endWaits
  repeat' (first
    | with_reducible assumption
    | (with_reducible refine ite_keep ?_ ?_)
    | split
    | with_reducible refine C.rest ?_)

theorem State.finishFrees_keep (C : Closed P) {s : State} (hs : P s) :
    P (State.finishFrees s) := by
  unfold State.finishFrees
  repeat' (first
    | with_reducible assumption
    | (extract_lets +onlyGivenNames _t; revert _t
       first
       | (with_reducible refine let_keep (P := P) ?_ (fun _ _ => ?_))
       | (with_reducible refine let_keep₂ (P := P) ?_ (fun _ _ => ?_))
       | (with_reducible refine let_keep₁ (P := P) ?_ (fun _ _ => ?_))
       | (with_reducible refine let_maybe (P := P) ?_ (fun _ _ => ?_))
       | (with_reducible refine let_function ?_)
       | (with_reducible refine let_any (fun _ => ?_)))
    | with_reducible apply State.finishExec_keep C
    | with_reducible apply State.freeProblem_keep C
    | (with_reducible refine foldl_keep₁ (fun _ _ _ => ?_) _ _ ?_) <;> try beta_reduce
    | (with_reducible refine foldl_keep₂ (fun _ _ _ => ?_) _ _ ?_) <;> try beta_reduce
    | (with_reducible refine foldl_keep (fun _ _ _ => ?_) _ _ ?_) <;> try beta_reduce
    | (with_reducible refine ite_keep ?_ ?_)
    | split
    | dsimp only
    | with_reducible refine C.rest ?_)

theorem State.keepStates_keep (C : Closed P) {s : State} (p : Problem) (arr : Store Bool) (hs : P s) :
    P (State.keepStates s p arr) := by
  unfold State.keepStates
  repeat' (first
    | with_reducible assumption
    | with_reducible apply State.modProblem_keep C
    | (with_reducible refine ite_keep ?_ ?_)
    | split)

theorem State.replaceAll_keep (C : Closed P) {s : State} (hs : P s) :
    P (State.replaceAll s) := by
  unfold State.replaceAll
  repeat' (first
    | with_reducible assumption
    | with_reducible apply State.replaceIdle_keep C
    | (with_reducible refine foldl_keep₁ (fun _ _ _ => ?_) _ _ ?_) <;> try beta_reduce
    | (with_reducible refine foldl_keep₂ (fun _ _ _ => ?_) _ _ ?_) <;> try beta_reduce
    | (with_reducible refine foldl_keep (fun _ _ _ => ?_) _ _ ?_) <;> try beta_reduce
    | dsimp only)

theorem State.finishRun_keep (C : Closed P) {s : State} (p : Problem) (r : Run) (complete : Bool) (hs : P s) :
    P (State.finishRun s p r complete) := by
  unfold State.finishRun
  repeat' (first
    | with_reducible assumption
    | (extract_lets +onlyGivenNames _t; revert _t
       first
       | (with_reducible refine let_keep (P := P) ?_ (fun _ _ => ?_))
       | (with_reducible refine let_keep₂ (P := P) ?_ (fun _ _ => ?_))
       | (with_reducible refine let_keep₁ (P := P) ?_ (fun _ _ => ?_))
       | (with_reducible refine let_maybe (P := P) ?_ (fun _ _ => ?_))
       | (with_reducible refine let_function ?_)
       | (with_reducible refine let_any (fun _ => ?_)))
    | with_reducible apply State.modSpan_keep C
    | with_reducible apply State.modCtx_keep C
    | with_reducible apply State.gatherCounts_keep C
    | with_reducible apply State.restEngines_keep C
    | with_reducible apply State.runWrite_keep C
    | with_reducible apply State.finishRunCmd_keep C
    | with_reducible apply State.endWaits_keep C
    | with_reducible apply State.finishFrees_keep C
    | with_reducible apply State.keepStates_keep C
    | with_reducible apply State.replaceAll_keep C
    | (with_reducible refine foldl_keep₁ (fun _ _ _ => ?_) _ _ ?_) <;> try beta_reduce
    | (with_reducible refine foldl_keep₂ (fun _ _ _ => ?_) _ _ ?_) <;> try beta_reduce
    | (with_reducible refine foldl_keep (fun _ _ _ => ?_) _ _ ?_) <;> try beta_reduce
    | (with_reducible refine ite_keep ?_ ?_)
    | split
    | dsimp only
    | with_reducible refine C.rest ?_)

end Sys2Proof.Machine
end

