-- ==== Sys2Proof/Laws/KeepRunNext.lean ====
section
/-! SUPPORT. Every closed property is kept by the operations of Machine/RunNext.lean.
-/

namespace Sys2Proof.Machine

set_option linter.all false

variable {P : State → Prop}

theorem State.loadDecks_keep (C : Closed P) {s : State} (r : Run) (rows : List BlockRow) (x : Nat → Nat → Bool) (hs : P s) :
    P (State.loadDecks s r rows x) := by
  unfold State.loadDecks
  repeat' (first
    | with_reducible assumption
    | (extract_lets +onlyGivenNames _t; revert _t
       first
       | (with_reducible refine let_keep (P := P) ?_ (fun _ _ => ?_))
       | (with_reducible refine let_keep₂ (P := P) ?_ (fun _ _ => ?_))
       | (with_reducible refine let_keep₁ (P := P) ?_ (fun _ _ => ?_))
       | (with_reducible refine let_maybe (P := P) ?_ (fun _ _ => ?_))
       | (with_reducible refine let_function ?_)
       | (with_reducible refine let_any (fun _ => ?_)))
    | with_reducible apply State.modSpan_keep C
    | with_reducible apply State.modEng_keep C
    | (with_reducible refine foldl_keep₁ (fun _ _ _ => ?_) _ _ ?_) <;> try beta_reduce
    | (with_reducible refine foldl_keep₂ (fun _ _ _ => ?_) _ _ ?_) <;> try beta_reduce
    | (with_reducible refine foldl_keep (fun _ _ _ => ?_) _ _ ?_) <;> try beta_reduce
    | (with_reducible refine ite_keep ?_ ?_)
    | split
    | dsimp only)

theorem State.loadShadows_keep (C : Closed P) {s : State} (r : Run) (next : Nat) (hs : P s) :
    P (State.loadShadows s r next) := by
  unfold State.loadShadows
  repeat' (first
    | with_reducible assumption
    | (extract_lets +onlyGivenNames _t; revert _t
       first
       | (with_reducible refine let_keep (P := P) ?_ (fun _ _ => ?_))
       | (with_reducible refine let_keep₂ (P := P) ?_ (fun _ _ => ?_))
       | (with_reducible refine let_keep₁ (P := P) ?_ (fun _ _ => ?_))
       | (with_reducible refine let_maybe (P := P) ?_ (fun _ _ => ?_))
       | (with_reducible refine let_function ?_)
       | (with_reducible refine let_any (fun _ => ?_)))
    | with_reducible apply State.modSpan_keep C
    | (with_reducible refine foldl_keep₁ (fun _ _ _ => ?_) _ _ ?_) <;> try beta_reduce
    | (with_reducible refine foldl_keep₂ (fun _ _ _ => ?_) _ _ ?_) <;> try beta_reduce
    | (with_reducible refine foldl_keep (fun _ _ _ => ?_) _ _ ?_) <;> try beta_reduce
    | (with_reducible refine ite_keep ?_ ?_)
    | split
    | dsimp only)

theorem State.recomputeIn_keep (C : Closed P) {s : State} (p : Problem) (r : Run) (factors : Nat → Factored → Bool) (pick : BlockRow → Bool) (hs : P s) :
    P (State.recomputeIn s p r factors pick).1 := by
  unfold State.recomputeIn
  repeat' (first
    | with_reducible assumption
    | split
    | dsimp only
    | (extract_lets +onlyGivenNames _t; revert _t
       first
       | (with_reducible refine let_keep (P := P) ?_ (fun _ _ => ?_))
       | (with_reducible refine let_keep₂ (P := P) ?_ (fun _ _ => ?_))
       | (with_reducible refine let_keep₁ (P := P) ?_ (fun _ _ => ?_))
       | (with_reducible refine let_maybe (P := P) ?_ (fun _ _ => ?_))
       | (with_reducible refine let_function ?_)
       | (with_reducible refine let_any (fun _ => ?_)))
    | with_reducible apply State.modEng_keep C
    | with_reducible apply State.fieldsWritten_keep C
    | with_reducible apply State.adoptAll_keep C
    | dsimp only
    | (with_reducible refine foldl_keep₁ (fun _ _ _ => ?_) _ _ ?_) <;> try beta_reduce
    | (with_reducible refine foldl_keep₂ (fun _ _ _ => ?_) _ _ ?_) <;> try beta_reduce
    | (with_reducible refine foldl_keep (fun _ _ _ => ?_) _ _ ?_) <;> try beta_reduce
    | split
    | dsimp only)

theorem State.limitAs_keep (C : Closed P) {s : State} (p : Problem) (r : Run) (hs : P s) :
    P (State.limitAs s t p r) := by
  unfold State.limitAs
  repeat' (first
    | with_reducible assumption
    | with_reducible apply State.modEng_keep C
    | with_reducible apply State.adoptEf_keep C
    | with_reducible apply State.limitEverywhere_keep C
    | (with_reducible refine foldl_keep₁ (fun _ _ _ => ?_) _ _ ?_) <;> try beta_reduce
    | (with_reducible refine foldl_keep₂ (fun _ _ _ => ?_) _ _ ?_) <;> try beta_reduce
    | (with_reducible refine foldl_keep (fun _ _ _ => ?_) _ _ ?_) <;> try beta_reduce
    | dsimp only)

theorem State.bringGhosts_keep (C : Closed P) {s : State} (p : Problem) (q : Problem) (r : Run) (before : List BlockRow) (after : List BlockRow) (hs : P s) :
    P (State.bringGhosts s p q r before after) := by
  unfold State.bringGhosts
  repeat' (first
    | with_reducible assumption
    | (extract_lets +onlyGivenNames _t; revert _t
       first
       | (with_reducible refine let_keep (P := P) ?_ (fun _ _ => ?_))
       | (with_reducible refine let_keep₂ (P := P) ?_ (fun _ _ => ?_))
       | (with_reducible refine let_keep₁ (P := P) ?_ (fun _ _ => ?_))
       | (with_reducible refine let_maybe (P := P) ?_ (fun _ _ => ?_))
       | (with_reducible refine let_function ?_)
       | (with_reducible refine let_any (fun _ => ?_)))
    | with_reducible apply State.modEng_keep C
    | (with_reducible refine foldl_keep₁ (fun _ _ _ => ?_) _ _ ?_) <;> try beta_reduce
    | (with_reducible refine foldl_keep₂ (fun _ _ _ => ?_) _ _ ?_) <;> try beta_reduce
    | (with_reducible refine foldl_keep (fun _ _ _ => ?_) _ _ ?_) <;> try beta_reduce
    | split
    | dsimp only)

theorem State.rewriteTiles_keep (C : Closed P) {s : State} (p : Problem) (rows : List BlockRow) (hs : P s) :
    P (State.rewriteTiles s p rows) := by
  unfold State.rewriteTiles
  repeat' (first
    | with_reducible assumption
    | (extract_lets +onlyGivenNames _t; revert _t
       first
       | (with_reducible refine let_keep (P := P) ?_ (fun _ _ => ?_))
       | (with_reducible refine let_keep₂ (P := P) ?_ (fun _ _ => ?_))
       | (with_reducible refine let_keep₁ (P := P) ?_ (fun _ _ => ?_))
       | (with_reducible refine let_maybe (P := P) ?_ (fun _ _ => ?_))
       | (with_reducible refine let_function ?_)
       | (with_reducible refine let_any (fun _ => ?_)))
    | with_reducible apply State.modProblem_keep C
    | (with_reducible refine ite_keep ?_ ?_)
    | split)

theorem State.migrateStep_keep (C : Closed P) {s : State} (p : Problem) (r : Run) (hs : P s) :
    P (State.migrateStep s p r).1 := by
  unfold State.migrateStep
  repeat' (first
    | with_reducible assumption
    | split
    | dsimp only
    | (extract_lets +onlyGivenNames _t; revert _t
       first
       | (with_reducible refine let_keep (P := P) ?_ (fun _ _ => ?_))
       | (with_reducible refine let_keep₂ (P := P) ?_ (fun _ _ => ?_))
       | (with_reducible refine let_keep₁ (P := P) ?_ (fun _ _ => ?_))
       | (with_reducible refine let_maybe (P := P) ?_ (fun _ _ => ?_))
       | (with_reducible refine let_function ?_)
       | (with_reducible refine let_any (fun _ => ?_)))
    | with_reducible apply State.modRun_keep C
    | with_reducible apply State.loadDecks_keep C
    | with_reducible apply State.loadShadows_keep C
    | with_reducible apply State.recomputeIn_keep C
    | with_reducible apply State.limitAs_keep C
    | with_reducible apply State.bringGhosts_keep C
    | with_reducible apply State.rewriteTiles_keep C
    | dsimp only
    | (with_reducible refine ite_keep ?_ ?_)
    | split
    | (with_reducible refine of_fst (by with_reducible assumption) ?_)
    | with_reducible refine C.rest ?_)

theorem State.rotateStep_keep (C : Closed P) {s : State} (p : Problem) (r : Run) (hs : P s) :
    P (State.rotateStep s p r).1 := by
  unfold State.rotateStep
  repeat' (first
    | with_reducible assumption
    | split
    | dsimp only
    | (extract_lets +onlyGivenNames _t; revert _t
       first
       | (with_reducible refine let_keep (P := P) ?_ (fun _ _ => ?_))
       | (with_reducible refine let_keep₂ (P := P) ?_ (fun _ _ => ?_))
       | (with_reducible refine let_keep₁ (P := P) ?_ (fun _ _ => ?_))
       | (with_reducible refine let_maybe (P := P) ?_ (fun _ _ => ?_))
       | (with_reducible refine let_function ?_)
       | (with_reducible refine let_any (fun _ => ?_)))
    | with_reducible apply State.modEng_keep C
    | with_reducible apply State.modRun_keep C
    | with_reducible apply State.keepStates_keep C
    | with_reducible apply State.loadDecks_keep C
    | with_reducible apply State.loadShadows_keep C
    | with_reducible apply State.recomputeIn_keep C
    | with_reducible apply State.limitAs_keep C
    | with_reducible apply State.bringGhosts_keep C
    | dsimp only
    | (with_reducible refine foldl_keep₁ (fun _ _ _ => ?_) _ _ ?_) <;> try beta_reduce
    | (with_reducible refine foldl_keep₂ (fun _ _ _ => ?_) _ _ ?_) <;> try beta_reduce
    | (with_reducible refine foldl_keep (fun _ _ _ => ?_) _ _ ?_) <;> try beta_reduce
    | (with_reducible refine ite_keep ?_ ?_)
    | split
    | dsimp only
    | (with_reducible refine of_fst (by with_reducible assumption) ?_)
    | with_reducible refine C.rest ?_)

theorem State.ckptBegin_keep (C : Closed P) {s : State} (p : Problem) (r : Run) (hs : P s) :
    P (State.ckptBegin s p r) := by
  unfold State.ckptBegin
  repeat' (first
    | with_reducible assumption
    | (extract_lets +onlyGivenNames _t; revert _t
       first
       | (with_reducible refine let_keep (P := P) ?_ (fun _ _ => ?_))
       | (with_reducible refine let_keep₂ (P := P) ?_ (fun _ _ => ?_))
       | (with_reducible refine let_keep₁ (P := P) ?_ (fun _ _ => ?_))
       | (with_reducible refine let_maybe (P := P) ?_ (fun _ _ => ?_))
       | (with_reducible refine let_function ?_)
       | (with_reducible refine let_any (fun _ => ?_)))
    | with_reducible apply State.drawWord_keep C
    | with_reducible apply State.drawBytes_keep C
    | with_reducible apply State.modRun_keep C
    | with_reducible apply State.runWrite_keep C
    | (with_reducible refine of_snd (by with_reducible assumption) ?_)
    | with_reducible refine C.rest ?_)

theorem State.ckptClose_keep (C : Closed P) {s : State} (p : Problem) (r : Run) (hs : P s) :
    P (State.ckptClose s p r) := by
  unfold State.ckptClose
  repeat' (first
    | with_reducible assumption
    | with_reducible apply State.modRun_keep C
    | with_reducible apply State.runWrite_keep C
    | with_reducible apply State.endWaits_keep C
    | split)

theorem State.nextStep_keep (C : Closed P) {s : State} (p : Problem) (r : Run) (hs : P s) :
    P (State.nextStep s p r) := by
  unfold State.nextStep
  repeat' (first
    | with_reducible assumption
    | (extract_lets +onlyGivenNames _t; revert _t
       first
       | (with_reducible refine let_keep (P := P) ?_ (fun _ _ => ?_))
       | (with_reducible refine let_keep₂ (P := P) ?_ (fun _ _ => ?_))
       | (with_reducible refine let_keep₁ (P := P) ?_ (fun _ _ => ?_))
       | (with_reducible refine let_maybe (P := P) ?_ (fun _ _ => ?_))
       | (with_reducible refine let_function ?_)
       | (with_reducible refine let_any (fun _ => ?_)))
    | with_reducible apply State.modRun_keep C
    | with_reducible apply State.ckptBegin_keep C
    | split)

theorem State.shadowWords_keep (C : Closed P) {s : State} (rows : List BlockRow) (hs : P s) :
    P (State.shadowWords s rows) := by
  unfold State.shadowWords
  repeat' (first
    | with_reducible assumption
    | (extract_lets +onlyGivenNames _t; revert _t
       first
       | (with_reducible refine let_keep (P := P) ?_ (fun _ _ => ?_))
       | (with_reducible refine let_keep₂ (P := P) ?_ (fun _ _ => ?_))
       | (with_reducible refine let_keep₁ (P := P) ?_ (fun _ _ => ?_))
       | (with_reducible refine let_maybe (P := P) ?_ (fun _ _ => ?_))
       | (with_reducible refine let_function ?_)
       | (with_reducible refine let_any (fun _ => ?_)))
    | with_reducible apply State.modSpan_keep C
    | (with_reducible refine foldl_keep₁ (fun _ _ _ => ?_) _ _ ?_) <;> try beta_reduce
    | (with_reducible refine foldl_keep₂ (fun _ _ _ => ?_) _ _ ?_) <;> try beta_reduce
    | (with_reducible refine foldl_keep (fun _ _ _ => ?_) _ _ ?_) <;> try beta_reduce
    | (with_reducible refine ite_keep ?_ ?_)
    | split
    | dsimp only)

theorem State.remap_keep (C : Closed P) {s : State} (p : Problem) (r : Run) (hs : P s) :
    P (State.remap s p r) := by
  unfold State.remap
  repeat' (first
    | with_reducible assumption
    | (extract_lets +onlyGivenNames _t; revert _t
       first
       | (with_reducible refine let_keep (P := P) ?_ (fun _ _ => ?_))
       | (with_reducible refine let_keep₂ (P := P) ?_ (fun _ _ => ?_))
       | (with_reducible refine let_keep₁ (P := P) ?_ (fun _ _ => ?_))
       | (with_reducible refine let_maybe (P := P) ?_ (fun _ _ => ?_))
       | (with_reducible refine let_function ?_)
       | (with_reducible refine let_any (fun _ => ?_)))
    | with_reducible apply State.modEng_keep C
    | with_reducible apply State.modBlock_keep C
    | with_reducible apply State.modRun_keep C
    | with_reducible apply State.modProblem_keep C
    | with_reducible apply State.adoptEf_keep C
    | with_reducible apply State.endWork_keep C
    | with_reducible apply State.nextEpoch_keep C
    | with_reducible apply State.setPartials_keep C
    | with_reducible apply State.snapshot_keep C
    | with_reducible apply State.loadDecks_keep C
    | with_reducible apply State.recomputeIn_keep C
    | with_reducible apply State.bringGhosts_keep C
    | with_reducible apply State.shadowWords_keep C
    | (with_reducible refine foldl_keep₁ (fun _ _ _ => ?_) _ _ ?_) <;> try beta_reduce
    | (with_reducible refine foldl_keep₂ (fun _ _ _ => ?_) _ _ ?_) <;> try beta_reduce
    | (with_reducible refine foldl_keep (fun _ _ _ => ?_) _ _ ?_) <;> try beta_reduce
    | (with_reducible refine ite_keep ?_ ?_)
    | split
    | dsimp only
    | (with_reducible refine of_fst (by with_reducible assumption) ?_))

end Sys2Proof.Machine
end

