-- ==== Sys2Proof/Laws/KeepRunStart.lean ====
section
/-! SUPPORT. Every closed property is kept by the operations of Machine/RunStart.lean.
-/

namespace Sys2Proof.Machine

set_option linter.all false

variable {P : State → Prop}

theorem State.placeRun_keep (C : Closed P) {s : State} (p : Problem) (r : Run) (hs : P s) :
    P (State.placeRun s p r) := by
  unfold State.placeRun
  repeat' (first
    | with_reducible assumption
    | (extract_lets +onlyGivenNames _t; revert _t
       first
       | (with_reducible refine let_keep (P := P) ?_ (fun _ _ => ?_))
       | (with_reducible refine let_keep₂ (P := P) ?_ (fun _ _ => ?_))
       | (with_reducible refine let_keep₁ (P := P) ?_ (fun _ _ => ?_))
       | (with_reducible refine let_maybe (P := P) ?_ (fun _ _ => ?_))
       | (with_reducible refine let_function ?_)
       | (with_reducible refine let_any (fun _ => ?_)))
    | with_reducible apply State.modSpan_keep C
    | (with_reducible refine foldl_keep₁ (fun _ _ _ => ?_) _ _ ?_) <;> try beta_reduce
    | (with_reducible refine foldl_keep₂ (fun _ _ _ => ?_) _ _ ?_) <;> try beta_reduce
    | (with_reducible refine foldl_keep (fun _ _ _ => ?_) _ _ ?_) <;> try beta_reduce
    | dsimp only
    | with_reducible refine C.rest ?_)

theorem State.firstState_keep (C : Closed P) {s : State} (p : Problem) (r : Run) (hs : P s) :
    P (State.firstState s p r) := by
  unfold State.firstState
  repeat' (first
    | with_reducible assumption
    | (extract_lets +onlyGivenNames _t; revert _t
       first
       | (with_reducible refine let_keep (P := P) ?_ (fun _ _ => ?_))
       | (with_reducible refine let_keep₂ (P := P) ?_ (fun _ _ => ?_))
       | (with_reducible refine let_keep₁ (P := P) ?_ (fun _ _ => ?_))
       | (with_reducible refine let_maybe (P := P) ?_ (fun _ _ => ?_))
       | (with_reducible refine let_function ?_)
       | (with_reducible refine let_any (fun _ => ?_)))
    | with_reducible apply State.keepStates_keep C
    | with_reducible apply State.loadDecks_keep C
    | with_reducible apply State.loadShadows_keep C
    | with_reducible apply State.placeRun_keep C)

theorem State.firstBest_keep (C : Closed P) {s : State} (p : Problem) (r : Run) (hs : P s) :
    P (State.firstBest s p r) := by
  unfold State.firstBest
  repeat' (first
    | with_reducible assumption
    | (extract_lets +onlyGivenNames _t; revert _t
       first
       | (with_reducible refine let_keep (P := P) ?_ (fun _ _ => ?_))
       | (with_reducible refine let_keep₂ (P := P) ?_ (fun _ _ => ?_))
       | (with_reducible refine let_keep₁ (P := P) ?_ (fun _ _ => ?_))
       | (with_reducible refine let_maybe (P := P) ?_ (fun _ _ => ?_))
       | (with_reducible refine let_function ?_)
       | (with_reducible refine let_any (fun _ => ?_)))
    | with_reducible apply State.modRun_keep C
    | with_reducible apply State.snapshot_keep C)

theorem State.firstFields_keep (C : Closed P) {s : State} (p : Problem) (r : Run) (hs : P s) :
    P (State.firstFields s p r) := by
  unfold State.firstFields
  repeat' (first
    | with_reducible assumption
    | (extract_lets +onlyGivenNames _t; revert _t
       first
       | (with_reducible refine let_keep (P := P) ?_ (fun _ _ => ?_))
       | (with_reducible refine let_keep₂ (P := P) ?_ (fun _ _ => ?_))
       | (with_reducible refine let_keep₁ (P := P) ?_ (fun _ _ => ?_))
       | (with_reducible refine let_maybe (P := P) ?_ (fun _ _ => ?_))
       | (with_reducible refine let_function ?_)
       | (with_reducible refine let_any (fun _ => ?_)))
    | with_reducible apply State.modRun_keep C
    | with_reducible apply State.setPartials_keep C
    | with_reducible apply State.recomputeIn_keep C
    | split
    | (with_reducible refine of_fst (by with_reducible assumption) ?_))

theorem State.firstBetas_keep (C : Closed P) {s : State} (p : Problem) (q : Nat) (hs : P s) :
    P (State.firstBetas s p q) := by
  unfold State.firstBetas
  repeat' (first
    | with_reducible assumption
    | with_reducible apply State.modRun_keep C)

theorem State.formStart_keep (C : Closed P) {s : State} (p : Problem) (r : Run) (hs : P s) :
    P (State.formStart s p r) := by
  unfold State.formStart
  repeat' (first
    | with_reducible assumption
    | (extract_lets +onlyGivenNames _t; revert _t
       first
       | (with_reducible refine let_keep (P := P) ?_ (fun _ _ => ?_))
       | (with_reducible refine let_keep₂ (P := P) ?_ (fun _ _ => ?_))
       | (with_reducible refine let_keep₁ (P := P) ?_ (fun _ _ => ?_))
       | (with_reducible refine let_maybe (P := P) ?_ (fun _ _ => ?_))
       | (with_reducible refine let_function ?_)
       | (with_reducible refine let_any (fun _ => ?_)))
    | with_reducible apply State.firstBest_keep C
    | with_reducible apply State.firstFields_keep C
    | with_reducible apply State.firstBetas_keep C
    | (with_reducible refine ite_keep ?_ ?_)
    | split)

theorem State.loadCkpt_keep (C : Closed P) {s : State} (p : Problem) (c : Ckpt) (r : Run) (hs : P s) :
    P (State.loadCkpt s p c r) := by
  unfold State.loadCkpt
  repeat' (first
    | with_reducible assumption
    | (extract_lets +onlyGivenNames _t; revert _t
       first
       | (with_reducible refine let_keep (P := P) ?_ (fun _ _ => ?_))
       | (with_reducible refine let_keep₂ (P := P) ?_ (fun _ _ => ?_))
       | (with_reducible refine let_keep₁ (P := P) ?_ (fun _ _ => ?_))
       | (with_reducible refine let_maybe (P := P) ?_ (fun _ _ => ?_))
       | (with_reducible refine let_function ?_)
       | (with_reducible refine let_any (fun _ => ?_)))
    | with_reducible apply State.modSpan_keep C
    | with_reducible apply State.loadDecks_keep C
    | with_reducible apply State.loadShadows_keep C
    | (with_reducible refine foldl_keep₁ (fun _ _ _ => ?_) _ _ ?_) <;> try beta_reduce
    | (with_reducible refine foldl_keep₂ (fun _ _ _ => ?_) _ _ ?_) <;> try beta_reduce
    | (with_reducible refine foldl_keep (fun _ _ _ => ?_) _ _ ?_) <;> try beta_reduce
    | (with_reducible refine ite_keep ?_ ?_)
    | split
    | dsimp only)

theorem State.restoreRun_keep (C : Closed P) {s : State} (p : Problem) (c : Ckpt) (r : Run) (hs : P s) :
    P (State.restoreRun s p c r) := by
  unfold State.restoreRun
  repeat' (first
    | with_reducible assumption
    | (extract_lets +onlyGivenNames _t; revert _t
       first
       | (with_reducible refine let_keep (P := P) ?_ (fun _ _ => ?_))
       | (with_reducible refine let_keep₂ (P := P) ?_ (fun _ _ => ?_))
       | (with_reducible refine let_keep₁ (P := P) ?_ (fun _ _ => ?_))
       | (with_reducible refine let_maybe (P := P) ?_ (fun _ _ => ?_))
       | (with_reducible refine let_function ?_)
       | (with_reducible refine let_any (fun _ => ?_)))
    | with_reducible apply State.modSpan_keep C
    | with_reducible apply State.modRun_keep C
    | with_reducible apply State.modProblem_keep C
    | with_reducible apply State.fieldsWritten_keep C
    | with_reducible apply State.setPartials_keep C
    | with_reducible apply State.keepStates_keep C
    | with_reducible apply State.loadDecks_keep C
    | with_reducible apply State.loadShadows_keep C
    | with_reducible apply State.recomputeIn_keep C
    | with_reducible apply State.placeRun_keep C
    | with_reducible apply State.loadCkpt_keep C
    | (with_reducible refine foldl_keep₁ (fun _ _ _ => ?_) _ _ ?_) <;> try beta_reduce
    | (with_reducible refine foldl_keep₂ (fun _ _ _ => ?_) _ _ ?_) <;> try beta_reduce
    | (with_reducible refine foldl_keep (fun _ _ _ => ?_) _ _ ?_) <;> try beta_reduce
    | (with_reducible refine ite_keep ?_ ?_)
    | split
    | dsimp only
    | (with_reducible refine of_fst (by with_reducible assumption) ?_))

end Sys2Proof.Machine
end

