-- ==== Sys2Proof/Laws/KeepSystem.lean ====
section
/-! SUPPORT. Every closed property is kept by the operations of Machine/System.lean.
-/

namespace Sys2Proof.Machine

set_option linter.all false

variable {P : State → Prop}

theorem State.sendCause_keep (C : Closed P) {s : State} (y : SysDesc) (r : Run) (parts : List Nat) (cause : Nat) (epoch : Nat) (hs : P s) :
    P (State.sendCause s y r parts cause epoch) := by
  unfold State.sendCause
  repeat' (first
    | with_reducible assumption
    | with_reducible apply State.sendMarker_keep C
    | (with_reducible refine foldl_keep₁ (fun _ _ _ => ?_) _ _ ?_) <;> try beta_reduce
    | (with_reducible refine foldl_keep₂ (fun _ _ _ => ?_) _ _ ?_) <;> try beta_reduce
    | (with_reducible refine foldl_keep (fun _ _ _ => ?_) _ _ ?_) <;> try beta_reduce
    | dsimp only)

theorem State.endPart_keep (C : Closed P) {s : State} (y : SysDesc) (r : Run) (cause : Nat) (epoch : Nat) (hs : P s) :
    P (State.endPart s y r cause epoch) := by
  unfold State.endPart
  repeat' (first
    | with_reducible assumption
    | with_reducible apply State.modSys_keep C
    | with_reducible apply State.sendCause_keep C)

theorem State.takeCause_keep (C : Closed P) {s : State} (y : SysDesc) (r : Run) (x : SysRun) (part : Nat) (m : Marker) (hs : P s) :
    P (State.takeCause s y r x part m) := by
  unfold State.takeCause
  repeat' (first
    | with_reducible assumption
    | (extract_lets +onlyGivenNames _t; revert _t
       first
       | (with_reducible refine let_keep (P := P) ?_ (fun _ _ => ?_))
       | (with_reducible refine let_keep₂ (P := P) ?_ (fun _ _ => ?_))
       | (with_reducible refine let_keep₁ (P := P) ?_ (fun _ _ => ?_))
       | (with_reducible refine let_maybe (P := P) ?_ (fun _ _ => ?_))
       | (with_reducible refine let_function ?_)
       | (with_reducible refine let_any (fun _ => ?_)))
    | with_reducible apply State.modSys_keep C
    | with_reducible apply State.sendCause_keep C
    | (with_reducible refine ite_keep ?_ ?_)
    | split)

theorem State.noteCause_keep (C : Closed P) {s : State} (p : Problem) (y : SysDesc) (r : Run) (x : SysRun) (hs : P s) :
    P (State.noteCause s p y r x) := by
  unfold State.noteCause
  repeat' (first
    | with_reducible assumption
    | (extract_lets +onlyGivenNames _t; revert _t
       first
       | (with_reducible refine let_keep (P := P) ?_ (fun _ _ => ?_))
       | (with_reducible refine let_keep₂ (P := P) ?_ (fun _ _ => ?_))
       | (with_reducible refine let_keep₁ (P := P) ?_ (fun _ _ => ?_))
       | (with_reducible refine let_maybe (P := P) ?_ (fun _ _ => ?_))
       | (with_reducible refine let_function ?_)
       | (with_reducible refine let_any (fun _ => ?_)))
    | with_reducible apply State.closeEpochs_keep C
    | with_reducible apply State.endPart_keep C
    | (with_reducible refine ite_keep ?_ ?_)
    | split)

theorem State.sendInitial_keep (C : Closed P) {s : State} (p : Problem) (y : SysDesc) (r : Run) (hs : P s) :
    P (State.sendInitial s p y r) := by
  unfold State.sendInitial
  repeat' (first
    | with_reducible assumption
    | (extract_lets +onlyGivenNames _t; revert _t
       first
       | (with_reducible refine let_keep (P := P) ?_ (fun _ _ => ?_))
       | (with_reducible refine let_keep₂ (P := P) ?_ (fun _ _ => ?_))
       | (with_reducible refine let_keep₁ (P := P) ?_ (fun _ _ => ?_))
       | (with_reducible refine let_maybe (P := P) ?_ (fun _ _ => ?_))
       | (with_reducible refine let_function ?_)
       | (with_reducible refine let_any (fun _ => ?_)))
    | with_reducible apply State.sendMarker_keep C
    | with_reducible apply State.sendBatch_keep C
    | (with_reducible refine foldl_keep₁ (fun _ _ _ => ?_) _ _ ?_) <;> try beta_reduce
    | (with_reducible refine foldl_keep₂ (fun _ _ _ => ?_) _ _ ?_) <;> try beta_reduce
    | (with_reducible refine foldl_keep (fun _ _ _ => ?_) _ _ ?_) <;> try beta_reduce
    | dsimp only)

theorem State.runStart_keep (C : Closed P) {s : State} (p : Problem) (y : SysDesc) (r : Run) (m : Marker) (hs : P s) :
    P (State.runStart s p y r m) := by
  unfold State.runStart
  repeat' (first
    | with_reducible assumption
    | (extract_lets +onlyGivenNames _t; revert _t
       first
       | (with_reducible refine let_keep (P := P) ?_ (fun _ _ => ?_))
       | (with_reducible refine let_keep₂ (P := P) ?_ (fun _ _ => ?_))
       | (with_reducible refine let_keep₁ (P := P) ?_ (fun _ _ => ?_))
       | (with_reducible refine let_maybe (P := P) ?_ (fun _ _ => ?_))
       | (with_reducible refine let_function ?_)
       | (with_reducible refine let_any (fun _ => ?_)))
    | with_reducible apply State.modRun_keep C
    | with_reducible apply State.sendMarker_keep C
    | with_reducible apply State.sendInitial_keep C
    | (with_reducible refine foldl_keep₁ (fun _ _ _ => ?_) _ _ ?_) <;> try beta_reduce
    | (with_reducible refine foldl_keep₂ (fun _ _ _ => ?_) _ _ ?_) <;> try beta_reduce
    | (with_reducible refine foldl_keep (fun _ _ _ => ?_) _ _ ?_) <;> try beta_reduce
    | (with_reducible refine ite_keep ?_ ?_)
    | split
    | dsimp only)

theorem State.readyDone_keep (C : Closed P) {s : State} (p : Problem) (y : SysDesc) (r : Run) (x : SysRun) (hs : P s) :
    P (State.readyDone s p y r x) := by
  unfold State.readyDone
  repeat' (first
    | with_reducible assumption
    | (extract_lets +onlyGivenNames _t; revert _t
       first
       | (with_reducible refine let_keep (P := P) ?_ (fun _ _ => ?_))
       | (with_reducible refine let_keep₂ (P := P) ?_ (fun _ _ => ?_))
       | (with_reducible refine let_keep₁ (P := P) ?_ (fun _ _ => ?_))
       | (with_reducible refine let_maybe (P := P) ?_ (fun _ _ => ?_))
       | (with_reducible refine let_function ?_)
       | (with_reducible refine let_any (fun _ => ?_)))
    | with_reducible apply State.sendMarker_keep C
    | with_reducible apply State.modSys_keep C
    | with_reducible apply State.runStart_keep C
    | (with_reducible refine ite_keep ?_ ?_)
    | split)

theorem State.valuesDone_keep (C : Closed P) {s : State} (p : Problem) (r : Run) (x : SysRun) (hs : P s) :
    P (State.valuesDone s p r x) := by
  unfold State.valuesDone
  repeat' (first
    | with_reducible assumption
    | (extract_lets +onlyGivenNames _t; revert _t
       first
       | (with_reducible refine let_keep (P := P) ?_ (fun _ _ => ?_))
       | (with_reducible refine let_keep₂ (P := P) ?_ (fun _ _ => ?_))
       | (with_reducible refine let_keep₁ (P := P) ?_ (fun _ _ => ?_))
       | (with_reducible refine let_maybe (P := P) ?_ (fun _ _ => ?_))
       | (with_reducible refine let_function ?_)
       | (with_reducible refine let_any (fun _ => ?_)))
    | with_reducible apply State.modEng_keep C
    | with_reducible apply State.modSys_keep C
    | with_reducible apply State.firstFields_keep C
    | with_reducible apply State.firstBetas_keep C
    | (with_reducible refine foldl_keep₁ (fun _ _ _ => ?_) _ _ ?_) <;> try beta_reduce
    | (with_reducible refine foldl_keep₂ (fun _ _ _ => ?_) _ _ ?_) <;> try beta_reduce
    | (with_reducible refine foldl_keep (fun _ _ _ => ?_) _ _ ?_) <;> try beta_reduce
    | (with_reducible refine ite_keep ?_ ?_)
    | split
    | dsimp only)

theorem State.sendWrite_keep (C : Closed P) {s : State} (y : SysDesc) (part : Nat) (addr : Nat) (l : List Byte) (hs : P s) :
    P (State.sendWrite s y part addr l) := by
  unfold State.sendWrite
  repeat' (first
    | with_reducible assumption
    | (extract_lets +onlyGivenNames _t; revert _t
       first
       | (with_reducible refine let_keep (P := P) ?_ (fun _ _ => ?_))
       | (with_reducible refine let_keep₂ (P := P) ?_ (fun _ _ => ?_))
       | (with_reducible refine let_keep₁ (P := P) ?_ (fun _ _ => ?_))
       | (with_reducible refine let_maybe (P := P) ?_ (fun _ _ => ?_))
       | (with_reducible refine let_function ?_)
       | (with_reducible refine let_any (fun _ => ?_)))
    | with_reducible apply State.sendTo_keep C
    | (with_reducible refine foldl_keep₁ (fun _ _ _ => ?_) _ _ ?_) <;> try beta_reduce
    | (with_reducible refine foldl_keep₂ (fun _ _ _ => ?_) _ _ ?_) <;> try beta_reduce
    | (with_reducible refine foldl_keep (fun _ _ _ => ?_) _ _ ?_) <;> try beta_reduce
    | dsimp only)

theorem State.adoptSys_keep (C : Closed P) {s : State} (p : Problem) (r : Run) (ef : Int) (hs : P s) :
    P (State.adoptSys s p r ef) := by
  unfold State.adoptSys
  repeat' (first
    | with_reducible assumption
    | with_reducible apply State.adoptEf_keep C
    | with_reducible apply State.adoptAll_keep C
    | (with_reducible refine foldl_keep₁ (fun _ _ _ => ?_) _ _ ?_) <;> try beta_reduce
    | (with_reducible refine foldl_keep₂ (fun _ _ _ => ?_) _ _ ?_) <;> try beta_reduce
    | (with_reducible refine foldl_keep (fun _ _ _ => ?_) _ _ ?_) <;> try beta_reduce
    | dsimp only)

theorem State.settleUp_keep (C : Closed P) {s : State} (y : SysDesc) (r : Run) (sums : List SettleEntry) (hs : P s) :
    P (State.settleUp s y r sums) := by
  unfold State.settleUp
  repeat' (first
    | with_reducible assumption
    | (extract_lets +onlyGivenNames _t; revert _t
       first
       | (with_reducible refine let_keep (P := P) ?_ (fun _ _ => ?_))
       | (with_reducible refine let_keep₂ (P := P) ?_ (fun _ _ => ?_))
       | (with_reducible refine let_keep₁ (P := P) ?_ (fun _ _ => ?_))
       | (with_reducible refine let_maybe (P := P) ?_ (fun _ _ => ?_))
       | (with_reducible refine let_function ?_)
       | (with_reducible refine let_any (fun _ => ?_)))
    | with_reducible apply State.sendMarker_keep C
    | with_reducible apply State.modSys_keep C
    | with_reducible apply State.setPartials_keep C
    | with_reducible apply State.sendWrite_keep C
    | (with_reducible refine ite_keep ?_ ?_)
    | split)

theorem State.sendDone_keep (C : Closed P) {s : State} (y : SysDesc) (ladder : List Byte) (m : Marker) (hs : P s) :
    P (State.sendDone s y ladder m) := by
  unfold State.sendDone
  repeat' (first
    | with_reducible assumption
    | with_reducible apply State.sendMarker_keep C
    | with_reducible apply State.sendWrite_keep C
    | (with_reducible refine foldl_keep₁ (fun _ _ _ => ?_) _ _ ?_) <;> try beta_reduce
    | (with_reducible refine foldl_keep₂ (fun _ _ _ => ?_) _ _ ?_) <;> try beta_reduce
    | (with_reducible refine foldl_keep (fun _ _ _ => ?_) _ _ ?_) <;> try beta_reduce
    | (with_reducible refine ite_keep ?_ ?_)
    | split
    | dsimp only)

theorem State.adoptCause_keep (C : Closed P) {s : State} (q : Nat) (cause : Nat) (status : Nat) (hs : P s) :
    P (State.adoptCause s q cause status) := by
  unfold State.adoptCause
  repeat' (first
    | with_reducible assumption
    | with_reducible apply State.modRun_keep C
    | (with_reducible refine ite_keep ?_ ?_)
    | split)

theorem State.settleRoot_keep (C : Closed P) {s : State} (p : Problem) (y : SysDesc) (r : Run) (x : SysRun) (sums : List SettleEntry) (hs : P s) :
    P (State.settleRoot s p y r x sums) := by
  unfold State.settleRoot
  repeat' (first
    | with_reducible assumption
    | (extract_lets +onlyGivenNames _t; revert _t
       first
       | (with_reducible refine let_keep (P := P) ?_ (fun _ _ => ?_))
       | (with_reducible refine let_keep₂ (P := P) ?_ (fun _ _ => ?_))
       | (with_reducible refine let_keep₁ (P := P) ?_ (fun _ _ => ?_))
       | (with_reducible refine let_maybe (P := P) ?_ (fun _ _ => ?_))
       | (with_reducible refine let_function ?_)
       | (with_reducible refine let_any (fun _ => ?_)))
    | with_reducible apply State.modRun_keep C
    | with_reducible apply State.modSys_keep C
    | with_reducible apply State.setPartials_keep C
    | with_reducible apply State.auditAgainst_keep C
    | with_reducible apply State.firstBest_keep C
    | with_reducible apply State.adoptSys_keep C
    | with_reducible apply State.settleUp_keep C
    | with_reducible apply State.sendDone_keep C
    | with_reducible apply State.adoptCause_keep C
    | (with_reducible refine foldl_keep₁ (fun _ _ _ => ?_) _ _ ?_) <;> try beta_reduce
    | (with_reducible refine foldl_keep₂ (fun _ _ _ => ?_) _ _ ?_) <;> try beta_reduce
    | (with_reducible refine foldl_keep (fun _ _ _ => ?_) _ _ ?_) <;> try beta_reduce
    | (with_reducible refine ite_keep ?_ ?_)
    | split
    | dsimp only
    | (with_reducible refine of_fst (by with_reducible assumption) ?_))

theorem State.settleStep_keep (C : Closed P) {s : State} (p : Problem) (y : SysDesc) (r : Run) (x : SysRun) (hs : P s) :
    P (State.settleStep s p y r x) := by
  unfold State.settleStep
  repeat' (first
    | with_reducible assumption
    | (extract_lets +onlyGivenNames _t; revert _t
       first
       | (with_reducible refine let_keep (P := P) ?_ (fun _ _ => ?_))
       | (with_reducible refine let_keep₂ (P := P) ?_ (fun _ _ => ?_))
       | (with_reducible refine let_keep₁ (P := P) ?_ (fun _ _ => ?_))
       | (with_reducible refine let_maybe (P := P) ?_ (fun _ _ => ?_))
       | (with_reducible refine let_function ?_)
       | (with_reducible refine let_any (fun _ => ?_)))
    | with_reducible apply State.settleUp_keep C
    | with_reducible apply State.settleRoot_keep C
    | (with_reducible refine ite_keep ?_ ?_)
    | split)

theorem State.noteLimit_keep (C : Closed P) {s : State} (q : Nat) (hs : P s) :
    P (State.noteLimit s q) := by
  unfold State.noteLimit
  repeat' (first
    | with_reducible assumption
    | with_reducible apply State.endPart_keep C
    | (with_reducible refine ite_keep ?_ ?_)
    | split)

theorem State.sysSettle_keep (C : Closed P) {s : State} (p : Problem) (r : Run) (ok : Bool) (hs : P s) :
    P (State.sysSettle s p r ok) := by
  unfold State.sysSettle
  repeat' (first
    | with_reducible assumption
    | (extract_lets +onlyGivenNames _t; revert _t
       first
       | (with_reducible refine let_keep (P := P) ?_ (fun _ _ => ?_))
       | (with_reducible refine let_keep₂ (P := P) ?_ (fun _ _ => ?_))
       | (with_reducible refine let_keep₁ (P := P) ?_ (fun _ _ => ?_))
       | (with_reducible refine let_maybe (P := P) ?_ (fun _ _ => ?_))
       | (with_reducible refine let_function ?_)
       | (with_reducible refine let_any (fun _ => ?_)))
    | with_reducible apply State.modEng_keep C
    | with_reducible apply State.modSys_keep C
    | with_reducible apply State.refreshStep_keep C
    | with_reducible apply State.noteLimit_keep C
    | (with_reducible refine foldl_keep₁ (fun _ _ _ => ?_) _ _ ?_) <;> try beta_reduce
    | (with_reducible refine foldl_keep₂ (fun _ _ _ => ?_) _ _ ?_) <;> try beta_reduce
    | (with_reducible refine foldl_keep (fun _ _ _ => ?_) _ _ ?_) <;> try beta_reduce
    | (with_reducible refine ite_keep ?_ ?_)
    | split
    | dsimp only)

theorem State.takeLadder_keep (C : Closed P) {s : State} (p : Problem) (y : SysDesc) (r : Run) (hs : P s) :
    P (State.takeLadder s p y r) := by
  unfold State.takeLadder
  repeat' (first
    | with_reducible assumption
    | (extract_lets +onlyGivenNames _t; revert _t
       first
       | (with_reducible refine let_keep (P := P) ?_ (fun _ _ => ?_))
       | (with_reducible refine let_keep₂ (P := P) ?_ (fun _ _ => ?_))
       | (with_reducible refine let_keep₁ (P := P) ?_ (fun _ _ => ?_))
       | (with_reducible refine let_maybe (P := P) ?_ (fun _ _ => ?_))
       | (with_reducible refine let_function ?_)
       | (with_reducible refine let_any (fun _ => ?_)))
    | with_reducible apply State.modRun_keep C
    | (with_reducible refine foldl_keep₁ (fun _ _ _ => ?_) _ _ ?_) <;> try beta_reduce
    | (with_reducible refine foldl_keep₂ (fun _ _ _ => ?_) _ _ ?_) <;> try beta_reduce
    | (with_reducible refine foldl_keep (fun _ _ _ => ?_) _ _ ?_) <;> try beta_reduce
    | (with_reducible refine ite_keep ?_ ?_)
    | split
    | dsimp only)

theorem State.settleDone_keep (C : Closed P) {s : State} (p : Problem) (y : SysDesc) (r : Run) (x : SysRun) (m : Marker) (hs : P s) :
    P (State.settleDone s p y r x m) := by
  unfold State.settleDone
  repeat' (first
    | with_reducible assumption
    | (extract_lets +onlyGivenNames _t; revert _t
       first
       | (with_reducible refine let_keep (P := P) ?_ (fun _ _ => ?_))
       | (with_reducible refine let_keep₂ (P := P) ?_ (fun _ _ => ?_))
       | (with_reducible refine let_keep₁ (P := P) ?_ (fun _ _ => ?_))
       | (with_reducible refine let_maybe (P := P) ?_ (fun _ _ => ?_))
       | (with_reducible refine let_function ?_)
       | (with_reducible refine let_any (fun _ => ?_)))
    | with_reducible apply State.modRun_keep C
    | with_reducible apply State.modSys_keep C
    | with_reducible apply State.snapshot_keep C
    | with_reducible apply State.adoptSys_keep C
    | with_reducible apply State.sendDone_keep C
    | with_reducible apply State.adoptCause_keep C
    | with_reducible apply State.takeLadder_keep C
    | (with_reducible refine ite_keep ?_ ?_)
    | split)

theorem State.settleAlone_keep (C : Closed P) {s : State} (p : Problem) (r : Run) (x : SysRun) (hs : P s) :
    P (State.settleAlone s p r x) := by
  unfold State.settleAlone
  repeat' (first
    | with_reducible assumption
    | (extract_lets +onlyGivenNames _t; revert _t
       first
       | (with_reducible refine let_keep (P := P) ?_ (fun _ _ => ?_))
       | (with_reducible refine let_keep₂ (P := P) ?_ (fun _ _ => ?_))
       | (with_reducible refine let_keep₁ (P := P) ?_ (fun _ _ => ?_))
       | (with_reducible refine let_maybe (P := P) ?_ (fun _ _ => ?_))
       | (with_reducible refine let_function ?_)
       | (with_reducible refine let_any (fun _ => ?_)))
    | with_reducible apply State.modSys_keep C
    | with_reducible apply State.firstBest_keep C
    | with_reducible apply State.adoptCause_keep C
    | (with_reducible refine ite_keep ?_ ?_)
    | split)

theorem State.sysStep_keep (C : Closed P) {s : State} (q : Nat) (hs : P s) :
    P (State.sysStep s q) := by
  unfold State.sysStep
  repeat' (first
    | with_reducible assumption
    | with_reducible apply State.modSys_keep C
    | with_reducible apply State.noteCause_keep C
    | with_reducible apply State.runStart_keep C
    | with_reducible apply State.readyDone_keep C
    | with_reducible apply State.valuesDone_keep C
    | with_reducible apply State.settleStep_keep C
    | with_reducible apply State.settleDone_keep C
    | with_reducible apply State.settleAlone_keep C
    | (with_reducible refine ite_keep ?_ ?_)
    | split)

theorem State.waitFails_keep (C : Closed P) {s : State} (q : Nat) (hs : P s) :
    P (State.waitFails s q) := by
  unfold State.waitFails
  repeat' (first
    | with_reducible assumption
    | (extract_lets +onlyGivenNames _t; revert _t
       first
       | (with_reducible refine let_keep (P := P) ?_ (fun _ _ => ?_))
       | (with_reducible refine let_keep₂ (P := P) ?_ (fun _ _ => ?_))
       | (with_reducible refine let_keep₁ (P := P) ?_ (fun _ _ => ?_))
       | (with_reducible refine let_maybe (P := P) ?_ (fun _ _ => ?_))
       | (with_reducible refine let_function ?_)
       | (with_reducible refine let_any (fun _ => ?_)))
    | with_reducible apply State.stopRun_keep C
    | with_reducible apply State.raise_keep C
    | with_reducible apply State.modSys_keep C
    | with_reducible apply State.endPart_keep C
    | (with_reducible refine ite_keep ?_ ?_)
    | split)

theorem State.expireWait_keep (C : Closed P) {s : State} (q : Nat) (hs : P s) :
    P (State.expireWait s q) := by
  unfold State.expireWait
  repeat' (first
    | with_reducible assumption
    | with_reducible apply State.waitFails_keep C
    | (with_reducible refine ite_keep ?_ ?_)
    | split)

theorem State.expireWaits_keep (C : Closed P) {s : State} (hs : P s) :
    P (State.expireWaits s) := by
  unfold State.expireWaits
  repeat' (first
    | with_reducible assumption
    | with_reducible apply State.expireWait_keep C
    | (with_reducible refine foldl_keep₁ (fun _ _ _ => ?_) _ _ ?_) <;> try beta_reduce
    | (with_reducible refine foldl_keep₂ (fun _ _ _ => ?_) _ _ ?_) <;> try beta_reduce
    | (with_reducible refine foldl_keep (fun _ _ _ => ?_) _ _ ?_) <;> try beta_reduce
    | dsimp only)

theorem State.noteWait_keep (C : Closed P) {s : State} (q : Nat) (hs : P s) :
    P (State.noteWait s q) := by
  unfold State.noteWait
  repeat' (first
    | with_reducible assumption
    | (extract_lets +onlyGivenNames _t; revert _t
       first
       | (with_reducible refine let_keep (P := P) ?_ (fun _ _ => ?_))
       | (with_reducible refine let_keep₂ (P := P) ?_ (fun _ _ => ?_))
       | (with_reducible refine let_keep₁ (P := P) ?_ (fun _ _ => ?_))
       | (with_reducible refine let_maybe (P := P) ?_ (fun _ _ => ?_))
       | (with_reducible refine let_function ?_)
       | (with_reducible refine let_any (fun _ => ?_)))
    | with_reducible apply State.modSys_keep C
    | with_reducible apply State.expireWait_keep C
    | (with_reducible refine ite_keep ?_ ?_)
    | split)

theorem State.noteSettle_keep (C : Closed P) {s : State} (addr : Nat) (len : Nat) (hs : P s) :
    P (State.noteSettle s addr len) := by
  unfold State.noteSettle
  repeat' (first
    | with_reducible assumption
    | (extract_lets +onlyGivenNames _t; revert _t
       first
       | (with_reducible refine let_keep (P := P) ?_ (fun _ _ => ?_))
       | (with_reducible refine let_keep₂ (P := P) ?_ (fun _ _ => ?_))
       | (with_reducible refine let_keep₁ (P := P) ?_ (fun _ _ => ?_))
       | (with_reducible refine let_maybe (P := P) ?_ (fun _ _ => ?_))
       | (with_reducible refine let_function ?_)
       | (with_reducible refine let_any (fun _ => ?_)))
    | with_reducible apply State.modSys_keep C
    | with_reducible apply State.expireWaits_keep C
    | (with_reducible refine foldl_keep₁ (fun _ _ _ => ?_) _ _ ?_) <;> try beta_reduce
    | (with_reducible refine foldl_keep₂ (fun _ _ _ => ?_) _ _ ?_) <;> try beta_reduce
    | (with_reducible refine foldl_keep (fun _ _ _ => ?_) _ _ ?_) <;> try beta_reduce
    | (with_reducible refine ite_keep ?_ ?_)
    | split
    | dsimp only)

theorem State.takeMarker_keep (C : Closed P) {s : State} (num : Nat) (module : Nat) (aux : Nat) (m : Marker) (hs : P s) :
    P (State.takeMarker s num module aux m) := by
  unfold State.takeMarker
  repeat' (first
    | with_reducible assumption
    | (extract_lets +onlyGivenNames _t; revert _t
       first
       | (with_reducible refine let_keep (P := P) ?_ (fun _ _ => ?_))
       | (with_reducible refine let_keep₂ (P := P) ?_ (fun _ _ => ?_))
       | (with_reducible refine let_keep₁ (P := P) ?_ (fun _ _ => ?_))
       | (with_reducible refine let_maybe (P := P) ?_ (fun _ _ => ?_))
       | (with_reducible refine let_function ?_)
       | (with_reducible refine let_any (fun _ => ?_)))
    | with_reducible apply State.modSys_keep C
    | with_reducible apply State.takeCause_keep C
    | with_reducible apply State.settleUp_keep C
    | with_reducible apply State.settleDone_keep C
    | with_reducible apply State.expireWaits_keep C
    | (with_reducible refine ite_keep ?_ ?_)
    | split
    | with_reducible refine C.rest ?_)

theorem State.takeBatch_keep (C : Closed P) {s : State} (l : Nat) (num : Nat) (module : Nat) (b : FlipBatch) (hs : P s) :
    P (State.takeBatch s l num module b) := by
  unfold State.takeBatch
  repeat' (first
    | with_reducible assumption
    | (extract_lets +onlyGivenNames _t; revert _t
       first
       | (with_reducible refine let_keep (P := P) ?_ (fun _ _ => ?_))
       | (with_reducible refine let_keep₂ (P := P) ?_ (fun _ _ => ?_))
       | (with_reducible refine let_keep₁ (P := P) ?_ (fun _ _ => ?_))
       | (with_reducible refine let_maybe (P := P) ?_ (fun _ _ => ?_))
       | (with_reducible refine let_function ?_)
       | (with_reducible refine let_any (fun _ => ?_)))
    | with_reducible apply State.modLink_keep C
    | with_reducible apply State.raiseTimes_keep C
    | with_reducible apply State.modSys_keep C
    | with_reducible apply State.expireWaits_keep C
    | (with_reducible refine ite_keep ?_ ?_)
    | split
    | with_reducible refine C.rest ?_)

end Sys2Proof.Machine
end

