-- ==== Sys2Proof/Laws/KeepRunSeq.lean ====
section
/-! SUPPORT. Every closed property is kept by the operations of Machine/RunSeq.lean.
-/

namespace Sys2Proof.Machine

set_option linter.all false

variable {P : State → Prop}

theorem State.completeAnneal_keep (C : Closed P) {s : State} (n : Nat) (v : Word) (hs : P s) :
    P (State.completeAnneal s n v) := by
  unfold State.completeAnneal
  repeat' (first
    | with_reducible assumption
    | (extract_lets +onlyGivenNames _t; revert _t
       first
       | (with_reducible refine let_keep (P := P) ?_ (fun _ _ => ?_))
       | (with_reducible refine let_keep₂ (P := P) ?_ (fun _ _ => ?_))
       | (with_reducible refine let_keep₁ (P := P) ?_ (fun _ _ => ?_))
       | (with_reducible refine let_maybe (P := P) ?_ (fun _ _ => ?_))
       | (with_reducible refine let_function ?_)
       | (with_reducible refine let_any (fun _ => ?_)))
    | with_reducible apply State.modPier_keep C
    | split)

theorem State.faultAnneal_keep (C : Closed P) {s : State} (n : Nat) (code : Nat) (hs : P s) :
    P (State.faultAnneal s n code) := by
  unfold State.faultAnneal
  repeat' (first
    | with_reducible assumption
    | with_reducible apply State.pierFault_keep C
    | split)

theorem State.failBind_keep (C : Closed P) {s : State} (spans : List Nat) (status : Nat) (detail : Nat) (hs : P s) :
    P (State.failBind s spans status detail) := by
  unfold State.failBind
  repeat' (first
    | with_reducible assumption
    | (extract_lets +onlyGivenNames _t; revert _t
       first
       | (with_reducible refine let_keep (P := P) ?_ (fun _ _ => ?_))
       | (with_reducible refine let_keep₂ (P := P) ?_ (fun _ _ => ?_))
       | (with_reducible refine let_keep₁ (P := P) ?_ (fun _ _ => ?_))
       | (with_reducible refine let_maybe (P := P) ?_ (fun _ _ => ?_))
       | (with_reducible refine let_function ?_)
       | (with_reducible refine let_any (fun _ => ?_)))
    | with_reducible apply State.modExec_keep C
    | with_reducible apply State.faultAnneal_keep C
    | (with_reducible refine foldl_keep₁ (fun _ _ _ => ?_) _ _ ?_) <;> try beta_reduce
    | (with_reducible refine foldl_keep₂ (fun _ _ _ => ?_) _ _ ?_) <;> try beta_reduce
    | (with_reducible refine foldl_keep (fun _ _ _ => ?_) _ _ ?_) <;> try beta_reduce
    | (with_reducible refine ite_keep ?_ ?_)
    | split
    | dsimp only)

theorem State.startRun_keep (C : Closed P) {s : State} (p : Problem) (r : Run) (c : Option Ckpt) (hs : P s) :
    P (State.startRun s p r c) := by
  unfold State.startRun
  repeat' (first
    | with_reducible assumption
    | (extract_lets +onlyGivenNames _t; revert _t
       first
       | (with_reducible refine let_keep (P := P) ?_ (fun _ _ => ?_))
       | (with_reducible refine let_keep₂ (P := P) ?_ (fun _ _ => ?_))
       | (with_reducible refine let_keep₁ (P := P) ?_ (fun _ _ => ?_))
       | (with_reducible refine let_maybe (P := P) ?_ (fun _ _ => ?_))
       | (with_reducible refine let_function ?_)
       | (with_reducible refine let_any (fun _ => ?_)))
    | with_reducible apply State.modSys_keep C
    | with_reducible apply State.firstState_keep C
    | with_reducible apply State.formStart_keep C
    | with_reducible apply State.restoreRun_keep C
    | split
    | with_reducible refine C.rest ?_)

theorem State.bindStep_keep (C : Closed P) {s : State} (ctx cmd : Nat) (batch : Bool) (hs : P s) :
    Maybe P (State.bindStep s ctx cmd batch) := by
  unfold State.bindStep
  extract_lets spans busy new fail
  have hf : ∀ a b, Maybe P (fail a b) := fun a b => maybe_some (State.failBind_keep C _ _ _ hs)
  clear_value fail new busy spans
  refine ite_maybe (maybe_some (foldl_keep (fun _ _ h => State.faultAnneal_keep C _ _ h) _ _ hs)) ?_
  split
  · exact maybe_none
  extract_lets b cmdExec op d s' u
  have hd : P d.2 := by
    simp only [d]
    split
    · exact State.generate_keep C _ hs
    · exact hs
  clear_value d b cmdExec op
  have hs' : P s' := by
    simp only [s']
    split
    · exact foldl_keep (fun _ _ h => State.spadWrite_keep C _ _ _ h) _ _ hd
    · exact hd
  clear_value s'
  have hu : P u := by
    refine foldl_keep (fun _ _ h => ?_) _ _ hs'
    split
    · exact State.modSpan_keep C _ _ h
    · exact h
  clear_value u
  refine ite_maybe (hf _ _) (ite_maybe (hf _ _) ?_)
  split
  · exact hf _ _
  refine ite_maybe (hf _ _) (ite_maybe maybe_none (ite_maybe (hf _ _) (ite_maybe maybe_none (ite_maybe (hf _ _)
    (ite_maybe (hf _ _) (ite_maybe maybe_none ?_))))))
  extract_lets r
  clear_value r
  refine ite_maybe ?_ (maybe_some (State.startRun_keep C _ _ _ hu))
  split
  · exact maybe_some (State.startRun_keep C _ _ _ hu)
  · exact maybe_some (State.failBind_keep C _ _ _ hu)

theorem State.completeAll_keep (C : Closed P) {s : State} (r : Run) (next : Nat) (v : Nat → Word) (hs : P s) :
    P (State.completeAll s r next v) := by
  unfold State.completeAll
  repeat' (first
    | with_reducible assumption
    | (extract_lets +onlyGivenNames _t; revert _t
       first
       | (with_reducible refine let_keep (P := P) ?_ (fun _ _ => ?_))
       | (with_reducible refine let_keep₂ (P := P) ?_ (fun _ _ => ?_))
       | (with_reducible refine let_keep₁ (P := P) ?_ (fun _ _ => ?_))
       | (with_reducible refine let_maybe (P := P) ?_ (fun _ _ => ?_))
       | (with_reducible refine let_function ?_)
       | (with_reducible refine let_any (fun _ => ?_)))
    | with_reducible apply State.modSpan_keep C
    | with_reducible apply State.completeAnneal_keep C
    | (with_reducible refine foldl_keep₁ (fun _ _ _ => ?_) _ _ ?_) <;> try beta_reduce
    | (with_reducible refine foldl_keep₂ (fun _ _ _ => ?_) _ _ ?_) <;> try beta_reduce
    | (with_reducible refine foldl_keep (fun _ _ _ => ?_) _ _ ?_) <;> try beta_reduce
    | (with_reducible refine ite_keep ?_ ?_)
    | split
    | dsimp only)

theorem State.startSweep_keep (C : Closed P) {s : State} (p : Problem) (r : Run) (hs : P s) :
    P (State.startSweep s p r) := by
  unfold State.startSweep
  repeat' (first
    | with_reducible assumption
    | (extract_lets +onlyGivenNames _t; revert _t
       first
       | (with_reducible refine let_keep (P := P) ?_ (fun _ _ => ?_))
       | (with_reducible refine let_keep₂ (P := P) ?_ (fun _ _ => ?_))
       | (with_reducible refine let_keep₁ (P := P) ?_ (fun _ _ => ?_))
       | (with_reducible refine let_maybe (P := P) ?_ (fun _ _ => ?_))
       | (with_reducible refine let_function ?_)
       | (with_reducible refine let_any (fun _ => ?_)))
    | with_reducible apply State.modEng_keep C
    | with_reducible apply State.modRun_keep C
    | with_reducible apply State.modSys_keep C
    | with_reducible apply State.endEpochIfDone_keep C
    | with_reducible apply State.remap_keep C
    | (with_reducible refine foldl_keep₁ (fun _ _ _ => ?_) _ _ ?_) <;> try beta_reduce
    | (with_reducible refine foldl_keep₂ (fun _ _ _ => ?_) _ _ ?_) <;> try beta_reduce
    | (with_reducible refine foldl_keep (fun _ _ _ => ?_) _ _ ?_) <;> try beta_reduce
    | (with_reducible refine ite_keep ?_ ?_)
    | split
    | dsimp only)

theorem State.tellChildren_keep (C : Closed P) {s : State} (p : Problem) (r : Run) (ends : Bool) (hs : P s) :
    P (State.tellChildren s p r ends) := by
  unfold State.tellChildren
  repeat' (first
    | with_reducible assumption
    | (extract_lets +onlyGivenNames _t; revert _t
       first
       | (with_reducible refine let_keep (P := P) ?_ (fun _ _ => ?_))
       | (with_reducible refine let_keep₂ (P := P) ?_ (fun _ _ => ?_))
       | (with_reducible refine let_keep₁ (P := P) ?_ (fun _ _ => ?_))
       | (with_reducible refine let_maybe (P := P) ?_ (fun _ _ => ?_))
       | (with_reducible refine let_function ?_)
       | (with_reducible refine let_any (fun _ => ?_)))
    | with_reducible apply State.sendDone_keep C
    | (with_reducible refine ite_keep ?_ ?_)
    | split)

theorem State.endStep_keep (C : Closed P) {s : State} (p : Problem) (r : Run) (hs : P s) :
    P (State.endStep s p r) := by
  unfold State.endStep
  repeat' (first
    | with_reducible assumption
    | (extract_lets +onlyGivenNames _t; revert _t
       first
       | (with_reducible refine let_keep (P := P) ?_ (fun _ _ => ?_))
       | (with_reducible refine let_keep₂ (P := P) ?_ (fun _ _ => ?_))
       | (with_reducible refine let_keep₁ (P := P) ?_ (fun _ _ => ?_))
       | (with_reducible refine let_maybe (P := P) ?_ (fun _ _ => ?_))
       | (with_reducible refine let_function ?_)
       | (with_reducible refine let_any (fun _ => ?_)))
    | with_reducible apply State.modSpan_keep C
    | with_reducible apply State.takeStops_keep C
    | with_reducible apply State.finishRun_keep C
    | with_reducible apply State.completeAnneal_keep C
    | with_reducible apply State.completeAll_keep C
    | with_reducible apply State.tellChildren_keep C
    | (with_reducible refine foldl_keep₁ (fun _ _ _ => ?_) _ _ ?_) <;> try beta_reduce
    | (with_reducible refine foldl_keep₂ (fun _ _ _ => ?_) _ _ ?_) <;> try beta_reduce
    | (with_reducible refine foldl_keep (fun _ _ _ => ?_) _ _ ?_) <;> try beta_reduce
    | (with_reducible refine ite_keep ?_ ?_)
    | split
    | dsimp only)

theorem State.snapStep_keep (C : Closed P) {s : State} (p : Problem) (r : Run) (hs : P s) :
    P (State.snapStep s p r).1 := by
  unfold State.snapStep
  repeat' (first
    | with_reducible assumption
    | split
    | dsimp only
    | (extract_lets +onlyGivenNames _t; revert _t
       first
       | (with_reducible refine let_keep (P := P) ?_ (fun _ _ => ?_))
       | (with_reducible refine let_keep₂ (P := P) ?_ (fun _ _ => ?_))
       | (with_reducible refine let_keep₁ (P := P) ?_ (fun _ _ => ?_))
       | (with_reducible refine let_maybe (P := P) ?_ (fun _ _ => ?_))
       | (with_reducible refine let_function ?_)
       | (with_reducible refine let_any (fun _ => ?_)))
    | with_reducible apply State.bestStep_keep C
    | with_reducible apply State.sampleStep_keep C
    | dsimp only
    | (with_reducible refine ite_keep ?_ ?_)
    | split
    | (with_reducible refine of_fst (by with_reducible assumption) ?_))

theorem State.frefStep_keep (C : Closed P) {s : State} (p : Problem) (r : Run) (hs : P s) :
    P (State.frefStep s p r) := by
  unfold State.frefStep
  repeat' (first
    | with_reducible assumption
    | (extract_lets +onlyGivenNames _t; revert _t
       first
       | (with_reducible refine let_keep (P := P) ?_ (fun _ _ => ?_))
       | (with_reducible refine let_keep₂ (P := P) ?_ (fun _ _ => ?_))
       | (with_reducible refine let_keep₁ (P := P) ?_ (fun _ _ => ?_))
       | (with_reducible refine let_maybe (P := P) ?_ (fun _ _ => ?_))
       | (with_reducible refine let_function ?_)
       | (with_reducible refine let_any (fun _ => ?_)))
    | with_reducible apply State.refreshStep_keep C
    | with_reducible apply State.completeAll_keep C
    | (with_reducible refine ite_keep ?_ ?_)
    | split)

theorem State.eaudStep_keep (C : Closed P) {s : State} (p : Problem) (r : Run) (hs : P s) :
    P (State.eaudStep s p r) := by
  unfold State.eaudStep
  repeat' (first
    | with_reducible assumption
    | (extract_lets +onlyGivenNames _t; revert _t
       first
       | (with_reducible refine let_keep (P := P) ?_ (fun _ _ => ?_))
       | (with_reducible refine let_keep₂ (P := P) ?_ (fun _ _ => ?_))
       | (with_reducible refine let_keep₁ (P := P) ?_ (fun _ _ => ?_))
       | (with_reducible refine let_maybe (P := P) ?_ (fun _ _ => ?_))
       | (with_reducible refine let_function ?_)
       | (with_reducible refine let_any (fun _ => ?_)))
    | with_reducible apply State.auditStep_keep C
    | with_reducible apply State.completeAll_keep C
    | (with_reducible refine ite_keep ?_ ?_)
    | split
    | (with_reducible refine of_fst (by with_reducible assumption) ?_))

theorem State.xchgStep_keep (C : Closed P) {s : State} (p : Problem) (r : Run) (hs : P s) :
    P (State.xchgStep s p r) := by
  unfold State.xchgStep
  repeat' (first
    | with_reducible assumption
    | (extract_lets +onlyGivenNames _t; revert _t
       first
       | (with_reducible refine let_keep (P := P) ?_ (fun _ _ => ?_))
       | (with_reducible refine let_keep₂ (P := P) ?_ (fun _ _ => ?_))
       | (with_reducible refine let_keep₁ (P := P) ?_ (fun _ _ => ?_))
       | (with_reducible refine let_maybe (P := P) ?_ (fun _ _ => ?_))
       | (with_reducible refine let_function ?_)
       | (with_reducible refine let_any (fun _ => ?_)))
    | with_reducible apply State.modRun_keep C
    | with_reducible apply State.completeAll_keep C
    | (with_reducible refine ite_keep ?_ ?_)
    | split)

theorem State.rmigStep_keep (C : Closed P) {s : State} (p : Problem) (r : Run) (hs : P s) :
    P (State.rmigStep s p r) := by
  unfold State.rmigStep
  repeat' (first
    | with_reducible assumption
    | (extract_lets +onlyGivenNames _t; revert _t
       first
       | (with_reducible refine let_keep (P := P) ?_ (fun _ _ => ?_))
       | (with_reducible refine let_keep₂ (P := P) ?_ (fun _ _ => ?_))
       | (with_reducible refine let_keep₁ (P := P) ?_ (fun _ _ => ?_))
       | (with_reducible refine let_maybe (P := P) ?_ (fun _ _ => ?_))
       | (with_reducible refine let_function ?_)
       | (with_reducible refine let_any (fun _ => ?_)))
    | with_reducible apply State.migrateStep_keep C
    | with_reducible apply State.completeAll_keep C
    | split
    | (with_reducible refine of_fst (by with_reducible assumption) ?_))

theorem State.wrotStep_keep (C : Closed P) {s : State} (p : Problem) (r : Run) (hs : P s) :
    P (State.wrotStep s p r) := by
  unfold State.wrotStep
  repeat' (first
    | with_reducible assumption
    | (extract_lets +onlyGivenNames _t; revert _t
       first
       | (with_reducible refine let_keep (P := P) ?_ (fun _ _ => ?_))
       | (with_reducible refine let_keep₂ (P := P) ?_ (fun _ _ => ?_))
       | (with_reducible refine let_keep₁ (P := P) ?_ (fun _ _ => ?_))
       | (with_reducible refine let_maybe (P := P) ?_ (fun _ _ => ?_))
       | (with_reducible refine let_function ?_)
       | (with_reducible refine let_any (fun _ => ?_)))
    | with_reducible apply State.rotateStep_keep C
    | with_reducible apply State.completeAll_keep C
    | (with_reducible refine ite_keep ?_ ?_)
    | split
    | (with_reducible refine of_fst (by with_reducible assumption) ?_))

theorem State.schedNextStep_keep (C : Closed P) {s : State} (p : Problem) (r : Run) (hs : P s) :
    Maybe P (State.schedNextStep s p r) := by
  unfold State.schedNextStep
  repeat' (first
    | with_reducible exact maybe_none
    | (with_reducible refine maybe_some ?_)
    | (with_reducible refine ite_maybe ?_ ?_)
    | with_reducible assumption
    | (extract_lets +onlyGivenNames _t; revert _t
       first
       | (with_reducible refine let_keep (P := P) ?_ (fun _ _ => ?_))
       | (with_reducible refine let_keep₂ (P := P) ?_ (fun _ _ => ?_))
       | (with_reducible refine let_keep₁ (P := P) ?_ (fun _ _ => ?_))
       | (with_reducible refine let_maybe (P := P) ?_ (fun _ _ => ?_))
       | (with_reducible refine let_function ?_)
       | (with_reducible refine let_any (fun _ => ?_)))
    | with_reducible apply State.modRun_keep C
    | with_reducible apply State.ckptClose_keep C
    | with_reducible apply State.nextStep_keep C
    | with_reducible apply State.completeAll_keep C
    | (with_reducible refine ite_keep ?_ ?_)
    | split
    | (with_reducible refine findSome_maybe (fun _ => ?_) _))

theorem State.collective_keep (C : Closed P) {s : State} (p : Problem) (r : Run) (order : Nat) (hs : P s) :
    Maybe P (State.collective s p r order) := by
  unfold State.collective
  repeat' (first
    | with_reducible exact maybe_none
    | (with_reducible refine maybe_some ?_)
    | (with_reducible refine ite_maybe ?_ ?_)
    | with_reducible assumption
    | (extract_lets +onlyGivenNames _t; revert _t
       first
       | (with_reducible refine let_keep (P := P) ?_ (fun _ _ => ?_))
       | (with_reducible refine let_keep₂ (P := P) ?_ (fun _ _ => ?_))
       | (with_reducible refine let_keep₁ (P := P) ?_ (fun _ _ => ?_))
       | (with_reducible refine let_maybe (P := P) ?_ (fun _ _ => ?_))
       | (with_reducible refine let_function ?_)
       | (with_reducible refine let_any (fun _ => ?_)))
    | with_reducible apply State.modRun_keep C
    | with_reducible apply State.completeAll_keep C
    | with_reducible apply State.startSweep_keep C
    | with_reducible apply State.endStep_keep C
    | with_reducible apply State.snapStep_keep C
    | with_reducible apply State.frefStep_keep C
    | with_reducible apply State.eaudStep_keep C
    | with_reducible apply State.xchgStep_keep C
    | with_reducible apply State.rmigStep_keep C
    | with_reducible apply State.wrotStep_keep C
    | with_reducible apply State.schedNextStep_keep C
    | (with_reducible refine ite_keep ?_ ?_)
    | split
    | (with_reducible refine findSome_maybe (fun _ => ?_) _)
    | (with_reducible refine of_fst (by with_reducible assumption) ?_)
    | (with_reducible refine of_maybe (by with_reducible assumption) ?_)
    | (with_reducible refine of_maybe (by with_reducible assumption) ?_))

theorem State.onRun_keep (C : Closed P) {s : State} (q : Nat) (f : State → Run → State) (hf : ∀ y0 y1, P y0 → P (f y0 y1)) (hs : P s) :
    P (State.onRun s q f) := by
  unfold State.onRun
  repeat' (first
    | with_reducible assumption
    | with_reducible apply hf
    | split)

theorem State.endUncarried_keep (C : Closed P) {s : State} (p : Problem) (r : Run) (hs : P s) :
    P (State.endUncarried s p r) := by
  unfold State.endUncarried
  repeat' (first
    | with_reducible assumption
    | (extract_lets +onlyGivenNames _t; revert _t
       first
       | (with_reducible refine let_keep (P := P) ?_ (fun _ _ => ?_))
       | (with_reducible refine let_keep₂ (P := P) ?_ (fun _ _ => ?_))
       | (with_reducible refine let_keep₁ (P := P) ?_ (fun _ _ => ?_))
       | (with_reducible refine let_maybe (P := P) ?_ (fun _ _ => ?_))
       | (with_reducible refine let_function ?_)
       | (with_reducible refine let_any (fun _ => ?_)))
    | with_reducible apply State.takeStops_keep C
    | with_reducible apply State.finishRun_keep C
    | with_reducible apply State.tellChildren_keep C
    | with_reducible apply State.snapStep_keep C
    | with_reducible apply State.frefStep_keep C
    | with_reducible apply State.eaudStep_keep C
    | with_reducible apply State.xchgStep_keep C
    | with_reducible apply State.onRun_keep C
    | (with_reducible intro _) <;> try beta_reduce
    | (with_reducible refine ite_keep ?_ ?_)
    | split
    | (with_reducible refine of_fst (by with_reducible assumption) ?_))

theorem State.mismatch_keep (C : Closed P) {s : State} (r : Run) (part : Nat) (hs : P s) :
    P (State.mismatch s r part) := by
  unfold State.mismatch
  repeat' (first
    | with_reducible assumption
    | (extract_lets +onlyGivenNames _t; revert _t
       first
       | (with_reducible refine let_keep (P := P) ?_ (fun _ _ => ?_))
       | (with_reducible refine let_keep₂ (P := P) ?_ (fun _ _ => ?_))
       | (with_reducible refine let_keep₁ (P := P) ?_ (fun _ _ => ?_))
       | (with_reducible refine let_maybe (P := P) ?_ (fun _ _ => ?_))
       | (with_reducible refine let_function ?_)
       | (with_reducible refine let_any (fun _ => ?_)))
    | with_reducible apply State.modSpan_keep C
    | with_reducible apply State.finishRunCmd_keep C
    | with_reducible apply State.endWaits_keep C
    | with_reducible apply State.finishFrees_keep C
    | with_reducible apply State.faultAnneal_keep C
    | (with_reducible refine foldl_keep₁ (fun _ _ _ => ?_) _ _ ?_) <;> try beta_reduce
    | (with_reducible refine foldl_keep₂ (fun _ _ _ => ?_) _ _ ?_) <;> try beta_reduce
    | (with_reducible refine foldl_keep (fun _ _ _ => ?_) _ _ ?_) <;> try beta_reduce
    | (with_reducible refine ite_keep ?_ ?_)
    | split
    | dsimp only
    | with_reducible refine C.rest ?_)

theorem State.runStep_keep (C : Closed P) {s : State} (r : Run) (hs : P s) :
    Maybe P (State.runStep s r) := by
  unfold State.runStep
  repeat' (first
    | with_reducible exact maybe_none
    | (with_reducible refine maybe_some ?_)
    | (with_reducible refine ite_maybe ?_ ?_)
    | with_reducible assumption
    | (extract_lets +onlyGivenNames _t; revert _t
       first
       | (with_reducible refine let_keep (P := P) ?_ (fun _ _ => ?_))
       | (with_reducible refine let_keep₂ (P := P) ?_ (fun _ _ => ?_))
       | (with_reducible refine let_keep₁ (P := P) ?_ (fun _ _ => ?_))
       | (with_reducible refine let_maybe (P := P) ?_ (fun _ _ => ?_))
       | (with_reducible refine let_function ?_)
       | (with_reducible refine let_any (fun _ => ?_)))
    | with_reducible apply State.modRun_keep C
    | with_reducible apply State.completeAll_keep C
    | with_reducible apply State.collective_keep C
    | with_reducible apply State.endUncarried_keep C
    | with_reducible apply State.mismatch_keep C
    | (with_reducible refine ite_keep ?_ ?_)
    | split
    | (with_reducible refine findSome_maybe (fun _ => ?_) _)
    | (with_reducible refine of_maybe (by with_reducible assumption) ?_)
    | (with_reducible refine of_maybe (by with_reducible assumption) ?_))

theorem State.orderStep_keep (C : Closed P) {s : State} (n : Nat) (hs : P s) :
    Maybe P (State.orderStep s n) := by
  unfold State.orderStep
  repeat' (first
    | with_reducible exact maybe_none
    | (with_reducible refine maybe_some ?_)
    | (with_reducible refine ite_maybe ?_ ?_)
    | with_reducible assumption
    | with_reducible apply State.faultAnneal_keep C
    | (with_reducible refine ite_keep ?_ ?_)
    | split
    | (with_reducible refine findSome_maybe (fun _ => ?_) _))

theorem State.annealStep_keep (C : Closed P) {s : State}  (hs : P s) :
    Maybe P (State.annealStep s) := by
  unfold State.annealStep
  repeat' (first
    | with_reducible exact maybe_none
    | (with_reducible refine maybe_some ?_)
    | (with_reducible refine ite_maybe ?_ ?_)
    | with_reducible assumption
    | (extract_lets +onlyGivenNames _t; revert _t
       first
       | (with_reducible refine let_keep (P := P) ?_ (fun _ _ => ?_))
       | (with_reducible refine let_keep₂ (P := P) ?_ (fun _ _ => ?_))
       | (with_reducible refine let_keep₁ (P := P) ?_ (fun _ _ => ?_))
       | (with_reducible refine let_maybe (P := P) ?_ (fun _ _ => ?_))
       | (with_reducible refine let_function ?_)
       | (with_reducible refine let_any (fun _ => ?_)))
    | with_reducible apply State.bindStep_keep C
    | with_reducible apply State.runStep_keep C
    | with_reducible apply State.orderStep_keep C
    | (with_reducible refine ite_keep ?_ ?_)
    | split
    | (with_reducible refine findSome_maybe (fun _ => ?_) _)
    | (with_reducible refine of_maybe (by with_reducible assumption) ?_)
    | (with_reducible refine of_maybe (by with_reducible assumption) ?_))

theorem State.annealOn_keep (C : Closed P) {s : State}  (x0 : Nat) (hs : P s) :
    P (State.annealOn  x0 s) := by
  induction x0 generalizing s with
  | zero =>
    unfold State.annealOn
    repeat' (first
      | with_reducible assumption
      | with_reducible apply State.quiesce_keep C
      | with_reducible apply State.annealStep_keep C
      | split
      | (with_reducible refine of_maybe (by with_reducible assumption) ?_)
      | (with_reducible refine of_maybe (by with_reducible assumption) ?_))
  | succ k ih =>
    unfold State.annealOn
    repeat' (first
      | with_reducible assumption
      | with_reducible apply State.quiesce_keep C
      | with_reducible apply State.annealStep_keep C
      | with_reducible apply ih
      | split
      | (with_reducible refine of_maybe (by with_reducible assumption) ?_)
      | (with_reducible refine of_maybe (by with_reducible assumption) ?_))

end Sys2Proof.Machine
end

