-- ==== Sys2Proof/Laws/KeepCarry.lean ====
section
/-! SUPPORT. Every closed property is kept by the operations of Machine/Carry.lean.
-/

namespace Sys2Proof.Machine

set_option linter.all false

variable {P : State → Prop}

theorem State.sysOn_keep (C : Closed P) {s : State}  (x0 : Nat) (hs : P s) :
    P (State.sysOn s x0) := by
  induction x0 generalizing s with
  | zero =>
    unfold State.sysOn
    repeat' (first
      | with_reducible assumption
      | with_reducible apply State.sysStep_keep C
      | (with_reducible refine foldl_keep₁ (fun _ _ _ => ?_) _ _ ?_) <;> try beta_reduce
      | (with_reducible refine foldl_keep₂ (fun _ _ _ => ?_) _ _ ?_) <;> try beta_reduce
      | (with_reducible refine foldl_keep (fun _ _ _ => ?_) _ _ ?_) <;> try beta_reduce
      | split
      | dsimp only)
  | succ k ih =>
    unfold State.sysOn
    repeat' (first
      | with_reducible assumption
      | with_reducible apply State.sysStep_keep C
      | with_reducible apply ih
      | (with_reducible refine foldl_keep₁ (fun _ _ _ => ?_) _ _ ?_) <;> try beta_reduce
      | (with_reducible refine foldl_keep₂ (fun _ _ _ => ?_) _ _ ?_) <;> try beta_reduce
      | (with_reducible refine foldl_keep (fun _ _ _ => ?_) _ _ ?_) <;> try beta_reduce
      | split
      | dsimp only)

theorem State.noteWaits_keep (C : Closed P) {s : State} (hs : P s) :
    P (State.noteWaits s) := by
  unfold State.noteWaits
  repeat' (first
    | with_reducible assumption
    | with_reducible apply State.noteWait_keep C
    | (with_reducible refine foldl_keep₁ (fun _ _ _ => ?_) _ _ ?_) <;> try beta_reduce
    | (with_reducible refine foldl_keep₂ (fun _ _ _ => ?_) _ _ ?_) <;> try beta_reduce
    | (with_reducible refine foldl_keep (fun _ _ _ => ?_) _ _ ?_) <;> try beta_reduce
    | dsimp only)

theorem State.prunePoison_keep (C : Closed P) {s : State} (hs : P s) :
    P (State.prunePoison s) := by
  unfold State.prunePoison
  repeat' (first
    | with_reducible assumption
    | with_reducible apply State.modSpan_keep C
    | (with_reducible refine foldl_keep₁ (fun _ _ _ => ?_) _ _ ?_) <;> try beta_reduce
    | (with_reducible refine foldl_keep₂ (fun _ _ _ => ?_) _ _ ?_) <;> try beta_reduce
    | (with_reducible refine foldl_keep (fun _ _ _ => ?_) _ _ ?_) <;> try beta_reduce
    | (with_reducible refine ite_keep ?_ ?_)
    | split
    | dsimp only)

theorem State.carryOn_keep (C : Closed P) {s : State} (hs : P s) :
    P (State.carryOn s) := by
  unfold State.carryOn
  repeat' (first
    | with_reducible assumption
    | (extract_lets +onlyGivenNames _t; revert _t
       first
       | (with_reducible refine let_keep (P := P) ?_ (fun _ _ => ?_))
       | (with_reducible refine let_keep₂ (P := P) ?_ (fun _ _ => ?_))
       | (with_reducible refine let_keep₁ (P := P) ?_ (fun _ _ => ?_))
       | (with_reducible refine let_maybe (P := P) ?_ (fun _ _ => ?_))
       | (with_reducible refine let_function ?_)
       | (with_reducible refine let_any (fun _ => ?_)))
    | with_reducible apply State.quiesce_keep C
    | with_reducible apply State.annealOn_keep C
    | with_reducible apply State.sysOn_keep C
    | with_reducible apply State.noteWaits_keep C
    | with_reducible apply State.prunePoison_keep C
    | (with_reducible refine ite_keep ?_ ?_)
    | split)

end Sys2Proof.Machine
end

