-- ==== Sys2Proof/Laws/Whole.lean ====
section
/-! SUPPORT. What every command can change, said once: a property is `Whole` when it is closed and the changes that only
rows make keep it too. ALIVE_OUT's hold and the fault state change together, so they have laws of their own.
-/

namespace Sys2Proof.Machine

/-- A property that every command keeps. -/
structure Whole (P : State → Prop) : Prop extends Closed P where
  wide : ∀ {a : State} {pwr boot time pcie bus mon blocks sec mbx mesh mems cxls links linkSys spans ctxs events fe problems
      runs early ckpts poison free}, pwr.aliveRun = a.pwr.aliveRun → P a →
    P { a with pwr := pwr, boot := boot, time := time, pcie := pcie, bus := bus, mon := mon, blocks := blocks, sec := sec,
               mbx := mbx, mesh := mesh, mems := mems, cxls := cxls, links := links, linkSys := linkSys, spans := spans,
               ctxs := ctxs, events := events, fe := fe, problems := problems, runs := runs, early := early,
               ckpts := ckpts, poison := poison, free := free }
  /-- The fault state and its timer stay. -/
  fltSame : ∀ {a : State} (f : Flt), Grown a.flt f → f.state = a.flt.state → f.esc = a.flt.esc → P a →
    P { a with flt := f }
  acked : ∀ {a : State} (f : Flt), Grown a.flt f → f.state = 0 → f.esc = none → a.flt.state = 1 → P a →
    P { a with flt := f }
  latched : ∀ {a : State} (f : Flt), Grown a.flt f → f.state = 3 → f.esc = a.flt.esc → a.flt.state = 2 → P a →
    P { a with flt := f }
  faulted : ∀ {a : State} (f : Flt) (w : Power), Grown a.flt f → f.state = 2 ∨ f.state = 3 → f.esc = none →
    w.aliveRun = false → P a → P { a with pwr := w, flt := f }
  recovered : ∀ {a : State} (f : Flt) (w : Power), Grown a.flt f → f.state = 0 → f.esc = a.flt.esc →
    w.aliveRun = true → a.flt.state = 2 ∨ a.flt.state = 3 → P a → P { a with pwr := w, flt := f }
  memFilter : ∀ {a : State} (f : Host.Cell → Bool), P a → P { a with mem := a.mem.filter f }

/-- A property that the resets of the die keep as well. -/
structure Total (P : State → Prop) : Prop extends Whole P where
  reset : ∀ {a : State} (cause : Nat) (w : Power) (b : Boot), w.aliveRun = true → P a →
    P { a.dieReset cause with pwr := w, boot := b }

/-- A change of the FLT block that leaves its state and its timer alone. -/
theorem State.withFlt_same {P : State → Prop} (W : Whole P) {s : State} (f : Flt) (hg : Grown s.flt f)
    (h₁ : f.state = s.flt.state) (h₂ : f.esc = s.flt.esc) (hs : P s) : P (s.withFlt f) := W.fltSame f hg h₁ h₂ hs

/-- The outcome, if it is a next state, keeps the property. -/
def Outs (P : State → Prop) (o : Out) : Prop := ∀ t, o = .next t → P t

theorem outs_next {P : State → Prop} {s : State} (h : P s) : Outs P (.next s) := fun _ e => by cases e; exact h

/-- An outcome that is named. -/
theorem let_outs {P : State → Prop} {a : Out} {Q : Out → Prop} (ha : Outs P a) (hf : ∀ t, Outs P t → Q t) :
    (let t := a; Q t) := hf a ha

theorem ite_outs {P : State → Prop} {c : Prop} [Decidable c] {a b : Out} (ha : Outs P a) (hb : Outs P b) :
    Outs P (if c then a else b) := by split <;> assumption

/-- What a request's answer holds keeps the property. -/
def Replies (P : State → Prop) (r : Reply) : Prop := ∀ st d t, r = .done st d t → P t

theorem replies_wait {P : State → Prop} : Replies P .wait := fun _ _ _ e => by cases e

theorem replies_done {P : State → Prop} {st : MgmtStatus} {d : List Byte} {s : State} (h : P s) :
    Replies P (.done st d s) := fun _ _ _ e => by cases e; exact h

theorem ite_replies {P : State → Prop} {c : Prop} [Decidable c] {a b : Reply} (ha : Replies P a) (hb : Replies P b) :
    Replies P (if c then a else b) := by split <;> assumption

theorem of_replies {P : State → Prop} {r : Reply} {st : MgmtStatus} {d : List Byte} {t : State} (e : r = .done st d t)
    (h : Replies P r) : P t := h st d t e

theorem State.withRng_keep {P : State → Prop} {s : State} (f : State → Reply) (hs : P s)
    (hf : ∀ t, P t → Replies P (f t)) : Replies P (s.withRng f) := by
  unfold State.withRng
  exact ite_replies (replies_done hs) (ite_replies replies_wait (hf s hs))

end Sys2Proof.Machine
end

