-- ==== Sys2Proof/Laws/KeepClock.lean ====
section
/-! SUPPORT. Every whole property is kept by the operations of Machine/Clock.lean.
-/

namespace Sys2Proof.Machine

set_option linter.all false

variable {P : State → Prop}

theorem State.advance_keep (W : Whole P) {s : State} (k : Nat) (hs : P s) :
    P (State.advance s k) := by
  unfold State.advance
  repeat' (first
    | with_reducible assumption
    | (extract_lets +onlyGivenNames _t; revert _t
       first
       | (with_reducible refine let_keep (P := P) ?_ (fun _ _ => ?_))
       | (with_reducible refine let_keep₂ (P := P) ?_ (fun _ _ => ?_))
       | (with_reducible refine let_keep₁ (P := P) ?_ (fun _ _ => ?_))
       | (with_reducible refine let_maybe (P := P) ?_ (fun _ _ => ?_))
       | (with_reducible refine let_function ?_)
       | (with_reducible refine let_outs (P := P) ?_ (fun _ _ => ?_))
       | (with_reducible refine let_any (fun _ => ?_)))
    | with_reducible apply State.modSpan_keep W.toClosed
    | with_reducible apply State.injectFirst_keep W.toClosed
    | with_reducible apply State.copiesRebuilt_keep W.toClosed
    | (with_reducible refine foldl_keep₁ (fun _ _ _ => ?_) _ _ ?_) <;> try beta_reduce
    | (with_reducible refine foldl_keep₂ (fun _ _ _ => ?_) _ _ ?_) <;> try beta_reduce
    | (with_reducible refine foldl_keep (fun _ _ _ => ?_) _ _ ?_) <;> try beta_reduce
    | (with_reducible refine ite_keep ?_ ?_)
    | split
    | dsimp only
    | with_reducible refine W.wide rfl ?_)

theorem State.passTo_keep (W : Whole P) {s : State} (t : Nat) (hs : P s) :
    P (State.passTo s t) := by
  unfold State.passTo
  repeat' (first
    | with_reducible assumption
    | with_reducible apply State.advance_keep W)

theorem State.tick_keep (W : Whole P) {s : State} (hs : P s) :
    P (State.tick s) := by
  unfold State.tick
  repeat' (first
    | with_reducible assumption
    | with_reducible apply State.advance_keep W)

theorem execDevTimeSet_keep (W : Whole P) {s : State} (sec : BitVec 32) (hs : P s) :
    Outs P (execDevTimeSet sec s) := by
  unfold execDevTimeSet
  repeat' (first
    | (with_reducible refine outs_next ?_)
    | (with_reducible refine ite_outs ?_ ?_)
    | with_reducible assumption
    | (with_reducible refine ite_keep ?_ ?_)
    | split
    | with_reducible refine W.wide rfl ?_)

theorem execTimeRollover_keep (W : Whole P) {s : State} (hs : P s) :
    Outs P (execTimeRollover s) := by
  unfold execTimeRollover
  repeat' (first
    | (with_reducible refine outs_next ?_)
    | with_reducible assumption
    | with_reducible apply State.advance_keep W)

theorem execPpsCapture_keep (W : Whole P) {s : State} (hs : P s) :
    Outs P (execPpsCapture s) := by
  unfold execPpsCapture
  repeat' (first
    | (with_reducible refine outs_next ?_)
    | (with_reducible refine ite_outs ?_ ?_)
    | with_reducible assumption
    | with_reducible apply State.capture_keep W.toClosed
    | (with_reducible refine ite_keep ?_ ?_)
    | split
    | with_reducible refine W.wide rfl ?_)

theorem execPpsAccept_keep (W : Whole P) {s : State} (hs : P s) :
    Outs P (execPpsAccept s) := by
  unfold execPpsAccept
  repeat' (first
    | (with_reducible refine outs_next ?_)
    | (with_reducible refine ite_outs ?_ ?_)
    | with_reducible assumption
    | (extract_lets +onlyGivenNames _t; revert _t
       first
       | (with_reducible refine let_keep (P := P) ?_ (fun _ _ => ?_))
       | (with_reducible refine let_keep₂ (P := P) ?_ (fun _ _ => ?_))
       | (with_reducible refine let_keep₁ (P := P) ?_ (fun _ _ => ?_))
       | (with_reducible refine let_maybe (P := P) ?_ (fun _ _ => ?_))
       | (with_reducible refine let_function ?_)
       | (with_reducible refine let_outs (P := P) ?_ (fun _ _ => ?_))
       | (with_reducible refine let_any (fun _ => ?_)))
    | with_reducible apply State.raiseVector_keep W.toClosed
    | with_reducible apply State.passTo_keep W
    | with_reducible apply State.tick_keep W
    | (with_reducible refine ite_keep ?_ ?_)
    | split
    | with_reducible refine W.wide rfl ?_)

theorem execPpsLost_keep (W : Whole P) {s : State} (hs : P s) :
    Outs P (execPpsLost s) := by
  unfold execPpsLost
  repeat' (first
    | (with_reducible refine outs_next ?_)
    | (with_reducible refine ite_outs ?_ ?_)
    | with_reducible assumption
    | (extract_lets +onlyGivenNames _t; revert _t
       first
       | (with_reducible refine let_keep (P := P) ?_ (fun _ _ => ?_))
       | (with_reducible refine let_keep₂ (P := P) ?_ (fun _ _ => ?_))
       | (with_reducible refine let_keep₁ (P := P) ?_ (fun _ _ => ?_))
       | (with_reducible refine let_maybe (P := P) ?_ (fun _ _ => ?_))
       | (with_reducible refine let_function ?_)
       | (with_reducible refine let_outs (P := P) ?_ (fun _ _ => ?_))
       | (with_reducible refine let_any (fun _ => ?_)))
    | with_reducible apply State.raiseVector_keep W.toClosed
    | with_reducible apply State.passTo_keep W
    | (with_reducible refine ite_keep ?_ ?_)
    | split
    | with_reducible refine W.wide rfl ?_)

theorem execAliveToggle_keep (W : Whole P) {s : State} (hs : P s) :
    Outs P (execAliveToggle s) := by
  unfold execAliveToggle
  repeat' (first
    | (with_reducible refine outs_next ?_)
    | (with_reducible refine ite_outs ?_ ?_)
    | with_reducible assumption
    | (extract_lets +onlyGivenNames _t; revert _t
       first
       | (with_reducible refine let_keep (P := P) ?_ (fun _ _ => ?_))
       | (with_reducible refine let_keep₂ (P := P) ?_ (fun _ _ => ?_))
       | (with_reducible refine let_keep₁ (P := P) ?_ (fun _ _ => ?_))
       | (with_reducible refine let_maybe (P := P) ?_ (fun _ _ => ?_))
       | (with_reducible refine let_function ?_)
       | (with_reducible refine let_outs (P := P) ?_ (fun _ _ => ?_))
       | (with_reducible refine let_any (fun _ => ?_)))
    | with_reducible apply State.passTo_keep W
    | (with_reducible refine ite_keep ?_ ?_)
    | split
    | with_reducible refine W.wide rfl ?_)

theorem execSensorSample_keep (W : Whole P) {s : State} (die : List Int) (mod : List Int) (hs : P s) :
    Outs P (execSensorSample die mod s) := by
  unfold execSensorSample
  repeat' (first
    | (with_reducible refine outs_next ?_)
    | (with_reducible refine ite_outs ?_ ?_)
    | with_reducible assumption
    | (extract_lets +onlyGivenNames _t; revert _t
       first
       | (with_reducible refine let_keep (P := P) ?_ (fun _ _ => ?_))
       | (with_reducible refine let_keep₂ (P := P) ?_ (fun _ _ => ?_))
       | (with_reducible refine let_keep₁ (P := P) ?_ (fun _ _ => ?_))
       | (with_reducible refine let_maybe (P := P) ?_ (fun _ _ => ?_))
       | (with_reducible refine let_function ?_)
       | (with_reducible refine let_outs (P := P) ?_ (fun _ _ => ?_))
       | (with_reducible refine let_any (fun _ => ?_)))
    | with_reducible apply State.raise_keep W.toClosed
    | with_reducible apply State.passTo_keep W
    | (with_reducible refine foldl_keep₁ (fun _ _ _ => ?_) _ _ ?_) <;> try beta_reduce
    | (with_reducible refine foldl_keep₂ (fun _ _ _ => ?_) _ _ ?_) <;> try beta_reduce
    | (with_reducible refine foldl_keep (fun _ _ _ => ?_) _ _ ?_) <;> try beta_reduce
    | (with_reducible refine ite_keep ?_ ?_)
    | split
    | dsimp only
    | with_reducible refine W.wide rfl ?_)

theorem execVoltageSample_keep (W : Whole P) {s : State} (mv : List Nat) (hs : P s) :
    Outs P (execVoltageSample mv s) := by
  unfold execVoltageSample
  repeat' (first
    | (with_reducible refine outs_next ?_)
    | (with_reducible refine ite_outs ?_ ?_)
    | with_reducible assumption
    | (extract_lets +onlyGivenNames _t; revert _t
       first
       | (with_reducible refine let_keep (P := P) ?_ (fun _ _ => ?_))
       | (with_reducible refine let_keep₂ (P := P) ?_ (fun _ _ => ?_))
       | (with_reducible refine let_keep₁ (P := P) ?_ (fun _ _ => ?_))
       | (with_reducible refine let_maybe (P := P) ?_ (fun _ _ => ?_))
       | (with_reducible refine let_function ?_)
       | (with_reducible refine let_outs (P := P) ?_ (fun _ _ => ?_))
       | (with_reducible refine let_any (fun _ => ?_)))
    | with_reducible apply State.raise_keep W.toClosed
    | with_reducible apply State.passTo_keep W
    | (with_reducible refine foldl_keep₁ (fun _ _ _ => ?_) _ _ ?_) <;> try beta_reduce
    | (with_reducible refine foldl_keep₂ (fun _ _ _ => ?_) _ _ ?_) <;> try beta_reduce
    | (with_reducible refine foldl_keep (fun _ _ _ => ?_) _ _ ?_) <;> try beta_reduce
    | (with_reducible refine ite_keep ?_ ?_)
    | split
    | dsimp only
    | with_reducible refine W.wide rfl ?_)

theorem execProcessMonitorWindow_keep (W : Whole P) {s : State} (n : Fin 16) (count : BitVec 16) (hs : P s) :
    Outs P (execProcessMonitorWindow n count s) := by
  unfold execProcessMonitorWindow
  repeat' (first
    | (with_reducible refine outs_next ?_)
    | (with_reducible refine ite_outs ?_ ?_)
    | with_reducible assumption
    | (extract_lets +onlyGivenNames _t; revert _t
       first
       | (with_reducible refine let_keep (P := P) ?_ (fun _ _ => ?_))
       | (with_reducible refine let_keep₂ (P := P) ?_ (fun _ _ => ?_))
       | (with_reducible refine let_keep₁ (P := P) ?_ (fun _ _ => ?_))
       | (with_reducible refine let_maybe (P := P) ?_ (fun _ _ => ?_))
       | (with_reducible refine let_function ?_)
       | (with_reducible refine let_outs (P := P) ?_ (fun _ _ => ?_))
       | (with_reducible refine let_any (fun _ => ?_)))
    | with_reducible apply State.passTo_keep W
    | (with_reducible refine ite_keep ?_ ?_)
    | split
    | with_reducible refine W.wide rfl ?_)

theorem execThermalControl_keep (W : Whole P) {s : State} (hs : P s) :
    Outs P (execThermalControl s) := by
  unfold execThermalControl
  repeat' (first
    | (with_reducible refine outs_next ?_)
    | (with_reducible refine ite_outs ?_ ?_)
    | with_reducible assumption
    | (extract_lets +onlyGivenNames _t; revert _t
       first
       | (with_reducible refine let_keep (P := P) ?_ (fun _ _ => ?_))
       | (with_reducible refine let_keep₂ (P := P) ?_ (fun _ _ => ?_))
       | (with_reducible refine let_keep₁ (P := P) ?_ (fun _ _ => ?_))
       | (with_reducible refine let_maybe (P := P) ?_ (fun _ _ => ?_))
       | (with_reducible refine let_function ?_)
       | (with_reducible refine let_outs (P := P) ?_ (fun _ _ => ?_))
       | (with_reducible refine let_any (fun _ => ?_)))
    | with_reducible apply State.raise_keep W.toClosed
    | with_reducible apply State.passTo_keep W
    | (with_reducible refine ite_keep ?_ ?_)
    | split
    | with_reducible refine W.wide rfl ?_)

end Sys2Proof.Machine
end

