-- ==== Sys2Proof/Laws/KeepFaults.lean ====
section
/-! SUPPORT. Every whole property is kept by the operations of Machine/Faults.lean.
-/

namespace Sys2Proof.Machine

set_option linter.all false

variable {P : State → Prop}

/-- Entering FAULT changes the state and ALIVE_OUT's hold together. -/
theorem State.enterFault_keep (W : Whole P) {s : State} (state cause : Nat) (h : state = 2 ∨ state = 3) (hs : P s) :
    P (s.enterFault state cause) := by
  unfold State.enterFault
  extract_lets s1 s2 s3 s4 now s5
  have h1 : P s1 := foldl_keep (fun _ _ h => State.faultCtx_keep W.toClosed _ h) _ _ hs
  have h2 : P s2 := foldl_keep (fun _ _ h => State.pierStop_keep W.toClosed _ _ _ h) _ _ h1
  have h3 : P s3 := W.rest h2
  clear_value s3
  have h4 : P s4 := by
    refine foldl_keep (fun t l ht => ?_) _ _ h3
    exact ite_keep ht (State.takeDown_keep W.toClosed _ _ _ _ ht)
  clear_value s4
  exact W.faulted (a := s4) { s4.flt with state := state, cause := cause, esc := none, quietFrom := now, faultTick := now }
    { s4.pwr with aliveRun := false } (.same rfl rfl rfl rfl) h rfl rfl h4

theorem State.ackFault_keep (W : Whole P) {s : State} (hs : P s) : P s.ackFault := by
  unfold State.ackFault
  split
  · split
    · rename_i h
      simp only [Bool.and_eq_true, decide_eq_true_eq] at h
      exact W.acked _ (.same rfl rfl rfl rfl) rfl rfl h.1 hs
    · exact hs
  · exact hs

theorem execFltAck_keep (W : Whole P) {s : State} (hs : P s) :
    Outs P (execFltAck s) := by
  unfold execFltAck
  repeat' (first
    | (with_reducible refine outs_next ?_)
    | (with_reducible refine ite_outs ?_ ?_)
    | with_reducible assumption
    | with_reducible apply State.ackFault_keep W
    | (with_reducible refine ite_keep ?_ ?_)
    | split)

theorem execEscalationExpiry_keep (W : Whole P) {s : State} (hs : P s) :
    Outs P (execEscalationExpiry s) := by
  unfold execEscalationExpiry
  repeat' (first
    | (with_reducible refine outs_next ?_)
    | (with_reducible refine ite_outs ?_ ?_)
    | with_reducible assumption
    | with_reducible apply State.enterFault_keep W
    | with_reducible apply State.passTo_keep W
    | with_reducible apply State.carryOn_keep W.toClosed
    | (with_reducible refine ite_keep ?_ ?_)
    | split
    | exact Or.inl rfl
    | exact Or.inr rfl)

theorem State.recover_keep (W : Whole P) {s : State} (h : s.flt.state = 2 ∨ s.flt.state = 3) (hs : P s) : P s.recover := by
  unfold State.recover
  refine State.raiseVector_keep W.toClosed _ (foldl_keep (fun t l ht => ?_) _ _ ?_)
  · exact ite_keep (State.startTraining_keep W.toClosed _ ht) ht
  · exact W.recovered (a := s)
      { s.flt with recCount := satAdd 65535 s.flt.recCount 1, recs := s.flt.recs ++ [s.now], state := 0 }
      { s.pwr with aliveRun := true, aliveTick := s.now } (.same rfl rfl rfl rfl) rfl rfl rfl h hs

theorem State.injectFirst_flt (s : State) (n k : Nat) : (s.injectFirst n k).flt = s.flt := by
  unfold State.injectFirst
  dsimp only
  split
  · rfl
  · rfl

theorem State.advance_flt (s : State) (k : Nat) : (s.advance k).flt = s.flt := by
  unfold State.advance
  split
  · rfl
  · refine foldl_keep (P := fun t => t.flt = s.flt) (fun t n h => ?_) _ _ rfl
    split
    · exact h
    · rw [State.injectFirst_flt]; exact h

theorem State.passTo_flt (s : State) (k : Nat) : (s.passTo k).flt = s.flt := State.advance_flt s _

theorem execQuietPeriodEnd_keep (W : Whole P) {s : State} (hs : P s) : Outs P (execQuietPeriodEnd s) := by
  unfold execQuietPeriodEnd
  split
  · rename_i h
    simp only [Bool.and_eq_true, decide_eq_true_eq] at h
    have hp := State.passTo_keep W (s.flt.quietFrom + s.flt.quiet * tickMs) hs
    have he := State.passTo_flt s (s.flt.quietFrom + s.flt.quiet * tickMs)
    extract_lets t
    split
    · exact outs_next (W.latched _ (.same rfl rfl rfl rfl) rfl rfl (he ▸ h.2) hp)
    · exact outs_next (State.carryOn_keep W.toClosed (State.recover_keep W (.inl (he ▸ h.2)) hp))
  · exact outs_next hs

theorem execWatchdogExpiry_keep (W : Whole P) {s : State} (hs : P s) :
    Outs P (execWatchdogExpiry s) := by
  unfold execWatchdogExpiry
  repeat' (first
    | (with_reducible refine outs_next ?_)
    | (with_reducible refine ite_outs ?_ ?_)
    | with_reducible assumption
    | with_reducible apply State.enterFault_keep W
    | with_reducible apply State.carryOn_keep W.toClosed
    | (with_reducible refine ite_keep ?_ ?_)
    | split
    | exact Or.inl rfl
    | exact Or.inr rfl)

theorem execSpanHeartbeatTimeout_keep (W : Whole P) {s : State} (n : Fin 16) (hs : P s) :
    Outs P (execSpanHeartbeatTimeout n s) := by
  unfold execSpanHeartbeatTimeout
  repeat' (first
    | (with_reducible refine outs_next ?_)
    | (with_reducible refine ite_outs ?_ ?_)
    | with_reducible assumption
    | with_reducible apply State.modSpan_keep W.toClosed
    | with_reducible apply State.raise_keep W.toClosed
    | with_reducible apply State.carryOn_keep W.toClosed
    | (with_reducible refine ite_keep ?_ ?_)
    | split)

theorem execScrubPeriod_keep (W : Whole P) {s : State} (n : Fin 16) (events : List MemEvent) (hs : P s) :
    Outs P (execScrubPeriod n events s) := by
  unfold execScrubPeriod
  repeat' (first
    | (with_reducible refine outs_next ?_)
    | (with_reducible refine ite_outs ?_ ?_)
    | with_reducible assumption
    | (extract_lets +onlyGivenNames _t; revert _t
       first
       | (with_reducible refine let_keep (P := P) ?_ (fun _ _ => ?_))
       | (with_reducible refine let_keep₂ (P := P) ?_ (fun _ _ => ?_))
       | (with_reducible refine let_keep₁ (P := P) ?_ (fun _ _ => ?_))
       | (with_reducible refine let_maybe (P := P) ?_ (fun _ _ => ?_))
       | (with_reducible refine let_function ?_)
       | (with_reducible refine let_outs (P := P) ?_ (fun _ _ => ?_))
       | (with_reducible refine let_any (fun _ => ?_)))
    | with_reducible apply State.modSpan_keep W.toClosed
    | with_reducible apply State.memEvents_keep W.toClosed
    | with_reducible apply State.passTo_keep W
    | with_reducible apply State.carryOn_keep W.toClosed
    | (with_reducible refine ite_keep ?_ ?_)
    | split)

theorem execFltQueueClear_keep (W : Whole P) {s : State} (b : BlockId) (hs : P s) :
    Outs P (execFltQueueClear b s) := by
  unfold execFltQueueClear
  repeat' (first
    | (with_reducible refine outs_next ?_)
    | (with_reducible refine ite_outs ?_ ?_)
    | with_reducible assumption
    | with_reducible apply State.modBlock_keep W.toClosed
    | (with_reducible refine ite_keep ?_ ?_)
    | split)

theorem execStallCheck_keep (W : Whole P) {s : State} (hs : P s) :
    Outs P (execStallCheck s) := by
  unfold execStallCheck
  repeat' (first
    | (with_reducible refine outs_next ?_)
    | (with_reducible refine ite_outs ?_ ?_)
    | with_reducible assumption
    | (extract_lets +onlyGivenNames _t; revert _t
       first
       | (with_reducible refine let_keep (P := P) ?_ (fun _ _ => ?_))
       | (with_reducible refine let_keep₂ (P := P) ?_ (fun _ _ => ?_))
       | (with_reducible refine let_keep₁ (P := P) ?_ (fun _ _ => ?_))
       | (with_reducible refine let_maybe (P := P) ?_ (fun _ _ => ?_))
       | (with_reducible refine let_function ?_)
       | (with_reducible refine let_outs (P := P) ?_ (fun _ _ => ?_))
       | (with_reducible refine let_any (fun _ => ?_)))
    | with_reducible apply State.modCtx_keep W.toClosed
    | with_reducible apply State.raiseVector_keep W.toClosed
    | with_reducible apply State.passTo_keep W
    | (with_reducible refine foldl_keep₁ (fun _ _ _ => ?_) _ _ ?_) <;> try beta_reduce
    | (with_reducible refine foldl_keep₂ (fun _ _ _ => ?_) _ _ ?_) <;> try beta_reduce
    | (with_reducible refine foldl_keep (fun _ _ _ => ?_) _ _ ?_) <;> try beta_reduce
    | (with_reducible refine ite_keep ?_ ?_)
    | split
    | dsimp only
    | with_reducible refine W.wide rfl ?_
    | with_reducible refine W.wide rfl ?_)

theorem State.routerFails_keep (W : Whole P) {s : State} (r : Nat) (lost : List Nat) (hs : P s) :
    P (State.routerFails s r lost) := by
  unfold State.routerFails
  repeat' (first
    | with_reducible assumption
    | (extract_lets +onlyGivenNames _t; revert _t
       first
       | (with_reducible refine let_keep (P := P) ?_ (fun _ _ => ?_))
       | (with_reducible refine let_keep₂ (P := P) ?_ (fun _ _ => ?_))
       | (with_reducible refine let_keep₁ (P := P) ?_ (fun _ _ => ?_))
       | (with_reducible refine let_maybe (P := P) ?_ (fun _ _ => ?_))
       | (with_reducible refine let_function ?_)
       | (with_reducible refine let_outs (P := P) ?_ (fun _ _ => ?_))
       | (with_reducible refine let_any (fun _ => ?_)))
    | with_reducible apply State.enterRaise_keep W.toClosed
    | with_reducible apply State.loseInside_keep W.toClosed
    | with_reducible apply State.fenceSpan_keep W.toClosed
    | with_reducible apply State.fenceMem_keep W.toClosed
    | with_reducible apply State.fenceCxl_keep W.toClosed
    | with_reducible apply State.fenceLink_keep W.toClosed
    | with_reducible apply State.enterFault_keep W
    | (with_reducible refine ite_keep ?_ ?_)
    | split
    | with_reducible refine W.wide rfl ?_
    | exact Or.inl rfl
    | exact Or.inr rfl
    | with_reducible refine W.wide rfl ?_)

theorem execRouterFailure_keep (W : Whole P) {s : State} (r : RouterLoss) (hs : P s) :
    Outs P (execRouterFailure r s) := by
  unfold execRouterFailure
  repeat' (first
    | (with_reducible refine outs_next ?_)
    | with_reducible assumption
    | with_reducible apply State.carryOn_keep W.toClosed
    | with_reducible apply State.routerFails_keep W)

theorem execCreditTimeout_keep (W : Whole P) {s : State} (r : RouterLoss) (hs : P s) :
    Outs P (execCreditTimeout r s) := by
  unfold execCreditTimeout
  repeat' (first
    | (with_reducible refine outs_next ?_)
    | with_reducible assumption
    | with_reducible apply State.carryOn_keep W.toClosed
    | with_reducible apply State.routerFails_keep W)

theorem execMemPeriodicRetrain_keep (W : Whole P) {s : State} (i : Fin 16) (holds : Bool) (hs : P s) :
    Outs P (execMemPeriodicRetrain i holds s) := by
  unfold execMemPeriodicRetrain
  repeat' (first
    | (with_reducible refine outs_next ?_)
    | (with_reducible refine ite_outs ?_ ?_)
    | with_reducible assumption
    | (extract_lets +onlyGivenNames _t; revert _t
       first
       | (with_reducible refine let_keep (P := P) ?_ (fun _ _ => ?_))
       | (with_reducible refine let_keep₂ (P := P) ?_ (fun _ _ => ?_))
       | (with_reducible refine let_keep₁ (P := P) ?_ (fun _ _ => ?_))
       | (with_reducible refine let_maybe (P := P) ?_ (fun _ _ => ?_))
       | (with_reducible refine let_function ?_)
       | (with_reducible refine let_outs (P := P) ?_ (fun _ _ => ?_))
       | (with_reducible refine let_any (fun _ => ?_)))
    | with_reducible apply State.modMem_keep W.toClosed
    | with_reducible apply State.retrainMem_keep W.toClosed
    | with_reducible apply State.passTo_keep W
    | with_reducible apply State.carryOn_keep W.toClosed
    | (with_reducible refine ite_keep ?_ ?_)
    | split)

theorem execMemRetrain_keep (W : Whole P) {s : State} (i : Fin 16) (holds : Bool) (hs : P s) :
    Outs P (execMemRetrain i holds s) := by
  unfold execMemRetrain
  repeat' (first
    | (with_reducible refine outs_next ?_)
    | (with_reducible refine ite_outs ?_ ?_)
    | with_reducible assumption
    | with_reducible apply State.retrainMem_keep W.toClosed
    | with_reducible apply State.carryOn_keep W.toClosed
    | (with_reducible refine ite_keep ?_ ?_)
    | split)

theorem execMemTemperatureChange_keep (W : Whole P) {s : State} (i : Fin 16) (temp : BitVec 8) (hs : P s) :
    Outs P (execMemTemperatureChange i temp s) := by
  unfold execMemTemperatureChange
  repeat' (first
    | (with_reducible refine outs_next ?_)
    | (with_reducible refine ite_outs ?_ ?_)
    | with_reducible assumption
    | (extract_lets +onlyGivenNames _t; revert _t
       first
       | (with_reducible refine let_keep (P := P) ?_ (fun _ _ => ?_))
       | (with_reducible refine let_keep₂ (P := P) ?_ (fun _ _ => ?_))
       | (with_reducible refine let_keep₁ (P := P) ?_ (fun _ _ => ?_))
       | (with_reducible refine let_maybe (P := P) ?_ (fun _ _ => ?_))
       | (with_reducible refine let_function ?_)
       | (with_reducible refine let_outs (P := P) ?_ (fun _ _ => ?_))
       | (with_reducible refine let_any (fun _ => ?_)))
    | with_reducible apply State.modMem_keep W.toClosed
    | with_reducible apply State.raise_keep W.toClosed
    | with_reducible apply State.carryOn_keep W.toClosed
    | (with_reducible refine ite_keep ?_ ?_)
    | split)

theorem execCxlLinkLoss_keep (W : Whole P) {s : State} (p : Fin 2) (hs : P s) :
    Outs P (execCxlLinkLoss p s) := by
  unfold execCxlLinkLoss
  repeat' (first
    | (with_reducible refine outs_next ?_)
    | (with_reducible refine ite_outs ?_ ?_)
    | with_reducible assumption
    | with_reducible apply State.raiseMandatory_keep W.toClosed
    | with_reducible apply State.carryOn_keep W.toClosed
    | (with_reducible refine ite_keep ?_ ?_)
    | split)

end Sys2Proof.Machine
end

