-- ==== Sys2Proof/Laws/KeepFrontend.lean ====
section
/-! SUPPORT. Every whole property is kept by the operations of Machine/Frontend.lean.
-/

namespace Sys2Proof.Machine

set_option linter.all false

variable {P : State → Prop}

theorem State.stopRunsOf_keep (W : Whole P) {s : State} (c : Nat) (serial : Nat) (f : Stops → Stops) (hs : P s) :
    P (State.stopRunsOf s c serial f) := by
  unfold State.stopRunsOf
  repeat' (first
    | with_reducible assumption
    | (with_reducible refine ite_keep ?_ ?_)
    | split
    | with_reducible refine W.wide rfl ?_
    | with_reducible refine W.wide rfl ?_)

theorem State.hangNow_keep (W : Whole P) {s : State} (c : Nat) (e : Exec) (hs : P s) :
    P (State.hangNow s c e) := by
  unfold State.hangNow
  repeat' (first
    | with_reducible assumption
    | (extract_lets +onlyGivenNames _t; revert _t
       first
       | (with_reducible refine let_keep (P := P) ?_ (fun _ _ => ?_))
       | (with_reducible refine let_keep₂ (P := P) ?_ (fun _ _ => ?_))
       | (with_reducible refine let_keep₁ (P := P) ?_ (fun _ _ => ?_))
       | (with_reducible refine let_maybe (P := P) ?_ (fun _ _ => ?_))
       | (with_reducible refine let_function ?_)
       | (with_reducible refine let_outs (P := P) ?_ (fun _ _ => ?_))
       | (with_reducible refine let_any (fun _ => ?_)))
    | with_reducible apply State.modExec_keep W.toClosed
    | with_reducible apply State.dropQueued_keep W.toClosed
    | with_reducible apply State.stopPiersOf_keep W.toClosed
    | with_reducible apply State.undoLoad_keep W.toClosed
    | with_reducible apply State.stopRunsOf_keep W
    | (with_reducible refine ite_keep ?_ ?_)
    | split)

theorem execHangLimit_keep (W : Whole P) {s : State} (c : Fin 1024) (hs : P s) :
    Outs P (execHangLimit c s) := by
  unfold execHangLimit
  repeat' (first
    | (with_reducible refine outs_next ?_)
    | (with_reducible refine ite_outs ?_ ?_)
    | with_reducible assumption
    | with_reducible apply State.passTo_keep W
    | with_reducible apply State.carryOn_keep W.toClosed
    | with_reducible apply State.hangNow_keep W
    | (with_reducible refine ite_keep ?_ ?_)
    | split)

theorem State.withCmd_keep (W : Whole P) {s : State} (c : Nat) (op : Nat) (bad : Exec → Option Nat) (f : Bool → Exec → State → State) (hf : ∀ y0 y1 y2, P y2 → P (f y0 y1 y2)) (hs : P s) :
    P (State.withCmd s c op bad f) := by
  unfold State.withCmd
  repeat' (first
    | with_reducible assumption
    | (extract_lets +onlyGivenNames _t; revert _t
       first
       | (with_reducible refine let_keep (P := P) ?_ (fun _ _ => ?_))
       | (with_reducible refine let_keep₂ (P := P) ?_ (fun _ _ => ?_))
       | (with_reducible refine let_keep₁ (P := P) ?_ (fun _ _ => ?_))
       | (with_reducible refine let_maybe (P := P) ?_ (fun _ _ => ?_))
       | (with_reducible refine let_function ?_)
       | (with_reducible refine let_outs (P := P) ?_ (fun _ _ => ?_))
       | (with_reducible refine let_any (fun _ => ?_)))
    | with_reducible apply State.finishExec_keep W.toClosed
    | with_reducible apply State.carryOn_keep W.toClosed
    | with_reducible apply State.hangNow_keep W
    | with_reducible apply hf
    | (with_reducible refine ite_keep ?_ ?_)
    | split)

theorem State.setWorking_keep (W : Whole P) {s : State} (c : Nat) (batch : Bool) (hs : P s) :
    P (State.setWorking s c batch) := by
  unfold State.setWorking
  repeat' (first
    | with_reducible assumption
    | with_reducible apply State.modExec_keep W.toClosed)

theorem State.noteFetch_keep (W : Whole P) {s : State} (c : Nat) (f : Fetched) (hs : P s) :
    P (State.noteFetch s c f) := by
  unfold State.noteFetch
  repeat' (first
    | with_reducible assumption
    | with_reducible apply State.noteRequest_keep W.toClosed
    | (with_reducible refine foldl_keep₁ (fun _ _ _ => ?_) _ _ ?_) <;> try beta_reduce
    | (with_reducible refine foldl_keep₂ (fun _ _ _ => ?_) _ _ ?_) <;> try beta_reduce
    | (with_reducible refine foldl_keep (fun _ _ _ => ?_) _ _ ?_) <;> try beta_reduce
    | dsimp only)

theorem execCommandFetch_keep (W : Whole P) {s : State} (c : Fin 1024) (hs : P s) :
    Outs P (execCommandFetch c s) := by
  unfold execCommandFetch
  repeat' (first
    | (with_reducible refine outs_next ?_)
    | (with_reducible refine ite_outs ?_ ?_)
    | with_reducible assumption
    | (extract_lets +onlyGivenNames _t; revert _t
       first
       | (with_reducible refine let_keep (P := P) ?_ (fun _ _ => ?_))
       | (with_reducible refine let_keep₂ (P := P) ?_ (fun _ _ => ?_))
       | (with_reducible refine let_keep₁ (P := P) ?_ (fun _ _ => ?_))
       | (with_reducible refine let_maybe (P := P) ?_ (fun _ _ => ?_))
       | (with_reducible refine let_function ?_)
       | (with_reducible refine let_outs (P := P) ?_ (fun _ _ => ?_))
       | (with_reducible refine let_any (fun _ => ?_)))
    | with_reducible apply State.modCtx_keep W.toClosed
    | with_reducible apply State.noteFetch_keep W
    | (with_reducible refine ite_keep ?_ ?_)
    | split)

theorem execCommandStart_keep (W : Whole P) {s : State} (hs : P s) :
    Outs P (execCommandStart s) := by
  unfold execCommandStart
  repeat' (first
    | (with_reducible refine outs_next ?_)
    | (with_reducible refine ite_outs ?_ ?_)
    | with_reducible assumption
    | (extract_lets +onlyGivenNames _t; revert _t
       first
       | (with_reducible refine let_keep (P := P) ?_ (fun _ _ => ?_))
       | (with_reducible refine let_keep₂ (P := P) ?_ (fun _ _ => ?_))
       | (with_reducible refine let_keep₁ (P := P) ?_ (fun _ _ => ?_))
       | (with_reducible refine let_maybe (P := P) ?_ (fun _ _ => ?_))
       | (with_reducible refine let_function ?_)
       | (with_reducible refine let_outs (P := P) ?_ (fun _ _ => ?_))
       | (with_reducible refine let_any (fun _ => ?_)))
    | with_reducible apply State.modCtx_keep W.toClosed
    | with_reducible apply State.slotFault_keep W.toClosed
    | (with_reducible refine ite_keep ?_ ?_)
    | split
    | with_reducible refine W.wide rfl ?_
    | with_reducible refine W.wide rfl ?_)

theorem execNopc_keep (W : Whole P) {s : State} (c : Fin 1024) (hs : P s) :
    Outs P (execNopc c s) := by
  unfold execNopc
  repeat' (first
    | (with_reducible refine outs_next ?_)
    | with_reducible assumption
    | with_reducible apply State.finishExec_keep W.toClosed
    | with_reducible apply State.withCmd_keep W
    | (with_reducible intro _) <;> try beta_reduce)

theorem execConstBuf_keep (W : Whole P) {s : State} (c : Fin 1024) (hs : P s) :
    Outs P (execConstBuf c s) := by
  unfold execConstBuf
  repeat' (first
    | (with_reducible refine outs_next ?_)
    | with_reducible assumption
    | (extract_lets +onlyGivenNames _t; revert _t
       first
       | (with_reducible refine let_keep (P := P) ?_ (fun _ _ => ?_))
       | (with_reducible refine let_keep₂ (P := P) ?_ (fun _ _ => ?_))
       | (with_reducible refine let_keep₁ (P := P) ?_ (fun _ _ => ?_))
       | (with_reducible refine let_maybe (P := P) ?_ (fun _ _ => ?_))
       | (with_reducible refine let_function ?_)
       | (with_reducible refine let_outs (P := P) ?_ (fun _ _ => ?_))
       | (with_reducible refine let_any (fun _ => ?_)))
    | with_reducible apply State.modCtx_keep W.toClosed
    | with_reducible apply State.finishExec_keep W.toClosed
    | with_reducible apply State.withCmd_keep W
    | (with_reducible intro _) <;> try beta_reduce)

theorem execEvrec_keep (W : Whole P) {s : State} (c : Fin 1024) (hs : P s) :
    Outs P (execEvrec c s) := by
  unfold execEvrec
  repeat' (first
    | (with_reducible refine outs_next ?_)
    | with_reducible assumption
    | with_reducible apply State.finishExec_keep W.toClosed
    | with_reducible apply State.eventOp_keep W.toClosed
    | with_reducible apply State.carryOn_keep W.toClosed
    | with_reducible apply State.withCmd_keep W
    | (with_reducible intro _) <;> try beta_reduce)

theorem execEvwait_keep (W : Whole P) {s : State} (c : Fin 1024) (hs : P s) :
    Outs P (execEvwait c s) := by
  unfold execEvwait
  repeat' (first
    | (with_reducible refine outs_next ?_)
    | with_reducible assumption
    | (extract_lets +onlyGivenNames _t; revert _t
       first
       | (with_reducible refine let_keep (P := P) ?_ (fun _ _ => ?_))
       | (with_reducible refine let_keep₂ (P := P) ?_ (fun _ _ => ?_))
       | (with_reducible refine let_keep₁ (P := P) ?_ (fun _ _ => ?_))
       | (with_reducible refine let_maybe (P := P) ?_ (fun _ _ => ?_))
       | (with_reducible refine let_function ?_)
       | (with_reducible refine let_outs (P := P) ?_ (fun _ _ => ?_))
       | (with_reducible refine let_any (fun _ => ?_)))
    | with_reducible apply State.modCtx_keep W.toClosed
    | with_reducible apply State.modExec_keep W.toClosed
    | with_reducible apply State.withCmd_keep W
    | (with_reducible intro _) <;> try beta_reduce)

theorem execWaitTimeout_keep (W : Whole P) {s : State} (c : Fin 1024) (hs : P s) :
    Outs P (execWaitTimeout c s) := by
  unfold execWaitTimeout
  repeat' (first
    | (with_reducible refine outs_next ?_)
    | (with_reducible refine ite_outs ?_ ?_)
    | with_reducible assumption
    | (extract_lets +onlyGivenNames _t; revert _t
       first
       | (with_reducible refine let_keep (P := P) ?_ (fun _ _ => ?_))
       | (with_reducible refine let_keep₂ (P := P) ?_ (fun _ _ => ?_))
       | (with_reducible refine let_keep₁ (P := P) ?_ (fun _ _ => ?_))
       | (with_reducible refine let_maybe (P := P) ?_ (fun _ _ => ?_))
       | (with_reducible refine let_function ?_)
       | (with_reducible refine let_outs (P := P) ?_ (fun _ _ => ?_))
       | (with_reducible refine let_any (fun _ => ?_)))
    | with_reducible apply State.modCtx_keep W.toClosed
    | with_reducible apply State.finishExec_keep W.toClosed
    | with_reducible apply State.passTo_keep W
    | (with_reducible refine ite_keep ?_ ?_)
    | split)

theorem execCopy_keep (W : Whole P) {s : State} (c : Fin 1024) (hs : P s) :
    Outs P (execCopy c s) := by
  unfold execCopy
  repeat' (first
    | (with_reducible refine outs_next ?_)
    | (with_reducible refine ite_outs ?_ ?_)
    | with_reducible assumption
    | (extract_lets +onlyGivenNames _t; revert _t
       first
       | (with_reducible refine let_keep (P := P) ?_ (fun _ _ => ?_))
       | (with_reducible refine let_keep₂ (P := P) ?_ (fun _ _ => ?_))
       | (with_reducible refine let_keep₁ (P := P) ?_ (fun _ _ => ?_))
       | (with_reducible refine let_maybe (P := P) ?_ (fun _ _ => ?_))
       | (with_reducible refine let_function ?_)
       | (with_reducible refine let_outs (P := P) ?_ (fun _ _ => ?_))
       | (with_reducible refine let_any (fun _ => ?_)))
    | with_reducible apply State.dmaCopy_keep W.toClosed
    | with_reducible apply State.finishExec_keep W.toClosed
    | with_reducible apply State.withCmd_keep W
    | (with_reducible intro _) <;> try beta_reduce
    | (with_reducible refine foldl_keep₁ (fun _ _ _ => ?_) _ _ ?_) <;> try beta_reduce
    | (with_reducible refine foldl_keep₂ (fun _ _ _ => ?_) _ _ ?_) <;> try beta_reduce
    | (with_reducible refine foldl_keep (fun _ _ _ => ?_) _ _ ?_) <;> try beta_reduce
    | (with_reducible refine ite_keep ?_ ?_)
    | split
    | dsimp only
    | (with_reducible refine of_fst (by with_reducible assumption) ?_))

theorem State.dmaFill_keep (W : Whole P) {s : State} (dst : Nat) (n : Nat) (pattern : List Byte) (hs : P s) :
    P (State.dmaFill s dst n pattern).1 := by
  unfold State.dmaFill
  repeat' (first
    | with_reducible assumption
    | split
    | dsimp only
    | (extract_lets +onlyGivenNames _t; revert _t
       first
       | (with_reducible refine let_keep (P := P) ?_ (fun _ _ => ?_))
       | (with_reducible refine let_keep₂ (P := P) ?_ (fun _ _ => ?_))
       | (with_reducible refine let_keep₁ (P := P) ?_ (fun _ _ => ?_))
       | (with_reducible refine let_maybe (P := P) ?_ (fun _ _ => ?_))
       | (with_reducible refine let_function ?_)
       | (with_reducible refine let_outs (P := P) ?_ (fun _ _ => ?_))
       | (with_reducible refine let_any (fun _ => ?_)))
    | with_reducible apply State.noteRequest_keep W.toClosed
    | with_reducible apply State.storeCells_keep W.toClosed
    | dsimp only
    | split)

theorem execFill_keep (W : Whole P) {s : State} (c : Fin 1024) (hs : P s) :
    Outs P (execFill c s) := by
  unfold execFill
  repeat' (first
    | (with_reducible refine outs_next ?_)
    | (with_reducible refine ite_outs ?_ ?_)
    | with_reducible assumption
    | (extract_lets +onlyGivenNames _t; revert _t
       first
       | (with_reducible refine let_keep (P := P) ?_ (fun _ _ => ?_))
       | (with_reducible refine let_keep₂ (P := P) ?_ (fun _ _ => ?_))
       | (with_reducible refine let_keep₁ (P := P) ?_ (fun _ _ => ?_))
       | (with_reducible refine let_maybe (P := P) ?_ (fun _ _ => ?_))
       | (with_reducible refine let_function ?_)
       | (with_reducible refine let_outs (P := P) ?_ (fun _ _ => ?_))
       | (with_reducible refine let_any (fun _ => ?_)))
    | with_reducible apply State.finishExec_keep W.toClosed
    | with_reducible apply State.withCmd_keep W
    | with_reducible apply State.dmaFill_keep W
    | (with_reducible intro _) <;> try beta_reduce
    | (with_reducible refine foldl_keep₁ (fun _ _ _ => ?_) _ _ ?_) <;> try beta_reduce
    | (with_reducible refine foldl_keep₂ (fun _ _ _ => ?_) _ _ ?_) <;> try beta_reduce
    | (with_reducible refine foldl_keep (fun _ _ _ => ?_) _ _ ?_) <;> try beta_reduce
    | (with_reducible refine ite_keep ?_ ?_)
    | split
    | dsimp only
    | (with_reducible refine of_fst (by with_reducible assumption) ?_))

theorem execLaunch_keep (W : Whole P) {s : State} (c : Fin 1024) (hs : P s) :
    Outs P (execLaunch c s) := by
  unfold execLaunch
  repeat' (first
    | (with_reducible refine outs_next ?_)
    | with_reducible assumption
    | (extract_lets +onlyGivenNames _t; revert _t
       first
       | (with_reducible refine let_keep (P := P) ?_ (fun _ _ => ?_))
       | (with_reducible refine let_keep₂ (P := P) ?_ (fun _ _ => ?_))
       | (with_reducible refine let_keep₁ (P := P) ?_ (fun _ _ => ?_))
       | (with_reducible refine let_maybe (P := P) ?_ (fun _ _ => ?_))
       | (with_reducible refine let_function ?_)
       | (with_reducible refine let_outs (P := P) ?_ (fun _ _ => ?_))
       | (with_reducible refine let_any (fun _ => ?_)))
    | with_reducible apply State.noteRequest_keep W.toClosed
    | with_reducible apply State.finishExec_keep W.toClosed
    | with_reducible apply State.dispatch_keep W.toClosed
    | with_reducible apply State.withCmd_keep W
    | (with_reducible intro _) <;> try beta_reduce
    | split)

theorem execPierLaunch_keep (W : Whole P) {s : State} (n : Fin 16) (hs : P s) :
    Outs P (execPierLaunch n s) := by
  unfold execPierLaunch
  repeat' (first
    | (with_reducible refine outs_next ?_)
    | (with_reducible refine ite_outs ?_ ?_)
    | with_reducible assumption
    | (extract_lets +onlyGivenNames _t; revert _t
       first
       | (with_reducible refine let_keep (P := P) ?_ (fun _ _ => ?_))
       | (with_reducible refine let_keep₂ (P := P) ?_ (fun _ _ => ?_))
       | (with_reducible refine let_keep₁ (P := P) ?_ (fun _ _ => ?_))
       | (with_reducible refine let_maybe (P := P) ?_ (fun _ _ => ?_))
       | (with_reducible refine let_function ?_)
       | (with_reducible refine let_outs (P := P) ?_ (fun _ _ => ?_))
       | (with_reducible refine let_any (fun _ => ?_)))
    | with_reducible apply State.modPier_keep W.toClosed
    | with_reducible apply State.sendLaunches_keep W.toClosed
    | with_reducible apply State.carryOn_keep W.toClosed
    | (with_reducible refine ite_keep ?_ ?_)
    | split)

theorem execQstop_keep (W : Whole P) {s : State} (c : Fin 1024) (hs : P s) :
    Outs P (execQstop c s) := by
  unfold execQstop
  repeat' (first
    | (with_reducible refine outs_next ?_)
    | (with_reducible refine ite_outs ?_ ?_)
    | with_reducible assumption
    | (extract_lets +onlyGivenNames _t; revert _t
       first
       | (with_reducible refine let_keep (P := P) ?_ (fun _ _ => ?_))
       | (with_reducible refine let_keep₂ (P := P) ?_ (fun _ _ => ?_))
       | (with_reducible refine let_keep₁ (P := P) ?_ (fun _ _ => ?_))
       | (with_reducible refine let_maybe (P := P) ?_ (fun _ _ => ?_))
       | (with_reducible refine let_function ?_)
       | (with_reducible refine let_outs (P := P) ?_ (fun _ _ => ?_))
       | (with_reducible refine let_any (fun _ => ?_)))
    | with_reducible apply State.modCtx_keep W.toClosed
    | with_reducible apply State.finishExec_keep W.toClosed
    | with_reducible apply State.stopRun_keep W.toClosed
    | with_reducible apply State.carryOn_keep W.toClosed
    | with_reducible apply State.withCmd_keep W
    | with_reducible apply State.setWorking_keep W
    | (with_reducible intro _) <;> try beta_reduce
    | (with_reducible refine ite_keep ?_ ?_)
    | split
    | (simp only [id_eq]; with_reducible assumption))

theorem execCkpt_keep (W : Whole P) {s : State} (c : Fin 1024) (hs : P s) :
    Outs P (execCkpt c s) := by
  unfold execCkpt
  repeat' (first
    | (with_reducible refine outs_next ?_)
    | (with_reducible refine ite_outs ?_ ?_)
    | with_reducible assumption
    | (extract_lets +onlyGivenNames _t; revert _t
       first
       | (with_reducible refine let_keep (P := P) ?_ (fun _ _ => ?_))
       | (with_reducible refine let_keep₂ (P := P) ?_ (fun _ _ => ?_))
       | (with_reducible refine let_keep₁ (P := P) ?_ (fun _ _ => ?_))
       | (with_reducible refine let_maybe (P := P) ?_ (fun _ _ => ?_))
       | (with_reducible refine let_function ?_)
       | (with_reducible refine let_outs (P := P) ?_ (fun _ _ => ?_))
       | (with_reducible refine let_any (fun _ => ?_)))
    | with_reducible apply State.finishExec_keep W.toClosed
    | with_reducible apply State.modRun_keep W.toClosed
    | with_reducible apply State.withCmd_keep W
    | with_reducible apply State.setWorking_keep W
    | (with_reducible intro _) <;> try beta_reduce
    | (with_reducible refine ite_keep ?_ ?_)
    | split
    | (simp only [id_eq]; with_reducible assumption))

theorem execPfree_keep (W : Whole P) {s : State} (c : Fin 1024) (hs : P s) :
    Outs P (execPfree c s) := by
  unfold execPfree
  repeat' (first
    | (with_reducible refine outs_next ?_)
    | (with_reducible refine ite_outs ?_ ?_)
    | with_reducible assumption
    | (extract_lets +onlyGivenNames _t; revert _t
       first
       | (with_reducible refine let_keep (P := P) ?_ (fun _ _ => ?_))
       | (with_reducible refine let_keep₂ (P := P) ?_ (fun _ _ => ?_))
       | (with_reducible refine let_keep₁ (P := P) ?_ (fun _ _ => ?_))
       | (with_reducible refine let_maybe (P := P) ?_ (fun _ _ => ?_))
       | (with_reducible refine let_function ?_)
       | (with_reducible refine let_outs (P := P) ?_ (fun _ _ => ?_))
       | (with_reducible refine let_any (fun _ => ?_)))
    | with_reducible apply State.finishExec_keep W.toClosed
    | with_reducible apply State.modProblem_keep W.toClosed
    | with_reducible apply State.finishFrees_keep W.toClosed
    | with_reducible apply State.withCmd_keep W
    | with_reducible apply State.setWorking_keep W
    | (with_reducible intro _) <;> try beta_reduce
    | (with_reducible refine ite_keep ?_ ?_)
    | split
    | (simp only [id_eq]; with_reducible assumption))

theorem execAnnealBatch_keep (W : Whole P) {s : State} (c : Fin 1024) (hs : P s) :
    Outs P (execAnnealBatch c s) := by
  unfold execAnnealBatch
  repeat' (first
    | (with_reducible refine outs_next ?_)
    | (with_reducible refine ite_outs ?_ ?_)
    | with_reducible assumption
    | with_reducible apply State.modCtx_keep W.toClosed
    | with_reducible apply State.finishExec_keep W.toClosed
    | with_reducible apply State.withCmd_keep W
    | with_reducible apply State.setWorking_keep W
    | (with_reducible intro _) <;> try beta_reduce
    | (with_reducible refine ite_keep ?_ ?_)
    | split)

theorem State.startDescriptor_keep (W : Whole P) {s : State} (c : Nat) (f : Fetched) (hs : P s) :
    P (State.startDescriptor s c f) := by
  unfold State.startDescriptor
  repeat' (first
    | with_reducible assumption
    | (extract_lets +onlyGivenNames _t; revert _t
       first
       | (with_reducible refine let_keep (P := P) ?_ (fun _ _ => ?_))
       | (with_reducible refine let_keep₂ (P := P) ?_ (fun _ _ => ?_))
       | (with_reducible refine let_keep₁ (P := P) ?_ (fun _ _ => ?_))
       | (with_reducible refine let_maybe (P := P) ?_ (fun _ _ => ?_))
       | (with_reducible refine let_function ?_)
       | (with_reducible refine let_outs (P := P) ?_ (fun _ _ => ?_))
       | (with_reducible refine let_any (fun _ => ?_)))
    | with_reducible apply State.modCtx_keep W.toClosed
    | split
    | with_reducible refine W.wide rfl ?_
    | with_reducible refine W.wide rfl ?_)

theorem execBatchDescriptorTake_keep (W : Whole P) {s : State} (c : Fin 1024) (hs : P s) :
    Outs P (execBatchDescriptorTake c s) := by
  unfold execBatchDescriptorTake
  repeat' (first
    | (with_reducible refine outs_next ?_)
    | (with_reducible refine ite_outs ?_ ?_)
    | with_reducible assumption
    | (extract_lets +onlyGivenNames _t; revert _t
       first
       | (with_reducible refine let_keep (P := P) ?_ (fun _ _ => ?_))
       | (with_reducible refine let_keep₂ (P := P) ?_ (fun _ _ => ?_))
       | (with_reducible refine let_keep₁ (P := P) ?_ (fun _ _ => ?_))
       | (with_reducible refine let_maybe (P := P) ?_ (fun _ _ => ?_))
       | (with_reducible refine let_function ?_)
       | (with_reducible refine let_outs (P := P) ?_ (fun _ _ => ?_))
       | (with_reducible refine let_any (fun _ => ?_)))
    | with_reducible apply State.modCtx_keep W.toClosed
    | with_reducible apply State.noteRequest_keep W.toClosed
    | with_reducible apply State.startDescriptor_keep W
    | (with_reducible refine ite_keep ?_ ?_)
    | split)

theorem execEndDescriptor_keep (W : Whole P) {s : State} (c : Fin 1024) (hs : P s) :
    Outs P (execEndDescriptor c s) := by
  unfold execEndDescriptor
  repeat' (first
    | (with_reducible refine outs_next ?_)
    | (with_reducible refine ite_outs ?_ ?_)
    | with_reducible assumption
    | with_reducible apply State.modCtx_keep W.toClosed
    | with_reducible apply State.finishExec_keep W.toClosed
    | (with_reducible refine ite_keep ?_ ?_)
    | split)

theorem State.descriptorDone_keep (W : Whole P) {s : State} (c : Nat) (t : Batch) (status : Nat) (hs : P s) :
    P (State.descriptorDone s c t status) := by
  unfold State.descriptorDone
  repeat' (first
    | with_reducible assumption
    | (extract_lets +onlyGivenNames _t; revert _t
       first
       | (with_reducible refine let_keep (P := P) ?_ (fun _ _ => ?_))
       | (with_reducible refine let_keep₂ (P := P) ?_ (fun _ _ => ?_))
       | (with_reducible refine let_keep₁ (P := P) ?_ (fun _ _ => ?_))
       | (with_reducible refine let_maybe (P := P) ?_ (fun _ _ => ?_))
       | (with_reducible refine let_function ?_)
       | (with_reducible refine let_outs (P := P) ?_ (fun _ _ => ?_))
       | (with_reducible refine let_any (fun _ => ?_)))
    | with_reducible apply State.modCtx_keep W.toClosed
    | (with_reducible refine ite_keep ?_ ?_)
    | split)

theorem execCommandCompletion_keep (W : Whole P) {s : State} (c : Fin 1024) (hs : P s) :
    Outs P (execCommandCompletion c s) := by
  unfold execCommandCompletion
  repeat' (first
    | (with_reducible refine outs_next ?_)
    | (with_reducible refine ite_outs ?_ ?_)
    | with_reducible assumption
    | (extract_lets +onlyGivenNames _t; revert _t
       first
       | (with_reducible refine let_keep (P := P) ?_ (fun _ _ => ?_))
       | (with_reducible refine let_keep₂ (P := P) ?_ (fun _ _ => ?_))
       | (with_reducible refine let_keep₁ (P := P) ?_ (fun _ _ => ?_))
       | (with_reducible refine let_maybe (P := P) ?_ (fun _ _ => ?_))
       | (with_reducible refine let_function ?_)
       | (with_reducible refine let_outs (P := P) ?_ (fun _ _ => ?_))
       | (with_reducible refine let_any (fun _ => ?_)))
    | with_reducible apply State.modCtx_keep W.toClosed
    | with_reducible apply State.writeNat_keep W.toClosed
    | with_reducible apply State.abortEvents_keep W.toClosed
    | with_reducible apply State.completeCmd_keep W.toClosed
    | with_reducible apply State.carryOn_keep W.toClosed
    | with_reducible apply State.hangNow_keep W
    | with_reducible apply State.descriptorDone_keep W
    | (with_reducible refine ite_keep ?_ ?_)
    | split)

theorem State.doorbell_keep (W : Whole P) {s : State} (c : Nat) (tail : BitVec 32) (hs : P s) :
    P (State.doorbell s c tail) := by
  unfold State.doorbell
  repeat' (first
    | with_reducible assumption
    | (extract_lets +onlyGivenNames _t; revert _t
       first
       | (with_reducible refine let_keep (P := P) ?_ (fun _ _ => ?_))
       | (with_reducible refine let_keep₂ (P := P) ?_ (fun _ _ => ?_))
       | (with_reducible refine let_keep₁ (P := P) ?_ (fun _ _ => ?_))
       | (with_reducible refine let_maybe (P := P) ?_ (fun _ _ => ?_))
       | (with_reducible refine let_function ?_)
       | (with_reducible refine let_outs (P := P) ?_ (fun _ _ => ?_))
       | (with_reducible refine let_any (fun _ => ?_)))
    | with_reducible apply State.modCtx_keep W.toClosed
    | with_reducible apply State.slotFault_keep W.toClosed
    | with_reducible apply State.carryOn_keep W.toClosed
    | (with_reducible refine ite_keep ?_ ?_)
    | split)

theorem execCtxDoorbell_keep (W : Whole P) {s : State} (c : Fin 1024) (tail : BitVec 32) (hs : P s) :
    Outs P (execCtxDoorbell c tail s) := by
  unfold execCtxDoorbell
  repeat' (first
    | (with_reducible refine outs_next ?_)
    | (with_reducible refine ite_outs ?_ ?_)
    | with_reducible assumption
    | with_reducible apply State.doorbell_keep W
    | (with_reducible refine ite_keep ?_ ?_)
    | split)

theorem State.beginAbort_keep (W : Whole P) {s : State} (c : Nat) (hs : P s) :
    P (State.beginAbort s c) := by
  unfold State.beginAbort
  repeat' (first
    | with_reducible assumption
    | (extract_lets +onlyGivenNames _t; revert _t
       first
       | (with_reducible refine let_keep (P := P) ?_ (fun _ _ => ?_))
       | (with_reducible refine let_keep₂ (P := P) ?_ (fun _ _ => ?_))
       | (with_reducible refine let_keep₁ (P := P) ?_ (fun _ _ => ?_))
       | (with_reducible refine let_maybe (P := P) ?_ (fun _ _ => ?_))
       | (with_reducible refine let_function ?_)
       | (with_reducible refine let_outs (P := P) ?_ (fun _ _ => ?_))
       | (with_reducible refine let_any (fun _ => ?_)))
    | with_reducible apply State.modCtx_keep W.toClosed
    | with_reducible apply State.modExec_keep W.toClosed
    | with_reducible apply State.dropQueued_keep W.toClosed
    | with_reducible apply State.stopPiersOf_keep W.toClosed
    | with_reducible apply State.undoLoad_keep W.toClosed
    | (with_reducible refine ite_keep ?_ ?_)
    | split
    | with_reducible refine W.wide rfl ?_
    | with_reducible refine W.wide rfl ?_)

theorem execDestroyDone_keep (W : Whole P) {s : State} (c : Fin 1024) (hs : P s) :
    Outs P (execDestroyDone c s) := by
  unfold execDestroyDone
  repeat' (first
    | (with_reducible refine outs_next ?_)
    | (with_reducible refine ite_outs ?_ ?_)
    | with_reducible assumption
    | with_reducible apply State.finishDestroy_keep W.toClosed
    | with_reducible apply State.carryOn_keep W.toClosed
    | (with_reducible refine ite_keep ?_ ?_)
    | split)

theorem State.beginDestroy_keep (W : Whole P) {s : State} (c : Nat) (abort : Bool) (hs : P s) :
    P (State.beginDestroy s c abort) := by
  unfold State.beginDestroy
  repeat' (first
    | with_reducible assumption
    | (extract_lets +onlyGivenNames _t; revert _t
       first
       | (with_reducible refine let_keep (P := P) ?_ (fun _ _ => ?_))
       | (with_reducible refine let_keep₂ (P := P) ?_ (fun _ _ => ?_))
       | (with_reducible refine let_keep₁ (P := P) ?_ (fun _ _ => ?_))
       | (with_reducible refine let_maybe (P := P) ?_ (fun _ _ => ?_))
       | (with_reducible refine let_function ?_)
       | (with_reducible refine let_outs (P := P) ?_ (fun _ _ => ?_))
       | (with_reducible refine let_any (fun _ => ?_)))
    | with_reducible apply State.modCtx_keep W.toClosed
    | with_reducible apply State.finishDestroy_keep W.toClosed
    | with_reducible apply State.beginAbort_keep W
    | (with_reducible refine ite_keep ?_ ?_)
    | split)

theorem State.ctlWrite_keep (W : Whole P) {s : State} (c : Nat) (enable : Bool) (abort : Bool) (resume : Bool) (priority : Bool) (hs : P s) :
    P (State.ctlWrite s c enable abort resume priority) := by
  unfold State.ctlWrite
  repeat' (first
    | with_reducible assumption
    | (extract_lets +onlyGivenNames _t; revert _t
       first
       | (with_reducible refine let_keep (P := P) ?_ (fun _ _ => ?_))
       | (with_reducible refine let_keep₂ (P := P) ?_ (fun _ _ => ?_))
       | (with_reducible refine let_keep₁ (P := P) ?_ (fun _ _ => ?_))
       | (with_reducible refine let_maybe (P := P) ?_ (fun _ _ => ?_))
       | (with_reducible refine let_function ?_)
       | (with_reducible refine let_outs (P := P) ?_ (fun _ _ => ?_))
       | (with_reducible refine let_any (fun _ => ?_)))
    | with_reducible apply State.modCtx_keep W.toClosed
    | with_reducible apply State.beginAbort_keep W
    | with_reducible apply State.beginDestroy_keep W
    | (with_reducible refine ite_keep ?_ ?_)
    | split)

theorem execContextCreate_keep (W : Whole P) {s : State} (c : Fin 1024) (abort : Bool) (priority : Bool) (hs : P s) :
    Outs P (execContextCreate c abort priority s) := by
  unfold execContextCreate
  repeat' (first
    | (with_reducible refine outs_next ?_)
    | (with_reducible refine ite_outs ?_ ?_)
    | with_reducible assumption
    | with_reducible apply State.carryOn_keep W.toClosed
    | with_reducible apply State.ctlWrite_keep W
    | (with_reducible refine ite_keep ?_ ?_)
    | split)

theorem execContextDestroy_keep (W : Whole P) {s : State} (c : Fin 1024) (abort : Bool) (priority : Bool) (hs : P s) :
    Outs P (execContextDestroy c abort priority s) := by
  unfold execContextDestroy
  repeat' (first
    | (with_reducible refine outs_next ?_)
    | (with_reducible refine ite_outs ?_ ?_)
    | with_reducible assumption
    | with_reducible apply State.carryOn_keep W.toClosed
    | with_reducible apply State.ctlWrite_keep W
    | (with_reducible refine ite_keep ?_ ?_)
    | split)

theorem execDestroyAbort_keep (W : Whole P) {s : State} (c : Fin 1024) (priority : Bool) (hs : P s) :
    Outs P (execDestroyAbort c priority s) := by
  unfold execDestroyAbort
  repeat' (first
    | (with_reducible refine outs_next ?_)
    | (with_reducible refine ite_outs ?_ ?_)
    | with_reducible assumption
    | with_reducible apply State.carryOn_keep W.toClosed
    | with_reducible apply State.ctlWrite_keep W
    | (with_reducible refine ite_keep ?_ ?_)
    | split)

theorem execResume_keep (W : Whole P) {s : State} (c : Fin 1024) (abort : Bool) (priority : Bool) (hs : P s) :
    Outs P (execResume c abort priority s) := by
  unfold execResume
  repeat' (first
    | (with_reducible refine outs_next ?_)
    | (with_reducible refine ite_outs ?_ ?_)
    | with_reducible assumption
    | with_reducible apply State.carryOn_keep W.toClosed
    | with_reducible apply State.ctlWrite_keep W
    | (with_reducible refine ite_keep ?_ ?_)
    | split)

theorem State.cplHeadWrite_keep (W : Whole P) {s : State} (c : Nat) (head : BitVec 32) (hs : P s) :
    P (State.cplHeadWrite s c head) := by
  unfold State.cplHeadWrite
  repeat' (first
    | with_reducible assumption
    | (extract_lets +onlyGivenNames _t; revert _t
       first
       | (with_reducible refine let_keep (P := P) ?_ (fun _ _ => ?_))
       | (with_reducible refine let_keep₂ (P := P) ?_ (fun _ _ => ?_))
       | (with_reducible refine let_keep₁ (P := P) ?_ (fun _ _ => ?_))
       | (with_reducible refine let_maybe (P := P) ?_ (fun _ _ => ?_))
       | (with_reducible refine let_function ?_)
       | (with_reducible refine let_outs (P := P) ?_ (fun _ _ => ?_))
       | (with_reducible refine let_any (fun _ => ?_)))
    | with_reducible apply State.modCtx_keep W.toClosed
    | with_reducible apply State.flushHeld_keep W.toClosed
    | (with_reducible refine ite_keep ?_ ?_)
    | split)

theorem execCtxCplHead_keep (W : Whole P) {s : State} (c : Fin 1024) (head : BitVec 32) (hs : P s) :
    Outs P (execCtxCplHead c head s) := by
  unfold execCtxCplHead
  repeat' (first
    | (with_reducible refine outs_next ?_)
    | (with_reducible refine ite_outs ?_ ?_)
    | with_reducible assumption
    | with_reducible apply State.cplHeadWrite_keep W
    | (with_reducible refine ite_keep ?_ ?_)
    | split)

theorem execEvtValue_keep (W : Whole P) {s : State} (e : BitVec 16) (value : BitVec 64) (hs : P s) :
    Outs P (execEvtValue e value s) := by
  unfold execEvtValue
  repeat' (first
    | (with_reducible refine outs_next ?_)
    | (with_reducible refine ite_outs ?_ ?_)
    | with_reducible assumption
    | with_reducible apply State.eventOp_keep W.toClosed
    | with_reducible apply State.carryOn_keep W.toClosed
    | (with_reducible refine ite_keep ?_ ?_)
    | split)

theorem execEvtAdd_keep (W : Whole P) {s : State} (e : BitVec 16) (value : BitVec 32) (hs : P s) :
    Outs P (execEvtAdd e value s) := by
  unfold execEvtAdd
  repeat' (first
    | (with_reducible refine outs_next ?_)
    | (with_reducible refine ite_outs ?_ ?_)
    | with_reducible assumption
    | with_reducible apply State.eventOp_keep W.toClosed
    | with_reducible apply State.carryOn_keep W.toClosed
    | (with_reducible refine ite_keep ?_ ?_)
    | split)

theorem execEvtErrorClear_keep (W : Whole P) {s : State} (e : BitVec 16) (hs : P s) :
    Outs P (execEvtErrorClear e s) := by
  unfold execEvtErrorClear
  repeat' (first
    | (with_reducible refine outs_next ?_)
    | (with_reducible refine ite_outs ?_ ?_)
    | with_reducible assumption
    | with_reducible apply State.setEvent_keep W.toClosed
    | (with_reducible refine ite_keep ?_ ?_)
    | split)

end Sys2Proof.Machine
end

