-- ==== Sys2Proof/Laws/KeepPierIsa.lean ====
section
/-! SUPPORT. Every whole property is kept by the operations of Machine/PierIsa.lean.
-/

namespace Sys2Proof.Machine

set_option linter.all false

variable {P : State → Prop}

theorem State.issue_keep (W : Whole P) {s : State} (n : Nat) (act : Launch → SpanInstr → Pier → State → Option State) (hf : ∀ y0 y1 y2 y3, P y3 → Maybe P (act y0 y1 y2 y3)) (hs : P s) :
    P (State.issue s n act) := by
  unfold State.issue
  repeat' (first
    | with_reducible assumption
    | with_reducible apply State.modPier_keep W.toClosed
    | with_reducible apply State.carryOn_keep W.toClosed
    | with_reducible apply hf
    | (with_reducible refine ite_keep ?_ ?_)
    | split
    | (with_reducible refine of_maybe (by with_reducible assumption) ?_))

theorem State.nextPc_keep (W : Whole P) {s : State} (n : Nat) (f : Pier → Pier) (hs : P s) :
    P (State.nextPc s n f) := by
  unfold State.nextPc
  repeat' (first
    | with_reducible assumption
    | with_reducible apply State.modPier_keep W.toClosed)

theorem State.fly_keep (W : Whole P) {s : State} (n : Nat) (i : SpanInstr) (a : Word) (b : Word) (c : Word) (aux : Nat) (hs : P s) :
    P (State.fly s n i a b c aux) := by
  unfold State.fly
  repeat' (first
    | with_reducible assumption
    | with_reducible apply State.nextPc_keep W)

theorem State.block__keep (W : Whole P) {s : State} (n : Nat) (i : SpanInstr) (b : Word) (hs : P s) :
    P (State.block_ s n i b) := by
  unfold State.block_
  repeat' (first
    | with_reducible assumption
    | (extract_lets +onlyGivenNames _t; revert _t
       first
       | (with_reducible refine let_keep (P := P) ?_ (fun _ _ => ?_))
       | (with_reducible refine let_keep₂ (P := P) ?_ (fun _ _ => ?_))
       | (with_reducible refine let_keep₁ (P := P) ?_ (fun _ _ => ?_))
       | (with_reducible refine let_maybe (P := P) ?_ (fun _ _ => ?_))
       | (with_reducible refine let_function ?_)
       | (with_reducible refine let_outs (P := P) ?_ (fun _ _ => ?_))
       | (with_reducible refine let_any (fun _ => ?_)))
    | with_reducible apply State.nextPc_keep W)

theorem State.holdIssue_keep (W : Whole P) {s : State} (n : Nat) (hs : P s) :
    P (State.holdIssue s n) := by
  unfold State.holdIssue
  repeat' (first
    | with_reducible assumption
    | with_reducible apply State.modPier_keep W.toClosed)

theorem State.illegal_keep (W : Whole P) {s : State} (n : Nat) (pc : Nat) (hs : P s) :
    P (State.illegal s n pc) := by
  unfold State.illegal
  repeat' (first
    | with_reducible assumption
    | with_reducible apply State.pierFault_keep W.toClosed)

theorem execNop_keep (W : Whole P) {s : State} (n : Fin 16) (hs : P s) :
    Outs P (execNop n s) := by
  unfold execNop
  repeat' (first
    | (with_reducible refine outs_next ?_)
    | with_reducible exact maybe_none
    | (with_reducible refine maybe_some ?_)
    | (with_reducible refine ite_maybe ?_ ?_)
    | with_reducible assumption
    | with_reducible apply State.issue_keep W
    | with_reducible apply State.nextPc_keep W
    | (with_reducible intro _) <;> try beta_reduce
    | split
    | (simp only [id_eq]; with_reducible assumption))

theorem execHalt_keep (W : Whole P) {s : State} (n : Fin 16) (hs : P s) :
    Outs P (execHalt n s) := by
  unfold execHalt
  repeat' (first
    | (with_reducible refine outs_next ?_)
    | with_reducible exact maybe_none
    | (with_reducible refine maybe_some ?_)
    | (with_reducible refine ite_maybe ?_ ?_)
    | with_reducible assumption
    | with_reducible apply State.issue_keep W
    | with_reducible apply State.block__keep W
    | (with_reducible intro _) <;> try beta_reduce
    | split)

theorem State.branch_keep (W : Whole P) {s : State} (n : Nat) (count : Nat) (pc : Nat) (off : BitVec 24) (hs : P s) :
    P (State.branch s n count pc off) := by
  unfold State.branch
  repeat' (first
    | with_reducible assumption
    | (extract_lets +onlyGivenNames _t; revert _t
       first
       | (with_reducible refine let_keep (P := P) ?_ (fun _ _ => ?_))
       | (with_reducible refine let_keep₂ (P := P) ?_ (fun _ _ => ?_))
       | (with_reducible refine let_keep₁ (P := P) ?_ (fun _ _ => ?_))
       | (with_reducible refine let_maybe (P := P) ?_ (fun _ _ => ?_))
       | (with_reducible refine let_function ?_)
       | (with_reducible refine let_outs (P := P) ?_ (fun _ _ => ?_))
       | (with_reducible refine let_any (fun _ => ?_)))
    | with_reducible apply State.modPier_keep W.toClosed
    | with_reducible apply State.pierFault_keep W.toClosed
    | (with_reducible refine ite_keep ?_ ?_)
    | split)

theorem execBr_keep (W : Whole P) {s : State} (n : Fin 16) (hs : P s) :
    Outs P (execBr n s) := by
  unfold execBr
  repeat' (first
    | (with_reducible refine outs_next ?_)
    | with_reducible exact maybe_none
    | (with_reducible refine maybe_some ?_)
    | (with_reducible refine ite_maybe ?_ ?_)
    | with_reducible assumption
    | with_reducible apply State.issue_keep W
    | with_reducible apply State.branch_keep W
    | (with_reducible intro _) <;> try beta_reduce
    | split)

theorem execBrc_keep (W : Whole P) {s : State} (n : Fin 16) (hs : P s) :
    Outs P (execBrc n s) := by
  unfold execBrc
  repeat' (first
    | (with_reducible refine outs_next ?_)
    | with_reducible exact maybe_none
    | (with_reducible refine maybe_some ?_)
    | (with_reducible refine ite_maybe ?_ ?_)
    | with_reducible assumption
    | with_reducible apply State.issue_keep W
    | with_reducible apply State.nextPc_keep W
    | with_reducible apply State.illegal_keep W
    | with_reducible apply State.branch_keep W
    | (with_reducible intro _) <;> try beta_reduce
    | split
    | (simp only [id_eq]; with_reducible assumption))

theorem execLoop_keep (W : Whole P) {s : State} (n : Fin 16) (hs : P s) :
    Outs P (execLoop n s) := by
  unfold execLoop
  repeat' (first
    | (with_reducible refine outs_next ?_)
    | (with_reducible refine ite_outs ?_ ?_)
    | with_reducible exact maybe_none
    | (with_reducible refine maybe_some ?_)
    | (with_reducible refine ite_maybe ?_ ?_)
    | with_reducible assumption
    | (extract_lets +onlyGivenNames _t; revert _t
       first
       | (with_reducible refine let_keep (P := P) ?_ (fun _ _ => ?_))
       | (with_reducible refine let_keep₂ (P := P) ?_ (fun _ _ => ?_))
       | (with_reducible refine let_keep₁ (P := P) ?_ (fun _ _ => ?_))
       | (with_reducible refine let_maybe (P := P) ?_ (fun _ _ => ?_))
       | (with_reducible refine let_function ?_)
       | (with_reducible refine let_outs (P := P) ?_ (fun _ _ => ?_))
       | (with_reducible refine let_any (fun _ => ?_)))
    | with_reducible apply State.modPier_keep W.toClosed
    | with_reducible apply State.pierFault_keep W.toClosed
    | with_reducible apply State.issue_keep W
    | with_reducible apply State.nextPc_keep W
    | with_reducible apply State.illegal_keep W
    | (with_reducible intro _) <;> try beta_reduce
    | (with_reducible refine ite_keep ?_ ?_)
    | split)

theorem execEndlp_keep (W : Whole P) {s : State} (n : Fin 16) (hs : P s) :
    Outs P (execEndlp n s) := by
  unfold execEndlp
  repeat' (first
    | (with_reducible refine outs_next ?_)
    | (with_reducible refine ite_outs ?_ ?_)
    | with_reducible exact maybe_none
    | (with_reducible refine maybe_some ?_)
    | (with_reducible refine ite_maybe ?_ ?_)
    | with_reducible assumption
    | with_reducible apply State.modPier_keep W.toClosed
    | with_reducible apply State.pierFault_keep W.toClosed
    | with_reducible apply State.issue_keep W
    | with_reducible apply State.nextPc_keep W
    | (with_reducible intro _) <;> try beta_reduce
    | (with_reducible refine ite_keep ?_ ?_)
    | split)

theorem execIllegalOp_keep (W : Whole P) {s : State} (n : Fin 16) (hs : P s) :
    Outs P (execIllegalOp n s) := by
  unfold execIllegalOp
  repeat' (first
    | (with_reducible refine outs_next ?_)
    | with_reducible assumption
    | with_reducible apply State.pierFault_keep W.toClosed
    | with_reducible apply State.carryOn_keep W.toClosed
    | split)

theorem execSeti_keep (W : Whole P) {s : State} (n : Fin 16) (hs : P s) :
    Outs P (execSeti n s) := by
  unfold execSeti
  repeat' (first
    | (with_reducible refine outs_next ?_)
    | with_reducible exact maybe_none
    | (with_reducible refine maybe_some ?_)
    | (with_reducible refine ite_maybe ?_ ?_)
    | with_reducible assumption
    | with_reducible apply State.issue_keep W
    | with_reducible apply State.nextPc_keep W
    | (with_reducible intro _) <;> try beta_reduce
    | split)

theorem execAddi_keep (W : Whole P) {s : State} (n : Fin 16) (hs : P s) :
    Outs P (execAddi n s) := by
  unfold execAddi
  repeat' (first
    | (with_reducible refine outs_next ?_)
    | with_reducible exact maybe_none
    | (with_reducible refine maybe_some ?_)
    | (with_reducible refine ite_maybe ?_ ?_)
    | with_reducible assumption
    | with_reducible apply State.issue_keep W
    | with_reducible apply State.nextPc_keep W
    | (with_reducible intro _) <;> try beta_reduce
    | split)

theorem execAlu_keep (W : Whole P) {s : State} (n : Fin 16) (hs : P s) :
    Outs P (execAlu n s) := by
  unfold execAlu
  repeat' (first
    | (with_reducible refine outs_next ?_)
    | with_reducible exact maybe_none
    | (with_reducible refine maybe_some ?_)
    | (with_reducible refine ite_maybe ?_ ?_)
    | with_reducible assumption
    | with_reducible apply State.issue_keep W
    | with_reducible apply State.nextPc_keep W
    | with_reducible apply State.illegal_keep W
    | (with_reducible intro _) <;> try beta_reduce
    | split)

theorem execLdc_keep (W : Whole P) {s : State} (n : Fin 16) (hs : P s) :
    Outs P (execLdc n s) := by
  unfold execLdc
  repeat' (first
    | (with_reducible refine outs_next ?_)
    | with_reducible exact maybe_none
    | (with_reducible refine maybe_some ?_)
    | (with_reducible refine ite_maybe ?_ ?_)
    | with_reducible assumption
    | with_reducible apply State.issue_keep W
    | with_reducible apply State.nextPc_keep W
    | with_reducible apply State.illegal_keep W
    | (with_reducible intro _) <;> try beta_reduce
    | split)

theorem execRdtime_keep (W : Whole P) {s : State} (n : Fin 16) (hs : P s) :
    Outs P (execRdtime n s) := by
  unfold execRdtime
  repeat' (first
    | (with_reducible refine outs_next ?_)
    | with_reducible exact maybe_none
    | (with_reducible refine maybe_some ?_)
    | (with_reducible refine ite_maybe ?_ ?_)
    | with_reducible assumption
    | with_reducible apply State.issue_keep W
    | with_reducible apply State.nextPc_keep W
    | with_reducible apply State.illegal_keep W
    | (with_reducible intro _) <;> try beta_reduce
    | split)

theorem execSpanEvrec_keep (W : Whole P) {s : State} (n : Fin 16) (hs : P s) :
    Outs P (execSpanEvrec n s) := by
  unfold execSpanEvrec
  repeat' (first
    | (with_reducible refine outs_next ?_)
    | with_reducible exact maybe_none
    | (with_reducible refine maybe_some ?_)
    | (with_reducible refine ite_maybe ?_ ?_)
    | with_reducible assumption
    | with_reducible apply State.issue_keep W
    | with_reducible apply State.fly_keep W
    | (with_reducible intro _) <;> try beta_reduce
    | split)

theorem execSpanEvwait_keep (W : Whole P) {s : State} (n : Fin 16) (hs : P s) :
    Outs P (execSpanEvwait n s) := by
  unfold execSpanEvwait
  repeat' (first
    | (with_reducible refine outs_next ?_)
    | with_reducible exact maybe_none
    | (with_reducible refine maybe_some ?_)
    | (with_reducible refine ite_maybe ?_ ?_)
    | with_reducible assumption
    | with_reducible apply State.modPier_keep W.toClosed
    | with_reducible apply State.issue_keep W
    | with_reducible apply State.block__keep W
    | (with_reducible intro _) <;> try beta_reduce
    | split)

theorem execSpanEvwaitTimeout_keep (W : Whole P) {s : State} (n : Fin 16) (hs : P s) :
    Outs P (execSpanEvwaitTimeout n s) := by
  unfold execSpanEvwaitTimeout
  repeat' (first
    | (with_reducible refine outs_next ?_)
    | (with_reducible refine ite_outs ?_ ?_)
    | with_reducible assumption
    | with_reducible apply State.modPier_keep W.toClosed
    | with_reducible apply State.passTo_keep W
    | with_reducible apply State.carryOn_keep W.toClosed
    | (with_reducible refine ite_keep ?_ ?_)
    | split)

theorem State.enterBarrier_keep (W : Whole P) {s : State} (n : Nat) (l : Launch) (i : SpanInstr) (id : Nat) (mask : Nat) (hs : P s) :
    P (State.enterBarrier s n l i id mask) := by
  unfold State.enterBarrier
  repeat' (first
    | with_reducible assumption
    | (extract_lets +onlyGivenNames _t; revert _t
       first
       | (with_reducible refine let_keep (P := P) ?_ (fun _ _ => ?_))
       | (with_reducible refine let_keep₂ (P := P) ?_ (fun _ _ => ?_))
       | (with_reducible refine let_keep₁ (P := P) ?_ (fun _ _ => ?_))
       | (with_reducible refine let_maybe (P := P) ?_ (fun _ _ => ?_))
       | (with_reducible refine let_function ?_)
       | (with_reducible refine let_outs (P := P) ?_ (fun _ _ => ?_))
       | (with_reducible refine let_any (fun _ => ?_)))
    | with_reducible apply State.block__keep W
    | (with_reducible refine ite_keep ?_ ?_)
    | split
    | with_reducible refine W.wide rfl ?_
    | (simp only [id_eq]; with_reducible assumption)
    | with_reducible refine W.wide rfl ?_)

theorem execBarrier_keep (W : Whole P) {s : State} (n : Fin 16) (hs : P s) :
    Outs P (execBarrier n s) := by
  unfold execBarrier
  repeat' (first
    | (with_reducible refine outs_next ?_)
    | (with_reducible refine ite_outs ?_ ?_)
    | with_reducible exact maybe_none
    | (with_reducible refine maybe_some ?_)
    | (with_reducible refine ite_maybe ?_ ?_)
    | with_reducible assumption
    | (extract_lets +onlyGivenNames _t; revert _t
       first
       | (with_reducible refine let_keep (P := P) ?_ (fun _ _ => ?_))
       | (with_reducible refine let_keep₂ (P := P) ?_ (fun _ _ => ?_))
       | (with_reducible refine let_keep₁ (P := P) ?_ (fun _ _ => ?_))
       | (with_reducible refine let_maybe (P := P) ?_ (fun _ _ => ?_))
       | (with_reducible refine let_function ?_)
       | (with_reducible refine let_outs (P := P) ?_ (fun _ _ => ?_))
       | (with_reducible refine let_any (fun _ => ?_)))
    | with_reducible apply State.pierFault_keep W.toClosed
    | with_reducible apply State.issue_keep W
    | with_reducible apply State.holdIssue_keep W
    | with_reducible apply State.illegal_keep W
    | with_reducible apply State.enterBarrier_keep W
    | (with_reducible intro _) <;> try beta_reduce
    | (with_reducible refine ite_keep ?_ ?_)
    | split
    | (simp only [id_eq]; with_reducible assumption))

theorem execFence_keep (W : Whole P) {s : State} (n : Fin 16) (hs : P s) :
    Outs P (execFence n s) := by
  unfold execFence
  repeat' (first
    | (with_reducible refine outs_next ?_)
    | with_reducible exact maybe_none
    | (with_reducible refine maybe_some ?_)
    | (with_reducible refine ite_maybe ?_ ?_)
    | with_reducible assumption
    | with_reducible apply State.issue_keep W
    | with_reducible apply State.block__keep W
    | (with_reducible intro _) <;> try beta_reduce
    | split)

theorem execDma_keep (W : Whole P) {s : State} (n : Fin 16) (hs : P s) :
    Outs P (execDma n s) := by
  unfold execDma
  repeat' (first
    | (with_reducible refine outs_next ?_)
    | (with_reducible refine ite_outs ?_ ?_)
    | with_reducible exact maybe_none
    | (with_reducible refine maybe_some ?_)
    | (with_reducible refine ite_maybe ?_ ?_)
    | with_reducible assumption
    | (extract_lets +onlyGivenNames _t; revert _t
       first
       | (with_reducible refine let_keep (P := P) ?_ (fun _ _ => ?_))
       | (with_reducible refine let_keep₂ (P := P) ?_ (fun _ _ => ?_))
       | (with_reducible refine let_keep₁ (P := P) ?_ (fun _ _ => ?_))
       | (with_reducible refine let_maybe (P := P) ?_ (fun _ _ => ?_))
       | (with_reducible refine let_function ?_)
       | (with_reducible refine let_outs (P := P) ?_ (fun _ _ => ?_))
       | (with_reducible refine let_any (fun _ => ?_)))
    | with_reducible apply State.modPier_keep W.toClosed
    | with_reducible apply State.issue_keep W
    | with_reducible apply State.fly_keep W
    | with_reducible apply State.holdIssue_keep W
    | with_reducible apply State.illegal_keep W
    | (with_reducible intro _) <;> try beta_reduce
    | (with_reducible refine ite_keep ?_ ?_)
    | split)

theorem State.dmaMove_keep (W : Whole P) {s : State} (n : Nat) (x : Tag) (hs : P s) :
    P (State.dmaMove s n x).1 := by
  unfold State.dmaMove
  repeat' (first
    | with_reducible assumption
    | split
    | dsimp only
    | (extract_lets +onlyGivenNames _t; revert _t
       first
       | (with_reducible refine let_keep (P := P) ?_ (fun _ _ => ?_))
       | (with_reducible refine let_keep₂ (P := P) ?_ (fun _ _ => ?_))
       | (with_reducible refine let_keep₁ (P := P) ?_ (fun _ _ => ?_))
       | (with_reducible refine let_maybe (P := P) ?_ (fun _ _ => ?_))
       | (with_reducible refine let_function ?_)
       | (with_reducible refine let_outs (P := P) ?_ (fun _ _ => ?_))
       | (with_reducible refine let_any (fun _ => ?_)))
    | with_reducible apply State.dmaCopy_keep W.toClosed
    | with_reducible apply State.countDrops_keep W.toClosed
    | dsimp only
    | (with_reducible refine ite_keep ?_ ?_)
    | split
    | (with_reducible refine of_fst (by with_reducible assumption) ?_)
    | with_reducible refine W.wide rfl ?_)

theorem execDmaComplete_keep (W : Whole P) {s : State} (n : Fin 16) (tag : Fin 32) (events : List MemEvent) (hs : P s) :
    Outs P (execDmaComplete n tag events s) := by
  unfold execDmaComplete
  repeat' (first
    | (with_reducible refine outs_next ?_)
    | (with_reducible refine ite_outs ?_ ?_)
    | with_reducible assumption
    | (extract_lets +onlyGivenNames _t; revert _t
       first
       | (with_reducible refine let_keep (P := P) ?_ (fun _ _ => ?_))
       | (with_reducible refine let_keep₂ (P := P) ?_ (fun _ _ => ?_))
       | (with_reducible refine let_keep₁ (P := P) ?_ (fun _ _ => ?_))
       | (with_reducible refine let_maybe (P := P) ?_ (fun _ _ => ?_))
       | (with_reducible refine let_function ?_)
       | (with_reducible refine let_outs (P := P) ?_ (fun _ _ => ?_))
       | (with_reducible refine let_any (fun _ => ?_)))
    | with_reducible apply State.modPier_keep W.toClosed
    | with_reducible apply State.memEvents_keep W.toClosed
    | with_reducible apply State.carryOn_keep W.toClosed
    | with_reducible apply State.dmaMove_keep W
    | (with_reducible refine ite_keep ?_ ?_)
    | split
    | (with_reducible refine of_fst (by with_reducible assumption) ?_))

theorem execDmaw_keep (W : Whole P) {s : State} (n : Fin 16) (hs : P s) :
    Outs P (execDmaw n s) := by
  unfold execDmaw
  repeat' (first
    | (with_reducible refine outs_next ?_)
    | with_reducible exact maybe_none
    | (with_reducible refine maybe_some ?_)
    | (with_reducible refine ite_maybe ?_ ?_)
    | with_reducible assumption
    | with_reducible apply State.issue_keep W
    | with_reducible apply State.block__keep W
    | (with_reducible intro _) <;> try beta_reduce
    | split)

theorem State.issueAtomic_keep (W : Whole P) {s : State} (n : Nat) (i : SpanInstr) (p : Pier) (ra : PReg) (rb : PReg) (w : Nat) (spadOnly : Bool) (hs : P s) :
    P (State.issueAtomic s n i p ra rb w spadOnly) := by
  unfold State.issueAtomic
  repeat' (first
    | with_reducible assumption
    | (extract_lets +onlyGivenNames _t; revert _t
       first
       | (with_reducible refine let_keep (P := P) ?_ (fun _ _ => ?_))
       | (with_reducible refine let_keep₂ (P := P) ?_ (fun _ _ => ?_))
       | (with_reducible refine let_keep₁ (P := P) ?_ (fun _ _ => ?_))
       | (with_reducible refine let_maybe (P := P) ?_ (fun _ _ => ?_))
       | (with_reducible refine let_function ?_)
       | (with_reducible refine let_outs (P := P) ?_ (fun _ _ => ?_))
       | (with_reducible refine let_any (fun _ => ?_)))
    | with_reducible apply State.pierFault_keep W.toClosed
    | with_reducible apply State.fly_keep W
    | with_reducible apply State.illegal_keep W
    | (with_reducible refine ite_keep ?_ ?_)
    | split)

theorem execAtadd_keep (W : Whole P) {s : State} (n : Fin 16) (hs : P s) :
    Outs P (execAtadd n s) := by
  unfold execAtadd
  repeat' (first
    | (with_reducible refine outs_next ?_)
    | with_reducible exact maybe_none
    | (with_reducible refine maybe_some ?_)
    | (with_reducible refine ite_maybe ?_ ?_)
    | with_reducible assumption
    | with_reducible apply State.issue_keep W
    | with_reducible apply State.issueAtomic_keep W
    | (with_reducible intro _) <;> try beta_reduce
    | split)

theorem execAtswp_keep (W : Whole P) {s : State} (n : Fin 16) (hs : P s) :
    Outs P (execAtswp n s) := by
  unfold execAtswp
  repeat' (first
    | (with_reducible refine outs_next ?_)
    | with_reducible exact maybe_none
    | (with_reducible refine maybe_some ?_)
    | (with_reducible refine ite_maybe ?_ ?_)
    | with_reducible assumption
    | with_reducible apply State.issue_keep W
    | with_reducible apply State.issueAtomic_keep W
    | (with_reducible intro _) <;> try beta_reduce
    | split)

theorem execBset_keep (W : Whole P) {s : State} (n : Fin 16) (hs : P s) :
    Outs P (execBset n s) := by
  unfold execBset
  repeat' (first
    | (with_reducible refine outs_next ?_)
    | with_reducible exact maybe_none
    | (with_reducible refine maybe_some ?_)
    | (with_reducible refine ite_maybe ?_ ?_)
    | with_reducible assumption
    | with_reducible apply State.issue_keep W
    | with_reducible apply State.issueAtomic_keep W
    | (with_reducible intro _) <;> try beta_reduce
    | split)

theorem execBclr_keep (W : Whole P) {s : State} (n : Fin 16) (hs : P s) :
    Outs P (execBclr n s) := by
  unfold execBclr
  repeat' (first
    | (with_reducible refine outs_next ?_)
    | with_reducible exact maybe_none
    | (with_reducible refine maybe_some ?_)
    | (with_reducible refine ite_maybe ?_ ?_)
    | with_reducible assumption
    | with_reducible apply State.issue_keep W
    | with_reducible apply State.issueAtomic_keep W
    | (with_reducible intro _) <;> try beta_reduce
    | split)

theorem State.markOrder_keep (W : Whole P) {s : State} (n : Nat) (hs : P s) :
    P (State.markOrder s n) := by
  unfold State.markOrder
  repeat' (first
    | with_reducible assumption
    | (extract_lets +onlyGivenNames _t; revert _t
       first
       | (with_reducible refine let_keep (P := P) ?_ (fun _ _ => ?_))
       | (with_reducible refine let_keep₂ (P := P) ?_ (fun _ _ => ?_))
       | (with_reducible refine let_keep₁ (P := P) ?_ (fun _ _ => ?_))
       | (with_reducible refine let_maybe (P := P) ?_ (fun _ _ => ?_))
       | (with_reducible refine let_function ?_)
       | (with_reducible refine let_outs (P := P) ?_ (fun _ _ => ?_))
       | (with_reducible refine let_any (fun _ => ?_)))
    | with_reducible apply State.modExec_keep W.toClosed
    | with_reducible apply State.modRun_keep W.toClosed
    | with_reducible apply State.tenFlag_keep W.toClosed
    | split)

theorem State.completeAtomic_keep (W : Whole P) {s : State} (n : Nat) (k : Nat) (i : InFlight) (hs : P s) :
    P (State.completeAtomic s n k i) := by
  unfold State.completeAtomic
  repeat' (first
    | with_reducible assumption
    | (extract_lets +onlyGivenNames _t; revert _t
       first
       | (with_reducible refine let_keep (P := P) ?_ (fun _ _ => ?_))
       | (with_reducible refine let_keep₂ (P := P) ?_ (fun _ _ => ?_))
       | (with_reducible refine let_keep₁ (P := P) ?_ (fun _ _ => ?_))
       | (with_reducible refine let_maybe (P := P) ?_ (fun _ _ => ?_))
       | (with_reducible refine let_function ?_)
       | (with_reducible refine let_outs (P := P) ?_ (fun _ _ => ?_))
       | (with_reducible refine let_any (fun _ => ?_)))
    | with_reducible apply State.modPier_keep W.toClosed
    | with_reducible apply State.atomicAt_keep W.toClosed
    | with_reducible apply State.countDrops_keep W.toClosed
    | with_reducible apply State.markOrder_keep W
    | (with_reducible refine ite_keep ?_ ?_)
    | split
    | (with_reducible refine of_snd (by with_reducible assumption) ?_))

theorem execMcast_keep (W : Whole P) {s : State} (n : Fin 16) (hs : P s) :
    Outs P (execMcast n s) := by
  unfold execMcast
  repeat' (first
    | (with_reducible refine outs_next ?_)
    | (with_reducible refine ite_outs ?_ ?_)
    | with_reducible exact maybe_none
    | (with_reducible refine maybe_some ?_)
    | (with_reducible refine ite_maybe ?_ ?_)
    | with_reducible assumption
    | (extract_lets +onlyGivenNames _t; revert _t
       first
       | (with_reducible refine let_keep (P := P) ?_ (fun _ _ => ?_))
       | (with_reducible refine let_keep₂ (P := P) ?_ (fun _ _ => ?_))
       | (with_reducible refine let_keep₁ (P := P) ?_ (fun _ _ => ?_))
       | (with_reducible refine let_maybe (P := P) ?_ (fun _ _ => ?_))
       | (with_reducible refine let_function ?_)
       | (with_reducible refine let_outs (P := P) ?_ (fun _ _ => ?_))
       | (with_reducible refine let_any (fun _ => ?_)))
    | with_reducible apply State.modPier_keep W.toClosed
    | with_reducible apply State.issue_keep W
    | with_reducible apply State.nextPc_keep W
    | with_reducible apply State.fly_keep W
    | with_reducible apply State.holdIssue_keep W
    | with_reducible apply State.illegal_keep W
    | (with_reducible intro _) <;> try beta_reduce
    | (with_reducible refine ite_keep ?_ ?_)
    | split)

theorem State.answerBranch_keep (W : Whole P) {s : State} (n : Nat) (slot : Nat) (target : Nat) (cancelled : Bool) (hs : P s) :
    P (State.answerBranch s n slot target cancelled) := by
  unfold State.answerBranch
  repeat' (first
    | with_reducible assumption
    | (extract_lets +onlyGivenNames _t; revert _t
       first
       | (with_reducible refine let_keep (P := P) ?_ (fun _ _ => ?_))
       | (with_reducible refine let_keep₂ (P := P) ?_ (fun _ _ => ?_))
       | (with_reducible refine let_keep₁ (P := P) ?_ (fun _ _ => ?_))
       | (with_reducible refine let_maybe (P := P) ?_ (fun _ _ => ?_))
       | (with_reducible refine let_function ?_)
       | (with_reducible refine let_outs (P := P) ?_ (fun _ _ => ?_))
       | (with_reducible refine let_any (fun _ => ?_)))
    | with_reducible apply State.modPier_keep W.toClosed
    | (with_reducible refine ite_keep ?_ ?_)
    | split)

theorem State.deliverMcast_keep (W : Whole P) {s : State} (n slot target : Nat) (hs : P s) :
    P (s.deliverMcast n slot target) := by
  unfold State.deliverMcast
  split
  · split
    · exact W.rest (W.mem _ hs)
    · exact hs
  · exact hs

theorem State.returnTo_keep (W : Whole P) {s : State} (n : Nat) (hs : P s) :
    P (State.returnTo s n) := by
  unfold State.returnTo
  repeat' (first
    | with_reducible assumption
    | with_reducible apply State.countDrops_keep W.toClosed
    | (with_reducible refine ite_keep ?_ ?_)
    | split)

theorem execDeliveryNotice_keep (W : Whole P) {s : State} (n : Fin 16) (slot : Fin 4) (target : Fin 16) (hs : P s) :
    Outs P (execDeliveryNotice n slot target s) := by
  unfold execDeliveryNotice
  repeat' (first
    | (with_reducible refine outs_next ?_)
    | (with_reducible refine ite_outs ?_ ?_)
    | with_reducible assumption
    | with_reducible apply State.carryOn_keep W.toClosed
    | with_reducible apply State.answerBranch_keep W
    | with_reducible apply State.deliverMcast_keep W
    | with_reducible apply State.returnTo_keep W
    | (with_reducible refine ite_keep ?_ ?_)
    | split)

theorem execCancelNotice_keep (W : Whole P) {s : State} (n : Fin 16) (slot : Fin 4) (target : Fin 16) (hs : P s) :
    Outs P (execCancelNotice n slot target s) := by
  unfold execCancelNotice
  repeat' (first
    | (with_reducible refine outs_next ?_)
    | (with_reducible refine ite_outs ?_ ?_)
    | with_reducible assumption
    | with_reducible apply State.countDrops_keep W.toClosed
    | with_reducible apply State.carryOn_keep W.toClosed
    | with_reducible apply State.answerBranch_keep W
    | with_reducible apply State.returnTo_keep W
    | (with_reducible refine ite_keep ?_ ?_)
    | split)

end Sys2Proof.Machine
end

