-- ==== Sys2Proof/Laws/KeepTensor.lean ====
section
/-! SUPPORT. Every whole property is kept by the operations of Machine/Tensor.lean.
-/

namespace Sys2Proof.Machine

set_option linter.all false

variable {P : State → Prop}

theorem State.doMma_keep (W : Whole P) {s : State} (n : Nat) (j : MmaJob) (a : Nat → Nat → Int × Int) (b : Nat → Nat → Int × Int) (hs : P s) :
    P (State.doMma s n j a b) := by
  unfold State.doMma
  repeat' (first
    | with_reducible assumption
    | (extract_lets +onlyGivenNames _t; revert _t
       first
       | (with_reducible refine let_keep (P := P) ?_ (fun _ _ => ?_))
       | (with_reducible refine let_keep₂ (P := P) ?_ (fun _ _ => ?_))
       | (with_reducible refine let_keep₁ (P := P) ?_ (fun _ _ => ?_))
       | (with_reducible refine let_maybe (P := P) ?_ (fun _ _ => ?_))
       | (with_reducible refine let_function ?_)
       | (with_reducible refine let_outs (P := P) ?_ (fun _ _ => ?_))
       | (with_reducible refine let_any (fun _ => ?_)))
    | with_reducible apply State.setSpan_keep W.toClosed
    | with_reducible apply State.tenFlag_keep W.toClosed
    | with_reducible apply State.tenFlagIf_keep W.toClosed
    | (with_reducible refine foldl_keep₁ (fun _ _ _ => ?_) _ _ ?_) <;> try beta_reduce
    | (with_reducible refine foldl_keep₂ (fun _ _ _ => ?_) _ _ ?_) <;> try beta_reduce
    | (with_reducible refine foldl_keep (fun _ _ _ => ?_) _ _ ?_) <;> try beta_reduce
    | (with_reducible refine ite_keep ?_ ?_)
    | split
    | dsimp only)

theorem State.doRed_keep (W : Whole P) {s : State} (n : Nat) (t : PReg) (a : Word) (b : Word) (shape : BitVec 2) (op : BitVec 2) (c : CellSet) (axis : BitVec 2) (hs : P s) :
    P (State.doRed s n t a b shape op c axis) := by
  unfold State.doRed
  repeat' (first
    | with_reducible assumption
    | (extract_lets +onlyGivenNames _t; revert _t
       first
       | (with_reducible refine let_keep (P := P) ?_ (fun _ _ => ?_))
       | (with_reducible refine let_keep₂ (P := P) ?_ (fun _ _ => ?_))
       | (with_reducible refine let_keep₁ (P := P) ?_ (fun _ _ => ?_))
       | (with_reducible refine let_maybe (P := P) ?_ (fun _ _ => ?_))
       | (with_reducible refine let_function ?_)
       | (with_reducible refine let_outs (P := P) ?_ (fun _ _ => ?_))
       | (with_reducible refine let_any (fun _ => ?_)))
    | with_reducible apply State.spadWrite_keep W.toClosed
    | with_reducible apply State.tenFlag_keep W.toClosed
    | with_reducible apply State.tenFlagIf_keep W.toClosed
    | (with_reducible refine ite_keep ?_ ?_)
    | split)

theorem State.doAccmv_keep (W : Whole P) {s : State} (n : Nat) (t : PReg) (a : Word) (b : Word) (d : BitVec 8) (fmt : BitVec 4) (shape : BitVec 2) (op : BitVec 2) (c : CellSet) (yfmt : BitVec 4) (ybc : Bool) (clr : Bool) (hs : P s) :
    P (State.doAccmv s n t a b d fmt shape op c yfmt ybc clr) := by
  unfold State.doAccmv
  repeat' (first
    | with_reducible assumption
    | (extract_lets +onlyGivenNames _t; revert _t
       first
       | (with_reducible refine let_keep (P := P) ?_ (fun _ _ => ?_))
       | (with_reducible refine let_keep₂ (P := P) ?_ (fun _ _ => ?_))
       | (with_reducible refine let_keep₁ (P := P) ?_ (fun _ _ => ?_))
       | (with_reducible refine let_maybe (P := P) ?_ (fun _ _ => ?_))
       | (with_reducible refine let_function ?_)
       | (with_reducible refine let_outs (P := P) ?_ (fun _ _ => ?_))
       | (with_reducible refine let_any (fun _ => ?_)))
    | with_reducible apply State.modSpan_keep W.toClosed
    | with_reducible apply State.spadCells_keep W.toClosed
    | with_reducible apply State.tenFlag_keep W.toClosed
    | with_reducible apply State.tenFlagIf_keep W.toClosed
    | (with_reducible refine ite_keep ?_ ?_)
    | split)

theorem State.doCvt_keep (W : Whole P) {s : State} (n : Nat) (a : Word) (b : Word) (dims : Word) (ofmt : BitVec 4) (ifmt : BitVec 4) (d : BitVec 8) (tr : Bool) (hs : P s) :
    P (State.doCvt s n a b dims ofmt ifmt d tr) := by
  unfold State.doCvt
  repeat' (first
    | with_reducible assumption
    | (extract_lets +onlyGivenNames _t; revert _t
       first
       | (with_reducible refine let_keep (P := P) ?_ (fun _ _ => ?_))
       | (with_reducible refine let_keep₂ (P := P) ?_ (fun _ _ => ?_))
       | (with_reducible refine let_keep₁ (P := P) ?_ (fun _ _ => ?_))
       | (with_reducible refine let_maybe (P := P) ?_ (fun _ _ => ?_))
       | (with_reducible refine let_function ?_)
       | (with_reducible refine let_outs (P := P) ?_ (fun _ _ => ?_))
       | (with_reducible refine let_any (fun _ => ?_)))
    | with_reducible apply State.spadCells_keep W.toClosed
    | with_reducible apply State.tenFlagIf_keep W.toClosed
    | split)

theorem State.doEwo_keep (W : Whole P) {s : State} (n : Nat) (z : Word) (a : Word) (b : Word) (dims : Word) (zfmt : BitVec 4) (xfmt : BitVec 4) (yfmt : BitVec 4) (d : BitVec 8) (ybc : Bool) (op : BitVec 2) (hs : P s) :
    P (State.doEwo s n z a b dims zfmt xfmt yfmt d ybc op) := by
  unfold State.doEwo
  repeat' (first
    | with_reducible assumption
    | (extract_lets +onlyGivenNames _t; revert _t
       first
       | (with_reducible refine let_keep (P := P) ?_ (fun _ _ => ?_))
       | (with_reducible refine let_keep₂ (P := P) ?_ (fun _ _ => ?_))
       | (with_reducible refine let_keep₁ (P := P) ?_ (fun _ _ => ?_))
       | (with_reducible refine let_maybe (P := P) ?_ (fun _ _ => ?_))
       | (with_reducible refine let_function ?_)
       | (with_reducible refine let_outs (P := P) ?_ (fun _ _ => ?_))
       | (with_reducible refine let_any (fun _ => ?_)))
    | with_reducible apply State.spadCells_keep W.toClosed
    | with_reducible apply State.tenFlagIf_keep W.toClosed
    | split)

theorem State.doFldcAcc_keep (W : Whole P) {s : State} (n : Nat) (t : PReg) (a : Word) (b : Word) (pair : BitVec 4) (shape : BitVec 2) (c : CellSet) (qubo : Bool) (kq : BitVec 9) (hs : P s) :
    P (State.doFldcAcc s n t a b pair shape c qubo kq) := by
  unfold State.doFldcAcc
  repeat' (first
    | with_reducible assumption
    | (extract_lets +onlyGivenNames _t; revert _t
       first
       | (with_reducible refine let_keep (P := P) ?_ (fun _ _ => ?_))
       | (with_reducible refine let_keep₂ (P := P) ?_ (fun _ _ => ?_))
       | (with_reducible refine let_keep₁ (P := P) ?_ (fun _ _ => ?_))
       | (with_reducible refine let_maybe (P := P) ?_ (fun _ _ => ?_))
       | (with_reducible refine let_function ?_)
       | (with_reducible refine let_outs (P := P) ?_ (fun _ _ => ?_))
       | (with_reducible refine let_any (fun _ => ?_)))
    | with_reducible apply State.doMma_keep W
    | (with_reducible refine ite_keep ?_ ?_)
    | split)

theorem State.doFldcCommit_keep (W : Whole P) {s : State} (n : Nat) (pc : Nat) (t : PReg) (w : Word) (shape : BitVec 2) (c : CellSet) (set_ : Bool) (hs : P s) :
    P (State.doFldcCommit s n pc t w shape c set_) := by
  unfold State.doFldcCommit
  repeat' (first
    | with_reducible assumption
    | (extract_lets +onlyGivenNames _t; revert _t
       first
       | (with_reducible refine let_keep (P := P) ?_ (fun _ _ => ?_))
       | (with_reducible refine let_keep₂ (P := P) ?_ (fun _ _ => ?_))
       | (with_reducible refine let_keep₁ (P := P) ?_ (fun _ _ => ?_))
       | (with_reducible refine let_maybe (P := P) ?_ (fun _ _ => ?_))
       | (with_reducible refine let_function ?_)
       | (with_reducible refine let_outs (P := P) ?_ (fun _ _ => ?_))
       | (with_reducible refine let_any (fun _ => ?_)))
    | with_reducible apply State.modEng_keep W.toClosed
    | with_reducible apply State.pierFault_keep W.toClosed
    | (with_reducible refine foldl_keep₁ (fun _ _ _ => ?_) _ _ ?_) <;> try beta_reduce
    | (with_reducible refine foldl_keep₂ (fun _ _ _ => ?_) _ _ ?_) <;> try beta_reduce
    | (with_reducible refine foldl_keep (fun _ _ _ => ?_) _ _ ?_) <;> try beta_reduce
    | (with_reducible refine ite_keep ?_ ?_)
    | split
    | dsimp only)

theorem State.putSpadBit_keep (W : Whole P) {s : State} (n : Nat) (off : Nat) (bit : Nat) (v : Bool) (hs : P s) :
    P (State.putSpadBit s n off bit v) := by
  unfold State.putSpadBit
  repeat' (first
    | with_reducible assumption
    | (extract_lets +onlyGivenNames _t; revert _t
       first
       | (with_reducible refine let_keep (P := P) ?_ (fun _ _ => ?_))
       | (with_reducible refine let_keep₂ (P := P) ?_ (fun _ _ => ?_))
       | (with_reducible refine let_keep₁ (P := P) ?_ (fun _ _ => ?_))
       | (with_reducible refine let_maybe (P := P) ?_ (fun _ _ => ?_))
       | (with_reducible refine let_function ?_)
       | (with_reducible refine let_outs (P := P) ?_ (fun _ _ => ?_))
       | (with_reducible refine let_any (fun _ => ?_)))
    | with_reducible apply State.spadWrite_keep W.toClosed
    | (with_reducible refine ite_keep ?_ ?_)
    | split)

theorem State.doGibbs_keep (W : Whole P) {s : State} (n : Nat) (pc : Nat) (t : PReg) (a : Word) (b : Word) (rc : Word) (shape : BitVec 2) (clr : Bool) (bias : Bool) (c : CellSet) (bfmt : BitVec 4) (hs : P s) :
    P (State.doGibbs s n pc t a b rc shape clr bias c bfmt) := by
  unfold State.doGibbs
  repeat' (first
    | with_reducible assumption
    | (extract_lets +onlyGivenNames _t; revert _t
       first
       | (with_reducible refine let_keep (P := P) ?_ (fun _ _ => ?_))
       | (with_reducible refine let_keep₂ (P := P) ?_ (fun _ _ => ?_))
       | (with_reducible refine let_keep₁ (P := P) ?_ (fun _ _ => ?_))
       | (with_reducible refine let_maybe (P := P) ?_ (fun _ _ => ?_))
       | (with_reducible refine let_function ?_)
       | (with_reducible refine let_outs (P := P) ?_ (fun _ _ => ?_))
       | (with_reducible refine let_any (fun _ => ?_)))
    | with_reducible apply State.modSpan_keep W.toClosed
    | with_reducible apply State.pierFault_keep W.toClosed
    | with_reducible apply State.putSpadBit_keep W
    | (with_reducible refine foldl_keep₁ (fun _ _ _ => ?_) _ _ ?_) <;> try beta_reduce
    | (with_reducible refine foldl_keep₂ (fun _ _ _ => ?_) _ _ ?_) <;> try beta_reduce
    | (with_reducible refine foldl_keep (fun _ _ _ => ?_) _ _ ?_) <;> try beta_reduce
    | (with_reducible refine ite_keep ?_ ?_)
    | split
    | dsimp only)

theorem State.flyIf_keep (W : Whole P) {s : State} (n : Nat) (ok : Bool) (i : SpanInstr) (p : Pier) (a : PReg) (b : PReg) (c : PReg) (hs : P s) :
    P (State.flyIf s n ok i p a b c) := by
  unfold State.flyIf
  repeat' (first
    | with_reducible assumption
    | with_reducible apply State.fly_keep W
    | with_reducible apply State.illegal_keep W
    | (with_reducible refine ite_keep ?_ ?_)
    | split)

theorem execMma_keep (W : Whole P) {s : State} (n : Fin 16) (hs : P s) :
    Outs P (execMma n s) := by
  unfold execMma
  repeat' (first
    | (with_reducible refine outs_next ?_)
    | with_reducible exact maybe_none
    | (with_reducible refine maybe_some ?_)
    | (with_reducible refine ite_maybe ?_ ?_)
    | with_reducible assumption
    | with_reducible apply State.issue_keep W
    | with_reducible apply State.flyIf_keep W
    | (with_reducible intro _) <;> try beta_reduce
    | split)

theorem execMmaz_keep (W : Whole P) {s : State} (n : Fin 16) (hs : P s) :
    Outs P (execMmaz n s) := by
  unfold execMmaz
  repeat' (first
    | (with_reducible refine outs_next ?_)
    | with_reducible exact maybe_none
    | (with_reducible refine maybe_some ?_)
    | (with_reducible refine ite_maybe ?_ ?_)
    | with_reducible assumption
    | with_reducible apply State.issue_keep W
    | with_reducible apply State.flyIf_keep W
    | (with_reducible intro _) <;> try beta_reduce
    | split)

theorem execAccz_keep (W : Whole P) {s : State} (n : Fin 16) (hs : P s) :
    Outs P (execAccz n s) := by
  unfold execAccz
  repeat' (first
    | (with_reducible refine outs_next ?_)
    | with_reducible exact maybe_none
    | (with_reducible refine maybe_some ?_)
    | (with_reducible refine ite_maybe ?_ ?_)
    | with_reducible assumption
    | (extract_lets +onlyGivenNames _t; revert _t
       first
       | (with_reducible refine let_keep (P := P) ?_ (fun _ _ => ?_))
       | (with_reducible refine let_keep₂ (P := P) ?_ (fun _ _ => ?_))
       | (with_reducible refine let_keep₁ (P := P) ?_ (fun _ _ => ?_))
       | (with_reducible refine let_maybe (P := P) ?_ (fun _ _ => ?_))
       | (with_reducible refine let_function ?_)
       | (with_reducible refine let_outs (P := P) ?_ (fun _ _ => ?_))
       | (with_reducible refine let_any (fun _ => ?_)))
    | with_reducible apply State.issue_keep W
    | with_reducible apply State.flyIf_keep W
    | (with_reducible intro _) <;> try beta_reduce
    | split)

theorem execRed_keep (W : Whole P) {s : State} (n : Fin 16) (hs : P s) :
    Outs P (execRed n s) := by
  unfold execRed
  repeat' (first
    | (with_reducible refine outs_next ?_)
    | with_reducible exact maybe_none
    | (with_reducible refine maybe_some ?_)
    | (with_reducible refine ite_maybe ?_ ?_)
    | with_reducible assumption
    | with_reducible apply State.issue_keep W
    | with_reducible apply State.flyIf_keep W
    | (with_reducible intro _) <;> try beta_reduce
    | split)

theorem execAccmv_keep (W : Whole P) {s : State} (n : Fin 16) (hs : P s) :
    Outs P (execAccmv n s) := by
  unfold execAccmv
  repeat' (first
    | (with_reducible refine outs_next ?_)
    | with_reducible exact maybe_none
    | (with_reducible refine maybe_some ?_)
    | (with_reducible refine ite_maybe ?_ ?_)
    | with_reducible assumption
    | with_reducible apply State.issue_keep W
    | with_reducible apply State.flyIf_keep W
    | (with_reducible intro _) <;> try beta_reduce
    | split)

theorem execCvt_keep (W : Whole P) {s : State} (n : Fin 16) (hs : P s) :
    Outs P (execCvt n s) := by
  unfold execCvt
  repeat' (first
    | (with_reducible refine outs_next ?_)
    | with_reducible exact maybe_none
    | (with_reducible refine maybe_some ?_)
    | (with_reducible refine ite_maybe ?_ ?_)
    | with_reducible assumption
    | with_reducible apply State.issue_keep W
    | with_reducible apply State.flyIf_keep W
    | (with_reducible intro _) <;> try beta_reduce
    | split)

theorem execEwo_keep (W : Whole P) {s : State} (n : Fin 16) (hs : P s) :
    Outs P (execEwo n s) := by
  unfold execEwo
  repeat' (first
    | (with_reducible refine outs_next ?_)
    | (with_reducible refine ite_outs ?_ ?_)
    | with_reducible exact maybe_none
    | (with_reducible refine maybe_some ?_)
    | (with_reducible refine ite_maybe ?_ ?_)
    | with_reducible assumption
    | (extract_lets +onlyGivenNames _t; revert _t
       first
       | (with_reducible refine let_keep (P := P) ?_ (fun _ _ => ?_))
       | (with_reducible refine let_keep₂ (P := P) ?_ (fun _ _ => ?_))
       | (with_reducible refine let_keep₁ (P := P) ?_ (fun _ _ => ?_))
       | (with_reducible refine let_maybe (P := P) ?_ (fun _ _ => ?_))
       | (with_reducible refine let_function ?_)
       | (with_reducible refine let_outs (P := P) ?_ (fun _ _ => ?_))
       | (with_reducible refine let_any (fun _ => ?_)))
    | with_reducible apply State.issue_keep W
    | with_reducible apply State.fly_keep W
    | with_reducible apply State.illegal_keep W
    | (with_reducible intro _) <;> try beta_reduce
    | (with_reducible refine ite_keep ?_ ?_)
    | split)

theorem execFldcAccumulate_keep (W : Whole P) {s : State} (n : Fin 16) (hs : P s) :
    Outs P (execFldcAccumulate n s) := by
  unfold execFldcAccumulate
  repeat' (first
    | (with_reducible refine outs_next ?_)
    | (with_reducible refine ite_outs ?_ ?_)
    | with_reducible exact maybe_none
    | (with_reducible refine maybe_some ?_)
    | (with_reducible refine ite_maybe ?_ ?_)
    | with_reducible assumption
    | with_reducible apply State.issue_keep W
    | with_reducible apply State.illegal_keep W
    | with_reducible apply State.flyIf_keep W
    | (with_reducible intro _) <;> try beta_reduce
    | (with_reducible refine ite_keep ?_ ?_)
    | split)

theorem execFldcCommitAdd_keep (W : Whole P) {s : State} (n : Fin 16) (hs : P s) :
    Outs P (execFldcCommitAdd n s) := by
  unfold execFldcCommitAdd
  repeat' (first
    | (with_reducible refine outs_next ?_)
    | (with_reducible refine ite_outs ?_ ?_)
    | with_reducible exact maybe_none
    | (with_reducible refine maybe_some ?_)
    | (with_reducible refine ite_maybe ?_ ?_)
    | with_reducible assumption
    | with_reducible apply State.issue_keep W
    | with_reducible apply State.flyIf_keep W
    | (with_reducible intro _) <;> try beta_reduce
    | (with_reducible refine ite_keep ?_ ?_)
    | split)

theorem execFldcCommitSet_keep (W : Whole P) {s : State} (n : Fin 16) (hs : P s) :
    Outs P (execFldcCommitSet n s) := by
  unfold execFldcCommitSet
  repeat' (first
    | (with_reducible refine outs_next ?_)
    | (with_reducible refine ite_outs ?_ ?_)
    | with_reducible exact maybe_none
    | (with_reducible refine maybe_some ?_)
    | (with_reducible refine ite_maybe ?_ ?_)
    | with_reducible assumption
    | with_reducible apply State.issue_keep W
    | with_reducible apply State.flyIf_keep W
    | (with_reducible intro _) <;> try beta_reduce
    | (with_reducible refine ite_keep ?_ ?_)
    | split)

theorem execGibbs_keep (W : Whole P) {s : State} (n : Fin 16) (hs : P s) :
    Outs P (execGibbs n s) := by
  unfold execGibbs
  repeat' (first
    | (with_reducible refine outs_next ?_)
    | with_reducible exact maybe_none
    | (with_reducible refine maybe_some ?_)
    | (with_reducible refine ite_maybe ?_ ?_)
    | with_reducible assumption
    | with_reducible apply State.issue_keep W
    | with_reducible apply State.flyIf_keep W
    | (with_reducible intro _) <;> try beta_reduce
    | split)

theorem State.doTensor_keep (W : Whole P) {s : State} (n : Nat) (f : InFlight) (hs : P s) :
    P (State.doTensor s n f) := by
  unfold State.doTensor
  repeat' (first
    | with_reducible assumption
    | with_reducible apply State.modSpan_keep W.toClosed
    | with_reducible apply State.doMma_keep W
    | with_reducible apply State.doRed_keep W
    | with_reducible apply State.doAccmv_keep W
    | with_reducible apply State.doCvt_keep W
    | with_reducible apply State.doEwo_keep W
    | with_reducible apply State.doFldcAcc_keep W
    | with_reducible apply State.doFldcCommit_keep W
    | with_reducible apply State.doGibbs_keep W
    | (with_reducible refine ite_keep ?_ ?_)
    | split)

theorem State.heard_keep (W : Whole P) {s : State} (n : Nat) (hs : P s) :
    P (State.heard s n) := by
  unfold State.heard
  repeat' (first
    | with_reducible assumption
    | with_reducible apply State.modSpan_keep W.toClosed
    | (with_reducible refine ite_keep ?_ ?_)
    | split)

theorem execInstructionCompletion_keep (W : Whole P) {s : State} (n : Fin 16) (k : Fin 192) (hs : P s) :
    Outs P (execInstructionCompletion n k s) := by
  unfold execInstructionCompletion
  repeat' (first
    | (with_reducible refine outs_next ?_)
    | (with_reducible refine ite_outs ?_ ?_)
    | with_reducible assumption
    | (extract_lets +onlyGivenNames _t; revert _t
       first
       | (with_reducible refine let_keep (P := P) ?_ (fun _ _ => ?_))
       | (with_reducible refine let_keep₂ (P := P) ?_ (fun _ _ => ?_))
       | (with_reducible refine let_keep₁ (P := P) ?_ (fun _ _ => ?_))
       | (with_reducible refine let_maybe (P := P) ?_ (fun _ _ => ?_))
       | (with_reducible refine let_function ?_)
       | (with_reducible refine let_outs (P := P) ?_ (fun _ _ => ?_))
       | (with_reducible refine let_any (fun _ => ?_)))
    | with_reducible apply State.modPier_keep W.toClosed
    | with_reducible apply State.eventOp_keep W.toClosed
    | with_reducible apply State.carryOn_keep W.toClosed
    | with_reducible apply State.completeAtomic_keep W
    | with_reducible apply State.doTensor_keep W
    | with_reducible apply State.heard_keep W
    | (with_reducible refine ite_keep ?_ ?_)
    | split)

end Sys2Proof.Machine
end

