-- ==== Sys2Proof/Laws/KeepRunRows.lean ====
section
/-! SUPPORT. Every whole property is kept by the operations of Machine/RunRows.lean.
-/

namespace Sys2Proof.Machine

set_option linter.all false

variable {P : State → Prop}

theorem State.beginRunCmd_keep (W : Whole P) {s : State} (c : Nat) (batch : Bool) (e : Exec) (hs : P s) :
    P (State.beginRunCmd s c batch e) := by
  unfold State.beginRunCmd
  repeat' (first
    | with_reducible assumption
    | (extract_lets +onlyGivenNames _t; revert _t
       first
       | (with_reducible refine let_keep (P := P) ?_ (fun _ _ => ?_))
       | (with_reducible refine let_keep₂ (P := P) ?_ (fun _ _ => ?_))
       | (with_reducible refine let_keep₁ (P := P) ?_ (fun _ _ => ?_))
       | (with_reducible refine let_maybe (P := P) ?_ (fun _ _ => ?_))
       | (with_reducible refine let_function ?_)
       | (with_reducible refine let_outs (P := P) ?_ (fun _ _ => ?_))
       | (with_reducible refine let_any (fun _ => ?_)))
    | with_reducible apply State.finishExec_keep W.toClosed
    | with_reducible apply State.dispatch_keep W.toClosed
    | (with_reducible refine ite_keep ?_ ?_)
    | split
    | (simp only [id_eq]; with_reducible assumption))

theorem execAnneal_keep (W : Whole P) {s : State} (c : Fin 1024) (hs : P s) :
    Outs P (execAnneal c s) := by
  unfold execAnneal
  repeat' (first
    | (with_reducible refine outs_next ?_)
    | with_reducible assumption
    | with_reducible apply State.carryOn_keep W.toClosed
    | with_reducible apply State.withCmd_keep W
    | with_reducible apply State.beginRunCmd_keep W
    | (with_reducible intro _) <;> try beta_reduce)

theorem execSample_keep (W : Whole P) {s : State} (c : Fin 1024) (hs : P s) :
    Outs P (execSample c s) := by
  unfold execSample
  repeat' (first
    | (with_reducible refine outs_next ?_)
    | with_reducible assumption
    | with_reducible apply State.carryOn_keep W.toClosed
    | with_reducible apply State.withCmd_keep W
    | with_reducible apply State.beginRunCmd_keep W
    | (with_reducible intro _) <;> try beta_reduce)

theorem execRestore_keep (W : Whole P) {s : State} (c : Fin 1024) (hs : P s) :
    Outs P (execRestore c s) := by
  unfold execRestore
  repeat' (first
    | (with_reducible refine outs_next ?_)
    | with_reducible assumption
    | with_reducible apply State.carryOn_keep W.toClosed
    | with_reducible apply State.withCmd_keep W
    | with_reducible apply State.beginRunCmd_keep W
    | (with_reducible intro _) <;> try beta_reduce)

theorem execSchedBind_keep (W : Whole P) {s : State} (n : Fin 16) (hs : P s) :
    Outs P (execSchedBind n s) := by
  unfold execSchedBind
  repeat' (first
    | (with_reducible refine outs_next ?_)
    | (with_reducible refine ite_outs ?_ ?_)
    | with_reducible exact maybe_none
    | (with_reducible refine maybe_some ?_)
    | (with_reducible refine ite_maybe ?_ ?_)
    | with_reducible assumption
    | with_reducible apply State.issue_keep W
    | with_reducible apply State.fly_keep W
    | with_reducible apply State.illegal_keep W
    | (with_reducible intro _) <;> try beta_reduce
    | (with_reducible refine ite_keep ?_ ?_)
    | split)

theorem execSweep_keep (W : Whole P) {s : State} (n : Fin 16) (hs : P s) :
    Outs P (execSweep n s) := by
  unfold execSweep
  repeat' (first
    | (with_reducible refine outs_next ?_)
    | with_reducible exact maybe_none
    | (with_reducible refine maybe_some ?_)
    | (with_reducible refine ite_maybe ?_ ?_)
    | with_reducible assumption
    | with_reducible apply State.issue_keep W
    | with_reducible apply State.fly_keep W
    | (with_reducible intro _) <;> try beta_reduce
    | split)

theorem execFref_keep (W : Whole P) {s : State} (n : Fin 16) (hs : P s) :
    Outs P (execFref n s) := by
  unfold execFref
  repeat' (first
    | (with_reducible refine outs_next ?_)
    | with_reducible exact maybe_none
    | (with_reducible refine maybe_some ?_)
    | (with_reducible refine ite_maybe ?_ ?_)
    | with_reducible assumption
    | with_reducible apply State.issue_keep W
    | with_reducible apply State.fly_keep W
    | (with_reducible intro _) <;> try beta_reduce
    | split)

theorem execEaud_keep (W : Whole P) {s : State} (n : Fin 16) (hs : P s) :
    Outs P (execEaud n s) := by
  unfold execEaud
  repeat' (first
    | (with_reducible refine outs_next ?_)
    | with_reducible exact maybe_none
    | (with_reducible refine maybe_some ?_)
    | (with_reducible refine ite_maybe ?_ ?_)
    | with_reducible assumption
    | with_reducible apply State.issue_keep W
    | with_reducible apply State.fly_keep W
    | (with_reducible intro _) <;> try beta_reduce
    | split)

theorem execSnap_keep (W : Whole P) {s : State} (n : Fin 16) (hs : P s) :
    Outs P (execSnap n s) := by
  unfold execSnap
  repeat' (first
    | (with_reducible refine outs_next ?_)
    | with_reducible exact maybe_none
    | (with_reducible refine maybe_some ?_)
    | (with_reducible refine ite_maybe ?_ ?_)
    | with_reducible assumption
    | with_reducible apply State.issue_keep W
    | with_reducible apply State.fly_keep W
    | (with_reducible intro _) <;> try beta_reduce
    | split)

theorem execXchg_keep (W : Whole P) {s : State} (n : Fin 16) (hs : P s) :
    Outs P (execXchg n s) := by
  unfold execXchg
  repeat' (first
    | (with_reducible refine outs_next ?_)
    | with_reducible exact maybe_none
    | (with_reducible refine maybe_some ?_)
    | (with_reducible refine ite_maybe ?_ ?_)
    | with_reducible assumption
    | with_reducible apply State.issue_keep W
    | with_reducible apply State.fly_keep W
    | (with_reducible intro _) <;> try beta_reduce
    | split)

theorem execSchedEnd_keep (W : Whole P) {s : State} (n : Fin 16) (hs : P s) :
    Outs P (execSchedEnd n s) := by
  unfold execSchedEnd
  repeat' (first
    | (with_reducible refine outs_next ?_)
    | (with_reducible refine ite_outs ?_ ?_)
    | with_reducible exact maybe_none
    | (with_reducible refine maybe_some ?_)
    | (with_reducible refine ite_maybe ?_ ?_)
    | with_reducible assumption
    | with_reducible apply State.issue_keep W
    | with_reducible apply State.fly_keep W
    | (with_reducible intro _) <;> try beta_reduce
    | (with_reducible refine ite_keep ?_ ?_)
    | split)

theorem execRmig_keep (W : Whole P) {s : State} (n : Fin 16) (hs : P s) :
    Outs P (execRmig n s) := by
  unfold execRmig
  repeat' (first
    | (with_reducible refine outs_next ?_)
    | with_reducible exact maybe_none
    | (with_reducible refine maybe_some ?_)
    | (with_reducible refine ite_maybe ?_ ?_)
    | with_reducible assumption
    | with_reducible apply State.issue_keep W
    | with_reducible apply State.fly_keep W
    | (with_reducible intro _) <;> try beta_reduce
    | split)

theorem execWrot_keep (W : Whole P) {s : State} (n : Fin 16) (hs : P s) :
    Outs P (execWrot n s) := by
  unfold execWrot
  repeat' (first
    | (with_reducible refine outs_next ?_)
    | with_reducible exact maybe_none
    | (with_reducible refine maybe_some ?_)
    | (with_reducible refine ite_maybe ?_ ?_)
    | with_reducible assumption
    | with_reducible apply State.issue_keep W
    | with_reducible apply State.fly_keep W
    | (with_reducible intro _) <;> try beta_reduce
    | split)

theorem execSchedNext_keep (W : Whole P) {s : State} (n : Fin 16) (hs : P s) :
    Outs P (execSchedNext n s) := by
  unfold execSchedNext
  repeat' (first
    | (with_reducible refine outs_next ?_)
    | (with_reducible refine ite_outs ?_ ?_)
    | with_reducible exact maybe_none
    | (with_reducible refine maybe_some ?_)
    | (with_reducible refine ite_maybe ?_ ?_)
    | with_reducible assumption
    | with_reducible apply State.issue_keep W
    | with_reducible apply State.fly_keep W
    | (with_reducible intro _) <;> try beta_reduce
    | (with_reducible refine ite_keep ?_ ?_)
    | split)

theorem execBlockDecide_keep (W : Whole P) {s : State} (n : Fin 16) (events : List MemEvent) (hs : P s) :
    Outs P (execBlockDecide n events s) := by
  unfold execBlockDecide
  repeat' (first
    | (with_reducible refine outs_next ?_)
    | (with_reducible refine ite_outs ?_ ?_)
    | with_reducible assumption
    | with_reducible apply State.decideWith_keep W.toClosed
    | with_reducible apply State.carryOn_keep W.toClosed
    | (with_reducible refine ite_keep ?_ ?_)
    | split)

theorem execContinuation_keep (W : Whole P) {s : State} (n : Fin 16) (hs : P s) :
    Outs P (execContinuation n s) := by
  unfold execContinuation
  repeat' (first
    | (with_reducible refine outs_next ?_)
    | with_reducible assumption
    | with_reducible apply State.continueBlock_keep W.toClosed
    | with_reducible apply State.carryOn_keep W.toClosed
    | split)

theorem execBlockRefresh_keep (W : Whole P) {s : State} (n : Fin 16) (hs : P s) :
    Outs P (execBlockRefresh n s) := by
  unfold execBlockRefresh
  repeat' (first
    | (with_reducible refine outs_next ?_)
    | (with_reducible refine ite_outs ?_ ?_)
    | with_reducible assumption
    | with_reducible apply State.refreshNext_keep W.toClosed
    | with_reducible apply State.carryOn_keep W.toClosed
    | (with_reducible refine ite_keep ?_ ?_)
    | split)

theorem State.arriveVc1_keep (W : Whole P) {s : State} (src : Nat) (n : Nat) (kind : Vc1Body → Bool) (pick : Nat → Bool) (hs : P s) :
    P (State.arriveVc1 s src n kind pick) := by
  unfold State.arriveVc1
  repeat' (first
    | with_reducible assumption
    | (extract_lets +onlyGivenNames _t; revert _t
       first
       | (with_reducible refine let_keep (P := P) ?_ (fun _ _ => ?_))
       | (with_reducible refine let_keep₂ (P := P) ?_ (fun _ _ => ?_))
       | (with_reducible refine let_keep₁ (P := P) ?_ (fun _ _ => ?_))
       | (with_reducible refine let_maybe (P := P) ?_ (fun _ _ => ?_))
       | (with_reducible refine let_function ?_)
       | (with_reducible refine let_outs (P := P) ?_ (fun _ _ => ?_))
       | (with_reducible refine let_any (fun _ => ?_)))
    | with_reducible apply State.injectFor_keep W.toClosed
    | with_reducible apply State.deliverVc1_keep W.toClosed
    | with_reducible apply State.carryOn_keep W.toClosed
    | (with_reducible refine ite_keep ?_ ?_)
    | split
    | with_reducible refine W.wide rfl ?_
    | with_reducible refine W.wide rfl ?_)

theorem execSpanFlipFlit_keep (W : Whole P) {s : State} (n : Fin 16) (pick : FlitPick) (hs : P s) :
    Outs P (execSpanFlipFlit n pick s) := by
  unfold execSpanFlipFlit
  repeat' (first
    | (with_reducible refine outs_next ?_)
    | (with_reducible refine ite_outs ?_ ?_)
    | with_reducible assumption
    | (extract_lets +onlyGivenNames _t; revert _t
       first
       | (with_reducible refine let_keep (P := P) ?_ (fun _ _ => ?_))
       | (with_reducible refine let_keep₂ (P := P) ?_ (fun _ _ => ?_))
       | (with_reducible refine let_keep₁ (P := P) ?_ (fun _ _ => ?_))
       | (with_reducible refine let_maybe (P := P) ?_ (fun _ _ => ?_))
       | (with_reducible refine let_function ?_)
       | (with_reducible refine let_outs (P := P) ?_ (fun _ _ => ?_))
       | (with_reducible refine let_any (fun _ => ?_)))
    | with_reducible apply State.arriveVc1_keep W
    | (with_reducible refine ite_keep ?_ ?_)
    | split)

theorem execSpanEpochMarker_keep (W : Whole P) {s : State} (n : Fin 16) (source : Fin 16) (hs : P s) :
    Outs P (execSpanEpochMarker n source s) := by
  unfold execSpanEpochMarker
  repeat' (first
    | (with_reducible refine outs_next ?_)
    | (with_reducible refine ite_outs ?_ ?_)
    | with_reducible assumption
    | with_reducible apply State.arriveVc1_keep W
    | (with_reducible refine ite_keep ?_ ?_)
    | split)

theorem execEpochBoundary_keep (W : Whole P) {s : State} (n : Fin 16) (hs : P s) :
    Outs P (execEpochBoundary n s) := by
  unfold execEpochBoundary
  repeat' (first
    | (with_reducible refine outs_next ?_)
    | (with_reducible refine ite_outs ?_ ?_)
    | with_reducible assumption
    | with_reducible apply State.boundaryStep_keep W.toClosed
    | with_reducible apply State.carryOn_keep W.toClosed
    | (with_reducible refine ite_keep ?_ ?_)
    | split)

theorem execSweepFlush_keep (W : Whole P) {s : State} (n : Fin 16) (hs : P s) :
    Outs P (execSweepFlush n s) := by
  unfold execSweepFlush
  repeat' (first
    | (with_reducible refine outs_next ?_)
    | (with_reducible refine ite_outs ?_ ?_)
    | with_reducible assumption
    | with_reducible apply State.boundaryStep_keep W.toClosed
    | with_reducible apply State.carryOn_keep W.toClosed
    | (with_reducible refine ite_keep ?_ ?_)
    | split)

theorem execSettle_keep (W : Whole P) {s : State} (q : Fin 64) (hs : P s) :
    Outs P (execSettle q s) := by
  unfold execSettle
  repeat' (first
    | (with_reducible refine outs_next ?_)
    | (with_reducible refine ite_outs ?_ ?_)
    | with_reducible assumption
    | (extract_lets +onlyGivenNames _t; revert _t
       first
       | (with_reducible refine let_keep (P := P) ?_ (fun _ _ => ?_))
       | (with_reducible refine let_keep₂ (P := P) ?_ (fun _ _ => ?_))
       | (with_reducible refine let_keep₁ (P := P) ?_ (fun _ _ => ?_))
       | (with_reducible refine let_maybe (P := P) ?_ (fun _ _ => ?_))
       | (with_reducible refine let_function ?_)
       | (with_reducible refine let_outs (P := P) ?_ (fun _ _ => ?_))
       | (with_reducible refine let_any (fun _ => ?_)))
    | with_reducible apply State.settleLocal_keep W.toClosed
    | with_reducible apply State.sysSettle_keep W.toClosed
    | with_reducible apply State.carryOn_keep W.toClosed
    | (with_reducible refine ite_keep ?_ ?_)
    | split)

theorem execDeadline_keep (W : Whole P) {s : State} (q : Fin 64) (hs : P s) :
    Outs P (execDeadline q s) := by
  unfold execDeadline
  repeat' (first
    | (with_reducible refine outs_next ?_)
    | (with_reducible refine ite_outs ?_ ?_)
    | with_reducible assumption
    | with_reducible apply State.noteDeadline_keep W.toClosed
    | with_reducible apply State.passTo_keep W
    | with_reducible apply State.carryOn_keep W.toClosed
    | (with_reducible refine ite_keep ?_ ?_)
    | split)

theorem execSpanRemap_keep (W : Whole P) {s : State} (q : Fin 64) (hs : P s) :
    Outs P (execSpanRemap q s) := by
  unfold execSpanRemap
  repeat' (first
    | (with_reducible refine outs_next ?_)
    | (with_reducible refine ite_outs ?_ ?_)
    | with_reducible assumption
    | with_reducible apply State.remap_keep W.toClosed
    | with_reducible apply State.carryOn_keep W.toClosed
    | (with_reducible refine ite_keep ?_ ?_)
    | split)

theorem State.loseRequests_keep (W : Whole P) {s : State} (n : Nat) (hs : P s) :
    P (State.loseRequests s n).2 := by
  unfold State.loseRequests
  repeat' (first
    | with_reducible assumption
    | split
    | dsimp only
    | (extract_lets +onlyGivenNames _t; revert _t
       first
       | (with_reducible refine let_keep (P := P) ?_ (fun _ _ => ?_))
       | (with_reducible refine let_keep₂ (P := P) ?_ (fun _ _ => ?_))
       | (with_reducible refine let_keep₁ (P := P) ?_ (fun _ _ => ?_))
       | (with_reducible refine let_maybe (P := P) ?_ (fun _ _ => ?_))
       | (with_reducible refine let_function ?_)
       | (with_reducible refine let_outs (P := P) ?_ (fun _ _ => ?_))
       | (with_reducible refine let_any (fun _ => ?_)))
    | with_reducible apply State.modPier_keep W.toClosed
    | with_reducible apply State.answerBranch_keep W
    | dsimp only
    | (with_reducible refine foldl_keep₁ (fun _ _ _ => ?_) _ _ ?_) <;> try beta_reduce
    | (with_reducible refine foldl_keep₂ (fun _ _ _ => ?_) _ _ ?_) <;> try beta_reduce
    | (with_reducible refine foldl_keep (fun _ _ _ => ?_) _ _ ?_) <;> try beta_reduce
    | (with_reducible refine ite_keep ?_ ?_)
    | split
    | dsimp only)

theorem State.resend_keep (W : Whole P) {s : State} (n : Nat) (hs : P s) :
    P (State.resend s n) := by
  unfold State.resend
  repeat' (first
    | with_reducible assumption
    | (extract_lets +onlyGivenNames _t; revert _t
       first
       | (with_reducible refine let_keep (P := P) ?_ (fun _ _ => ?_))
       | (with_reducible refine let_keep₂ (P := P) ?_ (fun _ _ => ?_))
       | (with_reducible refine let_keep₁ (P := P) ?_ (fun _ _ => ?_))
       | (with_reducible refine let_maybe (P := P) ?_ (fun _ _ => ?_))
       | (with_reducible refine let_function ?_)
       | (with_reducible refine let_outs (P := P) ?_ (fun _ _ => ?_))
       | (with_reducible refine let_any (fun _ => ?_)))
    | with_reducible apply State.modEng_keep W.toClosed
    | with_reducible apply State.injectFirst_keep W.toClosed
    | (with_reducible refine ite_keep ?_ ?_)
    | split)

theorem State.dropUnreachable_keep (W : Whole P) {s : State} (hs : P s) :
    P (State.dropUnreachable s) := by
  unfold State.dropUnreachable
  repeat' (first
    | with_reducible assumption
    | (extract_lets +onlyGivenNames _t; revert _t
       first
       | (with_reducible refine let_keep (P := P) ?_ (fun _ _ => ?_))
       | (with_reducible refine let_keep₂ (P := P) ?_ (fun _ _ => ?_))
       | (with_reducible refine let_keep₁ (P := P) ?_ (fun _ _ => ?_))
       | (with_reducible refine let_maybe (P := P) ?_ (fun _ _ => ?_))
       | (with_reducible refine let_function ?_)
       | (with_reducible refine let_outs (P := P) ?_ (fun _ _ => ?_))
       | (with_reducible refine let_any (fun _ => ?_)))
    | (with_reducible refine ite_keep ?_ ?_)
    | split
    | with_reducible refine W.wide rfl ?_
    | with_reducible refine W.wide rfl ?_)

theorem State.install_keep (W : Whole P) {s : State} (l : List (List Nat)) (hs : P s) :
    P (State.install s l) := by
  unfold State.install
  repeat' (first
    | with_reducible assumption
    | (extract_lets +onlyGivenNames _t; revert _t
       first
       | (with_reducible refine let_keep (P := P) ?_ (fun _ _ => ?_))
       | (with_reducible refine let_keep₂ (P := P) ?_ (fun _ _ => ?_))
       | (with_reducible refine let_keep₁ (P := P) ?_ (fun _ _ => ?_))
       | (with_reducible refine let_maybe (P := P) ?_ (fun _ _ => ?_))
       | (with_reducible refine let_function ?_)
       | (with_reducible refine let_outs (P := P) ?_ (fun _ _ => ?_))
       | (with_reducible refine let_any (fun _ => ?_)))
    | with_reducible apply State.deliverWhere_keep W.toClosed
    | with_reducible apply State.loseRequests_keep W
    | with_reducible apply State.resend_keep W
    | with_reducible apply State.dropUnreachable_keep W
    | (with_reducible refine foldl_keep₁ (fun _ _ _ => ?_) _ _ ?_) <;> try beta_reduce
    | (with_reducible refine foldl_keep₂ (fun _ _ _ => ?_) _ _ ?_) <;> try beta_reduce
    | (with_reducible refine foldl_keep (fun _ _ _ => ?_) _ _ ?_) <;> try beta_reduce
    | dsimp only
    | (with_reducible refine of_snd (by with_reducible assumption) ?_)
    | with_reducible refine W.wide rfl ?_
    | with_reducible refine W.wide rfl ?_)

theorem execDetourInstall_keep (W : Whole P) {s : State} (built : Bool) (routes : List (List (Fin 36))) (hs : P s) :
    Outs P (execDetourInstall built routes s) := by
  unfold execDetourInstall
  repeat' (first
    | (with_reducible refine outs_next ?_)
    | (with_reducible refine ite_outs ?_ ?_)
    | with_reducible assumption
    | (extract_lets +onlyGivenNames _t; revert _t
       first
       | (with_reducible refine let_keep (P := P) ?_ (fun _ _ => ?_))
       | (with_reducible refine let_keep₂ (P := P) ?_ (fun _ _ => ?_))
       | (with_reducible refine let_keep₁ (P := P) ?_ (fun _ _ => ?_))
       | (with_reducible refine let_maybe (P := P) ?_ (fun _ _ => ?_))
       | (with_reducible refine let_function ?_)
       | (with_reducible refine let_outs (P := P) ?_ (fun _ _ => ?_))
       | (with_reducible refine let_any (fun _ => ?_)))
    | with_reducible apply State.enterFault_keep W
    | with_reducible apply State.carryOn_keep W.toClosed
    | with_reducible apply State.install_keep W
    | (with_reducible refine ite_keep ?_ ?_)
    | split
    | with_reducible refine W.wide rfl ?_
    | exact Or.inl rfl
    | exact Or.inr rfl
    | with_reducible refine W.wide rfl ?_)

theorem execExchangeTimeout_keep (W : Whole P) {s : State} (q : Fin 64) (hs : P s) :
    Outs P (execExchangeTimeout q s) := by
  unfold execExchangeTimeout
  repeat' (first
    | (with_reducible refine outs_next ?_)
    | (with_reducible refine ite_outs ?_ ?_)
    | with_reducible assumption
    | with_reducible apply State.waitFails_keep W.toClosed
    | with_reducible apply State.passTo_keep W
    | with_reducible apply State.carryOn_keep W.toClosed
    | (with_reducible refine ite_keep ?_ ?_)
    | split)

end Sys2Proof.Machine
end

