-- ==== Sys2Proof/Laws/KeepLoader.lean ====
section
/-! SUPPORT. Every whole property is kept by the operations of Machine/Loader.lean.
-/

namespace Sys2Proof.Machine

set_option linter.all false

variable {P : State → Prop}

theorem State.badReport_keep (W : Whole P) {s : State} (f : LoadFail) (z : Option Quantised) (hs : P s) :
    P (State.badReport s f z).2 := by
  unfold State.badReport
  repeat' (first
    | with_reducible assumption
    | split
    | dsimp only
    | (extract_lets +onlyGivenNames _t; revert _t
       first
       | (with_reducible refine let_keep (P := P) ?_ (fun _ _ => ?_))
       | (with_reducible refine let_keep₂ (P := P) ?_ (fun _ _ => ?_))
       | (with_reducible refine let_keep₁ (P := P) ?_ (fun _ _ => ?_))
       | (with_reducible refine let_maybe (P := P) ?_ (fun _ _ => ?_))
       | (with_reducible refine let_function ?_)
       | (with_reducible refine let_outs (P := P) ?_ (fun _ _ => ?_))
       | (with_reducible refine let_any (fun _ => ?_)))
    | with_reducible apply State.drawBytes_keep W.toClosed
    | dsimp only
    | split
    | (with_reducible refine of_snd (by with_reducible assumption) ?_))

theorem State.failLoad_keep (W : Whole P) {s : State} (c : Nat) (batch : Bool) (img : Nat) (report : Nat) (f : LoadFail) (z : Option Quantised) (hs : P s) :
    P (State.failLoad s c batch img report f z) := by
  unfold State.failLoad
  repeat' (first
    | with_reducible assumption
    | (extract_lets +onlyGivenNames _t; revert _t
       first
       | (with_reducible refine let_keep (P := P) ?_ (fun _ _ => ?_))
       | (with_reducible refine let_keep₂ (P := P) ?_ (fun _ _ => ?_))
       | (with_reducible refine let_keep₁ (P := P) ?_ (fun _ _ => ?_))
       | (with_reducible refine let_maybe (P := P) ?_ (fun _ _ => ?_))
       | (with_reducible refine let_function ?_)
       | (with_reducible refine let_outs (P := P) ?_ (fun _ _ => ?_))
       | (with_reducible refine let_any (fun _ => ?_)))
    | with_reducible apply State.noteRequest_keep W.toClosed
    | with_reducible apply State.writeBytes_keep W.toClosed
    | with_reducible apply State.finishExec_keep W.toClosed
    | with_reducible apply State.badReport_keep W
    | (with_reducible refine ite_keep ?_ ?_)
    | split
    | (with_reducible refine of_snd (by with_reducible assumption) ?_))

theorem State.pload_keep (W : Whole P) {s : State} (c : Nat) (batch : Bool) (e : Exec) (hs : P s) :
    P (State.pload s c batch e) := by
  unfold State.pload
  repeat' (first
    | with_reducible assumption
    | (extract_lets +onlyGivenNames _t; revert _t
       first
       | (with_reducible refine let_keep (P := P) ?_ (fun _ _ => ?_))
       | (with_reducible refine let_keep₂ (P := P) ?_ (fun _ _ => ?_))
       | (with_reducible refine let_keep₁ (P := P) ?_ (fun _ _ => ?_))
       | (with_reducible refine let_maybe (P := P) ?_ (fun _ _ => ?_))
       | (with_reducible refine let_function ?_)
       | (with_reducible refine let_outs (P := P) ?_ (fun _ _ => ?_))
       | (with_reducible refine let_any (fun _ => ?_)))
    | with_reducible apply State.drawWord_keep W.toClosed
    | with_reducible apply State.writeBytes_keep W.toClosed
    | with_reducible apply State.finishExec_keep W.toClosed
    | with_reducible apply State.failLoad_keep W
    | split
    | (with_reducible refine of_snd (by with_reducible assumption) ?_)
    | with_reducible refine W.wide rfl ?_
    | (simp only [id_eq]; with_reducible assumption)
    | with_reducible refine W.wide rfl ?_)

theorem execPload_keep (W : Whole P) {s : State} (c : Fin 1024) (hs : P s) :
    Outs P (execPload c s) := by
  unfold execPload
  repeat' (first
    | (with_reducible refine outs_next ?_)
    | with_reducible assumption
    | with_reducible apply State.withCmd_keep W
    | with_reducible apply State.pload_keep W
    | (with_reducible intro _) <;> try beta_reduce)

theorem State.countOps_keep (W : Whole P) {s : State} (c : Nat) (e : Exec) (spans : List Nat) (hs : P s) :
    P (State.countOps s c e spans) := by
  unfold State.countOps
  repeat' (first
    | with_reducible assumption
    | (extract_lets +onlyGivenNames _t; revert _t
       first
       | (with_reducible refine let_keep (P := P) ?_ (fun _ _ => ?_))
       | (with_reducible refine let_keep₂ (P := P) ?_ (fun _ _ => ?_))
       | (with_reducible refine let_keep₁ (P := P) ?_ (fun _ _ => ?_))
       | (with_reducible refine let_maybe (P := P) ?_ (fun _ _ => ?_))
       | (with_reducible refine let_function ?_)
       | (with_reducible refine let_outs (P := P) ?_ (fun _ _ => ?_))
       | (with_reducible refine let_any (fun _ => ?_)))
    | with_reducible apply State.modPier_keep W.toClosed
    | with_reducible apply State.drawWord_keep W.toClosed
    | (with_reducible refine foldl_keep₁ (fun _ _ _ => ?_) _ _ ?_) <;> try beta_reduce
    | (with_reducible refine foldl_keep₂ (fun _ _ _ => ?_) _ _ ?_) <;> try beta_reduce
    | (with_reducible refine foldl_keep (fun _ _ _ => ?_) _ _ ?_) <;> try beta_reduce
    | dsimp only
    | (with_reducible refine of_snd (by with_reducible assumption) ?_))

theorem State.dropOps_keep (W : Whole P) {s : State} (c : Nat) (batch : Bool) (e : Exec) (hs : P s) :
    P (State.dropOps s c batch e) := by
  unfold State.dropOps
  repeat' (first
    | with_reducible assumption
    | with_reducible apply State.modPier_keep W.toClosed
    | with_reducible apply State.modExec_keep W.toClosed
    | with_reducible apply State.sendAllLaunches_keep W.toClosed
    | (with_reducible refine foldl_keep₁ (fun _ _ _ => ?_) _ _ ?_) <;> try beta_reduce
    | (with_reducible refine foldl_keep₂ (fun _ _ _ => ?_) _ _ ?_) <;> try beta_reduce
    | (with_reducible refine foldl_keep (fun _ _ _ => ?_) _ _ ?_) <;> try beta_reduce
    | (with_reducible refine ite_keep ?_ ?_)
    | split
    | dsimp only)

theorem State.asLaunch_keep (W : Whole P) {s : State} (c : Nat) (batch : Bool) (e : Exec) (spans : List Nat) (f : State → State) (hf : ∀ y0, P y0 → P (f y0)) (hs : P s) :
    P (State.asLaunch s c batch e spans f) := by
  unfold State.asLaunch
  repeat' (first
    | with_reducible assumption
    | (extract_lets +onlyGivenNames _t; revert _t
       first
       | (with_reducible refine let_keep (P := P) ?_ (fun _ _ => ?_))
       | (with_reducible refine let_keep₂ (P := P) ?_ (fun _ _ => ?_))
       | (with_reducible refine let_keep₁ (P := P) ?_ (fun _ _ => ?_))
       | (with_reducible refine let_maybe (P := P) ?_ (fun _ _ => ?_))
       | (with_reducible refine let_function ?_)
       | (with_reducible refine let_outs (P := P) ?_ (fun _ _ => ?_))
       | (with_reducible refine let_any (fun _ => ?_)))
    | with_reducible apply State.modPier_keep W.toClosed
    | with_reducible apply State.modExec_keep W.toClosed
    | with_reducible apply State.sendLaunches_keep W.toClosed
    | with_reducible apply State.dispatch_keep W.toClosed
    | with_reducible apply State.countOps_keep W
    | with_reducible apply hf
    | (with_reducible refine foldl_keep₁ (fun _ _ _ => ?_) _ _ ?_) <;> try beta_reduce
    | (with_reducible refine foldl_keep₂ (fun _ _ _ => ?_) _ _ ?_) <;> try beta_reduce
    | (with_reducible refine foldl_keep (fun _ _ _ => ?_) _ _ ?_) <;> try beta_reduce
    | (with_reducible refine ite_keep ?_ ?_)
    | split
    | dsimp only)

theorem State.withOp_keep (W : Whole P) {s : State} (c : Nat) (op : Nat) (bad : Exec → Option Nat) (f : Bool → Exec → State → State) (hf : ∀ y0 y1 y2, P y2 → P (f y0 y1 y2)) (hs : P s) :
    P (State.withOp s c op bad f) := by
  unfold State.withOp
  repeat' (first
    | with_reducible assumption
    | with_reducible apply State.sendLaunches_keep W.toClosed
    | with_reducible apply State.withCmd_keep W
    | with_reducible apply hf
    | (with_reducible intro _) <;> try beta_reduce
    | (with_reducible refine foldl_keep₁ (fun _ _ _ => ?_) _ _ ?_) <;> try beta_reduce
    | (with_reducible refine foldl_keep₂ (fun _ _ _ => ?_) _ _ ?_) <;> try beta_reduce
    | (with_reducible refine foldl_keep (fun _ _ _ => ?_) _ _ ?_) <;> try beta_reduce
    | split
    | dsimp only)

theorem State.evalOn_keep (W : Whole P) {s : State} (c : Nat) (batch : Bool) (e : Exec) (p : Problem) (hs : P s) :
    P (State.evalOn s c batch e p) := by
  unfold State.evalOn
  repeat' (first
    | with_reducible assumption
    | (extract_lets +onlyGivenNames _t; revert _t
       first
       | (with_reducible refine let_keep (P := P) ?_ (fun _ _ => ?_))
       | (with_reducible refine let_keep₂ (P := P) ?_ (fun _ _ => ?_))
       | (with_reducible refine let_keep₁ (P := P) ?_ (fun _ _ => ?_))
       | (with_reducible refine let_maybe (P := P) ?_ (fun _ _ => ?_))
       | (with_reducible refine let_function ?_)
       | (with_reducible refine let_outs (P := P) ?_ (fun _ _ => ?_))
       | (with_reducible refine let_any (fun _ => ?_)))
    | with_reducible apply State.noteRequest_keep W.toClosed
    | with_reducible apply State.writeBytes_keep W.toClosed
    | with_reducible apply State.finishExec_keep W.toClosed
    | split)

theorem execEval_keep (W : Whole P) {s : State} (c : Fin 1024) (hs : P s) :
    Outs P (execEval c s) := by
  unfold execEval
  repeat' (first
    | (with_reducible refine outs_next ?_)
    | with_reducible assumption
    | with_reducible apply State.finishExec_keep W.toClosed
    | with_reducible apply State.dropOps_keep W
    | with_reducible apply State.asLaunch_keep W
    | with_reducible apply State.withOp_keep W
    | with_reducible apply State.evalOn_keep W
    | (with_reducible intro _) <;> try beta_reduce
    | split)

end Sys2Proof.Machine
end

