-- ==== Sys2Proof/Laws/KeepOperator.lean ====
section
/-! SUPPORT. Every whole property is kept by the operations of Machine/Operator.lean.
-/

namespace Sys2Proof.Machine

set_option linter.all false

variable {P : State → Prop}

theorem State.noteRanges_keep (W : Whole P) {s : State} (write : Bool) (l : List (Nat × Nat)) (hs : P s) :
    P (State.noteRanges s write l) := by
  unfold State.noteRanges
  repeat' (first
    | with_reducible assumption
    | with_reducible apply State.noteRequest_keep W.toClosed
    | (with_reducible refine foldl_keep₁ (fun _ _ _ => ?_) _ _ ?_) <;> try beta_reduce
    | (with_reducible refine foldl_keep₂ (fun _ _ _ => ?_) _ _ ?_) <;> try beta_reduce
    | (with_reducible refine foldl_keep (fun _ _ _ => ?_) _ _ ?_) <;> try beta_reduce
    | dsimp only)

theorem State.patches_keep (W : Whole P) {s : State} (rows : Nat) (cols : Nat) (spans : List Nat) (hs : P s) :
    P (State.patches s rows cols spans).2 := by
  unfold State.patches
  repeat' (first
    | with_reducible assumption
    | split
    | dsimp only
    | (extract_lets +onlyGivenNames _t; revert _t
       first
       | (with_reducible refine let_keep (P := P) ?_ (fun _ _ => ?_))
       | (with_reducible refine let_keep₂ (P := P) ?_ (fun _ _ => ?_))
       | (with_reducible refine let_keep₁ (P := P) ?_ (fun _ _ => ?_))
       | (with_reducible refine let_maybe (P := P) ?_ (fun _ _ => ?_))
       | (with_reducible refine let_function ?_)
       | (with_reducible refine let_outs (P := P) ?_ (fun _ _ => ?_))
       | (with_reducible refine let_any (fun _ => ?_)))
    | dsimp only
    | (with_reducible refine ite_keep ?_ ?_)
    | split
    | with_reducible refine W.wide rfl ?_
    | with_reducible refine W.wide rfl ?_)

theorem State.writePatches_keep (W : Whole P) {s : State} (z : TDesc) (ps : List Patch) (vals : Patch → PatchVals) (hs : P s) :
    P (State.writePatches s z ps vals).1 := by
  unfold State.writePatches
  repeat' (first
    | with_reducible assumption
    | split
    | dsimp only
    | (extract_lets +onlyGivenNames _t; revert _t
       first
       | (with_reducible refine let_keep (P := P) ?_ (fun _ _ => ?_))
       | (with_reducible refine let_keep₂ (P := P) ?_ (fun _ _ => ?_))
       | (with_reducible refine let_keep₁ (P := P) ?_ (fun _ _ => ?_))
       | (with_reducible refine let_maybe (P := P) ?_ (fun _ _ => ?_))
       | (with_reducible refine let_function ?_)
       | (with_reducible refine let_outs (P := P) ?_ (fun _ _ => ?_))
       | (with_reducible refine let_any (fun _ => ?_)))
    | with_reducible apply State.modSpan_keep W.toClosed
    | with_reducible apply State.storeCells_keep W.toClosed
    | with_reducible apply State.tenFlag_keep W.toClosed
    | with_reducible apply State.tenFlagIf_keep W.toClosed
    | dsimp only
    | (with_reducible refine foldl_keep₁ (fun _ _ _ => ?_) _ _ ?_) <;> try beta_reduce
    | (with_reducible refine foldl_keep₂ (fun _ _ _ => ?_) _ _ ?_) <;> try beta_reduce
    | (with_reducible refine foldl_keep (fun _ _ _ => ?_) _ _ ?_) <;> try beta_reduce
    | split
    | dsimp only)

theorem State.finishParts_keep (W : Whole P) {s : State} (c : Nat) (batch : Bool) (fails : List Nat) (hs : P s) :
    P (State.finishParts s c batch fails) := by
  unfold State.finishParts
  repeat' (first
    | with_reducible assumption
    | with_reducible apply State.finishExec_keep W.toClosed
    | (with_reducible refine ite_keep ?_ ?_)
    | split)

theorem State.indicate_keep (W : Whole P) {s : State} (c : Nat) (batch : Bool) (sat : Bool) (order : Bool) (hs : P s) :
    P (State.indicate s c batch sat order) := by
  unfold State.indicate
  repeat' (first
    | with_reducible assumption
    | with_reducible apply State.modExec_keep W.toClosed)

theorem State.tensorCmd_keep (W : Whole P) {s : State} (c : Nat) (batch : Bool) (spans : List Nat) (z : TDesc) (reads : Patch → List (Nat × Nat)) (vals : State → Patch → PatchVals) (hs : P s) :
    P (State.tensorCmd s c batch spans z reads vals) := by
  unfold State.tensorCmd
  repeat' (first
    | with_reducible assumption
    | (extract_lets +onlyGivenNames _t; revert _t
       first
       | (with_reducible refine let_keep (P := P) ?_ (fun _ _ => ?_))
       | (with_reducible refine let_keep₂ (P := P) ?_ (fun _ _ => ?_))
       | (with_reducible refine let_keep₁ (P := P) ?_ (fun _ _ => ?_))
       | (with_reducible refine let_maybe (P := P) ?_ (fun _ _ => ?_))
       | (with_reducible refine let_function ?_)
       | (with_reducible refine let_outs (P := P) ?_ (fun _ _ => ?_))
       | (with_reducible refine let_any (fun _ => ?_)))
    | with_reducible apply State.noteRanges_keep W
    | with_reducible apply State.patches_keep W
    | with_reducible apply State.writePatches_keep W
    | with_reducible apply State.finishParts_keep W
    | with_reducible apply State.indicate_keep W
    | (with_reducible refine foldl_keep₁ (fun _ _ _ => ?_) _ _ ?_) <;> try beta_reduce
    | (with_reducible refine foldl_keep₂ (fun _ _ _ => ?_) _ _ ?_) <;> try beta_reduce
    | (with_reducible refine foldl_keep (fun _ _ _ => ?_) _ _ ?_) <;> try beta_reduce
    | dsimp only
    | (with_reducible refine of_fst (by with_reducible assumption) ?_)
    | (with_reducible refine of_snd (by with_reducible assumption) ?_))

theorem State.withSpans_keep (W : Whole P) {s : State} (c : Nat) (op : Nat) (checks : Exec → List (Nat × Bool)) (f : Bool → Exec → List Nat → State → State) (hf : ∀ y0 y1 y2 y3, P y3 → P (f y0 y1 y2 y3)) (hs : P s) :
    P (State.withSpans s c op checks f) := by
  unfold State.withSpans
  repeat' (first
    | with_reducible assumption
    | (extract_lets +onlyGivenNames _t; revert _t
       first
       | (with_reducible refine let_keep (P := P) ?_ (fun _ _ => ?_))
       | (with_reducible refine let_keep₂ (P := P) ?_ (fun _ _ => ?_))
       | (with_reducible refine let_keep₁ (P := P) ?_ (fun _ _ => ?_))
       | (with_reducible refine let_maybe (P := P) ?_ (fun _ _ => ?_))
       | (with_reducible refine let_function ?_)
       | (with_reducible refine let_outs (P := P) ?_ (fun _ _ => ?_))
       | (with_reducible refine let_any (fun _ => ?_)))
    | with_reducible apply State.asLaunch_keep W
    | with_reducible apply State.withOp_keep W
    | with_reducible apply hf
    | (with_reducible intro _) <;> try beta_reduce
    | (with_reducible refine ite_keep ?_ ?_)
    | split)

theorem execEwise_keep (W : Whole P) {s : State} (c : Fin 1024) (hs : P s) :
    Outs P (execEwise c s) := by
  unfold execEwise
  repeat' (first
    | (with_reducible refine outs_next ?_)
    | (with_reducible refine ite_outs ?_ ?_)
    | with_reducible assumption
    | (extract_lets +onlyGivenNames _t; revert _t
       first
       | (with_reducible refine let_keep (P := P) ?_ (fun _ _ => ?_))
       | (with_reducible refine let_keep₂ (P := P) ?_ (fun _ _ => ?_))
       | (with_reducible refine let_keep₁ (P := P) ?_ (fun _ _ => ?_))
       | (with_reducible refine let_maybe (P := P) ?_ (fun _ _ => ?_))
       | (with_reducible refine let_function ?_)
       | (with_reducible refine let_outs (P := P) ?_ (fun _ _ => ?_))
       | (with_reducible refine let_any (fun _ => ?_)))
    | with_reducible apply State.tensorCmd_keep W
    | with_reducible apply State.withSpans_keep W
    | (with_reducible intro _) <;> try beta_reduce
    | (with_reducible refine ite_keep ?_ ?_)
    | split)

theorem execConvert_keep (W : Whole P) {s : State} (c : Fin 1024) (hs : P s) :
    Outs P (execConvert c s) := by
  unfold execConvert
  repeat' (first
    | (with_reducible refine outs_next ?_)
    | (with_reducible refine ite_outs ?_ ?_)
    | with_reducible assumption
    | (extract_lets +onlyGivenNames _t; revert _t
       first
       | (with_reducible refine let_keep (P := P) ?_ (fun _ _ => ?_))
       | (with_reducible refine let_keep₂ (P := P) ?_ (fun _ _ => ?_))
       | (with_reducible refine let_keep₁ (P := P) ?_ (fun _ _ => ?_))
       | (with_reducible refine let_maybe (P := P) ?_ (fun _ _ => ?_))
       | (with_reducible refine let_function ?_)
       | (with_reducible refine let_outs (P := P) ?_ (fun _ _ => ?_))
       | (with_reducible refine let_any (fun _ => ?_)))
    | with_reducible apply State.tensorCmd_keep W
    | with_reducible apply State.withSpans_keep W
    | (with_reducible intro _) <;> try beta_reduce
    | (with_reducible refine ite_keep ?_ ?_)
    | split)

theorem State.drawChain_keep (W : Whole P) {s : State} (p : Pair) (k : Nat) (e : Nat) (neg : Bool) (hs : P s) :
    P (State.drawChain s p k e neg).2 := by
  unfold State.drawChain
  repeat' (first
    | with_reducible assumption
    | split
    | dsimp only
    | (extract_lets +onlyGivenNames _t; revert _t
       first
       | (with_reducible refine let_keep (P := P) ?_ (fun _ _ => ?_))
       | (with_reducible refine let_keep₂ (P := P) ?_ (fun _ _ => ?_))
       | (with_reducible refine let_keep₁ (P := P) ?_ (fun _ _ => ?_))
       | (with_reducible refine let_maybe (P := P) ?_ (fun _ _ => ?_))
       | (with_reducible refine let_function ?_)
       | (with_reducible refine let_outs (P := P) ?_ (fun _ _ => ?_))
       | (with_reducible refine let_any (fun _ => ?_)))
    | with_reducible apply State.drawWord_keep W.toClosed
    | dsimp only
    | (with_reducible refine of_snd (by with_reducible assumption) ?_))

theorem execMatmul_keep (W : Whole P) {s : State} (c : Fin 1024) (hs : P s) :
    Outs P (execMatmul c s) := by
  unfold execMatmul
  repeat' (first
    | (with_reducible refine outs_next ?_)
    | (with_reducible refine ite_outs ?_ ?_)
    | with_reducible assumption
    | (extract_lets +onlyGivenNames _t; revert _t
       first
       | (with_reducible refine let_keep (P := P) ?_ (fun _ _ => ?_))
       | (with_reducible refine let_keep₂ (P := P) ?_ (fun _ _ => ?_))
       | (with_reducible refine let_keep₁ (P := P) ?_ (fun _ _ => ?_))
       | (with_reducible refine let_maybe (P := P) ?_ (fun _ _ => ?_))
       | (with_reducible refine let_function ?_)
       | (with_reducible refine let_outs (P := P) ?_ (fun _ _ => ?_))
       | (with_reducible refine let_any (fun _ => ?_)))
    | with_reducible apply State.tensorCmd_keep W
    | with_reducible apply State.withSpans_keep W
    | with_reducible apply State.drawChain_keep W
    | (with_reducible intro _) <;> try beta_reduce
    | (with_reducible refine ite_keep ?_ ?_)
    | split
    | (with_reducible refine of_snd (by with_reducible assumption) ?_))

theorem State.freeOrder_keep (W : Whole P) {s : State} (spans : List Nat) (hs : P s) :
    P (State.freeOrder s spans).2 := by
  unfold State.freeOrder
  repeat' (first
    | with_reducible assumption
    | split
    | dsimp only
    | dsimp only
    | with_reducible refine W.wide rfl ?_
    | with_reducible refine W.wide rfl ?_)

theorem State.reduceSum_keep (W : Whole P) {s : State} (c : Nat) (batch : Bool) (addr : Nat) (parts : List (Nat × Int × Bool)) (hs : P s) :
    P (State.reduceSum s c batch addr parts) := by
  unfold State.reduceSum
  repeat' (first
    | with_reducible assumption
    | (extract_lets +onlyGivenNames _t; revert _t
       first
       | (with_reducible refine let_keep (P := P) ?_ (fun _ _ => ?_))
       | (with_reducible refine let_keep₂ (P := P) ?_ (fun _ _ => ?_))
       | (with_reducible refine let_keep₁ (P := P) ?_ (fun _ _ => ?_))
       | (with_reducible refine let_maybe (P := P) ?_ (fun _ _ => ?_))
       | (with_reducible refine let_function ?_)
       | (with_reducible refine let_outs (P := P) ?_ (fun _ _ => ?_))
       | (with_reducible refine let_any (fun _ => ?_)))
    | with_reducible apply State.writeNat_keep W.toClosed
    | with_reducible apply State.tenFlagIf_keep W.toClosed
    | with_reducible apply State.indicate_keep W
    | (with_reducible refine foldl_keep₁ (fun _ _ _ => ?_) _ _ ?_) <;> try beta_reduce
    | (with_reducible refine foldl_keep₂ (fun _ _ _ => ?_) _ _ ?_) <;> try beta_reduce
    | (with_reducible refine foldl_keep (fun _ _ _ => ?_) _ _ ?_) <;> try beta_reduce
    | dsimp only)

theorem execReduce_keep (W : Whole P) {s : State} (c : Fin 1024) (hs : P s) :
    Outs P (execReduce c s) := by
  unfold execReduce
  repeat' (first
    | (with_reducible refine outs_next ?_)
    | (with_reducible refine ite_outs ?_ ?_)
    | with_reducible assumption
    | (extract_lets +onlyGivenNames _t; revert _t
       first
       | (with_reducible refine let_keep (P := P) ?_ (fun _ _ => ?_))
       | (with_reducible refine let_keep₂ (P := P) ?_ (fun _ _ => ?_))
       | (with_reducible refine let_keep₁ (P := P) ?_ (fun _ _ => ?_))
       | (with_reducible refine let_maybe (P := P) ?_ (fun _ _ => ?_))
       | (with_reducible refine let_function ?_)
       | (with_reducible refine let_outs (P := P) ?_ (fun _ _ => ?_))
       | (with_reducible refine let_any (fun _ => ?_)))
    | with_reducible apply State.writeBytes_keep W.toClosed
    | with_reducible apply State.noteRanges_keep W
    | with_reducible apply State.patches_keep W
    | with_reducible apply State.finishParts_keep W
    | with_reducible apply State.withSpans_keep W
    | with_reducible apply State.freeOrder_keep W
    | with_reducible apply State.reduceSum_keep W
    | (with_reducible intro _) <;> try beta_reduce
    | (with_reducible refine foldl_keep₁ (fun _ _ _ => ?_) _ _ ?_) <;> try beta_reduce
    | (with_reducible refine foldl_keep₂ (fun _ _ _ => ?_) _ _ ?_) <;> try beta_reduce
    | (with_reducible refine foldl_keep (fun _ _ _ => ?_) _ _ ?_) <;> try beta_reduce
    | (with_reducible refine ite_keep ?_ ?_)
    | split
    | dsimp only
    | (with_reducible refine of_snd (by with_reducible assumption) ?_))

end Sys2Proof.Machine
end

