-- ==== Sys2Proof/Laws/KeepReset.lean ====
section
/-! SUPPORT. Every whole property is kept by the operations of Machine/Reset.lean.
-/

namespace Sys2Proof.Machine

set_option linter.all false

variable {P : State → Prop}

theorem State.spanReset_keep (W : Whole P) {s : State} (n : Nat) (hs : P s) :
    P (State.spanReset s n) := by
  unfold State.spanReset
  repeat' (first
    | with_reducible assumption
    | with_reducible apply State.modSpan_keep W.toClosed
    | (with_reducible refine ite_keep ?_ ?_)
    | split)

theorem execSpanReset_keep (W : Whole P) {s : State} (n : Fin 16) (hs : P s) :
    Outs P (execSpanReset n s) := by
  unfold execSpanReset
  repeat' (first
    | (with_reducible refine outs_next ?_)
    | (with_reducible refine ite_outs ?_ ?_)
    | with_reducible assumption
    | with_reducible apply State.spanReset_keep W
    | (with_reducible refine ite_keep ?_ ?_)
    | split)

theorem State.marchResult_keep (W : Whole P) {s : State} (n : Nat) (fs : List MarchFinding) (hs : P s) :
    P (State.marchResult s n fs) := by
  unfold State.marchResult
  repeat' (first
    | with_reducible assumption
    | (extract_lets +onlyGivenNames _t; revert _t
       first
       | (with_reducible refine let_keep (P := P) ?_ (fun _ _ => ?_))
       | (with_reducible refine let_keep₂ (P := P) ?_ (fun _ _ => ?_))
       | (with_reducible refine let_keep₁ (P := P) ?_ (fun _ _ => ?_))
       | (with_reducible refine let_maybe (P := P) ?_ (fun _ _ => ?_))
       | (with_reducible refine let_function ?_)
       | (with_reducible refine let_outs (P := P) ?_ (fun _ _ => ?_))
       | (with_reducible refine let_any (fun _ => ?_)))
    | with_reducible apply State.modSpan_keep W.toClosed
    | with_reducible apply State.raiseMandatory_keep W.toClosed
    | (with_reducible refine ite_keep ?_ ?_)
    | split)

theorem State.zeroSpan_keep (W : Whole P) {s : State} (n : Nat) (hs : P s) : P (s.zeroSpan n) := by
  unfold State.zeroSpan
  refine State.modSpan_keep W.toClosed _ _ ?_
  exact W.rest (W.memFilter _ hs)

theorem State.marchRequest_keep (W : Whole P) {s : State} (n : Nat) (hs : P s) :
    P (State.marchRequest s n) := by
  unfold State.marchRequest
  repeat' (first
    | with_reducible assumption
    | (extract_lets +onlyGivenNames _t; revert _t
       first
       | (with_reducible refine let_keep (P := P) ?_ (fun _ _ => ?_))
       | (with_reducible refine let_keep₂ (P := P) ?_ (fun _ _ => ?_))
       | (with_reducible refine let_keep₁ (P := P) ?_ (fun _ _ => ?_))
       | (with_reducible refine let_maybe (P := P) ?_ (fun _ _ => ?_))
       | (with_reducible refine let_function ?_)
       | (with_reducible refine let_outs (P := P) ?_ (fun _ _ => ?_))
       | (with_reducible refine let_any (fun _ => ?_)))
    | with_reducible apply State.modSpan_keep W.toClosed
    | with_reducible apply State.zeroSpan_keep W
    | (with_reducible refine ite_keep ?_ ?_)
    | split)

theorem execMarchTestRequest_keep (W : Whole P) {s : State} (n : Fin 16) (preserve : Bool) (hs : P s) :
    Outs P (execMarchTestRequest n preserve s) := by
  unfold execMarchTestRequest
  repeat' (first
    | (with_reducible refine outs_next ?_)
    | (with_reducible refine ite_outs ?_ ?_)
    | with_reducible assumption
    | with_reducible apply State.modSpan_keep W.toClosed
    | with_reducible apply State.marchRequest_keep W
    | (with_reducible refine ite_keep ?_ ?_)
    | split)

theorem execMarchTestDone_keep (W : Whole P) {s : State} (n : Fin 16) (findings : List MarchFinding) (hs : P s) :
    Outs P (execMarchTestDone n findings s) := by
  unfold execMarchTestDone
  repeat' (first
    | (with_reducible refine outs_next ?_)
    | (with_reducible refine ite_outs ?_ ?_)
    | with_reducible assumption
    | with_reducible apply State.sendLaunches_keep W.toClosed
    | with_reducible apply State.carryOn_keep W.toClosed
    | with_reducible apply State.marchResult_keep W
    | (with_reducible refine ite_keep ?_ ?_)
    | split)

theorem State.tellStops_keep (W : Whole P) {s : State} (hs : P s) :
    P (State.tellStops s) := by
  unfold State.tellStops
  repeat' (first
    | with_reducible assumption
    | with_reducible apply State.endPart_keep W.toClosed
    | (with_reducible refine foldl_keep₁ (fun _ _ _ => ?_) _ _ ?_) <;> try beta_reduce
    | (with_reducible refine foldl_keep₂ (fun _ _ _ => ?_) _ _ ?_) <;> try beta_reduce
    | (with_reducible refine foldl_keep (fun _ _ _ => ?_) _ _ ?_) <;> try beta_reduce
    | (with_reducible refine ite_keep ?_ ?_)
    | split
    | dsimp only)

theorem State.leaveFault_keep (W : Whole P) {s : State} (hs : P s) : P s.leaveFault := by
  unfold State.leaveFault
  have h1 : P (s.withFlt { s.flt with recCount := 0, recs := [] }) := W.fltSame _ (.same rfl rfl rfl rfl) rfl rfl hs
  generalize s.withFlt { s.flt with recCount := 0, recs := [] } = s1 at h1 ⊢
  dsimp only
  split
  · rename_i h
    simp only [Bool.or_eq_true, Bool.and_eq_true, decide_eq_true_eq] at h
    have hf : s1.flt.state = 2 ∨ s1.flt.state = 3 := h.imp_right And.left
    refine foldl_keep (fun t l ht => ?_) _ _ ?_
    · exact ite_keep (State.startTraining_keep W.toClosed _ ht) ht
    · exact W.recovered (a := s1) { s1.flt with state := 0 } { s1.pwr with aliveRun := true, aliveTick := s1.now }
        (.same rfl rfl rfl rfl) rfl rfl rfl hf h1
  · exact h1

theorem State.clearWork_keep (W : Whole P) {s : State} (hs : P s) :
    P (State.clearWork s) := by
  unfold State.clearWork
  repeat' (first
    | with_reducible assumption
    | (extract_lets +onlyGivenNames _t; revert _t
       first
       | (with_reducible refine let_keep (P := P) ?_ (fun _ _ => ?_))
       | (with_reducible refine let_keep₂ (P := P) ?_ (fun _ _ => ?_))
       | (with_reducible refine let_keep₁ (P := P) ?_ (fun _ _ => ?_))
       | (with_reducible refine let_maybe (P := P) ?_ (fun _ _ => ?_))
       | (with_reducible refine let_function ?_)
       | (with_reducible refine let_outs (P := P) ?_ (fun _ _ => ?_))
       | (with_reducible refine let_any (fun _ => ?_)))
    | with_reducible apply State.modSpan_keep W.toClosed
    | with_reducible apply State.tellStops_keep W
    | (with_reducible refine foldl_keep₁ (fun _ _ _ => ?_) _ _ ?_) <;> try beta_reduce
    | (with_reducible refine foldl_keep₂ (fun _ _ _ => ?_) _ _ ?_) <;> try beta_reduce
    | (with_reducible refine foldl_keep (fun _ _ _ => ?_) _ _ ?_) <;> try beta_reduce
    | (with_reducible refine ite_keep ?_ ?_)
    | split
    | dsimp only
    | with_reducible refine W.wide rfl ?_
    | with_reducible refine W.wide rfl ?_)

theorem State.setCause_keep (W : Whole P) {s : State} (c : Nat) (hs : P s) :
    P (State.setCause s c) := by
  unfold State.setCause
  repeat' (first
    | with_reducible assumption
    | with_reducible refine W.wide rfl ?_)

theorem State.startReset_keep (W : Whole P) {s : State} (hs : P s) :
    P (State.startReset s) := by
  unfold State.startReset
  repeat' (first
    | with_reducible assumption
    | with_reducible refine W.wide rfl ?_)

theorem State.resetFunction_keep (W : Whole P) {s : State} (hs : P s) :
    P (State.resetFunction s) := by
  unfold State.resetFunction
  repeat' (first
    | with_reducible assumption
    | with_reducible refine W.wide rfl ?_)

theorem State.functionReset_keep (W : Whole P) {s : State} (hs : P s) :
    P (State.functionReset s) := by
  unfold State.functionReset
  repeat' (first
    | with_reducible assumption
    | with_reducible apply State.leaveFault_keep W
    | with_reducible apply State.clearWork_keep W
    | with_reducible apply State.setCause_keep W
    | with_reducible apply State.startReset_keep W
    | with_reducible apply State.resetFunction_keep W)

theorem execFlr_keep (W : Whole P) {s : State} (hs : P s) :
    Outs P (execFlr s) := by
  unfold execFlr
  repeat' (first
    | (with_reducible refine outs_next ?_)
    | (with_reducible refine ite_outs ?_ ?_)
    | with_reducible assumption
    | with_reducible apply State.functionReset_keep W
    | (with_reducible refine ite_keep ?_ ?_)
    | split)

theorem State.softReset_keep (W : Whole P) {s : State} (hs : P s) :
    P (State.softReset s) := by
  unfold State.softReset
  repeat' (first
    | with_reducible assumption
    | with_reducible apply State.leaveFault_keep W
    | with_reducible apply State.clearWork_keep W
    | with_reducible apply State.setCause_keep W
    | with_reducible apply State.startReset_keep W)

theorem execDevSoftReset_keep (W : Whole P) {s : State} (hs : P s) :
    Outs P (execDevSoftReset s) := by
  unfold execDevSoftReset
  repeat' (first
    | (with_reducible refine outs_next ?_)
    | (with_reducible refine ite_outs ?_ ?_)
    | with_reducible assumption
    | with_reducible apply State.softReset_keep W
    | (with_reducible refine ite_keep ?_ ?_)
    | split)

theorem execPerstNAssert_keep (T : Total P) {s : State} (hs : P s) : Outs P (execPerstNAssert s) := by
  unfold execPerstNAssert
  split
  · exact outs_next hs
  · exact outs_next (T.reset _ _ _ rfl hs)

theorem execPerstNRelease_keep (W : Whole P) {s : State} (slotId : BitVec 4) (hs : P s) :
    Outs P (execPerstNRelease slotId s) := by
  unfold execPerstNRelease
  repeat' (first
    | (with_reducible refine outs_next ?_)
    | (with_reducible refine ite_outs ?_ ?_)
    | with_reducible assumption
    | (with_reducible refine ite_keep ?_ ?_)
    | split
    | with_reducible refine W.wide rfl ?_)

theorem State.powerOff_keep (T : Total P) {s : State} (hs : P s) : P s.powerOff :=
  T.reset _ _ _ rfl hs

theorem State.powerOn_keep (T : Total P) {s : State} (hs : P s) : P s.powerOn :=
  T.reset _ _ _ rfl hs

theorem execPwrEnAssert_keep (T : Total P) {s : State} (hs : P s) :
    Outs P (execPwrEnAssert s) := by
  unfold execPwrEnAssert
  repeat' (first
    | (with_reducible refine outs_next ?_)
    | (with_reducible refine ite_outs ?_ ?_)
    | with_reducible assumption
    | (extract_lets +onlyGivenNames _t; revert _t
       first
       | (with_reducible refine let_keep (P := P) ?_ (fun _ _ => ?_))
       | (with_reducible refine let_keep₂ (P := P) ?_ (fun _ _ => ?_))
       | (with_reducible refine let_keep₁ (P := P) ?_ (fun _ _ => ?_))
       | (with_reducible refine let_maybe (P := P) ?_ (fun _ _ => ?_))
       | (with_reducible refine let_function ?_)
       | (with_reducible refine let_outs (P := P) ?_ (fun _ _ => ?_))
       | (with_reducible refine let_any (fun _ => ?_)))
    | with_reducible apply State.powerOn_keep T
    | (with_reducible refine ite_keep ?_ ?_)
    | split
    | with_reducible refine T.wide rfl ?_)

theorem execPwrEnDeassert_keep (T : Total P) {s : State} (hs : P s) :
    Outs P (execPwrEnDeassert s) := by
  unfold execPwrEnDeassert
  repeat' (first
    | (with_reducible refine outs_next ?_)
    | (with_reducible refine ite_outs ?_ ?_)
    | with_reducible assumption
    | (extract_lets +onlyGivenNames _t; revert _t
       first
       | (with_reducible refine let_keep (P := P) ?_ (fun _ _ => ?_))
       | (with_reducible refine let_keep₂ (P := P) ?_ (fun _ _ => ?_))
       | (with_reducible refine let_keep₁ (P := P) ?_ (fun _ _ => ?_))
       | (with_reducible refine let_maybe (P := P) ?_ (fun _ _ => ?_))
       | (with_reducible refine let_function ?_)
       | (with_reducible refine let_outs (P := P) ?_ (fun _ _ => ?_))
       | (with_reducible refine let_any (fun _ => ?_)))
    | with_reducible apply State.powerOff_keep T
    | (with_reducible refine ite_keep ?_ ?_)
    | split
    | with_reducible refine T.wide rfl ?_)

theorem execVinUndervoltage_keep (T : Total P) {s : State} (hs : P s) :
    Outs P (execVinUndervoltage s) := by
  unfold execVinUndervoltage
  repeat' (first
    | (with_reducible refine outs_next ?_)
    | (with_reducible refine ite_outs ?_ ?_)
    | with_reducible assumption
    | (extract_lets +onlyGivenNames _t; revert _t
       first
       | (with_reducible refine let_keep (P := P) ?_ (fun _ _ => ?_))
       | (with_reducible refine let_keep₂ (P := P) ?_ (fun _ _ => ?_))
       | (with_reducible refine let_keep₁ (P := P) ?_ (fun _ _ => ?_))
       | (with_reducible refine let_maybe (P := P) ?_ (fun _ _ => ?_))
       | (with_reducible refine let_function ?_)
       | (with_reducible refine let_outs (P := P) ?_ (fun _ _ => ?_))
       | (with_reducible refine let_any (fun _ => ?_)))
    | with_reducible apply State.powerOff_keep T
    | (with_reducible refine ite_keep ?_ ?_)
    | split
    | with_reducible refine T.wide rfl ?_)

theorem execVinOvervoltage_keep (T : Total P) {s : State} (hs : P s) :
    Outs P (execVinOvervoltage s) := by
  unfold execVinOvervoltage
  repeat' (first
    | (with_reducible refine outs_next ?_)
    | (with_reducible refine ite_outs ?_ ?_)
    | with_reducible assumption
    | with_reducible apply State.powerOff_keep T
    | (with_reducible refine ite_keep ?_ ?_)
    | split)

theorem execVinRestored_keep (T : Total P) {s : State} (hs : P s) :
    Outs P (execVinRestored s) := by
  unfold execVinRestored
  repeat' (first
    | (with_reducible refine outs_next ?_)
    | (with_reducible refine ite_outs ?_ ?_)
    | with_reducible assumption
    | (extract_lets +onlyGivenNames _t; revert _t
       first
       | (with_reducible refine let_keep (P := P) ?_ (fun _ _ => ?_))
       | (with_reducible refine let_keep₂ (P := P) ?_ (fun _ _ => ?_))
       | (with_reducible refine let_keep₁ (P := P) ?_ (fun _ _ => ?_))
       | (with_reducible refine let_maybe (P := P) ?_ (fun _ _ => ?_))
       | (with_reducible refine let_function ?_)
       | (with_reducible refine let_outs (P := P) ?_ (fun _ _ => ?_))
       | (with_reducible refine let_any (fun _ => ?_)))
    | with_reducible apply State.powerOn_keep T
    | (with_reducible refine ite_keep ?_ ?_)
    | split
    | with_reducible refine T.wide rfl ?_)

theorem execThermalTrip_keep (T : Total P) {s : State} (hs : P s) :
    Outs P (execThermalTrip s) := by
  unfold execThermalTrip
  repeat' (first
    | (with_reducible refine outs_next ?_)
    | (with_reducible refine ite_outs ?_ ?_)
    | with_reducible assumption
    | (extract_lets +onlyGivenNames _t; revert _t
       first
       | (with_reducible refine let_keep (P := P) ?_ (fun _ _ => ?_))
       | (with_reducible refine let_keep₂ (P := P) ?_ (fun _ _ => ?_))
       | (with_reducible refine let_keep₁ (P := P) ?_ (fun _ _ => ?_))
       | (with_reducible refine let_maybe (P := P) ?_ (fun _ _ => ?_))
       | (with_reducible refine let_function ?_)
       | (with_reducible refine let_outs (P := P) ?_ (fun _ _ => ?_))
       | (with_reducible refine let_any (fun _ => ?_)))
    | with_reducible apply State.powerOff_keep T
    | (with_reducible refine ite_keep ?_ ?_)
    | split
    | with_reducible refine T.wide rfl ?_)

theorem execPllLockLoss_keep (T : Total P) {s : State} (hs : P s) : Outs P (execPllLockLoss s) := by
  unfold execPllLockLoss
  split
  · exact outs_next (T.reset _ _ _ rfl hs)
  · exact outs_next hs

end Sys2Proof.Machine
end

