-- ==== Sys2Proof/Laws/KeepSec.lean ====
section
/-! SUPPORT. Every whole property is kept by the operations of Machine/Sec.lean.
-/

namespace Sys2Proof.Machine

set_option linter.all false

variable {P : State → Prop}

theorem State.modSec_keep (W : Whole P) {s : State} (f : Sec → Sec) (hs : P s) :
    P (State.modSec s f) := by
  unfold State.modSec
  repeat' (first
    | with_reducible assumption
    | with_reducible refine W.wide rfl ?_)

theorem State.rngFail_keep (W : Whole P) {s : State} (hs : P s) :
    P (State.rngFail s) := by
  unfold State.rngFail
  repeat' (first
    | with_reducible assumption
    | with_reducible apply State.raise_keep W.toClosed
    | with_reducible apply State.modSec_keep W)

theorem State.seedDrbg_keep (W : Whole P) {s : State} (personal : List Byte) (hs : P s) :
    P (State.seedDrbg s personal) := by
  unfold State.seedDrbg
  repeat' (first
    | with_reducible assumption
    | (extract_lets +onlyGivenNames _t; revert _t
       first
       | (with_reducible refine let_keep (P := P) ?_ (fun _ _ => ?_))
       | (with_reducible refine let_keep₂ (P := P) ?_ (fun _ _ => ?_))
       | (with_reducible refine let_keep₁ (P := P) ?_ (fun _ _ => ?_))
       | (with_reducible refine let_maybe (P := P) ?_ (fun _ _ => ?_))
       | (with_reducible refine let_function ?_)
       | (with_reducible refine let_outs (P := P) ?_ (fun _ _ => ?_))
       | (with_reducible refine let_any (fun _ => ?_)))
    | with_reducible apply State.samples_keep W.toClosed
    | with_reducible apply State.rngFail_keep W
    | (with_reducible refine ite_keep ?_ ?_)
    | split
    | (with_reducible refine of_snd (by with_reducible assumption) ?_)
    | with_reducible refine W.wide rfl ?_)

theorem State.reseedDrbg_keep (W : Whole P) {s : State} (hs : P s) :
    P (State.reseedDrbg s) := by
  unfold State.reseedDrbg
  repeat' (first
    | with_reducible assumption
    | (extract_lets +onlyGivenNames _t; revert _t
       first
       | (with_reducible refine let_keep (P := P) ?_ (fun _ _ => ?_))
       | (with_reducible refine let_keep₂ (P := P) ?_ (fun _ _ => ?_))
       | (with_reducible refine let_keep₁ (P := P) ?_ (fun _ _ => ?_))
       | (with_reducible refine let_maybe (P := P) ?_ (fun _ _ => ?_))
       | (with_reducible refine let_function ?_)
       | (with_reducible refine let_outs (P := P) ?_ (fun _ _ => ?_))
       | (with_reducible refine let_any (fun _ => ?_)))
    | with_reducible apply State.samples_keep W.toClosed
    | with_reducible apply State.rngFail_keep W
    | (with_reducible refine ite_keep ?_ ?_)
    | split
    | (with_reducible refine of_snd (by with_reducible assumption) ?_)
    | with_reducible refine W.wide rfl ?_)

theorem State.zeroizeKeys_keep (W : Whole P) {s : State} (slots : Nat) (hs : P s) :
    P (State.zeroizeKeys s slots) := by
  unfold State.zeroizeKeys
  repeat' (first
    | with_reducible assumption
    | (extract_lets +onlyGivenNames _t; revert _t
       first
       | (with_reducible refine let_keep (P := P) ?_ (fun _ _ => ?_))
       | (with_reducible refine let_keep₂ (P := P) ?_ (fun _ _ => ?_))
       | (with_reducible refine let_keep₁ (P := P) ?_ (fun _ _ => ?_))
       | (with_reducible refine let_maybe (P := P) ?_ (fun _ _ => ?_))
       | (with_reducible refine let_function ?_)
       | (with_reducible refine let_outs (P := P) ?_ (fun _ _ => ?_))
       | (with_reducible refine let_any (fun _ => ?_)))
    | with_reducible apply State.takeDown_keep W.toClosed
    | with_reducible apply State.modSec_keep W
    | (with_reducible refine foldl_keep₁ (fun _ _ _ => ?_) _ _ ?_) <;> try beta_reduce
    | (with_reducible refine foldl_keep₂ (fun _ _ _ => ?_) _ _ ?_) <;> try beta_reduce
    | (with_reducible refine foldl_keep (fun _ _ _ => ?_) _ _ ?_) <;> try beta_reduce
    | (with_reducible refine ite_keep ?_ ?_)
    | split
    | dsimp only)

theorem State.fenceEncrypted_keep (W : Whole P) {s : State} (hs : P s) :
    P (State.fenceEncrypted s) := by
  unfold State.fenceEncrypted
  repeat' (first
    | with_reducible assumption
    | with_reducible apply State.fenceCxl_keep W.toClosed
    | (with_reducible refine foldl_keep₁ (fun _ _ _ => ?_) _ _ ?_) <;> try beta_reduce
    | (with_reducible refine foldl_keep₂ (fun _ _ _ => ?_) _ _ ?_) <;> try beta_reduce
    | (with_reducible refine foldl_keep (fun _ _ _ => ?_) _ _ ?_) <;> try beta_reduce
    | (with_reducible refine ite_keep ?_ ?_)
    | split
    | dsimp only)

theorem State.selfTestError_keep (W : Whole P) {s : State} (hs : P s) :
    P (State.selfTestError s) := by
  unfold State.selfTestError
  repeat' (first
    | with_reducible assumption
    | (extract_lets +onlyGivenNames _t; revert _t
       first
       | (with_reducible refine let_keep (P := P) ?_ (fun _ _ => ?_))
       | (with_reducible refine let_keep₂ (P := P) ?_ (fun _ _ => ?_))
       | (with_reducible refine let_keep₁ (P := P) ?_ (fun _ _ => ?_))
       | (with_reducible refine let_maybe (P := P) ?_ (fun _ _ => ?_))
       | (with_reducible refine let_function ?_)
       | (with_reducible refine let_outs (P := P) ?_ (fun _ _ => ?_))
       | (with_reducible refine let_any (fun _ => ?_)))
    | with_reducible apply State.takeDown_keep W.toClosed
    | with_reducible apply State.raise_keep W.toClosed
    | with_reducible apply State.modSec_keep W
    | with_reducible apply State.rngFail_keep W
    | with_reducible apply State.fenceEncrypted_keep W
    | (with_reducible refine foldl_keep₁ (fun _ _ _ => ?_) _ _ ?_) <;> try beta_reduce
    | (with_reducible refine foldl_keep₂ (fun _ _ _ => ?_) _ _ ?_) <;> try beta_reduce
    | (with_reducible refine foldl_keep (fun _ _ _ => ?_) _ _ ?_) <;> try beta_reduce
    | (with_reducible refine ite_keep ?_ ?_)
    | split
    | dsimp only)

theorem State.doFwWrite_keep (W : Whole P) {s : State} (k : ObjKind) (slot : Nat) (off : Nat) (data : List Byte) (hs : P s) :
    Replies P (State.doFwWrite s k slot off data) := by
  unfold State.doFwWrite
  repeat' (first
    | with_reducible exact replies_wait
    | (with_reducible refine replies_done ?_)
    | (with_reducible refine ite_replies ?_ ?_)
    | (with_reducible refine State.withRng_keep _ ?_ (fun _ _ => ?_))
    | with_reducible assumption
    | (extract_lets +onlyGivenNames _t; revert _t
       first
       | (with_reducible refine let_keep (P := P) ?_ (fun _ _ => ?_))
       | (with_reducible refine let_keep₂ (P := P) ?_ (fun _ _ => ?_))
       | (with_reducible refine let_keep₁ (P := P) ?_ (fun _ _ => ?_))
       | (with_reducible refine let_maybe (P := P) ?_ (fun _ _ => ?_))
       | (with_reducible refine let_function ?_)
       | (with_reducible refine let_outs (P := P) ?_ (fun _ _ => ?_))
       | (with_reducible refine let_any (fun _ => ?_)))
    | with_reducible apply State.modSec_keep W
    | (with_reducible refine ite_keep ?_ ?_)
    | split)

theorem State.doFwVerify_keep (W : Whole P) {s : State} (k : ObjKind) (c : ObjChecks) (hs : P s) :
    Replies P (State.doFwVerify s k c) := by
  unfold State.doFwVerify
  repeat' (first
    | with_reducible exact replies_wait
    | (with_reducible refine replies_done ?_)
    | (with_reducible refine ite_replies ?_ ?_)
    | (with_reducible refine State.withRng_keep _ ?_ (fun _ _ => ?_))
    | with_reducible assumption
    | (extract_lets +onlyGivenNames _t; revert _t
       first
       | (with_reducible refine let_keep (P := P) ?_ (fun _ _ => ?_))
       | (with_reducible refine let_keep₂ (P := P) ?_ (fun _ _ => ?_))
       | (with_reducible refine let_keep₁ (P := P) ?_ (fun _ _ => ?_))
       | (with_reducible refine let_maybe (P := P) ?_ (fun _ _ => ?_))
       | (with_reducible refine let_function ?_)
       | (with_reducible refine let_outs (P := P) ?_ (fun _ _ => ?_))
       | (with_reducible refine let_any (fun _ => ?_)))
    | (with_reducible refine ite_keep ?_ ?_)
    | split)

theorem State.doFwCommit_keep (W : Whole P) {s : State} (k : ObjKind) (hs : P s) :
    Replies P (State.doFwCommit s k) := by
  unfold State.doFwCommit
  repeat' (first
    | with_reducible exact replies_wait
    | (with_reducible refine replies_done ?_)
    | (with_reducible refine ite_replies ?_ ?_)
    | (with_reducible refine State.withRng_keep _ ?_ (fun _ _ => ?_))
    | with_reducible assumption
    | with_reducible apply State.modSec_keep W
    | split)

theorem State.doSelfTest_keep (W : Whole P) {s : State} (pass : Bool) (hs : P s) :
    Replies P (State.doSelfTest s pass) := by
  unfold State.doSelfTest
  repeat' (first
    | with_reducible exact replies_wait
    | (with_reducible refine replies_done ?_)
    | (with_reducible refine ite_replies ?_ ?_)
    | (with_reducible refine State.withRng_keep _ ?_ (fun _ _ => ?_))
    | with_reducible assumption
    | with_reducible apply State.selfTestError_keep W
    | (with_reducible refine ite_keep ?_ ?_)
    | split)

theorem State.doSetSeverity_keep (W : Whole P) {s : State} (b : BlockId) (k : Nat) (sev : Nat) (hs : P s) :
    Replies P (State.doSetSeverity s b k sev) := by
  unfold State.doSetSeverity
  repeat' (first
    | with_reducible exact replies_wait
    | (with_reducible refine replies_done ?_)
    | (with_reducible refine ite_replies ?_ ?_)
    | (with_reducible refine State.withRng_keep _ ?_ (fun _ _ => ?_))
    | with_reducible assumption
    | with_reducible apply State.modBlock_keep W.toClosed
    | (with_reducible refine ite_keep ?_ ?_)
    | split)

theorem State.fenceNamed_keep (W : Whole P) {s : State}  (x0 : FenceUnit) (hs : P s) :
    P (State.fenceNamed s x0) := by
  unfold State.fenceNamed
  repeat' (first
    | with_reducible assumption
    | (extract_lets +onlyGivenNames _t; revert _t
       first
       | (with_reducible refine let_keep (P := P) ?_ (fun _ _ => ?_))
       | (with_reducible refine let_keep₂ (P := P) ?_ (fun _ _ => ?_))
       | (with_reducible refine let_keep₁ (P := P) ?_ (fun _ _ => ?_))
       | (with_reducible refine let_maybe (P := P) ?_ (fun _ _ => ?_))
       | (with_reducible refine let_function ?_)
       | (with_reducible refine let_outs (P := P) ?_ (fun _ _ => ?_))
       | (with_reducible refine let_any (fun _ => ?_)))
    | with_reducible apply State.fenceSpan_keep W.toClosed
    | with_reducible apply State.fenceMem_keep W.toClosed
    | with_reducible apply State.fenceCxl_keep W.toClosed
    | with_reducible apply State.fenceLink_keep W.toClosed
    | with_reducible apply State.fenceLanes_keep W.toClosed
    | with_reducible apply State.raise_keep W.toClosed
    | (with_reducible refine ite_keep ?_ ?_)
    | split)

theorem State.doSetFltParam_keep (W : Whole P) {s : State} (esc : Option Nat) (quiet : Option Nat) (limit : Option Nat) (window : Option Nat) (hs : P s) :
    Replies P (State.doSetFltParam s esc quiet limit window) := by
  unfold State.doSetFltParam
  repeat' (first
    | with_reducible exact replies_wait
    | (with_reducible refine replies_done ?_)
    | (with_reducible refine ite_replies ?_ ?_)
    | (with_reducible refine State.withRng_keep _ ?_ (fun _ _ => ?_))
    | with_reducible assumption
    | (with_reducible refine ite_keep ?_ ?_)
    | split
    | (with_reducible refine State.withFlt_same W _ (.same rfl rfl rfl rfl) rfl rfl ?_)
    | (refine FenceOnly.mk (Grown.mk ?_ ?_ ?_ ?_) rfl rfl rfl rfl rfl rfl rfl rfl rfl rfl <;>
        first | exact fun _ h => h | exact fun _ h => getLsbD_or_of h))

theorem State.doKeyInstall_keep (W : Whole P) {s : State} (l : Nat) (receive : Bool) (slot : Nat) (key : BitVec 256) (salt : BitVec 32) (hs : P s) :
    Replies P (State.doKeyInstall s l receive slot key salt) := by
  unfold State.doKeyInstall
  repeat' (first
    | with_reducible exact replies_wait
    | (with_reducible refine replies_done ?_)
    | (with_reducible refine ite_replies ?_ ?_)
    | (with_reducible refine State.withRng_keep _ ?_ (fun _ _ => ?_))
    | with_reducible assumption
    | (extract_lets +onlyGivenNames _t; revert _t
       first
       | (with_reducible refine let_keep (P := P) ?_ (fun _ _ => ?_))
       | (with_reducible refine let_keep₂ (P := P) ?_ (fun _ _ => ?_))
       | (with_reducible refine let_keep₁ (P := P) ?_ (fun _ _ => ?_))
       | (with_reducible refine let_maybe (P := P) ?_ (fun _ _ => ?_))
       | (with_reducible refine let_function ?_)
       | (with_reducible refine let_outs (P := P) ?_ (fun _ _ => ?_))
       | (with_reducible refine let_any (fun _ => ?_)))
    | with_reducible apply State.wrapKey_keep W.toClosed
    | with_reducible apply State.modSec_keep W
    | with_reducible apply State.withRng_keep W
    | (with_reducible refine ite_keep ?_ ?_)
    | split
    | (with_reducible refine of_snd (by with_reducible assumption) ?_)
    | (with_reducible refine of_replies (by with_reducible assumption) ?_))

theorem State.doKeySwitch_keep (W : Whole P) {s : State} (l : Nat) (hs : P s) :
    Replies P (State.doKeySwitch s l) := by
  unfold State.doKeySwitch
  repeat' (first
    | with_reducible exact replies_wait
    | (with_reducible refine replies_done ?_)
    | (with_reducible refine ite_replies ?_ ?_)
    | (with_reducible refine State.withRng_keep _ ?_ (fun _ _ => ?_))
    | with_reducible assumption
    | (extract_lets +onlyGivenNames _t; revert _t
       first
       | (with_reducible refine let_keep (P := P) ?_ (fun _ _ => ?_))
       | (with_reducible refine let_keep₂ (P := P) ?_ (fun _ _ => ?_))
       | (with_reducible refine let_keep₁ (P := P) ?_ (fun _ _ => ?_))
       | (with_reducible refine let_maybe (P := P) ?_ (fun _ _ => ?_))
       | (with_reducible refine let_function ?_)
       | (with_reducible refine let_outs (P := P) ?_ (fun _ _ => ?_))
       | (with_reducible refine let_any (fun _ => ?_)))
    | with_reducible apply State.modLink_keep W.toClosed
    | with_reducible apply State.sendNeighbour_keep W.toClosed
    | (with_reducible refine ite_keep ?_ ?_)
    | split)

theorem State.doReseed_keep (W : Whole P) {s : State} (first : Bool) (input : List Byte) (hs : P s) :
    Replies P (State.doReseed s first input) := by
  unfold State.doReseed
  repeat' (first
    | with_reducible exact replies_wait
    | (with_reducible refine replies_done ?_)
    | (with_reducible refine ite_replies ?_ ?_)
    | (with_reducible refine State.withRng_keep _ ?_ (fun _ _ => ?_))
    | with_reducible assumption
    | (with_reducible refine ite_keep ?_ ?_)
    | split)

theorem State.doInstantiate_keep (W : Whole P) {s : State} (personal : List Byte) (hs : P s) :
    Replies P (State.doInstantiate s personal) := by
  unfold State.doInstantiate
  repeat' (first
    | with_reducible exact replies_wait
    | (with_reducible refine replies_done ?_)
    | (with_reducible refine ite_replies ?_ ?_)
    | (with_reducible refine State.withRng_keep _ ?_ (fun _ _ => ?_))
    | with_reducible assumption
    | (extract_lets +onlyGivenNames _t; revert _t
       first
       | (with_reducible refine let_keep (P := P) ?_ (fun _ _ => ?_))
       | (with_reducible refine let_keep₂ (P := P) ?_ (fun _ _ => ?_))
       | (with_reducible refine let_keep₁ (P := P) ?_ (fun _ _ => ?_))
       | (with_reducible refine let_maybe (P := P) ?_ (fun _ _ => ?_))
       | (with_reducible refine let_function ?_)
       | (with_reducible refine let_outs (P := P) ?_ (fun _ _ => ?_))
       | (with_reducible refine let_any (fun _ => ?_)))
    | with_reducible apply State.seedDrbg_keep W
    | with_reducible apply State.withRng_keep W
    | (with_reducible refine ite_keep ?_ ?_)
    | split
    | (with_reducible refine of_replies (by with_reducible assumption) ?_))

theorem State.doUnlock_keep (W : Whole P) {s : State} (t : Token) (hs : P s) :
    Replies P (State.doUnlock s t) := by
  unfold State.doUnlock
  repeat' (first
    | with_reducible exact replies_wait
    | (with_reducible refine replies_done ?_)
    | (with_reducible refine ite_replies ?_ ?_)
    | (with_reducible refine State.withRng_keep _ ?_ (fun _ _ => ?_))
    | with_reducible assumption
    | (extract_lets +onlyGivenNames _t; revert _t
       first
       | (with_reducible refine let_keep (P := P) ?_ (fun _ _ => ?_))
       | (with_reducible refine let_keep₂ (P := P) ?_ (fun _ _ => ?_))
       | (with_reducible refine let_keep₁ (P := P) ?_ (fun _ _ => ?_))
       | (with_reducible refine let_maybe (P := P) ?_ (fun _ _ => ?_))
       | (with_reducible refine let_function ?_)
       | (with_reducible refine let_outs (P := P) ?_ (fun _ _ => ?_))
       | (with_reducible refine let_any (fun _ => ?_)))
    | with_reducible apply State.modSec_keep W
    | with_reducible apply State.zeroizeKeys_keep W
    | with_reducible apply State.fenceEncrypted_keep W
    | (with_reducible refine ite_keep ?_ ?_)
    | split)

theorem State.handle_keep (W : Whole P) {s : State} (first : Bool) (i : Instr) (hs : P s) :
    Replies P (s.handle first i) := by
  unfold State.handle
  split
  all_goals first
    | with_reducible exact replies_done hs
    | with_reducible exact State.withRng_keep _ hs fun t ht => replies_done (State.generate_keep W.toClosed _ ht)
    | with_reducible exact State.withRng_keep _ hs fun t ht => replies_done (State.modSec_keep W _ (State.generate_keep W.toClosed _ ht))
    | with_reducible exact State.doFwWrite_keep W _ _ _ _ hs
    | with_reducible exact State.doFwVerify_keep W _ _ hs
    | with_reducible exact State.doFwCommit_keep W _ hs
    | with_reducible exact State.doSelfTest_keep W _ hs
    | with_reducible exact State.doSetSeverity_keep W _ _ _ hs
    | with_reducible exact replies_done (State.fenceNamed_keep W _ hs)
    | with_reducible exact State.doSetFltParam_keep W _ _ _ _ hs
    | with_reducible exact State.doKeyInstall_keep W _ _ _ _ _ hs
    | with_reducible exact State.doKeySwitch_keep W _ hs
    | with_reducible exact replies_done (State.zeroizeKeys_keep W _ hs)
    | with_reducible exact State.doReseed_keep W _ _ hs
    | with_reducible exact State.doInstantiate_keep W _ hs
    | with_reducible exact State.doUnlock_keep W _ hs
    | with_reducible exact ite_replies (replies_done hs) (replies_done hs)

theorem State.respond_keep (W : Whole P) {s : State} (code : Nat) (seq : BitVec 16) (st : MgmtStatus) (data : List Byte)
    (hs : P s) : P (s.respond code seq st data) := State.modSec_keep W _ hs

theorem State.reseedFor_keep (W : Whole P) {s : State} (i : Instr) (hs : P s) :
    P (State.reseedFor s i) := by
  unfold State.reseedFor
  repeat' (first
    | with_reducible assumption
    | with_reducible apply State.modSec_keep W
    | (with_reducible refine ite_keep ?_ ?_)
    | split)

theorem State.tryRequest_keep (W : Whole P) {s : State} (seq : BitVec 16) (first : Bool) (i : Instr) (hs : P s) :
    P (State.tryRequest s seq first i) := by
  unfold State.tryRequest
  repeat' (first
    | with_reducible assumption
    | (extract_lets +onlyGivenNames _t; revert _t
       first
       | (with_reducible refine let_keep (P := P) ?_ (fun _ _ => ?_))
       | (with_reducible refine let_keep₂ (P := P) ?_ (fun _ _ => ?_))
       | (with_reducible refine let_keep₁ (P := P) ?_ (fun _ _ => ?_))
       | (with_reducible refine let_maybe (P := P) ?_ (fun _ _ => ?_))
       | (with_reducible refine let_function ?_)
       | (with_reducible refine let_outs (P := P) ?_ (fun _ _ => ?_))
       | (with_reducible refine let_any (fun _ => ?_)))
    | with_reducible apply State.modSec_keep W
    | with_reducible apply State.respond_keep W
    | with_reducible apply State.reseedFor_keep W
    | with_reducible apply State.handle_keep W
    | split
    | (with_reducible refine of_replies (by with_reducible assumption) ?_))

theorem State.retryRequest_keep (W : Whole P) {s : State} (first : Bool) (hs : P s) :
    P (State.retryRequest s first) := by
  unfold State.retryRequest
  repeat' (first
    | with_reducible assumption
    | with_reducible apply State.tryRequest_keep W
    | split)

theorem State.answerMailbox_keep (W : Whole P) {s : State} (status : Nat) (data : List Byte) (hs : P s) :
    P (State.answerMailbox s status data) := by
  unfold State.answerMailbox
  repeat' (first
    | with_reducible assumption
    | with_reducible apply State.raiseVector_keep W.toClosed
    | with_reducible refine W.wide rfl ?_)

theorem State.requestOn_keep (W : Whole P) {s : State} (p : Port) (i : Instr) (hs : P s) :
    P (State.requestOn s p i) := by
  unfold State.requestOn
  repeat' (first
    | with_reducible assumption
    | (extract_lets +onlyGivenNames _t; revert _t
       first
       | (with_reducible refine let_keep (P := P) ?_ (fun _ _ => ?_))
       | (with_reducible refine let_keep₂ (P := P) ?_ (fun _ _ => ?_))
       | (with_reducible refine let_keep₁ (P := P) ?_ (fun _ _ => ?_))
       | (with_reducible refine let_maybe (P := P) ?_ (fun _ _ => ?_))
       | (with_reducible refine let_function ?_)
       | (with_reducible refine let_outs (P := P) ?_ (fun _ _ => ?_))
       | (with_reducible refine let_any (fun _ => ?_)))
    | with_reducible apply State.carryOn_keep W.toClosed
    | with_reducible apply State.respond_keep W
    | with_reducible apply State.tryRequest_keep W
    | with_reducible apply State.answerMailbox_keep W
    | (with_reducible refine ite_keep ?_ ?_)
    | split)

theorem execStallReport_keep (W : Whole P) {s : State} (p : Port) (hs : P s) :
    Outs P (execStallReport p s) := by
  unfold execStallReport
  repeat' (first
    | (with_reducible refine outs_next ?_)
    | with_reducible assumption
    | with_reducible apply State.requestOn_keep W)

theorem execFenceStatus_keep (W : Whole P) {s : State} (p : Port) (hs : P s) :
    Outs P (execFenceStatus p s) := by
  unfold execFenceStatus
  repeat' (first
    | (with_reducible refine outs_next ?_)
    | with_reducible assumption
    | with_reducible apply State.requestOn_keep W)

theorem execFaultState_keep (W : Whole P) {s : State} (p : Port) (hs : P s) :
    Outs P (execFaultState p s) := by
  unfold execFaultState
  repeat' (first
    | (with_reducible refine outs_next ?_)
    | with_reducible assumption
    | with_reducible apply State.requestOn_keep W)

theorem execFwVersion_keep (W : Whole P) {s : State} (p : Port) (hs : P s) :
    Outs P (execFwVersion p s) := by
  unfold execFwVersion
  repeat' (first
    | (with_reducible refine outs_next ?_)
    | with_reducible assumption
    | with_reducible apply State.requestOn_keep W)

theorem execRngRead_keep (W : Whole P) {s : State} (p : Port) (length : BitVec 12) (hs : P s) :
    Outs P (execRngRead p length s) := by
  unfold execRngRead
  repeat' (first
    | (with_reducible refine outs_next ?_)
    | with_reducible assumption
    | with_reducible apply State.requestOn_keep W)

theorem execFwWrite_keep (W : Whole P) {s : State} (p : Port) (k : ObjKind) (slot : Fin 2) (offset : Nat) (data : List Byte) (hs : P s) :
    Outs P (execFwWrite p k slot offset data s) := by
  unfold execFwWrite
  repeat' (first
    | (with_reducible refine outs_next ?_)
    | with_reducible assumption
    | with_reducible apply State.requestOn_keep W)

theorem execFwVerify_keep (W : Whole P) {s : State} (p : Port) (k : ObjKind) (checks : ObjChecks) (hs : P s) :
    Outs P (execFwVerify p k checks s) := by
  unfold execFwVerify
  repeat' (first
    | (with_reducible refine outs_next ?_)
    | with_reducible assumption
    | with_reducible apply State.requestOn_keep W)

theorem execFwCommit_keep (W : Whole P) {s : State} (p : Port) (k : ObjKind) (hs : P s) :
    Outs P (execFwCommit p k s) := by
  unfold execFwCommit
  repeat' (first
    | (with_reducible refine outs_next ?_)
    | with_reducible assumption
    | with_reducible apply State.requestOn_keep W)

theorem execSelfTest_keep (W : Whole P) {s : State} (p : Port) (pass : Bool) (hs : P s) :
    Outs P (execSelfTest p pass s) := by
  unfold execSelfTest
  repeat' (first
    | (with_reducible refine outs_next ?_)
    | with_reducible assumption
    | with_reducible apply State.requestOn_keep W)

theorem execSetSeverity_keep (W : Whole P) {s : State} (p : Port) (b : BlockId) (source : Fin 32) (severity : Fin 4) (hs : P s) :
    Outs P (execSetSeverity p b source severity s) := by
  unfold execSetSeverity
  repeat' (first
    | (with_reducible refine outs_next ?_)
    | with_reducible assumption
    | with_reducible apply State.requestOn_keep W)

theorem execFenceUnit_keep (W : Whole P) {s : State} (p : Port) (u : FenceUnit) (hs : P s) :
    Outs P (execFenceUnit p u s) := by
  unfold execFenceUnit
  repeat' (first
    | (with_reducible refine outs_next ?_)
    | with_reducible assumption
    | with_reducible apply State.requestOn_keep W)

theorem execSetFltParam_keep (W : Whole P) {s : State} (p : Port) (escMs : Option Nat) (quietMs : Option Nat) (limit : Option Nat) (window : Option Nat) (hs : P s) :
    Outs P (execSetFltParam p escMs quietMs limit window s) := by
  unfold execSetFltParam
  repeat' (first
    | (with_reducible refine outs_next ?_)
    | with_reducible assumption
    | with_reducible apply State.requestOn_keep W)

theorem execKeyInstall_keep (W : Whole P) {s : State} (p : Port) (l : Fin 4) (receive : Bool) (slot : Fin 2) (key : BitVec 256) (salt : BitVec 32) (hs : P s) :
    Outs P (execKeyInstall p l receive slot key salt s) := by
  unfold execKeyInstall
  repeat' (first
    | (with_reducible refine outs_next ?_)
    | with_reducible assumption
    | with_reducible apply State.requestOn_keep W)

theorem execLinkKeySwitch_keep (W : Whole P) {s : State} (p : Port) (l : Fin 4) (hs : P s) :
    Outs P (execLinkKeySwitch p l s) := by
  unfold execLinkKeySwitch
  repeat' (first
    | (with_reducible refine outs_next ?_)
    | with_reducible assumption
    | with_reducible apply State.requestOn_keep W)

theorem execKeyZeroize_keep (W : Whole P) {s : State} (p : Port) (slots : BitVec 18) (hs : P s) :
    Outs P (execKeyZeroize p slots s) := by
  unfold execKeyZeroize
  repeat' (first
    | (with_reducible refine outs_next ?_)
    | with_reducible assumption
    | with_reducible apply State.requestOn_keep W)

theorem execDrbgReseed_keep (W : Whole P) {s : State} (p : Port) (input : List Byte) (hs : P s) :
    Outs P (execDrbgReseed p input s) := by
  unfold execDrbgReseed
  repeat' (first
    | (with_reducible refine outs_next ?_)
    | with_reducible assumption
    | with_reducible apply State.requestOn_keep W)

theorem execDrbgInstantiate_keep (W : Whole P) {s : State} (p : Port) (personal : List Byte) (hs : P s) :
    Outs P (execDrbgInstantiate p personal s) := by
  unfold execDrbgInstantiate
  repeat' (first
    | (with_reducible refine outs_next ?_)
    | with_reducible assumption
    | with_reducible apply State.requestOn_keep W)

theorem execAttest_keep (W : Whole P) {s : State} (p : Port) (nonce : BitVec 256) (hs : P s) :
    Outs P (execAttest p nonce s) := by
  unfold execAttest
  repeat' (first
    | (with_reducible refine outs_next ?_)
    | with_reducible assumption
    | with_reducible apply State.requestOn_keep W)

theorem execGetIdentity_keep (W : Whole P) {s : State} (p : Port) (hs : P s) :
    Outs P (execGetIdentity p s) := by
  unfold execGetIdentity
  repeat' (first
    | (with_reducible refine outs_next ?_)
    | with_reducible assumption
    | with_reducible apply State.requestOn_keep W)

theorem execDebugChallenge_keep (W : Whole P) {s : State} (p : Port) (hs : P s) :
    Outs P (execDebugChallenge p s) := by
  unfold execDebugChallenge
  repeat' (first
    | (with_reducible refine outs_next ?_)
    | with_reducible assumption
    | with_reducible apply State.requestOn_keep W)

theorem execDebugUnlock_keep (W : Whole P) {s : State} (p : Port) (t : Token) (hs : P s) :
    Outs P (execDebugUnlock p t s) := by
  unfold execDebugUnlock
  repeat' (first
    | (with_reducible refine outs_next ?_)
    | with_reducible assumption
    | with_reducible apply State.requestOn_keep W)

theorem State.readResponse_keep (W : Whole P) {s : State} (hs : P s) :
    P (State.readResponse s) := by
  unfold State.readResponse
  repeat' (first
    | with_reducible assumption
    | (extract_lets +onlyGivenNames _t; revert _t
       first
       | (with_reducible refine let_keep (P := P) ?_ (fun _ _ => ?_))
       | (with_reducible refine let_keep₂ (P := P) ?_ (fun _ _ => ?_))
       | (with_reducible refine let_keep₁ (P := P) ?_ (fun _ _ => ?_))
       | (with_reducible refine let_maybe (P := P) ?_ (fun _ _ => ?_))
       | (with_reducible refine let_function ?_)
       | (with_reducible refine let_outs (P := P) ?_ (fun _ _ => ?_))
       | (with_reducible refine let_any (fun _ => ?_)))
    | with_reducible apply State.modSec_keep W
    | (with_reducible refine ite_keep ?_ ?_)
    | split
    | with_reducible refine W.wide rfl ?_)

theorem execManagementResponseRead_keep (W : Whole P) {s : State} (hs : P s) :
    Outs P (execManagementResponseRead s) := by
  unfold execManagementResponseRead
  repeat' (first
    | (with_reducible refine outs_next ?_)
    | (with_reducible refine ite_outs ?_ ?_)
    | with_reducible assumption
    | with_reducible apply State.readResponse_keep W
    | (with_reducible refine ite_keep ?_ ?_)
    | split)

theorem execDynamicAddressAssignment_keep (W : Whole P) {s : State} (addr : BitVec 7) (hs : P s) :
    Outs P (execDynamicAddressAssignment addr s) := by
  unfold execDynamicAddressAssignment
  repeat' (first
    | (with_reducible refine outs_next ?_)
    | (with_reducible refine ite_outs ?_ ?_)
    | with_reducible assumption
    | with_reducible apply State.modSec_keep W
    | (with_reducible refine ite_keep ?_ ?_)
    | split)

theorem State.requestReseed_keep (W : Whole P) {s : State} (hs : P s) :
    P (State.requestReseed s) := by
  unfold State.requestReseed
  repeat' (first
    | with_reducible assumption
    | with_reducible apply State.modSec_keep W
    | (with_reducible refine ite_keep ?_ ?_)
    | split)

theorem execRngReseedRequest_keep (W : Whole P) {s : State} (hs : P s) :
    Outs P (execRngReseedRequest s) := by
  unfold execRngReseedRequest
  repeat' (first
    | (with_reducible refine outs_next ?_)
    | (with_reducible refine ite_outs ?_ ?_)
    | with_reducible assumption
    | with_reducible apply State.requestReseed_keep W
    | (with_reducible refine ite_keep ?_ ?_)
    | split)

theorem execDrbgAutoReseed_keep (W : Whole P) {s : State} (hs : P s) :
    Outs P (execDrbgAutoReseed s) := by
  unfold execDrbgAutoReseed
  repeat' (first
    | (with_reducible refine outs_next ?_)
    | (with_reducible refine ite_outs ?_ ?_)
    | with_reducible assumption
    | (extract_lets +onlyGivenNames _t; revert _t
       first
       | (with_reducible refine let_keep (P := P) ?_ (fun _ _ => ?_))
       | (with_reducible refine let_keep₂ (P := P) ?_ (fun _ _ => ?_))
       | (with_reducible refine let_keep₁ (P := P) ?_ (fun _ _ => ?_))
       | (with_reducible refine let_maybe (P := P) ?_ (fun _ _ => ?_))
       | (with_reducible refine let_function ?_)
       | (with_reducible refine let_outs (P := P) ?_ (fun _ _ => ?_))
       | (with_reducible refine let_any (fun _ => ?_)))
    | with_reducible apply State.passTo_keep W
    | with_reducible apply State.requestReseed_keep W
    | (with_reducible refine ite_keep ?_ ?_)
    | split)

theorem execDrbgReseedDone_keep (W : Whole P) {s : State} (hs : P s) :
    Outs P (execDrbgReseedDone s) := by
  unfold execDrbgReseedDone
  repeat' (first
    | (with_reducible refine outs_next ?_)
    | (with_reducible refine ite_outs ?_ ?_)
    | with_reducible assumption
    | with_reducible apply State.carryOn_keep W.toClosed
    | with_reducible apply State.reseedDrbg_keep W
    | with_reducible apply State.retryRequest_keep W
    | (with_reducible refine ite_keep ?_ ?_)
    | split)

theorem execEntropyHealthFailure_keep (W : Whole P) {s : State} (hs : P s) :
    Outs P (execEntropyHealthFailure s) := by
  unfold execEntropyHealthFailure
  repeat' (first
    | (with_reducible refine outs_next ?_)
    | (with_reducible refine ite_outs ?_ ?_)
    | with_reducible assumption
    | with_reducible apply State.carryOn_keep W.toClosed
    | with_reducible apply State.rngFail_keep W
    | with_reducible apply State.retryRequest_keep W
    | (with_reducible refine ite_keep ?_ ?_)
    | split)

theorem execRngWord_keep (W : Whole P) {s : State} (hs : P s) :
    Outs P (execRngWord s) := by
  unfold execRngWord
  repeat' (first
    | (with_reducible refine outs_next ?_)
    | (with_reducible refine ite_outs ?_ ?_)
    | with_reducible assumption
    | (extract_lets +onlyGivenNames _t; revert _t
       first
       | (with_reducible refine let_keep (P := P) ?_ (fun _ _ => ?_))
       | (with_reducible refine let_keep₂ (P := P) ?_ (fun _ _ => ?_))
       | (with_reducible refine let_keep₁ (P := P) ?_ (fun _ _ => ?_))
       | (with_reducible refine let_maybe (P := P) ?_ (fun _ _ => ?_))
       | (with_reducible refine let_function ?_)
       | (with_reducible refine let_outs (P := P) ?_ (fun _ _ => ?_))
       | (with_reducible refine let_any (fun _ => ?_)))
    | with_reducible apply State.generate_keep W.toClosed
    | (with_reducible refine ite_keep ?_ ?_)
    | split
    | (with_reducible refine of_snd (by with_reducible assumption) ?_)
    | with_reducible refine W.wide rfl ?_)

end Sys2Proof.Machine
end

