-- ==== Sys2Proof/Laws/KeepBootRows.lean ====
section
/-! SUPPORT. Every whole property is kept by the operations of Machine/BootRows.lean.
-/

namespace Sys2Proof.Machine

set_option linter.all false

variable {P : State → Prop}

theorem State.setStage_keep (W : Whole P) {s : State} (k : Nat) (hs : P s) :
    P (State.setStage s k) := by
  unfold State.setStage
  repeat' (first
    | with_reducible assumption
    | with_reducible refine W.wide rfl ?_)

theorem State.failBoot_keep (W : Whole P) {s : State} (code : Nat) (hs : P s) :
    P (State.failBoot s code) := by
  unfold State.failBoot
  repeat' (first
    | with_reducible assumption
    | with_reducible refine W.wide rfl ?_)

theorem execMainPllLock_keep (W : Whole P) {s : State} (link : HostLink) (width : Fin 5) (hs : P s) :
    Outs P (execMainPllLock link width s) := by
  unfold execMainPllLock
  repeat' (first
    | (with_reducible refine outs_next ?_)
    | (with_reducible refine ite_outs ?_ ?_)
    | with_reducible assumption
    | with_reducible apply State.setStage_keep W
    | (with_reducible refine ite_keep ?_ ?_)
    | split
    | with_reducible refine W.wide rfl ?_)

theorem execKnownAnswerTests_keep (W : Whole P) {s : State} (pass : Bool) (identityOk : Bool) (hs : P s) :
    Outs P (execKnownAnswerTests pass identityOk s) := by
  unfold execKnownAnswerTests
  repeat' (first
    | (with_reducible refine outs_next ?_)
    | (with_reducible refine ite_outs ?_ ?_)
    | with_reducible assumption
    | (extract_lets +onlyGivenNames _t; revert _t
       first
       | (with_reducible refine let_keep (P := P) ?_ (fun _ _ => ?_))
       | (with_reducible refine let_keep₂ (P := P) ?_ (fun _ _ => ?_))
       | (with_reducible refine let_keep₁ (P := P) ?_ (fun _ _ => ?_))
       | (with_reducible refine let_maybe (P := P) ?_ (fun _ _ => ?_))
       | (with_reducible refine let_function ?_)
       | (with_reducible refine let_outs (P := P) ?_ (fun _ _ => ?_))
       | (with_reducible refine let_any (fun _ => ?_)))
    | with_reducible apply State.modSec_keep W
    | with_reducible apply State.retryRequest_keep W
    | with_reducible apply State.setStage_keep W
    | with_reducible apply State.failBoot_keep W
    | (with_reducible refine ite_keep ?_ ?_)
    | split)

theorem execMarchTest_keep (W : Whole P) {s : State} (findings : List MarchFinding) (serviceFail : Bool) (hs : P s) :
    Outs P (execMarchTest findings serviceFail s) := by
  unfold execMarchTest
  repeat' (first
    | (with_reducible refine outs_next ?_)
    | (with_reducible refine ite_outs ?_ ?_)
    | with_reducible assumption
    | (extract_lets +onlyGivenNames _t; revert _t
       first
       | (with_reducible refine let_keep (P := P) ?_ (fun _ _ => ?_))
       | (with_reducible refine let_keep₂ (P := P) ?_ (fun _ _ => ?_))
       | (with_reducible refine let_keep₁ (P := P) ?_ (fun _ _ => ?_))
       | (with_reducible refine let_maybe (P := P) ?_ (fun _ _ => ?_))
       | (with_reducible refine let_function ?_)
       | (with_reducible refine let_outs (P := P) ?_ (fun _ _ => ?_))
       | (with_reducible refine let_any (fun _ => ?_)))
    | with_reducible apply State.marchResult_keep W
    | with_reducible apply State.retryRequest_keep W
    | with_reducible apply State.setStage_keep W
    | with_reducible apply State.failBoot_keep W
    | (with_reducible refine foldl_keep₁ (fun _ _ _ => ?_) _ _ ?_) <;> try beta_reduce
    | (with_reducible refine foldl_keep₂ (fun _ _ _ => ?_) _ _ ?_) <;> try beta_reduce
    | (with_reducible refine foldl_keep (fun _ _ _ => ?_) _ _ ?_) <;> try beta_reduce
    | (with_reducible refine ite_keep ?_ ?_)
    | split
    | dsimp only
    | (with_reducible refine State.withFlt_same W _ (.same rfl rfl rfl rfl) rfl rfl ?_)
    | (refine FenceOnly.mk (Grown.mk ?_ ?_ ?_ ?_) rfl rfl rfl rfl rfl rfl rfl rfl rfl rfl <;>
        first | exact fun _ h => h | exact fun _ h => getLsbD_or_of h))

theorem execEntropyStartupTest_keep (W : Whole P) {s : State} (main : BitVec 4096) (fallback : BitVec 4096) (hs : P s) :
    Outs P (execEntropyStartupTest main fallback s) := by
  unfold execEntropyStartupTest
  repeat' (first
    | (with_reducible refine outs_next ?_)
    | (with_reducible refine ite_outs ?_ ?_)
    | with_reducible assumption
    | (extract_lets +onlyGivenNames _t; revert _t
       first
       | (with_reducible refine let_keep (P := P) ?_ (fun _ _ => ?_))
       | (with_reducible refine let_keep₂ (P := P) ?_ (fun _ _ => ?_))
       | (with_reducible refine let_keep₁ (P := P) ?_ (fun _ _ => ?_))
       | (with_reducible refine let_maybe (P := P) ?_ (fun _ _ => ?_))
       | (with_reducible refine let_function ?_)
       | (with_reducible refine let_outs (P := P) ?_ (fun _ _ => ?_))
       | (with_reducible refine let_any (fun _ => ?_)))
    | with_reducible apply State.carryOn_keep W.toClosed
    | with_reducible apply State.modSec_keep W
    | with_reducible apply State.rngFail_keep W
    | with_reducible apply State.setStage_keep W
    | (with_reducible refine ite_keep ?_ ?_)
    | split)

theorem State.instantiate_keep (W : Whole P) {s : State} (hs : P s) :
    P (State.instantiate s) := by
  unfold State.instantiate
  repeat' (first
    | with_reducible assumption
    | (extract_lets +onlyGivenNames _t; revert _t
       first
       | (with_reducible refine let_keep (P := P) ?_ (fun _ _ => ?_))
       | (with_reducible refine let_keep₂ (P := P) ?_ (fun _ _ => ?_))
       | (with_reducible refine let_keep₁ (P := P) ?_ (fun _ _ => ?_))
       | (with_reducible refine let_maybe (P := P) ?_ (fun _ _ => ?_))
       | (with_reducible refine let_function ?_)
       | (with_reducible refine let_outs (P := P) ?_ (fun _ _ => ?_))
       | (with_reducible refine let_any (fun _ => ?_)))
    | with_reducible apply State.generate_keep W.toClosed
    | with_reducible apply State.modSec_keep W
    | with_reducible apply State.seedDrbg_keep W
    | (with_reducible refine ite_keep ?_ ?_)
    | split
    | (with_reducible refine of_snd (by with_reducible assumption) ?_))

theorem State.applySeverities_keep (W : Whole P) {s : State} (l : List (BlockId × Nat × Nat)) (hs : P s) :
    P (State.applySeverities s l) := by
  unfold State.applySeverities
  repeat' (first
    | with_reducible assumption
    | with_reducible apply State.doSetSeverity_keep W
    | (with_reducible refine foldl_keep₁ (fun _ _ _ => ?_) _ _ ?_) <;> try beta_reduce
    | (with_reducible refine foldl_keep₂ (fun _ _ _ => ?_) _ _ ?_) <;> try beta_reduce
    | (with_reducible refine foldl_keep (fun _ _ _ => ?_) _ _ ?_) <;> try beta_reduce
    | split
    | dsimp only
    | (with_reducible refine of_replies (by with_reducible assumption) ?_))

theorem execImageVerification_keep (W : Whole P) {s : State} (i0 : ObjChecks) (i1 : ObjChecks) (c0 : ObjChecks) (c1 : ObjChecks) (cfg : ConfigBlock) (hs : P s) :
    Outs P (execImageVerification i0 i1 c0 c1 cfg s) := by
  unfold execImageVerification
  repeat' (first
    | (with_reducible refine outs_next ?_)
    | (with_reducible refine ite_outs ?_ ?_)
    | with_reducible assumption
    | (extract_lets +onlyGivenNames _t; revert _t
       first
       | (with_reducible refine let_keep (P := P) ?_ (fun _ _ => ?_))
       | (with_reducible refine let_keep₂ (P := P) ?_ (fun _ _ => ?_))
       | (with_reducible refine let_keep₁ (P := P) ?_ (fun _ _ => ?_))
       | (with_reducible refine let_maybe (P := P) ?_ (fun _ _ => ?_))
       | (with_reducible refine let_function ?_)
       | (with_reducible refine let_outs (P := P) ?_ (fun _ _ => ?_))
       | (with_reducible refine let_any (fun _ => ?_)))
    | with_reducible apply State.modLink_keep W.toClosed
    | with_reducible apply State.startTraining_keep W.toClosed
    | with_reducible apply State.carryOn_keep W.toClosed
    | with_reducible apply State.modSec_keep W
    | with_reducible apply State.retryRequest_keep W
    | with_reducible apply State.setStage_keep W
    | with_reducible apply State.failBoot_keep W
    | with_reducible apply State.instantiate_keep W
    | with_reducible apply State.applySeverities_keep W
    | (with_reducible refine foldl_keep₁ (fun _ _ _ => ?_) _ _ ?_) <;> try beta_reduce
    | (with_reducible refine foldl_keep₂ (fun _ _ _ => ?_) _ _ ?_) <;> try beta_reduce
    | (with_reducible refine foldl_keep (fun _ _ _ => ?_) _ _ ?_) <;> try beta_reduce
    | (with_reducible refine ite_keep ?_ ?_)
    | split
    | dsimp only)

theorem execGddr7Training_keep (W : Whole P) {s : State} (rates : List (Option (Fin 3))) (hs : P s) :
    Outs P (execGddr7Training rates s) := by
  unfold execGddr7Training
  repeat' (first
    | (with_reducible refine outs_next ?_)
    | (with_reducible refine ite_outs ?_ ?_)
    | with_reducible assumption
    | (extract_lets +onlyGivenNames _t; revert _t
       first
       | (with_reducible refine let_keep (P := P) ?_ (fun _ _ => ?_))
       | (with_reducible refine let_keep₂ (P := P) ?_ (fun _ _ => ?_))
       | (with_reducible refine let_keep₁ (P := P) ?_ (fun _ _ => ?_))
       | (with_reducible refine let_maybe (P := P) ?_ (fun _ _ => ?_))
       | (with_reducible refine let_function ?_)
       | (with_reducible refine let_outs (P := P) ?_ (fun _ _ => ?_))
       | (with_reducible refine let_any (fun _ => ?_)))
    | with_reducible apply State.modMem_keep W.toClosed
    | with_reducible apply State.raiseMandatory_keep W.toClosed
    | with_reducible apply State.carryOn_keep W.toClosed
    | with_reducible apply State.setStage_keep W
    | (with_reducible refine foldl_keep₁ (fun _ _ _ => ?_) _ _ ?_) <;> try beta_reduce
    | (with_reducible refine foldl_keep₂ (fun _ _ _ => ?_) _ _ ?_) <;> try beta_reduce
    | (with_reducible refine foldl_keep (fun _ _ _ => ?_) _ _ ?_) <;> try beta_reduce
    | (with_reducible refine ite_keep ?_ ?_)
    | split
    | dsimp only
    | with_reducible refine W.wide rfl ?_
    | with_reducible refine C.cxlPerst _ ?_)

theorem State.enumerate_keep (W : Whole P) {s : State} (p : Nat) (d : CxlDevice) (hs : P s) :
    P (State.enumerate s p d) := by
  unfold State.enumerate
  repeat' (first
    | with_reducible assumption
    | (extract_lets +onlyGivenNames _t; revert _t
       first
       | (with_reducible refine let_keep (P := P) ?_ (fun _ _ => ?_))
       | (with_reducible refine let_keep₂ (P := P) ?_ (fun _ _ => ?_))
       | (with_reducible refine let_keep₁ (P := P) ?_ (fun _ _ => ?_))
       | (with_reducible refine let_maybe (P := P) ?_ (fun _ _ => ?_))
       | (with_reducible refine let_function ?_)
       | (with_reducible refine let_outs (P := P) ?_ (fun _ _ => ?_))
       | (with_reducible refine let_any (fun _ => ?_)))
    | with_reducible apply State.modCxl_keep W.toClosed
    | with_reducible apply State.generate_keep W.toClosed
    | with_reducible apply State.wrapKey_keep W.toClosed
    | with_reducible apply State.raiseMandatory_keep W.toClosed
    | with_reducible apply State.modSec_keep W
    | (with_reducible refine ite_keep ?_ ?_)
    | split
    | (with_reducible refine of_snd (by with_reducible assumption) ?_))

theorem execCxlEnumeration_keep (W : Whole P) {s : State} (p0 : CxlDevice) (p1 : CxlDevice) (hs : P s) :
    Outs P (execCxlEnumeration p0 p1 s) := by
  unfold execCxlEnumeration
  repeat' (first
    | (with_reducible refine outs_next ?_)
    | (with_reducible refine ite_outs ?_ ?_)
    | with_reducible assumption
    | (extract_lets +onlyGivenNames _t; revert _t
       first
       | (with_reducible refine let_keep (P := P) ?_ (fun _ _ => ?_))
       | (with_reducible refine let_keep₂ (P := P) ?_ (fun _ _ => ?_))
       | (with_reducible refine let_keep₁ (P := P) ?_ (fun _ _ => ?_))
       | (with_reducible refine let_maybe (P := P) ?_ (fun _ _ => ?_))
       | (with_reducible refine let_function ?_)
       | (with_reducible refine let_outs (P := P) ?_ (fun _ _ => ?_))
       | (with_reducible refine let_any (fun _ => ?_)))
    | with_reducible apply State.carryOn_keep W.toClosed
    | with_reducible apply State.modSec_keep W
    | with_reducible apply State.enumerate_keep W
    | (with_reducible refine ite_keep ?_ ?_)
    | split
    | with_reducible refine W.wide rfl ?_)

end Sys2Proof.Machine
end

