-- ==== Sys2Proof/Laws/KeepLinks.lean ====
section
/-! SUPPORT. Every whole property is kept by the operations of Machine/Links.lean.
-/

namespace Sys2Proof.Machine

set_option linter.all false

variable {P : State → Prop}

theorem State.forwardFlit_keep (W : Whole P) {s : State} (l : Nat) (h : FlitHdr) (kind : Nat) (aux : Nat) (payload : List Byte) (hs : P s) :
    P (State.forwardFlit s l h kind aux payload) := by
  unfold State.forwardFlit
  repeat' (first
    | with_reducible assumption
    | with_reducible apply State.dropFlit_keep W.toClosed
    | with_reducible apply State.routeFlit_keep W.toClosed
    | (with_reducible refine ite_keep ?_ ?_)
    | split)

theorem State.receive_keep (W : Whole P) {s : State} (l : Nat) (h : FlitHdr) (kind : Nat) (aux : Nat) (payload : List Byte) (deliver : State → State) (hf : ∀ y0, P y0 → P (deliver y0)) (hs : P s) :
    P (State.receive s l h kind aux payload deliver) := by
  unfold State.receive
  repeat' (first
    | with_reducible assumption
    | (extract_lets +onlyGivenNames _t; revert _t
       first
       | (with_reducible refine let_keep (P := P) ?_ (fun _ _ => ?_))
       | (with_reducible refine let_keep₂ (P := P) ?_ (fun _ _ => ?_))
       | (with_reducible refine let_keep₁ (P := P) ?_ (fun _ _ => ?_))
       | (with_reducible refine let_maybe (P := P) ?_ (fun _ _ => ?_))
       | (with_reducible refine let_function ?_)
       | (with_reducible refine let_outs (P := P) ?_ (fun _ _ => ?_))
       | (with_reducible refine let_any (fun _ => ?_)))
    | with_reducible apply State.modLink_keep W.toClosed
    | with_reducible apply State.pumpLink_keep W.toClosed
    | with_reducible apply State.carryOn_keep W.toClosed
    | with_reducible apply State.forwardFlit_keep W
    | with_reducible apply hf
    | (with_reducible refine ite_keep ?_ ?_)
    | split)

theorem State.sendCompletion_keep (W : Whole P) {s : State} (h : FlitHdr) (tag : Nat) (status : Nat) (offset : Nat) (data : List Byte) (hs : P s) :
    P (State.sendCompletion s h tag status offset data) := by
  unfold State.sendCompletion
  repeat' (first
    | with_reducible assumption
    | with_reducible apply State.sendTo_keep W.toClosed)

theorem State.linkAtadd_keep (W : Whole P) {s : State} (h : FlitHdr) (a : Nat) (wide : Bool) (tag : Nat) (value : BitVec 64) (hs : P s) :
    P (State.linkAtadd s h a wide tag value) := by
  unfold State.linkAtadd
  repeat' (first
    | with_reducible assumption
    | (extract_lets +onlyGivenNames _t; revert _t
       first
       | (with_reducible refine let_keep (P := P) ?_ (fun _ _ => ?_))
       | (with_reducible refine let_keep₂ (P := P) ?_ (fun _ _ => ?_))
       | (with_reducible refine let_keep₁ (P := P) ?_ (fun _ _ => ?_))
       | (with_reducible refine let_maybe (P := P) ?_ (fun _ _ => ?_))
       | (with_reducible refine let_function ?_)
       | (with_reducible refine let_outs (P := P) ?_ (fun _ _ => ?_))
       | (with_reducible refine let_any (fun _ => ?_)))
    | with_reducible apply State.noteRequest_keep W.toClosed
    | with_reducible apply State.atomicAt_keep W.toClosed
    | with_reducible apply State.sendCompletion_keep W
    | (with_reducible refine ite_keep ?_ ?_)
    | split
    | (with_reducible refine of_snd (by with_reducible assumption) ?_))

theorem State.linkRead_keep (W : Whole P) {s : State} (h : FlitHdr) (a : Nat) (n : Nat) (tag : Nat) (hs : P s) :
    P (State.linkRead s h a n tag) := by
  unfold State.linkRead
  repeat' (first
    | with_reducible assumption
    | (extract_lets +onlyGivenNames _t; revert _t
       first
       | (with_reducible refine let_keep (P := P) ?_ (fun _ _ => ?_))
       | (with_reducible refine let_keep₂ (P := P) ?_ (fun _ _ => ?_))
       | (with_reducible refine let_keep₁ (P := P) ?_ (fun _ _ => ?_))
       | (with_reducible refine let_maybe (P := P) ?_ (fun _ _ => ?_))
       | (with_reducible refine let_function ?_)
       | (with_reducible refine let_outs (P := P) ?_ (fun _ _ => ?_))
       | (with_reducible refine let_any (fun _ => ?_)))
    | with_reducible apply State.noteRequest_keep W.toClosed
    | with_reducible apply State.sendCompletion_keep W
    | (with_reducible refine foldl_keep₁ (fun _ _ _ => ?_) _ _ ?_) <;> try beta_reduce
    | (with_reducible refine foldl_keep₂ (fun _ _ _ => ?_) _ _ ?_) <;> try beta_reduce
    | (with_reducible refine foldl_keep (fun _ _ _ => ?_) _ _ ?_) <;> try beta_reduce
    | dsimp only)

theorem State.linkWrite_keep (W : Whole P) {s : State} (h : FlitHdr) (a : Nat) (tag : Nat) (reply : Bool) (data : List Byte) (hs : P s) :
    P (State.linkWrite s h a tag reply data) := by
  unfold State.linkWrite
  repeat' (first
    | with_reducible assumption
    | (extract_lets +onlyGivenNames _t; revert _t
       first
       | (with_reducible refine let_keep (P := P) ?_ (fun _ _ => ?_))
       | (with_reducible refine let_keep₂ (P := P) ?_ (fun _ _ => ?_))
       | (with_reducible refine let_keep₁ (P := P) ?_ (fun _ _ => ?_))
       | (with_reducible refine let_maybe (P := P) ?_ (fun _ _ => ?_))
       | (with_reducible refine let_function ?_)
       | (with_reducible refine let_outs (P := P) ?_ (fun _ _ => ?_))
       | (with_reducible refine let_any (fun _ => ?_)))
    | with_reducible apply State.writeBytes_keep W.toClosed
    | with_reducible apply State.noteSettle_keep W.toClosed
    | with_reducible apply State.sendCompletion_keep W
    | (with_reducible refine ite_keep ?_ ?_)
    | split)

theorem State.linkMinIndex_keep (W : Whole P) {s : State} (h : FlitHdr) (a : Nat) (least : Bool) (tag : Nat) (e : RedEntry) (hs : P s) :
    P (State.linkMinIndex s h a least tag e) := by
  unfold State.linkMinIndex
  repeat' (first
    | with_reducible assumption
    | (extract_lets +onlyGivenNames _t; revert _t
       first
       | (with_reducible refine let_keep (P := P) ?_ (fun _ _ => ?_))
       | (with_reducible refine let_keep₂ (P := P) ?_ (fun _ _ => ?_))
       | (with_reducible refine let_keep₁ (P := P) ?_ (fun _ _ => ?_))
       | (with_reducible refine let_maybe (P := P) ?_ (fun _ _ => ?_))
       | (with_reducible refine let_function ?_)
       | (with_reducible refine let_outs (P := P) ?_ (fun _ _ => ?_))
       | (with_reducible refine let_any (fun _ => ?_)))
    | with_reducible apply State.noteRequest_keep W.toClosed
    | with_reducible apply State.writeBytes_keep W.toClosed
    | with_reducible apply State.sendCompletion_keep W
    | (with_reducible refine ite_keep ?_ ?_)
    | split)

theorem State.linkIncs_keep (W : Whole P) {s : State} (ef : BitVec 16) (l : List FieldIncEntry) (hs : P s) :
    P (State.linkIncs s ef l) := by
  unfold State.linkIncs
  repeat' (first
    | with_reducible assumption
    | (extract_lets +onlyGivenNames _t; revert _t
       first
       | (with_reducible refine let_keep (P := P) ?_ (fun _ _ => ?_))
       | (with_reducible refine let_keep₂ (P := P) ?_ (fun _ _ => ?_))
       | (with_reducible refine let_keep₁ (P := P) ?_ (fun _ _ => ?_))
       | (with_reducible refine let_maybe (P := P) ?_ (fun _ _ => ?_))
       | (with_reducible refine let_function ?_)
       | (with_reducible refine let_outs (P := P) ?_ (fun _ _ => ?_))
       | (with_reducible refine let_any (fun _ => ?_)))
    | with_reducible apply State.modEng_keep W.toClosed
    | (with_reducible refine foldl_keep₁ (fun _ _ _ => ?_) _ _ ?_) <;> try beta_reduce
    | (with_reducible refine foldl_keep₂ (fun _ _ _ => ?_) _ _ ?_) <;> try beta_reduce
    | (with_reducible refine foldl_keep (fun _ _ _ => ?_) _ _ ?_) <;> try beta_reduce
    | (with_reducible refine ite_keep ?_ ?_)
    | split
    | dsimp only)

theorem State.linkCommand_keep (W : Whole P) {s : State} (l : Nat) (h : FlitHdr) (c : Nat) (tag : Nat) (packet : List Byte) (hs : P s) :
    P (State.linkCommand s l h c tag packet) := by
  unfold State.linkCommand
  repeat' (first
    | with_reducible assumption
    | (extract_lets +onlyGivenNames _t; revert _t
       first
       | (with_reducible refine let_keep (P := P) ?_ (fun _ _ => ?_))
       | (with_reducible refine let_keep₂ (P := P) ?_ (fun _ _ => ?_))
       | (with_reducible refine let_keep₁ (P := P) ?_ (fun _ _ => ?_))
       | (with_reducible refine let_maybe (P := P) ?_ (fun _ _ => ?_))
       | (with_reducible refine let_function ?_)
       | (with_reducible refine let_outs (P := P) ?_ (fun _ _ => ?_))
       | (with_reducible refine let_any (fun _ => ?_)))
    | with_reducible apply State.writeBytes_keep W.toClosed
    | with_reducible apply State.doorbell_keep W
    | with_reducible apply State.sendCompletion_keep W
    | (with_reducible refine ite_keep ?_ ?_)
    | split)

theorem State.request_keep (W : Whole P) {s : State} (l : Nat) (h : FlitHdr) (a : Nat) (n : Nat) (kind : Nat) (payload : List Byte) (deliver : State → State) (hf : ∀ y0, P y0 → P (deliver y0)) (hs : P s) :
    P (State.request s l h a n kind payload deliver) := by
  unfold State.request
  repeat' (first
    | with_reducible assumption
    | with_reducible apply State.receive_keep W
    | with_reducible apply hf
    | (with_reducible intro _) <;> try beta_reduce
    | (with_reducible refine ite_keep ?_ ?_)
    | split)

theorem State.message_keep (W : Whole P) {s : State} (l : Nat) (h : FlitHdr) (stops : List Nat) (kind : Nat) (payload : List Byte) (deliver : State → State) (hf : ∀ y0, P y0 → P (deliver y0)) (hs : P s) :
    P (State.message s l h stops kind payload deliver) := by
  unfold State.message
  repeat' (first
    | with_reducible assumption
    | with_reducible apply State.receive_keep W
    | with_reducible apply hf
    | (with_reducible intro _) <;> try beta_reduce
    | (with_reducible refine ite_keep ?_ ?_)
    | split)

theorem execFlipBatch_keep (W : Whole P) {s : State} (l : Fin 4) (h : FlitHdr) (b : FlipBatch) (hs : P s) :
    Outs P (execFlipBatch l h b s) := by
  unfold execFlipBatch
  repeat' (first
    | (with_reducible refine outs_next ?_)
    | with_reducible assumption
    | with_reducible apply State.takeBatch_keep W.toClosed
    | with_reducible apply State.receive_keep W
    | (with_reducible intro _) <;> try beta_reduce)

theorem execFieldInc_keep (W : Whole P) {s : State} (l : Fin 4) (h : FlitHdr) (ef : BitVec 16) (entries : List FieldIncEntry) (hs : P s) :
    Outs P (execFieldInc l h ef entries s) := by
  unfold execFieldInc
  repeat' (first
    | (with_reducible refine outs_next ?_)
    | with_reducible assumption
    | with_reducible apply State.linkIncs_keep W
    | with_reducible apply State.message_keep W
    | (with_reducible intro _) <;> try beta_reduce)

theorem execLinkAtadd_keep (W : Whole P) {s : State} (l : Fin 4) (h : FlitHdr) (addr : BitVec 48) (wide : Bool) (tag : BitVec 16) (value : BitVec 64) (hs : P s) :
    Outs P (execLinkAtadd l h addr wide tag value s) := by
  unfold execLinkAtadd
  repeat' (first
    | (with_reducible refine outs_next ?_)
    | with_reducible assumption
    | with_reducible apply State.linkAtadd_keep W
    | with_reducible apply State.request_keep W
    | (with_reducible intro _) <;> try beta_reduce)

theorem execDmaRd_keep (W : Whole P) {s : State} (l : Fin 4) (h : FlitHdr) (addr : BitVec 64) (length : BitVec 16) (tag : BitVec 16) (hs : P s) :
    Outs P (execDmaRd l h addr length tag s) := by
  unfold execDmaRd
  repeat' (first
    | (with_reducible refine outs_next ?_)
    | with_reducible assumption
    | with_reducible apply State.linkRead_keep W
    | with_reducible apply State.request_keep W
    | (with_reducible intro _) <;> try beta_reduce)

theorem execDmaWr_keep (W : Whole P) {s : State} (l : Fin 4) (h : FlitHdr) (addr : BitVec 64) (tag : BitVec 16) (reply : Bool) (data : List Byte) (hs : P s) :
    Outs P (execDmaWr l h addr tag reply data s) := by
  unfold execDmaWr
  repeat' (first
    | (with_reducible refine outs_next ?_)
    | with_reducible assumption
    | with_reducible apply State.linkWrite_keep W
    | with_reducible apply State.request_keep W
    | (with_reducible intro _) <;> try beta_reduce)

theorem execCompletion_keep (W : Whole P) {s : State} (l : Fin 4) (h : FlitHdr) (tag : BitVec 16) (status : BitVec 8) (offset : BitVec 64) (data : List Byte) (hs : P s) :
    Outs P (execCompletion l h tag status offset data s) := by
  unfold execCompletion
  repeat' (first
    | (with_reducible refine outs_next ?_)
    | with_reducible assumption
    | with_reducible apply State.receive_keep W
    | (with_reducible intro _) <;> try beta_reduce
    | (simp only [id_eq]; with_reducible assumption))

theorem execEventSignal_keep (W : Whole P) {s : State} (l : Fin 4) (h : FlitHdr) (e : BitVec 16) (add : Bool) (error : Bool) (value : BitVec 64) (hs : P s) :
    Outs P (execEventSignal l h e add error value s) := by
  unfold execEventSignal
  repeat' (first
    | (with_reducible refine outs_next ?_)
    | with_reducible assumption
    | with_reducible apply State.eventOp_keep W.toClosed
    | with_reducible apply State.message_keep W
    | (with_reducible intro _) <;> try beta_reduce)

theorem execFwdCmd_keep (W : Whole P) {s : State} (l : Fin 4) (h : FlitHdr) (c : Fin 1024) (tag : BitVec 16) (packet : List Byte) (hs : P s) :
    Outs P (execFwdCmd l h c tag packet s) := by
  unfold execFwdCmd
  repeat' (first
    | (with_reducible refine outs_next ?_)
    | with_reducible assumption
    | with_reducible apply State.linkCommand_keep W
    | with_reducible apply State.message_keep W
    | (with_reducible intro _) <;> try beta_reduce)

theorem State.marker_keep (W : Whole P) {s : State} (l : Nat) (h : FlitHdr) (aux : Nat) (m : Marker) (hs : P s) :
    P (State.marker s l h aux m) := by
  unfold State.marker
  repeat' (first
    | with_reducible assumption
    | with_reducible apply State.takeMarker_keep W.toClosed
    | with_reducible apply State.receive_keep W
    | (with_reducible intro _) <;> try beta_reduce)

theorem execEpochMarker_keep (W : Whole P) {s : State} (l : Fin 4) (h : FlitHdr) (m : Marker) (hs : P s) :
    Outs P (execEpochMarker l h m s) := by
  unfold execEpochMarker
  repeat' (first
    | (with_reducible refine outs_next ?_)
    | with_reducible assumption
    | with_reducible apply State.marker_keep W)

theorem execSweepEndMarker_keep (W : Whole P) {s : State} (l : Fin 4) (h : FlitHdr) (m : Marker) (hs : P s) :
    Outs P (execSweepEndMarker l h m s) := by
  unfold execSweepEndMarker
  repeat' (first
    | (with_reducible refine outs_next ?_)
    | with_reducible assumption
    | with_reducible apply State.marker_keep W)

theorem execUndoEndMarker_keep (W : Whole P) {s : State} (l : Fin 4) (h : FlitHdr) (m : Marker) (hs : P s) :
    Outs P (execUndoEndMarker l h m s) := by
  unfold execUndoEndMarker
  repeat' (first
    | (with_reducible refine outs_next ?_)
    | with_reducible assumption
    | with_reducible apply State.marker_keep W)

theorem execReadyMarker_keep (W : Whole P) {s : State} (l : Fin 4) (h : FlitHdr) (m : Marker) (hs : P s) :
    Outs P (execReadyMarker l h m s) := by
  unfold execReadyMarker
  repeat' (first
    | (with_reducible refine outs_next ?_)
    | with_reducible assumption
    | with_reducible apply State.marker_keep W)

theorem execRunStartMarker_keep (W : Whole P) {s : State} (l : Fin 4) (h : FlitHdr) (m : Marker) (hs : P s) :
    Outs P (execRunStartMarker l h m s) := by
  unfold execRunStartMarker
  repeat' (first
    | (with_reducible refine outs_next ?_)
    | with_reducible assumption
    | with_reducible apply State.marker_keep W)

theorem execStartMarker_keep (W : Whole P) {s : State} (l : Fin 4) (h : FlitHdr) (m : Marker) (hs : P s) :
    Outs P (execStartMarker l h m s) := by
  unfold execStartMarker
  repeat' (first
    | (with_reducible refine outs_next ?_)
    | with_reducible assumption
    | with_reducible apply State.marker_keep W)

theorem execSettleUpMarker_keep (W : Whole P) {s : State} (l : Fin 4) (h : FlitHdr) (m : Marker) (hs : P s) :
    Outs P (execSettleUpMarker l h m s) := by
  unfold execSettleUpMarker
  repeat' (first
    | (with_reducible refine outs_next ?_)
    | with_reducible assumption
    | with_reducible apply State.marker_keep W)

theorem execSettleDoneMarker_keep (W : Whole P) {s : State} (l : Fin 4) (h : FlitHdr) (m : Marker) (hs : P s) :
    Outs P (execSettleDoneMarker l h m s) := by
  unfold execSettleDoneMarker
  repeat' (first
    | (with_reducible refine outs_next ?_)
    | with_reducible assumption
    | with_reducible apply State.marker_keep W)

theorem execMinIndex_keep (W : Whole P) {s : State} (l : Fin 4) (h : FlitHdr) (addr : BitVec 64) (least : Bool) (tag : BitVec 16) (entry : RedEntry) (hs : P s) :
    Outs P (execMinIndex l h addr least tag entry s) := by
  unfold execMinIndex
  repeat' (first
    | (with_reducible refine outs_next ?_)
    | with_reducible assumption
    | with_reducible apply State.linkMinIndex_keep W
    | with_reducible apply State.request_keep W
    | (with_reducible intro _) <;> try beta_reduce)

theorem execParam_keep (W : Whole P) {s : State} (l : Fin 4) (h : FlitHdr) (module : BitVec 12) (widthCap : BitVec 8) (enc : Bool) (hs : P s) :
    Outs P (execParam l h module widthCap enc s) := by
  unfold execParam
  repeat' (first
    | (with_reducible refine outs_next ?_)
    | (with_reducible refine ite_outs ?_ ?_)
    | with_reducible assumption
    | with_reducible apply State.modLink_keep W.toClosed
    | with_reducible apply State.receive_keep W
    | (with_reducible intro _) <;> try beta_reduce
    | (with_reducible refine ite_keep ?_ ?_)
    | split)

theorem execKeySwitch_keep (W : Whole P) {s : State} (l : Fin 4) (h : FlitHdr) (slot : Fin 2) (count : BitVec 64) (hs : P s) :
    Outs P (execKeySwitch l h slot count s) := by
  unfold execKeySwitch
  repeat' (first
    | (with_reducible refine outs_next ?_)
    | (with_reducible refine ite_outs ?_ ?_)
    | with_reducible assumption
    | with_reducible apply State.modLink_keep W.toClosed
    | with_reducible apply State.receive_keep W
    | (with_reducible intro _) <;> try beta_reduce
    | (with_reducible refine ite_keep ?_ ?_)
    | split)

theorem State.exitLost_keep (W : Whole P) {s : State} (l : Nat) (hs : P s) :
    P (State.exitLost s l) := by
  unfold State.exitLost
  repeat' (first
    | with_reducible assumption
    | with_reducible apply State.waitFails_keep W.toClosed
    | (with_reducible refine foldl_keep₁ (fun _ _ _ => ?_) _ _ ?_) <;> try beta_reduce
    | (with_reducible refine foldl_keep₂ (fun _ _ _ => ?_) _ _ ?_) <;> try beta_reduce
    | (with_reducible refine foldl_keep (fun _ _ _ => ?_) _ _ ?_) <;> try beta_reduce
    | (with_reducible refine ite_keep ?_ ?_)
    | split
    | dsimp only)

theorem execDown_keep (W : Whole P) {s : State} (l : Fin 4) (h : FlitHdr) (cause : BitVec 8) (hs : P s) :
    Outs P (execDown l h cause s) := by
  unfold execDown
  repeat' (first
    | (with_reducible refine outs_next ?_)
    | with_reducible assumption
    | (extract_lets +onlyGivenNames _t; revert _t
       first
       | (with_reducible refine let_keep (P := P) ?_ (fun _ _ => ?_))
       | (with_reducible refine let_keep₂ (P := P) ?_ (fun _ _ => ?_))
       | (with_reducible refine let_keep₁ (P := P) ?_ (fun _ _ => ?_))
       | (with_reducible refine let_maybe (P := P) ?_ (fun _ _ => ?_))
       | (with_reducible refine let_function ?_)
       | (with_reducible refine let_outs (P := P) ?_ (fun _ _ => ?_))
       | (with_reducible refine let_any (fun _ => ?_)))
    | with_reducible apply State.modLink_keep W.toClosed
    | with_reducible apply State.receive_keep W
    | with_reducible apply State.exitLost_keep W
    | (with_reducible intro _) <;> try beta_reduce)

theorem execWidth_keep (W : Whole P) {s : State} (l : Fin 4) (h : FlitHdr) (code : BitVec 8) (lanes : BitVec 8) (hs : P s) :
    Outs P (execWidth l h code lanes s) := by
  unfold execWidth
  repeat' (first
    | (with_reducible refine outs_next ?_)
    | with_reducible assumption
    | with_reducible apply State.retrainTo_keep W.toClosed
    | with_reducible apply State.receive_keep W
    | (with_reducible intro _) <;> try beta_reduce)

theorem execRetrain_keep (W : Whole P) {s : State} (l : Fin 4) (h : FlitHdr) (hs : P s) :
    Outs P (execRetrain l h s) := by
  unfold execRetrain
  repeat' (first
    | (with_reducible refine outs_next ?_)
    | with_reducible assumption
    | with_reducible apply State.retrainTo_keep W.toClosed
    | with_reducible apply State.receive_keep W
    | (with_reducible intro _) <;> try beta_reduce)

theorem execPing_keep (W : Whole P) {s : State} (l : Fin 4) (h : FlitHdr) (time : BitVec 64) (hs : P s) :
    Outs P (execPing l h time s) := by
  unfold execPing
  repeat' (first
    | (with_reducible refine outs_next ?_)
    | with_reducible assumption
    | with_reducible apply State.sendNeighbour_keep W.toClosed
    | with_reducible apply State.receive_keep W
    | (with_reducible intro _) <;> try beta_reduce)

theorem execPong_keep (W : Whole P) {s : State} (l : Fin 4) (h : FlitHdr) (time : BitVec 64) (hs : P s) :
    Outs P (execPong l h time s) := by
  unfold execPong
  repeat' (first
    | (with_reducible refine outs_next ?_)
    | with_reducible assumption
    | with_reducible apply State.receive_keep W
    | (with_reducible intro _) <;> try beta_reduce
    | (simp only [id_eq]; with_reducible assumption))

theorem execBadKind_keep (W : Whole P) {s : State} (l : Fin 4) (h : FlitHdr) (hs : P s) :
    Outs P (execBadKind l h s) := by
  unfold execBadKind
  repeat' (first
    | (with_reducible refine outs_next ?_)
    | with_reducible assumption
    | with_reducible apply State.modLink_keep W.toClosed
    | with_reducible apply State.raise_keep W.toClosed
    | with_reducible apply State.receive_keep W
    | (with_reducible intro _) <;> try beta_reduce)

theorem execFlitForward_keep (W : Whole P) {s : State} (l : Fin 4) (h : FlitHdr) (kind : BitVec 4) (aux : BitVec 8) (payload : List Byte) (hs : P s) :
    Outs P (execFlitForward l h kind aux payload s) := by
  unfold execFlitForward
  repeat' (first
    | (with_reducible refine outs_next ?_)
    | (with_reducible refine ite_outs ?_ ?_)
    | with_reducible assumption
    | with_reducible apply State.receive_keep W
    | (with_reducible intro _) <;> try beta_reduce
    | (with_reducible refine ite_keep ?_ ?_)
    | split
    | (simp only [id_eq]; with_reducible assumption))

theorem execFlitDiscard_keep (W : Whole P) {s : State} (l : Fin 4) (h : FlitHdr) (tagFail : Bool) (uncorrectable : Bool) (hs : P s) :
    Outs P (execFlitDiscard l h tagFail uncorrectable s) := by
  unfold execFlitDiscard
  repeat' (first
    | (with_reducible refine outs_next ?_)
    | (with_reducible refine ite_outs ?_ ?_)
    | with_reducible assumption
    | (extract_lets +onlyGivenNames _t; revert _t
       first
       | (with_reducible refine let_keep (P := P) ?_ (fun _ _ => ?_))
       | (with_reducible refine let_keep₂ (P := P) ?_ (fun _ _ => ?_))
       | (with_reducible refine let_keep₁ (P := P) ?_ (fun _ _ => ?_))
       | (with_reducible refine let_maybe (P := P) ?_ (fun _ _ => ?_))
       | (with_reducible refine let_function ?_)
       | (with_reducible refine let_outs (P := P) ?_ (fun _ _ => ?_))
       | (with_reducible refine let_any (fun _ => ?_)))
    | with_reducible apply State.modLink_keep W.toClosed
    | with_reducible apply State.takeDown_keep W.toClosed
    | with_reducible apply State.raise_keep W.toClosed
    | with_reducible apply State.carryOn_keep W.toClosed
    | (with_reducible refine ite_keep ?_ ?_)
    | split)

theorem execIdleFlit_keep (W : Whole P) {s : State} (l : Fin 4) (h : FlitHdr) (hs : P s) :
    Outs P (execIdleFlit l h s) := by
  unfold execIdleFlit
  repeat' (first
    | (with_reducible refine outs_next ?_)
    | (with_reducible refine ite_outs ?_ ?_)
    | with_reducible assumption
    | (extract_lets +onlyGivenNames _t; revert _t
       first
       | (with_reducible refine let_keep (P := P) ?_ (fun _ _ => ?_))
       | (with_reducible refine let_keep₂ (P := P) ?_ (fun _ _ => ?_))
       | (with_reducible refine let_keep₁ (P := P) ?_ (fun _ _ => ?_))
       | (with_reducible refine let_maybe (P := P) ?_ (fun _ _ => ?_))
       | (with_reducible refine let_function ?_)
       | (with_reducible refine let_outs (P := P) ?_ (fun _ _ => ?_))
       | (with_reducible refine let_any (fun _ => ?_)))
    | with_reducible apply State.modLink_keep W.toClosed
    | with_reducible apply State.pumpLink_keep W.toClosed
    | (with_reducible refine ite_keep ?_ ?_)
    | split)

theorem execReplayTimeout_keep (W : Whole P) {s : State} (l : Fin 4) (hs : P s) :
    Outs P (execReplayTimeout l s) := by
  unfold execReplayTimeout
  repeat' (first
    | (with_reducible refine outs_next ?_)
    | (with_reducible refine ite_outs ?_ ?_)
    | with_reducible assumption
    | (extract_lets +onlyGivenNames _t; revert _t
       first
       | (with_reducible refine let_keep (P := P) ?_ (fun _ _ => ?_))
       | (with_reducible refine let_keep₂ (P := P) ?_ (fun _ _ => ?_))
       | (with_reducible refine let_keep₁ (P := P) ?_ (fun _ _ => ?_))
       | (with_reducible refine let_maybe (P := P) ?_ (fun _ _ => ?_))
       | (with_reducible refine let_function ?_)
       | (with_reducible refine let_outs (P := P) ?_ (fun _ _ => ?_))
       | (with_reducible refine let_any (fun _ => ?_)))
    | with_reducible apply State.modLink_keep W.toClosed
    | with_reducible apply State.pumpLink_keep W.toClosed
    | with_reducible apply State.passTo_keep W
    | (with_reducible refine ite_keep ?_ ?_)
    | split)

theorem execReplayLimit_keep (W : Whole P) {s : State} (l : Fin 4) (hs : P s) :
    Outs P (execReplayLimit l s) := by
  unfold execReplayLimit
  repeat' (first
    | (with_reducible refine outs_next ?_)
    | (with_reducible refine ite_outs ?_ ?_)
    | with_reducible assumption
    | (extract_lets +onlyGivenNames _t; revert _t
       first
       | (with_reducible refine let_keep (P := P) ?_ (fun _ _ => ?_))
       | (with_reducible refine let_keep₂ (P := P) ?_ (fun _ _ => ?_))
       | (with_reducible refine let_keep₁ (P := P) ?_ (fun _ _ => ?_))
       | (with_reducible refine let_maybe (P := P) ?_ (fun _ _ => ?_))
       | (with_reducible refine let_function ?_)
       | (with_reducible refine let_outs (P := P) ?_ (fun _ _ => ?_))
       | (with_reducible refine let_any (fun _ => ?_)))
    | with_reducible apply State.retrainTo_keep W.toClosed
    | with_reducible apply State.raise_keep W.toClosed
    | with_reducible apply State.carryOn_keep W.toClosed
    | (with_reducible refine ite_keep ?_ ?_)
    | split)

theorem State.activate_keep (W : Whole P) {s : State} (l : Nat) (hs : P s) :
    P (State.activate s l) := by
  unfold State.activate
  repeat' (first
    | with_reducible assumption
    | (extract_lets +onlyGivenNames _t; revert _t
       first
       | (with_reducible refine let_keep (P := P) ?_ (fun _ _ => ?_))
       | (with_reducible refine let_keep₂ (P := P) ?_ (fun _ _ => ?_))
       | (with_reducible refine let_keep₁ (P := P) ?_ (fun _ _ => ?_))
       | (with_reducible refine let_maybe (P := P) ?_ (fun _ _ => ?_))
       | (with_reducible refine let_function ?_)
       | (with_reducible refine let_outs (P := P) ?_ (fun _ _ => ?_))
       | (with_reducible refine let_any (fun _ => ?_)))
    | with_reducible apply State.modLink_keep W.toClosed
    | with_reducible apply State.pumpLink_keep W.toClosed
    | (with_reducible refine ite_keep ?_ ?_)
    | split)

theorem State.trainFails_keep (W : Whole P) {s : State} (l : Nat) (hs : P s) :
    P (State.trainFails s l) := by
  unfold State.trainFails
  repeat' (first
    | with_reducible assumption
    | with_reducible apply State.modLink_keep W.toClosed
    | with_reducible apply State.raise_keep W.toClosed)

theorem execLinkTrainingAdvance_keep (W : Whole P) {s : State} (d : LinkDetect) (hs : P s) :
    Outs P (execLinkTrainingAdvance d s) := by
  unfold execLinkTrainingAdvance
  repeat' (first
    | (with_reducible refine outs_next ?_)
    | (with_reducible refine ite_outs ?_ ?_)
    | with_reducible assumption
    | (extract_lets +onlyGivenNames _t; revert _t
       first
       | (with_reducible refine let_keep (P := P) ?_ (fun _ _ => ?_))
       | (with_reducible refine let_keep₂ (P := P) ?_ (fun _ _ => ?_))
       | (with_reducible refine let_keep₁ (P := P) ?_ (fun _ _ => ?_))
       | (with_reducible refine let_maybe (P := P) ?_ (fun _ _ => ?_))
       | (with_reducible refine let_function ?_)
       | (with_reducible refine let_outs (P := P) ?_ (fun _ _ => ?_))
       | (with_reducible refine let_any (fun _ => ?_)))
    | with_reducible apply State.modLink_keep W.toClosed
    | with_reducible apply State.carryOn_keep W.toClosed
    | with_reducible apply State.activate_keep W
    | with_reducible apply State.trainFails_keep W
    | (with_reducible refine ite_keep ?_ ?_)
    | split)

theorem execLinkTrainingTimeout_keep (W : Whole P) {s : State} (l : Fin 4) (hs : P s) :
    Outs P (execLinkTrainingTimeout l s) := by
  unfold execLinkTrainingTimeout
  repeat' (first
    | (with_reducible refine outs_next ?_)
    | (with_reducible refine ite_outs ?_ ?_)
    | with_reducible assumption
    | (extract_lets +onlyGivenNames _t; revert _t
       first
       | (with_reducible refine let_keep (P := P) ?_ (fun _ _ => ?_))
       | (with_reducible refine let_keep₂ (P := P) ?_ (fun _ _ => ?_))
       | (with_reducible refine let_keep₁ (P := P) ?_ (fun _ _ => ?_))
       | (with_reducible refine let_maybe (P := P) ?_ (fun _ _ => ?_))
       | (with_reducible refine let_function ?_)
       | (with_reducible refine let_outs (P := P) ?_ (fun _ _ => ?_))
       | (with_reducible refine let_any (fun _ => ?_)))
    | with_reducible apply State.startTraining_keep W.toClosed
    | with_reducible apply State.passTo_keep W
    | with_reducible apply State.carryOn_keep W.toClosed
    | with_reducible apply State.trainFails_keep W
    | (with_reducible refine ite_keep ?_ ?_)
    | split)

theorem execLaneFailure_keep (W : Whole P) {s : State} (l : Fin 4) (lanes : BitVec 8) (hs : P s) :
    Outs P (execLaneFailure l lanes s) := by
  unfold execLaneFailure
  repeat' (first
    | (with_reducible refine outs_next ?_)
    | (with_reducible refine ite_outs ?_ ?_)
    | with_reducible assumption
    | (extract_lets +onlyGivenNames _t; revert _t
       first
       | (with_reducible refine let_keep (P := P) ?_ (fun _ _ => ?_))
       | (with_reducible refine let_keep₂ (P := P) ?_ (fun _ _ => ?_))
       | (with_reducible refine let_keep₁ (P := P) ?_ (fun _ _ => ?_))
       | (with_reducible refine let_maybe (P := P) ?_ (fun _ _ => ?_))
       | (with_reducible refine let_function ?_)
       | (with_reducible refine let_outs (P := P) ?_ (fun _ _ => ?_))
       | (with_reducible refine let_any (fun _ => ?_)))
    | with_reducible apply State.loseLanes_keep W.toClosed
    | with_reducible apply State.raise_keep W.toClosed
    | with_reducible apply State.carryOn_keep W.toClosed
    | (with_reducible refine ite_keep ?_ ?_)
    | split
    | (with_reducible refine of_snd (by with_reducible assumption) ?_))

theorem State.lnkCtl_keep (W : Whole P) {s : State} (l : Nat) (enable : Bool) (fwdEn : Bool) (dateline : Bool) (retrain : Bool) (hs : P s) :
    P (State.lnkCtl s l enable fwdEn dateline retrain) := by
  unfold State.lnkCtl
  repeat' (first
    | with_reducible assumption
    | (extract_lets +onlyGivenNames _t; revert _t
       first
       | (with_reducible refine let_keep (P := P) ?_ (fun _ _ => ?_))
       | (with_reducible refine let_keep₂ (P := P) ?_ (fun _ _ => ?_))
       | (with_reducible refine let_keep₁ (P := P) ?_ (fun _ _ => ?_))
       | (with_reducible refine let_maybe (P := P) ?_ (fun _ _ => ?_))
       | (with_reducible refine let_function ?_)
       | (with_reducible refine let_outs (P := P) ?_ (fun _ _ => ?_))
       | (with_reducible refine let_any (fun _ => ?_)))
    | with_reducible apply State.modLink_keep W.toClosed
    | with_reducible apply State.takeDown_keep W.toClosed
    | with_reducible apply State.startTraining_keep W.toClosed
    | (with_reducible refine ite_keep ?_ ?_)
    | split)

theorem execLinkEnable_keep (W : Whole P) {s : State} (l : Fin 4) (fwdEn : Bool) (dateline : Bool) (hs : P s) :
    Outs P (execLinkEnable l fwdEn dateline s) := by
  unfold execLinkEnable
  repeat' (first
    | (with_reducible refine outs_next ?_)
    | (with_reducible refine ite_outs ?_ ?_)
    | with_reducible assumption
    | with_reducible apply State.carryOn_keep W.toClosed
    | with_reducible apply State.lnkCtl_keep W
    | (with_reducible refine ite_keep ?_ ?_)
    | split)

theorem execLinkDisable_keep (W : Whole P) {s : State} (l : Fin 4) (fwdEn : Bool) (dateline : Bool) (hs : P s) :
    Outs P (execLinkDisable l fwdEn dateline s) := by
  unfold execLinkDisable
  repeat' (first
    | (with_reducible refine outs_next ?_)
    | (with_reducible refine ite_outs ?_ ?_)
    | with_reducible assumption
    | with_reducible apply State.carryOn_keep W.toClosed
    | with_reducible apply State.lnkCtl_keep W
    | (with_reducible refine ite_keep ?_ ?_)
    | split)

theorem execLinkRetrain_keep (W : Whole P) {s : State} (l : Fin 4) (hs : P s) :
    Outs P (execLinkRetrain l s) := by
  unfold execLinkRetrain
  repeat' (first
    | (with_reducible refine outs_next ?_)
    | (with_reducible refine ite_outs ?_ ?_)
    | with_reducible assumption
    | (extract_lets +onlyGivenNames _t; revert _t
       first
       | (with_reducible refine let_keep (P := P) ?_ (fun _ _ => ?_))
       | (with_reducible refine let_keep₂ (P := P) ?_ (fun _ _ => ?_))
       | (with_reducible refine let_keep₁ (P := P) ?_ (fun _ _ => ?_))
       | (with_reducible refine let_maybe (P := P) ?_ (fun _ _ => ?_))
       | (with_reducible refine let_function ?_)
       | (with_reducible refine let_outs (P := P) ?_ (fun _ _ => ?_))
       | (with_reducible refine let_any (fun _ => ?_)))
    | with_reducible apply State.carryOn_keep W.toClosed
    | with_reducible apply State.lnkCtl_keep W
    | (with_reducible refine ite_keep ?_ ?_)
    | split)

end Sys2Proof.Machine
end

