-- ==== Sys2Proof/Laws/KeepConfigSpace.lean ====
section
/-! SUPPORT. Every whole property is kept by the operations of Machine/ConfigSpace.lean.
-/

namespace Sys2Proof.Machine

set_option linter.all false

variable {P : State → Prop}

theorem State.configure_keep (W : Whole P) {s : State} (f : State → State) (hf : ∀ y0, P y0 → P (f y0)) (hs : P s) :
    P (State.configure s f) := by
  unfold State.configure
  repeat' (first
    | with_reducible assumption
    | with_reducible apply hf
    | (with_reducible refine ite_keep ?_ ?_)
    | split
    | with_reducible refine W.wide rfl ?_)

end Sys2Proof.Machine
end

