-- ==== Sys2Proof/Laws/KeepHost.lean ====
section
/-! SUPPORT. Every whole property is kept by the operations of Machine/Host.lean.
-/

namespace Sys2Proof.Machine

set_option linter.all false

variable {P : State → Prop}

theorem State.fltIfWrite_keep (W : Whole P) {s : State} (b : BlockId) (o : Nat) (v : Nat) (hs : P s) :
    P (State.fltIfWrite s b o v) := by
  unfold State.fltIfWrite
  repeat' (first
    | with_reducible assumption
    | with_reducible apply State.modBlock_keep W.toClosed
    | (with_reducible refine ite_keep ?_ ?_)
    | split)

theorem State.clearStatus_keep (W : Whole P) {s : State} (b : BlockId) (shift : Nat) (n : Nat) (v : Nat) (hs : P s) :
    P (State.clearStatus s b shift n v) := by
  unfold State.clearStatus
  repeat' (first
    | with_reducible assumption
    | with_reducible apply State.fltIfWrite_keep W)

theorem State.devWrite_keep (W : Whole P) {s : State} (o : Nat) (v : Nat) (hs : P s) :
    P (State.devWrite s o v) := by
  unfold State.devWrite
  repeat' (first
    | with_reducible assumption
    | with_reducible apply State.softReset_keep W
    | (with_reducible refine ite_keep ?_ ?_)
    | split
    | with_reducible refine W.wide rfl ?_)

theorem State.mbxCommand_keep (W : Whole P) {s : State} (v : Nat) (hs : P s) :
    P (State.mbxCommand s v) := by
  unfold State.mbxCommand
  repeat' (first
    | with_reducible assumption
    | (extract_lets +onlyGivenNames _t; revert _t
       first
       | (with_reducible refine let_keep (P := P) ?_ (fun _ _ => ?_))
       | (with_reducible refine let_keep₂ (P := P) ?_ (fun _ _ => ?_))
       | (with_reducible refine let_keep₁ (P := P) ?_ (fun _ _ => ?_))
       | (with_reducible refine let_maybe (P := P) ?_ (fun _ _ => ?_))
       | (with_reducible refine let_function ?_)
       | (with_reducible refine let_outs (P := P) ?_ (fun _ _ => ?_))
       | (with_reducible refine let_any (fun _ => ?_)))
    | with_reducible apply State.answerMailbox_keep W
    | (with_reducible refine ite_keep ?_ ?_)
    | split
    | with_reducible refine W.wide rfl ?_)

theorem State.mbxWrite_keep (W : Whole P) {s : State} (o : Nat) (v : Nat) (hs : P s) :
    P (State.mbxWrite s o v) := by
  unfold State.mbxWrite
  repeat' (first
    | with_reducible assumption
    | with_reducible apply State.mbxCommand_keep W
    | split
    | with_reducible refine W.wide rfl ?_)

theorem State.memWrite_keep (W : Whole P) {s : State} (n : Nat) (o : Nat) (v : Nat) (hs : P s) :
    P (State.memWrite s n o v) := by
  unfold State.memWrite
  repeat' (first
    | with_reducible assumption
    | (extract_lets +onlyGivenNames _t; revert _t
       first
       | (with_reducible refine let_keep (P := P) ?_ (fun _ _ => ?_))
       | (with_reducible refine let_keep₂ (P := P) ?_ (fun _ _ => ?_))
       | (with_reducible refine let_keep₁ (P := P) ?_ (fun _ _ => ?_))
       | (with_reducible refine let_maybe (P := P) ?_ (fun _ _ => ?_))
       | (with_reducible refine let_function ?_)
       | (with_reducible refine let_outs (P := P) ?_ (fun _ _ => ?_))
       | (with_reducible refine let_any (fun _ => ?_)))
    | with_reducible apply State.retrainMem_keep W.toClosed
    | with_reducible apply State.clearStatus_keep W
    | (with_reducible refine ite_keep ?_ ?_)
    | split)

theorem State.lnkWrite_keep (W : Whole P) {s : State} (l : Nat) (o : Nat) (v : Nat) (hs : P s) :
    P (State.lnkWrite s l o v) := by
  unfold State.lnkWrite
  repeat' (first
    | with_reducible assumption
    | (extract_lets +onlyGivenNames _t; revert _t
       first
       | (with_reducible refine let_keep (P := P) ?_ (fun _ _ => ?_))
       | (with_reducible refine let_keep₂ (P := P) ?_ (fun _ _ => ?_))
       | (with_reducible refine let_keep₁ (P := P) ?_ (fun _ _ => ?_))
       | (with_reducible refine let_maybe (P := P) ?_ (fun _ _ => ?_))
       | (with_reducible refine let_function ?_)
       | (with_reducible refine let_outs (P := P) ?_ (fun _ _ => ?_))
       | (with_reducible refine let_any (fun _ => ?_)))
    | with_reducible apply State.lnkCtl_keep W
    | (with_reducible refine ite_keep ?_ ?_)
    | split
    | with_reducible refine W.wide rfl ?_)

theorem State.spnWrite_keep (W : Whole P) {s : State} (n : Nat) (o : Nat) (v : Nat) (hs : P s) :
    P (State.spnWrite s n o v) := by
  unfold State.spnWrite
  repeat' (first
    | with_reducible assumption
    | (extract_lets +onlyGivenNames _t; revert _t
       first
       | (with_reducible refine let_keep (P := P) ?_ (fun _ _ => ?_))
       | (with_reducible refine let_keep₂ (P := P) ?_ (fun _ _ => ?_))
       | (with_reducible refine let_keep₁ (P := P) ?_ (fun _ _ => ?_))
       | (with_reducible refine let_maybe (P := P) ?_ (fun _ _ => ?_))
       | (with_reducible refine let_function ?_)
       | (with_reducible refine let_outs (P := P) ?_ (fun _ _ => ?_))
       | (with_reducible refine let_any (fun _ => ?_)))
    | with_reducible apply State.modSpan_keep W.toClosed
    | with_reducible apply State.spanReset_keep W
    | with_reducible apply State.marchRequest_keep W
    | with_reducible apply State.clearStatus_keep W
    | (with_reducible refine ite_keep ?_ ?_)
    | split)

theorem State.ctxWrite_keep (W : Whole P) {s : State} (c : Nat) (o : Nat) (v : Nat) (hs : P s) :
    P (State.ctxWrite s c o v) := by
  unfold State.ctxWrite
  repeat' (first
    | with_reducible assumption
    | (extract_lets +onlyGivenNames _t; revert _t
       first
       | (with_reducible refine let_keep (P := P) ?_ (fun _ _ => ?_))
       | (with_reducible refine let_keep₂ (P := P) ?_ (fun _ _ => ?_))
       | (with_reducible refine let_keep₁ (P := P) ?_ (fun _ _ => ?_))
       | (with_reducible refine let_maybe (P := P) ?_ (fun _ _ => ?_))
       | (with_reducible refine let_function ?_)
       | (with_reducible refine let_outs (P := P) ?_ (fun _ _ => ?_))
       | (with_reducible refine let_any (fun _ => ?_)))
    | with_reducible apply State.modCtx_keep W.toClosed
    | with_reducible apply State.doorbell_keep W
    | with_reducible apply State.ctlWrite_keep W
    | with_reducible apply State.cplHeadWrite_keep W
    | (with_reducible refine ite_keep ?_ ?_)
    | split)

theorem State.evtWrite_keep (W : Whole P) {s : State} (e : Nat) (o : Nat) (v : Nat) (hs : P s) :
    P (State.evtWrite s e o v) := by
  unfold State.evtWrite
  repeat' (first
    | with_reducible assumption
    | (extract_lets +onlyGivenNames _t; revert _t
       first
       | (with_reducible refine let_keep (P := P) ?_ (fun _ _ => ?_))
       | (with_reducible refine let_keep₂ (P := P) ?_ (fun _ _ => ?_))
       | (with_reducible refine let_keep₁ (P := P) ?_ (fun _ _ => ?_))
       | (with_reducible refine let_maybe (P := P) ?_ (fun _ _ => ?_))
       | (with_reducible refine let_function ?_)
       | (with_reducible refine let_outs (P := P) ?_ (fun _ _ => ?_))
       | (with_reducible refine let_any (fun _ => ?_)))
    | with_reducible apply State.setEvent_keep W.toClosed
    | with_reducible apply State.eventOp_keep W.toClosed
    | split)

theorem State.msixWrite_keep (W : Whole P) {s : State} (o : Nat) (v : Nat) (hs : P s) :
    P (State.msixWrite s o v) := by
  unfold State.msixWrite
  repeat' (first
    | with_reducible assumption
    | (extract_lets +onlyGivenNames _t; revert _t
       first
       | (with_reducible refine let_keep (P := P) ?_ (fun _ _ => ?_))
       | (with_reducible refine let_keep₂ (P := P) ?_ (fun _ _ => ?_))
       | (with_reducible refine let_keep₁ (P := P) ?_ (fun _ _ => ?_))
       | (with_reducible refine let_maybe (P := P) ?_ (fun _ _ => ?_))
       | (with_reducible refine let_function ?_)
       | (with_reducible refine let_outs (P := P) ?_ (fun _ _ => ?_))
       | (with_reducible refine let_any (fun _ => ?_)))
    | with_reducible apply State.sendPending_keep W.toClosed
    | split
    | with_reducible refine W.wide rfl ?_)

theorem State.bar0WriteWord_keep (W : Whole P) {s : State} (o : Nat) (v : Nat) (hs : P s) :
    P (State.bar0WriteWord s o v) := by
  unfold State.bar0WriteWord
  repeat' (first
    | with_reducible assumption
    | (extract_lets +onlyGivenNames _t; revert _t
       first
       | (with_reducible refine let_keep (P := P) ?_ (fun _ _ => ?_))
       | (with_reducible refine let_keep₂ (P := P) ?_ (fun _ _ => ?_))
       | (with_reducible refine let_keep₁ (P := P) ?_ (fun _ _ => ?_))
       | (with_reducible refine let_maybe (P := P) ?_ (fun _ _ => ?_))
       | (with_reducible refine let_function ?_)
       | (with_reducible refine let_outs (P := P) ?_ (fun _ _ => ?_))
       | (with_reducible refine let_any (fun _ => ?_)))
    | with_reducible apply State.ackFault_keep W
    | with_reducible apply State.requestReseed_keep W
    | with_reducible apply State.fltIfWrite_keep W
    | with_reducible apply State.clearStatus_keep W
    | with_reducible apply State.devWrite_keep W
    | with_reducible apply State.mbxWrite_keep W
    | with_reducible apply State.memWrite_keep W
    | with_reducible apply State.lnkWrite_keep W
    | with_reducible apply State.spnWrite_keep W
    | with_reducible apply State.ctxWrite_keep W
    | with_reducible apply State.evtWrite_keep W
    | with_reducible apply State.msixWrite_keep W
    | (with_reducible refine ite_keep ?_ ?_)
    | split
    | with_reducible refine W.wide rfl ?_
    | with_reducible refine W.wide rfl ?_)

theorem State.bar0Write_keep (W : Whole P) {s : State} (o : Nat) (n : Nat) (v : Nat) (hs : P s) :
    P (State.bar0Write s o n v) := by
  unfold State.bar0Write
  repeat' (first
    | with_reducible assumption
    | (extract_lets +onlyGivenNames _t; revert _t
       first
       | (with_reducible refine let_keep (P := P) ?_ (fun _ _ => ?_))
       | (with_reducible refine let_keep₂ (P := P) ?_ (fun _ _ => ?_))
       | (with_reducible refine let_keep₁ (P := P) ?_ (fun _ _ => ?_))
       | (with_reducible refine let_maybe (P := P) ?_ (fun _ _ => ?_))
       | (with_reducible refine let_function ?_)
       | (with_reducible refine let_outs (P := P) ?_ (fun _ _ => ?_))
       | (with_reducible refine let_any (fun _ => ?_)))
    | with_reducible apply State.eventOp_keep W.toClosed
    | with_reducible apply State.bar0WriteWord_keep W
    | (with_reducible refine ite_keep ?_ ?_)
    | split)

theorem execRegisterWrite_keep (W : Whole P) {s : State} (offset : BitVec 26) (bytes : Nat) (value : BitVec 64) (hs : P s) :
    Outs P (execRegisterWrite offset bytes value s) := by
  unfold execRegisterWrite
  repeat' (first
    | (with_reducible refine outs_next ?_)
    | with_reducible assumption
    | with_reducible apply State.carryOn_keep W.toClosed
    | with_reducible apply State.bar0Write_keep W)

theorem State.bar2Note_keep (W : Whole P) {s : State} (write : Bool) (l : List (Nat × Bar2Io)) (hs : P s) :
    P (State.bar2Note s write l) := by
  unfold State.bar2Note
  repeat' (first
    | with_reducible assumption
    | (extract_lets +onlyGivenNames _t; revert _t
       first
       | (with_reducible refine let_keep (P := P) ?_ (fun _ _ => ?_))
       | (with_reducible refine let_keep₂ (P := P) ?_ (fun _ _ => ?_))
       | (with_reducible refine let_keep₁ (P := P) ?_ (fun _ _ => ?_))
       | (with_reducible refine let_maybe (P := P) ?_ (fun _ _ => ?_))
       | (with_reducible refine let_function ?_)
       | (with_reducible refine let_outs (P := P) ?_ (fun _ _ => ?_))
       | (with_reducible refine let_any (fun _ => ?_)))
    | with_reducible apply State.setHerr_keep W.toClosed
    | with_reducible apply State.countDrops_keep W.toClosed
    | (with_reducible refine ite_keep ?_ ?_)
    | split)

theorem execBar2Read_keep (W : Whole P) {s : State} (offset : BitVec 38) (enables : List Bool) (events : List MemEvent) (hs : P s) :
    Outs P (execBar2Read offset enables events s) := by
  unfold execBar2Read
  repeat' (first
    | (with_reducible refine outs_next ?_)
    | (with_reducible refine ite_outs ?_ ?_)
    | with_reducible assumption
    | (extract_lets +onlyGivenNames _t; revert _t
       first
       | (with_reducible refine let_keep (P := P) ?_ (fun _ _ => ?_))
       | (with_reducible refine let_keep₂ (P := P) ?_ (fun _ _ => ?_))
       | (with_reducible refine let_keep₁ (P := P) ?_ (fun _ _ => ?_))
       | (with_reducible refine let_maybe (P := P) ?_ (fun _ _ => ?_))
       | (with_reducible refine let_function ?_)
       | (with_reducible refine let_outs (P := P) ?_ (fun _ _ => ?_))
       | (with_reducible refine let_any (fun _ => ?_)))
    | with_reducible apply State.memEvents_keep W.toClosed
    | with_reducible apply State.carryOn_keep W.toClosed
    | with_reducible apply State.bar2Note_keep W
    | (with_reducible refine ite_keep ?_ ?_)
    | split
    | with_reducible refine W.wide rfl ?_)

theorem execBar2Write_keep (W : Whole P) {s : State} (offset : BitVec 38) (data : List (Option Byte)) (events : List MemEvent) (hs : P s) :
    Outs P (execBar2Write offset data events s) := by
  unfold execBar2Write
  repeat' (first
    | (with_reducible refine outs_next ?_)
    | (with_reducible refine ite_outs ?_ ?_)
    | with_reducible assumption
    | (extract_lets +onlyGivenNames _t; revert _t
       first
       | (with_reducible refine let_keep (P := P) ?_ (fun _ _ => ?_))
       | (with_reducible refine let_keep₂ (P := P) ?_ (fun _ _ => ?_))
       | (with_reducible refine let_keep₁ (P := P) ?_ (fun _ _ => ?_))
       | (with_reducible refine let_maybe (P := P) ?_ (fun _ _ => ?_))
       | (with_reducible refine let_function ?_)
       | (with_reducible refine let_outs (P := P) ?_ (fun _ _ => ?_))
       | (with_reducible refine let_any (fun _ => ?_)))
    | with_reducible apply State.storeCells_keep W.toClosed
    | with_reducible apply State.memEvents_keep W.toClosed
    | with_reducible apply State.carryOn_keep W.toClosed
    | with_reducible apply State.bar2Note_keep W
    | (with_reducible refine ite_keep ?_ ?_)
    | split)

theorem execMsixUnmask_keep (W : Whole P) {s : State} (m : MsixChange) (hs : P s) :
    Outs P (execMsixUnmask m s) := by
  unfold execMsixUnmask
  repeat' (first
    | (with_reducible refine outs_next ?_)
    | (with_reducible refine ite_outs ?_ ?_)
    | with_reducible assumption
    | with_reducible apply State.sendPending_keep W.toClosed
    | with_reducible apply State.configure_keep W
    | with_reducible apply State.msixWrite_keep W
    | (with_reducible intro _) <;> try beta_reduce
    | (with_reducible refine ite_keep ?_ ?_)
    | split
    | with_reducible refine W.wide rfl ?_)

theorem execD3hot_keep (W : Whole P) {s : State} (enter : Bool) (hs : P s) :
    Outs P (execD3hot enter s) := by
  unfold execD3hot
  repeat' (first
    | (with_reducible refine outs_next ?_)
    | with_reducible assumption
    | with_reducible apply State.configure_keep W
    | (with_reducible intro _) <;> try beta_reduce
    | with_reducible refine W.wide rfl ?_)

theorem execConfigurationWrite_keep (W : Whole P) {s : State} (w : ConfigWrite) (hs : P s) :
    Outs P (execConfigurationWrite w s) := by
  unfold execConfigurationWrite
  repeat' (first
    | (with_reducible refine outs_next ?_)
    | with_reducible assumption
    | with_reducible apply State.configure_keep W
    | (with_reducible intro _) <;> try beta_reduce
    | with_reducible refine W.wide rfl ?_)

end Sys2Proof.Machine
end

