-- ==== Sys2Proof/Laws/KeepTimeouts.lean ====
section
/-! SUPPORT. Every whole property is kept by the operations of Machine/Timeouts.lean.
-/

namespace Sys2Proof.Machine

set_option linter.all false

variable {P : State → Prop}

theorem State.rowOf_keep (W : Whole P) {s : State} (c : Fin 1024) (hs : P s) :
    Outs P (State.rowOf s c) := by
  unfold State.rowOf
  repeat' (first
    | (with_reducible refine outs_next ?_)
    | with_reducible assumption
    | (extract_lets +onlyGivenNames _t; revert _t
       first
       | (with_reducible refine let_keep (P := P) ?_ (fun _ _ => ?_))
       | (with_reducible refine let_keep₂ (P := P) ?_ (fun _ _ => ?_))
       | (with_reducible refine let_keep₁ (P := P) ?_ (fun _ _ => ?_))
       | (with_reducible refine let_maybe (P := P) ?_ (fun _ _ => ?_))
       | (with_reducible refine let_function ?_)
       | (with_reducible refine let_outs (P := P) ?_ (fun _ _ => ?_))
       | (with_reducible refine let_any (fun _ => ?_)))
    | with_reducible apply execCopy_keep W
    | with_reducible apply execFill_keep W
    | with_reducible apply execLaunch_keep W
    | with_reducible apply execAnneal_keep W
    | with_reducible apply execSample_keep W
    | with_reducible apply execRestore_keep W
    | with_reducible apply execPload_keep W
    | with_reducible apply execEval_keep W
    | with_reducible apply execEwise_keep W
    | with_reducible apply execConvert_keep W
    | with_reducible apply execMatmul_keep W
    | with_reducible apply execReduce_keep W
    | split)

theorem State.failing_keep (W : Whole P) {s : State} (a : Nat) (how : ReadFail) (row : State → Out) (hs : P s)
    (hf : ∀ t, P t → Outs P (row t)) : Outs P (s.failing a how row) := by
  unfold State.failing
  have h := hf { s with pcie := { s.pcie with readFail := some (a, how) } } (W.wide rfl hs)
  split
  · rename_i t e
    exact outs_next (W.wide (a := t) rfl (h t e))
  · exact h

theorem State.readerFails_keep (W : Whole P) {s : State} (r : HostReader) (a : Nat) (how : ReadFail) (hs : P s) :
    Outs P (s.readerFails r a how) := by
  unfold State.readerFails
  split
  · exact outs_next (ite_keep (State.modPier_keep W.toClosed _ _ hs) hs)
  · exact State.failing_keep W _ _ _ hs fun _ h => execCommandFetch_keep W _ h
  · exact State.failing_keep W _ _ _ hs fun _ h => execBatchDescriptorTake_keep W _ h
  · exact State.failing_keep W _ _ _ hs fun _ h => State.rowOf_keep W _ h
  · exact State.failing_keep W _ _ _ hs fun _ h => execDmaRd_keep W _ _ _ _ _ h

theorem execCplTimeout_keep (W : Whole P) {s : State} (reader : HostReader) (addr : BitVec 48) (how : HostError) (hs : P s) :
    Outs P (execCplTimeout reader addr how s) := by
  unfold execCplTimeout
  repeat' (first
    | (with_reducible refine outs_next ?_)
    | (with_reducible refine ite_outs ?_ ?_)
    | with_reducible assumption
    | with_reducible apply State.readerFails_keep W
    | (with_reducible refine ite_keep ?_ ?_)
    | split)

theorem State.failAtomic_keep (W : Whole P) {s : State} (n : Nat) (a : Nat) (hs : P s) :
    P (State.failAtomic s n a) := by
  unfold State.failAtomic
  repeat' (first
    | with_reducible assumption
    | (extract_lets +onlyGivenNames _t; revert _t
       first
       | (with_reducible refine let_keep (P := P) ?_ (fun _ _ => ?_))
       | (with_reducible refine let_keep₂ (P := P) ?_ (fun _ _ => ?_))
       | (with_reducible refine let_keep₁ (P := P) ?_ (fun _ _ => ?_))
       | (with_reducible refine let_maybe (P := P) ?_ (fun _ _ => ?_))
       | (with_reducible refine let_function ?_)
       | (with_reducible refine let_outs (P := P) ?_ (fun _ _ => ?_))
       | (with_reducible refine let_any (fun _ => ?_)))
    | with_reducible apply State.modPier_keep W.toClosed
    | split)

theorem State.cxlFails_keep (W : Whole P) {s : State} (r : CxlRequester) (a : Nat) (hs : P s) : Outs P (s.cxlFails r a) := by
  unfold State.cxlFails
  split
  · exact State.readerFails_keep W _ _ _ hs
  · exact outs_next (State.failAtomic_keep W _ _ hs)
  · exact State.failing_keep W _ _ _ hs fun _ h => execBar2Read_keep W _ _ _ h
  · exact State.failing_keep W _ _ _ hs fun _ h => execBar2Write_keep W _ _ _ h
  · exact State.failing_keep W _ _ _ hs fun _ h => execDmaWr_keep W _ _ _ _ _ _ h
  · exact State.failing_keep W _ _ _ hs fun _ h => execLinkAtadd_keep W _ _ _ _ _ _ h
  · exact State.failing_keep W _ _ _ hs fun _ h => execMinIndex_keep W _ _ _ _ _ _ h
  · refine outs_next ?_
    split
    · exact State.carryOn_keep W.toClosed (State.stopRun_keep W.toClosed _ _ hs)
    · exact hs

theorem State.countTimeout_keep (W : Whole P) {s : State} (p : Fin 2) (hs : P s) :
    P (State.countTimeout s p) := by
  unfold State.countTimeout
  repeat' (first
    | with_reducible assumption
    | (extract_lets +onlyGivenNames _t; revert _t
       first
       | (with_reducible refine let_keep (P := P) ?_ (fun _ _ => ?_))
       | (with_reducible refine let_keep₂ (P := P) ?_ (fun _ _ => ?_))
       | (with_reducible refine let_keep₁ (P := P) ?_ (fun _ _ => ?_))
       | (with_reducible refine let_maybe (P := P) ?_ (fun _ _ => ?_))
       | (with_reducible refine let_function ?_)
       | (with_reducible refine let_outs (P := P) ?_ (fun _ _ => ?_))
       | (with_reducible refine let_any (fun _ => ?_)))
    | with_reducible apply State.modCxl_keep W.toClosed
    | with_reducible apply State.enterRaise_keep W.toClosed
    | with_reducible apply State.fenceCxl_keep W.toClosed
    | with_reducible apply State.raise_keep W.toClosed
    | with_reducible apply State.carryOn_keep W.toClosed
    | (with_reducible refine ite_keep ?_ ?_)
    | split)

theorem execCxlTimeout_keep (W : Whole P) {s : State} (q : CxlRequest) (hs : P s) : Outs P (execCxlTimeout q s) := by
  unfold execCxlTimeout
  extract_lets p
  split
  · have h := State.cxlFails_keep W q.requester q.addr.toNat hs
    split
    · rename_i t e
      exact outs_next (State.countTimeout_keep W _ (h t e))
    · exact h
  · exact outs_next hs

end Sys2Proof.Machine
end

