-- ==== Sys2Proof/Laws/Exec.lean ====
section
/-! SUPPORT. Every command keeps every total property; every command but the resets of the die keeps every whole property.
-/

namespace Sys2Proof.Machine

set_option linter.all false

variable {P : State → Prop}

/-- Every command keeps a total property. -/
theorem exec_total (T : Total P) {s : State} (i : Instr) (hs : P s) : Outs P (exec i s) := by
  cases i with
  | launch a0 => exact execLaunch_keep T.toWhole _ hs
  | constBuf a0 => exact execConstBuf_keep T.toWhole _ hs
  | evrec a0 => exact execEvrec_keep T.toWhole _ hs
  | evwait a0 => exact execEvwait_keep T.toWhole _ hs
  | copy a0 => exact execCopy_keep T.toWhole _ hs
  | fill a0 => exact execFill_keep T.toWhole _ hs
  | pload a0 => exact execPload_keep T.toWhole _ hs
  | pfree a0 => exact execPfree_keep T.toWhole _ hs
  | anneal a0 => exact execAnneal_keep T.toWhole _ hs
  | annealBatch a0 => exact execAnnealBatch_keep T.toWhole _ hs
  | batchDescriptorTake a0 => exact execBatchDescriptorTake_keep T.toWhole _ hs
  | endDescriptor a0 => exact execEndDescriptor_keep T.toWhole _ hs
  | sample a0 => exact execSample_keep T.toWhole _ hs
  | eval a0 => exact execEval_keep T.toWhole _ hs
  | ckpt a0 => exact execCkpt_keep T.toWhole _ hs
  | restore a0 => exact execRestore_keep T.toWhole _ hs
  | matmul a0 => exact execMatmul_keep T.toWhole _ hs
  | reduce a0 => exact execReduce_keep T.toWhole _ hs
  | ewise a0 => exact execEwise_keep T.toWhole _ hs
  | convert a0 => exact execConvert_keep T.toWhole _ hs
  | qstop a0 => exact execQstop_keep T.toWhole _ hs
  | nopc a0 => exact execNopc_keep T.toWhole _ hs
  | commandFetch a0 => exact execCommandFetch_keep T.toWhole _ hs
  | commandStart => exact execCommandStart_keep T.toWhole hs
  | commandCompletion a0 => exact execCommandCompletion_keep T.toWhole _ hs
  | pierLaunch a0 => exact execPierLaunch_keep T.toWhole _ hs
  | ctxDoorbell a0 a1 => exact execCtxDoorbell_keep T.toWhole _ _ hs
  | contextCreate a0 a1 a2 => exact execContextCreate_keep T.toWhole _ _ _ hs
  | contextDestroy a0 a1 a2 => exact execContextDestroy_keep T.toWhole _ _ _ hs
  | destroyAbort a0 a1 => exact execDestroyAbort_keep T.toWhole _ _ hs
  | resume a0 a1 a2 => exact execResume_keep T.toWhole _ _ _ hs
  | destroyDone a0 => exact execDestroyDone_keep T.toWhole _ hs
  | ctxCplHead a0 a1 => exact execCtxCplHead_keep T.toWhole _ _ hs
  | evtValue a0 a1 => exact execEvtValue_keep T.toWhole _ _ hs
  | evtAdd a0 a1 => exact execEvtAdd_keep T.toWhole _ _ hs
  | evtErrorClear a0 => exact execEvtErrorClear_keep T.toWhole _ hs
  | fltAck => exact execFltAck_keep T.toWhole hs
  | devTimeSet a0 => exact execDevTimeSet_keep T.toWhole _ hs
  | devSoftReset => exact execDevSoftReset_keep T.toWhole hs
  | spanReset a0 => exact execSpanReset_keep T.toWhole _ hs
  | marchTestRequest a0 a1 => exact execMarchTestRequest_keep T.toWhole _ _ hs
  | memRetrain a0 a1 => exact execMemRetrain_keep T.toWhole _ _ hs
  | rngReseedRequest => exact execRngReseedRequest_keep T.toWhole hs
  | rngWord => exact execRngWord_keep T.toWhole hs
  | linkEnable a0 a1 a2 => exact execLinkEnable_keep T.toWhole _ _ _ hs
  | linkDisable a0 a1 a2 => exact execLinkDisable_keep T.toWhole _ _ _ hs
  | linkRetrain a0 => exact execLinkRetrain_keep T.toWhole _ hs
  | fltQueueClear a0 => exact execFltQueueClear_keep T.toWhole _ hs
  | msixUnmask a0 => exact execMsixUnmask_keep T.toWhole _ hs
  | d3hot a0 => exact execD3hot_keep T.toWhole _ hs
  | registerWrite a0 a1 a2 => exact execRegisterWrite_keep T.toWhole _ _ _ hs
  | bar2Read a0 a1 a2 => exact execBar2Read_keep T.toWhole _ _ _ hs
  | bar2Write a0 a1 a2 => exact execBar2Write_keep T.toWhole _ _ _ hs
  | stallReport a0 => exact execStallReport_keep T.toWhole _ hs
  | fenceStatus a0 => exact execFenceStatus_keep T.toWhole _ hs
  | faultState a0 => exact execFaultState_keep T.toWhole _ hs
  | fwVersion a0 => exact execFwVersion_keep T.toWhole _ hs
  | rngRead a0 a1 => exact execRngRead_keep T.toWhole _ _ hs
  | fwWrite a0 a1 a2 a3 a4 => exact execFwWrite_keep T.toWhole _ _ _ _ _ hs
  | fwVerify a0 a1 a2 => exact execFwVerify_keep T.toWhole _ _ _ hs
  | fwCommit a0 a1 => exact execFwCommit_keep T.toWhole _ _ hs
  | selfTest a0 a1 => exact execSelfTest_keep T.toWhole _ _ hs
  | setSeverity a0 a1 a2 a3 => exact execSetSeverity_keep T.toWhole _ _ _ _ hs
  | fenceUnit a0 a1 => exact execFenceUnit_keep T.toWhole _ _ hs
  | setFltParam a0 a1 a2 a3 a4 => exact execSetFltParam_keep T.toWhole _ _ _ _ _ hs
  | keyInstall a0 a1 a2 a3 a4 a5 => exact execKeyInstall_keep T.toWhole _ _ _ _ _ _ hs
  | linkKeySwitch a0 a1 => exact execLinkKeySwitch_keep T.toWhole _ _ hs
  | keyZeroize a0 a1 => exact execKeyZeroize_keep T.toWhole _ _ hs
  | drbgReseed a0 a1 => exact execDrbgReseed_keep T.toWhole _ _ hs
  | drbgInstantiate a0 a1 => exact execDrbgInstantiate_keep T.toWhole _ _ hs
  | attest a0 a1 => exact execAttest_keep T.toWhole _ _ hs
  | getIdentity a0 => exact execGetIdentity_keep T.toWhole _ hs
  | debugChallenge a0 => exact execDebugChallenge_keep T.toWhole _ hs
  | debugUnlock a0 a1 => exact execDebugUnlock_keep T.toWhole _ _ hs
  | nop a0 => exact execNop_keep T.toWhole _ hs
  | halt a0 => exact execHalt_keep T.toWhole _ hs
  | endlp a0 => exact execEndlp_keep T.toWhole _ hs
  | br a0 => exact execBr_keep T.toWhole _ hs
  | brc a0 => exact execBrc_keep T.toWhole _ hs
  | loop a0 => exact execLoop_keep T.toWhole _ hs
  | seti a0 => exact execSeti_keep T.toWhole _ hs
  | addi a0 => exact execAddi_keep T.toWhole _ hs
  | alu a0 => exact execAlu_keep T.toWhole _ hs
  | ldc a0 => exact execLdc_keep T.toWhole _ hs
  | rdtime a0 => exact execRdtime_keep T.toWhole _ hs
  | spanEvrec a0 => exact execSpanEvrec_keep T.toWhole _ hs
  | spanEvwait a0 => exact execSpanEvwait_keep T.toWhole _ hs
  | barrier a0 => exact execBarrier_keep T.toWhole _ hs
  | fence a0 => exact execFence_keep T.toWhole _ hs
  | dma a0 => exact execDma_keep T.toWhole _ hs
  | dmaComplete a0 a1 a2 => exact execDmaComplete_keep T.toWhole _ _ _ hs
  | dmaw a0 => exact execDmaw_keep T.toWhole _ hs
  | atadd a0 => exact execAtadd_keep T.toWhole _ hs
  | atswp a0 => exact execAtswp_keep T.toWhole _ hs
  | bset a0 => exact execBset_keep T.toWhole _ hs
  | bclr a0 => exact execBclr_keep T.toWhole _ hs
  | mcast a0 => exact execMcast_keep T.toWhole _ hs
  | deliveryNotice a0 a1 a2 => exact execDeliveryNotice_keep T.toWhole _ _ _ hs
  | cancelNotice a0 a1 a2 => exact execCancelNotice_keep T.toWhole _ _ _ hs
  | mma a0 => exact execMma_keep T.toWhole _ hs
  | mmaz a0 => exact execMmaz_keep T.toWhole _ hs
  | accz a0 => exact execAccz_keep T.toWhole _ hs
  | red a0 => exact execRed_keep T.toWhole _ hs
  | accmv a0 => exact execAccmv_keep T.toWhole _ hs
  | cvt a0 => exact execCvt_keep T.toWhole _ hs
  | ewo a0 => exact execEwo_keep T.toWhole _ hs
  | fldcAccumulate a0 => exact execFldcAccumulate_keep T.toWhole _ hs
  | fldcCommitAdd a0 => exact execFldcCommitAdd_keep T.toWhole _ hs
  | fldcCommitSet a0 => exact execFldcCommitSet_keep T.toWhole _ hs
  | gibbs a0 => exact execGibbs_keep T.toWhole _ hs
  | schedBind a0 => exact execSchedBind_keep T.toWhole _ hs
  | sweep a0 => exact execSweep_keep T.toWhole _ hs
  | fref a0 => exact execFref_keep T.toWhole _ hs
  | eaud a0 => exact execEaud_keep T.toWhole _ hs
  | snap a0 => exact execSnap_keep T.toWhole _ hs
  | xchg a0 => exact execXchg_keep T.toWhole _ hs
  | schedEnd a0 => exact execSchedEnd_keep T.toWhole _ hs
  | rmig a0 => exact execRmig_keep T.toWhole _ hs
  | wrot a0 => exact execWrot_keep T.toWhole _ hs
  | schedNext a0 => exact execSchedNext_keep T.toWhole _ hs
  | illegalOp a0 => exact execIllegalOp_keep T.toWhole _ hs
  | spanEvwaitTimeout a0 => exact execSpanEvwaitTimeout_keep T.toWhole _ hs
  | waitTimeout a0 => exact execWaitTimeout_keep T.toWhole _ hs
  | hangLimit a0 => exact execHangLimit_keep T.toWhole _ hs
  | blockDecide a0 a1 => exact execBlockDecide_keep T.toWhole _ _ hs
  | continuation a0 => exact execContinuation_keep T.toWhole _ hs
  | blockRefresh a0 => exact execBlockRefresh_keep T.toWhole _ hs
  | spanFlipFlit a0 a1 => exact execSpanFlipFlit_keep T.toWhole _ _ hs
  | spanEpochMarker a0 a1 => exact execSpanEpochMarker_keep T.toWhole _ _ hs
  | epochBoundary a0 => exact execEpochBoundary_keep T.toWhole _ hs
  | sweepFlush a0 => exact execSweepFlush_keep T.toWhole _ hs
  | settle a0 => exact execSettle_keep T.toWhole _ hs
  | deadline a0 => exact execDeadline_keep T.toWhole _ hs
  | spanHeartbeatTimeout a0 => exact execSpanHeartbeatTimeout_keep T.toWhole _ hs
  | spanRemap a0 => exact execSpanRemap_keep T.toWhole _ hs
  | scrubPeriod a0 a1 => exact execScrubPeriod_keep T.toWhole _ _ hs
  | routerFailure a0 => exact execRouterFailure_keep T.toWhole _ hs
  | creditTimeout a0 => exact execCreditTimeout_keep T.toWhole _ hs
  | detourInstall a0 a1 => exact execDetourInstall_keep T.toWhole _ _ hs
  | memPeriodicRetrain a0 a1 => exact execMemPeriodicRetrain_keep T.toWhole _ _ hs
  | cxlTimeout a0 => exact execCxlTimeout_keep T.toWhole _ hs
  | cxlLinkLoss a0 => exact execCxlLinkLoss_keep T.toWhole _ hs
  | cplTimeout a0 a1 a2 => exact execCplTimeout_keep T.toWhole _ _ _ hs
  | flr => exact execFlr_keep T.toWhole hs
  | perstNAssert => exact execPerstNAssert_keep T hs
  | perstNRelease a0 => exact execPerstNRelease_keep T.toWhole _ hs
  | pwrEnAssert => exact execPwrEnAssert_keep T hs
  | pwrEnDeassert => exact execPwrEnDeassert_keep T hs
  | vinUndervoltage => exact execVinUndervoltage_keep T hs
  | vinOvervoltage => exact execVinOvervoltage_keep T hs
  | pllLockLoss => exact execPllLockLoss_keep T hs
  | thermalTrip => exact execThermalTrip_keep T hs
  | mainPllLock a0 a1 => exact execMainPllLock_keep T.toWhole _ _ hs
  | knownAnswerTests a0 a1 => exact execKnownAnswerTests_keep T.toWhole _ _ hs
  | marchTest a0 a1 => exact execMarchTest_keep T.toWhole _ _ hs
  | entropyStartupTest a0 a1 => exact execEntropyStartupTest_keep T.toWhole _ _ hs
  | imageVerification a0 a1 a2 a3 a4 => exact execImageVerification_keep T.toWhole _ _ _ _ _ hs
  | gddr7Training a0 => exact execGddr7Training_keep T.toWhole _ hs
  | cxlEnumeration a0 a1 => exact execCxlEnumeration_keep T.toWhole _ _ hs
  | entropyHealthFailure => exact execEntropyHealthFailure_keep T.toWhole hs
  | drbgAutoReseed => exact execDrbgAutoReseed_keep T.toWhole hs
  | drbgReseedDone => exact execDrbgReseedDone_keep T.toWhole hs
  | escalationExpiry => exact execEscalationExpiry_keep T.toWhole hs
  | quietPeriodEnd => exact execQuietPeriodEnd_keep T.toWhole hs
  | watchdogExpiry => exact execWatchdogExpiry_keep T.toWhole hs
  | stallCheck => exact execStallCheck_keep T.toWhole hs
  | exchangeTimeout a0 => exact execExchangeTimeout_keep T.toWhole _ hs
  | thermalControl => exact execThermalControl_keep T.toWhole hs
  | sensorSample a0 a1 => exact execSensorSample_keep T.toWhole _ _ hs
  | voltageSample a0 => exact execVoltageSample_keep T.toWhole _ hs
  | processMonitorWindow a0 a1 => exact execProcessMonitorWindow_keep T.toWhole _ _ hs
  | ppsCapture => exact execPpsCapture_keep T.toWhole hs
  | ppsAccept => exact execPpsAccept_keep T.toWhole hs
  | ppsLost => exact execPpsLost_keep T.toWhole hs
  | timeRollover => exact execTimeRollover_keep T.toWhole hs
  | aliveToggle => exact execAliveToggle_keep T.toWhole hs
  | flipBatch a0 a1 a2 => exact execFlipBatch_keep T.toWhole _ _ _ hs
  | fieldInc a0 a1 a2 a3 => exact execFieldInc_keep T.toWhole _ _ _ _ hs
  | linkAtadd a0 a1 a2 a3 a4 a5 => exact execLinkAtadd_keep T.toWhole _ _ _ _ _ _ hs
  | dmaRd a0 a1 a2 a3 a4 => exact execDmaRd_keep T.toWhole _ _ _ _ _ hs
  | dmaWr a0 a1 a2 a3 a4 a5 => exact execDmaWr_keep T.toWhole _ _ _ _ _ _ hs
  | completion a0 a1 a2 a3 a4 a5 => exact execCompletion_keep T.toWhole _ _ _ _ _ _ hs
  | eventSignal a0 a1 a2 a3 a4 a5 => exact execEventSignal_keep T.toWhole _ _ _ _ _ _ hs
  | fwdCmd a0 a1 a2 a3 a4 => exact execFwdCmd_keep T.toWhole _ _ _ _ _ hs
  | epochMarker a0 a1 a2 => exact execEpochMarker_keep T.toWhole _ _ _ hs
  | sweepEndMarker a0 a1 a2 => exact execSweepEndMarker_keep T.toWhole _ _ _ hs
  | undoEndMarker a0 a1 a2 => exact execUndoEndMarker_keep T.toWhole _ _ _ hs
  | readyMarker a0 a1 a2 => exact execReadyMarker_keep T.toWhole _ _ _ hs
  | runStartMarker a0 a1 a2 => exact execRunStartMarker_keep T.toWhole _ _ _ hs
  | startMarker a0 a1 a2 => exact execStartMarker_keep T.toWhole _ _ _ hs
  | settleUpMarker a0 a1 a2 => exact execSettleUpMarker_keep T.toWhole _ _ _ hs
  | settleDoneMarker a0 a1 a2 => exact execSettleDoneMarker_keep T.toWhole _ _ _ hs
  | minIndex a0 a1 a2 a3 a4 a5 => exact execMinIndex_keep T.toWhole _ _ _ _ _ _ hs
  | param a0 a1 a2 a3 a4 => exact execParam_keep T.toWhole _ _ _ _ _ hs
  | keySwitch a0 a1 a2 a3 => exact execKeySwitch_keep T.toWhole _ _ _ _ hs
  | down a0 a1 a2 => exact execDown_keep T.toWhole _ _ _ hs
  | width a0 a1 a2 a3 => exact execWidth_keep T.toWhole _ _ _ _ hs
  | retrain a0 a1 => exact execRetrain_keep T.toWhole _ _ hs
  | ping a0 a1 a2 => exact execPing_keep T.toWhole _ _ _ hs
  | pong a0 a1 a2 => exact execPong_keep T.toWhole _ _ _ hs
  | badKind a0 a1 => exact execBadKind_keep T.toWhole _ _ hs
  | flitForward a0 a1 a2 a3 a4 => exact execFlitForward_keep T.toWhole _ _ _ _ _ hs
  | flitDiscard a0 a1 a2 a3 => exact execFlitDiscard_keep T.toWhole _ _ _ _ hs
  | replayTimeout a0 => exact execReplayTimeout_keep T.toWhole _ hs
  | replayLimit a0 => exact execReplayLimit_keep T.toWhole _ hs
  | laneFailure a0 a1 => exact execLaneFailure_keep T.toWhole _ _ hs
  | linkTrainingAdvance a0 => exact execLinkTrainingAdvance_keep T.toWhole _ hs
  | linkTrainingTimeout a0 => exact execLinkTrainingTimeout_keep T.toWhole _ hs
  | idleFlit a0 a1 => exact execIdleFlit_keep T.toWhole _ _ hs
  | instructionCompletion a0 a1 => exact execInstructionCompletion_keep T.toWhole _ _ hs
  | marchTestDone a0 a1 => exact execMarchTestDone_keep T.toWhole _ _ hs
  | memTemperatureChange a0 a1 => exact execMemTemperatureChange_keep T.toWhole _ _ hs
  | vinRestored => exact execVinRestored_keep T hs
  | configurationWrite a0 => exact execConfigurationWrite_keep T.toWhole _ hs
  | managementResponseRead => exact execManagementResponseRead_keep T.toWhole hs
  | dynamicAddressAssignment a0 => exact execDynamicAddressAssignment_keep T.toWhole _ hs

/-- Every command but a reset of the die keeps a whole property. -/
theorem exec_whole (W : Whole P) {s : State} (i : Instr) (hi : isDieReset i = false) (hs : P s) : Outs P (exec i s) := by
  cases i with
  | launch a0 => exact execLaunch_keep W _ hs
  | constBuf a0 => exact execConstBuf_keep W _ hs
  | evrec a0 => exact execEvrec_keep W _ hs
  | evwait a0 => exact execEvwait_keep W _ hs
  | copy a0 => exact execCopy_keep W _ hs
  | fill a0 => exact execFill_keep W _ hs
  | pload a0 => exact execPload_keep W _ hs
  | pfree a0 => exact execPfree_keep W _ hs
  | anneal a0 => exact execAnneal_keep W _ hs
  | annealBatch a0 => exact execAnnealBatch_keep W _ hs
  | batchDescriptorTake a0 => exact execBatchDescriptorTake_keep W _ hs
  | endDescriptor a0 => exact execEndDescriptor_keep W _ hs
  | sample a0 => exact execSample_keep W _ hs
  | eval a0 => exact execEval_keep W _ hs
  | ckpt a0 => exact execCkpt_keep W _ hs
  | restore a0 => exact execRestore_keep W _ hs
  | matmul a0 => exact execMatmul_keep W _ hs
  | reduce a0 => exact execReduce_keep W _ hs
  | ewise a0 => exact execEwise_keep W _ hs
  | convert a0 => exact execConvert_keep W _ hs
  | qstop a0 => exact execQstop_keep W _ hs
  | nopc a0 => exact execNopc_keep W _ hs
  | commandFetch a0 => exact execCommandFetch_keep W _ hs
  | commandStart => exact execCommandStart_keep W hs
  | commandCompletion a0 => exact execCommandCompletion_keep W _ hs
  | pierLaunch a0 => exact execPierLaunch_keep W _ hs
  | ctxDoorbell a0 a1 => exact execCtxDoorbell_keep W _ _ hs
  | contextCreate a0 a1 a2 => exact execContextCreate_keep W _ _ _ hs
  | contextDestroy a0 a1 a2 => exact execContextDestroy_keep W _ _ _ hs
  | destroyAbort a0 a1 => exact execDestroyAbort_keep W _ _ hs
  | resume a0 a1 a2 => exact execResume_keep W _ _ _ hs
  | destroyDone a0 => exact execDestroyDone_keep W _ hs
  | ctxCplHead a0 a1 => exact execCtxCplHead_keep W _ _ hs
  | evtValue a0 a1 => exact execEvtValue_keep W _ _ hs
  | evtAdd a0 a1 => exact execEvtAdd_keep W _ _ hs
  | evtErrorClear a0 => exact execEvtErrorClear_keep W _ hs
  | fltAck => exact execFltAck_keep W hs
  | devTimeSet a0 => exact execDevTimeSet_keep W _ hs
  | devSoftReset => exact execDevSoftReset_keep W hs
  | spanReset a0 => exact execSpanReset_keep W _ hs
  | marchTestRequest a0 a1 => exact execMarchTestRequest_keep W _ _ hs
  | memRetrain a0 a1 => exact execMemRetrain_keep W _ _ hs
  | rngReseedRequest => exact execRngReseedRequest_keep W hs
  | rngWord => exact execRngWord_keep W hs
  | linkEnable a0 a1 a2 => exact execLinkEnable_keep W _ _ _ hs
  | linkDisable a0 a1 a2 => exact execLinkDisable_keep W _ _ _ hs
  | linkRetrain a0 => exact execLinkRetrain_keep W _ hs
  | fltQueueClear a0 => exact execFltQueueClear_keep W _ hs
  | msixUnmask a0 => exact execMsixUnmask_keep W _ hs
  | d3hot a0 => exact execD3hot_keep W _ hs
  | registerWrite a0 a1 a2 => exact execRegisterWrite_keep W _ _ _ hs
  | bar2Read a0 a1 a2 => exact execBar2Read_keep W _ _ _ hs
  | bar2Write a0 a1 a2 => exact execBar2Write_keep W _ _ _ hs
  | stallReport a0 => exact execStallReport_keep W _ hs
  | fenceStatus a0 => exact execFenceStatus_keep W _ hs
  | faultState a0 => exact execFaultState_keep W _ hs
  | fwVersion a0 => exact execFwVersion_keep W _ hs
  | rngRead a0 a1 => exact execRngRead_keep W _ _ hs
  | fwWrite a0 a1 a2 a3 a4 => exact execFwWrite_keep W _ _ _ _ _ hs
  | fwVerify a0 a1 a2 => exact execFwVerify_keep W _ _ _ hs
  | fwCommit a0 a1 => exact execFwCommit_keep W _ _ hs
  | selfTest a0 a1 => exact execSelfTest_keep W _ _ hs
  | setSeverity a0 a1 a2 a3 => exact execSetSeverity_keep W _ _ _ _ hs
  | fenceUnit a0 a1 => exact execFenceUnit_keep W _ _ hs
  | setFltParam a0 a1 a2 a3 a4 => exact execSetFltParam_keep W _ _ _ _ _ hs
  | keyInstall a0 a1 a2 a3 a4 a5 => exact execKeyInstall_keep W _ _ _ _ _ _ hs
  | linkKeySwitch a0 a1 => exact execLinkKeySwitch_keep W _ _ hs
  | keyZeroize a0 a1 => exact execKeyZeroize_keep W _ _ hs
  | drbgReseed a0 a1 => exact execDrbgReseed_keep W _ _ hs
  | drbgInstantiate a0 a1 => exact execDrbgInstantiate_keep W _ _ hs
  | attest a0 a1 => exact execAttest_keep W _ _ hs
  | getIdentity a0 => exact execGetIdentity_keep W _ hs
  | debugChallenge a0 => exact execDebugChallenge_keep W _ hs
  | debugUnlock a0 a1 => exact execDebugUnlock_keep W _ _ hs
  | nop a0 => exact execNop_keep W _ hs
  | halt a0 => exact execHalt_keep W _ hs
  | endlp a0 => exact execEndlp_keep W _ hs
  | br a0 => exact execBr_keep W _ hs
  | brc a0 => exact execBrc_keep W _ hs
  | loop a0 => exact execLoop_keep W _ hs
  | seti a0 => exact execSeti_keep W _ hs
  | addi a0 => exact execAddi_keep W _ hs
  | alu a0 => exact execAlu_keep W _ hs
  | ldc a0 => exact execLdc_keep W _ hs
  | rdtime a0 => exact execRdtime_keep W _ hs
  | spanEvrec a0 => exact execSpanEvrec_keep W _ hs
  | spanEvwait a0 => exact execSpanEvwait_keep W _ hs
  | barrier a0 => exact execBarrier_keep W _ hs
  | fence a0 => exact execFence_keep W _ hs
  | dma a0 => exact execDma_keep W _ hs
  | dmaComplete a0 a1 a2 => exact execDmaComplete_keep W _ _ _ hs
  | dmaw a0 => exact execDmaw_keep W _ hs
  | atadd a0 => exact execAtadd_keep W _ hs
  | atswp a0 => exact execAtswp_keep W _ hs
  | bset a0 => exact execBset_keep W _ hs
  | bclr a0 => exact execBclr_keep W _ hs
  | mcast a0 => exact execMcast_keep W _ hs
  | deliveryNotice a0 a1 a2 => exact execDeliveryNotice_keep W _ _ _ hs
  | cancelNotice a0 a1 a2 => exact execCancelNotice_keep W _ _ _ hs
  | mma a0 => exact execMma_keep W _ hs
  | mmaz a0 => exact execMmaz_keep W _ hs
  | accz a0 => exact execAccz_keep W _ hs
  | red a0 => exact execRed_keep W _ hs
  | accmv a0 => exact execAccmv_keep W _ hs
  | cvt a0 => exact execCvt_keep W _ hs
  | ewo a0 => exact execEwo_keep W _ hs
  | fldcAccumulate a0 => exact execFldcAccumulate_keep W _ hs
  | fldcCommitAdd a0 => exact execFldcCommitAdd_keep W _ hs
  | fldcCommitSet a0 => exact execFldcCommitSet_keep W _ hs
  | gibbs a0 => exact execGibbs_keep W _ hs
  | schedBind a0 => exact execSchedBind_keep W _ hs
  | sweep a0 => exact execSweep_keep W _ hs
  | fref a0 => exact execFref_keep W _ hs
  | eaud a0 => exact execEaud_keep W _ hs
  | snap a0 => exact execSnap_keep W _ hs
  | xchg a0 => exact execXchg_keep W _ hs
  | schedEnd a0 => exact execSchedEnd_keep W _ hs
  | rmig a0 => exact execRmig_keep W _ hs
  | wrot a0 => exact execWrot_keep W _ hs
  | schedNext a0 => exact execSchedNext_keep W _ hs
  | illegalOp a0 => exact execIllegalOp_keep W _ hs
  | spanEvwaitTimeout a0 => exact execSpanEvwaitTimeout_keep W _ hs
  | waitTimeout a0 => exact execWaitTimeout_keep W _ hs
  | hangLimit a0 => exact execHangLimit_keep W _ hs
  | blockDecide a0 a1 => exact execBlockDecide_keep W _ _ hs
  | continuation a0 => exact execContinuation_keep W _ hs
  | blockRefresh a0 => exact execBlockRefresh_keep W _ hs
  | spanFlipFlit a0 a1 => exact execSpanFlipFlit_keep W _ _ hs
  | spanEpochMarker a0 a1 => exact execSpanEpochMarker_keep W _ _ hs
  | epochBoundary a0 => exact execEpochBoundary_keep W _ hs
  | sweepFlush a0 => exact execSweepFlush_keep W _ hs
  | settle a0 => exact execSettle_keep W _ hs
  | deadline a0 => exact execDeadline_keep W _ hs
  | spanHeartbeatTimeout a0 => exact execSpanHeartbeatTimeout_keep W _ hs
  | spanRemap a0 => exact execSpanRemap_keep W _ hs
  | scrubPeriod a0 a1 => exact execScrubPeriod_keep W _ _ hs
  | routerFailure a0 => exact execRouterFailure_keep W _ hs
  | creditTimeout a0 => exact execCreditTimeout_keep W _ hs
  | detourInstall a0 a1 => exact execDetourInstall_keep W _ _ hs
  | memPeriodicRetrain a0 a1 => exact execMemPeriodicRetrain_keep W _ _ hs
  | cxlTimeout a0 => exact execCxlTimeout_keep W _ hs
  | cxlLinkLoss a0 => exact execCxlLinkLoss_keep W _ hs
  | cplTimeout a0 a1 a2 => exact execCplTimeout_keep W _ _ _ hs
  | flr => exact execFlr_keep W hs
  | perstNAssert => simp [isDieReset] at hi
  | perstNRelease a0 => exact execPerstNRelease_keep W _ hs
  | pwrEnAssert => simp [isDieReset] at hi
  | pwrEnDeassert => simp [isDieReset] at hi
  | vinUndervoltage => simp [isDieReset] at hi
  | vinOvervoltage => simp [isDieReset] at hi
  | pllLockLoss => simp [isDieReset] at hi
  | thermalTrip => simp [isDieReset] at hi
  | mainPllLock a0 a1 => exact execMainPllLock_keep W _ _ hs
  | knownAnswerTests a0 a1 => exact execKnownAnswerTests_keep W _ _ hs
  | marchTest a0 a1 => exact execMarchTest_keep W _ _ hs
  | entropyStartupTest a0 a1 => exact execEntropyStartupTest_keep W _ _ hs
  | imageVerification a0 a1 a2 a3 a4 => exact execImageVerification_keep W _ _ _ _ _ hs
  | gddr7Training a0 => exact execGddr7Training_keep W _ hs
  | cxlEnumeration a0 a1 => exact execCxlEnumeration_keep W _ _ hs
  | entropyHealthFailure => exact execEntropyHealthFailure_keep W hs
  | drbgAutoReseed => exact execDrbgAutoReseed_keep W hs
  | drbgReseedDone => exact execDrbgReseedDone_keep W hs
  | escalationExpiry => exact execEscalationExpiry_keep W hs
  | quietPeriodEnd => exact execQuietPeriodEnd_keep W hs
  | watchdogExpiry => exact execWatchdogExpiry_keep W hs
  | stallCheck => exact execStallCheck_keep W hs
  | exchangeTimeout a0 => exact execExchangeTimeout_keep W _ hs
  | thermalControl => exact execThermalControl_keep W hs
  | sensorSample a0 a1 => exact execSensorSample_keep W _ _ hs
  | voltageSample a0 => exact execVoltageSample_keep W _ hs
  | processMonitorWindow a0 a1 => exact execProcessMonitorWindow_keep W _ _ hs
  | ppsCapture => exact execPpsCapture_keep W hs
  | ppsAccept => exact execPpsAccept_keep W hs
  | ppsLost => exact execPpsLost_keep W hs
  | timeRollover => exact execTimeRollover_keep W hs
  | aliveToggle => exact execAliveToggle_keep W hs
  | flipBatch a0 a1 a2 => exact execFlipBatch_keep W _ _ _ hs
  | fieldInc a0 a1 a2 a3 => exact execFieldInc_keep W _ _ _ _ hs
  | linkAtadd a0 a1 a2 a3 a4 a5 => exact execLinkAtadd_keep W _ _ _ _ _ _ hs
  | dmaRd a0 a1 a2 a3 a4 => exact execDmaRd_keep W _ _ _ _ _ hs
  | dmaWr a0 a1 a2 a3 a4 a5 => exact execDmaWr_keep W _ _ _ _ _ _ hs
  | completion a0 a1 a2 a3 a4 a5 => exact execCompletion_keep W _ _ _ _ _ _ hs
  | eventSignal a0 a1 a2 a3 a4 a5 => exact execEventSignal_keep W _ _ _ _ _ _ hs
  | fwdCmd a0 a1 a2 a3 a4 => exact execFwdCmd_keep W _ _ _ _ _ hs
  | epochMarker a0 a1 a2 => exact execEpochMarker_keep W _ _ _ hs
  | sweepEndMarker a0 a1 a2 => exact execSweepEndMarker_keep W _ _ _ hs
  | undoEndMarker a0 a1 a2 => exact execUndoEndMarker_keep W _ _ _ hs
  | readyMarker a0 a1 a2 => exact execReadyMarker_keep W _ _ _ hs
  | runStartMarker a0 a1 a2 => exact execRunStartMarker_keep W _ _ _ hs
  | startMarker a0 a1 a2 => exact execStartMarker_keep W _ _ _ hs
  | settleUpMarker a0 a1 a2 => exact execSettleUpMarker_keep W _ _ _ hs
  | settleDoneMarker a0 a1 a2 => exact execSettleDoneMarker_keep W _ _ _ hs
  | minIndex a0 a1 a2 a3 a4 a5 => exact execMinIndex_keep W _ _ _ _ _ _ hs
  | param a0 a1 a2 a3 a4 => exact execParam_keep W _ _ _ _ _ hs
  | keySwitch a0 a1 a2 a3 => exact execKeySwitch_keep W _ _ _ _ hs
  | down a0 a1 a2 => exact execDown_keep W _ _ _ hs
  | width a0 a1 a2 a3 => exact execWidth_keep W _ _ _ _ hs
  | retrain a0 a1 => exact execRetrain_keep W _ _ hs
  | ping a0 a1 a2 => exact execPing_keep W _ _ _ hs
  | pong a0 a1 a2 => exact execPong_keep W _ _ _ hs
  | badKind a0 a1 => exact execBadKind_keep W _ _ hs
  | flitForward a0 a1 a2 a3 a4 => exact execFlitForward_keep W _ _ _ _ _ hs
  | flitDiscard a0 a1 a2 a3 => exact execFlitDiscard_keep W _ _ _ _ hs
  | replayTimeout a0 => exact execReplayTimeout_keep W _ hs
  | replayLimit a0 => exact execReplayLimit_keep W _ hs
  | laneFailure a0 a1 => exact execLaneFailure_keep W _ _ hs
  | linkTrainingAdvance a0 => exact execLinkTrainingAdvance_keep W _ hs
  | linkTrainingTimeout a0 => exact execLinkTrainingTimeout_keep W _ hs
  | idleFlit a0 a1 => exact execIdleFlit_keep W _ _ hs
  | instructionCompletion a0 a1 => exact execInstructionCompletion_keep W _ _ hs
  | marchTestDone a0 a1 => exact execMarchTestDone_keep W _ _ hs
  | memTemperatureChange a0 a1 => exact execMemTemperatureChange_keep W _ _ hs
  | vinRestored => simp [isDieReset] at hi
  | configurationWrite a0 => exact execConfigurationWrite_keep W _ hs
  | managementResponseRead => exact execManagementResponseRead_keep W hs
  | dynamicAddressAssignment a0 => exact execDynamicAddressAssignment_keep W _ hs

end Sys2Proof.Machine
end

