-- ==== Sys2Proof/Laws/Rows.lean ====
section
/-! SUPPORT. What each shared frame of a row does in the situation the row is for: issuing a span instruction, starting a
command, handling a request, taking a flit; and that nothing goes on in a quiet state.
-/

namespace Sys2Proof.Machine

/-- The instruction that an issuing pier issues. -/
theorem Issuing.atIssue {s : State} {n : Nat} {l : Launch} {i : SpanInstr} (h : Issuing s n l i) :
    s.atIssue n = some (l, some i) := by
  unfold State.atIssue
  have hl : (s.pier n).live = true := by
    rcases h.live with e | e <;> simp [Pier.live, h.launch, e]
  simp [h.launch, h.running, hl, h.free, h.inside, h.room, h.unfenced, h.word]

/-- The row of an issuing pier's instruction makes that instruction's effect. -/
theorem Issuing.issue {s t : State} {n : Nat} {l : Launch} {i : SpanInstr} {act : Launch → SpanInstr → Pier → State → Option State}
    (h : Issuing s n l i) (ha : act l i (s.pier n) (s.modPier n (fun p => { p with code := 1 })) = some t) :
    s.issue n act = t.carryOn := by
  unfold State.issue
  simp [h.atIssue, h.hazard, ha]

/-- The row of a command that has started makes that command's effect. -/
theorem Starting.withCmd {s : State} {c : Nat} {b : Bool} {op : Nat} {e : Exec} {bad : Exec → Option Nat}
    {f : Bool → Exec → State → State} (h : Starting s c b op e) (hb : bad e = none) :
    s.withCmd c op bad f = f b e s := by
  have hc := h.cmd
  unfold State.withCmd
  cases b with
  | false =>
    have he : (s.ctx c).exec = some e := by simpa [State.execOf] using hc
    simp [h.front rfl, he, h.opcode, h.phase, h.alive, h.running, h.event, h.fresh rfl, hb]
  | true =>
    have he : (s.ctx c).batch.bind (fun t => t.cur) = some e := by simpa [State.execOf] using hc
    simp [he, h.opcode, h.phase, h.alive, h.running, h.event, hb]

/-- The port handles a request and answers it. -/
theorem Requesting.requestOn {s t : State} {i : Instr} {seq : BitVec 16} {st : MgmtStatus} {data : List Byte}
    (h : Requesting s i) (hd : s.handle true i = .done st data t) :
    s.requestOn (.i3c seq) i = (t.answered i seq st data).carryOn := by
  simp [State.requestOn, h.port, h.idle, h.read, State.tryRequest, h.gate, hd, State.modSec, State.respond,
    State.answered]

/-- A flit that arrives in order is accepted, delivered here or forwarded, and the link sends what it now can. -/
theorem Arriving.receive {s : State} {l : Nat} {h : FlitHdr} {kind aux : Nat} {payload : List Byte} {f : State → State}
    (ha : Arriving s l h) :
    s.receive l h kind aux payload f =
      ((if s.mine h then f (s.modLink l (fun x => (x.corrected h).accept h s.now))
        else (s.modLink l (fun x => (x.corrected h).accept h s.now)).forwardFlit l h kind aux payload).pumpLink l).carryOn := by
  have hm : (s.modLink l (fun x => (x.corrected h).accept h s.now)).mine h = s.mine h := rfl
  simp [State.receive, ha.running, ha.active, ha.next, ha.free, hm]

/-! ### Quiet states -/

theorem Quiet.quiesce {s : State} (h : Quiet s) : s.quiesce = s := by
  have hd : spanIds.any (fun n => s.pierDue n) = false := by
    rw [List.any_eq_false]
    intro n hn
    simp [h.piers n (by simpa [spanIds] using hn)]
  simp [State.quiesce, State.quiesceFor, hd]

theorem Quiet.sysOn {s : State} (h : Quiet s) (k : Nat) : s.sysOn k = s := by
  induction k with
  | zero => rfl
  | succ k ih => simp [State.sysOn, h.runs, ih]

theorem Quiet.annealStep {s : State} (h : Quiet s) : s.annealStep = none := by
  have ho : spanIds.findSome? s.orderStep = none := by
    rw [List.findSome?_eq_none_iff]
    intro n hn
    simp [State.orderStep, h.heads n (by simpa [spanIds] using hn)]
  have hk : spanIds.filterMap (fun n => if s.headOrder n = some 0 then
      (s.pier n).launch.map (fun l => (l.ctx, l.cmd, l.batch)) else none) = [] := by
    rw [List.filterMap_eq_nil_iff]
    intro n hn
    simp [h.heads n (by simpa [spanIds] using hn)]
  simp [State.annealStep, ho, h.runs, hk]

theorem Quiet.annealOn {s : State} (h : Quiet s) (k : Nat) : s.annealOn k = s := by
  cases k with
  | zero => rfl
  | succ k => simp [State.annealOn, h.annealStep]

end Sys2Proof.Machine
end

