-- ==== Sys2Proof/Laws/Signals.lean ====
section
/-! SUPPORT. What raising an interrupt vector and entering a raise leave alone (R409, R415): a vector changes the pending bits,
`DEV_HERR` and what the bus has sent, and nothing else.
-/

namespace Sys2Proof.Machine

/-- A vector changes the function's pending bits and error bits and the messages sent only. -/
theorem State.raiseVector_rest (v : Nat) (s : State) : { s.raiseVector v with pcie := s.pcie, bus := s.bus } = s := by
  unfold State.raiseVector State.sendMsix State.setHerr
  repeat' split
  all_goals rfl

@[simp] theorem State.raiseVector_pending (v : Nat) (s : State) : (s.raiseVector v).pending = s.pending := by
  have h := congrArg State.pending (State.raiseVector_rest v s); exact h
@[simp] theorem State.raiseVector_pwr (v : Nat) (s : State) : (s.raiseVector v).pwr = s.pwr := by
  have h := congrArg State.pwr (State.raiseVector_rest v s); exact h
@[simp] theorem State.raiseVector_boot (v : Nat) (s : State) : (s.raiseVector v).boot = s.boot := by
  have h := congrArg State.boot (State.raiseVector_rest v s); exact h
@[simp] theorem State.raiseVector_time (v : Nat) (s : State) : (s.raiseVector v).time = s.time := by
  have h := congrArg State.time (State.raiseVector_rest v s); exact h
@[simp] theorem State.raiseVector_mon (v : Nat) (s : State) : (s.raiseVector v).mon = s.mon := by
  have h := congrArg State.mon (State.raiseVector_rest v s); exact h
@[simp] theorem State.raiseVector_flt (v : Nat) (s : State) : (s.raiseVector v).flt = s.flt := by
  have h := congrArg State.flt (State.raiseVector_rest v s); exact h
@[simp] theorem State.raiseVector_blocks (v : Nat) (s : State) : (s.raiseVector v).blocks = s.blocks := by
  have h := congrArg State.blocks (State.raiseVector_rest v s); exact h
@[simp] theorem State.raiseVector_sec (v : Nat) (s : State) : (s.raiseVector v).sec = s.sec := by
  have h := congrArg State.sec (State.raiseVector_rest v s); exact h
@[simp] theorem State.raiseVector_mbx (v : Nat) (s : State) : (s.raiseVector v).mbx = s.mbx := by
  have h := congrArg State.mbx (State.raiseVector_rest v s); exact h
@[simp] theorem State.raiseVector_mesh (v : Nat) (s : State) : (s.raiseVector v).mesh = s.mesh := by
  have h := congrArg State.mesh (State.raiseVector_rest v s); exact h
@[simp] theorem State.raiseVector_mems (v : Nat) (s : State) : (s.raiseVector v).mems = s.mems := by
  have h := congrArg State.mems (State.raiseVector_rest v s); exact h
@[simp] theorem State.raiseVector_cxls (v : Nat) (s : State) : (s.raiseVector v).cxls = s.cxls := by
  have h := congrArg State.cxls (State.raiseVector_rest v s); exact h
@[simp] theorem State.raiseVector_links (v : Nat) (s : State) : (s.raiseVector v).links = s.links := by
  have h := congrArg State.links (State.raiseVector_rest v s); exact h
@[simp] theorem State.raiseVector_linkSys (v : Nat) (s : State) : (s.raiseVector v).linkSys = s.linkSys := by
  have h := congrArg State.linkSys (State.raiseVector_rest v s); exact h
@[simp] theorem State.raiseVector_spans (v : Nat) (s : State) : (s.raiseVector v).spans = s.spans := by
  have h := congrArg State.spans (State.raiseVector_rest v s); exact h
@[simp] theorem State.raiseVector_ctxs (v : Nat) (s : State) : (s.raiseVector v).ctxs = s.ctxs := by
  have h := congrArg State.ctxs (State.raiseVector_rest v s); exact h
@[simp] theorem State.raiseVector_events (v : Nat) (s : State) : (s.raiseVector v).events = s.events := by
  have h := congrArg State.events (State.raiseVector_rest v s); exact h
@[simp] theorem State.raiseVector_fe (v : Nat) (s : State) : (s.raiseVector v).fe = s.fe := by
  have h := congrArg State.fe (State.raiseVector_rest v s); exact h
@[simp] theorem State.raiseVector_problems (v : Nat) (s : State) : (s.raiseVector v).problems = s.problems := by
  have h := congrArg State.problems (State.raiseVector_rest v s); exact h
@[simp] theorem State.raiseVector_runs (v : Nat) (s : State) : (s.raiseVector v).runs = s.runs := by
  have h := congrArg State.runs (State.raiseVector_rest v s); exact h
@[simp] theorem State.raiseVector_early (v : Nat) (s : State) : (s.raiseVector v).early = s.early := by
  have h := congrArg State.early (State.raiseVector_rest v s); exact h
@[simp] theorem State.raiseVector_ckpts (v : Nat) (s : State) : (s.raiseVector v).ckpts = s.ckpts := by
  have h := congrArg State.ckpts (State.raiseVector_rest v s); exact h
@[simp] theorem State.raiseVector_mem (v : Nat) (s : State) : (s.raiseVector v).mem = s.mem := by
  have h := congrArg State.mem (State.raiseVector_rest v s); exact h
@[simp] theorem State.raiseVector_poison (v : Nat) (s : State) : (s.raiseVector v).poison = s.poison := by
  have h := congrArg State.poison (State.raiseVector_rest v s); exact h
@[simp] theorem State.raiseVector_free (v : Nat) (s : State) : (s.raiseVector v).free = s.free := by
  have h := congrArg State.free (State.raiseVector_rest v s); exact h

@[simp] theorem State.raiseVector_block (v : Nat) (s : State) (b : BlockId) : (s.raiseVector v).block b = s.block b := by
  simp [State.block]

/-- Entering a raise changes the fault interface of one block, the FLT block's timers, and what a vector changes. -/
theorem State.enterRaise_rest (s : State) (b : BlockId) (k : Nat) (m : Bool) (d : Nat) :
    { s.enterRaise b k m d with blocks := s.blocks, flt := s.flt, pcie := s.pcie, bus := s.bus } = s := by
  let P : State → Prop := fun (x : State) => { x with blocks := s.blocks, flt := s.flt, pcie := s.pcie, bus := s.bus } = s
  have hv : ∀ v x, P x → P (State.raiseVector v x) := fun v x h =>
    (congrArg (fun (y : State) => { y with blocks := s.blocks, flt := s.flt, pcie := s.pcie, bus := s.bus })
      (State.raiseVector_rest v x)).trans h
  show P (s.enterRaise b k m d)
  unfold State.enterRaise State.startEscalation State.withFlt
  extract_lets sev irq t₁ t₂ t₃ f t₄
  have h₁ : P t₁ := rfl
  have h₂ : P t₂ := ite_keep (hv _ _ h₁) h₁
  have h₃ : P t₃ := ite_keep (hv _ _ h₂) h₂
  have h₄ : P t₄ := ite_keep (P := P) h₃ h₃
  exact ite_keep (P := P) (ite_keep (P := P) h₄ h₄) h₄

/-- What entering a raise leaves in the block's fault interface and in the FLT block. -/
theorem State.enterRaise_takes (s : State) (b : BlockId) (k : Nat) (m : Bool) (d : Nat) :
    (s.enterRaise b k m d).block b =
      { (s.block b).enter ⟨s.now, s.time.sec, s.time.sub, k, s.appliedSeverity b k, m, d⟩ with
        status := (s.block b).status ||| (1#32 <<< k),
        corr := if s.appliedSeverity b k = 1 then satInc (s.block b).corr else (s.block b).corr } ∧
    (s.enterRaise b k m d).flt =
      if s.appliedSeverity b k = 3 ∧ s.flt.state = 0 then
        { s.flt with state := 1, esc := some ⟨s.now, s.flt.escTime * tickMs⟩ }
      else if (2 ≤ s.appliedSeverity b k ∨ m = true) ∧ s.inQuiet = true then { s.flt with quietFrom := s.now } else s.flt := by
  let B : FltIf := { (s.block b).enter ⟨s.now, s.time.sec, s.time.sub, k, s.appliedSeverity b k, m, d⟩ with
        status := (s.block b).status ||| (1#32 <<< k),
        corr := if s.appliedSeverity b k = 1 then satInc (s.block b).corr else (s.block b).corr }
  let P : State → Prop := fun (x : State) => x.block b = B ∧ x.flt = s.flt ∧ x.time = s.time
  have hv : ∀ v x, P x → P (State.raiseVector v x) := fun v x h => by
    refine ⟨?_, ?_, ?_⟩ <;> simp [h.1, h.2.1, h.2.2]
  unfold State.enterRaise State.startEscalation State.withFlt
  extract_lets sev irq t₁ t₂ t₃ f t₄
  have h₁ : P t₁ := ⟨by simp [t₁, B, sev], rfl, rfl⟩
  have h₂ : P t₂ := ite_keep (hv _ _ h₁) h₁
  have h₃ : P t₃ := ite_keep (hv _ _ h₂) h₂
  have b₄ : t₄.block b = B := by
    show (if _ then _ else _ : State).block b = B
    split
    · exact h₃.1
    · exact h₃.1
  have f₄ : t₄.flt = if (2 ≤ sev ∨ m = true) ∧ s.inQuiet = true then { s.flt with quietFrom := s.now } else s.flt := by
    show (if _ then _ else _ : State).flt = _
    have n₃ : t₃.now = s.now := congrArg Time.ticks h₃.2.2
    have q₃ : t₃.inQuiet = s.inQuiet := by unfold State.inQuiet; rw [h₃.2.1, n₃]
    by_cases hc : (2 ≤ sev ∨ m = true) ∧ s.inQuiet = true
    · rw [if_pos hc, if_pos (by simpa [q₃] using hc)]
      show ({ f with quietFrom := t₃.now } : Flt) = _
      rw [n₃, show f = s.flt from h₃.2.1]
    · rw [if_neg hc, if_neg (by simpa [q₃] using hc)]
      exact h₃.2.1
  have i₄ : t₄.now = s.now := by
    show (if _ then _ else _ : State).now = s.now
    split
    · exact congrArg Time.ticks h₃.2.2
    · exact congrArg Time.ticks h₃.2.2
  have s₄ : t₄.flt.state = s.flt.state := by rw [f₄]; split <;> rfl
  have e₄ : t₄.flt.escTime = s.flt.escTime := by rw [f₄]; split <;> rfl
  constructor
  · split
    · split
      · exact b₄
      · exact b₄
    · exact b₄
  · by_cases h3 : sev = 3
    · by_cases h0 : s.flt.state = 0
      · have z : ¬ ((2 ≤ sev ∨ m = true) ∧ s.inQuiet = true) := by simp [State.inQuiet, h0]
        rw [if_pos h3, if_pos (by rw [s₄]; exact h0), if_pos ⟨h3, h0⟩]
        show ({ t₄.flt with state := 1, esc := some ⟨t₄.now, t₄.flt.escTime * tickMs⟩ } : Flt) = _
        rw [i₄, e₄, f₄, if_neg z]
      · rw [if_pos h3, if_neg (by rw [s₄]; exact h0), if_neg (fun h => h0 h.2)]
        exact f₄
    · rw [if_neg h3, if_neg (fun h => h3 h.1)]
      exact f₄

end Sys2Proof.Machine
end

