-- ==== Sys2Proof/Tests/Slice0.lean ====
section
/-! SUPPORT. The author's own tests: ill-formed commands that WellFormed refuses, instruction words written out from the
spec's tables, single steps on small states, and a state that meets the hypotheses of each statement in
Certificates/Slice0/Obligations.lean.
-/

namespace Sys2Proof.Machine.Tests

open Sys2Proof Sys2Proof.Machine

set_option Elab.async false

/-! ### Well-formedness -/

/-- A flit header with sequence number 0 for module 0. -/
def hdr0 : FlitHdr := ⟨0, 0, false, 2, 0, 1, 4, 0, 0, 0, 0⟩

theorem test_wf_bar2Read :
    (Instr.bar2Read 0 [] []).wf = false ∧ (Instr.bar2Read 0 (List.replicate 4097 true) []).wf = false ∧
    (Instr.bar2Read 0x3FFFFFFFFF [true, true] []).wf = false ∧ (Instr.bar2Read 0 [true] [.spanCe 0 0 (2 ^ 28)]).wf = false ∧
    (Instr.bar2Read 0x3FFFFFFFFC [true, false, true, true] [.spanCe 0 0 5]).wf = true := by decide +kernel

theorem test_wf_bar2Write :
    (Instr.bar2Write 0 [] []).wf = false ∧ (Instr.bar2Write 0 (List.replicate 4097 none) []).wf = false ∧
    (Instr.bar2Write 0x3FFFFFFFFF [none, none] []).wf = false ∧ (Instr.bar2Write 0 [none] [.crc 0 0 true]).wf = false ∧
    (Instr.bar2Write 0 [some 1] []).wf = true := by decide +kernel

theorem test_wf_events :
    (Instr.dmaComplete 0 0 [.ramUe (2 ^ 48)]).wf = false ∧ (Instr.blockDecide 0 [.cxlPoison (2 ^ 48)]).wf = false ∧
    (Instr.scrubPeriod 0 [.cxlTag 0 (2 ^ 48)]).wf = false ∧ (Instr.scrubPeriod 0 [.spanUe 0 0 (2 ^ 28)]).wf = false ∧
    (Instr.scrubPeriod 0 [.ramCe (2 ^ 48)]).wf = false ∧ (Instr.scrubPeriod 0 [.ramCe 0]).wf = true := by decide +kernel

theorem test_wf_boot :
    (Instr.marchTest [⟨0, 0, 0, 0⟩] false).wf = false ∧ (Instr.marchTestDone 0 [⟨0, 0, 0, 0⟩]).wf = false ∧
    (Instr.cxlEnumeration ⟨true, true, 1, 0, 0, true⟩ ⟨false, false, 0, 0, 0, false⟩).wf = false ∧
    (Instr.cxlEnumeration ⟨false, false, 0, 0, 0, false⟩ ⟨true, true, 1, 0, 0, true⟩).wf = false ∧
    (Instr.gddr7Training []).wf = false ∧ (Instr.marchTest [⟨0, 0, 0, 1⟩] false).wf = true := by decide +kernel

theorem test_wf_samples :
    (Instr.sensorSample [] (List.replicate 4 0)).wf = false ∧ (Instr.sensorSample (List.replicate 24 0) []).wf = false ∧
    (Instr.voltageSample []).wf = false ∧ (Instr.sensorSample (List.replicate 24 0) (List.replicate 4 0)).wf = true := by
  decide +kernel

theorem test_wf_configuration :
    (Instr.configurationWrite (.bar2Size 27)).wf = false ∧ (Instr.configurationWrite (.bar2Size 39)).wf = false ∧
    (Instr.configurationWrite (.maxPayload 1024)).wf = false ∧ (Instr.configurationWrite (.maxReadRequest 64)).wf = false ∧
    (Instr.configurationWrite (.completionTimeout 0)).wf = false ∧ (Instr.configurationWrite (.bar2Size 38)).wf = true := by
  decide +kernel

theorem test_wf_requests :
    (Instr.fwWrite .mailbox .image 0 0 []).wf = false ∧ (Instr.fwWrite .mailbox .image 0 0 (List.replicate 4097 0)).wf = false ∧
    (Instr.fwWrite .mailbox .image 0 0 [1]).wf = true := by decide +kernel

theorem test_wf_messages :
    (Instr.flipBatch 0 hdr0 ⟨0, 0, 0, 0, List.replicate 29 ⟨0, 0, false, false, false⟩⟩).wf = false ∧
    (Instr.fieldInc 0 hdr0 0 (List.replicate 19 ⟨0, 0, 0⟩)).wf = false ∧ (Instr.dmaRd 0 hdr0 0 0 0).wf = false ∧
    (Instr.dmaRd 0 hdr0 0 4097 0).wf = false ∧ (Instr.dmaWr 0 hdr0 0 0 false []).wf = false ∧
    (Instr.dmaWr 0 hdr0 0 0 false (List.replicate 225 0)).wf = false ∧
    (Instr.completion 0 hdr0 0 0 0 (List.replicate 225 0)).wf = false ∧ (Instr.fwdCmd 0 hdr0 0 0 []).wf = false ∧
    (Instr.flitForward 0 hdr0 0 0 []).wf = false ∧ (Instr.flitForward 0 hdr0 1 0 (List.replicate 241 0)).wf = false ∧
    (Instr.dmaRd 0 hdr0 0 4096 0).wf = true := by decide +kernel

/-! ### Instruction words, written out from Tables 11.3, 11.4, 11.6, 11.7, 12.3, 12.4 and 12.8 -/

/-- Bits 63 to 0 of each word, from its table: opcode, then the register fields, then what the table names. -/
theorem test_span_words :
    decodeSpan 0x08180001DEADBEEF = some (.seti 3 true 0xDEADBEEF) ∧
    decodeSpan 0x0A08860000000008 = some (.alu 1 2 3 8) ∧
    decodeSpan 0x0307C00005FFFFFE = some (.brc 31 5 0xFFFFFE) ∧
    decodeSpan 0x11200A123450ABCD = some (.evwait 4 5 0x12345 0xABCD) ∧
    decodeSpan 0x1208000007F08001 = some (.barrier 1 0x7F 0x8001) := by decide +kernel

theorem test_memory_words :
    decodeSpan 0x200044300000001F = some (.dma 1 2 3 31) ∧
    decodeSpan 0x2231D00000000003 = some (.atadd 6 7 8 true true) := by decide +kernel

theorem test_tensor_words :
    decodeSpan 0x304A96006C9D5104 = some (.mma 9 10 11 3 1 true false ⟨2, 3, 0x55⟩ 0x104) ∧
    decodeSpan 0x351001000007F000 = some (.accz 2 0x80 0 ⟨0, 0, 127⟩) ∧
    decodeSpan 0x4740400000000702 = some (.sched 8 1 7 2) := by decide +kernel

theorem test_undefined_words : decodeSpan 0x0600000000000000 = none ∧ decodeSpan 0xFF00000000000000 = none := by decide +kernel

/-! ### States for the statements -/

/-- The device is ready: the boot is over and the RNG is READY. -/
def ready : State :=
  { State.reset with boot := { boot0 with ready := true, stage := 12 },
                     sec := { sec0 with rng := 1, identityOk := true } }

/-- `ready` in a fault state, with what belongs to it. -/
def inState (k : Nat) (esc : Option EscTimer) : State :=
  { ready with flt := { flt0 with state := k, esc := esc }, pwr := { power0 with aliveRun := decide (k < 2) } }

/-! ### The machine as a whole -/

theorem witness_IdleStepIsOneTick :
    State.reset.pending = [] ∧ State.reset.running = true ∧
    ({ State.reset with pwr := { power0 with perst := true } } : State).running = false := by decide +kernel

/-- A state from which a step goes, with the invariant. -/
theorem witness_StepKeepsInv : Inv ready ∧ ∃ t, step { ready with pending := [.fltAck] } = .next t :=
  ⟨⟨rfl, by decide, by decide, by decide⟩, _, rfl⟩

/-- One unit of each kind is fenced, a set of lanes among them, and a command that is no reset goes. -/
theorem witness_FencesLast :
    let s : State := { ready with flt := { flt0 with spans := 0x8000, mems := 0x80, links := 8, lanes := [(2, 0x81)], cxls := 2 } }
    isDieReset .fltAck = false ∧ (∃ t, exec .fltAck s = .next t) ∧ s.spanFenced 15 = true ∧ s.memFenced 7 = true ∧
    s.linkFenced 3 = true ∧ (s.fencedLanes 2).getLsbD 7 = true ∧ s.cxlFenced 1 = true :=
  ⟨rfl, ⟨_, rfl⟩, rfl, rfl, rfl, rfl, rfl⟩

theorem witness_GoingOnFrame : Memory.wf ready.mem = true := rfl

theorem witness_NothingGoesOnWhenQuiet : Quiet ready := ⟨rfl, fun _ _ => rfl, fun _ _ => rfl, fun _ _ => rfl⟩

/-! ### Time and monitors -/

theorem witness_TimeCounts :
    let t : Time := { time0 with sub := 249999999 }
    let edge (now : Nat) : Time := { time0 with cap := some ⟨0, 0, 0⟩, ticks := now }
    (∃ c, (edge 24).cap = some c ∧ c.tick + 24 ≤ (edge 24).ticks) ∧ (∃ c, (edge 23).cap = some c ∧ ¬ c.tick + 24 ≤ (edge 23).ticks) ∧
    time0.hold = 0 ∧ ({ time0 with sub := 249999998 } : Time).sub < 249999999 ∧ t.hold = 0 ∧ t.setTo = none ∧
    ({ t with setTo := some 0xFFFFFFFF } : Time).setTo = some 0xFFFFFFFF :=
  ⟨⟨_, rfl, Nat.le_refl _⟩, ⟨_, rfl, by decide⟩, by decide +kernel⟩

theorem witness_TimeIsSetAtRollover :
    ready.barOk = true ∧ ready.running = true ∧ ({ time0 with sub := 249999999 } : Time).sub < 250000000 := by decide +kernel

/-- An edge inside the half second, one at its end, and captured edges whose offsets are 0, 8, 9, -8 and -9 ticks. -/
theorem witness_PpsEdges :
    let at_ (a now : Nat) : State := { ready with time := { time0 with lastAcc := some a, ticks := now } }
    let cap (sub : Nat) : State := { ready with time := { time0 with cap := some ⟨0, sub, 0⟩, ticks := 24 } }
    (at_ 0 124999999).running = true ∧ (at_ 0 124999999).time.ticks < 0 + 125000000 ∧
    ¬ (at_ 0 125000000).time.ticks < 0 + 125000000 ∧ (cap 3).now ≤ 0 + 24 ∧
    ([3, 11, 12, 249999995, 249999994].map (fun c : Int => (c - 3 + 125000000) % 250000000 - 125000000)) = [0, 8, 9, -8, -9] ∧
    (cap 3).time.cap = some ⟨0, 3, 0⟩ ∧ ready.time.pps ≠ 2 := by decide +kernel

theorem witness_Monitors :
    ready.running = true ∧ ready.pwr.aliveRun = true ∧ (List.replicate 24 (840 : Int)).length = 24 := by decide +kernel

/-! ### Faults, fences and memories -/

/-- Raises: entry 0 of an empty queue, an eighth held entry, ESCALATE in NORMAL, FENCE in FAULT, and the vector shared. -/
theorem witness_RaiseEntersHistory :
    (ready.block .mon).valid < 8 ∧ ({ fltIf0 .mon with valid := 8 } : FltIf).valid = 8 ∧
    ready.appliedSeverity .rng 0 = 3 ∧ ready.flt.state = 0 ∧ ready.appliedSeverity .mesh 1 = 2 ∧
    (inState 2 none).flt.state = 2 ∧ (ready.block .mesh).irqEn.getLsbD 1 = true ∧ blockVector .mesh = 1041 ∧
    ready.appliedSeverity .mesh 0 < 2 := by decide +kernel

/-- The window [10, 260): its first tick, its last, and the first tick behind it. -/
theorem witness_AcknowledgeInsideTheWindow :
    let s (now : Nat) : State := { inState 1 (some ⟨10, 250⟩) with time := { time0 with ticks := now } }
    (s 10).barOk = true ∧ (s 10).flt.state = 1 ∧ (s 10).flt.esc = some ⟨10, 250⟩ ∧ 10 ≤ (s 10).now ∧
    (s 259).now < 10 + 250 ∧ (s 9).now < 10 ∧ 10 + 250 ≤ (s 260).now ∧ (s 260).now = 10 + 250 ∧
    (inState 0 none).flt.state ≠ 1 ∧ (inState 0 none).flt.esc = none := by decide +kernel

theorem witness_EnteringFault :
    (inState 1 (some ⟨0, 250⟩)).running = true ∧ (inState 1 (some ⟨0, 250⟩)).flt.state = 1 ∧
    (inState 1 (some ⟨0, 250⟩)).flt.esc = some ⟨0, 250⟩ := by decide +kernel

/-- No recovery against a limit of 3, and three inside the window. -/
theorem witness_QuietPeriodEnds :
    let made (s : State) : Nat := let r := s.passTo (s.flt.quietFrom + s.flt.quiet * 250000)
      (r.flt.recs.filter (fun t => decide (r.now ≤ t + r.flt.window * 250000000) && decide (t < r.now))).length
    let full : State := { inState 2 none with flt := { flt0 with state := 2, recs := [0, 1, 2] } }
    (inState 2 none).running = true ∧ (inState 2 none).flt.state = 2 ∧ made (inState 2 none) < 3 ∧
    full.running = true ∧ full.flt.state = 2 ∧ full.flt.limit ≤ made full := by decide +kernel

/-- A packet of one opcode as the front end holds it, its other bytes zero. -/
def cmd0 (opcode : Nat) (bytes : List Byte) : Fetched := ⟨0, 0, BitVec.ofNat 8 opcode :: bytes, 1, none, none⟩

/-- A command in execution. -/
def exec0 (opcode : Nat) (bytes : List Byte) (phase : CmdPhase) : Exec :=
  { startExec (cmd0 opcode bytes) 0 0 0 false with phase := phase }

/-- `ready` with context 0 ACTIVE and executing `e`. -/
def executing (e : Exec) : State :=
  { ready with ctxs := [(0, { ctx0 with state := .active, enable := true, exec := some e })] }

theorem witness_QueueClearHeartbeatStall :
    let s := { executing (exec0 0x04 [] .working) with time := { time0 with ticks := 250000000 } }
    let r := s.passTo (s.fe.stallTick + 25000000)
    let t : State := { r with fe := { r.fe with stallTick := r.now } }
    let u := ready.passTo (ready.fe.stallTick + 25000000)
    ready.running = true ∧ ready.spanFenced 15 = false ∧ (ready.span 15).silent = false ∧
    (({ ready with spans := [(15, { span0 with silent := true })] } : State).span 15).silent = true ∧ s.running = true ∧
    t.ctxs = [(0, t.ctx 0)] ∧ (t.ctx 0).exec = some (exec0 0x04 [] .working) ∧
    (exec0 0x04 [] .working).cmd.opcode = 0x04 ∧ (exec0 0x04 [] .working).phase = .working ∧
    0 + 250000000 ≤ t.now ∧ (t.ctx 0).stalled = false ∧ (∀ q, q ∈ u.ctxs → q.2.stallDue u.now = false) := by decide +kernel

/-- A router of each kind, and one that has failed. -/
theorem witness_RoutersFail :
    ready.running = true ∧ (∃ r : Fin 36, stopAt r.val = .span 15) ∧ (∃ r : Fin 36, stopAt r.val = .mem 7) ∧
    (∃ r : Fin 36, stopAt r.val = .lnk 3) ∧ (∃ r : Fin 36, stopAt r.val = .cxl 1) ∧ (∃ r : Fin 36, stopAt r.val = .empty) ∧
    (∃ r : Fin 36, stopAt r.val = .service) ∧ ready.mesh.failed.getLsbD 35 = false ∧
    ({ ready with mesh := { mesh0 with failed := 1 } } : State).mesh.failed.getLsbD 0 = true := by decide +kernel

theorem witness_DetoursAreInstalled :
    let s : State := { ready with mesh := { mesh0 with installBusy := true } }
    let bad : State := { ready with mesh := { mesh0 with installBusy := true, failed := 2 } }
    s.running = true ∧ s.mesh.installBusy = true ∧ s.tablesOk [] = true ∧ bad.running = true ∧ bad.tablesOk [] = false ∧
    ready.mesh.installBusy = false := by decide +kernel

/-- Three routers that work in a corner, around whose fourth a route exists, and two at opposite corners, between which none does. -/
theorem witness_DetoursAreInstalled_exists :
    let s (failed : BitVec 36) : State := { ready with mesh := { mesh0 with installBusy := true, failed := failed } }
    (s 0xFFFFFFF3E).tableExists = true ∧ (s 0x7FFFFFFFE).tableExists = false := by decide +kernel

/-- An interface that trained, in a ready device. -/
def withMem : State := { ready with mems := [(15, { memIface0 with active := true })] }

theorem witness_InterfacesRetrain :
    withMem.barOk = true ∧ withMem.running = true ∧ (withMem.memIface 15).active = true ∧
    withMem.memFenced (15 / 2) = false := by decide +kernel

/-- An interface that is not hot; a scrub period of 0 and one of 1,000. -/
theorem witness_MemoryTemperatureAndScrub :
    withMem.running = true ∧ (withMem.memIface 15).hot = false ∧ ready.spanFenced 0 = false ∧ (ready.span 0).scrub ≠ 0 ∧
    (({ ready with spans := [(0, { span0 with scrub := 0 })] } : State).span 0).scrub = 0 := by decide +kernel

/-- A CXL device in a ready device. -/
def withCxl : State := { ready with cxls := [(1, { cxlPort0 with present := true, capBytes := 4096 })] }

/-- An atomic to the first address of its memory gets no response. -/
def lostAtomic : CxlRequest := ⟨1, .atomic 0, BitVec.ofNat 48 cxlBase⟩

/-- Span 0 reads the host by DMA on tag 31. -/
def hostDma : State :=
  { ready with spans := [(0, { span0 with pier := { pier0 with tags := [(31, ⟨true, false, 2 ^ 47, 0x400000000000, 8, false, none⟩)] } })] }

theorem witness_PortsAndHostReadsFail :
    withCxl.onPort 1 lostAtomic.addr.toNat = true ∧ (∃ t, withCxl.cxlFails lostAtomic.requester lostAtomic.addr.toNat = .next t) ∧
    withCxl.running = true ∧ (withCxl.cxl 1).present = true ∧ withCxl.cxlFenced 1 = false ∧ hostDma.running = true ∧
    ((hostDma.pier 0).tag 31).busy = true ∧ ((hostDma.pier 0).tag 31).readFail = none ∧
    2 ^ 47 ≤ ((hostDma.pier 0).tag 31).src ∧ ((hostDma.pier 0).tag 31).src ≤ (0x800000000007#48).toNat ∧
    (0x800000000007#48).toNat < ((hostDma.pier 0).tag 31).src + ((hostDma.pier 0).tag 31).len ∧ 2 ^ 47 ≤ (0x800000000000#48).toNat :=
  ⟨by decide +kernel, ⟨_, rfl⟩, by decide +kernel⟩

/-! ### Resets and boot -/

theorem witness_DieResets :
    ready.pwr.perst = false ∧ ready.running = true ∧
    ({ ready with pwr := { power0 with perst := true } } : State).pwr.perst = true := by decide +kernel

theorem witness_PowerRows :
    let off : State := { ready with pwr := { power0 with en := false, on := false } }
    let trip : State := { ready with pwr := { power0 with vin := false, on := false, tripped := true } }
    off.pwr.en = false ∧ off.pwr.vin = true ∧ ready.pwr.en = true ∧ ready.pwr.on = true ∧ trip.pwr.vin = false ∧
    trip.pwr.tripped = true ∧ trip.pwr.en = true := by decide +kernel

theorem witness_FunctionResets :
    (∀ r, r ∈ ready.runs → r.sys = none) ∧ ready.running = true ∧ ready.barOk = true ∧ ready.spanFenced 0 = false := by
  decide +kernel

/-- An ACTIVE link that takes 224 bytes, as the other case of FunctionResets asks. -/
theorem witness_FunctionResets_links :
    let s : State := { ready with links := [(0, { link0 with state := 6 })] }
    ∀ d, d < 16 → (s.link (s.exitFor d)).takes 224 = true := by decide +kernel

/-- A span that can be reset, one that runs a march test, and a fenced one. -/
theorem witness_SpanResetAndMarch :
    let s : State := { ready with spans := [(1, { span0 with marchState := 1 })], flt := { flt0 with spans := 4 } }
    s.barOk = true ∧ s.running = true ∧ s.spanFenced 0 = false ∧ s.spanIdle 0 = true ∧ (s.span 0).marchState ≠ 1 ∧
    s.spanFenced 1 = false ∧ (s.span 1).marchState = 1 ∧ s.spanFenced 2 = true := by decide +kernel

/-- The hash of a public key of zeros, as the anchor of objects whose headers hold such a key. -/
def zeroKeyHash : BitVec 256 := BitVec.ofNat 256 (leNat (shake (List.replicate 64 0#8) 32))

/-- Reset with the boot at a stage, and that anchor. -/
def atBoot (k : Nat) : State :=
  { State.reset with boot := { boot0 with stage := k }, sec := { sec0 with romAnchor := zeroKeyHash } }

/-- A slot whose key is zeros has that anchor. -/
theorem anchored_zero {x : Sec} (hr : x.romAnchor = zeroKeyHash) (k : ObjKind) (slot : Nat)
    (hk : (List.range 64).map (fun i => Store.get 0#8 (0x10 + i) (Store.get [] (flashIndex k slot) x.flash)) = List.replicate 64 0#8) :
    x.anchored k slot = true := by
  simp only [Sec.anchored, hk, hr, zeroKeyHash, decide_true]

/-- Slot 0 of each kind boots where its checks hold and those of slot 1 do not. -/
theorem atBoot_slots :
    (atBoot 9).sec.bootSlot .image ⟨true⟩ ⟨false⟩ = some 0 ∧ (atBoot 9).sec.bootSlot .config ⟨true⟩ ⟨false⟩ = some 0 := by
  have h0 := anchored_zero (x := (atBoot 9).sec) rfl .image 0 (by decide +kernel)
  have h1 := anchored_zero (x := (atBoot 9).sec) rfl .config 0 (by decide +kernel)
  simp only [Sec.bootSlot, Sec.accepts, Sec.genuine, h0, h1, Bool.and_true, Bool.true_and, Bool.false_and]
  decide +kernel

theorem witness_BootStages5To8 :
    (atBoot 5).atStage 5 = true ∧ (atBoot 6).atStage 6 = true ∧ (atBoot 6).sec.mgmtWait = none ∧
    (atBoot 7).atStage 7 = true ∧ (atBoot 8).atStage 8 = true ∧ (atBoot 6).atStage 5 = false := by decide +kernel

/-- Both slots of a kind accepted, with equal versions, and none accepted. -/
theorem witness_BootStages9To11 :
    let both : Sec := { sec0 with romAnchor := zeroKeyHash, flash := [(0, flashHeader0 1), (1, flashHeader0 1), (2, flashHeader0 2)] }
    both.bootSlot .image ⟨true⟩ ⟨true⟩ = some 0 ∧ both.accepts .image 0 ⟨true⟩ = true ∧ both.accepts .image 1 ⟨true⟩ = true ∧
    (atBoot 9).sec.bootSlot .image ⟨true⟩ ⟨false⟩ = some 0 ∧ (atBoot 9).sec.bootSlot .config ⟨true⟩ ⟨false⟩ = some 0 ∧
    (atBoot 9).sec.bootSlot .config ⟨false⟩ ⟨false⟩ = none ∧ (atBoot 9).atStage 9 = true ∧ (atBoot 10).atStage 10 = true ∧
    ([some 2, none] : List (Option (Fin 3)))[1]? = some none ∧ (atBoot 11).atStage 11 = true := by
  intro both
  have h0 := anchored_zero (x := both) rfl .image 0 (by decide +kernel)
  have h1 := anchored_zero (x := both) rfl .image 1 (by decide +kernel)
  refine ⟨?_, ?_, ?_, atBoot_slots.1, atBoot_slots.2, ?_, by decide +kernel⟩ <;>
    simp only [Sec.bootSlot, Sec.accepts, Sec.genuine, h0, h1, Bool.and_true, Bool.true_and, Bool.false_and] <;>
    decide +kernel

/-- Devices that are used, that do not train, and that do not answer; with encryption, the RNG READY and not. -/
theorem witness_BootStages9To11_ports :
    let good : CxlDevice := ⟨true, true, 0x10000000, 2, 2, true⟩
    let enc (k : Nat) : State := { atBoot 11 with sec := { sec0 with rng := k, cfg := { sec0.cfg with cxlEnc := true } } }
    (good.present = true ∧ good.type3 = true ∧ good.capBytes ≠ 0) ∧ good.trained = true ∧
    ({ good with trained := false } : CxlDevice).trained = false ∧
    ¬ (({ good with present := false } : CxlDevice).present = true) ∧ (atBoot 11).sec.cfg.cxlEnc = false ∧
    (enc 1).sec.cfg.cxlEnc = true ∧ (enc 1).sec.rng = 1 ∧ (enc 2).sec.rng ≠ 1 := by decide +kernel

/-- The stages, with a slot of each kind, a device in FAULT whose quiet period ends, and aligned offsets. -/
theorem witness_BootQuietPeriodAndWritesComplete :
    let s := inState 2 none
    let e := max s.now (s.flt.quietFrom + s.flt.quiet * 250000)
    (atBoot 9).running = true ∧ (atBoot 9).boot.failed = false ∧ (atBoot 9).boot.stage = 9 ∧
    (atBoot 9).sec.bootSlot .image ⟨true⟩ ⟨false⟩ = some 0 ∧ (atBoot 9).sec.bootSlot .config ⟨true⟩ ⟨false⟩ = some 0 ∧
    (atBoot 10).running = true ∧ (atBoot 10).boot.failed = false ∧ (atBoot 10).boot.stage = 10 ∧
    ([some 2] : List (Option (Fin 3)))[0]? = some (some 2) ∧
    (atBoot 11).running = true ∧ (atBoot 11).boot.failed = false ∧ (atBoot 11).boot.stage = 11 ∧ s.running = true ∧
    s.flt.state = 2 ∧
    (s.flt.recs.filter (fun t => decide (e ≤ t + s.flt.window * 250000000) && decide (t < e))).length < s.flt.limit ∧
    ready.running = true ∧ ready.boot.ready = true ∧ ready.pcie.d3hot = false ∧ 0x48 % 8 = 0 ∧ 0x4C % 4 = 0 ∧
    wholeEvent 0x48 8 = none :=
  ⟨by decide +kernel, by decide +kernel, by decide +kernel, atBoot_slots.1, atBoot_slots.2, by decide +kernel⟩

/-- A context whose ring has room, and the port with no request outstanding. -/
theorem witness_BootQuietPeriodAndWritesComplete_requests :
    let s : State := { ready with ctxs := [(0, { ctx0 with state := .active })], sec := { ready.sec with challenge := some 5 } }
    let x := s.ctx 0
    let tok : Token := ⟨0x47424451, 1, 2, BitVec.ofNat 256 (leNat s.sec.deviceId), 5, true⟩
    s.barOk = true ∧ x.state = .active ∧ ((1#32) - x.head).toNat ≤ 2 ^ x.useRingLog2 ∧ ((1#32) - x.tail).toNat ≤ 2 ^ x.useRingLog2 ∧
    s.portOk = true ∧ s.sec.mgmtWait = none ∧ s.sec.mgmtResp = [] ∧
    (∀ i ∈ [Instr.getIdentity (.i3c 0), .attest (.i3c 0) 0, .debugChallenge (.i3c 0)], s.gate (reqCode i) = .handle) ∧
    s.gate (reqCode (.debugUnlock (.i3c 0) tok)) = .handle ∧ s.sec.identityOk = true ∧ s.sec.rng = 1 ∧ s.rngHeld = false ∧
    tok.magic = 0x47424451 ∧ tok.version = 1 ∧ (tok.level = 1 ∨ tok.level = 2) ∧ tok.sigOk = true ∧
    leBytes 32 tok.device.toNat = s.sec.deviceId ∧ s.sec.challenge = some tok.challenge := by
  intro s x tok
  exact ⟨rfl, rfl, by decide, by decide, rfl, rfl, rfl, by decide +kernel, rfl, rfl, rfl, by decide +kernel, rfl, rfl, .inr rfl, rfl,
    s.sec.leBytes_deviceId, rfl⟩

/-! ### Host and security -/

/-- The first and the last byte of a window of 2^28 bytes. -/
theorem witness_HostMemoryWindow :
    let held : State := { ready with
      pcie := { pcie0 with winBase := BitVec.ofNat 20 (0x400000000000 / 2 ^ 28) },
      spans := [(0, { span0 with marchState := 1, marchPreserve := true, marchKeep := true })] }
    held.bar2Decodes 0 1 = true ∧ held.bar2Held [held.bar2Addr 0] = true ∧ ready.bar2Held [ready.bar2Addr 0] = false ∧
    ready.bar2Decodes 0 1 = true ∧ ready.bar2Decodes (2 ^ 28 - 4) 4 = true ∧
    ({ ready with pcie := { pcie0 with d3hot := true } } : State).pcie.d3hot = true := by decide +kernel

theorem witness_RegisterWrites :
    barAligned 2 4 = false ∧ State.reset.boot.ready = false ∧ (placeAt 0x20F04).1 ≠ .dev ∧ ready.running = true ∧
    ready.pcie.d3hot = false ∧ ready.barOk = true ∧ barAligned 0x48 8 = true ∧ wholeEvent 0x48 8 = none ∧
    barAligned 0x4C 4 = true ∧ barAligned 0x800000 8 = true ∧ wholeEvent 0x800000 8 = some 0 := by decide +kernel

theorem witness_HostConfiguration :
    ready.running = true ∧ ready.barOk = true ∧ ready.cfgRetry = false ∧ (atBoot 5).running = true ∧
    (atBoot 5).cfgRetry = true := by decide +kernel

/-- A mailbox request that has been started, the port idle, and the port with a request outstanding. -/
theorem witness_RequestsAreAnswered :
    let m : State := { ready with mbx := { mbx0 with busy := true, code := reqCode (.faultState .mailbox) } }
    let w : State := { ready with sec := { ready.sec with mgmtResp := [⟨1, 0, .ok, [], 0⟩] } }
    m.barOk = true ∧ m.mbx.busy = true ∧ m.mbx.code = reqCode (.faultState .mailbox) ∧
    reqPort (.faultState .mailbox) = some .mailbox ∧ reqPort (.getIdentity (.i3c 7)) = some (.i3c 7) ∧ w.portOk = true ∧
    w.sec.mgmtResp ≠ [] := by decide +kernel

/-- The port takes any request of the I3C controller in the ready device. -/
theorem witness_Requesting (i : Instr) : Requesting ready i := ⟨rfl, rfl, rfl, rfl⟩

/-- Writes to the slot that does not run and to the one that does, and a commit off the recovery boot. -/
theorem witness_FirmwareRequests :
    ready.sec.running .image ≠ some 1 ∧ ready.sec.running .image = some 0 ∧ flashSize - 1 + [0x55#8].length ≤ flashSize ∧
    [0x55#8].length ≤ 4096 ∧ flashSize < flashSize + [0x55#8].length ∧ ready.sec.recovery = false := by decide +kernel

/-- A fixed source, one that is not, and the ends of each range of Table 17.6. -/
theorem witness_PolicyRequests :
    fixedSeverity .mesh 1 = true ∧ 1 < sourceCount .mesh ∧ fixedSeverity .mesh 0 = false ∧ 0 < sourceCount .mesh ∧
    (1 ≤ 1 ∧ 16000 ≤ 16000 ∧ 1000 ≤ 1000 ∧ 86400 ≤ 86400) := by decide +kernel

/-- An encrypted link with both transmit keys, whose slot 0 is in use. -/
def keyed : State :=
  { ready with links := [(3, { link0 with state := 6, txEnc := true })],
               sec := { ready.sec with keys := [(12, some ⟨[1], [1]⟩), (13, some ⟨[2], [2]⟩)] } }

theorem witness_KeyRequests (i : Instr) :
    Requesting keyed i ∧ keyed.sec.rng = 1 ∧ keyed.rngHeld = false ∧ (keyed.link 3).slotInUse false 0 = true ∧
    (keyed.link 3).slotInUse false 1 = false ∧ (keyed.link 3).txEnc = true ∧
    keyed.hasKey 3 false (1 - (keyed.link 3).txSlot) = true ∧ keyIndex 3 false 0 = 12 :=
  ⟨⟨rfl, rfl, rfl, rfl⟩, rfl, by decide +kernel, rfl, rfl, rfl, rfl, rfl⟩

theorem witness_RandomNumbers :
    let starting : State := { ready with sec := sec0 }
    let failed : State := { ready with sec := { sec0 with rng := 2 } }
    let reseed : State := { ready with sec := { ready.sec with reseeding := true } }
    ready.sec.rng = 1 ∧ ready.sec.reseeding = false ∧ ready.barOk = true ∧ ready.running = true ∧ failed.barOk = true ∧
    failed.sec.rng = 2 ∧ starting.barOk = true ∧ starting.sec.rng = 0 ∧ reseed.sec.rng = 1 ∧ reseed.sec.reseeding = true ∧
    ready.rngHeld = false ∧ reseed.rngHeld = true ∧ reseed.running = true ∧ (List.replicate 32 0#8).length ≤ 32 ∧
    healthFails ready.sec.source 1024 0 = true ∧
    healthFails ready.sec.source 1024 (leNat (List.replicate 128 0x55)) = false := by decide +kernel

/-- The identity holds, and a challenge stands that a token can answer. -/
theorem witness_IdentityAndDebug :
    let s : State := { ready with sec := { ready.sec with challenge := some 5 } }
    let tok (level : BitVec 16) : Token := ⟨0x47424451, 1, level, BitVec.ofNat 256 (leNat s.sec.deviceId), 5, true⟩
    ready.sec.identityOk = true ∧ ready.sec.rng = 1 ∧ ready.rngHeld = false ∧ s.portOk = true ∧
    Requesting s (.debugUnlock (.i3c 0) (tok 2)) ∧
    ((tok 2).magic = 0x47424451 ∧ (tok 2).version = 1 ∧ ((tok 2).level = 1 ∨ (tok 2).level = 2)) ∧
    ((tok 2).sigOk = true ∧ leBytes 32 (tok 2).device.toNat = s.sec.deviceId ∧ s.sec.challenge = some (tok 2).challenge) ∧
    ready.sec.challenge ≠ some (tok 1).challenge := by
  intro s tok
  exact ⟨rfl, rfl, by decide +kernel, rfl, ⟨rfl, rfl, rfl, rfl⟩, ⟨rfl, rfl, .inr rfl⟩, ⟨rfl, s.sec.leBytes_deviceId, rfl⟩, nofun⟩

/-! ### The front end -/

/-- `ready` with one context. -/
def withCtx (x : Ctx) : State := { ready with ctxs := [(0, x)] }

/-- Scratchpad of span 0, where tests keep their rings. -/
def pad : Nat := 0x400000000000

/-- An ACTIVE context whose rings of 16 slots lie in a scratchpad. -/
def active0 : Ctx :=
  { ctx0 with state := .active, enable := true, ringBase := BitVec.ofNat 48 pad, cplBase := BitVec.ofNat 48 (pad + 0x1000),
              useRing := pad, useCpl := pad + 0x1000 }

theorem witness_ContextLife :
    (ready.ctx 1023).state = .free ∧ ready.barOk = true ∧ (withCtx active0).barOk = true ∧
    ((withCtx active0).ctx 0).state = .active ∧ ((withCtx { active0 with state := .draining }).ctx 0).state = .draining ∧
    ((withCtx { active0 with state := .stopped }).ctx 0).state = .stopped ∧ (withCtx active0).faulted = false := by
  decide +kernel

theorem witness_ContextLife_done :
    let s := withCtx { active0 with state := .draining, drainTail := some 0 }
    s.barOk = true ∧ s.destroyReady 0 = true ∧ (s.ctx 0).enablePending = false ∧ s.rangeFail (s.ctx 0).cplAddr 16 = none := by
  decide +kernel

/-- A pier of span 0 that works for context 0, as the abort clauses of ContextLife ask. -/
theorem witness_ContextLife_pier :
    let l : Launch := ⟨0, 0, false, [], 1, []⟩
    let s : State := { withCtx active0 with spans := [(0, { span0 with pier := { pier0 with code := 1, launch := some l } })] }
    (s.pier 0).runsFor 0 none = true ∧ (s.pier 0).live = true := by decide +kernel

/-- The tail one ring ahead of the head is valid, and the one behind it is not. -/
theorem witness_RingAndEventWrites :
    let x := (withCtx active0).ctx 0
    (withCtx active0).barOk = true ∧ (x.state = .active ∨ x.state = .stopped) ∧ (16#32 - x.head).toNat ≤ 2 ^ x.useRingLog2 ∧
    (16#32 - x.tail).toNat ≤ 2 ^ x.useRingLog2 ∧ 2 ^ x.useRingLog2 < (17#32 - x.head).toNat ∧ x.held = [] ∧
    x.cplFull = false ∧ ((withCtx active0).capture 0 ⟨0x1D, 0, 0, 0, 17, [], none⟩).rangeFail x.cplAddr 16 = none ∧
    ((withCtx { active0 with cplTail := 16 }).ctx 0).cplFull = true := by
  decide +kernel

/-- A published NOPC, all zero but its opcode. -/
theorem witness_FetchStartComplete_fetch :
    let s : State := { withCtx { active0 with tail := 1 } with mem := [(pad, 0x3F)] }
    let x := s.ctx 0
    let i := x.head + BitVec.ofNat 32 x.slotsHeld
    s.mayFetch 0 = true ∧ x.fetched = [] ∧ 1 + 0 ≤ x.published i ∧
    s.firstBad false (x.slotAddr (i.toNat + 0)) 64 = none ∧ packetFault (s.readBytes (x.slotAddr i.toNat) 64) = none ∧
    numAt (s.readBytes (x.slotAddr i.toNat) 64) 2 2 = 0 := by decide +kernel

/-- A whole packet. -/
def packet0 (opcode : Nat) : List Byte := BitVec.ofNat 8 opcode :: List.replicate 63 0

theorem witness_FetchStartComplete_start :
    let f : Fetched := ⟨0, pad, packet0 0x3F, 1, none, none⟩
    let low := withCtx { active0 with tail := 1, fetched := [f] }
    let high := withCtx { active0 with tail := 1, fetched := [f], priority := true }
    low.running = true ∧ low.faulted = false ∧ low.nextStart = some (0, false) ∧ high.nextStart = some (0, true) ∧
    (low.ctx 0).fetched = [f] ∧ f.unread = none := by decide +kernel

/-- A command that has ended without an entry, one with an entry, and one whose completion ring is full. -/
theorem witness_FetchStartComplete_complete :
    let e := exec0 0x3F [] (.finished 0 0)
    let t := exec0 0x04 [] (.finished 1 0)
    let s := withCtx { active0 with exec := some e }
    let u := withCtx { active0 with exec := some t }
    let full := withCtx { active0 with exec := some t, cplTail := 16 }
    s.running = true ∧ (s.ctx 0).hangDue e s.now = false ∧ (u.ctx 0).hangDue t u.now = false ∧ (s.ctx 0).batch = none ∧ (s.ctx 0).exec = some e ∧ (s.ctx 0).state ≠ .aborting ∧ e.lateFail = none ∧
    e.batch = false ∧ e.cmd.cev = false ∧ e.cmd.irq = false ∧ e.needsEntry 0 = false ∧ t.needsEntry 1 = true ∧
    (u.ctx 0).cplFull = false ∧ u.rangeFail (u.ctx 0).cplAddr 16 = none ∧ (full.ctx 0).cplFull = true := by decide +kernel

/-- A command with any opcode that has started in context 0. -/
theorem witness_Starting (op : Nat) (bytes : List Byte) (h : numAt (BitVec.ofNat 8 op :: bytes) 0 1 = op)
    (hc : (exec0 op bytes .started).cevFault = none) :
    Starting (executing (exec0 op bytes .started)) 0 false op (exec0 op bytes .started) :=
  ⟨rfl, nofun, rfl, fun _ => rfl, h, rfl, hc, fun _ => rfl⟩

/-- Packet bytes 1 and up: zeros to offset `off`, a number, and zeros behind it. -/
def field (off n v : Nat) : List Byte := List.replicate (off - 1) 0 ++ leBytes n v ++ List.replicate (256 - off - n) 0

/-- Bytes of two lists of one length, joined by OR. -/
def both (a b : List Byte) : List Byte := a.zipWith (fun x y => x ||| y) b

/-- Each opcode of FrontEndCommands starts, an event operation is 0 or 1, and a wait has a timeout or none. -/
theorem witness_FrontEndCommands :
    (∀ op ∈ [0x01, 0x02, 0x03, 0x04, 0x05, 0x06, 0x10, 0x11, 0x12, 0x13, 0x14, 0x15, 0x16, 0x17, 0x20, 0x21, 0x22, 0x23,
      0x30, 0x3F], numAt (BitVec.ofNat 8 op :: field 1 0 0) 0 1 = op ∧ (exec0 op (field 1 0 0) .started).cevFault = none) ∧
    (exec0 0x03 (field 0x12 1 1) .started).num 0x12 1 ≤ 1 ∧ (exec0 0x04 (field 0x14 4 1) .working).num 0x14 4 ≠ 0 ∧
    (executing (exec0 0x04 (field 0x14 4 1) .working)).running = true ∧
    (exec0 0x04 (field 0x14 4 1) .working).phase = .working := by decide +kernel

/-- A program of one word in a scratchpad, and one that begins where nothing lies. -/
theorem witness_Launches :
    let good := exec0 0x01 (both (field 0x10 8 pad) (field 0x18 4 8192)) .started
    let bad := exec0 0x01 (both (field 0x10 8 (2 ^ 48)) (field 0x18 4 1)) .started
    good.num 0x10 8 % 8 = 0 ∧ 1 ≤ good.num 0x18 4 ∧ good.num 0x18 4 ≤ 8192 ∧
    (executing good).firstBad false (good.num 0x10 8) 8 = none ∧
    (executing bad).firstBad false (bad.num 0x10 8) 8 = some (2 ^ 48, .addrErr) := by decide +kernel

theorem witness_Launches_pier :
    let l : Launch := ⟨0, 0, false, [], 1, []⟩
    let s : State := { ready with spans := [(15, { span0 with pier := { pier0 with queue := [l] } })] }
    s.running = true ∧ s.spanFenced 15 = false ∧ (s.span 15).marchState ≠ 1 ∧ (s.pier 15).launch = none ∧
    (s.pier 15).queue = [l] ∧ s.waitingLaunches 15 = [] ∧ s.keptFrom 15 l = false ∧
    l.count ≠ 0 := by decide +kernel

/-! ### Memory and problem commands -/

/-- A copy of one byte within a scratchpad, a fill of eight, and no span to carry one out. -/
theorem witness_Copy_Fill :
    let c := exec0 0x05 (both (field 0x10 8 pad) (both (field 0x18 8 (pad + 1)) (field 0x20 8 1))) .started
    let f := exec0 0x06 (both (field 0x10 8 pad) (field 0x18 8 8)) .started
    let s := executing c
    c.num 0x20 8 = 1 ∧ overlaps (c.num 0x10 8) (c.num 0x18 8) 1 = false ∧ s.liveSpans ≠ [] ∧
    s.partsHeld (some pad) (pad + 1) (partsOf 1 (ceilDiv 1 64)) = false ∧ s.partsHeld none pad (partsOf 8 (8 * ceilDiv 8 512)) = false ∧
    ({ s with flt := { flt0 with spans := 0xFFFF } } : State).liveSpans = [] ∧
    s.cellOf pad = some pad ∧ s.byteIo false pad = .ok ∧ s.cellOf (pad + 1) = some (pad + 1) ∧ s.byteIo true (pad + 1) = .ok ∧
    f.num 0x10 8 % 8 = 0 ∧ f.num 0x18 8 = 8 ∧ (∀ i, i < 8 → s.cellOf (pad + i) = some (pad + i) ∧ s.byteIo true (pad + i) = .ok) := by
  decide +kernel

/-- The first bytes of an image header (Table 3.1) without its CRC: one variable, one replica, one section, 328 bytes. -/
def imageHead : List Byte :=
  leBytes 4 0x474D4951 ++ leBytes 2 1 ++ leBytes 2 128 ++ leBytes 8 328 ++ leBytes 4 0 ++ leBytes 2 1 ++ leBytes 2 0
    ++ leBytes 4 1 ++ leBytes 2 1 ++ leBytes 2 0 ++ leBytes 8 0 ++ leBytes 1 127 ++ leBytes 7 0 ++ leBytes 8 128
    ++ List.replicate 68 0

/-- The image: header, section table (Table 3.2), and a SCHED body with one segment (Tables 3.6, 3.7). -/
def imageBytes : List Byte :=
  imageHead ++ leBytes 4 (crc32c imageHead)
    ++ (leBytes 2 0x0A ++ leBytes 2 0 ++ leBytes 4 0 ++ leBytes 8 192 ++ leBytes 8 136 ++ leBytes 8 0) ++ List.replicate 32 0
    ++ (leBytes 8 0 ++ leBytes 8 0 ++ leBytes 8 0 ++ leBytes 2 1 ++ leBytes 2 0 ++ List.replicate 36 0)
    ++ (leBytes 2 0x8000 ++ leBytes 2 0 ++ leBytes 4 1 ++ leBytes 4 0x8000) ++ List.replicate 52 0 ++ List.replicate 8 0

/-- PLOAD of an image in a scratchpad. -/
def ploadExec : Exec :=
  exec0 0x10 (both (field 0x10 8 pad) (field 0x18 8 (pad + 0x4000))) .started

/-- Its state. -/
def ploadState : State :=
  { executing ploadExec with mem := memPutAll [] (imageBytes.zipIdx.map (fun q => (pad + q.2, q.1))) }

theorem witness_Pload :
    ploadExec.num 0x18 8 % 64 = 0 ∧ ploadState.rangeFail (ploadExec.num 0x18 8) 64 = none ∧
    (match ploadState.loadHead pad with
      | .ok h => (match ploadState.loadImage pad 0 h with
        | .ok im => (match im.quantise with
          | .ok z => (match z.inRange, ploadState.loadRest im z with
            | .ok _, .ok _ => decide (ploadState.rangeFail (pad + 0x4000 + 64) (64 * h.count) = none)
            | _, _ => false)
          | .error _ => false)
        | .error _ => false)
      | .error _ => false) = true := by decide +kernel

theorem witness_Pload_fails :
    (match (executing ploadExec).loadHead pad with
      | .ok _ => false
      | .error f => decide (f.status = 0x01)) = true := by decide +kernel

/-- A problem with no coefficient, its one variable in span 0. -/
def problem0 : Problem :=
  { (default : Problem) with
    nvars := 1, nrep := 1, windows := 1, order := [0],
    scheds := [{ (default : Sched) with rule := .metropolis, epochBlocks := 16, threshold := 16384, segs := [⟨⟨32768, 0⟩, 1, 32768⟩], reps := [⟨false, 0, 0⟩] }],
    groups := [⟨0, 0, 0, 0, [0]⟩] }

theorem witness_Pfree_Eval :
    let f := exec0 0x11 (field 1 0 0) .started
    let e := exec0 0x15 (both (both (field 0x14 2 1) (field 0x18 8 pad)) (field 0x20 8 (pad + 0x1000))) .started
    let s : State := { executing f with problems := [problem0] }
    let u : State := { executing e with problems := [problem0] }
    s.problemById (f.num 0x10 4) = some problem0 ∧ problem0.freeing = false ∧ s.runBefore (f.num 0x10 4) f.serial = false ∧
    u.problemFor (e.num 0x10 4) e.serial = some problem0 ∧ e.num 0x14 2 ≠ 0 ∧ e.num 0x20 8 % 16 = 0 ∧
    u.rangeFail (e.num 0x20 8) 16 = none ∧
    (let live := (problemSpans problem0).filter (fun n => !u.spanFenced n)
     u.opWaiting 0 0x15 = none ∧ u.spansBusy (e.opLaunch 0) live = false ∧
     ((u.modExec 0 false (fun y => { y with spansAll := spansMask (problemSpans problem0) })).countOps 0 e live).firstBad false
       (e.num 0x18 8) 64 = none) := by decide +kernel

/-! ### Runs in execution -/

/-- A run of `problem0` in span 0, at the start of its first sweep. -/
def run0 : Run :=
  { problem := 0, id := 0, ctx := 0, tag := 0, serial := 0, batch := false, packet := [], sched := 0, windowSweeps := 0,
    record := 0, deadlineUs := 0, ckptSweeps := 0, ckptArea := 0, ckptSeq := 0, ckptAsked := false, ckptOpen := none, keyLo := 0, keyHi := 0,
    spans := [0], blocks := [⟨0, 0, 0, 0, 0, 0, some 0 :: List.replicate 63 none⟩], k := 1, colourEnds := [], sweep := 0,
    startTick := 0, startSec := 0, startSub := 0, begun := true, betas := [(0, ⟨32768, 0⟩)], rungs := [], rounds := 0,
    totals := [], ef := 0, raises := 0, bestSet := true, best := 0, bestReplica := 0, bestSweep := 0, newBest := false,
    sweepsDone := 0, rxAttempts := 0, rxAccepts := 0, auditBad := 0, attempts := 0, accepts := 0, conflicts := 0, reverted := 0,
    refreshes := 0, overLength := 0, refreshBad := 0, stops := stops0, fencedSpans := 0, remapped := false, rotations := 0, activation := 0,
    took := stops0, round := none, bestLost := false, window := 0, frozen := [], bestState := [], restored := false, restoredFenced := false, freeRun := false,
    orderSens := false, refreshAsked := false, sampleBuf := 0, sampleInterval := 0, sampleCap := 0, sampleCount := 0,
    sweepResult := 0, starting := false, swept := false, lastSec := 0, lastSub := 0, exchanged := false, noSteps := false,
    remap := [], sys := none }

/-- `ready` with a problem and its run, bound in span 0, whose engine is `g`. -/
def sweeping (p : Problem) (r : Run) (g : Engine) : State :=
  { ready with problems := [p], runs := [r], spans := [(0, { span0 with bound := some 0, eng := g })] }

/-! ### Run and operator commands -/

/-- A schedule that samples, beside the one of `problem0`. -/
def problem1 : Problem :=
  { problem0 with ckptUnits := 1, scheds := problem0.scheds ++ [{ problem0.scheds.headD default with sample := true }] }

/-- The packet of a run command: its record, checkpoint area, sample buffer, interval and capacity. -/
def runExec (op sched area : Nat) : Exec :=
  exec0 op (both (both (field 0x14 1 sched) (field 0x20 8 (pad + 0x10000)))
    (both (field 0x30 8 area) (both (field 0x40 8 (pad + 0x20000)) (both (field 0x48 4 1) (field 0x4C 4 1))))) .started

theorem witness_RunCommands_start :
    let a := runExec 0x12 0 0
    let b := runExec 0x14 1 0
    let s : State := { executing a with problems := [problem1] }
    s.problemFor (a.num 0x10 4) a.serial = some problem1 ∧ a.num 0x20 8 % 256 = 0 ∧ a.num 0x30 8 % 4096 = 0 ∧
    s.rangesFail (runRanges problem1 a) = none ∧ s.rangesFail (runRanges problem1 b) = none ∧ s.sec.rng ≠ 2 ∧
    (problem1.scheds[a.num 0x14 1]?).map (fun d => d.sample) = some false ∧
    (problem1.scheds[b.num 0x14 1]?).map (fun d => d.sample) = some true ∧ b.num 0x40 8 % 64 = 0 ∧ b.num 0x48 4 ≠ 0 ∧
    b.num 0x4C 4 ≠ 0 := by decide +kernel

/-- The header of a checkpoint with no body, its CRC not in it. -/
def ckptHead : List Byte :=
  leBytes 4 0x504B4351 ++ leBytes 2 1 ++ leBytes 2 0 ++ leBytes 8 1 ++ leBytes 8 0 ++ leBytes 8 0 ++ leBytes 8 0 ++ leBytes 8 0
    ++ leBytes 8 0 ++ leBytes 4 0

/-- The header. -/
def ckptBytes : List Byte := ckptHead ++ leBytes 4 (crc32c ckptHead)

theorem witness_RunCommands_restore :
    let e := runExec 0x17 0 (pad + 0x30000)
    let s : State := { executing e with
      problems := [problem1], ckpts := [⟨ckptBytes, 0, run0, [], [], []⟩],
      mem := memPutAll [] (ckptBytes.zipIdx.map (fun q => (pad + 0x30000 + q.2, q.1))) }
    (s.ckptFor problem1 (e.num 0x30 8)).isSome = true ∧ s.rangesFail (runRanges problem1 e) = none := by decide +kernel

theorem witness_RunCommands_others :
    let s : State := { ready with problems := [problem0], runs := [{ run0 with ckptArea := pad }] }
    let e := exec0 0x13 (both (field 0x10 8 pad) (field 0x18 4 2)) .started
    let t : Batch := ⟨pad, 2, 5, 0, none, none, false, 0⟩
    let d := exec0 0x00 [] .started
    let x : Ctx := { active0 with exec := some { e with phase := .working }, batch := some t }
    let u : State := { withCtx x with events := [(5, { event0 with value := 1 })] }
    let h := { exec0 0x3F [] .working with hangMs := 1 }
    s.runById 0 = some { run0 with ckptArea := pad } ∧ pad ≠ 0 ∧ e.num 0x10 8 % 64 = 0 ∧
    isQueueSize (e.num 0x18 4) = true ∧ (u.ctx 0).batch = some t ∧ u.running = true ∧ u.faulted = false ∧
    t.consumed < (u.event t.event).value.toNat ∧ u.firstBad false (t.queue + 64) 64 = none ∧ d.cmd.opcode = 0 ∧
    ((executing h).ctx 0).exec = some h ∧ h.hangMs ≠ 0 ∧ h.cmd.opcode ≠ 0x04 ∧ h.cmd.opcode ≠ 0x13 ∧
    ((executing h).ctx 0).state ≠ .aborting ∧ h.phase ≠ .finished 0x1B 0 ∧ h.phase ≠ .finished 0x1C 0 ∧
    ((withCtx { active0 with state := .draining }).ctx 0).state = .draining := by decide +kernel

/-- A tensor descriptor of one row of 64 elements of a format, at an offset of the packet. -/
def tensor (off data rows len code : Nat) : List Byte :=
  both (both (field off 8 data) (field (off + 0x10) 4 rows)) (both (field (off + 0x14) 4 len)
    (both (field (off + 0x18) 4 64) (field (off + 0x1C) 1 code)))

/-- EWISE, CONVERT, MATMUL and REDUCE over BIN and I8 tensors. -/
theorem witness_OperatorCommands :
    let w := exec0 0x22 (both (tensor 0x40 pad 1 64 0xA) (both (tensor 0x60 pad 1 64 0xA) (tensor 0x80 pad 1 64 0xA))) .started
    let c := exec0 0x23 (both (tensor 0x40 pad 1 64 0xA) (tensor 0x60 pad 1 64 0xA)) .started
    let m := exec0 0x20 (both (tensor 0x40 pad 1 64 0x7) (both (tensor 0x60 pad 1 64 0x7) (tensor 0xA0 pad 1 1 0xA))) .started
    let r := exec0 0x21 (tensor 0x40 pad 1 64 0xA) .started
    (executing w).spansBusy (w.opLaunch 0) (ready.liveSpans.filter (fun n => !ready.spanFenced n)) = false ∧
    (executing w).opWaiting 0 0x22 = none ∧
    firstFault ([(0x12, decide (w.num 0x12 1 > 3))] ++ w.descChecks 0x40 ++ w.descChecks 0x60
      ++ w.dimChecks 0x60 (w.desc 0x40).rows (w.desc 0x40).t.len ++ w.descChecks 0x80
      ++ w.dimChecks 0x80 (w.desc 0x40).rows (w.desc 0x40).t.len) = none ∧ (w.desc 0x60).t.bcast = false ∧
    natBit (c.num 0x14 1) 0 = false ∧
    firstFault (c.descChecks 0x40 ++ c.descChecks 0x60 ++ c.dimChecks 0x60 (c.desc 0x40).rows (c.desc 0x40).t.len) = none ∧
    firstFault ([(0x12, decide (m.num 0x12 1 > 2))] ++ m.descChecks 0x40 ++ m.descChecks 0x60
      ++ [(0x74, decide ((m.desc 0x60).t.len ≠ (m.desc 0x40).t.len)), (0x7C, (pairOfFmts (m.desc 0x40).code (m.desc 0x60).code).isNone)]
      ++ m.descChecks 0xA0 ++ m.dimChecks 0xA0 (m.desc 0x40).rows (m.desc 0x60).rows) = none ∧ m.num 0x12 1 = 0 ∧
    firstFault ([(0x12, decide (r.num 0x12 1 > 2)), (0x13, decide (r.num 0x13 1 > 2))] ++ r.descChecks 0x40) = none := by
  decide +kernel

/-! ### Span instructions -/

/-- `ready` with a launch of one word on span 0's pier, which is `p` otherwise. -/
def atWord (w : Word) (p : Pier) : State :=
  { ready with spans := [(0, { span0 with pier := { p with code := 1, launch := some ⟨0, 0, false, [(0, w)], 1, []⟩ } })] }

/-- The pier of span 0 issues the instruction that the word at its PC spells: one without register hazards, as with nothing
in flight. -/
theorem witness_Issuing (i : SpanInstr) (h : decodeSpan (encodeSpan i) = some i) :
    Issuing (atWord (encodeSpan i) pier0) 0 ⟨0, 0, false, [(0, encodeSpan i)], 1, []⟩ i :=
  ⟨rfl, by simp [State.spanFenced, atWord, ready, State.reset, flt0], rfl, .inl rfl, rfl, Nat.zero_lt_one, Nat.succ_pos _, h,
    by cases i <;> rfl⟩

/-- `witness_Issuing` for each instruction that a clause of the statements of span instructions names. -/
theorem witness_Issuing_words :
    ∀ i ∈ [SpanInstr.nop, .halt, .br 0, .brc 0 0 0, .loop 0 1, .endlp, .seti 0 true 0, .seti 0 false 0x80000000,
      .addi 0 0 0xFFFFFFFF, .alu 1 2 3 0, .alu 1 2 3 16, .ldc 0 0 63, .ldc 0 2 62, .rdtime 0 0, .rdtime 0 1,
      .evrec 0 true true 0, .evwait 0 0 1 0, .barrier 0 0 0, .fence 15, .dma 1 2 3 31, .dmaw 0 true 0, .atadd 0 1 2 true true,
      .atswp 0 1 2 false, .bset 0 1 2 true, .bclr 0 1 2 true, .mcast 0 1 2 63, .sched 0 0 0 0, .sched 0 0 0 1, .sched 0 0 0 2,
      .sweep 0, .fref 0, .eaud 0, .snap 0, .xchg 0, .rmig 0, .wrot 0,
      .mma 0 1 2 1 0 false false ⟨0, 0, 0⟩ 4, .mmaz 0 1 2 127 1 0 false false ⟨0, 0, 0⟩ 4, .accz 0 127 0 ⟨0, 0, 0⟩,
      .red 0 1 2 0 0 ⟨0, 0, 0⟩ 0, .accmv 0 1 2 0 0xA 0 0 ⟨0, 0, 0⟩ 0 false false, .cvt 1 2 3 0xA 0xA 0 false,
      .ewo 1 2 3 4 0xA 0xA 0xA 0 false 0, .fldc 0 1 2 3 1 0 0 ⟨0, 0, 0⟩ false 4, .fldc 0 1 2 3 1 0 1 ⟨0, 0, 0⟩ false 4,
      .fldc 0 1 2 3 1 0 2 ⟨0, 0, 0⟩ false 4, .gibbs 0 1 2 3 0 false false ⟨0, 0, 0⟩ 0], decodeSpan (encodeSpan i) = some i := by
  decide +kernel

/-- Values at which the clauses of ScalarAndControl meet: an LDC pair, branches to 0 and off the end, loop counts, and an
undefined word. -/
theorem witness_ScalarAndControl :
    ldcValue [] 0 63 = some 0 ∧ ldcValue [] 2 62 = some 0 ∧ ldcValue [] 2 63 = none ∧ branchCond 0 0 = some true ∧
    branchCond 1 0 = some false ∧ (0 : Int) + (0#24).toInt = 0 ∧ pier0.loops.length < 4 ∧
    (atWord 0xFF00000000000000 pier0).atIssue 0 = some (⟨0, 0, false, [(0, 0xFF00000000000000)], 1, []⟩, none) ∧
    ([⟨0, 0, 1⟩] : List LoopEntry) = ⟨0, 0, 1⟩ :: [] ∧ (⟨0, 0, 2⟩ : LoopEntry).remaining > 1 := by decide +kernel

/-- A pier with registers that name a scratchpad, GDDR7 and nothing else, tag 31 idle and slot 0 busy. -/
def memPier : Pier :=
  { pier0 with regs := [(1, BitVec.ofNat 64 pad), (2, BitVec.ofNat 64 (pad + 64)), (3, 1), (4, 2)],
               slots := [(0, ⟨true, 2, 0, 0⟩)] }

theorem witness_WaitsAndMemoryIssue :
    let s := atWord 0 memPier
    let p := s.pier 0
    (p.reg 0 ≤ (s.event 0).value) ∧ (s.event 0).value < p.reg 3 ∧ s.launchedSpans 0 ⟨0, 0, false, [], 1, []⟩ = 1 ∧
    (p.tag 31).busy = false ∧ 1 ≤ (p.reg 3).toNat % 2 ^ 32 ∧
    overlaps ((p.reg 2).toNat % 2 ^ 48) ((p.reg 1).toNat % 2 ^ 48) 1 = false ∧ (p.reg 1).toNat % 2 ^ 48 % 8 = 0 ∧
    s.feHeld 0 = false ∧
    ({ s with mesh := { mesh0 with installBusy := true, failed := 2 } } : State).feHeld 0 = true ∧
    s.target ((p.reg 1).toNat % 2 ^ 48) = .scratch 0 0 ∧ clearBit ((p.reg 3).toNat % 2 ^ 16) 0 = 0 ∧
    clearBit ((p.reg 4).toNat % 2 ^ 16) 0 ≠ 0 ∧ (p.slot 0).busy = true ∧ (p.slot 1).busy = false ∧
    natBits (p.reg 3).toNat 16 0 + 63 + 1 ≤ 131072 := by decide +kernel

/-- An EVWAIT that blocks with a timeout. -/
theorem witness_EvwaitTimeout :
    let i : InFlight := ⟨.evwait 0 0 1 0, 0, 1, 0, 0⟩
    let s := atWord 0 { pier0 with blocked := some (i, 0) }
    s.running = true ∧ (s.pier 0).live = true ∧ (s.pier 0).blocked = some (i, 0) ∧ i.instr = .evwait 0 0 1 0 ∧
    (1#20).toNat ≠ 0 := by decide +kernel

/-- Instructions in flight that may complete: a DMA, the atomics, an EVREC and an MCAST, each alone. -/
def inFlight (i : InFlight) : State :=
  atWord 0 { memPier with
    flight := [i], tags := [(31, ⟨true, false, pad, pad + 64, 1, false, none⟩)], slots := [(0, ⟨true, 6, 2, 2⟩)] }

theorem witness_MemoryCompletions :
    let dma : InFlight := ⟨.dma 1 2 3 31, 0, 0, 0, 31⟩
    let add : InFlight := ⟨.atadd 0 1 2 true true, BitVec.ofNat 64 pad, 1, 0, 0⟩
    let ev : InFlight := ⟨.evrec 0 false true 0, 0, 1, 0, 0⟩
    let mc : InFlight := ⟨.mcast 0 1 2 0, 6, 0, 0, 0⟩
    ((inFlight dma).pier 0).dmaOf 31 = some 0 ∧ (((inFlight dma).pier 0).tag 31).lost = false ∧
    (inFlight dma).spanFenced 0 = false ∧ ({ inFlight dma with flt := { flt0 with spans := 1 } } : State).spanFenced 0 = true ∧
    (({ inFlight dma with flt := { flt0 with spans := 1 } } : State).pier 0).dmaOf 31 = some 0 ∧
    ((inFlight add).pier 0).flight[0]? = some add ∧ mayComplete ((inFlight add).span 0).runTile ((inFlight add).pier 0).flight 0 add = true ∧ add.aux < 2 ^ 20 ∧
    (inFlight add).firstBad false pad 8 = none ∧ ((inFlight ev).pier 0).flight[0]? = some ev ∧
    mayComplete ((inFlight ev).span 0).runTile ((inFlight ev).pier 0).flight 0 ev = true ∧ ((inFlight ev).pier 0).live = true ∧
    (inFlight mc).branchOpen 0 0 2 = true ∧ ((inFlight mc).pier 0).mcastOf 0 = some 0 ∧ (inFlight mc).spanFenced 2 = false ∧
    ({ inFlight mc with flt := { flt0 with spans := 4 } } : State).spanFenced 2 = true ∧
    (inFlight dma).dmaHeld 0 (((inFlight dma).pier 0).tag 31) = false ∧
    ({ inFlight dma with spans := [(0, { (inFlight dma).span 0 with marchState := 1, marchPreserve := true, marchKeep := true })] } : State).dmaHeld 0
      (((inFlight dma).pier 0).tag 31) = true ∧ (inFlight add).atomicHeld 0 add = false ∧
    (inFlight mc).heldTo 0 (spanRouter 2) = false ∧ (inFlight mc).marchHeld (spanRegion 2) 1 = false ∧
    (inFlight ev).feHeld 0 = false := by decide +kernel

/-- Operands that each tensor instruction accepts: tile 0 of cell 0, lines of four units at unit 0, K = 64. -/
theorem witness_TensorAndAnnealIssue :
    let c : CellSet := ⟨0, 0, 0⟩
    let a : Word := 0x1000000000
    c.ok = true ∧ tileOk 0 32 32 = true ∧ shapeOf 0 = some (32, 32) ∧ (mmaJob 0 0 a a 1 0 false false c 4).isSome = true ∧
    redOk 0 a a 0 0 c 0 = true ∧ (accmvOps 0 0 a a 0xA 0 0 c 0 false).isSome = true ∧
    (cvtOps 0 a a 0x100000001 0xA 0xA false).isSome = true ∧ (ewoOps 0 a a a 0x100000001 0xA 0xA 0xA false).isSome = true ∧
    (fldcJob 0 0 a 0 1 0 c 4).isSome = true ∧ (fldcSlots 0 0 0 c).isSome = true ∧ 
    (atWord 0 pier0).gibbsOk 0 0 a a 0 0 false c 0 = true := by
  decide +kernel

/-- `ready` with a run in span 0, whose pier holds an anneal instruction in flight when the run is at an order of Table 12.7. -/
def atAnneal (p : Problem) (r : Run) (order : Nat) (i : SpanInstr) : State :=
  { ready with
    problems := [p], runs := [r],
    spans := [(0, { span0 with bound := some 0, order := order,
                               pier := { pier0 with code := 1, launch := some ⟨0, 0, false, [], 1, []⟩, flight := [⟨i, 0, 0, 0, 0⟩] } })] }

/-- An instruction of each order: the carriers of the run hold it at their head. -/
theorem witness_TensorAndAnnealIssue_orders :
    ∀ q ∈ [(0, SpanInstr.sched 0 0 0 0), (1, .sweep 1), (2, .fref 1), (3, .eaud 1), (4, .snap 1), (5, .xchg 1), (6, .sched 1 0 0 1),
        (7, .rmig 1), (8, .wrot 1), (9, .sched 1 0 0 2)],
      let s := atAnneal problem0 run0 q.1 q.2
      s.carriers run0 = [0] ∧ s.headOrder 0 = some q.1 ∧ s.problem 0 = some problem0 ∧ s.run 0 = some run0 := by decide +kernel

/-- `problem0` with every period of its schedule one sweep. -/
def problem5 : Problem :=
  { problem0 with scheds := [{ problem0.scheds.headD default with
      refresh := 1, audit := 1, exchange := true, exchangeSweeps := 1, segs := [⟨⟨32768, 0⟩, 2, 32768⟩] }] }

/-- What each step depends on: a start, a sweep that is over and one that is not, the periods of the schedule, a stop, an end, a
checkpoint, an order that is not the run's, and an instruction without a run. -/
theorem witness_TensorAndAnnealIssue_steps :
    let s := atAnneal problem0 run0 1 (.sweep 1)
    let e := atAnneal problem0 { run0 with sweepsDone := 2 } 6 (.sched 1 0 0 1)
    let v : State := { s with spans := [(0, { s.span 0 with eng := { engine0 with phase := .deciding } })] }
    run0.mismatched = none ∧ run0.sysFree = true ∧ run0.starting = false ∧ run0.swept = false ∧ s.atRest run0 = true ∧
    v.atRest run0 = false ∧ run0.sweepResult = 0 ∧ run0.refreshAt problem5 = true ∧ run0.refreshAt problem0 = false ∧
    run0.auditAt problem5 = true ∧ run0.auditAt problem0 = false ∧ run0.exchangeAt problem5 = true ∧ run0.exchangeAt problem0 = false ∧
    s.stopsNow run0 = false ∧ run0.sweep + 1 < run0.lastSweep problem5 ∧ partOf problem5 = 0 ∧ s.endsHere problem0 run0 = false ∧
    e.endsHere problem0 { run0 with sweepsDone := 2 } = true ∧ run0.noSteps = false ∧ run0.bestSet = true ∧
    run0.checkpointAt 0 = false ∧ ({ run0 with ckptArea := pad, ckptAsked := true } : Run).checkpointAt 0 = true ∧
    (atAnneal problem0 run0 2 (.sweep 1)).headOrder 0 = some 1 ∧ ((atAnneal problem0 run0 2 (.sweep 1)).span 0).order ≠ 1 ∧
    (({ s with spans := [(0, { s.span 0 with bound := none })] } : State).span 0).bound = none := by decide +kernel

/-- A run block in a scratchpad (Table 10.9): an opcode and schedule 0 of problem 0. -/
def binding (opcode sched : Nat) : State :=
  let s := atAnneal problem0 run0 0 (.sched 0 0 0 0)
  { s with
    runs := [], spans := [(0, { s.span 0 with bound := none })],
    mem := memPutAll [] ((leBytes 1 opcode ++ List.replicate 19 0#8 ++ leBytes 1 sched).zipIdx.map (fun q => (pad + q.2, q.1))) }

/-- A block that starts a run, one whose schedule does not exist, and one of no run command. -/
theorem witness_TensorAndAnnealIssue_bind :
    let s := binding 0x12 0
    let b := s.bindBlock 0
    s.binders 0 0 false = [0] ∧ (s.span 0).bound = none ∧ numAt b 0 1 = 0x12 ∧
    s.bindProblem b (s.runExec 0).isSome = some problem0 ∧ problem0.id = 0 ∧ s.run 0 = none ∧
    s.bindLacks problem0 [0] = false ∧ problemSpans problem0 = [0] ∧ schedFault problem0 b = false ∧ s.runExec 0 = none ∧
    drawsKey b = false ∧ schedFault problem0 ((binding 0x12 1).bindBlock 0) = true ∧
    numAt ((binding 0x30 0).bindBlock 0) 0 1 = 0x30 := by decide +kernel

/-- A tensor instruction alone in flight. -/
theorem witness_TensorCompletion :
    let i : InFlight := ⟨.accz 0 0 0 ⟨0, 0, 0⟩, 0, 0, 0, 0⟩
    (inFlight i).running = true ∧ ((inFlight i).pier 0).flight[0]? = some i ∧ isTensorLike i.instr = true ∧
    mayComplete ((inFlight i).span 0).runTile ((inFlight i).pier 0).flight 0 i = true := by decide +kernel

/-! ### Sweeps -/

/-- Two variables in two blocks of span 0, one block an epoch. -/
def problem2 : Problem :=
  { problem0 with
    nvars := 2, groups := [⟨0, 0, 0, 0, [0]⟩, ⟨0, 0, 1, 1, [1]⟩],
    scheds := [{ problem0.scheds.headD default with epochBlocks := 1 }] }

/-- A block of span 0 that holds one variable. -/
def block0 (num var : Nat) : BlockRow := ⟨0, num, 0, 0, num, num, some var :: List.replicate 63 none⟩

/-- A run of `problem2`, of two epochs. -/
def run2 : Run := { run0 with blocks := [block0 0 0, block0 1 1], k := 2 }

/-- Both blocks in one epoch. -/
def problem3 : Problem := { problem2 with scheds := [{ problem0.scheds.headD default with epochBlocks := 2 }] }

/-- Both blocks of `problem2` in the one epoch of a sweep. -/
def run3 : Run := { run2 with k := 1 }

/-- Three variables of a term of order 3 in one block: each entry of its tile is the split marker (R60). -/
def problem4 : Problem :=
  { problem0 with nvars := 3, hypers := [⟨[0, 1, 2], ⟨1, 0⟩⟩], groups := [⟨0, 0, 0, 0, [0, 1, 2]⟩] }

/-- Its run. -/
def run4 : Run := { run0 with blocks := [⟨0, 0, 0, 0, 0, 0, some 0 :: some 1 :: some 2 :: List.replicate 61 none⟩] }

/-- The engine at a block. -/
def atBlock : Engine := { engine0 with phase := .deciding }

/-- The block is decided to its end, with lanes left or with none. -/
def decided (t : Try (Work × List Nat)) (whole : Bool) : Bool :=
  match t with
  | .ok (_, rest) => rest.isEmpty = whole
  | .error _ => false

/-- A block that ends with another behind it, and a stop cause in force. -/
theorem witness_BlockVisits :
    let s := sweeping problem3 run3 atBlock
    let x : Run := { run0 with stops := { stops0 with fault := true } }
    let stop := sweeping problem0 x atBlock
    s.nextBlock 0 = some (problem3, run3, block0 0 0) ∧
    (s.memEvents []).nextBlock 0 = some (problem3, run3, block0 0 0) ∧ s.stopsNow run3 = false ∧
    (let v := s.memEvents []
     let gone := v.lostGranules problem3
     let env := ((v.noteFirstBlock run3).envOf problem3 run3 0).losing gone
     v.stopsNow run3 = false ∧ v.lostReads problem3 [] = [] ∧
     decided (env.decideBlock 0 0 (block0 0 0) (env.laneOrder (block0 0 0)) (spanData0.losing problem3 gone)) true = true) ∧
    0 + 1 < (run3.epochBlocksOf problem3 0 0).length ∧ (stop.nextBlock 0).isSome = true ∧ stop.stopsNow x = true ∧
    (s.envOf problem3 run3 0).refreshDue (block0 0 0) spanData0 = false := by decide +kernel

/-- A split marker that leaves lanes, a continuation that leaves lanes again, and one that ends its block. -/
theorem witness_BlockVisits_continuation :
    let b : BlockRow := run4.blocks.headD (block0 0 0)
    let s := sweeping problem4 run4 atBlock
    let c := sweeping problem4 run4 { atBlock with cont := some ⟨0, [1, 2]⟩ }
    let u := sweeping problem3 run3 { atBlock with cont := some ⟨0, [0]⟩ }
    s.nextBlock 0 = some (problem4, run4, b) ∧ s.stopsNow run4 = false ∧
    (let v := s.memEvents []
     let gone := v.lostGranules problem4
     let env := ((v.noteFirstBlock run4).envOf problem4 run4 0).losing gone
     v.nextBlock 0 = some (problem4, run4, b) ∧ v.stopsNow run4 = false ∧
     decided (env.decideBlock 0 0 b (env.laneOrder b) (spanData0.losing problem4 gone)) false = true) ∧
    c.contDue 0 = some (problem4, run4, b, [1, 2]) ∧
    decided (((c.envOf problem4 run4 0).losing (c.lostGranules problem4)).decideBlock 0 0 b [1, 2]
      (spanData0.losing problem4 (c.lostGranules problem4))) false = true ∧
    u.contDue 0 = some (problem3, run3, block0 0 0, [0]) ∧
    decided (((u.envOf problem3 run3 0).losing (u.lostGranules problem3)).decideBlock 0 0 (block0 0 0) [0]
      (spanData0.losing problem3 (u.lostGranules problem3))) true = true := by decide +kernel

/-- A block whose truncation count has reached its threshold. -/
theorem witness_BlockVisits_refresh :
    let d : SpanData := { spanData0 with counts := [(0, 16384)] }
    let s := sweeping problem0 run0 { atBlock with data := d }
    let gone := s.lostGranules problem0
    let env := (s.envOf problem0 run0 0).losing gone
    s.nextBlock 0 = some (problem0, run0, block0 0 0) ∧ env.refreshDue (block0 0 0) d = true ∧
    (match env.testRead 0 (block0 0 0) (d.losing problem0 gone) with
      | .ok _ => true
      | .error _ => false) = true := by decide +kernel

/-- Messages on their way to span 0 from span 1 of its run, from its buddy and another span outside the run, and from a link stop;
what span 0 holds already, a fenced span 0, and a flit that is not yet injected. -/
theorem witness_Records :
    let r : Run := { run0 with spans := [0, 1] }
    let flit : Vc1Msg := ⟨1, [0], .flit 0 false 0 [], 0, false⟩
    let mark : Vc1Msg := ⟨1, [0], .marker 0 false [] 0 [] false, 0, false⟩
    let s (r : Run) (m : Vc1Msg) : State := { ready with runs := [r], mesh := { mesh0 with vc1 := [m] } }
    let f := s r flit
    let q : State := { ready with runs := [r], spans := [(1, { span0 with eng := { engine0 with inject := [flit] } })] }
    f.running = true ∧ f.spanFenced 0 = false ∧ f.mesh.vc1 = [] ++ flit :: [] ∧ flit.gen = f.mesh.generation ∧ 0 ∈ flit.dests ∧ f.vc1Held 1 0 = false ∧
    f.runOfSpan 1 = some r ∧ 0 ∈ r.spans ∧ (f.eng 0).flits = [] ∧ ¬ 0 < r.sweep * r.k ∧ 0 + boolNat false < 1 ∧
    (s { r with spans := [1] } flit).runOfSpan 1 = some { r with spans := [1] } ∧ 0 = 1 ^^^ 1 ∧
    (engine0.receivePair 0 1 (.flit 0 false 0 [])).pairDue = none ∧ (s { r with spans := [2] } flit).runOfSpan 1 = none ∧
    (s { r with spans := [2] } { flit with src := 2 }).runOfSpan 2 = some { r with spans := [2] } ∧ 0 ≠ 2 ^^^ 1 ∧
    (s r mark).mesh.vc1 = [] ++ mark :: [] ∧ mark.body.isMarker = true ∧ flit.body.isMarker = false ∧
    (s r ⟨16, [0], .batch 0 false 1 0 0 0 0 [], 0, false⟩).vc1Held 16 0 = false ∧
    ({ f with flt := { flt0 with spans := 1 } } : State).spanFenced 0 = true ∧ (q.eng 1).inject = [] ++ flit :: [] ∧
    q.mesh.vc1 = [] := by decide +kernel

/-- The boundary behind epoch 0 of two: complete, waiting for the marker of span 1, and at an end. -/
theorem witness_Boundary :
    let g : Engine := { atBlock with phase := .boundary }
    let s := sweeping problem2 run2 g
    let r : Run := { run2 with spans := [0, 1] }
    let w : State := { sweeping problem2 r g with spans := [(0, { span0 with bound := some 0, eng := g }), (1, { span0 with bound := some 0 })] }
    let e := sweeping problem2 { run2 with stops := { stops0 with spanLoss := false } } { g with marks := [⟨1, 0, false, 0, 0, [], true⟩] }
    s.boundRun 0 = some (problem2, run2) ∧ s.stopsNow run2 = false ∧ (s.liveOf run2).all (fun m => !(s.eng m).stopped) = true ∧
    g.epoch + 1 ≠ run2.k ∧ (run2.schedOf problem2).coloured = false ∧ s.endsAt problem2 run2 0 1 = false ∧
    run2.remapAt 1 = false ∧ (s.applyEpochs problem2 run2 0 1 1 false).2.2.isSome = true ∧
    (s.applyEpochs problem2 run2 0 1 1 false).1.logFull problem2 run2 0 = false ∧
    ({ run2 with remap := [(5, 0)] } : Run).remapAt 1 = true ∧ run2.epochBlocksOf problem2 0 1 ≠ [] ∧ w.epochComplete r 0 0 false = false ∧ e.endsAt problem2 run2 0 1 = true := by
  decide +kernel

/-- A flip log that is full, with a span that has not applied what it holds. -/
theorem witness_Boundary_full :
    let m : LogMove := { replica := 0, epoch := 0, att := 0, undo := false, past := false, late := false, flush := false, sent := [],
                         changes := List.replicate 256 ⟨0, false, false⟩ }
    let g : Engine := { atBlock with
      phase := .boundary, marks := [⟨1, 0, false, 0, 0, [], false⟩], data := { spanData0 with log := [m] } }
    let r : Run := { run2 with spans := [0, 1] }
    let s : State := { sweeping problem2 r g with
      spans := [(0, { span0 with bound := some 0, eng := g }), (1, { span0 with bound := some 0, eng := atBlock })] }
    s.boundRun 0 = some (problem2, r) ∧ s.endsAt problem2 r 0 1 = false ∧ s.epochComplete r 0 0 false = true ∧
    (s.applyEpochs problem2 r 0 1 1 false).2.2.isSome = true ∧
    (s.applyEpochs problem2 r 0 1 1 false).1.logFull problem2 r 0 = true := by decide +kernel

/-- The flush at the end of a sweep of one epoch, and at the end of a colour. -/
theorem witness_Flush :
    let g : Engine := { atBlock with phase := .boundary }
    let s := sweeping problem0 run0 g
    let p : Problem := { problem2 with scheds := [{ problem2.scheds.headD default with coloured := true }] }
    let r : Run := { run2 with colourEnds := [(0, 1), (1, 2)] }
    let c := sweeping p r g
    g.undoSent ≤ g.epoch ∧ g.epoch + 1 = run0.k ∧ s.endsAt problem0 run0 0 1 = false ∧ s.partsSwept problem0 run0 0 = true ∧
    (s.applyEpochs problem0 run0 0 1 1 true).2.2.isSome = true ∧ (r.schedOf p).coloured = true ∧
    (0, g.epoch + 1) ∈ r.colourEnds ∧ g.epoch + 1 ≠ r.k ∧ c.boundRun 0 = some (p, r) ∧ c.endsAt p r 0 1 = false ∧
    (c.applyEpochs p r 0 1 1 true).2.2.isSome = true := by decide +kernel

/-- A settle that is due, a deadline, a re-map whose pair lives, and a part that waits for another. -/
theorem witness_SettlesAndStops :
    let s := sweeping problem0 run0 { atBlock with phase := .flushed }
    let d := sweeping problem0 { run0 with deadlineUs := 1 } atBlock
    s.running = true ∧ s.run 0 = some run0 ∧ s.problem 0 = some problem0 ∧ s.settleDue run0 = true ∧ s.sweepDone run0 = true ∧
    d.run 0 = some { run0 with deadlineUs := 1 } ∧ run0.begun = true ∧ run0.stops.deadline = false := by decide +kernel

theorem witness_SpanRemap :
    let r : Run := { run0 with spans := [0, 1, 2], blocks := [⟨1, 0, 0, 1, 0, 0, some 0 :: List.replicate 63 none⟩], remap := [(1, 0)] }
    let h : Engine := { atBlock with phase := .held }
    let s : State := { sweeping problem0 r h with
      spans := [(0, { span0 with bound := some 0, eng := h }), (2, { span0 with bound := some 0, eng := h })],
      flt := { flt0 with spans := 2 } }
    s.run 0 = some r ∧ s.problem 0 = some problem0 ∧ s.remapReady r = true ∧ (∀ f, f ∈ r.remap → s.spanFenced f.1 = true) := by
  decide +kernel

/-- Part 0 of a system of two. -/
def part0 : SysDesc := { (default : SysDesc) with locked := true, sysRun := 1, parts := [(0, 0), (1, 0)] }

/-- Its system side, while it waits for part 1. -/
def sys0 : SysRun :=
  { stage := .running, first := false, ready := [], started := none, starts := [], initIn := [], initVals := [], epochMarks := [],
    sweepEnds := [], undoEnds := [], arrived := [], settleUp := [], kidsIn := [], settleDone := none, ladderIn := 0, endCause := 0,
    causeEpoch := 0, causeForwarded := false, out := [], sentRecs := [], epochBatches := [], sweepBatches := [], undoBatches := [], recvRecs := [],
    seen := [], closed := 0, closedUndo := 0, endEf := [], audit := [], auditCount := [], flags := 0, waiting := some 1, waitFrom := 0,
    alone := false, refreshed := false, auditBad := false, status := none }

theorem witness_ExchangeTimeout :
    let p : Problem := { problem0 with sys := some part0 }
    let s : State := { sweeping p { run0 with sys := some sys0 } atBlock with links := [(0, { link0 with state := 6 })] }
    let v := s.passTo (sys0.waitFrom + 100000 * 250)
    let t := (v.stopRun 0 (fun z => { z with stop := true })).raise .fe 0 0
    s.sysOf 0 = some (p, part0, { run0 with sys := some sys0 }, sys0) ∧ sys0.waiting.isSome = true ∧
    ∀ d, d < 16 → (t.link (t.exitFor d)).takes 224 = true := by decide +kernel

/-! ### Links -/

/-- An ACTIVE link of a ready device. -/
def linked (x : Link) : State := { ready with links := [(0, { x with state := 6 })] }

/-- A flit that the link expects, with ttl 1 and 2, for this module and for another. -/
theorem witness_LinkMessages :
    let s := linked link0
    Arriving s 0 hdr0 ∧ s.mine hdr0 = true ∧ s.mine { hdr0 with dst := 5 } = false ∧
    ({ hdr0 with ttl := 1 } : FlitHdr).ttl.toNat ≤ 1 ∧ 1 < ({ hdr0 with ttl := 2 } : FlitHdr).ttl.toNat ∧
    (s.link (s.exitFor 5)).takes 240 = true ∧ ({ s with links := [] }.link (s.exitFor 5)).takes 240 = false := ⟨⟨rfl, rfl, rfl, rfl⟩, by decide +kernel⟩

/-- A word that can be read, one that cannot, a forwarding link with a context that has room and one that is full, an entry
that wins and one that does not. -/
theorem witness_LinkMessages_memory :
    let s := linked link0
    let f : State := { linked { link0 with fwdEn := true } with ctxs := [(0, active0), (1, { active0 with tail := 16 })] }
    s.accessHeld 0 hdr0 pad 16 = false ∧ s.wayHeld (linkRouter 0) feRouter = false ∧ s.wayHeld (linkRouter 0) (spanRouter 0) = false ∧
    pad % 8 = 0 ∧ s.firstBad false pad 8 = none ∧ (s.firstBad false (2 ^ 48 - 8) 8).isSome = true ∧ 4 % 8 ≠ 0 ∧
    (f.link 0).fwdEn = true ∧ ((f.ctx 0).state = .active ∨ (f.ctx 0).state = .stopped) ∧ (s.link 0).fwdEn = false ∧
    ¬ 2 ^ (f.ctx 0).useRingLog2 ≤ ((f.ctx 0).tail - (f.ctx 0).head).toNat ∧
    2 ^ (f.ctx 1).useRingLog2 ≤ ((f.ctx 1).tail - (f.ctx 1).head).toNat ∧
    (let old := redOf (s.readBytes pad 16)
     redBetter 1 old (redOf (redEntryBytes ⟨0, 0, 0, 1⟩)) = old ∧ redBetter 1 old (redOf (redEntryBytes ⟨1, 0, 127, 1⟩)) ≠ old) := by
  decide +kernel

/-- A flit that the link names in its acknowledgement, and one that has been sent eight times. -/
def sent0 (n : Nat) : TxFlit := ⟨hdr0, 0, 0, [], n, 0, 0, [], true⟩

theorem witness_LinkLife_active :
    let s := linked { link0 with unacked := [sent0 7] }
    let x := linked { link0 with unacked := [sent0 8] }
    let t := linked { link0 with rxEnc := true, tagFails := 3 }
    s.running = true ∧ (s.link 0).nakRx = false ∧ s.transitHeld 0 { hdr0 with seq := 1 } = false ∧ (s.link 0).state = 6 ∧ ({ hdr0 with seq := 1 } : FlitHdr).seq ≠ (s.link 0).rxNext ∧
    (s.link 0).unacked ≠ [] ∧ (∀ f, f ∈ (s.link 0).unacked → f.resent < 8) ∧ (∃ f, f ∈ (x.link 0).unacked ∧ 8 ≤ f.resent) ∧
    (t.link 0).rxEnc = true ∧ hdr0.seq = (t.link 0).rxNext ∧ (t.link 0).tagFails = 3 := by decide +kernel

/-- The states of a training, with and without a cable, a partner and lanes. -/
theorem witness_LinkLife_training :
    let at_ (x : Link) : State := { ready with links := [(0, { x with enable := true })] }
    (at_ { link0 with state := 1 }).mayTrain 0 = true ∧ (at_ { link0 with state := 7 }).mayTrain 0 = true ∧
    (at_ { link0 with state := 5, paramRx := true }).mayTrain 0 = true ∧ link0.cable = true ∧
    ({ link0 with cable := false } : Link).cable = false ∧
    (at_ { link0 with state := 3 }).mayTrain 0 = true ∧ (at_ { link0 with state := 4 }).mayTrain 0 = true ∧
    widestWidth ((at_ link0).fencedLanes 0) = some 0 ∧
    widestWidth (({ at_ link0 with flt := { flt0 with lanes := [(0, 0xFF)] } } : State).fencedLanes 0) = none ∧
    widestWidth (link0.failed ||| 0x02) = some 1 ∧ widestWidth (link0.failed ||| 0xFF) = none ∧ (1#8) ≠ 0 := by decide +kernel

/-- `LNK_CTL` at DISABLED, fenced and not, in FAULT, at DOWN, and at ACTIVE. -/
theorem witness_LinkLife_control :
    let fenced : State := { ready with flt := { flt0 with links := 1 } }
    ready.barOk = true ∧ (ready.link 0).state = 0 ∧ ready.linkFenced 0 = false ∧ ready.flt.state < 2 ∧ ready.cipherOk 0 = true ∧
    ({ ready with sec := { ready.sec with selfTestFail := true, cfg := { cfg0 with linkEnc := 1 } } } : State).cipherOk 0 = false ∧
    fenced.linkFenced 0 = true ∧ (linked link0).barOk = true ∧ ((linked link0).link 0).state = 6 ∧
    (ready.link 0).enable = false ∧ (({ ready with links := [(0, { link0 with enable := true })] } : State).link 0).enable = true := by
  decide +kernel

/-! ### Single steps, with results from the spec -/

/-- The check value of CRC-32C (R65's polynomial), the CRC of the bytes of "123456789". -/
theorem test_crc32c : crc32c [0x31, 0x32, 0x33, 0x34, 0x35, 0x36, 0x37, 0x38, 0x39] = 0xE3069283 := by decide +kernel

/-- What a step leaves, where it goes. -/
def after (c : Instr) (s : State) : State :=
  match step { s with pending := [c] } with
  | .next t => t
  | .fault _ | .refused _ => s

/-- R312: SETI sign-extends, and with hi = 1 keeps the lower half. -/
theorem test_seti :
    ((after (.seti 0) (atWord (encodeSpan (.seti 5 false 0x80000000)) pier0)).pier 0).reg 5 = 0xFFFFFFFF80000000 ∧
    ((after (.seti 0) (atWord (encodeSpan (.seti 5 true 7)) { pier0 with regs := [(5, 9)] })).pier 0).reg 5 = 0x700000009 := by
  decide +kernel

/-- R313: SAR shifts the sign in, and SLT compares signed. -/
theorem test_alu :
    ((after (.alu 0) (atWord (encodeSpan (.alu 5 1 2 7)) { pier0 with regs := [(1, 0x8000000000000000), (2, 127)] })).pier 0).reg 5
      = 0xFFFFFFFFFFFFFFFF ∧
    ((after (.alu 0) (atWord (encodeSpan (.alu 5 1 2 13)) { pier0 with regs := [(1, 0xFFFFFFFFFFFFFFFF), (2, 1)] })).pier 0).reg 5 = 1 := by
  decide +kernel

/-- R471, R472: the rollover takes the pending value. -/
theorem test_time_set :
    let s := after .timeRollover (after (.devTimeSet 77) ready)
    s.time.sec = 77 ∧ s.time.sub = 0 ∧ s.time.setTo = none := by decide +kernel

/-- R425, R426: an ESCALATE starts the timer, and the acknowledgement stops it. -/
theorem test_escalation :
    let s := after .entropyHealthFailure ready
    s.flt.state = 1 ∧ s.sec.rng = 2 ∧ (after .fltAck s).flt.state = 0 ∧ (after .escalationExpiry s).flt.state = 2 := by
  decide +kernel

/-- R258, R301: a context lives and is freed. -/
theorem test_context :
    let s := after (.contextCreate 3 false true) ready
    (s.ctx 3).state = .active ∧ (s.ctx 3).priority = true ∧ ((after (.contextDestroy 3 false true) s).ctx 3).state = .draining ∧
    ((after (.destroyDone 3) (after (.contextDestroy 3 true true) s)).ctx 3).state = .free := by decide +kernel

/-- R294: a host write sets an event without an interrupt. -/
theorem test_event :
    let s := after (.evtAdd 0xFFFF 5) (after (.evtValue 0xFFFF 0xFFFFFFFFFFFFFFFF) ready)
    (s.event 0xFFFF).value = 4 ∧ s.bus.sent = [] ∧ s.pcie.pba = [] := by decide +kernel

/-- R281: PLOAD of the image adds a problem in slot 0 and ends. -/
theorem test_pload :
    let s := after (.pload 0) ploadState
    s.problems.map (fun p => (p.id, p.nvars, p.nrep)) = [(0, 1, 1)] ∧ (after (.commandCompletion 0) s).fe.loads = 1 := by decide +kernel

/-- R405, R406: a byte written through BAR2 lands in the memory behind the window. -/
theorem test_bar2 :
    let s : State := { ready with pcie := { pcie0 with winBase := BitVec.ofNat 20 (pad / 2 ^ 28) } }
    memGet (after (.bar2Write 8 [some 0x5A] []) s).mem (pad + 8) = 0x5A := by decide +kernel

end Sys2Proof.Machine.Tests
end

section
/-! PROOFS. Where boot stages, the end of the quiet period, register writes and requests complete: what each operation that these
rows are made of leaves alone, read through the one field that the statement asks for.
-/

namespace Sys2Proof.Machine

/-! ### Memory writes and completion entries leave the completion head -/

@[simp] theorem State.noteHostFail_ctxs (s : State) (w : Bool) (a n : Nat) : (s.noteHostFail w a n).ctxs = s.ctxs := by
  unfold State.noteHostFail
  repeat' split
  all_goals rfl

@[simp] theorem State.noteRequest_ctxs (s : State) (w : Bool) (a n : Nat) : (s.noteRequest w a n).ctxs = s.ctxs := by
  unfold State.noteRequest
  extract_lets host t
  have ht : t.ctxs = s.ctxs :=
    (State.noteHostFail_ctxs _ w a n).trans (ite_keep (P := fun x => x.ctxs = s.ctxs) rfl rfl)
  repeat' split
  all_goals exact ht

@[simp] theorem State.bumpPages_ctxs (s : State) (addrs : List Nat) : (s.bumpPages addrs).ctxs = s.ctxs := by
  refine foldl_keep (P := fun t => t.ctxs = s.ctxs) (fun _ _ h => ?_) _ _ rfl
  exact h

@[simp] theorem State.writeBytes_ctxs (s : State) (a : Nat) (l : List Byte) : (s.writeBytes a l).ctxs = s.ctxs := by
  simp [State.writeBytes, State.storeCells]

/-- A context stops with its completion head as it was. -/
theorem State.stopCtx_cplHead (s : State) (c : Nat) : ((s.stopCtx c).ctx c).cplHead = (s.ctx c).cplHead := by
  have hv (v : Nat) (t : State) : (t.raiseVector v).ctx c = t.ctx c := by simp [State.ctx]
  unfold State.stopCtx
  split
  · simp [hv]
  · simp
  · rfl

/-- An entry is written, or its write fails, with the completion head as it was. -/
theorem State.writeEntry_cplHead (s : State) (c op flags : Nat) (info : CaptureInfo) :
    ((s.writeEntry c op flags info).ctx c).cplHead = (s.ctx c).cplHead := by
  have hw (a : Nat) (l : List Byte) : (s.writeBytes a l).ctx c = s.ctx c := by simp [State.ctx]
  have hn (a n : Nat) : (s.noteRequest true a n).ctx c = s.ctx c := by simp [State.ctx]
  unfold State.writeEntry
  dsimp only
  split
  · simp [hw]
  · simp [State.stopCtx_cplHead, State.setLastStatus, hn]

/-- The entries that wait are written behind the completion head that the host has set. -/
theorem State.flushHeld_cplHead (c : Nat) (l : List HeldEntry) (s : State) :
    ((State.flushHeld c l s).ctx c).cplHead = (s.ctx c).cplHead := by
  induction l generalizing s with
  | nil => simp [State.flushHeld]
  | cons h rest ih =>
    unfold State.flushHeld
    split
    · simp
    · rw [ih, State.writeEntry_cplHead]

theorem State.cplHeadWrite_cplHead (s : State) (c : Nat) (v : BitVec 32) : ((s.cplHeadWrite c v).ctx c).cplHead = v := by
  unfold State.cplHeadWrite
  dsimp only
  split
  · simp
  · simp [State.flushHeld_cplHead]

/-- A tail within the ring, seen from the head and from the tail before, is taken. -/
theorem State.doorbell_tail {s : State} {c : Nat} {v : BitVec 32} (hs : (s.ctx c).state = .active ∨ (s.ctx c).state = .stopped)
    (hh : (v - (s.ctx c).head).toNat ≤ 2 ^ (s.ctx c).useRingLog2) (ht : (v - (s.ctx c).tail).toNat ≤ 2 ^ (s.ctx c).useRingLog2) :
    ((s.doorbell c v).ctx c).tail = v := by
  unfold State.doorbell
  dsimp only
  have hok : (decide ((v - (s.ctx c).head).toNat ≤ 2 ^ (s.ctx c).useRingLog2) &&
      decide ((v - (s.ctx c).tail).toNat ≤ 2 ^ (s.ctx c).useRingLog2)) = true := by
    rw [decide_eq_true hh, decide_eq_true ht]; rfl
  rcases hs with e | e
  · rw [e]; simp only [hok, if_true, State.ctx_modCtx_self]
  · rw [e]; simp only [hok, if_true, State.ctx_modCtx_self]

/-! ### An operation on an event leaves it the new value -/

@[simp] theorem State.testWaits_events (s : State) (e : Nat) : (s.testWaits e).events = s.events := by
  refine foldl_keep (P := fun t => t.events = s.events) (fun t n h => ?_) _ _ rfl
  split
  · exact h
  · exact h

/-- The value that the operation sets or adds is the event's value when the waits on it have been tested. -/
theorem State.eventOp_value (s : State) (e : Nat) (add : Bool) (v : Word) (error host : Bool) :
    ((s.eventOp e add v error host).event e).value = if add then (s.event e).value + v else v := by
  have ht (t : State) : (t.testWaits e).event e = t.event e := by simp [State.event]
  have hv (k : Nat) (t : State) : (t.raiseVector k).event e = t.event e := by simp [State.event]
  unfold State.eventOp
  dsimp only
  rw [ht]
  split
  · simp [hv]
  · simp

/-! ### A fence of memory leaves the interfaces' rates -/

@[simp] theorem State.loseProblems_mems (s : State) (pick : Problem → Bool) : (s.loseProblems pick).mems = s.mems := by
  refine foldl_keep (P := fun t => t.mems = s.mems) (fun t id h => ?_) _ _ rfl
  simpa [State.notifyLost, State.stopRun, State.modRun] using h

@[simp] theorem State.stopCtx_mems (s : State) (c : Nat) : (s.stopCtx c).mems = s.mems := by
  unfold State.stopCtx
  split <;> simp

@[simp] theorem State.stopCtxsIn_mems (s : State) (pick : Nat → Bool) : (s.stopCtxsIn pick).mems = s.mems := by
  refine foldl_keep (P := fun t => t.mems = s.mems) (fun t cx h => ?_) _ _ rfl
  simpa [State.setLastStatus] using h

@[simp] theorem State.fenceMem_mems (n : Nat) (s : State) : (State.fenceMem n s).mems = s.mems := by
  unfold State.fenceMem
  split
  · rfl
  · simp [State.rebuildCopies]

@[simp] theorem State.enterRaise_mems (s : State) (b : BlockId) (k : Nat) (m : Bool) (d : Nat) :
    (s.enterRaise b k m d).mems = s.mems := by
  have h := congrArg State.mems (s.enterRaise_rest b k m d); exact h

/-- A source of a MEM block that fences its interfaces changes none of their registers. -/
theorem State.raiseMandatory_mems (s : State) (n k d : Nat) : (s.raiseMandatory (memBlock n) k d).mems = s.mems := by
  simp [State.raiseMandatory, State.fenceUnitOf, memBlock]

/-! ### Boot stages -/

/-- A property of the boot registers and the security block that the output of the DRBG does not touch is kept by ordinary
work. -/
theorem closed_of_boot_sec {Q : Boot → Sec → Prop} (h : ∀ b x d n, Q b x → Q b { x with drbg := d, gens := n }) :
    Closed (fun t => Q t.boot t.sec) where
  rest hp := hp
  mem _ hp := hp
  herr _ hp := hp
  pba _ hp := hp
  sent _ hp := hp
  drbg n d hp := h _ _ d n hp
  cxlPerst _ hp := hp
  fence _ _ hp := hp
  escalate _ hp := hp

/-- Ordinary work leaves the boot registers as they are. -/
theorem closed_boot (b : Boot) : Closed (fun t => t.boot = b) :=
  closed_of_boot_sec (Q := fun x _ => x = b) (fun _ _ _ _ h => h)

theorem State.atStage_of {s : State} {k : Nat} (hr : s.running = true) (hf : s.boot.failed = false) (hs : s.boot.stage = k) :
    s.atStage k = true := by
  simp [State.atStage, hr, hf, hs]

/-- The boot has not failed, and these slots and this configuration block are taken (R459). -/
def Chosen (i c : Nat) (cfg : ConfigBlock) (t : State) : Prop :=
  t.boot.failed = false ∧ t.sec.imageSlot = i ∧ t.sec.configSlot = c ∧ t.sec.cfg = cfg

section
variable {i c : Nat} {cfg : ConfigBlock} {s : State}

theorem Chosen.closed : Closed (Chosen i c cfg) :=
  closed_of_boot_sec (Q := fun b x => b.failed = false ∧ x.imageSlot = i ∧ x.configSlot = c ∧ x.cfg = cfg)
    (fun _ _ _ _ h => h)

/-- A security block with the same slots and configuration block is put in place. -/
theorem Chosen.withSec {x : Sec} (h : Chosen i c cfg s)
    (hx : x.imageSlot = s.sec.imageSlot ∧ x.configSlot = s.sec.configSlot ∧ x.cfg = s.sec.cfg) :
    Chosen i c cfg { s with sec := x } := by
  obtain ⟨hf, hi, hc, hb⟩ := h
  exact ⟨hf, hx.1.trans hi, hx.2.1.trans hc, hx.2.2.trans hb⟩

theorem Chosen.rngFail (h : Chosen i c cfg s) : Chosen i c cfg s.rngFail :=
  State.raise_keep Chosen.closed _ _ _ h

theorem Chosen.seedDrbg (h : Chosen i c cfg s) (personal : List Byte) : Chosen i c cfg (s.seedDrbg personal) := by
  unfold State.seedDrbg
  extract_lets e n
  have hn : Chosen i c cfg n.2 := State.samples_keep Chosen.closed _ (State.samples_keep Chosen.closed _ h)
  clear_value n
  split
  · exact hn.rngFail
  · exact hn.withSec ⟨rfl, rfl, rfl⟩

theorem Chosen.instantiate (h : Chosen i c cfg s) : Chosen i c cfg s.instantiate := by
  unfold State.instantiate
  extract_lets seeded drawn
  have hd : Chosen i c cfg seeded := h.seedDrbg _
  have hw : Chosen i c cfg drawn.2 := State.generate_keep Chosen.closed 32 hd
  clear_value seeded drawn
  split
  · split
    · exact hd
    · exact hw.withSec ⟨rfl, rfl, rfl⟩
  · exact h

theorem Chosen.doSetSeverity (h : Chosen i c cfg s) (b : BlockId) (k sev : Nat) :
    Replies (Chosen i c cfg) (s.doSetSeverity b k sev) := by
  unfold State.doSetSeverity
  exact ite_replies (replies_done h) (ite_replies (replies_done h) (replies_done (State.modBlock_keep Chosen.closed _ _ h)))

theorem Chosen.applySeverities (h : Chosen i c cfg s) (l : List (BlockId × Nat × Nat)) : Chosen i c cfg (s.applySeverities l) := by
  refine foldl_keep (fun t q ht => ?_) l s h
  split
  next e => exact of_replies e (ht.doSetSeverity _ _ _)
  next => exact ht

/-- The links that the configuration block enables start to train. -/
theorem Chosen.trainLinks (h : Chosen i c cfg s) (on : Nat → Bool) (l : List Nat) : Chosen i c cfg (l.foldl (fun st l =>
    if on l then (st.modLink l (fun x => { x with enable := true })).startTraining l else st) s) := by
  refine foldl_keep (fun t l ht => ?_) l s h
  exact ite_keep (State.startTraining_keep Chosen.closed _ (State.modLink_keep Chosen.closed _ _ ht)) ht

end

/-- IMAGE_VERIFICATION takes the slots that boot, and stage 10 follows. -/
theorem execImageVerification_completes {s : State} {i0 i1 c0 c1 : ObjChecks} {i c : Nat} (cfg : ConfigBlock)
    (hs : s.atStage 9 = true) (hf : s.boot.failed = false) (hi : s.sec.bootSlot .image i0 i1 = some i)
    (hc : s.sec.bootSlot .config c0 c1 = some c) :
    ∃ u : State, exec (.imageVerification i0 i1 c0 c1 cfg) s = .next (u.retryRequest true).carryOn ∧
      u.boot.stage = 10 ∧ u.boot.failed = false ∧ u.sec.imageSlot = i ∧ u.sec.configSlot = c ∧ u.sec.cfg = cfg := by
  let taken := s.modSec (fun x =>
    { x with imageSlot := i, configSlot := c, svImage := x.slotVersion .image i, svConfig := x.slotVersion .config c, cfg := cfg })
  have h₀ : Chosen i c cfg taken := ⟨hf, rfl, rfl, rfl⟩
  obtain ⟨h₁, h₂, h₃, h₄⟩ :=
    (h₀.instantiate.applySeverities cfg.severities).trainLinks cfg.linkEnable.getLsbD (List.range 4)
  refine ⟨State.setStage _ 10, ?_, rfl, h₁, h₂, h₃, h₄⟩
  show execImageVerification i0 i1 c0 c1 cfg s = _
  simp only [execImageVerification, hs, hi, hc, if_true]
  rfl

/-- What GDDR7_TRAINING does at tick `now` for one interface: the rate it trains to, or none. -/
def State.trainIface (now : Nat) (st : State) (q : Option (Fin 3) × Nat) : State :=
  match q.1 with
  | some r => st.modMem q.2 (fun x => { x with active := true, rate := r.val, retrainTick := now + q.2 * (100 * tickMs / 16) })
  | none => st.raiseMandatory (memBlock (q.2 / 2)) (5 * (q.2 % 2) + 3) 0

theorem State.trainIface_boot (now : Nat) (s : State) (q : Option (Fin 3) × Nat) : (s.trainIface now q).boot = s.boot := by
  unfold State.trainIface
  split
  · rfl
  · exact State.raiseMandatory_keep (closed_boot s.boot) _ _ _ rfl

/-- Interface `i` is in use at rate `r`. -/
def State.TrainedAt (s : State) (i : Nat) (r : Fin 3) : Prop := (s.memIface i).active = true ∧ (s.memIface i).rate = r.val

/-- An interface that trains is in use at its rate; any other leaves interface `i` as it is. -/
theorem State.trainIface_trained {now i : Nat} {r : Fin 3} {s : State} {q : Option (Fin 3) × Nat}
    (hq : q.2 = i → q.1 = some r) (h : q = (some r, i) ∨ s.TrainedAt i r) : (s.trainIface now q).TrainedAt i r := by
  obtain ⟨o, j⟩ := q
  by_cases hj : j = i
  · subst hj
    obtain rfl : o = some r := hq rfl
    exact ⟨by simp [State.trainIface], by simp [State.trainIface]⟩
  · have hs : s.TrainedAt i r := h.resolve_left (fun e => hj (congrArg Prod.snd e))
    have he : (s.trainIface now (o, j)).memIface i = s.memIface i := by
      cases o with
      | some r' => exact State.memIface_modMem_ne s _ (Ne.symm hj)
      | none => simp only [State.memIface, State.trainIface, State.raiseMandatory_mems]
    exact ⟨by rw [he]; exact hs.1, by rw [he]; exact hs.2⟩

/-- When each has been trained in turn, an interface of the list is in use at its rate. -/
theorem trainIfaces_trained {now i : Nat} {r : Fin 3} (l : List (Option (Fin 3) × Nat)) (s : State)
    (hl : ∀ q ∈ l, q.2 = i → q.1 = some r) (h : (some r, i) ∈ l ∨ s.TrainedAt i r) :
    (l.foldl (State.trainIface now) s).TrainedAt i r := by
  induction l generalizing s with
  | nil => exact h.resolve_left (by simp)
  | cons q l ih =>
    refine ih _ (fun p hp => hl p (List.mem_cons_of_mem _ hp)) ?_
    rcases h with h | h
    · rcases List.mem_cons.mp h with e | e
      · exact .inr (State.trainIface_trained (hl q List.mem_cons_self) (.inl e.symm))
      · exact .inl e
    · exact .inr (State.trainIface_trained (hl q List.mem_cons_self) (.inr h))

/-- GDDR7_TRAINING puts each interface that trains in use at its rate, and stage 11 follows. -/
theorem execGddr7Training_completes {s : State} (rates : List (Option (Fin 3))) (hs : s.atStage 10 = true)
    (hf : s.boot.failed = false) :
    ∃ u : State, exec (.gddr7Training rates) s = .next u.carryOn ∧ u.boot.stage = 11 ∧ u.boot.failed = false ∧
      ∀ (i : Nat) (r : Fin 3), i < 16 → rates[i]? = some (some r) →
        (u.memIface i).active = true ∧ (u.memIface i).rate = r.val := by
  let t := (rates.zipIdx.take 16).foldl (State.trainIface s.now) s
  have hb : t.boot = s.boot := foldl_keep (P := fun t => t.boot = s.boot)
    (fun t q h => (State.trainIface_boot _ t q).trans h) _ s rfl
  refine ⟨{ t with pwr := { t.pwr with cxlPerst := t.flt.cxls } }.setStage 11, ?_, rfl, ?_, fun i r hi hr => ?_⟩
  · exact if_pos (c := s.atStage 10 = true) hs
  · show t.boot.failed = false
    rw [hb, hf]
  · refine trainIfaces_trained _ s (fun q hq e => ?_) (.inl ?_)
    · obtain ⟨o, j⟩ := q
      obtain rfl : j = i := e
      have ho := List.mk_mem_zipIdx_iff_getElem?.mp (List.mem_of_mem_take hq)
      exact Option.some.inj (ho.symm.trans hr)
    · rw [List.mem_iff_getElem?]
      exact ⟨i, by simp [hi, hr]⟩

/-- The enumeration of a port leaves the boot where it is. -/
theorem State.enumerate_boot (s : State) (p : Nat) (d : CxlDevice) : (s.enumerate p d).boot = s.boot := by
  have C := closed_boot s.boot
  have hg : (s.generate 32).2.boot = s.boot := State.generate_keep C 32 rfl
  have hw (t : State) (k : Nat) (l : List Byte) : (t.wrapKey k l).2.boot = t.boot :=
    State.wrapKey_keep (closed_boot t.boot) k l rfl
  unfold State.enumerate
  extract_lets enc
  clear_value enc
  split
  · rfl
  · split
    · exact State.raiseMandatory_keep C _ _ _ rfl
    · split
      · rfl
      · cases enc
        · rfl
        · exact (hw (s.generate 32).2 (16 + p) (s.generate 32).1).trans hg

/-- CXL_ENUMERATION ends the boot: the device is ready. -/
theorem execCxlEnumeration_completes {s : State} (p0 p1 : CxlDevice) (hs : s.atStage 11 = true) (hf : s.boot.failed = false) :
    ∃ u : State, exec (.cxlEnumeration p0 p1) s = .next u.carryOn ∧ u.boot.stage = 12 ∧ u.boot.failed = false ∧
      u.boot.ready = true := by
  let t := (s.enumerate 0 p0).enumerate 1 p1
  have hb : t.boot = s.boot := (State.enumerate_boot _ 1 p1).trans (s.enumerate_boot 0 p0)
  refine ⟨State.modSec { t with boot := { t.boot with ready := true, stage := 12 } }
    (fun x => { x with approved := !x.selfTestFail && !x.debug }), ?_, rfl, ?_, rfl⟩
  · exact if_pos (c := s.atStage 11 = true) hs
  · show t.boot.failed = false
    rw [hb, hf]

/-! ### The end of the quiet period (R429) -/

/-- Time passes to a tick, unless it is past. -/
theorem State.passTo_now {s : State} (h : s.running = true) (t : Nat) : (s.passTo t).now = max s.now t := by
  unfold State.now
  rw [State.passTo, State.advance_ticks _ h]
  simp only [State.now]
  omega

/-- In state `t`, at the present tick of `s`, the fault state is NORMAL, one recovery more is counted, and ALIVE_OUT toggles. -/
def State.RecoveredAs (s t : State) : Prop :=
  t.now = s.now ∧ t.flt.state = 0 ∧ t.flt.recCount = satAdd 65535 s.flt.recCount 1 ∧ t.pwr.aliveRun = true

theorem State.RecoveredAs.raiseVector {s t : State} (h : s.RecoveredAs t) (v : Nat) : s.RecoveredAs (t.raiseVector v) := by
  simpa [State.RecoveredAs, State.now] using h

/-- The training of the links and the vector leave the recovery as it is. -/
theorem State.recover_recoveredAs (s : State) : s.RecoveredAs s.recover := by
  unfold State.recover
  refine State.RecoveredAs.raiseVector ?_ 1041
  refine foldl_keep (P := s.RecoveredAs) (fun t l h => ite_keep (P := s.RecoveredAs) ?_ h) _ _ ⟨rfl, rfl, rfl, rfl⟩
  exact h

/-- QUIET_PERIOD_END below the limit of recoveries is a recovery at the end of the period. -/
theorem execQuietPeriodEnd_completes {s : State} (hr : s.running = true) (hs : s.flt.state = 2)
    (hl : s.flt.recoveriesIn (max s.now (s.flt.quietFrom + s.flt.quiet * tickMs)) < s.flt.limit) :
    exec .quietPeriodEnd s = .next (s.passTo (s.flt.quietFrom + s.flt.quiet * tickMs)).recover.carryOn := by
  show execQuietPeriodEnd s = _
  have hn : ¬ s.flt.recoveriesIn (max s.now (s.flt.quietFrom + s.flt.quiet * tickMs)) ≥ s.flt.limit := by omega
  simp [execQuietPeriodEnd, hr, hs, State.passTo_flt, State.passTo_now hr, hn]

/-! ### Requests of identity and debug -/

theorem State.attestReport_length (s : State) (nonce : BitVec 256) : (s.attestReport nonce).length = 256 := by
  simp [State.attestReport, Sec.identityBytes_length, romHash]

/-- A property of the security block that neither keys nor the DRBG touch survives the zeroizing of keys and the fences of
encrypted ports. -/
theorem State.fenceEncrypted_zeroizeKeys_keep {Q : Sec → Prop} {s : State} (slots : Nat)
    (hd : ∀ x d n, Q x → Q { x with drbg := d, gens := n }) (hk : ∀ x k k', Q x → Q { x with keys := k, cxlKeys := k' })
    (h : Q s.sec) : Q (s.zeroizeKeys slots).fenceEncrypted.sec := by
  have C := closed_of_boot_sec (Q := fun _ x => Q x) (fun _ => hd)
  refine foldl_keep (P := fun t => Q t.sec) (fun t p ht => ite_keep (P := fun t => Q t.sec) (State.fenceCxl_keep C p ht) ht) _ _ ?_
  refine foldl_keep (P := fun t => Q t.sec) (fun t l ht => ?_) _ _ (hk _ _ _ h)
  exact ite_keep (P := fun t => Q t.sec) (State.takeDown_keep C _ _ _ _ ht) ht

/-- A valid token unlocks at its level, the challenge being spent (R466). -/
theorem State.doUnlock_ok {s : State} {tok : Token} (hm : tok.magic = 0x47424451) (hv : tok.version = 1)
    (hl : tok.level = 1 ∨ tok.level = 2) (hs : tok.sigOk = true) (hd : leBytes 32 tok.device.toNat = s.sec.deviceId)
    (hc : s.sec.challenge = some tok.challenge) (hr : s.sec.mgmtResp = []) :
    ∃ t : State, s.doUnlock tok = .done .ok [] t ∧ t.sec.mgmtResp = [] ∧ t.sec.debug = true ∧
      t.sec.debugLevel = tok.level.toNat ∧ t.sec.challenge = none := by
  let spent := s.modSec (fun x => { x with challenge := none })
  have hd' : leBytes 32 tok.device.toNat = spent.sec.deviceId := hd
  have h := State.fenceEncrypted_zeroizeKeys_keep (s := spent) (Q := fun x => x.mgmtResp = [] ∧ x.challenge = none) 0x3FFFF
    (fun _ _ _ h => h) (fun _ _ _ h => h) ⟨hr, rfl⟩
  refine ⟨State.modSec (spent.zeroizeKeys 0x3FFFF).fenceEncrypted
    (fun x => { x with approved := false, debug := true, debugLevel := tok.level.toNat }), ?_, h.1, rfl, rfl, h.2⟩
  have h₁ : (!tok.sigOk || decide (leBytes 32 tok.device.toNat ≠ spent.sec.deviceId) ||
      decide (s.sec.challenge ≠ some tok.challenge)) = false := by simp [hs, hd', hc]
  have h₂ : (decide (tok.magic ≠ 0x47424451) || decide (tok.version ≠ 1) ||
      (decide (tok.level ≠ 1) && decide (tok.level ≠ 2))) = false := by rcases hl with e | e <;> simp [hm, hv, e]
  unfold State.doUnlock
  dsimp only
  rw [h₁, h₂]
  rfl

/-- The port answers a request that it handles with OK: the answer is the one outstanding response. -/
theorem Requesting.answers {s t : State} {i : Instr} {seq : BitVec 16} {data : List Byte} (h : Requesting s i)
    (hd : s.handle true i = .done .ok data t) (ht : t.sec.mgmtResp = []) :
    goOn (s.requestOn (.i3c seq) i) = .next (t.answered i seq .ok data).carryOn ∧
      (t.answered i seq .ok data).sec.mgmtWait = none ∧
      (t.answered i seq .ok data).sec.mgmtResp = [⟨reqCode i, seq, .ok, data, 0⟩] := by
  refine ⟨by rw [goOn, h.requestOn hd], rfl, ?_⟩
  simp [State.answered, ht]

/-- Request `i` is handled by the port and answered with OK and some data; `f` tells of the state and the data. -/
def State.Answers (s : State) (seq : BitVec 16) (i : Instr) (f : State → List Byte → Prop) : Prop :=
  s.gate (reqCode i) = .handle → ∃ (u : State) (data : List Byte),
    exec i s = .next u.carryOn ∧ u.sec.mgmtWait = none ∧ u.sec.mgmtResp = [⟨reqCode i, seq, .ok, data, 0⟩] ∧ f u data

section
variable {s : State} (seq : BitVec 16) (hp : s.portOk = true) (hw : s.sec.mgmtWait = none) (hr : s.sec.mgmtResp = [])
include hp hw hr

/-- GET_IDENTITY gives the device ID and the public key, 80 bytes (R462). -/
theorem getIdentity_answers (h : s.sec.identityOk = true) :
    s.Answers seq (.getIdentity (.i3c seq)) (fun _ d => d.length = 80) := by
  intro hg
  have hd : s.handle true (.getIdentity (.i3c seq)) = .done .ok s.sec.identityBytes s := by simp [State.handle, h]
  obtain ⟨h₁, h₂, h₃⟩ := Requesting.answers (seq := seq) ⟨hp, hw, hr, hg⟩ hd hr
  exact ⟨_, _, h₁, h₂, h₃, s.sec.identityBytes_length⟩

/-- ATTEST gives the report and its signature, 35,920 bytes (R463). -/
theorem attest_answers (h : s.sec.identityOk = true) (nonce : BitVec 256) :
    s.Answers seq (.attest (.i3c seq) nonce) (fun _ d => d.length = 35920) := by
  intro hg
  let report := s.attestReport nonce
  have hd : s.handle true (.attest (.i3c seq) nonce) = .done .ok (report ++ s.sec.slhKey.sign report) s := by
    simp [State.handle, h, report]
  have hl : (report ++ s.sec.slhKey.sign report).length = 35920 := by
    rw [List.length_append, SlhKey.sign_length, State.attestReport_length]
  obtain ⟨h₁, h₂, h₃⟩ := Requesting.answers (seq := seq) ⟨hp, hw, hr, hg⟩ hd hr
  exact ⟨_, _, h₁, h₂, h₃, hl⟩

/-- DEBUG_CHALLENGE gives 32 bytes of the DRBG, which are the challenge from then on (R466). -/
theorem debugChallenge_answers (h : s.sec.rng = 1) (hh : s.rngHeld = false) :
    s.Answers seq (.debugChallenge (.i3c seq)) (fun u d => d.length = 32 ∧
      u.sec.challenge = some (BitVec.ofNat 256 (leNat d))) := by
  intro hg
  let d := s.generate 32
  have hd : s.handle true (.debugChallenge (.i3c seq)) =
      .done .ok d.1 (d.2.modSec (fun x => { x with challenge := some (BitVec.ofNat 256 (leNat d.1)) })) := by
    simp [State.handle, State.withRng, h, hh, d]
  obtain ⟨h₁, h₂, h₃⟩ := Requesting.answers (seq := seq) ⟨hp, hw, hr, hg⟩ hd hr
  exact ⟨_, _, h₁, h₂, h₃, Drbg.requests_length 32 s.sec.drbg, rfl⟩

/-- DEBUG_UNLOCK with a valid token unlocks at its level and spends the challenge (R466). -/
theorem debugUnlock_answers {tok : Token} (hm : tok.magic = 0x47424451) (hv : tok.version = 1)
    (hl : tok.level = 1 ∨ tok.level = 2) (hs : tok.sigOk = true) (hd : leBytes 32 tok.device.toNat = s.sec.deviceId)
    (hc : s.sec.challenge = some tok.challenge) :
    s.Answers seq (.debugUnlock (.i3c seq) tok) (fun u _ => u.sec.debug = true ∧ u.sec.debugLevel = tok.level.toNat ∧
      u.sec.challenge = none) := by
  intro hg
  obtain ⟨t, hd, ht, h⟩ := State.doUnlock_ok hm hv hl hs hd hc hr
  obtain ⟨h₁, h₂, h₃⟩ := Requesting.answers (i := .debugUnlock (.i3c seq) tok) (seq := seq) ⟨hp, hw, hr, hg⟩ hd ht
  exact ⟨_, _, h₁, h₂, h₃, h⟩

end

/-- A response of at most 4,096 bytes is read whole by one read, however much of it has been read (R465). -/
theorem State.readResponse_takes {s : State} {r : MgmtResp} {rest : List MgmtResp} (h : s.sec.mgmtResp = r :: rest)
    (hl : r.data.length ≤ 4096) : s.readResponse.sec.mgmtResp = rest := by
  have hle : r.data.length ≤ r.pos + 4096 := by omega
  simp [State.readResponse, h, hle]

/-! ### Register writes (R402, R410) -/

/-- While the function takes writes, an aligned word takes the value written. -/
theorem execRegisterWrite_word {s : State} (h : s.barOk = true) {o : BitVec 26} (ho : o.toNat % 4 = 0) (v : BitVec 64) :
    exec (.registerWrite o 4 v) s = .next (s.bar0WriteWord o.toNat (v.toNat % 2 ^ 32)).carryOn := by
  simp only [State.barOk, Bool.and_eq_true, Bool.not_eq_true'] at h
  obtain ⟨⟨hr, hb⟩, hd⟩ := h
  have hw : wholeEvent o.toNat 4 = none := by
    unfold wholeEvent
    split <;> rfl
  show execRegisterWrite o 4 v s = _
  simp [execRegisterWrite, State.bar0Write, hr, hb, hd, barAligned, ho, hw, lo32]

/-- A pair of words that is not the value of an event takes the lower half of the value, then the upper. -/
theorem execRegisterWrite_pair {s : State} (h : s.barOk = true) {o : BitVec 26} (ho : o.toNat % 8 = 0) (v : BitVec 64)
    (hw : wholeEvent o.toNat 8 = none) :
    exec (.registerWrite o 8 v) s =
      .next ((s.bar0WriteWord o.toNat (v.toNat % 2 ^ 32)).bar0WriteWord (o.toNat + 4) (v.toNat / 2 ^ 32)).carryOn := by
  simp only [State.barOk, Bool.and_eq_true, Bool.not_eq_true'] at h
  obtain ⟨⟨hr, hb⟩, hd⟩ := h
  have hv : v.toNat / 2 ^ 32 % 2 ^ 32 = v.toNat / 2 ^ 32 := Nat.mod_eq_of_lt (by have := v.isLt; omega)
  show execRegisterWrite o 8 v s = _
  simp only [execRegisterWrite, State.bar0Write, hr, hb, hd, barAligned, ho, hw, lo32, hi32, hv]
  rfl

/-! ### The obligation -/

/-- Settles O33: each row completes, clause by clause. -/
theorem bootQuietPeriodAndWritesComplete : Obligations.BootQuietPeriodAndWritesComplete := by
  unfold Obligations.BootQuietPeriodAndWritesComplete
  intro s
  refine ⟨?image, ?gddr, ?cxl, ?quiet, ?write, ?rings, ?requests, ?port⟩
  case image =>
    intro i0 i1 c0 c1 cfg i c hr hf hs hi hc
    exact execImageVerification_completes cfg (State.atStage_of hr hf hs) hf hi hc
  case gddr => exact fun rates hr hf hs => execGddr7Training_completes rates (State.atStage_of hr hf hs) hf
  case cxl => exact fun p0 p1 hr hf hs => execCxlEnumeration_completes p0 p1 (State.atStage_of hr hf hs) hf
  case quiet =>
    intro hr hs e hl
    obtain ⟨hn, h0, hc, ha⟩ := (s.passTo (s.flt.quietFrom + s.flt.quiet * tickMs)).recover_recoveredAs
    rw [State.passTo_now hr] at hn
    rw [State.passTo_flt] at hc
    refine ⟨_, execQuietPeriodEnd_completes hr hs hl, hn, h0, ?_, ha⟩
    rw [hc, satAdd]
  case write =>
    intro o v hr hb hd word
    have h : s.barOk = true := by simp [State.barOk, hr, hb, hd]
    exact ⟨fun ho => execRegisterWrite_word h ho v, fun ho hw => execRegisterWrite_pair h ho v hw⟩
  case rings =>
    intro h
    refine ⟨fun c v => ⟨fun hs hh ht => ⟨s.doorbell c.val v, ?_, State.doorbell_tail hs hh ht⟩,
      s.cplHeadWrite c.val v, ?_, s.cplHeadWrite_cplHead c.val v⟩, fun e v w =>
      ⟨⟨s.eventOp e.toNat false v false true, ?_, ?_⟩, ⟨s.eventOp e.toNat true (w.setWidth 64) false true, ?_, ?_⟩,
        s.setEvent e.toNat { s.event e.toNat with error := false }, ?_, ?_⟩⟩
    · exact congrArg goOn (if_pos h)
    · exact congrArg goOn (if_pos h)
    · exact congrArg goOn (if_pos h)
    · simp [State.eventOp_value]
    · exact congrArg goOn (if_pos h)
    · simp [State.eventOp_value]
    · exact congrArg goOn (if_pos h)
    · simp
  case requests =>
    intro seq hp hw hr ready gives
    exact ⟨fun h => ⟨getIdentity_answers seq hp hw hr h, attest_answers seq hp hw hr h⟩,
      debugChallenge_answers seq hp hw hr, fun tok => debugUnlock_answers seq hp hw hr⟩
  case port =>
    intro h
    refine ⟨fun r rest hr => ⟨s.readResponse, ?_, State.readResponse_takes hr⟩, fun addr =>
      ⟨s.modSec (fun x => { x with mgmtAddr := some addr }), ?_, rfl⟩⟩
    · exact congrArg goOn (if_pos h)
    · exact congrArg goOn (if_pos h)

end Sys2Proof.Machine
end

section
/-! PROOFS. What the instruction at the PC of a pier that can issue it makes of the pier, for scalar and control instructions
(R302-R304, R309-R315). A row that issues acts on the state in which the pier runs; what it leaves there is said once for a pier
that is changed, for one that goes to the next instruction, and for one that faults.
-/

namespace Sys2Proof.Machine

/-! ### Issue at the PC (R302, R305) -/

/-- Span `n`'s pier runs: the state in which the row of an instruction that issues acts. -/
def State.runPier (s : State) (n : Nat) : State := s.modPier n (fun p => { p with code := 1 })

/-- The pier runs and stands at the next instruction. -/
def Pier.past (p : Pier) : Pier := { p with code := 1, pc := p.pc + 1 }

/-- The pier goes on at `pc` with the loops `loops` open. -/
def Pier.goingOn (p : Pier) (pc : Nat) (loops : List LoopEntry) : Pier := { p with code := 1, pc := pc, loops := loops }

/-- The pier has branched to the instruction `t`, and the loops that do not hold it are left (R310). -/
def Pier.branchTo (p : Pier) (t : Nat) : Pier := { p with pc := t, loops := popLoops t p.loops }

/-- The outcome is `s` with the pier of span `n` changed to `x`, and what then follows by itself. -/
def State.Becomes (s : State) (n : Nat) (o : Out) (x : Pier) : Prop :=
  ∃ u : State, o = .next u.carryOn ∧ PierOnly s u n x

section
variable {s : State} {n : Nat} {l : Launch} {i : SpanInstr}

/-- A row that changes the pier that runs by `f` makes of it `f` of the pier that runs. -/
theorem Issuing.modPier (h : Issuing s n l i) {act : Launch → SpanInstr → Pier → State → Option State} {f : Pier → Pier}
    (ha : act l i (s.pier n) (s.runPier n) = some ((s.runPier n).modPier n f)) :
    s.Becomes n (goOn (s.issue n act)) (f { s.pier n with code := 1 }) := by
  have ht := (SpanOnly.modPier s n (fun p => { p with code := 1 })).trans (SpanOnly.modPier (s.runPier n) n f)
  refine ⟨_, congrArg goOn (h.issue ha), ?_⟩
  simpa [State.runPier] using ht

/-- A row that goes to the next instruction with `v` in `rd` (R302). -/
theorem Issuing.setReg (h : Issuing s n l i) {act : Launch → SpanInstr → Pier → State → Option State} {rd : PReg} {v : Word}
    (ha : act l i (s.pier n) (s.runPier n) = some ((s.runPier n).nextPc n (fun q => q.setReg rd v))) :
    s.Becomes n (goOn (s.issue n act)) ((s.pier n).past.setReg rd v) :=
  h.modPier ha

end

/-- The instruction that a pier can issue is the decoded word at the PC of its launch, which it runs or waits in. -/
theorem State.atIssue_some {s : State} {n : Nat} {l : Launch} {i : Option SpanInstr} (h : s.atIssue n = some (l, i)) :
    (s.pier n).live = true ∧ (s.pier n).launch = some l ∧ decodeSpan (Store.get 0#64 (s.pier n).pc l.ibuf) = i := by
  unfold State.atIssue at h
  dsimp only at h
  split at h
  case h_1 k hk =>
    split at h
    case isTrue hc =>
      simp only [Bool.and_eq_true] at hc
      obtain ⟨⟨⟨⟨⟨-, hlive⟩, -⟩, -⟩, -⟩, -⟩ := hc
      obtain ⟨rfl, rfl⟩ := Prod.mk.inj (Option.some.inj h)
      exact ⟨hlive, hk, rfl⟩
    case isFalse => cases h
  case h_2 => cases h

/-- The pier of an instruction that issues runs. -/
theorem Issuing.runPier_live {s : State} {n : Nat} {l : Launch} {i : SpanInstr} (h : Issuing s n l i) :
    ((s.runPier n).pier n).live = true := by
  simp [State.runPier, Pier.live, h.launch]

/-! ### A pier faults (R304, R327) -/

@[simp] theorem State.stopRun_pier (s : State) (q : Nat) (f : Stops → Stops) (n : Nat) : (s.stopRun q f).pier n = s.pier n := rfl

@[simp] theorem State.stopRun_mem (s : State) (q : Nat) (f : Stops → Stops) : (s.stopRun q f).mem = s.mem := rfl

@[simp] theorem State.pierFault_mem (s : State) (n code pc : Nat) : (s.pierFault n code pc).mem = s.mem := by
  unfold State.pierFault
  split
  · dsimp only
    split <;> rfl
  · rfl

/-- A pier that runs or waits holds the cause and the instruction of its fault, and has left what blocked it and its anneal
instructions; its registers and loops are as they were. -/
theorem State.pierFault_pier {s : State} {n : Nat} (h : (s.pier n).live = true) (code pc : Nat) :
    (s.pierFault n code pc).pier n = { s.pier n with
      code := code, pc := pc, blocked := none, flight := (s.pier n).flight.filter (fun i => instrClass i.instr ≠ 3) } := by
  rw [State.pierFault, if_pos h]
  dsimp only
  split
  · rw [State.stopRun_pier, State.pier_modPier_self]
  · rw [State.pier_modPier_self]

/-! ### Scalar values (R312, R313) -/

/-- SETI with hi puts the immediate over the register's lower half; without hi it is sign-extended (R312). -/
theorem setiValue_eq (hi : Bool) (imm : BitVec 32) (old : Word) : setiValue hi imm old =
    if hi then BitVec.ofNat 64 (imm.toNat * 2 ^ 32 + old.toNat % 2 ^ 32) else BitVec.ofInt 64 imm.toInt := by
  cases hi with
  | false => simp [setiValue, BitVec.signExtend]
  | true =>
    have hlt : old.toNat % 2 ^ 32 < 2 ^ 32 := Nat.mod_lt _ (Nat.two_pow_pos 32)
    have happ : (setiValue true imm old).toNat = imm.toNat * 2 ^ 32 + old.toNat % 2 ^ 32 := by
      rw [setiValue, if_pos rfl, BitVec.toNat_append, BitVec.extractLsb'_toNat, Nat.shiftRight_zero,
        ← Nat.shiftLeft_add_eq_or_of_lt hlt, Nat.shiftLeft_eq]
    rw [if_pos rfl, ← happ, BitVec.ofNat_toNat, BitVec.setWidth_eq]

section
variable (a b : Word)

theorem ofNat_toNat_add_toNat : BitVec.ofNat 64 (a.toNat + b.toNat) = a + b := by
  simp [BitVec.ofNat_add]

theorem ofNat_toNat_mul_toNat : BitVec.ofNat 64 (a.toNat * b.toNat) = a * b := by
  simp [BitVec.ofNat_mul]

theorem ofInt_toInt_sub_toInt : BitVec.ofInt 64 (a.toInt - b.toInt) = a - b :=
  BitVec.eq_of_toInt_eq (by rw [BitVec.toInt_ofInt, BitVec.toInt_sub])

theorem ofNat_toNat_mul_two_pow (k : Nat) : BitVec.ofNat 64 (a.toNat * 2 ^ k) = a <<< k := by
  rw [← Nat.shiftLeft_eq]; rfl

theorem ofNat_toNat_div_two_pow (k : Nat) : BitVec.ofNat 64 (a.toNat / 2 ^ k) = a >>> k := by
  rw [← Nat.shiftRight_eq_div_pow, ← BitVec.toNat_ushiftRight, BitVec.ofNat_toNat, BitVec.setWidth_eq]

theorem ofInt_toInt_div_two_pow (k : Nat) : BitVec.ofInt 64 (a.toInt / 2 ^ k) = a.sshiftRight k := by
  rw [BitVec.sshiftRight, Int.shiftRight_eq_div_pow]; norm_cast

theorem ofInt_min_toInt : BitVec.ofInt 64 (min a.toInt b.toInt) = if a.toInt ≤ b.toInt then a else b := by
  rw [min_def, apply_ite (BitVec.ofInt 64), BitVec.ofInt_toInt, BitVec.ofInt_toInt]

theorem ofInt_max_toInt : BitVec.ofInt 64 (max a.toInt b.toInt) = if a.toInt ≤ b.toInt then b else a := by
  rw [max_def, apply_ite (BitVec.ofInt 64), BitVec.ofInt_toInt, BitVec.ofInt_toInt]

theorem ofNat_min_toNat : BitVec.ofNat 64 (min a.toNat b.toNat) = if a.toNat ≤ b.toNat then a else b := by
  rw [min_def, apply_ite (BitVec.ofNat 64), BitVec.ofNat_toNat, BitVec.ofNat_toNat, BitVec.setWidth_eq, BitVec.setWidth_eq]

theorem ofNat_max_toNat : BitVec.ofNat 64 (max a.toNat b.toNat) = if a.toNat ≤ b.toNat then b else a := by
  rw [max_def, apply_ite (BitVec.ofNat 64), BitVec.ofNat_toNat, BitVec.ofNat_toNat, BitVec.setWidth_eq, BitVec.setWidth_eq]

/-- From 16 on no function is defined (Table 11.5). -/
theorem aluFn_none {k : Nat} (h : 16 ≤ k) : aluFn k a b = none := by
  obtain ⟨j, rfl⟩ := Nat.exists_eq_add_of_le' h
  rfl

end

/-! ### What the rows' helpers do -/

/-- The clocks that RDTIME reads do not depend on the piers. -/
theorem State.runPier_timeValue (s : State) (n src : Nat) : (s.runPier n).timeValue n src = s.timeValue n src := by
  simp [State.timeValue, State.runPier]

/-- A branch to an instruction of the program goes there and leaves the loops that do not hold it (R309, R310). -/
theorem State.branch_inside (s : State) (n : Nat) {count pc : Nat} {off : BitVec 24} {t : Int} (ht : pc + off.toInt = t)
    (h0 : 0 ≤ t) (hc : t < count) : s.branch n count pc off = s.modPier n (fun p => p.branchTo t.toNat) := by
  subst ht
  simp [State.branch, Pier.branchTo, h0, hc]

/-! ### The rows -/

section
variable {s : State} {n : Fin 16} {l : Launch}

/-- ALU with a function of Table 11.5 leaves its value in rd (R313). -/
theorem execAlu_sets {rd ra rb : PReg} {fn : BitVec 6} {v : Word} (h : Issuing s n.val l (.alu rd ra rb fn))
    (hv : aluFn fn.toNat ((s.pier n.val).reg ra) ((s.pier n.val).reg rb) = some v) :
    s.Becomes n.val (execAlu n s) ((s.pier n.val).past.setReg rd v) := by
  refine h.setReg ?_
  simp [hv]

/-- ALU with another function faults (R313). -/
theorem execAlu_faults {rd ra rb : PReg} {fn : BitVec 6} (h : Issuing s n.val l (.alu rd ra rb fn)) (hf : 16 ≤ fn.toNat) :
    execAlu n s = .next ((s.runPier n.val).pierFault n.val 0x11 (s.pier n.val).pc).carryOn := by
  refine congrArg goOn (h.issue ?_)
  simp [aluFn_none _ _ hf, State.runPier, State.illegal]

/-- LDC with a mode that has a value (R314). -/
theorem execLdc_sets {rd : PReg} {mode : BitVec 2} {k : BitVec 6} {v : Word} (h : Issuing s n.val l (.ldc rd mode k))
    (hv : ldcValue l.consts mode.toNat k.toNat = some v) :
    s.Becomes n.val (execLdc n s) ((s.pier n.val).past.setReg rd v) := by
  refine h.setReg ?_
  simp [hv]

/-- RDTIME of a source that has a value (R315). -/
theorem execRdtime_sets {rd : PReg} {src : BitVec 6} {v : Word} (h : Issuing s n.val l (.rdtime rd src))
    (hv : s.timeValue n.val src.toNat = some v) :
    s.Becomes n.val (execRdtime n s) ((s.pier n.val).past.setReg rd v) := by
  refine h.setReg ?_
  simp [State.runPier_timeValue, hv]

/-- BR to an instruction of the program (R309). -/
theorem execBr_goes {off : BitVec 24} {t : Int} (h : Issuing s n.val l (.br off)) (ht : (s.pier n.val).pc + off.toInt = t)
    (h0 : 0 ≤ t) (hc : t < l.count) :
    s.Becomes n.val (execBr n s) ({ s.pier n.val with code := 1 }.branchTo t.toNat) := by
  refine h.modPier (f := fun q => q.branchTo t.toNat) ?_
  simp [State.branch_inside _ _ ht h0 hc]

/-- A BRC whose condition holds, to an instruction of the program (R309). -/
theorem execBrc_taken {ra : PReg} {cond : BitVec 4} {off : BitVec 24} {t : Int} (h : Issuing s n.val l (.brc ra cond off))
    (hb : branchCond cond.toNat ((s.pier n.val).reg ra).toInt = some true) (ht : (s.pier n.val).pc + off.toInt = t)
    (h0 : 0 ≤ t) (hc : t < l.count) :
    s.Becomes n.val (execBrc n s) ({ s.pier n.val with code := 1 }.branchTo t.toNat) := by
  refine h.modPier (f := fun q => q.branchTo t.toNat) ?_
  simp [hb, State.branch_inside _ _ ht h0 hc]

/-- A BRC whose condition does not hold (R309). -/
theorem execBrc_passed {ra : PReg} {cond : BitVec 4} {off : BitVec 24} (h : Issuing s n.val l (.brc ra cond off))
    (hb : branchCond cond.toNat ((s.pier n.val).reg ra).toInt = some false) :
    s.Becomes n.val (execBrc n s) (s.pier n.val).past := by
  refine h.modPier (f := fun p => { p with pc := p.pc + 1 }) ?_
  simp [hb, State.nextPc]

/-- A LOOP of no turns skips its body (R310). -/
theorem execLoop_skips {ra : PReg} {off : BitVec 24} (h : Issuing s n.val l (.loop ra off)) (h1 : 1 ≤ off.toNat)
    (hl : off.toNat ≤ 8191) (hd : (s.pier n.val).loops.length < 4) (hc : ((s.pier n.val).reg ra).toNat % 2 ^ 32 = 0) :
    s.Becomes n.val (execLoop n s)
      ((s.pier n.val).goingOn ((s.pier n.val).pc + off.toNat + 1) (s.pier n.val).loops) := by
  refine h.modPier (f := fun p => { p with pc := (s.pier n.val).pc + off.toNat + 1 }) ?_
  have ho : ¬ (off.toNat = 0 ∨ 8191 < off.toNat) := by omega
  have hd : ¬ 4 ≤ (s.pier n.val).loops.length := by omega
  simp only [Bool.or_eq_true, decide_eq_true_eq, gt_iff_lt, ge_iff_le]
  rw [if_neg ho, if_neg hd, if_pos hc]

/-- A LOOP of some turns opens its loop (R310). -/
theorem execLoop_opens {ra : PReg} {off : BitVec 24} (h : Issuing s n.val l (.loop ra off)) (h1 : 1 ≤ off.toNat)
    (hl : off.toNat ≤ 8191) (hd : (s.pier n.val).loops.length < 4) (hc : ((s.pier n.val).reg ra).toNat % 2 ^ 32 ≠ 0) :
    s.Becomes n.val (execLoop n s) ((s.pier n.val).goingOn ((s.pier n.val).pc + 1)
      (⟨(s.pier n.val).pc + 1, (s.pier n.val).pc + off.toNat, ((s.pier n.val).reg ra).toNat % 2 ^ 32⟩ ::
        (s.pier n.val).loops)) := by
  refine h.modPier (f := fun p => { p with
    pc := p.pc + 1
    loops := ⟨(s.pier n.val).pc + 1, (s.pier n.val).pc + off.toNat, ((s.pier n.val).reg ra).toNat % 2 ^ 32⟩ :: p.loops }) ?_
  have ho : ¬ (off.toNat = 0 ∨ 8191 < off.toNat) := by omega
  have hd : ¬ 4 ≤ (s.pier n.val).loops.length := by omega
  simp only [Bool.or_eq_true, decide_eq_true_eq, gt_iff_lt, ge_iff_le]
  rw [if_neg ho, if_neg hd, if_neg hc, State.nextPc]

/-- ENDLP in the last turn leaves the loop (R310). -/
theorem execEndlp_leaves {top : LoopEntry} {rest : List LoopEntry} (h : Issuing s n.val l .endlp)
    (hp : (s.pier n.val).loops = top :: rest) (hl : top.last = (s.pier n.val).pc) (hr : top.remaining ≤ 1) :
    s.Becomes n.val (execEndlp n s) ((s.pier n.val).goingOn ((s.pier n.val).pc + 1) rest) := by
  refine h.modPier (f := fun p => { p with pc := p.pc + 1, loops := rest }) ?_
  have hr : ¬ top.remaining - 1 ≠ 0 := by omega
  simp [hp, hl, hr, State.nextPc]

/-- ENDLP before the last turn goes round (R310). -/
theorem execEndlp_repeats {top : LoopEntry} {rest : List LoopEntry} (h : Issuing s n.val l .endlp)
    (hp : (s.pier n.val).loops = top :: rest) (hl : top.last = (s.pier n.val).pc) (hr : 1 < top.remaining) :
    s.Becomes n.val (execEndlp n s)
      ((s.pier n.val).goingOn top.first ({ top with remaining := top.remaining - 1 } :: rest)) := by
  refine h.modPier (f := fun p => { p with
    pc := top.first, loops := { top with remaining := top.remaining - 1 } :: rest }) ?_
  have hr : top.remaining - 1 ≠ 0 := by omega
  simp [hp, hl, hr]

end

/-! ### The obligations -/

/-- Settles O52: each function of Table 11.5 by the value that `aluFn` gives it. -/
theorem aluInstruction : Obligations.AluInstruction := by
  unfold Obligations.AluInstruction
  intro n s l rd ra rb fn h p a b sh sets
  have sets_of {v : Word} (hv : aluFn fn.toNat a b = some v) : sets v := execAlu_sets h hv
  refine ⟨?add, ?sub, ?and, ?or, ?xor, ?shl, ?shr, ?sra, ?mul, ?smin, ?smax, ?umin, ?umax, ?slt, ?ult, ?eq, ?undefined⟩
  case add => rintro rfl; exact sets_of (congrArg some (ofNat_toNat_add_toNat a b).symm)
  case sub => rintro rfl; exact sets_of (congrArg some (ofInt_toInt_sub_toInt a b).symm)
  case and => rintro rfl; exact sets_of rfl
  case or => rintro rfl; exact sets_of rfl
  case xor => rintro rfl; exact sets_of rfl
  case shl => rintro rfl; exact sets_of (congrArg some (ofNat_toNat_mul_two_pow a sh).symm)
  case shr => rintro rfl; exact sets_of (congrArg some (ofNat_toNat_div_two_pow a sh).symm)
  case sra => rintro rfl; exact sets_of (congrArg some (ofInt_toInt_div_two_pow a sh).symm)
  case mul => rintro rfl; exact sets_of (congrArg some (ofNat_toNat_mul_toNat a b).symm)
  case smin => rintro rfl; exact sets_of (congrArg some (ofInt_min_toInt a b).symm)
  case smax => rintro rfl; exact sets_of (congrArg some (ofInt_max_toInt a b).symm)
  case umin => rintro rfl; exact sets_of (congrArg some (ofNat_min_toNat a b).symm)
  case umax => rintro rfl; exact sets_of (congrArg some (ofNat_max_toNat a b).symm)
  case slt => rintro rfl; exact sets_of rfl
  case ult => rintro rfl; exact sets_of rfl
  case eq => rintro rfl; exact sets_of rfl
  case undefined =>
    intro hf
    have hp := State.pierFault_pier h.runPier_live 0x11 p.pc
    refine ⟨_, execAlu_faults h hf, ?_, ?_, ?_, State.pierFault_mem _ _ _ _⟩
    · rw [hp]
    · rw [hp]
    · rw [hp]; simp [State.runPier, p]

/-- Settles O51: each clause is one row's effect on the pier that runs. -/
theorem scalarAndControl : Obligations.ScalarAndControl := by
  unfold Obligations.ScalarAndControl
  intro n s l p next goes
  refine ⟨?nop, ?seti, ?addi, ?ldc, ?rdtime, ?br, ?brc, ?loop, ?endlp, ?illegal⟩
  case nop => exact fun h => h.modPier (f := fun q => { q with pc := q.pc + 1 }) rfl
  case seti =>
    intro rd hi imm h
    rw [← setiValue_eq]
    exact h.setReg rfl
  case addi => exact fun rd ra imm h => h.setReg rfl
  case ldc => exact fun rd mode k v h hv => execLdc_sets h hv
  case rdtime =>
    intro rd src h
    exact ⟨fun h0 => execRdtime_sets h (by rw [h0]; rfl), fun h1 => execRdtime_sets h (by rw [h1]; rfl)⟩
  case br => exact fun off h h0 hc => execBr_goes h rfl h0 hc
  case brc => exact fun ra cond off h => ⟨fun hb h0 hc => execBrc_taken h hb rfl h0 hc, fun hb => execBrc_passed h hb⟩
  case loop =>
    exact fun ra off h h1 hl hd => ⟨fun hc => execLoop_skips h h1 hl hd hc, fun hc => execLoop_opens h h1 hl hd hc⟩
  case endlp =>
    exact fun top rest h hp hl => ⟨fun hr => execEndlp_leaves h hp hl hr, fun hr => execEndlp_repeats h hp hl hr⟩
  case illegal =>
    intro h
    obtain ⟨hlive, -, hword⟩ := State.atIssue_some h
    have hp := State.pierFault_pier hlive 0x10 p.pc
    refine ⟨hword, s.pierFault n.val 0x10 p.pc, ?_, ?_, ?_⟩
    · show execIllegalOp n s = _
      simp [execIllegalOp, h, p]
    · rw [hp]
    · rw [hp]

end Sys2Proof.Machine
end

section
/-! PROOFS. The acknowledgement of an ESCALATE and the end of its window (R426): what the row of each does, told by the timer and
the present tick.
-/

namespace Sys2Proof.Machine

/-! ### The instants of a window -/

/-- A window holds its first instant and not its end. -/
theorem inWindow_iff {start length t : Nat} : inWindow start length t = true ↔ start ≤ t ∧ t < start + length := by
  simp [inWindow]

/-- No time passes to an instant that has come. -/
theorem State.passTo_of_le {s : State} {t : Nat} (h : t ≤ s.now) : s.passTo t = s := by
  simp [State.passTo, State.advance, Nat.sub_eq_zero_of_le h]

/-- The function takes writes only while the block runs. -/
theorem State.running_of_barOk {s : State} (h : s.barOk = true) : s.running = true := by
  simp only [State.barOk, Bool.and_eq_true] at h
  exact h.1.1

/-! ### The acknowledgement -/

/-- A timer runs in ESCALATED, and the present tick is inside its window: an acknowledgement is taken. -/
def State.AckOpen (s : State) : Prop :=
  s.flt.state = 1 ∧ ∃ e, s.flt.esc = some e ∧ e.start ≤ s.now ∧ s.now < e.start + e.length

/-- An acknowledgement that is taken stops the timer, in NORMAL. -/
theorem State.ackFault_of_ackOpen {s : State} (h : s.AckOpen) :
    s.ackFault = { s with flt := { s.flt with state := 0, esc := none } } := by
  obtain ⟨hs, e, he, hw⟩ := h
  simp [State.ackFault, he, hs, inWindow_iff.mpr hw, State.withFlt]

/-- Any other acknowledgement leaves everything as it is. -/
theorem State.ackFault_of_not_ackOpen {s : State} (h : ¬ s.AckOpen) : s.ackFault = s := by
  unfold State.ackFault
  split
  case h_1 e he =>
    refine if_neg fun hc => h ?_
    simp only [Bool.and_eq_true, decide_eq_true_eq] at hc
    exact ⟨hc.1, e, he, inWindow_iff.mp hc.2⟩
  case h_2 => rfl

/-- FLT_ACK is the acknowledgement, while the function takes writes. -/
theorem execFltAck_acks {s : State} (h : s.barOk = true) : exec .fltAck s = .next s.ackFault :=
  congrArg goOn (if_pos h)

/-- FLT_ACK inside the window. -/
theorem execFltAck_returns {s : State} (h : s.barOk = true) (ho : s.AckOpen) :
    exec .fltAck s = .next { s with flt := { s.flt with state := 0, esc := none } } := by
  rw [execFltAck_acks h, State.ackFault_of_ackOpen ho]

/-- FLT_ACK at any other time. -/
theorem execFltAck_ignored {s : State} (h : s.barOk = true) (ho : ¬ s.AckOpen) : exec .fltAck s = .next s := by
  rw [execFltAck_acks h, State.ackFault_of_not_ackOpen ho]

/-! ### The end of the window -/

@[simp] theorem State.enterFault_state (s : State) (state cause : Nat) : (s.enterFault state cause).flt.state = state := rfl

@[simp] theorem State.enterFault_cause (s : State) (state cause : Nat) : (s.enterFault state cause).flt.cause = cause := rfl

/-- ESCALATION_EXPIRY of a running timer enters FAULT at the end of its window, with cause escalation (R427). -/
theorem execEscalationExpiry_enters {s : State} {e : EscTimer} (hr : s.running = true) (hs : s.flt.state = 1)
    (he : s.flt.esc = some e) :
    exec .escalationExpiry s = .next ((s.passTo (e.start + e.length)).enterFault 2 1).carryOn := by
  show execEscalationExpiry s = _
  simp [execEscalationExpiry, he, hr, hs]

/-! ### The obligation -/

/-- Settles O18: an acknowledgement is taken where the timer's window is open, and nowhere else; at the window's end no more
time passes before FAULT is entered. -/
theorem acknowledgeInsideTheWindow : Obligations.AcknowledgeInsideTheWindow := by
  unfold Obligations.AcknowledgeInsideTheWindow
  intro s hb
  refine ⟨?inside, ?notEscalated, ?outside, ?noTimer, ?windowEnds⟩
  case inside => exact fun e hs he h0 h1 => execFltAck_returns hb ⟨hs, e, he, h0, h1⟩
  case notEscalated => exact fun hs => execFltAck_ignored hb fun ho => hs ho.1
  case outside =>
    intro e he hout
    refine execFltAck_ignored hb ?_
    rintro ⟨-, e', he', h0, h1⟩
    obtain rfl : e = e' := Option.some.inj (he.symm.trans he')
    omega
  case noTimer =>
    intro hn
    refine execFltAck_ignored hb ?_
    rintro ⟨-, e, he, -⟩
    exact nomatch hn.symm.trans he
  case windowEnds =>
    intro e hs he hnow
    refine ⟨s.enterFault 2 1, ?_, rfl, s.enterFault_state 2 1, s.enterFault_cause 2 1⟩
    rw [execEscalationExpiry_enters (State.running_of_barOk hb) hs he, State.passTo_of_le hnow.ge]

end Sys2Proof.Machine
end

section
/-! PROOFS. Fields of an instruction word (R303): reading a field of a word that was put together from fields gives what was put
there, since fields that lie apart do not meet.
-/

namespace Sys2Proof

section
variable {n m : Nat} {lo k : Nat}

@[simp] theorem wfield_or (v w : Word) (lo n : Nat) : wfield (v ||| w) lo n = wfield v lo n ||| wfield w lo n := by
  ext i hi
  simp [wfield]

@[simp] theorem wbit_or (v w : Word) (k : Nat) : wbit (v ||| w) k = (wbit v k || wbit w k) := by
  simp [wbit]

/-- Bit `i` of a word that holds one field only. -/
theorem getLsbD_wput (v : BitVec m) (i : Nat) :
    (wput k v).getLsbD i = (decide (i < 64) && decide (k ≤ i) && v.getLsbD (i - k)) := by
  by_cases h : i < 64
  · by_cases hk : i < k
    · simp [wput, h, hk]
    · simp [wput, h, hk, show k ≤ i by omega]
  · simp [wput, h]

/-- A field is read where it was put. -/
@[simp] theorem wfield_wput_self (h : lo + n ≤ 64) (v : BitVec n) : wfield (wput lo v) lo n = v := by
  ext i hi
  have hl : lo + i < 64 := by omega
  simp [wfield, ← BitVec.getLsbD_eq_getElem, getLsbD_wput, hl, hi]

/-- A field that lies apart from another holds nothing of it. -/
@[simp] theorem wfield_wput_apart (h : lo + n ≤ k ∨ k + m ≤ lo) (v : BitVec m) : wfield (wput k v) lo n = 0#n := by
  ext i hi
  simp only [wfield, BitVec.getElem_extractLsb', getLsbD_wput, BitVec.getElem_zero]
  rcases h with h | h
  · have hk : ¬ k ≤ lo + i := by omega
    simp [hk]
  · rw [BitVec.getLsbD_of_ge v _ (by omega), Bool.and_false]

/-- A bit that lies apart from a field holds nothing of it. -/
@[simp] theorem wbit_wput_apart {i : Nat} (h : i < k ∨ k + m ≤ i) (v : BitVec m) : wbit (wput k v) i = false := by
  rw [wbit, getLsbD_wput]
  rcases h with h | h
  · have hk : ¬ k ≤ i := by omega
    simp [hk]
  · rw [BitVec.getLsbD_of_ge v _ (by omega), Bool.and_false]

/-- A bit is read where it was put. -/
@[simp] theorem wbit_wputBit_self (h : k < 64) (b : Bool) : wbit (wputBit k b) k = b := by
  rw [wbit, wputBit, getLsbD_wput]
  simp [h]

@[simp] theorem wbit_wputBit_apart {i : Nat} (h : i ≠ k) (b : Bool) : wbit (wputBit k b) i = false :=
  wbit_wput_apart (by omega) _

@[simp] theorem wfield_wputBit_apart (h : lo + n ≤ k ∨ k < lo) (b : Bool) : wfield (wputBit k b) lo n = 0#n :=
  wfield_wput_apart (by omega) _

end

/-- The opcode field of a word holds the opcode. -/
@[simp] theorem wfield_wop_self (o : Nat) : wfield (wop o) 56 8 = BitVec.ofNat 8 o := wfield_wput_self (by decide) _

@[simp] theorem wfield_wop_apart {lo n : Nat} (h : lo + n ≤ 56) (o : Nat) : wfield (wop o) lo n = 0#n :=
  wfield_wput_apart (.inl h) _

@[simp] theorem wbit_wop_apart {i : Nat} (h : i < 56) (o : Nat) : wbit (wop o) i = false := wbit_wput_apart (.inl h) _

/-! ### The obligation -/

/-- Settles O10: the opcode field selects the instruction's own form, each of whose fields is read where it was put. -/
theorem spanWordsRoundTrip : Obligations.SpanWordsRoundTrip := by
  intro i
  cases i <;> simp [encodeSpan, decodeSpan, wrd, wra, wrb, wrc, wcells, wputCells]

end Sys2Proof
end

section
/-! PROOFS. The machine as a whole: every command has a next state, every step keeps the invariant, what goes on by itself keeps
to its frame, and one tick of the clock.
-/

namespace Sys2Proof.Machine

/-! ### Every command has a next state (O6) -/

theorem goes_ite {c : Prop} [Decidable c] {a b : Out} (ha : Goes a) (hb : Goes b) : Goes (if c then a else b) := by
  split <;> assumption

/-- A row executed while an access fails has a next state where the row has one. -/
theorem State.failing_goes {s : State} (a : Nat) (how : ReadFail) {row : State → Out} (h : ∀ t, Goes (row t)) :
    Goes (s.failing a how row) := by
  have hr := h { s with pcie := { s.pcie with readFail := some (a, how) } }
  unfold State.failing
  split
  next => trivial
  next o hn =>
    cases e : row { s with pcie := { s.pcie with readFail := some (a, how) } } with
    | next t => exact absurd e (hn t)
    | fault _ => rw [e] at hr; exact hr
    | refused _ => rw [e] at hr; exact hr

theorem execCommandFetch_goes (c : Fin 1024) (s : State) : Goes (execCommandFetch c s) := by
  dsimp only [execCommandFetch]
  repeat' split
  all_goals exact trivial

theorem execBatchDescriptorTake_goes (c : Fin 1024) (s : State) : Goes (execBatchDescriptorTake c s) := by
  dsimp only [execBatchDescriptorTake]
  repeat' split
  all_goals exact trivial

theorem State.rowOf_goes (s : State) (c : Fin 1024) : Goes (s.rowOf c) := by
  dsimp only [State.rowOf]
  repeat' split
  all_goals exact trivial

theorem State.readerFails_goes (s : State) (r : HostReader) (a : Nat) (how : ReadFail) : Goes (s.readerFails r a how) := by
  cases r with
  | dma n tag => trivial
  | fetch c => exact State.failing_goes a how (execCommandFetch_goes c)
  | descriptor c => exact State.failing_goes a how (execBatchDescriptorTake_goes c)
  | command c => exact State.failing_goes a how (fun t => t.rowOf_goes c)
  | linkRead l h b len tag => exact State.failing_goes (row := execDmaRd l h b len tag) a how (fun _ => trivial)

theorem State.cxlFails_goes (s : State) (r : CxlRequester) (a : Nat) : Goes (s.cxlFails r a) := by
  cases r with
  | reader q => exact State.readerFails_goes s q a .cxl
  | atomic n => trivial
  | bar2Read o enables => exact State.failing_goes a .cxl (fun _ => goes_ite trivial trivial)
  | bar2Write o data => exact State.failing_goes a .cxl (fun _ => goes_ite trivial trivial)
  | linkWrite l h b tag reply data =>
    exact State.failing_goes (row := execDmaWr l h b tag reply data) a .cxl (fun _ => trivial)
  | linkAtadd l h b wide tag value =>
    exact State.failing_goes (row := execLinkAtadd l h b wide tag value) a .cxl (fun _ => trivial)
  | linkMinIndex l h b least tag entry =>
    exact State.failing_goes (row := execMinIndex l h b least tag entry) a .cxl (fun _ => trivial)
  | sweep n => trivial

theorem execCxlTimeout_goes (q : CxlRequest) (s : State) : Goes (execCxlTimeout q s) := by
  have h := s.cxlFails_goes q.requester q.addr.toNat
  unfold execCxlTimeout
  refine goes_ite ?_ trivial
  cases e : s.cxlFails q.requester q.addr.toNat with
  | next t => trivial
  | fault _ => rw [e] at h; exact h.elim
  | refused _ => rw [e] at h; exact h.elim

theorem exec_goes (i : Instr) (s : State) : Goes (exec i s) := by
  cases i
  case cxlTimeout q => exact execCxlTimeout_goes q s
  case cplTimeout r a how => exact goes_ite trivial (s.readerFails_goes r _ _)
  case commandFetch c => exact execCommandFetch_goes c s
  case batchDescriptorTake c => exact execBatchDescriptorTake_goes c s
  all_goals first
    | exact trivial
    | exact goes_ite trivial trivial
    | (simp only [exec, execEndDescriptor, execCommandStart, execCommandCompletion, execPierLaunch, execRngWord,
        execMsixUnmask, execDmaComplete, execIllegalOp, execSpanEvwaitTimeout, execWaitTimeout, execHangLimit, execContinuation,
        execSettle, execDeadline, execSpanRemap, execDetourInstall, execImageVerification, execEscalationExpiry,
        execQuietPeriodEnd, execExchangeTimeout, execThermalControl, execPpsAccept, execFlitDiscard,
        execLinkTrainingAdvance, execLinkTrainingTimeout, execInstructionCompletion]
       repeat' split
       all_goals exact trivial)
/-- The queue holds what it held, after a reset of the die as well. -/
theorem total_pending (l : List Instr) : Total (fun t => t.pending = l) where
  rest h := h
  mem _ h := h
  herr _ h := h
  pba _ h := h
  sent _ h := h
  drbg _ _ h := h
  cxlPerst _ h := h
  fence _ _ h := h
  escalate _ h := h
  wide _ h := h
  fltSame _ _ _ _ h := h
  acked _ _ _ _ _ h := h
  latched _ _ _ _ _ h := h
  faulted _ _ _ _ _ _ h := h
  recovered _ _ _ _ _ _ _ h := h
  memFilter _ h := h
  reset _ _ _ _ h := h

/-- Settles O6: each meaning answers a next state, and a property that every command keeps is that of the queue. -/
theorem everyCommandGoes : Obligations.EveryCommandGoes := by
  intro c s
  have hg := exec_goes c s
  have hp := exec_total (total_pending s.pending) c (s := s) rfl
  cases e : exec c s with
  | next t => exact ⟨t, rfl, hp t e⟩
  | fault _ => rw [e] at hg; exact hg.elim
  | refused _ => rw [e] at hg; exact hg.elim

/-! ### The invariant (O4, O5) -/

/-- Settles O4. -/
theorem invAtReset : Obligations.InvAtReset := ⟨rfl, by decide, by decide, by decide⟩

/-- The invariant is a property that every command keeps, the resets of the die among them. -/
theorem total_inv : Total Inv where
  rest h := ⟨h.mem, h.legal, h.timer, h.alive⟩
  mem l h := ⟨memPutAll_wf l h.mem, h.legal, h.timer, h.alive⟩
  herr _ h := ⟨h.mem, h.legal, h.timer, h.alive⟩
  pba _ h := ⟨h.mem, h.legal, h.timer, h.alive⟩
  sent _ h := ⟨h.mem, h.legal, h.timer, h.alive⟩
  drbg _ _ h := ⟨h.mem, h.legal, h.timer, h.alive⟩
  cxlPerst _ h := ⟨h.mem, h.legal, h.timer, h.alive⟩
  fence f hf h := ⟨h.mem, by simpa [hf.state] using h.legal, by simpa [hf.state, hf.esc] using h.timer,
    by simpa [hf.state] using h.alive⟩
  escalate h0 h := ⟨h.mem, by simp, by simp, by simpa [h0] using h.alive⟩
  wide hw h := ⟨h.mem, h.legal, h.timer, by simpa [hw] using h.alive⟩
  fltSame f _ hs he h := ⟨h.mem, by simpa [hs] using h.legal, by simpa [hs, he] using h.timer, by simpa [hs] using h.alive⟩
  acked f _ hs he h1 h := ⟨h.mem, by simp [hs], by simp [hs, he], by simpa [hs, h1] using h.alive⟩
  latched f _ hs he h2 h := ⟨h.mem, by simp [hs], by simpa [hs, he, h2] using h.timer, by simpa [hs, h2] using h.alive⟩
  faulted f w _ hs he hw h := by
    rcases hs with hs | hs
    · exact ⟨h.mem, by simp [hs], by simp [hs, he], by simp [hs, hw]⟩
    · exact ⟨h.mem, by simp [hs], by simp [hs, he], by simp [hs, hw]⟩
  recovered f w _ hs he hw ha h := by
    have hn : f.esc = none := by
      rcases ha with ha | ha
      · simpa [he, ha] using h.timer
      · simpa [he, ha] using h.timer
    exact ⟨h.mem, by simp [hs], by simp [hs, hn], by simp [hs, hw]⟩
  memFilter f h := ⟨Store.filter_wf f h.mem, h.legal, h.timer, h.alive⟩
  reset cause w b hw h := ⟨Store.filter_wf _ h.mem, by simp [State.dieReset, flt0], by simp [State.dieReset, flt0],
    by simp [State.dieReset, flt0, hw]⟩

/-- Settles O5: a step is one tick or one command, and each of them keeps the invariant. -/
theorem stepKeepsInv : Obligations.StepKeepsInv := by
  intro s t h ht
  unfold step at ht
  split at ht
  next =>
    obtain rfl : s.tick = t := Host.Outcome.next.inj ht
    exact State.tick_keep total_inv.toWhole h
  next c rest _ =>
    have hi : Inv { s with pending := rest } := ⟨h.mem, h.legal, h.timer, h.alive⟩
    exact exec_total total_inv c hi t ht

/-! ### What goes on by itself (O8, O9) -/

/-- What the work that goes on by itself leaves of `s` in `t`. -/
structure GoneOn (s t : State) : Prop where
  pending : t.pending = s.pending
  boot : t.boot = s.boot
  time : t.time = s.time
  mon : t.mon = s.mon
  mbx : t.mbx = s.mbx
  linkSys : t.linkSys = s.linkSys
  pwr : { t.pwr with cxlPerst := s.pwr.cxlPerst } = s.pwr
  sec : { t.sec with gens := s.sec.gens, drbg := s.sec.drbg } = s.sec
  pcie : { t.pcie with herr := s.pcie.herr, pba := s.pcie.pba } = s.pcie
  bus : { t.bus with sent := s.bus.sent } = s.bus
  cause : t.flt.cause = s.flt.cause
  recs : t.flt.recs = s.flt.recs
  recCount : t.flt.recCount = s.flt.recCount
  escTime : t.flt.escTime = s.flt.escTime
  state : t.flt.state = s.flt.state ∧ t.flt.esc = s.flt.esc ∨
    s.flt.state = 0 ∧ t.flt.state = 1 ∧ t.flt.esc = some ⟨s.time.ticks, s.flt.escTime * 250000⟩
  mem : Memory.wf s.mem = true → Memory.wf t.mem = true

theorem GoneOn.refl (s : State) : GoneOn s s :=
  ⟨rfl, rfl, rfl, rfl, rfl, rfl, rfl, rfl, rfl, rfl, rfl, rfl, rfl, rfl, .inl ⟨rfl, rfl⟩, id⟩

/-- Ordinary work keeps to this frame. -/
theorem GoneOn.closed (s : State) : Closed (GoneOn s) where
  rest h := { h with }
  mem l h := { h with mem := fun hs => memPutAll_wf l (h.mem hs) }
  herr _ h := { h with }
  pba _ h := { h with }
  sent _ h := { h with }
  drbg _ _ h := { h with }
  cxlPerst _ h := { h with }
  fence f hf h := { h with
    cause := hf.cause.trans h.cause
    recs := hf.recs.trans h.recs
    recCount := hf.recCount.trans h.recCount
    escTime := hf.escTime.trans h.escTime
    state := by simpa [hf.state, hf.esc] using h.state }
  escalate {a} h0 h := { h with
    state := by
      rcases h.state with ⟨hs, -⟩ | ⟨-, h1, -⟩
      · refine .inr ⟨hs.symm.trans h0, rfl, ?_⟩
        show some (⟨a.time.ticks, a.flt.escTime * tickMs⟩ : EscTimer) = _
        rw [h.time, h.escTime, tickMs]
      · exact absurd (h0.symm.trans h1) (by decide) }

/-- Settles O8. -/
theorem goingOnFrame : Obligations.GoingOnFrame := by
  intro s
  have h := State.carryOn_keep (GoneOn.closed s) (GoneOn.refl s)
  exact ⟨h.pending, h.boot, h.time, h.mon, h.mbx, h.linkSys, h.pwr, h.sec, h.pcie, h.bus, h.cause, h.recs, h.recCount,
    h.state, h.mem⟩

/-- Where no span's array is poisoned there is nothing to prune. -/
theorem State.prunePoison_of_clean {s : State} (h : ∀ n, n < 16 → (s.span n).poison = []) : s.prunePoison = s := by
  suffices hl : ∀ l : List Nat, (∀ n ∈ l, n < 16) →
      l.foldl (fun st n => if (st.span n).poison.isEmpty then st else st.modSpan n Span.prunePoison) s = s from
    hl spanIds (by simp [spanIds])
  intro l hl
  induction l with
  | nil => rfl
  | cons n l ih =>
    have hn : (s.span n).poison.isEmpty = true := by simp [h n (hl n (by simp))]
    rw [List.foldl_cons, if_pos hn]
    exact ih (fun m hm => hl m (by simp [hm]))

/-- Nothing goes on in a quiet state. -/
theorem Quiet.carryOn {s : State} (h : Quiet s) : s.carryOn = s := by
  dsimp only [State.carryOn]
  rw [State.prunePoison_of_clean h.clean, h.quiesce, h.sysOn, h.annealOn]
  simp [h.runs]

/-- Settles O9. -/
theorem nothingGoesOnWhenQuiet : Obligations.NothingGoesOnWhenQuiet := fun _ h => h.carryOn

/-! ### One step (O1, O2, O3) -/

/-- Settles O1: this is how a step takes the queue apart. -/
theorem stepRunsFrontCommand : Obligations.StepRunsFrontCommand := fun _ _ _ => rfl

/-- Settles O3: every unit that no one has written has the value that the reset state gives it. -/
theorem resetValues : Obligations.ResetValues := by
  refine ⟨rfl, rfl, rfl, rfl, rfl, rfl, rfl, rfl, rfl, rfl, rfl, rfl, rfl, rfl, rfl, rfl, rfl, rfl, rfl, rfl, rfl, rfl, rfl,
    ?ctx, ?link, ?block, ?span⟩
  case ctx => exact fun _ => rfl
  case link => exact fun _ => rfl
  case block => exact fun _ => ⟨rfl, rfl⟩
  case span => exact fun _ => ⟨rfl, rfl, rfl, rfl, rfl, rfl⟩

/-- While the clock runs, the passage of time is what `passed` says, but for the spans and the mesh. -/
theorem State.advance_passed {s : State} {k : Nat} (h : s.running = true) (hk : k ≠ 0) :
    { s.advance k with spans := s.spans, mesh := s.mesh } = s.passed k := by
  unfold State.advance
  rw [if_neg (by simp [h, hk])]
  exact (advance_fold hk spanIds (by decide) (s.passed k)).2.1

/-- Settles O2: what the laws of the passage of time say of one tick. -/
theorem idleStepIsOneTick : Obligations.IdleStepIsOneTick := by
  intro s hp
  refine ⟨s.tick, by simp [step, hp], s.advance_stopped 1, fun hr => ?_⟩
  have h1 : (1 : Nat) ≠ 0 := by decide
  have h := State.advance_passed hr h1
  refine ⟨State.advance_time hr h1, State.advance_ticks 1 hr, ?pending, fun n hn => State.advance_span hr h1 hn,
    State.advance_mesh hr h1, ?boot, ?runs, ?problems, ?rest⟩
  case pending => exact (congrArg State.pending h).trans hp
  case boot => exact congrArg State.boot h
  case runs => exact congrArg State.runs h
  case problems => exact congrArg State.problems h
  case rest => exact s.advance_rest 1

end Sys2Proof.Machine
end

section
/-! PROOFS. Time, PPS and the monitors: what the time counter does in some ticks, said by the number of rollovers, and what each
sample stores.
-/

namespace Sys2Proof.Machine

/-! ### The time counter (O11, O12) -/

section
variable {t : Time} {k : Nat}

/-- Ticks that do not reach the second's end count TIME_SUB on. -/
theorem Time.advance_within (h : t.hold ≤ k) (hs : t.sub + (k - t.hold) < 250000000) :
    { t.advance k with cap := t.cap, ignored := t.ignored } =
      { t with hold := 0, sub := t.sub + (k - t.hold), ticks := t.ticks + k } := by
  simp [Time.advance, tickSec, Nat.min_eq_left h, Nat.div_eq_of_lt hs, Nat.mod_eq_of_lt hs]

/-- Ticks that reach the second's end start the next second, or the pending one. -/
theorem Time.advance_rollover (h : t.hold ≤ k) (hs : t.sub + (k - t.hold) = 250000000) :
    { t.advance k with cap := t.cap, ignored := t.ignored } =
      { t with hold := 0, sub := 0, setTo := none, ticks := t.ticks + k,
               sec := match t.setTo with
                 | some v => v % 2 ^ 32
                 | none => (t.sec + 1) % 2 ^ 32 } := by
  cases he : t.setTo <;> simp [Time.advance, tickSec, Nat.min_eq_left h, hs, he]

/-- A captured edge is missed once its acceptance tick is past (R475). -/
theorem Time.missed_iff {now : Nat} : t.missed now = true ↔ ∃ c, t.cap = some c ∧ c.tick + 24 < now := by
  cases h : t.cap <;> simp [Time.missed, h]

end

/-- Settles O11. -/
theorem timeCounts : Obligations.TimeCounts := by
  intro t h0 late u
  have h1 : t.hold ≤ 1 := by omega
  have hl : late ↔ t.missed (t.ticks + 1) = true := by simp [late, Time.missed_iff]
  refine ⟨fun hs => ?_, fun hs hn => ?_, fun hs v hv he => ?_, fun h => ?_, fun h => ?_⟩
  · refine (Time.advance_within h1 (by omega)).trans ?_
    simp [h0]
  · refine (Time.advance_rollover h1 (by omega)).trans ?_
    simp [h0, hn]
  · refine (Time.advance_rollover h1 (by omega)).trans ?_
    have hm : v % 2 ^ 32 = v := Nat.mod_eq_of_lt hv
    simpa [h0, he] using hm
  · have hm := hl.mp h
    simp [Time.advance, hm, satAdd]
  · have hm : t.missed (t.ticks + 1) = false := by simpa using mt hl.mpr h
    simp [Time.advance, hm]

/-- Settles O12: the ticks to the next rollover are those held and those that the second lacks. -/
theorem timeIsSetAtRollover : Obligations.TimeIsSetAtRollover := by
  refine ⟨fun v s => rfl, fun s hr hs => ?_⟩
  have hk : s.time.hold + (250000000 - s.time.sub) ≠ 0 := by omega
  refine ⟨s.advance (s.time.hold + (250000000 - s.time.sub)), rfl, ?_, ?_⟩
  · rw [State.advance_time hr hk]
    exact Time.advance_rollover (by omega) (by omega)
  · have h := s.advance_rest (s.time.hold + (250000000 - s.time.sub))
    exact h

/-! ### PPS (O13) -/

/-- An edge comes too early after the last accepted one (R475). -/
def Time.tooEarly (t : Time) : Prop := ∃ a, t.lastAcc = some a ∧ t.ticks < a + 125000000

/-- The count of ignored edges when the one that was captured, if any, is dropped. -/
def Time.dropped (t : Time) : Nat := if t.cap.isSome then min 65535 (t.ignored + 1) else t.ignored

theorem Time.capture_early {t : Time} (h : t.tooEarly) :
    t.capture = { t with cap := none, ignored := min 65535 (t.dropped + 1) } := by
  obtain ⟨a, ha, hl⟩ := h
  cases hc : t.cap with
  | none => simp [Time.capture, Time.dropped, hc, ha, hl, tickSec, satAdd]
  | some c => simp [Time.capture, Time.dropped, hc, ha, hl, tickSec, satAdd]

theorem Time.capture_takes {t : Time} (h : ¬ t.tooEarly) :
    t.capture = { t with cap := some ⟨t.sec, t.sub, t.ticks⟩, ignored := t.dropped } := by
  cases ha : t.lastAcc with
  | none => cases hc : t.cap <;> simp [Time.capture, Time.dropped, hc, ha, satAdd]
  | some a =>
    have hl : ¬ t.ticks < a + 125000000 := fun hl => h ⟨a, ha, hl⟩
    cases hc : t.cap <;> simp [Time.capture, Time.dropped, hc, ha, hl, tickSec, satAdd]

/-- What PPS_ACCEPT leaves of time. -/
theorem execPpsAccept_time {s : State} {c : PpsEdge} (hc : s.time.cap = some c) (hn : s.now ≤ c.tick + 24) :
    ∃ t : State, exec .ppsAccept s = .next t ∧ t.time = (s.passTo (c.tick + 24)).time.accept c := by
  show ∃ t : State, execPpsAccept s = .next t ∧ _
  simp only [execPpsAccept, hc, if_pos hn]
  refine ⟨_, rfl, ?_⟩
  split
  · rw [State.raiseVector_time]
  · rfl

/-- Settles O13. -/
theorem ppsEdges : Obligations.PpsEdges := by
  refine ⟨?capture, ?accept, ?lost⟩
  case capture =>
    intro s hr early lost
    have he : exec .ppsCapture s = .next { s with time := s.time.capture } := congrArg goOn (if_pos hr)
    refine ⟨fun h => ?_, fun h => ?_⟩
    · rw [he, Time.capture_early h]; rfl
    · rw [he, Time.capture_takes h]; rfl
  case accept =>
    intro s c hc hn r d second
    obtain ⟨t, ht, e⟩ := execPpsAccept_time hc hn
    have hd : ppsOffset c.sub = d := rfl
    have hs : (r.accept c).sec = second := by
      unfold Time.accept
      dsimp only [second]
      rw [hd]
      repeat' split
      all_goals rfl
    obtain ⟨h₁, h₂, h₃, h₄, h₅, h₆⟩ : (r.accept c).pps = 1 ∧ (r.accept c).ppsLast = d ∧ (r.accept c).setTo = none ∧ (r.accept c).cap = none ∧
        (r.accept c).lastAcc = some c.tick ∧ (r.accept c).ticks = r.ticks := by
      unfold Time.accept
      dsimp only
      repeat' split
      all_goals exact ⟨rfl, rfl, rfl, rfl, rfl, rfl⟩
    refine ⟨t, ht, ?_⟩
    rw [e]
    refine ⟨hs, h₁, h₂, h₃, h₄, h₅, h₆, ?_, ?_, ?_, ?_⟩
    · intro h0 h8
      have h1 : -8 ≤ d := by omega
      simp [Time.accept, hd, h0, h8, h1, r]
    · intro h0
      simp [Time.accept, hd, h0, r]
    · intro h8 h0
      have h1 : d ≤ 8 := by omega
      have h2 : ¬ 0 < d := by omega
      have h3 : d ≠ 0 := by omega
      simp [Time.accept, hd, h8, h1, h2, h3, r]
    · intro h
      have h1 : ¬ (-8 ≤ d ∧ d ≤ 8) := by omega
      simp [Time.accept, hd, h1, r, satAdd]
  case lost =>
    intro s hr hp r
    show execPpsLost s = _
    rw [execPpsLost, if_pos (by simp [hr, hp])]
    rfl

/-! ### Monitors (O14, O15, O16) -/

/-- Settles O14: with the units written out this is the row. -/
theorem sensorSamples : Obligations.SensorSamples := by
  intro die mod s hr r m limits new s₁ s₂
  show execSensorSample die mod s = _
  rw [execSensorSample, if_neg (by simp [hr])]
  rfl

/-- The level of R481, with the thresholds in units of 0.125 °C. -/
theorem nextLevel_eq (tj : Int) (k : Nat) : nextLevel tj k =
    if 840 ≤ tj then 8 else if 760 ≤ tj ∧ k < 8 then k + 1 else if tj < 736 ∧ 0 < k then k - 1 else k := by
  have h₁ : (decide (tj ≥ 95 * degC) && decide (k < 8)) = true ↔ 760 ≤ tj ∧ k < 8 := by
    rw [Bool.and_eq_true, decide_eq_true_iff, decide_eq_true_iff]; rfl
  have h₂ : (decide (tj < 92 * degC) && decide (k > 0)) = true ↔ tj < 736 ∧ 0 < k := by
    rw [Bool.and_eq_true, decide_eq_true_iff, decide_eq_true_iff]; rfl
  simp only [nextLevel, h₁, h₂]
  rfl

/-- Settles O15. -/
theorem throttleAndAlive : Obligations.ThrottleAndAlive := by
  refine ⟨?thermal, ?alive⟩
  case thermal =>
    intro s hr r u k next
    show execThermalControl s = _
    have hn : nextLevel u.mon.tj u.mon.level = next := nextLevel_eq _ _
    rw [execThermalControl, if_neg (by simp [hr])]
    show (if nextLevel u.mon.tj u.mon.level = u.mon.level then goOn u
      else goOn ({ u with mon := { u.mon with level := nextLevel u.mon.tj u.mon.level,
                                              steps := satAdd 65535 u.mon.steps 1 } }.raise .mon 0 0)) = _
    rw [hn]
    split
    · rfl
    · rfl
  case alive =>
    intro s hr ha r
    show execAliveToggle s = _
    rw [execAliveToggle, if_pos (by simp [hr, ha])]

/-- Settles O16. -/
theorem voltagesAndProcess : Obligations.VoltagesAndProcess := by
  refine ⟨?volt, by decide, by decide, by decide, by decide, by decide, by decide, by decide,
    by decide, ?process⟩
  case volt =>
    intro mv s hr r readings out new
    show execVoltageSample mv s = _
    rw [execVoltageSample, if_neg (by simp [hr])]
    rfl
  case process =>
    intro n count s hr r
    show execProcessMonitorWindow n count s = _
    rw [execProcessMonitorWindow, if_neg (by simp [hr])]

end Sys2Proof.Machine
end

section
/-! PROOFS. Faults, fences and memories: what raising a source leaves in the function's vectors, what entering FAULT and leaving it
make of the links, and the rows of the monitors of the mesh and the memories.
-/

namespace Sys2Proof.Machine

/-! ### Raising a source (O17) -/

/-- A vector's effect on the function and the bus depends on these two alone. -/
theorem State.raiseVector_congr {s t : State} (v : Nat) (hp : s.pcie = t.pcie) (hb : s.bus = t.bus) :
    (s.raiseVector v).pcie = (t.raiseVector v).pcie ∧ (s.raiseVector v).bus = (t.raiseVector v).bus := by
  have hv : s.vectorAble v = t.vectorAble v := by simp only [State.vectorAble, hp]
  unfold State.raiseVector State.sendMsix State.setHerr
  rw [hv, hp]
  repeat' split
  all_goals simp [hp, hb]

/-- The vectors that a raise of an enabled source with some severity gives: the block's, and 1,041 for FENCE and ESCALATE, once
where both are the same vector (R421). -/
def State.raisedVectors (s : State) (irq : Bool) (b : BlockId) (severe : Prop) [Decidable severe] : State :=
  let v : State := if irq = true then s.raiseVector (blockVector b) else s
  if severe ∧ ¬ (irq = true ∧ blockVector b = 1041) then v.raiseVector 1041 else v

theorem State.raisedVectors_congr {s t : State} (irq : Bool) (b : BlockId) (severe : Prop) [Decidable severe]
    (hp : s.pcie = t.pcie) (hb : s.bus = t.bus) :
    (s.raisedVectors irq b severe).pcie = (t.raisedVectors irq b severe).pcie ∧
      (s.raisedVectors irq b severe).bus = (t.raisedVectors irq b severe).bus := by
  obtain ⟨hp', hb'⟩ := State.raiseVector_congr (blockVector b) hp hb
  unfold State.raisedVectors
  by_cases hi : irq = true
  · simp only [if_pos hi]
    by_cases hc : severe ∧ ¬ (irq = true ∧ blockVector b = 1041)
    · simp only [if_pos hc]; exact State.raiseVector_congr 1041 hp' hb'
    · simp only [if_neg hc]; exact ⟨hp', hb'⟩
  · simp only [if_neg hi]
    by_cases hc : severe ∧ ¬ (irq = true ∧ blockVector b = 1041)
    · simp only [if_pos hc]; exact State.raiseVector_congr 1041 hp hb
    · simp only [if_neg hc]; exact ⟨hp, hb⟩

/-- Entering a raise that is not mandatory gives these vectors. -/
theorem State.enterRaise_vectors (s : State) (b : BlockId) (k d : Nat) :
    (s.enterRaise b k false d).pcie = (s.raisedVectors ((s.block b).irqEn.getLsbD k) b (2 ≤ s.appliedSeverity b k)).pcie ∧
      (s.enterRaise b k false d).bus = (s.raisedVectors ((s.block b).irqEn.getLsbD k) b (2 ≤ s.appliedSeverity b k)).bus := by
  unfold State.enterRaise State.startEscalation State.withFlt
  extract_lets sev irq t₁ t₂ t₃ f t₄
  have h₃ : t₃ = t₁.raisedVectors irq b (2 ≤ sev) := by
    simp only [t₃, t₂, State.raisedVectors, Bool.or_false, Bool.and_eq_true, Bool.not_eq_true', Bool.and_eq_false_iff,
      decide_eq_true_eq, decide_eq_false_iff_not, not_and_or, Bool.not_eq_true, ge_iff_le]
  have h₄ : t₄.pcie = t₃.pcie ∧ t₄.bus = t₃.bus := by
    show (if _ then _ else _ : State).pcie = _ ∧ (if _ then _ else _ : State).bus = _
    split
    · exact ⟨rfl, rfl⟩
    · exact ⟨rfl, rfl⟩
  have h₅ := State.raisedVectors_congr (s := t₁) (t := s) irq b (2 ≤ sev) rfl rfl
  rw [← h₃] at h₅
  have h : t₄.pcie = (s.raisedVectors irq b (2 ≤ sev)).pcie ∧ t₄.bus = (s.raisedVectors irq b (2 ≤ sev)).bus :=
    ⟨h₄.1.trans h₅.1, h₄.2.trans h₅.2⟩
  split
  · split
    · exact h
    · exact h
  · exact h

/-- Entering an entry in a history queue that is not full. -/
theorem FltIf.enter_of_lt {f : FltIf} (e : HistEntry) (h : f.valid < 8) :
    (f.enter e).valid = f.valid + 1 ∧ (f.enter e).ovf = f.ovf ∧ (f.enter e).oldest = f.oldest := by
  have h8 : f.valid ≠ 8 := by omega
  simp [FltIf.enter, h8]

/-- Entering an entry in a full history queue takes the place of the oldest. -/
theorem FltIf.enter_of_full {f : FltIf} (e : HistEntry) (h : f.valid = 8) :
    (f.enter e).valid = 8 ∧ (f.enter e).ovf = min 0xFFFFFFFF (f.ovf + 1) ∧ (f.enter e).oldest = (f.oldest + 1) % 8 := by
  simp [FltIf.enter, h, satInc, satAdd]

/-- Settles O17. -/
theorem raiseEntersHistory : Obligations.RaiseEntersHistory := by
  intro s b k d sev irq f t
  obtain ⟨hb', hf⟩ := s.enterRaise_takes b k false d
  have hb : t.block b = { f.enter ⟨s.now, s.time.sec, s.time.sub, k, sev, false, d⟩ with
      status := f.status ||| (1#32 <<< k), corr := if sev = 1 then min 0xFFFFFFFF (f.corr + 1) else f.corr } := hb'
  refine ⟨hb, ?room, ?full, ?flt, s.enterRaise_vectors b k d, s.enterRaise_rest b k false d⟩
  case room => intro h; rw [hb]; exact FltIf.enter_of_lt ⟨s.now, s.time.sec, s.time.sub, k, sev, false, d⟩ h
  case full => intro h; rw [hb]; exact FltIf.enter_of_full ⟨s.now, s.time.sec, s.time.sub, k, sev, false, d⟩ h
  case flt =>
    refine hf.trans ?_
    simp only [Bool.false_eq_true, or_false, tickMs]
    rfl

/-! ### Links that go down or train -/

/-- A message to the neighbour changes its link only, which stays in its state. -/
theorem State.sendNeighbour_only (s : State) (l kind aux : Nat) (payload : List Byte) :
    ∃ x : Link, LinkOnly s (s.sendNeighbour l kind aux payload) l x := by
  unfold State.sendNeighbour State.queueFlit State.pumpLink
  exact ⟨_, (LinkOnly.modLink s l _).trans (LinkOnly.modLink _ l _)⟩

/-- A link that is taken down is the only unit that changes. -/
theorem State.takeDown_only (s : State) (l cause st : Nat) (drop : Bool) :
    ∃ x : Link, x.state = st ∧ LinkOnly s (s.takeDown l cause st drop) l x := by
  unfold State.takeDown
  extract_lets active u now
  have hu : ∃ y, LinkOnly s u l y := by
    by_cases ha : active = true
    · obtain ⟨x, hx⟩ := s.sendNeighbour_only l 0xF 2 (downPayload cause)
      have e : u = (s.sendNeighbour l 0xF 2 (downPayload cause)).modLink l (fun x => { x with downTx := cause }) := if_pos ha
      rw [e]
      exact ⟨_, hx.trans (LinkOnly.modLink _ l _)⟩
    · have e : u = s := if_neg ha
      rw [e]
      exact ⟨_, rfl, fun _ _ => rfl, rfl⟩
  obtain ⟨y, hy⟩ := hu
  exact ⟨_, rfl, hy.trans (LinkOnly.modLink u l _)⟩

/-- The links that are not DISABLED go down, in their order. -/
def State.linksDown (s : State) (l : List Nat) : State := l.foldl (fun st l =>
  if (st.link l).state = lnkDisabled then st else st.takeDown l 1 lnkDown false) s

/-- Each of these links is DISABLED or DOWN then, and nothing else has changed. -/
theorem State.linksDown_takes (l : List Nat) (s : State) : { s.linksDown l with links := s.links } = s ∧
    ∀ m, m ∈ l ∨ (s.link m).state = lnkDisabled ∨ (s.link m).state = lnkDown →
      ((s.linksDown l).link m).state = lnkDisabled ∨ ((s.linksDown l).link m).state = lnkDown := by
  induction l generalizing s with
  | nil => exact ⟨rfl, fun m hm => hm.resolve_left (by simp)⟩
  | cons k l ih =>
    let t := if (s.link k).state = lnkDisabled then s else s.takeDown k 1 lnkDown false
    have ht : { t with links := s.links } = s ∧ ((t.link k).state = lnkDisabled ∨ (t.link k).state = lnkDown) ∧
        ∀ m, m ≠ k → t.link m = s.link m := by
      by_cases hd : (s.link k).state = lnkDisabled
      · have e : t = s := if_pos hd
        exact ⟨by rw [e], by rw [e]; exact .inl hd, fun _ _ => by rw [e]⟩
      · have e : t = s.takeDown k 1 lnkDown false := if_neg hd
        obtain ⟨x, hx, ho⟩ := s.takeDown_only k 1 lnkDown false
        rw [e]
        exact ⟨ho.rest, .inr (by rw [ho.here, hx]), ho.others⟩
    obtain ⟨hr, hk, ho⟩ := ht
    obtain ⟨ir, im⟩ := ih t
    refine ⟨?_, fun m hm => im m ?_⟩
    · exact (congrArg (fun (v : State) => { v with links := s.links }) ir).trans hr
    · by_cases e : m = k
      · exact .inr (e ▸ hk)
      · rw [ho m e]
        exact hm.imp_left (fun h => (List.mem_cons.mp h).resolve_left e)

/-- FAULT is entered from a state that ordinary work gives, whose links are DISABLED or DOWN and whose runs have the fault
among their stop causes (R427). -/
theorem State.enterFault_from (s : State) (state cause : Nat) : ∃ t : State,
    (∀ P : State → Prop, Closed P → P s → P t) ∧
    (∀ l, l < 4 → (t.link l).state = lnkDisabled ∨ (t.link l).state = lnkDown) ∧ (∀ r, r ∈ t.runs → r.stops.fault = true) ∧
    s.enterFault state cause = { t with
      pwr := { t.pwr with aliveRun := false },
      flt := { t.flt with state := state, cause := cause, esc := none, quietFrom := t.now, faultTick := t.now } } := by
  unfold State.enterFault
  extract_lets s1 s2 s3 s4 now s5
  have h2 (P : State → Prop) (C : Closed P) (hs : P s) : P s2 := by
    have h1 : P s1 := foldl_keep (fun _ _ h => State.faultCtx_keep C _ h) _ _ hs
    exact foldl_keep (fun _ _ h => State.pierStop_keep C _ _ _ h) _ _ h1
  clear_value s2
  have h3 (P : State → Prop) (C : Closed P) (hs : P s) : P s3 := C.rest (h2 P C hs)
  have hs3 : ∀ r, r ∈ s3.runs → r.stops.fault = true := List.forall_mem_map.mpr fun _ _ => rfl
  have e4 : s4 = s3.linksDown (List.range 4) := rfl
  obtain ⟨hr, hl⟩ := s3.linksDown_takes (List.range 4)
  rw [← e4] at hr hl
  clear_value s3
  have h4 (P : State → Prop) (C : Closed P) (hs : P s) : P s4 :=
    foldl_keep (fun t l ht => ite_keep ht (State.takeDown_keep C _ _ _ _ ht)) _ _ (h3 P C hs)
  clear e4
  clear_value s4
  have er : s4.runs = s3.runs := by
    have e := congrArg State.runs hr
    exact e
  exact ⟨s4, h4, fun l h => hl l (.inl (List.mem_range.mpr h)), fun r h => hs3 r (er ▸ h), rfl⟩

/-- What ordinary work leaves of the parts that entering FAULT keeps. -/
theorem closed_kept (s : State) : Closed (fun t => t.time = s.time ∧ t.boot = s.boot ∧ t.pending = s.pending ∧
    t.pwr.alive = s.pwr.alive) where
  rest h := h
  mem _ h := h
  herr _ h := h
  pba _ h := h
  sent _ h := h
  drbg _ _ h := h
  cxlPerst _ h := h
  fence _ _ h := h
  escalate _ h := h

/-- Settles O19. -/
theorem enteringFault : Obligations.EnteringFault := by
  refine ⟨fun s e hr hs he => ⟨_, execEscalationExpiry_enters hr hs he, rfl⟩, fun s hr => ⟨_, congrArg goOn (if_pos hr), rfl⟩, ?_⟩
  intro s state cause u
  obtain ⟨t, hc, hl, hr, hu⟩ := s.enterFault_from state cause
  obtain ⟨ht, hb, hp, ha⟩ := hc _ (closed_kept s) ⟨rfl, rfl, rfl, rfl⟩
  have hu : u = _ := hu
  rw [hu]
  refine ⟨rfl, rfl, rfl, ?_, rfl, ha, ht, hb, hp, hl, hr⟩
  exact congrArg Time.ticks ht

/-! ### The end of the quiet period (O20) -/

/-- An operation on each unit of a kind changes that unit only, by what the unit itself and the rest of the state are: `get` reads
a unit, and `back s t` is `t` with the units of `s`. -/
structure EachUnit {α : Type} (get : State → Nat → α) (back : State → State → State) (f : State → Nat → State) : Prop where
  twice : ∀ s t u, back s (back t u) = back s u
  none_ : ∀ s, back s s = s
  rest : ∀ s n, back s (f s n) = s
  others : ∀ s n m, m ≠ n → get (f s n) m = get s m
  local_ : ∀ s t n, back s t = s → get t n = get s n → get (f t n) n = get (f s n) n

/-- Done for several units, it makes of each what it makes of it alone. -/
theorem EachUnit.fold {α : Type} {get : State → Nat → α} {back : State → State → State} {f : State → Nat → State}
    (hf : EachUnit get back f) : ∀ (l : List Nat), l.Nodup → ∀ s : State,
    back s (l.foldl f s) = s ∧ ∀ m, get (l.foldl f s) m = if m ∈ l then get (f s m) m else get s m
  | [], _, s => ⟨hf.none_ s, fun m => by simp⟩
  | k :: l, hn, s => by
    obtain ⟨hk, hl⟩ := List.nodup_cons.mp hn
    obtain ⟨ir, im⟩ := hf.fold l hl (f s k)
    have hr := hf.rest s k
    refine ⟨?_, fun m => ?_⟩
    · have e := congrArg (back s) ir
      rw [hf.twice, hr] at e
      exact e
    rw [List.foldl_cons, im m]
    by_cases hm : m ∈ l
    · have hne : m ≠ k := fun e => hk (e ▸ hm)
      rw [if_pos hm, if_pos (List.mem_cons_of_mem _ hm), hf.local_ s (f s k) m hr (hf.others s k m hne)]
    · rw [if_neg hm]
      by_cases e : m = k
      · rw [e, if_pos List.mem_cons_self]
      · rw [hf.others s k m e, if_neg (by simp [e, hm])]

/-- `t` with the links of `s`. -/
def State.linksBack (s t : State) : State := { t with links := s.links }

/-- Training starts with the link as it is, the tick and the lanes that are fenced (R251). -/
theorem State.startTraining_link (s : State) (l : Nat) : (s.startTraining l).link l =
    { (s.link l).leave lnkDetect false with
      trainTick := s.now, failed := s.fencedLanes l, width := (widestWidth (s.fencedLanes l)).getD (s.link l).width } := by
  simp [State.startTraining, Link.leave]

/-- A link that recovers from FAULT: it trains where it is enabled, down and not fenced (R429). -/
def State.recoverLink (s : State) (l : Nat) : State :=
  if (s.link l).enable && (s.link l).state = lnkDown && !s.linkFenced l then s.startTraining l else s

theorem State.recoverLink_link (s : State) (l : Nat) : (s.recoverLink l).link l =
    if (s.link l).enable ∧ (s.link l).state = lnkDown ∧ ¬ s.linkFenced l then (s.startTraining l).link l else s.link l := by
  unfold State.recoverLink
  rw [apply_ite (fun t : State => t.link l)]
  simp [and_assoc]

theorem eachUnit_recoverLink : EachUnit State.link State.linksBack State.recoverLink where
  twice _ _ _ := rfl
  none_ _ := rfl
  rest s l := by
    unfold State.recoverLink
    split
    · rfl
    · rfl
  others s l m hm := by
    unfold State.recoverLink
    split
    · exact State.link_modLink_ne s _ hm
    · rfl
  local_ s t l hr hl := by
    have hf : t.flt = s.flt := by have e := congrArg State.flt hr; exact e
    have ht : t.time = s.time := by have e := congrArg State.time hr; exact e
    simp only [State.recoverLink_link, State.startTraining_link, State.linkFenced, State.fencedLanes, State.now, hl, hf, ht]

/-- What a recovery leaves (R429). -/
theorem State.recover_takes (s : State) :
    s.recover.flt = { s.flt with state := 0, recCount := min 65535 (s.flt.recCount + 1), recs := s.flt.recs ++ [s.now] } ∧
    s.recover.pwr = { s.pwr with aliveRun := true, aliveTick := s.now } ∧
    (∀ l, l < 4 → s.recover.link l = if (s.link l).enable ∧ (s.link l).state = lnkDown ∧ ¬ s.linkFenced l then
      (s.startTraining l).link l else s.link l) ∧
    s.recover.pcie = (s.raiseVector 1041).pcie ∧ s.recover.bus = (s.raiseVector 1041).bus ∧
    { s.recover with flt := s.flt, pwr := s.pwr, links := s.links, pcie := s.pcie, bus := s.bus } = s := by
  let t : State := { s with
    flt := { s.flt with recCount := satAdd 65535 s.flt.recCount 1, recs := s.flt.recs ++ [s.now], state := 0 },
    pwr := { s.pwr with aliveRun := true, aliveTick := s.now } }
  let u := (List.range 4).foldl State.recoverLink t
  have hu : s.recover = u.raiseVector 1041 := rfl
  obtain ⟨hr, hl⟩ := eachUnit_recoverLink.fold (List.range 4) List.nodup_range t
  change { u with links := t.links } = t at hr
  change ∀ m, u.link m = _ at hl
  rw [hu]
  clear_value u
  have hp : u.pcie = s.pcie := by have e := congrArg State.pcie hr; exact e
  have hb : u.bus = s.bus := by have e := congrArg State.bus hr; exact e
  obtain ⟨vp, vb⟩ := State.raiseVector_congr 1041 hp hb
  refine ⟨?_, ?_, fun l h => ?_, vp, vb, ?_⟩
  · rw [State.raiseVector_flt]
    have e := congrArg State.flt hr
    exact e
  · rw [State.raiseVector_pwr]
    have e := congrArg State.pwr hr
    exact e
  · have e : (u.raiseVector 1041).link l = u.link l := by simp [State.link]
    rw [e, hl l, if_pos (List.mem_range.mpr h), State.recoverLink_link, State.startTraining_link, State.startTraining_link]
    rfl
  · have e1 := State.raiseVector_rest 1041 u
    have e2 := congrArg (fun (v : State) => { v with flt := s.flt, pwr := s.pwr, links := s.links, pcie := s.pcie, bus := s.bus }) e1
    have e3 := congrArg (fun (v : State) => { v with flt := s.flt, pwr := s.pwr, links := s.links, pcie := s.pcie, bus := s.bus }) hr
    exact e2.trans e3

/-- Settles O20. -/
theorem quietPeriodEnds : Obligations.QuietPeriodEnds := by
  intro s hr hs r made
  have he : exec .quietPeriodEnd s = if made ≥ r.flt.limit then .next (r.withFlt { r.flt with state := 3, cause := 4 })
      else .next r.recover.carryOn := if_pos (by simp [hr, hs])
  refine ⟨fun h => he.trans (if_pos h), fun h => ⟨r.recover, he.trans (if_neg (by omega)), r.recover_takes⟩⟩

/-! ### History queues, heartbeats and stalls (O21) -/

/-- Settles O21. -/
theorem queueClearHeartbeatStall : Obligations.QueueClearHeartbeatStall := by
  refine ⟨fun _ _ => rfl, fun b s => State.block_modBlock_self s b _, fun n s hr hf => ⟨fun hq => ?_, fun hq => ?_⟩,
    ?stall⟩
  · exact congrArg goOn (if_pos (by simp [hr, hf, hq]))
  · exact congrArg goOn (if_neg (by simp [hq]))
  case stall =>
    intro s hr r t
    have he : exec .stallCheck s = .next ((t.ctxs.filter (fun cx => cx.2.stallDue t.now)).foldl (fun st cx =>
        (st.modCtx cx.1 (fun x => { x with stalled := true })).raiseVector 1058) t) := if_pos hr
    refine ⟨fun c x e hc hx ho hp hd hst => ?_, fun h => ?_⟩
    · have hdue : x.stallDue t.now = true := by simp [Ctx.stallDue, hx, ho, Exec.isWorking, hp, hst, tickSec, hd]
      rw [he, hc]
      simp [hdue]
    · rw [he, List.filter_eq_nil_iff.mpr (by simpa using h)]
      rfl

/-! ### Routers (O22) -/

/-- A router that fails, and what is behind it. -/
theorem State.routerFails_of_working {s : State} {r : Nat} (lost : List Nat) (hr : s.running = true)
    (hf : s.mesh.failed.getLsbD r = false) :
    s.routerFails r lost =
      let q := s.loseInside r lost
      let u := { q with mesh := { q.mesh with failed := s.mesh.failed ||| (1#36 <<< r), installBusy := true } }.enterRaise .mesh 1 true 0
      match stopAt r with
      | .span n => u.fenceSpan n
      | .mem n => u.fenceMem n
      | .lnk l => u.fenceLink l 0
      | .cxl p => u.fenceCxl p
      | .empty => u
      | .service => { u with mesh := { u.mesh with installBusy := false } }.enterFault 3 3 :=
  if_neg (by simp [State.routerFailed, hr, hf])

/-- Settles O22. -/
theorem routersFail : Obligations.RoutersFail := by
  intro f s hr r q u
  have he : exec (.routerFailure f) s = .next (s.routerFails r.val f.inside).carryOn := rfl
  refine ⟨rfl, rfl, fun hf => ?_, fun hf => ?_⟩
  · rw [he, State.routerFails, if_pos (by simp [State.routerFailed, hr, hf])]
  · rw [he, State.routerFails_of_working f.inside hr hf]
    refine ⟨fun n h => ?_, fun n h => ?_, fun n h => ?_, fun n h => ?_, fun h => ?_, fun h => ?_⟩
    all_goals rw [h]

/-! ### Memories (O24, O25, O26) -/

/-- Settles O24. -/
theorem interfacesRetrain : Obligations.InterfacesRetrain := by
  refine ⟨fun i holds s hb ha hf => ?_, ?_, fun s i => ⟨rfl, fun h => ?_, fun h => ?_⟩⟩
  · exact congrArg goOn (if_pos (by simp [hb, ha, hf]))
  · intro i holds s hr ha hf due
    exact if_pos (by simp [hr, ha, hf])
  · have e : s.retrainMem i false = s.modMem i (fun x => { x with rate := x.rate + 1 }) := if_pos h
    rw [e]
    exact MemOnly.modMem s i _
  · have e : ¬ (s.memIface i).rate < 2 := by omega
    exact if_neg e

/-- Settles O25. -/
theorem memoryTemperatureAndScrub : Obligations.MemoryTemperatureAndScrub := by
  refine ⟨?_, ?_, fun n events s hp => ?_⟩
  · intro i temp s hr t u
    exact if_neg (by simp [hr])
  · intro n events s hr hf hp r
    exact if_pos (by simp [hr, hf, hp])
  · exact if_neg (by simp [hp])

/-- Settles O26. -/
theorem portsAndHostReadsFail : Obligations.PortsAndHostReadsFail := by
  refine ⟨?timeout, ?loss, ?readers, ?dma, ?atomic, ?host⟩
  case timeout =>
    intro q s t hr p a hp hf ho ht recent v
    show execCxlTimeout q s = _
    rw [execCxlTimeout, if_pos (by simp [hr, hp, hf, ho, p, a]), ht]
    rfl
  case loss => intro p s hr hp hf; exact congrArg goOn (if_pos (by simp [hr, hp, hf]))
  case readers =>
    intro c a how s f
    have hn (o : Out) (h : Goes o) : ∃ t, o = .next t := by
      cases o with
      | next t => exact ⟨t, rfl⟩
      | fault _ => exact h.elim
      | refused _ => exact h.elim
    have hf (row : State → Out) {t : State} (e : row f = .next t) :
        s.failing a how row = .next { t with pcie := { t.pcie with readFail := none } } := by
      rw [State.failing, show row { s with pcie := { s.pcie with readFail := some (a, how) } } = .next t from e]
    obtain ⟨t, ht⟩ := hn _ (execCommandFetch_goes c f)
    obtain ⟨u, hu⟩ := hn _ (execBatchDescriptorTake_goes c f)
    obtain ⟨v, hv⟩ := hn _ (f.rowOf_goes c)
    exact ⟨t, u, v, ⟨ht, hf (execCommandFetch c) ht⟩, ⟨hu, hf (execBatchDescriptorTake c) hu⟩, ⟨hv, hf (fun t => t.rowOf c) hv⟩⟩
  case dma =>
    intro n tag a how s x hb hn ha
    have hx : x.reaches a = true := by simpa [Tag.reaches, hb, hn] using ha
    exact congrArg goOn (if_pos hx)
  case atomic => exact fun n a s => ⟨_, rfl, rfl⟩
  case host =>
    intro r a how s hr ha
    have hn : ¬ a.toNat < hostBase := by have e : hostBase = 2 ^ 47 := rfl; omega
    exact if_neg (by simp [hr, hn])

end Sys2Proof.Machine
end

section
/-! PROOFS. Resets: what a reset of the die leaves, for PERST_N, the power rows and a loss of lock; what FLR and DEV soft reset leave;
span reset and march tests.
-/

namespace Sys2Proof

/-- Reading a sparse array that lists one value at the indexes of a list. -/
theorem Store.get_map_const {α : Type} (d v : α) (k : Nat) (l : List Nat) :
    Store.get d k (l.map (fun i => (i, v))) = if k ∈ l then v else d := by
  induction l with
  | nil => rfl
  | cons i l ih =>
    by_cases h : i = k
    · simp [Store.get, h]
    · simp [Store.get, h, ih, Ne.symm h]

/-- Reading a sparse array of which the indexes with a property are kept. -/
theorem Store.get_filter {α : Type} (d : α) (p : Nat → Bool) (k : Nat) (m : Store α) :
    Store.get d k (m.filter (fun c => p c.1)) = if p k then Store.get d k m else d := by
  induction m with
  | nil => simp [Store.get]
  | cons c m ih =>
    obtain ⟨i, v⟩ := c
    by_cases hp : p i = true
    · rw [List.filter_cons_of_pos (by exact hp)]
      by_cases h : i = k
      · subst h; simp [Store.get, hp]
      · simp [Store.get, h, ih]
    · rw [List.filter_cons_of_neg (by exact hp)]
      by_cases h : i = k
      · subst h; simp [ih, hp]
      · simp [Store.get, h, ih]

end Sys2Proof

namespace Sys2Proof.Machine

/-! ### The reset of the die (O27, O28) -/

/-- After a reset of the die a link has its reset registers, and its cable as before. -/
theorem State.dieReset_link (s : State) (cause l : Nat) (h : l < 4) :
    (s.dieReset cause).link l = { link0 with cable := (s.link l).cable } := by
  have e : (s.dieReset cause).link l = Store.get link0 l
      (((List.range 4).filter (fun k => !(s.link k).cable)).map (fun k => (k, { link0 with cable := false }))) := rfl
  rw [e, Store.get_map_const]
  by_cases hc : (s.link l).cable = true
  · simp [hc, link0]
  · simp [hc, h]

/-- A reset of the die, whatever the power domain and the boot block hold then. -/
theorem State.dieReset_after (s : State) (cause : Nat) (w : Power) (b : Boot) :
    AfterDieReset s { s.dieReset cause with pwr := w, boot := b } b where
  boot := rfl
  flash := rfl
  cables := s.dieReset_link cause
  host := rfl
  kept := ⟨rfl, rfl, rfl, rfl⟩
  rest := rfl

/-- Settles O27. -/
theorem dieResets : Obligations.DieResets := by
  refine ⟨fun s hp => ⟨_, if_neg (by simp [hp]), s.dieReset_after 1 _ _, rfl⟩,
    fun s hr => ⟨_, if_pos hr, s.dieReset_after 2 _ _, rfl⟩, fun slot s hp => if_pos hp⟩

/-- Settles O28. -/
theorem powerRows : Obligations.PowerRows := by
  unfold Obligations.PowerRows
  intro off on start
  refine ⟨fun s he hv => ?enAssert, fun s he ho => ?enDeassert, fun s ho => ?under, fun s ho => ?above,
    fun s hv ht he => ?restored, fun s ho => ⟨_, if_pos ho, s.dieReset_after 0 _ _, rfl⟩⟩
  case enAssert =>
    let u : State := { s with pwr := { s.pwr with en := true } }
    refine ⟨u.powerOn, ?_, s.dieReset_after (if s.pwr.tripCause then 5 else 0) _ _, rfl⟩
    show execPwrEnAssert s = _
    rw [execPwrEnAssert, if_neg (by simp [he])]
    exact congrArg goOn (if_pos hv)
  case enDeassert =>
    refine ⟨{ s.powerOff with pwr := { s.powerOff.pwr with en := false } }, ?_, s.dieReset_after 0 _ _, rfl⟩
    show execPwrEnDeassert s = _
    rw [execPwrEnDeassert, if_pos he, if_pos ho]
  case under =>
    refine ⟨{ s.powerOff with pwr := { s.powerOff.pwr with vin := false, tripCause := false, therm := false } }, ?_,
      s.dieReset_after 0 _ _, rfl⟩
    show execVinUndervoltage s = _
    rw [execVinUndervoltage, if_pos ho]
  case above => exact ⟨s.powerOff, congrArg goOn (if_pos ho), s.dieReset_after 0 _ _, rfl⟩
  case restored =>
    let u : State := { s with pwr := { s.pwr with vin := true } }
    refine ⟨u.powerOn, ?_, s.dieReset_after (if s.pwr.tripCause then 5 else 0) _ _, rfl⟩
    show execVinRestored s = _
    rw [execVinRestored, if_neg (by simp [hv])]
    exact congrArg goOn (if_pos (by simp [ht, he]))

/-! ### Messages on links that take them -/

/-- What decides whether a link takes a flit stays as it is. -/
structure Link.SameWay (x y : Link) : Prop where
  state : y.state = x.state
  txEnc : y.txEnc = x.txEnc

theorem Link.SameWay.trans {x y z : Link} (h : x.SameWay y) (k : y.SameWay z) : x.SameWay z :=
  ⟨k.state.trans h.state, k.txEnc.trans h.txEnc⟩

theorem Link.SameWay.takes {x y : Link} (h : x.SameWay y) (n : Nat) : y.takes n = x.takes n := by
  simp [Link.takes, h.state, h.txEnc]

theorem Link.toLine_sameWay (x : Link) (flit : List Byte) : x.SameWay (x.toLine flit) := by
  unfold Link.toLine
  split
  · exact ⟨rfl, rfl⟩
  · exact ⟨rfl, rfl⟩

theorem Link.sendIdle_sameWay (id : BitVec 12) (x : Link) : x.SameWay (x.sendIdle id) := by
  unfold Link.sendIdle
  extract_lets cr h l y
  exact Link.SameWay.trans (y := y) ⟨rfl, rfl⟩ (y.toLine_sameWay _)

theorem Link.fillIdle_sameWay (id : BitVec 12) (fuel : Nat) (x : Link) : x.SameWay (x.fillIdle id fuel) := by
  induction fuel generalizing x with
  | zero => exact ⟨rfl, rfl⟩
  | succ k ih =>
    unfold Link.fillIdle
    split
    · exact ⟨rfl, rfl⟩
    · exact (x.sendIdle_sameWay id).trans (ih _)

theorem Link.switchTx_sameWay (x : Link) : x.SameWay x.switchTx := by
  unfold Link.switchTx
  repeat' split
  all_goals exact ⟨rfl, rfl⟩

theorem Link.sendOne_sameWay (keys : Nat → List Byte) (id : BitVec 12) (x : Link) (f : TxFlit) :
    x.SameWay (x.sendOne keys id f) := by
  unfold Link.sendOne
  extract_lets cr h0 h v body g y
  exact Link.SameWay.trans (y := y) ⟨rfl, rfl⟩ (y.toLine_sameWay _)

/-- Sending what can be sent leaves the link's state and encryption as they are. -/
theorem Link.pump_sameWay (keys : Nat → List Byte) (id : BitVec 12) (now fuel : Nat) (x : Link) :
    x.SameWay (x.pump keys id now fuel) := by
  induction fuel generalizing x with
  | zero => exact ⟨rfl, rfl⟩
  | succ k ih =>
    unfold Link.pump
    split
    · split
      · exact (x.switchTx_sameWay.trans (Link.sendOne_sameWay keys id _ _)).trans (ih _)
      · exact x.fillIdle_sameWay id 32
    · exact ⟨rfl, rfl⟩

/-- Every exit takes messages of up to 224 bytes (R255). -/
def State.ExitsTake (s : State) : Prop := ∀ d, (s.link (s.exitFor d)).takes 224 = true

/-- `t` is `s` after some messages: its links have sent or hold them and take as much as before, and nothing else has changed but,
of runs, what has been told. -/
structure State.Told (s t : State) : Prop where
  rest : { t with links := s.links, runs := s.runs } = s
  ways : ∀ l, (s.link l).SameWay (t.link l)

theorem State.Told.refl (s : State) : s.Told s := ⟨rfl, fun _ => ⟨rfl, rfl⟩⟩

theorem State.Told.trans {s t u : State} (h : s.Told t) (k : t.Told u) : s.Told u := by
  refine ⟨?_, fun l => (h.ways l).trans (k.ways l)⟩
  have e := congrArg (fun (v : State) => { v with links := s.links, runs := s.runs }) k.rest
  exact e.trans h.rest

theorem State.Told.exitsTake {s t : State} (h : s.Told t) (he : s.ExitsTake) : t.ExitsTake := by
  intro d
  have hl : t.linkSys = s.linkSys := by have e := congrArg State.linkSys h.rest; exact e
  have hx : t.exitFor d = s.exitFor d := by simp only [State.exitFor, hl]
  rw [hx, (h.ways _).takes]
  exact he d

/-- A change of one link that leaves its way. -/
theorem State.modLink_told (s : State) (l : Nat) (f : Link → Link) (h : (s.link l).SameWay (f (s.link l))) :
    s.Told (s.modLink l f) := by
  refine ⟨rfl, fun m => ?_⟩
  rw [State.link_modLink]
  split
  next e => subst e; exact h
  next => exact ⟨rfl, rfl⟩

theorem State.pumpLink_told (s : State) (l : Nat) : s.Told (s.pumpLink l) := by
  unfold State.pumpLink
  refine s.modLink_told l _ ?_
  have h := Link.pump_sameWay (s.linkKey l) s.linkSys.moduleId s.now 129 (s.link l)
  dsimp only
  split
  · exact ⟨h.state, h.txEnc⟩
  · exact h

theorem State.queueFlit_told (s : State) (l : Nat) (f : TxFlit) : s.Told (s.queueFlit l f) :=
  (s.modLink_told l _ ⟨rfl, rfl⟩).trans (State.pumpLink_told _ l)

theorem Link.takes_mono {x : Link} {m n : Nat} (h : m ≤ n) (hx : x.takes n = true) : x.takes m = true := by
  simp only [Link.takes, Bool.and_eq_true, decide_eq_true_eq, Bool.not_eq_true', Bool.and_eq_false_iff,
    decide_eq_false_iff_not] at hx ⊢
  obtain ⟨hs, ht⟩ := hx
  exact ⟨hs, ht.imp_right (fun hn => by omega)⟩

/-- A message of at most 224 bytes is sent on its exit. -/
theorem State.sendTo_told {s : State} (he : s.ExitsTake) (dst kind aux run : Nat) {payload : List Byte}
    (h : payload.length ≤ 224) : s.Told (s.sendTo dst kind aux run payload) := by
  unfold State.sendTo State.routeFlit
  extract_lets l
  have hl : (s.link l).takes payload.length = true := Link.takes_mono h (he _)
  exact (congrArg s.Told (if_pos hl)).mpr (s.queueFlit_told l _)

theorem markerBytes_length_le (aux : Nat) (m : Marker) : (markerBytes aux m).length ≤ 224 := by
  by_cases h : aux = 6 <;> simp [markerBytes, settleBytes, h]

theorem State.sendMarker_told {s : State} (he : s.ExitsTake) (y : SysDesc) (part aux : Nat) (m : Marker) :
    s.Told (s.sendMarker y part aux m) := State.sendTo_told he _ _ _ _ (markerBytes_length_le aux m)

/-- Several messages. -/
theorem State.foldl_told {α : Type} {f : State → α → State} (hf : ∀ (s : State) a, s.ExitsTake → s.Told (f s a)) (l : List α) {s : State}
    (he : s.ExitsTake) : s.Told (l.foldl f s) := by
  induction l generalizing s with
  | nil => exact .refl s
  | cons a l ih => exact (hf s a he).trans (ih ((hf s a he).exitsTake he))

theorem State.endPart_told {s : State} (he : s.ExitsTake) (y : SysDesc) (r : Run) (cause epoch : Nat) :
    s.Told (s.endPart y r cause epoch) := by
  have h1 : s.Told (s.modSys r.problem (fun x => { x with endCause := cause, causeEpoch := epoch })) :=
    ⟨rfl, fun _ => ⟨rfl, rfl⟩⟩
  exact h1.trans (State.foldl_told (fun t d ht => State.sendMarker_told ht y d 0 _) _ (h1.exitsTake he))

/-! ### FLR and DEV soft reset (O29) -/

/-- A module without a part of a system run has none to tell of. -/
theorem State.sysOf_none {s : State} (h : ∀ r, r ∈ s.runs → r.sys = none) (q : Nat) : s.sysOf q = none := by
  unfold State.sysOf
  split
  next p r _ hr =>
    have hm : r ∈ s.runs := List.mem_of_find?_eq_some hr
    simp [h r hm]
  next => rfl

/-- The part of a run, if it is one, tells the others that it stops. -/
def State.tellStop (s : State) (r : Run) : State :=
  match s.sysOf r.problem with
  | some (_, y, r, x) => if x.endCause = 0 then s.endPart y r 4 (r.sweep * r.k) else s
  | none => s

theorem State.tellStops_eq (s : State) : s.tellStops = s.runs.foldl State.tellStop s := rfl

/-- The parts of system runs tell the others that they stop, on exits that take it. -/
theorem State.tellStops_told {s : State} (h : (∀ r, r ∈ s.runs → r.sys = none) ∨ s.ExitsTake) : s.Told s.tellStops := by
  rw [State.tellStops_eq]
  rcases h with h | h
  · have e (l : List Run) : l.foldl State.tellStop s = s := by
      induction l with
      | nil => rfl
      | cons r l ih =>
        have hr : s.tellStop r = s := by rw [State.tellStop, State.sysOf_none h]
        rw [List.foldl_cons, hr, ih]
    rw [e]
    exact .refl s
  · refine State.foldl_told (fun t r ht => ?_) _ h
    unfold State.tellStop
    split
    · split
      · exact State.endPart_told ht _ _ _ _
      · exact .refl t
    · exact .refl t

/-- What FLR and DEV soft reset do to a span. -/
def State.clearSpan (s : State) (n : Nat) : State :=
  if s.spanFenced n then s.modSpan n (fun x => { x with bound := none, pier := { x.pier with launch := none, queue := [] } })
  else s.modSpan n Span.reset

/-- `t` with the spans of `s`. -/
def State.spansBack (s t : State) : State := { t with spans := s.spans }

theorem State.clearSpan_span (s : State) (n : Nat) : (s.clearSpan n).span n =
    if s.spanFenced n then { s.span n with bound := none, pier := { (s.span n).pier with launch := none, queue := [] } }
    else (s.span n).reset := by
  unfold State.clearSpan
  split
  · exact State.span_modSpan_self s n _
  · exact State.span_modSpan_self s n _

theorem eachUnit_clearSpan : EachUnit State.span State.spansBack State.clearSpan where
  twice _ _ _ := rfl
  none_ _ := rfl
  rest s n := by
    unfold State.clearSpan
    split
    · rfl
    · rfl
  others s n m hm := by
    unfold State.clearSpan
    split
    · exact State.span_modSpan_ne s _ hm
    · exact State.span_modSpan_ne s _ hm
  local_ s t n hr hn := by
    have hf : t.spanFenced n = s.spanFenced n := by
      have e := congrArg (fun v : State => v.spanFenced n) hr
      exact e
    rw [State.clearSpan_span, State.clearSpan_span, hn, hf]

/-- `t` with what the end of all work changes as it is in `s`. -/
def State.workBack (s t : State) : State :=
  { t with spans := s.spans, ctxs := s.ctxs, events := s.events, problems := s.problems, runs := s.runs, early := s.early,
           mesh := s.mesh, fe := s.fe, links := s.links }

/-- What FLR and DEV soft reset leave of contexts, runs, launches, events and problems. -/
theorem State.clearWork_takes {s : State} (h : (∀ r, r ∈ s.runs → r.sys = none) ∨ s.ExitsTake) :
    s.workBack s.clearWork = s ∧
    (s.clearWork.ctxs = [] ∧ s.clearWork.events = [] ∧ s.clearWork.problems = [] ∧ s.clearWork.runs = [] ∧
      s.clearWork.fe.barriers = []) ∧
    ∀ n, n < 16 → s.clearWork.span n = (s.clearSpan n).span n := by
  have ht := (State.tellStops_told h).rest
  have hw : s.clearWork = { spanIds.foldl State.clearSpan s.tellStops with
    ctxs := [], events := [], problems := [], runs := [], early := [],
    mesh := { (spanIds.foldl State.clearSpan s.tellStops).mesh with vc1 := [] },
    fe := { (spanIds.foldl State.clearSpan s.tellStops).fe with rrHigh := 0, rrNormal := 0, loads := 0, barriers := [] } } := rfl
  obtain ⟨hr, hs⟩ := eachUnit_clearSpan.fold spanIds (by decide) s.tellStops
  generalize spanIds.foldl State.clearSpan s.tellStops = u at hw hr hs
  generalize s.tellStops = t at ht hr hs
  rw [hw]
  refine ⟨?_, ⟨rfl, rfl, rfl, rfl, rfl⟩, fun n hn => ?_⟩
  · have e1 := congrArg s.workBack hr
    have e2 := congrArg s.workBack ht
    exact e1.trans e2
  · have hf : t.spanFenced n = s.spanFenced n := by
      have e := congrArg (fun v : State => v.spanFenced n) ht
      exact e
    have hspan : t.span n = s.span n := by
      have e := congrArg (fun v : State => v.span n) ht; exact e
    have e := hs n
    rw [if_pos (by simpa [spanIds] using hn)] at e
    refine e.trans ?_
    rw [State.clearSpan_span, State.clearSpan_span, hspan, hf]

/-- A FAULT that FLR and DEV soft reset end (Table 16.6). -/
def Flt.ends (f : Flt) : Bool := decide (f.state = 2) || (decide (f.state = 3) && decide (f.cause = 4))

/-- What leaving FAULT leaves. -/
theorem State.leaveFault_takes (s : State) :
    s.leaveFault.flt = { s.flt with recCount := 0, recs := [], state := if s.flt.ends then 0 else s.flt.state } ∧
    s.leaveFault.pwr = (if s.flt.ends then { s.pwr with aliveRun := true, aliveTick := s.now } else s.pwr) ∧
    { s.leaveFault with flt := s.flt, pwr := s.pwr, links := s.links } = s := by
  let t : State := { s with flt := { s.flt with recCount := 0, recs := [] } }
  by_cases he : s.flt.ends = true
  · let u : State := { t with flt := { t.flt with state := 0 }, pwr := { s.pwr with aliveRun := true, aliveTick := s.now } }
    have hl : s.leaveFault = (List.range 4).foldl State.recoverLink u := if_pos he
    obtain ⟨hr, -⟩ := eachUnit_recoverLink.fold (List.range 4) List.nodup_range u
    rw [hl]
    generalize (List.range 4).foldl State.recoverLink u = v at hr
    rw [if_pos he, if_pos he]
    refine ⟨?_, ?_, ?_⟩
    · have e := congrArg State.flt hr; exact e
    · have e := congrArg State.pwr hr; exact e
    · have e := congrArg (fun (x : State) => ({ x with flt := s.flt, pwr := s.pwr, links := s.links } : State)) hr
      exact e
  · have hl : s.leaveFault = t := if_neg he
    rw [hl, if_neg he, if_neg he]
    exact ⟨rfl, rfl, rfl⟩

/-- What is the same in FLR and DEV soft reset: of `s`, in `t`, with a cause of the reset. -/
structure FunctionReset (s : State) (cause : Nat) (t : State) : Prop where
  gone : t.ctxs = [] ∧ t.events = [] ∧ t.problems = [] ∧ t.runs = [] ∧ t.fe.barriers = []
  boot : t.boot = { s.boot with cause := cause, ready := false, resetting := s.boot.ready || s.boot.resetting }
  flt : t.flt = { s.flt with recCount := 0, recs := [], state := if s.flt.ends then 0 else s.flt.state }
  pwr : t.pwr = (if s.flt.ends then { s.pwr with aliveRun := true, aliveTick := s.now } else s.pwr)
  span : ∀ n, n < 16 → t.span n = (s.clearSpan n).span n
  rest : s.workBack { t with boot := s.boot, flt := s.flt, pwr := s.pwr } = s

/-- The end of all work, of a FAULT that it ends, and the start of the reset. -/
theorem State.softReset_takes {s : State} (h : (∀ r, r ∈ s.runs → r.sys = none) ∨ s.ExitsTake) (cause : Nat) :
    FunctionReset s cause (s.clearWork.leaveFault.setCause cause).startReset := by
  obtain ⟨cr, cg, cs⟩ := State.clearWork_takes h
  obtain ⟨lf, lp, lr⟩ := s.clearWork.leaveFault_takes
  generalize s.clearWork = u at cr cg cs lf lp lr
  generalize u.leaveFault = v at lf lp lr
  have hb : v.boot = s.boot := by
    have e := congrArg State.boot lr
    have e' := congrArg State.boot cr
    exact e.trans e'
  have hf : u.flt = s.flt := by have e := congrArg State.flt cr; exact e
  have hp : u.pwr = s.pwr := by have e := congrArg State.pwr cr; exact e
  have ht : u.now = s.now := by have e := congrArg State.now cr; exact e
  refine ⟨?_, ?_, ?_, ?_, fun n hn => ?_, ?_⟩
  · obtain ⟨c1, c2, c3, c4, c5⟩ := cg
    have e1 := congrArg State.ctxs lr
    have e2 := congrArg State.events lr
    have e3 := congrArg State.problems lr
    have e4 := congrArg State.runs lr
    have e5 := congrArg (fun x : State => x.fe.barriers) lr
    exact ⟨e1.trans c1, e2.trans c2, e3.trans c3, e4.trans c4, e5.trans c5⟩
  · show ({ v.boot with cause := cause, resetting := v.boot.ready || v.boot.resetting, ready := false } : Boot) = _
    rw [hb]
  · rw [← hf]; exact lf
  · rw [← hf, ← hp, ← ht]; exact lp
  · rw [← cs n hn]
    have e := congrArg (fun x : State => x.span n) lr
    exact e
  · have e1 := congrArg (fun x : State => s.workBack { x with boot := s.boot, flt := s.flt, pwr := s.pwr }) lr
    have e2 := congrArg (fun x : State => s.workBack { x with boot := s.boot, flt := s.flt, pwr := s.pwr }) cr
    exact e1.trans e2

/-- The function's registers do not matter to it. -/
theorem FunctionReset.of_pcie {s t : State} {cause : Nat} {p : Pcie} (k : FunctionReset { s with pcie := p } cause t) :
    FunctionReset s cause { t with pcie := s.pcie } := by
  refine ⟨k.gone, k.boot, k.flt, k.pwr, fun n hn => ?_, ?_⟩
  · refine (k.span n hn).trans ?_
    rw [State.clearSpan_span, State.clearSpan_span]
    rfl
  · have e := congrArg (fun x : State => ({ x with pcie := s.pcie } : State)) k.rest
    exact e

/-- What the reset of the function's work leaves of each span. -/
theorem State.clearSpan_leaves (s : State) (n : Nat) :
    ((s.clearSpan n).span n).bound = none ∧ ((s.clearSpan n).span n).pier.launch = none ∧
    ((s.clearSpan n).span n).pier.queue = [] ∧ ((s.clearSpan n).span n).eng.data = (s.eng n).data ∧
    ((s.clearSpan n).span n).shadow = (s.span n).shadow ∧ ((s.clearSpan n).span n).spares = (s.span n).spares ∧
    (s.spanFenced n = false → ((s.clearSpan n).span n).pier = pier0 ∧ ((s.clearSpan n).span n).texp = [] ∧
      ((s.clearSpan n).span n).cycles = 0) := by
  rw [State.clearSpan_span]
  cases hf : s.spanFenced n
  · exact ⟨rfl, rfl, rfl, rfl, rfl, rfl, fun _ => ⟨rfl, rfl, rfl⟩⟩
  · exact ⟨rfl, rfl, rfl, rfl, rfl, rfl, nofun⟩

/-- Settles O29. -/
theorem functionResets : Obligations.FunctionResets := by
  unfold Obligations.FunctionResets
  intro s h ends same
  have hs {cause : Nat} {t : State} (k : FunctionReset s cause t) {p : Pcie} : same cause { t with pcie := p } := by
    obtain ⟨c1, c2, c3, c4, c5⟩ := k.gone
    refine ⟨c1, c2, c3, c4, c5, k.boot, k.flt, k.pwr, fun n hn => ?_, ?_⟩
    · have e := s.clearSpan_leaves n
      rw [← k.span n hn] at e
      exact e
    · have e := congrArg (fun x : State => ({ x with pcie := s.pcie } : State)) k.rest
      exact e
  have hp (u : State) (k : (∀ r, r ∈ u.runs → r.sys = none) ∨ u.ExitsTake) (cause : Nat) :
      (u.clearWork.leaveFault.setCause cause).startReset.pcie = u.pcie := by
    have e := congrArg State.pcie (State.softReset_takes k cause).rest
    exact e
  have h₀ : (∀ r, r ∈ s.resetFunction.runs → r.sys = none) ∨ s.resetFunction.ExitsTake := h
  refine ⟨fun hr => ⟨s.functionReset, congrArg goOn (if_pos hr), ?_, ?_⟩, fun hb => ⟨s.softReset, congrArg goOn (if_pos hb), ?_, hp s h 4⟩⟩
  · exact hs (FunctionReset.of_pcie (State.softReset_takes h₀ 3))
  · have e := hp s.resetFunction h₀ 3
    show ({ pcie0 with speed := _, width := _, flit := _, aer := _ } : Pcie) = _
    rw [e]
    rfl
  · exact hs (State.softReset_takes h 4)

/-! ### Span reset and march tests (O30) -/

/-- A span that is not fenced takes a reset where nothing runs there or is to run, and otherwise notes that it was refused. -/
theorem execSpanReset_takes {s : State} (n : Fin 16) (hb : s.barOk = true) (hf : s.spanFenced n.val = false) :
    exec (.spanReset n) s = .next (if s.spanIdle n.val && decide ((s.span n.val).marchState ≠ 1) then s.modSpan n.val Span.reset
      else s.modSpan n.val (fun x => { x with resetRefused := true })) := by
  show execSpanReset n s = _
  rw [execSpanReset, if_pos hb, State.spanReset, if_neg (by simp [hf])]

/-- What the zeroing of a span's arrays leaves. -/
theorem State.zeroSpan_mem (s : State) (n a : Nat) : memGet (s.zeroSpan n).mem a =
    if spanRegion n ≤ a ∧ a < spanRegion n + scratchSize then 0#8 else memGet s.mem a := by
  have e : (s.zeroSpan n).mem =
      s.mem.filter (fun c => !(decide (spanRegion n ≤ c.1) && decide (c.1 < spanRegion n + scratchSize))) := rfl
  rw [e, memGet, Store.get_filter _ (fun k => !(decide (spanRegion n ≤ k) && decide (k < spanRegion n + scratchSize)))]
  by_cases h : spanRegion n ≤ a ∧ a < spanRegion n + scratchSize
  · simp [h, memDefault]
  · have h' : (!(decide (spanRegion n ≤ a) && decide (a < spanRegion n + scratchSize))) = true := by
      rw [Bool.not_eq_true', Bool.eq_false_iff]
      simpa using h
    rw [if_pos h', if_neg h]
    rfl

/-- The request of a march test starts it where nothing runs on the span or is to run. -/
theorem execMarchTestRequest_starts {s : State} (n : Fin 16) (preserve : Bool) (hb : s.barOk = true)
    (hf : s.spanFenced n.val = false) (hi : s.spanIdle n.val = true) (hm : (s.span n.val).marchState ≠ 1) :
    let t := s.modSpan n.val (fun x => { x with marchPreserve := preserve })
    exec (.marchTestRequest n preserve) s = .next
      ((if preserve then t else t.zeroSpan n.val).modSpan n.val (fun x => { x with marchState := 1, marchKeep := x.marchPreserve })) := by
  intro t
  have ht : t.span n.val = { s.span n.val with marchPreserve := preserve } := State.span_modSpan_self s n.val _
  have hi' : t.spanIdle n.val = true := by
    have e : t.spanIdle n.val = s.spanIdle n.val := by
      unfold State.spanIdle
      rw [ht]
      rfl
    rw [e, hi]
  have hf' : t.spanFenced n.val = false := hf
  show execMarchTestRequest n preserve s = _
  rw [execMarchTestRequest, if_pos (by simp [hb, hf])]
  show goOn (t.marchRequest n.val) = _
  rw [State.marchRequest, if_neg (by simp [hf']), if_pos (by simp [hi', ht, hm]), ht]

/-- What the start of a march test makes of its span, in the mode that keeps the arrays. -/
theorem State.marchStart_preserve (s : State) (n : Nat) :
    SpanOnly s ((s.modSpan n (fun x => { x with marchPreserve := true })).modSpan n (fun x =>
      { x with marchState := 1, marchKeep := x.marchPreserve })) n
      { s.span n with marchPreserve := true, marchState := 1, marchKeep := true } := by
  have h := (SpanOnly.modSpan s n (fun x => { x with marchPreserve := true })).trans (SpanOnly.modSpan _ n (fun x =>
    { x with marchState := 1, marchKeep := x.marchPreserve }))
  rwa [State.span_modSpan_self] at h

/-- The span whose arrays are zero. -/
def Span.zeroed (x : Span) : Span :=
  { x with eng := { x.eng with data := spanData0 }, shadow := [], snap := [], acc := [], poison := [], tileBuf := [] }

/-- What the start of a march test makes of its span, in the destructive mode. -/
theorem State.marchStart_destroy (s : State) (n : Nat) :
    let u := ((s.modSpan n (fun x => { x with marchPreserve := false })).zeroSpan n).modSpan n (fun x =>
      { x with marchState := 1, marchKeep := x.marchPreserve })
    u.span n = { (s.span n).zeroed with marchPreserve := false, marchState := 1, marchKeep := false } ∧
    (∀ m, m ≠ n → u.span m = s.span m) ∧
    { u with spans := s.spans, mem := s.mem, poison := s.poison, problems := s.problems } = s ∧
    u.problems = s.problems.map (fun p => p.zeroedIn n (spanRegion n)) ∧
    ∀ a, memGet u.mem a = if spanRegion n ≤ a ∧ a < spanRegion n + scratchSize then 0#8 else memGet s.mem a := by
  have hz (t : State) (m : Nat) : (t.zeroSpan n).span m = if m = n then (t.span n).zeroed else t.span m :=
    State.span_modSpan _ n m Span.zeroed
  have hs (m : Nat) : ((s.modSpan n (fun x => { x with marchPreserve := false })).zeroSpan n).span m =
      if m = n then { (s.span n).zeroed with marchPreserve := false } else s.span m := by
    rw [hz]
    split
    · rw [State.span_modSpan_self]; rfl
    next h => exact State.span_modSpan_ne s _ h
  have hr : { (s.modSpan n (fun x => { x with marchPreserve := false })).zeroSpan n with
      spans := s.spans, mem := s.mem, poison := s.poison, problems := s.problems } = s := rfl
  have hp : ((s.modSpan n (fun x => { x with marchPreserve := false })).zeroSpan n).problems =
      s.problems.map (fun p => p.zeroedIn n (spanRegion n)) := rfl
  have hm (a : Nat) := State.zeroSpan_mem (s.modSpan n (fun x => { x with marchPreserve := false })) n a
  generalize (s.modSpan n (fun x => { x with marchPreserve := false })).zeroSpan n = v at hs hr hp hm ⊢
  refine ⟨?_, fun m h => ?_, hr, hp, hm⟩
  · rw [State.span_modSpan_self, hs, if_pos rfl]
  · rw [State.span_modSpan_ne v _ h, hs, if_neg h]

/-- Settles O30. -/
theorem spanResetAndMarch : Obligations.SpanResetAndMarch := by
  intro n s
  refine ⟨fun hb hf => ?reset, fun hf => ?fenced, fun preserve hb hf hi hm => ?request, ?done⟩
  case reset =>
    intro ok
    refine ⟨_, execSpanReset_takes n hb hf, fun hok => ?_, fun hok => ?_⟩
    · rw [if_neg (by show ¬ ok = true; simp [hok])]
      exact SpanOnly.modSpan s n.val _
    · rw [if_pos (by show ok = true; exact hok)]
      exact SpanOnly.modSpan s n.val _
  case fenced =>
    show execSpanReset n s = _
    rw [execSpanReset, State.spanReset, if_pos hf, ite_self]
  case request =>
    have he := execMarchTestRequest_starts n preserve hb hf hi hm
    cases preserve with
    | false =>
      obtain ⟨h1, h2, h3, h4, h5⟩ := s.marchStart_destroy n.val
      refine ⟨_, he, ?_⟩
      rw [if_neg Bool.false_ne_true]
      generalize ((s.modSpan n.val (fun x => { x with marchPreserve := false })).zeroSpan n.val).modSpan n.val (fun x =>
        { x with marchState := 1, marchKeep := x.marchPreserve }) = u at h1 h2 h3 h4 h5
      rw [State.eng, h1]
      exact ⟨rfl, rfl, rfl, h2, h3, nofun, fun _ => ⟨rfl, rfl, rfl, rfl, rfl, h4, h5⟩⟩
    | true =>
      obtain ⟨h1, h2, h3⟩ := s.marchStart_preserve n.val
      refine ⟨_, he, ?_⟩
      rw [if_pos rfl]
      generalize (s.modSpan n.val (fun x => { x with marchPreserve := true })).modSpan n.val (fun x =>
        { x with marchState := 1, marchKeep := x.marchPreserve }) = u at h1 h2 h3
      have hm : u.mem = s.mem := by have e := congrArg State.mem h3; exact e
      have hq : u.poison = s.poison := by have e := congrArg State.poison h3; exact e
      have hp : u.problems = s.problems := by have e := congrArg State.problems h3; exact e
      rw [State.eng, h1]
      refine ⟨rfl, rfl, rfl, h2, ?_, fun _ => ⟨hm, rfl, hp⟩, nofun⟩
      rw [← hm, ← hq, ← hp]
      exact h3
  case done =>
    intro fs hr hf hm mine out
    refine ⟨_, ?_, rfl⟩
    have hmine : fs.filter (fun f => f.span.val = n.val) = mine := by simp only [mine, Fin.ext_iff]
    show execMarchTestDone n fs s = _
    rw [execMarchTestDone, if_pos (by simp [hr, hf, hm]), State.marchResult, hmine]

end Sys2Proof.Machine
end

section
/-! PROOFS. What the fence of a unit changes: its own bit, and what is lost with it.
-/

namespace Sys2Proof.Machine

/-! ### What is lost with memory or a port (R394, R398) -/

/-- `t` with what a loss of memory changes as it is in `s`. -/
def State.lossBack (s t : State) : State :=
  { t with problems := s.problems, runs := s.runs, fe := s.fe, pcie := s.pcie, bus := s.bus, ctxs := s.ctxs }

/-- `t` is `s` but for problems, runs, contexts and what tells of them. -/
def State.Lossy (s t : State) : Prop := s.lossBack t = s

theorem State.Lossy.refl (s : State) : s.Lossy s := rfl

theorem State.Lossy.trans {s t u : State} (h : s.Lossy t) (k : t.Lossy u) : s.Lossy u := by
  have e := congrArg s.lossBack k
  exact Eq.trans e h

theorem State.foldl_lossy {α : Type} {f : State → α → State} (hf : ∀ (s : State) a, s.Lossy (f s a)) (l : List α) (s : State) :
    s.Lossy (l.foldl f s) := by
  induction l generalizing s with
  | nil => exact .refl s
  | cons a l ih => exact (hf s a).trans (ih _)

theorem State.raiseVector_lossy (v : Nat) (s : State) : s.Lossy (s.raiseVector v) := by
  have e := congrArg s.lossBack (State.raiseVector_rest v s)
  exact e

theorem State.notifyLost_lossy (s : State) (id : Nat) : s.Lossy (s.notifyLost id) :=
  State.Lossy.trans (t := { s with fe := { s.fe with notify := true, lostId := id } }) rfl (State.raiseVector_lossy _ _)

theorem State.loseProblems_lossy (s : State) (pick : Problem → Bool) : s.Lossy (s.loseProblems pick) := by
  refine State.Lossy.trans (t := { s with problems := s.problems.map (fun p => if pick p then { p with lost := true } else p) }) rfl ?_
  refine State.foldl_lossy (fun t id => ?_) _ _
  exact State.Lossy.trans (t := t.stopRun (id % 64) (fun t => { t with stop := true })) rfl (State.notifyLost_lossy _ id)

theorem State.stopCtx_lossy (s : State) (c : Nat) : s.Lossy (s.stopCtx c) := by
  unfold State.stopCtx
  split
  · exact State.Lossy.trans (t := s.modCtx c (fun x => { x with state := .stopped, fetched := [] })) rfl (State.raiseVector_lossy _ _)
  · rfl
  · rfl

theorem State.stopCtxsIn_lossy (s : State) (pick : Nat → Bool) : s.Lossy (s.stopCtxsIn pick) := by
  refine State.foldl_lossy (fun t cx => ?_) _ _
  exact State.Lossy.trans (t := t.setLastStatus cx.1 0x11) rfl (State.stopCtx_lossy _ _)

/-- The fence of memory stop `n`, which is not fenced: its bit, and what is lost with it. -/
theorem State.fenceMem_lossy {s : State} {n : Nat} (h : s.memFenced n = false) :
    State.Lossy { s with flt := { s.flt with mems := s.flt.mems ||| (1#8 <<< n) } } (s.fenceMem n) := by
  rw [State.fenceMem, if_neg (by simp [h])]
  extract_lets a t rl u
  have hu : t.Lossy u := (State.loseProblems_lossy t _).trans rfl
  exact hu.trans (State.stopCtxsIn_lossy u _)

/-- The fence of CXL port `p`, which is not fenced: its bit, CXL_PERST_N, and what is lost with it. -/
theorem State.fenceCxl_lossy {s : State} {p : Nat} (h : s.cxlFenced p = false) :
    State.Lossy { s with flt := { s.flt with cxls := s.flt.cxls ||| (1#2 <<< p) },
                         pwr := { s.pwr with cxlPerst := s.pwr.cxlPerst ||| (1#2 <<< p) } } (s.fenceCxl p) := by
  rw [State.fenceCxl, if_neg (by simp [h])]
  extract_lets f w t v u len
  show u.Lossy _
  split
  · exact (State.loseProblems_lossy _ _).trans (State.stopCtxsIn_lossy _ _)
  · exact .refl u

/-! ### What is lost with a span (R434-R439) -/

/-- `t` with what the fence of a span changes as it is in `s`. -/
def State.spanLossBack (s t : State) : State :=
  { t with problems := s.problems, runs := s.runs, fe := s.fe, pcie := s.pcie, bus := s.bus, ctxs := s.ctxs, ckpts := s.ckpts,
           spans := s.spans }

/-- `t` is `s` but for span `n`, for problems, runs, checkpoints, contexts and what tells of them. -/
structure State.SpanLossy (n : Nat) (s t : State) : Prop where
  rest : s.spanLossBack t = s
  others : ∀ m, m ≠ n → t.span m = s.span m

section
variable {n : Nat}

theorem State.SpanLossy.refl (s : State) : State.SpanLossy n s s := ⟨rfl, fun _ _ => rfl⟩

theorem State.SpanLossy.trans {s t u : State} (h : State.SpanLossy n s t) (k : State.SpanLossy n t u) : State.SpanLossy n s u := by
  refine ⟨?_, fun m hm => (k.others m hm).trans (h.others m hm)⟩
  have e := congrArg s.spanLossBack k.rest
  exact Eq.trans e h.rest

theorem State.Lossy.spanLossy {s t : State} (h : s.Lossy t) : State.SpanLossy n s t := by
  refine ⟨?_, fun m _ => ?_⟩
  · have e := congrArg s.spanLossBack h
    exact e
  · have e := congrArg (fun x : State => x.span m) h
    exact e

theorem SpanOnly.spanLossy {s t : State} {x : Span} (h : SpanOnly s t n x) : State.SpanLossy n s t := by
  refine ⟨?_, h.others⟩
  have e := congrArg s.spanLossBack h.rest
  exact e

theorem State.foldl_spanLossy {α : Type} {f : State → α → State} (hf : ∀ s a, State.SpanLossy n s (f s a)) (l : List α) (s : State) :
    State.SpanLossy n s (l.foldl f s) := by
  induction l generalizing s with
  | nil => exact .refl s
  | cons a l ih => exact (hf s a).trans (ih _)

theorem State.pierStop_spanLossy (s : State) (code : Nat) (owe : Bool) : State.SpanLossy n s (s.pierStop n code owe) := by
  unfold State.pierStop
  extract_lets p evrecs t
  split
  · have h : State.SpanLossy n s t := (SpanOnly.modPier s n _).spanLossy
    split
    · split
      · exact h.trans (State.Lossy.spanLossy rfl)
      · exact h
    · exact h
  · exact .refl s

theorem State.refuseLaunches_spanLossy (s : State) : State.SpanLossy n s (s.refuseLaunches n) := by
  unfold State.refuseLaunches
  extract_lets queued waiting t fail u
  have hf : ∀ st l, State.SpanLossy n st (fail st l) := by
    intro st l
    simp only [fail]
    split
    · exact State.Lossy.spanLossy rfl
    · exact .refl st
  have ht : State.SpanLossy n s t := (SpanOnly.modPier s n _).spanLossy
  exact (ht.trans (State.foldl_spanLossy hf _ _)).trans (State.foldl_spanLossy (fun st w => hf st _) _ _)

theorem State.replaceIdle_lossy (s : State) (n : Nat) : s.Lossy (s.replaceIdle n) := by
  refine State.foldl_lossy (fun t id => ?_) _ _
  split
  · exact .refl t
  · split
    · exact .refl t
    · split
      · rfl
      · exact State.Lossy.trans (t := t.freeProblem id) rfl (State.notifyLost_lossy _ id)

/-- The fence of span `n`, which is not fenced: its bit, and what is lost with it. -/
theorem State.fenceSpan_spanLossy {s : State} (h : s.spanFenced n = false) :
    State.SpanLossy n { s with flt := { s.flt with spans := s.flt.spans ||| (1#16 <<< n) } } (s.fenceSpan n) := by
  rw [State.fenceSpan, if_neg (by simp [h])]
  extract_lets f shown base s1 s2 f3 s3 s4 s5
  have h1 : State.SpanLossy n s s1 := ⟨rfl, fun _ _ => rfl⟩
  have h2 : State.SpanLossy n s s2 := by
    refine h1.trans (State.SpanLossy.trans (t := { s1 with runs := s1.runs.map (s1.fenceInRun n) }) ⟨rfl, fun _ _ => rfl⟩ ?_)
    exact (SpanOnly.modEng _ n _).spanLossy.trans (SpanOnly.modSpan _ n _).spanLossy
  clear_value s2
  have hf : s2.flt = s.flt := by have e := congrArg State.flt h2.rest; exact e
  have h3 : State.SpanLossy n { s with flt := { s.flt with spans := s.flt.spans ||| (1#16 <<< n) } } s3 := by
    refine ⟨?_, h2.others⟩
    have e := congrArg (fun x : State => ({ x with flt := { s.flt with spans := s.flt.spans ||| (1#16 <<< n) } } : State)) h2.rest
    rw [← hf] at e ⊢
    exact e
  clear_value s3
  have h4 := h3.trans ((State.pierStop_spanLossy s3 5 false).trans (SpanOnly.modPier _ n (fun p => { p with code := 5 })).spanLossy)
  have h5 := h4.trans (SpanOnly.modSpan s4 n (fun x => { x with fencePier := x.pier.statusWord })).spanLossy
  exact (h5.trans (State.refuseLaunches_spanLossy _)).trans (State.replaceIdle_lossy _ n).spanLossy

end

end Sys2Proof.Machine
end

section
/-! PROOFS. The boot from stage 5 to ready: what each stage leaves of the fences, the interfaces, the links and the ports.
-/

namespace Sys2Proof.Machine

/-! ### Raising a source whose fence is fixed (R423) -/

/-- Entering a raise leaves the fences. -/
theorem State.enterRaise_fences (s : State) (b : BlockId) (k : Nat) (m : Bool) (d : Nat) :
    (s.enterRaise b k m d).flt.spans = s.flt.spans ∧ (s.enterRaise b k m d).flt.mems = s.flt.mems ∧
    (s.enterRaise b k m d).flt.cxls = s.flt.cxls ∧ (s.enterRaise b k m d).flt.startup = s.flt.startup := by
  rw [(s.enterRaise_takes b k m d).2]
  repeat' split
  all_goals exact ⟨rfl, rfl, rfl, rfl⟩

/-- `t` with the fault state, the histories and all that a raise can change besides the units as it is in `s`. -/
def State.raiseBack (s t : State) : State :=
  { s.lossBack t with blocks := s.blocks, flt := s.flt }

theorem State.enterRaise_raiseBack (s : State) (b : BlockId) (k : Nat) (m : Bool) (d : Nat) :
    s.raiseBack (s.enterRaise b k m d) = s := by
  have e := congrArg s.raiseBack (s.enterRaise_rest b k m d)
  exact e

theorem State.raiseBack_of_lossy {s t u : State} (h : s.raiseBack t = s) (k : t.Lossy u) : s.raiseBack u = s := by
  have e := congrArg s.raiseBack k
  exact Eq.trans e h

/-! ### March tests of the boot (O31) -/

theorem getLsbD_or_one {w : Nat} (x : BitVec w) {n m : Nat} (hm : m < w) :
    (x ||| (1#w <<< n)).getLsbD m = (x.getLsbD m || decide (m = n)) := by
  have h : (1#w <<< n).getLsbD m = decide (m = n) := by
    rw [BitVec.getLsbD_shiftLeft, BitVec.getLsbD_one]
    by_cases e : m = n
    · subst e; simp; omega
    · by_cases hlt : m < n
      · simp [hlt, e]
      · have h0 : m - n ≠ 0 := by omega
        simp [h0, e]
  rw [BitVec.getLsbD_or, h]

/-- The result of a march test fences its span where spares run out, and no other. -/
theorem State.marchResult_takes (s : State) {n : Nat} (hn : n < 16) (fs : List MarchFinding) :
    (s.marchResult n fs).boot = s.boot ∧ (∀ m, m ≠ n → (s.marchResult n fs).span m = s.span m) ∧
    (s.marchResult n fs).flt.startup = s.flt.startup ∧
    ∀ m, m < 16 → (s.marchResult n fs).spanFenced m =
      (s.spanFenced m || (decide (m = n) && (s.span n).sparesOut (fs.filter (fun f => f.span.val = n)))) := by
  unfold State.marchResult
  extract_lets mine out t
  have ht : SpanOnly s t n _ := SpanOnly.modSpan s n _
  have hb : t.boot = s.boot := rfl
  have hf : t.flt = s.flt := rfl
  have ho := ht.others
  clear_value t
  by_cases hout : out = true
  · rw [if_pos hout]
    have hs : t.raiseMandatory (spnBlock n) 1 0 = (t.enterRaise (spnBlock n) 1 true 0).fenceSpan n := by
      have e : (Fin.ofNat 16 n).val = n := Nat.mod_eq_of_lt hn
      show State.fenceSpan (Fin.ofNat 16 n).val _ = _
      rw [e]
    obtain ⟨f1, -, -, f4⟩ := t.enterRaise_fences (spnBlock n) 1 true 0
    have hr := t.enterRaise_rest (spnBlock n) 1 true 0
    rw [hs]
    generalize t.enterRaise (spnBlock n) 1 true 0 = u at f1 f4 hr
    have ub : u.boot = t.boot := by have e := congrArg State.boot hr; exact e
    have us (m : Nat) : u.span m = t.span m := by have e := congrArg (fun x : State => x.span m) hr; exact e
    have uf (m : Nat) : u.spanFenced m = s.spanFenced m := by simp only [State.spanFenced, f1, hf]
    by_cases hn' : u.spanFenced n = true
    · have e : u.fenceSpan n = u := if_pos hn'
      rw [e]
      refine ⟨ub.trans hb, fun m hm => (us m).trans (ho m hm), by rw [f4, hf], fun m hm => ?_⟩
      rw [uf m]
      by_cases e : m = n
      · rw [e, ← uf n, hn', Bool.true_or]
      · simp [e]
    · obtain ⟨kr, ko⟩ := State.fenceSpan_spanLossy (s := u) (n := n) (by simpa using hn')
      have kb : (u.fenceSpan n).boot = u.boot := by have e := congrArg State.boot kr; exact e
      have kf : (u.fenceSpan n).flt = { u.flt with spans := u.flt.spans ||| (1#16 <<< n) } := by
        have e := congrArg State.flt kr; exact e
      refine ⟨kb.trans (ub.trans hb), fun m hm => (ko m hm).trans ((us m).trans (ho m hm)), ?_, fun m hm => ?_⟩
      · rw [kf]; exact f4.trans (by rw [hf])
      · rw [State.spanFenced, kf, getLsbD_or_one _ hm, ← State.spanFenced, uf m]
        have e : (s.span n).sparesOut (fs.filter (fun f => f.span.val = n)) = true := hout
        rw [e, Bool.and_true]
  · rw [if_neg hout]
    have e : (s.span n).sparesOut (fs.filter (fun f => f.span.val = n)) = false := by simpa using hout
    refine ⟨hb, ho, by rw [hf], fun m hm => ?_⟩
    rw [e, Bool.and_false, Bool.or_false, State.spanFenced, hf, ← State.spanFenced]

/-- What MARCH_TEST does for one span: the result of its test, with the fence noted as at start-up. -/
def State.marchAtBoot (fs : List MarchFinding) (s : State) (n : Nat) : State :=
  let t := s.marchResult n fs
  if t.spanFenced n && !s.spanFenced n then t.withFlt { t.flt with startup := t.flt.startup ||| (1#16 <<< n) } else t

theorem State.marchAtBoot_takes (fs : List MarchFinding) (s : State) {n : Nat} (hn : n < 16) :
    (s.marchAtBoot fs n).boot = s.boot ∧ (∀ m, m ≠ n → (s.marchAtBoot fs n).span m = s.span m) ∧
    (∀ m, m < 16 → (s.marchAtBoot fs n).spanFenced m =
      (s.spanFenced m || (decide (m = n) && (s.span n).sparesOut (fs.filter (fun f => f.span.val = n))))) ∧
    ∀ m, m < 16 → (s.marchAtBoot fs n).flt.startup.getLsbD m =
      (s.flt.startup.getLsbD m || ((s.marchAtBoot fs n).spanFenced m && !s.spanFenced m)) := by
  obtain ⟨hb, ho, hs, hf⟩ := s.marchResult_takes hn fs
  unfold State.marchAtBoot
  extract_lets t
  change t.boot = s.boot at hb
  change ∀ m, m ≠ n → t.span m = s.span m at ho
  change t.flt.startup = s.flt.startup at hs
  change ∀ m, m < 16 → t.spanFenced m = _ at hf
  clear_value t
  have same (m : Nat) (hm : m < 16) (hne : m ≠ n) : t.spanFenced m = s.spanFenced m := by rw [hf m hm]; simp [hne]
  split
  next hc =>
    refine ⟨hb, ho, hf, fun m hm => ?_⟩
    show (t.flt.startup ||| (1#16 <<< n)).getLsbD m = (s.flt.startup.getLsbD m || (t.spanFenced m && !s.spanFenced m))
    rw [getLsbD_or_one _ hm, hs]
    by_cases e : m = n
    · subst e; rw [hc]; simp
    · rw [same m hm e]; simp [e]
  next hc =>
    refine ⟨hb, ho, hf, fun m hm => ?_⟩
    rw [hs]
    by_cases e : m = n
    · subst e
      have hc' : (t.spanFenced m && !s.spanFenced m) = false := by simpa using hc
      rw [hc', Bool.or_false]
    · rw [same m hm e]; simp

/-- A bit that notes a fence when it comes notes the fences of two steps. -/
theorem bits_step : ∀ st f a b : Bool, (st || ((f || a) && !f) || ((f || a || b) && !(f || a))) = (st || ((f || a || b) && !f)) := by
  decide

/-- What MARCH_TEST does for several spans. -/
theorem marchesAtBoot_take (fs : List MarchFinding) : ∀ (l : List Nat), l.Nodup → (∀ n ∈ l, n < 16) → ∀ s : State,
    (l.foldl (State.marchAtBoot fs) s).boot = s.boot ∧ (∀ m, m ∉ l → (l.foldl (State.marchAtBoot fs) s).span m = s.span m) ∧
    (∀ m, m < 16 → (l.foldl (State.marchAtBoot fs) s).spanFenced m =
      (s.spanFenced m || (decide (m ∈ l) && (s.span m).sparesOut (fs.filter (fun f => f.span.val = m))))) ∧
    ∀ m, m < 16 → (l.foldl (State.marchAtBoot fs) s).flt.startup.getLsbD m =
      (s.flt.startup.getLsbD m || ((l.foldl (State.marchAtBoot fs) s).spanFenced m && !s.spanFenced m))
  | [], _, _, s => ⟨rfl, fun _ _ => rfl, fun m _ => by simp, fun m _ => by simp⟩
  | n :: l, hl, hlt, s => by
    obtain ⟨hn, hl⟩ := List.nodup_cons.mp hl
    obtain ⟨b1, o1, f1, u1⟩ := s.marchAtBoot_takes fs (hlt n List.mem_cons_self)
    obtain ⟨b2, o2, f2, u2⟩ := marchesAtBoot_take fs l hl (fun m hm => hlt m (List.mem_cons_of_mem _ hm)) (s.marchAtBoot fs n)
    rw [List.foldl_cons]
    generalize s.marchAtBoot fs n = t at b1 o1 f1 u1 b2 o2 f2 u2
    generalize l.foldl (State.marchAtBoot fs) t = u at b2 o2 f2 u2
    refine ⟨b2.trans b1, fun m hm => ?_, fun m hm => ?_, fun m hm => ?_⟩
    · have h := not_or.mp (mt List.mem_cons.mpr hm)
      exact (o2 m h.2).trans (o1 m h.1)
    · rw [f2 m hm, f1 m hm]
      by_cases e : m = n
      · subst e; simp [hn]
      · rw [o1 m e]; simp [e]
    · rw [u2 m hm, u1 m hm, f2 m hm, f1 m hm]
      exact bits_step _ _ _ _

/-- Settles O31. -/
theorem bootStages5To8 : Obligations.BootStages5To8 := by
  refine ⟨fun h width s ho hp hf hs => ?_, fun h width s hs => ?_, fun pass id s hs => ?_, fun fs bad s hs => ?_,
    fun main fallback s hs => ?_⟩
  · exact if_pos (by simp [ho, hp, hf, hs])
  · exact if_neg (by simp [hs])
  · show execKnownAnswerTests pass id s = _
    rw [execKnownAnswerTests, if_pos hs]
    cases pass <;> rfl
  · obtain ⟨hb, -, hfen, hst⟩ := marchesAtBoot_take fs spanIds (by decide) (by simp [spanIds]) s
    have he : exec (.marchTest fs bad) s = .next (if bad then ((spanIds.foldl (State.marchAtBoot fs) s).failBoot 7).retryRequest true
        else (spanIds.foldl (State.marchAtBoot fs) s).setStage 8) := if_pos hs
    generalize spanIds.foldl (State.marchAtBoot fs) s = u at hb hfen hst he
    have hmem (n : Nat) (hn : n < 16) : decide (n ∈ spanIds) = true := by simpa [spanIds] using hn
    cases bad with
    | false =>
      refine ⟨u.setStage 8, he, ?_, fun n hn => ?_, hst⟩
      · show ({ u.boot with stage := 8 } : Boot) = _
        rw [hb]; rfl
      · have e := hfen n hn
        rw [hmem n hn, Bool.true_and] at e
        exact e
    | true =>
      refine ⟨u.failBoot 7, he, ?_, fun n hn => ?_, hst⟩
      · show ({ u.boot with failed := true, failCode := 7 } : Boot) = _
        rw [hb]; rfl
      · have e := hfen n hn
        rw [hmem n hn, Bool.true_and] at e
        exact e
  · refine ⟨_, ?_, rfl⟩
    show execEntropyStartupTest main fallback s = _
    rw [execEntropyStartupTest, if_pos hs]
    cases healthFails false 4096 main.toNat <;> cases healthFails true 4096 fallback.toNat <;> rfl

end Sys2Proof.Machine
end

section
/-! PROOFS. The boot from stage 9 to ready: which slots boot, the DRBG, and what the last stages make of links, interfaces and
ports.
-/

namespace Sys2Proof.Machine

/-! ### The slot that boots (R459) -/

/-- The slot that boots is accepted, and has the higher version where both are. -/
theorem Sec.bootSlot_takes {x : Sec} {k : ObjKind} {c0 c1 : ObjChecks} {i : Nat} (h : x.bootSlot k c0 c1 = some i) :
    (i = 0 ∧ x.accepts k 0 c0 = true ∨ i = 1 ∧ x.accepts k 1 c1 = true) ∧
    (x.accepts k 0 c0 = true → x.accepts k 1 c1 = true → (i = 1 ↔ x.slotVersion k 0 < x.slotVersion k 1)) := by
  unfold Sec.bootSlot at h
  split at h
  next h0 h1 =>
    obtain rfl := Option.some.inj h
    by_cases hv : x.slotVersion k 0 < x.slotVersion k 1
    · simp [hv, h1]
    · simp [hv, h0]
  next h0 h1 =>
    obtain rfl := Option.some.inj h
    exact ⟨.inl ⟨rfl, h0⟩, fun _ h => nomatch h1.symm.trans h⟩
  next h0 h1 =>
    obtain rfl := Option.some.inj h
    exact ⟨.inr ⟨rfl, h1⟩, fun h => nomatch h0.symm.trans h⟩
  next => cases h

/-- No slot below its anti-rollback counter is accepted. -/
theorem Sec.accepts_counter {x : Sec} {k : ObjKind} {slot : Nat} {c : ObjChecks} (h : x.accepts k slot c = true) :
    x.counter k ≤ x.slotVersion k slot := by
  simp only [Sec.accepts, Bool.and_eq_true, decide_eq_true_eq] at h
  exact h.2

/-! ### The DRBG (R447, R450) -/

/-- The RNG has failed then. -/
theorem State.rngFail_rng (s : State) : s.rngFail.sec.rng = 2 :=
  State.raise_keep (closed_of_boot_sec (Q := fun _ x => x.rng = 2) (fun _ _ _ _ h => h)) _ _ _ rfl

/-- The two draws of an instantiation take 24 free words. -/
theorem State.samples_twice (s : State) :
    (s.samples 1024).2 = { s with free := s.free + 16 } ∧ ((s.samples 1024).2.samples 512).2 = { s with free := s.free + 24 } :=
  ⟨rfl, rfl⟩

/-- Good samples seed the DRBG, from which the 32 bytes for wrapping keys are drawn. -/
theorem State.instantiate_good {s : State} (h0 : s.sec.rng = 0)
    (hb : s.sec.badSamples ((s.samples 1024).1 ++ ((s.samples 1024).2.samples 512).1) = false) :
    let d := Drbg.instantiate (s.samples 1024).1 ((s.samples 1024).2.samples 512).1 s.sec.cfg.personal
    let w := Drbg.requests 1 32 d
    s.instantiate = { s with
      free := s.free + 24,
      sec := { s.sec with rng := 1, gens := 1, seedTick := s.now, drbg := w.2, wrapSeed := BitVec.ofNat 256 (leNat w.1) } } := by
  intro d w
  have hs : s.seedDrbg s.sec.cfg.personal =
      { s with free := s.free + 24, sec := { s.sec with drbg := d, gens := 0, seedTick := s.now } } := by
    unfold State.seedDrbg
    dsimp only
    rw [if_neg (by simp [hb])]
    rfl
  unfold State.instantiate
  rw [if_pos h0, hs]
  dsimp only
  rw [if_neg (by simp [h0])]
  rfl

/-- Bad samples make the RNG fail. -/
theorem State.instantiate_bad {s : State} (h0 : s.sec.rng = 0)
    (hb : s.sec.badSamples ((s.samples 1024).1 ++ ((s.samples 1024).2.samples 512).1) = true) :
    s.instantiate = { s with free := s.free + 24 }.rngFail := by
  have hs : s.seedDrbg s.sec.cfg.personal = { s with free := s.free + 24 }.rngFail := by
    unfold State.seedDrbg
    dsimp only
    rw [if_pos hb]
    rfl
  unfold State.instantiate
  rw [if_pos h0, hs]
  dsimp only
  rw [if_pos (State.rngFail_rng _)]

/-! ### Image and configuration (R459, R489) -/

/-- Severities are registers of fault interfaces. -/
theorem State.applySeverities_rest (s : State) (l : List (BlockId × Nat × Nat)) :
    { s.applySeverities l with blocks := s.blocks } = s := by
  refine foldl_keep (P := fun t => { t with blocks := s.blocks } = s) (fun t q ht => ?_) l s rfl
  unfold State.doSetSeverity
  by_cases h1 : sourceCount q.1 ≤ q.2.1
  · simpa only [if_pos h1] using ht
  · by_cases h2 : fixedSeverity q.1 q.2.1 = true
    · simpa only [if_neg h1, if_pos h2] using ht
    · simp only [if_neg h1, if_neg h2]
      exact ht

/-- A link that the configuration block enables starts to train. -/
def State.enableLink (on : Nat → Bool) (s : State) (l : Nat) : State :=
  if on l then (s.modLink l (fun x => { x with enable := true })).startTraining l else s

/-- A link that is enabled and trains from DETECT. -/
def Link.enabledAt (x : Link) (now : Nat) (lanes : BitVec 8) : Link :=
  { x with enable := true, state := lnkDetect, peerValid := x.peerValid && decide (x.state ≠ lnkActive), paramRx := false,
           trainTick := now, failed := lanes, width := (widestWidth lanes).getD x.width }

/-- A link that leaves for training keeps its keys and its traffic. -/
theorem Link.leave_training (x : Link) : x.leave lnkDetect false =
    { x with state := lnkDetect, peerValid := x.peerValid && decide (x.state ≠ lnkActive), paramRx := false } := by
  simp [Link.leave, lnkDetect, lnkDown, lnkDisabled]

theorem State.enableLink_link (on : Nat → Bool) (s : State) (l : Nat) :
    (s.enableLink on l).link l = if on l then (s.link l).enabledAt s.now (s.fencedLanes l) else s.link l := by
  unfold State.enableLink
  split
  · rw [State.startTraining_link, State.link_modLink_self, Link.leave_training]
    rfl
  · rfl

theorem eachUnit_enableLink (on : Nat → Bool) : EachUnit State.link State.linksBack (State.enableLink on) where
  twice _ _ _ := rfl
  none_ _ := rfl
  rest s l := by
    unfold State.enableLink
    split
    · rfl
    · rfl
  others s l m hm := by
    unfold State.enableLink
    split
    · exact (State.link_modLink_ne _ _ hm).trans (State.link_modLink_ne _ _ hm)
    · rfl
  local_ s t l hr hl := by
    have hf : t.fencedLanes l = s.fencedLanes l := by have e := congrArg (fun x : State => x.fencedLanes l) hr; exact e
    have ht : t.now = s.now := by have e := congrArg State.now hr; exact e
    rw [State.enableLink_link, State.enableLink_link, hl, hf, ht]

/-! ### Interfaces (R387) -/

/-- An interface that trains at no rate is fenced with the other of its stop; interfaces' registers stay, and no other unit is
fenced. -/
theorem State.raiseMem_takes (s : State) {n : Nat} (hn : n < 8) (k : Nat) :
    (s.raiseMandatory (memBlock n) k 0).boot = s.boot ∧ (s.raiseMandatory (memBlock n) k 0).pwr = s.pwr ∧
    (s.raiseMandatory (memBlock n) k 0).mems = s.mems ∧ (s.raiseMandatory (memBlock n) k 0).flt.cxls = s.flt.cxls ∧
    ∀ m, m < 8 → (s.raiseMandatory (memBlock n) k 0).memFenced m = (s.memFenced m || decide (m = n)) := by
  have hs : s.raiseMandatory (memBlock n) k 0 = (s.enterRaise (memBlock n) k true 0).fenceMem n := by
    have e : (Fin.ofNat 8 n).val = n := Nat.mod_eq_of_lt hn
    show State.fenceMem (Fin.ofNat 8 n).val _ = _
    rw [e]
  obtain ⟨-, f2, f3, -⟩ := s.enterRaise_fences (memBlock n) k true 0
  have hr := s.enterRaise_rest (memBlock n) k true 0
  rw [hs]
  generalize s.enterRaise (memBlock n) k true 0 = u at f2 f3 hr
  have ub : u.boot = s.boot := by have e := congrArg State.boot hr; exact e
  have uw : u.pwr = s.pwr := by have e := congrArg State.pwr hr; exact e
  have um : u.mems = s.mems := by have e := congrArg State.mems hr; exact e
  have uf (m : Nat) : u.memFenced m = s.memFenced m := by simp only [State.memFenced, f2]
  by_cases h : u.memFenced n = true
  · have e : u.fenceMem n = u := if_pos h
    rw [e]
    refine ⟨ub, uw, um, f3, fun m _ => ?_⟩
    rw [uf m]
    by_cases e : m = n
    · rw [e, ← uf n, h, Bool.true_or]
    · simp [e]
  · have hl := State.fenceMem_lossy (s := u) (n := n) (by simpa using h)
    have kb : (u.fenceMem n).boot = u.boot := by have e := congrArg State.boot hl; exact e
    have kw : (u.fenceMem n).pwr = u.pwr := by have e := congrArg State.pwr hl; exact e
    have km : (u.fenceMem n).mems = u.mems := by have e := congrArg State.mems hl; exact e
    have kf : (u.fenceMem n).flt = { u.flt with mems := u.flt.mems ||| (1#8 <<< n) } := by
      have e := congrArg State.flt hl; exact e
    refine ⟨kb.trans ub, kw.trans uw, km.trans um, by rw [kf]; exact f3, fun m hm => ?_⟩
    rw [State.memFenced, kf, getLsbD_or_one _ hm, ← State.memFenced, uf m]

/-- What GDDR7_TRAINING makes of interfaces with the rates of a list, by their numbers. -/
structure Trained (now : Nat) (l : List (Option (Fin 3) × Nat)) (s t : State) : Prop where
  boot : t.boot = s.boot
  pwr : t.pwr = s.pwr
  cxls : t.flt.cxls = s.flt.cxls
  rate : ∀ i (r : Fin 3), (some r, i) ∈ l →
    t.memIface i = { s.memIface i with active := true, rate := r.val, retrainTick := now + i * 1562500 }
  none_ : ∀ i, (∀ r : Fin 3, (some r, i) ∉ l) → t.memIface i = s.memIface i
  fenced : ∀ i, (none, i) ∈ l → t.memFenced (i / 2) = true
  onlyThese : ∀ n, n < 8 → t.memFenced n = true → s.memFenced n = true ∨ ∃ i, i / 2 = n ∧ (none, i) ∈ l
  stay : ∀ n, n < 8 → s.memFenced n = true → t.memFenced n = true

theorem trainIface_takes (now : Nat) (s : State) {q : Option (Fin 3) × Nat} (hq : q.2 < 16) :
    Trained now [q] s (s.trainIface now q) := by
  obtain ⟨o, j⟩ := q
  cases o with
  | some r =>
    refine ⟨rfl, rfl, rfl, fun i r' h => ?_, fun i h => ?_, fun i h => ?_, fun n _ h => .inl h, fun n _ h => h⟩
    · obtain ⟨e1, e2⟩ := Prod.mk.inj (List.mem_singleton.mp h)
      obtain rfl := Option.some.inj e1
      subst e2
      exact State.memIface_modMem_self s i _
    · have hne : i ≠ j := fun e => h r (by simp [e])
      exact State.memIface_modMem_ne s _ hne
    · simp at h
  | none =>
    have hj : j / 2 < 8 := by have : j < 16 := hq; omega
    obtain ⟨h1, h2, h3, h4, h5⟩ := s.raiseMem_takes hj (5 * (j % 2) + 3)
    change (s.trainIface now (none, j)).boot = _ at h1
    change (s.trainIface now (none, j)).pwr = _ at h2
    change (s.trainIface now (none, j)).mems = _ at h3
    change (s.trainIface now (none, j)).flt.cxls = _ at h4
    change ∀ m, m < 8 → (s.trainIface now (none, j)).memFenced m = _ at h5
    generalize s.trainIface now (none, j) = t at h1 h2 h3 h4 h5
    refine ⟨h1, h2, h4, fun i r h => ?_, fun i _ => ?_, fun i h => ?_, fun n hn h => ?_, fun n hn h => ?_⟩
    · simp at h
    · simp only [State.memIface, h3]
    · have e : i = j := (Prod.mk.inj (List.mem_singleton.mp h)).2
      rw [e, h5 _ hj]
      simp
    · rw [h5 n hn, Bool.or_eq_true, decide_eq_true_eq] at h
      exact h.imp_right (fun e => ⟨j, e.symm, List.mem_singleton.mpr rfl⟩)
    · rw [h5 n hn, h, Bool.true_or]

theorem Trained.cons {now : Nat} {q : Option (Fin 3) × Nat} {l : List (Option (Fin 3) × Nat)} {s t u : State}
    (hq : ∀ p ∈ l, p.2 ≠ q.2) (h16 : q.2 < 16) (h : Trained now [q] s t) (k : Trained now l t u) :
    Trained now (q :: l) s u := by
  refine ⟨k.boot.trans h.boot, k.pwr.trans h.pwr, k.cxls.trans h.cxls, fun i r hi => ?_, fun i hi => ?_, fun i hi => ?_,
    fun n hn hf => ?_, fun n hn hf => k.stay n hn (h.stay n hn hf)⟩
  · rcases List.mem_cons.mp hi with e | e
    · rw [k.none_ i (fun r' hr => hq _ hr (by rw [← e]))]
      exact h.rate i r (by rw [e]; exact List.mem_singleton.mpr rfl)
    · rw [k.rate i r e, h.none_ i (fun r' hr => hq _ e (by rw [← List.mem_singleton.mp hr]))]
  · rw [k.none_ i (fun r hr => hi r (List.mem_cons_of_mem _ hr)),
      h.none_ i (fun r hr => hi r (by rw [List.mem_singleton.mp hr]; exact List.mem_cons_self))]
  · rcases List.mem_cons.mp hi with e | e
    · have h2 : i / 2 < 8 := by rw [← e] at h16; have : i < 16 := h16; omega
      exact k.stay _ h2 (h.fenced i (by rw [e]; exact List.mem_singleton.mpr rfl))
    · exact k.fenced i e
  · rcases k.onlyThese n hn hf with hf | ⟨i, hi, hm⟩
    · rcases h.onlyThese n hn hf with hf | ⟨i, hi, hm⟩
      · exact .inl hf
      · exact .inr ⟨i, hi, by rw [List.mem_singleton.mp hm]; exact List.mem_cons_self⟩
    · exact .inr ⟨i, hi, List.mem_cons_of_mem _ hm⟩

theorem trainIfaces_take (now : Nat) : ∀ (l : List (Option (Fin 3) × Nat)), (l.map Prod.snd).Nodup → (∀ p ∈ l, p.2 < 16) →
    ∀ s : State, Trained now l s (l.foldl (State.trainIface now) s)
  | [], _, _, s => ⟨rfl, rfl, rfl, fun _ _ h => by simp at h, fun _ _ => rfl, fun _ h => by simp at h, fun _ _ h => .inl h,
      fun _ _ h => h⟩
  | q :: l, hn, hb, s => by
    obtain ⟨hq, hl⟩ := List.nodup_cons.mp hn
    have hb' : ∀ p ∈ l, p.2 < 16 := fun p hp => hb p (List.mem_cons_of_mem _ hp)
    have h16 := hb q List.mem_cons_self
    refine Trained.cons (fun p hp e => hq ?_) h16 (trainIface_takes now s h16) (trainIfaces_take now l hl hb' _)
    exact List.mem_map.mpr ⟨p, hp, e⟩

/-- The interfaces that rates are for: the first sixteen. -/
theorem mem_zipIdx_take {rates : List (Option (Fin 3))} {o : Option (Fin 3)} {i : Nat} :
    (o, i) ∈ rates.zipIdx.take 16 ↔ i < 16 ∧ rates[i]? = some o := by
  rw [List.mem_iff_getElem?]
  constructor
  · rintro ⟨j, hj⟩
    rw [List.getElem?_take] at hj
    split at hj
    · rw [List.getElem?_zipIdx] at hj
      obtain ⟨a, ha, e⟩ := Option.map_eq_some_iff.mp hj
      obtain ⟨rfl, rfl⟩ := Prod.mk.inj e
      exact ⟨by omega, by simpa using ha⟩
    · cases hj
  · rintro ⟨hi, ho⟩
    exact ⟨i, by simp [hi, ho]⟩

/-! ### Ports (R396, R399) -/

end Sys2Proof.Machine

namespace Sys2Proof

/-- The device can be used, when its link trains. -/
def CxlDevice.Answers (d : CxlDevice) : Prop := d.present = true ∧ d.type3 = true ∧ d.capBytes ≠ 0

end Sys2Proof

namespace Sys2Proof.Machine

/-- What the enumeration of port `p` leaves of the rest. -/
structure Enumerated (p : Nat) (s t : State) : Prop where
  boot : t.boot = s.boot
  rng : t.sec.rng = s.sec.rng
  cfg : t.sec.cfg = s.sec.cfg
  selfTestFail : t.sec.selfTestFail = s.sec.selfTestFail
  debugOn : t.sec.debug = s.sec.debug
  cxl : ∀ q, q ≠ p → t.cxl q = s.cxl q
  keys : ∀ q, q ≠ p → Store.get none q t.sec.cxlKeys = Store.get none q s.sec.cxlKeys
  fenced : ∀ q, s.cxlFenced q = true → t.cxlFenced q = true

/-- The row of a port: what it says of port `p` with device `d`, from `s` to `t`. -/
structure PortEnumerated (p : Nat) (d : CxlDevice) (s t : State) : Prop where
  used : d.Answers → d.trained = true → (s.sec.cfg.cxlEnc = true → s.sec.rng = 1) →
    t.cxl p = { s.cxl p with
      present := true, enc := s.sec.cfg.cxlEnc, width := d.width, speed := d.speed,
      capBytes := if s.sec.cfg.cxlEnc then min d.capBytes 0x8000000000 * 127 / 128 else min d.capBytes 0x8000000000 } ∧
    (s.sec.cfg.cxlEnc = true → (Store.get none p t.sec.cxlKeys).isSome = true)
  noRng : d.Answers → d.trained = true → s.sec.cfg.cxlEnc = true → s.sec.rng ≠ 1 → t.cxl p = s.cxl p
  untrained : d.Answers → d.trained = false → t.cxlFenced p = true ∧ t.cxl p = s.cxl p
  absent : ¬ d.Answers → t.cxl p = s.cxl p

theorem Enumerated.refl (p : Nat) (s : State) : Enumerated p s s :=
  ⟨rfl, rfl, rfl, rfl, rfl, fun _ _ => rfl, fun _ _ => rfl, fun _ h => h⟩

/-- The fence of a port at its enumeration. -/
theorem State.raiseCxl_takes (s : State) {p : Nat} (hp : p < 2) (k : Nat) :
    Enumerated p s (s.raiseMandatory (cxlBlock p) k 0) ∧ (s.raiseMandatory (cxlBlock p) k 0).cxlFenced p = true ∧
    (s.raiseMandatory (cxlBlock p) k 0).cxl p = s.cxl p := by
  have hs : s.raiseMandatory (cxlBlock p) k 0 = (s.enterRaise (cxlBlock p) k true 0).fenceCxl p := by
    have e : (Fin.ofNat 2 p).val = p := Nat.mod_eq_of_lt hp
    show State.fenceCxl (Fin.ofNat 2 p).val _ = _
    rw [e]
  obtain ⟨-, -, f3, -⟩ := s.enterRaise_fences (cxlBlock p) k true 0
  have hr := s.enterRaise_rest (cxlBlock p) k true 0
  rw [hs]
  generalize s.enterRaise (cxlBlock p) k true 0 = u at f3 hr
  have ub : u.boot = s.boot := by have e := congrArg State.boot hr; exact e
  have us : u.sec = s.sec := by have e := congrArg State.sec hr; exact e
  have uc : u.cxls = s.cxls := by have e := congrArg State.cxls hr; exact e
  have uf (m : Nat) : u.cxlFenced m = s.cxlFenced m := by simp only [State.cxlFenced, f3]
  by_cases h : u.cxlFenced p = true
  · have e : u.fenceCxl p = u := if_pos h
    rw [e]
    refine ⟨⟨ub, by rw [us], by rw [us], by rw [us], by rw [us], fun q _ => ?_, fun q _ => by rw [us], fun q hq => ?_⟩, h, ?_⟩
    · simp only [State.cxl, uc]
    · rw [uf]; exact hq
    · simp only [State.cxl, uc]
  · have hl := State.fenceCxl_lossy (s := u) (p := p) (by simpa using h)
    have kb : (u.fenceCxl p).boot = u.boot := by have e := congrArg State.boot hl; exact e
    have ks : (u.fenceCxl p).sec = s.sec := by have e := congrArg State.sec hl; exact Eq.trans e us
    have kc : (u.fenceCxl p).cxls = s.cxls := by have e := congrArg State.cxls hl; exact Eq.trans e uc
    have kf : (u.fenceCxl p).flt = { u.flt with cxls := u.flt.cxls ||| (1#2 <<< p) } := by
      have e := congrArg State.flt hl; exact e
    refine ⟨⟨kb.trans ub, by rw [ks], by rw [ks], by rw [ks], by rw [ks], fun q _ => ?_, fun q _ => by rw [ks], fun q hq => ?_⟩,
      ?_, ?_⟩
    · simp only [State.cxl, kc]
    · rw [State.cxlFenced, kf, BitVec.getLsbD_or]
      have e : u.flt.cxls.getLsbD q = true := (uf q).trans hq
      rw [e, Bool.true_or]
    · rw [State.cxlFenced, kf, getLsbD_or_one _ hp]
      simp
    · simp only [State.cxl, kc]

/-- The enumeration of one port. -/
theorem State.enumerate_takes (s : State) {p : Nat} (hp : p < 2) (d : CxlDevice) :
    Enumerated p s (s.enumerate p d) ∧ PortEnumerated p d s (s.enumerate p d) := by
  by_cases ha : d.Answers
  · have ha' : ¬ (!d.present || !d.type3 || decide (d.capBytes = 0)) = true := by
      obtain ⟨h1, h2, h3⟩ := ha
      simp [h1, h2, h3]
    cases ht : d.trained with
    | false =>
      have e : s.enumerate p d = s.raiseMandatory (cxlBlock p) 3 0 := by
        rw [State.enumerate]; dsimp only; rw [if_neg ha', if_pos (by simp [ht])]
      obtain ⟨h1, h2, h3⟩ := s.raiseCxl_takes hp 3
      rw [e]
      exact ⟨h1, fun _ h => (nomatch ht.symm.trans h), fun _ h => (nomatch ht.symm.trans h), fun _ _ => ⟨h2, h3⟩, fun h => (h ha).elim⟩
    | true =>
      by_cases hg : s.sec.cfg.cxlEnc = true ∧ s.sec.rng ≠ 1
      · have e : s.enumerate p d = s := by
          rw [State.enumerate]; dsimp only
          rw [if_neg ha', if_neg (by simp [ht]), if_pos (by simpa using hg)]
        rw [e]
        exact ⟨.refl p s, fun _ _ h => (hg.2 (h hg.1)).elim, fun _ _ _ _ => rfl, fun _ h => (nomatch ht.symm.trans h), fun h => (h ha).elim⟩
      · have hg' : ¬ (s.sec.cfg.cxlEnc && decide (s.sec.rng ≠ 1)) = true := by simpa using hg
        cases he : s.sec.cfg.cxlEnc with
        | false =>
          have e : s.enumerate p d = s.modCxl p (fun x =>
              { x with present := true, enc := false, width := d.width, speed := d.speed, capBytes := usableBytes d false }) := by
            rw [State.enumerate]; dsimp only
            rw [if_neg ha', if_neg (by simp [ht]), if_neg hg', he]
            rfl
          rw [e]
          refine ⟨⟨rfl, rfl, rfl, rfl, rfl, fun q hq => State.cxl_modCxl_ne s _ hq, fun _ _ => rfl, fun _ h => h⟩, fun _ _ _ => ⟨?_, ?_⟩,
            fun _ _ h => ?_, fun _ h => (nomatch ht.symm.trans h), fun h => (h ha).elim⟩
          · rw [State.cxl_modCxl_self, he]; rfl
          · rw [he]; nofun
          · rw [he] at h; cases h
        | true =>
          let w := (s.generate 32).2.wrapKey (16 + p) (s.generate 32).1
          have e : s.enumerate p d = State.modCxl (w.2.modSec (fun x => { x with cxlKeys := Store.put none p (some w.1) x.cxlKeys })) p (fun x =>
              { x with present := true, enc := true, width := d.width, speed := d.speed, capBytes := usableBytes d true }) := by
            rw [State.enumerate]; dsimp only
            rw [if_neg ha', if_neg (by simp [ht]), if_neg hg', he]
            rfl
          have hw : ∃ x d', w.2 = { s with sec := { s.sec with gens := x, drbg := d' } } := ⟨_, _, rfl⟩
          obtain ⟨g, d', hw⟩ := hw
          rw [e]
          clear_value w
          obtain ⟨w1, w2⟩ := w
          simp only at hw
          subst hw
          refine ⟨⟨rfl, rfl, rfl, rfl, rfl, fun q hq => State.cxl_modCxl_ne _ _ hq, fun q hq => ?_, fun _ h => h⟩,
            fun _ _ _ => ⟨?_, fun _ => ?_⟩, fun _ _ h hr => ?_, fun _ h => (nomatch ht.symm.trans h), fun h => (h ha).elim⟩
          · show Store.get none q (Store.put none p (some w1) s.sec.cxlKeys) = _
            exact Store.get_put_ne hq
          · rw [State.cxl_modCxl_self, he]; rfl
          · show (Store.get none p (Store.put none p (some w1) s.sec.cxlKeys)).isSome = true
            rw [Store.get_put_self]; rfl
          · exact (hg ⟨he, hr⟩).elim
  · have e : s.enumerate p d = s := by
      rw [State.enumerate]
      refine if_pos ?_
      simp only [CxlDevice.Answers, not_and_or, Bool.not_eq_true, not_not] at ha
      rcases ha with h | h | h <;> simp [h]
    rw [e]
    exact ⟨.refl p s, fun h => (ha h).elim, fun h => (ha h).elim, fun h => (ha h).elim, fun _ => rfl⟩

/-! ### The three last stages -/

/-- Stage 9 with an image and a configuration block that boot. -/
theorem execImageVerification_boots {s : State} {i0 i1 c0 c1 : ObjChecks} {cfg : ConfigBlock} {i c : Nat} (hs : s.atStage 9 = true)
    (hi : s.sec.bootSlot .image i0 i1 = some i) (hc : s.sec.bootSlot .config c0 c1 = some c) :
    let v : State := State.instantiate { s with sec := { s.sec with
      imageSlot := i, configSlot := c, svImage := s.sec.slotVersion .image i,
      svConfig := s.sec.slotVersion .config c, cfg := cfg } }
    ∃ u : State, exec (.imageVerification i0 i1 c0 c1 cfg) s = .next (u.retryRequest true).carryOn ∧
      u.boot = { v.boot with stage := 10 } ∧ u.blocks = (v.applySeverities cfg.severities).blocks ∧
      (∀ l, l < 4 → let x := v.link l
        u.link l = if cfg.linkEnable.getLsbD l then x.enabledAt v.now (v.fencedLanes l) else x) ∧
      { u with boot := v.boot, links := v.links, blocks := v.blocks } = v := by
  intro v
  let w := v.applySeverities cfg.severities
  let on (l : Nat) : Bool := cfg.linkEnable.getLsbD l
  let t := (List.range 4).foldl (State.enableLink on) w
  have ex : exec (.imageVerification i0 i1 c0 c1 cfg) s = .next ((t.setStage 10).retryRequest true).carryOn := by
    show execImageVerification i0 i1 c0 c1 cfg s = _
    unfold execImageVerification
    rw [if_pos hs, hi, hc]
    rfl
  have hw : { w with blocks := v.blocks } = v := v.applySeverities_rest cfg.severities
  obtain ⟨ht, hl⟩ := (eachUnit_enableLink on).fold (List.range 4) List.nodup_range w
  change { t with links := w.links } = w at ht
  change ∀ m, t.link m = _ at hl
  have wb : w.boot = v.boot := by have e := congrArg State.boot hw; exact e
  have wn : w.now = v.now := by have e := congrArg State.now hw; exact e
  have wl : w.links = v.links := by have e := congrArg State.links hw; exact e
  have wf (l : Nat) : w.fencedLanes l = v.fencedLanes l := by
    have e := congrArg (fun x : State => x.fencedLanes l) hw; exact e
  have tb : t.boot = w.boot := by have e := congrArg State.boot ht; exact e
  have tk : t.blocks = w.blocks := by have e := congrArg State.blocks ht; exact e
  refine ⟨t.setStage 10, ex, ?_, tk, fun l h4 => ?_, ?_⟩
  · show { t.boot with stage := 10 } = _
    rw [tb, wb]
  · show t.link l = _
    have wk : w.link l = v.link l := by simp only [State.link, wl]
    rw [hl l, if_pos (List.mem_range.mpr h4), State.enableLink_link, wk, wn, wf l]
  · show { t with boot := v.boot, links := v.links, blocks := v.blocks } = v
    have e := congrArg (fun x : State => { x with boot := v.boot, links := v.links, blocks := v.blocks }) ht
    refine Eq.trans e ?_
    show { w with boot := v.boot, links := v.links, blocks := v.blocks } = v
    rw [← wb, ← wl]
    exact hw

/-- Stage 10. -/
theorem execGddr7Training_takes {s : State} (rates : List (Option (Fin 3))) (hs : s.atStage 10 = true) :
    ∃ u : State, exec (.gddr7Training rates) s = .next u.carryOn ∧ u.boot = { s.boot with stage := 11 } ∧
      u.pwr = { s.pwr with cxlPerst := s.flt.cxls } ∧
      (∀ (i : Nat) (r : Fin 3), i < 16 → rates[i]? = some (some r) → u.memIface i =
        { s.memIface i with active := true, rate := r.val, retrainTick := s.now + i * 1562500 }) ∧
      (∀ i : Nat, i < 16 → rates[i]? = some none → u.memIface i = s.memIface i ∧ u.memFenced (i / 2) = true) ∧
      (∀ i : Nat, rates.length ≤ i → u.memIface i = s.memIface i) ∧
      (∀ n, n < 8 → u.memFenced n = true → s.memFenced n = true ∨ ∃ i, i / 2 = n ∧ rates[i]? = some none) := by
  let l := rates.zipIdx.take 16
  have ex : exec (.gddr7Training rates) s =
      .next ({ l.foldl (State.trainIface s.now) s with pwr := { (l.foldl (State.trainIface s.now) s).pwr with
        cxlPerst := (l.foldl (State.trainIface s.now) s).flt.cxls } }.setStage 11).carryOn :=
    if_pos (c := s.atStage 10 = true) hs
  have hn : (l.map Prod.snd).Nodup := by
    have : (rates.zipIdx.map Prod.snd).Nodup := by rw [List.zipIdx_map_snd]; exact List.nodup_range'
    rw [List.map_take]
    exact this.sublist (List.take_sublist _ _)
  have h16 : ∀ p ∈ l, p.2 < 16 := fun ⟨o, j⟩ hp => (mem_zipIdx_take.mp hp).1
  have ht := trainIfaces_take s.now l hn h16 s
  generalize l.foldl (State.trainIface s.now) s = t at ex ht
  refine ⟨_, ex, ?_, ?_, fun i r hi hr => ht.rate i r (mem_zipIdx_take.mpr ⟨hi, hr⟩), fun i hi hr => ⟨?_, ?_⟩, fun i hi => ?_,
    fun n hn hf => ?_⟩
  · show { t.boot with stage := 11 } = _
    rw [ht.boot]
  · show { t.pwr with cxlPerst := t.flt.cxls } = _
    rw [ht.pwr, ht.cxls]
  · refine ht.none_ i (fun r h => ?_)
    cases hr.symm.trans (mem_zipIdx_take.mp h).2
  · exact ht.fenced i (mem_zipIdx_take.mpr ⟨hi, hr⟩)
  · refine ht.none_ i (fun r h => ?_)
    cases (List.getElem?_eq_none hi).symm.trans (mem_zipIdx_take.mp h).2
  · exact (ht.onlyThese n hn hf).imp_right (fun ⟨i, hi, hm⟩ => ⟨i, hi, (mem_zipIdx_take.mp hm).2⟩)

/-- What a port's row says holds as well from a state that another port's enumeration left, and stays through one. -/
theorem PortEnumerated.of_enumerated {p q : Nat} {d : CxlDevice} {s t u : State} (hpq : p ≠ q) (h : Enumerated q s t)
    (k : PortEnumerated p d t u) : PortEnumerated p d s u := by
  obtain ⟨h1, h2, h3, h4⟩ := k
  rw [h.cfg, h.rng, h.cxl p hpq] at h1
  rw [h.cfg, h.rng, h.cxl p hpq] at h2
  rw [h.cxl p hpq] at h3 h4
  exact ⟨h1, h2, h3, h4⟩

theorem PortEnumerated.then_enumerated {p q : Nat} {d : CxlDevice} {s t u : State} (hpq : p ≠ q) (k : PortEnumerated p d s t)
    (h : Enumerated q t u) : PortEnumerated p d s u where
  used ha ht hr := by
    obtain ⟨h1, h2⟩ := k.used ha ht hr
    exact ⟨(h.cxl p hpq).trans h1, fun he => by rw [h.keys p hpq]; exact h2 he⟩
  noRng ha ht he hr := (h.cxl p hpq).trans (k.noRng ha ht he hr)
  untrained ha ht := by
    obtain ⟨h1, h2⟩ := k.untrained ha ht
    exact ⟨h.fenced p h1, (h.cxl p hpq).trans h2⟩
  absent ha := (h.cxl p hpq).trans (k.absent ha)

/-- Stage 11. -/
theorem execCxlEnumeration_takes {s : State} (p0 p1 : CxlDevice) (hs : s.atStage 11 = true) :
    ∃ u : State, exec (.cxlEnumeration p0 p1) s = .next u.carryOn ∧ u.boot = { s.boot with ready := true, stage := 12 } ∧
      u.sec.approved = (!s.sec.selfTestFail && !s.sec.debug) ∧
      ∀ q ∈ [(0, p0), (1, p1)], let d : CxlDevice := q.2
        let enc := s.sec.cfg.cxlEnc
        (d.Answers → d.trained = true → (enc = true → s.sec.rng = 1) → u.cxl q.1 = { s.cxl q.1 with
            present := true, enc := enc, width := d.width, speed := d.speed,
            capBytes := if enc then min d.capBytes 0x8000000000 * 127 / 128 else min d.capBytes 0x8000000000 } ∧
          (enc = true → (Store.get none q.1 u.sec.cxlKeys).isSome = true)) ∧
        (d.Answers → d.trained = true → enc = true → s.sec.rng ≠ 1 → u.cxl q.1 = s.cxl q.1) ∧
        (d.Answers → d.trained = false → u.cxlFenced q.1 = true ∧ u.cxl q.1 = s.cxl q.1) ∧
        (¬ d.Answers → u.cxl q.1 = s.cxl q.1) := by
  obtain ⟨h0, k0⟩ := s.enumerate_takes (p := 0) (by decide) p0
  obtain ⟨h1, k1⟩ := (s.enumerate 0 p0).enumerate_takes (p := 1) (by decide) p1
  have l0 := k0.then_enumerated (by decide) h1
  have l1 := k1.of_enumerated (by decide) h0
  have ex : exec (.cxlEnumeration p0 p1) s = .next (State.modSec { (s.enumerate 0 p0).enumerate 1 p1 with
      boot := { ((s.enumerate 0 p0).enumerate 1 p1).boot with ready := true, stage := 12 } }
        (fun x => { x with approved := !x.selfTestFail && !x.debug })).carryOn :=
    if_pos (c := s.atStage 11 = true) hs
  have hb := h1.boot.trans h0.boot
  have hf := h1.selfTestFail.trans h0.selfTestFail
  have hd := h1.debugOn.trans h0.debugOn
  generalize (s.enumerate 0 p0).enumerate 1 p1 = t at l0 l1 ex hb hf hd
  refine ⟨_, ex, ?_, ?_, fun q hq => ?_⟩
  · show { t.boot with ready := true, stage := 12 } = _
    rw [hb]
  · show (!t.sec.selfTestFail && !t.sec.debug) = _
    rw [hf, hd]
  · rcases List.mem_cons.mp hq with rfl | hq
    · exact ⟨l0.used, l0.noRng, l0.untrained, l0.absent⟩
    · obtain rfl := List.mem_singleton.mp hq
      exact ⟨l1.used, l1.noRng, l1.untrained, l1.absent⟩

/-! ### The obligation -/

/-- Settles O32. -/
theorem bootStages9To11 : Obligations.BootStages9To11 := by
  unfold Obligations.BootStages9To11
  refine ⟨?slot, ?drbg, ?image, ?gddr, ?cxl⟩
  case slot =>
    intro x k c0 c1 i h
    obtain ⟨h1, h2⟩ := Sec.bootSlot_takes h
    refine ⟨h1, ?_, h2⟩
    rcases h1 with ⟨rfl, ha⟩ | ⟨rfl, ha⟩
    · exact Sec.accepts_counter ha
    · exact Sec.accepts_counter ha
  case drbg =>
    intro s e n d w
    refine ⟨fun h => if_neg h, fun h0 hb => State.instantiate_good h0 hb, fun h0 hb => ?_⟩
    rw [State.instantiate_bad h0 hb]
    exact ⟨rfl, State.rngFail_rng _⟩
  case image =>
    intro i0 i1 c0 c1 cfg s hs
    refine ⟨?_, ?_⟩
    · intro i c hi hc
      exact execImageVerification_boots hs hi hc
    · intro h q
      have e : exec (.imageVerification i0 i1 c0 c1 cfg) s = .next ((q.failBoot 9).retryRequest true).carryOn := by
        show execImageVerification i0 i1 c0 c1 cfg s = _
        unfold execImageVerification
        rw [if_pos hs]
        rcases h with h | h
        · rw [h]; rfl
        · rw [h]; cases s.sec.bootSlot .image i0 i1 <;> rfl
      exact e
  case gddr =>
    intro rates s hs
    exact execGddr7Training_takes rates hs
  case cxl =>
    intro p0 p1 s hs
    exact execCxlEnumeration_takes p0 p1 hs

end Sys2Proof.Machine
end

section
/-! PROOFS. The host's window on the device's memory (BAR2).
-/

namespace Sys2Proof.Machine

/-! ### What an access notes -/

/-- The note that an access leaves is bits of `DEV_HERR` and the count of dropped flits. -/
theorem State.bar2Note_takes (s : State) (write : Bool) (l : List (Nat × Bar2Io)) :
    ∃ h m, s.bar2Note write l = { s with pcie := { s.pcie with herr := h }, mesh := m } ∧
      ∀ i, i < 7 → h.getLsbD i = (s.pcie.herr.getLsbD i || (decide (i = 0) && l.any (fun q => q.2 = .unmapped))
        || (decide (i = 1) && l.any (fun q => q.2 = .fenced)) || (decide (i = 2) && (!write && l.any (fun q => q.2 = .poisoned)))) := by
  have note (c : Bool) (bit : Nat) (t : State) : ∃ h, (if c = true then t.setHerr bit else t) = { t with pcie := { t.pcie with herr := h } } ∧
      ∀ i, i < 7 → h.getLsbD i = (t.pcie.herr.getLsbD i || (decide (i = bit) && c)) := by
    cases c
    · exact ⟨t.pcie.herr, rfl, fun i _ => by simp⟩
    · exact ⟨_, rfl, fun i hi => by rw [getLsbD_or_one _ hi, Bool.and_true]⟩
  obtain ⟨h0, e0, k0⟩ := note (l.any (fun q => q.2 = .unmapped)) 0 s
  obtain ⟨h1, e1, k1⟩ := note (l.any (fun q => q.2 = .fenced)) 1 { s with pcie := { s.pcie with herr := h0 } }
  obtain ⟨h2, e2, k2⟩ := note (!write && l.any (fun q => q.2 = .poisoned)) 2 { s with pcie := { s.pcie with herr := h1 } }
  have k (i : Nat) (hi : i < 7) := (k2 i hi).trans (congrArg (· || _) ((k1 i hi).trans (congrArg (· || _) (k0 i hi))))
  unfold State.bar2Note
  rw [e0]
  dsimp only
  rw [e1]
  dsimp only
  rw [e2]
  dsimp only
  split
  · exact ⟨h2, s.mesh, rfl, k⟩
  · exact ⟨h2, _, rfl, k⟩

/-! ### Where bytes land -/

/-- A byte that lands is stored in its own cell. -/
theorem State.landing_cell {s : State} {m : List Host.Cell} {seen : List Nat} {a : Nat} {b : Byte} {q : Host.Cell}
    (h : s.landing m seen a b = some q) : s.cellOf a = some q.1 := by
  rw [State.landing] at h
  rw [State.cellOf]
  have viaAlias {c : Prop} [Decidable c] {k : Nat} {x : Byte} (h : (if c then none else some (k, x)) = some q) : some k = some q.1 := by
    split at h
    · cases h
    · rw [← Option.some.inj h]
  cases ht : s.target a with
  | gddr r i => rw [ht] at h; rw [← Option.some.inj h]
  | cxl p g => rw [ht] at h; rw [← Option.some.inj h]
  | scratch n o => rw [ht] at h; rw [← Option.some.inj h]
  | host => rw [ht] at h; rw [← Option.some.inj h]
  | setAlias n o => rw [ht] at h; exact viaAlias h
  | clrAlias n o => rw [ht] at h; exact viaAlias h
  | window n o => rw [ht] at h; cases h
  | unmapped => rw [ht] at h; cases h

/-- Bytes that land leave every other cell. -/
theorem State.land_other {s : State} {k : Nat} {l : List (Nat × Byte)} (hk : ∀ c, c ∈ l → s.cellOf c.1 ≠ some k) (m : List Host.Cell) :
    memGet (s.land m l) k = memGet m k := by
  unfold State.land
  generalize ([] : List Nat) = seen
  induction l generalizing m seen with
  | nil => rfl
  | cons c l ih =>
    rw [List.foldl_cons]
    have hl := fun x hx => hk x (List.mem_cons_of_mem c hx)
    cases h : s.landing m seen c.1 c.2 with
    | none => exact ih hl m _
    | some q =>
      refine (ih hl _ _).trans (Store.get_put_ne fun e => ?_)
      exact hk c List.mem_cons_self ((State.landing_cell h).trans (congrArg some e.symm))

/-- Where a byte lands turns on the map and on poison. -/
theorem State.land_congr {s t : State} (ht : t.target = s.target) (hp : t.poisonedAt = s.poisonedAt) : t.land = s.land := by
  have hk : t.stillPoisoned = s.stillPoisoned := by
    funext seen k
    rw [State.stillPoisoned, State.stillPoisoned, hp]
  have hl : t.landing = s.landing := by
    funext m seen a b
    rw [State.landing, State.landing, ht, hk]
  funext m l
  rw [State.land, State.land, hl, hp]

/-- The pages that a write touches are counted at their ports. -/
theorem State.bumpPages_rest (s : State) (addrs : List Nat) : { s.bumpPages addrs with cxls := s.cxls } = s := by
  have step (t : State) (p : Nat) (f : CxlPort → CxlPort) (h : { t with cxls := s.cxls } = s) : { t.modCxl p f with cxls := s.cxls } = s := h
  exact foldl_keep (P := fun t => { t with cxls := s.cxls } = s) (fun t _ h => step t _ _ h) _ s rfl

/-- Cells that can be written are written, and clear poison. -/
theorem State.storeCells_good {s : State} {l : List (Nat × Byte)} (h : ∀ c ∈ l, s.byteIo true c.1 = .ok) :
    (s.storeCells l).mem = s.land s.mem l ∧ (∀ k, k ∈ (s.storeCells l).poison → k ∈ s.poison) ∧
    { s.storeCells l with mem := s.mem, poison := s.poison, cxls := s.cxls } = s := by
  have hl : l.filter (fun c => s.byteIo true c.1 = .ok) = l := List.filter_eq_self.mpr (fun c hc => decide_eq_true (h c hc))
  refine ⟨?_, fun k hk => ?_, ?_⟩
  · exact congrArg (s.land s.mem) hl
  · exact List.mem_of_mem_filter hk
  · exact congrArg (fun t : State => { t with mem := s.mem, poison := s.poison }) (s.bumpPages_rest _)

/-- A byte of BAR2 that is written as usual, or over poison, is written. -/
theorem State.byteIo_of_writeOutcome {s : State} {a : Nat} (h : s.writeOutcome a = .ok ∨ s.writeOutcome a = .poisoned) :
    s.byteIo true a = .ok := by
  unfold State.writeOutcome at h
  by_cases hc : (decide (s.bar2Io a ≠ .unmapped) && decide (s.pcie.readFail = some (a, .cxl))) = true
  · rw [if_pos hc] at h
    simp at h
  rw [if_neg hc] at h
  have hu : s.bar2Io a ≠ .unmapped := by rcases h with h | h <;> simp [h]
  have hf : s.pcie.readFail ≠ some (a, .cxl) := by simpa [hu] using hc
  have hn : ¬ (s.fencedAt a || decide (s.pcie.readFail = some (a, .cxl))) = true := by
    unfold State.bar2Io at h
    split at h
    · simp at h
    · split at h
      · simp at h
      · simp at h
      · split at h
        · simp at h
        · rename_i hfa; simp [hfa, hf]
  unfold State.bar2Io at hu
  split at hu
  · simp at hu
  unfold State.byteIo
  cases ht : s.target a <;> simp [ht] at hu hn ⊢ <;> simp [hn]

/-- A write that the function decodes, and that does not wait. -/
theorem execBar2Write_takes {s : State} (o : BitVec 38) (data : List (Option Byte)) (events : List MemEvent)
    (hd : s.bar2Decodes o.toNat data.length = true)
    (hh : s.bar2Held ((data.zipIdx.filterMap (fun p => p.1.map (fun b => (s.bar2Addr (o.toNat + p.2), b)))).map Prod.fst) = false) :
    let v := if s.boot.ready then s.memEvents events else s
    let l := (data.zipIdx.filterMap (fun p => p.1.map (fun b => (s.bar2Addr (o.toNat + p.2), b)))).map
      (fun c => (c, v.writeOutcome c.1))
    exec (.bar2Write o data events) s = .next ((v.bar2Note true (l.map (fun q => (q.1.1, q.2)))).storeCells
      ((l.filter (fun q => q.2 = .ok || q.2 = .poisoned)).map Prod.fst)).carryOn := by
  show execBar2Write o data events s = _
  rw [execBar2Write, hd, hh]
  rfl

/-! ### The obligation -/

/-- Settles O34. -/
theorem hostMemoryWindow : Obligations.HostMemoryWindow := by
  intro o events s v
  refine ⟨?read, ?outcome, ?write, ?d3⟩
  case read =>
    intro en hd addrs
    refine ⟨fun hh => ?_, fun hh => ?_⟩
    · refine if_neg (?_ : ¬ (s.bar2Decodes o.toNat en.length && !s.bar2Held addrs) = true)
      rw [hh]; simp
    · intro out some_
      let l : List (Nat × Bar2Io) := addrs.map (fun a => (a, out a))
      let t : State := { v with bus := { v.bus with
        lastRead := l.map (fun (q : Nat × Bar2Io) => s.outcomeByte q.1 q.2),
        lastPoisoned := l.any (fun (q : Nat × Bar2Io) => decide (q.2 = Bar2Io.poisoned)) } }
      have hc : (s.bar2Decodes o.toNat en.length && !s.bar2Held addrs) = true := by rw [hd, hh]; rfl
      have ex : exec (.bar2Read o en events) s = .next (t.bar2Note false l).carryOn :=
        if_pos (c := (s.bar2Decodes o.toNat en.length && !s.bar2Held addrs) = true) hc
      have ha (x : Bar2Io) : l.any (fun q => q.2 = x) = some_ x := List.any_map
      obtain ⟨h, m, e, k⟩ := t.bar2Note_takes false l
      simp only [ha, Bool.not_false, Bool.true_and] at k
      rw [e] at ex
      refine ⟨_, ex, ?_, k, rfl⟩
      have hl : l.map (fun (q : Nat × Bar2Io) => s.outcomeByte q.1 q.2) = addrs.map (fun a => s.outcomeByte a (out a)) := List.map_map
      have hb : t.bus = { v.bus with
          lastRead := addrs.map (fun a => s.outcomeByte a (out a)),
          lastPoisoned := some_ .poisoned } := by
        rw [← hl, ← ha]
      exact hb
  case outcome =>
    intro a
    refine ⟨⟨rfl, rfl, rfl, rfl⟩, ?_, fun h hf => ?_⟩
    · unfold State.readOutcome
      cases s.bar2Io a with
      | ok => 
        dsimp only
        split
        · simp
        · split <;> simp
      | unmapped => simp
      | fenced => simp
      | poisoned => simp
    · unfold State.readOutcome
      rw [h]
      exact if_neg hf
  case write =>
    intro data hd cells
    refine ⟨fun hh => ?_, fun hh => ?_⟩
    · refine if_neg (?_ : ¬ (s.bar2Decodes o.toNat data.length && !s.bar2Held (cells.map Prod.fst)) = true)
      rw [hh]; simp
    · intro good
      let l := cells.map (fun c => (c, v.writeOutcome c.1))
      let q : List (Nat × Bar2Io) := l.map (fun q => (q.1.1, q.2))
      have hg : (l.filter (fun q => q.2 = .ok || q.2 = .poisoned)).map Prod.fst = good := by
        show ((cells.map _).filter _).map _ = _
        rw [List.filter_map, List.map_map]
        exact List.map_id _
      have ex : exec (.bar2Write o data events) s = .next ((v.bar2Note true q).storeCells good).carryOn := by
        rw [← hg]
        exact execBar2Write_takes o data events hd hh
      have hq (x : Bar2Io) : q.any (fun q => q.2 = x) = cells.any (fun c => v.writeOutcome c.1 = x) := by
        show ((cells.map _).map _).any _ = _
        rw [List.any_map, List.any_map]
        rfl
      have hu : cells.any (fun c => v.writeOutcome c.1 = .unmapped) = cells.any (fun c => v.bar2Io c.1 = .unmapped) := by
        refine congrArg cells.any (funext fun c => decide_eq_decide.mpr ?_)
        unfold State.writeOutcome
        split
        · rename_i h
          simp only [Bool.and_eq_true, decide_eq_true_eq] at h
          exact ⟨nofun, fun e => (h.1 e).elim⟩
        · rfl
      obtain ⟨h, m, e, k⟩ := v.bar2Note_takes true q
      simp only [hq, hu, Bool.not_true, Bool.false_and, Bool.and_false, Bool.or_false] at k
      rw [e] at ex
      have hok : ∀ c ∈ good, v.byteIo true c.1 = .ok := fun c hc =>
        State.byteIo_of_writeOutcome (by simpa using List.of_mem_filter hc)
      obtain ⟨h1, h2, h3⟩ := State.storeCells_good (s := { v with pcie := { v.pcie with herr := h }, mesh := m }) hok
      have hp := congrArg State.pcie h3
      have hl : (State.land { v with pcie := { v.pcie with herr := h }, mesh := m }) = v.land := State.land_congr rfl rfl
      rw [hl] at h1
      refine ⟨_, ex, h1, fun j hj => ?_, h2, ?_, ?_⟩
      · rw [h1]
        exact State.land_other hj v.mem
      · intro i hi
        rw [← k i hi]
        exact congrArg (fun p : Pcie => p.herr.getLsbD i) hp
      · have e3 := congrArg (fun t : State => { t with pcie := { t.pcie with herr := v.pcie.herr }, mesh := v.mesh }) h3
        exact e3
  case d3 =>
    intro h
    refine if_neg (?_ : ¬ (s.bar2Decodes o.toNat _ && _) = true)
    simp [State.bar2Decodes, h]

end Sys2Proof.Machine
end

section
/-! PROOFS. Writes of registers, configuration and message-signalled interrupts.
-/

namespace Sys2Proof.Machine

/-! ### Register writes (R402, R410, R514-R517) -/

/-- The function takes no write then. -/
theorem execRegisterWrite_refused {s : State} {o : BitVec 26} {n : Nat} (v : BitVec 64)
    (h : s.running = false ∨ s.pcie.d3hot = true ∨ barAligned o.toNat n = false ∨ s.boot.ready = false ∧ (placeAt o.toNat).1 ≠ .dev) :
    exec (.registerWrite o n v) s = .next s.carryOn := by
  have hc : (!s.running || s.pcie.d3hot || !barAligned o.toNat n || (!s.boot.ready && decide ((placeAt o.toNat).1 ≠ .dev))) = true := by
    rcases h with h | h | h | ⟨h, hp⟩ <;> simp [*]
  show execRegisterWrite o n v s = _
  rw [execRegisterWrite, State.bar0Write, if_pos hc]

/-- An aligned word of the DEV block is written before ready, too. -/
theorem execRegisterWrite_dev {s : State} (hr : s.running = true) (hd : s.pcie.d3hot = false) {o : BitVec 26} (ho : o.toNat % 4 = 0)
    (hp : (placeAt o.toNat).1 = .dev) (v : BitVec 64) :
    exec (.registerWrite o 4 v) s = .next (s.bar0WriteWord o.toNat (v.toNat % 2 ^ 32)).carryOn := by
  have hw : wholeEvent o.toNat 4 = none := by
    unfold wholeEvent
    split <;> rfl
  show execRegisterWrite o 4 v s = _
  simp [execRegisterWrite, State.bar0Write, hr, hd, hp, barAligned, ho, hw, lo32]

/-- The value of an event is written in one operation. -/
theorem execRegisterWrite_event {s : State} (h : s.barOk = true) {o : BitVec 26} (ho : barAligned o.toNat 8 = true) (v : BitVec 64)
    {e : Nat} (hw : wholeEvent o.toNat 8 = some e) :
    exec (.registerWrite o 8 v) s = .next (s.eventOp e false v false true).carryOn := by
  simp only [State.barOk, Bool.and_eq_true, Bool.not_eq_true'] at h
  obtain ⟨⟨hr, hb⟩, hd⟩ := h
  show execRegisterWrite o 8 v s = _
  simp [execRegisterWrite, State.bar0Write, hr, hb, hd, ho, hw]

/-- Settles O35. -/
theorem registerWrites : Obligations.RegisterWrites := by
  intro o v s w
  have a4 (h : barAligned o.toNat 4 = true) : o.toNat % 4 = 0 := by simpa [barAligned] using h
  have a8 (h : barAligned o.toNat 8 = true) : o.toNat % 8 = 0 := by simpa [barAligned] using h
  have hw : w < 2 ^ 32 := Nat.mod_lt _ (by decide)
  refine ⟨fun n h => execRegisterWrite_refused v h, fun hr hd => ?_, fun h => ⟨fun ho => execRegisterWrite_word h (a4 ho) v,
    fun e ho he => execRegisterWrite_event h ho v he, fun ho he => execRegisterWrite_pair h (a8 ho) v he, ?_, ?_, ?_⟩⟩
  · rw [execRegisterWrite_dev hr hd (by decide) (by decide)]
    have e : natBits w 31 28 = w / 2 ^ 28 := by
      rw [natBits, Nat.shiftRight_eq_div_pow]
      exact Nat.mod_eq_of_lt (by omega)
    rw [← e]
    rfl
  · rw [execRegisterWrite_word h (by decide)]
    have e : s.devWrite 0x48 w = { s with pcie := { s.pcie with herr := s.pcie.herr &&& ~~~(BitVec.ofNat 7 w) } } := by
      simp only [State.barOk, Bool.and_eq_true] at h
      exact if_neg (by simp [h.1.2])
    rw [← e]
    rfl
  · rw [execRegisterWrite_word h (by decide)]
    rfl
  · rw [execRegisterWrite_word h (by decide)]
    rfl

/-! ### Configuration (R403, R404, R408-R412) -/

/-- A message for each vector of a list, in order, where the function may send any. -/
theorem sendMsix_foldl (l : List Nat) (t : State) :
    l.foldl (fun st v => st.sendMsix v) t = { t with
      pcie := { t.pcie with herr := if t.pcie.bme || l.isEmpty then t.pcie.herr else t.pcie.herr ||| 8#7 }
      bus := { t.bus with sent := if t.pcie.bme then t.bus.sent ++ l else t.bus.sent } } := by
  induction l generalizing t with
  | nil => simp
  | cons v l ih =>
    rw [List.foldl_cons, ih]
    unfold State.sendMsix
    cases hb : t.pcie.bme with
    | true => simp [hb]
    | false =>
      have h8 : (8#7 : BitVec 7) ||| 8#7 = 8#7 := by decide
      simp [State.setHerr, BitVec.or_assoc, h8, hb]

/-- Every pending vector that can send sends one message and is pending no more. -/
theorem State.sendPending_takes (t : State) :
    let due := t.pcie.pba.filter (fun v => t.vectorAble v)
    t.sendPending = { t with
      pcie := { t.pcie with
        pba := t.pcie.pba.filter (fun v => !t.vectorAble v)
        herr := if t.pcie.bme || due.isEmpty then t.pcie.herr else t.pcie.herr ||| 8#7 }
      bus := { t.bus with sent := if t.pcie.bme then t.bus.sent ++ due else t.bus.sent } } := by
  intro due
  unfold State.sendPending
  rw [sendMsix_foldl]

theorem State.configure_taken {s : State} (hr : s.running = true) (hc : s.cfgRetry = false) (f : State → State) :
    s.configure f = f { s with bus := { s.bus with retry := false } } := by
  simp [State.configure, hr, hc]

theorem State.configure_retry {s : State} (hr : s.running = true) (hc : s.cfgRetry = true) (f : State → State) :
    s.configure f = { s with bus := { s.bus with retry := true } } := by
  simp [State.configure, hr, hc]

/-- The mask of a vector in the table in BAR0. -/
theorem State.msixWrite_mask (s : State) (k : Nat) (b : Bool) :
    s.msixWrite (16 * k + 12) (boolNat b) = { s with pcie := { s.pcie with
      msix := Store.put msix0 k { Store.get msix0 k s.pcie.msix with masked := b } s.pcie.msix } }.sendPending := by
  have h1 : (16 * k + 12) / 16 = k := by omega
  have h2 : (16 * k + 12) % 16 = 12 := by omega
  have h3 : natBit (boolNat b) 0 = b := by cases b <;> decide
  unfold State.msixWrite
  rw [h1, h2]
  simp only [h3]

/-- A size between two powers of two that the function supports. -/
theorem pow2In_sizes {n : Nat} (h : n = 128 ∨ n = 256 ∨ n = 512 ∨ n = 1024 ∨ n = 2048 ∨ n = 4096) : pow2In 128 4096 n = true := by
  rcases h with rfl | rfl | rfl | rfl | rfl | rfl <;> decide

theorem pow2In_payloads {n : Nat} (h : n = 128 ∨ n = 256 ∨ n = 512) : pow2In 128 512 n = true := by
  rcases h with rfl | rfl | rfl <;> decide

/-- Settles O36. -/
theorem hostConfiguration : Obligations.HostConfiguration := by
  refine ⟨?unmask, ?taken, ?retry⟩
  case unmask =>
    intro s let_go taken
    have go (t : State) : let_go t t.sendPending := t.sendPending_takes
    refine ⟨fun b hr hc => ⟨_, ?_, go _⟩, fun b hr hc => ⟨_, ?_, go _⟩, fun k b hb => ⟨_, ?_, go _⟩⟩
    · exact congrArg Host.Outcome.next (State.configure_taken hr hc _)
    · exact congrArg Host.Outcome.next (State.configure_taken hr hc _)
    · rw [← State.msixWrite_mask]
      exact congrArg Host.Outcome.next (if_pos hb)
  case taken =>
    intro s hr hc taken
    have put (w : ConfigWrite) : exec (.configurationWrite w) s = .next (taken (s.pcie.take w)) :=
      congrArg Host.Outcome.next (State.configure_taken hr hc _)
    refine ⟨fun b => congrArg Host.Outcome.next (State.configure_taken hr hc _), fun a => ⟨put _, put _⟩, fun n => put _, fun b => put _,
      fun n h => (put _).trans ?_, fun n h => (put _).trans ?_, fun n => put _⟩
    · exact congrArg (fun p => Host.Outcome.next (taken p)) (if_pos (pow2In_payloads h))
    · exact congrArg (fun p => Host.Outcome.next (taken p)) (if_pos (pow2In_sizes h))
  case retry =>
    intro s hr hc again
    have no (f : State → State) : (Host.Outcome.next (s.configure f) : Out) = .next again := congrArg Host.Outcome.next (State.configure_retry hr hc f)
    exact ⟨fun b => ⟨no _, no _, no _⟩, fun w => no _⟩

end Sys2Proof.Machine
end

section
/-! PROOFS. Requests on the mailbox and on the management port: status and firmware.
-/

namespace Sys2Proof.Machine

/-! ### Answers (R297, R465, R490, R524) -/

/-- A request's row hands it to its port. -/
theorem exec_request {i : Instr} {p : Port} (h : reqPort i = some p) (s : State) : exec i s = .next (s.requestOn p i) := by
  cases i <;> cases h <;> rfl

/-- The mailbox answers the request that has been started. -/
theorem State.requestOn_mailbox {s : State} {i : Instr} (hr : s.running = true) (hb : s.boot.ready = true) (hm : s.mbx.busy = true)
    (hc : s.mbx.code = reqCode i) :
    let data := if isStatus (reqCode i) then s.statusData (reqCode i) else []
    s.requestOn .mailbox i = { s with mbx := { s.mbx with
      busy := false, done := true, seq := s.mbx.reqSeq, resp := data,
      len := data.length, status := if isStatus (reqCode i) then 0 else 1 } }.raiseVector 1058 := by
  intro data
  have h : (s.running && s.boot.ready && s.mbx.busy && decide (s.mbx.code = reqCode i)) = true := by simp [hr, hb, hm, hc]
  have e : s.requestOn .mailbox i =
      if isStatus (reqCode i) then s.answerMailbox 0 (s.statusData (reqCode i)) else s.answerMailbox 1 [] := if_pos h
  by_cases hs : isStatus (reqCode i) = true
  · rw [e, if_pos hs]
    simp only [data, if_pos hs]
    rfl
  · rw [e, if_neg hs]
    simp only [data, if_neg hs]
    rfl

/-- A request that comes while another is outstanding is answered BUSY. -/
theorem State.requestOn_busy {s : State} {i : Instr} (seq : BitVec 16) (hp : s.portOk = true)
    (h : s.sec.mgmtWait.isSome = true ∨ s.sec.mgmtResp ≠ []) :
    s.requestOn (.i3c seq) i = s.respond (reqCode i) seq .busy [] := by
  have hb : (s.sec.mgmtWait.isSome || !s.sec.mgmtResp.isEmpty) = true := by simpa using h
  have hp' : ¬ (!s.portOk) = true := by simp [hp]
  exact (if_neg hp').trans (if_pos hb)

/-- The lengths of the status responses (Table 22.6). -/
theorem State.statusData_lengths (s : State) : (s.statusData 1).length = 128 ∧ (s.statusData 2).length = 12 ∧
    (s.statusData 3).length = 16 ∧ (s.statusData 4).length = 24 := by
  refine ⟨?_, ?_, ?_, ?_⟩
  · exact leBytes_length _ _
  · simp [State.statusData, List.range_succ]
  · simp [State.statusData]
  · simp [State.statusData]

/-- A request that the port handles is answered at once. -/
theorem exec_handled {s t : State} {i : Instr} {seq : BitVec 16} {st : MgmtStatus} {data : List Byte} (hi : reqPort i = some (.i3c seq))
    (h : Requesting s i) (hd : s.handle true i = .done st data t) : exec i s = .next (t.answered i seq st data).carryOn := by
  rw [exec_request hi, h.requestOn hd]

/-- Settles O37. -/
theorem requestsAreAnswered : Obligations.RequestsAreAnswered := by
  refine ⟨fun i s hi hr hb hm hc => ?_, fun seq s i hi h => ?_, State.statusData_lengths, fun seq i s hi hp h => ?_⟩
  · exact (exec_request hi s).trans (congrArg Host.Outcome.next (State.requestOn_mailbox hr hb hm hc))
  · simp only [List.mem_cons, List.not_mem_nil, or_false] at hi
    rcases hi with rfl | rfl | rfl | rfl
    · exact exec_handled rfl h rfl
    · exact exec_handled rfl h rfl
    · exact exec_handled rfl h rfl
    · exact exec_handled rfl h rfl
  · rw [exec_request hi, State.requestOn_busy seq hp h]
    rfl

end Sys2Proof.Machine
end

section
/-! PROOFS. Requests on the management port: firmware, self-test and the policy of faults.
-/

namespace Sys2Proof.Machine

/-! ### Flash (R461) -/

/-- Bytes that are stored one after another from an offset on. -/
theorem Store.get_putAll_zipIdx {α : Type} [DecidableEq α] (d : α) (off a : Nat) (data : List α) : ∀ (n : Nat) (m : Store α),
    Store.get d a (Store.putAll d ((data.zipIdx n).map (fun q => (off + q.2, q.1))) m) =
      if off + n ≤ a ∧ a < off + n + data.length then data.getD (a - (off + n)) d else Store.get d a m := by
  induction data with
  | nil => intro n m; rw [if_neg (by simp only [List.length_nil]; omega)]; rfl
  | cons b data ih =>
    intro n m
    have e : Store.putAll d (((b :: data).zipIdx n).map (fun q => (off + q.2, q.1))) m =
      Store.putAll d ((data.zipIdx (n + 1)).map (fun q => (off + q.2, q.1))) (Store.put d (off + n) b m) := rfl
    rw [e, ih (n + 1), Store.get_put, List.length_cons]
    by_cases ha : a = off + n
    · subst ha
      rw [if_neg (by omega), if_pos rfl, if_pos (by omega), Nat.sub_self]
      rfl
    · by_cases hb : off + (n + 1) ≤ a ∧ a < off + (n + 1) + data.length
      · rw [if_pos hb, if_pos (by omega)]
        have e : a - (off + n) = a - (off + (n + 1)) + 1 := by omega
        rw [e, List.getD_cons_succ]
      · rw [if_neg hb, if_neg ha, if_neg (by omega)]

/-! ### The self-test error state (R446, R455) -/

/-- A source of the RNG has no unit to fence. -/
theorem State.raise_rng (s : State) (k d : Nat) : s.raise .rng k d = s.enterRaise .rng k false d := by
  unfold State.raise
  exact ite_self _

/-- An encrypted link is taken down. -/
def State.encryptedDown (s : State) (l : Nat) : State :=
  if (s.link l).encrypted then s.takeDown l 5 lnkDown false else s

theorem State.encryptedDown_takes (s : State) (l : Nat) :
    { s.encryptedDown l with links := s.links } = s ∧ (∀ m, m ≠ l → (s.encryptedDown l).link m = s.link m) ∧
    ((s.link l).encrypted = true → ((s.encryptedDown l).link l).state = lnkDown) := by
  unfold State.encryptedDown
  by_cases h : (s.link l).encrypted = true
  · obtain ⟨x, hx, ho⟩ := s.takeDown_only l 5 lnkDown false
    rw [if_pos h]
    exact ⟨ho.rest, ho.others, fun _ => by rw [ho.here, hx]⟩
  · rw [if_neg h]
    exact ⟨rfl, fun _ _ => rfl, fun h' => (h h').elim⟩

/-- Work on each unit of a list in turn, that leaves every other unit: what it makes of a unit turns on that unit. -/
theorem foldl_each {α : Type} {get : State → Nat → α} {f : State → Nat → State} (hf : ∀ s l m, m ≠ l → get (f s l) m = get s m)
    (l : List Nat) (hn : l.Nodup) (s : State) :
    (∀ m, m ∉ l → get (l.foldl f s) m = get s m) ∧
    ∀ m, m ∈ l → ∃ u : State, get u m = get s m ∧ get (l.foldl f s) m = get (f u m) m := by
  induction l generalizing s with
  | nil => exact ⟨fun _ _ => rfl, fun m hm => (nomatch hm)⟩
  | cons k l ih =>
    obtain ⟨hk, hl⟩ := List.nodup_cons.mp hn
    obtain ⟨io, iu⟩ := ih hl (f s k)
    rw [List.foldl_cons]
    refine ⟨fun m hm => ?_, fun m hm => ?_⟩
    · obtain ⟨h1, h2⟩ := not_or.mp (fun h => hm (List.mem_cons.mpr h))
      exact (io m h2).trans (hf s k m h1)
    · by_cases e : m = k
      · subst e
        exact ⟨s, rfl, io m hk⟩
      · obtain ⟨u, h1, h2⟩ := iu m ((List.mem_cons.mp hm).resolve_left e)
        exact ⟨u, h1.trans (hf s k m e), h2⟩

/-- Work on links, each of which changes its own link only. -/
theorem State.foldl_links {f : State → Nat → State}
    (hf : ∀ s l, { f s l with links := s.links } = s ∧ ∀ m, m ≠ l → (f s l).link m = s.link m) (l : List Nat) (hn : l.Nodup) (s : State) :
    { l.foldl f s with links := s.links } = s ∧ (∀ m, m ∉ l → (l.foldl f s).link m = s.link m) ∧
    ∀ m, m ∈ l → ∃ u : State, u.link m = s.link m ∧ (l.foldl f s).link m = (f u m).link m := by
  refine ⟨foldl_keep (P := fun t => { t with links := s.links } = s) (fun t k h => ?_) l s rfl, foldl_each (fun s l => (hf s l).2) l hn s⟩
  exact (congrArg (fun (v : State) => { v with links := s.links }) (hf t k).1).trans h

/-- Encrypted links of a list are down. -/
theorem State.encryptedDown_foldl (l : List Nat) (hn : l.Nodup) (s : State) :
    { l.foldl State.encryptedDown s with links := s.links } = s ∧
    ∀ m, m ∈ l → (s.link m).encrypted = true → ((l.foldl State.encryptedDown s).link m).state = lnkDown := by
  obtain ⟨h1, -, h2⟩ := State.foldl_links (fun s l => ⟨(s.encryptedDown_takes l).1, (s.encryptedDown_takes l).2.1⟩) l hn s
  refine ⟨h1, fun m hm he => ?_⟩
  obtain ⟨u, hu, e⟩ := h2 m hm
  rw [e]
  exact (u.encryptedDown_takes m).2.2 (by rw [hu]; exact he)

/-- What fences of ports leave: the security block, links and histories, and what ports are. -/
structure PortsFenced (s t : State) : Prop where
  sec : t.sec = s.sec
  links : t.links = s.links
  blocks : t.blocks = s.blocks
  cxls : t.cxls = s.cxls
  fenced : ∀ p, s.cxlFenced p = true → t.cxlFenced p = true

theorem PortsFenced.refl (s : State) : PortsFenced s s := ⟨rfl, rfl, rfl, rfl, fun _ h => h⟩

theorem PortsFenced.trans {s t u : State} (h : PortsFenced s t) (k : PortsFenced t u) : PortsFenced s u :=
  ⟨k.sec.trans h.sec, k.links.trans h.links, k.blocks.trans h.blocks, k.cxls.trans h.cxls, fun p hp => k.fenced p (h.fenced p hp)⟩

/-- The fence of a port. -/
theorem State.fenceCxl_ports (s : State) (p : Nat) : PortsFenced s (s.fenceCxl p) ∧ (p < 2 → (s.fenceCxl p).cxlFenced p = true) := by
  by_cases h : s.cxlFenced p = true
  · have e : s.fenceCxl p = s := if_pos h
    rw [e]
    exact ⟨.refl s, fun _ => h⟩
  · have hl := State.fenceCxl_lossy (s := s) (p := p) (by simpa using h)
    have kf : (s.fenceCxl p).flt = { s.flt with cxls := s.flt.cxls ||| (1#2 <<< p) } := by
      have e := congrArg State.flt hl; exact e
    refine ⟨⟨?_, ?_, ?_, ?_, fun q hq => ?_⟩, fun hp => ?_⟩
    · have e := congrArg State.sec hl; exact e
    · have e := congrArg State.links hl; exact e
    · have e := congrArg State.blocks hl; exact e
    · have e := congrArg State.cxls hl; exact e
    · have e : s.flt.cxls.getLsbD q = true := hq
      rw [State.cxlFenced, kf, BitVec.getLsbD_or, e, Bool.true_or]
    · rw [State.cxlFenced, kf, getLsbD_or_one _ hp]
      simp

/-- An encrypted port is fenced. -/
def State.fenceIfEncrypted (s : State) (p : Nat) : State := if (s.cxl p).enc then s.fenceCxl p else s

theorem State.fenceIfEncrypted_ports (s : State) (p : Nat) : PortsFenced s (s.fenceIfEncrypted p) ∧
    (p < 2 → (s.cxl p).enc = true → (s.fenceIfEncrypted p).cxlFenced p = true) := by
  unfold State.fenceIfEncrypted
  split
  · obtain ⟨h, k⟩ := s.fenceCxl_ports p
    exact ⟨h, fun hp _ => k hp⟩
  · rename_i h
    exact ⟨.refl s, fun _ h' => (h h').elim⟩

/-- Every encrypted port is fenced (R455, R467). -/
theorem State.fenceEncrypted_ports (s : State) : PortsFenced s s.fenceEncrypted ∧
    ∀ p, p < 2 → (s.cxl p).enc = true → s.fenceEncrypted.cxlFenced p = true := by
  obtain ⟨h0, k0⟩ := s.fenceIfEncrypted_ports 0
  obtain ⟨h1, k1⟩ := (s.fenceIfEncrypted 0).fenceIfEncrypted_ports 1
  have e : s.fenceEncrypted = (s.fenceIfEncrypted 0).fenceIfEncrypted 1 := rfl
  rw [e]
  refine ⟨h0.trans h1, fun p hp he => ?_⟩
  obtain rfl | rfl : p = 0 ∨ p = 1 := by omega
  · exact h1.fenced 0 (k0 hp he)
  · exact k1 hp (by rw [State.cxl, h0.cxls]; exact he)

/-- A raise sets its status bit. -/
theorem State.enterRaise_status (s : State) (b : BlockId) (k : Nat) (m : Bool) (d : Nat) :
    ((s.enterRaise b k m d).block b).status = (s.block b).status ||| (1#32 <<< k) := by
  rw [(s.enterRaise_takes b k m d).1]

/-- What the failure of a self-test makes of the device. -/
structure SelfTestFailed (s t : State) : Prop where
  told : t.sec.selfTestFail = true
  mode : t.sec.approved = false
  rng : t.sec.rng = 2
  source1 : (t.block .rng).status.getLsbD 1 = true
  source0 : (t.block .rng).status.getLsbD 0 = true
  links : ∀ l, l < 4 → (s.link l).encrypted = true → (t.link l).state = lnkDown
  ports : ∀ p, p < 2 → (s.cxl p).enc = true → t.cxlFenced p = true

theorem State.selfTestError_takes (s : State) : SelfTestFailed s s.selfTestError := by
  let a := s.enterRaise .rng 1 false 0
  let b := (a.modSec (fun x => { x with rng := 2, reseeding := false, gens := 0, drbg := drbg0, reseedInput := [] })).enterRaise .rng 0 false 0
  let c := (List.range 4).foldl State.encryptedDown b
  have e : s.selfTestError = c.fenceEncrypted.modSec (fun x => { x with selfTestFail := true, approved := false }) := by
    unfold State.selfTestError State.rngFail
    rw [State.raise_rng, State.raise_rng]
    rfl
  have ha := s.enterRaise_rest .rng 1 false 0
  have as := s.enterRaise_status .rng 1 false 0
  change { a with blocks := s.blocks, flt := s.flt, pcie := s.pcie, bus := s.bus } = s at ha
  change (a.block .rng).status = _ at as
  clear_value a
  let a' := a.modSec (fun x => { x with rng := 2, reseeding := false, gens := 0, drbg := drbg0, reseedInput := [] })
  have hb := a'.enterRaise_rest .rng 0 false 0
  have bs : (b.block .rng).status = (a.block .rng).status ||| (1#32 <<< 0) := a'.enterRaise_status .rng 0 false 0
  change { b with blocks := a'.blocks, flt := a'.flt, pcie := a'.pcie, bus := a'.bus } = a' at hb
  clear_value b
  have brng : b.sec.rng = 2 := by have e := congrArg (fun x : State => x.sec.rng) hb; exact e
  have blinks : b.links = s.links := by
    have e := congrArg State.links hb
    have e' := congrArg State.links ha
    exact Eq.trans e e'
  have bcxls : b.cxls = s.cxls := by
    have e := congrArg State.cxls hb
    have e' := congrArg State.cxls ha
    exact Eq.trans e e'
  obtain ⟨hc, cd⟩ := State.encryptedDown_foldl (List.range 4) List.nodup_range b
  change { c with links := b.links } = b at hc
  change ∀ m, _ → _ → (c.link m).state = lnkDown at cd
  clear_value c
  have cs : c.sec = b.sec := by have e := congrArg State.sec hc; exact e
  have cb : c.blocks = b.blocks := by have e := congrArg State.blocks hc; exact e
  have cx : c.cxls = b.cxls := by have e := congrArg State.cxls hc; exact e
  obtain ⟨hd, hp⟩ := c.fenceEncrypted_ports
  have st : (c.fenceEncrypted.block .rng).status = ((s.block .rng).status ||| (1#32 <<< 1)) ||| (1#32 <<< 0) := by
    rw [State.block, hd.blocks, cb, ← as, ← bs]
    rfl
  rw [e]
  refine ⟨rfl, rfl, ?_, ?_, ?_, fun l hl he => ?_, fun p h2 he => ?_⟩
  · show c.fenceEncrypted.sec.rng = 2
    rw [hd.sec, cs, brng]
  · show (c.fenceEncrypted.block .rng).status.getLsbD 1 = true
    rw [st, getLsbD_or_one _ (by decide), getLsbD_or_one _ (by decide)]
    simp
  · show (c.fenceEncrypted.block .rng).status.getLsbD 0 = true
    rw [st, getLsbD_or_one _ (by decide)]
    simp
  · show (c.fenceEncrypted.link l).state = lnkDown
    rw [State.link, hd.links]
    refine cd l (List.mem_range.mpr hl) ?_
    rw [State.link, blinks]
    exact he
  · refine hp p h2 ?_
    rw [State.cxl, cx, bcxls]
    exact he

/-- Settles O38. -/
theorem firmwareRequests : Obligations.FirmwareRequests := by
  refine ⟨?write, ?inUse, ?bad, ?verify, ?image, ?config, ?pass, ?fail⟩
  case write =>
    intro seq k slot off data s h hr h1 h2
    have hb : ¬ (decide (flashSize < off + data.length) || decide (4096 < data.length)) = true := by
      simp only [Bool.or_eq_true, decide_eq_true_eq]; omega
    have hd : s.handle true (.fwWrite (.i3c seq) k slot off data) = .done .ok [] _ := (if_neg hr).trans (if_neg hb)
    refine ⟨_, exec_handled rfl h hd, fun j a => ?_, rfl⟩
    have e := Store.get_putAll_zipIdx (0#8) off a data 0 (Store.get [] (flashIndex k slot.val) s.sec.flash)
    rw [Nat.add_zero] at e
    show Store.get 0#8 a (Store.get [] j (Store.put [] (flashIndex k slot.val) _ s.sec.flash)) = _
    rw [Store.get_put]
    by_cases hj : j = flashIndex k slot.val
    · subst hj
      rw [if_pos rfl, e]
      by_cases ha : off ≤ a ∧ a < off + data.length
      · rw [if_pos ha, if_pos ⟨rfl, ha⟩]
      · rw [if_neg ha, if_neg (fun h => ha h.2)]
    · rw [if_neg hj, if_neg (fun h => hj h.1)]
  case inUse =>
    intro seq k slot off data s h hr
    exact exec_handled rfl h (if_pos hr)
  case bad =>
    intro seq k slot off data s h hr hb
    have hb' : (decide (flashSize < off + data.length) || decide (4096 < data.length)) = true := by simpa using hb
    exact exec_handled rfl h ((if_neg hr).trans (if_pos hb'))
  case verify =>
    intro seq k c s h slot
    refine exec_handled rfl h ?_
    have hg : s.sec.genuine k slot c = true ↔ c.sigOk = true ∧ s.sec.anchored k slot = true ∧ s.sec.flashNat k slot 4 2 = kindCode k := by
      simp only [Sec.genuine, Bool.and_eq_true, decide_eq_true_eq, and_assoc]
    show s.doFwVerify k c = _
    have e : s.doFwVerify k c = if s.sec.accepts k slot c then .done .ok [] s
        else if s.sec.genuine k slot c then .done .rollback [] s else .done .verifyFailed [] s := by
      unfold State.doFwVerify
      dsimp only
      split
      · rename_i h1; rw [show slot = 0 from if_pos h1]
      · rename_i h1; rw [show slot = 1 from if_neg h1]
    rw [e]
    by_cases ha : s.sec.accepts k slot c = true
    · rw [if_pos ha, if_pos ha]
    · rw [if_neg ha, if_neg ha]
      by_cases hk : s.sec.genuine k slot c = true
      · rw [if_pos hk, if_pos (hg.mp hk)]
      · rw [if_neg hk, if_neg (fun h => hk (hg.mpr h))]
  case image =>
    intro seq s h hr
    refine exec_handled rfl h ?_
    show s.doFwCommit .image = _
    simp [State.doFwCommit, Sec.running, hr, State.modSec]
  case config =>
    intro seq s h hr
    refine exec_handled rfl h ?_
    show s.doFwCommit .config = _
    simp [State.doFwCommit, Sec.running, hr, State.modSec]
  case pass =>
    intro seq s h
    exact exec_handled rfl h rfl
  case fail =>
    intro seq s h
    obtain ⟨h1, h2, h3, h4, h5, h6, h7⟩ := s.selfTestError_takes
    exact ⟨s.selfTestError, exec_handled rfl h rfl, h1, h2, h3, h4, h5, h6, h7⟩

/-! ### Policy (R416, R424, R432) -/

/-- A two-bit value in its field. -/
theorem getLsbD_field {k v j i : Nat} (hk : k < 32) (hv : v < 4) (hi : i < 2) :
    (BitVec.ofNat 64 v <<< (2 * k)).getLsbD (2 * j + i) = (decide (j = k) && v.testBit i) := by
  rw [BitVec.getLsbD_shiftLeft, BitVec.getLsbD_ofNat]
  rcases Nat.lt_trichotomy j k with h | h | h
  · have h1 : 2 * j + i < 2 * k := by omega
    simp [h1, h.ne]
  · subst h
    have h1 : 2 * j + i - 2 * j = i := by omega
    have h2 : 2 * j + i < 64 := by omega
    have h3 : i < 64 := by omega
    simp [h1, h2, h3]
  · have h1 : v.testBit (2 * j + i - 2 * k) = false :=
      Nat.testBit_lt_two_pow (lt_of_lt_of_le hv (Nat.pow_le_pow_right (n := 2) (by decide) (by omega : 2 ≤ _)))
    simp [h1, h.ne']

/-- The severity field of a source, and of any other, after one is written. -/
theorem severity_set (f : FltIf) {k v j : Nat} (hk : k < 32) (hv : v < 4) (hj : j < 32) :
    FltIf.severity { f with sev := (f.sev &&& ~~~(3#64 <<< (2 * k))) ||| (BitVec.ofNat 64 v <<< (2 * k)) } j =
      if j = k then v else f.severity j := by
  unfold FltIf.severity natBits
  refine Nat.eq_of_testBit_eq (fun i => ?_)
  have bit (x : BitVec 64) : ((x.toNat >>> (2 * j)) % 2 ^ (2 * j + 1 + 1 - 2 * j)).testBit i = (decide (i < 2) && x.getLsbD (2 * j + i)) := by
    have e : 2 * j + 1 + 1 - 2 * j = 2 := by omega
    rw [e, Nat.testBit_mod_two_pow, Nat.testBit_shiftRight]
    rfl
  rw [bit]
  by_cases hi : i < 2
  · have h64 : 2 * j + i < 64 := by omega
    have hf : (BitVec.ofNat 64 v <<< (2 * k)).getLsbD (2 * j + i) = (decide (j = k) && v.testBit i) := getLsbD_field hk hv hi
    have hm : (3#64 <<< (2 * k)).getLsbD (2 * j + i) = decide (j = k) := by
      have h3 : Nat.testBit 3 i = true := by interval_cases i <;> decide
      exact (getLsbD_field hk (by decide) hi).trans (by rw [h3, Bool.and_true])
    simp only [BitVec.getLsbD_or, BitVec.getLsbD_and, BitVec.getLsbD_not, hf, hm]
    by_cases hjk : j = k
    · simp [hjk, hi]
    · rw [if_neg hjk, bit]
      simp [hjk, hi, h64]
  · have h2 : v.testBit i = false := Nat.testBit_lt_two_pow (lt_of_lt_of_le hv (Nat.pow_le_pow_right (n := 2) (by decide) (by omega : 2 ≤ i)))
    split
    · simp [hi, h2]
    · rw [bit]; simp [hi]

/-- The fence of a span sets its bit. -/
theorem State.fenceSpan_fenced (s : State) {n : Nat} (hn : n < 16) : (s.fenceSpan n).spanFenced n = true := by
  by_cases h : s.spanFenced n = true
  · have e : s.fenceSpan n = s := if_pos h
    rw [e, h]
  · have hl := (State.fenceSpan_spanLossy (s := s) (n := n) (by simpa using h)).rest
    have kf : (s.fenceSpan n).flt = { s.flt with spans := s.flt.spans ||| (1#16 <<< n) } := by
      have e := congrArg State.flt hl; exact e
    rw [State.spanFenced, kf, getLsbD_or_one _ hn]
    simp

/-- The fence of a memory stop sets its bit. -/
theorem State.fenceMem_fenced (s : State) {n : Nat} (hn : n < 8) : (s.fenceMem n).memFenced n = true := by
  by_cases h : s.memFenced n = true
  · have e : s.fenceMem n = s := if_pos h
    rw [e, h]
  · have hl := State.fenceMem_lossy (s := s) (n := n) (by simpa using h)
    have kf : (s.fenceMem n).flt = { s.flt with mems := s.flt.mems ||| (1#8 <<< n) } := by
      have e := congrArg State.flt hl; exact e
    rw [State.memFenced, kf, getLsbD_or_one _ hn]
    simp

/-- The fence of a link sets its bit, and keeps the fenced lanes of every link. -/
theorem State.fenceLink_fenced (s : State) {l : Nat} (hl : l < 4) (cause : Nat) :
    (s.fenceLink l cause).linkFenced l = true ∧ (s.fenceLink l cause).flt.lanes = s.flt.lanes := by
  by_cases h : s.linkFenced l = true
  · have e : s.fenceLink l cause = s := if_pos h
    rw [e]
    exact ⟨h, rfl⟩
  · obtain ⟨x, -, ho⟩ := (s.withFlt { s.flt with links := s.flt.links ||| (1#4 <<< l) }).takeDown_only l cause lnkDown true
    have e : s.fenceLink l cause = (s.withFlt { s.flt with links := s.flt.links ||| (1#4 <<< l) }).takeDown l cause lnkDown true :=
      if_neg h
    rw [← e] at ho
    have kf : (s.fenceLink l cause).flt = { s.flt with links := s.flt.links ||| (1#4 <<< l) } := by
      have e := congrArg State.flt ho.rest; exact e
    refine ⟨?_, by rw [kf]⟩
    rw [State.linkFenced, kf, getLsbD_or_one _ hl]
    simp

/-- A link that trains again is the only unit that changes. -/
theorem State.retrainTo_only (s : State) (l width : Nat) : ∃ x, LinkOnly s (s.retrainTo l width) l x := by
  unfold State.retrainTo
  exact ⟨_, LinkOnly.modLink s l _⟩

/-- The loss of lanes changes the link only. -/
theorem State.loseLanes_only (s : State) (l : Nat) (lanes : BitVec 8) : ∃ x, LinkOnly s (s.loseLanes l lanes).2 l x := by
  unfold State.loseLanes
  extract_lets x failed live t
  have ht : LinkOnly s t l { x with failed := failed } := LinkOnly.modLink s l _
  clear_value t
  split
  · rename_i w _
    dsimp only
    split
    · obtain ⟨y, hy⟩ := t.sendNeighbour_only l 0xF 3 (leBytes 1 (max w x.width) ++ leBytes 1 (~~~failed).toNat)
      obtain ⟨z, hz⟩ := State.retrainTo_only _ l (max w x.width)
      exact ⟨_, (ht.trans hy).trans hz⟩
    · exact ⟨_, ht⟩
  · dsimp only
    split
    · obtain ⟨y, -, hy⟩ := t.takeDown_only l 2 lnkDown false
      exact ⟨_, ht.trans hy⟩
    · exact ⟨_, ht⟩

/-- The fence of lanes adds them to those that are fenced. -/
theorem State.fenceLanes_fenced (s : State) (l mask : Nat) :
    (s.fenceLanes l mask).fencedLanes l = s.fencedLanes l ||| BitVec.ofNat 8 mask := by
  unfold State.fenceLanes
  extract_lets lanes f t
  have ht : t.fencedLanes l = lanes := by
    show BitVec.ofNat 8 (Store.get 0 l (Store.put 0 l lanes.toNat s.flt.lanes)) = lanes
    rw [Store.get_put_self]
    exact BitVec.ofNat_toNat _ _
  split
  · exact ht
  · obtain ⟨x, ho⟩ := t.loseLanes_only l lanes
    have kf : (t.loseLanes l lanes).2.flt = t.flt := by have e := congrArg State.flt ho.rest; exact e
    rw [State.fencedLanes, kf]
    exact ht

/-- A link that goes down for its lanes is told of as source 1, whose fence keeps the fenced lanes. -/
theorem State.raise_lanes (s : State) (l : Fin 4) (d : Nat) : (s.raise (.lnk l) 1 d).flt.lanes = s.flt.lanes := by
  have he : (s.enterRaise (.lnk l) 1 false d).flt.lanes = s.flt.lanes := by
    rw [(s.enterRaise_takes (.lnk l) 1 false d).2]
    repeat' split
    all_goals rfl
  unfold State.raise
  dsimp only
  split
  · exact ((s.enterRaise (.lnk l) 1 false d).fenceLink_fenced l.isLt 0).2.trans he
  · exact he

/-- A fence on request fences its unit (R424). -/
theorem State.fenceNamed_fences (s : State) (u : FenceUnit) :
    match u with
    | .span n => (s.fenceNamed u).spanFenced n.val = true
    | .mem n => (s.fenceNamed u).memFenced n.val = true
    | .lanes l mask => (s.fenceNamed u).fencedLanes l.val = s.fencedLanes l.val ||| BitVec.ofNat 8 mask.toNat
    | .link l => (s.fenceNamed u).linkFenced l.val = true
    | .cxl p => (s.fenceNamed u).cxlFenced p.val = true := by
  cases u with
  | span n => exact s.fenceSpan_fenced n.isLt
  | mem n => exact s.fenceMem_fenced n.isLt
  | link l => exact (s.fenceLink_fenced l.isLt 0).1
  | cxl p => exact (s.fenceCxl_ports p.val).2 p.isLt
  | lanes l mask =>
    have h := s.fenceLanes_fenced l.val mask.toNat
    show (s.fenceNamed (.lanes l mask)).fencedLanes l.val = _
    unfold State.fenceNamed
    dsimp only
    split
    · rw [State.fencedLanes, State.raise_lanes]
      exact h
    · exact h

/-- A number in a range, when it is given. -/
theorem inRange_iff {lo hi : Nat} {o : Option Nat} : inRange lo hi o = true ↔ ∀ v, o = some v → lo ≤ v ∧ v ≤ hi := by
  cases o with
  | none => simp [inRange]
  | some v => simp [inRange]

/-- Settles O39. -/
theorem policyRequests : Obligations.PolicyRequests := by
  refine ⟨?severity, ?fence, ?param⟩
  case severity =>
    intro seq b k sev s i h hk
    have hk' : ¬ sourceCount b ≤ k.val := by omega
    refine ⟨fun hf => exec_handled rfl h ((if_neg hk').trans (if_pos hf)), fun hf => ?_⟩
    have hf' : ¬ fixedSeverity b k.val = true := by simp [hf]
    let x : FltIf := { s.block b with
      sev := ((s.block b).sev &&& ~~~(3#64 <<< (2 * k.val))) ||| (BitVec.ofNat 64 sev.val <<< (2 * k.val)) }
    refine ⟨x, exec_handled rfl h ((if_neg hk').trans ((if_neg hf').trans rfl)), rfl, fun j hj => ?_⟩
    exact severity_set (s.block b) k.isLt sev.isLt hj
  case fence =>
    intro seq u s h
    refine ⟨s.fenceNamed u, exec_handled rfl h rfl, ?_⟩
    have k := s.fenceNamed_fences u
    cases u <;> exact k
  case param =>
    intro seq esc quiet limit window s i fits all h
    have ha : (inRange 1 16000 esc && inRange 1000 600000 quiet && inRange 1 255 limit && inRange 1 86400 window) = true ↔ all := by
      simp only [Bool.and_eq_true, inRange_iff, and_assoc, all, fits]
    exact ⟨fun k => exec_handled rfl h (if_pos (ha.mpr k)), fun k => exec_handled rfl h (if_neg (fun h => k (ha.mp h)))⟩

end Sys2Proof.Machine
end

section
/-! PROOFS. Requests on the management port: keys and random numbers.
-/

namespace Sys2Proof.Machine

/-! ### Wrapping (R456) -/

/-- The exclusive or with a string that is long enough is its own inverse. -/
theorem xorBytes_xorBytes {l pad : List Byte} (h : l.length ≤ pad.length) : xorBytes (xorBytes l pad) pad = l := by
  unfold xorBytes
  induction l generalizing pad with
  | nil => rfl
  | cons b l ih =>
    cases pad with
    | nil => simp at h
    | cons p pad =>
      have e : b ^^^ p ^^^ p = b := by rw [BitVec.xor_assoc, BitVec.xor_self, BitVec.xor_zero]
      simp only [List.zipWith_cons_cons, e, ih (Nat.le_of_succ_le_succ h)]

/-- What is encrypted twice with the same counter blocks is itself. -/
theorem gcmText_gcmText (key : BitVec 256) (iv l : List Byte) :
    (gcmText key iv l).length = l.length ∧ gcmText key iv (gcmText key iv l) = l := by
  have hp : l.length ≤ ((List.range (ceilDiv l.length 16)).flatMap (fun i => blockBytes (aes256 key (gcmBlock iv (i + 2))))).length := by
    simp only [List.length_flatMap, blockBytes_length, List.map_const', List.sum_replicate, List.length_range, smul_eq_mul, ceilDiv]
    omega
  have hl : (gcmText key iv l).length = l.length := by
    show (xorBytes l _).length = _
    rw [xorBytes, List.length_zipWith]
    exact Nat.min_eq_left hp
  refine ⟨hl, ?_⟩
  show xorBytes (gcmText key iv l) ((List.range (ceilDiv (gcmText key iv l).length 16)).flatMap _) = l
  rw [hl]
  exact xorBytes_xorBytes hp

/-- A wrapped key unwraps to itself, with the wrapping keys of the same boot. -/
theorem State.unwrap_wrapKey (s : State) (slot : Nat) (plain : List Byte) {x : Sec} (hx : x.wrapSeed = s.sec.wrapSeed) :
    x.unwrap slot (s.wrapKey slot plain).1 = plain := by
  have hk : x.wrapping slot = (s.generate 12).2.sec.wrapping slot := by unfold Sec.wrapping; rw [hx]; rfl
  unfold Sec.unwrap
  rw [hk]
  generalize hkey : (s.generate 12).2.sec.wrapping slot = key
  generalize hiv : (s.generate 12).1 = iv
  have e : (s.wrapKey slot plain).1 = ⟨iv, gcmText key iv plain ++ gcmTag key iv [] (gcmText key iv plain)⟩ := by
    rw [← hkey, ← hiv]; rfl
  have ht (t : List Byte) : (gcmTag key iv [] t).length = 16 := blockBytes_length _
  rw [e]
  dsimp only
  rw [List.length_append, ht, Nat.add_sub_cancel, List.take_left]
  exact (gcmText_gcmText key iv plain).2

/-! ### Requests that need the DRBG (R451, R452) -/

/-- With the RNG READY and no reseed in progress or due, the request is handled. -/
theorem State.withRng_ready {s : State} (hr : s.sec.rng = 1) (hh : s.rngHeld = false) (f : State → Reply) : s.withRng f = f s := by
  have h1 : ¬ s.sec.rng = 2 := by omega
  have h2 : ¬ (decide (s.sec.rng = 0) || s.rngHeld) = true := by simp [hr, hh]
  unfold State.withRng
  rw [if_neg h1, if_neg h2]

/-! ### Keys (R457) -/

/-- A cleared key whose slot is in use takes its link down. -/
def State.downIf (hit : Nat → Bool) (s : State) (l : Nat) : State := if hit l then s.takeDown l 4 lnkDown false else s

theorem State.downIf_takes (hit : Nat → Bool) (s : State) (l : Nat) :
    ({ s.downIf hit l with links := s.links } = s ∧ ∀ m, m ≠ l → (s.downIf hit l).link m = s.link m) ∧
    (hit l = true → ((s.downIf hit l).link l).state = lnkDown) ∧ (¬ hit l = true → s.downIf hit l = s) := by
  unfold State.downIf
  by_cases h : hit l = true
  · obtain ⟨x, hx, ho⟩ := s.takeDown_only l 4 lnkDown false
    rw [if_pos h]
    exact ⟨⟨ho.rest, ho.others⟩, fun _ => by rw [ho.here, hx], fun h' => (h' h).elim⟩
  · rw [if_neg h]
    exact ⟨⟨rfl, fun _ _ => rfl⟩, fun h' => (h h').elim, fun _ => rfl⟩

/-- A key of a mask that a link uses. -/
def State.clearedInUse (s : State) (slots l : Nat) : Prop :=
  ∃ (d : Bool) (k : Nat), k < 2 ∧ natBit slots (keyIndex l d k) = true ∧ (s.link l).slotInUse d k = true

/-- Key slots of a mask are cleared, others stay, and a link whose key in use is cleared is down. -/
theorem State.zeroizeKeys_takes (s : State) (slots : Nat) :
    let t := s.zeroizeKeys slots
    (∀ j, Store.get none j t.sec.keys = if natBit slots j then none else Store.get none j s.sec.keys) ∧
    (∀ p, Store.get none p t.sec.cxlKeys = if natBit slots (16 + p) then none else Store.get none p s.sec.cxlKeys) ∧
    (∀ l, l < 4 → (s.clearedInUse slots l → (t.link l).state = lnkDown) ∧ (¬ s.clearedInUse slots l → t.link l = s.link l)) ∧
    { t with sec := { t.sec with keys := s.sec.keys, cxlKeys := s.sec.cxlKeys }, links := s.links } = s := by
  let on (l : Nat) : Bool := [false, true].any (fun d => [0, 1].any (fun k =>
    natBit slots (keyIndex l d k) && (s.link l).slotInUse d k))
  let a : State := s.modSec (fun x => { x with
    keys := x.keys.filter (fun k => !natBit slots k.1)
    cxlKeys := x.cxlKeys.filter (fun k => !natBit slots (16 + k.1)) })
  have hon (l : Nat) : on l = true ↔ s.clearedInUse slots l := by
    simp only [on, State.clearedInUse, List.any_eq_true, Bool.and_eq_true]
    constructor
    · rintro ⟨d, -, k, hk, h1, h2⟩
      exact ⟨d, k, by simp at hk; omega, h1, h2⟩
    · rintro ⟨d, k, hk, h1, h2⟩
      exact ⟨d, by cases d <;> simp, k, by simp; omega, h1, h2⟩
  have e : s.zeroizeKeys slots = (List.range 4).foldl (State.downIf on) a := rfl
  obtain ⟨h1, h2, h3⟩ := State.foldl_links (f := State.downIf on) (fun s l => (s.downIf_takes on l).1) (List.range 4) List.nodup_range a
  rw [← e] at h1 h2 h3
  generalize s.zeroizeKeys slots = t at h1 h2 h3
  have ts : t.sec = a.sec := by have e := congrArg State.sec h1; exact e
  refine ⟨fun j => ?_, fun p => ?_, fun l hl => ?_, ?_⟩
  · rw [ts]
    show Store.get none j (s.sec.keys.filter (fun k => !natBit slots k.1)) = _
    rw [Store.get_filter none (fun k => !natBit slots k)]
    cases natBit slots j <;> rfl
  · rw [ts]
    show Store.get none p (s.sec.cxlKeys.filter (fun k => !natBit slots (16 + k.1))) = _
    rw [Store.get_filter none (fun k => !natBit slots (16 + k))]
    cases natBit slots (16 + p) <;> rfl
  · obtain ⟨u, hu, e⟩ := h3 l (List.mem_range.mpr hl)
    obtain ⟨-, k1, k2⟩ := u.downIf_takes on l
    refine ⟨fun hh => by rw [e]; exact k1 ((hon l).mpr hh), fun hh => ?_⟩
    rw [e, k2 (fun hl => hh ((hon l).mp hl)), hu]
    rfl
  · have e := congrArg (fun x : State => { x with sec := { x.sec with keys := s.sec.keys, cxlKeys := s.sec.cxlKeys } }) h1
    exact e

/-- Settles O40. -/
theorem keyRequests : Obligations.KeyRequests := by
  refine ⟨?install, ?switch, ?zeroize⟩
  case install =>
    intro seq l receive slot key salt s i k h hr hh
    have hd : s.handle true i = if (s.link l.val).slotInUse receive slot.val then .done .inUse [] s
        else .done .ok (keyCheck (keyBytes key)) ((s.wrapKey k (keyBytes key ++ leBytes 4 salt.toNat)).2.modSec (fun x =>
          { x with keys := Store.put none k (some (s.wrapKey k (keyBytes key ++ leBytes 4 salt.toNat)).1) x.keys })) := by
      show s.doKeyInstall l.val receive slot.val key salt = _
      unfold State.doKeyInstall
      rw [State.withRng_ready hr hh]
    refine ⟨fun hu => exec_handled rfl h (hd.trans (if_pos hu)), fun hu => ?_⟩
    have hu' : ¬ (s.link l.val).slotInUse receive slot.val = true := by simp [hu]
    refine ⟨_, (s.wrapKey k (keyBytes key ++ leBytes 4 salt.toNat)).1, exec_handled rfl h (hd.trans (if_neg hu')),
      ?_, ?_, fun j hj => ?_, rfl, rfl, rfl⟩
    · show Store.get none k (Store.put none k (some _) s.sec.keys) = _
      exact Store.get_put_self
    · exact State.unwrap_wrapKey s k _ rfl
    · show Store.get none j (Store.put none k (some _) s.sec.keys) = _
      exact Store.get_put_ne hj
  case switch =>
    intro seq l s i x h he hk
    have hc : (x.txEnc && s.hasKey l.val false (1 - x.txSlot)) = true := by rw [he, hk]; rfl
    exact exec_handled rfl h (if_pos hc)
  case zeroize =>
    intro seq slots s i hit h
    exact ⟨s.zeroizeKeys slots.toNat, exec_handled rfl h rfl, s.zeroizeKeys_takes slots.toNat⟩

/-! ### Random numbers (R447, R450-R454) -/

/-- Time that passes leaves the security block. -/
theorem State.passTo_sec (s : State) (t : Nat) : (s.passTo t).sec = s.sec := by
  have e := congrArg State.sec (s.advance_rest (t - s.now))
  exact e

/-- A new state of the DRBG from good samples. -/
theorem State.seedDrbg_good {s : State} {text : List Byte}
    (hb : s.sec.badSamples ((s.samples 1024).1 ++ ((s.samples 1024).2.samples 512).1) = false) :
    s.seedDrbg text = { s with
      free := s.free + 24
      sec := { s.sec with
        drbg := Drbg.instantiate (s.samples 1024).1 ((s.samples 1024).2.samples 512).1 text, gens := 0, seedTick := s.now } } := by
  unfold State.seedDrbg
  dsimp only
  rw [if_neg (by simp [hb])]
  rfl

/-- Bad samples for a new state make the RNG fail. -/
theorem State.seedDrbg_bad {s : State} {text : List Byte}
    (hb : s.sec.badSamples ((s.samples 1024).1 ++ ((s.samples 1024).2.samples 512).1) = true) :
    s.seedDrbg text = { s with free := s.free + 24 }.rngFail := by
  unfold State.seedDrbg
  dsimp only
  rw [if_pos hb]
  rfl

/-- The end of a reseed with good samples, and with bad ones. -/
theorem State.reseedDrbg_good {s : State} (hb : s.sec.badSamples (s.samples 1024).1 = false) :
    s.reseedDrbg = { s with
      free := s.free + 16
      sec := { s.sec with
        reseeding := false, reseeds := min 0xFFFFFFFF (s.sec.reseeds + 1), gens := 0, seedTick := s.now,
        drbg := s.sec.drbg.reseed (s.samples 1024).1 s.sec.reseedInput, reseedInput := [] } } := by
  unfold State.reseedDrbg
  dsimp only
  have h : ¬ (s.samples 1024).2.sec.badSamples (s.samples 1024).1 = true := by
    have e : (s.samples 1024).2.sec = s.sec := rfl
    simp [e, hb]
  rw [if_neg h]
  rfl

theorem State.reseedDrbg_bad {s : State} (hb : s.sec.badSamples (s.samples 1024).1 = true) :
    s.reseedDrbg = { s with free := s.free + 16 }.rngFail := by
  unfold State.reseedDrbg
  dsimp only
  have h : (s.samples 1024).2.sec.badSamples (s.samples 1024).1 = true := hb
  rw [if_pos h]
  rfl

/-- A request that waits is held by the port, and starts the reseed that it asks for. -/
theorem Requesting.requestOn_wait {s : State} {i : Instr} {seq : BitVec 16} (h : Requesting s i) (hd : s.handle true i = .wait) :
    s.requestOn (.i3c seq) i = ((s.modSec (fun x => { x with mgmtWait := some i })).reseedFor i).carryOn := by
  simp [State.requestOn, h.port, h.idle, h.read, State.tryRequest, h.gate, hd]

/-- A reseed that a request starts, or joins. -/
theorem State.reseedFor_takes {s : State} (hr : s.sec.rng = 1) (p : Port) (input : List Byte) :
    s.reseedFor (.drbgReseed p input) = { s with sec := { s.sec with
      reseeding := true, reseedInput := if s.sec.reseeding then s.sec.reseedInput else input } } := by
  by_cases hs : s.sec.reseeding = true
  · have hn : ¬ (decide (s.sec.rng = 1) && !s.sec.reseeding) = true := by simp [hs]
    have e : { s.sec with reseeding := true } = s.sec := by rw [← hs]
    rw [if_pos hs, e]
    exact if_neg hn
  · have hp : (decide (s.sec.rng = 1) && !s.sec.reseeding) = true := by simp [hr, hs]
    rw [if_neg hs]
    exact if_pos hp

/-- A request for a reseed waits at the port for its end. -/
theorem exec_drbgReseed {s : State} {seq : BitVec 16} {input : List Byte} (h : Requesting s (.drbgReseed (.i3c seq) input))
    (hr : s.sec.rng = 1) (hl : input.length ≤ 32) :
    exec (.drbgReseed (.i3c seq) input) s = .next { s with sec := { s.sec with
      reseeding := true, mgmtWait := some (.drbgReseed (.i3c seq) input),
      reseedInput := if s.sec.reseeding then s.sec.reseedInput else input } }.carryOn := by
  have hd : s.handle true (.drbgReseed (.i3c seq) input) = .wait := by
    show s.doReseed true input = _
    unfold State.doReseed
    rw [if_neg (by omega), if_neg (by omega), if_pos (by simp)]
  have hk := State.reseedFor_takes (s := s.modSec (fun x => { x with mgmtWait := some (.drbgReseed (.i3c seq) input) })) hr
    (.i3c seq) input
  rw [exec_request rfl, h.requestOn_wait hd, hk]
  rfl

/-- Settles O41. -/
theorem randomNumbers : Obligations.RandomNumbers := by
  refine ⟨?read, ?word, ?auto, ?done, ?reseed, ?instantiate, ?health, fun s => rfl, ?idle⟩
  case read =>
    intro seq n s i g h hr hh
    refine ⟨Drbg.requests_length _ _, exec_handled rfl h ?_⟩
    exact (State.withRng_ready hr hh (fun s => .done .ok (s.generate n.toNat).1 (s.generate n.toNat).2)).trans rfl
  case word =>
    intro s hr hd g returns
    have h0 : ¬ (!s.running || s.pcie.d3hot) = true := by simp [hr, hd]
    refine ⟨fun h2 => (if_neg h0).trans (if_pos h2), fun h1 => ?_, fun h1 hb => ?_, fun h1 hb hh => ?_, fun h1 hb hh => ⟨?_, ?_⟩,
      fun h1 hb => ?_⟩
    · exact (if_neg h0).trans ((if_neg (by omega)).trans (if_pos h1))
    · exact (if_neg h0).trans ((if_neg (by omega)).trans ((if_neg (by omega)).trans (if_pos (by simp [hb]))))
    · exact (if_neg h0).trans ((if_neg (by omega)).trans ((if_neg (by omega)).trans ((if_neg (by simp [hb])).trans (if_pos hh))))
    · exact Drbg.requests_length 4 _
    · exact (if_neg h0).trans ((if_neg (by omega)).trans ((if_neg (by omega)).trans ((if_neg (by simp [hb])).trans
        (if_neg (by simp [hh])))))
    · have ho : s.barOk = true := by simp [State.barOk, hr, hb, hd]
      exact congrArg Host.Outcome.next ((if_pos ho).trans (if_pos h1))
  case auto =>
    intro s hr h1 hs r
    have hc : (s.running && decide (s.sec.rng = 1) && !s.sec.reseeding) = true := by simp [hr, h1, hs]
    have h1' : r.sec.rng = 1 := by
      have e : r.sec = s.sec := by
        show (if _ then _ else _ : State).sec = _
        split
        · exact s.passTo_sec _
        · rfl
      rw [e, h1]
    exact (if_pos hc).trans (congrArg Host.Outcome.next (if_pos h1'))
  case done =>
    intro s hr hs e u
    have hc : (s.running && s.sec.reseeding) = true := by simp [hr, hs]
    refine ⟨fun hb => ?_, fun hb => ?_⟩
    · rw [← State.reseedDrbg_good hb]
      exact if_pos hc
    · rw [← State.reseedDrbg_bad hb]
      exact if_pos hc
  case reseed =>
    intro seq input s i h hr hl
    exact exec_drbgReseed h hr hl
  case instantiate =>
    intro seq text s i e n u h hr hh hl
    have hd : s.handle true i = .done (if (s.seedDrbg text).sec.rng = 2 then .rngFailed else .ok) [] (s.seedDrbg text) :=
      (if_neg (by omega)).trans
        (State.withRng_ready hr hh (fun s => .done (if (s.seedDrbg text).sec.rng = 2 then .rngFailed else .ok) [] (s.seedDrbg text)))
    refine ⟨fun hb => ?_, fun hb => ?_⟩
    · rw [State.seedDrbg_good hb, if_neg (by show ¬ s.sec.rng = 2; omega)] at hd
      exact exec_handled rfl h hd
    · rw [State.seedDrbg_bad hb, if_pos (State.rngFail_rng _)] at hd
      exact exec_handled rfl h hd
  case health =>
    intro s hr h1
    exact if_pos (by simp [hr, h1])
  case idle =>
    intro s h1
    exact if_neg (by simp [h1])

/-! ### Identity and debug (R458, R462, R463, R465-R467) -/

/-- The fields of a report, by their lengths. -/
theorem report_fields {a b c d e : List Byte} (ha : a.length = 40) (hb : b.length = 80) (hc : c.length = 32) (hd : d.length = 64)
    (he : e.length = 40) :
    let r := a ++ (b ++ (c ++ (d ++ e)))
    r.take 40 = a ∧ (r.drop 40).take 80 = b ∧ (r.drop 120).take 32 = c ∧ (r.drop 152).take 64 = d ∧ (r.drop 216).take 40 = e := by
  intro r
  have h40 : r.drop 40 = b ++ (c ++ (d ++ e)) := List.drop_left' ha
  have h120 : r.drop 120 = c ++ (d ++ e) := by
    rw [show r.drop 120 = (r.drop 40).drop 80 by rw [List.drop_drop], h40]
    exact List.drop_left' hb
  have h152 : r.drop 152 = d ++ e := by
    rw [show r.drop 152 = (r.drop 120).drop 32 by rw [List.drop_drop], h120]
    exact List.drop_left' hc
  have h216 : r.drop 216 = e := by
    rw [show r.drop 216 = (r.drop 152).drop 64 by rw [List.drop_drop], h152]
    exact List.drop_left' hd
  rw [h40, h120, h152, h216]
  exact ⟨List.take_left' ha, List.take_left' hb, List.take_left' hc, List.take_left' hd, List.take_of_length_le (by omega)⟩

/-- The report of an attestation, by its fields (Table 18.4). -/
theorem State.attestReport_eq (s : State) (nonce : BitVec 256) : s.attestReport nonce =
    (leBytes 4 0x54544151 ++ leBytes 2 1 ++ leBytes 2 256 ++ leBytes 32 nonce.toNat) ++
    (s.sec.identityBytes ++
    (romHash ++
    ((shake (s.sec.objectBytes .image s.sec.imageSlot) 32 ++ shake (s.sec.objectBytes .config s.sec.configSlot) 32) ++
    (leBytes 4 s.sec.arbImage ++ leBytes 4 s.sec.arbConfig ++ leBytes 4 s.sec.svImage ++ leBytes 4 s.sec.svConfig
      ++ leBytes 4 (boolNat s.sec.approved + 2 * boolNat s.sec.debug + 4 * boolNat (decide (s.sec.rng = 2))
          + 8 * boolNat s.sec.selfTestFail)
      ++ leBytes 4 s.time.sec ++ leBytes 4 s.time.sub ++ leBytes 2 s.pwr.slotId.toNat ++ leBytes 10 0)))) := by
  have bit (b : Bool) (i : Nat) : bitIf b i = 2 ^ i * boolNat b := by cases b <;> simp [bitIf, boolNat]
  unfold State.attestReport
  simp only [bit, List.append_assoc, Nat.reducePow, Nat.one_mul]

/-- What an unlock leaves, its challenge being spent: the keys are gone and encrypted ports are fenced. -/
theorem State.unlocked_takes (s : State) (level : Nat) :
    let t := (s.zeroizeKeys 0x3FFFF).fenceEncrypted.modSec (fun x => { x with approved := false, debug := true, debugLevel := level })
    t.sec = { s.sec with keys := t.sec.keys, cxlKeys := t.sec.cxlKeys, approved := false, debug := true, debugLevel := level } ∧
    (∀ j, j < 16 → Store.get none j t.sec.keys = none) ∧ (∀ p, p < 2 → Store.get none p t.sec.cxlKeys = none) ∧
    (∀ p, p < 2 → (s.cxl p).enc = true → t.cxlFenced p = true) := by
  intro t
  obtain ⟨hk, hx, -, hr⟩ := s.zeroizeKeys_takes 0x3FFFF
  obtain ⟨hf, hp⟩ := (s.zeroizeKeys 0x3FFFF).fenceEncrypted_ports
  have zs : { (s.zeroizeKeys 0x3FFFF).sec with keys := s.sec.keys, cxlKeys := s.sec.cxlKeys } = s.sec := by
    have e := congrArg State.sec hr; exact e
  have zc : (s.zeroizeKeys 0x3FFFF).cxls = s.cxls := by have e := congrArg State.cxls hr; exact e
  have low : ∀ j, j < 18 → natBit 0x3FFFF j = true := by decide
  have ts : t.sec = { (s.zeroizeKeys 0x3FFFF).sec with approved := false, debug := true, debugLevel := level } := by
    show { (s.zeroizeKeys 0x3FFFF).fenceEncrypted.sec with approved := false, debug := true, debugLevel := level } = _
    rw [hf.sec]
  refine ⟨?_, fun j hj => ?_, fun p h2 => ?_, fun p h2 he => hp p h2 ?_⟩
  · rw [ts]
    have e := congrArg (fun x : Sec => { x with
      keys := (s.zeroizeKeys 0x3FFFF).sec.keys, cxlKeys := (s.zeroizeKeys 0x3FFFF).sec.cxlKeys,
      approved := false, debug := true, debugLevel := level }) zs
    exact e
  · rw [ts]
    exact (hk j).trans (if_pos (low j (by omega)))
  · rw [ts]
    exact (hx p).trans (if_pos (low (16 + p) (by omega)))
  · rw [State.cxl, zc]
    exact he

/-- Settles O42. -/
theorem identityAndDebug : Obligations.IdentityAndDebug := by
  refine ⟨?identity, ?attest, ?failed, ?challenge, ?unlock, ?read, ?none, ?address⟩
  case identity =>
    intro seq s i key h hok
    exact exec_handled rfl h (if_pos hok)
  case attest =>
    intro seq nonce s i key h hok
    refine ⟨s.attestReport nonce, exec_handled rfl h (if_pos hok), State.attestReport_length s nonce, SlhKey.sign_length _ _, ?_⟩
    rw [State.attestReport_eq]
    exact report_fields (by simp) s.sec.identityBytes_length (by simp [romHash]) (by simp) (by simp)
  case failed =>
    intro seq nonce s hok i hi h
    have hn : ¬ s.sec.identityOk = true := by simp [hok]
    simp only [List.mem_cons, List.not_mem_nil, or_false] at hi
    rcases hi with rfl | rfl
    · exact exec_handled rfl h (if_neg hn)
    · exact exec_handled rfl h (if_neg hn)
  case challenge =>
    intro seq s i g h hr hh
    refine ⟨Drbg.requests_length 32 _, exec_handled rfl h ?_⟩
    exact (State.withRng_ready hr hh (fun s => .done .ok (s.generate 32).1 ((s.generate 32).2.modSec (fun x =>
      { x with challenge := some (BitVec.ofNat 256 (leNat (s.generate 32).1)) })))).trans rfl
  case unlock =>
    intro seq tok s i wellFormed valid spent h
    have hv : (!tok.sigOk || decide (leBytes 32 tok.device.toNat ≠ s.sec.deviceId) || decide (s.sec.challenge ≠ some tok.challenge)) = true
        ↔ ¬ valid := by
      simp only [valid, Bool.or_eq_true, Bool.not_eq_true', decide_eq_true_eq, not_and_or, Bool.not_eq_true, or_assoc, ne_eq]
    have hw : (decide (tok.magic ≠ 0x47424451) || decide (tok.version ≠ 1) || (decide (tok.level ≠ 1) && decide (tok.level ≠ 2))) = true
        ↔ ¬ wellFormed := by
      simp only [wellFormed, Bool.or_eq_true, Bool.and_eq_true, decide_eq_true_eq, not_and_or, not_or, or_assoc, ne_eq]
    refine ⟨fun w v => ?_, fun v => exec_handled rfl h (if_pos (hv.mpr v)),
      fun v w => exec_handled rfl h ((if_neg (fun hn => hv.mp hn v)).trans (if_pos (hw.mpr w)))⟩
    refine ⟨_, exec_handled rfl h ((if_neg (fun hn => hv.mp hn v)).trans (if_neg (fun hn => hw.mp hn w))), ?_⟩
    exact spent.unlocked_takes tok.level.toNat
  case read =>
    intro s r rest hp hr
    have e : exec .managementResponseRead s = .next s.readResponse := congrArg Host.Outcome.next (if_pos hp)
    rw [e]
    unfold State.readResponse
    rw [hr]
    rfl
  case none =>
    intro s hr
    have e : s.readResponse = s := by unfold State.readResponse; rw [hr]
    exact congrArg Host.Outcome.next (by rw [e, ite_self])
  case address =>
    intro s addr hp
    exact congrArg Host.Outcome.next (if_pos hp)

end Sys2Proof.Machine
end

section
/-! PROOFS. The life of contexts, and what the front end writes to memory.
-/

namespace Sys2Proof.Machine

/-! ### The address map, and what it turns on (R21-R28, R391, R398) -/

/-- Two states in which the same addresses lead to the same units, which are fenced alike. -/
structure State.SameMap (s t : State) : Prop where
  ecc : t.sec.cfg.eccOn = s.sec.cfg.eccOn
  present : ∀ p, (t.cxl p).present = (s.cxl p).present
  bytes : ∀ p, (t.cxl p).capBytes = (s.cxl p).capBytes
  fences : t.flt = s.flt
  bme : t.pcie.bme = s.pcie.bme
  readFail : t.pcie.readFail = s.pcie.readFail

section
variable {s t : State}

theorem State.SameMap.refl (s : State) : s.SameMap s := ⟨rfl, fun _ => rfl, fun _ => rfl, rfl, rfl, rfl⟩

theorem State.SameMap.trans {u : State} (h : s.SameMap t) (k : t.SameMap u) : s.SameMap u :=
  ⟨k.ecc.trans h.ecc, fun p => (k.present p).trans (h.present p), fun p => (k.bytes p).trans (h.bytes p), k.fences.trans h.fences,
    k.bme.trans h.bme, k.readFail.trans h.readFail⟩

theorem State.SameMap.target (h : s.SameMap t) : t.target = s.target := by
  funext a
  have h1 : t.regionLen = s.regionLen := by rw [State.regionLen, State.regionLen, h.ecc]
  have h2 : t.cxlMapped = s.cxlMapped := by simp only [State.cxlMapped, h.present, h.bytes]
  have h3 : t.cxlPage = s.cxlPage := by funext o; simp only [State.cxlPage, h.present]
  rw [State.target, State.target, h1, h2, h3]

theorem State.SameMap.fencedAt (h : s.SameMap t) : t.fencedAt = s.fencedAt := by
  funext a
  have hl : t.cxlLost = s.cxlLost := by simp only [State.cxlLost, h.present, State.cxlFenced, h.fences]
  rw [State.fencedAt, State.fencedAt, h.target, hl]
  simp only [State.memFenced, State.spanFenced, h.fences]

theorem State.SameMap.byteIo (h : s.SameMap t) : t.byteIo true = s.byteIo true := by
  funext a
  rw [State.byteIo, State.byteIo, h.target, h.fencedAt, h.bme, h.readFail]
  simp only [Bool.not_true, Bool.false_and]

theorem State.SameMap.poisonedAt (h : s.SameMap t) (hs : t.spans = s.spans) (hp : t.poison = s.poison) : t.poisonedAt = s.poisonedAt := by
  funext a
  have h1 (n : Nat) : t.span n = s.span n := by rw [State.span, hs, State.span]
  have h2 : t.poisonKey = s.poisonKey := by funext b; rw [State.poisonKey, State.poisonKey, h.target]
  rw [State.poisonedAt, State.poisonedAt, h.target, h2, hp]
  simp only [h1]

theorem State.SameMap.firstBad (h : s.SameMap t) : t.firstBad true = s.firstBad true := by
  funext a n
  rw [State.firstBad, State.firstBad, h.byteIo]

theorem State.SameMap.rangeFail (h : s.SameMap t) : t.rangeFail = s.rangeFail := by
  funext a n
  rw [State.rangeFail, State.rangeFail, h.firstBad]

end

/-! ### Writes of the module (R27, R356, R378, R391, R412) -/

/-- Pages that are counted change nothing of the map. -/
theorem State.bumpPages_sameMap (s : State) (addrs : List Nat) : s.SameMap (s.bumpPages addrs) := by
  have step (t : State) (p : Nat) (f : CxlPort → CxlPort) (h1 : (f (t.cxl p)).present = (t.cxl p).present)
      (h2 : (f (t.cxl p)).capBytes = (t.cxl p).capBytes) : t.SameMap (t.modCxl p f) := by
    refine ⟨rfl, fun q => ?_, fun q => ?_, rfl, rfl, rfl⟩
    · by_cases e : q = p
      · rw [e, State.cxl_modCxl_self, h1]
      · rw [State.cxl_modCxl_ne t f e]
    · by_cases e : q = p
      · rw [e, State.cxl_modCxl_self, h2]
      · rw [State.cxl_modCxl_ne t f e]
  exact foldl_keep (P := fun t => s.SameMap t) (fun t _ h => h.trans (step t _ _ rfl rfl)) _ s (.refl s)

/-- `t` with what a write of the module changes as it is in `s`. -/
def State.writeBack (s t : State) : State := { t with mem := s.mem, poison := s.poison, cxls := s.cxls, pcie := s.pcie, mesh := s.mesh }

theorem State.noteHostFail_write (s : State) (a n : Nat) : s.noteHostFail true a n = s := by
  unfold State.noteHostFail
  split
  · exact if_neg (by simp)
  · rfl
  · rfl

/-- A request leaves bits of `DEV_HERR` and the count of dropped flits. -/
theorem State.noteRequest_write (s : State) (a n : Nat) :
    ∃ h m, s.noteRequest true a n = { s with pcie := { s.pcie with herr := h }, mesh := m } ∧ (s.rangeFail a n = none → m = s.mesh) := by
  unfold State.noteRequest
  extract_lets host t
  have ht : ∃ h, t = { s with pcie := { s.pcie with herr := h } } := by
    show ∃ h, State.noteHostFail (if (host && !s.pcie.bme) = true then s.setHerr 3 else s) true a n = _
    rw [State.noteHostFail_write]
    split
    · exact ⟨_, rfl⟩
    · exact ⟨s.pcie.herr, rfl⟩
  obtain ⟨h, ht⟩ := ht
  have hb : s.rangeFail a n = none → t.firstBad true a n = none := by
    intro hn
    have k : s.SameMap t := by rw [ht]; exact ⟨rfl, fun _ => rfl, fun _ => rfl, rfl, rfl, rfl⟩
    rw [k.firstBad]
    exact Option.map_eq_none_iff.mp hn
  clear_value t
  subst ht
  split
  · rename_i b hbad
    have hne : s.rangeFail a n = none → False := fun hn => nomatch (hb hn).symm.trans hbad
    split
    · exact ⟨h, s.mesh, rfl, fun _ => rfl⟩
    · exact ⟨h, s.mesh, rfl, fun _ => rfl⟩
    · exact ⟨h, _, rfl, fun hn => (hne hn).elim⟩
  · exact ⟨h, s.mesh, rfl, fun _ => rfl⟩

/-- A write of bytes changes memory, poison, counts of pages, bits of `DEV_HERR` and the count of dropped flits; the latter only
where it meets a fenced unit. -/
theorem State.writeBytes_rest (s : State) (a : Nat) (l : List Byte) : s.writeBack (s.writeBytes a l) = s ∧
    (s.rangeFail a l.length = none → (s.writeBytes a l).mesh = s.mesh) ∧
    (s.writeBytes a l).mem = (s.storeCells (l.zipIdx.map (fun p => (a + p.2, p.1)))).mem := by
  unfold State.writeBytes
  generalize l.zipIdx.map (fun p => (a + p.2, p.1)) = cells
  let good := cells.filter (fun c => s.byteIo true c.1 = .ok)
  have hb := s.bumpPages_rest (good.map Prod.fst)
  have hs : { s.storeCells cells with mem := s.mem, poison := s.poison, cxls := s.cxls } = s :=
    congrArg (fun t : State => { t with mem := s.mem, poison := s.poison }) hb
  have hk : s.SameMap (s.storeCells cells) := by
    have h1 := s.bumpPages_sameMap (good.map Prod.fst)
    exact ⟨h1.ecc, h1.present, h1.bytes, h1.fences, h1.bme, h1.readFail⟩
  have hr : (s.storeCells cells).rangeFail = s.rangeFail := hk.rangeFail
  have hm : (s.storeCells cells).mesh = s.mesh := by have e := congrArg State.mesh hs; exact e
  generalize s.storeCells cells = t at hs hr hm
  obtain ⟨h, m, e, hn⟩ := t.noteRequest_write a l.length
  rw [e]
  refine ⟨?_, fun h0 => (hn (by rw [hr]; exact h0)).trans hm, rfl⟩
  have e := congrArg (fun t : State => { t with pcie := s.pcie, mesh := s.mesh }) hs
  exact e

/-- What a write leaves in memory turns on the map, on poison and on memory. -/
theorem State.writeBytes_mem {s t : State} (hm : t.mem = s.mem) (hk : s.SameMap t) (hp : t.poisonedAt = s.poisonedAt) (a : Nat)
    (l : List Byte) : (t.writeBytes a l).mem = (s.writeBytes a l).mem := by
  rw [(t.writeBytes_rest a l).2.2, (s.writeBytes_rest a l).2.2]
  show t.land t.mem (List.filter (fun c => decide (t.byteIo true c.1 = .ok)) _) = s.land s.mem _
  rw [State.land_congr hk.target hp, hm, hk.byteIo]

/-! ### Entries (R267) -/

/-- An entry that can be written is written at the tail, which goes on. -/
theorem State.writeEntry_takes {s : State} {c : Nat} (opcode flags : Nat) (info : CaptureInfo)
    (h : s.rangeFail (s.ctx c).cplAddr 16 = none) :
    s.writeEntry c opcode flags info = (s.writeBytes (s.ctx c).cplAddr
      ((s.ctx c).entryBytes info.tag opcode flags info.status info.detail)).modCtx c (fun y => { y with cplTail := y.cplTail + 1 }) := by
  unfold State.writeEntry
  dsimp only
  rw [h]

theorem Ctx.entryBytes_length (x : Ctx) (tag opcode flags status detail : Nat) :
    (x.entryBytes tag opcode flags status detail).length = 16 := by
  simp [Ctx.entryBytes]

/-- Contexts and the front end's own registers bear on no write. -/
theorem State.sameForWrites {s t : State} (h : t = { s with ctxs := t.ctxs, fe := t.fe }) :
    t.mem = s.mem ∧ s.SameMap t ∧ t.poisonedAt = s.poisonedAt := by
  have k : s.SameMap t := by rw [h]; exact ⟨rfl, fun _ => rfl, fun _ => rfl, rfl, rfl, rfl⟩
  exact ⟨by rw [h], k, k.poisonedAt (by rw [h]) (by rw [h])⟩

/-- An entry that can be written: what it leaves. -/
theorem State.writeEntry_leaves {s : State} {c : Nat} (opcode flags : Nat) (info : CaptureInfo)
    (h : s.rangeFail (s.ctx c).cplAddr 16 = none) :
    let u := s.writeEntry c opcode flags info
    u.ctx c = { s.ctx c with cplTail := (s.ctx c).cplTail + 1 } ∧ (∀ m, m ≠ c → u.ctx m = s.ctx m) ∧
    u.mem = (s.writeBytes (s.ctx c).cplAddr ((s.ctx c).entryBytes info.tag opcode flags info.status info.detail)).mem ∧
    { u with ctxs := s.ctxs, mem := s.mem, poison := s.poison, cxls := s.cxls, pcie := s.pcie } = s := by
  intro u
  let w := s.writeBytes (s.ctx c).cplAddr ((s.ctx c).entryBytes info.tag opcode flags info.status info.detail)
  have hu : u = w.modCtx c (fun y => { y with cplTail := y.cplTail + 1 }) := State.writeEntry_takes opcode flags info h
  obtain ⟨wr, wm, -⟩ := s.writeBytes_rest (s.ctx c).cplAddr ((s.ctx c).entryBytes info.tag opcode flags info.status info.detail)
  have wmesh : w.mesh = s.mesh := wm (by rw [Ctx.entryBytes_length]; exact h)
  have wc : w.ctxs = s.ctxs := s.writeBytes_ctxs _ _
  change s.writeBack w = s at wr
  show _ ∧ _ ∧ u.mem = w.mem ∧ _
  clear_value w
  have wctx (m : Nat) : w.ctx m = s.ctx m := by simp only [State.ctx, wc]
  rw [hu]
  refine ⟨by rw [State.ctx_modCtx_self, wctx], fun m hm => by rw [State.ctx_modCtx_ne w _ hm, wctx], rfl, ?_⟩
  have e1 := congrArg (fun x : State => { x with ctxs := s.ctxs }) wr
  have e2 := congrArg (fun m : Mesh =>
    ({ w with ctxs := s.ctxs, mem := s.mem, poison := s.poison, cxls := s.cxls, pcie := s.pcie, mesh := m } : State)) wmesh
  exact Eq.trans e2 e1

/-- A vector leaves contexts. -/
theorem State.raiseVector_ctx (s : State) (v c : Nat) : (s.raiseVector v).ctx c = s.ctx c := by
  have e := congrArg (fun x : State => x.ctx c) (State.raiseVector_rest v s)
  exact e

/-- The end of a destroy: the entry, and the context is FREE. -/
theorem State.finishDestroy_takes {s : State} {c : Nat} (hp : (s.ctx c).enablePending = false)
    (h : s.rangeFail (s.ctx c).cplAddr 16 = none) :
    let u := s.finishDestroy c
    (u.ctx c).state = .free ∧ (u.ctx c).destroyDone = true ∧ (u.ctx c).cplTail = (s.ctx c).cplTail + 1 ∧
    u.mem = (s.writeBytes (s.ctx c).cplAddr ((s.ctx c).entryBytes 0 0 0 0x02 0)).mem ∧ (∀ m, m ≠ c → u.ctx m = s.ctx m) ∧
    { u with ctxs := s.ctxs, mem := s.mem, poison := s.poison, cxls := s.cxls, pcie := s.pcie, bus := s.bus } = s := by
  intro u
  let freed (x : Ctx) : Ctx :=
    { x with
      destroyDone := true, state := .free, fetched := [], exec := none, batch := none, drainTail := none,
      stalled := false, held := [] }
  let w := s.writeEntry c 0 0 ⟨0x02, 0, 0, 0, 0, [], none⟩
  obtain ⟨wc, wo, wm, wr⟩ := State.writeEntry_leaves 0 0 ⟨0x02, 0, 0, 0, 0, [], none⟩ h
  change w.ctx c = _ at wc
  change ∀ m, m ≠ c → w.ctx m = s.ctx m at wo
  change w.mem = _ at wm
  change { w with ctxs := s.ctxs, mem := s.mem, poison := s.poison, cxls := s.cxls, pcie := s.pcie } = s at wr
  let z := w.modCtx c freed
  have zo : CtxOnly w z c (freed (w.ctx c)) := CtxOnly.modCtx w c freed
  have hu : u = z.raiseVector c := by
    show s.finishDestroy c = _
    unfold State.finishDestroy
    refine if_neg ?_
    show ¬ ((z.raiseVector c).ctx c).enablePending = true
    rw [State.raiseVector_ctx, zo.here, wc]
    simp [freed, hp]
  clear_value w z
  have hr : { u with pcie := z.pcie, bus := z.bus } = z := by rw [hu]; exact State.raiseVector_rest c z
  have uc (m : Nat) : u.ctx m = z.ctx m := by rw [hu]; exact z.raiseVector_ctx c m
  clear_value u
  have um : u.mem = z.mem := by have e := congrArg State.mem hr; exact e
  have zm : z.mem = w.mem := by have e := congrArg State.mem zo.rest; exact e
  refine ⟨by rw [uc, zo.here], by rw [uc, zo.here], by rw [uc, zo.here, wc], um.trans (zm.trans wm), fun m hm => ?_, ?_⟩
  · rw [uc, zo.others m hm, wo m hm]
  · have e1 := congrArg (fun x : State =>
      { x with ctxs := s.ctxs, mem := s.mem, poison := s.poison, cxls := s.cxls, pcie := s.pcie, bus := s.bus }) hr
    have e2 := congrArg (fun x : State =>
      { x with ctxs := s.ctxs, mem := s.mem, poison := s.poison, cxls := s.cxls, pcie := s.pcie, bus := s.bus }) zo.rest
    have e3 := congrArg (fun x : State => { x with bus := s.bus }) wr
    exact (Eq.trans e1 e2).trans e3

/-! ### Aborts (R300) -/

/-- `t` is `s` but for spans, problems and commands of contexts; context `c` is in the same state. -/
structure State.WorkOnly (c : Nat) (s t : State) : Prop where
  rest : { t with spans := s.spans, problems := s.problems, ctxs := s.ctxs } = s
  state : (t.ctx c).state = (s.ctx c).state
  stalled : (t.ctx c).stalled = (s.ctx c).stalled

section
variable {c : Nat}

theorem State.WorkOnly.refl (s : State) : State.WorkOnly c s s := ⟨rfl, rfl, rfl⟩

theorem State.WorkOnly.trans {s t u : State} (h : State.WorkOnly c s t) (k : State.WorkOnly c t u) : State.WorkOnly c s u := by
  refine ⟨?_, k.state.trans h.state, k.stalled.trans h.stalled⟩
  have e := congrArg (fun x : State => { x with spans := s.spans, problems := s.problems, ctxs := s.ctxs }) k.rest
  exact Eq.trans e h.rest

theorem State.modCtx_workOnly (s : State) (d : Nat) (f : Ctx → Ctx) (h1 : ∀ x, (f x).state = x.state) (h2 : ∀ x, (f x).stalled = x.stalled) :
    State.WorkOnly c s (s.modCtx d f) := by
  refine ⟨rfl, ?_, ?_⟩
  · rw [State.ctx_modCtx]
    split
    · rename_i e; rw [h1, e]
    · rfl
  · rw [State.ctx_modCtx]
    split
    · rename_i e; rw [h2, e]
    · rfl

theorem State.modExec_workOnly (s : State) (d : Nat) (batch : Bool) (f : Exec → Exec) : State.WorkOnly c s (s.modExec d batch f) := by
  refine State.modCtx_workOnly s d _ (fun x => ?_) (fun x => ?_)
  · split <;> rfl
  · split <;> rfl

/-- A pier that is live stops with a code; other piers stay. -/
theorem State.pierStop_takes (s : State) (n code : Nat) (owe : Bool) :
    State.WorkOnly c s (s.pierStop n code owe) ∧ (∀ m, m ≠ n → (s.pierStop n code owe).pier m = s.pier m) ∧
    ((s.pier n).live = true → ((s.pierStop n code owe).pier n).code = code) := by
  unfold State.pierStop
  extract_lets p evrecs t
  have ht : State.WorkOnly c s t := ⟨rfl, rfl, rfl⟩
  have hp (m : Nat) (hm : m ≠ n) : t.pier m = s.pier m := State.pier_modPier_ne s _ hm
  have hc : (t.pier n).code = code := by simp [t]
  clear_value t
  by_cases hl : p.live = true
  · rw [if_pos hl]
    split
    · split
      · exact ⟨ht.trans (State.modExec_workOnly t _ _ _), hp, fun _ => hc⟩
      · exact ⟨ht, hp, fun _ => hc⟩
    · exact ⟨ht, hp, fun _ => hc⟩
  · rw [if_neg hl]
    exact ⟨.refl s, fun _ _ => rfl, fun h => (hl h).elim⟩

/-- The pier of a span stops where it runs a launch of context `c`. -/
def State.stopPierOf (c : Nat) (s : State) (n : Nat) : State := if (s.pier n).runsFor c none then s.pierStop n 4 true else s

/-- Every pier that carries on a launch of the context is STOPPED. -/
theorem State.stopPiersOf_takes (s : State) (c : Nat) : State.WorkOnly c s (s.stopPiersOf c none true) ∧
    ∀ n, n < 16 → (s.pier n).runsFor c none = true → (s.pier n).live = true → ((s.stopPiersOf c none true).pier n).code = 4 := by
  have e : s.stopPiersOf c none true = spanIds.foldl (State.stopPierOf c) s := rfl
  have step (t : State) (n : Nat) : State.WorkOnly c t (t.stopPierOf c n) := by
    unfold State.stopPierOf
    split
    · exact (t.pierStop_takes n 4 true).1
    · exact .refl t
  have others (t : State) (n m : Nat) (hm : m ≠ n) : (t.stopPierOf c n).pier m = t.pier m := by
    unfold State.stopPierOf
    split
    · exact (t.pierStop_takes (c := c) n 4 true).2.1 m hm
    · rfl
  rw [e]
  refine ⟨foldl_keep (P := State.WorkOnly c s) (fun t n h => h.trans (step t n)) _ _ (.refl s), fun n hn hr hl => ?_⟩
  obtain ⟨u, hu, hf⟩ := (foldl_each (get := State.pier) others spanIds List.nodup_range s).2 n (List.mem_range.mpr hn)
  rw [hf, State.stopPierOf, if_pos (by rw [hu]; exact hr)]
  exact (u.pierStop_takes (c := c) n 4 true).2.2 (by rw [hu]; exact hl)

/-- The queue of a span without launches of context `c`. -/
def State.dropQueuedOn (c : Nat) (s : State) (n : Nat) : State :=
  if (s.pier n).queue.any (fun l => l.ctx = c) then s.modPier n (fun p => { p with queue := p.queue.filter (fun l => l.ctx ≠ c) }) else s

/-- No launch of the context is queued; piers keep their codes. -/
theorem State.dropQueued_takes (s : State) (c : Nat) : State.WorkOnly c s (s.dropQueued c) ∧
    ∀ n, n < 16 → ((s.dropQueued c).pier n).code = (s.pier n).code ∧ ∀ l, l ∈ ((s.dropQueued c).pier n).queue → l.ctx ≠ c := by
  have e : s.dropQueued c = spanIds.foldl (State.dropQueuedOn c) s := rfl
  have step (t : State) (n : Nat) : State.WorkOnly c t (t.dropQueuedOn c n) := by
    unfold State.dropQueuedOn
    split
    · exact ⟨rfl, rfl, rfl⟩
    · exact .refl t
  have others (t : State) (n m : Nat) (hm : m ≠ n) : (t.dropQueuedOn c n).pier m = t.pier m := by
    unfold State.dropQueuedOn
    split
    · exact State.pier_modPier_ne t _ hm
    · rfl
  have here (t : State) (n : Nat) : ((t.dropQueuedOn c n).pier n).code = (t.pier n).code ∧
      ∀ l, l ∈ ((t.dropQueuedOn c n).pier n).queue → l.ctx ≠ c := by
    unfold State.dropQueuedOn
    split
    · rw [State.pier_modPier_self]
      exact ⟨rfl, fun l hl => by simpa using List.of_mem_filter hl⟩
    · rename_i h
      exact ⟨rfl, fun l hl hc => h (List.any_eq_true.mpr ⟨l, hl, decide_eq_true hc⟩)⟩
  rw [e]
  refine ⟨foldl_keep (P := State.WorkOnly c s) (fun t n h => h.trans (step t n)) _ _ (.refl s), fun n hn => ?_⟩
  obtain ⟨u, hu, hf⟩ := (foldl_each (get := State.pier) others spanIds List.nodup_range s).2 n (List.mem_range.mpr hn)
  rw [hf, ← hu]
  exact here u n

/-- What an abort of context `c` makes of it, seen from `s`. -/
structure State.Aborts (c : Nat) (s u : State) : Prop where
  state : (u.ctx c).state = .aborting
  stalled : (u.ctx c).stalled = false
  runs : ∀ r, r ∈ u.runs → r.ctx = c → r.stops.abort = true
  queues : ∀ n, n < 16 → ∀ l, l ∈ (u.pier n).queue → l.ctx ≠ c
  codes : ∀ n, n < 16 → (s.pier n).runsFor c none = true → (s.pier n).live = true → (u.pier n).code = 4
  mem : u.mem = s.mem
  events : u.events = s.events
  bus : u.bus = s.bus
  pcie : u.pcie = s.pcie

/-- Work on problems and commands only keeps what an abort has made. -/
theorem State.Aborts.work {s t u : State} (h : State.Aborts c s t) (k : State.WorkOnly c t u) (hs : u.spans = t.spans) : State.Aborts c s u := by
  have er : u.runs = t.runs := by have e := congrArg State.runs k.rest; exact e
  have em : u.mem = t.mem := by have e := congrArg State.mem k.rest; exact e
  have ee : u.events = t.events := by have e := congrArg State.events k.rest; exact e
  have eb : u.bus = t.bus := by have e := congrArg State.bus k.rest; exact e
  have ep : u.pcie = t.pcie := by have e := congrArg State.pcie k.rest; exact e
  have hp (n : Nat) : u.pier n = t.pier n := by simp only [State.pier, State.span, hs]
  refine ⟨k.state.trans h.state, k.stalled.trans h.stalled, fun r hr => h.runs r (er ▸ hr), fun n hn => by rw [hp]; exact h.queues n hn,
    fun n hn h1 h2 => by rw [hp]; exact h.codes n hn h1 h2, em.trans h.mem, ee.trans h.events, eb.trans h.bus, ep.trans h.pcie⟩

theorem State.undoLoad_work (s : State) (e : Exec) : State.WorkOnly c s (s.undoLoad e) ∧ (s.undoLoad e).spans = s.spans := by
  unfold State.undoLoad
  split
  · split
    · exact ⟨⟨rfl, rfl, rfl⟩, rfl⟩
    · exact ⟨.refl s, rfl⟩
  · exact ⟨.refl s, rfl⟩

/-- The beginning of an abort. -/
theorem State.beginAbort_aborts (s : State) (c : Nat) : State.Aborts c s (s.beginAbort c) := by
  unfold State.beginAbort
  extract_lets a d q end_ s1 s2
  have ac : a.ctx c = { s.ctx c with state := .aborting, stalled := false } := State.ctx_modCtx_self s c _
  obtain ⟨h1, hc⟩ := a.stopPiersOf_takes c
  obtain ⟨h2, hq⟩ := (a.stopPiersOf c none true).dropQueued_takes c
  have hd : State.WorkOnly c a d := h1.trans h2
  have hcode (n : Nat) (hn : n < 16) (hr : (s.pier n).runsFor c none = true) (hl : (s.pier n).live = true) : (d.pier n).code = 4 :=
    (hq n hn).1.trans (hc n hn hr hl)
  have hqueue (n : Nat) (hn : n < 16) : ∀ l, l ∈ (d.pier n).queue → l.ctx ≠ c := (hq n hn).2
  clear_value d
  have hm : d.mem = s.mem := by have e := congrArg State.mem hd.rest; exact e
  have he : d.events = s.events := by have e := congrArg State.events hd.rest; exact e
  have hb : d.bus = s.bus := by have e := congrArg State.bus hd.rest; exact e
  have hp : d.pcie = s.pcie := by have e := congrArg State.pcie hd.rest; exact e
  have h0 : State.Aborts c s q := by
    refine ⟨?_, ?_, fun r hr hrc => ?_, hqueue, hcode, hm, he, hb, hp⟩
    · show (d.ctx c).state = _
      rw [hd.state, ac]
    · show (d.ctx c).stalled = _
      rw [hd.stalled, ac]
    · obtain ⟨q, -, rfl⟩ := List.mem_map.mp hr
      by_cases hqc : q.ctx = c
      · rw [if_pos hqc]
      · rw [if_neg hqc] at hrc
        exact (hqc hrc).elim
  clear_value q
  have hend (batch : Bool) (st : State) : State.WorkOnly c st (end_ batch st) ∧ (end_ batch st).spans = st.spans := by
    simp only [end_]
    split
    · exact ⟨.refl st, rfl⟩
    · rename_i e _
      exact ⟨(st.undoLoad_work e).1.trans (State.modExec_workOnly _ _ _ _), (st.undoLoad_work (c := c) e).2⟩
  clear_value end_
  have h3 : State.Aborts c s s1 := h0.work (hend true q).1 (hend true q).2
  clear_value s1
  have h4 : State.Aborts c s s2 := by
    show State.Aborts c s (match (s1.ctx c).batch with
      | some t => if t.cur.isNone then s1.modCtx c (fun x => { x with batch := none }) else s1
      | none => s1)
    split
    · split
      · exact h3.work (State.modCtx_workOnly s1 c _ (fun _ => rfl) (fun _ => rfl)) rfl
      · exact h3
    · exact h3
  clear_value s2
  exact h4.work (hend false s2).1 (hend false s2).2

theorem State.Aborts.all {s u : State} (h : State.Aborts c s u) : (u.ctx c).state = .aborting ∧ (u.ctx c).stalled = false ∧
    (∀ r, r ∈ u.runs → r.ctx = c → r.stops.abort = true) ∧ (∀ n, n < 16 → ∀ l, l ∈ (u.pier n).queue → l.ctx ≠ c) ∧
    (∀ n, n < 16 → (s.pier n).runsFor c none = true → (s.pier n).live = true → (u.pier n).code = 4) ∧
    u.mem = s.mem ∧ u.events = s.events ∧ u.bus = s.bus ∧ u.pcie = s.pcie :=
  ⟨h.state, h.stalled, h.runs, h.queues, h.codes, h.mem, h.events, h.bus, h.pcie⟩

/-- An abort seen from a state whose piers, memory, events, bus and function are the same. -/
theorem State.Aborts.of_modCtx {s u : State} {d : Nat} {f : Ctx → Ctx} (h : State.Aborts c (s.modCtx d f) u) : State.Aborts c s u :=
  ⟨h.state, h.stalled, h.runs, h.queues, h.codes, h.mem, h.events, h.bus, h.pcie⟩

end

/-! ### The life of a context (R258-R261, R292, R299-R301) -/

section
variable {s : State} {c : Nat} (abort priority : Bool)

theorem State.ctlWrite_free (hs : (s.ctx c).state = .free) : s.ctlWrite c true abort false priority =
    (s.modCtx c (fun y => { y with enable := true, priority := priority, abort := abort })).modCtx c Ctx.create := by
  unfold State.ctlWrite
  dsimp only
  rw [hs]
  rfl

theorem State.ctlWrite_active (hs : (s.ctx c).state = .active) : s.ctlWrite c false abort false priority =
    (s.modCtx c (fun y => { y with enable := false, priority := priority, abort := abort })).beginDestroy c abort := by
  unfold State.ctlWrite
  dsimp only
  rw [hs]
  rfl

theorem State.ctlWrite_draining (enable : Bool) (hs : (s.ctx c).state = .draining) : s.ctlWrite c enable true false priority =
    ((s.modCtx c (fun y => { y with enable := enable, priority := priority, abort := true })).modCtx c (fun y =>
      { y with enablePending := enable })).beginAbort c := by
  unfold State.ctlWrite
  dsimp only
  rw [hs]
  cases enable with
  | false => exact (if_neg (by simp)).trans (if_pos rfl)
  | true => exact (if_neg (by simp)).trans (if_pos rfl)

theorem State.ctlWrite_stopped (hs : (s.ctx c).state = .stopped) (hf : s.faulted = false) : s.ctlWrite c true abort true priority =
    (s.modCtx c (fun y => { y with enable := true, priority := priority, abort := abort })).modCtx c (fun y =>
      { y with state := .active, fetched := [] }) := by
  have hf' (f : Ctx → Ctx) : (s.modCtx c f).faulted = false := hf
  unfold State.ctlWrite
  dsimp only
  rw [hs]
  have hc (f : Ctx → Ctx) : (true && decide (CtxState.stopped = CtxState.stopped) && true && !(s.modCtx c f).faulted) = true := by
    rw [hf']; rfl
  exact if_pos (hc (fun y => { y with enable := true, priority := priority, abort := abort }))

theorem State.beginDestroy_active (hs : (s.ctx c).state = .active) : s.beginDestroy c abort =
    let t := s.modCtx c (fun y => { y with drainTail := some y.tail, state := if abort then .aborting else .draining })
    if abort then t.beginAbort c else t.modCtx c Ctx.endTask := by
  unfold State.beginDestroy
  dsimp only
  rw [hs]

end

/-- Settles O43. -/
theorem contextLife : Obligations.ContextLife := by
  intro c abort priority s x hb
  have hr : s.running = true := by simp only [State.barOk, Bool.and_eq_true] at hb; exact hb.1.1
  have begun (f g : Ctx → Ctx) : State.Aborts c.val s (((s.modCtx c.val f).modCtx c.val g).beginAbort c.val) :=
    State.Aborts.of_modCtx (State.Aborts.of_modCtx (State.beginAbort_aborts _ c.val))
  refine ⟨fun hs => ?create, fun hs => ?drain, fun y => ?task, ⟨fun hs => ?abort, fun hs => ?abortDrain⟩, fun hs hf => ?resume,
    fun hd hp hw => ?done⟩
  case create =>
    refine ⟨_, congrArg Host.Outcome.next (if_pos hb), ?_⟩
    rw [State.ctlWrite_free abort priority hs]
    have e := (CtxOnly.modCtx s c.val (fun y => { y with enable := true, priority := priority, abort := abort })).trans
      (CtxOnly.modCtx _ c.val Ctx.create)
    rw [State.ctx_modCtx_self] at e
    exact e
  case drain =>
    refine ⟨_, congrArg Host.Outcome.next (if_pos hb), ?_⟩
    rw [State.ctlWrite_active false priority hs, State.beginDestroy_active false (by rw [State.ctx_modCtx_self]; exact hs)]
    have e := ((CtxOnly.modCtx s c.val (fun y => { y with enable := false, priority := priority, abort := false })).trans
      (CtxOnly.modCtx _ c.val (fun y => { y with drainTail := some y.tail, state := .draining }))).trans
      (CtxOnly.modCtx _ c.val Ctx.endTask)
    rw [State.ctx_modCtx_self, State.ctx_modCtx_self] at e
    exact e
  case task =>
    refine ⟨fun hn => ?_, fun t ht => ⟨fun hc => ?_, fun hc => ?_⟩⟩
    · unfold Ctx.endTask; rw [hn]
    · unfold Ctx.endTask; rw [ht]; exact if_pos hc
    · unfold Ctx.endTask; rw [ht]; exact if_neg (by rw [hc]; simp)
  case abort =>
    refine ⟨_, congrArg Host.Outcome.next (if_pos hb), ?_⟩
    rw [State.ctlWrite_active true priority hs, State.beginDestroy_active true (by rw [State.ctx_modCtx_self]; exact hs)]
    dsimp only
    rw [if_pos rfl]
    exact (begun _ _).all
  case abortDrain =>
    have hc : (s.barOk && (decide ((s.ctx c.val).state = .draining) || decide ((s.ctx c.val).state = .aborting))) = true := by
      rw [hb, decide_eq_true hs]; rfl
    refine ⟨_, congrArg Host.Outcome.next (if_pos hc), ?_⟩
    rw [State.ctlWrite_draining priority _ hs]
    exact (begun _ _).all
  case resume =>
    refine ⟨_, congrArg Host.Outcome.next (if_pos hb), ?_⟩
    rw [State.ctlWrite_stopped abort priority hs hf]
    have e := (CtxOnly.modCtx s c.val (fun y => { y with enable := true, priority := priority, abort := abort })).trans
      (CtxOnly.modCtx _ c.val (fun y => { y with state := .active, fetched := [] }))
    rw [State.ctx_modCtx_self] at e
    exact e
  case done =>
    have hc : (s.running && s.destroyReady c.val) = true := by rw [hr, hd]; rfl
    exact ⟨s.finishDestroy c.val, congrArg Host.Outcome.next (if_pos hc), State.finishDestroy_takes hp hw⟩

/-! ### Doorbells and completion heads (R263, R268, R534) -/

/-- A context that is ACTIVE or STOPPED is STOPPED then. -/
theorem State.stopCtx_takes {s : State} {c : Nat} (h : (s.ctx c).state = .active ∨ (s.ctx c).state = .stopped) :
    (∃ f, (s.stopCtx c).ctx c = { s.ctx c with state := .stopped, fetched := f }) ∧ (s.stopCtx c).mem = s.mem := by
  unfold State.stopCtx
  rcases h with h | h
  · rw [h]
    refine ⟨⟨[], ?_⟩, ?_⟩
    · exact (State.raiseVector_ctx _ c c).trans (State.ctx_modCtx_self s c _)
    · have e := congrArg State.mem (State.raiseVector_rest c (s.modCtx c (fun x => { x with state := .stopped, fetched := [] })))
      exact e
  · rw [h]
    have e : { s.ctx c with state := .stopped } = s.ctx c := by rw [← h]
    exact ⟨⟨(s.ctx c).fetched, e.symm⟩, rfl⟩

/-- Context `c` of `t` is ACTIVE or STOPPED, with the ring of `x`. -/
structure State.RingOf (c : Nat) (x : Ctx) (t : State) : Prop where
  state : (t.ctx c).state = .active ∨ (t.ctx c).state = .stopped
  tail : (t.ctx c).tail = x.tail
  head : (t.ctx c).head = x.head

section
variable {c : Nat} {x : Ctx} {t : State}

theorem State.RingOf.stopCtx (h : State.RingOf c x t) : State.RingOf c x (t.stopCtx c) ∧ ((t.stopCtx c).ctx c).state = .stopped := by
  obtain ⟨⟨f, e⟩, -⟩ := State.stopCtx_takes h.state
  refine ⟨⟨.inr ?_, ?_, ?_⟩, ?_⟩
  · rw [e]
  · rw [e]; exact h.tail
  · rw [e]; exact h.head
  · rw [e]

theorem State.RingOf.of_ctx {u : State} (h : State.RingOf c x t) (e : u.ctx c = t.ctx c) : State.RingOf c x u :=
  ⟨by rw [e]; exact h.state, by rw [e]; exact h.tail, by rw [e]; exact h.head⟩

theorem State.RingOf.modCtx (h : State.RingOf c x t) (f : Ctx → Ctx) (h1 : ∀ y, (f y).state = y.state) (h2 : ∀ y, (f y).tail = y.tail)
    (h3 : ∀ y, (f y).head = y.head) : State.RingOf c x (t.modCtx c f) :=
  ⟨by rw [State.ctx_modCtx_self, h1]; exact h.state, by rw [State.ctx_modCtx_self, h2]; exact h.tail,
    by rw [State.ctx_modCtx_self, h3]; exact h.head⟩

theorem State.RingOf.setLastStatus (h : State.RingOf c x t) (status : Nat) : State.RingOf c x (t.setLastStatus c status) :=
  h.modCtx _ (fun _ => rfl) (fun _ => rfl) (fun _ => rfl)

theorem State.RingOf.writeEntry (h : State.RingOf c x t) (opcode flags : Nat) (info : CaptureInfo) :
    State.RingOf c x (t.writeEntry c opcode flags info) := by
  have hc (u v : State) (e : u.ctxs = v.ctxs) : u.ctx c = v.ctx c := by rw [State.ctx, e, State.ctx]
  unfold State.writeEntry
  dsimp only
  split
  · exact (h.of_ctx (hc _ t (t.writeBytes_ctxs _ _))).modCtx _ (fun _ => rfl) (fun _ => rfl) (fun _ => rfl)
  · have h1 := h.of_ctx (hc _ t (t.noteRequest_ctxs true (t.ctx c).cplAddr 16))
    generalize t.noteRequest true (t.ctx c).cplAddr 16 = u at h1 ⊢
    refine (State.RingOf.stopCtx ?_).1
    refine State.RingOf.setLastStatus ?_ 0x11
    refine State.RingOf.modCtx h1 _ ?_ ?_ ?_
    · exact fun _ => rfl
    · exact fun _ => rfl
    · exact fun _ => rfl

/-- A capture record changes its context's window. -/
theorem State.capture_ctx (s : State) (c : Nat) (i : CaptureInfo) : (s.capture c i).ctx c = { s.ctx c with capture := s.captureBytes c i } := by
  unfold State.capture
  dsimp only
  split
  · exact State.ctx_modCtx_self s c _
  · have e (u v : State) (e : u.ctxs = v.ctxs) : u.ctx c = v.ctx c := by rw [State.ctx, e, State.ctx]
    exact (e _ _ (State.writeBytes_ctxs _ _ _)).trans (State.ctx_modCtx_self s c _)

/-- A fault of a context without a readable command stops it. -/
theorem State.slotFault_takes {s : State} (hs : (s.ctx c).state = .active ∨ (s.ctx c).state = .stopped) (status detail : Nat) :
    let w := s.capture c ⟨status, 0, 0, 0, detail, [], none⟩
    let u := s.slotFault c status 0 0 detail 0 []
    (u.ctx c).state = .stopped ∧ (u.ctx c).tail = (s.ctx c).tail ∧ (u.ctx c).head = (s.ctx c).head ∧
    ((s.ctx c).cplFull = false → (s.ctx c).held = [] → w.rangeFail (s.ctx c).cplAddr 16 = none →
      (u.ctx c).lastStatus = status ∧ (u.ctx c).cplTail = (s.ctx c).cplTail + 1 ∧
      u.mem = (w.writeBytes (s.ctx c).cplAddr ((s.ctx c).entryBytes 0 0 2 status detail)).mem) ∧
    ((s.ctx c).cplFull = true ∨ (s.ctx c).held ≠ [] → (u.ctx c).lastStatus = status ∧ (u.ctx c).cplTail = (s.ctx c).cplTail ∧
      (u.ctx c).held = (s.ctx c).held ++ [⟨0, 0, status, detail, 0, []⟩] ∧ u.mem = w.mem) := by
  intro w u
  let v := w.setLastStatus c status
  let full := (v.ctx c).cplFull || !(v.ctx c).held.isEmpty
  let y : State := if full then v.modCtx c (fun x => { x with held := x.held ++ [⟨0, 0, status, detail, 0, []⟩] })
    else v.writeEntry c 0 2 ⟨status, 0, 0, 0, detail, [], none⟩
  have hu : u = y.stopCtx c := rfl
  have wc : w.ctx c = { s.ctx c with capture := s.captureBytes c ⟨status, 0, 0, 0, detail, [], none⟩ } := s.capture_ctx c _
  have vc : v.ctx c = { s.ctx c with
      capture := s.captureBytes c ⟨status, 0, 0, 0, detail, [], none⟩, lastStatus := status } := by
    rw [show v.ctx c = { w.ctx c with lastStatus := status } from State.ctx_modCtx_self w c _, wc]
  have hv : State.RingOf c (s.ctx c) v := ⟨by rw [vc]; exact hs, by rw [vc], by rw [vc]⟩
  have hy : State.RingOf c (s.ctx c) y :=
    ite_keep (P := State.RingOf c (s.ctx c)) (hv.modCtx _ (fun _ => rfl) (fun _ => rfl) (fun _ => rfl)) (hv.writeEntry 0 2 _)
  obtain ⟨hk, hst⟩ := hy.stopCtx
  obtain ⟨⟨f, hc⟩, hm⟩ := State.stopCtx_takes hy.state
  have hfull : full = ((s.ctx c).cplFull || !(s.ctx c).held.isEmpty) := by simp only [full, vc]; rfl
  rw [hu]
  refine ⟨hst, hk.tail, hk.head, fun h1 h2 h3 => ?_, fun h => ?_⟩
  · have hn : ¬ full = true := by rw [hfull, h1, h2]; simp
    have ca : (v.ctx c).cplAddr = (s.ctx c).cplAddr := by rw [vc]; rfl
    have ce : (v.ctx c).entryBytes 0 0 2 status detail = (s.ctx c).entryBytes 0 0 2 status detail := by rw [vc]; rfl
    have hr : v.rangeFail (v.ctx c).cplAddr 16 = none := by rw [ca]; exact h3
    have ey : y = (v.writeBytes (s.ctx c).cplAddr ((s.ctx c).entryBytes 0 0 2 status detail)).modCtx c (fun y =>
        { y with cplTail := y.cplTail + 1 }) := by
      rw [← ca, ← ce]
      exact (if_neg hn).trans (State.writeEntry_takes 0 2 _ hr)
    have yc : y.ctx c = { v.ctx c with cplTail := (v.ctx c).cplTail + 1 } := by
      rw [ey, State.ctx_modCtx_self, State.ctx, State.writeBytes_ctxs]
      rfl
    have ym : y.mem = (w.writeBytes (s.ctx c).cplAddr ((s.ctx c).entryBytes 0 0 2 status detail)).mem := by
      rw [ey, State.modCtx_mem]
      have hk : w.SameMap v := ⟨rfl, fun _ => rfl, fun _ => rfl, rfl, rfl, rfl⟩
      exact State.writeBytes_mem (s := w) (t := v) rfl hk (hk.poisonedAt rfl rfl) _ _
    refine ⟨?_, ?_, hm.trans ym⟩
    · rw [hc, yc, vc]
    · rw [hc, yc, vc]
  · have hp : full = true := by
      rw [hfull, Bool.or_eq_true]
      exact h.imp_right (fun h => by simpa using h)
    have ey : y = v.modCtx c (fun x => { x with held := x.held ++ [⟨0, 0, status, detail, 0, []⟩] }) := if_pos hp
    have yc : y.ctx c = { v.ctx c with held := (v.ctx c).held ++ [⟨0, 0, status, detail, 0, []⟩] } := by
      rw [ey, State.ctx_modCtx_self]
    refine ⟨?_, ?_, ?_, hm.trans (by rw [ey]; rfl)⟩
    · rw [hc, yc, vc]
    · rw [hc, yc, vc]
    · rw [hc, yc, vc]

end

/-! ### Events (R294) -/

/-- The wait of a pier on an event is tested. -/
def State.testPier (e : Nat) (v : Event) (s : State) (n : Nat) : State :=
  match (s.pier n).blocked with
  | some _ => s.modPier n (fun p => p.testEvwait s.now e v)
  | none => s

theorem State.testPier_takes (e : Nat) (v : Event) (s : State) (n : Nat) : { s.testPier e v n with spans := s.spans } = s ∧
    (∀ m, m ≠ n → (s.testPier e v n).pier m = s.pier m) ∧ (s.testPier e v n).pier n = (s.pier n).testEvwait s.now e v := by
  unfold State.testPier
  split
  · exact ⟨rfl, fun m hm => State.pier_modPier_ne s _ hm, State.pier_modPier_self s n _⟩
  · rename_i h
    refine ⟨rfl, fun _ _ => rfl, ?_⟩
    unfold Pier.testEvwait
    rw [h]

/-- The waits of all piers on an event are tested. -/
theorem State.testPiers_takes (e : Nat) (v : Event) (s : State) :
    { spanIds.foldl (State.testPier e v) s with spans := s.spans } = s ∧
    ∀ n, n < 16 → (spanIds.foldl (State.testPier e v) s).pier n = (s.pier n).testEvwait s.now e v := by
  have both : ∀ (l : List Nat), l.Nodup → ∀ s : State, { l.foldl (State.testPier e v) s with spans := s.spans } = s ∧
      (∀ m, m ∉ l → (l.foldl (State.testPier e v) s).pier m = s.pier m) ∧
      ∀ m, m ∈ l → (l.foldl (State.testPier e v) s).pier m = (s.pier m).testEvwait s.now e v := by
    intro l
    induction l with
    | nil => exact fun _ s => ⟨rfl, fun _ _ => rfl, fun m hm => (nomatch hm)⟩
    | cons k l ih =>
      intro hn s
      obtain ⟨hk, hl⟩ := List.nodup_cons.mp hn
      obtain ⟨hr, ho, hh⟩ := State.testPier_takes e v s k
      obtain ⟨ir, io, im⟩ := ih hl (s.testPier e v k)
      have hnow : (s.testPier e v k).now = s.now := by have e := congrArg State.now hr; exact e
      rw [List.foldl_cons]
      refine ⟨(congrArg (fun x : State => { x with spans := s.spans }) ir).trans hr, fun m hm => ?_, fun m hm => ?_⟩
      · obtain ⟨h1, h2⟩ := not_or.mp (fun h => hm (List.mem_cons.mpr h))
        exact (io m h2).trans (ho m h1)
      · by_cases e : m = k
        · subst e
          exact (io m hk).trans hh
        · rw [im m ((List.mem_cons.mp hm).resolve_left e), ho m e, hnow]
  obtain ⟨h1, -, h2⟩ := both spanIds List.nodup_range s
  exact ⟨h1, fun n hn => h2 n (List.mem_range.mpr hn)⟩

/-- An operation of the host on an event. -/
theorem State.eventOp_host (s : State) (e : Nat) (add : Bool) (v : Word) :
    let x : Event := { s.event e with value := if add then (s.event e).value + v else v }
    let u := s.eventOp e add v false true
    u.event e = x ∧ (∀ k, k ≠ e → u.event k = s.event k) ∧ u.ctxs = Store.mapVals ctx0 (fun y => y.testEvwait s.now e x) s.ctxs ∧
    (∀ n, n < 16 → u.pier n = (s.pier n).testEvwait s.now e x) ∧
    { u with events := s.events, ctxs := s.ctxs, spans := s.spans } = s := by
  intro x u
  let a := s.setEvent e x
  have ae : a.event e = x := (EventOnly.setEvent s e x).here
  let b : State := { a with ctxs := Store.mapVals ctx0 (fun y => y.testEvwait s.now e x) s.ctxs }
  have hu : u = spanIds.foldl (State.testPier e x) b := by
    have hx : { s.event e with value := if add then (s.event e).value + v else v, error := (s.event e).error || false } = x := by
      rw [Bool.or_false]
    have hi : ¬ ((s.event e).irqEn && !true) = true := by simp
    show s.eventOp e add v false true = _
    unfold State.eventOp
    dsimp only
    rw [if_neg hi, hx]
    show a.testWaits e = _
    unfold State.testWaits
    rw [ae]
    rfl
  obtain ⟨h1, h2⟩ := State.testPiers_takes e x b
  rw [← hu] at h1 h2
  clear_value u
  have ue : u.events = a.events := by have e := congrArg State.events h1; exact e
  have uc : u.ctxs = b.ctxs := by have e := congrArg State.ctxs h1; exact e
  have hev (k : Nat) : u.event k = a.event k := by simp only [State.event, ue]
  refine ⟨(hev e).trans ae, fun k hk => (hev k).trans ((EventOnly.setEvent s e x).others k hk), uc, h2, ?_⟩
  have e := congrArg (fun t : State => { t with events := s.events, ctxs := s.ctxs, spans := s.spans }) h1
  exact e

/-- Settles O44. -/
theorem ringAndEventWrites : Obligations.RingAndEventWrites := by
  refine ⟨fun c v s hb => ?rings, fun e v w s hb => ?events⟩
  case rings =>
    intro x
    refine ⟨fun hs => ⟨fun h1 h2 => ?_, fun hbad => ?_⟩, ?_, fun hh => ?_⟩
    · refine ⟨_, congrArg Host.Outcome.next (if_pos hb), ?_⟩
      have hok : (decide ((v - x.head).toNat ≤ 2 ^ x.useRingLog2) && decide ((v - x.tail).toNat ≤ 2 ^ x.useRingLog2)) = true := by
        rw [decide_eq_true h1, decide_eq_true h2]; rfl
      have e : s.doorbell c.val v = s.modCtx c.val (fun y => { y with tail := v }) := by
        unfold State.doorbell
        dsimp only
        rcases hs with h | h
        · rw [h]; exact if_pos hok
        · rw [h]; exact if_pos hok
      rw [e]
      exact CtxOnly.modCtx s c.val _
    · intro w
      have hok : ¬ (decide ((v - x.head).toNat ≤ 2 ^ x.useRingLog2) && decide ((v - x.tail).toNat ≤ 2 ^ x.useRingLog2)) = true := by
        simp only [Bool.and_eq_true, decide_eq_true_eq]; omega
      have e : s.doorbell c.val v = (s.slotFault c.val 0x1D 0 0 v.toNat 0 []).carryOn := by
        unfold State.doorbell
        dsimp only
        rcases hs with h | h
        · rw [h]; exact if_neg hok
        · rw [h]; exact if_neg hok
      refine ⟨s.slotFault c.val 0x1D 0 0 v.toNat 0 [], ?_, State.slotFault_takes hs 0x1D v.toNat⟩
      rw [← e]
      exact congrArg Host.Outcome.next (if_pos hb)
    · exact ⟨_, congrArg Host.Outcome.next (if_pos hb), State.cplHeadWrite_cplHead s c.val v⟩
    · refine ⟨_, congrArg Host.Outcome.next (if_pos hb), ?_⟩
      have e : s.cplHeadWrite c.val v = s.modCtx c.val (fun x => { x with cplHead := v }) := by
        refine if_pos ?_
        have hh' : (s.ctx c.val).held = [] := hh
        rw [State.ctx_modCtx_self]
        simp [hh']
      rw [e]
      exact CtxOnly.modCtx s c.val _
  case events =>
    intro old took
    refine ⟨⟨_, congrArg Host.Outcome.next (if_pos hb), s.eventOp_host e.toNat false v⟩,
      ⟨_, congrArg Host.Outcome.next (if_pos hb), s.eventOp_host e.toNat true (w.setWidth 64)⟩, ?_⟩
    exact ⟨_, congrArg Host.Outcome.next (if_pos hb), EventOnly.setEvent s e.toNat _⟩

end Sys2Proof.Machine
end

section
/-! PROOFS. The front end: how commands are fetched, started and completed, and its own commands.
-/

namespace Sys2Proof.Machine

/-! ### Fetching (R263-R265) -/

/-- A read of bytes that can all be read leaves bits of `DEV_HERR`. -/
theorem State.noteRequest_read {s : State} {a n : Nat} (hb : s.firstBad false a n = none) :
    ∃ h, s.noteRequest false a n = { s with pcie := { s.pcie with herr := h } } := by
  unfold State.noteRequest
  extract_lets host t
  have ht : ∃ h, t = { s with pcie := { s.pcie with herr := h } } := by
    have h1 : ∃ h, (if (host && !s.pcie.bme) = true then s.setHerr 3 else s) = { s with pcie := { s.pcie with herr := h } } := by
      split
      · exact ⟨_, rfl⟩
      · exact ⟨s.pcie.herr, rfl⟩
    obtain ⟨h, e⟩ := h1
    show ∃ h, State.noteHostFail (if (host && !s.pcie.bme) = true then s.setHerr 3 else s) false a n = _
    rw [e]
    unfold State.noteHostFail
    split
    · split
      · exact ⟨_, rfl⟩
      · exact ⟨h, rfl⟩
    · exact ⟨h, rfl⟩
    · exact ⟨h, rfl⟩
  obtain ⟨h, ht⟩ := ht
  have hbad : t.firstBad false a n = none := by rw [ht]; exact hb
  rw [hbad]
  exact ⟨h, ht⟩

/-- The reads of a fetch that can all be read leave bits of `DEV_HERR`. -/
theorem State.noteFetch_reads {s : State} {c : Nat} {f : Fetched} (hb : ∀ k, k < f.slots → s.firstBad false ((s.ctx c).slotAddr (f.slot + k)) 64 = none) :
    ∃ h, s.noteFetch c f = { s with pcie := { s.pcie with herr := h } } := by
  unfold State.noteFetch
  have all : ∀ (l : List Nat), (∀ k, k ∈ l → k < f.slots) → ∀ h, ∃ h', l.foldl
      (fun st k => st.noteRequest false ((s.ctx c).slotAddr (f.slot + k)) 64) { s with pcie := { s.pcie with herr := h } } =
        { s with pcie := { s.pcie with herr := h' } } := by
    intro l
    induction l with
    | nil => exact fun _ h => ⟨h, rfl⟩
    | cons k l ih =>
      intro hl h
      obtain ⟨h1, e⟩ := State.noteRequest_read (s := { s with pcie := { s.pcie with herr := h } }) (hb k (hl k List.mem_cons_self))
      rw [List.foldl_cons, e]
      exact ih (fun j hj => hl j (List.mem_cons_of_mem k hj)) h1
  exact all _ (fun k hk => List.mem_range.mp hk) s.pcie.herr

/-- A packet slot that can be read and whose fields are right. -/
theorem State.readPacket_takes {s : State} {c : Nat} {i : BitVec 32} (hb : s.firstBad false ((s.ctx c).slotAddr i.toNat) 64 = none)
    (hp : packetFault (s.readBytes ((s.ctx c).slotAddr i.toNat) 64) = none) :
    s.readPacket c i = ⟨i.toNat, (s.ctx c).slotAddr i.toNat, s.readBytes ((s.ctx c).slotAddr i.toNat) 64,
      1 + numAt (s.readBytes ((s.ctx c).slotAddr i.toNat) 64) 2 2, none, none⟩ := by
  unfold State.readPacket
  dsimp only
  rw [hb, hp]

theorem State.readBytes_length (s : State) (a n : Nat) : (s.readBytes a n).length = n := by simp [State.readBytes]

/-- The payload of a packet whose slots can all be read. -/
theorem State.readPayload_takes {s : State} {c : Nat} {f : Fetched}
    (hb : ∀ k, k < f.slots - 1 → s.firstBad false ((s.ctx c).slotAddr (f.slot + 1 + k)) 64 = none) :
    s.readPayload c f = { f with
      bytes := f.bytes ++ (List.range (f.slots - 1)).flatMap (fun k => s.readBytes ((s.ctx c).slotAddr (f.slot + 1 + k)) 64) } := by
  unfold State.readPayload
  dsimp only
  split
  · rename_i b h
    obtain ⟨a, ha, hm⟩ := List.exists_of_findSome?_eq_some h
    obtain ⟨k, hk, rfl⟩ := List.mem_map.mp ha
    rw [hb k (List.mem_range.mp hk)] at hm
    cases hm
  · rw [List.map_map, ← List.flatMap_def]
    rfl

/-- The bytes of a command: those of its packet slot, then those of its payload slots. -/
theorem range_flatMap_succ {α : Type} (g : Nat → List α) (p : Nat) :
    (List.range (1 + p)).flatMap g = g 0 ++ (List.range p).flatMap (fun k => g (1 + k)) := by
  rw [Nat.add_comm, List.range_succ_eq_map, List.flatMap_cons, List.flatMap_map]
  simp only [Nat.succ_eq_add_one, Nat.add_comm]

/-- A fetch of a command all of whose slots are published and can be read. -/
theorem execCommandFetch_takes {s : State} (c : Fin 1024) {p : Nat} (hm : s.mayFetch c.val = true) (hf : (s.ctx c.val).fetched = [])
    (hp : 1 + p ≤ (s.ctx c.val).published ((s.ctx c.val).head + BitVec.ofNat 32 (s.ctx c.val).slotsHeld))
    (hb : ∀ k, k ≤ p → s.firstBad false ((s.ctx c.val).slotAddr
      (((s.ctx c.val).head + BitVec.ofNat 32 (s.ctx c.val).slotsHeld).toNat + k)) 64 = none)
    (hk : packetFault (s.readBytes ((s.ctx c.val).slotAddr
      ((s.ctx c.val).head + BitVec.ofNat 32 (s.ctx c.val).slotsHeld).toNat) 64) = none)
    (hn : numAt (s.readBytes ((s.ctx c.val).slotAddr
      ((s.ctx c.val).head + BitVec.ofNat 32 (s.ctx c.val).slotsHeld).toNat) 64) 2 2 = p) :
    let i := ((s.ctx c.val).head + BitVec.ofNat 32 (s.ctx c.val).slotsHeld).toNat
    let f : Fetched := ⟨i, (s.ctx c.val).slotAddr i,
      (List.range (1 + p)).flatMap (fun k => s.readBytes ((s.ctx c.val).slotAddr (i + k)) 64), 1 + p, none, none⟩
    exec (.commandFetch c) s = .next ((s.noteFetch c.val f).modCtx c.val (fun y => { y with fetched := [f] })) := by
  intro i f
  let g : Fetched := ⟨i, (s.ctx c.val).slotAddr i, s.readBytes ((s.ctx c.val).slotAddr i) 64, 1 + p, none, none⟩
  have hg : s.readPacket c.val ((s.ctx c.val).head + BitVec.ofNat 32 (s.ctx c.val).slotsHeld) = g := by
    rw [State.readPacket_takes (hb 0 (Nat.zero_le p)) hk, hn]
  have hi : BitVec.ofNat 32 i = (s.ctx c.val).head + BitVec.ofNat 32 (s.ctx c.val).slotsHeld := by
    rw [BitVec.ofNat_toNat, BitVec.setWidth_eq]
  have hw : (if g.whole then g
      else if (s.ctx c.val).published (BitVec.ofNat 32 g.slot) ≥ g.slots then s.readPayload c.val g else g) = f := by
    have hwhole : g.whole = true ↔ p = 0 := by
      simp only [Fetched.whole, g, State.readBytes_length, Option.isSome_none, Bool.false_or, decide_eq_true_eq]
      omega
    by_cases h0 : p = 0
    · rw [if_pos (hwhole.mpr h0)]
      subst h0
      simp only [g, f, range_flatMap_succ, List.range_zero, List.flatMap_nil, List.append_nil]
      rfl
    · have hpub : (s.ctx c.val).published (BitVec.ofNat 32 g.slot) ≥ g.slots := by
        show 1 + p ≤ (s.ctx c.val).published (BitVec.ofNat 32 i)
        rw [hi]
        exact hp
      rw [if_neg (fun h => h0 (hwhole.mp h)), if_pos hpub, State.readPayload_takes (fun k hk => ?_)]
      · simp only [g, f, range_flatMap_succ, Nat.add_sub_cancel_left, Nat.add_assoc]
        rfl
      · have hk' : k < 1 + p - 1 := hk
        have e : i + 1 + k = i + (1 + k) := Nat.add_assoc i 1 k
        show s.firstBad false ((s.ctx c.val).slotAddr (i + 1 + k)) 64 = none
        rw [e]
        exact hb (1 + k) (by omega)
  have h0 : ¬ (s.ctx c.val).published ((s.ctx c.val).head + BitVec.ofNat 32 (s.ctx c.val).slotsHeld) = 0 := by omega
  show execCommandFetch c s = _
  unfold execCommandFetch
  dsimp only
  rw [if_neg (by rw [hm]; simp), hf]
  show (if _ then _ else _) = _
  rw [if_neg h0, hg, hw]
  rfl

/-! ### Starting and completing (R265-R271) -/

/-- The command of a context whose turn it is starts, numbered by the serial. -/
theorem execCommandStart_takes {s : State} {c : Nat} {high : Bool} {f : Fetched} {rest : List Fetched} (hr : s.running = true)
    (hf : s.faulted = false) (hn : s.nextStart = some (c, high)) (hc : (s.ctx c).fetched = f :: rest) (hu : f.unread = none) :
    let t : State := { s with fe := if high then { s.fe with rrHigh := c + 1, serial := s.fe.serial + 1 }
      else { s.fe with rrNormal := c + 1, serial := s.fe.serial + 1 } }
    exec .commandStart s = .next (t.modCtx c (fun x =>
      { x with exec := some (startExec f s.now (s.ctx c).hang.toNat s.fe.serial false), fetched := rest })) := by
  intro t
  have h0 : ¬ (!s.running || s.faulted) = true := by simp [hr, hf]
  show execCommandStart s = _
  unfold execCommandStart
  rw [if_neg h0, hn]
  dsimp only
  have e (fe : Fe) : ({ s with fe := fe } : State).ctx c = s.ctx c := rfl
  rw [e, hc]
  dsimp only
  rw [hu]
  cases high <;> rfl

/-- A command that ends with no fault, no event and no interrupt: its context, and its entry where it needs one. -/
theorem State.completeWith_plain {s : State} {c : Nat} {e : Exec} {status : Nat} (detail : Nat) (hb : e.batch = false)
    (hv : e.cmd.cev = false) (hi : e.cmd.irq = false) (hs : status < 0x10) :
    let t := (s.modCtx c (fun x => { x with head := x.head + BitVec.ofNat 32 e.cmd.slots, exec := none, stalled := false })).setLastStatus
      c status
    s.completeWith c e status detail = if e.needsEntry status then
        t.writeEntry c e.cmd.opcode (8 * boolNat e.orderSens + 16 * boolNat e.saturated)
          ⟨status, e.spansAll, e.cmd.tag, e.cmd.addr, detail, e.cmd.bytes, e.awaited⟩
      else t := by
  intro t
  have hbad : decide (status ≥ 0x10) = false := decide_eq_false (by omega)
  have hflags : boolNat false + 2 * boolNat false + 8 * boolNat e.orderSens + 16 * boolNat e.saturated =
      8 * boolNat e.orderSens + 16 * boolNat e.saturated := by simp [boolNat]
  unfold State.completeWith
  dsimp only
  rw [hbad, hb, hv, hi, hflags]
  rfl

/-- A PLOAD that completes with OK is counted as a load. -/
def State.countLoad (s : State) (e : Exec) (status : Nat) : State :=
  if status = 0 ∧ e.cmd.opcode = 0x10 then { s with fe := { s.fe with loads := s.fe.loads + 1 } } else s

/-- The completion of a command in a state that its end has left. -/
theorem State.completeCmd_takes {s : State} {c : Nat} {e : Exec} {status detail : Nat} (hp : e.phase = .finished status detail) :
    s.completeCmd c e status detail = (s.countLoad e status).completeWith c e status detail := by
  unfold State.completeCmd State.countLoad
  by_cases h : status = 0
  · subst h
    by_cases ho : e.cmd.opcode = 0x10
    · simp [ho]
    · simp [ho]
  · have hu : s.undoLoad e = s := by
      unfold State.undoLoad
      rw [hp]
      split
      · rename_i h'
        injection h' with h1
        exact (h h1).elim
      · rfl
    simp [h, hu]

/-- The completion of the command in execution. -/
theorem execCommandCompletion_takes {s : State} (c : Fin 1024) {e : Exec} {status detail : Nat} (hr : s.running = true)
    (hb : (s.ctx c.val).batch = none) (he : (s.ctx c.val).exec = some e) (hp : e.phase = .finished status detail)
    (ha : (s.ctx c.val).state ≠ .aborting) (hh : (s.ctx c.val).hangDue e s.now = false) (hl : e.lateFail = none) :
    exec (.commandCompletion c) s = if (s.ctx c.val).canComplete e status then
      .next (s.completeCmd c.val e status detail).carryOn else .next s := by
  have ha' : decide ((s.ctx c.val).state = .aborting) = false := decide_eq_false ha
  have ho : e.outcome false status detail = (status, detail) := by
    unfold Exec.outcome
    rw [hl]
    rfl
  show execCommandCompletion c s = _
  unfold execCommandCompletion
  dsimp only
  rw [if_neg (by simp [hr]), hb, he]
  dsimp only
  simp only [hh, Bool.false_eq_true, ↓reduceIte, he, hp, ha', ho]

/-- Settles O45. -/
theorem fetchStartComplete : Obligations.FetchStartComplete := by
  refine ⟨?fetch, ?start, ?complete⟩
  case fetch =>
    intro c s p x i hm hf hp hb hk hn
    have ex := execCommandFetch_takes c hm hf hp hb hk hn
    dsimp only at ex
    have hi : (s.ctx c.val).slotAddr i.toNat = x.slotAddr i.toNat := rfl
    generalize hf' : (⟨i.toNat, x.slotAddr i.toNat, (List.range (1 + p)).flatMap (fun k => s.readBytes (x.slotAddr (i.toNat + k)) 64),
      1 + p, none, none⟩ : Fetched) = f
    change exec (.commandFetch c) s = .next ((s.noteFetch c.val _).modCtx c.val _) at ex
    obtain ⟨h, e⟩ := State.noteFetch_reads (s := s) (c := c.val) (f := f) (by subst hf'; exact fun k (hk : k < 1 + p) => hb k (by omega))
    have ex' : exec (.commandFetch c) s = .next ((s.noteFetch c.val f).modCtx c.val (fun y => { y with fetched := [f] })) := by
      rw [← hf']; exact ex
    rw [e] at ex'
    exact ⟨_, ex', State.ctx_modCtx_self _ c.val _, fun m hm => State.ctx_modCtx_ne _ _ hm, rfl⟩
  case start =>
    intro s c high f rest hr hf hn hc hu
    refine ⟨_, execCommandStart_takes hr hf hn hc hu, State.ctx_modCtx_self _ c _, fun m hm => State.ctx_modCtx_ne _ _ hm, ?_, ?_, ?_, ?_⟩
    all_goals cases high <;> rfl
  case complete =>
    intro c s e status detail x hr hb he hp ha hh hl hbt hv hi hs v
    have ex := execCommandCompletion_takes c hr hb he hp ha hh hl
    have hv' : s.countLoad e status = v := rfl
    rw [State.completeCmd_takes hp, hv', State.completeWith_plain detail hbt hv hi hs] at ex
    have vc (m : Nat) : v.ctx m = s.ctx m := by
      show (if _ then _ else _ : State).ctx m = _
      split <;> rfl
    have vs : v = { s with fe := v.fe } := by
      show s.countLoad e status = { s with fe := (s.countLoad e status).fe }
      unfold State.countLoad
      split <;> rfl
    clear_value v
    let t := (v.modCtx c.val (fun x => { x with head := x.head + BitVec.ofNat 32 e.cmd.slots, exec := none, stalled := false })).setLastStatus
      c.val status
    let y : Ctx := { x with head := x.head + BitVec.ofNat 32 e.cmd.slots, exec := none, stalled := false, lastStatus := status }
    have ht : CtxOnly v t c.val y := by
      have k := (CtxOnly.modCtx v c.val (fun x =>
        { x with head := x.head + BitVec.ofNat 32 e.cmd.slots, exec := none, stalled := false })).trans
        (CtxOnly.modCtx _ c.val (fun x => { x with lastStatus := status }))
      rw [State.ctx_modCtx_self, vc] at k
      exact k
    change exec (.commandCompletion c) s = if x.canComplete e status = true then .next (if e.needsEntry status = true then
      t.writeEntry c.val e.cmd.opcode _ _ else t).carryOn else .next s at ex
    clear_value t
    refine ⟨fun hn => ⟨t, ?_, ht⟩, fun hn hfull hw => ?_, fun hn hfull => ?_⟩
    · rw [ex, if_pos (by simp [Ctx.canComplete, hn]), if_neg (by simp [hn])]
    · intro flags
      have ts : t = { s with ctxs := t.ctxs, fe := t.fe } := by
        have e1 : { t with ctxs := s.ctxs } = v := by
          have vctx : v.ctxs = s.ctxs := by rw [vs]
          rw [← vctx]
          exact ht.rest
        have e2 := congrArg (fun z : State => { z with ctxs := t.ctxs, fe := t.fe }) (e1.trans vs)
        exact e2
      obtain ⟨hm, hk, hpo⟩ := State.sameForWrites ts
      have ca : (t.ctx c.val).cplAddr = x.cplAddr := by rw [ht.here]; rfl
      have hw' : t.rangeFail (t.ctx c.val).cplAddr 16 = none := by rw [ca, hk.rangeFail]; exact hw
      let u := t.writeEntry c.val e.cmd.opcode flags ⟨status, e.spansAll, e.cmd.tag, e.cmd.addr, detail, e.cmd.bytes, e.awaited⟩
      obtain ⟨uc, uo, um, ur⟩ := State.writeEntry_leaves (s := t) e.cmd.opcode flags
        ⟨status, e.spansAll, e.cmd.tag, e.cmd.addr, detail, e.cmd.bytes, e.awaited⟩ hw'
      refine ⟨u, ?_, ?_, fun m hm => ?_, ?_, ?_⟩
      · rw [ex, if_pos (by simp [Ctx.canComplete, hfull]), if_pos hn]
      · rw [uc, ht.here]
      · rw [uo m hm, ht.others m hm, vc]
      · rw [um, State.writeBytes_mem hm hk hpo, ca, ht.here]
        rfl
      · have e1 := congrArg (fun z : State =>
          { z with ctxs := s.ctxs, mem := s.mem, poison := s.poison, cxls := s.cxls, pcie := s.pcie }) ur
        refine Eq.trans e1 ?_
        have e2 := congrArg (fun z : State =>
          { z with ctxs := s.ctxs, mem := s.mem, poison := s.poison, cxls := s.cxls, pcie := s.pcie }) ts
        have hfe : t.fe = v.fe := by have e := congrArg State.fe ht.rest; exact e
        have e3 := congrArg (fun f : Fe => ({ s with fe := f } : State)) hfe
        exact Eq.trans e2 (Eq.trans e3 vs.symm)
    · rw [ex, if_neg (by simp [Ctx.canComplete, hn, hfull])]

/-! ### Commands of the front end itself (R271, R277, R294, R295) -/

/-- Values that are written at the indexes from 0 on. -/
theorem Store.get_putAll_range {α : Type} [DecidableEq α] (d : α) (g : Nat → α) (m : Store α) (i n : Nat) :
    Store.get d i (Store.putAll d ((List.range n).map (fun k => (k, g k))) m) = if i < n then g i else Store.get d i m := by
  induction n with
  | zero => rfl
  | succ n ih =>
    have e : Store.putAll d ((List.range (n + 1)).map (fun k => (k, g k))) m =
        Store.put d n (g n) (Store.putAll d ((List.range n).map (fun k => (k, g k))) m) := by
      rw [List.range_succ, List.map_append, Store.putAll, List.foldl_append]
      rfl
    rw [e, Store.get_put]
    by_cases h : i = n
    · rw [if_pos h, h, if_pos (by omega)]
    · rw [if_neg h, ih]
      by_cases hl : i < n
      · rw [if_pos hl, if_pos (by omega)]
      · rw [if_neg hl, if_neg (by omega)]

/-- A window that starts now has not ended. -/
theorem beforeLimit_start (now n : Nat) : beforeLimit now now n = true := by
  unfold beforeLimit
  by_cases h : n = 0
  · simp [h]
  · simp [h]; omega

/-- A change of a context turns on what it makes of that context. -/
theorem State.modCtx_congr {s : State} {c : Nat} {f g : Ctx → Ctx} (h : f (s.ctx c) = g (s.ctx c)) : s.modCtx c f = s.modCtx c g := by
  rw [State.modCtx, State.modCtx, h]

/-- A command in execution whose phase changes. -/
theorem State.modExec_front {s : State} {c : Nat} {e : Exec} (he : (s.ctx c).exec = some e) (f : Exec → Exec) :
    CtxOnly s (s.modExec c false f) c { s.ctx c with exec := some (f e) } := by
  have h := CtxOnly.modCtx s c (fun x => { x with exec := x.exec.map f })
  rw [he] at h
  exact h

/-- The wait of an EVWAIT that has begun is tested at once. -/
theorem Ctx.testEvwait_start {x : Ctx} {e : Exec} (hop : e.cmd.opcode = 0x04) (ha : x.state ≠ .aborting) (now : Nat) (v : Event) :
    ({ x with exec := some { e with phase := .working, start := now } } : Ctx).testEvwait now (e.num 0x10 2) v =
      if e.num 0x18 8 ≤ v.value.toNat then
        { x with stalled := false, exec := some { e with start := now, phase := .finished (boolNat v.error) v.value.toNat } }
      else { x with exec := some { e with start := now, phase := .working } } := by
  have hb : beforeLimit now now (Exec.num { e with phase := .working, start := now } 0x14 4 * tickUs) = true := beforeLimit_start now _
  unfold Ctx.testEvwait
  dsimp only
  rw [hb]
  by_cases hv : e.num 0x18 8 ≤ v.value.toNat
  · rw [if_pos hv, if_pos ?_]
    · cases v.error <;> rfl
    · simp [hop, Exec.isWorking, Exec.num, ha]
      exact decide_eq_true hv
  · rw [if_neg hv, if_neg ?_]
    intro h
    simp only [Bool.and_eq_true] at h
    obtain ⟨⟨⟨-, hn⟩, -⟩, -⟩ := h
    exact hv (of_decide_eq_true hn)

/-- Settles O46. -/
theorem frontEndCommands : Obligations.FrontEndCommands := by
  intro c b e s
  refine ⟨fun h => congrArg Host.Outcome.next (h.withCmd rfl), fun h => ?const, fun h hn => ?evrec, fun h => ?evwait, fun hr he ho hp hn => ?timeout⟩
  case const =>
    let word (i : Nat) : BitVec 32 := BitVec.ofNat 32 (numAt e.cmd.bytes (0x40 + 4 * i) 4)
    let w := Store.putAll 0#32 ((List.range 64).map (fun i => (i, word i))) (s.ctx c.val).consts
    have ex : exec (.constBuf c) s = .next ((s.modCtx c.val (fun x => { x with
        consts := Store.putAll 0#32 ((List.range 64).map (fun i => (i, word i))) x.consts })).finishExec c.val b 0 0) :=
      congrArg Host.Outcome.next (h.withCmd rfl)
    have hm : s.modCtx c.val (fun x => { x with
        consts := Store.putAll 0#32 ((List.range 64).map (fun i => (i, word i))) x.consts }) =
        s.modCtx c.val (fun x => { x with consts := w }) := State.modCtx_congr rfl
    rw [hm] at ex
    exact ⟨w, ex, fun i hi => (Store.get_putAll_range 0#32 word _ i 64).trans (if_pos hi)⟩
  case evrec =>
    refine congrArg Host.Outcome.next (h.withCmd ?_)
    have h1 : decide (e.num 0x12 1 > 1) = false := decide_eq_false (by omega)
    show firstFault [(0x12, decide (e.num 0x12 1 > 1))] = none
    rw [h1]
    rfl
  case evwait =>
    intro v
    refine ⟨_, congrArg Host.Outcome.next (h.withCmd rfl), ?_⟩
    have he : (s.ctx c.val).exec = some e := h.cmd
    have h1 := State.modExec_front he (fun y => { y with phase := .working, start := s.now })
    have h2 := h1.trans (CtxOnly.modCtx _ c.val (fun x => x.testEvwait s.now (e.num 0x10 2) v))
    rw [h1.here, Ctx.testEvwait_start h.opcode h.alive] at h2
    exact h2
  case timeout =>
    intro r
    have hc (m : Nat) : r.ctx m = s.ctx m := by
      have e := congrArg (fun x : State => x.ctx m) (s.advance_rest (e.start + e.num 0x14 4 * 250 - s.now))
      exact e
    have hr' : (r.ctx c.val).exec = some e := by rw [hc]; exact he
    have h0 : (s.running && decide (e.cmd.opcode = 0x04) && e.isWorking && decide (e.num 0x14 4 ≠ 0)) = true := by
      simp [hr, ho, Exec.isWorking, hp, hn]
    have ex : exec (.waitTimeout c) s = .next ((r.finishExec c.val false 0x13 (r.event (e.num 0x10 2)).value.toNat).modCtx c.val (fun x =>
        { x with stalled := false })) := by
      show execWaitTimeout c s = _
      unfold execWaitTimeout
      rw [he]
      exact if_pos h0
    have h1 := State.modExec_front hr' (fun y => { y with phase := .finished 0x13 (r.event (e.num 0x10 2)).value.toNat })
    have h2 := h1.trans (CtxOnly.modCtx _ c.val (fun x => { x with stalled := false }))
    rw [h1.here, hc] at h2
    exact ⟨_, ex, h2⟩

end Sys2Proof.Machine
end

section
/-! PROOFS. Launches.
-/

namespace Sys2Proof.Machine

/-! ### Programs (R277) -/

/-- The words of a program. -/
theorem State.readProgram_word (s : State) (a : Nat) {i n : Nat} (hi : i < n) :
    Store.get 0#64 i (s.readProgram a n) = BitVec.ofNat 64 (s.readNat (a + 8 * i) 8) :=
  (Store.get_putAll_range 0#64 _ [] i n).trans (if_pos hi)

/-- A LAUNCH whose fields are in range. -/
theorem Starting.launch {s : State} {c : Fin 1024} {b : Bool} {e : Exec} (h : Starting s c.val b 0x01 e) (ha : e.num 0x10 8 % 8 = 0)
    (h1 : 1 ≤ e.num 0x18 4) (h2 : e.num 0x18 4 ≤ 8192) :
    exec (.launch c) s = .next (match s.firstBad false (e.num 0x10 8) (8 * e.num 0x18 4) with
      | some (bad, _) => (s.noteRequest false (e.num 0x10 8) (8 * e.num 0x18 4)).finishExec c.val b 0x11 bad
      | none => s.dispatch c.val b (s.maskOf (e.num 0x1C 2))
          ⟨c.val, e.serial, b, s.readProgram (e.num 0x10 8) (e.num 0x18 4), e.num 0x18 4, (s.ctx c.val).consts⟩) := by
  refine congrArg Host.Outcome.next ((h.withCmd ?_).trans ?_)
  · have e1 : decide (e.num 0x10 8 % 8 ≠ 0) = false := decide_eq_false (by omega)
    have e2 : decide (e.num 0x18 4 = 0) = false := decide_eq_false (by omega)
    have e3 : decide (e.num 0x18 4 > 8192) = false := decide_eq_false (by omega)
    show firstFault [_, (0x18, _ || _)] = none
    rw [e1, e2, e3]
    rfl
  · show (match s.firstBad false (e.num 0x10 8) (8 * e.num 0x18 4) with
      | some (bad, _) => _
      | none => _) = _
    split <;> rfl

/-! ### The pier that takes a launch (R275, R302) -/

/-- A pier for which nothing waits is sent nothing. -/
theorem State.sendLaunches_none {s : State} {n : Nat} (h : s.waitingLaunches n = []) (fuel : Nat) : s.sendLaunches fuel n = s := by
  cases fuel with
  | zero => rfl
  | succ fuel =>
    unfold State.sendLaunches
    rw [h]
    exact ite_self s

/-- Two entries that are put into an empty store. -/
theorem Store.get_putAll_two {α : Type} [DecidableEq α] (d : α) {i j : Nat} (hij : i ≠ j) (a b : α) :
    Store.get d i (Store.putAll d [(i, a), (j, b)] []) = a ∧ Store.get d j (Store.putAll d [(i, a), (j, b)] []) = b ∧
    ∀ k, k ≠ i → k ≠ j → Store.get d k (Store.putAll d [(i, a), (j, b)] []) = d :=
  ⟨(Store.get_put_ne hij).trans Store.get_put_self, Store.get_put_self,
    fun _ hi hj => (Store.get_put_ne hj).trans ((Store.get_put_ne hi).trans rfl)⟩

/-- The registers of a pier at launch. -/
theorem Pier.start_reg (p : Pier) (n : Nat) (l : Launch) (rest : List Launch) :
    (p.start n l rest).reg 30 = BitVec.ofNat 64 (spanRegion n) ∧
    (p.start n l rest).reg 31 = BitVec.ofNat 64 (n + l.ctx * 16 + (p.start n l rest).launchSeq * 2 ^ 32) ∧
    ∀ r : PReg, r ≠ 30 → r ≠ 31 → (p.start n l rest).reg r = 0 := by
  obtain ⟨h30, h31, h0⟩ := Store.get_putAll_two (0#64) (show (30 : Nat) ≠ 31 by decide) (BitVec.ofNat 64 (spanRegion n))
    (BitVec.ofNat 64 (n + l.ctx * 16 + (p.start n l rest).launchSeq * 2 ^ 32))
  exact ⟨h30, h31, fun r n30 n31 => h0 r.toNat (fun h => n30 (BitVec.eq_of_toNat_eq h)) (fun h => n31 (BitVec.eq_of_toNat_eq h))⟩

/-- A pier that has no launch takes the next of its queue. -/
theorem execPierLaunch_takes {s : State} (n : Fin 16) {l : Launch} {rest : List Launch} (hr : s.running = true)
    (hf : s.spanFenced n.val = false) (hm : (s.span n.val).marchState ≠ 1) (hl : (s.pier n.val).launch = none)
    (hq : (s.pier n.val).queue = l :: rest) (hw : s.waitingLaunches n.val = []) (hk : s.keptFrom n.val l = false) (hc : l.count ≠ 0) :
    exec (.pierLaunch n) s = .next (s.modPier n.val (fun q => q.start n.val l rest)).carryOn := by
  have hw' : (s.modPier n.val (fun q => q.start n.val l rest)).waitingLaunches n.val = [] := hw
  have h0 : ¬ (!s.running || (s.pier n.val).launch.isSome || s.spanFenced n.val || decide ((s.span n.val).marchState = 1)) = true := by
    simp [hr, hl, hf, hm]
  have h1 : ¬ (s.keptFrom n.val l || decide (l.count = 0)) = true := by simp [hk, hc]
  show execPierLaunch n s = _
  unfold execPierLaunch
  dsimp only
  rw [State.sendLaunches_none hw, if_neg h0, hq]
  dsimp only
  rw [if_neg h1, State.sendLaunches_none hw']

/-- Settles O47. -/
theorem launches : Obligations.Launches := by
  refine ⟨fun c b e s h => ?_, fun n s l rest hr hf hm hl hq hw hk hc => ?_⟩
  · intro a n ha h1 h2
    have ex := h.launch ha h1 h2
    refine ⟨fun hb => ?_, fun bad why hb => ?_⟩
    · rw [hb] at ex
      exact ⟨_, ex, rfl, rfl, rfl, rfl, rfl, fun i hi => s.readProgram_word a hi⟩
    · rw [hb] at ex
      exact ex
  · obtain ⟨h30, h31, h0⟩ := (s.pier n.val).start_reg n.val l rest
    refine ⟨_, (s.pier n.val).start n.val l rest, execPierLaunch_takes n hr hf hm hl hq hw hk hc, SpanOnly.modPier s n.val _, rfl, rfl, rfl,
      rfl, rfl, rfl, rfl, rfl, rfl, rfl, rfl, h30, h31, h0⟩

end Sys2Proof.Machine
end

section
/-! PROOFS. The instructions of a pier that wait, and those of memory, at issue.
-/

namespace Sys2Proof.Machine

/-! ### Entering flight and blocking (R305, R307) -/

/-- An instruction has entered flight, and the pier stands at the next one. -/
def Pier.flying (p : Pier) (i : SpanInstr) (a b c : Word) (aux : Nat) : Pier :=
  { p with flight := p.flight ++ [⟨i, a, b, c, aux⟩], pc := p.pc + 1 }

/-- An instruction blocks issue, and the pier stands at the next one. -/
def Pier.blocking (p : Pier) (i : SpanInstr) (b : Word) (now : Nat) : Pier :=
  { p with pc := p.pc + 1, blocked := some (⟨i, 0, b, 0, 0⟩, now), code := 2 }

section
variable {s : State} {n : Nat} {l : Launch} {i : SpanInstr}

/-- A row that changes the pier that runs by `f` and then by `g`. -/
theorem Issuing.modPier_modPier (h : Issuing s n l i) {act : Launch → SpanInstr → Pier → State → Option State} {f g : Pier → Pier}
    (ha : act l i (s.pier n) (s.runPier n) = some (((s.runPier n).modPier n f).modPier n g)) :
    s.Becomes n (goOn (s.issue n act)) (g (f { s.pier n with code := 1 })) := by
  have ht := ((SpanOnly.modPier s n (fun p => { p with code := 1 })).trans (SpanOnly.modPier (s.runPier n) n f)).trans
    (SpanOnly.modPier ((s.runPier n).modPier n f) n g)
  refine ⟨_, congrArg goOn (h.issue ha), ?_⟩
  simpa [State.runPier] using ht

/-- A row whose instruction enters flight. -/
theorem Issuing.fly (h : Issuing s n l i) {act : Launch → SpanInstr → Pier → State → Option State} {a b c : Word} {aux : Nat}
    (ha : act l i (s.pier n) (s.runPier n) = some ((s.runPier n).fly n i a b c aux)) :
    s.Becomes n (goOn (s.issue n act)) ({ s.pier n with code := 1 }.flying i a b c aux) :=
  h.modPier (f := fun p => p.flying i a b c aux) ha

/-- A row whose instruction enters flight, with the pier changed by `f` before. -/
theorem Issuing.modPier_fly (h : Issuing s n l i) {act : Launch → SpanInstr → Pier → State → Option State} {f : Pier → Pier}
    {a b c : Word} {aux : Nat}
    (ha : act l i (s.pier n) (s.runPier n) = some (((s.runPier n).modPier n f).fly n i a b c aux)) :
    s.Becomes n (goOn (s.issue n act)) ((f { s.pier n with code := 1 }).flying i a b c aux) :=
  h.modPier_modPier (g := fun p => p.flying i a b c aux) ha

/-- A row whose instruction blocks the pier. -/
theorem Issuing.block (h : Issuing s n l i) {act : Launch → SpanInstr → Pier → State → Option State} {b : Word}
    (ha : act l i (s.pier n) (s.runPier n) = some ((s.runPier n).block_ n i b)) :
    s.Becomes n (goOn (s.issue n act)) ((s.pier n).blocking i b s.now) :=
  h.modPier (f := fun p => p.blocking i b s.now) ha

/-- The instruction's pier runs, on the same map of addresses. -/
theorem State.runPier_target (s : State) (n : Nat) : (s.runPier n).target = s.target :=
  State.SameMap.target ⟨rfl, fun _ => rfl, fun _ => rfl, rfl, rfl, rfl⟩

/-- An atomic whose address is aligned and one that it may have (R323). -/
theorem Issuing.atomic (h : Issuing s n l i) {act : Launch → SpanInstr → Pier → State → Option State} {ra rb : PReg} {w : Nat} {spad : Bool}
    (ha : act l i (s.pier n) (s.runPier n) = some ((s.runPier n).issueAtomic n i (s.pier n) ra rb w spad))
    (hw : ((s.pier n).reg ra).toNat % 2 ^ 48 % w = 0)
    (ht : (∃ m o, s.target (((s.pier n).reg ra).toNat % 2 ^ 48) = .scratch m o) ∨
      spad = false ∧ ((∃ r i, s.target (((s.pier n).reg ra).toNat % 2 ^ 48) = .gddr r i) ∨
        ∃ c g, s.target (((s.pier n).reg ra).toNat % 2 ^ 48) = .cxl c g)) :
    s.Becomes n (goOn (s.issue n act)) ({ s.pier n with code := 1 }.flying i ((s.pier n).reg ra) ((s.pier n).reg rb) 0 0) := by
  refine h.fly (ha.trans (congrArg some ?_))
  unfold State.issueAtomic
  rw [State.runPier_target]
  dsimp only
  rw [if_neg (not_not.2 hw)]
  rcases ht with ⟨m, o, ht⟩ | ⟨rfl, ⟨r, j, ht⟩ | ⟨c, g, ht⟩⟩ <;> rw [ht]

end

/-! ### EVWAIT (R317) -/

/-- An EVWAIT that has just blocked its pier goes on at once where its event has the value. -/
theorem Pier.testEvwait_blocking (p : Pier) (rd rb : PReg) (t : BitVec 20) (ev : BitVec 16) (b : Word) (now : Nat) (v : Event) :
    (p.blocking (.evwait rd rb t ev) b now).testEvwait now ev.toNat v =
      if b ≤ v.value then ((p.blocking (.evwait rd rb t ev) b now).setReg rd (if v.error then 1 else 0)).unblock
      else p.blocking (.evwait rd rb t ev) b now := by
  unfold Pier.testEvwait Pier.blocking
  dsimp only
  rw [beforeLimit_start]
  simp

/-- Time that passes leaves the piers. -/
theorem State.passTo_pier (s : State) (t : Nat) {n : Nat} (hn : n < 16) : (s.passTo t).pier n = s.pier n := by
  unfold State.passTo
  cases hr : s.running with
  | false => rw [State.advance_stopped _ hr]
  | true =>
    by_cases hk : t - s.now = 0
    · rw [hk]
      unfold State.advance
      rw [if_pos (by simp)]
    · have h := congrArg Span.pier (State.advance_span hr hk hn)
      refine h.trans ?_
      split <;> rfl

/-- The timeout of an EVWAIT that blocks its pier. -/
theorem execSpanEvwaitTimeout_takes {s : State} {n : Fin 16} {i : InFlight} {start : Nat} {rd rb : PReg} {t : BitVec 20} {ev : BitVec 16}
    (hr : s.running = true) (hl : (s.pier n.val).live = true) (hb : (s.pier n.val).blocked = some (i, start))
    (hi : i.instr = .evwait rd rb t ev) (ht : t ≠ 0) :
    execSpanEvwaitTimeout n s = .next ((s.passTo (start + t.toNat * 250)).modPier n.val (fun p => (p.setReg rd 2).unblock)).carryOn := by
  unfold execSpanEvwaitTimeout
  rw [hb]
  dsimp only
  rw [hi]
  dsimp only
  rw [if_pos (by rw [hr, hl, decide_eq_true ht]; rfl)]
  rfl

/-! ### BARRIER (R318) -/

/-- The barrier `b` is the one that a launch names `id`. -/
def Barrier.isOf (b : Barrier) (l : Launch) (id : Nat) : Bool := b.ctx = l.ctx && b.batch = l.batch && b.cmd = l.cmd && b.id = id

section
variable {s : State} {n : Fin 16} {l : Launch} {rd : PReg} {id : BitVec 8} {m : BitVec 16}

/-- What a BARRIER makes of the state in which its pier runs. -/
theorem Issuing.barrier (h : Issuing s n.val l (.barrier rd id m)) {mask : Nat}
    (hm : mask = if m = 0 then s.launchedSpans n.val l else m.toNat) :
    execBarrier n s = .next (if (maskSpans mask).any (fun k => !natBit (s.launchedSpans n.val l) k) then
        (s.runPier n.val).illegal n.val (s.pier n.val).pc
      else if s.feHeld n.val then (s.runPier n.val).holdIssue n.val
      else if s.fe.barriers.any (fun b => b.isOf l id.toNat && decide (b.mask ≠ mask)) then
        (s.runPier n.val).pierFault n.val 0x16 (s.pier n.val).pc
      else (s.runPier n.val).enterBarrier n.val l (.barrier rd id m) id.toNat mask).carryOn := by
  subst hm
  exact congrArg goOn (h.issue rfl)

end

/-! ### The obligation -/

/-- Settles O53: each clause is one row's effect on the pier that runs. -/
theorem waitsAndMemoryIssue : Obligations.WaitsAndMemoryIssue := by
  unfold Obligations.WaitsAndMemoryIssue
  intro n s l p q becomes flies blocks aligned spad memory
  refine ⟨?evrec, ?evwait, ?timeout, ?barrier, ?fence, ?dmaw, ?halt, ?dma, ?atadd, ?atswp, ?bset, ?bclr, ?mcast⟩
  case evrec => exact fun rb err op ev h => h.fly rfl
  case evwait =>
    intro rd rb t ev h v
    have ht (o : Pier) (ho : (((s.pier n.val).blocking (.evwait rd rb t ev) (p.reg rb) s.now).testEvwait s.now ev.toNat v) = o) :
        s.Becomes n.val (exec (.spanEvwait n) s) o := ho ▸ h.modPier_modPier
      (f := fun x => x.blocking (.evwait rd rb t ev) (p.reg rb) s.now) (g := fun x => x.testEvwait s.now ev.toNat v) rfl
    refine ⟨fun hv => ht _ ?_, fun hv => ht _ ?_⟩
    · rw [Pier.testEvwait_blocking, if_pos hv]
      have hq : q = { q with blocked := none } := by
        rw [← h.free]
      exact congrArg (fun x : Pier => x.setReg rd (if v.error then 1 else 0)) hq.symm
    · rw [Pier.testEvwait_blocking, if_neg (by simpa using hv)]
      rfl
  case timeout =>
    intro i start rd rb t ev hr hl hb hi ht r
    refine ⟨_, execSpanEvwaitTimeout_takes hr hl hb hi ht, ?_⟩
    have h := SpanOnly.modPier r n.val (fun p => (p.setReg rd 2).unblock)
    rw [State.passTo_pier s _ n.isLt] at h
    exact h
  case barrier =>
    intro rd id m h all mask mine
    have hx := h.barrier (mask := mask) rfl
    have named (hk : ∀ k, k ∈ maskSpans mask → natBit all k = true) : ¬ (maskSpans mask).any (fun k => !natBit all k) = true := by
      simpa using hk
    refine ⟨?_, fun hk hf => ?_, fun hk hf ho => ?_⟩
    · rintro ⟨k, hk, hn⟩
      rw [if_pos (List.any_eq_true.2 ⟨k, hk, by rw [hn]; rfl⟩)] at hx
      have hp := State.pierFault_pier h.runPier_live 0x11 p.pc
      have hc := congrArg Pier.code hp
      have hpc := congrArg Pier.pc hp
      exact ⟨_, hx, hc, hpc⟩
    · rw [if_neg (named hk), if_pos hf] at hx
      have ht := (SpanOnly.modPier s n.val (fun p => { p with code := 1 })).trans
        (SpanOnly.modPier (s.runPier n.val) n.val (fun p => { p with code := 2 }))
      refine ⟨_, hx, ?_⟩
      simpa [State.holdIssue, State.runPier] using ht
    · have hn : ¬ s.fe.barriers.any (fun b => b.isOf l id.toNat && decide (b.mask ≠ mask)) = true := by
        simp only [List.any_eq_true, Bool.and_eq_true, decide_eq_true_eq, not_exists, not_and, not_not]
        exact ho
      rw [if_neg (named hk), if_neg (by simp [hf]), if_neg hn] at hx
      have hu := (SpanOnly.modPier s n.val (fun p => { p with code := 1 })).trans (SpanOnly.modPier (s.runPier n.val) n.val
        (fun p => p.blocking (.barrier rd id m) 0 s.now))
      obtain ⟨here, others, -⟩ := hu
      refine ⟨_, hx, ?_, rfl, others, rfl⟩
      have e := congrArg Span.pier here
      refine e.trans ?_
      simp [State.runPier, Pier.blocking, q, p]
  case fence => exact fun _ h => h.block rfl
  case dmaw => exact fun _ _ _ h => h.block rfl
  case halt => exact fun h => h.block rfl
  case dma =>
    intro ra rb rc t h dst src len hb h1 h2 ho
    have e0 : ¬ (p.tag t.toNat).busy = true := by simp [hb]
    have e1 : ¬ (decide (len = 0) || decide (len > 2 ^ 31) || overlaps src dst len) = true := by
      rw [ho, decide_eq_false (Nat.ne_of_gt h1), decide_eq_false (Nat.not_lt.2 h2)]
      exact Bool.false_ne_true
    refine h.modPier_fly (f := fun q => q.setTag t.toNat ⟨true, (p.tag t.toNat).err, src, dst, len, false, none⟩) (congrArg some ?_)
    exact (if_neg e0).trans (if_neg e1)
  case atadd => exact fun rd ra rb ret wide h hw ht => h.atomic rfl hw (ht.imp_right fun x => ⟨rfl, x⟩)
  case atswp => exact fun rd ra rb wide h hw ht => h.atomic rfl hw (ht.imp_right fun x => ⟨rfl, x⟩)
  case bset => exact fun rd ra rb ret h hw ht => h.atomic rfl hw (.inl ht)
  case bclr => exact fun rd ra rb ret h hw ht => h.atomic rfl hw (.inl ht)
  case mcast =>
    intro rd ra rb n1 h mask hs hd
    have e0 : ¬ (decide (natBits (p.reg rb).toNat 16 0 + (n1.toNat + 1) > 131072) ||
        decide (natBits (p.reg rb).toNat 48 32 + (n1.toNat + 1) > 131072)) = true := by
      simp only [Bool.or_eq_true, decide_eq_true_eq]
      omega
    refine ⟨fun hm => ?_, fun k hm hk hb hj => ?_⟩
    · exact h.setReg (congrArg some ((if_neg e0).trans (if_pos hm)))
    · have hf : (List.range 4).find? (fun k => !(p.slot k).busy) = some k :=
        List.find?_range_eq_some.2 ⟨by simp [hb], List.mem_range.2 hk, fun j hjk => by simp [hj j hjk]⟩
      refine h.modPier_fly (f := fun q => q.setSlot k ⟨true, mask, 0, 0⟩) (congrArg some ((if_neg e0).trans ((if_neg hm).trans ?_)))
      show (match (List.range 4).find? (fun k => !(p.slot k).busy) with
        | none => _
        | some k => _) = _
      rw [hf]

end Sys2Proof.Machine
end

section
/-! PROOFS. Run commands.
-/

namespace Sys2Proof.Machine

/-! ### A batch descriptor that is read over a read failure (R290, R412) -/

/-- An ANNEAL_BATCH that works. -/
def batchExec : Exec := { startExec ⟨0, 0, 0x13#8 :: List.replicate 63 0#8, 1, none, none⟩ 0 0 0 false with phase := .working }

/-- Its task, at its first descriptor, with its queue in the scratchpad of span 0. -/
def batchTask : Batch := ⟨spanBase, 2, 5, 0, none, none, false, 0⟩

/-- Context 0 works on the task, whose work event exceeds 0. A read of the host is to fail at the address of the first descriptor,
though that is a byte of the scratchpad, which can be read. -/
def batchOverFailure : State :=
  { State.reset with
    boot := { boot0 with ready := true, stage := 12 },
    ctxs := [(0, { ctx0 with state := .active, enable := true, exec := some batchExec, batch := some batchTask })],
    events := [(5, { event0 with value := 1 })],
    pcie := { State.reset.pcie with bme := true, readFail := some (spanBase + 64, .host .poisoned) } }

/-- The descriptor can be read, and its read sets a bit of `DEV_HERR`. -/
theorem batchOverFailure_takes : batchOverFailure.firstBad false (spanBase + 64) 64 = none ∧
    (match exec (.batchDescriptorTake 0) batchOverFailure with
      | .next u => decide (u.pcie.herr = batchOverFailure.pcie.herr)
      | _ => true) = false := by decide +kernel

/-- Refutes O49: the read of a batch task's descriptor sets a bit of `DEV_HERR` where a read of the host is to fail at its address,
even if that is not the host's; the clause of BATCH_DESCRIPTOR_TAKE says that nothing but contexts and the front end changes. -/
theorem not_runCommands : ¬ Obligations.RunCommands := by
  unfold Obligations.RunCommands
  intro h
  obtain ⟨-, -, -, take, -⟩ := h 0 false batchExec batchOverFailure
  obtain ⟨hb, hn⟩ := batchOverFailure_takes
  obtain ⟨hd, -⟩ := take batchTask rfl rfl
  obtain ⟨u, hu, -, -, -, hr⟩ := hd rfl rfl rfl rfl rfl rfl (by decide) (by decide) hb
  rw [hu] at hn
  exact of_decide_eq_false hn (congrArg (fun t => t.pcie.herr) hr)

end Sys2Proof.Machine
end

section
/-! PROOFS. The life of a link: replay, training, lane failures and its control.
-/

namespace Sys2Proof.Machine

/-! ### Links (R250-R252) -/

/-- A link changes to the same by what a function makes of it. -/
theorem State.modLink_const (s : State) (l : Nat) (f : Link → Link) : s.modLink l f = s.modLink l (fun _ => f (s.link l)) := rfl

/-- A second entry at an index takes the place of the first. -/
theorem Store.insert_insert {α : Type} (k : Nat) (v w : α) (m : Store α) : Store.insert k v (Store.insert k w m) = Store.insert k v m := by
  induction m with
  | nil => simp [Store.insert]
  | cons q rest ih =>
    obtain ⟨j, x⟩ := q
    simp only [Store.insert]
    by_cases h1 : j < k
    · simp [h1, Store.insert, ih]
    · by_cases h2 : j = k
      · simp [h2, Store.insert]
      · simp [h1, h2, Store.insert]

/-- Two changes of a link that do not end at its reset value are one. -/
theorem State.modLink_modLink {s : State} {l : Nat} {f g : Link → Link} (h1 : f (s.link l) ≠ link0) (h2 : g (f (s.link l)) ≠ link0) :
    (s.modLink l f).modLink l g = s.modLink l (fun _ => g (f (s.link l))) := by
  show { s.modLink l f with links := Store.put link0 l (g ((s.modLink l f).link l)) (s.modLink l f).links } = _
  rw [State.link_modLink_self]
  have e : Store.put link0 l (g (f (s.link l))) (Store.put link0 l (f (s.link l)) s.links) =
      Store.put link0 l (g (f (s.link l))) s.links := by
    unfold Store.put
    rw [if_neg h1, if_neg h2, if_neg h2, Store.insert_insert]
  exact congrArg (fun k => { s with links := k }) e

/-- A link that is down, or disabled, uses no key. -/
theorem Link.leave_off (x : Link) {st : Nat} (h : st = 7 ∨ st = 0) : x.leave st false =
    { x with state := st, peerValid := x.peerValid && decide (x.state ≠ 6), paramRx := false, txEnc := false, rxEnc := false } := by
  have off : (decide (st = lnkDown) || decide (st = lnkDisabled)) = true := by
    rcases h with rfl | rfl <;> rfl
  unfold Link.leave
  rw [off]
  dsimp only
  rw [Bool.not_true, Bool.and_false, Bool.and_false]
  rfl

/-- A link that trains keeps its keys. -/
theorem Link.leave_on (x : Link) {st : Nat} (h : st = 1 ∨ st = 3) : x.leave st false =
    { x with state := st, peerValid := x.peerValid && decide (x.state ≠ 6), paramRx := false } := by
  have off : (decide (st = lnkDown) || decide (st = lnkDisabled)) = false := by
    rcases h with rfl | rfl <;> rfl
  unfold Link.leave
  rw [off]
  dsimp only
  rw [Bool.not_false, Bool.and_true, Bool.and_true]
  rfl

/-- The partner's PARAM stays valid unless the link was ACTIVE. -/
theorem Link.leave_valid {x : Link} (h : x.state ≠ 6) : (x.peerValid && decide (x.state ≠ 6)) = x.peerValid := by
  rw [decide_eq_true h, Bool.and_true]

/-- A link that is off, and was not ACTIVE. -/
theorem Link.leave_off_quiet {x : Link} {st : Nat} (h : st = 7 ∨ st = 0) (h6 : x.state ≠ 6) : x.leave st false =
    { x with state := st, paramRx := false, txEnc := false, rxEnc := false } := by
  rw [Link.leave_off x h, Link.leave_valid h6]

theorem lnkBlock_val (l : Fin 4) : lnkBlock l.val = .lnk l := by
  unfold lnkBlock
  congr 1
  exact Fin.ext (Nat.mod_eq_of_lt l.isLt)

/-- Time that passes leaves the links. -/
theorem State.passTo_link (s : State) (t l : Nat) : (s.passTo t).link l = s.link l := by
  have e := congrArg State.links (s.advance_rest (t - s.now))
  have e' : (s.passTo t).links = s.links := e
  rw [State.link, State.link, e']

/-! ### The rows of an ACTIVE link (R250, R254) -/

section
variable {s : State} {l : Fin 4} (hr : s.running = true) (hx : (s.link l.val).state = 6)
include hr hx

/-- A flit out of order is not accepted. -/
theorem execPong_early {h : FlitHdr} (time : BitVec 64) (hs : h.seq ≠ (s.link l.val).rxNext) (ht : s.transitHeld l.val h = false) :
    execPong l h time s = .next (s.modLink l.val (fun y => { y.corrected h with nak := true })) := by
  refine congrArg Host.Outcome.next ?_
  unfold State.receive
  dsimp only
  rw [if_neg (by simp [hr, hx, ht, lnkActive]), if_pos hs]

/-- What a discarded flit makes of its link. -/
def Link.discarded (x : Link) (h : FlitHdr) (fails : Nat) (uncorrectable : Bool) : Link :=
  { (if uncorrectable then x else x.corrected h) with
    nak := true, tagFails := fails, fecUncorr := if uncorrectable then satInc x.fecUncorr else x.fecUncorr }

/-- A flit that is discarded. -/
theorem execFlitDiscard_active {h : FlitHdr} {tagFail uncorrectable : Bool} {fails : Nat}
    (hf : fails = if tagFail = true ∧ (s.link l.val).rxEnc = true ∧ h.seq = (s.link l.val).rxNext then (s.link l.val).tagFails + 1
      else (s.link l.val).tagFails) :
    execFlitDiscard l h tagFail uncorrectable s = if 4 ≤ fails ∧ (s.link l.val).tagFails < 4 then
      .next (((s.modLink l.val (fun y => y.discarded h fails uncorrectable)).takeDown l.val 3 7 false).raise (.lnk l) 6 l.val).carryOn
      else .next (s.modLink l.val (fun y => y.discarded h fails uncorrectable)) := by
  have h0 : ¬ (!s.running || decide ((s.link l.val).state ≠ lnkActive)) = true := by simp [hr, hx, lnkActive]
  have e : (if (tagFail && (s.link l.val).rxEnc && decide (h.seq = (s.link l.val).rxNext)) = true then (s.link l.val).tagFails + 1
      else (s.link l.val).tagFails) = fails := by
    simp [hf, and_assoc]
  unfold execFlitDiscard
  dsimp only
  rw [if_neg h0, e]
  by_cases hc : 4 ≤ fails ∧ (s.link l.val).tagFails < 4
  · rw [if_pos hc, if_pos (by simpa using hc)]
    rfl
  · rw [if_neg hc, if_neg (by simpa using hc)]
    rfl

/-- An idle flit. -/
theorem execIdleFlit_active (h : FlitHdr) : execIdleFlit l h s =
    .next ((s.modLink l.val (fun y => (y.corrected h).takeHdr h s.now)).pumpLink l.val) := by
  unfold execIdleFlit
  rw [if_pos (by simp [hr, hx, lnkActive])]

/-- A replay of what is unacknowledged. -/
theorem execReplayTimeout_active (hu : (s.link l.val).unacked ≠ []) (hs : ∀ f, f ∈ (s.link l.val).unacked → f.resent < 8) {v : State}
    (hv : v = if (s.link l.val).nakRx then s else s.passTo ((s.link l.val).ackTick + 500)) :
    execReplayTimeout l s = .next ((v.modLink l.val (fun y => y.replay v.now)).pumpLink l.val) := by
  have spent : (s.link l.val).spent = false := by
    unfold Link.spent
    rw [List.any_eq_false]
    intro f hf
    have := hs f hf
    simp; omega
  unfold execReplayTimeout
  dsimp only
  rw [if_pos (by simp [hr, hx, lnkActive, hu, spent])]
  subst hv
  rfl

/-- A flit that has been sent eight times. -/
theorem execReplayLimit_active (hs : ∃ f, f ∈ (s.link l.val).unacked ∧ 8 ≤ f.resent) :
    execReplayLimit l s = .next ((s.retrainTo l.val (s.link l.val).width).raise (.lnk l) 2 l.val).carryOn := by
  obtain ⟨f, hf, h8⟩ := hs
  have spent : (s.link l.val).spent = true := List.any_eq_true.2 ⟨f, hf, decide_eq_true h8⟩
  unfold execReplayLimit
  dsimp only
  rw [if_pos (by simp [hr, hx, lnkActive, spent])]

end

/-! ### The rows of a link in training (R251, R252) -/

section
variable {s : State} {l : Fin 4} (hr : s.running = true) (hm : s.mayTrain l.val = true)
include hr hm

/-- A state of training completes. -/
theorem execLinkTrainingAdvance_trains (h1 : 1 ≤ (s.link l.val).state) (h5 : (s.link l.val).state ≤ 5) (c : Bool) :
    execLinkTrainingAdvance ⟨l, c⟩ s = .next (if (s.link l.val).state = 1 then
        (if c then (s.modLink l.val (fun y => { y with cable := c })).modLink l.val (fun y => { y with state := 2 })
          else ((s.modLink l.val (fun y => { y with cable := c })).trainFails l.val).carryOn)
      else if (s.link l.val).state = 4 then s.modLink l.val (fun y => { y with state := 5, paramTx := s.ownParam l.val })
      else if (s.link l.val).state < 4 then s.modLink l.val (fun y => { y with state := y.state + 1 })
      else if (s.link l.val).paramRx then s.activate l.val else s) := by
  unfold execLinkTrainingAdvance
  dsimp only
  rw [if_pos (by simp [hr, hm, Link.training, h1, h5])]
  split
  · rfl
  · split
    · rfl
    · split <;> rfl

/-- A link that is down trains again while a width is left. -/
theorem execLinkTrainingTimeout_down (h7 : (s.link l.val).state = 7) :
    execLinkTrainingTimeout l s = .next (if (widestWidth (s.fencedLanes l.val)).isSome then
      (s.passTo ((s.link l.val).trainTick + 500000000)).startTraining l.val else s) := by
  unfold execLinkTrainingTimeout
  dsimp only
  rw [if_neg (by simp [Link.training, h7])]
  by_cases hw : (widestWidth (s.fencedLanes l.val)).isSome = true
  · rw [if_pos (by simp [hr, hm, h7, hw, lnkDown]), if_pos hw]
    rfl
  · rw [if_neg (by simp [hw]), if_neg hw]

/-- Lanes fail. -/
theorem execLaneFailure_fails {lanes : BitVec 8} (h0 : lanes ≠ 0) (h1 : 1 ≤ (s.link l.val).state) (h6 : (s.link l.val).state ≤ 6) :
    execLaneFailure l lanes s = .next ((if (s.loseLanes l.val lanes).1 then (s.loseLanes l.val lanes).2
      else (s.loseLanes l.val lanes).2.raise (.lnk l) 1 l.val).raise (.lnk l) 0 lanes.toNat).carryOn := by
  unfold execLaneFailure
  rw [if_pos]
  · have ht : ((s.link l.val).training || decide ((s.link l.val).state = lnkActive)) = true := by
      by_cases h : (s.link l.val).state = 6
      · rw [decide_eq_true (show (s.link l.val).state = lnkActive from h), Bool.or_true]
      · have h5 : (s.link l.val).state ≤ 5 := by omega
        simp [Link.training, h1, h5]
    rw [hr, hm, ht]
    exact decide_eq_true h0

end

/-- A link that trains is down when its time is over. -/
theorem execLinkTrainingTimeout_trains {s : State} {l : Fin 4} (hr : s.running = true) (h1 : 1 ≤ (s.link l.val).state)
    (h5 : (s.link l.val).state ≤ 5) : execLinkTrainingTimeout l s =
      .next ((s.passTo ((s.link l.val).trainTick + 500000000)).trainFails l.val).carryOn := by
  unfold execLinkTrainingTimeout
  dsimp only
  rw [if_pos (by simp [hr, Link.training, h1, h5])]
  rfl

/-- A link that trains is down. -/
theorem State.trainFails_off {s : State} {l : Fin 4} (h6 : (s.link l.val).state ≠ 6) : s.trainFails l.val =
    (s.modLink l.val (fun _ => { s.link l.val with state := 7, paramRx := false, txEnc := false, rxEnc := false })).raise (.lnk l) 1 l.val := by
  have e : s.modLink l.val (fun y => y.leave lnkDown false) =
      s.modLink l.val (fun _ => { s.link l.val with state := 7, paramRx := false, txEnc := false, rxEnc := false }) := by
    rw [State.modLink_const]
    show s.modLink l.val (fun _ => (s.link l.val).leave 7 false) = _
    rw [Link.leave_off_quiet (.inl rfl) h6]
  unfold State.trainFails
  rw [e, lnkBlock_val]

/-! ### The control of a link (R526, R528) -/

/-- A link that starts to train. -/
def Link.started (z : Link) (now : Nat) (fenced : BitVec 8) : Link :=
  { z with
    state := 1, peerValid := z.peerValid && decide (z.state ≠ 6), paramRx := false, trainTick := now, failed := fenced,
    width := (widestWidth fenced).getD z.width }

theorem State.startTraining_only (s : State) (l : Nat) :
    LinkOnly s (s.startTraining l) l ((s.link l).started s.now (s.fencedLanes l)) := by
  have h := LinkOnly.modLink s l (fun x => { x.leave lnkDetect false with
    trainTick := s.now, failed := s.fencedLanes l, width := (widestWidth (s.fencedLanes l)).getD x.width })
  have e : (s.link l).leave lnkDetect false = _ := Link.leave_on (s.link l) (.inl rfl)
  rw [e] at h
  exact h

/-- A link with its control bits written. -/
def Link.written (z : Link) (enable fwdEn dateline : Bool) : Link := { z with enable := enable, fwdEn := fwdEn, dateline := dateline }

section
variable (s : State) (l : Nat) (fwdEn dateline : Bool)

/-- A write that disables a link. -/
theorem State.lnkCtl_disable (retrain : Bool) : s.lnkCtl l false fwdEn dateline retrain = if (s.link l).state = 0 then
    s.modLink l (fun x => x.written false fwdEn dateline)
    else (s.modLink l (fun x => x.written false fwdEn dateline)).takeDown l 0 0 false := by
  cases retrain <;> rfl

/-- A write that enables a link, which is not DISABLED, and trains it where it may train. -/
theorem State.lnkCtl_enabled (h0 : (s.link l).state ≠ 0) (retrain : Bool) : s.lnkCtl l true fwdEn dateline retrain =
    if retrain && (s.modLink l (fun x => x.written true fwdEn dateline)).mayTrain l then
      (s.modLink l (fun x => x.written true fwdEn dateline)).startTraining l
    else s.modLink l (fun x => x.written true fwdEn dateline) := by
  have hd : decide ((s.link l).state ≠ lnkDisabled) = true := decide_eq_true h0
  unfold State.lnkCtl
  extract_lets st0 t v
  have hv : v = t := (if_neg (by decide)).trans (if_neg (show ¬ st0 = lnkDisabled from h0))
  rw [hv]
  show (if (retrain && true && decide (st0 ≠ lnkDisabled) && t.mayTrain l) = true then _ else _) = _
  rw [hd, Bool.and_true, Bool.and_true]
  rfl

/-- A write that enables a link that is DISABLED. -/
theorem State.lnkCtl_enables (h0 : (s.link l).state = 0) (retrain : Bool) : s.lnkCtl l true fwdEn dateline retrain =
    if (s.modLink l (fun x => x.written true fwdEn dateline)).mayTrain l then
      (s.modLink l (fun x => x.written true fwdEn dateline)).startTraining l
    else (s.modLink l (fun x => x.written true fwdEn dateline)).modLink l (fun x => { x with state := 7 }) := by
  have hd : decide ((s.link l).state ≠ lnkDisabled) = false := decide_eq_false (not_not.2 h0)
  unfold State.lnkCtl
  extract_lets st0 t v
  show (if (retrain && true && decide (st0 ≠ lnkDisabled) && v.mayTrain l) = true then _ else _) = _
  rw [hd, Bool.and_false, Bool.false_and, if_neg (by decide)]
  exact (if_neg (by decide)).trans (if_pos (show st0 = lnkDisabled from h0))

/-- Whether a link may train that has just been enabled. -/
theorem State.mayTrain_written : (s.modLink l (fun x => x.written true fwdEn dateline)).mayTrain l =
    (!s.linkFenced l && !s.faulted && s.cipherOk l) := by
  unfold State.mayTrain State.cipherOk
  rw [State.link_modLink_self]
  rfl

end

/-- A link that is not ACTIVE is taken down without a message. -/
theorem State.takeDown_quiet {s : State} {l : Nat} (h6 : (s.link l).state ≠ 6) (cause st : Nat) (drop : Bool) :
    LinkOnly s (s.takeDown l cause st drop) l { (s.link l).leave st drop with trainTick := s.now } := by
  unfold State.takeDown
  rw [decide_eq_false (show ¬ (s.link l).state = lnkActive from h6)]
  exact LinkOnly.modLink s l (fun x => { x.leave st drop with trainTick := s.now })

/-- Settles O60: each clause is a case of one row. -/
theorem linkLife : Obligations.LinkLife := by
  unfold Obligations.LinkLife
  intro l s x fenced becomes resent counted
  refine ⟨fun hr hx => ⟨?pong, ?discard, fun h => execIdleFlit_active hr hx h, ?replay, ?limit⟩, fun hr hm => ?train, fun hr h1 h5 => ?timeout,
    fun fwdEn dateline hb => ?control⟩
  case pong => exact fun h time hs ht => ⟨_, execPong_early hr hx time hs ht, LinkOnly.modLink s l.val (fun y => { y.corrected h with nak := true })⟩
  case discard =>
    intro h tagFail uncorrectable fails y
    have e := execFlitDiscard_active hr hx (h := h) (tagFail := tagFail) (uncorrectable := uncorrectable) (fails := fails) rfl
    refine ⟨fun hf => ?_, fun h4 h3 => ?_⟩
    · have hn : ¬ (4 ≤ fails ∧ x.tagFails < 4) := by omega
      rw [if_neg hn] at e
      exact ⟨_, e, LinkOnly.modLink s l.val (fun y => y.discarded h fails uncorrectable)⟩
    · have hp : 4 ≤ fails ∧ x.tagFails < 4 := by omega
      rw [if_pos hp] at e
      exact e
  case replay =>
    intro hu hs v
    have hl : v.link l.val = x := by
      show State.link (if x.nakRx then s else s.passTo (x.ackTick + 500)) l.val = x
      split
      · rfl
      · exact State.passTo_link s _ l.val
    have e := execReplayTimeout_active hr hx hu hs (v := v) rfl
    clear_value v
    rw [State.modLink_const, hl] at e
    exact e
  case limit =>
    intro hs
    have e := execReplayLimit_active hr hx hs
    rw [State.retrainTo, State.modLink_const, show lnkAlign = 3 from rfl, Link.leave_on _ (.inr rfl)] at e
    refine e.trans ?_
    have hp : (x.peerValid && decide (x.state ≠ 6)) = false := by simp [hx, x]
    rw [hp]
  case train =>
    intro encrypts
    have adv (h1 : 1 ≤ x.state) (h5 : x.state ≤ 5) (c : Bool) := execLinkTrainingAdvance_trains hr hm h1 h5 c
    refine ⟨?param, ?cable, ?noCable, ?next, ?own, ?waits, ?active, ?down, ?stays, ?lanes⟩
    case param =>
      intro h module widthCap enc h5
      refine ⟨_, if_pos (by simp [hr, h5, x]), LinkOnly.modLink s l.val (fun x => (x.corrected h).takeParam module widthCap.toNat enc)⟩
    case cable =>
      intro h1
      have e := adv (by omega) (by omega) true
      rw [if_pos h1, if_pos rfl] at e
      have h := (LinkOnly.modLink s l.val (fun y => { y with cable := true })).trans
        (LinkOnly.modLink (s.modLink l.val (fun y => { y with cable := true })) l.val (fun y => { y with state := 2 }))
      rw [State.link_modLink_self] at h
      exact ⟨_, e, h⟩
    case noCable =>
      intro h1
      have e := adv (by omega) (by omega) false
      rw [if_pos h1, if_neg (by decide)] at e
      have h7 : (7 : Nat) ≠ link0.state := by decide
      have h10 : (1 : Nat) ≠ link0.state := by decide
      have hc : ((s.modLink l.val (fun y => { y with cable := false })).link l.val).state ≠ 6 := by
        rw [State.link_modLink_self]
        show x.state ≠ 6
        omega
      rw [State.trainFails_off hc, State.link_modLink_self, State.modLink_modLink] at e
      · exact e
      · intro h
        have hs := congrArg Link.state h
        exact h10 (h1.symm.trans hs)
      · exact fun h => h7 (congrArg Link.state h)
    case next =>
      intro h2 h4 c
      have e := adv (by omega) (by omega) c
      have n1 : x.state ≠ 1 := by omega
      have n4 : x.state ≠ 4 := by omega
      rw [if_neg n1, if_neg n4, if_pos h4] at e
      exact ⟨_, e, LinkOnly.modLink s l.val (fun y => { y with state := y.state + 1 })⟩
    case own =>
      intro h4 c
      have e := adv (by omega) (by omega) c
      have n1 : x.state ≠ 1 := by omega
      rw [if_neg n1, if_pos h4] at e
      exact ⟨_, e, LinkOnly.modLink s l.val (fun y => { y with state := 5, paramTx := s.ownParam l.val })⟩
    case waits =>
      intro h5 hp c
      have e := adv (by omega) (by omega) c
      have n1 : x.state ≠ 1 := by omega
      have n4 : x.state ≠ 4 := by omega
      have n5 : ¬ x.state < 4 := by omega
      rw [if_neg n1, if_neg n4, if_neg n5, if_neg (by rw [hp]; decide)] at e
      exact e
    case active =>
      intro h5 hp c
      have e := adv (by omega) (by omega) c
      have n1 : x.state ≠ 1 := by omega
      have n4 : x.state ≠ 4 := by omega
      have n5 : ¬ x.state < 4 := by omega
      rw [if_neg n1, if_neg n4, if_neg n5, if_pos hp] at e
      have hv : (if x.unacked.isEmpty then x else x.replay s.now) = { resent with
          nakRx := if x.unacked = [] then x.nakRx else false,
          ackTick := if x.unacked = [] then x.ackTick else s.now,
          replays := if x.unacked = [] then x.replays else counted } := by
        by_cases hu : x.unacked = []
        · rw [if_pos (by rw [hu]; rfl), if_pos hu, if_pos hu, if_pos hu]
          simp only [resent, hu, List.foldl_nil, List.map_nil]
          rw [← hu]
        · rw [if_neg (by simp [hu]), if_neg hu, if_neg hu, if_neg hu]
          rfl
      rw [State.activate, State.modLink_const] at e
      dsimp only at e
      rw [hv] at e
      exact e
    case down =>
      intro h7 w hw v
      have e := execLinkTrainingTimeout_down hr hm h7
      rw [if_pos (by rw [hw]; rfl)] at e
      refine ⟨_, e, ?_⟩
      have h := State.startTraining_only v l.val
      have hl : v.link l.val = x := State.passTo_link s _ l.val
      have hf : v.fencedLanes l.val = fenced := by
        rw [State.fencedLanes, State.passTo_flt]
        rfl
      rw [hl, hf, Link.started, Link.leave_valid (show x.state ≠ 6 by omega), hw] at h
      exact h
    case stays =>
      intro h7 hw
      have e := execLinkTrainingTimeout_down hr hm h7
      rw [hw] at e
      exact e
    case lanes =>
      intro lanes h0 h1 h6 failed y
      have e := execLaneFailure_fails hr hm h0 h1 h6
      have live : (decide (1 ≤ (s.link l.val).state) && decide ((s.link l.val).state ≤ lnkActive)) = true := by
        rw [decide_eq_true h1, decide_eq_true (show (s.link l.val).state ≤ lnkActive from h6)]
        rfl
      refine ⟨fun w hw => ?_, fun hw => ?_⟩
      · have hl : s.loseLanes l.val lanes = (true, (y.sendNeighbour l.val 0xF 3 (leBytes 1 (max w x.width) ++
            leBytes 1 (~~~failed).toNat)).retrainTo l.val (max w x.width)) := by
          unfold State.loseLanes
          dsimp only
          rw [live, show widestWidth ((s.link l.val).failed ||| lanes) = some w from hw]
          rfl
        rw [hl] at e
        exact e
      · have hl : s.loseLanes l.val lanes = (false, y.takeDown l.val 2 7 false) := by
          unfold State.loseLanes
          dsimp only
          rw [live, show widestWidth ((s.link l.val).failed ||| lanes) = none from hw]
          rfl
        rw [hl] at e
        exact e
  case timeout =>
    intro v
    have hx : (v.link l.val) = x := State.passTo_link s _ l.val
    have h6 : (v.link l.val).state ≠ 6 := by rw [hx]; omega
    have e := execLinkTrainingTimeout_trains hr h1 h5
    rw [State.trainFails_off h6, hx] at e
    exact e
  case control =>
    intro goes y trained
    have written (b : Bool) : LinkOnly s (s.modLink l.val (fun z => z.written b fwdEn dateline)) l.val { y with enable := b } :=
      LinkOnly.modLink s l.val (fun z => z.written b fwdEn dateline)
    have hen : exec (.linkEnable l fwdEn dateline) s = .next (s.lnkCtl l.val true fwdEn dateline false).carryOn :=
      congrArg Host.Outcome.next (if_pos hb)
    have hdis : exec (.linkDisable l fwdEn dateline) s = .next (s.lnkCtl l.val false fwdEn dateline false).carryOn :=
      congrArg Host.Outcome.next (if_pos hb)
    have hre : exec (.linkRetrain l) s = .next (s.lnkCtl l.val x.enable x.fwdEn x.dateline true).carryOn :=
      congrArg Host.Outcome.next (if_pos hb)
    have kept : LinkOnly s (s.modLink l.val (fun z => z.written x.enable x.fwdEn x.dateline)) l.val x :=
      LinkOnly.modLink s l.val (fun z => z.written x.enable x.fwdEn x.dateline)
    refine ⟨fun h0 => ?_, fun h0 hf hs hc => ?_, fun h0 hf => ?_, fun h0 => ?_, fun h0 h6 => ?_, fun h6 => ?_, fun h0 hm => ?_,
      fun h0 he hm => ?_, fun ⟨h0, he⟩ => ?_, fun he => ?_⟩
    · rw [State.lnkCtl_enabled s l.val fwdEn dateline h0, Bool.false_and, if_neg (by decide)] at hen
      exact ⟨_, hen, written true⟩
    · have hm : (!s.linkFenced l.val && !s.faulted && s.cipherOk l.val) = true := by
        simp [hf, hc, State.faulted, hs]
      rw [State.lnkCtl_enables s l.val fwdEn dateline h0, State.mayTrain_written, if_pos hm] at hen
      have h := (written true).trans (State.startTraining_only _ l.val)
      rw [State.link_modLink_self] at h
      exact ⟨_, hen, h⟩
    · have hm : ¬ (!s.linkFenced l.val && !s.faulted && s.cipherOk l.val) = true := by
        rcases hf with hf | hf | hf <;> simp [hf, State.faulted]
      rw [State.lnkCtl_enables s l.val fwdEn dateline h0, State.mayTrain_written, if_neg hm] at hen
      have h := (written true).trans (LinkOnly.modLink (s.modLink l.val (fun z => z.written true fwdEn dateline)) l.val (fun z => { z with state := 7 }))
      rw [State.link_modLink_self] at h
      exact ⟨_, hen, h⟩
    · rw [State.lnkCtl_disable, if_pos h0] at hdis
      exact ⟨_, hdis, written false⟩
    · rw [State.lnkCtl_disable, if_neg h0] at hdis
      have hw6 : ((s.modLink l.val (fun z => z.written false fwdEn dateline)).link l.val).state ≠ 6 := by
        rw [State.link_modLink_self]
        exact h6
      have h := (written false).trans (State.takeDown_quiet hw6 0 0 false)
      rw [Link.leave_off_quiet (.inr rfl) hw6, State.link_modLink_self] at h
      exact ⟨_, hdis, h⟩
    · have h0 : ¬ x.state = 0 := by omega
      rw [State.lnkCtl_disable, if_neg h0] at hdis
      exact hdis
    · have he : x.enable = true := by
        simp only [State.mayTrain, Bool.and_eq_true] at hm
        exact hm.1.1.1
      have hw : (s.modLink l.val (fun z => z.written true x.fwdEn x.dateline)).mayTrain l.val = s.mayTrain l.val := by
        rw [State.mayTrain_written, State.mayTrain, show (s.link l.val).enable = true from he, Bool.true_and]
      rw [he] at hre kept
      rw [State.lnkCtl_enabled s l.val x.fwdEn x.dateline h0, hw, hm, Bool.and_true, if_pos rfl] at hre
      have h := kept.trans (State.startTraining_only _ l.val)
      rw [kept.here] at h
      exact ⟨_, hre, h⟩
    · have hw : (s.modLink l.val (fun z => z.written true x.fwdEn x.dateline)).mayTrain l.val = s.mayTrain l.val := by
        rw [State.mayTrain_written, State.mayTrain, show (s.link l.val).enable = true from he, Bool.true_and]
      rw [he] at hre kept
      rw [State.lnkCtl_enabled s l.val x.fwdEn x.dateline h0, hw, hm, Bool.and_false, if_neg (by decide)] at hre
      exact ⟨_, hre, kept⟩
    · rw [hre, he, State.lnkCtl_enables s l.val x.fwdEn x.dateline h0]
      refine Eq.symm (congrArg Host.Outcome.next ((if_pos hb).trans ?_))
      rw [State.lnkCtl_enables s l.val x.fwdEn x.dateline h0]
    · rw [hre, he, State.lnkCtl_disable]
      refine Eq.symm (congrArg Host.Outcome.next ((if_pos hb).trans ?_))
      rw [State.lnkCtl_disable]

end Sys2Proof.Machine
end

section
/-! PROOFS. Messages on the links.
-/

namespace Sys2Proof.Machine

/-! ### Accepting a flit (R249, R250) -/

/-- A link whose fields that a header does not tell are those of `x`. -/
structure Link.HeaderOnly (x y : Link) : Prop where
  state : y.state = x.state
  width : y.width = x.width
  txEnc : y.txEnc = x.txEnc
  rxEnc : y.rxEnc = x.rxEnc
  dateline : y.dateline = x.dateline
  fwdEn : y.fwdEn = x.fwdEn
  fecCorr : y.fecCorr = x.fecCorr

theorem Link.HeaderOnly.trans {x y z : Link} (h : x.HeaderOnly y) (k : y.HeaderOnly z) : x.HeaderOnly z :=
  ⟨k.state.trans h.state, k.width.trans h.width, k.txEnc.trans h.txEnc, k.rxEnc.trans h.rxEnc, k.dateline.trans h.dateline,
    k.fwdEn.trans h.fwdEn, k.fecCorr.trans h.fecCorr⟩

theorem Link.switchRx_takes (x : Link) : x.HeaderOnly x.switchRx ∧ x.switchRx.rxNext = x.rxNext ∧ x.switchRx.credits = x.credits ∧
    x.switchRx.owed = x.owed ∧ x.switchRx.unacked = x.unacked := by
  unfold Link.switchRx
  split
  · split
    · exact ⟨⟨rfl, rfl, rfl, rfl, rfl, rfl, rfl⟩, rfl, rfl, rfl, rfl⟩
    · exact ⟨⟨rfl, rfl, rfl, rfl, rfl, rfl, rfl⟩, rfl, rfl, rfl, rfl⟩
  · exact ⟨⟨rfl, rfl, rfl, rfl, rfl, rfl, rfl⟩, rfl, rfl, rfl, rfl⟩

theorem Link.acked_takes (x : Link) (ack : BitVec 8) (now : Nat) : x.HeaderOnly (x.acked ack now) ∧ (x.acked ack now).rxNext = x.rxNext ∧
    (x.acked ack now).credits = x.credits ∧ (x.acked ack now).owed = x.owed := by
  unfold Link.acked
  split
  · exact ⟨⟨rfl, rfl, rfl, rfl, rfl, rfl, rfl⟩, rfl, rfl, rfl⟩
  · exact ⟨⟨rfl, rfl, rfl, rfl, rfl, rfl, rfl⟩, rfl, rfl, rfl⟩

/-- What a header acknowledges has been sent. -/
theorem Link.acked_unacked {x : Link} {ack : BitVec 8} {before after : List TxFlit} {f : TxFlit} (now : Nat)
    (hu : x.unacked = before ++ f :: after) (hf : f.hdr.seq = ack) (hb : ∀ g, g ∈ before → g.hdr.seq ≠ ack) :
    (x.acked ack now).unacked = after := by
  have hi : x.unacked.findIdx? (fun f => decide (f.hdr.seq = ack)) = some before.length := by
    rw [hu, List.findIdx?_append, List.findIdx?_eq_none_iff.2 (fun g hg => decide_eq_false (hb g hg))]
    simp [List.findIdx?_cons, hf]
  unfold Link.acked
  rw [hi]
  show x.unacked.drop (before.length + 1) = after
  rw [hu, List.drop_append]
  simp

/-- A header that acknowledges nothing new. -/
theorem Link.acked_none {x : Link} {ack : BitVec 8} (now : Nat) (h : ∀ f, f ∈ x.unacked → f.hdr.seq ≠ ack) : x.acked ack now = x := by
  have hi : x.unacked.findIdx? (fun f => decide (f.hdr.seq = ack)) = none :=
    List.findIdx?_eq_none_iff.2 (fun g hg => decide_eq_false (h g hg))
  unfold Link.acked
  rw [hi]

/-- A link that has accepted a flit. -/
theorem Link.accept_takes (x : Link) (h : FlitHdr) (now : Nat) : x.HeaderOnly (x.accept h now) ∧ (x.accept h now).rxNext = x.rxNext + 1 ∧
    (x.accept h now).nak = false ∧ (x.accept h now).unacked = (x.acked h.ack now).unacked ∧
    (∀ v, Store.get 0 v (x.accept h now).credits = Store.get 0 v x.credits + if v = h.crVc.toNat then h.crCount.toNat else 0) ∧
    ∀ v, Store.get 0 v (x.accept h now).owed = Store.get 0 v x.owed + if v = h.vc.toNat then 1 else 0 := by
  obtain ⟨ha, an, ac, ao⟩ := x.acked_takes h.ack now
  obtain ⟨hs, sn, sc, so, su⟩ := (x.takeHdr h now).switchRx_takes
  have ht : (x.acked h.ack now).HeaderOnly (x.takeHdr h now) := ⟨rfl, rfl, rfl, rfl, rfl, rfl, rfl⟩
  have he : (x.takeHdr h now).switchRx.HeaderOnly (x.accept h now) := ⟨rfl, rfl, rfl, rfl, rfl, rfl, rfl⟩
  refine ⟨((ha.trans ht).trans hs).trans he, congrArg (· + 1) (sn.trans an), rfl, su, fun v => ?_, fun v => ?_⟩
  · show Store.get 0 v (x.takeHdr h now).switchRx.credits = _
    rw [sc]
    show Store.get 0 v (Store.put 0 h.crVc.toNat (Store.get 0 h.crVc.toNat (x.acked h.ack now).credits + h.crCount.toNat)
      (x.acked h.ack now).credits) = _
    rw [ac, Store.get_put]
    by_cases hv : v = h.crVc.toNat
    · rw [if_pos hv, if_pos hv, hv]
    · rw [if_neg hv, if_neg hv, Nat.add_zero]
  · show Store.get 0 v (Store.put 0 h.vc.toNat (Store.get 0 h.vc.toNat (x.takeHdr h now).switchRx.owed + 1) (x.takeHdr h now).switchRx.owed) = _
    rw [so, show (x.takeHdr h now).owed = x.owed from ao, Store.get_put]
    by_cases hv : v = h.vc.toNat
    · rw [if_pos hv, if_pos hv, hv]
    · rw [if_neg hv, if_neg hv, Nat.add_zero]

/-! ### What arrives (R247, R253) -/

/-- A flit that goes on, as it leaves after it has come in on link `x`. -/
def Link.forwarded (x : Link) (h : FlitHdr) (kind aux : Nat) (payload : List Byte) : TxFlit :=
  { hdr := { h with ttl := h.ttl - 1, vc := x.vcAfter h.vc, nak := false, crVc := 0, crCount := 0, fec := 0 },
    kind := kind, aux := aux, payload := payload, resent := 0, since := 0, passed := 0, body := [], own := false }

section
variable {s : State} {l : Nat} {h : FlitHdr} {kind aux : Nat} {payload : List Byte} {f : State → State}

/-- A flit for this module has the effect of its message. -/
theorem Arriving.mine (ha : Arriving s l h) (hm : s.mine h = true) : s.receive l h kind aux payload f =
    ((f (s.modLink l (fun y => (y.corrected h).accept h s.now))).pumpLink l).carryOn := by
  rw [ha.receive, if_pos hm]

/-- A message whose way is open. -/
theorem Arriving.message (ha : Arriving s l h) (hm : s.mine h = true) {stops : List Nat}
    (hs : ∀ q, q ∈ stops → s.wayHeld (linkRouter l) q = false) : s.message l h stops kind payload f =
    ((f (s.modLink l (fun y => (y.corrected h).accept h s.now))).pumpLink l).carryOn := by
  have hw : stops.any (s.wayHeld (linkRouter l)) = false := by
    rw [List.any_eq_false]
    intro q hq
    rw [hs q hq]
    exact Bool.false_ne_true
  unfold State.message
  rw [hw, Bool.and_false, if_neg (by decide), ha.mine hm]

/-- A request to memory that need not wait. -/
theorem Arriving.request (ha : Arriving s l h) (hm : s.mine h = true) {a n : Nat} (hf : s.accessHeld l h a n = false) :
    s.request l h a n kind payload f = ((f (s.modLink l (fun y => (y.corrected h).accept h s.now))).pumpLink l).carryOn := by
  unfold State.request
  rw [hf, if_neg (by decide), ha.mine hm]

end

/-! ### The messages that reach memory (R238, R248) -/

section
variable (t : State) (h : FlitHdr) (tag : Nat)

/-- An ATADD that cannot be performed. -/
theorem State.linkAtadd_bad {a : Nat} {wide : Bool} (value : BitVec 64) (hb : a % (if wide then 8 else 4) ≠ 0 ∨
    (t.firstBad false a (if wide then 8 else 4)).isSome = true) : t.linkAtadd h a wide tag value =
    (t.noteRequest false a (if wide then 8 else 4)).sendCompletion h tag 1 0 [] := by
  have e : (decide (a % atomicWidth wide ≠ 0) || (t.firstBad false a (atomicWidth wide)).isSome) = true := by
    rcases hb with hb | hb
    · rw [show decide (a % atomicWidth wide ≠ 0) = true from decide_eq_true hb, Bool.true_or]
    · rw [show (t.firstBad false a (atomicWidth wide)).isSome = true from hb, Bool.or_true]
  exact if_pos e

/-- An ATADD at its owner: the sum that stops at the limits. -/
theorem State.linkAtadd_good {a w : Nat} {wide : Bool} (value : BitVec 64) (hw : w = if wide then 8 else 4) (ha : a % w = 0)
    (hb : t.firstBad false a w = none) {sum low high : Int} (hs : sum = signedOf (8 * w) (t.readNat a w) + signedOf (8 * w) value.toNat)
    (hl : low = -(2 ^ (8 * w - 1) : Nat)) (hh : high = (2 ^ (8 * w - 1) : Nat) - 1) : t.linkAtadd h a wide tag value =
    (t.writeNat a w (unsignedOf (8 * w) (max low (min high sum)) % 2 ^ (8 * w))).sendCompletion h tag
      (if sum < low ∨ high < sum then 2 else 0) 0 [] := by
  have hw' : atomicWidth wide = w := hw.symm
  have e : (decide (a % w ≠ 0) || (t.firstBad false a w).isSome) = false := by
    rw [hb, decide_eq_false (not_not.2 ha)]
    rfl
  have hlo : mantLo (8 * w) = low := hl.symm
  have hhi : mantHi (8 * w) = high := hh.symm
  have hsat : (!mantFits (8 * w) sum) = decide (sum < low ∨ high < sum) := by
    rw [mantFits, hlo, hhi, Bool.eq_iff_iff]
    simp only [Bool.not_eq_true', Bool.and_eq_false_iff, decide_eq_false_iff_not, decide_eq_true_eq, Int.not_le]
  unfold State.linkAtadd
  rw [hw']
  dsimp only
  rw [e, if_neg (by decide), State.atomicAt, hb, satSum, ← hs]
  dsimp only
  rw [hsat, mantClamp, hlo, hhi]
  simp only [decide_eq_true_eq]

/-- The increments of a message for span `n`, where a run holds it. -/
def State.incsFor (ef : BitVec 16) (entries : List FieldIncEntry) (n : Nat) : List (Nat × Dy) :=
  (entries.filter (fun e => e.span.toNat = n && (t.span n).bound.isSome && !t.spanFenced n)).map
    (fun (e : FieldIncEntry) => (e.slot.toNat, Dy.mk e.inc.toInt (ef.toInt - 16)))

/-- The increments of a message wait in their spans. -/
theorem State.linkIncs_takes (ef : BitVec 16) (entries : List FieldIncEntry) : { t.linkIncs ef entries with spans := t.spans } = t ∧
    ∀ n, (t.linkIncs ef entries).span n =
      { t.span n with eng := { t.eng n with incs := (t.eng n).incs ++ t.incsFor ef entries n } } := by
  unfold State.linkIncs
  induction entries generalizing t with
  | nil => exact ⟨rfl, fun n => by simp [State.eng, State.incsFor]⟩
  | cons e rest ih =>
    rw [List.foldl_cons]
    by_cases hc : ((t.span e.span.toNat).bound.isSome && !t.spanFenced e.span.toNat) = true
    · have hstep : (if ((t.span e.span.toNat).bound.isSome && !t.spanFenced e.span.toNat) = true then
          t.modEng e.span.toNat (fun g => { g with incs := g.incs ++ [(e.slot.toNat, Dy.mk e.inc.toInt (ef.toInt - 16))] }) else t) =
          t.modEng e.span.toNat (fun g => { g with incs := g.incs ++ [(e.slot.toNat, Dy.mk e.inc.toInt (ef.toInt - 16))] }) := if_pos hc
      dsimp only
      rw [hstep]
      generalize hv : t.modEng e.span.toNat (fun g => { g with incs := g.incs ++ [(e.slot.toNat, Dy.mk e.inc.toInt (ef.toInt - 16))] }) = v
      have vr : { v with spans := t.spans } = t := by rw [← hv]; rfl
      have vf (n : Nat) : v.spanFenced n = t.spanFenced n := by rw [← hv]; rfl
      have vs (n : Nat) : v.span n = { t.span n with eng := { t.eng n with incs := (t.eng n).incs ++
          if n = e.span.toNat then [(e.slot.toNat, Dy.mk e.inc.toInt (ef.toInt - 16))] else [] } } := by
        rw [← hv]
        by_cases hn : n = e.span.toNat
        · rw [hn, State.span_modEng_self, if_pos rfl]
        · rw [State.span_modEng_ne t _ hn, if_neg hn, List.append_nil]
          rfl
      clear hv
      obtain ⟨hr, hs⟩ := ih v
      refine ⟨?_, fun n => ?_⟩
      · have e := congrArg (fun (w : State) => { w with spans := t.spans }) hr
        exact Eq.trans e vr
      · have hb : (v.span n).bound = (t.span n).bound := by rw [vs n]
        have hi : v.incsFor ef rest n = t.incsFor ef rest n := by rw [State.incsFor, State.incsFor, hb, vf n]
        have hl : (if n = e.span.toNat then [(e.slot.toNat, Dy.mk e.inc.toInt (ef.toInt - 16))] else []) ++ t.incsFor ef rest n =
            t.incsFor ef (e :: rest) n := by
          by_cases hn : n = e.span.toNat
          · have hf : (decide (e.span.toNat = n) && (t.span n).bound.isSome && !t.spanFenced n) = true := by
              rw [hn]
              simpa using hc
            rw [if_pos hn, State.incsFor, State.incsFor, List.filter_cons, hf, if_pos rfl]
            rfl
          · have hf : (decide (e.span.toNat = n) && (t.span n).bound.isSome && !t.spanFenced n) = false := by
              rw [decide_eq_false (fun h => hn h.symm)]
              rfl
            rw [if_neg hn, State.incsFor, State.incsFor, List.filter_cons, hf]
            rfl
        have hve : v.eng n = { t.eng n with incs := (t.eng n).incs ++
            if n = e.span.toNat then [(e.slot.toNat, Dy.mk e.inc.toInt (ef.toInt - 16))] else [] } := congrArg Span.eng (vs n)
        rw [hs n, hi, hve, vs n]
        dsimp only
        rw [List.append_assoc, hl]
    · dsimp only
      rw [if_neg hc]
      obtain ⟨hr, hs⟩ := ih t
      refine ⟨hr, fun n => (hs n).trans ?_⟩
      have hf : (decide (e.span.toNat = n) && (t.span n).bound.isSome && !t.spanFenced n) = false := by
        by_cases hn : e.span.toNat = n
        · subst hn
          simpa using hc
        · simp [hn]
      rw [State.incsFor, State.incsFor, List.filter_cons, hf]
      rfl

end

/-! ### The obligation -/

/-- Settles O59: each clause is the effect of one row's message. -/
theorem linkMessages : Obligations.LinkMessages := by
  unfold Obligations.LinkMessages
  intro l h s ha x a gets run src reply way free
  have al : a.link l.val = (x.corrected h).accept h s.now := State.link_modLink_self s l.val _
  have ao (k : Nat) (hk : k ≠ l.val) : a.link k = s.link k := State.link_modLink_ne s _ hk
  obtain ⟨hk, hn, hnak, hu, hc, ho⟩ := (x.corrected h).accept_takes h s.now
  refine ⟨?accepts, ?forward, ?badKind, fun hm => ?mine⟩
  case accepts =>
    rw [al]
    refine ⟨hn.trans (congrArg (· + 1) ha.next.symm), hk.fecCorr, hnak, hc, ho, fun before f after hb hf hg => ?_, fun hn => ?_⟩
    · rw [hu]
      exact Link.acked_unacked s.now hb hf hg
    · rw [hu, Link.acked_none (x := x.corrected h) s.now hn]
      rfl
  case forward =>
    intro kind aux payload hm i e
    have hx : exec i s = .next (((a.forwardFlit l.val h kind.toNat aux.toNat payload).pumpLink l.val).carryOn) := by
      refine congrArg Host.Outcome.next ((if_neg (by rw [hm]; decide)).trans ?_)
      rw [ha.receive, if_neg (by rw [hm]; decide)]
    have takes : (a.link e).takes payload.length = (s.link e).takes payload.length := by
      by_cases he : e = l.val
      · rw [he, al, Link.takes, hk.state, hk.txEnc]
        rfl
      · rw [ao e he]
    have onward (h1 : 1 < h.ttl.toNat) : a.forwardFlit l.val h kind.toNat aux.toNat payload =
        a.routeFlit (x.forwarded h kind.toNat aux.toNat payload) := by
      have hd : (a.link l.val).vcAfter h.vc = x.vcAfter h.vc := by
        rw [Link.vcAfter, al, hk.dateline]
        rfl
      rw [State.forwardFlit, if_neg (Nat.not_le.2 h1), hd]
      rfl
    refine ⟨fun h1 => ?_, fun h1 ht => ?_, fun h1 ht => ?_⟩
    · rw [State.forwardFlit, if_pos h1, State.dropFlit, lnkBlock_val] at hx
      exact hx
    · have hr : a.routeFlit (x.forwarded h kind.toNat aux.toNat payload) = a.queueFlit e (x.forwarded h kind.toNat aux.toNat payload) :=
        if_pos (takes.trans ht)
      rw [onward h1, hr] at hx
      exact hx
    · have hr : a.routeFlit (x.forwarded h kind.toNat aux.toNat payload) = a.dropFlit e :=
        if_neg (fun hc => Bool.false_ne_true ((takes.trans ht).symm.trans hc))
      rw [onward h1, hr] at hx
      exact hx
  case badKind =>
    have hm : s.mine { h with dst := 0xFFF } = true := by simp [State.mine]
    have hb : Arriving s l.val { h with dst := 0xFFF } := ⟨ha.running, ha.active, ha.next, by rw [State.transitHeld, hm]; rfl⟩
    exact congrArg Host.Outcome.next (hb.mine hm)
  case mine =>
    have got {i : Instr} {kind aux : Nat} {payload : List Byte} {f : State → State}
        (hi : exec i s = .next (s.receive l.val h kind aux payload f)) : gets i (f a) := by
      rw [ha.mine hm] at hi
      exact hi
    have told {i : Instr} {stops : List Nat} {kind : Nat} {payload : List Byte} {f : State → State}
        (hi : exec i s = .next (s.message l.val h stops kind payload f)) (hs : ∀ q, q ∈ stops → way q) : gets i (f a) := by
      rw [ha.message hm hs] at hi
      exact hi
    have asked {i : Instr} {o n kind : Nat} {payload : List Byte} {f : State → State}
        (hi : exec i s = .next (s.request l.val h o n kind payload f)) (hf : free o n) : gets i (f a) := by
      rw [ha.request hm hf] at hi
      exact hi
    have arest : { a with links := s.links } = s := rfl
    clear_value a
    refine ⟨fun b => got (f := fun t => t.takeBatch l.val run src b) rfl, ?inc, ?atadd, ?read, ?write,
      fun tag status offset data => got (f := id) rfl, ?event, ?command, ?markers, ?min, ?param, ?switch, ?down,
      fun code lanes => got (f := fun t => t.retrainTo l.val (min 2 code.toNat)) rfl, ?retrain, ?ping, fun time => got (f := id) rfl⟩
    case inc =>
      intro ef entries hw
      have hg := told (i := .fieldInc l h ef entries) (f := fun t => t.linkIncs ef entries) rfl
        (fun q hq => by
          obtain ⟨e, he, rfl⟩ := List.mem_map.1 hq
          exact hw e he)
      obtain ⟨hr, hs⟩ := a.linkIncs_takes ef entries
      have e1 := congrArg State.spans arest
      have e2 := congrArg State.flt arest
      have hb (n : Nat) : a.span n = s.span n := congrArg (fun m => Store.get span0 n m) e1
      have hf (n : Nat) : a.spanFenced n = s.spanFenced n := congrArg (fun m => m.spans.getLsbD n) e2
      refine ⟨_, hg, hr, fun n => (hs n).trans ?_⟩
      rw [State.incsFor, hb n, hf n]
    case atadd =>
      intro addr wide tag value w hf bad sum low high
      have hg := asked (i := .linkAtadd l h addr wide tag value) (f := fun t => t.linkAtadd h addr.toNat wide tag.toNat value) rfl hf
      refine ⟨fun hb => ?_, fun ha hb => ?_⟩
      · rw [State.linkAtadd_bad a h tag.toNat value hb] at hg
        exact hg
      · rw [State.linkAtadd_good a h tag.toNat value (w := w) rfl ha hb rfl rfl rfl] at hg
        exact hg
    case read =>
      intro addr length tag n hf max_
      have hd : a.dataMax = max_ := by
        have e := congrArg State.linkSys arest
        have e' : a.linkSys = s.linkSys := e
        rw [State.dataMax, e']
      have hg := asked (i := .dmaRd l h addr length tag) (f := fun t => t.linkRead h addr.toNat length.toNat tag.toNat) rfl hf
      rw [State.linkRead, hd] at hg
      exact hg
    case write =>
      intro addr tag answer data hf t
      exact asked (i := .dmaWr l h addr tag answer data) (f := fun t => t.linkWrite h addr.toNat tag.toNat answer data) rfl hf
    case event =>
      exact fun hw e add error value => told (f := fun t => t.eventOp e.toNat add value error false) rfl
        (fun q hq => by rw [List.mem_singleton.1 hq]; exact hw)
    case command =>
      intro hw c tag packet y takes full
      have hg := told (i := .fwdCmd l h c tag packet) (f := fun t => t.linkCommand l.val h c.val tag.toNat packet) rfl
        (fun q hq => by rw [List.mem_singleton.1 hq]; exact hw)
      have hy : a.ctx c.val = y := by
        have e := congrArg State.ctxs arest
        exact congrArg (fun m => Store.get ctx0 c.val m) e
      have hf : (a.link l.val).fwdEn = x.fwdEn := by rw [al, hk.fwdEn]; rfl
      have ht : (!x.fwdEn || !(decide (y.state = .active) || decide (y.state = .stopped))) = true ↔ ¬ takes := by
        cases hx : x.fwdEn <;> simp [takes, hx]
      have hl : a.linkCommand l.val h c.val tag.toNat packet =
          if (!x.fwdEn || !(decide (y.state = .active) || decide (y.state = .stopped))) = true then reply a tag 3 0 []
          else if full then reply a tag 4 0 []
          else reply ((a.writeBytes (y.slotAddr y.tail.toNat) (bytesAt packet 0 64)).doorbell c.val (y.tail + 1)) tag 0 0 [] := by
        unfold State.linkCommand
        rw [hy, hf]
      rw [hl] at hg
      refine ⟨fun hn => ?_, fun hp hfull => ?_, fun hp hn => ?_⟩
      · rw [if_pos (ht.2 hn)] at hg
        exact hg
      · rw [if_neg (fun h => ht.1 h hp), if_pos hfull] at hg
        exact hg
      · rw [if_neg (fun h => ht.1 h hp), if_neg hn] at hg
        exact hg
    case markers =>
      intro m
      have mark (k : Nat) {i : Instr} (hi : exec i s = .next (s.marker l.val h k m)) : gets i (a.takeMarker run src k m) :=
        got (f := fun t => t.takeMarker run src k m) hi
      exact ⟨mark 0 rfl, mark 1 rfl, mark 2 rfl, mark 3 rfl, mark 4 rfl, mark 5 rfl, mark 6 rfl, mark 7 rfl⟩
    case min =>
      intro addr least tag entry o hf bad
      have hg := asked (i := .minIndex l h addr least tag entry) (f := fun t => t.linkMinIndex h addr.toNat least tag.toNat entry) rfl hf
      refine ⟨fun hb => ?_, fun hb he => ?_, fun hb he => ?_⟩
      · have e : a.linkMinIndex h addr.toNat least tag.toNat entry = reply (a.noteRequest false o 16) tag 1 0 [] := if_pos hb
        rw [e] at hg
        exact hg
      · have n1 : ¬ (a.firstBad false addr.toNat 16).isSome = true := by
          rw [show a.firstBad false addr.toNat 16 = none from hb]
          decide
        have e : a.linkMinIndex h addr.toNat least tag.toNat entry = reply a tag 0 0 [] :=
          (if_neg n1).trans (congrArg (fun t => reply t tag 0 0 []) (if_pos he))
        rw [e] at hg
        exact hg
      · have n1 : ¬ (a.firstBad false addr.toNat 16).isSome = true := by
          rw [show a.firstBad false addr.toNat 16 = none from hb]
          decide
        have e : a.linkMinIndex h addr.toNat least tag.toNat entry = reply (a.writeBytes o (redEntryBytes entry)) tag 0 0 [] :=
          (if_neg n1).trans (congrArg (fun t => reply t tag 0 0 []) (if_neg he))
        rw [e] at hg
        exact hg
    case param =>
      intro module widthCap enc
      have e : exec (.param l h module widthCap enc) s = .next (s.receive l.val h 0xF 0 (leBytes 2 module.toNat ++ leBytes 1 widthCap.toNat ++
          leBytes 1 (boolNat enc)) (fun st => st.modLink l.val (fun x => { x with peer := module, peerValid := true }))) := by
        refine if_neg ?_
        rw [ha.active]
        simp [lnkActive]
      exact got (f := fun st => st.modLink l.val (fun x => { x with peer := module, peerValid := true })) e
    case switch =>
      intro slot count
      have hg := got (i := .keySwitch l h slot count) (f := fun st => st.modLink l.val (fun x =>
        if x.rxEnc then { x with rxSwitch := some (slot.val, count.toNat) } else x)) rfl
      have e : (fun x : Link => if x.rxEnc then { x with rxSwitch := some (slot.val, count.toNat) } else x) =
          fun y => { y with rxSwitch := if y.rxEnc then some (slot.val, count.toNat) else y.rxSwitch } := by
        funext y
        split <;> rfl
      rw [e] at hg
      exact hg
    case down =>
      intro cause
      have hg := got (i := .down l h cause) (f := fun st => (st.modLink l.val (fun x =>
        { x.leave lnkDown false with downRx := cause.toNat % 8, trainTick := st.now })).exitLost l.val) rfl
      have h6 : (a.link l.val).state = 6 := by
        rw [al, hk.state]
        exact ha.active
      have hv : ((a.link l.val).peerValid && decide ((a.link l.val).state ≠ 6)) = false := by
        rw [decide_eq_false (not_not.2 h6), Bool.and_false]
      have hn : a.now = s.now := by
        have e := congrArg State.time arest
        exact congrArg Time.ticks e
      rw [State.modLink_const, show lnkDown = 7 from rfl, Link.leave_off _ (.inl rfl), hv, hn] at hg
      exact hg
    case retrain =>
      have hg := got (i := .retrain l h) (f := fun st => st.retrainTo l.val (st.link l.val).width) rfl
      have hw : (a.link l.val).width = x.width := by rw [al, hk.width]; rfl
      rw [hw] at hg
      exact hg
    case ping =>
      intro time
      have hg := got (i := .ping l h time) (f := fun st => st.sendNeighbour l.val 0xF 6 st.stamp) rfl
      have ht : a.stamp = s.stamp := by
        have e := congrArg State.time arest
        exact congrArg (fun t : Time => leBytes 4 t.sub ++ leBytes 4 t.sec) e
      rw [ht] at hg
      exact hg

end Sys2Proof.Machine
end

section
/-! PROOFS. The installation of detour tables.
-/

namespace Sys2Proof.Machine

/-! ### What an installation keeps (R381-R384) -/

/-- `t` has the fault state of `s`, and its mesh but for the flits of VC1 and the drops. -/
structure State.MeshKept (s t : State) : Prop where
  flt : t.flt = s.flt
  mesh : { t.mesh with vc1 := s.mesh.vc1, drops := s.mesh.drops } = s.mesh

section
variable {s t : State}

theorem State.MeshKept.refl (s : State) : s.MeshKept s := ⟨rfl, rfl⟩

/-- A change of spans keeps them. -/
theorem State.MeshKept.spans (h : s.MeshKept t) (x : Store Span) : s.MeshKept { t with spans := x } := ⟨h.flt, h.mesh⟩

theorem State.MeshKept.countDrops (h : s.MeshKept t) (k : Nat) : s.MeshKept (t.countDrops k) := ⟨h.flt, h.mesh⟩

theorem State.MeshKept.vc1 (h : s.MeshKept t) (l : List Vc1Msg) : s.MeshKept { t with mesh := { t.mesh with vc1 := l } } := ⟨h.flt, h.mesh⟩

theorem State.MeshKept.shadowRecs (h : s.MeshKept t) (r : Run) (n : Nat) (due : List DueRec) : s.MeshKept (t.shadowRecs r n due) := by
  unfold State.shadowRecs
  refine foldl_keep (P := s.MeshKept) (fun u q hu => ?_) due t h
  split
  · split
    · exact hu.spans _
    · exact hu
  · exact hu

theorem State.MeshKept.pairOn (r : Run) (n fuel : Nat) : ∀ {t : State}, s.MeshKept t → s.MeshKept (State.pairOn r n fuel t) := by
  induction fuel with
  | zero => exact fun h => h
  | succ fuel ih =>
    intro t h
    unfold State.pairOn
    dsimp only
    split
    · exact h
    · exact ih ((h.spans _).shadowRecs r n _)

theorem State.MeshKept.deliverVc1 (h : s.MeshKept t) (n src : Nat) (b : Vc1Body) : s.MeshKept (t.deliverVc1 n src b) := by
  unfold State.deliverVc1
  split
  · split
    · exact h
    · exact h.countDrops 1
  · split
    · exact h.spans _
    · split
      · exact h
      · split
        · exact h.spans _
        · split
          · exact .pairOn _ n _ (h.spans _)
          · exact h

theorem State.MeshKept.deliverWhere (h : s.MeshKept t) (pick : Vc1Msg → Nat → Bool) : s.MeshKept (t.deliverWhere pick) := by
  unfold State.deliverWhere
  exact foldl_keep (P := s.MeshKept) (fun u m hu => foldl_keep (P := s.MeshKept) (fun v d hv => hv.deliverVc1 d m.src m.body) _ u hu) _ _ (h.vc1 _)

theorem State.MeshKept.answerBranch (h : s.MeshKept t) (n slot target : Nat) (cancelled : Bool) :
    s.MeshKept (t.answerBranch n slot target cancelled) := by
  unfold State.answerBranch
  dsimp only
  split
  · exact h
  · split
    · exact h.spans _
    · exact h.spans _

theorem State.MeshKept.loseRequests (h : s.MeshKept t) (n : Nat) : s.MeshKept (t.loseRequests n).2 := by
  unfold State.loseRequests
  exact foldl_keep (P := s.MeshKept) (fun u b hu => hu.answerBranch n b.1 b.2 true) _ _ (h.spans _)

/-- The requests of every span of a list are lost that crossed a failed router. -/
theorem State.MeshKept.loseAll (l : List Nat) : ∀ {acc : Nat × State}, s.MeshKept acc.2 →
    s.MeshKept (l.foldl (fun (acc : Nat × State) n => (acc.1 + (acc.2.loseRequests n).1, (acc.2.loseRequests n).2)) acc).2 := by
  induction l with
  | nil => exact fun h => h
  | cons n l ih =>
    intro acc h
    rw [List.foldl_cons]
    exact ih (h.loseRequests n)

theorem State.MeshKept.injectFirst (h : s.MeshKept t) (n k : Nat) : s.MeshKept (t.injectFirst n k) := by
  unfold State.injectFirst
  dsimp only
  split
  · exact h
  · exact (h.vc1 _).spans _

theorem State.MeshKept.resend (h : s.MeshKept t) (n : Nat) : s.MeshKept (t.resend n) := by
  unfold State.resend
  split
  · exact h
  · extract_lets g l u
    have hu : s.MeshKept u := h.spans _
    split
    · exact hu.injectFirst n _
    · exact hu

end

/-- What an installation makes of the mesh; the fault state stays. -/
theorem State.install_takes (s : State) (l : List (List Nat)) : (s.install l).mesh.routes = tableOf l ∧ (s.install l).mesh.detour = true ∧
    (s.install l).mesh.installBusy = false ∧ (s.install l).mesh.generation = (s.mesh.generation + 1) % 256 ∧
    (s.install l).mesh.failed = s.mesh.failed ∧ (s.install l).flt = s.flt := by
  unfold State.install
  extract_lets d r v m w
  have hd : s.MeshKept d := (State.MeshKept.refl s).deliverWhere _
  have hr : s.MeshKept r.2 := .loseAll spanIds (hd.vc1 _)
  clear_value r
  have hw : w.MeshKept (spanIds.foldl State.resend w) := foldl_keep (P := w.MeshKept) (fun u n h => h.resend n) _ _ (.refl w)
  have hf : w.flt = s.flt := hr.flt
  have hg : w.mesh.generation = (s.mesh.generation + 1) % 256 := by
    have e := congrArg Mesh.generation hr.mesh
    exact congrArg (fun g => (g + 1) % 256) e
  have hx : w.mesh.failed = s.mesh.failed := by
    have e := congrArg Mesh.failed hr.mesh
    exact e
  have h1 : w.mesh.routes = tableOf l := rfl
  have h2 : w.mesh.detour = true := rfl
  have h3 : w.mesh.installBusy = false := rfl
  generalize spanIds.foldl State.resend w = u at hw
  have er := congrArg Mesh.routes hw.mesh
  have ed := congrArg Mesh.detour hw.mesh
  have eb := congrArg Mesh.installBusy hw.mesh
  have eg := congrArg Mesh.generation hw.mesh
  have ef := congrArg Mesh.failed hw.mesh
  exact ⟨er.trans h1, ed.trans h2, eb.trans h3, eg.trans hg, ef.trans hx, hw.flt.trans hf⟩

/-- Settles O23. -/
theorem detoursAreInstalled : Obligations.DetoursAreInstalled := by
  have wait (built : Bool) {s : State} (hr : s.running = true) (hb : s.mesh.installBusy = true) :
      ¬ (!s.running || !s.mesh.installBusy) = true := by simp [hr, hb]
  refine ⟨fun l s hr hb => ?_, fun l s hr hb => ⟨fun ht => ?_, fun ht => ?_⟩, fun built l s hb => ?_⟩
  · intro tables
    have e : exec (.detourInstall true l) s = goOn (if s.tablesOk tables then (s.install tables).carryOn else s) :=
      (if_neg (wait true hr hb)).trans ((if_neg (by simp)).trans (if_neg (by simp)))
    refine ⟨fun ht => ?_, fun ht => ?_⟩
    · rw [if_pos ht] at e
      exact ⟨_, e, rfl, s.install_takes tables⟩
    · rw [if_neg (by rw [ht]; decide)] at e
      exact e
  · exact (if_neg (wait false hr hb)).trans (if_pos (by rw [ht]; rfl))
  · exact (if_neg (wait false hr hb)).trans ((if_neg (by rw [ht]; decide)).trans (if_pos rfl))
  · exact if_pos (by rw [hb]; simp)

end Sys2Proof.Machine
end

section
/-! PROOFS. COPY.
-/

namespace Sys2Proof.Machine

/-! ### A copy over a CXL window that covers the spans' regions (R279, R321) -/

/-! A part of a copy stops at the end of a span's region, where the read-only range of a span ends (R321). The bytes that COPY names
can be used all the same where a CXL window covers the regions, as it does for a device of enough bytes.
-/

/-- A COPY of 65 bytes, in parts of two, from the last byte of span 0's region. -/
def copyPacket : List Byte :=
  0x05#8 :: List.replicate 15 0#8 ++ leBytes 8 (spanBase + spanSize - 1) ++ leBytes 8 0x1000 ++ leBytes 8 65 ++ List.replicate 24 0#8

/-- The command, which has started. -/
def copyExec : Exec := startExec ⟨0, 0, copyPacket, 1, none, none⟩ 0 0 0 false

/-- Context 0 executes it. The device of CXL port 0 maps so many bytes that the CXL window covers the spans' regions. -/
def copyOverCxl : State :=
  { State.reset with
    boot := { boot0 with ready := true, stage := 12 },
    ctxs := [(0, { ctx0 with state := .active, enable := true, exec := some copyExec })],
    cxls := [(0, { cxlPort0 with present := true, capBytes := 2 ^ 47 })] }

/-- The COPY has started. -/
theorem copyOverCxl_starting : Starting copyOverCxl 0 false 0x05 copyExec where
  running := rfl
  alive := by decide
  cmd := rfl
  front := fun _ => rfl
  opcode := by decide
  phase := rfl
  event := by decide
  fresh := fun _ => by decide

/-- Its operands, and nothing that holds a part of it. -/
theorem copyOverCxl_operands : copyExec.num 0x10 8 = spanBase + spanSize - 1 ∧ copyExec.num 0x18 8 = 0x1000 ∧ copyExec.num 0x20 8 = 65 ∧
    overlaps (spanBase + spanSize - 1) 0x1000 65 = false ∧
    copyOverCxl.partsHeld (some (spanBase + spanSize - 1)) 0x1000 (partsOf 65 (ceilDiv 65 64)) = false ∧
    copyOverCxl.liveSpans ≠ [] := by decide +kernel

/-- Every byte that it reads or writes can be used. -/
theorem copyOverCxl_bytes : ∀ i, i < 65 → (copyOverCxl.cellOf (spanBase + spanSize - 1 + i) = some (spanBase + spanSize - 1 + i) ∧
    copyOverCxl.byteIo false (spanBase + spanSize - 1 + i) = .ok) ∧
    (copyOverCxl.cellOf (0x1000 + i) = some (0x1000 + i) ∧ copyOverCxl.byteIo true (0x1000 + i) = .ok) := by decide +kernel

/-- Its first part stops at the end of span 0's region, and the command ends with PARTIAL. -/
theorem copyOverCxl_takes : (match exec (.copy 0) copyOverCxl with
      | .next u => decide ((u.ctx 0).exec.map (fun y => y.phase) = some (.finished 0x12 1))
      | _ => false) = true := by decide +kernel

/-- Refutes O48: a COPY all of whose bytes can be used ends with PARTIAL where a part of it crosses the end of a span's region under
a CXL window that covers the regions; the clause of COPY says that it ends with OK. -/
theorem not_memoryAndProblemCommands : ¬ Obligations.MemoryAndProblemCommands := by
  unfold Obligations.MemoryAndProblemCommands
  intro h
  obtain ⟨copy, -⟩ := h 0 false copyExec copyOverCxl
  obtain ⟨ha, hw, hn, ho, hp, hl⟩ := copyOverCxl_operands
  dsimp only at copy
  rw [ha, hw, hn] at copy
  obtain ⟨-, ok⟩ := copy copyOverCxl_starting (by decide) (by decide) ho hp
  obtain ⟨u, hu, hc, -⟩ := ok hl copyOverCxl_bytes
  have ht := copyOverCxl_takes
  rw [hu] at ht
  have phase : (u.ctx 0).exec.map (fun y => y.phase) = some (.finished 0 0) := by
    show (Store.get ctx0 0 u.ctxs).exec.map _ = _
    rw [hc]
    decide
  have fails := (of_decide_eq_true ht).symm.trans phase
  exact absurd fails (by decide)

end Sys2Proof.Machine
end

section
/-! PROOFS. The completion of DMA, atomics, EVREC and MCAST.
-/

namespace Sys2Proof.Machine

section
variable {s : State} {n : Fin 16}

/-! ### DMA (R320, R321) -/

/-- A transfer that is held stays in flight. -/
theorem execDmaComplete_held {tag : Fin 32} (events : List MemEvent) (hd : s.dmaHeld n.val ((s.pier n.val).tag tag.val) = true) :
    execDmaComplete n tag events s = .next s :=
  if_pos (by rw [hd]; simp)

/-- A transfer that ends, with what it moves. -/
theorem execDmaComplete_ends {tag : Fin 32} {events : List MemEvent} {k : Nat} (hr : s.running = true)
    (ht : ((s.pier n.val).dmaOf tag.val).isSome = true) (hd : s.dmaHeld n.val ((s.pier n.val).tag tag.val) = false)
    {v : State} (hv : v = s.memEvents events) (hk : (v.pier n.val).dmaOf tag.val = some k) {x : Tag} (hx : x = (v.pier n.val).tag tag.val)
    {t : State} {err : Bool} (hm : v.dmaMove n.val x = (t, err)) :
    execDmaComplete n tag events s = .next (t.modPier n.val (fun p =>
      (p.land k).setTag tag.val { x with busy := false, lost := false, readFail := none, err := x.err || err })).carryOn := by
  have h0 : ¬ (!s.running || s.dmaHeld n.val ((s.pier n.val).tag tag.val) || ((s.pier n.val).dmaOf tag.val).isNone) = true := by
    rw [hr, hd, Option.isNone_eq_false_iff.2 ht]
    decide
  unfold execDmaComplete
  rw [if_neg h0]
  dsimp only
  rw [← hv, hk]
  dsimp only
  rw [← hx, hm]

end

/-! ### A span that has been heard of (R418) -/

/-- It is no longer silent. -/
theorem State.heard_span (s : State) (n m : Nat) : (s.heard n).span m = { s.span m with silent := ((s.heard n).span m).silent } := by
  unfold State.heard
  split
  · by_cases h : m = n
    · rw [h, State.span_modSpan_self]
    · rw [State.span_modSpan_ne s _ h]
  · rfl

/-- What has been heard of a span bears on no address. -/
theorem State.heard_sameMap (s : State) (n : Nat) : s.SameMap (s.heard n) := by
  unfold State.heard
  split
  · exact ⟨rfl, fun _ => rfl, fun _ => rfl, rfl, rfl, rfl⟩
  · exact .refl s

theorem State.heard_mem (s : State) (n : Nat) : (s.heard n).mem = s.mem ∧ (s.heard n).poison = s.poison := by
  unfold State.heard
  split
  · exact ⟨rfl, rfl⟩
  · exact ⟨rfl, rfl⟩

theorem State.heard_poisonedAt (s : State) (n : Nat) : (s.heard n).poisonedAt = s.poisonedAt := by
  have ht := (s.heard_sameMap n).target
  funext a
  have hk : (s.heard n).poisonKey a = s.poisonKey a := by rw [State.poisonKey, State.poisonKey, ht]
  rw [State.poisonedAt, State.poisonedAt, ht, hk, (s.heard_mem n).2]
  split
  · split
    · rw [s.heard_span n]
      rfl
    · rfl
  · rfl

theorem State.heard_spanFenced (s : State) (n m : Nat) : (s.heard n).spanFenced m = s.spanFenced m := by
  unfold State.heard
  split
  · rfl
  · rfl

theorem State.heard_byteIo (s : State) (n : Nat) : (s.heard n).byteIo = s.byteIo := by
  have h := s.heard_sameMap n
  funext write a
  rw [State.byteIo, State.byteIo, h.target, h.fencedAt, h.bme, h.readFail, s.heard_poisonedAt n]

theorem State.heard_firstBad (s : State) (n : Nat) : (s.heard n).firstBad = s.firstBad := by
  funext write a w
  rw [State.firstBad, State.firstBad, s.heard_byteIo n]

/-- What its window shows stays. -/
theorem State.heard_windowByte (s : State) (n m : Nat) : ((s.heard n).span m).windowByte = (s.span m).windowByte := by
  have h := s.heard_span n m
  have he := congrArg Span.eng h
  have hs := congrArg Span.shadow h
  have hp := congrArg Span.snap h
  dsimp only at he hs hp
  funext o
  simp only [Span.windowByte, he, hs, hp]

theorem State.heard_readNat (s : State) (n : Nat) : (s.heard n).readNat = s.readNat := by
  have hraw : (s.heard n).rawByte = s.rawByte := by
    funext a
    rw [State.rawByte, State.rawByte, (s.heard_sameMap n).target, (s.heard_mem n).1]
    simp only [s.heard_windowByte n]
  funext a w
  rw [State.readNat, State.readNat, State.readBytes, State.readBytes, s.heard_byteIo n, hraw]

section
variable {s : State} {n : Fin 16}

/-! ### Instructions in flight (R306-R308) -/

/-- An atomic that may complete for a span that is not fenced, at a word that can be used. -/
theorem execInstructionCompletion_atomic {k : Fin 192} {i : InFlight} (hr : s.running = true) (hf : (s.pier n.val).flight[k.val]? = some i)
    (hm : mayComplete (s.span n.val).runTile (s.pier n.val).flight k.val i = true) (hx : i.aux < 2 ^ 20) (ha : s.atomicHeld n.val i = false)
    (hu : s.spanFenced n.val = false) (ht : isTensorLike i.instr = false) (he : isEvrec i.instr = false) {a w : Nat}
    (hwa : a = i.a.toNat % 2 ^ 48) (hw : (atomicFn i).1 = w) (hb : s.firstBad false a w = none) {old : Nat} (ho : old = s.readNat a w)
    {sat : Bool} (hs : atomicSat i old = sat) {t : State} (hv : t = ((s.heard n.val).writeNat a w ((atomicFn i).2 old % 2 ^ (8 * w))).modPier n.val
      (fun p => match dstReg i.instr with
        | some rd => (p.land k.val).setReg rd (BitVec.ofInt 64 (signedOf (8 * w) old))
        | none => p.land k.val)) :
    execInstructionCompletion n k s = .next (if sat then t.markOrder n.val else t).carryOn := by
  have hb' : (s.heard n.val).firstBad false a w = none := by rw [State.heard_firstBad, hb]
  have hu' : (s.heard n.val).spanFenced n.val = false := by rw [← hu, State.heard_spanFenced]
  have hat : (s.heard n.val).atomicAt a w (atomicFn i).2 = (old, (s.heard n.val).writeNat a w ((atomicFn i).2 old % 2 ^ (8 * w))) := by
    rw [State.atomicAt, hb', State.heard_readNat, ho]
  unfold execInstructionCompletion
  dsimp only
  rw [hf]
  dsimp only
  rw [hr, hm, if_neg (by decide), ht, if_neg (by decide), he, if_neg (by decide), ha, if_neg (by decide)]
  refine congrArg (fun x : State => Host.Outcome.next x.carryOn) ?_
  unfold State.completeAtomic
  dsimp only
  rw [← hwa, hw, hb', hu', Bool.false_and, Bool.not_false, Bool.and_true, decide_eq_true hx, if_pos rfl, hat, if_neg Bool.false_ne_true]
  subst hv hs
  rfl

/-- An EVREC performs its operation once nothing before it is in flight. -/
theorem execInstructionCompletion_evrec {k : Fin 192} {i : InFlight} {rb : PReg} {err : Bool} {op : Bool} {ev : BitVec 16}
    (hr : s.running = true) (hf : (s.pier n.val).flight[k.val]? = some i) (hi : i.instr = .evrec rb err op ev)
    (hm : mayComplete (s.span n.val).runTile (s.pier n.val).flight k.val i = true) (hl : (s.pier n.val).live = true) (hh : s.feHeld n.val = false) :
    k.val = 0 ∧ execInstructionCompletion n k s = .next (((s.heard n.val).modPier n.val (fun p =>
      { p with flight := p.flight.eraseIdx k.val })).eventOp ev.toNat op i.b err false).carryOn := by
  constructor
  · have hb : ((s.pier n.val).flight.take k.val).isEmpty = true := by
      have e := hm
      unfold mayComplete at e
      rw [hi] at e
      simpa [isTensorLike, atomicWord, hi, isEvrec] using e
    rw [List.isEmpty_iff, List.take_eq_nil_iff] at hb
    rcases hb with hb | hb
    · exact hb
    · rw [hb] at hf
      cases hf
  · unfold execInstructionCompletion
    dsimp only
    rw [hf]
    dsimp only
    have ht : isTensorLike i.instr = false := hi ▸ rfl
    have he : isEvrec i.instr = true := hi ▸ rfl
    rw [hr, hm, if_neg (by decide), ht, if_neg (by decide), he, if_pos rfl, hl, hh, if_neg (by decide), hi]
    rfl

end

/-! ### MCAST (R377, R378) -/

/-- Values that are written at the listed indexes behind `off`. -/
theorem Store.get_putAll_at {α : Type} [DecidableEq α] (d : α) (g : Nat → α) (m : Store α) (off a : Nat) (l : List Nat) :
    Store.get d a (Store.putAll d (l.map (fun k => (off + k, g k))) m) = if off ≤ a ∧ a - off ∈ l then g (a - off) else Store.get d a m := by
  induction l using List.reverseRecOn with
  | nil => simp [Store.putAll]
  | append_singleton l k ih =>
    have e : Store.putAll d ((l ++ [k]).map (fun k => (off + k, g k))) m =
        Store.put d (off + k) (g k) (Store.putAll d (l.map (fun k => (off + k, g k))) m) := by
      rw [List.map_append, Store.putAll, List.foldl_append]
      rfl
    rw [e, Store.get_put]
    by_cases h : a = off + k
    · rw [if_pos h, if_pos ⟨by omega, by simp [h]⟩, h, Nat.add_sub_cancel_left]
    · rw [if_neg h, ih]
      have hk : off ≤ a → a - off ≠ k := by omega
      by_cases hl : off ≤ a ∧ a - off ∈ l
      · rw [if_pos hl, if_pos ⟨hl.1, List.mem_append_left _ hl.2⟩]
      · rw [if_neg hl, if_neg]
        rintro ⟨ha, hm⟩
        rcases List.mem_append.1 hm with hm | hm
        · exact hl ⟨ha, hm⟩
        · exact hk ha (List.mem_singleton.1 hm)

/-- A pier as the answer of one branch of its MCAST `k` leaves it, with the branches answered and cancelled by then. -/
def Pier.branchAnswered (p : Pier) (k slot : Nat) (rd : PReg) (x : McastSlot) (answered cancelled : Nat) : Pier :=
  if answered = x.mask then
    ({ p with flight := p.flight.eraseIdx k }.setSlot slot mcastSlot0).setReg rd (BitVec.ofNat 64 cancelled)
  else p.setSlot slot { x with answered := answered, cancelled := cancelled }

section
variable {n slot target k : Nat} {i : InFlight} {rd ra rb : PReg} {n1 : BitVec 6}

/-- The answer of a branch. -/
theorem State.answerBranch_takes {t : State} (hk : (t.pier n).mcastOf slot = some k) (hf : (t.pier n).flight[k]? = some i)
    (hi : i.instr = .mcast rd ra rb n1) {x : McastSlot} (hx : x = (t.pier n).slot slot) (c : Bool) : t.answerBranch n slot target c =
    t.modPier n (fun p => p.branchAnswered k slot rd x (setBit x.answered target) (if c then setBit x.cancelled target else x.cancelled)) := by
  unfold State.answerBranch
  dsimp only
  rw [hk, ← hx]
  dsimp only
  by_cases h : setBit x.answered target = x.mask
  · rw [if_pos h, State.modPier, State.modPier, State.modSpan, State.modSpan]
    have hf' : (t.span n).pier.flight[k]? = some i := hf
    rw [hf', Option.map_some, hi, Pier.branchAnswered, if_pos h]
    rfl
  · rw [if_neg h]
    unfold Pier.branchAnswered
    simp only [if_neg h]

/-- What comes back to a span bears on no pier. -/
theorem State.returnTo_span (t : State) (n : Nat) : (t.returnTo n).span = t.span := by
  unfold State.returnTo
  split
  · rfl
  · rfl

/-- The units of an MCAST at the span of a branch. -/
theorem State.deliverMcast_takes {s : State} (hk : (s.pier n).mcastOf slot = some k) (hf : (s.pier n).flight[k]? = some i)
    (hi : i.instr = .mcast rd ra rb n1) {src dst : Nat} (hs : src = spanRegion n + 64 * natBits i.b.toNat 16 0)
    (hd : dst = spanRegion target + 64 * natBits i.b.toNat 48 32) : ∃ m p, s.deliverMcast n slot target = { s with mem := m, poison := p } ∧
      ∀ a, memGet m a = if dst ≤ a ∧ a < dst + 64 * (n1.toNat + 1) ∧ s.poisonedAt (src + (a - dst)) = false then
        memGet s.mem (src + (a - dst)) else memGet s.mem a := by
  let cells := ((List.range (64 * (n1.toNat + 1))).filter (fun i => !s.poisonedAt (src + i))).map (fun i => (dst + i, memGet s.mem (src + i)))
  have e : s.deliverMcast n slot target = { s with mem := memPutAll s.mem cells, poison := s.clearPoison (cells.map Prod.fst) } := by
    unfold State.deliverMcast
    rw [hk, Option.bind_some, hf]
    dsimp only
    rw [hi]
    dsimp only
    rw [← hs, ← hd]
  refine ⟨_, _, e, fun a => ?_⟩
  refine (Store.get_putAll_at memDefault (fun k => memGet s.mem (src + k)) s.mem dst a _).trans ?_
  refine if_congr ?_ rfl rfl
  rw [List.mem_filter, List.mem_range, Bool.not_eq_true']
  constructor
  · rintro ⟨h, hr, hp⟩
    exact ⟨h, by omega, hp⟩
  · rintro ⟨h, hr, hp⟩
    exact ⟨h, by omega, hp⟩

/-- The flits of a branch. -/
theorem State.mcastFlits_eq {s : State} (hk : (s.pier n).mcastOf slot = some k) (hf : (s.pier n).flight[k]? = some i)
    (hi : i.instr = .mcast rd ra rb n1) : s.mcastFlits n slot = flitsOf (64 * (n1.toNat + 1)) := by
  unfold State.mcastFlits
  rw [hk, Option.bind_some, hf]
  dsimp only
  rw [hi]

end

/-! ### The obligation -/

/-- Settles O54: each clause is one row's effect. -/
theorem memoryCompletions : Obligations.MemoryCompletions := by
  unfold Obligations.MemoryCompletions
  intro n s hr
  refine ⟨?held, ?dma, ?atomics, ?evrec, ?mcast⟩
  case held => exact fun tag events hd => execDmaComplete_held events hd
  case dma =>
    intro tag events k ht hd v x ends r hk
    have hv : v = s.memEvents events := rfl
    have hx : x = (v.pier n.val).tag tag.val := rfl
    have hr' : r = { v with pcie := { v.pcie with readFail := x.readFail } }.dmaCopy x.src x.dst x.len := rfl
    clear_value v x r
    have ended {t : State} {err : Bool} (hm : v.dmaMove n.val x = (t, err)) : ends t err := execDmaComplete_ends hr ht hd hv hk hx hm
    refine ⟨fun hf hl => ended ?_, fun hf hl => ended ?_, fun hf => ended ?_⟩
    · rw [State.dmaMove, hf, if_neg (by decide), hl, if_neg (by decide), hr']
    · rw [State.dmaMove, hf, if_neg (by decide), hl, if_pos rfl]
    · rw [State.dmaMove, hf, if_pos rfl]
      by_cases hc : spanRegion n.val ≤ x.src ∧ x.src < spanRegion n.val + spanSize
      · rw [if_pos hc, if_pos (by simpa using hc)]
      · rw [if_neg hc, if_neg (by simpa using hc)]
  case atomics =>
    intro k i hf hm hx ha hu a h lands
    have ht {j : SpanInstr} (hi : i.instr = j) (hj : isTensorLike j = false ∧ isEvrec j = false) :
        isTensorLike i.instr = false ∧ isEvrec i.instr = false := hi ▸ hj
    refine ⟨?add, ?swap, ?set, ?clear⟩
    case add =>
      intro rd ra rb ret wide hi w sum hb old
      obtain ⟨h1, h2⟩ := ht hi ⟨rfl, rfl⟩
      have hfn : atomicFn i = (w, fun old => unsignedOf (8 * w) (satSum (8 * w) (signedOf (8 * w) old) (signedOf (8 * w) i.b.toNat)).1) := by
        unfold atomicFn
        rw [hi]
        rfl
      have hsat : atomicSat i old = (decide (sum old < -(2 ^ (8 * w - 1) : Nat)) || decide ((2 ^ (8 * w - 1) : Nat) - 1 < sum old)) := by
        have e : atomicSat i old = !mantFits (8 * w) (sum old) := by
          unfold atomicSat
          rw [hi]
          rfl
        rw [e, mantFits, Bool.eq_iff_iff, mantLo, mantHi]
        simp only [Bool.not_eq_true', Bool.and_eq_false_iff, Bool.or_eq_true, decide_eq_false_iff_not, decide_eq_true_eq, Int.not_le]
      refine execInstructionCompletion_atomic hr hf hm hx ha hu h1 h2 rfl (congrArg Prod.fst hfn) hb rfl hsat ?_
      rw [hfn, hi]
      rfl
    case swap =>
      intro rd ra rb wide hi w hb old
      obtain ⟨h1, h2⟩ := ht hi ⟨rfl, rfl⟩
      have hfn : atomicFn i = (w, fun _ => i.b.toNat % 2 ^ (8 * w)) := by
        unfold atomicFn
        rw [hi]
        rfl
      have hsat : atomicSat i old = false := by
        unfold atomicSat
        rw [hi]
      refine execInstructionCompletion_atomic hr hf hm hx ha hu h1 h2 rfl (congrArg Prod.fst hfn) hb rfl hsat ?_
      rw [hfn, hi]
      dsimp only
      rw [Nat.mod_mod]
      rfl
    case set =>
      intro rd ra rb ret hi hb old
      obtain ⟨h1, h2⟩ := ht hi ⟨rfl, rfl⟩
      have hfn : atomicFn i = (8, fun old => old ||| i.b.toNat) := by
        unfold atomicFn
        rw [hi]
      have hsat : atomicSat i old = false := by
        unfold atomicSat
        rw [hi]
      refine execInstructionCompletion_atomic hr hf hm hx ha hu h1 h2 rfl (congrArg Prod.fst hfn) hb rfl hsat ?_
      rw [hfn, hi]
      rfl
    case clear =>
      intro rd ra rb ret hi hb old
      obtain ⟨h1, h2⟩ := ht hi ⟨rfl, rfl⟩
      have hfn : atomicFn i = (8, fun old => old &&& (2 ^ 64 - 1 - i.b.toNat)) := by
        unfold atomicFn
        rw [hi]
      have hsat : atomicSat i old = false := by
        unfold atomicSat
        rw [hi]
      refine execInstructionCompletion_atomic hr hf hm hx ha hu h1 h2 rfl (congrArg Prod.fst hfn) hb rfl hsat ?_
      rw [hfn, hi]
      rfl
  case evrec =>
    intro k i rb err op ev hf hi hm hl hh
    exact execInstructionCompletion_evrec hr hf hi hm hl hh
  case mcast =>
    intro slot target k i rd ra rb n1 ho hk hf hi hh x src dst answered answer
    refine ⟨fun hu hq => ?_, fun hu => ?_⟩
    · obtain ⟨m, p, hd, hm⟩ := s.deliverMcast_takes hk hf hi (target := target.val) (src := src) (dst := dst) rfl rfl
      have hp : (({ s with mem := m, poison := p } : State).returnTo n.val).pier n.val = s.pier n.val :=
        congrArg (fun f => (f n.val).pier) (State.returnTo_span _ n.val)
      refine ⟨(({ s with mem := m, poison := p } : State).returnTo n.val).modPier n.val (answer x.cancelled), ?_, ?_, ?_⟩
      · refine congrArg Host.Outcome.next ((if_pos (by rw [ho, hu, hh, hq]; rfl)).trans ?_)
        rw [hd, State.answerBranch_takes (by rw [hp]; exact hk) (by rw [hp]; exact hf) hi (x := x) (by rw [hp]) false]
        rfl
      · intro a
        rw [← hm a]
        unfold State.returnTo
        split
        · rfl
        · rfl
      · by_cases hs : s.spanFenced n.val = true
        · rw [State.returnTo, State.returnTo, if_pos (show ({ s with mem := m, poison := p } : State).spanFenced n.val = true from hs), if_pos hs]
          rfl
        · rw [State.returnTo, State.returnTo, if_neg (show ¬ ({ s with mem := m, poison := p } : State).spanFenced n.val = true from hs), if_neg hs]
          rfl
    · refine congrArg Host.Outcome.next ((if_pos (by rw [ho, hu, hh]; rfl)).trans ?_)
      have hp : ((s.countDrops (s.mcastFlits n.val slot.val)).returnTo n.val).pier n.val = s.pier n.val :=
        congrArg (fun f => (f n.val).pier) (State.returnTo_span _ n.val)
      rw [State.answerBranch_takes (by rw [hp]; exact hk) (by rw [hp]; exact hf) hi (x := x) (by rw [hp]) true, State.mcastFlits_eq hk hf hi]
      rfl

end Sys2Proof.Machine
end

section
/-! PROOFS. Tensor and anneal instructions: issue, completion, BIND and the steps of a run.
-/

namespace Sys2Proof.Machine

/-! ### Issue (R330-R341) -/

section
variable {s : State} {n : Nat} {l : Launch} {i : SpanInstr}

/-- A row whose instruction enters flight where its operands are legal. -/
theorem Issuing.flyIf (h : Issuing s n l i) {act : Launch → SpanInstr → Pier → State → Option State} {ok : Bool} {a b c : PReg}
    (ha : act l i (s.pier n) (s.runPier n) = some ((s.runPier n).flyIf n ok i (s.pier n) a b c)) (hok : ok = true) :
    s.Becomes n (goOn (s.issue n act))
      ({ s.pier n with code := 1 }.flying i ((s.pier n).reg a) ((s.pier n).reg b) ((s.pier n).reg c) (s.pier n).pc) :=
  h.fly (ha.trans (congrArg some (if_pos hok)))

/-- A tensor instruction that may complete has its effect. -/
theorem execInstructionCompletion_tensor {s : State} {n : Fin 16} {k : Fin 192} {i : InFlight} (hr : s.running = true)
    (hf : (s.pier n.val).flight[k.val]? = some i) (ht : isTensorLike i.instr = true)
    (hm : mayComplete (s.span n.val).runTile (s.pier n.val).flight k.val i = true) : execInstructionCompletion n k s =
    .next (((s.heard n.val).modPier n.val (fun q => { q with flight := q.flight.eraseIdx k.val })).doTensor n.val i).carryOn := by
  unfold execInstructionCompletion
  dsimp only
  rw [hf]
  dsimp only
  rw [hr, hm, if_neg (by decide), if_pos ht]
  rfl

end

/-! ### Completing an instruction of Table 12.7 in every pier of its run (R341) -/

/-- A pier whose anneal instruction, `q` of its flight, has completed with a value of rd. -/
def Pier.annealDone (p : Pier) (q : Option (Nat × InFlight)) (v : Word) : Pier :=
  match q with
  | some (k, i) =>
    match dstReg i.instr with
    | some rd => { p with flight := p.flight.eraseIdx k }.setReg rd v
    | none => { p with flight := p.flight.eraseIdx k }
  | none => p

/-- The completion changes the pier alone. -/
theorem State.completeAnneal_only (s : State) (n : Nat) (v : Word) :
    PierOnly s (s.completeAnneal n v) n ((s.pier n).annealDone (s.annealHead n) v) := by
  unfold State.completeAnneal
  cases s.annealHead n with
  | none => exact ⟨rfl, fun _ _ => rfl, rfl⟩
  | some q => exact SpanOnly.modPier s n _

/-- The anneal instruction of a pier turns on its span and on the fences. -/
theorem State.annealHead_congr {s t : State} {n : Nat} (h : t.span n = s.span n) (hf : t.flt = s.flt) : t.annealHead n = s.annealHead n := by
  rw [State.annealHead, State.annealHead, State.pier, State.pier, State.spanFenced, State.spanFenced, h, hf]

theorem State.spansBack_flt {s t : State} (h : s.spansBack t = s) : t.flt = s.flt := by
  have e := congrArg State.flt h
  exact e

/-- Each of several piers completes its instruction. -/
theorem eachUnit_completeAnneal (v : Nat → Word) : EachUnit State.span State.spansBack (fun st n => st.completeAnneal n (v n)) where
  twice _ _ _ := rfl
  none_ _ := rfl
  rest s n := (s.completeAnneal_only n (v n)).rest
  others s n m h := (s.completeAnneal_only n (v n)).others m h
  local_ s t n hb hs := by
    rw [(s.completeAnneal_only n (v n)).here, (t.completeAnneal_only n (v n)).here, State.annealHead_congr hs (State.spansBack_flt hb), State.pier,
      State.pier, hs]

/-- A span of run slot `q` goes to an order of Table 12.7. -/
def State.toOrder (s : State) (q next n : Nat) : State :=
  if (s.span n).bound = some q then s.modSpan n (fun x => { x with order := next }) else s

theorem State.toOrder_only (s : State) (q next n : Nat) : SpanOnly s (s.toOrder q next n) n
    { s.span n with order := if (s.span n).bound = some q then next else (s.span n).order } := by
  unfold State.toOrder
  by_cases h : (s.span n).bound = some q
  · rw [if_pos h, if_pos h]
    exact SpanOnly.modSpan s n _
  · rw [if_neg h, if_neg h]
    exact ⟨rfl, fun _ _ => rfl, rfl⟩

theorem eachUnit_toOrder (q next : Nat) : EachUnit State.span State.spansBack (fun st n => st.toOrder q next n) where
  twice _ _ _ := rfl
  none_ _ := rfl
  rest s n := (s.toOrder_only q next n).rest
  others s n m h := (s.toOrder_only q next n).others m h
  local_ s t n _ hs := by
    rw [(s.toOrder_only q next n).here, (t.toOrder_only q next n).here, hs]

section
variable (t : State) {r : Run}

/-- What the completion of an instruction in every carrier makes of the spans. -/
theorem State.completeAll_takes (next : Nat) (v : Nat → Word) (hn : r.spans.Nodup) : t.spansBack (t.completeAll r next v) = t ∧
    ∀ m, (t.completeAll r next v).span m = { t.span m with
      pier := if m ∈ t.carriers r then (t.pier m).annealDone (t.annealHead m) (v m) else t.pier m
      order := if m ∈ r.spans ∧ (t.span m).bound = some r.problem then next else (t.span m).order } := by
  obtain ⟨hr, hs⟩ := (eachUnit_completeAnneal v).fold (t.carriers r) (hn.filter _) t
  unfold State.completeAll
  dsimp only
  generalize (t.carriers r).foldl (fun st n => st.completeAnneal n (v n)) t = u at hr hs
  obtain ⟨kr, ks⟩ := (eachUnit_toOrder r.problem next).fold r.spans hn u
  have hu (m : Nat) : u.span m = { t.span m with
      pier := if m ∈ t.carriers r then (t.pier m).annealDone (t.annealHead m) (v m) else t.pier m } := by
    rw [hs m]
    by_cases hm : m ∈ t.carriers r
    · rw [if_pos hm, if_pos hm, (t.completeAnneal_only m (v m)).here]
    · rw [if_neg hm, if_neg hm]
      rfl
  refine ⟨?_, fun m => (ks m).trans ?_⟩
  · have e := congrArg t.spansBack kr
    exact e.trans hr
  · rw [(u.toOrder_only r.problem next m).here, hu m]
    by_cases hm : m ∈ r.spans
    · rw [if_pos hm]
      simp only [hm, true_and]
    · rw [if_neg hm]
      simp only [hm, false_and, if_false]

end

/-- A completion in every carrier turns on the run's spans and its problem. -/
theorem State.completeAll_congr (t : State) {r x : Run} (hs : x.spans = r.spans) (hp : x.problem = r.problem) (next : Nat) (v : Nat → Word) :
    t.completeAll x next v = t.completeAll r next v := by
  rw [State.completeAll, State.completeAll, State.carriers, State.carriers, hs, hp]

/-! ### The steps of a run by itself (R341, R342) -/

section
variable {s : State} {p : Problem} {r : Run}

/-- A run that starts: every carrier has come to BIND. -/
theorem State.runStep_starting (hp : s.problem r.problem = some p) (hm : r.mismatched = none) (hf : r.sysFree = true) (hc : s.carriers r ≠ [])
    (hs : r.starting = true) (ha : ∀ m, m ∈ s.carriers r → s.headOrder m = some 0) :
    s.runStep r = some ((s.modRun r.problem (fun x => { x with starting := false })).completeAll r 1 (fun _ => 0)) := by
  have hall : (s.carriers r).all (fun n => s.headOrder n = some 0) = true := List.all_eq_true.2 (fun m h => decide_eq_true (ha m h))
  unfold State.runStep
  dsimp only
  rw [hp]
  dsimp only
  rw [hm]
  dsimp only
  rw [hf, Bool.not_true, Bool.false_and, if_neg Bool.false_ne_true, hs, List.isEmpty_eq_false_iff.2 hc, if_pos (by decide), if_pos hall]

/-- A run that every carrier has brought to one order makes the step of that order. -/
theorem State.runStep_collective (hp : s.problem r.problem = some p) (hm : r.mismatched = none) (hf : r.sysFree = true) (hc : s.carriers r ≠ [])
    (hs : r.starting = false) {k : Nat} (ha : ∀ m, m ∈ s.carriers r → s.headOrder m = some (k + 1)) :
    s.runStep r = s.collective p r (k + 1) := by
  have hall : (s.carriers r).all (fun m => s.headOrder m = some (k + 1)) = true := List.all_eq_true.2 (fun m h => decide_eq_true (ha m h))
  unfold State.runStep
  dsimp only
  rw [hp]
  dsimp only
  rw [hm]
  dsimp only
  rw [hf, Bool.not_true, Bool.false_and, if_neg Bool.false_ne_true, hs, Bool.false_and, if_neg Bool.false_ne_true]
  cases h : s.carriers r with
  | nil => exact absurd h hc
  | cons n rest =>
    rw [h] at ha hall
    dsimp only
    rw [ha n List.mem_cons_self]
    dsimp only
    rw [if_pos hall]

end

/-! ### Out of order (R341) -/

section
variable {s : State} {m k : Nat}

/-- An anneal instruction without a run faults its pier. -/
theorem State.orderStep_unbound (hk : s.headOrder m = some (k + 1)) (hb : (s.span m).bound = none) : s.orderStep m =
    some (s.faultAnneal m (if (s.span m).order = 10 ∧ 7 ≤ k + 1 then 0x21 else 0x20)) := by
  unfold State.orderStep
  rw [hk]
  dsimp only
  rw [hb, if_pos (by decide)]
  refine congrArg (fun c => some (s.faultAnneal m c)) (if_congr ?_ rfl rfl)
  rw [Bool.and_eq_true, decide_eq_true_eq, decide_eq_true_eq]
  exact Iff.rfl

/-- One out of its order faults its pier. -/
theorem State.orderStep_wrong (hk : s.headOrder m = some (k + 1)) {q : Nat} (hb : (s.span m).bound = some q) (ho : (s.span m).order ≠ k + 1) :
    s.orderStep m = some (s.faultAnneal m 0x21) := by
  unfold State.orderStep
  rw [hk]
  dsimp only
  rw [hb, if_neg (by simp), decide_eq_true ho, Bool.true_or, if_pos rfl]

end

/-! ### BIND (R339) -/

/-- Bytes of bytes, inside. -/
theorem bytesAt_bytesAt (l : List Byte) (off n o m : Nat) (h : o + m ≤ n) : bytesAt (bytesAt l off n) o m = bytesAt l (off + o) m := by
  have hget (l : List Byte) (off n i : Nat) : (bytesAt l off n)[i]? = if i < n then some (l.getD (off + i) 0#8) else none := by
    unfold bytesAt
    dsimp only
    rw [List.getElem?_append, List.length_take, List.length_drop]
    by_cases hi : i < min n (l.length - off)
    · rw [if_pos hi, if_pos (by omega), List.getElem?_take, if_pos (by omega), List.getElem?_drop, List.getD_eq_getElem?_getD,
        List.getElem?_eq_getElem (by omega)]
      rfl
    · rw [if_neg hi, List.getElem?_replicate]
      by_cases hn : i < n
      · rw [if_pos (by omega), if_pos hn, List.getD_eq_getElem?_getD, List.getElem?_eq_none (by omega)]
        rfl
      · rw [if_neg (by omega), if_neg hn]
  apply List.ext_getElem?
  intro i
  rw [hget, hget]
  by_cases hi : i < m
  · rw [if_pos hi, if_pos hi, List.getD_eq_getElem?_getD, hget, if_pos (by omega), Option.getD_some, Nat.add_assoc]
  · rw [if_neg hi, if_neg hi]

/-- The BIND of spans of which none has a run yet, by what their run blocks say. -/
theorem State.bindStep_new {s : State} {ctx cmd m : Nat} {batch : Bool} {rest : List Nat} (hb : s.binders ctx cmd batch = m :: rest)
    (hn : ∀ x, x ∈ m :: rest → (s.span x).bound = none) {b : List Byte} (hblock : b = s.bindBlock m) :
    (¬ (∀ x, x ∈ rest → s.bindBlock x = b) → s.bindStep ctx cmd batch = some (s.failBind (m :: rest) 0x1F 0)) ∧
    ((∀ x, x ∈ rest → s.bindBlock x = b) → ¬ (numAt b 0 1 = 0x12 ∨ numAt b 0 1 = 0x14 ∨ numAt b 0 1 = 0x17) →
      s.bindStep ctx cmd batch = some (s.failBind (m :: rest) 0x10 0)) ∧
    ((∀ x, x ∈ rest → s.bindBlock x = b) → (numAt b 0 1 = 0x12 ∨ numAt b 0 1 = 0x14 ∨ numAt b 0 1 = 0x17) →
      (s.bindProblem b (s.runExec m).isSome = none → s.bindStep ctx cmd batch = some (s.failBind (m :: rest) 0x15 (numAt b 0x10 4))) ∧
      ∀ p, s.bindProblem b (s.runExec m).isSome = some p → s.run (p.id % 64) = none → s.bindLacks p (m :: rest) = false →
        (∀ x, x ∈ m :: rest → x ∈ problemSpans p) → (∀ x, x ∈ problemSpans p → s.spanFenced x = false → x ∈ m :: rest) →
        (schedFault p b = true → s.bindStep ctx cmd batch = some (s.failBind (m :: rest) 0x19 0)) ∧
        (schedFault p b = false → s.runExec m = none → drawsKey b = false → numAt b 0 1 ≠ 0x17 → s.bindStep ctx cmd batch =
          some (((m :: rest).foldl (fun (t : State) x => match t.annealHead x with
            | some (_, i) => t.modSpan x (fun y => { y with runTile := bindTile i.instr })
            | none => t) s).startRun p (Run.ofBlock p b ctx cmd batch (BitVec.ofNat 32 (numAt b 0x18 4))
              (blockKeyHi p (numAt b 0x1C 4)) s.now) none))) := by
  have hbusy (f : Nat → Bool) : (m :: rest).filter (fun n => (s.span n).bound.isSome && f n) = [] :=
    List.filter_eq_nil_iff.2 (fun x hx => by simp [hn x hx])
  have hnew : (m :: rest).filter (fun n => (s.span n).bound.isNone) = m :: rest :=
    List.filter_eq_self.2 (fun x hx => by simp [hn x hx])
  have e := Eq.refl (s.bindStep ctx cmd batch)
  conv_rhs at e => unfold State.bindStep
  dsimp only at e
  rw [hb, hbusy, hnew, if_neg (by simp)] at e
  dsimp only at e
  rw [← hblock] at e
  have hany : ((m :: rest).any (fun x => decide (s.bindBlock x ≠ b)) = true) = ¬ (∀ x, x ∈ rest → s.bindBlock x = b) := by
    simp [hblock]
  rw [if_congr (iff_of_eq hany) rfl rfl] at e
  have hop : ((!(decide (numAt b 0 1 = 0x12) || decide (numAt b 0 1 = 0x14) || decide (numAt b 0 1 = 0x17))) = true) =
      ¬ (numAt b 0 1 = 0x12 ∨ numAt b 0 1 = 0x14 ∨ numAt b 0 1 = 0x17) := by
    simp only [Bool.not_eq_true', Bool.or_eq_false_iff, decide_eq_false_iff_not, not_or, and_assoc]
  rw [if_congr (iff_of_eq hop) rfl rfl] at e
  refine ⟨fun h => e.trans (if_pos h), fun h hl => e.trans ?_, fun h hl => ⟨fun hp => e.trans ?_, fun p hp hr hk hin hall => ⟨fun hf => e.trans ?_,
    fun hf hx hd ho => e.trans ?_⟩⟩⟩
  · rw [if_neg (not_not.2 h), if_pos hl]
  · rw [if_neg (not_not.2 h), if_neg (not_not.2 hl), hp]
  all_goals
    rw [if_neg (not_not.2 h), if_neg (not_not.2 hl), hp]
    dsimp only
    rw [if_neg (by simpa using hin), hr, if_neg (by decide), hk, if_neg (by decide), if_neg (by
      simp only [List.any_eq_true, List.mem_filter, Bool.not_eq_true', List.contains_eq_mem, decide_eq_false_iff_not]
      rintro ⟨x, ⟨hx, hu⟩, hm⟩
      exact hm (hall x hx hu)), hf]
  · exact if_pos rfl
  · rw [if_neg (by decide), hd, Bool.false_and, if_neg (by decide), Bool.false_and, if_neg (by decide), hx, if_neg ho, if_neg Bool.false_ne_true]
    dsimp only
    rw [numAt, numAt, bytesAt_bytesAt _ _ _ _ _ (by decide), bytesAt_bytesAt _ _ _ _ _ (by decide)]
    rfl

/-! ### Runs after a change -/

section
variable {s t : State} {q : Nat}

theorem State.run_congr (h : t.runs = s.runs) (q : Nat) : t.run q = s.run q := by rw [State.run, State.run, h]

theorem State.run_problem {x : Run} (h : s.run q = some x) : x.problem = q := by simpa using List.find?_some h

/-- A run after a change that leaves the runs in their slots. -/
theorem State.run_modRun {f : Run → Run} (hf : ∀ x, (f x).problem = x.problem) {x : Run} (h : s.run q = some x) :
    (s.modRun q f).run q = some (f x) := by
  have hp (y : Run) : (if y.problem = q then f y else y).problem = y.problem := by
    split
    · exact hf y
    · rfl
  have e : (s.modRun q f).run q = (s.run q).map (fun y => if y.problem = q then f y else y) := by
    rw [State.run, State.modRun, List.find?_map, State.run]
    congr 2
    funext y
    exact congrArg (fun k => decide (k = q)) (hp y)
  rw [e, h, Option.map_some, if_pos (State.run_problem h)]

theorem State.writeBytes_runs (s : State) (a : Nat) (l : List Byte) : (s.writeBytes a l).runs = s.runs := by
  have e := congrArg State.runs (s.writeBytes_rest a l).1
  exact e

theorem State.runWrite_runs (s : State) (r : Run) (a : Nat) (l : List Byte) : (s.runWrite r a l).runs = s.runs := by
  unfold State.runWrite
  dsimp only
  split
  · exact s.writeBytes_runs a l
  · exact s.writeBytes_runs a l

/-- A change of the engines and spans of a list leaves the runs. -/
theorem State.foldl_runs {α : Type} {f : State → α → State} (hf : ∀ u a, (f u a).runs = u.runs) (l : List α) (s : State) :
    (l.foldl f s).runs = s.runs :=
  foldl_keep (P := fun u => u.runs = s.runs) (fun u a h => (hf u a).trans h) l s rfl

end

/-! ### Step 4: the audit (R147, R342) -/

section
variable {s : State} {p : Problem} {r : Run}

/-- Values that were computed for every replica. -/
theorem Store.get_reps {α : Type} [DecidableEq α] (d : α) (f : Nat → α) {n k : Nat} (hk : k < n) :
    Store.get d k (Store.putAll d ((List.range n).map (fun k => (k, f k))) []) = f k := by
  rw [Store.get_putAll_range, if_pos hk]

/-- The number of replicas whose audit failed, and what an audit that none failed leaves in the run. -/
theorem State.auditStep_takes (hr : s.run r.problem = some r) {exact_ : Nat → Int} (he : ∀ k, exact_ k = p.energyUnits (s.value p r k) r.ef)
    {bad : List Nat} (hb : bad = (List.range p.nrep).filter (fun k => decide ((if auditExact p then 0 else s.changedBy r k * 65536) <
      (exact_ k - Store.get 0 k r.totals).natAbs))) : (s.auditStep p r).2 = bad.length ∧
    (bad = [] → ∃ x, (s.auditStep p r).1.run r.problem = some x ∧ x.auditBad = r.auditBad ∧
      ∀ k, k < p.nrep → Store.get 0 k x.totals = exact_ k) := by
  have hlen : (s.auditStep p r).2 = bad.length := by
    rw [hb]
    refine congrArg List.length (List.filter_congr ?_)
    intro k hk
    have hk := List.mem_range.1 hk
    rw [Store.get_reps 0 _ hk, Store.get_reps 0 _ hk, ← he k]
    refine decide_eq_decide.2 ?_
    split
    · exact Iff.rfl
    · exact Iff.rfl
  refine ⟨hlen, fun h0 => ?_⟩
  have h2 : (s.auditStep p r).2 = 0 := by rw [hlen, h0]; rfl
  let vals : Store Int := Store.putAll 0 ((List.range p.nrep).map (fun k => (k, p.energyUnits (s.value p r k) r.ef))) []
  have e : (s.auditStep p r).1.runs = (s.modRun r.problem (fun x => { x with totals := vals, auditBad := x.auditBad + (s.auditStep p r).2 })).runs := by
    have hif : (s.auditStep p r).1 = if (s.auditStep p r).2 = 0 then _ else _ := rfl
    rw [hif, if_pos h2]
    exact State.foldl_runs (by intro _ _; rfl) _ _
  refine ⟨{ r with totals := vals, auditBad := r.auditBad + (s.auditStep p r).2 }, ?_, ?_, fun k hk => ?_⟩
  · rw [State.run_congr e, State.run_modRun (by intro _; rfl) hr]
  · exact congrArg (r.auditBad + ·) h2
  · rw [he k]
    exact Store.get_reps 0 _ hk

/-! ### Step 5: the best state and the sample (R146, R285, R342) -/

/-- A span's snapshot, and in a run that rotates its best state. -/
theorem State.snapshot_run (s : State) (p : Problem) (r : Run) (rep : Nat) {x : Run} (hx : s.run r.problem = some x) :
    ∃ v, (s.snapshot p r rep).run r.problem = some { x with bestState := v } := by
  unfold State.snapshot
  extract_lets nums u vals
  have hu : u.run r.problem = some x := (State.run_congr (State.foldl_runs (by intro _ _; rfl) _ s) r.problem).trans hx
  clear_value u
  split
  · exact ⟨vals, State.run_modRun (by intro _; rfl) hu⟩
  · exact ⟨x.bestState, hu⟩

/-- The sample of a boundary, where one is due. -/
theorem State.sampleStep_run {x : Run} (hx : s.run x.problem = some x) : (s.sampleStep p x).run x.problem =
    some { x with sampleCount := x.sampleCount + (if x.sampleInterval ≠ 0 ∧ (x.sweep + 1) % x.sampleInterval = 0 then 1 else 0) } := by
  unfold State.sampleStep
  extract_lets reps body slot u
  by_cases hd : x.sampleInterval ≠ 0 ∧ (x.sweep + 1) % x.sampleInterval = 0
  · rw [if_neg (by simpa using hd), if_pos hd]
    refine State.run_modRun (by intro _; rfl) ?_
    rw [State.run_congr (State.runWrite_runs _ _ _ _), State.run_congr (State.runWrite_runs _ _ _ _), hx]
  · rw [if_pos (by
      rw [Bool.or_eq_true, decide_eq_true_eq, decide_eq_true_eq]
      by_cases h0 : x.sampleInterval = 0
      · exact .inl h0
      · exact .inr (fun h => hd ⟨h0, h⟩)), if_neg hd]
    exact hx

/-- Step 5 of a run without one. -/
theorem State.snapStep_none (h : r.noSteps = true ∨ r.bestSet = false) : s.snapStep p r = (s, false) := by
  refine if_pos ?_
  rcases h with h | h
  · rw [h, Bool.true_or]
  · rw [h, Bool.not_false, Bool.or_true]

/-- The best state that step 5 keeps. -/
theorem State.bestStep_takes (hr : s.run r.problem = some r) (hb : r.bestSet = true) {b : Nat × Int} (hbest : b = bestOf p.nrep r.totals) :
    ∃ x, (s.bestStep p r).1.run r.problem = some x ∧ x.problem = r.problem ∧ x.sampleCount = r.sampleCount ∧ x.sampleInterval = r.sampleInterval ∧
      x.sweep = r.sweep ∧
      (¬ (r.bestLost = true ∨ b.2 < r.best) → (s.bestStep p r).2 = false ∧ x.best = r.best ∧ x.bestReplica = r.bestReplica ∧
        x.bestSweep = r.bestSweep) ∧
      ((r.bestLost = true ∨ b.2 < r.best) → (s.bestStep p r).2 = true ∧ x.best = b.2 ∧ x.bestReplica = b.1 ∧ x.bestSweep = r.sweep + 1) := by
  unfold State.bestStep
  dsimp only
  rw [← hbest, hb, Bool.true_and]
  by_cases hn : r.bestLost = true ∨ b.2 < r.best
  · rw [if_pos (by simpa using hn)]
    obtain ⟨v, hv⟩ := State.snapshot_run (s.modRun r.problem (fun x =>
      { x with best := b.2, bestReplica := b.1, bestSweep := x.sweep + 1, newBest := true, bestLost := false })) p r b.1
      (State.run_modRun (by intro _; rfl) hr)
    exact ⟨_, hv, rfl, rfl, rfl, rfl, fun h => absurd hn h, fun _ => ⟨rfl, rfl, rfl, rfl⟩⟩
  · rw [if_neg (by simpa using hn)]
    exact ⟨_, State.run_modRun (by intro _; rfl) hr, rfl, rfl, rfl, rfl, fun _ => ⟨rfl, rfl, rfl, rfl⟩, fun h => absurd h hn⟩

/-- Step 5 of a run with one, in part 0. -/
theorem State.snapStep_takes (hr : s.run r.problem = some r) (hs : r.noSteps = false) (hb : r.bestSet = true) (h0 : partOf p = 0)
    {b : Nat × Int} (hbest : b = bestOf p.nrep r.totals) : ∃ x, (s.snapStep p r).1.run r.problem = some x ∧
      x.sampleCount = r.sampleCount + (if r.sweepResult = 0 ∧ r.sampleInterval ≠ 0 ∧ (r.sweep + 1) % r.sampleInterval = 0 then 1 else 0) ∧
      (¬ (r.bestLost = true ∨ b.2 < r.best) → (s.snapStep p r).2 = false ∧ x.best = r.best ∧ x.bestReplica = r.bestReplica ∧
        x.bestSweep = r.bestSweep) ∧
      ((r.bestLost = true ∨ b.2 < r.best) → (s.snapStep p r).2 = true ∧ x.best = b.2 ∧ x.bestReplica = b.1 ∧ x.bestSweep = r.sweep + 1) := by
  obtain ⟨x, hx, hp, hc, hi, hw, hold, hnew⟩ := State.bestStep_takes (p := p) hr hb hbest
  have e : s.snapStep p r = if r.sweepResult = 0 then ((s.bestStep p r).1.sampleStep p x, (s.bestStep p r).2) else s.bestStep p r := by
    unfold State.snapStep
    dsimp only
    rw [hs, hb, if_neg (by decide), if_pos h0, hx]
  by_cases hz : r.sweepResult = 0
  · rw [if_pos hz] at e
    have hsm := State.sampleStep_run (p := p) (x := x) (s := (s.bestStep p r).1) (by rw [hp]; exact hx)
    rw [hp] at hsm
    rw [e]
    refine ⟨_, hsm, ?_, hold, hnew⟩
    rw [hc, hi, hw]
    simp only [hz, true_and]
  · rw [if_neg hz] at e
    rw [e]
    exact ⟨x, hx, by rw [hc, if_neg (fun h => hz h.1)]; rfl, hold, hnew⟩

end

/-! ### Step 10 and the checkpoint behind it (R117, R287, R342) -/

section
variable {s : State} {p : Problem} {r : Run}

/-- A checkpoint that begins holds the run. -/
theorem State.ckptBegin_run {x : Run} (hx : s.run x.problem = some x) : (s.ckptBegin p x).run x.problem = some { x with ckptOpen := some false } := by
  unfold State.ckptBegin
  extract_lets seq d len b u head v kept w
  refine State.run_modRun (by intro _; rfl) ?_
  have hd : d.2.runs = s.runs := rfl
  have hb : b.2.runs = d.2.runs := rfl
  have hv : w.runs = b.2.runs := State.runWrite_runs u x _ _
  rw [← hx]
  exact State.run_congr (hv.trans (hb.trans hd)) x.problem

/-- A run that goes on to sweep `w`. -/
def Run.toSweep (x : Run) (p : Problem) (w : Nat) : Run := { x with sweep := w, betas := x.betasFor p w, newBest := false }

/-- What SCHED NEXT steps to. -/
def State.nextState (s : State) (p : Problem) (r : Run) : State := s.modRun r.problem (fun x => x.toSweep p (r.sweep + 1))

theorem State.nextState_run (hr : s.run r.problem = some r) : (s.nextState p r).run r.problem = some (r.toSweep p (r.sweep + 1)) :=
  State.run_modRun (by intro _; rfl) hr

theorem State.schedNextStep_plain (hr : s.run r.problem = some r) (hc : r.ckptOpen = none) (hl : r.stops.limit = false)
    (hd : r.checkpointAt r.sweep = false) : s.schedNextStep p r =
    some ((s.nextState p r).completeAll r 1 (fun _ => BitVec.ofNat 64 (r.sweep + 1))) := by
  have hn : s.nextStep p r = s.nextState p r := by
    unfold State.nextStep
    dsimp only
    rw [hd]
    rfl
  have ho : (r.toSweep p (r.sweep + 1)).ckptOpen = none := hc
  unfold State.schedNextStep
  rw [hc]
  dsimp only
  rw [hl, if_neg Bool.false_ne_true, hn, State.nextState_run hr, Option.bind_some, ho]

theorem State.schedNextStep_limit (hr : s.run r.problem = some r) (hc : r.ckptOpen = none) (hl : r.stops.limit = true) : s.schedNextStep p r =
    some ((s.modRun r.problem (fun x => { x with sweep := x.sweep + 1 })).completeAll r 1 (fun _ => BitVec.ofNat 64 (r.sweep + 1))) := by
  have hx : (s.modRun r.problem (fun x => { x with sweep := x.sweep + 1 })).run r.problem = some { r with sweep := r.sweep + 1 } :=
    State.run_modRun (by intro _; rfl) hr
  unfold State.schedNextStep
  rw [hc]
  dsimp only
  rw [hl, if_pos rfl, hx, Option.bind_some]
  dsimp only
  rw [hc]

theorem State.schedNextStep_checkpoint (hr : s.run r.problem = some r) (hc : r.ckptOpen = none) (hl : r.stops.limit = false)
    (hd : r.checkpointAt r.sweep = true) : ∃ t x, s.schedNextStep p r = some t ∧ t.run r.problem = some x ∧ x.sweep = r.sweep + 1 ∧
      x.ckptOpen = some false := by
  have hn : s.nextStep p r = (s.nextState p r).ckptBegin p (r.toSweep p (r.sweep + 1)) := by
    have hx : (s.modRun r.problem (fun x => { x with sweep := r.sweep + 1, betas := x.betasFor p (r.sweep + 1), newBest := false })).run
      r.problem = some (r.toSweep p (r.sweep + 1)) := s.nextState_run hr
    unfold State.nextStep
    dsimp only
    rw [hd, hx]
    rfl
  have hy : ((s.nextState p r).ckptBegin p (r.toSweep p (r.sweep + 1))).run r.problem =
      some { r.toSweep p (r.sweep + 1) with ckptOpen := some false } := State.ckptBegin_run (State.nextState_run hr)
  refine ⟨_, _, ?_, hy, rfl, rfl⟩
  unfold State.schedNextStep
  rw [hc]
  dsimp only
  rw [hl, if_neg Bool.false_ne_true, hn, hy, Option.bind_some]

end

/-! ### The end of a run (R87, R284, R342) -/

/-- Each span is bound in `t` as in `s`. -/
def State.SameBound (s t : State) : Prop := ∀ m, (t.span m).bound = (s.span m).bound

section
variable {s t : State}

theorem State.SameBound.refl (s : State) : s.SameBound s := fun _ => rfl

/-- A change of an engine keeps it. -/
theorem State.SameBound.modEng (h : s.SameBound t) (n : Nat) (f : Engine → Engine) : s.SameBound (t.modEng n f) := by
  intro m
  rw [State.span_modEng, ← h m]
  split
  · next e => rw [e]
  · rfl

theorem State.SameBound.modPier (h : s.SameBound t) (n : Nat) (f : Pier → Pier) : s.SameBound (t.modPier n f) := by
  intro m
  rw [State.span_modPier, ← h m]
  split
  · next e => rw [e]
  · rfl

/-- A change of the rest keeps it. -/
theorem State.SameBound.spans {u : State} (h : s.SameBound t) (hu : u.spans = t.spans) : s.SameBound u := by
  intro m
  rw [State.span, hu]
  exact h m

theorem State.SameBound.foldl {α : Type} {f : State → α → State} (hf : ∀ u a, s.SameBound u → s.SameBound (f u a)) (l : List α)
    (h : s.SameBound t) : s.SameBound (l.foldl f t) :=
  foldl_keep (P := s.SameBound) hf l t h

theorem State.SameBound.shadowRecs (h : s.SameBound t) (r : Run) (n : Nat) (due : List DueRec) : s.SameBound (t.shadowRecs r n due) := by
  unfold State.shadowRecs
  refine .foldl (fun u q hu => ?_) due h
  split
  · split
    · intro m
      rw [State.span_modSpan, ← hu m]
      split
      · next e => rw [e]
      · rfl
    · exact hu
  · exact hu

theorem State.SameBound.pairOn (r : Run) (n fuel : Nat) : ∀ {t : State}, s.SameBound t → s.SameBound (State.pairOn r n fuel t) := by
  induction fuel with
  | zero => exact fun h => h
  | succ fuel ih =>
    intro t h
    unfold State.pairOn
    dsimp only
    split
    · exact h
    · exact ih ((h.modEng n _).shadowRecs r n _)

theorem State.SameBound.deliverVc1 (h : s.SameBound t) (n src : Nat) (b : Vc1Body) : s.SameBound (t.deliverVc1 n src b) := by
  unfold State.deliverVc1
  split
  · split
    · exact h
    · exact h.spans rfl
  · split
    · exact h.modEng n _
    · split
      · exact h
      · split
        · exact h.modEng n _
        · split
          · exact .pairOn _ n _ (h.modEng n _)
          · exact h

theorem State.SameBound.injectFirst (h : s.SameBound t) (n k : Nat) : s.SameBound (t.injectFirst n k) := by
  unfold State.injectFirst
  dsimp only
  split
  · exact h
  · refine State.SameBound.modEng ?_ n _
    exact h

theorem State.SameBound.drainRun (h : s.SameBound t) (r : Run) : s.SameBound (t.drainRun r) := by
  unfold State.drainRun State.deliverWhere
  refine .foldl (fun u m hu => .foldl (fun v d hv => hv.deliverVc1 d m.src m.body) _ hu) _ ?_
  exact (State.SameBound.foldl (fun u n hu => hu.injectFirst n _) r.spans h).spans rfl

theorem State.SameBound.restEngines (h : s.SameBound t) (r : Run) : s.SameBound (t.restEngines r) :=
  .foldl (fun _ n hu => hu.modEng n _) r.spans (h.drainRun r)

theorem State.SameBound.gatherCounts (h : s.SameBound t) (r : Run) : s.SameBound (t.gatherCounts r) :=
  .foldl (fun _ n hu => (hu.spans (u := State.modRun _ _ _) rfl).modEng n _) _ h

theorem State.writeBytes_spans (s : State) (a : Nat) (l : List Byte) : (s.writeBytes a l).spans = s.spans := by
  have e := congrArg State.spans (s.writeBytes_rest a l).1
  exact e

theorem State.runWrite_spans (s : State) (r : Run) (a : Nat) (l : List Byte) : (s.runWrite r a l).spans = s.spans := by
  unfold State.runWrite
  dsimp only
  split
  · exact s.writeBytes_spans a l
  · exact s.writeBytes_spans a l

end

/-- Problems that are lost or re-placed leave the runs and the spans. -/
theorem State.replaceIdle_rest (s : State) (n : Nat) : (s.replaceIdle n).runs = s.runs ∧ (s.replaceIdle n).spans = s.spans := by
  unfold State.replaceIdle
  refine foldl_keep (P := fun u => u.runs = s.runs ∧ u.spans = s.spans) (fun u id hu => ?_) _ s ⟨rfl, rfl⟩
  split
  · exact hu
  · split
    · exact hu
    · split
      · exact hu
      · unfold State.notifyLost
        rw [State.raiseVector_runs, State.raiseVector_spans]
        exact hu

theorem State.replaceAll_rest (s : State) : s.replaceAll.runs = s.runs ∧ s.replaceAll.spans = s.spans :=
  foldl_keep (P := fun u => u.runs = s.runs ∧ u.spans = s.spans)
    (fun u n hu => ⟨(u.replaceIdle_rest n).1.trans hu.1, (u.replaceIdle_rest n).2.trans hu.2⟩) _ s ⟨rfl, rfl⟩

theorem State.finishFrees_rest (s : State) : s.finishFrees.runs = s.runs ∧ s.finishFrees.spans = s.spans := by
  unfold State.finishFrees
  extract_lets u waits
  have hu : u.runs = s.runs ∧ u.spans = s.spans := by
    refine foldl_keep (P := fun u => u.runs = s.runs ∧ u.spans = s.spans) (fun u cx hu => ?_) _ s ⟨rfl, rfl⟩
    split
    · split
      · exact hu
      · exact hu
    · exact hu
  exact hu

/-- A span lets go of the run of slot `q`. -/
def State.unbind (s : State) (q n : Nat) : State :=
  if (s.span n).bound = some q then s.modSpan n (fun x => { x with bound := none, order := 0 }) else s

/-- Where every span of a list has let go, none of them holds the run. -/
theorem State.foldl_unbind (q : Nat) (l : List Nat) (s : State) (m : Nat) :
    ((l.foldl (fun st n => st.unbind q n) s).span m).bound = if m ∈ l ∧ (s.span m).bound = some q then none else (s.span m).bound := by
  induction l generalizing s with
  | nil => rfl
  | cons n l ih =>
    have hone : ((s.unbind q n).span m).bound = if m = n ∧ (s.span m).bound = some q then none else (s.span m).bound := by
      unfold State.unbind
      by_cases hb : (s.span n).bound = some q
      · rw [if_pos hb, State.span_modSpan]
        by_cases hm : m = n
        · rw [if_pos hm, if_pos ⟨hm, hm ▸ hb⟩]
        · rw [if_neg hm, if_neg (by rintro ⟨h, _⟩; exact hm h)]
      · rw [if_neg hb, if_neg (by rintro ⟨h, k⟩; exact hb (h ▸ k))]
    rw [List.foldl_cons, ih, hone]
    by_cases hb : (s.span m).bound = some q
    · by_cases hm : m = n
      · simp [hm]
      · simp [hm, hb]
    · simp [hb]

/-- A run that has ended is gone, and no span holds it. -/
theorem State.finishRun_takes (s : State) (p : Problem) {r : Run} (c : Bool) : (s.finishRun p r c).run r.problem = none ∧
    ∀ m, m < 16 → (s.span m).bound = some r.problem → ((s.finishRun p r c).span m).bound = none := by
  unfold State.finishRun
  extract_lets g x writes w st v b e1 e2 u z
  have hx : x.problem = r.problem := by
    show ((g.run r.problem).getD r).problem = r.problem
    cases h : g.run r.problem with
    | none => rfl
    | some y => exact State.run_problem h
  have hg : s.SameBound g := (State.SameBound.refl s).gatherCounts r
  have hw : s.SameBound w := by
    by_cases h : writes = true
    · exact hg.spans ((congrArg State.spans (if_pos h)).trans (g.runWrite_spans x _ _))
    · exact hg.spans (congrArg State.spans (if_neg h))
  clear_value w
  have hv : v.spans = w.spans := rfl
  clear_value v
  have hb : b.spans = v.spans := by
    dsimp only [b]
    split
    · rfl
    · rfl
  clear_value b
  have he : s.SameBound e2 := hw.spans (hb.trans hv)
  clear_value e2
  have hu (m : Nat) (hm : m < 16) (hb : (s.span m).bound = some r.problem) : (u.span m).bound = none := by
    have h := State.foldl_unbind x.problem spanIds e2 m
    rw [if_pos ⟨by simpa [spanIds] using hm, by rw [he m, hb, hx]⟩] at h
    exact h
  clear_value u
  have hz : u.SameBound z := by
    have h := (State.SameBound.refl u).restEngines x
    show u.SameBound ((u.restEngines x).keepStates p (u.stateArray p x))
    unfold State.keepStates
    split
    · exact h
    · exact h.spans rfl
  clear_value z
  obtain ⟨hr, hs⟩ := ({ z with runs := z.runs.filter (fun y => y.problem ≠ x.problem) } : State).replaceAll_rest
  obtain ⟨kr, ks⟩ := ({ z with runs := z.runs.filter (fun y => y.problem ≠ x.problem) } : State).replaceAll.finishFrees_rest
  refine ⟨?_, fun m hm hb => ?_⟩
  · rw [State.run_congr (kr.trans hr)]
    refine List.find?_eq_none.2 (fun y hy => ?_)
    have h := (List.mem_filter.1 hy).2
    rw [decide_eq_true_eq, hx] at h
    simpa using h
  · have e : ((({ z with runs := z.runs.filter (fun y => y.problem ≠ x.problem) } : State).replaceAll.finishFrees).span m) = z.span m := by
      rw [State.span, ks, hs, State.span]
    rw [e, hz m, hu m hm hb]

section
variable {s : State} {p : Problem} {r : Run}

/-- The causes in force at the end of a sweep take effect. -/
def State.stopsTaken (s : State) (p : Problem) (r : Run) : State :=
  if (r.sweepResult = 0 ∨ r.sweepResult = 2) ∧ r.complete p = false ∧ s.stopsNow r = true then s.takeStops r.problem else s

/-- The run of the slot then has the spans that it had. -/
theorem State.stopsTaken_run (hr : s.run r.problem = some r) : ∃ x, (s.stopsTaken p r).run r.problem = some x ∧ x.spans = r.spans ∧
    x.problem = r.problem ∧ x.sys = r.sys := by
  unfold State.stopsTaken
  split
  · exact ⟨_, State.run_modRun (by intro _; rfl) hr, rfl, rfl, rfl⟩
  · exact ⟨r, hr, rfl, rfl, rfl⟩

theorem State.stopsTaken_span (s : State) (p : Problem) (r : Run) : (s.stopsTaken p r).span = s.span ∧ (s.stopsTaken p r).flt = s.flt := by
  unfold State.stopsTaken
  split
  · exact ⟨rfl, rfl⟩
  · exact ⟨rfl, rfl⟩

/-- Step 7 of a run of one module. -/
theorem State.endStep_alone (hr : s.run r.problem = some r) (hs : r.sys = none) : ∃ x, x.spans = r.spans ∧ x.problem = r.problem ∧
    s.endStep p r = if s.endsHere p r = true then
      ((s.stopsTaken p r).carriers r).foldl (fun st n => st.modSpan n (fun y => { y with order := orderEnded }))
        ((((s.stopsTaken p r).carriers r).foldl (fun st n => st.completeAnneal n 1) (s.stopsTaken p r)).finishRun p x (x.complete p))
    else (s.stopsTaken p r).completeAll r 7 (fun _ => 0) := by
  obtain ⟨x, hx, hsp, hpr, hsy⟩ := State.stopsTaken_run (p := p) hr
  have ht : (if (decide (r.sweepResult = 0) || decide (r.sweepResult = 2)) && !r.complete p && s.stopsNow r then s.takeStops r.problem else s) =
      s.stopsTaken p r := by
    unfold State.stopsTaken
    refine if_congr ?_ rfl rfl
    simp only [Bool.and_eq_true, Bool.or_eq_true, decide_eq_true_eq, Bool.not_eq_true', and_assoc]
  have htell (u : State) (e : Bool) : u.tellChildren p x e = u := by
    unfold State.tellChildren
    rw [hsy, hs]
    cases p.sys with
    | none => rfl
    | some y => rfl
  have hc : (s.stopsTaken p r).carriers x = (s.stopsTaken p r).carriers r := by rw [State.carriers, State.carriers, hsp, hpr]
  refine ⟨x, hsp, hpr, ?_⟩
  unfold State.endStep
  dsimp only
  rw [ht, hx, Option.getD_some, htell, hc, State.completeAll_congr _ hsp hpr]

/-- The spans of a list go to an order. -/
theorem State.foldl_order (l : List Nat) (k : Nat) (s : State) (m : Nat) :
    (l.foldl (fun st n => st.modSpan n (fun y => { y with order := k })) s).span m = if m ∈ l then { s.span m with order := k } else s.span m := by
  induction l generalizing s with
  | nil => simp
  | cons n l ih =>
    rw [List.foldl_cons, ih, State.span_modSpan]
    by_cases hn : m = n
    · simp [hn]
    · simp [hn]

theorem State.foldl_order_runs (l : List Nat) (k : Nat) (s : State) :
    (l.foldl (fun st n => st.modSpan n (fun y => { y with order := k })) s).runs = s.runs :=
  State.foldl_runs (by intro _ _; rfl) l s

/-- Step 7 at the end of a run. -/
theorem State.endStep_ends (hr : s.run r.problem = some r) (hs : r.sys = none) (he : s.endsHere p r = true) :
    (s.endStep p r).run r.problem = none ∧
    ∀ m, m ∈ s.carriers r → m < 16 → ((s.endStep p r).span m).bound = none ∧ ((s.endStep p r).span m).order = 10 := by
  obtain ⟨x, hsp, hpr, e⟩ := State.endStep_alone (p := p) hr hs
  rw [if_pos he] at e
  obtain ⟨hspan, hflt⟩ := s.stopsTaken_span p r
  have hc : (s.stopsTaken p r).carriers r = s.carriers r := by
    rw [State.carriers, State.carriers]
    simp only [State.pier, State.spanFenced, hspan, hflt]
  rw [hc] at e
  have hb : (s.stopsTaken p r).SameBound ((s.carriers r).foldl (fun st n => st.completeAnneal n 1) (s.stopsTaken p r)) := by
    refine .foldl (fun u n hu => ?_) _ (.refl _)
    unfold State.completeAnneal
    split
    · exact hu.modPier n _
    · exact hu
  generalize (s.carriers r).foldl (fun st n => st.completeAnneal n 1) (s.stopsTaken p r) = u at e hb
  obtain ⟨hn, hf⟩ := u.finishRun_takes p (r := x) (x.complete p)
  rw [hpr] at hn hf
  rw [e]
  refine ⟨?_, fun m hm hm16 => ?_⟩
  · rw [State.run_congr (State.foldl_order_runs _ _ _), hn]
  · have hbound : (s.span m).bound = some r.problem := by
      have h := (List.mem_filter.1 hm).2
      simp only [Bool.and_eq_true, decide_eq_true_eq] at h
      exact h.2
    have h0 := hf m hm16 (by rw [hb m, hspan, hbound])
    rw [State.foldl_order, if_pos hm]
    exact ⟨h0, rfl⟩

end

/-! ### The steps that carriers make together (Table 12.7, R342) -/

section
variable {s : State} {p : Problem} {r : Run}

/-- FREF of a run of one module. -/
theorem State.frefStep_alone (hs : r.sys = none) : s.frefStep p r = if r.sweepResult = 0 ∧ r.refreshAt p = true then
      (s.refreshStep p r).completeAll r 3 (fun n => if (match (s.refreshStep p r).run r.problem with
        | some x => decide (x.sweepResult = 0)
        | none => false) = true then BitVec.ofNat 64 (r.blocksIn n) else 0)
    else s.completeAll r 3 (fun _ => 0) := by
  unfold State.frefStep
  dsimp only
  rw [hs]
  dsimp only
  exact if_congr (by rw [Bool.and_eq_true, decide_eq_true_eq]) rfl rfl

/-- EAUD of a run of one module. -/
theorem State.eaudStep_alone (hs : r.sys = none) : s.eaudStep p r = if r.sweepResult = 0 ∧ r.auditAt p = true then
      (s.auditStep p r).1.completeAll r 4 (fun _ => if (s.auditStep p r).2 = 0 then 0 else 1)
    else s.completeAll r 4 (fun _ => 0) := by
  unfold State.eaudStep
  rw [hs]
  dsimp only
  exact if_congr (by rw [Bool.and_eq_true, decide_eq_true_eq]) rfl rfl

/-- XCHG makes a round where one is due and no cause is in force before the last sweep. -/
theorem State.xchgStep_eq : s.xchgStep p r = if r.sweepResult = 0 ∧ r.exchangeAt p = true ∧
      ¬ ((s.stopsNow r = true ∨ ∃ x, r.sys = some x ∧ x.endCause ≠ 0) ∧ r.sweep + 1 < r.lastSweep p) ∧ partOf p = 0 then
      (s.modRun r.problem (fun _ => (r.exchangeRound p).1)).completeAll r 6 (fun _ => BitVec.ofNat 64 (r.exchangeRound p).2)
    else s.completeAll r 6 (fun _ => 0) := by
  have hended : ((match r.sys with
      | some x => decide (x.endCause ≠ 0)
      | none => false) = true) = ∃ x, r.sys = some x ∧ x.endCause ≠ 0 := by
    cases r.sys with
    | none => simp
    | some x => simp
  unfold State.xchgStep
  refine if_congr ?_ rfl rfl
  rw [← hended]
  rw [Bool.and_eq_true, Bool.and_eq_true, Bool.and_eq_true, decide_eq_true_eq, decide_eq_true_eq, and_assoc, and_assoc, Bool.not_eq_true',
    ← Bool.not_eq_true, Bool.and_eq_true, Bool.or_eq_true, decide_eq_true_eq] <;> exact Iff.rfl

/-- RMIG without a migrating block, or before its round, does nothing. -/
theorem State.migrateStep_none (h : migratingIn p r.window = [] ∨ r.migrateAt p = false) : s.migrateStep p r = (s, none) := by
  unfold State.migrateStep
  rcases h with h | h
  · rw [h]
  · split
    · rfl
    · rw [h]
      exact if_pos rfl

/-- WROT of a problem of one window, or inside one, does nothing. -/
theorem State.rotateStep_none (h : p.windows ≤ 1 ∨ (r.sweep + 1) % r.windowLength ≠ 0) : s.rotateStep p r = (s, r.window) := by
  refine if_pos ?_
  rw [Bool.or_eq_true, decide_eq_true_eq, decide_eq_true_eq]
  exact h

end

/-! ### The obligation -/

/-- Settles O55: the rows' effects on the pier, and the steps of Table 12.7 one by one. -/
theorem tensorAndAnnealIssue : Obligations.TensorAndAnnealIssue := by
  unfold Obligations.TensorAndAnnealIssue
  intro n s l q flies
  refine ⟨?mma, ?mmaz, ?accz, ?red, ?accmv, ?cvt, ?ewo, ?fldc, ?gibbs, ?sched, ?plain, ?completion, ?all_, ?steps, ?order, ?bind_⟩
  case mma =>
    intro t ra rb pair sh neg s1b c kq i h hok
    exact h.flyIf rfl hok
  case mmaz =>
    intro t ra rb e pair sh neg s1b c kq i h hok
    exact h.flyIf rfl hok
  case accz =>
    intro t e sh c m k i h hs hc ht
    refine h.flyIf rfl ?_
    rw [hs]
    show (c.ok && tileOk t.toNat m k) = true
    rw [hc, ht]
    rfl
  case red =>
    intro t ra rb sh op c axis i h hok
    exact h.flyIf rfl hok
  case accmv =>
    intro t ra rb d fmt sh op c yfmt ybc clr i h hok
    exact h.flyIf rfl hok
  case cvt =>
    intro ra rb rc ofmt ifmt d tr i h hok
    exact h.flyIf rfl hok
  case ewo =>
    intro rz ra rb rc zfmt xfmt yfmt d ybc op i h hok
    exact h.fly (congrArg some (if_pos hok))
  case fldc =>
    intro t ra rb rc pair sh op c qubo kq i h
    exact ⟨fun ho hok => h.flyIf (if_pos ho) hok, fun ho hok => h.flyIf (if_pos ho) hok, fun ho hok => h.flyIf (if_pos ho) hok⟩
  case gibbs =>
    intro t ra rb rc sh clr bias c bfmt i h hok
    exact h.flyIf rfl hok
  case sched =>
    intro rd ra m2 i
    exact ⟨fun h => h.fly rfl, fun h => h.fly rfl, fun h => h.fly rfl⟩
  case plain =>
    exact fun rd => ⟨fun h => h.fly rfl, fun h => h.fly rfl, fun h => h.fly rfl, fun h => h.fly rfl, fun h => h.fly rfl, fun h => h.fly rfl,
      fun h => h.fly rfl⟩
  case completion => exact fun k i hr hf ht hm => execInstructionCompletion_tensor hr hf ht hm
  case all_ =>
    intro t r next v hn u
    obtain ⟨hr, hs⟩ := t.completeAll_takes next v hn
    have hp (m : Nat) : u.pier m = if m ∈ t.carriers r then (t.pier m).annealDone (t.annealHead m) (v m) else t.pier m :=
      congrArg Span.pier (hs m)
    refine ⟨?_, fun m hm => by rw [hp, if_neg hm], fun m => ?_, hr⟩
    · intro m k i hm hh q
      rw [hp, if_pos hm, hh]
      rfl
    · rw [hp]
      exact hs m
  case steps =>
    intro p r hp hr hm hf hc done at_ here reps
    refine ⟨fun hs ha => State.runStep_starting hp hm hf hc hs ha, fun hs => ?_⟩
    have step {k : Nat} (ha : at_ (k + 1)) : s.runStep r = s.collective p r (k + 1) := State.runStep_collective hp hm hf hc hs ha
    refine ⟨?one, ?two, ?three, ?four, ?five, ?six, ?seven, ?eight, ?nine⟩
    case one =>
      intro ha
      have e : s.runStep r = if r.swept then
          some ((s.modRun r.problem (fun x => { x with swept := false })).completeAll r 2 (fun _ => BitVec.ofNat 64 r.sweepResult))
        else if s.atRest r then some (s.startSweep p r) else none := step ha
      refine ⟨fun h => e.trans (if_pos h), fun h hrest => e.trans ((if_neg (by rw [h]; decide)).trans (if_pos hrest)), fun h hrest =>
        e.trans ((if_neg (by rw [h]; decide)).trans (if_neg (by rw [hrest]; decide)))⟩
    case two =>
      intro ha blocks due
      have e : s.runStep r = some (s.frefStep p r) := step ha
      refine ⟨fun x hx => ?_, fun hx hd => ?_, fun hx hd x hu => ?_⟩
      · rw [State.frefStep, hx] at e
        exact e
      · rw [State.frefStep_alone hx, if_neg hd] at e
        exact e
      · rw [State.frefStep_alone hx, if_pos hd, hu] at e
        simp only [decide_eq_true_eq] at e
        exact e
    case three =>
      intro ha due exact_ bad
      have e : s.runStep r = some (s.eaudStep p r) := step ha
      refine ⟨fun x hx => ?_, fun hx hd => ?_, fun hx hd => ?_⟩
      · rw [State.eaudStep, hx] at e
        exact e
      · rw [State.eaudStep_alone hx, if_neg hd] at e
        exact e
      · rw [State.eaudStep_alone hx, if_pos hd] at e
        obtain ⟨h1, h2⟩ := State.auditStep_takes (p := p) hr (exact_ := exact_) (fun _ => rfl) (bad := bad) rfl
        refine ⟨_, ?_, h2⟩
        rw [h1] at e
        simp only [List.length_eq_zero_iff] at e
        exact e
    case four =>
      intro ha b new due
      have e : s.runStep r = some ((s.snapStep p r).1.completeAll r 5 (fun _ => if (s.snapStep p r).2 then 1 else 0)) := step ha
      refine ⟨fun h => ?_, fun h hb h0 => ?_⟩
      · rw [State.snapStep_none h] at e
        exact e
      · obtain ⟨x, hx, hc, hold, hnew⟩ := State.snapStep_takes (s := s) hr h hb h0 (b := b) rfl
        refine ⟨(s.snapStep p r).1, x, hx, hc, fun hn => ?_, fun hn => ?_⟩
        · obtain ⟨h2, hk⟩ := hold hn
          rw [h2] at e
          exact ⟨e, hk⟩
        · obtain ⟨h2, hk⟩ := hnew hn
          rw [h2] at e
          exact ⟨e, hk⟩
    case five =>
      intro ha stopped due
      have e : s.runStep r = some (s.xchgStep p r) := step ha
      rw [State.xchgStep_eq] at e
      exact ⟨fun hd => e.trans (congrArg some (if_neg hd)), fun hd => ⟨e.trans (congrArg some (if_pos hd)), rfl⟩⟩
    case six =>
      intro ha hs0 t
      have e : s.runStep r = some (s.endStep p r) := step ha
      refine ⟨fun he => ?_, fun he => ⟨_, e, State.endStep_ends hr hs0 he⟩⟩
      obtain ⟨x, _, _, k⟩ := State.endStep_alone (p := p) hr hs0
      rw [k, if_neg (by rw [he]; decide)] at e
      exact e
    case seven =>
      intro ha t
      exact ⟨step ha, State.migrateStep_none⟩
    case eight =>
      intro ha t
      have e : s.runStep r = some (s.wrotStep p r) := step ha
      refine ⟨fun hl => ?_, fun hl => ?_, State.rotateStep_none⟩
      · rw [State.wrotStep, if_pos hl] at e
        exact e
      · rw [State.wrotStep, if_neg (by rw [hl]; decide)] at e
        exact e
    case nine =>
      intro ha next to_
      have e : s.runStep r = s.schedNextStep p r := step ha
      refine ⟨fun hc hl hd => e.trans (State.schedNextStep_plain hr hc hl hd), fun hc hl => e.trans (State.schedNextStep_limit hr hc hl),
        fun hc hl hd => ?_, fun hc => ?_, fun hc => ?_⟩
      · rw [e]
        exact State.schedNextStep_checkpoint hr hc hl hd
      · rw [State.schedNextStep, hc] at e
        exact e
      · rw [State.schedNextStep, hc] at e
        exact e
  case order => exact fun m k hk => ⟨fun hb => State.orderStep_unbound hk hb, fun q hb ho => State.orderStep_wrong hk hb ho⟩
  case bind_ =>
    intro ctx cmd batch m rest hb hn b fails same legal
    obtain ⟨h1, h2, h3⟩ := State.bindStep_new hb hn (b := b) rfl
    exact ⟨h1, h2, fun h k => (h3 h k).1, fun h k => (h3 h k).2⟩

end Sys2Proof.Machine
end

section
/-! PROOFS. The ends of sweeps and runs: settles, deadlines, re-mapping and exchange timeouts.
-/

namespace Sys2Proof.Machine

/-! ### Work of the spans and of the mesh between them -/

/-- A property that changes of spans and of the mesh keep. -/
structure SpanWork (P : State → Prop) : Prop where
  spans : ∀ {a : State} (x : Store Span), P a → P { a with spans := x }
  mesh : ∀ {a : State} (x : Mesh), P a → P { a with mesh := x }

/-- The runs are those of `s`. -/
theorem spanWork_runs (s : State) : SpanWork (fun t => t.runs = s.runs) := ⟨fun _ h => h, fun _ h => h⟩

namespace SpanWork

variable {P : State → Prop} {t : State}

theorem shadowRecs (W : SpanWork P) (h : P t) (r : Run) (n : Nat) (due : List DueRec) : P (t.shadowRecs r n due) := by
  unfold State.shadowRecs
  refine foldl_keep (P := P) (fun u q hu => ?_) due t h
  split
  · split
    · exact W.spans _ hu
    · exact hu
  · exact hu

theorem pairOn (W : SpanWork P) (r : Run) (n fuel : Nat) : ∀ {t : State}, P t → P (State.pairOn r n fuel t) := by
  induction fuel with
  | zero => exact fun h => h
  | succ fuel ih =>
    intro t h
    unfold State.pairOn
    dsimp only
    split
    · exact h
    · exact ih (W.shadowRecs (W.spans _ h) r n _)

theorem deliverVc1 (W : SpanWork P) (h : P t) (n src : Nat) (b : Vc1Body) : P (t.deliverVc1 n src b) := by
  unfold State.deliverVc1
  split
  · split
    · exact h
    · exact W.mesh _ h
  · split
    · exact W.spans _ h
    · split
      · exact h
      · split
        · exact W.spans _ h
        · split
          · exact W.pairOn _ n _ (W.spans _ h)
          · exact h

theorem injectFirst (W : SpanWork P) (h : P t) (n k : Nat) : P (t.injectFirst n k) := by
  unfold State.injectFirst
  dsimp only
  split
  · exact h
  · exact W.spans _ (W.mesh _ h)

theorem drainRun (W : SpanWork P) (h : P t) (r : Run) : P (t.drainRun r) := by
  unfold State.drainRun State.deliverWhere
  refine foldl_keep (P := P) (fun u m hu => ?_) _ _ (W.mesh _ ?_)
  · exact foldl_keep (P := P) (fun v d hv => W.deliverVc1 hv d m.src m.body) _ u hu
  · exact foldl_keep (P := P) (fun u n hu => W.injectFirst hu n _) r.spans t h

theorem restEngines (W : SpanWork P) (h : P t) (r : Run) : P (t.restEngines r) :=
  foldl_keep (P := P) (fun _ _ hu => W.spans _ hu) r.spans _ (W.drainRun h r)

theorem loadDecks (W : SpanWork P) (h : P t) (r : Run) (rows : List BlockRow) (x : Nat → Nat → Bool) : P (t.loadDecks r rows x) := by
  unfold State.loadDecks
  refine foldl_keep (P := P) (fun u n hu => ?_) r.spans t h
  dsimp only
  split
  · exact hu
  · exact W.spans _ (W.spans _ hu)

theorem shadowWords (W : SpanWork P) (h : P t) (rows : List BlockRow) : P (t.shadowWords rows) := by
  unfold State.shadowWords
  refine foldl_keep (P := P) (fun u b hu => ?_) rows t h
  split
  · exact hu
  · exact W.spans _ hu

theorem adoptEf (W : SpanWork P) (h : P t) (p : Problem) (r : Run) (n : Nat) (ef : Int) : P (t.adoptEf p r n ef) := W.spans _ h

theorem setPartials (W : SpanWork P) (h : P t) (r : Run) (totals : Store Int) : P (t.setPartials r totals) :=
  foldl_keep (P := P) (fun _ _ hu => W.spans _ hu) _ t h

theorem bringGhosts (W : SpanWork P) (h : P t) (p q : Problem) (r : Run) (before after : List BlockRow) :
    P (t.bringGhosts p q r before after) := by
  have each (l : List Nat) (f : Engine → Engine) {u : State} (hu : P u) : P (l.foldl (fun st n => st.modEng n f) u) :=
    foldl_keep (P := P) (fun _ _ hv => W.spans _ hv) l u hu
  unfold State.bringGhosts
  split
  · exact h
  · refine foldl_keep (P := P) (fun u g hu => ?_) _ t h
    dsimp only
    split
    · exact hu
    · exact each _ _ hu
    · exact each _ _ hu

end SpanWork

/-! ### Messages to other modules (R253, R255) -/

/-- `t` with what a raise may change taken from `a`. -/
def State.fillIn (t a : State) : State := { t with blocks := a.blocks, flt := a.flt, pcie := a.pcie, bus := a.bus }

/-- A property that changes of links, and what a link's source raises and fences, keep. -/
structure LinkWork (P : State → Prop) : Prop where
  links : ∀ {a : State} (x : Store Link), P a → P { a with links := x }
  raised : ∀ {a : State} {blocks flt pcie bus}, P a → P { a with blocks := blocks, flt := flt, pcie := pcie, bus := bus }

/-- The runs are those of `s`. -/
theorem linkWork_runs (s : State) : LinkWork (fun t => t.runs = s.runs) := ⟨fun _ h => h, fun h => h⟩

namespace LinkWork

variable {P : State → Prop} {t : State}

theorem modLink (W : LinkWork P) (h : P t) (l : Nat) (f : Link → Link) : P (t.modLink l f) := W.links _ h

theorem pumpLink (W : LinkWork P) (h : P t) (l : Nat) : P (t.pumpLink l) := W.links _ h

theorem retrainTo (W : LinkWork P) (h : P t) (l w : Nat) : P (t.retrainTo l w) := W.links _ h

theorem sendNeighbour (W : LinkWork P) (h : P t) (l kind aux : Nat) (payload : List Byte) : P (t.sendNeighbour l kind aux payload) :=
  W.pumpLink (W.modLink h l _) l

theorem takeDown (W : LinkWork P) (h : P t) (l cause st : Nat) (drop : Bool) : P (t.takeDown l cause st drop) := by
  unfold State.takeDown
  extract_lets active a now
  refine W.modLink ?_ l _
  dsimp only [a]
  split
  · exact W.modLink (W.sendNeighbour h l _ _ _) l _
  · exact h

theorem loseLanes (W : LinkWork P) (h : P t) (l : Nat) (lanes : BitVec 8) : P (t.loseLanes l lanes).2 := by
  unfold State.loseLanes
  extract_lets x failed live a
  have ha : P a := W.modLink h l _
  clear_value a
  split
  · dsimp only
    split
    · exact W.retrainTo (W.sendNeighbour ha l _ _ _) l _
    · exact ha
  · dsimp only
    split
    · exact W.takeDown ha l 2 lnkDown false
    · exact ha

theorem withFlt (W : LinkWork P) (h : P t) (f : Flt) : P (t.withFlt f) := W.raised (blocks := t.blocks) (pcie := t.pcie) (bus := t.bus) h

theorem fenceLanes (W : LinkWork P) (h : P t) (l mask : Nat) : P (t.fenceLanes l mask) := by
  unfold State.fenceLanes
  extract_lets lanes f a
  have ha : P a := W.withFlt h _
  clear_value a
  split
  · exact ha
  · exact W.loseLanes ha l _

theorem fenceLink (W : LinkWork P) (h : P t) (l cause : Nat) : P (t.fenceLink l cause) := by
  unfold State.fenceLink
  split
  · exact h
  · exact W.takeDown (W.withFlt h _) l cause lnkDown true

/-- What a raise may change of a state does not count for `P`. -/
theorem of_rest (W : LinkWork P) (h : P t) {a : State} (e : { a with blocks := t.blocks, flt := t.flt, pcie := t.pcie, bus := t.bus } = t) :
    P a := by
  have hp : P (t.fillIn a) := W.raised h
  have k : ({ a with blocks := t.blocks, flt := t.flt, pcie := t.pcie, bus := t.bus } : State).fillIn a = t.fillIn a := congrArg (fun u : State => u.fillIn a) e
  change a = t.fillIn a at k
  exact k ▸ hp

theorem enterRaise (W : LinkWork P) (h : P t) (b : BlockId) (k : Nat) (m : Bool) (d : Nat) : P (t.enterRaise b k m d) :=
  W.of_rest h (t.enterRaise_rest b k m d)

/-- A raise of a link's source. -/
theorem raise (W : LinkWork P) (h : P t) (l k d : Nat) : P (t.raise (lnkBlock l) k d) := by
  have hr := W.enterRaise h (lnkBlock l) k false d
  unfold State.raise
  dsimp only
  split
  · unfold State.fenceUnitOf lnkBlock
    dsimp only
    split
    · exact W.fenceLanes hr _ _
    · exact W.fenceLink hr _ _
  · exact hr

theorem sendTo (W : LinkWork P) (h : P t) (dst kind aux run : Nat) (payload : List Byte) : P (t.sendTo dst kind aux run payload) := by
  unfold State.sendTo State.routeFlit
  dsimp only
  split
  · exact W.pumpLink (W.modLink h _ _) _
  · exact W.raise (W.modLink h _ _) _ 4 _

theorem sendMarker (W : LinkWork P) (h : P t) (y : SysDesc) (part aux : Nat) (m : Marker) : P (t.sendMarker y part aux m) :=
  W.sendTo h _ _ _ _ _

theorem sendBatch (W : LinkWork P) (h : P t) (y : SysDesc) (part epoch : Nat) (initial undo : Bool) (seq seen : Nat) (ef : Int)
    (recs : List FlipRec) : P (t.sendBatch y part epoch initial undo seq seen ef recs) := W.sendTo h _ _ _ _ _

end LinkWork

theorem State.enterRaise_runs (s : State) (b : BlockId) (k : Nat) (m : Bool) (d : Nat) : (s.enterRaise b k m d).runs = s.runs :=
  (linkWork_runs s).enterRaise rfl b k m d

theorem State.sendMarker_runs (s : State) (y : SysDesc) (part aux : Nat) (m : Marker) : (s.sendMarker y part aux m).runs = s.runs :=
  (linkWork_runs s).sendMarker rfl y part aux m

theorem State.sendBatch_runs (s : State) (y : SysDesc) (part epoch : Nat) (initial undo : Bool) (seq seen : Nat) (ef : Int)
    (recs : List FlipRec) : (s.sendBatch y part epoch initial undo seq seen ef recs).runs = s.runs :=
  (linkWork_runs s).sendBatch rfl y part epoch initial undo seq seen ef recs

/-! ### Changes of one run -/

/-- What the work of a sweep leaves of a run. -/
def Run.core (r : Run) : Nat × List Nat × Nat × Nat × Bool × Bool × Bool × List BlockRow × List (Nat × Nat) :=
  (r.problem, r.spans, r.sweep, r.sweepsDone, r.swept, r.exchanged, r.sys.isSome, r.blocks, r.remap)

/-- `t` has the runs of `s`, but for what the work of a sweep changes in the run of slot `q`. -/
structure State.RunOnly (q : Nat) (s t : State) : Prop where
  here : (t.run q).map Run.core = (s.run q).map Run.core
  others : ∀ k, k ≠ q → t.run k = s.run k

section
variable {s t u : State} {q : Nat}

theorem State.RunOnly.of_runs (h : t.runs = s.runs) : State.RunOnly q s t := by
  refine ⟨?_, fun k _ => State.run_congr h k⟩
  rw [State.run_congr h]

theorem State.RunOnly.refl : State.RunOnly q s s := .of_runs rfl

theorem State.RunOnly.trans (h : State.RunOnly q s t) (k : State.RunOnly q t u) : State.RunOnly q s u :=
  ⟨k.here.trans h.here, fun j hj => (k.others j hj).trans (h.others j hj)⟩

theorem State.RunOnly.runs (h : State.RunOnly q s t) (hu : u.runs = t.runs) : State.RunOnly q s u := h.trans (.of_runs hu)

/-- Another slot's run. -/
theorem State.run_modRun_ne {f : Run → Run} (hf : ∀ x, (f x).problem = x.problem) {k : Nat} (hk : k ≠ q) : (s.modRun q f).run k = s.run k := by
  have hp (y : Run) : (if y.problem = q then f y else y).problem = y.problem := by
    split
    · exact hf y
    · rfl
  have e : (s.modRun q f).run k = (s.run k).map (fun y => if y.problem = q then f y else y) := by
    rw [State.run, State.modRun, List.find?_map, State.run]
    congr 2
    funext y
    exact congrArg (fun j => decide (j = k)) (hp y)
  rw [e]
  cases h : s.run k with
  | none => rfl
  | some x => rw [Option.map_some, if_neg (by rw [State.run_problem h]; exact hk)]

theorem State.run_modRun_none {f : Run → Run} (hf : ∀ x, (f x).problem = x.problem) (h : s.run q = none) : (s.modRun q f).run q = none := by
  refine List.find?_eq_none.2 (fun y hy => ?_)
  obtain ⟨x, hx, e⟩ := List.mem_map.1 hy
  have hn := List.find?_eq_none.1 h x hx
  have hp : y.problem = x.problem := by
    rw [← e]
    split
    · exact hf x
    · rfl
  rw [hp]
  exact hn

/-- A run that is put in the place of the slot's. -/
theorem State.run_setRun {x y : Run} (hx : x.problem = q) (hy : s.run q = some y) : (s.modRun q (fun _ => x)).run q = some x ∧
    ∀ k, k ≠ q → (s.modRun q (fun _ => x)).run k = s.run k := by
  have hp (z : Run) : (if z.problem = q then x else z).problem = z.problem := by
    split
    · next h => rw [hx, h]
    · rfl
  have e (k : Nat) : (s.modRun q (fun _ => x)).run k = (s.run k).map (fun z => if z.problem = q then x else z) := by
    rw [State.run, State.modRun, List.find?_map, State.run]
    congr 2
    funext z
    exact congrArg (fun j => decide (j = k)) (hp z)
  refine ⟨?_, fun k hk => ?_⟩
  · rw [e, hy, Option.map_some, if_pos (State.run_problem hy)]
  · rw [e]
    cases h : s.run k with
    | none => rfl
    | some z => rw [Option.map_some, if_neg (by rw [State.run_problem h]; exact hk)]

/-- A change of the run that leaves its core. -/
theorem State.RunOnly.modRun {f : Run → Run} (hf : ∀ x, (f x).core = x.core) (h : State.RunOnly q s t) : State.RunOnly q s (t.modRun q f) := by
  have hp (x : Run) : (f x).problem = x.problem := congrArg Prod.fst (hf x)
  refine h.trans ⟨?_, fun k hk => State.run_modRun_ne hp hk⟩
  cases hr : t.run q with
  | none => rw [State.run_modRun_none hp hr]
  | some x => rw [State.run_modRun hp hr, Option.map_some, hf x, Option.map_some]

theorem State.RunOnly.modSys (f : SysRun → SysRun) (h : State.RunOnly q s t) : State.RunOnly q s (t.modSys q f) := by
  refine .modRun (fun x => ?_) h
  show (x.problem, x.spans, x.sweep, x.sweepsDone, x.swept, x.exchanged, (x.sys.map f).isSome, x.blocks, x.remap) = _
  rw [Option.isSome_map]
  rfl

theorem State.RunOnly.foldl {α : Type} {f : State → α → State} (hf : ∀ u a, State.RunOnly q s u → State.RunOnly q s (f u a)) (l : List α)
    (h : State.RunOnly q s t) : State.RunOnly q s (l.foldl f t) := foldl_keep (P := State.RunOnly q s) hf l t h

/-- The run of the slot, and what it has kept. -/
theorem State.RunOnly.run (h : State.RunOnly q s t) {r : Run} (hr : s.run q = some r) : ∃ x, t.run q = some x ∧ x.core = r.core := by
  have e := h.here
  rw [hr, Option.map_some] at e
  exact Option.map_eq_some_iff.1 e

variable {r : Run} (p : Problem)

theorem State.RunOnly.adoptAll (h : State.RunOnly r.problem s t) : State.RunOnly r.problem s (t.adoptAll p r) := by
  unfold State.adoptAll
  exact .modRun (fun _ => rfl) (h.runs (State.foldl_runs (by intro _ _; rfl) _ t))

theorem State.RunOnly.formTotals (h : State.RunOnly r.problem s t) : State.RunOnly r.problem s (t.formTotals p r) := by
  unfold State.formTotals
  exact .modRun (fun _ => rfl) (h.runs (State.foldl_runs (by intro _ _; rfl) _ t))

theorem State.RunOnly.takeStops (h : State.RunOnly q s t) : State.RunOnly q s (t.takeStops q) := .modRun (fun _ => rfl) h

theorem State.RunOnly.gatherCounts (h : State.RunOnly r.problem s t) : State.RunOnly r.problem s (t.gatherCounts r) := by
  unfold State.gatherCounts
  refine .foldl (fun u n hu => ?_) _ h
  dsimp only
  exact State.RunOnly.trans (.modRun (by intro _; rfl) hu) (.of_runs (State.modEng_runs _ _ _))

theorem State.RunOnly.restEngines (h : State.RunOnly q s t) : State.RunOnly q s (t.restEngines r) :=
  h.runs ((spanWork_runs t).restEngines rfl r)

end

/-! ### The settle within the module (R145) -/

section
variable {s : State} {p : Problem} {r : Run}

/-- What the settle makes of the run, of what the sweep has left of it. -/
def Run.settled (y : Run) (result : Nat) (done : Bool) : Run :=
  { y with sweepResult := result, swept := true, sweepsDone := if done then y.sweep + 1 else y.sweepsDone, exchanged := false,
           noSteps := y.noSteps || decide (result = 3) }

theorem State.settleLocal_takes (hr : s.run r.problem = some r) : (∀ k, k ≠ r.problem → (s.settleLocal p r).run k = s.run k) ∧
    ∃ y : Run, y.core = r.core ∧ (s.settleLocal p r).run r.problem =
      some (y.settled (s.resultOf p r) (s.sweepDone r && decide (s.resultOf p r ≤ 1))) := by
  unfold State.settleLocal
  extract_lets result done a untaken b c
  have ha : State.RunOnly r.problem s a := by
    dsimp only [a]
    split
    · exact .refl
    · exact (State.RunOnly.refl.adoptAll p).formTotals p
  clear_value a
  have hb : State.RunOnly r.problem s b := by
    dsimp only [b]
    split
    · exact ha.takeStops
    · exact ha
  clear_value b
  have hc : State.RunOnly r.problem s c := hb.gatherCounts.restEngines
  clear_value c
  obtain ⟨y, hy, hk⟩ := hc.run hr
  exact ⟨fun k h => (State.run_modRun_ne (by intro _; rfl) h).trans (hc.others k h), y, hk, State.run_modRun (by intro _; rfl) hy⟩

end

/-! ### The settle of a part (R236) -/

/-- What stays of a run though a span of it is fenced. -/
def Run.lasting (r : Run) : Nat × Nat × Nat × Bool × Bool × Bool := (r.problem, r.sweep, r.sweepsDone, r.swept, r.exchanged, r.sys.isSome)

/-- The run of slot `q` in `t` is that in `s`, as far as it lasts. -/
def State.Lasts (q : Nat) (s t : State) : Prop := (t.run q).map Run.lasting = (s.run q).map Run.lasting

section
variable {s t u : State} {q : Nat}

theorem State.Lasts.refl : State.Lasts q s s := rfl

theorem State.Lasts.trans (h : State.Lasts q s t) (k : State.Lasts q t u) : State.Lasts q s u := Eq.trans k h

theorem State.Lasts.of_runs (h : t.runs = s.runs) : State.Lasts q s t := by rw [State.Lasts, State.run_congr h]

theorem State.Lasts.runs (h : State.Lasts q s t) (hu : u.runs = t.runs) : State.Lasts q s u := h.trans (.of_runs hu)

theorem State.RunOnly.lasts (h : State.RunOnly q s t) : State.Lasts q s t := by
  have e := congrArg (fun o : Option (Nat × List Nat × Nat × Nat × Bool × Bool × Bool × List BlockRow × List (Nat × Nat)) =>
    o.map (fun c => (c.1, c.2.2.1, c.2.2.2.1, c.2.2.2.2.1, c.2.2.2.2.2.1, c.2.2.2.2.2.2.1))) h.here
  simp only [Option.map_map] at e
  exact e

/-- A change of every run that leaves what lasts. -/
theorem State.Lasts.map {f : Run → Run} (hf : ∀ x, (f x).lasting = x.lasting) (hu : t.runs = s.runs.map f) : State.Lasts q s t := by
  have hp (x : Run) : (f x).problem = x.problem := congrArg Prod.fst (hf x)
  have e : t.run q = (s.run q).map f := by
    rw [State.run, hu, List.find?_map, State.run]
    congr 2
    funext y
    exact congrArg (fun j => decide (j = q)) (hp y)
  rw [State.Lasts, e, Option.map_map]
  exact congrArg (fun g : Run → _ => (s.run q).map g) (funext hf)

theorem State.fenceInRun_lasting (s : State) (n : Nat) (x : Run) : (s.fenceInRun n x).lasting = x.lasting := by
  unfold State.fenceInRun
  dsimp only
  split
  · rfl
  · rfl

theorem State.pierStop_runs (s : State) (n code : Nat) (owe : Bool) : (s.pierStop n code owe).runs = s.runs := by
  unfold State.pierStop
  dsimp only
  split
  · split
    · split
      · rfl
      · rfl
    · rfl
  · rfl

theorem State.refuseLaunches_runs (s : State) (n : Nat) : (s.refuseLaunches n).runs = s.runs := by
  unfold State.refuseLaunches
  extract_lets queued waiting t fail u
  have hf (st : State) (l : Launch) : (fail st l).runs = st.runs := by
    simp only [fail]
    split
    · rfl
    · rfl
  clear_value fail
  have hu : u.runs = s.runs := State.foldl_runs hf queued t
  exact (State.foldl_runs (fun st w => hf st w.2.2.2) waiting u).trans hu

theorem State.fenceSpan_lasts (s : State) (n : Nat) : State.Lasts q s (s.fenceSpan n) := by
  unfold State.fenceSpan
  split
  · exact .refl
  · extract_lets shown base a b f c d e
    have hb : State.Lasts q s b := .map (a.fenceInRun_lasting n) rfl
    clear_value b
    have hd : d.runs = b.runs := State.pierStop_runs c n 5 false
    have hr : (e.refuseLaunches n).runs = d.runs := State.refuseLaunches_runs e n
    exact hb.runs (((e.refuseLaunches n).replaceIdle_rest n).1.trans (hr.trans hd))

theorem State.raise_spn_lasts (s : State) (n k d : Nat) : State.Lasts q s (s.raise (spnBlock n) k d) := by
  have h : State.Lasts q s (s.enterRaise (spnBlock n) k false d) := .of_runs (s.enterRaise_runs _ _ _ _)
  unfold State.raise
  dsimp only
  split
  · exact h.trans (State.fenceSpan_lasts _ _)
  · exact h

theorem State.raiseTimes_spn_lasts (n k d : Nat) : ∀ (j : Nat) (s : State), State.Lasts q s (s.raiseTimes (spnBlock n) k d j)
  | 0, _ => .refl
  | j + 1, s => (s.raise_spn_lasts n k d).trans (State.raiseTimes_spn_lasts n k d j _)

variable {p : Problem} {r : Run}

theorem State.refreshSpan_lasts (s : State) (p : Problem) (r : Run) (n : Nat) : State.Lasts q s (s.refreshSpan p r n).1 := by
  unfold State.refreshSpan
  dsimp only
  split
  · exact State.Lasts.trans (t := s.modEng n _) (.of_runs rfl) (State.raiseTimes_spn_lasts n 3 0 _ _)
  · exact .of_runs rfl

theorem State.limitEverywhere_only (h : State.RunOnly r.problem s t) : State.RunOnly r.problem s (t.limitEverywhere p r) := by
  unfold State.limitEverywhere
  dsimp only
  exact ((State.RunOnly.modRun (by intro _; rfl) (h.runs (State.foldl_runs (by intro _ _; rfl) _ t))).adoptAll p).formTotals p

theorem State.refreshStep_lasts (s : State) (p : Problem) (r : Run) : State.Lasts r.problem s (s.refreshStep p r) := by
  unfold State.refreshStep
  extract_lets out u
  have ho : State.Lasts r.problem s out.1 := by
    refine foldl_keep₁ (P := State.Lasts r.problem s) (fun acc n h => ?_) (s.liveOf r) (s, true) .refl
    split
    · exact h.trans (State.refreshSpan_lasts _ p r n)
    · exact h
  clear_value out
  have hu : State.RunOnly r.problem out.1 u := .modRun (by intro _; rfl) .refl
  clear_value u
  split
  · have hd : State.RunOnly r.problem out.1 (u.unitDone r) := hu.runs (State.foldl_runs (by intro _ _; rfl) _ u)
    exact ho.trans ((hd.adoptAll p).formTotals p).lasts
  · exact ho.trans (State.limitEverywhere_only hu).lasts

theorem State.endPart_only (s : State) (y : SysDesc) (r : Run) (cause epoch : Nat) : State.RunOnly r.problem s (s.endPart y r cause epoch) := by
  unfold State.endPart State.sendCause
  refine .foldl (fun u d hu => hu.runs (u.sendMarker_runs _ _ _ _)) _ ?_
  exact State.RunOnly.refl.modSys _

theorem State.sysOf_run {y : SysDesc} {x : SysRun} (h : s.sysOf q = some (p, y, r, x)) : s.problem q = some p ∧ s.run q = some r ∧
    p.sys = some y ∧ r.sys = some x := by
  unfold State.sysOf at h
  split at h
  · next p' r' hp hr =>
    split at h
    · next y' x' hy hx =>
      cases h
      exact ⟨hp, hr, hy, hx⟩
    · cases h
  · cases h

theorem State.noteLimit_only (s : State) (q : Nat) : State.RunOnly q s (s.noteLimit q) := by
  unfold State.noteLimit
  split
  · next p y r x h =>
    split
    · have hq : r.problem = q := State.run_problem (State.sysOf_run h).2.1
      rw [← hq]
      exact s.endPart_only y r 1 _
    · exact .refl
  · exact .refl

/-- A part that enters the stage of the settle. -/
theorem State.modSys_settling {b : State} {x : Run} (hb : b.run q = some x) {f : SysRun → SysRun} (hf : ∀ z, (f z).stage = .settling) :
    ∃ y, (b.modSys q f).run q = some y ∧ y.lasting = x.lasting ∧ ∀ z, y.sys = some z → z.stage = .settling := by
  refine ⟨_, State.run_modRun (by intro _; rfl) hb, ?_, fun z hz => ?_⟩
  · show (x.problem, x.sweep, x.sweepsDone, x.swept, x.exchanged, (x.sys.map f).isSome) = _
    rw [Option.isSome_map]
    rfl
  · obtain ⟨w, _, hw⟩ := Option.map_eq_some_iff.1 hz
    rw [← hw]
    exact hf w

/-- A part that settles keeps what lasts of its run, and is in the stage of it. -/
theorem State.sysSettle_takes (hr : s.run r.problem = some r) (ok : Bool) : ∃ x, (s.sysSettle p r ok).run r.problem = some x ∧
    x.lasting = r.lasting ∧ ∀ y, x.sys = some y → y.stage = .settling := by
  unfold State.sysSettle
  extract_lets refresh a
  have ha : State.Lasts r.problem s a := by
    dsimp only [a]
    split
    · exact (s.refreshStep_lasts p r).trans (State.noteLimit_only _ _).lasts
    · exact .refl
  clear_value a
  rw [State.Lasts, hr, Option.map_some] at ha
  obtain ⟨x, hx, hl⟩ := Option.map_eq_some_iff.1 ha
  rw [hx, ← hl]
  dsimp only
  rw [State.run_problem hx]
  refine State.modSys_settling ?_ (by intro _; rfl)
  refine (State.run_congr ?_ _).trans hx
  split
  · exact State.foldl_runs (by intro _ _; rfl) _ a
  · rfl

end

/-! ### Runs and problems while time passes -/

section
variable {s : State} {q : Nat}

/-- The passage of time writes checkpoints and rebuilds copies. -/
theorem State.advance_runs {k : Nat} (h : s.running = true) (hk : k ≠ 0) : (s.advance k).runs = (s.passed k).runs ∧
    (s.advance k).problems = (s.passed k).problems := by
  have e := State.advance_passed h hk
  have e1 := congrArg State.runs e
  have e2 := congrArg State.problems e
  exact ⟨e1, e2⟩

/-- A run after time has passed. -/
theorem State.passTo_run (t : Nat) {r : Run} (hr : s.run q = some r) : ∃ z, (s.passTo t).run q = some z ∧ { z with ckptOpen := r.ckptOpen } = r := by
  unfold State.passTo
  by_cases h : s.running = true
  · by_cases hk : t - s.now = 0
    · rw [hk, State.advance, if_pos (by simp)]
      exact ⟨r, hr, rfl⟩
    · rw [State.run_congr (State.advance_runs h hk).1]
      refine ⟨{ r with ckptOpen := r.ckptOpen.map (fun _ => true) }, ?_, rfl⟩
      show (s.runs.map (fun (r : Run) => { r with ckptOpen := r.ckptOpen.map (fun _ => true) })).find? (fun r => r.problem = q) = _
      rw [List.find?_map]
      exact congrArg (Option.map _) hr
  · rw [State.advance_stopped _ (by simpa using h)]
    exact ⟨r, hr, rfl⟩

/-- A problem after time has passed. -/
theorem State.passTo_problem (t : Nat) {p : Problem} (hp : s.problem q = some p) : ∃ z, (s.passTo t).problem q = some z ∧ z.sys = p.sys := by
  have same {u : State} (h : u.problems = s.problems) : u.problem q = some p := by rw [State.problem, h]; exact hp
  unfold State.passTo
  by_cases h : s.running = true
  · by_cases hk : t - s.now = 0
    · rw [hk, State.advance, if_pos (by simp)]
      exact ⟨p, hp, rfl⟩
    · refine ⟨{ p with recovery := p.recovery || p.rebuild, rebuild := false }, ?_, rfl⟩
      rw [State.problem, (State.advance_runs h hk).2]
      show (s.problems.map (fun (p : Problem) => { p with recovery := p.recovery || p.rebuild, rebuild := false })).find? (fun p => p.id % 64 = q) = _
      rw [List.find?_map]
      exact congrArg (Option.map _) hp
  · rw [State.advance_stopped _ (by simpa using h)]
    exact ⟨p, hp, rfl⟩

/-- The part of a system run after time has passed. -/
theorem State.passTo_sysOf (t : Nat) {p : Problem} {y : SysDesc} {r : Run} {x : SysRun} (h : s.sysOf q = some (p, y, r, x)) :
    ∃ p' r', (s.passTo t).sysOf q = some (p', y, r', x) ∧ { r' with ckptOpen := r.ckptOpen } = r := by
  obtain ⟨hp, hr, hy, hx⟩ := State.sysOf_run h
  obtain ⟨r', hr', er⟩ := State.passTo_run t hr
  obtain ⟨p', hp', ep⟩ := State.passTo_problem t hp
  have hy' : p'.sys = some y := ep.trans hy
  have hx' : r'.sys = some x := by
    have e := congrArg Run.sys er
    exact e.trans hx
  refine ⟨p', r', ?_, er⟩
  unfold State.sysOf
  rw [hp', hr']
  dsimp only
  rw [hy', hx']

/-! ### A wait that fails (R241) -/

/-- A part that has waited too long goes on alone. -/
def SysRun.alone_ (w : SysRun) (fails : Bool) (epoch : Nat) : SysRun :=
  { w with alone := true, waiting := none, endCause := if fails then 4 else w.endCause, causeEpoch := if fails then epoch else w.causeEpoch }

theorem State.waitFails_takes {p : Problem} {y : SysDesc} {r : Run} {x : SysRun} (h : s.sysOf q = some (p, y, r, x)) {t : State}
    (ht : t = (s.stopRun q (fun z => { z with stop := true })).raise .fe 0 0) (he : x.endCause = 0 → t.ExitsTake) :
    (∀ k, k ≠ q → (s.waitFails q).run k = t.run k) ∧ { s.waitFails q with runs := t.runs, links := t.links } = t ∧
    ∀ z, t.run q = some z → (s.waitFails q).run q = some { z with sys := z.sys.map (fun w => w.alone_ (decide (x.endCause = 0)) (r.sweep * r.k)) } := by
  have hq : r.problem = q := State.run_problem (State.sysOf_run h).2.1
  have e : s.waitFails q = if x.endCause ≠ 0 then t.modSys q (fun z => { z with alone := true, waiting := none })
      else (t.modSys q (fun z => { z with alone := true, waiting := none })).endPart y r 4 (r.sweep * r.k) := by
    unfold State.waitFails
    rw [h, ht]
  by_cases hc : x.endCause = 0
  · rw [if_neg (not_not.2 hc)] at e
    have hv : (t.modSys q (fun z => { z with alone := true, waiting := none })).ExitsTake := he hc
    have hm : (s.waitFails q).runs = ((t.modSys q (fun z => { z with alone := true, waiting := none })).modSys q (fun z =>
        { z with endCause := 4, causeEpoch := r.sweep * r.k })).runs := by
      rw [e, State.endPart, State.sendCause, hq]
      exact State.foldl_runs (fun u d => u.sendMarker_runs _ _ _ _) _ _
    refine ⟨fun k hk => ?_, ?_, fun z hz => ?_⟩
    · rw [State.run_congr hm]
      exact (State.run_modRun_ne (by intro _; rfl) hk).trans (State.run_modRun_ne (by intro _; rfl) hk)
    · rw [e]
      have k := congrArg (fun v : State => ({ v with runs := t.runs } : State)) (State.endPart_told hv y r 4 (r.sweep * r.k)).rest
      exact k
    · rw [State.run_congr hm]
      refine (State.run_modRun (by intro _; rfl) (State.run_modRun (by intro _; rfl) hz)).trans ?_
      simp only [Option.map_map, hc]
      rfl
  · rw [if_pos hc] at e
    rw [e]
    refine ⟨fun k hk => State.run_modRun_ne (by intro _; rfl) hk, rfl, fun z hz => ?_⟩
    refine (State.run_modRun (by intro _; rfl) hz).trans ?_
    rw [decide_eq_false hc]
    rfl

end

/-! ### What the end of an epoch sends to other parts (R228, R229, R232) -/

section
variable {s t : State} {q : Nat}

theorem State.RunOnly.sendRecs (h : State.RunOnly q s t) (y : SysDesc) (part run : Nat) (undo : Bool) (seen : Nat) (ef : Int)
    (recs : List (Nat × FlipRec)) : State.RunOnly q s (t.sendRecs y q part run undo seen ef recs) := by
  unfold State.sendRecs
  refine .foldl (fun u l hu => ?_) _ h
  split
  · split
    · refine State.RunOnly.modSys _ (hu.runs ((State.sendBatch_runs _ _ _ _ _ _ _ _ _ _).trans ?_))
      exact State.foldl_runs (by intro _ _; rfl) _ u
    · exact hu
  · exact hu

theorem State.RunOnly.sendOut (h : State.RunOnly q s t) (y : SysDesc) {r : Run} (hr : r.problem = q) (x : SysRun) (run : Nat) (undo : Bool) :
    State.RunOnly q s (t.sendOut y r x run undo) := by
  unfold State.sendOut
  rw [hr]
  refine State.RunOnly.modSys _ (.foldl (fun u d hu => ?_) _ h)
  dsimp only
  split
  · exact hu.sendRecs y d run undo _ _ _
  · exact .foldl (fun v k hv => hv.sendRecs y d run undo k _ _) _ hu

theorem State.RunOnly.sendMarkers (h : State.RunOnly q s t) (y : SysDesc) (aux : Nat) (m : State → Nat → Marker) (l : List Nat) :
    State.RunOnly q s (l.foldl (fun st d => st.sendMarker y d aux (m st d)) t) :=
  h.runs (State.foldl_runs (fun u d => u.sendMarker_runs y d aux (m u d)) l t)

theorem State.RunOnly.closeEpochs (p : Problem) (fuel : Nat) : ∀ {t : State}, State.RunOnly q s t → State.RunOnly q s (State.closeEpochs p q fuel t) := by
  induction fuel with
  | zero => exact fun h => h
  | succ fuel ih =>
    intro t h
    unfold State.closeEpochs
    split
    · next y r hy hr =>
      split
      · next x hx =>
        split
        · extract_lets run a counts b c
          have ha : State.RunOnly q s a := h.sendOut y (State.run_problem hr) x run false
          clear_value a
          have hb : State.RunOnly q s b := by
            dsimp only [b]
            split
            · exact ha.sendMarkers y 0 _ _
            · exact ha
          clear_value b
          have hc : State.RunOnly q s c := by
            dsimp only [c]
            split
            · exact hb.sendMarkers y 1 _ _
            · exact hb
          exact ih (hc.modSys _)
        · exact h
      · exact h
    · exact h

theorem State.RunOnly.exportRecs (h : State.RunOnly q s t) (p : Problem) {r : Run} (hr : r.problem = q) (n epoch : Nat) (undo : Bool)
    (recs : List FlipRec) : State.RunOnly q s (t.exportRecs p r n epoch undo recs) := by
  unfold State.exportRecs
  split
  · rw [hr]
    exact State.RunOnly.modSys _ (State.RunOnly.modSys _ h)
  · exact h

theorem State.RunOnly.sendEpoch (h : State.RunOnly q s t) (p : Problem) {r : Run} (hr : r.problem = q) (n epoch : Nat) (undo : Bool)
    (recs : List FlipRec) (limit : Bool) : State.RunOnly q s (t.sendEpoch p r n epoch undo recs limit) := by
  unfold State.sendEpoch
  extract_lets msgs a b
  have ha : State.RunOnly q s a := h.runs rfl
  clear_value a
  have hb : State.RunOnly q s b := ha.exportRecs p hr n epoch undo recs
  clear_value b
  split
  · exact hb
  · rw [hr]
    exact .closeEpochs p _ hb

theorem State.RunOnly.modEng (h : State.RunOnly q s t) (n : Nat) (f : Engine → Engine) : State.RunOnly q s (t.modEng n f) :=
  h.runs (State.modEng_runs t n f)

theorem State.RunOnly.nextEpoch (h : State.RunOnly q s t) (p : Problem) {r : Run} (hr : r.problem = q) (n : Nat) :
    State.RunOnly q s (t.nextEpoch p r n) := by
  unfold State.nextEpoch State.endEpochIfDone State.endEpoch
  dsimp only
  split
  · exact ((h.modEng n _).modEng n _).sendEpoch p hr n _ false _ false
  · exact h.modEng n _

theorem State.RunOnly.recomputeIn (h : State.RunOnly q s t) (p : Problem) {r : Run} (hr : r.problem = q) (f : Nat → Factored → Bool)
    (pick : BlockRow → Bool) : State.RunOnly q s (t.recomputeIn p r f pick).1 := by
  unfold State.recomputeIn
  dsimp only
  subst hr
  refine State.RunOnly.adoptAll p ?_
  refine foldl_keep₁ (P := State.RunOnly r.problem s) (fun acc n ha => ?_) _ (t, true) h
  have hw (l : List BlockRow) : State.RunOnly r.problem s (l.foldl (fun st b => st.fieldsWritten n b) acc.1) := by
    refine State.RunOnly.foldl (fun u b hu => ?_) l ha
    exact hu.runs (State.modSpan_runs u n _)
  split
  · dsimp only
    exact (hw _).modEng n _
  · dsimp only
    exact (hw _).modEng n _

theorem State.RunOnly.snapshot (h : State.RunOnly q s t) (p : Problem) {r : Run} (hr : r.problem = q) (rep : Nat) :
    State.RunOnly q s (t.snapshot p r rep) := by
  unfold State.snapshot
  extract_lets nums a vals
  have ha : State.RunOnly q s a := h.runs (State.foldl_runs (by intro _ _; rfl) _ t)
  clear_value a
  split
  · rw [hr]
    exact State.RunOnly.runs (State.RunOnly.modRun (by intro _; rfl) ha) rfl
  · exact ha

end

/-! ### Re-mapping (R435-R437) -/

/-- Blocks that are given away go to the hosts. -/
theorem giveBlocks_span (hosts : List Nat) (todo : List BlockRow) : ∀ (turn : Nat) (rows frozen : List BlockRow) (b : BlockRow),
    b ∈ (giveBlocks hosts todo turn rows frozen).1 → b ∈ rows ∨ b.span ∈ hosts := by
  induction todo with
  | nil => exact fun _ _ _ b h => .inl h
  | cons a rest ih =>
    intro turn rows frozen b h
    unfold giveBlocks at h
    dsimp only at h
    split at h
    · next host k hf =>
      rcases ih _ _ _ b h with h | h
      · rcases List.mem_append.1 h with h | h
        · exact .inl h
        · refine .inr ?_
          rw [List.mem_singleton.1 h]
          obtain ⟨l, hl, e⟩ := List.exists_of_findSome?_eq_some hf
          obtain ⟨j, _, e⟩ := Option.map_eq_some_iff.1 e
          have hm : l = host := congrArg Prod.fst e
          rw [hm] at hl
          rcases List.mem_append.1 hl with hl | hl
          · exact List.mem_of_mem_drop hl
          · exact List.mem_of_mem_take hl
      · exact .inr h
    · exact ih _ _ _ b h

/-- The blocks of a span that are moved leave it, for spans that are not fenced. -/
theorem moveBlocks_span {f : Nat} {hosts : List Nat} {rows : List BlockRow} {b : BlockRow} (h : b ∈ (moveBlocks f hosts rows).1) :
    (b ∈ rows ∧ b.span ≠ f) ∨ b.span ∈ hosts := by
  rcases giveBlocks_span _ _ _ _ _ b h with h | h
  · refine .inl ⟨(List.mem_filter.1 h).1, ?_⟩
    simpa using (List.mem_filter.1 h).2
  · exact .inr h

/-- One fenced span in the course of a re-map. -/
def State.loseBlocks (acc : State × Run) (f : Nat) : State × Run :=
  (acc.1.modBlock (acc.1.fenceBlock f) (fun x => x.setFenceDetail (acc.1.remapSpan acc.2 f).2.2), (acc.1.remapSpan acc.2 f).1)

/-- No block of `r` lies on the spans of `l`. -/
def Run.offSpans (r : Run) (l : List Nat) : Prop := ∀ b, b ∈ r.blocks → ∀ f, f ∈ l → b.span ≠ f

theorem State.foldl_loseBlocks (l : List Nat) : ∀ (acc : State × Run) (off : List Nat), (∀ f, f ∈ off ++ l → acc.1.spanFenced f = true) →
    acc.2.offSpans off →
    (l.foldl State.loseBlocks acc).1.runs = acc.1.runs ∧ (l.foldl State.loseBlocks acc).2.problem = acc.2.problem ∧
      (l.foldl State.loseBlocks acc).2.offSpans (off ++ l) := by
  induction l with
  | nil => exact fun acc off _ h => ⟨rfl, rfl, by rw [List.append_nil]; exact h⟩
  | cons f l ih =>
    intro acc off hf ho
    have hstep : (State.loseBlocks acc f).2.offSpans (off ++ [f]) := by
      intro b hb g hg
      rcases moveBlocks_span hb with ⟨hb, hne⟩ | hb
      · rcases List.mem_append.1 hg with hg | hg
        · exact ho b hb g hg
        · rw [List.mem_singleton.1 hg]
          exact hne
      · have hnf : acc.1.spanFenced b.span = false := by
          have h := (List.mem_filter.1 hb).2
          simp only [Bool.and_eq_true, Bool.not_eq_true'] at h
          exact h.2
        have hgf : acc.1.spanFenced g = true := hf g (by
          rcases List.mem_append.1 hg with hg | hg
          · exact List.mem_append_left _ hg
          · rw [List.mem_singleton.1 hg]
            exact List.mem_append_right _ List.mem_cons_self)
        intro e
        rw [e, hgf] at hnf
        cases hnf
    have happ : off ++ f :: l = off ++ [f] ++ l := by rw [List.append_assoc]; rfl
    obtain ⟨h1, h2, h3⟩ := ih (State.loseBlocks acc f) (off ++ [f]) (by rw [← happ]; exact hf) hstep
    rw [List.foldl_cons, happ]
    exact ⟨h1, h2, h3⟩

section
variable {s : State} {p : Problem} {r : Run}

/-- A number is put in its place. -/
theorem mem_insertNat {k n : Nat} : ∀ {l : List Nat}, n ∈ insertNat k l ↔ n = k ∨ n ∈ l
  | [] => by simp [insertNat]
  | a :: l => by
    unfold insertNat
    split
    · exact List.mem_cons
    · rw [List.mem_cons, mem_insertNat, List.mem_cons]
      tauto

/-- Spans in increasing order are the same spans. -/
theorem mem_sortNats {n : Nat} : ∀ {l : List Nat}, n ∈ sortNats l ↔ n ∈ l
  | [] => Iff.rfl
  | a :: l => by
    show n ∈ insertNat a (sortNats l) ↔ _
    rw [mem_insertNat, mem_sortNats, List.mem_cons]

/-- A re-map of spans that are fenced. -/
theorem State.remap_takes (hr : s.run r.problem = some r) (hf : ∀ f, f ∈ r.remap → s.spanFenced f.1 = true) :
    (∀ k, k ≠ r.problem → (s.remap p r).run k = s.run k) ∧
    ∃ x, (s.remap p r).run r.problem = some x ∧ x.remap = [] ∧ x.offSpans (r.remap.map Prod.fst) := by
  have hfs (f : Nat) : f ∈ sortNats ((r.remap.map Prod.fst).dedup) ↔ f ∈ r.remap.map Prod.fst := mem_sortNats.trans List.mem_dedup
  have hfenced (f : Nat) (h : f ∈ [] ++ sortNats ((r.remap.map Prod.fst).dedup)) : s.spanFenced f = true := by
    obtain ⟨g, hg, e⟩ := List.mem_map.1 ((hfs f).1 h)
    rw [← e]
    exact hf g hg
  obtain ⟨l1, l2, l3⟩ := State.foldl_loseBlocks (sortNats ((r.remap.map Prod.fst).dedup)) (s, r) [] hfenced (fun _ _ _ h => (nomatch h))
  unfold State.remap
  extract_lets fs lost src r2 isNew x ef a b c d q e touched
  have hl1 : lost.1.runs = s.runs := l1
  have hp : r2.problem = r.problem := l2
  have hoff : r2.offSpans (r.remap.map Prod.fst) := fun b hb f hf => l3 b hb f ((hfs f).2 hf)
  have hm : r2.remap = [] := rfl
  clear_value lost
  have hrun : lost.1.run r.problem = some r := (State.run_congr hl1 _).trans hr
  obtain ⟨ha, hao'⟩ := State.run_setRun hp hrun
  change a.run r.problem = some r2 at ha
  have hao (k : Nat) (hk : k ≠ r.problem) : a.run k = s.run k := (hao' k hk).trans (State.run_congr hl1 k)
  clear_value a
  have hb : State.RunOnly r.problem a b := .of_runs ((spanWork_runs a).shadowWords ((spanWork_runs a).loadDecks rfl r2 _ x) _)
  clear_value b
  have hc : State.RunOnly r.problem a c := hb.runs (State.foldl_runs (by intro _ _; rfl) _ b)
  clear_value c
  have hd : State.RunOnly r.problem a d := hc.runs (State.foldl_runs (by intro _ _; rfl) _ c)
  clear_value d
  have he : State.RunOnly r.problem a e := hd.runs ((spanWork_runs d).bringGhosts rfl p q r2 _ _)
  clear_value e
  have ends {u : State} (hu : State.RunOnly r.problem a u) : (∀ k, k ≠ r.problem → u.run k = s.run k) ∧
      ∃ y, u.run r.problem = some y ∧ y.remap = [] ∧ y.offSpans (r.remap.map Prod.fst) := by
    obtain ⟨y, hy, hk⟩ := hu.run ha
    have k1 : y.blocks = r2.blocks := congrArg (fun c => c.2.2.2.2.2.2.2.1) hk
    have k2 : y.remap = r2.remap := congrArg (fun c => c.2.2.2.2.2.2.2.2) hk
    refine ⟨fun k h => (hu.others k h).trans (hao k h), y, hy, k2.trans hm, fun b hb f hf => ?_⟩
    rw [k1] at hb
    exact hoff b hb f hf
  have hrec := he.recomputeIn p hp touched isNew
  split
  · next v hv =>
    rw [hv] at hrec
    exact ends (State.RunOnly.foldl (fun u n hu => hu.modEng n _) _ (.modRun (by intro _; rfl) hrec))
  · next v hv =>
    rw [hv] at hrec
    split
    · exact ends hrec
    · next z hz =>
      have hzp : z.problem = r.problem := State.run_problem hz
      extract_lets totals w best g
      have hw : State.RunOnly r.problem a w := hrec.runs ((spanWork_runs v).setPartials rfl z totals)
      clear_value w
      have hg : State.RunOnly r.problem a g := by
        dsimp only [g]
        split
        · exact .modRun (by intro _; rfl) hw
        · exact State.RunOnly.snapshot (.modRun (by intro _; rfl) hw) p hzp _
      clear_value g
      refine ends (.foldl (fun u n hu => ?_) _ hg)
      split
      · split
        · next y hy => exact hu.nextEpoch p (State.run_problem hy) n
        · exact hu
      · exact hu

end

/-! ### The obligation -/

/-- Settles O58: each row changes the run of its slot. -/
theorem settlesAndStops : Obligations.SettlesAndStops := by
  unfold Obligations.SettlesAndStops
  intro q s r hr hq alone
  have hqp : r.problem = q.val := State.run_problem hq
  refine ⟨?settle, ?deadline, ?remap, ?timeout⟩
  case settle =>
    intro p hp hd
    obtain ⟨ho, y, hk, hy⟩ := State.settleLocal_takes (p := p) (show s.run r.problem = some r by rw [hqp]; exact hq)
    rw [hqp] at ho hy
    obtain ⟨done, hdone⟩ : ∃ d, d = (s.sweepDone r && decide (s.resultOf p r ≤ 1)) := ⟨_, rfl⟩
    rw [← hdone] at hy
    have hd' : done = true ↔ s.sweepDone r = true ∧ s.resultOf p r ≤ 1 := by rw [hdone, Bool.and_eq_true, decide_eq_true_eq]
    have ksweep : y.sweep = r.sweep := congrArg (fun c => c.2.2.1) hk
    have kdone : y.sweepsDone = r.sweepsDone := congrArg (fun c => c.2.2.2.1) hk
    have ksys : y.sys.isSome = r.sys.isSome := congrArg (fun c => c.2.2.2.2.2.2.1) hk
    have hsd : (if done = true then y.sweep + 1 else y.sweepsDone) =
        if s.sweepDone r = true ∧ s.resultOf p r ≤ 1 then r.sweep + 1 else r.sweepsDone := by
      rw [if_congr hd' rfl rfl, ksweep, kdone]
    have e : exec (.settle q) s = .next (if (y.settled (s.resultOf p r) done).sys.isSome = true then
        (s.settleLocal p r).sysSettle p (y.settled (s.resultOf p r) done) (decide ((y.settled (s.resultOf p r) done).sweepResult = 0))
        else s.settleLocal p r).carryOn := by
      show execSettle q s = _
      unfold execSettle
      rw [hp, hq]
      dsimp only
      rw [if_pos hd, hy]
    have hks : (y.settled (s.resultOf p r) done).sys.isSome = r.sys.isSome := ksys
    by_cases hsys : r.sys.isSome = true
    · rw [if_pos (hks.trans hsys)] at e
      obtain ⟨x, hx, hl, hst⟩ := State.sysSettle_takes (p := p) (s := s.settleLocal p r) (r := y.settled (s.resultOf p r) done)
        ((congrArg (State.run _) (State.run_problem hy)).trans hy) (decide ((y.settled (s.resultOf p r) done).sweepResult = 0))
      rw [State.run_problem hy] at hx
      refine ⟨_, x, e, hx, fun h => absurd hsys (by rw [h]; decide), ?_, ?_, ?_, ?_, ?_, fun h => absurd hsys (by rw [h]; decide), hst⟩
      · exact congrArg (fun c => c.2.2.2.1) hl
      · exact congrArg (fun c => c.2.2.2.2.1) hl
      · exact (congrArg (fun c => c.2.1) hl).trans ksweep
      · exact (congrArg (fun c => c.2.2.2.2.2) hl).trans ksys
      · exact (congrArg (fun c => c.2.2.1) hl).trans hsd
    · rw [if_neg (by rw [hks]; exact hsys)] at e
      refine ⟨_, _, e, hy, fun _ => ho, rfl, rfl, ksweep, ksys, hsd, fun _ => rfl, fun z hz => ?_⟩
      have hz : y.sys = some z := hz
      rw [← ksys, hz] at hsys
      exact absurd rfl hsys
  case deadline =>
    intro hb hu hs v
    obtain ⟨z, hz, e⟩ := State.passTo_run (r.startTick + r.deadlineUs * 250) hq
    have hnow : r.startTick + r.deadlineUs * 250 ≤ v.now := by
      rw [State.passTo_now hr]
      exact Nat.le_max_right _ _
    have hdue : z.deadlineDue v.now = true := by
      have e1 := congrArg Run.begun e
      have e2 := congrArg Run.deadlineUs e
      have e3 := congrArg Run.startTick e
      dsimp only at e1 e2 e3
      unfold Run.deadlineDue
      rw [e1, e2, e3, hb, decide_eq_true hu, decide_eq_true (show r.startTick + r.deadlineUs * tickUs ≤ v.now from hnow)]
      rfl
    have hp (x : Run) : (if x.deadlineDue v.now = true then { x with stops := { x.stops with deadline := true } } else x).problem = x.problem := by
      split
      · rfl
      · rfl
    refine ⟨v.noteDeadline q.val, z, ?_, hz, e, ?_, fun k hk => State.run_modRun_ne hp hk, rfl, hnow⟩
    · show execDeadline q s = _
      unfold execDeadline
      rw [hq]
      dsimp only
      rw [if_pos (by rw [hr, hb, decide_eq_true hu, hs]; rfl)]
      rfl
    · exact (State.run_modRun hp hz).trans (congrArg some (if_pos hdue))
  case remap =>
    intro p hp hd hf
    obtain ⟨ho, x, hx, hm, hb⟩ := State.remap_takes (p := p) (show s.run r.problem = some r by rw [hqp]; exact hq) hf
    rw [hqp] at ho hx
    refine ⟨s.remap p r, x, ?_, hx, fun _ => ho, hm, fun b h f k => hb b h f.1 (List.mem_map.2 ⟨f, k, rfl⟩)⟩
    show execSpanRemap q s = _
    unfold execSpanRemap
    rw [hp, hq]
    dsimp only
    rw [if_pos (by rw [hr, hd]; rfl)]
  case timeout =>
    intro p y x hx hw v t ht
    obtain ⟨p', r', hv, e⟩ := State.passTo_sysOf (x.waitFrom + (if y.timeoutUs = 0 then 100000 else y.timeoutUs) * 250) hx
    have e1 := congrArg Run.sweep e
    have e2 := congrArg Run.k e
    dsimp only at e1 e2
    obtain ⟨ho, hrest, hz⟩ := State.waitFails_takes hv (t := t) rfl ht
    rw [e1, e2] at hz
    refine ⟨v.waitFails q.val, ?_, ho, hrest, fun z h => ?_⟩
    · show execExchangeTimeout q s = _
      unfold execExchangeTimeout
      rw [hx]
      dsimp only
      rw [if_pos (by rw [hr, hw]; rfl)]
      rfl
    · rw [hz z h]
      unfold SysRun.alone_
      simp only [decide_eq_true_eq]

end Sys2Proof.Machine
end

section
/-! PROOFS. Records between spans and the boundaries of epochs.
-/

namespace Sys2Proof.Machine

/-! ### The oldest message of a channel (R33, R368) -/

/-- Messages of other channels are passed over. -/
theorem takeVc1_append {src dst : Nat} (kind : Vc1Body → Bool) (pick : Nat → Bool) (before : List Vc1Msg)
    (hb : ∀ x, x ∈ before → ¬ (x.src = src ∧ dst ∈ x.dests)) (gens : List Nat) (l : List Vc1Msg) :
    takeVc1 src dst kind pick gens (before ++ l) = (takeVc1 src dst kind pick gens l).map (fun q => (q.1, before ++ q.2)) := by
  induction before with
  | nil => simp
  | cons x before ih =>
    have hx : ¬ (decide (x.src = src) && x.dests.contains dst) = true := by
      have h := hb x List.mem_cons_self
      simpa using h
    rw [List.cons_append, takeVc1, if_neg hx, ih (fun y hy => hb y (List.mem_cons_of_mem _ hy)), Option.map_map]
    rfl

/-- The oldest message of a channel, where it is of the kind and of a generation that is picked. -/
theorem takeVc1_first {src dst : Nat} {kind : Vc1Body → Bool} {pick : Nat → Bool} {m : Vc1Msg} (hs : m.src = src) (hd : dst ∈ m.dests)
    (hk : kind m.body = true) (hp : pick m.gen = true) (after : List Vc1Msg) :
    takeVc1 src dst kind pick [] (m :: after) = some (m.body, m.after dst ++ after) := by
  rw [takeVc1, if_pos (by simp [hs, hd]), if_pos (by simp [hk, hp])]

section
variable {s : State} {n : Nat} {before after : List Vc1Msg} {m : Vc1Msg} {kind : Vc1Body → Bool} {pick : Nat → Bool}

/-- The oldest message of a channel reaches its span. -/
theorem State.arriveVc1_first (hv : s.mesh.vc1 = before ++ m :: after) (hd : n ∈ m.dests)
    (hb : ∀ x, x ∈ before → ¬ (x.src = m.src ∧ n ∈ x.dests)) (hh : s.vc1Held m.src n = false) (hk : kind m.body = true)
    (hp : pick m.gen = true) : s.arriveVc1 m.src n kind pick =
    (({ s with mesh := { s.mesh with vc1 := before ++ (m.after n ++ after) } } : State).deliverVc1 n m.src m.body).carryOn := by
  have ht : takeVc1 m.src n kind pick [] s.mesh.vc1 = some (m.body, before ++ (m.after n ++ after)) := by
    rw [hv, takeVc1_append kind pick before hb, takeVc1_first rfl hd hk hp]
    rfl
  have hi : s.injectFor m.src n kind pick = s := by
    unfold State.injectFor
    rw [ht]
    rfl
  unfold State.arriveVc1
  rw [hi]
  dsimp only
  rw [ht]
  dsimp only
  rw [hh, if_neg Bool.false_ne_true]

/-- A flit that routers have not accepted is injected, with all before it, when it arrives. -/
theorem State.arriveVc1_inject {src : Nat} (h16 : src < 16) (hv : (s.eng src).inject = before ++ m :: after) (hd : n ∈ m.dests)
    (hb : ∀ x, x ∈ before → ¬ n ∈ x.dests) (hn : ∀ x, x ∈ s.mesh.vc1 → ¬ (x.src = src ∧ n ∈ x.dests)) (hs : m.src = src)
    (hk : kind m.body = true) (hp : pick s.mesh.generation = true) :
    s.arriveVc1 src n kind pick = (s.injectFirst src (before.length + 1)).arriveVc1 src n kind pick := by
  have hnone : takeVc1 src n kind pick [] s.mesh.vc1 = none := by
    have h := takeVc1_append kind pick s.mesh.vc1 hn [] []
    rw [List.append_nil] at h
    rw [h]
    rfl
  have hidx : (s.eng src).inject.findIdx? (fun x => x.dests.contains n && kind x.body) = some before.length := by
    rw [hv, List.findIdx?_append, List.findIdx?_eq_none_iff.2 (fun x hx => by simp [hb x hx])]
    simp [List.findIdx?_cons, hd, hk]
  have hi : s.injectFor src n kind pick = s.injectFirst src (before.length + 1) := by
    unfold State.injectFor
    rw [hnone, hidx, decide_eq_true h16]
    rfl
  have hmesh : (s.injectFirst src (before.length + 1)).mesh.vc1 = s.mesh.vc1 ++
      ((before ++ [m]).map (fun (x : Vc1Msg) => { x with gen := s.mesh.generation })) := by
    have hne : ¬ ((s.eng src).inject.isEmpty || decide (before.length + 1 = 0)) = true := by simp [hv]
    unfold State.injectFirst
    dsimp only
    rw [if_neg hne, hv]
    show s.mesh.vc1 ++ (List.take (before.length + 1) (before ++ m :: after)).map _ = _
    rw [List.take_append, List.take_of_length_le (by omega), Nat.add_sub_cancel_left]
    rfl
  have htake : (takeVc1 src n kind pick [] (s.injectFirst src (before.length + 1)).mesh.vc1).isSome = true := by
    rw [hmesh, takeVc1_append kind pick s.mesh.vc1 hn, List.map_append, takeVc1_append kind pick _ (fun x hx => ?_), List.map_singleton,
      takeVc1_first (m := { m with gen := s.mesh.generation }) hs hd hk hp]
    · rfl
    · obtain ⟨y, hy, e⟩ := List.mem_map.1 hx
      rw [← e]
      exact fun h => hb y hy h.2
  have hj : (s.injectFirst src (before.length + 1)).injectFor src n kind pick = s.injectFirst src (before.length + 1) := by
    unfold State.injectFor
    rw [Option.isNone_eq_false_iff.2 htake]
    rfl
  unfold State.arriveVc1
  rw [hi, hj]

end

/-! ### What a span takes (R33, R34, R384) -/

section
variable {s : State} {n src : Nat}

/-- The router of a fenced span discards and counts. -/
theorem State.deliverVc1_fenced (h : s.spanFenced n = true) (b : Vc1Body) :
    s.deliverVc1 n src b = if s.routerFailed (spanRouter n) then s else s.countDrops 1 := if_pos h

/-- The records of other parts wait. -/
theorem State.deliverVc1_link (h : s.spanFenced n = false) (h16 : 16 ≤ src) (b : Vc1Body) :
    s.deliverVc1 n src b = s.modEng n (fun g => g.receive n src 0 b) := by
  unfold State.deliverVc1
  rw [if_neg (by rw [h]; decide), if_pos h16]

/-- Records of a run that is over go nowhere. -/
theorem State.deliverVc1_none (h : s.spanFenced n = false) (h16 : src < 16) (hr : s.runOfSpan src = none) (b : Vc1Body) :
    s.deliverVc1 n src b = s := by
  unfold State.deliverVc1
  rw [if_neg (by rw [h]; decide), if_neg (by omega), hr]

/-- A span of the same run takes them. -/
theorem State.deliverVc1_run (h : s.spanFenced n = false) (h16 : src < 16) {r : Run} (hr : s.runOfSpan src = some r) (hn : n ∈ r.spans)
    (b : Vc1Body) : s.deliverVc1 n src b = s.modEng n (fun g => g.receive n src (r.sweep * r.k) b) := by
  unfold State.deliverVc1
  rw [if_neg (by rw [h]; decide), if_neg (by omega), hr]
  exact if_pos (by simpa using hn)

/-- A span of another run that is no buddy does not. -/
theorem State.deliverVc1_other (h : s.spanFenced n = false) (h16 : src < 16) {r : Run} (hr : s.runOfSpan src = some r) (hn : ¬ n ∈ r.spans)
    (hb : n ≠ src ^^^ 1) (b : Vc1Body) : s.deliverVc1 n src b = s := by
  unfold State.deliverVc1
  rw [if_neg (by rw [h]; decide), if_neg (by omega), hr]
  exact (if_neg (by simpa using hn)).trans (if_neg hb)

/-- A buddy of another run keeps them until an epoch is whole. -/
theorem State.deliverVc1_buddy (h : s.spanFenced n = false) (h16 : src < 16) {r : Run} (hr : s.runOfSpan src = some r) (hn : ¬ n ∈ r.spans)
    (hb : n = src ^^^ 1) (b : Vc1Body) (hd : ((s.eng n).receivePair n src b).pairDue = none) :
    s.deliverVc1 n src b = s.modEng n (fun g => g.receivePair n src b) := by
  have hpair : State.pairOn r n ((s.eng n).pairMarks.length + 1) (s.modEng n (fun g => g.receivePair n src b)) =
      s.modEng n (fun g => g.receivePair n src b) := by
    unfold State.pairOn
    dsimp only
    have e : (s.modEng n (fun g => g.receivePair n src b)).eng n = (s.eng n).receivePair n src b :=
      congrArg Span.eng (State.span_modEng_self s n _)
    rw [e, hd]
  unfold State.deliverVc1
  rw [if_neg (by rw [h]; decide), if_neg (by omega), hr]
  exact ((if_neg (by simpa using hn)).trans (if_pos hb)).trans hpair

end

section
variable {g : Engine} {n src base run : Nat} {undo : Bool}

/-- The flip-apply engine holds the flit, or has applied its epoch. -/
def Engine.knowsFlit (g : Engine) (src base run : Nat) (undo : Bool) (seq : Nat) : Prop :=
  run < base ∨ run - base + boolNat undo < g.applied ∨ ∃ f, f ∈ g.flits ∧ f.src = src ∧ f.epoch = run - base ∧ f.undo = undo ∧ f.seq = seq

theorem Engine.receive_flit (seq : Nat) (recs : List FlipRec) :
    (g.knowsFlit src base run undo seq → g.receive n src base (.flit run undo seq recs) = g) ∧
    (¬ g.knowsFlit src base run undo seq → g.receive n src base (.flit run undo seq recs) =
      { g with flits := g.flits ++ [⟨src, run - base, undo, seq, recs⟩] }) := by
  have hc : (decide (run < base) || decide (run - base + boolNat undo < g.applied)
      || g.flits.any (fun f => f.src = src && f.epoch = run - base && f.undo = undo && f.seq = seq)) = true ↔ g.knowsFlit src base run undo seq := by
    simp only [Engine.knowsFlit, Bool.or_eq_true, decide_eq_true_eq, List.any_eq_true, Bool.and_eq_true, or_assoc, and_assoc]
  exact ⟨fun h => if_pos (hc.2 h), fun h => if_neg (fun k => h (hc.1 k))⟩

/-- The same of a marker. -/
def Engine.knowsMark (g : Engine) (src base run : Nat) (undo : Bool) : Prop :=
  run < base ∨ run - base + boolNat undo < g.applied ∨ ∃ f, f ∈ g.marks ∧ f.src = src ∧ f.epoch = run - base ∧ f.undo = undo

theorem Engine.receive_marker (counts : List Nat) (ef : Int) (ez : Store Int) (limit : Bool) :
    (g.knowsMark src base run undo → g.receive n src base (.marker run undo counts ef ez limit) = g) ∧
    (¬ g.knowsMark src base run undo → g.receive n src base (.marker run undo counts ef ez limit) =
      { g with marks := g.marks ++ [⟨src, run - base, undo, counts.getD n 0, ef, ez, limit⟩] }) := by
  have hc : (decide (run < base) || decide (run - base + boolNat undo < g.applied)
      || g.marks.any (fun f => f.src = src && f.epoch = run - base && f.undo = undo)) = true ↔ g.knowsMark src base run undo := by
    simp only [Engine.knowsMark, Bool.or_eq_true, decide_eq_true_eq, List.any_eq_true, Bool.and_eq_true, or_assoc, and_assoc]
  exact ⟨fun h => if_pos (hc.2 h), fun h => if_neg (fun k => h (hc.1 k))⟩

end

/-! ### Boundaries and flushes (R135-R142) -/

/-- Span `n` stands at the boundary of an epoch of run `r`, of which no span has stopped and none is to. -/
structure AtBoundary (s : State) (n : Nat) (p : Problem) (r : Run) : Prop where
  running : s.running = true
  unfenced : s.spanFenced n = false
  bound : s.boundRun n = some (p, r)
  goesOn : s.stopsNow r = false
  others : (s.liveOf r).all (fun m => !(s.eng m).stopped) = true
  phase : (s.eng n).phase = .boundary
  stopped : (s.eng n).stopped = false

/-- The epoch of an engine ends a colour of its run. -/
def Run.endsColour (r : Run) (p : Problem) (g : Engine) : Prop :=
  (r.schedOf p).coloured = true ∧ ∃ q, q ∈ r.colourEnds ∧ q.2 = g.epoch + 1

/-- The records of every epoch below `b` are there. -/
def State.recordsThere (s : State) (p : Problem) (r : Run) (n b : Nat) : Prop :=
  ∀ k, (s.eng n).applied ≤ k → k < b → s.epochComplete r n k false = true ∧ s.partsComplete p r n k = true

theorem State.recordsThere_iff {s : State} {p : Problem} {r : Run} {n b : Nat} : (epochsFrom (s.eng n).applied b).all (fun k =>
    s.epochComplete r n k false && s.partsComplete p r n k) = true ↔ s.recordsThere p r n b := by
  simp only [epochsFrom, List.all_map, List.all_eq_true, List.mem_range, Function.comp_apply, Bool.and_eq_true, State.recordsThere]
  constructor
  · intro h k ha hb
    have e := h (k - (s.eng n).applied) (by omega)
    rwa [Nat.sub_add_cancel ha] at e
  · intro h k hk
    exact h _ (by omega) (by omega)

/-- The end of a span's work. -/
theorem State.endWork_only (s : State) (n : Nat) : SpanOnly s (s.endWork n) n { s.span n with eng :=
    { s.eng n with phase := .ended, cont := none, unitStart := none, blockRecs := [] } } := SpanOnly.modEng s n _

section
variable {s : State} {n : Nat} {p : Problem} {r : Run}

theorem AtBoundary.colour_eq (p : Problem) (r : Run) (g : Engine) :
    ((r.schedOf p).coloured && r.colourEnds.any (fun q => q.2 = g.epoch + 1)) = true ↔ r.endsColour p g := by
  simp only [Bool.and_eq_true, List.any_eq_true, decide_eq_true_eq, Run.endsColour]

/-- No stop is in force at it. -/
theorem AtBoundary.unstopped (h : AtBoundary s n p r) : (if ((s.eng n).phase = .held && r.stops.spanLoss) = true then s.endWork n
    else if (s.stopsNow r && ((s.eng n).phase = .boundary || (s.eng n).phase = .held)) = true then s.stopSpan p r n else s) = s := by
  rw [h.phase, h.goesOn, Bool.false_and, if_neg Bool.false_ne_true]
  exact if_neg (by simp)

/-- A boundary that ends neither a colour nor the sweep is a plain one. -/
theorem AtBoundary.plain (h : AtBoundary s n p r) (he : ¬ (s.eng n).epoch + 1 = r.k) (hc : ¬ r.endsColour p (s.eng n)) :
    s.boundaryStep n false = s.plainBoundary p r n := by
  have hcol : ((r.schedOf p).coloured && r.colourEnds.any (fun q => q.2 = (s.eng n).epoch + 1)) = false :=
    Bool.eq_false_iff.2 (fun k => hc ((AtBoundary.colour_eq p r _).1 k))
  unfold State.boundaryStep
  rw [h.bound]
  dsimp only
  rw [h.running, h.unfenced, if_neg (by decide), h.unstopped, hcol, h.stopped, decide_eq_false he, h.phase]
  rfl

/-- A boundary that ends a colour or the sweep is a flush. -/
theorem AtBoundary.flush (h : AtBoundary s n p r) (hu : (s.eng n).undoSent ≤ (s.eng n).epoch) {flush : Bool}
    (hf : (flush = true ∧ ((s.eng n).epoch + 1 = r.k ∨ r.endsColour p (s.eng n))) ∨
      (r.endsColour p (s.eng n) ∧ ¬ (s.eng n).epoch + 1 = r.k)) :
    s.boundaryStep n flush = s.flushApply p r n (s.eng n).epoch := by
  have hany : (s.liveOf r).any (fun m => (s.eng m).stopped) = false := by
    rw [List.any_eq_false]
    intro m hm
    have e := List.all_eq_true.1 h.others m hm
    simpa using e
  have hends : (s.eng n).epoch + 1 = r.k ∨ r.endsColour p (s.eng n) := by
    rcases hf with hf | hf
    · exact hf.2
    · exact .inr hf.1
  have hlast : s.flushLast p r n = some (s.eng n).epoch := by
    unfold State.flushLast
    dsimp only
    rw [h.phase, if_neg (by decide), hany, if_neg Bool.false_ne_true]
    by_cases he : (s.eng n).epoch + 1 = r.k
    · exact if_pos he
    · exact (if_neg he).trans (if_pos ((AtBoundary.colour_eq p r _).2 (hends.resolve_left he)))
  have hstep : s.flushStep p r n = s.flushApply p r n (s.eng n).epoch := by
    unfold State.flushStep
    rw [hlast]
    dsimp only
    rw [h.phase]
    dsimp only
    exact if_neg (by omega)
  have h1 : (decide ((s.eng n).epoch + 1 = r.k) || (s.eng n).stopped
      || ((r.schedOf p).coloured && r.colourEnds.any (fun q => q.2 = (s.eng n).epoch + 1))) = true := by
    rw [h.stopped, Bool.or_false, Bool.or_eq_true, decide_eq_true_eq, AtBoundary.colour_eq]
    exact hends
  have h2 : (flush || ((r.schedOf p).coloured && r.colourEnds.any (fun q => q.2 = (s.eng n).epoch + 1)
      && !(decide ((s.eng n).epoch + 1 = r.k) || (s.eng n).stopped))) = true := by
    rw [h.stopped, Bool.or_false, Bool.or_eq_true, Bool.and_eq_true, AtBoundary.colour_eq, Bool.not_eq_true', decide_eq_false_iff_not]
    exact hf.imp_left And.left
  unfold State.boundaryStep
  rw [h.bound]
  dsimp only
  rw [h.running, h.unfenced, if_neg (by decide), h.unstopped, if_pos h1, if_pos h2, h.phase, if_neg (by decide), hstep]

/-- A plain boundary whose records are not all there waits. -/
theorem State.plainBoundary_waits {b : Nat} (hb : b = max (r.segment (s.eng n).epoch).1 ((s.eng n).epoch + 1 - (r.schedOf p).lag))
    (ht : ¬ s.recordsThere p r n b) : s.plainBoundary p r n = s := by
  unfold State.plainBoundary
  dsimp only
  rw [← hb]
  exact if_pos (by simpa [State.recordsThere_iff] using fun h => ht (State.recordsThere_iff.1 h))

theorem State.plainBoundary_ends {b : Nat} (hb : b = max (r.segment (s.eng n).epoch).1 ((s.eng n).epoch + 1 - (r.schedOf p).lag))
    (ht : s.recordsThere p r n b) (he : s.endsAt p r n b = true) : s.plainBoundary p r n = s.endWork n := by
  unfold State.plainBoundary
  dsimp only
  rw [← hb, State.recordsThere_iff.2 ht, if_neg (by decide), if_pos he]

/-- A plain boundary that applies what is there. -/
theorem State.plainBoundary_applies {b : Nat} (hb : b = max (r.segment (s.eng n).epoch).1 ((s.eng n).epoch + 1 - (r.schedOf p).lag))
    (ht : s.recordsThere p r n b) (he : s.endsAt p r n b = false) {t : State} {d : SpanData} {undos : List FlipRec}
    (ha : s.applyEpochs p r n (max (s.eng n).applied b) ((s.eng n).epoch + 1) false = (t, d, some undos)) {u : State}
    (hu : u = t.modEng n (fun g => { g with epochRecs := g.epochRecs ++ undos })) : s.plainBoundary p r n =
    if r.remapAt b then u.modEng n (fun g => { g with phase := .held }) else if u.logFull p r n then u else u.nextEpoch p r n := by
  unfold State.plainBoundary
  dsimp only
  rw [← hb, State.recordsThere_iff.2 ht, if_neg (by decide), he, if_neg Bool.false_ne_true, ha, hu]

/-- The next epoch, where it has blocks. -/
theorem State.nextEpoch_more (h : r.epochBlocksOf p n ((s.eng n).epoch + 1) ≠ []) :
    s.nextEpoch p r n = s.modEng n (fun g => { g with phase := .deciding, epoch := g.epoch + 1, pos := 0 }) := by
  have hlen : ¬ (r.epochBlocksOf p n ((s.eng n).epoch + 1)).length ≤ 0 := by
    have k := List.length_pos_of_ne_nil h
    omega
  unfold State.nextEpoch State.endEpochIfDone
  dsimp only
  rw [State.eng, State.span_modEng_self]
  exact if_neg (by rw [decide_eq_false hlen, Bool.and_false]; decide)

/-- What has been logged fills the flip log, whatever waits to be sent. -/
theorem State.logFull_congr {t u : State} (hf : u.flt = t.flt) (ha : ∀ k, (u.eng k).applied = (t.eng k).applied)
    (hl : (u.eng n).data.log = (t.eng n).data.log) : u.logFull p r n = t.logFull p r n := by
  have hlive : u.liveOf r = t.liveOf r := by simp only [State.liveOf, State.spanFenced, hf]
  unfold State.logFull
  simp only [hlive, ha, hl]

/-- A flush at whose boundary the span ends. -/
theorem State.flushApply_ends {last : Nat} (he : s.endsAt p r n (last + 1) = true) : s.flushApply p r n last = s.endWork n := if_pos he

/-- A flush waits for the records of every epoch, and at the end of a sweep for the sweep ends of the other parts. -/
theorem State.flushApply_waits {last : Nat} (he : s.endsAt p r n (last + 1) = false) (hs : (s.eng n).stopped = false)
    (h : ¬ s.recordsThere p r n (last + 1) ∨ (s.recordsThere p r n (last + 1) ∧ (s.eng n).epoch + 1 = r.k ∧ s.partsSwept p r n = false)) :
    s.flushApply p r n last = s := by
  unfold State.flushApply
  dsimp only
  rw [he, if_neg Bool.false_ne_true, hs, Bool.and_false, if_neg Bool.false_ne_true]
  rcases h with h | ⟨h, hk, hp⟩
  · exact if_pos (by simpa [State.recordsThere_iff] using fun k => h (State.recordsThere_iff.1 k))
  · rw [State.recordsThere_iff.2 h, if_neg (by decide), hp, decide_eq_true hk, if_pos (by decide)]

/-- An engine that has made the first part of a flush of the epochs from `from_` to `last`. -/
def Engine.undoing (g : Engine) (start : SpanData) (from_ last : Nat) : Engine :=
  { g with phase := .undoing, unitStart := some start, flushFrom := from_, data := markFlush (last + 1) g.data }

/-- A flush that applies every epoch that is left, and sends the undo epoch. -/
theorem State.flushApply_applies {last : Nat} (he : s.endsAt p r n (last + 1) = false) (hs : (s.eng n).stopped = false)
    (ht : s.recordsThere p r n (last + 1)) (hp : (s.eng n).epoch + 1 = r.k → s.partsSwept p r n = true) {t : State} {d : SpanData}
    {undos : List FlipRec} (ha : s.applyEpochs p r n (last + 1) (last + 1) true = (t, d, some undos)) : s.flushApply p r n last =
    (t.modEng n (fun g => g.undoing d (s.eng n).applied last)).sendEpoch p r n last true undos false := by
  have hsw : ¬ (decide ((s.eng n).epoch + 1 = r.k) && !s.partsSwept p r n) = true := by
    by_cases hk : (s.eng n).epoch + 1 = r.k
    · rw [hp hk, Bool.not_true, Bool.and_false]
      exact Bool.false_ne_true
    · rw [decide_eq_false hk, Bool.false_and]
      exact Bool.false_ne_true
  unfold State.flushApply
  dsimp only
  rw [he, if_neg Bool.false_ne_true, hs, Bool.and_false, if_neg Bool.false_ne_true, State.recordsThere_iff.2 ht, if_neg (by decide), if_neg hsw, ha]
  rfl

/-- Records that go to other parts wait in the system side of the run. -/
theorem State.exportRecs_only (t : State) (p : Problem) (r : Run) (n epoch : Nat) (undo : Bool) (recs : List FlipRec) :
    { t.exportRecs p r n epoch undo recs with runs := t.runs } = t ∧ State.RunOnly r.problem t (t.exportRecs p r n epoch undo recs) := by
  refine ⟨?_, State.RunOnly.refl.exportRecs p rfl n epoch undo recs⟩
  unfold State.exportRecs
  split
  · rfl
  · rfl

/-- The messages of an epoch turn on the span's e_f and e_z. -/
theorem State.epochMsgs_modEng (t : State) (f : Engine → Engine) (h : (f (t.eng n)).ef = (t.eng n).ef ∧ (f (t.eng n)).data.ez = (t.eng n).data.ez)
    (epoch : Nat) (undo : Bool) (recs : List FlipRec) (limit : Bool) :
    (t.modEng n f).epochMsgs p r n epoch undo recs limit = t.epochMsgs p r n epoch undo recs limit := by
  have hm : (t.modEng n f).flitMask p r n = t.flitMask p r n := rfl
  have he : (t.modEng n f).eng n = f (t.eng n) := congrArg Span.eng (State.span_modEng_self t n f)
  unfold State.epochMsgs
  rw [hm, he, h.1, h.2]

/-- An engine that has sent the undo epoch after `last`. -/
def Engine.undoSent_ (g : Engine) (last : Nat) (msgs : List Vc1Msg) : Engine :=
  { g with sentEf := g.ef, inject := g.inject ++ msgs, kept := g.kept ++ msgs, undoSent := last + 1 }

/-- What the undo epoch leaves, when it has been sent. -/
theorem State.sendUndo_takes (t : State) (p : Problem) (r : Run) (n last : Nat) (undos : List FlipRec) (start : SpanData) (from_ : Nat)
    {u : State} (hu : u = (t.modEng n (fun g => g.undoing start from_ last)).sendEpoch p r n last true undos false) :
    (∀ k, k ≠ r.problem → u.run k = t.run k) ∧ SpanOnly t { u with runs := t.runs } n { t.span n with
      eng := ((t.eng n).undoing start from_ last).undoSent_ last (t.epochMsgs p r n last true undos false) } := by
  have hm : (t.modEng n (fun g => g.undoing start from_ last)).epochMsgs p r n last true undos false =
      t.epochMsgs p r n last true undos false := State.epochMsgs_modEng t _ ⟨rfl, rfl⟩ last true undos false
  have e : u = ((t.modEng n (fun g => g.undoing start from_ last)).modEng n (fun g =>
      g.undoSent_ last (t.epochMsgs p r n last true undos false))).exportRecs p r n last true undos := by
    rw [hu, ← hm]
    rfl
  have hs := (SpanOnly.modEng t n (fun g => g.undoing start from_ last)).trans (SpanOnly.modEng _ n (fun g =>
      g.undoSent_ last (t.epochMsgs p r n last true undos false)))
  generalize (t.modEng n (fun g => g.undoing start from_ last)).modEng n (fun g =>
      g.undoSent_ last (t.epochMsgs p r n last true undos false)) = v at e hs
  obtain ⟨hrest, honly⟩ := v.exportRecs_only p r n last true undos
  rw [← e] at hrest honly
  have hspan (m : Nat) : u.span m = v.span m := by
    have k := congrArg (fun w : State => w.span m) hrest
    exact k
  have hruns : v.runs = t.runs := by
    have k := congrArg State.runs hs.rest
    exact k
  refine ⟨fun k hk => (honly.others k hk).trans (State.run_congr hruns k), (hspan n).trans (hs.here.trans ?_), fun m hm => (hspan m).trans (hs.others m hm), ?_⟩
  · rw [State.eng, State.span_modEng_self]
  have k := congrArg (fun w : State => ({ w with runs := t.runs, spans := t.spans } : State)) hrest
  have k' := congrArg (fun w : State => ({ w with runs := t.runs } : State)) hs.rest
  exact k.trans k'

end

/-! ### The obligation -/

/-- Settles O57: what reaches a span, and its boundaries one case each. -/
theorem recordsAndBoundaries : Obligations.RecordsAndBoundaries := by
  unfold Obligations.RecordsAndBoundaries
  refine ⟨?arrives, ?injects, ?boundaries⟩
  case arrives =>
    intro n s before after m hr hv hd hb hh pick hp mesh taken g
    have flit (hs : m.src = pick.source.val) (hk : m.body.isMarker = false) : exec (.spanFlipFlit n pick) s =
        .next (({ s with mesh := mesh } : State).deliverVc1 n.val m.src m.body).carryOn := by
      refine congrArg Host.Outcome.next ((if_pos hr).trans ?_)
      rw [← hs]
      refine State.arriveVc1_first hv hd hb hh (by rw [hk]; rfl) ?_
      by_cases hn : pick.newest = true
      · rw [hp hn]
        simp
      · simp [hn]
    have marker (src : Fin 16) (hs : m.src = src.val) (hk : m.body.isMarker = true) : exec (.spanEpochMarker n src) s =
        .next (({ s with mesh := mesh } : State).deliverVc1 n.val m.src m.body).carryOn := by
      refine congrArg Host.Outcome.next ((if_pos hr).trans ?_)
      rw [← hs]
      exact State.arriveVc1_first hv hd hb hh hk rfl
    have stays {i : Instr} (he : exec i s = .next (({ s with mesh := mesh } : State)).carryOn) : taken i g :=
      ⟨_, he, rfl, rfl, fun _ _ => rfl, rfl⟩
    have takes {i : Instr} {f : Engine → Engine} (he : exec i s = .next ((({ s with mesh := mesh } : State).modEng n.val f)).carryOn) :
        taken i (f g) := by
      have h := SpanOnly.modEng ({ s with mesh := mesh } : State) n.val f
      refine ⟨_, he, rfl, h.here, h.others, ?_⟩
      have e := congrArg (fun w : State => ({ w with mesh := s.mesh } : State)) h.rest
      exact e
    refine ⟨?fenced, fun hf => ⟨?batch, ?flit, ?mark⟩⟩
    case fenced =>
      intro hf i hi u
      rcases hi with ⟨hs, hk, rfl⟩ | ⟨src, hs, hk, rfl⟩
      · rw [flit hs hk, State.deliverVc1_fenced (s := { s with mesh := mesh }) hf]
        rfl
      · rw [marker src hs hk, State.deliverVc1_fenced (s := { s with mesh := mesh }) hf]
        rfl
    case batch =>
      intro epoch undo part seq seen first ef recs hs h16 hm
      have e := flit hs (by rw [hm]; rfl)
      rw [State.deliverVc1_link (s := { s with mesh := mesh }) hf h16, hm] at e
      exact takes e
    case flit =>
      intro run undo seq recs hs h16 hm i
      have e := flit hs (by rw [hm]; rfl)
      refine ⟨fun h0 => ?_, ?own, fun r h1 hn hne => ?_, ?buddy⟩
      case own =>
        intro r h1 hn k old
        rw [State.deliverVc1_run (s := { s with mesh := mesh }) hf h16 h1 hn, hm] at e
        obtain ⟨k1, k2⟩ := Engine.receive_flit (g := g) (n := n.val) (src := m.src) (base := r.sweep * r.k) (run := run) (undo := undo) seq recs
        exact ⟨fun ho => k1 ho ▸ takes e, fun ho => k2 ho ▸ takes e⟩
      case buddy =>
        intro r h1 hn hb y hy
        rw [State.deliverVc1_buddy (s := { s with mesh := mesh }) hf h16 h1 hn hb _ hy] at e
        exact takes e
      · rw [State.deliverVc1_none (s := { s with mesh := mesh }) hf h16 h0] at e
        exact stays e
      · rw [State.deliverVc1_other (s := { s with mesh := mesh }) hf h16 h1 hn hne] at e
        exact stays e
    case mark =>
      intro src run undo counts ef ez limit hs hm r h1 hn k old
      have e := marker src hs (by rw [hm]; rfl)
      rw [hs, State.deliverVc1_run (s := { s with mesh := mesh }) hf src.isLt h1 hn, hm] at e
      obtain ⟨k1, k2⟩ := Engine.receive_marker (g := g) (n := n.val) (src := src.val) (base := r.sweep * r.k) (run := run) (undo := undo)
        counts ef ez limit
      exact ⟨fun ho => k1 ho ▸ takes e, fun ho => k2 ho ▸ takes e⟩
  case injects =>
    intro n src s before after m hr hv hd hb hn hs t
    have hrt : t.running = true := by
      have W : SpanWork (fun u => u.running = true) := ⟨fun _ h => h, fun _ h => h⟩
      exact W.injectFirst hr src.val _
    refine ⟨?_, fun hk => ?_⟩
    · intro hk newest i
      refine congrArg Host.Outcome.next ((if_pos hr).trans (Eq.trans ?_ (if_pos hrt).symm))
      have hgen : t.mesh.generation = s.mesh.generation := by
        dsimp only [t]
        unfold State.injectFirst
        dsimp only
        split
        · rfl
        · rfl
      rw [hgen]
      exact State.arriveVc1_inject src.isLt hv hd hb hn hs (by rw [hk]; rfl) (by simp)
    · refine congrArg Host.Outcome.next ((if_pos hr).trans (Eq.trans ?_ (if_pos hrt).symm))
      exact State.arriveVc1_inject src.isLt hv hd hb hn hs hk rfl
  case boundaries =>
    intro n s p r hr hu hbd hst hall g hph hstop ends colour there ended
    have h : AtBoundary s n.val p r := ⟨hr, hu, hbd, hst, hall, hph, hstop⟩
    have step (flush : Bool) : (if (s.boundRun n.val).isSome then (s.boundaryStep n.val flush).carryOn else s) =
        (s.boundaryStep n.val flush).carryOn := if_pos (by rw [hbd]; rfl)
    have work : ended (s.endWork n.val) := s.endWork_only n.val
    refine ⟨?plain, ?flush⟩
    case plain =>
      intro he hc b i
      have e : exec i s = .next (s.plainBoundary p r n.val).carryOn :=
        congrArg Host.Outcome.next ((step false).trans (congrArg State.carryOn (h.plain he hc)))
      refine ⟨fun ht => ?_, fun ht hx => ?_, ?applies⟩
      case applies =>
        intro ht hx t d undos ha goes
        rw [State.plainBoundary_applies rfl ht hx ha rfl] at e
        have hu := SpanOnly.modEng t n.val (fun g => { g with epochRecs := g.epochRecs ++ undos })
        have hlog : (t.modEng n.val (fun g => { g with epochRecs := g.epochRecs ++ undos })).logFull p r n.val = t.logFull p r n.val := by
          refine State.logFull_congr rfl (fun k => ?_) ?_
          · rw [State.eng, State.span_modEng]
            split
            · next h => rw [h]
            · rfl
          · rw [State.eng, State.span_modEng_self]
        rw [hlog] at e
        have more (f : Engine → Engine) := hu.trans (SpanOnly.modEng (t.modEng n.val (fun g => { g with epochRecs := g.epochRecs ++ undos })) n.val f)
        refine ⟨fun hm => ?_, fun hm hl => ?_, fun hm hl hb => ?_⟩
        · rw [if_pos hm] at e
          refine ⟨_, e, ?_⟩
          have k := more (fun g => { g with phase := .held })
          rw [State.eng, State.span_modEng_self] at k
          exact k
        · rw [if_neg (by rw [hm]; decide), if_pos hl] at e
          exact ⟨_, e, hu⟩
        · rw [if_neg (by rw [hm]; decide), if_neg (by rw [hl]; decide), State.nextEpoch_more] at e
          · refine ⟨_, e, ?_⟩
            have k := more (fun g => { g with phase := .deciding, epoch := g.epoch + 1, pos := 0 })
            rw [State.eng, State.span_modEng_self] at k
            exact k
          · rw [State.eng, State.span_modEng_self]
            exact hb
      · rw [State.plainBoundary_waits rfl ht] at e
        exact e
      · rw [State.plainBoundary_ends rfl ht hx] at e
        exact ⟨_, e, work⟩
    case flush =>
      intro hun i hi b
      have e : exec i s = .next (s.flushApply p r n.val g.epoch).carryOn := by
        rcases hi with ⟨rfl, hf⟩ | ⟨rfl, hc, hne⟩
        · exact congrArg Host.Outcome.next ((step true).trans (congrArg State.carryOn (h.flush hun (.inl ⟨rfl, hf⟩))))
        · exact congrArg Host.Outcome.next ((step false).trans (congrArg State.carryOn (h.flush hun (.inr ⟨hc, hne⟩))))
      refine ⟨fun hx => ?_, fun hx ht => ?_, fun hx ht he hp => ?_, ?applies⟩
      case applies =>
        intro hx ht hp t d undos ha msgs
        rw [State.flushApply_applies hx hstop ht hp ha] at e
        exact ⟨_, e, State.sendUndo_takes t p r n.val g.epoch undos d g.applied rfl⟩
      · rw [State.flushApply_ends hx] at e
        exact ⟨_, e, work⟩
      · rw [State.flushApply_waits hx hstop (.inl ht)] at e
        exact e
      · rw [State.flushApply_waits hx hstop (.inr ⟨ht, he, hp⟩)] at e
        exact e

end Sys2Proof.Machine
end

section
/-! PROOFS. The visits of blocks in a sweep.
-/

namespace Sys2Proof.Machine

/-! ### States that differ in their runs -/

/-- The work of a function on the spans does not turn on the runs, and leaves them. -/
def RunsApart (f : State → State) : Prop := ∀ (a : State) (x : List Run), f { a with runs := x } = { f a with runs := x }

namespace RunsApart

variable {f g : State → State}

theorem comp (hg : RunsApart g) (hf : RunsApart f) : RunsApart (fun t => g (f t)) := fun a x =>
  (congrArg g (hf a x)).trans (hg (f a) x)

theorem foldl {α : Type} {f : State → α → State} (h : ∀ a, RunsApart (fun t => f t a)) (l : List α) : RunsApart (fun t => l.foldl f t) := by
  induction l with
  | nil => exact fun _ _ => rfl
  | cons a l ih => exact comp ih (h a)

theorem modSpan (n : Nat) (f : Span → Span) : RunsApart (fun t => t.modSpan n f) := fun _ _ => rfl

theorem modEng (n : Nat) (f : Engine → Engine) : RunsApart (fun t => t.modEng n f) := fun _ _ => rfl

theorem runs (h : RunsApart f) (t : State) : (f t).runs = t.runs := by
  have e : f t = { f t with runs := t.runs } := h t t.runs
  rw [e]

end RunsApart

theorem runsApart_fieldsWritten (n : Nat) (b : BlockRow) : RunsApart (fun t => t.fieldsWritten n b) := RunsApart.modSpan n _

theorem runsApart_loadTile (p : Problem) (n : Nat) (b : BlockRow) : RunsApart (fun t => t.loadTile p n b) := by
  intro a x
  simp only [State.loadTile]
  split
  · rfl
  · rfl

/-- Changes that are committed to other spans. -/
theorem runsApart_commitFar (r : Run) (n : Nat) : RunsApart (fun t => t.commitFar r n) := by
  intro a x
  simp only [State.commitFar]
  by_cases h : (a.eng n).data.far.isEmpty = true
  · have h' : (State.eng { a with runs := x } n).data.far.isEmpty = true := h
    rw [if_pos h, if_pos h']
  · have h' : ¬ (State.eng { a with runs := x } n).data.far.isEmpty = true := h
    rw [if_neg h, if_neg h']
    refine (RunsApart.modEng n _).comp (RunsApart.foldl (fun q => ?_) _) a x
    intro c y
    dsimp only
    cases findSlot r.blocks (q.1 / 256) (q.1 % 256) with
    | none => rfl
    | some z =>
      dsimp only
      split
      · rfl
      · rfl

/-- `u` is `t` but for its run of slot `q`, which is `x`. -/
structure Visited (t u : State) (q : Nat) (x : Run) : Prop where
  rest : { u with runs := t.runs } = t
  own : u.run q = some x
  others : ∀ k, k ≠ q → u.run k = t.run k

namespace Visited

variable {t u : State} {q : Nat} {x : Run}

theorem refl (h : t.run q = some x) : Visited t t q x := ⟨rfl, h, fun _ _ => rfl⟩

/-- Work on the spans on either side. -/
theorem work {f : State → State} (hf : RunsApart f) (h : Visited t u q x) : Visited (f t) (f u) q x := by
  have e : { f u with runs := t.runs } = f t := (hf u t.runs).symm.trans (congrArg f h.rest)
  refine ⟨by rw [hf.runs t]; exact e, (State.run_congr (hf.runs u) q).trans h.own, fun k hk => ?_⟩
  rw [State.run_congr (hf.runs u), h.others k hk, State.run_congr (hf.runs t)]

/-- A change of the run. -/
theorem modRun {f : Run → Run} (hf : ∀ y, (f y).problem = y.problem) (h : Visited t u q x) : Visited t (u.modRun q f) q (f x) :=
  ⟨h.rest, State.run_modRun hf h.own, fun k hk => (State.run_modRun_ne hf hk).trans (h.others k hk)⟩

theorem eng (h : Visited t u q x) (n : Nat) : u.eng n = t.eng n := by
  have e : State.eng { u with runs := t.runs } n = t.eng n := by rw [h.rest]
  exact e

theorem span (h : Visited t u q x) (n : Nat) : u.span n = t.span n := by
  have e : State.span { u with runs := t.runs } n = t.span n := by rw [h.rest]
  exact e

theorem time (h : Visited t u q x) : u.time = t.time := by
  have e : State.time { u with runs := t.runs } = t.time := by rw [h.rest]
  exact e

theorem spansRest (h : Visited t u q x) : { u with spans := t.spans, runs := t.runs } = t :=
  congrArg (fun y : State => { y with spans := t.spans }) h.rest

theorem takes (h : Visited t u q x) : (∀ m, u.span m = t.span m) ∧ u.run q = some x ∧ (∀ k, k ≠ q → u.run k = t.run k) ∧
    { u with spans := t.spans, runs := t.runs } = t := ⟨h.span, h.own, h.others, h.spansRest⟩

end Visited

/-! ### The parts of a visit -/

/-- A run that has read a lost granule stops as under QSTOP. -/
def Run.stopping (x : Run) (p : Problem) (b : BlockRow) (lost : List (Tier × Nat)) : Run :=
  if p.readsLost lost b.vars b.replica then { x with stops := { x.stops with stop := true } } else x

theorem Visited.stopIfLost {t u : State} {x : Run} {r : Run} (h : Visited t u r.problem x) (p : Problem) (b : BlockRow) (lost : List (Tier × Nat)) :
    Visited t (u.stopIfLost p r b lost) r.problem (x.stopping p b lost) := by
  unfold State.stopIfLost Run.stopping
  split
  · exact h.modRun (fun _ => rfl)
  · exact h

/-- A run at its first block. -/
def Run.beginning (r : Run) (s : State) : Run :=
  if r.begun then r else { r with begun := true, startTick := s.now, startSec := s.time.sec, startSub := s.time.sub }

theorem State.noteFirstBlock_takes {s : State} {r : Run} (h : s.run r.problem = some r) :
    Visited s (s.noteFirstBlock r) r.problem (r.beginning s) := by
  unfold State.noteFirstBlock Run.beginning
  split
  · exact .refl h
  · exact (Visited.refl h).modRun (f := fun y => { y with begun := true, startTick := s.now, startSec := s.time.sec, startSub := s.time.sub })
      (fun _ => rfl)

theorem State.noteFirstBlock_lost (s : State) (r : Run) (p : Problem) : (s.noteFirstBlock r).lostGranules p = s.lostGranules p := by
  unfold State.noteFirstBlock
  split
  · rfl
  · rfl

theorem Env.unit_ok {α : Type} (e : Env) {f : Int → SpanData → Try α} {ef : Int} {d : SpanData} {a : α} (h : f ef d = .ok a) :
    e.unit f unitTries ef d = (ef, d, some a) := by
  unfold unitTries Env.unit
  rw [h]

section
variable {s : State} {p : Problem} {r : Run} {n : Nat} {b : BlockRow}

/-- The engine whose block ends with the part `w`. -/
def Engine.blockEnds (g : Engine) (ef : Int) (w : Work) (recs : List FlipRec) : Engine :=
  { g with ef := ef, data := w.d, cont := none, unitStart := none, blockRecs := [], epochRecs := g.epochRecs ++ recs ++ w.recs, pos := g.pos + 1 }

/-- The engine whose block goes on in a continuation. -/
def Engine.blockGoes (g : Engine) (b : BlockRow) (start : SpanData) (ef : Int) (w : Work) (rest : List Nat) (recs : List FlipRec) : Engine :=
  { g with ef := ef, data := w.d, cont := some ⟨b.num, rest⟩, unitStart := some start, blockRecs := recs ++ w.recs }

theorem State.afterBlock_goes (start : SpanData) (ef : Int) (w : Work) {rest : List Nat} (h : rest ≠ []) (recs : List FlipRec) :
    s.afterBlock p r n b start ef w rest recs = s.modEng n (fun g => g.blockGoes b start ef w rest recs) :=
  if_neg (by simpa using h)

/-- What a visit looks at in an engine to see whether its epoch ends. -/
def Engine.place (g : Engine) : Nat × Nat × EngPhase × Option Cont := (g.epoch, g.pos, g.phase, g.cont)

theorem State.modEng_place (s : State) {f : Engine → Engine} (hf : ∀ g : Engine, (f g).place = g.place) (m n : Nat) :
    ((s.modEng m f).eng n).place = (s.eng n).place := by
  by_cases h : n = m
  · subst h
    rw [State.eng_modEng_self]
    exact hf _
  · exact congrArg (fun x : Span => x.eng.place) (s.span_modSpan_ne _ h)

theorem State.modSpan_eng (s : State) {f : Span → Span} (hf : ∀ x : Span, (f x).eng = x.eng) (m n : Nat) : (s.modSpan m f).eng n = s.eng n := by
  by_cases h : n = m
  · subst h
    exact (congrArg Span.eng (s.span_modSpan_self n f)).trans (hf _)
  · exact congrArg Span.eng (s.span_modSpan_ne f h)

theorem Span.unpoison_eng (x : Span) (array : Nat) (written : Nat → Bool) : (x.unpoison array written).eng = x.eng := by
  unfold Span.unpoison
  split
  · rfl
  · rfl

/-- What is committed to other spans lies in the engines' arrays and a shadow. -/
theorem State.commitFar_place (s : State) (r : Run) (n m : Nat) : ((s.commitFar r n).eng m).place = (s.eng m).place := by
  unfold State.commitFar
  extract_lets far set
  clear_value far set
  split
  · rfl
  · rw [State.modEng_place _ (by intro _; rfl)]
    refine foldl_keep (P := fun t : State => (t.eng m).place = (s.eng m).place) (fun a q ha => ?_) far s rfl
    cases findSlot r.blocks (q.1 / 256) (q.1 % 256) with
    | none => exact ha
    | some z =>
      dsimp only
      refine ite_keep (P := fun t : State => (t.eng m).place = (s.eng m).place) ?_ ?_
      · rw [State.modSpan_eng _ (by intro _; rfl), State.modEng_place _ (by intro _; rfl), ha]
      · rw [State.modEng_place _ (by intro _; rfl), ha]


theorem State.noteBlockEnd_eng (s : State) (q m : Nat) : (s.noteBlockEnd q).eng m = s.eng m := rfl

/-- The end of a block that is not the last of its epoch. -/
def State.blockEnded (s : State) (r : Run) (n : Nat) (b : BlockRow) (f : Engine → Engine) : State :=
  ((s.modEng n f).modSpan n (fun x => x.unpoison 2 (fun k => k = b.num))).commitFar r n

theorem State.blockEnded_place (s : State) (r : Run) (n : Nat) (b : BlockRow) (f : Engine → Engine) :
    ((s.blockEnded r n b f).eng n).place = (f (s.eng n)).place := by
  unfold State.blockEnded
  rw [State.commitFar_place, State.modSpan_eng _ (fun x => x.unpoison_eng _ _), State.eng_modEng_self]

theorem State.blockEnded_time (s : State) (r : Run) (n : Nat) (b : BlockRow) (f : Engine → Engine) :
    (s.blockEnded r n b f).time = s.time := by
  unfold State.blockEnded State.commitFar
  extract_lets far set
  clear_value far set
  split
  · rfl
  · rw [State.modEng_time]
    refine foldl_keep (P := fun t : State => t.time = s.time) (fun a q ha => ?_) far _ rfl
    cases findSlot r.blocks (q.1 / 256) (q.1 % 256) with
    | none => exact ha
    | some z =>
      dsimp only
      exact ite_keep (P := fun t : State => t.time = s.time) ha ha

theorem runsApart_blockEnded (r : Run) (n : Nat) (b : BlockRow) (f : Engine → Engine) : RunsApart (fun t => t.blockEnded r n b f) :=
  (runsApart_commitFar r n).comp ((RunsApart.modSpan n _).comp (RunsApart.modEng n f))

theorem State.afterBlock_ends (hc : (s.eng n).pos + 1 < (r.epochBlocksOf p n (s.eng n).epoch).length) (start : SpanData) (ef : Int)
    (w : Work) (recs : List FlipRec) : s.afterBlock p r n b start ef w [] recs =
      (s.blockEnded r n b (fun g => g.blockEnds ef w recs)).noteBlockEnd r.problem := by
  have hp := s.blockEnded_place r n b (fun g => g.blockEnds ef w recs)
  have ha : s.afterBlock p r n b start ef w [] recs =
      ((s.blockEnded r n b (fun g => g.blockEnds ef w recs)).noteBlockEnd r.problem).endEpochIfDone p r n := by
    unfold State.afterBlock State.blockEnded Engine.blockEnds
    rw [if_pos (show ([] : List Nat).isEmpty = true from rfl)]
  rw [ha]
  generalize s.blockEnded r n b (fun g => g.blockEnds ef w recs) = c at hp ⊢
  have he : (c.eng n).epoch = (s.eng n).epoch := congrArg Prod.fst hp
  have hq : (c.eng n).pos = (s.eng n).pos + 1 := congrArg (fun x => x.2.1) hp
  unfold State.endEpochIfDone
  refine if_neg fun h => ?_
  have hl := of_decide_eq_true ((Bool.and_eq_true _ _).mp h).2
  rw [State.noteBlockEnd_eng, he, hq] at hl
  exact absurd hc (Nat.not_lt.mpr hl)

/-- What the first of the parts of a visit does to the spans. -/
def State.loaded (s : State) (env : Env) (p : Problem) (n : Nat) (b : BlockRow) (g : Engine) : State :=
  if env.refreshDue b g.data then (s.loadTile p n b).fieldsWritten n b else s.loadTile p n b

theorem runsApart_loaded (env : Env) (p : Problem) (n : Nat) (b : BlockRow) (g : Engine) : RunsApart (fun t => t.loaded env p n b g) := by
  intro a x
  unfold State.loaded
  split
  · exact ((runsApart_fieldsWritten n b).comp (runsApart_loadTile p n b)) a x
  · exact runsApart_loadTile p n b a x

theorem State.loadTile_eng (s : State) (p : Problem) (n : Nat) (b : BlockRow) (m : Nat) : (s.loadTile p n b).eng m = s.eng m := by
  unfold State.loadTile
  extract_lets t buf
  split
  · rfl
  · exact State.modSpan_eng _ (by intro _; rfl) n m

theorem State.stopIfLost_eng (s : State) (p : Problem) (r : Run) (b : BlockRow) (lost : List (Tier × Nat)) (m : Nat) :
    (s.stopIfLost p r b lost).eng m = s.eng m := by
  unfold State.stopIfLost
  split
  · rfl
  · rfl

theorem State.stopIfLost_written (s : State) (p : Problem) (r : Run) (b : BlockRow) (lost : List (Tier × Nat)) (n : Nat) :
    (s.fieldsWritten n b).stopIfLost p r b lost = (s.stopIfLost p r b lost).fieldsWritten n b := by
  unfold State.stopIfLost
  split
  · rfl
  · rfl

theorem State.loaded_eng (s : State) (env : Env) (p : Problem) (n : Nat) (b : BlockRow) (g : Engine) (m : Nat) :
    (s.loaded env p n b g).eng m = s.eng m := by
  have hl := s.loadTile_eng p n b m
  unfold State.loaded
  split
  · exact (State.modSpan_eng _ (fun x => x.unpoison_eng _ _) n m).trans hl
  · exact hl

theorem State.loaded_time (s : State) (env : Env) (p : Problem) (n : Nat) (b : BlockRow) (g : Engine) :
    (s.loaded env p n b g).time = s.time := by
  unfold State.loaded State.loadTile
  dsimp only
  split
  · split
    · rfl
    · rfl
  · split
    · rfl
    · rfl

/-- A visit whose first attempt needs no raise. -/
theorem State.visitBlock_ok {env : Env} (he : env = (s.envOf p r n).losing (s.lostGranules p)) {start : SpanData}
    (hs : start = ((s.eng n).unitStart.getD (s.eng n).data).losing p (s.lostGranules p)) {w : Work} {rest : List Nat}
    (hd : env.decideBlock (s.eng n).ef (s.eng n).epoch b (env.laneOrder b) start = .ok (w, rest)) : s.visitBlock p r n b =
      (((s.loaded env env.p n b (s.eng n)).stopIfLost p r b (s.lostGranules p))).afterBlock p r n b start (s.eng n).ef w rest [] := by
  subst he hs
  unfold State.visitBlock
  extract_lets lost env a c g
  have ha : a.eng n = s.eng n := (State.stopIfLost_eng _ p r b lost n).trans (s.loadTile_eng env.p n b n)
  have hc : c = (s.loaded env env.p n b (s.eng n)).stopIfLost p r b lost := by
    rw [show c = if env.refreshDue b (a.eng n).data then a.fieldsWritten n b else a from rfl, ha]
    unfold State.loaded
    split
    · exact (State.stopIfLost_written _ p r b lost n).symm
    · rfl
  have hg : g = s.eng n := by
    rw [show g = c.eng n from rfl, hc, State.stopIfLost_eng, State.loaded_eng]
  clear_value c g
  subst hg hc
  rw [env.unit_ok hd]

end

/-! ### The next block and the part that is due -/

section
variable {s : State} {p : Problem} {r : Run} {n : Nat} {b : BlockRow}

theorem State.boundRun_run (h : s.boundRun n = some (p, r)) : s.run r.problem = some r := by
  unfold State.boundRun at h
  cases hb : (s.span n).bound with
  | none => simp [hb] at h
  | some q =>
    cases hp : s.problem q with
    | none => simp [hb, hp] at h
    | some p' =>
      cases hr : s.run q with
      | none => simp [hb, hp, hr] at h
      | some r' =>
        simp only [hb, hp, hr, Option.some.injEq, Prod.mk.injEq] at h
        obtain ⟨-, rfl⟩ := h
        rw [State.run_problem hr]
        exact hr

theorem State.nextBlock_bound (h : s.nextBlock n = some (p, r, b)) :
    s.boundRun n = some (p, r) ∧ (s.eng n).phase = .deciding ∧ (s.eng n).cont = none := by
  unfold State.nextBlock at h
  cases hb : s.boundRun n with
  | none => simp [hb] at h
  | some x =>
    obtain ⟨p', r'⟩ := x
    simp only [hb] at h
    split at h
    case isTrue hc =>
      obtain ⟨c, -, hx⟩ := Option.map_eq_some_iff.mp h
      simp only [Prod.mk.injEq] at hx
      obtain ⟨rfl, rfl, -⟩ := hx
      simp only [Bool.and_eq_true, decide_eq_true_eq] at hc
      exact ⟨rfl, hc.1.2, Option.isNone_iff_eq_none.mp hc.2⟩
    case isFalse => exact absurd h (by simp)

theorem State.contDue_bound {lanes : List Nat} (h : s.contDue n = some (p, r, b, lanes)) : s.boundRun n = some (p, r) := by
  unfold State.contDue at h
  split at h
  case h_1 x c hb hc =>
    split at h
    case isTrue =>
      obtain ⟨y, -, hx⟩ := Option.map_eq_some_iff.mp h
      simp only [Prod.mk.injEq] at hx
      obtain ⟨rfl, rfl, -⟩ := hx
      exact hb
    case isFalse => exact absurd h (by simp)
  case h_2 => exact absurd h (by simp)

/-- What the first part of a visit makes of its span. -/
theorem State.decideNext_visit (h : s.nextBlock n = some (p, r, b)) (hs : s.stopsNow r = false) {env : Env}
    (he : env = ((s.noteFirstBlock r).envOf p r n).losing (s.lostGranules p)) {start : SpanData}
    (hd : start = ((s.eng n).unitStart.getD (s.eng n).data).losing p (s.lostGranules p)) {w : Work} {rest : List Nat}
    (hw : env.decideBlock (s.eng n).ef (s.eng n).epoch b (env.laneOrder b) start = .ok (w, rest)) :
    ∃ a : State, s.decideNext n = a.afterBlock p r n b start (s.eng n).ef w rest [] ∧
      Visited (s.loaded env env.p n b (s.eng n)) a r.problem ((r.beginning s).stopping p b (s.lostGranules p)) := by
  have hv := State.noteFirstBlock_takes (State.boundRun_run (State.nextBlock_bound h).1)
  refine ⟨_, ?_, (hv.work (runsApart_loaded env env.p n b (s.eng n))).stopIfLost p b (s.lostGranules p)⟩
  have hn : s.decideNext n = (s.noteFirstBlock r).visitBlock p r n b := by
    unfold State.decideNext
    rw [h]
    exact if_neg (by rw [hs]; exact Bool.false_ne_true)
  rw [hn]
  have hx := State.visitBlock_ok (s := s.noteFirstBlock r) (p := p) (r := r) (n := n) (b := b) (env := env) (start := start) (w := w) (rest := rest)
  rw [hv.eng, s.noteFirstBlock_lost r p] at hx
  exact hx he hd hw

/-- The result of a part of a visit that leaves lanes. -/
theorem Visited.goes {t a : State} {x : Run} (h : Visited t a r.problem x) (start : SpanData) (ef : Int) (w : Work) {rest : List Nat}
    (hr : rest ≠ []) (recs : List FlipRec) : Visited (t.modEng n (fun g => g.blockGoes b start ef w rest recs))
      (a.afterBlock p r n b start ef w rest recs) r.problem x := by
  have k := h.work (RunsApart.modEng n (fun g => g.blockGoes b start ef w rest recs))
  rw [State.afterBlock_goes start ef w hr recs]
  exact k

/-- The result of a part of a visit that ends the block. -/
theorem Visited.ends {t a : State} {x : Run} (h : Visited t a r.problem x)
    (hc : (t.eng n).pos + 1 < (r.epochBlocksOf p n (t.eng n).epoch).length) (start : SpanData) (ef : Int) (w : Work) (recs : List FlipRec) :
    Visited (t.blockEnded r n b (fun g => g.blockEnds ef w recs)) (a.afterBlock p r n b start ef w [] recs) r.problem
      { x with lastSec := a.time.sec, lastSub := a.time.sub } := by
  have hk := h.work (runsApart_blockEnded r n b (fun g => g.blockEnds ef w recs))
  rw [← h.eng] at hc
  have e := State.afterBlock_ends (b := b) hc start ef w recs
  have ht := State.blockEnded_time a r n b (fun g => g.blockEnds ef w recs)
  rw [e]
  generalize a.blockEnded r n b (fun g => g.blockEnds ef w recs) = c at hk ht ⊢
  rw [← ht]
  exact hk.modRun (f := fun y => { y with lastSec := c.time.sec, lastSub := c.time.sub }) (fun _ => rfl)

end

/-! ### The end of an epoch leaves the engines but for the logs of their spans -/

/-- An engine without the log of its span. -/
def Engine.unlogged (g : Engine) : Engine := { g with data := { g.data with log := [] } }

theorem Engine.of_unlogged {x g : Engine} (h : x.unlogged = g.unlogged) : { x with data := { x.data with log := g.data.log } } = g := by
  have e : { x.unlogged with data := { x.unlogged.data with log := g.data.log } } = g := by rw [h]; rfl
  exact e

/-- The engines are those of `s` but for the logs. -/
def State.LogsOnly (s t : State) : Prop := ∀ m, (t.eng m).unlogged = (s.eng m).unlogged

section
variable {s t : State}

theorem State.LogsOnly.spans {u : State} (h : s.LogsOnly t) (hu : u.spans = t.spans) : s.LogsOnly u := by
  have e : u.eng = t.eng := by funext m; unfold State.eng State.span; rw [hu]
  unfold State.LogsOnly
  rw [e]
  exact h

theorem linkWork_logsOnly (s : State) : LinkWork s.LogsOnly := ⟨fun _ h => h, fun h => h⟩

theorem State.LogsOnly.modEng (h : s.LogsOnly t) {f : Engine → Engine} (hf : ∀ g, (f g).unlogged = g.unlogged) (n : Nat) :
    s.LogsOnly (t.modEng n f) := by
  intro m
  by_cases e : m = n
  · subst e
    rw [State.eng_modEng_self, hf]
    exact h m
  · exact (congrArg (fun x : Span => x.eng.unlogged) (t.span_modSpan_ne _ e)).trans (h m)

theorem State.LogsOnly.sendRecs (h : s.LogsOnly t) (y : SysDesc) (q part run : Nat) (undo : Bool) (seen : Nat) (ef : Int)
    (recs : List (Nat × FlipRec)) : s.LogsOnly (t.sendRecs y q part run undo seen ef recs) := by
  unfold State.sendRecs
  refine foldl_keep (P := s.LogsOnly) (fun u l hu => ?_) _ t h
  split
  · split
    · refine State.LogsOnly.spans ?_ rfl
      exact (linkWork_logsOnly s).sendBatch (foldl_keep (P := s.LogsOnly) (fun a f ha => ha.modEng (by intro _; rfl) _) _ u hu) _ _ _ _ _ _ _ _ _
    · exact hu
  · exact hu

theorem State.LogsOnly.sendOut (h : s.LogsOnly t) (y : SysDesc) (r : Run) (x : SysRun) (run : Nat) (undo : Bool) :
    s.LogsOnly (t.sendOut y r x run undo) := by
  unfold State.sendOut
  refine State.LogsOnly.spans (foldl_keep (P := s.LogsOnly) (fun u d hu => ?_) _ t h) rfl
  dsimp only
  split
  · exact hu.sendRecs y _ d run undo _ _ _
  · exact foldl_keep (P := s.LogsOnly) (fun v k hv => hv.sendRecs y _ d run undo k _ _) _ _ hu

theorem State.LogsOnly.sendMarkers (h : s.LogsOnly t) (y : SysDesc) (aux : Nat) (m : State → Nat → Marker) (l : List Nat) :
    s.LogsOnly (l.foldl (fun st d => st.sendMarker y d aux (m st d)) t) :=
  foldl_keep (P := s.LogsOnly) (fun u d hu => (linkWork_logsOnly s).sendMarker hu y d aux (m u d)) l t h

theorem State.LogsOnly.closeEpochs (p : Problem) (q fuel : Nat) : ∀ {t : State}, s.LogsOnly t → s.LogsOnly (State.closeEpochs p q fuel t) := by
  induction fuel with
  | zero => exact fun h => h
  | succ fuel ih =>
    intro t h
    unfold State.closeEpochs
    split
    · next y r hy hr =>
      split
      · next x hx =>
        split
        · extract_lets run a counts b c
          have ha : s.LogsOnly a := h.sendOut y r x run false
          clear_value a
          have hb : s.LogsOnly b := by
            dsimp only [b]
            split
            · exact ha.sendMarkers y 0 _ _
            · exact ha
          clear_value b
          have hc : s.LogsOnly c := by
            dsimp only [c]
            split
            · exact hb.sendMarkers y 1 _ _
            · exact hb
          exact ih (hc.spans rfl)
        · exact h
      · exact h
    · exact h

theorem State.LogsOnly.exportRecs (h : s.LogsOnly t) (p : Problem) (r : Run) (n epoch : Nat) (undo : Bool) (recs : List FlipRec) :
    s.LogsOnly (t.exportRecs p r n epoch undo recs) :=
  by
  have e : ({ t.exportRecs p r n epoch undo recs with runs := t.runs } : State).spans = t.spans := by
    rw [(State.exportRecs_only t p r n epoch undo recs).1]
  exact h.spans e

/-- An engine that has sent the records of an epoch. -/
def Engine.epochSent (g : Engine) (msgs : List Vc1Msg) : Engine :=
  { g with sentEf := g.ef, inject := g.inject ++ msgs, kept := g.kept ++ msgs, sent := g.sent + 1, epochRecs := [] }

theorem State.LogsOnly.sendEpoch (t : State) (p : Problem) (r : Run) (n epoch : Nat) (recs : List FlipRec) (limit : Bool) :
    (t.modEng n (fun g => g.epochSent (t.epochMsgs p r n epoch false recs limit))).LogsOnly (t.sendEpoch p r n epoch false recs limit) :=
  State.LogsOnly.closeEpochs p r.problem (r.k + 1) (State.LogsOnly.exportRecs (fun _ => rfl) p r n epoch false recs)

/-- An engine that ends its work at a block boundary, before it sends what it has. -/
def Engine.stopsHere (g : Engine) : Engine :=
  { g with phase := .boundary, stopped := true, cont := none, unitStart := none, blockRecs := [] }

/-- A stop cause at a block boundary ends the epoch of the span (R150). -/
theorem State.stopSpan_deciding {n : Nat} (hp : (s.eng n).phase = .deciding) (p : Problem) (r : Run) :
    let msgs := s.epochMsgs p r n (s.eng n).epoch false ((s.eng n).epochRecs ++ (s.eng n).blockRecs) false
    (s.modEng n (fun g => (g.stopsHere).epochSent msgs)).LogsOnly (s.stopSpan p r n) := by
  intro msgs
  have hw : (s.eng n).sweptAll r = false := by
    unfold Engine.sweptAll
    rw [hp]
    simp
  have hm := State.epochMsgs_modEng (p := p) (r := r) (n := n) (s.takeStops r.problem) Engine.stopsHere ⟨rfl, rfl⟩ (s.eng n).epoch false
    ((s.eng n).epochRecs ++ (s.eng n).blockRecs) false
  have hs := State.LogsOnly.sendEpoch ((s.takeStops r.problem).modEng n Engine.stopsHere) p r n (s.eng n).epoch
    ((s.eng n).epochRecs ++ (s.eng n).blockRecs) false
  rw [hm] at hs
  have e : s.stopSpan p r n = ((s.takeStops r.problem).modEng n Engine.stopsHere).sendEpoch p r n (s.eng n).epoch false
      ((s.eng n).epochRecs ++ (s.eng n).blockRecs) false := by
    unfold State.stopSpan
    dsimp only
    rw [hw, if_neg Bool.false_ne_true]
    exact if_pos hp
  rw [e]
  intro m
  refine (hs m).trans ?_
  by_cases k : m = n
  · subst k
    rw [State.eng_modEng_self, State.eng_modEng_self, State.eng_modEng_self]
    rfl
  · exact (congrArg (fun x : Span => x.eng.unlogged) ((State.span_modSpan_ne _ _ k).trans ((State.span_modSpan_ne _ _ k).trans
      (State.span_modSpan_ne s _ k).symm)))

end

/-! ### The obligation -/

theorem State.modEng_of {s : State} {n : Nat} {f : Engine → Engine} {x : Engine} (h : f (s.eng n) = x) : s.modEng n f = s.modEng n (fun _ => x) := by
  subst h
  rfl

/-- Both bounds of a visited state, in the words of the obligation. -/
theorem Visited.cast {t u a : State} {q : Nat} {x y : Run} (h : Visited t u q x) (ha : t = a) (hx : x = y) : Visited a u q y := by
  subst ha hx
  exact h

theorem State.blockEnded_of {s : State} {r : Run} {n : Nat} {b : BlockRow} {f : Engine → Engine} {x : Engine} (h : f (s.eng n) = x) :
    s.blockEnded r n b f = ((s.modEng n (fun _ => x)).modSpan n (fun y => y.unpoison 2 (fun k => k = b.num))).commitFar r n :=
  congrArg (fun t : State => (t.modSpan n (fun y => y.unpoison 2 (fun k => k = b.num))).commitFar r n) (State.modEng_of h)

/-- The engines of a span that has stopped, in the words of the obligation. -/
theorem State.LogsOnly.at_ {s t : State} {n : Nat} {f : Engine → Engine} (h : (s.modEng n f).LogsOnly t)
    (hf : (f (s.eng n)).data.log = (s.eng n).data.log) (m : Nat) :
    { t.eng m with data := { (t.eng m).data with log := (s.eng m).data.log } } = if m = n then f (s.eng n) else s.eng m := by
  have hm := Engine.of_unlogged (h m)
  by_cases k : m = n
  · subst k
    rw [State.eng_modEng_self, hf] at hm
    rw [if_pos rfl]
    exact hm
  · have e : (s.modEng n f).eng m = s.eng m := congrArg Span.eng (State.span_modSpan_ne s _ k)
    rw [e] at hm
    rw [if_neg k]
    exact hm

theorem State.decideNext_stop {s : State} {n : Nat} {p : Problem} {r : Run} {b : BlockRow} (h : s.nextBlock n = some (p, r, b))
    (hs : s.stopsNow r = true) : s.decideNext n = s.stopSpan p r n := by
  unfold State.decideNext
  rw [h]
  exact if_pos hs

theorem Run.stopping_stops (x r : Run) (h : x.stops = r.stops) (p : Problem) (b : BlockRow) (lost : List (Tier × Nat)) : x.stopping p b lost =
    { x with stops := if p.readsLost lost b.vars b.replica then { r.stops with stop := true } else r.stops } := by
  unfold Run.stopping
  rw [← h]
  split
  · rfl
  · rfl

theorem Run.beginning_stops (r : Run) (s : State) : (r.beginning s).stops = r.stops := by
  unfold Run.beginning
  split
  · rfl
  · rfl

theorem execBlockDecide_takes {n : Fin 16} {s : State} {p0 : Problem} {r0 : Run} {b0 : BlockRow} (h : s.nextBlock n.val = some (p0, r0, b0))
    (events : List MemEvent) : exec (.blockDecide n events) s = .next
      (if (s.memEvents events).lostReads p0 events = [] then (s.memEvents events).decideNext n.val
        else ((s.memEvents events).decideNext n.val).stopRun r0.problem (fun t => { t with stop := true })).carryOn := by
  refine congrArg Host.Outcome.next ((if_pos (by rw [h]; rfl)).trans (congrArg State.carryOn ?_))
  unfold State.decideWith
  rw [h]
  dsimp only
  by_cases hl : (s.memEvents events).lostReads p0 events = []
  · rw [if_pos hl, hl]
    rfl
  · rw [if_neg hl, if_neg (by simpa using hl)]

theorem execContinuation_takes {n : Fin 16} {s : State} {p : Problem} {r : Run} {b : BlockRow} {lanes : List Nat}
    (h : s.contDue n.val = some (p, r, b, lanes)) :
    exec (.continuation n) s = .next (s.continueBlock p r n.val b lanes).carryOn := by
  show execContinuation n s = _
  unfold execContinuation
  rw [h]

section
variable {s : State} {p : Problem} {r : Run} {n : Nat} {b : BlockRow}

/-- A continuation that needs no raise. -/
theorem State.continueBlock_ok {lanes : List Nat} {w : Work} {rest : List Nat}
    (hw : ((s.envOf p r n).losing (s.lostGranules p)).decideBlock (s.eng n).ef (s.eng n).epoch b lanes
      ((s.eng n).data.losing p (s.lostGranules p)) = .ok (w, rest)) : s.continueBlock p r n b lanes =
      (s.stopIfLost p r b (s.lostGranules p)).afterBlock p r n b ((s.eng n).unitStart.getD (s.eng n).data) (s.eng n).ef w rest
        (s.eng n).blockRecs := by
  have he := s.stopIfLost_eng p r b (s.lostGranules p) n
  unfold State.continueBlock
  dsimp only
  rw [he, hw]

/-- A refresh that needs no raise. -/
theorem State.refreshNext_ok (h : s.nextBlock n = some (p, r, b)) {d : SpanData} {env : Env}
    (he : env = (s.envOf p r n).losing (s.lostGranules p)) (hd : env.refreshDue b (s.eng n).data = true)
    (hw : env.testRead (s.eng n).ef b ((s.eng n).data.losing p (s.lostGranules p)) = .ok d) : s.refreshNext n =
      ((s.stopIfLost p r b (s.lostGranules p)).fieldsWritten n b).modEng n (fun x =>
        { x with ef := (s.eng n).ef, data := d, unitStart := some ((s.eng n).data.losing p (s.lostGranules p)) }) := by
  subst he
  unfold State.refreshNext
  rw [h]
  dsimp only
  rw [hd, if_neg (by decide), Env.unit_ok _ hw]

theorem State.refreshNext_none (h : s.nextBlock n = some (p, r, b))
    (hd : ((s.envOf p r n).losing (s.lostGranules p)).refreshDue b (s.eng n).data = false) : s.refreshNext n = s := by
  unfold State.refreshNext
  rw [h]
  dsimp only
  rw [hd]
  exact if_pos rfl

end

/-- Settles O56. -/
theorem blockVisits : Obligations.BlockVisits := by
  unfold Obligations.BlockVisits
  intro n s p r b visited holding deckWritten stopping
  refine ⟨?_, ?_, ?_⟩
  · intro events p0 r0 b0 h0 v hv g lost gone goes env start t began
    obtain ⟨hb, hph, hc⟩ := State.nextBlock_bound hv
    have hgo : goes (v.decideNext n.val) := execBlockDecide_takes h0 events
    refine ⟨fun hs => ?_, fun hs w rest hw => ?_⟩
    · intro msgs
      rw [State.decideNext_stop hv hs] at hgo
      exact ⟨_, hgo, (State.stopSpan_deciding hph p r).at_ rfl⟩
    · obtain ⟨a, ha, hvis⟩ := State.decideNext_visit hv hs (env := env) rfl (start := start) rfl hw
      rw [ha] at hgo
      have hbg : ((r.beginning v).stopping p b gone) = began := Run.stopping_stops _ r (r.beginning_stops v) p b gone
      refine ⟨fun hr => ⟨_, hgo, ((hvis.goes start g.ef w hr []).cast (State.modEng_of ?_) hbg).takes⟩, fun hr hl => ?_⟩
      · rw [State.loaded_eng]
        rfl
      · subst hr
        have ht : (v.loaded env env.p n.val b g).eng n.val = g := v.loaded_eng env env.p n.val b g n.val
        have htime : a.time = v.time := hvis.time.trans (v.loaded_time env env.p n.val b g)
        have hend := hvis.ends (p := p) (n := n.val) (b := b) (by rw [ht]; exact hl) start g.ef w []
        rw [htime, hbg] at hend
        refine ⟨_, hgo, (hend.cast (State.blockEnded_of ?_) rfl).takes⟩
        rw [ht, Engine.blockEnds, List.append_nil, ← hc]
  · intro lanes hl g w rest hw
    have hr := State.boundRun_run (State.contDue_bound hl)
    have hvis : Visited s (s.stopIfLost p r b (s.lostGranules p)) r.problem (stopping r) := (Visited.refl hr).stopIfLost p b (s.lostGranules p)
    have hgo := execContinuation_takes hl
    rw [State.continueBlock_ok hw] at hgo
    refine ⟨fun hne => ⟨_, hgo, (hvis.goes _ g.ef w hne g.blockRecs).takes⟩, fun hne hlen => ?_⟩
    subst hne
    have hend := hvis.ends (p := p) (n := n.val) (b := b) hlen (g.unitStart.getD g.data) g.ef w g.blockRecs
    rw [hvis.time] at hend
    exact ⟨_, hgo, hend.takes⟩
  · intro hv g env data
    obtain ⟨hb, hph, hc⟩ := State.nextBlock_bound hv
    have hgo : exec (.blockRefresh n) s = .next (s.refreshNext n.val).carryOn :=
      congrArg Host.Outcome.next (if_pos (by rw [hv]; rfl))
    refine ⟨fun hd => ?_, fun d hd hw => ?_⟩
    · rw [hgo, State.refreshNext_none hv hd]
    · rw [State.refreshNext_ok hv rfl hd hw] at hgo
      have hvis := ((Visited.refl (State.boundRun_run hb)).stopIfLost p b (s.lostGranules p)).work (runsApart_fieldsWritten n.val b)
      refine ⟨_, hgo, ((hvis.work (RunsApart.modEng n.val _)).cast (State.modEng_of ?_) rfl).takes⟩
      rw [State.fieldsWritten, State.modSpan_eng _ (fun x => x.unpoison_eng _ _)]

end Sys2Proof.Machine
end

section
/-! PROOFS. The operator commands.
-/

namespace Sys2Proof.Machine

/-! ### Work of an operator command -/

/-- `t` with what the work of an operator command may change as it is in `s`. -/
def State.opBack (s t : State) : State :=
  { t with ctxs := s.ctxs, mem := s.mem, poison := s.poison, cxls := s.cxls, spans := s.spans, pcie := s.pcie, mesh := s.mesh, free := s.free }

/-- A span with the counters and flags of another. -/
def Span.flagsOf (x y : Span) : Span := { x with replays := y.replays, tenStatus := y.tenStatus }

/-- The address lies in one of some ranges. -/
def InRanges (out : List (Nat × Nat)) (k : Nat) : Prop := ∃ r, r ∈ out ∧ ∃ i, i < r.2 ∧ k = r.1 + i

/-- `t` is `a` after work of an operator command of context `c` that writes at most `out`. -/
structure OpWork (c : Nat) (batch : Bool) (out : List (Nat × Nat)) (a t : State) : Prop where
  rest : a.opBack t = a
  others : ∀ m, m ≠ c → t.ctx m = a.ctx m
  exec : (t.execOf c batch).isSome = true
  spans : ∀ n, (t.span n).flagsOf (a.span n) = a.span n
  map : a.SameMap t
  memory : ∀ k, a.clearOf out k → memGet t.mem k = memGet a.mem k

theorem State.execOf_modExec (s : State) (c : Nat) (batch : Bool) (f : Exec → Exec) :
    (s.modExec c batch f).execOf c batch = (s.execOf c batch).map f := by
  unfold State.modExec State.execOf
  rw [State.ctx_modCtx_self]
  cases batch with
  | false => rfl
  | true =>
    cases (s.ctx c).batch with
    | none => rfl
    | some x => rfl

theorem State.ctx_modExec_ne (s : State) {c m : Nat} (batch : Bool) (f : Exec → Exec) (h : m ≠ c) : (s.modExec c batch f).ctx m = s.ctx m :=
  State.ctx_modCtx_ne s _ h

namespace OpWork

variable {c : Nat} {batch : Bool} {out : List (Nat × Nat)} {a t : State}

theorem refl (h : (a.execOf c batch).isSome = true) : OpWork c batch out a a :=
  ⟨rfl, fun _ _ => rfl, h, fun _ => rfl, .refl a, fun _ _ => rfl⟩

theorem flt (h : OpWork c batch out a t) : t.flt = a.flt := h.map.fences

theorem pier (h : OpWork c batch out a t) (n : Nat) : t.pier n = a.pier n := by
  have e : ((t.span n).flagsOf (a.span n)).pier = (a.span n).pier := by rw [h.spans n]
  exact e

/-- Work that leaves contexts and spans, and memory outside the output. -/
theorem aside (h : OpWork c batch out a t) {u : State} (hr : t.opBack u = t) (hc : u.ctxs = t.ctxs) (hs : u.spans = t.spans)
    (hk : t.SameMap u) (hm : ∀ k, a.clearOf out k → memGet u.mem k = memGet t.mem k) : OpWork c batch out a u := by
  have hx (m : Nat) : u.ctx m = t.ctx m := by rw [State.ctx, hc, State.ctx]
  have hn (n : Nat) : u.span n = t.span n := by rw [State.span, hs, State.span]
  refine ⟨?_, fun m hne => (hx m).trans (h.others m hne), ?_, fun n => ?_, h.map.trans hk, fun k hcl => ?_⟩
  · have e : a.opBack (t.opBack u) = a.opBack t := by rw [hr]
    exact Eq.trans e h.rest
  · rw [State.execOf, hx, ← State.execOf]
    exact h.exec
  · rw [hn]
    exact h.spans n
  · exact (hm k hcl).trans (h.memory k hcl)

theorem withFree (h : OpWork c batch out a t) (k : Nat) : OpWork c batch out a { t with free := k } :=
  h.aside rfl rfl rfl ⟨rfl, fun _ => rfl, fun _ => rfl, rfl, rfl, rfl⟩ (fun _ _ => rfl)

/-- A change of the command's own state. -/
theorem modExec (h : OpWork c batch out a t) (f : Exec → Exec) : OpWork c batch out a (t.modExec c batch f) := by
  refine ⟨h.rest, fun m hm => (State.ctx_modExec_ne t batch f hm).trans (h.others m hm), ?_, h.spans, ?_, h.memory⟩
  · rw [State.execOf_modExec, Option.isSome_map]
    exact h.exec
  · exact h.map.trans ⟨rfl, fun _ => rfl, fun _ => rfl, rfl, rfl, rfl⟩

/-- A change of a span's counters and flags. -/
theorem modSpan (h : OpWork c batch out a t) {f : Span → Span} (hf : ∀ x y, (f x).flagsOf y = x.flagsOf y) (n : Nat) :
    OpWork c batch out a (t.modSpan n f) := by
  refine ⟨h.rest, h.others, h.exec, fun m => ?_, h.map.trans ⟨rfl, fun _ => rfl, fun _ => rfl, rfl, rfl, rfl⟩, h.memory⟩
  by_cases e : m = n
  · subst e
    rw [State.span_modSpan_self, hf]
    exact h.spans m
  · rw [State.span_modSpan_ne t f e]
    exact h.spans m

/-- A flag of a span that runs no launch. -/
theorem tenFlag (h : OpWork c batch out a t) {n : Nat} (flag : Nat) (hn : (a.pier n).launch = none) : OpWork c batch out a (t.tenFlag n flag) := by
  have hs (u : State) (hu : OpWork c batch out a u) : OpWork c batch out a (u.markSaturated n) := by
    unfold State.markSaturated
    rw [hu.pier, hn]
    exact hu
  have hm : OpWork c batch out a (if t.spanFenced n then t else t.modSpan n (fun x => { x with tenStatus := x.tenStatus ||| (1#5 <<< flag) })) :=
    ite_keep (P := OpWork c batch out a) h (h.modSpan (by intro _ _; rfl) n)
  exact ite_keep (P := OpWork c batch out a) (hs _ hm) hm

theorem tenFlagIf (h : OpWork c batch out a t) {n : Nat} (flag : Nat) (hn : (a.pier n).launch = none) (x : Bool) :
    OpWork c batch out a (t.tenFlagIf n flag x) := ite_keep (P := OpWork c batch out a) (h.tenFlag flag hn) h

/-- What a request leaves behind. -/
theorem noteRequest (h : OpWork c batch out a t) (write : Bool) (x n : Nat) : OpWork c batch out a (t.noteRequest write x n) := by
  have hb (u : State) (k : Nat) (hu : OpWork c batch out a u) : OpWork c batch out a (u.setHerr k) :=
    hu.aside rfl rfl rfl ⟨rfl, fun _ => rfl, fun _ => rfl, rfl, rfl, rfl⟩ (fun _ _ => rfl)
  have hd (u : State) (m : Mesh) (hu : OpWork c batch out a u) : OpWork c batch out a { u with mesh := m } :=
    hu.aside rfl rfl rfl ⟨rfl, fun _ => rfl, fun _ => rfl, rfl, rfl, rfl⟩ (fun _ _ => rfl)
  have hf (u : State) (hu : OpWork c batch out a u) : OpWork c batch out a (u.noteHostFail write x n) := by
    unfold State.noteHostFail
    split
    · exact ite_keep (P := OpWork c batch out a) (hb _ _ hu) hu
    · exact hu
    · exact hu
  unfold State.noteRequest
  extract_lets host u
  have hu : OpWork c batch out a u := hf _ (ite_keep (P := OpWork c batch out a) (hb _ _ h) h)
  clear_value u
  split
  · split
    · exact hu
    · exact hu
    · exact hd _ _ hu
  · exact hu

theorem noteRanges (h : OpWork c batch out a t) (write : Bool) (l : List (Nat × Nat)) : OpWork c batch out a (t.noteRanges write l) :=
  foldl_keep (P := OpWork c batch out a) (fun _ r hu => hu.noteRequest write r.1 r.2) l t h

/-- Bytes that land in the ranges of the output. -/
theorem storeCells (h : OpWork c batch out a t) {l : List (Nat × Byte)} (hl : ∀ x, x ∈ l → InRanges out x.1) :
    OpWork c batch out a (t.storeCells l) := by
  let good := l.filter (fun x => t.byteIo true x.1 = .ok)
  have hb := t.bumpPages_rest (good.map Prod.fst)
  have hk := t.bumpPages_sameMap (good.map Prod.fst)
  have e : t.storeCells l = { t.bumpPages (good.map Prod.fst) with mem := (t.storeCells l).mem, poison := (t.storeCells l).poison } := rfl
  have hmem : (t.storeCells l).mem = t.land t.mem good := rfl
  generalize t.storeCells l = u at e hmem ⊢
  generalize t.bumpPages (good.map Prod.fst) = v at hb hk e
  have hrest : t.opBack u = t := by
    rw [e]
    have k := congrArg (fun y : State => t.opBack y) hb
    exact k
  have hvc : v.ctxs = t.ctxs := by have k := congrArg State.ctxs hb; exact k
  have hvs : v.spans = t.spans := by have k := congrArg State.spans hb; exact k
  have hku : t.SameMap u := by rw [e]; exact ⟨hk.ecc, hk.present, hk.bytes, hk.fences, hk.bme, hk.readFail⟩
  refine h.aside hrest (by rw [e]; exact hvc) (by rw [e]; exact hvs) hku (fun k hcl => ?_)
  rw [hmem]
  refine State.land_other (fun x hx => ?_) t.mem
  obtain ⟨r, hr, i, hi, hxi⟩ := hl x (List.mem_of_mem_filter hx)
  rw [State.cellOf, h.map.target, ← State.cellOf, hxi]
  exact hcl r hr i hi

/-- Consecutive bytes in a range of the output. -/
theorem writeBytes (h : OpWork c batch out a t) {r : Nat × Nat} (hr : r ∈ out) {x : Nat} {l : List Byte} (hx : r.1 ≤ x)
    (hl : x + l.length ≤ r.1 + r.2) : OpWork c batch out a (t.writeBytes x l) := by
  refine (h.storeCells (fun y hy => ?_)).noteRequest true x l.length
  obtain ⟨z, hz, rfl⟩ := List.mem_map.mp hy
  have hi : z.2 < l.length := by
    have := List.mem_zipIdx hz
    omega
  exact ⟨r, hr, x + z.2 - r.1, by omega, by dsimp only; omega⟩

end OpWork

/-! ### Patches -/

section
variable {s : State} {rows cols : Nat} {spans : List Nat}

theorem State.patches_free (s : State) (rows cols : Nat) (spans : List Nat) : ∃ k, (s.patches rows cols spans).2 = { s with free := k } := by
  unfold State.patches
  extract_lets w n
  split
  · exact ⟨s.free, rfl⟩
  · exact ⟨_, rfl⟩

theorem State.patches_mem {p : Patch} (hp : p ∈ (s.patches rows cols spans).1) : p.pj < patchCount cols ∧ p.span ∈ spans := by
  unfold State.patches at hp
  extract_lets w n at hp
  split at hp
  case isTrue => exact absurd hp List.not_mem_nil
  case isFalse he =>
    obtain ⟨k, hk, rfl⟩ := List.mem_map.mp hp
    have hn : k < n := List.mem_range.mp hk
    have hw : 0 < w := Nat.pos_of_ne_zero (fun h0 => by simp [n, h0] at hn)
    have hl : 0 < spans.length := List.length_pos_of_ne_nil (fun h0 => he (by simp [h0]))
    refine ⟨Nat.mod_lt k hw, ?_⟩
    dsimp only
    rw [List.getD_eq_getElem _ _ (Nat.mod_lt _ hl)]
    exact List.getElem_mem _

end

theorem mem_patchIdx {p n l : Nat} (h : l ∈ patchIdx p n) : l < n := by
  obtain ⟨k, hk, rfl⟩ := List.mem_map.mp h
  have := List.mem_range.mp hk
  omega

theorem patchIdx_length (p n : Nat) : (patchIdx p n).length = min 32 (n - 32 * p) := by
  simp [patchIdx, patchSide]

theorem ceilDiv_sub {k n : Nat} (hn : 0 < n) (hk : 0 < k) : ceilDiv (k - n) n + 1 ≤ ceilDiv k n := by
  unfold ceilDiv
  rw [← Nat.add_div_right _ hn]
  by_cases h : n ≤ k
  · exact Nat.div_le_div_right (by omega)
  · have h1 : (k - n + (n - 1) + n) / n < 2 := Nat.div_lt_of_lt_mul (by omega)
    have h2 : 1 ≤ (k + (n - 1)) / n := (Nat.one_le_div_iff hn).mpr (by omega)
    omega

theorem chunks_length {α : Type} {n : Nat} (hn : 0 < n) (fuel : Nat) : ∀ l : List α, (chunks n fuel l).length ≤ ceilDiv l.length n := by
  induction fuel with
  | zero => exact fun _ => Nat.zero_le _
  | succ fuel ih =>
    intro l
    unfold chunks
    split
    · exact Nat.zero_le _
    · next hl =>
      have hp : 0 < l.length := List.length_pos_of_ne_nil (fun h0 => hl (by rw [h0]; rfl))
      have hi := ih (l.drop n)
      rw [List.length_drop] at hi
      exact (Nat.succ_le_succ hi).trans (ceilDiv_sub hn hp)

/-- The exponent bytes of a converted part of a line. -/
theorem Fmt.convert_exps (f : Fmt) (l : List Dy) : (f.convert l).2.1.length ≤ if f.block = 0 then 0 else ceilDiv l.length f.block := by
  unfold Fmt.convert
  split
  · exact Nat.zero_le _
  · split
    · exact Nat.zero_le _
    · next hb =>
      simpa using chunks_length (Nat.pos_of_ne_zero hb) l.length l

/-- The block sizes of the formats (Table 7.1). -/
def Fmt.plain (f : Fmt) : Prop := f.block = 0 ∨ f.block = 16 ∨ f.block = 32

theorem Exec.desc_plain (e : Exec) (off : Nat) : (e.desc off).t.fmt.plain := by
  show ((fmtOf (e.num (off + 0x1C) 1)).getD ⟨1, 0, 0⟩).plain
  generalize e.num (off + 0x1C) 1 = code
  unfold fmtOf
  split <;> simp [Fmt.plain]

/-- The range that a tensor's line takes, without broadcast. -/
def TDesc.written (d : TDesc) : List (Nat × Nat) := ({ d.t with bcast := false } : Tens).ranges d.rows

theorem TDesc.mem_written {d : TDesc} {l k : Nat} (hl : l < d.rows)
    (h : (d.t.data + l * d.t.stride ≤ k ∧ k < d.t.data + l * d.t.stride + lineBytes d.t.fmt d.t.len) ∨
      (d.t.exps + l * expStride d.t.fmt d.t.len ≤ k ∧ k < d.t.exps + l * expStride d.t.fmt d.t.len + expBytes d.t.fmt d.t.len)) :
    InRanges d.written k := by
  have hm : ∀ r ∈ [(d.t.data + l * d.t.stride, lineBytes d.t.fmt d.t.len), (d.t.exps + l * expStride d.t.fmt d.t.len, expBytes d.t.fmt d.t.len)],
      r ∈ d.written := fun r hr => List.mem_flatMap.mpr ⟨l, List.mem_range.mpr hl, hr⟩
  rcases h with ⟨h1, h2⟩ | ⟨h1, h2⟩
  · exact ⟨_, hm _ List.mem_cons_self, k - (d.t.data + l * d.t.stride), by dsimp only; omega, by dsimp only; omega⟩
  · exact ⟨_, hm _ (List.mem_cons_of_mem _ List.mem_cons_self), k - (d.t.exps + l * expStride d.t.fmt d.t.len), by dsimp only; omega,
      by dsimp only; omega⟩

/-- A patch's part of a line lies in the line and its exponents. -/
theorem TDesc.patchCells_written {d : TDesc} (hf : d.t.fmt.plain) {l pj : Nat} (hl : l < d.rows) (hp : pj < patchCount d.t.len)
    {vals : List Dy} (hv : vals.length = min 32 (d.t.len - 32 * pj)) {x : Nat × Byte} (hx : x ∈ (d.t.patchCells l pj vals).1) :
    InRanges d.written x.1 := by
  unfold Tens.patchCells at hx
  extract_lets r off n bytes b at hx
  refine TDesc.mem_written hl ?_
  rcases List.mem_append.mp hx with hx | hx
  · left
    obtain ⟨z, hz, rfl⟩ := List.mem_map.mp hx
    have hi := List.mem_zipIdx hz
    have hn : bytes.length = n := leBytes_length _ _
    have hz : z.2 < n := by omega
    have hlast : pj + 1 ≠ patchCount d.t.len → 32 * (pj + 1) ≤ d.t.len := by
      unfold patchCount ceilDiv patchSide at hp ⊢
      omega
    have hin : off + z.2 < lineBytes d.t.fmt d.t.len := by
      dsimp only [n] at hz
      split at hz
      · omega
      · next hne =>
        have hm := Nat.mul_le_mul_left d.t.fmt.w (hlast hne)
        have ho : off = 4 * (d.t.fmt.w * pj) := Nat.mul_assoc 4 _ _
        rw [Nat.mul_left_comm, Nat.mul_add] at hm
        unfold lineBytes ceilDiv
        omega
    dsimp only
    omega
  · right
    obtain ⟨z, hz, rfl⟩ := List.mem_map.mp hx
    have hi := List.mem_zipIdx hz
    have he : r.2.1.length ≤ _ := Fmt.convert_exps d.t.fmt vals
    have hin : (if d.t.fmt.block = 0 then 0 else patchSide * pj / d.t.fmt.block) + z.2 < expBytes d.t.fmt d.t.len := by
      unfold expBytes
      unfold patchCount patchSide at hp
      unfold ceilDiv at hp he ⊢
      unfold patchSide
      rw [hv] at he
      rcases hf with h0 | h0 | h0
      · rw [if_pos h0] at he
        omega
      · rw [h0] at he ⊢
        rw [if_neg (by decide)] at he ⊢
        rw [if_neg (by decide)]
        omega
      · rw [h0] at he ⊢
        rw [if_neg (by decide)] at he ⊢
        rw [if_neg (by decide)]
        omega
    dsimp only
    omega

/-! ### What the commands write -/

/-- The values of a patch stand in its lines. -/
def PatchVals.fits (v : PatchVals) (z : TDesc) (p : Patch) : Prop :=
  ∀ q, q ∈ v.lines → q.1 < z.rows ∧ q.2.length = min 32 (z.t.len - 32 * p.pj)

/-- Values by line and place of a patch. -/
theorem PatchVals.fits_map (z : TDesc) (p : Patch) (f : Nat → Nat → Dy) (k : Nat) (x : Option Nat) :
    PatchVals.fits ⟨(patchIdx p.pi z.rows).map (fun l => (l, (patchIdx p.pj z.t.len).map (f l))), k, x⟩ z p := by
  intro q hq
  obtain ⟨l, hl, rfl⟩ := List.mem_map.mp hq
  refine ⟨mem_patchIdx hl, ?_⟩
  rw [List.length_map, patchIdx_length]

section
variable {c : Nat} {batch : Bool} {a t : State} {z : TDesc}

theorem OpWork.writePatches (hf : z.t.fmt.plain) {vals : Patch → PatchVals} {ps : List Patch}
    (hp : ∀ p, p ∈ ps → p.pj < patchCount z.t.len ∧ (a.pier p.span).launch = none ∧ (vals p).fits z p) (h : OpWork c batch z.written a t) :
    OpWork c batch z.written a (t.writePatches z ps vals).1 := by
  unfold State.writePatches
  generalize false = x
  induction ps generalizing t x with
  | nil => exact h
  | cons p ps ih =>
    obtain ⟨hpj, hn, hv⟩ := hp p List.mem_cons_self
    rw [List.foldl_cons]
    refine ih (fun q hq => hp q (List.mem_cons_of_mem _ hq)) ?_ _
    dsimp only
    have h1 := h.storeCells (l := ((vals p).lines.map (fun q => z.t.patchCells q.1 p.pj q.2)).flatMap Prod.fst) (fun y hy => by
      obtain ⟨w, hw, hy⟩ := List.mem_flatMap.mp hy
      obtain ⟨q, hq, rfl⟩ := List.mem_map.mp hw
      exact TDesc.patchCells_written hf (hv q hq).1 hpj (hv q hq).2 hy)
    have h2 := (h1.modSpan (f := fun y => { y with replays := satAdd 0xFFFFFFFF y.replays (vals p).replays }) (by intro _ _; rfl) p.span).tenFlagIf
      flagCvtSat hn (((vals p).lines.map (fun q => z.t.patchCells q.1 p.pj q.2)).any Prod.snd)
    cases (vals p).sat with
    | none => exact h2
    | some f => exact h2.tenFlag f hn

/-- The spans of a command that are not fenced run no launch. -/
def State.restingOn (a : State) (spans : List Nat) : Prop := ∀ n, n ∈ spans → a.spanFenced n = false → (a.pier n).launch = none

/-- Spans whose parts failed. -/
def State.failsOf (a : State) (spans fails : List Nat) : Prop :=
  (∀ n, n ∈ fails → n ∈ spans) ∧ ∀ n, n ∈ spans → a.spanFenced n = true → n ∈ fails

theorem OpWork.partFails {out : List (Nat × Nat)} (h : OpWork c batch out a t) (spans : List Nat) (ps : List Patch) (bad : Patch → Bool) :
    a.failsOf spans (t.partFails spans ps bad) := by
  unfold State.partFails
  refine ⟨fun n hn => List.mem_of_mem_filter hn, fun n hn hx => List.mem_filter.mpr ⟨hn, ?_⟩⟩
  have e : t.spanFenced n = true := by rw [State.spanFenced, h.flt]; exact hx
  rw [e, Bool.true_or]

theorem OpWork.tensorCmd (h : OpWork c batch z.written a t) (hf : z.t.fmt.plain) {spans : List Nat} (hs : a.restingOn spans)
    (reads : Patch → List (Nat × Nat)) {vals : State → Patch → PatchVals} (hv : ∀ u p, (vals u p).fits z p) :
    ∃ u fails, t.tensorCmd c batch spans z reads vals = u.finishParts c batch fails ∧ OpWork c batch z.written a u ∧ a.failsOf spans fails := by
  unfold State.tensorCmd
  extract_lets d t₁ bad fails done v t₂ r
  obtain ⟨k, hk⟩ := t.patches_free z.rows z.t.len spans
  have h1 : OpWork c batch z.written a t₁ := by
    rw [show t₁ = (t.patches z.rows z.t.len spans).2 from rfl, hk]
    exact h.withFree k
  have h2 : OpWork c batch z.written a t₂ := foldl_keep (P := OpWork c batch z.written a)
    (fun u p hu => (hu.noteRanges false (reads p)).noteRanges true (z.patchOut p)) _ t₁ h1
  refine ⟨_, _, rfl, OpWork.modExec (h2.writePatches hf (fun p hp => ?_)) _, h1.partFails spans d.1 bad⟩
  obtain ⟨hd, hc⟩ := List.mem_filter.mp hp
  obtain ⟨hj, hn⟩ := State.patches_mem hd
  refine ⟨hj, hs p.span hn ?_, hv t₁ p⟩
  rw [State.spanFenced, ← h1.flt]
  exact Bool.not_eq_true' _ ▸ ((Bool.and_eq_true _ _).mp ((Bool.and_eq_true _ _).mp hc).1).1

/-! ### REDUCE -/

theorem mem_insertKey {x y : Nat × Nat} : ∀ {l : List (Nat × Nat)}, y ∈ insertKey x l → y = x ∨ y ∈ l
  | [], h => .inl (List.mem_singleton.mp h)
  | w :: l, h => by
    unfold insertKey at h
    split at h
    · exact List.mem_cons.mp h
    · rcases List.mem_cons.mp h with h | h
      · exact .inr (h ▸ List.mem_cons_self)
      · exact (mem_insertKey h).imp_right (List.mem_cons_of_mem _)

theorem State.freeOrder_mem {s : State} {spans : List Nat} {n : Nat} (h : n ∈ (s.freeOrder spans).1) : n ∈ spans := by
  have key (l : List (Nat × Nat)) (q : Nat × Nat)
      (hq : q ∈ l.foldr (fun p acc => insertKey ((Config.freeWord (s.free + p.2)).toNat, p.1) acc) []) : ∃ p, p ∈ l ∧ p.1 = q.2 := by
    induction l with
    | nil => exact absurd hq List.not_mem_nil
    | cons p l ih =>
      rcases mem_insertKey hq with hq | hq
      · exact ⟨p, List.mem_cons_self, by rw [hq]⟩
      · obtain ⟨w, hw, e⟩ := ih hq
        exact ⟨w, List.mem_cons_of_mem _ hw, e⟩
  obtain ⟨q, hq, rfl⟩ := List.mem_map.mp h
  obtain ⟨p, hp, e⟩ := key _ q hq
  rw [← e]
  exact (List.mem_zipIdx hp).2.2 ▸ List.getElem_mem _

/-- A span without elements has nothing to round. -/
theorem sumPart_nil (x : TDesc) (rd : Nat → Byte) (eout : Int) : (sumPart x rd eout []).2 = false := by
  have h0 : (Dy.sum []).roundEvenAt eout = 0 := by
    show (if Dy.zero.e ≥ eout then (0 : Int) * _ else roundEvenDiv 0 _) = 0
    split
    · exact Int.zero_mul _
    · simp [roundEvenDiv]
  show (!mantFits 64 ((Dy.sum []).roundEvenAt eout)) = false
  rw [h0]
  decide

theorem State.tenFlagIf_false (s : State) (n flag : Nat) : s.tenFlagIf n flag false = s := rfl

/-- A part of a sum comes from a span that rests, or from a fenced one that has nothing. -/
def State.partFrom (a : State) (q : Nat × Int × Bool) : Prop :=
  (a.pier q.1).launch = none ∨ (a.spanFenced q.1 = true ∧ q.2.2 = false)

theorem State.partFrom_nil {spans : List Nat} (hs : a.restingOn spans) {n : Nat} (hn : n ∈ spans) {v : Int × Bool}
    (hv : a.spanFenced n = true → v.2 = false) : a.partFrom (n, v) := by
  cases hf : a.spanFenced n with
  | false => exact .inl (hs n hn hf)
  | true => exact .inr ⟨hf, hv hf⟩

theorem OpWork.reduceSum {out : List (Nat × Nat)} (h : OpWork c batch out a t) {r : Nat × Nat} (hr : r ∈ out) {x : Nat} (hx : r.1 ≤ x)
    (hl : x + 8 ≤ r.1 + r.2) {parts : List (Nat × Int × Bool)} (hp : ∀ q, q ∈ parts → a.partFrom q) :
    OpWork c batch out a (t.reduceSum c batch x parts) := by
  have hw (u : State) (v : Nat) (hu : OpWork c batch out a u) : OpWork c batch out a (u.writeNat x 8 v) :=
    hu.writeBytes hr hx (by rw [leBytes_length]; exact hl)
  unfold State.reduceSum
  refine List.foldlRecOn parts _ (hw t 0 h) (fun u hu q hq => ?_)
  dsimp only
  refine OpWork.modExec ?_ _
  rcases hp q hq with hn | ⟨hfn, hz⟩
  · exact ((hw u _ hu).tenFlagIf flagCvtSat hn _).tenFlagIf flagAtaddSat hn _
  · rw [hz]
    have hk := hw u (unsignedOf 64 (satSum 64 (intAt (u.readBytes x 8) 0 8) q.2.1).1) hu
    rw [State.tenFlagIf_false]
    refine ite_keep (P := OpWork c batch out a) ?_ hk
    have e : ∀ v : State, OpWork c batch out a v → v.tenFlag q.1 flagAtaddSat = v := by
      intro v hv
      have ev : v.spanFenced q.1 = true := by rw [State.spanFenced, hv.flt]; exact hfn
      unfold State.tenFlag
      rw [ev]
      rfl
    rw [e _ hk]
    exact hk

/-- The effect of REDUCE on the state `t` that holds its descriptor's operands. -/
def State.reduceCmd (t : State) (c : Nat) (b : Bool) (e : Exec) (spans : List Nat) : State :=
  let x := e.desc 0x40
  let op := e.num 0x12 1
  let axis := e.num 0x13 1
  let size := if op = 0 then 8 else 16
  let out := e.num 0x18 8
  let ps := t.patches x.rows x.t.len spans
  let st := ps.2
  let outs (p : Patch) : List (Nat × Nat) :=
    ((x.patchElems p).map (fun q => (reducePlace axis x.t.len q.1 q.2).1)).dedup.map (fun r => (out + size * r, size))
  let bad (p : Patch) : Bool := st.rangesBad false (x.patchIn p) || st.rangesBad true (outs p)
  let fails := st.partFails spans ps.1 bad
  let good := ps.1.filter (fun p => !fails.contains p.span)
  let rd := st.rawByte
  let elemsOf (r n : Nat) : List (Nat × Nat) :=
    ((good.filter (fun p => p.span = n)).flatMap x.patchElems).filter (fun q => (reducePlace axis x.t.len q.1 q.2).1 = r)
  let t := (ps.1.filter (fun p => !st.spanFenced p.span)).foldl (fun u p =>
    (u.noteRanges false (x.patchIn p)).noteRanges true (outs p)) st
  let eout := intAt e.cmd.bytes 0x14 2
  let t := (List.range (reduceCount axis x.rows x.t.len)).foldl (fun u r =>
    if op = 0 then
      let o := u.freeOrder spans
      o.2.reduceSum c b (out + 8 * r) (o.1.map (fun n => (n, sumPart x rd eout (elemsOf r n))))
    else
      let l := spans.flatMap (fun n => (elemsOf r n).map (fun q =>
        x.redVal rd (e.num 0x20 4 + (reducePlace axis x.t.len q.1 q.2).2) q.1 q.2))
      if l.isEmpty then u else u.writeBytes (out + 16 * r) (redWinner op l).bytes) t
  t.finishParts c b fails

theorem RedVal.bytes_length (r : RedVal) : r.bytes.length = 16 := by simp [RedVal.bytes]

theorem OpWork.reduceCmd {e : Exec} {size : Nat} (hz : size = if e.num 0x12 1 = 0 then 8 else 16)
    (h : OpWork c batch [(e.num 0x18 8, size * reduceCount (e.num 0x13 1) (e.desc 0x40).rows (e.desc 0x40).t.len)] a t) {spans : List Nat}
    (hs : a.restingOn spans) : ∃ u fails, t.reduceCmd c batch e spans = u.finishParts c batch fails ∧
      OpWork c batch [(e.num 0x18 8, size * reduceCount (e.num 0x13 1) (e.desc 0x40).rows (e.desc 0x40).t.len)] a u ∧
      a.failsOf spans fails := by
  unfold State.reduceCmd
  extract_lets x op axis size' out ps t₁ outs bad fails good rd elemsOf t₂ eout t₃
  generalize hout : [(e.num 0x18 8, size * reduceCount (e.num 0x13 1) (e.desc 0x40).rows (e.desc 0x40).t.len)] = l at h ⊢
  obtain ⟨k, hk⟩ := t.patches_free x.rows x.t.len spans
  have h1 : OpWork c batch l a t₁ := by
    rw [show t₁ = (t.patches x.rows x.t.len spans).2 from rfl, hk]
    exact h.withFree k
  have hfails : a.failsOf spans fails := h1.partFails spans ps.1 bad
  have h2 : OpWork c batch l a t₂ := foldl_keep (P := OpWork c batch l a)
    (fun u p hu => (hu.noteRanges false (x.patchIn p)).noteRanges true (outs p)) _ t₁ h1
  refine ⟨_, _, rfl, List.foldlRecOn _ _ h2 (fun u hu r hr => ?_), hfails⟩
  have hr := List.mem_range.mp hr
  have hin : (out, size * reduceCount axis x.rows x.t.len) ∈ l := hout ▸ List.mem_cons_self
  by_cases hop : op = 0
  · have h8 : size = 8 := hz.trans (if_pos hop)
    rw [if_pos hop]
    refine OpWork.reduceSum (hu.withFree _) hin (Nat.le_add_right _ _) (by rw [h8]; dsimp only; omega) (fun q hq => ?_)
    obtain ⟨n, hn, rfl⟩ := List.mem_map.mp hq
    refine State.partFrom_nil hs (State.freeOrder_mem hn) (fun hf => ?_)
    have hnone : elemsOf r n = [] := by
      have hg : good.filter (fun p => p.span = n) = [] := List.filter_eq_nil_iff.mpr (fun p hp hpn => by
        have hc := (List.mem_filter.mp hp).2
        rw [of_decide_eq_true hpn, List.contains_iff_mem.mpr (hfails.2 n (State.freeOrder_mem hn) hf)] at hc
        exact Bool.false_ne_true hc)
      dsimp only [elemsOf]
      rw [hg]
      rfl
    rw [hnone]
    exact sumPart_nil x rd eout
  · have h16 : size = 16 := hz.trans (if_neg hop)
    rw [if_neg hop]
    exact ite_keep (P := OpWork c batch l a) hu
      (hu.writeBytes hin (Nat.le_add_right _ _) (by rw [h16, RedVal.bytes_length]; dsimp only; omega))

end

/-! ### One launch on each span (R275, R276, R302) -/

/-- A pier that has run a launch of the device's own program to its HALT. -/
def Pier.ranOp (p : Pier) (n c pc : Nat) : Pier :=
  { p.start n ⟨c, 0, false, [], 0, []⟩ p.queue with code := 3, launch := none, pc := pc }

/-- `a` is `s` after the spans in `live` have run the operator launch of context `c`. -/
structure OpStarted (c : Nat) (batch : Bool) (live : List Nat) (s a : State) : Prop where
  rest : { a with ctxs := s.ctxs, spans := s.spans, free := s.free } = s
  others : ∀ m, m ≠ c → a.ctx m = s.ctx m
  exec : (a.execOf c batch).isSome = true
  spans : ∀ n, { a.span n with pier := s.pier n } = s.span n
  idle : ∀ n, n ∉ live → a.pier n = s.pier n
  ran : ∀ n, n ∈ live → ∃ pc, a.pier n = (s.pier n).ranOp n c pc

section
variable {c : Nat} {batch : Bool} {s : State}

theorem State.countOps_takes {e : Exec} {live : List Nat} (hn : live.Nodup) (he : (s.execOf c batch).isSome = true) :
    OpStarted c batch live s (s.countOps c e live) := by
  let f (st : State) (n : Nat) : State := (st.drawWord.2).modPier n (fun p =>
    { p.start n (e.opLaunch c) p.queue with code := 3, launch := none, pc := st.drawWord.1.toNat % 8193 })
  have others (t : State) (n m : Nat) (hm : m ≠ n) : (f t n).pier m = t.pier m := State.pier_modPier_ne _ _ hm
  have hrest : { s.countOps c e live with spans := s.spans, free := s.free } = s := by
    let P : State → Prop := fun t => { t with spans := s.spans, free := s.free } = s
    have hf (t : State) (n : Nat) (h : P t) : P (f t n) := h
    exact foldl_keep (P := P) hf live s rfl
  have hspan : ∀ n, { (s.countOps c e live).span n with pier := s.pier n } = s.span n :=
    foldl_keep (P := fun t : State => ∀ n, { t.span n with pier := s.pier n } = s.span n) (fun t k h n => by
      by_cases hk : n = k
      · subst hk
        rw [State.span_modPier_self]
        exact h n
      · rw [State.span_modPier_ne _ _ hk]
        exact h n) live s (fun _ => rfl)
  have hctx : (s.countOps c e live).ctxs = s.ctxs := by have k := congrArg State.ctxs hrest; exact k
  have hx (m : Nat) : (s.countOps c e live).ctx m = s.ctx m := by rw [State.ctx, hctx, State.ctx]
  obtain ⟨ho, hr⟩ := foldl_each (get := State.pier) others live hn s
  refine ⟨?_, fun m _ => hx m, ?_, hspan, ho, fun n hl => ?_⟩
  · have k := congrArg (fun t : State => { t with ctxs := s.ctxs }) hrest
    exact k
  · rw [State.execOf, hx, ← State.execOf]
    exact he
  · obtain ⟨u, hu, hf⟩ := hr n hl
    refine ⟨u.drawWord.1.toNat % 8193, hf.trans ?_⟩
    rw [← hu]
    exact State.pier_modPier_self _ n _

theorem OpStarted.afterExec {live : List Nat} {a : State} {f : Exec → Exec} (h : OpStarted c batch live (s.modExec c batch f) a) :
    OpStarted c batch live s a := by
  refine ⟨?_, fun m hm => (h.others m hm).trans (State.ctx_modExec_ne s batch f hm), h.exec, h.spans, h.idle, h.ran⟩
  have k := congrArg (fun t : State => { t with ctxs := s.ctxs }) h.rest
  exact k

theorem OpStarted.map {live : List Nat} {a : State} (h : OpStarted c batch live s a) : s.SameMap a := by
  rw [← h.rest]
  exact ⟨rfl, fun _ => rfl, fun _ => rfl, rfl, rfl, rfl⟩

theorem OpStarted.resting {spans : List Nat} {a : State} (h : OpStarted c batch (spans.filter (fun n => !s.spanFenced n)) s a) :
    a.restingOn spans := by
  intro n hn hf
  have hs : s.spanFenced n = false := by rw [State.spanFenced, ← h.map.fences]; exact hf
  obtain ⟨pc, hp⟩ := h.ran n (List.mem_filter.mpr ⟨hn, by rw [hs]; rfl⟩)
  rw [hp]
  rfl

theorem State.finishExec_span (u : State) (c : Nat) (batch : Bool) (x y n : Nat) : (u.finishExec c batch x y).span n = u.span n := rfl

/-- What the work of an operator command leaves, when it has ended. -/
theorem OpWork.done {live : List Nat} {a u : State} {out : List (Nat × Nat)} (h : OpWork c batch out a u) (k : OpStarted c batch live s a)
    (fails : List Nat) : OperatorDone s (u.finishParts c batch fails) c batch out fails := by
  obtain ⟨y, hy⟩ := Option.isSome_iff_exists.mp h.exec
  have e : u.finishParts c batch fails = u.finishExec c batch (if fails.isEmpty then 0 else 0x12) (if fails.isEmpty then 0 else spansMask fails) := by
    unfold State.finishParts
    cases fails.isEmpty with
    | true => rfl
    | false => rfl
  rw [e]
  have hp (n : Nat) : (u.finishExec c batch (if fails.isEmpty then 0 else 0x12) (if fails.isEmpty then 0 else spansMask fails)).pier n = a.pier n :=
    h.pier n
  refine ⟨?_, fun m hm => ?_, fun i hi => ?_, fun n => ?_, fun n => ?_, ?_⟩
  · rw [State.finishExec, State.execOf_modExec, hy]
    rfl
  · exact (State.ctx_modExec_ne u batch _ hm).trans ((h.others m hm).trans (k.others m hm))
  · have hk : a.clearOf out i := fun r hr j hj => by
      rw [State.cellOf, k.map.target, ← State.cellOf]
      exact hi r hr j hj
    have hm : a.mem = s.mem := by have w := congrArg State.mem k.rest; exact w
    exact (h.memory i hk).trans (by rw [hm])
  · have h1 : (u.span n).flagsOf (a.span n) = a.span n := h.spans n
    have h2 : { a.span n with pier := s.pier n } = s.span n := k.spans n
    rw [State.finishExec_span]
    show ({ (u.span n).flagsOf (s.span n) with pier := s.pier n } : Span) = s.span n
    rw [← h2]
    have w := congrArg (fun x : Span => ({ x with pier := s.pier n } : Span)) h1
    exact w
  · rw [hp]
    by_cases hn : n ∈ live
    · obtain ⟨pc, e⟩ := k.ran n hn
      right
      rw [e]
      rfl
    · exact .inl (k.idle n hn)
  · have w1 : s.opBack (a.opBack u) = s.opBack a := by rw [h.rest]
    have w2 := congrArg (fun t : State => s.opBack t) k.rest
    have w3 : s.opBack a = s := w2
    exact Eq.trans w1 w3

/-- The spans that an operator command names. -/
def State.opSpans (s : State) (e : Exec) : List Nat := s.maskOf (e.num 0x10 2)

theorem State.opSpans_nodup (s : State) (e : Exec) : (s.opSpans e).Nodup := by
  unfold State.opSpans State.maskOf
  split
  · exact List.nodup_range.filter _
  · exact List.nodup_range.filter _

/-- The state in which the launches of an operator command run. -/
def State.opRuns (s : State) (c : Nat) (batch : Bool) (e : Exec) : State :=
  (s.modExec c batch (fun y => { y with spansAll := spansMask (s.opSpans e) })).countOps c e ((s.opSpans e).filter (fun n => !s.spanFenced n))

theorem Starting.opRuns {op : Nat} {e : Exec} (h : Starting s c batch op e) :
    OpStarted c batch ((s.opSpans e).filter (fun n => !s.spanFenced n)) s (s.opRuns c batch e) := by
  refine OpStarted.afterExec (State.countOps_takes ((s.opSpans_nodup e).filter _) ?_)
  rw [State.execOf_modExec, h.cmd]
  rfl

/-- The row of an operator command that starts and whose spans are free. -/
theorem Starting.withSpans {op : Nat} {e : Exec} (h : Starting s c batch op e) (hw : s.opWaiting c op = none)
    (hb : s.spansBusy (e.opLaunch c) ((s.opSpans e).filter (fun n => !s.spanFenced n)) = false)
    {checks : Exec → List (Nat × Bool)} (hc : firstFault (checks e) = none) (f : Bool → Exec → List Nat → State → State) :
    s.withSpans c op checks f = f batch e (s.opSpans e) (s.opRuns c batch e) := by
  unfold State.withSpans State.withOp
  rw [hw]
  dsimp only
  rw [h.withCmd hc, if_pos (decide_eq_true h.phase)]
  unfold State.asLaunch
  dsimp only
  rw [if_pos (decide_eq_true h.phase), ← State.opSpans, hb, if_neg Bool.false_ne_true]
  rfl

/-- The end of an operator command, in the words of the obligation. -/
theorem Starting.ends {op : Nat} {e : Exec} (h : Starting s c batch op e) {o : State} {out : List (Nat × Nat)}
    (ho : ∃ u fails, o = u.finishParts c batch fails ∧ OpWork c batch out (s.opRuns c batch e) u ∧
      (s.opRuns c batch e).failsOf (s.opSpans e) fails) :
    ∃ (u : State) (fails : List Nat), goOn o = .next u ∧ OperatorDone s u c batch out fails ∧ (∀ n, n ∈ fails → n ∈ s.opSpans e) ∧
      (∀ n, n ∈ s.opSpans e → s.spanFenced n = true → n ∈ fails) ∧
      (∀ n, n ∈ s.opSpans e → s.spanFenced n = false → (u.pier n).launchSeq = ((s.pier n).launchSeq + 1) % 2 ^ 32) := by
  obtain ⟨u, fails, rfl, hu, hf⟩ := ho
  have hs := h.opRuns
  refine ⟨_, fails, rfl, hu.done hs fails, hf.1, fun n hn hx => hf.2 n hn ?_, fun n hn hx => ?_⟩
  · rw [State.spanFenced, hs.map.fences]
    exact hx
  · obtain ⟨pc, hp⟩ := hs.ran n (List.mem_filter.mpr ⟨hn, by rw [hx]; rfl⟩)
    have e1 : (u.finishParts c batch fails).pier n = u.pier n := by
      unfold State.finishParts
      split
      · rfl
      · rfl
    rw [e1, hu.pier, hp]
    rfl

/-- A command that writes a tensor. -/
theorem Starting.tensor {op : Nat} {e : Exec} (h : Starting s c batch op e) (off : Nat) (reads : Patch → List (Nat × Nat))
    {vals : State → Patch → PatchVals} (hv : ∀ u p, (vals u p).fits (e.desc off) p) {t : State}
    (ht : OpWork c batch (e.desc off).written (s.opRuns c batch e) t) :
    ∃ u fails, t.tensorCmd c batch (s.opSpans e) (e.desc off) reads vals = u.finishParts c batch fails ∧
      OpWork c batch (e.desc off).written (s.opRuns c batch e) u ∧ (s.opRuns c batch e).failsOf (s.opSpans e) fails :=
  ht.tensorCmd (e.desc_plain off) h.opRuns.resting reads hv

end

theorem firstFault_none {l : List (Nat × Bool)} (h : firstFault l = none) {q : Nat × Bool} (hq : q ∈ l) : q.2 = false := by
  have hn := List.find?_eq_none.mp (Option.map_eq_none_iff.mp h) q hq
  exact Bool.not_eq_true _ ▸ hn

/-- Settles O50. -/
theorem operatorCommands : Obligations.OperatorCommands := by
  unfold Obligations.OperatorCommands
  intro c b e s spans ends written x hbusy hwait
  refine ⟨fun h hc => ?_, fun h => ?_, fun h => ?_, fun h hc => ?_⟩
  · have hx : exec (.ewise c) s = _ := congrArg Host.Outcome.next (h.withSpans (hwait _) hbusy hc _)
    rw [hx]
    exact h.ends (h.tensor 0x80 _ (fun u p => PatchVals.fits_map _ p _ _ _) (.refl h.opRuns.exec))
  · intro tr hc
    have hx : exec (.convert c) s = _ := congrArg Host.Outcome.next (h.withSpans (hwait _) hbusy hc _)
    rw [hx]
    exact h.ends (h.tensor 0x60 _ (fun u p => PatchVals.fits_map _ p _ _ _) (.refl h.opRuns.exec))
  · intro y hc
    have hx : exec (.matmul c) s = _ := congrArg Host.Outcome.next (h.withSpans (hwait _) hbusy hc _)
    rw [hx]
    have hpr : (pairOfFmts x.code y.code).isNone = false := firstFault_none hc (q := (0x7C, (pairOfFmts x.code y.code).isNone))
      (List.mem_append_left _ (List.mem_append_left _ (List.mem_append_left _ (List.mem_append_right _
        (List.mem_cons_of_mem _ List.mem_cons_self)))))
    dsimp only
    cases hp : pairOfFmts x.code y.code with
    | none =>
      rw [hp] at hpr
      exact absurd hpr (by decide)
    | some pr =>
      dsimp only
      exact h.ends (h.tensor 0xA0 _ (fun u p => PatchVals.fits_map _ p _ _ _) (OpWork.withFree (.refl h.opRuns.exec) _))
  · have hx : exec (.reduce c) s = .next ((s.opRuns c.val b e).reduceCmd c.val b e (s.opSpans e)) :=
      congrArg Host.Outcome.next (h.withSpans (hwait _) hbusy hc _)
    rw [hx]
    exact h.ends (OpWork.reduceCmd rfl (.refl h.opRuns.exec) h.opRuns.resting)

end Sys2Proof.Machine
end

section
/-! PROOFS. The lanes of a link that are fenced stay fenced (17 R416, R424): the operations of the state, of memory, of
the mesh, of launches and contexts, of links and of fences. The laws of `Closed` and `Whole` properties leave the fenced
lanes free, so each operation has a law of its own about them.
-/

namespace Sys2Proof.Machine

/-- The lanes that one list of fenced lanes holds stand in another. -/
def LanesIn (x y : Store Nat) : Prop :=
  ∀ l k, (BitVec.ofNat 8 (Store.get 0 l x)).getLsbD k = true → (BitVec.ofNat 8 (Store.get 0 l y)).getLsbD k = true

/-- The lanes that are fenced in `s` are fenced in `t`. -/
def State.LanesLast (s t : State) : Prop := LanesIn s.flt.lanes t.flt.lanes

/-- Lanes are added to those of a link. -/
theorem LanesIn.put {x y : Store Nat} (h : LanesIn x y) (l : Nat) (v : BitVec 8) :
    LanesIn x (Store.put 0 l (BitVec.ofNat 8 (Store.get 0 l y) ||| v).toNat y) := by
  intro m k hk
  rw [Store.get_put]
  by_cases e : m = l
  · subst e
    rw [if_pos rfl, BitVec.ofNat_toNat, BitVec.setWidth_eq, BitVec.getLsbD_or, h m k hk, Bool.true_or]
  · rw [if_neg e]
    exact h m k hk

variable {s₀ : State}

theorem lanesLast_iff {s t : State} : s.LanesLast t ↔ LanesIn s.flt.lanes t.flt.lanes := Iff.rfl

/-- Fenced lanes turn on nothing but the fault state. -/
theorem State.LanesLast.rest {t : State} {pending pwr boot time pcie bus mon blocks sec mbx mesh mems cxls links linkSys
    spans ctxs events fe problems runs early ckpts mem poison free} (h : s₀.LanesLast t) :
    s₀.LanesLast { t with
      pending := pending, pwr := pwr, boot := boot, time := time, pcie := pcie, bus := bus, mon := mon, blocks := blocks,
      sec := sec, mbx := mbx, mesh := mesh, mems := mems, cxls := cxls, links := links, linkSys := linkSys,
      spans := spans, ctxs := ctxs, events := events, fe := fe, problems := problems, runs := runs, early := early,
      ckpts := ckpts, mem := mem, poison := poison, free := free } := h

/-- The other fields of the fault state may change. -/
theorem State.LanesLast.withFlt {t : State} (h : s₀.LanesLast t) {f : Flt} (hf : f.lanes = t.flt.lanes) :
    s₀.LanesLast (t.withFlt f) :=
  lanesLast_iff.mpr (by rw [State.withFlt, hf]; exact h)

theorem foldl_lanesLast {α : Type} {f : State → α → State} (h : ∀ s a, s₀.LanesLast s → s₀.LanesLast (f s a))
    (l : List α) {s : State} (hs : s₀.LanesLast s) : s₀.LanesLast (l.foldl f s) :=
  foldl_keep (P := s₀.LanesLast) h l s hs

theorem foldl_lanesLast₁ {α β : Type} {f : State × β → α → State × β}
    (h : ∀ s a, s₀.LanesLast s.1 → s₀.LanesLast (f s a).1) (l : List α) {s : State × β} (hs : s₀.LanesLast s.1) :
    s₀.LanesLast (l.foldl f s).1 :=
  foldl_keep₁ (P := s₀.LanesLast) h l s hs

theorem foldl_lanesLast₂ {α β : Type} {f : β × State → α → β × State}
    (h : ∀ s a, s₀.LanesLast s.2 → s₀.LanesLast (f s a).2) (l : List α) {s : β × State} (hs : s₀.LanesLast s.2) :
    s₀.LanesLast (l.foldl f s).2 :=
  foldl_keep₂ (P := s₀.LanesLast) h l s hs

/-! ### Machine/Ops.lean -/

theorem State.setSpan_lanesLast {s : State} (n : Nat) (x : Span) (hs : s₀.LanesLast s) :
    s₀.LanesLast (State.setSpan s n x) :=
  hs

theorem State.modSpan_lanesLast {s : State} (n : Nat) (f : Span → Span) (hs : s₀.LanesLast s) :
    s₀.LanesLast (State.modSpan s n f) :=
  hs

theorem State.modPier_lanesLast {s : State} (n : Nat) (f : Pier → Pier) (hs : s₀.LanesLast s) :
    s₀.LanesLast (State.modPier s n f) :=
  hs

theorem State.modEng_lanesLast {s : State} (n : Nat) (f : Engine → Engine) (hs : s₀.LanesLast s) :
    s₀.LanesLast (State.modEng s n f) :=
  hs

theorem State.modCtx_lanesLast {s : State} (c : Nat) (f : Ctx → Ctx) (hs : s₀.LanesLast s) :
    s₀.LanesLast (State.modCtx s c f) :=
  hs

theorem State.setEvent_lanesLast {s : State} (e : Nat) (x : Event) (hs : s₀.LanesLast s) :
    s₀.LanesLast (State.setEvent s e x) :=
  hs

theorem State.modMem_lanesLast {s : State} (i : Nat) (f : MemIface → MemIface) (hs : s₀.LanesLast s) :
    s₀.LanesLast (State.modMem s i f) :=
  hs

theorem State.modCxl_lanesLast {s : State} (p : Nat) (f : CxlPort → CxlPort) (hs : s₀.LanesLast s) :
    s₀.LanesLast (State.modCxl s p f) :=
  hs

theorem State.modLink_lanesLast {s : State} (l : Nat) (f : Link → Link) (hs : s₀.LanesLast s) :
    s₀.LanesLast (State.modLink s l f) :=
  hs

theorem State.modBlock_lanesLast {s : State} (b : BlockId) (f : FltIf → FltIf) (hs : s₀.LanesLast s) :
    s₀.LanesLast (State.modBlock s b f) :=
  hs

theorem State.setHerr_lanesLast {s : State} (bit : Nat) (hs : s₀.LanesLast s) : s₀.LanesLast (s.setHerr bit) :=
  hs

theorem State.sendMsix_lanesLast {s : State} (v : Nat) (hs : s₀.LanesLast s) : s₀.LanesLast (s.sendMsix v) := by
  have := @State.setHerr_lanesLast s₀
  grind [State.LanesLast, State.sendMsix]

theorem State.raiseVector_lanesLast {s : State} (v : Nat) (hs : s₀.LanesLast s) :
    s₀.LanesLast (State.raiseVector v s) := by
  have := @State.sendMsix_lanesLast s₀
  grind [State.LanesLast, State.raiseVector]

theorem State.sendPending_lanesLast {s : State} (hs : s₀.LanesLast s) : s₀.LanesLast s.sendPending := by
  have := @State.sendMsix_lanesLast s₀
  grind [State.LanesLast, State.sendPending, foldl_lanesLast]

theorem State.startEscalation_lanesLast {s : State} (hs : s₀.LanesLast s) : s₀.LanesLast s.startEscalation := by
  grind [State.LanesLast, State.startEscalation, State.withFlt]

theorem State.enterRaise_lanesLast {s : State} (b : BlockId) (k : Nat) (mandatory : Bool) (detail : Nat)
    (hs : s₀.LanesLast s) :
    s₀.LanesLast (s.enterRaise b k mandatory detail) := by
  have := @State.startEscalation_lanesLast s₀
  have := @State.raiseVector_lanesLast s₀
  have := @State.modBlock_lanesLast s₀
  grind [_=_ lanesLast_iff, State.enterRaise, State.withFlt]

theorem State.drawWord_lanesLast {s : State} (hs : s₀.LanesLast s) : s₀.LanesLast (State.drawWord s).2 := by
  grind [State.LanesLast, State.drawWord]

theorem State.drawBytes_lanesLast {s : State} (n : Nat) (hs : s₀.LanesLast s) :
    s₀.LanesLast (State.drawBytes s n).2 := by
  grind [State.LanesLast, State.drawBytes]

theorem State.samples_lanesLast {s : State} (n : Nat) (hs : s₀.LanesLast s) :
    s₀.LanesLast (State.samples s n).2 := by
  have := @State.drawBytes_lanesLast s₀
  grind [State.samples]

theorem State.generate_lanesLast {s : State} (n : Nat) (hs : s₀.LanesLast s) : s₀.LanesLast (s.generate n).2 :=
  hs

theorem State.wrapKey_lanesLast {s : State} (slot : Nat) (plain : List Byte) (hs : s₀.LanesLast s) :
    s₀.LanesLast (State.wrapKey s slot plain).2 := by
  have := @State.generate_lanesLast s₀
  grind [State.wrapKey]

/-! ### Machine/Memory.lean -/

theorem State.noteHostFail_lanesLast {s : State} (write : Bool) (a n : Nat) (hs : s₀.LanesLast s) :
    s₀.LanesLast (s.noteHostFail write a n) := by
  have := @State.setHerr_lanesLast s₀
  grind [State.noteHostFail]

theorem State.noteRequest_lanesLast {s : State} (write : Bool) (a n : Nat) (hs : s₀.LanesLast s) :
    s₀.LanesLast (s.noteRequest write a n) := by
  have := @State.noteHostFail_lanesLast s₀
  have := @State.setHerr_lanesLast s₀
  grind [_=_ lanesLast_iff, State.noteRequest]

theorem State.bumpPages_lanesLast {s : State} (addrs : List Nat) (hs : s₀.LanesLast s) :
    s₀.LanesLast (s.bumpPages addrs) := by
  have := @State.modCxl_lanesLast s₀
  grind [State.bumpPages, foldl_lanesLast]

theorem State.storeCells_lanesLast {s : State} (l : List (Nat × Byte)) (hs : s₀.LanesLast s) :
    s₀.LanesLast (s.storeCells l) := by
  have := @State.bumpPages_lanesLast s₀
  grind [_=_ lanesLast_iff, State.storeCells]

theorem State.writeBytes_lanesLast {s : State} (a : Nat) (l : List Byte) (hs : s₀.LanesLast s) :
    s₀.LanesLast (State.writeBytes s a l) := by
  have := @State.noteRequest_lanesLast s₀
  have := @State.storeCells_lanesLast s₀
  grind [State.writeBytes]

theorem State.writeNat_lanesLast {s : State} (a n v : Nat) (hs : s₀.LanesLast s) :
    s₀.LanesLast (State.writeNat s a n v) := by
  have := @State.writeBytes_lanesLast s₀
  grind [State.writeNat]

theorem State.atomicAt_lanesLast {s : State} (a w : Nat) (f : Nat → Nat) (hs : s₀.LanesLast s) :
    s₀.LanesLast (State.atomicAt s a w f).2 := by
  have := @State.noteRequest_lanesLast s₀
  have := @State.writeNat_lanesLast s₀
  grind [State.atomicAt]

theorem State.dmaCopy_lanesLast {s : State} (src dst n : Nat) (hs : s₀.LanesLast s) :
    s₀.LanesLast (s.dmaCopy src dst n).1 := by
  have := @State.noteRequest_lanesLast s₀
  have := @State.storeCells_lanesLast s₀
  grind [State.dmaCopy]

theorem State.spadWrite_lanesLast {s : State} (n off : Nat) (l : List Byte) (hs : s₀.LanesLast s) :
    s₀.LanesLast (s.spadWrite n off l) :=
  hs

/-! ### Machine/Mesh.lean -/

theorem State.countDrops_lanesLast {s : State} (k : Nat) (hs : s₀.LanesLast s) :
    s₀.LanesLast (State.countDrops s k) :=
  hs

theorem State.injectFirst_lanesLast {s : State} (n k : Nat) (hs : s₀.LanesLast s) :
    s₀.LanesLast (State.injectFirst s n k) := by
  have := @State.modEng_lanesLast s₀
  grind [State.LanesLast, State.injectFirst]

theorem State.injectFor_lanesLast {s : State} (src n : Nat) (kind : Vc1Body → Bool) (pick : Nat → Bool)
    (hs : s₀.LanesLast s) :
    s₀.LanesLast (State.injectFor s src n kind pick) := by
  have := @State.injectFirst_lanesLast s₀
  grind [State.injectFor]

theorem State.loseInside_lanesLast {s : State} (r : Nat) (lost : List Nat) (hs : s₀.LanesLast s) :
    s₀.LanesLast (State.loseInside s r lost) := by
  grind [State.LanesLast, State.loseInside]

/-! ### Machine/Launch.lean -/

theorem State.modExec_lanesLast {s : State} (c : Nat) (batch : Bool) (f : Exec → Exec) (hs : s₀.LanesLast s) :
    s₀.LanesLast (State.modExec s c batch f) := by
  have := @State.modCtx_lanesLast s₀
  grind [State.modExec]

theorem State.finishExec_lanesLast {s : State} (c : Nat) (batch : Bool) (status detail : Nat)
    (hs : s₀.LanesLast s) :
    s₀.LanesLast (State.finishExec s c batch status detail) := by
  have := @State.modExec_lanesLast s₀
  grind [State.finishExec]

theorem State.modRun_lanesLast {s : State} (q : Nat) (f : Run → Run) (hs : s₀.LanesLast s) :
    s₀.LanesLast (State.modRun s q f) := by
  grind [State.LanesLast, State.modRun]

theorem State.stopRun_lanesLast {s : State} (q : Nat) (f : Stops → Stops) (hs : s₀.LanesLast s) :
    s₀.LanesLast (State.stopRun s q f) := by
  have := @State.modRun_lanesLast s₀
  grind [State.stopRun]

theorem State.testWaits_lanesLast {s : State} (e : Nat) (hs : s₀.LanesLast s) :
    s₀.LanesLast (State.testWaits s e) := by
  have := @State.modPier_lanesLast s₀
  grind [State.LanesLast, State.testWaits, foldl_lanesLast]

theorem State.eventOp_lanesLast {s : State} (e : Nat) (add : Bool) (value : Word) (error host : Bool)
    (hs : s₀.LanesLast s) :
    s₀.LanesLast (State.eventOp s e add value error host) := by
  have := @State.setEvent_lanesLast s₀
  have := @State.raiseVector_lanesLast s₀
  have := @State.testWaits_lanesLast s₀
  grind [State.eventOp]

theorem State.sendLaunches_lanesLast {s : State} (k c : Nat) (hs : s₀.LanesLast s) :
    s₀.LanesLast (State.sendLaunches k c s) := by
  have := @State.modPier_lanesLast s₀
  have := @State.modExec_lanesLast s₀
  induction k generalizing s with
  | _ => grind [State.sendLaunches]

theorem State.sendAllLaunches_lanesLast {s : State} (hs : s₀.LanesLast s) :
    s₀.LanesLast (State.sendAllLaunches s) := by
  have := @State.sendLaunches_lanesLast s₀
  grind [State.sendAllLaunches, foldl_lanesLast]

theorem State.dispatch_lanesLast {s : State} (c : Nat) (batch : Bool) (spans : List Nat) (l : Launch)
    (hs : s₀.LanesLast s) :
    s₀.LanesLast (State.dispatch s c batch spans l) := by
  have := @State.modPier_lanesLast s₀
  have := @State.modCtx_lanesLast s₀
  have := @State.modExec_lanesLast s₀
  have := @State.sendAllLaunches_lanesLast s₀
  grind [State.dispatch, foldl_lanesLast]

theorem State.dropQueued_lanesLast {s : State} (c : Nat) (hs : s₀.LanesLast s) :
    s₀.LanesLast (State.dropQueued s c) := by
  have := @State.modPier_lanesLast s₀
  grind [State.dropQueued, foldl_lanesLast]

theorem State.performEvrecs_lanesLast {s : State} (l : List InFlight) (hs : s₀.LanesLast s) :
    s₀.LanesLast (State.performEvrecs s l) := by
  have := @State.eventOp_lanesLast s₀
  grind [State.performEvrecs, foldl_lanesLast]

theorem State.endLaunch_lanesLast {s : State} (n : Nat) (hs : s₀.LanesLast s) :
    s₀.LanesLast (State.endLaunch s n) := by
  have := @State.modSpan_lanesLast s₀
  have := @State.modPier_lanesLast s₀
  have := @State.raiseVector_lanesLast s₀
  have := @State.modExec_lanesLast s₀
  have := @State.stopRun_lanesLast s₀
  unfold State.endLaunch
  grind

theorem State.pierFault_lanesLast {s : State} (n code pc : Nat) (hs : s₀.LanesLast s) :
    s₀.LanesLast (State.pierFault s n code pc) := by
  have := @State.modPier_lanesLast s₀
  have := @State.stopRun_lanesLast s₀
  grind [State.pierFault]

theorem State.pierStop_lanesLast {s : State} (n code : Nat) (owe : Bool) (hs : s₀.LanesLast s) :
    s₀.LanesLast (State.pierStop s n code owe) := by
  have := @State.modPier_lanesLast s₀
  have := @State.modExec_lanesLast s₀
  grind [State.pierStop]

theorem State.answerBarrier_lanesLast {s : State} (b : Barrier) (hs : s₀.LanesLast s) :
    s₀.LanesLast (State.answerBarrier s b) := by
  have := @State.modPier_lanesLast s₀
  grind [State.answerBarrier, foldl_lanesLast]

theorem State.barrierPass_lanesLast {s : State} (hs : s₀.LanesLast s) : s₀.LanesLast (State.barrierPass s) := by
  have := @State.answerBarrier_lanesLast s₀
  grind [State.LanesLast, State.barrierPass, foldl_lanesLast]

theorem State.retestPier_lanesLast {s : State} (n : Nat) (hs : s₀.LanesLast s) :
    s₀.LanesLast (State.retestPier s n) := by
  have := @State.modPier_lanesLast s₀
  have := @State.performEvrecs_lanesLast s₀
  have := @State.endLaunch_lanesLast s₀
  have := @State.pierFault_lanesLast s₀
  unfold State.retestPier
  grind [foldl_lanesLast]

theorem State.quiesceFor_lanesLast {s : State} (k : Nat) (hs : s₀.LanesLast s) :
    s₀.LanesLast (State.quiesceFor k s) := by
  induction k generalizing s with
  | _ => grind [State.quiesceFor, State.barrierPass_lanesLast, State.retestPier_lanesLast, foldl_lanesLast]

theorem State.quiesce_lanesLast {s : State} (hs : s₀.LanesLast s) : s₀.LanesLast (State.quiesce s) := by
  have := @State.quiesceFor_lanesLast s₀
  grind [State.quiesce]

/-! ### Machine/Context.lean -/

theorem State.capture_lanesLast {s : State} (c : Nat) (i : CaptureInfo) (hs : s₀.LanesLast s) :
    s₀.LanesLast (State.capture s c i) := by
  have := @State.modCtx_lanesLast s₀
  have := @State.writeBytes_lanesLast s₀
  grind [State.capture]

theorem State.setLastStatus_lanesLast {s : State} (c status : Nat) (hs : s₀.LanesLast s) :
    s₀.LanesLast (State.setLastStatus s c status) :=
  hs

theorem State.stopCtx_lanesLast {s : State} (c : Nat) (hs : s₀.LanesLast s) : s₀.LanesLast (State.stopCtx s c) := by
  have := @State.modCtx_lanesLast s₀
  have := @State.raiseVector_lanesLast s₀
  grind [State.stopCtx]

theorem State.writeEntry_lanesLast {s : State} (c opcode flags : Nat) (info : CaptureInfo) (hs : s₀.LanesLast s) :
    s₀.LanesLast (State.writeEntry s c opcode flags info) := by
  have := @State.modCtx_lanesLast s₀
  have := @State.noteRequest_lanesLast s₀
  have := @State.writeBytes_lanesLast s₀
  have := @State.capture_lanesLast s₀
  have := @State.setLastStatus_lanesLast s₀
  have := @State.stopCtx_lanesLast s₀
  grind [State.writeEntry]

theorem State.abortEvents_lanesLast {s : State} (e : Exec) (performed : Bool) (hs : s₀.LanesLast s) :
    s₀.LanesLast (State.abortEvents s e performed) := by
  have := @State.eventOp_lanesLast s₀
  grind [State.abortEvents, foldl_lanesLast]

theorem State.completeWith_lanesLast {s : State} (c : Nat) (e : Exec) (status detail : Nat) (hs : s₀.LanesLast s) :
    s₀.LanesLast (State.completeWith s c e status detail) := by
  have := @State.modCtx_lanesLast s₀
  have := @State.raiseVector_lanesLast s₀
  have := @State.eventOp_lanesLast s₀
  have := @State.capture_lanesLast s₀
  have := @State.setLastStatus_lanesLast s₀
  have := @State.stopCtx_lanesLast s₀
  have := @State.writeEntry_lanesLast s₀
  grind [State.completeWith]

theorem State.slotFault_lanesLast {s : State} (c status tag opcode detail slotAddr : Nat) (packet : List Byte)
    (hs : s₀.LanesLast s) :
    s₀.LanesLast (State.slotFault s c status tag opcode detail slotAddr packet) := by
  have := @State.modCtx_lanesLast s₀
  have := @State.capture_lanesLast s₀
  have := @State.setLastStatus_lanesLast s₀
  have := @State.stopCtx_lanesLast s₀
  have := @State.writeEntry_lanesLast s₀
  grind [State.slotFault]

theorem State.flushHeld_lanesLast {s : State} (c : Nat) (k : List HeldEntry) (hs : s₀.LanesLast s) :
    s₀.LanesLast (State.flushHeld c k s) := by
  have := @State.modCtx_lanesLast s₀
  have := @State.writeEntry_lanesLast s₀
  induction k generalizing s with
  | _ => grind [State.flushHeld]

theorem State.finishDestroy_lanesLast {s : State} (c : Nat) (hs : s₀.LanesLast s) :
    s₀.LanesLast (State.finishDestroy s c) := by
  have := @State.modCtx_lanesLast s₀
  have := @State.raiseVector_lanesLast s₀
  have := @State.writeEntry_lanesLast s₀
  grind [State.finishDestroy]

theorem State.stopPiersOf_lanesLast {s : State} (c : Nat) (serial : Option Nat) (owe : Bool) (hs : s₀.LanesLast s) :
    s₀.LanesLast (State.stopPiersOf s c serial owe) := by
  have := @State.pierStop_lanesLast s₀
  grind [State.stopPiersOf, foldl_lanesLast]

/-! ### Machine/Operands.lean -/

theorem State.spadCells_lanesLast {s : State} (l : List (Nat × Byte)) (hs : s₀.LanesLast s) :
    s₀.LanesLast (s.spadCells l) :=
  hs

/-! ### Machine/Flags.lean -/

theorem State.markSaturated_lanesLast {s : State} (n : Nat) (hs : s₀.LanesLast s) :
    s₀.LanesLast (State.markSaturated s n) := by
  have := @State.modExec_lanesLast s₀
  grind [State.markSaturated]

theorem State.tenFlag_lanesLast {s : State} (n flag : Nat) (hs : s₀.LanesLast s) :
    s₀.LanesLast (State.tenFlag s n flag) := by
  have := @State.modSpan_lanesLast s₀
  have := @State.markSaturated_lanesLast s₀
  grind [State.tenFlag]

theorem State.tenFlagIf_lanesLast {s : State} (n flag : Nat) (c : Bool) (hs : s₀.LanesLast s) :
    s₀.LanesLast (State.tenFlagIf s n flag c) := by
  have := @State.tenFlag_lanesLast s₀
  grind [State.tenFlagIf]

/-! ### Machine/LinkBase.lean -/

theorem State.pumpLink_lanesLast {s : State} (l : Nat) (hs : s₀.LanesLast s) :
    s₀.LanesLast (State.pumpLink s l) := by
  have := @State.modLink_lanesLast s₀
  grind [State.pumpLink]

theorem State.queueFlit_lanesLast {s : State} (l : Nat) (f : TxFlit) (hs : s₀.LanesLast s) :
    s₀.LanesLast (State.queueFlit s l f) := by
  have := @State.modLink_lanesLast s₀
  have := @State.pumpLink_lanesLast s₀
  grind [State.queueFlit]

theorem State.sendNeighbour_lanesLast {s : State} (l kind aux : Nat) (payload : List Byte) (hs : s₀.LanesLast s) :
    s₀.LanesLast (State.sendNeighbour s l kind aux payload) := by
  have := @State.queueFlit_lanesLast s₀
  grind [State.sendNeighbour]

theorem State.takeDown_lanesLast {s : State} (l cause st : Nat) (drop : Bool) (hs : s₀.LanesLast s) :
    s₀.LanesLast (State.takeDown s l cause st drop) := by
  have := @State.modLink_lanesLast s₀
  have := @State.sendNeighbour_lanesLast s₀
  grind [State.takeDown]

theorem State.startTraining_lanesLast {s : State} (l : Nat) (hs : s₀.LanesLast s) :
    s₀.LanesLast (State.startTraining s l) := by
  have := @State.modLink_lanesLast s₀
  grind [State.startTraining]

theorem State.retrainTo_lanesLast {s : State} (l width : Nat) (hs : s₀.LanesLast s) :
    s₀.LanesLast (State.retrainTo s l width) := by
  have := @State.modLink_lanesLast s₀
  grind [State.retrainTo]

theorem State.loseLanes_lanesLast {s : State} (l : Nat) (lanes : BitVec 8) (hs : s₀.LanesLast s) :
    s₀.LanesLast (State.loseLanes s l lanes).2 := by
  have := @State.modLink_lanesLast s₀
  have := @State.sendNeighbour_lanesLast s₀
  have := @State.takeDown_lanesLast s₀
  have := @State.retrainTo_lanesLast s₀
  grind [State.loseLanes]

/-! ### Machine/Fence.lean -/

theorem State.notifyLost_lanesLast {s : State} (id : Nat) (hs : s₀.LanesLast s) :
    s₀.LanesLast (State.notifyLost s id) := by
  have := @State.raiseVector_lanesLast s₀
  grind [State.LanesLast, State.notifyLost]

theorem State.modProblem_lanesLast {s : State} (q : Nat) (f : Problem → Problem) (hs : s₀.LanesLast s) :
    s₀.LanesLast (State.modProblem s q f) := by
  grind [State.LanesLast, State.modProblem]

theorem State.freeProblem_lanesLast {s : State} (id : Nat) (hs : s₀.LanesLast s) :
    s₀.LanesLast (State.freeProblem s id) :=
  hs

theorem State.loseProblems_lanesLast {s : State} (pick : Problem → Bool) (hs : s₀.LanesLast s) :
    s₀.LanesLast (State.loseProblems s pick) := by
  have := @State.stopRun_lanesLast s₀
  have := @State.notifyLost_lanesLast s₀
  grind [State.LanesLast, State.loseProblems, foldl_lanesLast]

theorem State.stopCtxsIn_lanesLast {s : State} (pick : Nat → Bool) (hs : s₀.LanesLast s) :
    s₀.LanesLast (State.stopCtxsIn s pick) := by
  have := @State.setLastStatus_lanesLast s₀
  have := @State.stopCtx_lanesLast s₀
  grind [State.stopCtxsIn, foldl_lanesLast]

theorem State.abandonCkpts_lanesLast {s : State} (n : Nat) (hs : s₀.LanesLast s) :
    s₀.LanesLast (State.abandonCkpts s n) :=
  hs

theorem State.replaceIdle_lanesLast {s : State} (n : Nat) (hs : s₀.LanesLast s) :
    s₀.LanesLast (State.replaceIdle s n) := by
  have := @State.notifyLost_lanesLast s₀
  have := @State.modProblem_lanesLast s₀
  have := @State.freeProblem_lanesLast s₀
  grind [State.replaceIdle, foldl_lanesLast]

theorem State.refuseLaunches_lanesLast {s : State} (n : Nat) (hs : s₀.LanesLast s) :
    s₀.LanesLast (State.refuseLaunches s n) := by
  have := @State.modPier_lanesLast s₀
  have := @State.modExec_lanesLast s₀
  grind [State.refuseLaunches, foldl_lanesLast]

theorem State.fenceSpan_lanesLast {s : State} (n : Nat) (hs : s₀.LanesLast s) :
    s₀.LanesLast (State.fenceSpan n s) := by
  unfold State.fenceSpan
  refine ite_keep hs ?_
  extract_lets shown base a b f c d e
  have ha : s₀.LanesLast a := State.abandonCkpts_lanesLast n hs
  have hb : s₀.LanesLast b := State.modSpan_lanesLast _ _ (State.modEng_lanesLast _ _ (State.LanesLast.rest ha))
  have hc : s₀.LanesLast c := State.LanesLast.withFlt hb rfl
  have hd : s₀.LanesLast d := State.modPier_lanesLast _ _ (State.pierStop_lanesLast _ _ _ hc)
  exact State.replaceIdle_lanesLast _ (State.refuseLaunches_lanesLast _ (State.modSpan_lanesLast _ _ hd))

theorem State.rebuildCopies_lanesLast {s : State} (hs : s₀.LanesLast s) : s₀.LanesLast (State.rebuildCopies s) := by
  grind [State.LanesLast, State.rebuildCopies, foldl_lanesLast]

theorem State.copiesRebuilt_lanesLast {s : State} (hs : s₀.LanesLast s) : s₀.LanesLast (State.copiesRebuilt s) :=
  hs

theorem State.fenceMem_lanesLast {s : State} (n : Nat) (hs : s₀.LanesLast s) :
    s₀.LanesLast (State.fenceMem n s) := by
  have := @State.loseProblems_lanesLast s₀
  have := @State.stopCtxsIn_lanesLast s₀
  have := @State.rebuildCopies_lanesLast s₀
  grind [State.LanesLast, State.fenceMem, State.withFlt]

theorem State.fenceCxl_lanesLast {s : State} (p : Nat) (hs : s₀.LanesLast s) :
    s₀.LanesLast (State.fenceCxl p s) := by
  have := @State.loseProblems_lanesLast s₀
  have := @State.stopCtxsIn_lanesLast s₀
  grind [State.LanesLast, State.fenceCxl, State.withFlt]

theorem State.fenceLink_lanesLast {s : State} (l cause : Nat) (hs : s₀.LanesLast s) :
    s₀.LanesLast (State.fenceLink l cause s) := by
  have := @State.takeDown_lanesLast s₀
  grind [State.LanesLast, State.fenceLink, State.withFlt]

theorem State.fenceLanes_lanesLast {s : State} (l mask : Nat) (hs : s₀.LanesLast s) :
    s₀.LanesLast (State.fenceLanes l mask s) := by
  unfold State.fenceLanes
  extract_lets lanes f t
  have ht : s₀.LanesLast t := hs.put l _
  clear_value t
  exact ite_keep ht (State.loseLanes_lanesLast l _ ht)

theorem State.fenceUnitOf_lanesLast {s : State} (b : BlockId) (k detail : Nat) (hs : s₀.LanesLast s) :
    s₀.LanesLast (State.fenceUnitOf s b k detail) := by
  have := @State.fenceSpan_lanesLast s₀
  have := @State.fenceMem_lanesLast s₀
  have := @State.fenceCxl_lanesLast s₀
  have := @State.fenceLink_lanesLast s₀
  have := @State.fenceLanes_lanesLast s₀
  unfold State.fenceUnitOf
  grind

theorem State.raise_lanesLast {s : State} (b : BlockId) (k detail : Nat) (hs : s₀.LanesLast s) :
    s₀.LanesLast (State.raise s b k detail) := by
  have := @State.enterRaise_lanesLast s₀
  have := @State.fenceUnitOf_lanesLast s₀
  grind [State.raise]

theorem State.raiseMandatory_lanesLast {s : State} (b : BlockId) (k detail : Nat) (hs : s₀.LanesLast s) :
    s₀.LanesLast (State.raiseMandatory s b k detail) := by
  have := @State.enterRaise_lanesLast s₀
  have := @State.fenceUnitOf_lanesLast s₀
  grind [State.raiseMandatory]

theorem State.undoLoad_lanesLast {s : State} (e : Exec) (hs : s₀.LanesLast s) :
    s₀.LanesLast (State.undoLoad s e) := by
  have := @State.freeProblem_lanesLast s₀
  grind [State.undoLoad]

theorem State.completeCmd_lanesLast {s : State} (c : Nat) (e : Exec) (status detail : Nat) (hs : s₀.LanesLast s) :
    s₀.LanesLast (State.completeCmd s c e status detail) := by
  have := @State.completeWith_lanesLast s₀
  have := @State.undoLoad_lanesLast s₀
  grind [State.LanesLast, State.completeCmd]

theorem State.faultExec_lanesLast {s : State} (c : Nat) (batch : Bool) (hs : s₀.LanesLast s) :
    s₀.LanesLast (State.faultExec s c batch) := by
  have := @State.modExec_lanesLast s₀
  have := @State.undoLoad_lanesLast s₀
  grind [State.faultExec]

theorem State.faultCtx_lanesLast {s : State} (c : Nat) (hs : s₀.LanesLast s) :
    s₀.LanesLast (State.faultCtx s c) := by
  unfold State.faultCtx
  extract_lets t x
  have ht : s₀.LanesLast t := State.dropQueued_lanesLast c hs
  clear_value t x
  split
  · exact ht
  · split
    · grind [State.modCtx_lanesLast, State.completeCmd_lanesLast, State.faultExec_lanesLast]
    · grind [State.modCtx_lanesLast]

theorem State.addPoison_lanesLast {s : State} (k : Nat) (hs : s₀.LanesLast s) :
    s₀.LanesLast (State.addPoison s k) := by
  grind [State.LanesLast, State.addPoison]

theorem State.retrainMem_lanesLast {s : State} (i : Nat) (holds : Bool) (hs : s₀.LanesLast s) :
    s₀.LanesLast (State.retrainMem s i holds) := by
  have := @State.modMem_lanesLast s₀
  have := @State.raise_lanesLast s₀
  grind [State.retrainMem]

theorem State.raiseTimes_lanesLast {s : State} (b : BlockId) (k detail fuel : Nat) (hs : s₀.LanesLast s) :
    s₀.LanesLast (State.raiseTimes s b k detail fuel) := by
  have := @State.raise_lanesLast s₀
  induction fuel generalizing s with
  | _ => grind [State.raiseTimes]

theorem State.memEvent_lanesLast {s : State} (k : MemEvent) (hs : s₀.LanesLast s) :
    s₀.LanesLast (State.memEvent s k) := by
  have := @State.modSpan_lanesLast s₀
  have := @State.modMem_lanesLast s₀
  have := @State.modCxl_lanesLast s₀
  have := @State.raise_lanesLast s₀
  have := @State.addPoison_lanesLast s₀
  have := @State.retrainMem_lanesLast s₀
  have := @State.raiseTimes_lanesLast s₀
  induction k generalizing s with
  | _ => grind [State.LanesLast, State.memEvent, foldl_lanesLast]

theorem State.memEvents_lanesLast {s : State} (l : List MemEvent) (hs : s₀.LanesLast s) :
    s₀.LanesLast (State.memEvents s l) := by
  have := @State.memEvent_lanesLast s₀
  grind [State.memEvents, foldl_lanesLast]

end Sys2Proof.Machine
end

section
/-! PROOFS. Fenced lanes stay fenced: the work of runs, and what goes on by itself.
-/

namespace Sys2Proof.Machine

variable {s₀ : State}

/-! ### Machine/SysOut.lean -/

theorem State.dropFlit_lanesLast {s : State} (l : Nat) (hs : s₀.LanesLast s) :
    s₀.LanesLast (State.dropFlit s l) := by
  have := @State.modLink_lanesLast s₀
  have := @State.raise_lanesLast s₀
  grind [State.dropFlit]

theorem State.routeFlit_lanesLast {s : State} (f : TxFlit) (hs : s₀.LanesLast s) :
    s₀.LanesLast (State.routeFlit s f) := by
  have := @State.queueFlit_lanesLast s₀
  have := @State.dropFlit_lanesLast s₀
  grind [State.routeFlit]

theorem State.sendTo_lanesLast {s : State} (dst kind aux run : Nat) (payload : List Byte) (hs : s₀.LanesLast s) :
    s₀.LanesLast (State.sendTo s dst kind aux run payload) := by
  have := @State.routeFlit_lanesLast s₀
  grind [State.sendTo]

theorem State.sendMarker_lanesLast {s : State} (y : SysDesc) (part aux : Nat) (m : Marker) (hs : s₀.LanesLast s) :
    s₀.LanesLast (State.sendMarker s y part aux m) := by
  have := @State.sendTo_lanesLast s₀
  grind [State.sendMarker]

theorem State.modSys_lanesLast {s : State} (q : Nat) (f : SysRun → SysRun) (hs : s₀.LanesLast s) :
    s₀.LanesLast (State.modSys s q f) := by
  have := @State.modRun_lanesLast s₀
  grind [State.modSys]

theorem State.noteEndEf_lanesLast {s : State} (q run : Nat) (undo : Bool) (ef : Int) (hs : s₀.LanesLast s) :
    s₀.LanesLast (State.noteEndEf s q run undo ef) := by
  have := @State.modSys_lanesLast s₀
  grind [State.noteEndEf]

theorem State.sendBatch_lanesLast {s : State} (y : SysDesc) (part epoch : Nat) (initial undo : Bool)
    (seq seen : Nat) (ef : Int) (recs : List FlipRec) (hs : s₀.LanesLast s) :
    s₀.LanesLast (State.sendBatch s y part epoch initial undo seq seen ef recs) := by
  have := @State.sendTo_lanesLast s₀
  grind [State.sendBatch]

theorem State.exportRecs_lanesLast {s : State} (p : Problem) (r : Run) (n epoch : Nat) (undo : Bool)
    (recs : List FlipRec) (hs : s₀.LanesLast s) :
    s₀.LanesLast (State.exportRecs s p r n epoch undo recs) := by
  have := @State.modSys_lanesLast s₀
  have := @State.noteEndEf_lanesLast s₀
  grind [State.exportRecs]

theorem State.sendRecs_lanesLast {s : State} (y : SysDesc) (q part run : Nat) (undo : Bool) (seen : Nat)
    (ef : Int) (recs : List (Nat × FlipRec)) (hs : s₀.LanesLast s) :
    s₀.LanesLast (State.sendRecs s y q part run undo seen ef recs) := by
  unfold State.sendRecs
  refine foldl_lanesLast (fun u l hu => ?_) _ hs
  split
  · split
    · exact State.modSys_lanesLast _ _
        (State.sendBatch_lanesLast _ _ _ _ _ _ _ _ _
        (foldl_lanesLast (fun _ _ hv => State.modEng_lanesLast _ _ hv) _ hu))
    · exact hu
  · exact hu

theorem State.sendOut_lanesLast {s : State} (y : SysDesc) (r : Run) (x : SysRun) (run : Nat) (undo : Bool)
    (hs : s₀.LanesLast s) :
    s₀.LanesLast (State.sendOut s y r x run undo) := by
  have := @State.modSys_lanesLast s₀
  have := @State.sendRecs_lanesLast s₀
  grind [State.sendOut, foldl_lanesLast]

theorem State.sendSweepEnds_lanesLast {s : State} (y : SysDesc) (r : Run) (x : SysRun) (hs : s₀.LanesLast s) :
    s₀.LanesLast (State.sendSweepEnds s y r x) := by
  have := @State.sendMarker_lanesLast s₀
  grind [State.sendSweepEnds, foldl_lanesLast]

theorem State.closeEpochs_lanesLast {s : State} (p : Problem) (q fuel : Nat) (hs : s₀.LanesLast s) :
    s₀.LanesLast (State.closeEpochs p q fuel s) := by
  induction fuel generalizing s with
  | zero => exact hs
  | succ fuel ih =>
    unfold State.closeEpochs
    split
    · split
      · refine ite_keep ?_ hs
        extract_lets run a counts b c
        have ha : s₀.LanesLast a := State.sendOut_lanesLast _ _ _ _ _ hs
        clear_value a
        have hb : s₀.LanesLast b := ite_keep
          (foldl_lanesLast (fun _ _ hu => State.sendMarker_lanesLast _ _ _ _ hu) _ ha) ha
        clear_value b
        have hc : s₀.LanesLast c := by
          dsimp only [c]
          split
          · exact State.sendSweepEnds_lanesLast _ _ _ hb
          · exact hb
        exact ih (State.modSys_lanesLast _ _ hc)
      · exact hs
    · exact hs

theorem State.closeUndo_lanesLast {s : State} (p : Problem) (q last : Nat) (hs : s₀.LanesLast s) :
    s₀.LanesLast (State.closeUndo s p q last) := by
  have := @State.sendMarker_lanesLast s₀
  have := @State.modSys_lanesLast s₀
  have := @State.sendOut_lanesLast s₀
  grind [State.closeUndo, foldl_lanesLast]

/-! ### Machine/RunCore.lean -/

theorem State.commitFar_lanesLast {s : State} (r : Run) (n : Nat) (hs : s₀.LanesLast s) :
    s₀.LanesLast (State.commitFar s r n) := by
  have := @State.modSpan_lanesLast s₀
  have := @State.modEng_lanesLast s₀
  grind [State.commitFar, foldl_lanesLast]

theorem State.noteDeadline_lanesLast {s : State} (q : Nat) (hs : s₀.LanesLast s) :
    s₀.LanesLast (State.noteDeadline s q) := by
  have := @State.modRun_lanesLast s₀
  grind [State.noteDeadline]

theorem State.takeStops_lanesLast {s : State} (q : Nat) (hs : s₀.LanesLast s) :
    s₀.LanesLast (State.takeStops s q) := by
  have := @State.modRun_lanesLast s₀
  grind [State.takeStops]

theorem State.sendEpoch_lanesLast {s : State} (p : Problem) (r : Run) (n epoch : Nat) (undo : Bool)
    (recs : List FlipRec) (limit : Bool) (hs : s₀.LanesLast s) :
    s₀.LanesLast (State.sendEpoch s p r n epoch undo recs limit) := by
  have := @State.modEng_lanesLast s₀
  have := @State.exportRecs_lanesLast s₀
  have := @State.closeEpochs_lanesLast s₀
  grind [State.sendEpoch]

theorem State.noteGhosts_lanesLast {s : State} (p : Problem) (n : Nat) (due : List DueRec) (hs : s₀.LanesLast s) :
    s₀.LanesLast (State.noteGhosts s p n due) := by
  have := @State.modEng_lanesLast s₀
  grind [State.noteGhosts, foldl_lanesLast]

theorem State.adoptEf_lanesLast {s : State} (p : Problem) (r : Run) (n : Nat) (ef : Int) (hs : s₀.LanesLast s) :
    s₀.LanesLast (State.adoptEf s p r n ef) := by
  have := @State.modEng_lanesLast s₀
  grind [State.adoptEf]

theorem State.adoptEzOf_lanesLast {s : State} (p : Problem) (n : Nat) (ez : Store Int) (hs : s₀.LanesLast s) :
    s₀.LanesLast (State.adoptEzOf s p n ez) :=
  hs

theorem State.shadowRecs_lanesLast {s : State} (r : Run) (n : Nat) (due : List DueRec) (hs : s₀.LanesLast s) :
    s₀.LanesLast (State.shadowRecs s r n due) := by
  have := @State.modSpan_lanesLast s₀
  grind [State.shadowRecs, foldl_lanesLast]

theorem State.endEpoch_lanesLast {s : State} (p : Problem) (r : Run) (n : Nat) (hs : s₀.LanesLast s) :
    s₀.LanesLast (State.endEpoch s p r n) := by
  have := @State.modEng_lanesLast s₀
  have := @State.sendEpoch_lanesLast s₀
  grind [State.endEpoch]

theorem State.endEpochIfDone_lanesLast {s : State} (p : Problem) (r : Run) (n : Nat) (hs : s₀.LanesLast s) :
    s₀.LanesLast (State.endEpochIfDone s p r n) := by
  have := @State.endEpoch_lanesLast s₀
  grind [State.endEpochIfDone]

theorem State.endWork_lanesLast {s : State} (n : Nat) (hs : s₀.LanesLast s) : s₀.LanesLast (State.endWork s n) :=
  hs

theorem State.endLimit_lanesLast {s : State} (p : Problem) (r : Run) (n : Nat) (hs : s₀.LanesLast s) :
    s₀.LanesLast (State.endLimit s p r n) := by
  have := @State.modEng_lanesLast s₀
  have := @State.stopRun_lanesLast s₀
  have := @State.sendEpoch_lanesLast s₀
  have := @State.endWork_lanesLast s₀
  grind [State.endLimit]

theorem State.stopSpan_lanesLast {s : State} (p : Problem) (r : Run) (n : Nat) (hs : s₀.LanesLast s) :
    s₀.LanesLast (State.stopSpan s p r n) := by
  have := @State.modEng_lanesLast s₀
  have := @State.takeStops_lanesLast s₀
  have := @State.sendEpoch_lanesLast s₀
  grind [State.stopSpan]

theorem State.noteBlockEnd_lanesLast {s : State} (q : Nat) (hs : s₀.LanesLast s) :
    s₀.LanesLast (State.noteBlockEnd s q) := by
  have := @State.modRun_lanesLast s₀
  grind [State.noteBlockEnd]

theorem State.loadTile_lanesLast {s : State} (p : Problem) (n : Nat) (b : BlockRow) (hs : s₀.LanesLast s) :
    s₀.LanesLast (State.loadTile s p n b) := by
  have := @State.modSpan_lanesLast s₀
  grind [State.loadTile]

theorem State.afterBlock_lanesLast {s : State} (p : Problem) (r : Run) (n : Nat) (b : BlockRow) (start : SpanData)
    (ef : Int) (w : Work) (rest : List Nat) (recs : List FlipRec) (hs : s₀.LanesLast s) :
    s₀.LanesLast (State.afterBlock s p r n b start ef w rest recs) := by
  have := @State.modSpan_lanesLast s₀
  have := @State.modEng_lanesLast s₀
  have := @State.commitFar_lanesLast s₀
  have := @State.endEpochIfDone_lanesLast s₀
  have := @State.noteBlockEnd_lanesLast s₀
  grind [State.afterBlock]

theorem State.stopIfLost_lanesLast {s : State} (p : Problem) (r : Run) (b : BlockRow) (lost : List (Tier × Nat))
    (hs : s₀.LanesLast s) :
    s₀.LanesLast (State.stopIfLost s p r b lost) := by
  have := @State.stopRun_lanesLast s₀
  grind [State.stopIfLost]

theorem State.fieldsWritten_lanesLast {s : State} (n : Nat) (b : BlockRow) (hs : s₀.LanesLast s) :
    s₀.LanesLast (State.fieldsWritten s n b) :=
  hs

theorem State.visitBlock_lanesLast {s : State} (p : Problem) (r : Run) (n : Nat) (b : BlockRow)
    (hs : s₀.LanesLast s) :
    s₀.LanesLast (State.visitBlock s p r n b) := by
  have := @State.modEng_lanesLast s₀
  have := @State.endLimit_lanesLast s₀
  have := @State.loadTile_lanesLast s₀
  have := @State.afterBlock_lanesLast s₀
  have := @State.stopIfLost_lanesLast s₀
  have := @State.fieldsWritten_lanesLast s₀
  unfold State.visitBlock
  dsimp only
  split
  all_goals grind

theorem State.continueBlock_lanesLast {s : State} (p : Problem) (r : Run) (n : Nat) (b : BlockRow)
    (lanes : List Nat) (hs : s₀.LanesLast s) :
    s₀.LanesLast (State.continueBlock s p r n b lanes) := by
  have := @State.modEng_lanesLast s₀
  have := @State.endLimit_lanesLast s₀
  have := @State.afterBlock_lanesLast s₀
  have := @State.stopIfLost_lanesLast s₀
  unfold State.continueBlock
  grind

theorem State.noteFirstBlock_lanesLast {s : State} (r : Run) (hs : s₀.LanesLast s) :
    s₀.LanesLast (State.noteFirstBlock s r) := by
  have := @State.modRun_lanesLast s₀
  grind [State.noteFirstBlock]

theorem State.decideNext_lanesLast {s : State} (n : Nat) (hs : s₀.LanesLast s) :
    s₀.LanesLast (State.decideNext s n) := by
  have := @State.stopSpan_lanesLast s₀
  have := @State.visitBlock_lanesLast s₀
  have := @State.noteFirstBlock_lanesLast s₀
  grind [State.decideNext]

theorem State.decideWith_lanesLast {s : State} (n : Nat) (events : List MemEvent) (hs : s₀.LanesLast s) :
    s₀.LanesLast (State.decideWith s n events) := by
  have := @State.stopRun_lanesLast s₀
  have := @State.memEvents_lanesLast s₀
  have := @State.decideNext_lanesLast s₀
  grind [State.decideWith]

theorem State.refreshNext_lanesLast {s : State} (n : Nat) (hs : s₀.LanesLast s) :
    s₀.LanesLast (State.refreshNext s n) := by
  have := @State.modEng_lanesLast s₀
  have := @State.endLimit_lanesLast s₀
  have := @State.stopIfLost_lanesLast s₀
  have := @State.fieldsWritten_lanesLast s₀
  grind [State.refreshNext]

theorem State.pairOn_lanesLast {s : State} (r : Run) (n k : Nat) (hs : s₀.LanesLast s) :
    s₀.LanesLast (State.pairOn r n k s) := by
  have := @State.modEng_lanesLast s₀
  have := @State.shadowRecs_lanesLast s₀
  induction k generalizing s with
  | _ => grind [State.pairOn]

theorem State.deliverVc1_lanesLast {s : State} (n src : Nat) (b : Vc1Body) (hs : s₀.LanesLast s) :
    s₀.LanesLast (State.deliverVc1 s n src b) := by
  have := @State.modEng_lanesLast s₀
  have := @State.countDrops_lanesLast s₀
  have := @State.pairOn_lanesLast s₀
  grind [State.deliverVc1]

theorem State.deliverWhere_lanesLast {s : State} (pick : Vc1Msg → Nat → Bool) (hs : s₀.LanesLast s) :
    s₀.LanesLast (State.deliverWhere s pick) := by
  have := @State.deliverVc1_lanesLast s₀
  grind [State.LanesLast, State.deliverWhere, foldl_lanesLast]

theorem State.drainRun_lanesLast {s : State} (r : Run) (hs : s₀.LanesLast s) :
    s₀.LanesLast (State.drainRun s r) := by
  have := @State.injectFirst_lanesLast s₀
  have := @State.deliverWhere_lanesLast s₀
  grind [State.drainRun, foldl_lanesLast]

theorem State.afterApply_lanesLast {s : State} (p : Problem) (r : Run) (n b : Nat) (due : List DueRec)
    (hs : s₀.LanesLast s) :
    s₀.LanesLast (State.afterApply s p r n b due) := by
  have := @State.modEng_lanesLast s₀
  have := @State.noteGhosts_lanesLast s₀
  have := @State.shadowRecs_lanesLast s₀
  grind [State.afterApply]

theorem State.applyEpochs_lanesLast {s : State} (p : Problem) (r : Run) (n b ep : Nat) (keep : Bool)
    (hs : s₀.LanesLast s) :
    s₀.LanesLast (State.applyEpochs s p r n b ep keep).1 := by
  have := @State.modEng_lanesLast s₀
  have := @State.commitFar_lanesLast s₀
  have := @State.adoptEf_lanesLast s₀
  have := @State.adoptEzOf_lanesLast s₀
  have := @State.afterApply_lanesLast s₀
  unfold State.applyEpochs
  grind

theorem State.nextEpoch_lanesLast {s : State} (p : Problem) (r : Run) (n : Nat) (hs : s₀.LanesLast s) :
    s₀.LanesLast (State.nextEpoch s p r n) := by
  have := @State.modEng_lanesLast s₀
  have := @State.endEpochIfDone_lanesLast s₀
  grind [State.nextEpoch]

theorem State.plainBoundary_lanesLast {s : State} (p : Problem) (r : Run) (n : Nat) (hs : s₀.LanesLast s) :
    s₀.LanesLast (State.plainBoundary s p r n) := by
  have := @State.modEng_lanesLast s₀
  have := @State.endWork_lanesLast s₀
  have := @State.endLimit_lanesLast s₀
  have := @State.applyEpochs_lanesLast s₀
  have := @State.nextEpoch_lanesLast s₀
  grind [State.plainBoundary]

theorem State.flushLimit_lanesLast {s : State} (r : Run) (hs : s₀.LanesLast s) :
    s₀.LanesLast (State.flushLimit s r) := by
  have := @State.modEng_lanesLast s₀
  have := @State.stopRun_lanesLast s₀
  have := @State.endWork_lanesLast s₀
  grind [State.flushLimit, foldl_lanesLast]

theorem State.flushApply_lanesLast {s : State} (p : Problem) (r : Run) (n last : Nat) (hs : s₀.LanesLast s) :
    s₀.LanesLast (State.flushApply s p r n last) := by
  have := @State.modEng_lanesLast s₀
  have := @State.sendEpoch_lanesLast s₀
  have := @State.endWork_lanesLast s₀
  have := @State.applyEpochs_lanesLast s₀
  have := @State.flushLimit_lanesLast s₀
  grind [State.flushApply]

theorem State.flushUndo_lanesLast {s : State} (p : Problem) (r : Run) (n last : Nat) (hs : s₀.LanesLast s) :
    s₀.LanesLast (State.flushUndo s p r n last) := by
  have := @State.modEng_lanesLast s₀
  have := @State.commitFar_lanesLast s₀
  have := @State.adoptEf_lanesLast s₀
  have := @State.adoptEzOf_lanesLast s₀
  have := @State.afterApply_lanesLast s₀
  have := @State.flushLimit_lanesLast s₀
  unfold State.flushUndo
  dsimp only
  (repeat' split)
  all_goals grind

theorem State.colourOn_lanesLast {s : State} (p : Problem) (r : Run) (n last : Nat) (hs : s₀.LanesLast s) :
    s₀.LanesLast (State.colourOn s p r n last) := by
  have := @State.modEng_lanesLast s₀
  have := @State.nextEpoch_lanesLast s₀
  grind [State.colourOn]

theorem State.flushStep_lanesLast {s : State} (p : Problem) (r : Run) (n : Nat) (hs : s₀.LanesLast s) :
    s₀.LanesLast (State.flushStep s p r n) := by
  have := @State.flushApply_lanesLast s₀
  have := @State.flushUndo_lanesLast s₀
  have := @State.colourOn_lanesLast s₀
  grind [State.flushStep]

theorem State.closeUndoAll_lanesLast {s : State} (p : Problem) (r : Run) (n : Nat) (hs : s₀.LanesLast s) :
    s₀.LanesLast (State.closeUndoAll s p r n) := by
  have := @State.closeUndo_lanesLast s₀
  grind [State.closeUndoAll]

theorem State.boundaryStep_lanesLast {s : State} (n : Nat) (flush : Bool) (hs : s₀.LanesLast s) :
    s₀.LanesLast (State.boundaryStep s n flush) := by
  have := @State.endWork_lanesLast s₀
  have := @State.stopSpan_lanesLast s₀
  have := @State.plainBoundary_lanesLast s₀
  have := @State.flushStep_lanesLast s₀
  have := @State.closeUndoAll_lanesLast s₀
  grind [State.boundaryStep]

/-! ### Machine/RunEnd.lean -/

theorem State.adoptAll_lanesLast {s : State} (p : Problem) (r : Run) (hs : s₀.LanesLast s) :
    s₀.LanesLast (State.adoptAll s p r) := by
  have := @State.modEng_lanesLast s₀
  have := @State.modRun_lanesLast s₀
  have := @State.adoptEf_lanesLast s₀
  grind [State.adoptAll, foldl_lanesLast]

theorem State.formTotals_lanesLast {s : State} (p : Problem) (r : Run) (hs : s₀.LanesLast s) :
    s₀.LanesLast (State.formTotals s p r) := by
  have := @State.modEng_lanesLast s₀
  have := @State.modRun_lanesLast s₀
  grind [State.formTotals, foldl_lanesLast]

theorem State.gatherCounts_lanesLast {s : State} (r : Run) (hs : s₀.LanesLast s) :
    s₀.LanesLast (State.gatherCounts s r) := by
  have := @State.modEng_lanesLast s₀
  have := @State.modRun_lanesLast s₀
  grind [State.gatherCounts, foldl_lanesLast]

theorem State.restEngines_lanesLast {s : State} (r : Run) (hs : s₀.LanesLast s) :
    s₀.LanesLast (State.restEngines s r) := by
  have := @State.modEng_lanesLast s₀
  have := @State.drainRun_lanesLast s₀
  grind [State.restEngines, foldl_lanesLast]

theorem State.settleLocal_lanesLast {s : State} (p : Problem) (r : Run) (hs : s₀.LanesLast s) :
    s₀.LanesLast (State.settleLocal s p r) := by
  have := @State.modRun_lanesLast s₀
  have := @State.takeStops_lanesLast s₀
  have := @State.adoptAll_lanesLast s₀
  have := @State.formTotals_lanesLast s₀
  have := @State.gatherCounts_lanesLast s₀
  have := @State.restEngines_lanesLast s₀
  grind [State.settleLocal]

theorem State.setPartials_lanesLast {s : State} (r : Run) (totals : Store Int) (hs : s₀.LanesLast s) :
    s₀.LanesLast (State.setPartials s r totals) := by
  have := @State.modEng_lanesLast s₀
  grind [State.setPartials, foldl_lanesLast]

theorem State.refreshSpan_lanesLast {s : State} (p : Problem) (r : Run) (n : Nat) (hs : s₀.LanesLast s) :
    s₀.LanesLast (State.refreshSpan s p r n).1 := by
  have := @State.modEng_lanesLast s₀
  have := @State.raiseTimes_lanesLast s₀
  grind [State.refreshSpan]

theorem State.limitEverywhere_lanesLast {s : State} (p : Problem) (r : Run) (hs : s₀.LanesLast s) :
    s₀.LanesLast (State.limitEverywhere s p r) := by
  have := @State.modEng_lanesLast s₀
  have := @State.modRun_lanesLast s₀
  have := @State.adoptAll_lanesLast s₀
  have := @State.formTotals_lanesLast s₀
  grind [State.limitEverywhere, foldl_lanesLast]

theorem State.unitDone_lanesLast {s : State} (r : Run) (hs : s₀.LanesLast s) :
    s₀.LanesLast (State.unitDone s r) := by
  have := @State.modEng_lanesLast s₀
  grind [State.unitDone, foldl_lanesLast]

theorem State.refreshStep_lanesLast {s : State} (p : Problem) (r : Run) (hs : s₀.LanesLast s) :
    s₀.LanesLast (State.refreshStep s p r) := by
  have := @State.modRun_lanesLast s₀
  have := @State.adoptAll_lanesLast s₀
  have := @State.formTotals_lanesLast s₀
  have := @State.refreshSpan_lanesLast s₀
  have := @State.limitEverywhere_lanesLast s₀
  have := @State.unitDone_lanesLast s₀
  grind [State.refreshStep, foldl_lanesLast, foldl_lanesLast₁, foldl_lanesLast₂]

theorem State.auditAgainst_lanesLast {s : State} (p : Problem) (r : Run) (vals : Store Int) (counts : Store Nat)
    (hs : s₀.LanesLast s) :
    s₀.LanesLast (State.auditAgainst s p r vals counts).1 := by
  have := @State.modEng_lanesLast s₀
  have := @State.modRun_lanesLast s₀
  have := @State.raise_lanesLast s₀
  grind [State.auditAgainst, foldl_lanesLast]

theorem State.auditStep_lanesLast {s : State} (p : Problem) (r : Run) (hs : s₀.LanesLast s) :
    s₀.LanesLast (State.auditStep s p r).1 := by
  have := @State.auditAgainst_lanesLast s₀
  grind [State.auditStep]

theorem State.snapshot_lanesLast {s : State} (p : Problem) (r : Run) (rep : Nat) (hs : s₀.LanesLast s) :
    s₀.LanesLast (State.snapshot s p r rep) := by
  have := @State.modSpan_lanesLast s₀
  have := @State.modRun_lanesLast s₀
  have := @State.modProblem_lanesLast s₀
  grind [State.snapshot, foldl_lanesLast]

theorem State.bestStep_lanesLast {s : State} (p : Problem) (r : Run) (hs : s₀.LanesLast s) :
    s₀.LanesLast (State.bestStep s p r).1 := by
  have := @State.modRun_lanesLast s₀
  have := @State.snapshot_lanesLast s₀
  grind [State.bestStep]

theorem State.runWrite_lanesLast {s : State} (r : Run) (a : Nat) (l : List Byte) (hs : s₀.LanesLast s) :
    s₀.LanesLast (State.runWrite s r a l) := by
  have := @State.writeBytes_lanesLast s₀
  have := @State.modExec_lanesLast s₀
  grind [State.runWrite]

theorem State.sampleStep_lanesLast {s : State} (p : Problem) (r : Run) (hs : s₀.LanesLast s) :
    s₀.LanesLast (State.sampleStep s p r) := by
  have := @State.modRun_lanesLast s₀
  have := @State.runWrite_lanesLast s₀
  grind [State.sampleStep]

theorem State.finishRunCmd_lanesLast {s : State} (r : Run) (status detail : Nat) (hs : s₀.LanesLast s) :
    s₀.LanesLast (State.finishRunCmd s r status detail) := by
  have := @State.modExec_lanesLast s₀
  grind [State.finishRunCmd]

theorem State.endWaits_lanesLast {s : State} (op id : Nat) (f : Exec → Exec) (hs : s₀.LanesLast s) :
    s₀.LanesLast (State.endWaits s op id f) := by
  grind [State.LanesLast, State.endWaits]

theorem State.finishFrees_lanesLast {s : State} (hs : s₀.LanesLast s) : s₀.LanesLast (State.finishFrees s) := by
  have := @State.finishExec_lanesLast s₀
  have := @State.freeProblem_lanesLast s₀
  grind [_=_ lanesLast_iff, State.finishFrees, foldl_lanesLast]

theorem State.keepStates_lanesLast {s : State} (p : Problem) (arr : Store Bool) (hs : s₀.LanesLast s) :
    s₀.LanesLast (State.keepStates s p arr) := by
  have := @State.modProblem_lanesLast s₀
  grind [State.keepStates]

theorem State.replaceAll_lanesLast {s : State} (hs : s₀.LanesLast s) : s₀.LanesLast (State.replaceAll s) := by
  have := @State.replaceIdle_lanesLast s₀
  grind [State.replaceAll, foldl_lanesLast]

theorem State.finishRun_lanesLast {s : State} (p : Problem) (r : Run) (complete : Bool) (hs : s₀.LanesLast s) :
    s₀.LanesLast (State.finishRun s p r complete) := by
  unfold State.finishRun
  extract_lets a x writes b st c d e f g h
  have ha : s₀.LanesLast a := State.gatherCounts_lanesLast _ hs
  have hb : s₀.LanesLast b := ite_keep (State.runWrite_lanesLast _ _ _ ha) ha
  have hc : s₀.LanesLast c := State.finishRunCmd_lanesLast _ _ _ hb
  have hd : s₀.LanesLast d := ite_keep (State.modCtx_lanesLast _ _ hc) hc
  have hf : s₀.LanesLast f := State.endWaits_lanesLast _ _ _ (State.endWaits_lanesLast _ _ _ hd)
  have hg : s₀.LanesLast g := foldl_lanesLast (fun u n hu => ite_keep (State.modSpan_lanesLast _ _ hu) hu) _ hf
  have hh : s₀.LanesLast h := State.keepStates_lanesLast _ _ (State.restEngines_lanesLast _ hg)
  exact State.finishFrees_lanesLast (State.replaceAll_lanesLast (State.LanesLast.rest hh))

/-! ### Machine/RunNext.lean -/

theorem State.loadDecks_lanesLast {s : State} (r : Run) (rows : List BlockRow) (x : Nat → Nat → Bool)
    (hs : s₀.LanesLast s) :
    s₀.LanesLast (State.loadDecks s r rows x) := by
  have := @State.modSpan_lanesLast s₀
  have := @State.modEng_lanesLast s₀
  grind [State.loadDecks, foldl_lanesLast]

theorem State.loadShadows_lanesLast {s : State} (r : Run) (next : Nat) (hs : s₀.LanesLast s) :
    s₀.LanesLast (State.loadShadows s r next) := by
  have := @State.modSpan_lanesLast s₀
  grind [State.loadShadows, foldl_lanesLast]

theorem State.recomputeIn_lanesLast {s : State} (p : Problem) (r : Run) (factors : Nat → Factored → Bool)
    (pick : BlockRow → Bool) (hs : s₀.LanesLast s) :
    s₀.LanesLast (State.recomputeIn s p r factors pick).1 := by
  have := @State.modEng_lanesLast s₀
  have := @State.fieldsWritten_lanesLast s₀
  have := @State.adoptAll_lanesLast s₀
  grind [State.recomputeIn, foldl_lanesLast, foldl_lanesLast₁, foldl_lanesLast₂]

theorem State.limitAs_lanesLast {s : State} (p : Problem) (r : Run) (hs : s₀.LanesLast s) :
    s₀.LanesLast (State.limitAs s t p r) := by
  have := @State.modEng_lanesLast s₀
  have := @State.adoptEf_lanesLast s₀
  have := @State.limitEverywhere_lanesLast s₀
  grind [State.limitAs, foldl_lanesLast]

theorem State.bringGhosts_lanesLast {s : State} (p q : Problem) (r : Run) (before after : List BlockRow)
    (hs : s₀.LanesLast s) :
    s₀.LanesLast (State.bringGhosts s p q r before after) := by
  have := @State.modEng_lanesLast s₀
  grind [State.bringGhosts, foldl_lanesLast]

theorem State.rewriteTiles_lanesLast {s : State} (p : Problem) (rows : List BlockRow) (hs : s₀.LanesLast s) :
    s₀.LanesLast (State.rewriteTiles s p rows) := by
  have := @State.modProblem_lanesLast s₀
  grind [State.rewriteTiles]

theorem State.migrateStep_lanesLast {s : State} (p : Problem) (r : Run) (hs : s₀.LanesLast s) :
    s₀.LanesLast (State.migrateStep s p r).1 := by
  have := @State.modRun_lanesLast s₀
  have := @State.loadDecks_lanesLast s₀
  have := @State.loadShadows_lanesLast s₀
  have := @State.recomputeIn_lanesLast s₀
  have := @State.limitAs_lanesLast s₀
  have := @State.bringGhosts_lanesLast s₀
  have := @State.rewriteTiles_lanesLast s₀
  unfold State.migrateStep
  grind

theorem State.rotateStep_lanesLast {s : State} (p : Problem) (r : Run) (hs : s₀.LanesLast s) :
    s₀.LanesLast (State.rotateStep s p r).1 := by
  have := @State.modEng_lanesLast s₀
  have := @State.modRun_lanesLast s₀
  have := @State.keepStates_lanesLast s₀
  have := @State.loadDecks_lanesLast s₀
  have := @State.loadShadows_lanesLast s₀
  have := @State.recomputeIn_lanesLast s₀
  have := @State.limitAs_lanesLast s₀
  have := @State.bringGhosts_lanesLast s₀
  grind [State.rotateStep, foldl_lanesLast]

theorem State.ckptBegin_lanesLast {s : State} (p : Problem) (r : Run) (hs : s₀.LanesLast s) :
    s₀.LanesLast (State.ckptBegin s p r) := by
  have := @State.drawWord_lanesLast s₀
  have := @State.drawBytes_lanesLast s₀
  have := @State.modRun_lanesLast s₀
  have := @State.runWrite_lanesLast s₀
  grind [_=_ lanesLast_iff, State.ckptBegin]

theorem State.ckptClose_lanesLast {s : State} (p : Problem) (r : Run) (hs : s₀.LanesLast s) :
    s₀.LanesLast (State.ckptClose s p r) := by
  have := @State.modRun_lanesLast s₀
  have := @State.runWrite_lanesLast s₀
  have := @State.endWaits_lanesLast s₀
  grind [State.ckptClose]

theorem State.nextStep_lanesLast {s : State} (p : Problem) (r : Run) (hs : s₀.LanesLast s) :
    s₀.LanesLast (State.nextStep s p r) := by
  have := @State.modRun_lanesLast s₀
  have := @State.ckptBegin_lanesLast s₀
  grind [State.nextStep]

theorem State.shadowWords_lanesLast {s : State} (rows : List BlockRow) (hs : s₀.LanesLast s) :
    s₀.LanesLast (State.shadowWords s rows) := by
  have := @State.modSpan_lanesLast s₀
  grind [State.shadowWords, foldl_lanesLast]

theorem State.remap_lanesLast {s : State} (p : Problem) (r : Run) (hs : s₀.LanesLast s) :
    s₀.LanesLast (State.remap s p r) := by
  unfold State.remap
  repeat' (first
    | with_reducible assumption
    | (extract_lets +onlyGivenNames _t; revert _t
       with_reducible refine let_keep (P := s₀.LanesLast) ?_ (fun _ _ => ?_))
    | with_reducible apply State.modEng_lanesLast
    | with_reducible apply State.modBlock_lanesLast
    | with_reducible apply State.modRun_lanesLast
    | with_reducible apply State.modProblem_lanesLast
    | with_reducible apply State.adoptEf_lanesLast
    | with_reducible apply State.endWork_lanesLast
    | with_reducible apply State.nextEpoch_lanesLast
    | with_reducible apply State.setPartials_lanesLast
    | with_reducible apply State.snapshot_lanesLast
    | with_reducible apply State.loadDecks_lanesLast
    | with_reducible apply State.recomputeIn_lanesLast
    | with_reducible apply State.bringGhosts_lanesLast
    | with_reducible apply State.shadowWords_lanesLast
    | (with_reducible refine foldl_keep₁ (P := s₀.LanesLast) (fun _ _ _ => ?_) _ _ ?_) <;> try beta_reduce
    | (with_reducible refine foldl_keep (P := s₀.LanesLast) (fun _ _ _ => ?_) _ _ ?_) <;> try beta_reduce
    | (with_reducible refine ite_keep ?_ ?_)
    | split
    | dsimp only
    | (with_reducible refine of_fst (by with_reducible assumption) ?_))

/-! ### Machine/RunStart.lean -/

theorem State.placeRun_lanesLast {s : State} (p : Problem) (r : Run) (hs : s₀.LanesLast s) :
    s₀.LanesLast (State.placeRun s p r) := by
  have := @State.modSpan_lanesLast s₀
  grind [State.LanesLast, State.placeRun, foldl_lanesLast]

theorem State.firstState_lanesLast {s : State} (p : Problem) (r : Run) (hs : s₀.LanesLast s) :
    s₀.LanesLast (State.firstState s p r) := by
  have := @State.keepStates_lanesLast s₀
  have := @State.loadDecks_lanesLast s₀
  have := @State.loadShadows_lanesLast s₀
  have := @State.placeRun_lanesLast s₀
  grind [State.firstState]

theorem State.firstBest_lanesLast {s : State} (p : Problem) (r : Run) (hs : s₀.LanesLast s) :
    s₀.LanesLast (State.firstBest s p r) := by
  have := @State.modRun_lanesLast s₀
  have := @State.snapshot_lanesLast s₀
  grind [State.firstBest]

theorem State.firstFields_lanesLast {s : State} (p : Problem) (r : Run) (hs : s₀.LanesLast s) :
    s₀.LanesLast (State.firstFields s p r) := by
  have := @State.modRun_lanesLast s₀
  have := @State.setPartials_lanesLast s₀
  have := @State.recomputeIn_lanesLast s₀
  grind [State.firstFields]

theorem State.firstBetas_lanesLast {s : State} (p : Problem) (q : Nat) (hs : s₀.LanesLast s) :
    s₀.LanesLast (State.firstBetas s p q) := by
  have := @State.modRun_lanesLast s₀
  grind [State.firstBetas]

theorem State.formStart_lanesLast {s : State} (p : Problem) (r : Run) (hs : s₀.LanesLast s) :
    s₀.LanesLast (State.formStart s p r) := by
  have := @State.firstBest_lanesLast s₀
  have := @State.firstFields_lanesLast s₀
  have := @State.firstBetas_lanesLast s₀
  grind [State.formStart]

theorem State.loadCkpt_lanesLast {s : State} (p : Problem) (c : Ckpt) (r : Run) (hs : s₀.LanesLast s) :
    s₀.LanesLast (State.loadCkpt s p c r) := by
  have := @State.modSpan_lanesLast s₀
  have := @State.loadDecks_lanesLast s₀
  have := @State.loadShadows_lanesLast s₀
  grind [State.loadCkpt, foldl_lanesLast]

theorem State.restoreRun_lanesLast {s : State} (p : Problem) (c : Ckpt) (r : Run) (hs : s₀.LanesLast s) :
    s₀.LanesLast (State.restoreRun s p c r) := by
  have := @State.modSpan_lanesLast s₀
  have := @State.modRun_lanesLast s₀
  have := @State.modProblem_lanesLast s₀
  have := @State.fieldsWritten_lanesLast s₀
  have := @State.setPartials_lanesLast s₀
  have := @State.keepStates_lanesLast s₀
  have := @State.loadDecks_lanesLast s₀
  have := @State.loadShadows_lanesLast s₀
  have := @State.recomputeIn_lanesLast s₀
  have := @State.placeRun_lanesLast s₀
  have := @State.loadCkpt_lanesLast s₀
  unfold State.restoreRun
  grind [foldl_lanesLast]

/-! ### Machine/System.lean -/

theorem State.sendCause_lanesLast {s : State} (y : SysDesc) (r : Run) (parts : List Nat) (cause epoch : Nat)
    (hs : s₀.LanesLast s) :
    s₀.LanesLast (State.sendCause s y r parts cause epoch) := by
  have := @State.sendMarker_lanesLast s₀
  grind [State.sendCause, foldl_lanesLast]

theorem State.endPart_lanesLast {s : State} (y : SysDesc) (r : Run) (cause epoch : Nat) (hs : s₀.LanesLast s) :
    s₀.LanesLast (State.endPart s y r cause epoch) := by
  have := @State.modSys_lanesLast s₀
  have := @State.sendCause_lanesLast s₀
  grind [State.endPart]

theorem State.takeCause_lanesLast {s : State} (y : SysDesc) (r : Run) (x : SysRun) (part : Nat) (m : Marker)
    (hs : s₀.LanesLast s) :
    s₀.LanesLast (State.takeCause s y r x part m) := by
  have := @State.modSys_lanesLast s₀
  have := @State.sendCause_lanesLast s₀
  grind [State.takeCause]

theorem State.noteCause_lanesLast {s : State} (p : Problem) (y : SysDesc) (r : Run) (x : SysRun)
    (hs : s₀.LanesLast s) :
    s₀.LanesLast (State.noteCause s p y r x) := by
  have := @State.closeEpochs_lanesLast s₀
  have := @State.endPart_lanesLast s₀
  grind [State.noteCause]

theorem State.sendInitial_lanesLast {s : State} (p : Problem) (y : SysDesc) (r : Run) (hs : s₀.LanesLast s) :
    s₀.LanesLast (State.sendInitial s p y r) := by
  have := @State.sendMarker_lanesLast s₀
  have := @State.sendBatch_lanesLast s₀
  grind [State.sendInitial, foldl_lanesLast]

theorem State.runStart_lanesLast {s : State} (p : Problem) (y : SysDesc) (r : Run) (m : Marker)
    (hs : s₀.LanesLast s) :
    s₀.LanesLast (State.runStart s p y r m) := by
  have := @State.modRun_lanesLast s₀
  have := @State.sendMarker_lanesLast s₀
  have := @State.sendInitial_lanesLast s₀
  grind [State.runStart, foldl_lanesLast]

theorem State.readyDone_lanesLast {s : State} (p : Problem) (y : SysDesc) (r : Run) (x : SysRun)
    (hs : s₀.LanesLast s) :
    s₀.LanesLast (State.readyDone s p y r x) := by
  have := @State.sendMarker_lanesLast s₀
  have := @State.modSys_lanesLast s₀
  have := @State.runStart_lanesLast s₀
  grind [State.readyDone]

theorem State.valuesDone_lanesLast {s : State} (p : Problem) (r : Run) (x : SysRun) (hs : s₀.LanesLast s) :
    s₀.LanesLast (State.valuesDone s p r x) := by
  have := @State.modEng_lanesLast s₀
  have := @State.modSys_lanesLast s₀
  have := @State.firstFields_lanesLast s₀
  have := @State.firstBetas_lanesLast s₀
  grind [State.valuesDone, foldl_lanesLast]

theorem State.sendWrite_lanesLast {s : State} (y : SysDesc) (part addr : Nat) (l : List Byte)
    (hs : s₀.LanesLast s) :
    s₀.LanesLast (State.sendWrite s y part addr l) := by
  have := @State.sendTo_lanesLast s₀
  grind [State.sendWrite, foldl_lanesLast]

theorem State.adoptSys_lanesLast {s : State} (p : Problem) (r : Run) (ef : Int) (hs : s₀.LanesLast s) :
    s₀.LanesLast (State.adoptSys s p r ef) := by
  have := @State.adoptEf_lanesLast s₀
  have := @State.adoptAll_lanesLast s₀
  grind [State.adoptSys, foldl_lanesLast]

theorem State.settleUp_lanesLast {s : State} (y : SysDesc) (r : Run) (sums : List SettleEntry)
    (hs : s₀.LanesLast s) :
    s₀.LanesLast (State.settleUp s y r sums) := by
  have := @State.sendMarker_lanesLast s₀
  have := @State.modSys_lanesLast s₀
  have := @State.setPartials_lanesLast s₀
  have := @State.sendWrite_lanesLast s₀
  grind [State.settleUp]

theorem State.sendDone_lanesLast {s : State} (y : SysDesc) (ladder : List Byte) (m : Marker) (hs : s₀.LanesLast s) :
    s₀.LanesLast (State.sendDone s y ladder m) := by
  have := @State.sendMarker_lanesLast s₀
  have := @State.sendWrite_lanesLast s₀
  grind [State.sendDone, foldl_lanesLast]

theorem State.adoptCause_lanesLast {s : State} (q cause status : Nat) (hs : s₀.LanesLast s) :
    s₀.LanesLast (State.adoptCause s q cause status) := by
  have := @State.modRun_lanesLast s₀
  grind [State.adoptCause]

theorem State.settleRoot_lanesLast {s : State} (p : Problem) (y : SysDesc) (r : Run) (x : SysRun)
    (sums : List SettleEntry) (hs : s₀.LanesLast s) :
    s₀.LanesLast (State.settleRoot s p y r x sums) := by
  have := @State.modRun_lanesLast s₀
  have := @State.modSys_lanesLast s₀
  have := @State.setPartials_lanesLast s₀
  have := @State.auditAgainst_lanesLast s₀
  have := @State.firstBest_lanesLast s₀
  have := @State.adoptSys_lanesLast s₀
  have := @State.settleUp_lanesLast s₀
  have := @State.sendDone_lanesLast s₀
  have := @State.adoptCause_lanesLast s₀
  unfold State.settleRoot
  dsimp only
  (repeat' split)
  all_goals grind [foldl_lanesLast]

theorem State.settleStep_lanesLast {s : State} (p : Problem) (y : SysDesc) (r : Run) (x : SysRun)
    (hs : s₀.LanesLast s) :
    s₀.LanesLast (State.settleStep s p y r x) := by
  have := @State.settleUp_lanesLast s₀
  have := @State.settleRoot_lanesLast s₀
  grind [State.settleStep]

theorem State.noteLimit_lanesLast {s : State} (q : Nat) (hs : s₀.LanesLast s) :
    s₀.LanesLast (State.noteLimit s q) := by
  have := @State.endPart_lanesLast s₀
  grind [State.noteLimit]

theorem State.sysSettle_lanesLast {s : State} (p : Problem) (r : Run) (ok : Bool) (hs : s₀.LanesLast s) :
    s₀.LanesLast (State.sysSettle s p r ok) := by
  have := @State.modEng_lanesLast s₀
  have := @State.modSys_lanesLast s₀
  have := @State.refreshStep_lanesLast s₀
  have := @State.noteLimit_lanesLast s₀
  grind [State.sysSettle, foldl_lanesLast]

theorem State.takeLadder_lanesLast {s : State} (p : Problem) (y : SysDesc) (r : Run) (hs : s₀.LanesLast s) :
    s₀.LanesLast (State.takeLadder s p y r) := by
  have := @State.modRun_lanesLast s₀
  grind [State.takeLadder, foldl_lanesLast]

theorem State.settleDone_lanesLast {s : State} (p : Problem) (y : SysDesc) (r : Run) (x : SysRun) (m : Marker)
    (hs : s₀.LanesLast s) :
    s₀.LanesLast (State.settleDone s p y r x m) := by
  have := @State.modRun_lanesLast s₀
  have := @State.modSys_lanesLast s₀
  have := @State.snapshot_lanesLast s₀
  have := @State.adoptSys_lanesLast s₀
  have := @State.sendDone_lanesLast s₀
  have := @State.adoptCause_lanesLast s₀
  have := @State.takeLadder_lanesLast s₀
  unfold State.settleDone
  dsimp only
  (repeat' split)
  all_goals grind

theorem State.settleAlone_lanesLast {s : State} (p : Problem) (r : Run) (x : SysRun) (hs : s₀.LanesLast s) :
    s₀.LanesLast (State.settleAlone s p r x) := by
  have := @State.modSys_lanesLast s₀
  have := @State.firstBest_lanesLast s₀
  have := @State.adoptCause_lanesLast s₀
  grind [State.settleAlone]

theorem State.sysStep_lanesLast {s : State} (q : Nat) (hs : s₀.LanesLast s) : s₀.LanesLast (State.sysStep s q) := by
  have := @State.modSys_lanesLast s₀
  have := @State.noteCause_lanesLast s₀
  have := @State.runStart_lanesLast s₀
  have := @State.readyDone_lanesLast s₀
  have := @State.valuesDone_lanesLast s₀
  have := @State.settleStep_lanesLast s₀
  have := @State.settleDone_lanesLast s₀
  have := @State.settleAlone_lanesLast s₀
  grind [State.sysStep]

theorem State.waitFails_lanesLast {s : State} (q : Nat) (hs : s₀.LanesLast s) :
    s₀.LanesLast (State.waitFails s q) := by
  have := @State.stopRun_lanesLast s₀
  have := @State.raise_lanesLast s₀
  have := @State.modSys_lanesLast s₀
  have := @State.endPart_lanesLast s₀
  grind [State.waitFails]

theorem State.expireWait_lanesLast {s : State} (q : Nat) (hs : s₀.LanesLast s) :
    s₀.LanesLast (State.expireWait s q) := by
  have := @State.waitFails_lanesLast s₀
  grind [State.expireWait]

theorem State.expireWaits_lanesLast {s : State} (hs : s₀.LanesLast s) : s₀.LanesLast (State.expireWaits s) := by
  have := @State.expireWait_lanesLast s₀
  grind [State.expireWaits, foldl_lanesLast]

theorem State.noteWait_lanesLast {s : State} (q : Nat) (hs : s₀.LanesLast s) :
    s₀.LanesLast (State.noteWait s q) := by
  have := @State.modSys_lanesLast s₀
  have := @State.expireWait_lanesLast s₀
  grind [State.noteWait]

theorem State.noteSettle_lanesLast {s : State} (addr len : Nat) (hs : s₀.LanesLast s) :
    s₀.LanesLast (State.noteSettle s addr len) := by
  have := @State.modSys_lanesLast s₀
  have := @State.expireWaits_lanesLast s₀
  grind [State.noteSettle, foldl_lanesLast]

theorem State.takeMarker_lanesLast {s : State} (num module aux : Nat) (m : Marker) (hs : s₀.LanesLast s) :
    s₀.LanesLast (State.takeMarker s num module aux m) := by
  unfold State.takeMarker
  split
  all_goals grind [_=_ lanesLast_iff, State.modSys_lanesLast, State.takeCause_lanesLast, State.settleUp_lanesLast,
    State.settleDone_lanesLast, State.expireWaits_lanesLast]

theorem State.takeBatch_lanesLast {s : State} (l num module : Nat) (b : FlipBatch) (hs : s₀.LanesLast s) :
    s₀.LanesLast (State.takeBatch s l num module b) := by
  have hd (u : State) (k : Nat) (f : Link → Link) (hu : s₀.LanesLast u) : s₀.LanesLast
    ((u.modLink l f).raiseTimes (lnkBlock l) 5 l k) :=
    State.raiseTimes_lanesLast _ _ _ _ (State.modLink_lanesLast _ _ hu)
  unfold State.takeBatch
  extract_lets drop t
  have ht : s₀.LanesLast t := State.expireWaits_lanesLast hs
  clear_value t
  split
  · exact hd _ _ _ ht
  · split
    · exact hd _ _ _ ht
    · extract_lets ghost bad a recs initial undo q
      have ha : s₀.LanesLast a := hd _ _ _ ht
      clear_value a
      split
      · exact State.modSys_lanesLast _ _ ha
      · exact State.modSys_lanesLast _ _ (State.LanesLast.rest ha)

/-! ### Machine/RunSeq.lean -/

theorem State.completeAnneal_lanesLast {s : State} (n : Nat) (v : Word) (hs : s₀.LanesLast s) :
    s₀.LanesLast (State.completeAnneal s n v) := by
  have := @State.modPier_lanesLast s₀
  grind [State.completeAnneal]

theorem State.faultAnneal_lanesLast {s : State} (n code : Nat) (hs : s₀.LanesLast s) :
    s₀.LanesLast (State.faultAnneal s n code) := by
  have := @State.pierFault_lanesLast s₀
  grind [State.faultAnneal]

theorem State.failBind_lanesLast {s : State} (spans : List Nat) (status detail : Nat) (hs : s₀.LanesLast s) :
    s₀.LanesLast (State.failBind s spans status detail) := by
  have := @State.modExec_lanesLast s₀
  have := @State.faultAnneal_lanesLast s₀
  grind [State.failBind, foldl_lanesLast]

theorem State.startRun_lanesLast {s : State} (p : Problem) (r : Run) (c : Option Ckpt) (hs : s₀.LanesLast s) :
    s₀.LanesLast (State.startRun s p r c) := by
  have := @State.modSys_lanesLast s₀
  have := @State.firstState_lanesLast s₀
  have := @State.formStart_lanesLast s₀
  have := @State.restoreRun_lanesLast s₀
  unfold State.startRun
  split
  all_goals grind [_=_ lanesLast_iff]

theorem State.bindStep_lanesLast {s : State} (ctx cmd : Nat) (batch : Bool) {s₁ : State} (hs : s₀.LanesLast s)
    (h : State.bindStep s ctx cmd batch = some s₁) :
    s₀.LanesLast s₁ := by
  suffices hm : Maybe s₀.LanesLast (State.bindStep s ctx cmd batch) from hm s₁ h
  clear h
  unfold State.bindStep
  extract_lets spans busy new fail
  have hf (a b : Nat) : Maybe s₀.LanesLast (fail a b) := maybe_some (State.failBind_lanesLast _ _ _ hs)
  clear_value fail new busy spans
  refine ite_maybe (maybe_some (foldl_lanesLast (fun _ _ h => State.faultAnneal_lanesLast _ _ h) _ hs)) ?_
  split
  · exact maybe_none
  extract_lets b cmdExec op d s' u
  have hd : s₀.LanesLast d.2 := by
    simp only [d]
    split
    · exact State.generate_lanesLast _ hs
    · exact hs
  clear_value d b cmdExec op
  have hs' : s₀.LanesLast s' := by
    simp only [s']
    split
    · exact foldl_lanesLast (fun _ _ h => State.spadWrite_lanesLast _ _ _ h) _ hd
    · exact hd
  clear_value s'
  have hu : s₀.LanesLast u := by
    refine foldl_lanesLast (fun _ _ h => ?_) _ hs'
    split
    · exact State.modSpan_lanesLast _ _ h
    · exact h
  clear_value u
  refine ite_maybe (hf _ _) (ite_maybe (hf _ _) ?_)
  split
  · exact hf _ _
  refine ite_maybe (hf _ _) (ite_maybe maybe_none (ite_maybe (hf _ _) (ite_maybe maybe_none (ite_maybe (hf _ _)
    (ite_maybe (hf _ _) (ite_maybe maybe_none ?_))))))
  extract_lets r
  clear_value r
  refine ite_maybe ?_ (maybe_some (State.startRun_lanesLast _ _ _ hu))
  split
  · exact maybe_some (State.startRun_lanesLast _ _ _ hu)
  · exact maybe_some (State.failBind_lanesLast _ _ _ hu)

theorem State.completeAll_lanesLast {s : State} (r : Run) (next : Nat) (v : Nat → Word) (hs : s₀.LanesLast s) :
    s₀.LanesLast (State.completeAll s r next v) := by
  have := @State.modSpan_lanesLast s₀
  have := @State.completeAnneal_lanesLast s₀
  grind [State.completeAll, foldl_lanesLast]

theorem State.startSweep_lanesLast {s : State} (p : Problem) (r : Run) (hs : s₀.LanesLast s) :
    s₀.LanesLast (State.startSweep s p r) := by
  have := @State.modEng_lanesLast s₀
  have := @State.modRun_lanesLast s₀
  have := @State.modSys_lanesLast s₀
  have := @State.endEpochIfDone_lanesLast s₀
  have := @State.remap_lanesLast s₀
  grind [State.startSweep, foldl_lanesLast]

theorem State.tellChildren_lanesLast {s : State} (p : Problem) (r : Run) (ends : Bool) (hs : s₀.LanesLast s) :
    s₀.LanesLast (State.tellChildren s p r ends) := by
  have := @State.sendDone_lanesLast s₀
  grind [State.tellChildren]

theorem State.endStep_lanesLast {s : State} (p : Problem) (r : Run) (hs : s₀.LanesLast s) :
    s₀.LanesLast (State.endStep s p r) := by
  have := @State.modSpan_lanesLast s₀
  have := @State.takeStops_lanesLast s₀
  have := @State.finishRun_lanesLast s₀
  have := @State.completeAnneal_lanesLast s₀
  have := @State.completeAll_lanesLast s₀
  have := @State.tellChildren_lanesLast s₀
  grind [State.endStep, foldl_lanesLast]

theorem State.snapStep_lanesLast {s : State} (p : Problem) (r : Run) (hs : s₀.LanesLast s) :
    s₀.LanesLast (State.snapStep s p r).1 := by
  have := @State.bestStep_lanesLast s₀
  have := @State.sampleStep_lanesLast s₀
  grind [State.snapStep]

theorem State.frefStep_lanesLast {s : State} (p : Problem) (r : Run) (hs : s₀.LanesLast s) :
    s₀.LanesLast (State.frefStep s p r) := by
  have := @State.refreshStep_lanesLast s₀
  have := @State.completeAll_lanesLast s₀
  grind [State.frefStep]

theorem State.eaudStep_lanesLast {s : State} (p : Problem) (r : Run) (hs : s₀.LanesLast s) :
    s₀.LanesLast (State.eaudStep s p r) := by
  have := @State.auditStep_lanesLast s₀
  have := @State.completeAll_lanesLast s₀
  grind [State.eaudStep]

theorem State.xchgStep_lanesLast {s : State} (p : Problem) (r : Run) (hs : s₀.LanesLast s) :
    s₀.LanesLast (State.xchgStep s p r) := by
  have := @State.modRun_lanesLast s₀
  have := @State.completeAll_lanesLast s₀
  grind [State.xchgStep]

theorem State.rmigStep_lanesLast {s : State} (p : Problem) (r : Run) (hs : s₀.LanesLast s) :
    s₀.LanesLast (State.rmigStep s p r) := by
  have := @State.migrateStep_lanesLast s₀
  have := @State.completeAll_lanesLast s₀
  grind [State.rmigStep]

theorem State.wrotStep_lanesLast {s : State} (p : Problem) (r : Run) (hs : s₀.LanesLast s) :
    s₀.LanesLast (State.wrotStep s p r) := by
  have := @State.rotateStep_lanesLast s₀
  have := @State.completeAll_lanesLast s₀
  grind [State.wrotStep]

theorem State.schedNextStep_lanesLast {s : State} (p : Problem) (r : Run) {s₁ : State} (hs : s₀.LanesLast s)
    (h : State.schedNextStep s p r = some s₁) :
    s₀.LanesLast s₁ := by
  have := @State.modRun_lanesLast s₀
  have := @State.ckptClose_lanesLast s₀
  have := @State.nextStep_lanesLast s₀
  have := @State.completeAll_lanesLast s₀
  grind [State.schedNextStep]

theorem State.collective_lanesLast {s : State} (p : Problem) (r : Run) (order : Nat) {s₁ : State}
    (hs : s₀.LanesLast s) (h : State.collective s p r order = some s₁) :
    s₀.LanesLast s₁ := by
  have := @State.modRun_lanesLast s₀
  have := @State.completeAll_lanesLast s₀
  have := @State.startSweep_lanesLast s₀
  have := @State.endStep_lanesLast s₀
  have := @State.snapStep_lanesLast s₀
  have := @State.frefStep_lanesLast s₀
  have := @State.eaudStep_lanesLast s₀
  have := @State.xchgStep_lanesLast s₀
  have := @State.rmigStep_lanesLast s₀
  have := @State.wrotStep_lanesLast s₀
  have := @State.schedNextStep_lanesLast s₀
  grind [State.collective]

theorem State.onRun_lanesLast {s : State} (q : Nat) (f : State → Run → State)
    (hf : ∀ x y, s₀.LanesLast x → s₀.LanesLast (f x y)) (hs : s₀.LanesLast s) :
    s₀.LanesLast (State.onRun s q f) := by
  grind [State.onRun]

theorem State.endUncarried_lanesLast {s : State} (p : Problem) (r : Run) (hs : s₀.LanesLast s) :
    s₀.LanesLast (State.endUncarried s p r) := by
  have := @State.takeStops_lanesLast s₀
  have := @State.finishRun_lanesLast s₀
  have := @State.tellChildren_lanesLast s₀
  have := @State.snapStep_lanesLast s₀
  have := @State.frefStep_lanesLast s₀
  have := @State.eaudStep_lanesLast s₀
  have := @State.xchgStep_lanesLast s₀
  have := @State.onRun_lanesLast s₀
  unfold State.endUncarried
  dsimp only
  split
  all_goals grind

theorem State.mismatch_lanesLast {s : State} (r : Run) (part : Nat) (hs : s₀.LanesLast s) :
    s₀.LanesLast (State.mismatch s r part) := by
  unfold State.mismatch
  extract_lets +onlyGivenNames cs a
  have ha : s₀.LanesLast a := State.finishRunCmd_lanesLast _ _ _ hs
  clear_value a
  extract_lets +onlyGivenNames b
  have hb : s₀.LanesLast b := foldl_lanesLast (fun _ _ hu => ite_keep (State.modSpan_lanesLast _ _ hu) hu) _ ha
  clear_value b
  extract_lets +onlyGivenNames c
  have hc : s₀.LanesLast c := foldl_lanesLast (fun _ _ hu => ite_keep (State.faultAnneal_lanesLast _ _ hu) hu) _ hb
  clear_value c
  extract_lets +onlyGivenNames d
  have hd : s₀.LanesLast d := State.endWaits_lanesLast _ _ _ (State.endWaits_lanesLast _ _ _ hc)
  clear_value d
  exact State.finishFrees_lanesLast (State.LanesLast.rest hd)

theorem State.runStep_lanesLast {s : State} (r : Run) {s₁ : State} (hs : s₀.LanesLast s)
    (h : State.runStep s r = some s₁) :
    s₀.LanesLast s₁ := by
  have := @State.modRun_lanesLast s₀
  have := @State.completeAll_lanesLast s₀
  have := @State.collective_lanesLast s₀
  have := @State.endUncarried_lanesLast s₀
  have := @State.mismatch_lanesLast s₀
  unfold State.runStep at h
  grind

theorem State.orderStep_lanesLast {s : State} (n : Nat) {s₁ : State} (hs : s₀.LanesLast s)
    (h : State.orderStep s n = some s₁) :
    s₀.LanesLast s₁ := by
  have := @State.faultAnneal_lanesLast s₀
  grind [State.orderStep]

theorem State.annealStep_lanesLast {s s₁ : State} (hs : s₀.LanesLast s) (h : State.annealStep s = some s₁) :
    s₀.LanesLast s₁ := by
  unfold State.annealStep at h
  split at h
  · next t ht =>
    cases h
    obtain ⟨n, -, hn⟩ := List.exists_of_findSome?_eq_some ht
    exact State.orderStep_lanesLast n hs hn
  · split at h
    · next t ht =>
      cases h
      obtain ⟨r, -, hr⟩ := List.exists_of_findSome?_eq_some ht
      exact State.runStep_lanesLast r hs hr
    · obtain ⟨k, -, hk⟩ := List.exists_of_findSome?_eq_some h
      exact State.bindStep_lanesLast _ _ _ hs hk

theorem State.annealOn_lanesLast {s : State} (k : Nat) (hs : s₀.LanesLast s) :
    s₀.LanesLast (State.annealOn k s) := by
  induction k generalizing s with
  | _ => grind [State.annealOn, State.quiesce_lanesLast, State.annealStep_lanesLast]

/-! ### Machine/Carry.lean -/

theorem State.sysOn_lanesLast {s : State} (k : Nat) (hs : s₀.LanesLast s) : s₀.LanesLast (State.sysOn s k) := by
  induction k generalizing s with
  | _ => grind [State.sysOn, State.sysStep_lanesLast, foldl_lanesLast]

theorem State.noteWaits_lanesLast {s : State} (hs : s₀.LanesLast s) : s₀.LanesLast (State.noteWaits s) := by
  have := @State.noteWait_lanesLast s₀
  grind [State.noteWaits, foldl_lanesLast]

theorem State.prunePoison_lanesLast {s : State} (hs : s₀.LanesLast s) : s₀.LanesLast (State.prunePoison s) := by
  have := @State.modSpan_lanesLast s₀
  grind [State.prunePoison, foldl_lanesLast]

theorem State.carryOn_lanesLast {s : State} (hs : s₀.LanesLast s) : s₀.LanesLast (State.carryOn s) := by
  unfold State.carryOn
  grind [State.quiesce_lanesLast, State.annealOn_lanesLast, State.sysOn_lanesLast, State.noteWaits_lanesLast,
    State.prunePoison_lanesLast]

end Sys2Proof.Machine
end

section
/-! PROOFS. Fenced lanes stay fenced: the rows of time, faults, contexts, piers, runs and operators.
-/

namespace Sys2Proof.Machine

variable {s₀ : State}

/-! ### Machine/Clock.lean -/

theorem State.advance_lanesLast {s : State} (k : Nat) (hs : s₀.LanesLast s) : s₀.LanesLast (State.advance s k) := by
  have := @State.modSpan_lanesLast s₀
  have := @State.injectFirst_lanesLast s₀
  have := @State.copiesRebuilt_lanesLast s₀
  grind [State.LanesLast, State.advance, foldl_lanesLast]

theorem State.passTo_lanesLast {s : State} (t : Nat) (hs : s₀.LanesLast s) : s₀.LanesLast (State.passTo s t) := by
  have := @State.advance_lanesLast s₀
  grind [State.passTo]

theorem State.tick_lanesLast {s : State} (hs : s₀.LanesLast s) : s₀.LanesLast (State.tick s) := by
  have := @State.advance_lanesLast s₀
  grind [State.tick]

theorem execDevTimeSet_lanesLast {s : State} (sec : BitVec 32) {s₁ : State} (hs : s₀.LanesLast s)
    (h : execDevTimeSet sec s = .next s₁) :
    s₀.LanesLast s₁ := by
  grind [State.LanesLast, execDevTimeSet]

theorem execTimeRollover_lanesLast {s s₁ : State} (hs : s₀.LanesLast s) (h : execTimeRollover s = .next s₁) :
    s₀.LanesLast s₁ := by
  have := @State.advance_lanesLast s₀
  grind [execTimeRollover]

theorem execPpsCapture_lanesLast {s s₁ : State} (hs : s₀.LanesLast s) (h : execPpsCapture s = .next s₁) :
    s₀.LanesLast s₁ := by
  have := @State.capture_lanesLast s₀
  grind [State.LanesLast, execPpsCapture]

theorem execPpsAccept_lanesLast {s s₁ : State} (hs : s₀.LanesLast s) (h : execPpsAccept s = .next s₁) :
    s₀.LanesLast s₁ := by
  have := @State.raiseVector_lanesLast s₀
  have := @State.passTo_lanesLast s₀
  have := @State.tick_lanesLast s₀
  grind [_=_ lanesLast_iff, execPpsAccept]

theorem execPpsLost_lanesLast {s s₁ : State} (hs : s₀.LanesLast s) (h : execPpsLost s = .next s₁) :
    s₀.LanesLast s₁ := by
  have := @State.raiseVector_lanesLast s₀
  have := @State.passTo_lanesLast s₀
  grind [_=_ lanesLast_iff, execPpsLost]

theorem execAliveToggle_lanesLast {s s₁ : State} (hs : s₀.LanesLast s) (h : execAliveToggle s = .next s₁) :
    s₀.LanesLast s₁ := by
  have := @State.passTo_lanesLast s₀
  grind [_=_ lanesLast_iff, execAliveToggle]

theorem execSensorSample_lanesLast {s : State} (die mod : List Int) {s₁ : State} (hs : s₀.LanesLast s)
    (h : execSensorSample die mod s = .next s₁) :
    s₀.LanesLast s₁ := by
  have := @State.raise_lanesLast s₀
  have := @State.passTo_lanesLast s₀
  grind [_=_ lanesLast_iff, execSensorSample, foldl_lanesLast]

theorem execVoltageSample_lanesLast {s : State} (mv : List Nat) {s₁ : State} (hs : s₀.LanesLast s)
    (h : execVoltageSample mv s = .next s₁) :
    s₀.LanesLast s₁ := by
  have := @State.raise_lanesLast s₀
  have := @State.passTo_lanesLast s₀
  grind [_=_ lanesLast_iff, execVoltageSample, foldl_lanesLast]

theorem execProcessMonitorWindow_lanesLast {s : State} (n : Fin 16) (count : BitVec 16) {s₁ : State}
    (hs : s₀.LanesLast s) (h : execProcessMonitorWindow n count s = .next s₁) :
    s₀.LanesLast s₁ := by
  have := @State.passTo_lanesLast s₀
  grind [_=_ lanesLast_iff, execProcessMonitorWindow]

theorem execThermalControl_lanesLast {s s₁ : State} (hs : s₀.LanesLast s) (h : execThermalControl s = .next s₁) :
    s₀.LanesLast s₁ := by
  have := @State.raise_lanesLast s₀
  have := @State.passTo_lanesLast s₀
  grind [_=_ lanesLast_iff, execThermalControl]

/-! ### Machine/Faults.lean -/

theorem State.enterFault_lanesLast {s : State} (state cause : Nat) (hs : s₀.LanesLast s) :
    s₀.LanesLast (s.enterFault state cause) := by
  unfold State.enterFault
  extract_lets +onlyGivenNames a
  have ha : s₀.LanesLast a := foldl_lanesLast (fun _ _ hu => State.faultCtx_lanesLast _ hu) _ hs
  clear_value a
  extract_lets +onlyGivenNames b
  have hb : s₀.LanesLast b := foldl_lanesLast (fun _ _ hu => State.pierStop_lanesLast _ _ _ hu) _ ha
  clear_value b
  extract_lets +onlyGivenNames c
  have hc : s₀.LanesLast c := State.LanesLast.rest hb
  clear_value c
  extract_lets +onlyGivenNames d
  have hd : s₀.LanesLast d := foldl_lanesLast (fun _ _ hu => ite_keep hu (State.takeDown_lanesLast _ _ _ _ hu)) _ hc
  clear_value d
  exact State.LanesLast.withFlt (State.LanesLast.rest hd) rfl

theorem State.ackFault_lanesLast {s : State} (hs : s₀.LanesLast s) : s₀.LanesLast s.ackFault := by
  unfold State.ackFault
  split
  · exact ite_keep (State.LanesLast.withFlt hs rfl) hs
  · exact hs

theorem execFltAck_lanesLast {s s₁ : State} (hs : s₀.LanesLast s) (h : execFltAck s = .next s₁) :
    s₀.LanesLast s₁ := by
  have := @State.ackFault_lanesLast s₀
  grind [execFltAck]

theorem execEscalationExpiry_lanesLast {s s₁ : State} (hs : s₀.LanesLast s)
    (h : execEscalationExpiry s = .next s₁) :
    s₀.LanesLast s₁ := by
  have := @State.enterFault_lanesLast s₀
  have := @State.passTo_lanesLast s₀
  have := @State.carryOn_lanesLast s₀
  grind [execEscalationExpiry]

theorem State.recover_lanesLast {s : State} (hs : s₀.LanesLast s) : s₀.LanesLast s.recover := by
  unfold State.recover
  extract_lets +onlyGivenNames now f a
  have ha : s₀.LanesLast a := State.LanesLast.withFlt hs rfl
  clear_value a
  extract_lets +onlyGivenNames w b
  have hb : s₀.LanesLast b := State.LanesLast.rest ha
  clear_value b
  extract_lets +onlyGivenNames c
  have hc : s₀.LanesLast c := foldl_lanesLast (fun _ _ hu => ite_keep (State.startTraining_lanesLast _ hu) hu) _ hb
  exact State.raiseVector_lanesLast _ hc

theorem execQuietPeriodEnd_lanesLast {s s₁ : State} (hs : s₀.LanesLast s) (h : execQuietPeriodEnd s = .next s₁) :
    s₀.LanesLast s₁ := by
  unfold execQuietPeriodEnd at h
  split at h
  · extract_lets t at h
    have ht : s₀.LanesLast t := State.passTo_lanesLast _ hs
    clear_value t
    split at h
    · rw [← Host.Outcome.next.inj h]
      exact State.LanesLast.withFlt ht rfl
    · rw [← Host.Outcome.next.inj h]
      exact State.carryOn_lanesLast (State.recover_lanesLast ht)
  · rw [← Host.Outcome.next.inj h]
    exact hs

theorem execWatchdogExpiry_lanesLast {s s₁ : State} (hs : s₀.LanesLast s) (h : execWatchdogExpiry s = .next s₁) :
    s₀.LanesLast s₁ := by
  have := @State.enterFault_lanesLast s₀
  have := @State.carryOn_lanesLast s₀
  grind [execWatchdogExpiry]

theorem execSpanHeartbeatTimeout_lanesLast {s : State} (n : Fin 16) {s₁ : State} (hs : s₀.LanesLast s)
    (h : execSpanHeartbeatTimeout n s = .next s₁) :
    s₀.LanesLast s₁ := by
  have := @State.modSpan_lanesLast s₀
  have := @State.raise_lanesLast s₀
  have := @State.carryOn_lanesLast s₀
  grind [execSpanHeartbeatTimeout]

theorem execScrubPeriod_lanesLast {s : State} (n : Fin 16) (events : List MemEvent) {s₁ : State}
    (hs : s₀.LanesLast s) (h : execScrubPeriod n events s = .next s₁) :
    s₀.LanesLast s₁ := by
  have := @State.modSpan_lanesLast s₀
  have := @State.memEvents_lanesLast s₀
  have := @State.passTo_lanesLast s₀
  have := @State.carryOn_lanesLast s₀
  grind [execScrubPeriod]

theorem execFltQueueClear_lanesLast {s : State} (b : BlockId) {s₁ : State} (hs : s₀.LanesLast s)
    (h : execFltQueueClear b s = .next s₁) :
    s₀.LanesLast s₁ := by
  have := @State.modBlock_lanesLast s₀
  grind [execFltQueueClear]

theorem execStallCheck_lanesLast {s s₁ : State} (hs : s₀.LanesLast s) (h : execStallCheck s = .next s₁) :
    s₀.LanesLast s₁ := by
  have := @State.modCtx_lanesLast s₀
  have := @State.raiseVector_lanesLast s₀
  have := @State.passTo_lanesLast s₀
  grind [_=_ lanesLast_iff, execStallCheck, foldl_lanesLast]

theorem State.routerFails_lanesLast {s : State} (r : Nat) (lost : List Nat) (hs : s₀.LanesLast s) :
    s₀.LanesLast (State.routerFails s r lost) := by
  unfold State.routerFails
  refine ite_keep hs ?_
  extract_lets +onlyGivenNames a
  have ha : s₀.LanesLast a := State.loseInside_lanesLast _ _ hs
  clear_value a
  extract_lets +onlyGivenNames m b
  have hb : s₀.LanesLast b := State.LanesLast.rest ha
  clear_value b
  extract_lets +onlyGivenNames c
  have hc : s₀.LanesLast c := State.enterRaise_lanesLast _ _ _ _ hb
  clear_value c
  split
  · exact State.fenceSpan_lanesLast _ hc
  · exact State.fenceMem_lanesLast _ hc
  · exact State.fenceLink_lanesLast _ _ hc
  · exact State.fenceCxl_lanesLast _ hc
  · exact hc
  · exact State.enterFault_lanesLast _ _ (State.LanesLast.rest hc)

theorem execRouterFailure_lanesLast {s : State} (r : RouterLoss) {s₁ : State} (hs : s₀.LanesLast s)
    (h : execRouterFailure r s = .next s₁) :
    s₀.LanesLast s₁ := by
  have := @State.carryOn_lanesLast s₀
  have := @State.routerFails_lanesLast s₀
  grind [execRouterFailure]

theorem execCreditTimeout_lanesLast {s : State} (r : RouterLoss) {s₁ : State} (hs : s₀.LanesLast s)
    (h : execCreditTimeout r s = .next s₁) :
    s₀.LanesLast s₁ := by
  have := @State.carryOn_lanesLast s₀
  have := @State.routerFails_lanesLast s₀
  grind [execCreditTimeout]

theorem execMemPeriodicRetrain_lanesLast {s : State} (i : Fin 16) (holds : Bool) {s₁ : State}
    (hs : s₀.LanesLast s) (h : execMemPeriodicRetrain i holds s = .next s₁) :
    s₀.LanesLast s₁ := by
  have := @State.modMem_lanesLast s₀
  have := @State.retrainMem_lanesLast s₀
  have := @State.passTo_lanesLast s₀
  have := @State.carryOn_lanesLast s₀
  grind [execMemPeriodicRetrain]

theorem execMemRetrain_lanesLast {s : State} (i : Fin 16) (holds : Bool) {s₁ : State} (hs : s₀.LanesLast s)
    (h : execMemRetrain i holds s = .next s₁) :
    s₀.LanesLast s₁ := by
  have := @State.retrainMem_lanesLast s₀
  have := @State.carryOn_lanesLast s₀
  grind [execMemRetrain]

theorem execMemTemperatureChange_lanesLast {s : State} (i : Fin 16) (temp : BitVec 8) {s₁ : State}
    (hs : s₀.LanesLast s) (h : execMemTemperatureChange i temp s = .next s₁) :
    s₀.LanesLast s₁ := by
  have := @State.modMem_lanesLast s₀
  have := @State.raise_lanesLast s₀
  have := @State.carryOn_lanesLast s₀
  grind [execMemTemperatureChange]

theorem execCxlLinkLoss_lanesLast {s : State} (p : Fin 2) {s₁ : State} (hs : s₀.LanesLast s)
    (h : execCxlLinkLoss p s = .next s₁) :
    s₀.LanesLast s₁ := by
  have := @State.raiseMandatory_lanesLast s₀
  have := @State.carryOn_lanesLast s₀
  grind [execCxlLinkLoss]

/-! ### Machine/Frontend.lean -/

theorem State.stopRunsOf_lanesLast {s : State} (c serial : Nat) (f : Stops → Stops) (hs : s₀.LanesLast s) :
    s₀.LanesLast (State.stopRunsOf s c serial f) := by
  grind [State.LanesLast, State.stopRunsOf]

theorem State.hangNow_lanesLast {s : State} (c : Nat) (e : Exec) (hs : s₀.LanesLast s) :
    s₀.LanesLast (State.hangNow s c e) := by
  have := @State.modExec_lanesLast s₀
  have := @State.dropQueued_lanesLast s₀
  have := @State.stopPiersOf_lanesLast s₀
  have := @State.undoLoad_lanesLast s₀
  have := @State.stopRunsOf_lanesLast s₀
  unfold State.hangNow
  grind

theorem execHangLimit_lanesLast {s : State} (c : Fin 1024) {s₁ : State} (hs : s₀.LanesLast s)
    (h : execHangLimit c s = .next s₁) :
    s₀.LanesLast s₁ := by
  have := @State.passTo_lanesLast s₀
  have := @State.carryOn_lanesLast s₀
  have := @State.hangNow_lanesLast s₀
  grind [execHangLimit]

theorem State.withCmd_lanesLast {s : State} (c op : Nat) (bad : Exec → Option Nat)
    (f : Bool → Exec → State → State) (hf : ∀ x y z, s₀.LanesLast z → s₀.LanesLast (f x y z))
    (hs : s₀.LanesLast s) :
    s₀.LanesLast (State.withCmd s c op bad f) := by
  have := @State.finishExec_lanesLast s₀
  have := @State.carryOn_lanesLast s₀
  have := @State.hangNow_lanesLast s₀
  grind [State.withCmd]

theorem State.setWorking_lanesLast {s : State} (c : Nat) (batch : Bool) (hs : s₀.LanesLast s) :
    s₀.LanesLast (State.setWorking s c batch) := by
  have := @State.modExec_lanesLast s₀
  grind [State.setWorking]

theorem State.noteFetch_lanesLast {s : State} (c : Nat) (f : Fetched) (hs : s₀.LanesLast s) :
    s₀.LanesLast (State.noteFetch s c f) := by
  have := @State.noteRequest_lanesLast s₀
  grind [State.noteFetch, foldl_lanesLast]

theorem execCommandFetch_lanesLast {s : State} (c : Fin 1024) {s₁ : State} (hs : s₀.LanesLast s)
    (h : execCommandFetch c s = .next s₁) :
    s₀.LanesLast s₁ := by
  have := @State.modCtx_lanesLast s₀
  have := @State.noteFetch_lanesLast s₀
  grind [execCommandFetch]

theorem execCommandStart_lanesLast {s s₁ : State} (hs : s₀.LanesLast s) (h : execCommandStart s = .next s₁) :
    s₀.LanesLast s₁ := by
  unfold execCommandStart at h
  split at h
  · rw [← Host.Outcome.next.inj h]
    exact hs
  · split at h
    · rw [← Host.Outcome.next.inj h]
      exact hs
    · next c high hn =>
      extract_lets +onlyGivenNames f a at h
      have ha : s₀.LanesLast a := State.LanesLast.rest hs
      clear_value a
      grind [State.modCtx_lanesLast, State.slotFault_lanesLast, _=_ lanesLast_iff]

theorem execNopc_lanesLast {s : State} (c : Fin 1024) {s₁ : State} (hs : s₀.LanesLast s)
    (h : execNopc c s = .next s₁) :
    s₀.LanesLast s₁ := by
  have := @State.finishExec_lanesLast s₀
  have := @State.withCmd_lanesLast s₀
  grind [execNopc]

theorem execConstBuf_lanesLast {s : State} (c : Fin 1024) {s₁ : State} (hs : s₀.LanesLast s)
    (h : execConstBuf c s = .next s₁) :
    s₀.LanesLast s₁ := by
  have := @State.modCtx_lanesLast s₀
  have := @State.finishExec_lanesLast s₀
  have := @State.withCmd_lanesLast s₀
  grind [execConstBuf]

theorem execEvrec_lanesLast {s : State} (c : Fin 1024) {s₁ : State} (hs : s₀.LanesLast s)
    (h : execEvrec c s = .next s₁) :
    s₀.LanesLast s₁ := by
  have := @State.finishExec_lanesLast s₀
  have := @State.eventOp_lanesLast s₀
  have := @State.carryOn_lanesLast s₀
  have := @State.withCmd_lanesLast s₀
  grind [execEvrec]

theorem execEvwait_lanesLast {s : State} (c : Fin 1024) {s₁ : State} (hs : s₀.LanesLast s)
    (h : execEvwait c s = .next s₁) :
    s₀.LanesLast s₁ := by
  have := @State.modCtx_lanesLast s₀
  have := @State.modExec_lanesLast s₀
  have := @State.withCmd_lanesLast s₀
  grind [execEvwait]

theorem execWaitTimeout_lanesLast {s : State} (c : Fin 1024) {s₁ : State} (hs : s₀.LanesLast s)
    (h : execWaitTimeout c s = .next s₁) :
    s₀.LanesLast s₁ := by
  have := @State.modCtx_lanesLast s₀
  have := @State.finishExec_lanesLast s₀
  have := @State.passTo_lanesLast s₀
  grind [execWaitTimeout]

theorem execCopy_lanesLast {s : State} (c : Fin 1024) {s₁ : State} (hs : s₀.LanesLast s)
    (h : execCopy c s = .next s₁) :
    s₀.LanesLast s₁ := by
  have := @State.dmaCopy_lanesLast s₀
  have := @State.finishExec_lanesLast s₀
  have := @State.withCmd_lanesLast s₀
  grind [execCopy, foldl_lanesLast, foldl_lanesLast₁, foldl_lanesLast₂]

theorem State.dmaFill_lanesLast {s : State} (dst n : Nat) (pattern : List Byte) (hs : s₀.LanesLast s) :
    s₀.LanesLast (State.dmaFill s dst n pattern).1 := by
  have := @State.noteRequest_lanesLast s₀
  have := @State.storeCells_lanesLast s₀
  grind [State.dmaFill]

theorem execFill_lanesLast {s : State} (c : Fin 1024) {s₁ : State} (hs : s₀.LanesLast s)
    (h : execFill c s = .next s₁) :
    s₀.LanesLast s₁ := by
  have := @State.finishExec_lanesLast s₀
  have := @State.withCmd_lanesLast s₀
  have := @State.dmaFill_lanesLast s₀
  grind [execFill, foldl_lanesLast, foldl_lanesLast₁, foldl_lanesLast₂]

theorem execLaunch_lanesLast {s : State} (c : Fin 1024) {s₁ : State} (hs : s₀.LanesLast s)
    (h : execLaunch c s = .next s₁) :
    s₀.LanesLast s₁ := by
  have := @State.noteRequest_lanesLast s₀
  have := @State.finishExec_lanesLast s₀
  have := @State.dispatch_lanesLast s₀
  have := @State.withCmd_lanesLast s₀
  grind [execLaunch]

theorem execPierLaunch_lanesLast {s : State} (n : Fin 16) {s₁ : State} (hs : s₀.LanesLast s)
    (h : execPierLaunch n s = .next s₁) :
    s₀.LanesLast s₁ := by
  have := @State.modPier_lanesLast s₀
  have := @State.sendLaunches_lanesLast s₀
  have := @State.carryOn_lanesLast s₀
  grind [execPierLaunch]

theorem execQstop_lanesLast {s : State} (c : Fin 1024) {s₁ : State} (hs : s₀.LanesLast s)
    (h : execQstop c s = .next s₁) :
    s₀.LanesLast s₁ := by
  have := @State.modCtx_lanesLast s₀
  have := @State.finishExec_lanesLast s₀
  have := @State.stopRun_lanesLast s₀
  have := @State.carryOn_lanesLast s₀
  have := @State.withCmd_lanesLast s₀
  have := @State.setWorking_lanesLast s₀
  grind [execQstop]

theorem execCkpt_lanesLast {s : State} (c : Fin 1024) {s₁ : State} (hs : s₀.LanesLast s)
    (h : execCkpt c s = .next s₁) :
    s₀.LanesLast s₁ := by
  have := @State.finishExec_lanesLast s₀
  have := @State.modRun_lanesLast s₀
  have := @State.withCmd_lanesLast s₀
  have := @State.setWorking_lanesLast s₀
  grind [execCkpt]

theorem execPfree_lanesLast {s : State} (c : Fin 1024) {s₁ : State} (hs : s₀.LanesLast s)
    (h : execPfree c s = .next s₁) :
    s₀.LanesLast s₁ := by
  have := @State.finishExec_lanesLast s₀
  have := @State.modProblem_lanesLast s₀
  have := @State.finishFrees_lanesLast s₀
  have := @State.withCmd_lanesLast s₀
  have := @State.setWorking_lanesLast s₀
  grind [execPfree]

theorem execAnnealBatch_lanesLast {s : State} (c : Fin 1024) {s₁ : State} (hs : s₀.LanesLast s)
    (h : execAnnealBatch c s = .next s₁) :
    s₀.LanesLast s₁ := by
  have := @State.modCtx_lanesLast s₀
  have := @State.finishExec_lanesLast s₀
  have := @State.withCmd_lanesLast s₀
  have := @State.setWorking_lanesLast s₀
  grind [execAnnealBatch]

theorem State.startDescriptor_lanesLast {s : State} (c : Nat) (f : Fetched) (hs : s₀.LanesLast s) :
    s₀.LanesLast (State.startDescriptor s c f) := by
  have := @State.modCtx_lanesLast s₀
  grind [State.LanesLast, State.startDescriptor]

theorem execBatchDescriptorTake_lanesLast {s : State} (c : Fin 1024) {s₁ : State} (hs : s₀.LanesLast s)
    (h : execBatchDescriptorTake c s = .next s₁) :
    s₀.LanesLast s₁ := by
  have := @State.modCtx_lanesLast s₀
  have := @State.noteRequest_lanesLast s₀
  have := @State.startDescriptor_lanesLast s₀
  grind [execBatchDescriptorTake]

theorem execEndDescriptor_lanesLast {s : State} (c : Fin 1024) {s₁ : State} (hs : s₀.LanesLast s)
    (h : execEndDescriptor c s = .next s₁) :
    s₀.LanesLast s₁ := by
  have := @State.modCtx_lanesLast s₀
  have := @State.finishExec_lanesLast s₀
  grind [execEndDescriptor]

theorem State.descriptorDone_lanesLast {s : State} (c : Nat) (t : Batch) (status : Nat) (hs : s₀.LanesLast s) :
    s₀.LanesLast (State.descriptorDone s c t status) := by
  have := @State.modCtx_lanesLast s₀
  grind [State.descriptorDone]

theorem execCommandCompletion_lanesLast {s : State} (c : Fin 1024) {s₁ : State} (hs : s₀.LanesLast s)
    (h : execCommandCompletion c s = .next s₁) :
    s₀.LanesLast s₁ := by
  have := @State.modCtx_lanesLast s₀
  have := @State.writeNat_lanesLast s₀
  have := @State.abortEvents_lanesLast s₀
  have := @State.completeCmd_lanesLast s₀
  have := @State.carryOn_lanesLast s₀
  have := @State.hangNow_lanesLast s₀
  have := @State.descriptorDone_lanesLast s₀
  unfold execCommandCompletion at h
  dsimp only at h
  (repeat' split at h)
  all_goals grind

theorem State.doorbell_lanesLast {s : State} (c : Nat) (tail : BitVec 32) (hs : s₀.LanesLast s) :
    s₀.LanesLast (State.doorbell s c tail) := by
  have := @State.modCtx_lanesLast s₀
  have := @State.slotFault_lanesLast s₀
  have := @State.carryOn_lanesLast s₀
  grind [State.doorbell]

theorem execCtxDoorbell_lanesLast {s : State} (c : Fin 1024) (tail : BitVec 32) {s₁ : State} (hs : s₀.LanesLast s)
    (h : execCtxDoorbell c tail s = .next s₁) :
    s₀.LanesLast s₁ := by
  have := @State.doorbell_lanesLast s₀
  grind [execCtxDoorbell]

theorem State.beginAbort_lanesLast {s : State} (c : Nat) (hs : s₀.LanesLast s) :
    s₀.LanesLast (State.beginAbort s c) := by
  unfold State.beginAbort
  extract_lets +onlyGivenNames a
  have ha : s₀.LanesLast a := State.modCtx_lanesLast _ _ hs
  clear_value a
  extract_lets +onlyGivenNames b
  have hb : s₀.LanesLast b := State.dropQueued_lanesLast _ (State.stopPiersOf_lanesLast _ _ _ ha)
  clear_value b
  extract_lets +onlyGivenNames d
  have hd : s₀.LanesLast d := State.LanesLast.rest hb
  clear_value d
  extract_lets +onlyGivenNames end_
  have he (batch : Bool) (u : State) (hu : s₀.LanesLast u) : s₀.LanesLast (end_ batch u) := by
    dsimp only [end_]
    split
    · exact hu
    · exact State.modExec_lanesLast _ _ _ (State.undoLoad_lanesLast _ hu)
  clear_value end_
  extract_lets +onlyGivenNames e
  have hx : s₀.LanesLast e := he true d hd
  clear_value e
  refine he false _ ?_
  split
  · exact ite_keep (State.modCtx_lanesLast _ _ hx) hx
  · exact hx

theorem execDestroyDone_lanesLast {s : State} (c : Fin 1024) {s₁ : State} (hs : s₀.LanesLast s)
    (h : execDestroyDone c s = .next s₁) :
    s₀.LanesLast s₁ := by
  have := @State.finishDestroy_lanesLast s₀
  have := @State.carryOn_lanesLast s₀
  grind [execDestroyDone]

theorem State.beginDestroy_lanesLast {s : State} (c : Nat) (abort : Bool) (hs : s₀.LanesLast s) :
    s₀.LanesLast (State.beginDestroy s c abort) := by
  have := @State.modCtx_lanesLast s₀
  have := @State.finishDestroy_lanesLast s₀
  have := @State.beginAbort_lanesLast s₀
  grind [State.beginDestroy]

theorem State.ctlWrite_lanesLast {s : State} (c : Nat) (enable abort resume priority : Bool) (hs : s₀.LanesLast s) :
    s₀.LanesLast (State.ctlWrite s c enable abort resume priority) := by
  have := @State.modCtx_lanesLast s₀
  have := @State.beginAbort_lanesLast s₀
  have := @State.beginDestroy_lanesLast s₀
  unfold State.ctlWrite
  grind

theorem execContextCreate_lanesLast {s : State} (c : Fin 1024) (abort priority : Bool) {s₁ : State}
    (hs : s₀.LanesLast s) (h : execContextCreate c abort priority s = .next s₁) :
    s₀.LanesLast s₁ := by
  have := @State.carryOn_lanesLast s₀
  have := @State.ctlWrite_lanesLast s₀
  grind [execContextCreate]

theorem execContextDestroy_lanesLast {s : State} (c : Fin 1024) (abort priority : Bool) {s₁ : State}
    (hs : s₀.LanesLast s) (h : execContextDestroy c abort priority s = .next s₁) :
    s₀.LanesLast s₁ := by
  have := @State.carryOn_lanesLast s₀
  have := @State.ctlWrite_lanesLast s₀
  grind [execContextDestroy]

theorem execDestroyAbort_lanesLast {s : State} (c : Fin 1024) (priority : Bool) {s₁ : State} (hs : s₀.LanesLast s)
    (h : execDestroyAbort c priority s = .next s₁) :
    s₀.LanesLast s₁ := by
  have := @State.carryOn_lanesLast s₀
  have := @State.ctlWrite_lanesLast s₀
  grind [execDestroyAbort]

theorem execResume_lanesLast {s : State} (c : Fin 1024) (abort priority : Bool) {s₁ : State} (hs : s₀.LanesLast s)
    (h : execResume c abort priority s = .next s₁) :
    s₀.LanesLast s₁ := by
  have := @State.carryOn_lanesLast s₀
  have := @State.ctlWrite_lanesLast s₀
  grind [execResume]

theorem State.cplHeadWrite_lanesLast {s : State} (c : Nat) (head : BitVec 32) (hs : s₀.LanesLast s) :
    s₀.LanesLast (State.cplHeadWrite s c head) := by
  have := @State.modCtx_lanesLast s₀
  have := @State.flushHeld_lanesLast s₀
  grind [State.cplHeadWrite]

theorem execCtxCplHead_lanesLast {s : State} (c : Fin 1024) (head : BitVec 32) {s₁ : State} (hs : s₀.LanesLast s)
    (h : execCtxCplHead c head s = .next s₁) :
    s₀.LanesLast s₁ := by
  have := @State.cplHeadWrite_lanesLast s₀
  grind [execCtxCplHead]

theorem execEvtValue_lanesLast {s : State} (e : BitVec 16) (value : BitVec 64) {s₁ : State} (hs : s₀.LanesLast s)
    (h : execEvtValue e value s = .next s₁) :
    s₀.LanesLast s₁ := by
  have := @State.eventOp_lanesLast s₀
  have := @State.carryOn_lanesLast s₀
  grind [execEvtValue]

theorem execEvtAdd_lanesLast {s : State} (e : BitVec 16) (value : BitVec 32) {s₁ : State} (hs : s₀.LanesLast s)
    (h : execEvtAdd e value s = .next s₁) :
    s₀.LanesLast s₁ := by
  have := @State.eventOp_lanesLast s₀
  have := @State.carryOn_lanesLast s₀
  grind [execEvtAdd]

theorem execEvtErrorClear_lanesLast {s : State} (e : BitVec 16) {s₁ : State} (hs : s₀.LanesLast s)
    (h : execEvtErrorClear e s = .next s₁) :
    s₀.LanesLast s₁ := by
  have := @State.setEvent_lanesLast s₀
  grind [execEvtErrorClear]

/-! ### Machine/PierIsa.lean -/

theorem State.issue_lanesLast {s : State} (n : Nat) (act : Launch → SpanInstr → Pier → State → Option State)
    (hf : ∀ x y z y3, s₀.LanesLast y3 → ∀ u, act x y z y3 = some u → s₀.LanesLast u) (hs : s₀.LanesLast s) :
    s₀.LanesLast (State.issue s n act) := by
  have := @State.modPier_lanesLast s₀
  have := @State.carryOn_lanesLast s₀
  grind [State.issue]

theorem State.nextPc_lanesLast {s : State} (n : Nat) (f : Pier → Pier) (hs : s₀.LanesLast s) :
    s₀.LanesLast (State.nextPc s n f) :=
  hs

theorem State.fly_lanesLast {s : State} (n : Nat) (i : SpanInstr) (a b c : Word) (aux : Nat) (hs : s₀.LanesLast s) :
    s₀.LanesLast (State.fly s n i a b c aux) :=
  hs

theorem State.blockEnd_lanesLast {s : State} (n : Nat) (i : SpanInstr) (b : Word) (hs : s₀.LanesLast s) :
    s₀.LanesLast (State.block_ s n i b) := by
  have := @State.nextPc_lanesLast s₀
  grind [State.block_]

theorem State.holdIssue_lanesLast {s : State} (n : Nat) (hs : s₀.LanesLast s) :
    s₀.LanesLast (State.holdIssue s n) :=
  hs

theorem State.illegal_lanesLast {s : State} (n pc : Nat) (hs : s₀.LanesLast s) :
    s₀.LanesLast (State.illegal s n pc) := by
  have := @State.pierFault_lanesLast s₀
  grind [State.illegal]

theorem execNop_lanesLast {s : State} (n : Fin 16) {s₁ : State} (hs : s₀.LanesLast s) (h : execNop n s = .next s₁) :
    s₀.LanesLast s₁ := by
  have := @State.issue_lanesLast s₀
  have := @State.nextPc_lanesLast s₀
  grind [execNop]

theorem execHalt_lanesLast {s : State} (n : Fin 16) {s₁ : State} (hs : s₀.LanesLast s)
    (h : execHalt n s = .next s₁) :
    s₀.LanesLast s₁ := by
  have := @State.issue_lanesLast s₀
  have := @State.blockEnd_lanesLast s₀
  grind [execHalt]

theorem State.branch_lanesLast {s : State} (n count pc : Nat) (off : BitVec 24) (hs : s₀.LanesLast s) :
    s₀.LanesLast (State.branch s n count pc off) := by
  have := @State.modPier_lanesLast s₀
  have := @State.pierFault_lanesLast s₀
  grind [State.branch]

theorem execBr_lanesLast {s : State} (n : Fin 16) {s₁ : State} (hs : s₀.LanesLast s) (h : execBr n s = .next s₁) :
    s₀.LanesLast s₁ := by
  have := @State.issue_lanesLast s₀
  have := @State.branch_lanesLast s₀
  grind [execBr]

theorem execBrc_lanesLast {s : State} (n : Fin 16) {s₁ : State} (hs : s₀.LanesLast s) (h : execBrc n s = .next s₁) :
    s₀.LanesLast s₁ := by
  have := @State.issue_lanesLast s₀
  have := @State.nextPc_lanesLast s₀
  have := @State.illegal_lanesLast s₀
  have := @State.branch_lanesLast s₀
  grind [execBrc]

theorem execLoop_lanesLast {s : State} (n : Fin 16) {s₁ : State} (hs : s₀.LanesLast s)
    (h : execLoop n s = .next s₁) :
    s₀.LanesLast s₁ := by
  have := @State.modPier_lanesLast s₀
  have := @State.pierFault_lanesLast s₀
  have := @State.issue_lanesLast s₀
  have := @State.nextPc_lanesLast s₀
  have := @State.illegal_lanesLast s₀
  grind [execLoop]

theorem execEndlp_lanesLast {s : State} (n : Fin 16) {s₁ : State} (hs : s₀.LanesLast s)
    (h : execEndlp n s = .next s₁) :
    s₀.LanesLast s₁ := by
  have := @State.modPier_lanesLast s₀
  have := @State.pierFault_lanesLast s₀
  have := @State.issue_lanesLast s₀
  have := @State.nextPc_lanesLast s₀
  grind [execEndlp]

theorem execIllegalOp_lanesLast {s : State} (n : Fin 16) {s₁ : State} (hs : s₀.LanesLast s)
    (h : execIllegalOp n s = .next s₁) :
    s₀.LanesLast s₁ := by
  have := @State.pierFault_lanesLast s₀
  have := @State.carryOn_lanesLast s₀
  grind [execIllegalOp]

theorem execSeti_lanesLast {s : State} (n : Fin 16) {s₁ : State} (hs : s₀.LanesLast s)
    (h : execSeti n s = .next s₁) :
    s₀.LanesLast s₁ := by
  have := @State.issue_lanesLast s₀
  have := @State.nextPc_lanesLast s₀
  grind [execSeti]

theorem execAddi_lanesLast {s : State} (n : Fin 16) {s₁ : State} (hs : s₀.LanesLast s)
    (h : execAddi n s = .next s₁) :
    s₀.LanesLast s₁ := by
  have := @State.issue_lanesLast s₀
  have := @State.nextPc_lanesLast s₀
  grind [execAddi]

theorem execAlu_lanesLast {s : State} (n : Fin 16) {s₁ : State} (hs : s₀.LanesLast s) (h : execAlu n s = .next s₁) :
    s₀.LanesLast s₁ := by
  have := @State.issue_lanesLast s₀
  have := @State.nextPc_lanesLast s₀
  have := @State.illegal_lanesLast s₀
  grind [execAlu]

theorem execLdc_lanesLast {s : State} (n : Fin 16) {s₁ : State} (hs : s₀.LanesLast s) (h : execLdc n s = .next s₁) :
    s₀.LanesLast s₁ := by
  have := @State.issue_lanesLast s₀
  have := @State.nextPc_lanesLast s₀
  have := @State.illegal_lanesLast s₀
  grind [execLdc]

theorem execRdtime_lanesLast {s : State} (n : Fin 16) {s₁ : State} (hs : s₀.LanesLast s)
    (h : execRdtime n s = .next s₁) :
    s₀.LanesLast s₁ := by
  have := @State.issue_lanesLast s₀
  have := @State.nextPc_lanesLast s₀
  have := @State.illegal_lanesLast s₀
  grind [execRdtime]

theorem execSpanEvrec_lanesLast {s : State} (n : Fin 16) {s₁ : State} (hs : s₀.LanesLast s)
    (h : execSpanEvrec n s = .next s₁) :
    s₀.LanesLast s₁ := by
  have := @State.issue_lanesLast s₀
  have := @State.fly_lanesLast s₀
  grind [execSpanEvrec]

theorem execSpanEvwait_lanesLast {s : State} (n : Fin 16) {s₁ : State} (hs : s₀.LanesLast s)
    (h : execSpanEvwait n s = .next s₁) :
    s₀.LanesLast s₁ := by
  have := @State.modPier_lanesLast s₀
  have := @State.issue_lanesLast s₀
  have := @State.blockEnd_lanesLast s₀
  grind [execSpanEvwait]

theorem execSpanEvwaitTimeout_lanesLast {s : State} (n : Fin 16) {s₁ : State} (hs : s₀.LanesLast s)
    (h : execSpanEvwaitTimeout n s = .next s₁) :
    s₀.LanesLast s₁ := by
  have := @State.modPier_lanesLast s₀
  have := @State.passTo_lanesLast s₀
  have := @State.carryOn_lanesLast s₀
  grind [execSpanEvwaitTimeout]

theorem State.enterBarrier_lanesLast {s : State} (n : Nat) (l : Launch) (i : SpanInstr) (id mask : Nat)
    (hs : s₀.LanesLast s) :
    s₀.LanesLast (State.enterBarrier s n l i id mask) := by
  have := @State.blockEnd_lanesLast s₀
  grind [State.LanesLast, State.enterBarrier]

theorem execBarrier_lanesLast {s : State} (n : Fin 16) {s₁ : State} (hs : s₀.LanesLast s)
    (h : execBarrier n s = .next s₁) :
    s₀.LanesLast s₁ := by
  have := @State.pierFault_lanesLast s₀
  have := @State.issue_lanesLast s₀
  have := @State.holdIssue_lanesLast s₀
  have := @State.illegal_lanesLast s₀
  have := @State.enterBarrier_lanesLast s₀
  grind [execBarrier]

theorem execFence_lanesLast {s : State} (n : Fin 16) {s₁ : State} (hs : s₀.LanesLast s)
    (h : execFence n s = .next s₁) :
    s₀.LanesLast s₁ := by
  have := @State.issue_lanesLast s₀
  have := @State.blockEnd_lanesLast s₀
  grind [execFence]

theorem execDma_lanesLast {s : State} (n : Fin 16) {s₁ : State} (hs : s₀.LanesLast s) (h : execDma n s = .next s₁) :
    s₀.LanesLast s₁ := by
  have := @State.modPier_lanesLast s₀
  have := @State.issue_lanesLast s₀
  have := @State.fly_lanesLast s₀
  have := @State.holdIssue_lanesLast s₀
  have := @State.illegal_lanesLast s₀
  grind [execDma]

theorem State.dmaMove_lanesLast {s : State} (n : Nat) (x : Tag) (hs : s₀.LanesLast s) :
    s₀.LanesLast (State.dmaMove s n x).1 := by
  unfold State.dmaMove
  split
  · exact ite_keep hs (State.countDrops_lanesLast _ hs)
  · split
    · exact hs
    · have h := State.dmaCopy_lanesLast (s := { s with pcie := { s.pcie with readFail := x.readFail } }) x.src x.dst
        x.len (State.LanesLast.rest hs)
      exact State.LanesLast.rest h

theorem execDmaComplete_lanesLast {s : State} (n : Fin 16) (tag : Fin 32) (events : List MemEvent) {s₁ : State}
    (hs : s₀.LanesLast s) (h : execDmaComplete n tag events s = .next s₁) :
    s₀.LanesLast s₁ := by
  have := @State.modPier_lanesLast s₀
  have := @State.memEvents_lanesLast s₀
  have := @State.carryOn_lanesLast s₀
  have := @State.dmaMove_lanesLast s₀
  grind [execDmaComplete]

theorem execDmaw_lanesLast {s : State} (n : Fin 16) {s₁ : State} (hs : s₀.LanesLast s)
    (h : execDmaw n s = .next s₁) :
    s₀.LanesLast s₁ := by
  have := @State.issue_lanesLast s₀
  have := @State.blockEnd_lanesLast s₀
  grind [execDmaw]

theorem State.issueAtomic_lanesLast {s : State} (n : Nat) (i : SpanInstr) (p : Pier) (ra rb : PReg) (w : Nat)
    (spadOnly : Bool) (hs : s₀.LanesLast s) :
    s₀.LanesLast (State.issueAtomic s n i p ra rb w spadOnly) := by
  have := @State.pierFault_lanesLast s₀
  have := @State.fly_lanesLast s₀
  have := @State.illegal_lanesLast s₀
  unfold State.issueAtomic
  grind

theorem execAtadd_lanesLast {s : State} (n : Fin 16) {s₁ : State} (hs : s₀.LanesLast s)
    (h : execAtadd n s = .next s₁) :
    s₀.LanesLast s₁ := by
  have := @State.issue_lanesLast s₀
  have := @State.issueAtomic_lanesLast s₀
  grind [execAtadd]

theorem execAtswp_lanesLast {s : State} (n : Fin 16) {s₁ : State} (hs : s₀.LanesLast s)
    (h : execAtswp n s = .next s₁) :
    s₀.LanesLast s₁ := by
  have := @State.issue_lanesLast s₀
  have := @State.issueAtomic_lanesLast s₀
  grind [execAtswp]

theorem execBset_lanesLast {s : State} (n : Fin 16) {s₁ : State} (hs : s₀.LanesLast s)
    (h : execBset n s = .next s₁) :
    s₀.LanesLast s₁ := by
  have := @State.issue_lanesLast s₀
  have := @State.issueAtomic_lanesLast s₀
  grind [execBset]

theorem execBclr_lanesLast {s : State} (n : Fin 16) {s₁ : State} (hs : s₀.LanesLast s)
    (h : execBclr n s = .next s₁) :
    s₀.LanesLast s₁ := by
  have := @State.issue_lanesLast s₀
  have := @State.issueAtomic_lanesLast s₀
  grind [execBclr]

theorem State.markOrder_lanesLast {s : State} (n : Nat) (hs : s₀.LanesLast s) :
    s₀.LanesLast (State.markOrder s n) := by
  have := @State.modExec_lanesLast s₀
  have := @State.modRun_lanesLast s₀
  have := @State.tenFlag_lanesLast s₀
  grind [State.markOrder]

theorem State.completeAtomic_lanesLast {s : State} (n k : Nat) (i : InFlight) (hs : s₀.LanesLast s) :
    s₀.LanesLast (State.completeAtomic s n k i) := by
  unfold State.completeAtomic
  extract_lets a f own done r v t
  have hr : s₀.LanesLast r.2 := by
    dsimp only [r]
    split
    · exact State.atomicAt_lanesLast _ _ _ hs
    · exact hs
  clear_value r v
  have ht : s₀.LanesLast t := ite_keep (State.modPier_lanesLast _ _ (ite_keep hr (State.countDrops_lanesLast _ hr)))
    (State.modPier_lanesLast _ _ hr)
  exact ite_keep (State.markOrder_lanesLast _ ht) ht

theorem execMcast_lanesLast {s : State} (n : Fin 16) {s₁ : State} (hs : s₀.LanesLast s)
    (h : execMcast n s = .next s₁) :
    s₀.LanesLast s₁ := by
  have := @State.modPier_lanesLast s₀
  have := @State.issue_lanesLast s₀
  have := @State.nextPc_lanesLast s₀
  have := @State.fly_lanesLast s₀
  have := @State.holdIssue_lanesLast s₀
  have := @State.illegal_lanesLast s₀
  grind [execMcast]

theorem State.answerBranch_lanesLast {s : State} (n slot target : Nat) (cancelled : Bool) (hs : s₀.LanesLast s) :
    s₀.LanesLast (State.answerBranch s n slot target cancelled) := by
  have := @State.modPier_lanesLast s₀
  grind [State.answerBranch]

theorem State.deliverMcast_lanesLast {s : State} (n slot target : Nat) (hs : s₀.LanesLast s) :
    s₀.LanesLast (s.deliverMcast n slot target) := by
  grind [_=_ lanesLast_iff, State.deliverMcast]

theorem State.returnTo_lanesLast {s : State} (n : Nat) (hs : s₀.LanesLast s) :
    s₀.LanesLast (State.returnTo s n) := by
  have := @State.countDrops_lanesLast s₀
  grind [State.returnTo]

theorem execDeliveryNotice_lanesLast {s : State} (n : Fin 16) (slot : Fin 4) (target : Fin 16) {s₁ : State}
    (hs : s₀.LanesLast s) (h : execDeliveryNotice n slot target s = .next s₁) :
    s₀.LanesLast s₁ := by
  have := @State.carryOn_lanesLast s₀
  have := @State.answerBranch_lanesLast s₀
  have := @State.deliverMcast_lanesLast s₀
  have := @State.returnTo_lanesLast s₀
  grind [execDeliveryNotice]

theorem execCancelNotice_lanesLast {s : State} (n : Fin 16) (slot : Fin 4) (target : Fin 16) {s₁ : State}
    (hs : s₀.LanesLast s) (h : execCancelNotice n slot target s = .next s₁) :
    s₀.LanesLast s₁ := by
  have := @State.countDrops_lanesLast s₀
  have := @State.carryOn_lanesLast s₀
  have := @State.answerBranch_lanesLast s₀
  have := @State.returnTo_lanesLast s₀
  grind [execCancelNotice]

/-! ### Machine/Tensor.lean -/

theorem State.doMma_lanesLast {s : State} (n : Nat) (j : MmaJob) (a b : Nat → Nat → Int × Int)
    (hs : s₀.LanesLast s) :
    s₀.LanesLast (State.doMma s n j a b) := by
  have := @State.setSpan_lanesLast s₀
  have := @State.tenFlag_lanesLast s₀
  have := @State.tenFlagIf_lanesLast s₀
  grind [State.doMma, foldl_lanesLast]

theorem State.doRed_lanesLast {s : State} (n : Nat) (t : PReg) (a b : Word) (shape op : BitVec 2) (c : CellSet)
    (axis : BitVec 2) (hs : s₀.LanesLast s) :
    s₀.LanesLast (State.doRed s n t a b shape op c axis) := by
  have := @State.spadWrite_lanesLast s₀
  have := @State.tenFlag_lanesLast s₀
  have := @State.tenFlagIf_lanesLast s₀
  grind [State.doRed]

theorem State.doAccmv_lanesLast {s : State} (n : Nat) (t : PReg) (a b : Word) (d : BitVec 8) (fmt : BitVec 4)
    (shape op : BitVec 2) (c : CellSet) (yfmt : BitVec 4) (ybc clr : Bool) (hs : s₀.LanesLast s) :
    s₀.LanesLast (State.doAccmv s n t a b d fmt shape op c yfmt ybc clr) := by
  have := @State.modSpan_lanesLast s₀
  have := @State.spadCells_lanesLast s₀
  have := @State.tenFlag_lanesLast s₀
  have := @State.tenFlagIf_lanesLast s₀
  grind [State.doAccmv]

theorem State.doCvt_lanesLast {s : State} (n : Nat) (a b dims : Word) (ofmt ifmt : BitVec 4) (d : BitVec 8)
    (tr : Bool) (hs : s₀.LanesLast s) :
    s₀.LanesLast (State.doCvt s n a b dims ofmt ifmt d tr) := by
  have := @State.spadCells_lanesLast s₀
  have := @State.tenFlagIf_lanesLast s₀
  grind [State.doCvt]

theorem State.doEwo_lanesLast {s : State} (n : Nat) (z a b dims : Word) (zfmt xfmt yfmt : BitVec 4) (d : BitVec 8)
    (ybc : Bool) (op : BitVec 2) (hs : s₀.LanesLast s) :
    s₀.LanesLast (State.doEwo s n z a b dims zfmt xfmt yfmt d ybc op) := by
  have := @State.spadCells_lanesLast s₀
  have := @State.tenFlagIf_lanesLast s₀
  grind [State.doEwo]

theorem State.doFldcAcc_lanesLast {s : State} (n : Nat) (t : PReg) (a b : Word) (pair : BitVec 4)
    (shape : BitVec 2) (c : CellSet) (qubo : Bool) (kq : BitVec 9) (hs : s₀.LanesLast s) :
    s₀.LanesLast (State.doFldcAcc s n t a b pair shape c qubo kq) := by
  have := @State.doMma_lanesLast s₀
  grind [State.doFldcAcc]

theorem State.doFldcCommit_lanesLast {s : State} (n pc : Nat) (t : PReg) (w : Word) (shape : BitVec 2)
    (c : CellSet) (set_ : Bool) (hs : s₀.LanesLast s) :
    s₀.LanesLast (State.doFldcCommit s n pc t w shape c set_) := by
  have := @State.modEng_lanesLast s₀
  have := @State.pierFault_lanesLast s₀
  grind [State.doFldcCommit, foldl_lanesLast]

theorem State.putSpadBit_lanesLast {s : State} (n off bit : Nat) (v : Bool) (hs : s₀.LanesLast s) :
    s₀.LanesLast (State.putSpadBit s n off bit v) := by
  have := @State.spadWrite_lanesLast s₀
  grind [State.putSpadBit]

theorem State.doGibbs_lanesLast {s : State} (n pc : Nat) (t : PReg) (a b rc : Word) (shape : BitVec 2)
    (clr bias : Bool) (c : CellSet) (bfmt : BitVec 4) (hs : s₀.LanesLast s) :
    s₀.LanesLast (State.doGibbs s n pc t a b rc shape clr bias c bfmt) := by
  have := @State.modSpan_lanesLast s₀
  have := @State.pierFault_lanesLast s₀
  have := @State.putSpadBit_lanesLast s₀
  grind [State.doGibbs, foldl_lanesLast]

theorem State.flyIf_lanesLast {s : State} (n : Nat) (ok : Bool) (i : SpanInstr) (p : Pier) (a b c : PReg)
    (hs : s₀.LanesLast s) :
    s₀.LanesLast (State.flyIf s n ok i p a b c) := by
  have := @State.fly_lanesLast s₀
  have := @State.illegal_lanesLast s₀
  grind [State.flyIf]

theorem execMma_lanesLast {s : State} (n : Fin 16) {s₁ : State} (hs : s₀.LanesLast s) (h : execMma n s = .next s₁) :
    s₀.LanesLast s₁ := by
  have := @State.issue_lanesLast s₀
  have := @State.flyIf_lanesLast s₀
  grind [execMma]

theorem execMmaz_lanesLast {s : State} (n : Fin 16) {s₁ : State} (hs : s₀.LanesLast s)
    (h : execMmaz n s = .next s₁) :
    s₀.LanesLast s₁ := by
  have := @State.issue_lanesLast s₀
  have := @State.flyIf_lanesLast s₀
  grind [execMmaz]

theorem execAccz_lanesLast {s : State} (n : Fin 16) {s₁ : State} (hs : s₀.LanesLast s)
    (h : execAccz n s = .next s₁) :
    s₀.LanesLast s₁ := by
  have := @State.issue_lanesLast s₀
  have := @State.flyIf_lanesLast s₀
  grind [execAccz]

theorem execRed_lanesLast {s : State} (n : Fin 16) {s₁ : State} (hs : s₀.LanesLast s) (h : execRed n s = .next s₁) :
    s₀.LanesLast s₁ := by
  have := @State.issue_lanesLast s₀
  have := @State.flyIf_lanesLast s₀
  grind [execRed]

theorem execAccmv_lanesLast {s : State} (n : Fin 16) {s₁ : State} (hs : s₀.LanesLast s)
    (h : execAccmv n s = .next s₁) :
    s₀.LanesLast s₁ := by
  have := @State.issue_lanesLast s₀
  have := @State.flyIf_lanesLast s₀
  grind [execAccmv]

theorem execCvt_lanesLast {s : State} (n : Fin 16) {s₁ : State} (hs : s₀.LanesLast s) (h : execCvt n s = .next s₁) :
    s₀.LanesLast s₁ := by
  have := @State.issue_lanesLast s₀
  have := @State.flyIf_lanesLast s₀
  grind [execCvt]

theorem execEwo_lanesLast {s : State} (n : Fin 16) {s₁ : State} (hs : s₀.LanesLast s) (h : execEwo n s = .next s₁) :
    s₀.LanesLast s₁ := by
  have := @State.issue_lanesLast s₀
  have := @State.fly_lanesLast s₀
  have := @State.illegal_lanesLast s₀
  grind [execEwo]

theorem execFldcAccumulate_lanesLast {s : State} (n : Fin 16) {s₁ : State} (hs : s₀.LanesLast s)
    (h : execFldcAccumulate n s = .next s₁) :
    s₀.LanesLast s₁ := by
  have := @State.issue_lanesLast s₀
  have := @State.illegal_lanesLast s₀
  have := @State.flyIf_lanesLast s₀
  grind [execFldcAccumulate]

theorem execFldcCommitAdd_lanesLast {s : State} (n : Fin 16) {s₁ : State} (hs : s₀.LanesLast s)
    (h : execFldcCommitAdd n s = .next s₁) :
    s₀.LanesLast s₁ := by
  have := @State.issue_lanesLast s₀
  have := @State.flyIf_lanesLast s₀
  grind [execFldcCommitAdd]

theorem execFldcCommitSet_lanesLast {s : State} (n : Fin 16) {s₁ : State} (hs : s₀.LanesLast s)
    (h : execFldcCommitSet n s = .next s₁) :
    s₀.LanesLast s₁ := by
  have := @State.issue_lanesLast s₀
  have := @State.flyIf_lanesLast s₀
  grind [execFldcCommitSet]

theorem execGibbs_lanesLast {s : State} (n : Fin 16) {s₁ : State} (hs : s₀.LanesLast s)
    (h : execGibbs n s = .next s₁) :
    s₀.LanesLast s₁ := by
  have := @State.issue_lanesLast s₀
  have := @State.flyIf_lanesLast s₀
  grind [execGibbs]

theorem State.doTensor_lanesLast {s : State} (n : Nat) (f : InFlight) (hs : s₀.LanesLast s) :
    s₀.LanesLast (State.doTensor s n f) := by
  have := @State.modSpan_lanesLast s₀
  have := @State.doMma_lanesLast s₀
  have := @State.doRed_lanesLast s₀
  have := @State.doAccmv_lanesLast s₀
  have := @State.doCvt_lanesLast s₀
  have := @State.doEwo_lanesLast s₀
  have := @State.doFldcAcc_lanesLast s₀
  have := @State.doFldcCommit_lanesLast s₀
  have := @State.doGibbs_lanesLast s₀
  grind [State.doTensor]

theorem State.heard_lanesLast {s : State} (n : Nat) (hs : s₀.LanesLast s) : s₀.LanesLast (State.heard s n) := by
  have := @State.modSpan_lanesLast s₀
  grind [State.heard]

theorem execInstructionCompletion_lanesLast {s : State} (n : Fin 16) (k : Fin 192) {s₁ : State}
    (hs : s₀.LanesLast s) (h : execInstructionCompletion n k s = .next s₁) :
    s₀.LanesLast s₁ := by
  have := @State.modPier_lanesLast s₀
  have := @State.eventOp_lanesLast s₀
  have := @State.carryOn_lanesLast s₀
  have := @State.completeAtomic_lanesLast s₀
  have := @State.doTensor_lanesLast s₀
  have := @State.heard_lanesLast s₀
  unfold execInstructionCompletion at h
  grind

/-! ### Machine/RunRows.lean -/

theorem State.beginRunCmd_lanesLast {s : State} (c : Nat) (batch : Bool) (e : Exec) (hs : s₀.LanesLast s) :
    s₀.LanesLast (State.beginRunCmd s c batch e) := by
  have := @State.finishExec_lanesLast s₀
  have := @State.dispatch_lanesLast s₀
  grind [State.beginRunCmd]

theorem execAnneal_lanesLast {s : State} (c : Fin 1024) {s₁ : State} (hs : s₀.LanesLast s)
    (h : execAnneal c s = .next s₁) :
    s₀.LanesLast s₁ := by
  have := @State.carryOn_lanesLast s₀
  have := @State.withCmd_lanesLast s₀
  have := @State.beginRunCmd_lanesLast s₀
  grind [execAnneal]

theorem execSample_lanesLast {s : State} (c : Fin 1024) {s₁ : State} (hs : s₀.LanesLast s)
    (h : execSample c s = .next s₁) :
    s₀.LanesLast s₁ := by
  have := @State.carryOn_lanesLast s₀
  have := @State.withCmd_lanesLast s₀
  have := @State.beginRunCmd_lanesLast s₀
  grind [execSample]

theorem execRestore_lanesLast {s : State} (c : Fin 1024) {s₁ : State} (hs : s₀.LanesLast s)
    (h : execRestore c s = .next s₁) :
    s₀.LanesLast s₁ := by
  have := @State.carryOn_lanesLast s₀
  have := @State.withCmd_lanesLast s₀
  have := @State.beginRunCmd_lanesLast s₀
  grind [execRestore]

theorem execSchedBind_lanesLast {s : State} (n : Fin 16) {s₁ : State} (hs : s₀.LanesLast s)
    (h : execSchedBind n s = .next s₁) :
    s₀.LanesLast s₁ := by
  have := @State.issue_lanesLast s₀
  have := @State.fly_lanesLast s₀
  have := @State.illegal_lanesLast s₀
  grind [execSchedBind]

theorem execSweep_lanesLast {s : State} (n : Fin 16) {s₁ : State} (hs : s₀.LanesLast s)
    (h : execSweep n s = .next s₁) :
    s₀.LanesLast s₁ := by
  have := @State.issue_lanesLast s₀
  have := @State.fly_lanesLast s₀
  grind [execSweep]

theorem execFref_lanesLast {s : State} (n : Fin 16) {s₁ : State} (hs : s₀.LanesLast s)
    (h : execFref n s = .next s₁) :
    s₀.LanesLast s₁ := by
  have := @State.issue_lanesLast s₀
  have := @State.fly_lanesLast s₀
  grind [execFref]

theorem execEaud_lanesLast {s : State} (n : Fin 16) {s₁ : State} (hs : s₀.LanesLast s)
    (h : execEaud n s = .next s₁) :
    s₀.LanesLast s₁ := by
  have := @State.issue_lanesLast s₀
  have := @State.fly_lanesLast s₀
  grind [execEaud]

theorem execSnap_lanesLast {s : State} (n : Fin 16) {s₁ : State} (hs : s₀.LanesLast s)
    (h : execSnap n s = .next s₁) :
    s₀.LanesLast s₁ := by
  have := @State.issue_lanesLast s₀
  have := @State.fly_lanesLast s₀
  grind [execSnap]

theorem execXchg_lanesLast {s : State} (n : Fin 16) {s₁ : State} (hs : s₀.LanesLast s)
    (h : execXchg n s = .next s₁) :
    s₀.LanesLast s₁ := by
  have := @State.issue_lanesLast s₀
  have := @State.fly_lanesLast s₀
  grind [execXchg]

theorem execSchedEnd_lanesLast {s : State} (n : Fin 16) {s₁ : State} (hs : s₀.LanesLast s)
    (h : execSchedEnd n s = .next s₁) :
    s₀.LanesLast s₁ := by
  have := @State.issue_lanesLast s₀
  have := @State.fly_lanesLast s₀
  grind [execSchedEnd]

theorem execRmig_lanesLast {s : State} (n : Fin 16) {s₁ : State} (hs : s₀.LanesLast s)
    (h : execRmig n s = .next s₁) :
    s₀.LanesLast s₁ := by
  have := @State.issue_lanesLast s₀
  have := @State.fly_lanesLast s₀
  grind [execRmig]

theorem execWrot_lanesLast {s : State} (n : Fin 16) {s₁ : State} (hs : s₀.LanesLast s)
    (h : execWrot n s = .next s₁) :
    s₀.LanesLast s₁ := by
  have := @State.issue_lanesLast s₀
  have := @State.fly_lanesLast s₀
  grind [execWrot]

theorem execSchedNext_lanesLast {s : State} (n : Fin 16) {s₁ : State} (hs : s₀.LanesLast s)
    (h : execSchedNext n s = .next s₁) :
    s₀.LanesLast s₁ := by
  have := @State.issue_lanesLast s₀
  have := @State.fly_lanesLast s₀
  grind [execSchedNext]

theorem execBlockDecide_lanesLast {s : State} (n : Fin 16) (events : List MemEvent) {s₁ : State}
    (hs : s₀.LanesLast s) (h : execBlockDecide n events s = .next s₁) :
    s₀.LanesLast s₁ := by
  have := @State.decideWith_lanesLast s₀
  have := @State.carryOn_lanesLast s₀
  grind [execBlockDecide]

theorem execContinuation_lanesLast {s : State} (n : Fin 16) {s₁ : State} (hs : s₀.LanesLast s)
    (h : execContinuation n s = .next s₁) :
    s₀.LanesLast s₁ := by
  have := @State.continueBlock_lanesLast s₀
  have := @State.carryOn_lanesLast s₀
  grind [execContinuation]

theorem execBlockRefresh_lanesLast {s : State} (n : Fin 16) {s₁ : State} (hs : s₀.LanesLast s)
    (h : execBlockRefresh n s = .next s₁) :
    s₀.LanesLast s₁ := by
  have := @State.refreshNext_lanesLast s₀
  have := @State.carryOn_lanesLast s₀
  grind [execBlockRefresh]

theorem State.arriveVc1_lanesLast {s : State} (src n : Nat) (kind : Vc1Body → Bool) (pick : Nat → Bool)
    (hs : s₀.LanesLast s) :
    s₀.LanesLast (State.arriveVc1 s src n kind pick) := by
  have := @State.injectFor_lanesLast s₀
  have := @State.deliverVc1_lanesLast s₀
  have := @State.carryOn_lanesLast s₀
  grind [_=_ lanesLast_iff, State.arriveVc1]

theorem execSpanFlipFlit_lanesLast {s : State} (n : Fin 16) (pick : FlitPick) {s₁ : State} (hs : s₀.LanesLast s)
    (h : execSpanFlipFlit n pick s = .next s₁) :
    s₀.LanesLast s₁ := by
  have := @State.arriveVc1_lanesLast s₀
  grind [execSpanFlipFlit]

theorem execSpanEpochMarker_lanesLast {s : State} (n source : Fin 16) {s₁ : State} (hs : s₀.LanesLast s)
    (h : execSpanEpochMarker n source s = .next s₁) :
    s₀.LanesLast s₁ := by
  have := @State.arriveVc1_lanesLast s₀
  grind [execSpanEpochMarker]

theorem execEpochBoundary_lanesLast {s : State} (n : Fin 16) {s₁ : State} (hs : s₀.LanesLast s)
    (h : execEpochBoundary n s = .next s₁) :
    s₀.LanesLast s₁ := by
  have := @State.boundaryStep_lanesLast s₀
  have := @State.carryOn_lanesLast s₀
  grind [execEpochBoundary]

theorem execSweepFlush_lanesLast {s : State} (n : Fin 16) {s₁ : State} (hs : s₀.LanesLast s)
    (h : execSweepFlush n s = .next s₁) :
    s₀.LanesLast s₁ := by
  have := @State.boundaryStep_lanesLast s₀
  have := @State.carryOn_lanesLast s₀
  grind [execSweepFlush]

theorem execSettle_lanesLast {s : State} (q : Fin 64) {s₁ : State} (hs : s₀.LanesLast s)
    (h : execSettle q s = .next s₁) :
    s₀.LanesLast s₁ := by
  have := @State.settleLocal_lanesLast s₀
  have := @State.sysSettle_lanesLast s₀
  have := @State.carryOn_lanesLast s₀
  grind [execSettle]

theorem execDeadline_lanesLast {s : State} (q : Fin 64) {s₁ : State} (hs : s₀.LanesLast s)
    (h : execDeadline q s = .next s₁) :
    s₀.LanesLast s₁ := by
  have := @State.noteDeadline_lanesLast s₀
  have := @State.passTo_lanesLast s₀
  have := @State.carryOn_lanesLast s₀
  grind [execDeadline]

theorem execSpanRemap_lanesLast {s : State} (q : Fin 64) {s₁ : State} (hs : s₀.LanesLast s)
    (h : execSpanRemap q s = .next s₁) :
    s₀.LanesLast s₁ := by
  have := @State.remap_lanesLast s₀
  have := @State.carryOn_lanesLast s₀
  grind [execSpanRemap]

theorem State.loseRequests_lanesLast {s : State} (n : Nat) (hs : s₀.LanesLast s) :
    s₀.LanesLast (State.loseRequests s n).2 := by
  have := @State.modPier_lanesLast s₀
  have := @State.answerBranch_lanesLast s₀
  grind [State.loseRequests, foldl_lanesLast]

theorem State.resend_lanesLast {s : State} (n : Nat) (hs : s₀.LanesLast s) : s₀.LanesLast (State.resend s n) := by
  have := @State.modEng_lanesLast s₀
  have := @State.injectFirst_lanesLast s₀
  grind [State.resend]

theorem State.dropUnreachable_lanesLast {s : State} (hs : s₀.LanesLast s) :
    s₀.LanesLast (State.dropUnreachable s) := by
  grind [_=_ lanesLast_iff, State.dropUnreachable]

theorem State.install_lanesLast {s : State} (l : List (List Nat)) (hs : s₀.LanesLast s) :
    s₀.LanesLast (State.install s l) := by
  have := @State.deliverWhere_lanesLast s₀
  have := @State.loseRequests_lanesLast s₀
  have := @State.resend_lanesLast s₀
  have := @State.dropUnreachable_lanesLast s₀
  grind [_=_ lanesLast_iff, State.install, foldl_lanesLast, foldl_lanesLast₁, foldl_lanesLast₂]

theorem execDetourInstall_lanesLast {s : State} (built : Bool) (routes : List (List (Fin 36))) {s₁ : State}
    (hs : s₀.LanesLast s) (h : execDetourInstall built routes s = .next s₁) :
    s₀.LanesLast s₁ := by
  have := @State.enterFault_lanesLast s₀
  have := @State.carryOn_lanesLast s₀
  have := @State.install_lanesLast s₀
  grind [_=_ lanesLast_iff, execDetourInstall]

theorem execExchangeTimeout_lanesLast {s : State} (q : Fin 64) {s₁ : State} (hs : s₀.LanesLast s)
    (h : execExchangeTimeout q s = .next s₁) :
    s₀.LanesLast s₁ := by
  have := @State.waitFails_lanesLast s₀
  have := @State.passTo_lanesLast s₀
  have := @State.carryOn_lanesLast s₀
  grind [execExchangeTimeout]

/-! ### Machine/Loader.lean -/

theorem State.badReport_lanesLast {s : State} (f : LoadFail) (z : Option Quantised) (hs : s₀.LanesLast s) :
    s₀.LanesLast (State.badReport s f z).2 := by
  have := @State.drawBytes_lanesLast s₀
  unfold State.badReport
  grind

theorem State.failLoad_lanesLast {s : State} (c : Nat) (batch : Bool) (img report : Nat) (f : LoadFail)
    (z : Option Quantised) (hs : s₀.LanesLast s) :
    s₀.LanesLast (State.failLoad s c batch img report f z) := by
  have := @State.noteRequest_lanesLast s₀
  have := @State.writeBytes_lanesLast s₀
  have := @State.finishExec_lanesLast s₀
  have := @State.badReport_lanesLast s₀
  grind [State.failLoad]

theorem State.pload_lanesLast {s : State} (c : Nat) (batch : Bool) (e : Exec) (hs : s₀.LanesLast s) :
    s₀.LanesLast (State.pload s c batch e) := by
  unfold State.pload
  extract_lets img report
  split
  · exact State.finishExec_lanesLast _ _ _ _ hs
  · split
    · exact State.failLoad_lanesLast _ _ _ _ _ _ hs
    · split
      · exact State.finishExec_lanesLast _ _ _ _ hs
      · split
        · exact State.failLoad_lanesLast _ _ _ _ _ _ hs
        · split
          · exact State.failLoad_lanesLast _ _ _ _ _ _ hs
          · split
            · exact State.failLoad_lanesLast _ _ _ _ _ _ hs
            · exact State.finishExec_lanesLast _ _ _ _
                (State.LanesLast.rest (State.writeBytes_lanesLast _ _ (State.drawWord_lanesLast hs)))

theorem execPload_lanesLast {s : State} (c : Fin 1024) {s₁ : State} (hs : s₀.LanesLast s)
    (h : execPload c s = .next s₁) :
    s₀.LanesLast s₁ := by
  have := @State.withCmd_lanesLast s₀
  have := @State.pload_lanesLast s₀
  grind [execPload]

theorem State.countOps_lanesLast {s : State} (c : Nat) (e : Exec) (spans : List Nat) (hs : s₀.LanesLast s) :
    s₀.LanesLast (State.countOps s c e spans) := by
  have := @State.modPier_lanesLast s₀
  have := @State.drawWord_lanesLast s₀
  grind [State.countOps, foldl_lanesLast]

theorem State.dropOps_lanesLast {s : State} (c : Nat) (batch : Bool) (e : Exec) (hs : s₀.LanesLast s) :
    s₀.LanesLast (State.dropOps s c batch e) := by
  have := @State.modPier_lanesLast s₀
  have := @State.modExec_lanesLast s₀
  have := @State.sendAllLaunches_lanesLast s₀
  grind [State.dropOps, foldl_lanesLast]

theorem State.asLaunch_lanesLast {s : State} (c : Nat) (batch : Bool) (e : Exec) (spans : List Nat)
    (f : State → State) (hf : ∀ x, s₀.LanesLast x → s₀.LanesLast (f x)) (hs : s₀.LanesLast s) :
    s₀.LanesLast (State.asLaunch s c batch e spans f) := by
  have := @State.modPier_lanesLast s₀
  have := @State.modExec_lanesLast s₀
  have := @State.sendLaunches_lanesLast s₀
  have := @State.dispatch_lanesLast s₀
  have := @State.countOps_lanesLast s₀
  grind [State.asLaunch, foldl_lanesLast]

theorem State.withOp_lanesLast {s : State} (c op : Nat) (bad : Exec → Option Nat)
    (f : Bool → Exec → State → State) (hf : ∀ x y z, s₀.LanesLast z → s₀.LanesLast (f x y z))
    (hs : s₀.LanesLast s) :
    s₀.LanesLast (State.withOp s c op bad f) := by
  have := @State.sendLaunches_lanesLast s₀
  have := @State.withCmd_lanesLast s₀
  grind [State.withOp, foldl_lanesLast]

theorem State.evalOn_lanesLast {s : State} (c : Nat) (batch : Bool) (e : Exec) (p : Problem) (hs : s₀.LanesLast s) :
    s₀.LanesLast (State.evalOn s c batch e p) := by
  have := @State.noteRequest_lanesLast s₀
  have := @State.writeBytes_lanesLast s₀
  have := @State.finishExec_lanesLast s₀
  grind [State.evalOn]

theorem execEval_lanesLast {s : State} (c : Fin 1024) {s₁ : State} (hs : s₀.LanesLast s)
    (h : execEval c s = .next s₁) :
    s₀.LanesLast s₁ := by
  have := @State.finishExec_lanesLast s₀
  have := @State.dropOps_lanesLast s₀
  have := @State.asLaunch_lanesLast s₀
  have := @State.withOp_lanesLast s₀
  have := @State.evalOn_lanesLast s₀
  grind [execEval]

/-! ### Machine/Operator.lean -/

theorem State.noteRanges_lanesLast {s : State} (write : Bool) (l : List (Nat × Nat)) (hs : s₀.LanesLast s) :
    s₀.LanesLast (State.noteRanges s write l) := by
  have := @State.noteRequest_lanesLast s₀
  grind [State.noteRanges, foldl_lanesLast]

theorem State.patches_lanesLast {s : State} (rows cols : Nat) (spans : List Nat) (hs : s₀.LanesLast s) :
    s₀.LanesLast (State.patches s rows cols spans).2 := by
  grind [_=_ lanesLast_iff, State.patches]

theorem State.writePatches_lanesLast {s : State} (z : TDesc) (ps : List Patch) (vals : Patch → PatchVals)
    (hs : s₀.LanesLast s) :
    s₀.LanesLast (State.writePatches s z ps vals).1 := by
  have := @State.modSpan_lanesLast s₀
  have := @State.storeCells_lanesLast s₀
  have := @State.tenFlag_lanesLast s₀
  have := @State.tenFlagIf_lanesLast s₀
  grind [State.writePatches, foldl_lanesLast, foldl_lanesLast₁, foldl_lanesLast₂]

theorem State.finishParts_lanesLast {s : State} (c : Nat) (batch : Bool) (fails : List Nat) (hs : s₀.LanesLast s) :
    s₀.LanesLast (State.finishParts s c batch fails) := by
  have := @State.finishExec_lanesLast s₀
  grind [State.finishParts]

theorem State.indicate_lanesLast {s : State} (c : Nat) (batch sat order : Bool) (hs : s₀.LanesLast s) :
    s₀.LanesLast (State.indicate s c batch sat order) := by
  have := @State.modExec_lanesLast s₀
  grind [State.indicate]

theorem State.tensorCmd_lanesLast {s : State} (c : Nat) (batch : Bool) (spans : List Nat) (z : TDesc)
    (reads : Patch → List (Nat × Nat)) (vals : State → Patch → PatchVals) (hs : s₀.LanesLast s) :
    s₀.LanesLast (State.tensorCmd s c batch spans z reads vals) := by
  have := @State.noteRanges_lanesLast s₀
  have := @State.patches_lanesLast s₀
  have := @State.writePatches_lanesLast s₀
  have := @State.finishParts_lanesLast s₀
  have := @State.indicate_lanesLast s₀
  grind [State.tensorCmd, foldl_lanesLast]

theorem State.withSpans_lanesLast {s : State} (c op : Nat) (checks : Exec → List (Nat × Bool))
    (f : Bool → Exec → List Nat → State → State) (hf : ∀ x y z u, s₀.LanesLast u → s₀.LanesLast (f x y z u))
    (hs : s₀.LanesLast s) :
    s₀.LanesLast (State.withSpans s c op checks f) := by
  have := @State.asLaunch_lanesLast s₀
  have := @State.withOp_lanesLast s₀
  grind [State.withSpans]

theorem execEwise_lanesLast {s : State} (c : Fin 1024) {s₁ : State} (hs : s₀.LanesLast s)
    (h : execEwise c s = .next s₁) :
    s₀.LanesLast s₁ := by
  have := @State.tensorCmd_lanesLast s₀
  have := @State.withSpans_lanesLast s₀
  grind [execEwise]

theorem execConvert_lanesLast {s : State} (c : Fin 1024) {s₁ : State} (hs : s₀.LanesLast s)
    (h : execConvert c s = .next s₁) :
    s₀.LanesLast s₁ := by
  have := @State.tensorCmd_lanesLast s₀
  have := @State.withSpans_lanesLast s₀
  grind [execConvert]

theorem State.drawChain_lanesLast {s : State} (p : Pair) (k e : Nat) (neg : Bool) (hs : s₀.LanesLast s) :
    s₀.LanesLast (State.drawChain s p k e neg).2 := by
  have := @State.drawWord_lanesLast s₀
  grind [State.drawChain]

theorem execMatmul_lanesLast {s : State} (c : Fin 1024) {s₁ : State} (hs : s₀.LanesLast s)
    (h : execMatmul c s = .next s₁) :
    s₀.LanesLast s₁ := by
  have := @State.tensorCmd_lanesLast s₀
  have := @State.withSpans_lanesLast s₀
  have := @State.drawChain_lanesLast s₀
  grind [execMatmul]

theorem State.freeOrder_lanesLast {s : State} (spans : List Nat) (hs : s₀.LanesLast s) :
    s₀.LanesLast (State.freeOrder s spans).2 := by
  grind [_=_ lanesLast_iff, State.freeOrder]

theorem State.reduceSum_lanesLast {s : State} (c : Nat) (batch : Bool) (addr : Nat)
    (parts : List (Nat × Int × Bool)) (hs : s₀.LanesLast s) :
    s₀.LanesLast (State.reduceSum s c batch addr parts) := by
  have := @State.writeNat_lanesLast s₀
  have := @State.tenFlagIf_lanesLast s₀
  have := @State.indicate_lanesLast s₀
  grind [State.reduceSum, foldl_lanesLast]

theorem execReduce_lanesLast {s : State} (c : Fin 1024) {s₁ : State} (hs : s₀.LanesLast s)
    (h : execReduce c s = .next s₁) :
    s₀.LanesLast s₁ := by
  have := @State.writeBytes_lanesLast s₀
  have := @State.noteRanges_lanesLast s₀
  have := @State.patches_lanesLast s₀
  have := @State.finishParts_lanesLast s₀
  have := @State.withSpans_lanesLast s₀
  have := @State.freeOrder_lanesLast s₀
  have := @State.reduceSum_lanesLast s₀
  grind [execReduce, foldl_lanesLast]

end Sys2Proof.Machine
end

section
/-! PROOFS. Fenced lanes stay fenced: the rows of resets, security, boot, links and the host.
-/

namespace Sys2Proof.Machine

variable {s₀ : State}

/-! ### Machine/Reset.lean -/

theorem State.spanReset_lanesLast {s : State} (n : Nat) (hs : s₀.LanesLast s) :
    s₀.LanesLast (State.spanReset s n) := by
  have := @State.modSpan_lanesLast s₀
  grind [State.spanReset]

theorem execSpanReset_lanesLast {s : State} (n : Fin 16) {s₁ : State} (hs : s₀.LanesLast s)
    (h : execSpanReset n s = .next s₁) :
    s₀.LanesLast s₁ := by
  have := @State.spanReset_lanesLast s₀
  grind [execSpanReset]

theorem State.marchResult_lanesLast {s : State} (n : Nat) (fs : List MarchFinding) (hs : s₀.LanesLast s) :
    s₀.LanesLast (State.marchResult s n fs) := by
  have := @State.modSpan_lanesLast s₀
  have := @State.raiseMandatory_lanesLast s₀
  grind [State.marchResult]

theorem State.zeroSpan_lanesLast {s : State} (n : Nat) (hs : s₀.LanesLast s) : s₀.LanesLast (s.zeroSpan n) := by
  have := @State.modSpan_lanesLast s₀
  grind [_=_ lanesLast_iff, State.zeroSpan]

theorem State.marchRequest_lanesLast {s : State} (n : Nat) (hs : s₀.LanesLast s) :
    s₀.LanesLast (State.marchRequest s n) := by
  have := @State.modSpan_lanesLast s₀
  have := @State.zeroSpan_lanesLast s₀
  grind [State.marchRequest]

theorem execMarchTestRequest_lanesLast {s : State} (n : Fin 16) (preserve : Bool) {s₁ : State}
    (hs : s₀.LanesLast s) (h : execMarchTestRequest n preserve s = .next s₁) :
    s₀.LanesLast s₁ := by
  have := @State.modSpan_lanesLast s₀
  have := @State.marchRequest_lanesLast s₀
  grind [execMarchTestRequest]

theorem execMarchTestDone_lanesLast {s : State} (n : Fin 16) (findings : List MarchFinding) {s₁ : State}
    (hs : s₀.LanesLast s) (h : execMarchTestDone n findings s = .next s₁) :
    s₀.LanesLast s₁ := by
  have := @State.sendLaunches_lanesLast s₀
  have := @State.carryOn_lanesLast s₀
  have := @State.marchResult_lanesLast s₀
  grind [execMarchTestDone]

theorem State.tellStops_lanesLast {s : State} (hs : s₀.LanesLast s) : s₀.LanesLast (State.tellStops s) := by
  have := @State.endPart_lanesLast s₀
  grind [State.tellStops, foldl_lanesLast]

theorem State.leaveFault_lanesLast {s : State} (hs : s₀.LanesLast s) : s₀.LanesLast s.leaveFault := by
  have := @State.startTraining_lanesLast s₀
  grind [_=_ lanesLast_iff, State.leaveFault, State.withFlt, foldl_lanesLast]

theorem State.clearWork_lanesLast {s : State} (hs : s₀.LanesLast s) : s₀.LanesLast (State.clearWork s) := by
  have := @State.modSpan_lanesLast s₀
  have := @State.tellStops_lanesLast s₀
  grind [_=_ lanesLast_iff, State.clearWork, foldl_lanesLast]

theorem State.setCause_lanesLast {s : State} (c : Nat) (hs : s₀.LanesLast s) :
    s₀.LanesLast (State.setCause s c) := by
  grind [_=_ lanesLast_iff, State.setCause]

theorem State.startReset_lanesLast {s : State} (hs : s₀.LanesLast s) : s₀.LanesLast (State.startReset s) := by
  grind [_=_ lanesLast_iff, State.startReset]

theorem State.resetFunction_lanesLast {s : State} (hs : s₀.LanesLast s) : s₀.LanesLast (State.resetFunction s) := by
  grind [_=_ lanesLast_iff, State.resetFunction]

theorem State.functionReset_lanesLast {s : State} (hs : s₀.LanesLast s) : s₀.LanesLast (State.functionReset s) :=
  State.resetFunction_lanesLast
    (State.startReset_lanesLast
    (State.setCause_lanesLast 3
    (State.leaveFault_lanesLast (State.clearWork_lanesLast (State.resetFunction_lanesLast hs)))))

theorem execFlr_lanesLast {s s₁ : State} (hs : s₀.LanesLast s) (h : execFlr s = .next s₁) : s₀.LanesLast s₁ := by
  have := @State.functionReset_lanesLast s₀
  grind [execFlr]

theorem State.softReset_lanesLast {s : State} (hs : s₀.LanesLast s) : s₀.LanesLast (State.softReset s) := by
  have := @State.leaveFault_lanesLast s₀
  have := @State.clearWork_lanesLast s₀
  have := @State.setCause_lanesLast s₀
  have := @State.startReset_lanesLast s₀
  grind [State.softReset]

theorem execDevSoftReset_lanesLast {s s₁ : State} (hs : s₀.LanesLast s) (h : execDevSoftReset s = .next s₁) :
    s₀.LanesLast s₁ := by
  have := @State.softReset_lanesLast s₀
  grind [execDevSoftReset]

theorem execPerstNRelease_lanesLast {s : State} (slotId : BitVec 4) {s₁ : State} (hs : s₀.LanesLast s)
    (h : execPerstNRelease slotId s = .next s₁) :
    s₀.LanesLast s₁ := by
  grind [_=_ lanesLast_iff, execPerstNRelease]

/-! ### Machine/Sec.lean -/

theorem State.modSec_lanesLast {s : State} (f : Sec → Sec) (hs : s₀.LanesLast s) :
    s₀.LanesLast (State.modSec s f) := by
  grind [_=_ lanesLast_iff, State.modSec]

theorem State.rngFail_lanesLast {s : State} (hs : s₀.LanesLast s) : s₀.LanesLast (State.rngFail s) := by
  have := @State.raise_lanesLast s₀
  have := @State.modSec_lanesLast s₀
  grind [State.rngFail]

theorem State.seedDrbg_lanesLast {s : State} (personal : List Byte) (hs : s₀.LanesLast s) :
    s₀.LanesLast (State.seedDrbg s personal) := by
  have := @State.samples_lanesLast s₀
  have := @State.rngFail_lanesLast s₀
  grind [_=_ lanesLast_iff, State.seedDrbg]

theorem State.reseedDrbg_lanesLast {s : State} (hs : s₀.LanesLast s) : s₀.LanesLast (State.reseedDrbg s) := by
  have := @State.samples_lanesLast s₀
  have := @State.rngFail_lanesLast s₀
  grind [_=_ lanesLast_iff, State.reseedDrbg]

theorem State.zeroizeKeys_lanesLast {s : State} (slots : Nat) (hs : s₀.LanesLast s) :
    s₀.LanesLast (State.zeroizeKeys s slots) := by
  have := @State.takeDown_lanesLast s₀
  have := @State.modSec_lanesLast s₀
  grind [State.zeroizeKeys, foldl_lanesLast]

theorem State.fenceEncrypted_lanesLast {s : State} (hs : s₀.LanesLast s) :
    s₀.LanesLast (State.fenceEncrypted s) := by
  have := @State.fenceCxl_lanesLast s₀
  grind [State.fenceEncrypted, foldl_lanesLast]

theorem State.selfTestError_lanesLast {s : State} (hs : s₀.LanesLast s) : s₀.LanesLast (State.selfTestError s) := by
  grind [State.selfTestError, State.takeDown_lanesLast, State.raise_lanesLast, State.modSec_lanesLast,
    State.rngFail_lanesLast, State.fenceEncrypted_lanesLast, foldl_lanesLast]

theorem State.doFwWrite_lanesLast {s : State} (k : ObjKind) (slot off : Nat) (data : List Byte) {s₁ : State}
    {st : MgmtStatus} {d : List Byte} (hs : s₀.LanesLast s)
    (h : State.doFwWrite s k slot off data = .done st d s₁) :
    s₀.LanesLast s₁ := by
  have := @State.modSec_lanesLast s₀
  grind [State.withRng, State.doFwWrite]

theorem State.doFwVerify_lanesLast {s : State} (k : ObjKind) (c : ObjChecks) {s₁ : State} {st : MgmtStatus}
    {d : List Byte} (hs : s₀.LanesLast s) (h : State.doFwVerify s k c = .done st d s₁) :
    s₀.LanesLast s₁ := by
  grind [State.withRng, State.doFwVerify]

theorem State.doFwCommit_lanesLast {s : State} (k : ObjKind) {s₁ : State} {st : MgmtStatus} {d : List Byte}
    (hs : s₀.LanesLast s) (h : State.doFwCommit s k = .done st d s₁) :
    s₀.LanesLast s₁ := by
  have := @State.modSec_lanesLast s₀
  grind [State.withRng, State.doFwCommit]

theorem State.doSelfTest_lanesLast {s : State} (pass : Bool) {s₁ : State} {st : MgmtStatus} {d : List Byte}
    (hs : s₀.LanesLast s) (h : State.doSelfTest s pass = .done st d s₁) :
    s₀.LanesLast s₁ := by
  have := @State.selfTestError_lanesLast s₀
  grind [State.withRng, State.doSelfTest]

theorem State.doSetSeverity_lanesLast {s : State} (b : BlockId) (k sev : Nat) {s₁ : State} {st : MgmtStatus}
    {d : List Byte} (hs : s₀.LanesLast s) (h : State.doSetSeverity s b k sev = .done st d s₁) :
    s₀.LanesLast s₁ := by
  have := @State.modBlock_lanesLast s₀
  grind [State.withRng, State.doSetSeverity]

theorem State.fenceNamed_lanesLast {s : State} (k : FenceUnit) (hs : s₀.LanesLast s) :
    s₀.LanesLast (State.fenceNamed s k) := by
  have := @State.fenceSpan_lanesLast s₀
  have := @State.fenceMem_lanesLast s₀
  have := @State.fenceCxl_lanesLast s₀
  have := @State.fenceLink_lanesLast s₀
  have := @State.fenceLanes_lanesLast s₀
  have := @State.raise_lanesLast s₀
  unfold State.fenceNamed
  grind

theorem State.doSetFltParam_lanesLast {s : State} (esc quiet limit window : Option Nat) {s₁ : State}
    {st : MgmtStatus} {d : List Byte} (hs : s₀.LanesLast s)
    (h : State.doSetFltParam s esc quiet limit window = .done st d s₁) :
    s₀.LanesLast s₁ := by
  unfold State.doSetFltParam at h
  split at h
  all_goals grind [_=_ lanesLast_iff, State.withRng, State.withFlt]

theorem State.doKeyInstall_lanesLast {s : State} (l : Nat) (receive : Bool) (slot : Nat) (key : BitVec 256)
    (salt : BitVec 32) {s₁ : State} {st : MgmtStatus} {d : List Byte} (hs : s₀.LanesLast s)
    (h : State.doKeyInstall s l receive slot key salt = .done st d s₁) :
    s₀.LanesLast s₁ := by
  have := @State.wrapKey_lanesLast s₀
  have := @State.modSec_lanesLast s₀
  grind [State.withRng, State.doKeyInstall]

theorem State.doKeySwitch_lanesLast {s : State} (l : Nat) {s₁ : State} {st : MgmtStatus} {d : List Byte}
    (hs : s₀.LanesLast s) (h : State.doKeySwitch s l = .done st d s₁) :
    s₀.LanesLast s₁ := by
  have := @State.modLink_lanesLast s₀
  have := @State.sendNeighbour_lanesLast s₀
  grind [State.withRng, State.doKeySwitch]

theorem State.doReseed_lanesLast {s : State} (first : Bool) (input : List Byte) {s₁ : State} {st : MgmtStatus}
    {d : List Byte} (hs : s₀.LanesLast s) (h : State.doReseed s first input = .done st d s₁) :
    s₀.LanesLast s₁ := by
  grind [State.withRng, State.doReseed]

theorem State.doInstantiate_lanesLast {s : State} (personal : List Byte) {s₁ : State} {st : MgmtStatus}
    {d : List Byte} (hs : s₀.LanesLast s) (h : State.doInstantiate s personal = .done st d s₁) :
    s₀.LanesLast s₁ := by
  have := @State.seedDrbg_lanesLast s₀
  grind [State.withRng, State.doInstantiate]

theorem State.doUnlock_lanesLast {s : State} (t : Token) {s₁ : State} {st : MgmtStatus} {d : List Byte}
    (hs : s₀.LanesLast s) (h : State.doUnlock s t = .done st d s₁) :
    s₀.LanesLast s₁ := by
  have := @State.modSec_lanesLast s₀
  have := @State.zeroizeKeys_lanesLast s₀
  have := @State.fenceEncrypted_lanesLast s₀
  grind [State.withRng, State.doUnlock]

theorem State.handle_lanesLast {s : State} (first : Bool) (i : Instr) {s₁ : State} {st : MgmtStatus}
    {d : List Byte} (hs : s₀.LanesLast s) (h : s.handle first i = .done st d s₁) :
    s₀.LanesLast s₁ := by
  have := @State.generate_lanesLast s₀
  have := @State.modSec_lanesLast s₀
  have := @State.doFwWrite_lanesLast s₀
  have := @State.doFwVerify_lanesLast s₀
  have := @State.doFwCommit_lanesLast s₀
  have := @State.doSelfTest_lanesLast s₀
  have := @State.doSetSeverity_lanesLast s₀
  have := @State.fenceNamed_lanesLast s₀
  have := @State.doSetFltParam_lanesLast s₀
  have := @State.doKeyInstall_lanesLast s₀
  have := @State.doKeySwitch_lanesLast s₀
  have := @State.zeroizeKeys_lanesLast s₀
  have := @State.doReseed_lanesLast s₀
  have := @State.doInstantiate_lanesLast s₀
  have := @State.doUnlock_lanesLast s₀
  unfold State.handle at h
  grind [State.withRng]

theorem State.respond_lanesLast {s : State} (code : Nat) (seq : BitVec 16) (st : MgmtStatus) (data : List Byte)
    (hs : s₀.LanesLast s) :
    s₀.LanesLast (s.respond code seq st data) :=
  hs

theorem State.reseedFor_lanesLast {s : State} (i : Instr) (hs : s₀.LanesLast s) :
    s₀.LanesLast (State.reseedFor s i) := by
  have := @State.modSec_lanesLast s₀
  unfold State.reseedFor
  grind

theorem State.tryRequest_lanesLast {s : State} (seq : BitVec 16) (first : Bool) (i : Instr) (hs : s₀.LanesLast s) :
    s₀.LanesLast (State.tryRequest s seq first i) := by
  have := @State.modSec_lanesLast s₀
  have := @State.respond_lanesLast s₀
  have := @State.reseedFor_lanesLast s₀
  have := @State.handle_lanesLast s₀
  grind [State.tryRequest]

theorem State.retryRequest_lanesLast {s : State} (first : Bool) (hs : s₀.LanesLast s) :
    s₀.LanesLast (State.retryRequest s first) := by
  have := @State.tryRequest_lanesLast s₀
  grind [State.retryRequest]

theorem State.answerMailbox_lanesLast {s : State} (status : Nat) (data : List Byte) (hs : s₀.LanesLast s) :
    s₀.LanesLast (State.answerMailbox s status data) := by
  have := @State.raiseVector_lanesLast s₀
  grind [_=_ lanesLast_iff, State.answerMailbox]

theorem State.requestOn_lanesLast {s : State} (p : Port) (i : Instr) (hs : s₀.LanesLast s) :
    s₀.LanesLast (State.requestOn s p i) := by
  have := @State.carryOn_lanesLast s₀
  have := @State.respond_lanesLast s₀
  have := @State.tryRequest_lanesLast s₀
  have := @State.answerMailbox_lanesLast s₀
  unfold State.requestOn
  grind

theorem execStallReport_lanesLast {s : State} (p : Port) {s₁ : State} (hs : s₀.LanesLast s)
    (h : execStallReport p s = .next s₁) :
    s₀.LanesLast s₁ := by
  have := @State.requestOn_lanesLast s₀
  grind [execStallReport]

theorem execFenceStatus_lanesLast {s : State} (p : Port) {s₁ : State} (hs : s₀.LanesLast s)
    (h : execFenceStatus p s = .next s₁) :
    s₀.LanesLast s₁ := by
  have := @State.requestOn_lanesLast s₀
  grind [execFenceStatus]

theorem execFaultState_lanesLast {s : State} (p : Port) {s₁ : State} (hs : s₀.LanesLast s)
    (h : execFaultState p s = .next s₁) :
    s₀.LanesLast s₁ := by
  have := @State.requestOn_lanesLast s₀
  grind [execFaultState]

theorem execFwVersion_lanesLast {s : State} (p : Port) {s₁ : State} (hs : s₀.LanesLast s)
    (h : execFwVersion p s = .next s₁) :
    s₀.LanesLast s₁ := by
  have := @State.requestOn_lanesLast s₀
  grind [execFwVersion]

theorem execRngRead_lanesLast {s : State} (p : Port) (length : BitVec 12) {s₁ : State} (hs : s₀.LanesLast s)
    (h : execRngRead p length s = .next s₁) :
    s₀.LanesLast s₁ := by
  have := @State.requestOn_lanesLast s₀
  grind [execRngRead]

theorem execFwWrite_lanesLast {s : State} (p : Port) (k : ObjKind) (slot : Fin 2) (offset : Nat)
    (data : List Byte) {s₁ : State} (hs : s₀.LanesLast s) (h : execFwWrite p k slot offset data s = .next s₁) :
    s₀.LanesLast s₁ := by
  have := @State.requestOn_lanesLast s₀
  grind [execFwWrite]

theorem execFwVerify_lanesLast {s : State} (p : Port) (k : ObjKind) (checks : ObjChecks) {s₁ : State}
    (hs : s₀.LanesLast s) (h : execFwVerify p k checks s = .next s₁) :
    s₀.LanesLast s₁ := by
  have := @State.requestOn_lanesLast s₀
  grind [execFwVerify]

theorem execFwCommit_lanesLast {s : State} (p : Port) (k : ObjKind) {s₁ : State} (hs : s₀.LanesLast s)
    (h : execFwCommit p k s = .next s₁) :
    s₀.LanesLast s₁ := by
  have := @State.requestOn_lanesLast s₀
  grind [execFwCommit]

theorem execSelfTest_lanesLast {s : State} (p : Port) (pass : Bool) {s₁ : State} (hs : s₀.LanesLast s)
    (h : execSelfTest p pass s = .next s₁) :
    s₀.LanesLast s₁ := by
  have := @State.requestOn_lanesLast s₀
  grind [execSelfTest]

theorem execSetSeverity_lanesLast {s : State} (p : Port) (b : BlockId) (source : Fin 32) (severity : Fin 4)
    {s₁ : State} (hs : s₀.LanesLast s) (h : execSetSeverity p b source severity s = .next s₁) :
    s₀.LanesLast s₁ := by
  have := @State.requestOn_lanesLast s₀
  grind [execSetSeverity]

theorem execFenceUnit_lanesLast {s : State} (p : Port) (u : FenceUnit) {s₁ : State} (hs : s₀.LanesLast s)
    (h : execFenceUnit p u s = .next s₁) :
    s₀.LanesLast s₁ := by
  have := @State.requestOn_lanesLast s₀
  grind [execFenceUnit]

theorem execSetFltParam_lanesLast {s : State} (p : Port) (escMs quietMs limit window : Option Nat) {s₁ : State}
    (hs : s₀.LanesLast s) (h : execSetFltParam p escMs quietMs limit window s = .next s₁) :
    s₀.LanesLast s₁ := by
  have := @State.requestOn_lanesLast s₀
  grind [execSetFltParam]

theorem execKeyInstall_lanesLast {s : State} (p : Port) (l : Fin 4) (receive : Bool) (slot : Fin 2)
    (key : BitVec 256) (salt : BitVec 32) {s₁ : State} (hs : s₀.LanesLast s)
    (h : execKeyInstall p l receive slot key salt s = .next s₁) :
    s₀.LanesLast s₁ := by
  have := @State.requestOn_lanesLast s₀
  grind [execKeyInstall]

theorem execLinkKeySwitch_lanesLast {s : State} (p : Port) (l : Fin 4) {s₁ : State} (hs : s₀.LanesLast s)
    (h : execLinkKeySwitch p l s = .next s₁) :
    s₀.LanesLast s₁ := by
  have := @State.requestOn_lanesLast s₀
  grind [execLinkKeySwitch]

theorem execKeyZeroize_lanesLast {s : State} (p : Port) (slots : BitVec 18) {s₁ : State} (hs : s₀.LanesLast s)
    (h : execKeyZeroize p slots s = .next s₁) :
    s₀.LanesLast s₁ := by
  have := @State.requestOn_lanesLast s₀
  grind [execKeyZeroize]

theorem execDrbgReseed_lanesLast {s : State} (p : Port) (input : List Byte) {s₁ : State} (hs : s₀.LanesLast s)
    (h : execDrbgReseed p input s = .next s₁) :
    s₀.LanesLast s₁ := by
  have := @State.requestOn_lanesLast s₀
  grind [execDrbgReseed]

theorem execDrbgInstantiate_lanesLast {s : State} (p : Port) (personal : List Byte) {s₁ : State}
    (hs : s₀.LanesLast s) (h : execDrbgInstantiate p personal s = .next s₁) :
    s₀.LanesLast s₁ := by
  have := @State.requestOn_lanesLast s₀
  grind [execDrbgInstantiate]

theorem execAttest_lanesLast {s : State} (p : Port) (nonce : BitVec 256) {s₁ : State} (hs : s₀.LanesLast s)
    (h : execAttest p nonce s = .next s₁) :
    s₀.LanesLast s₁ := by
  have := @State.requestOn_lanesLast s₀
  grind [execAttest]

theorem execGetIdentity_lanesLast {s : State} (p : Port) {s₁ : State} (hs : s₀.LanesLast s)
    (h : execGetIdentity p s = .next s₁) :
    s₀.LanesLast s₁ := by
  have := @State.requestOn_lanesLast s₀
  grind [execGetIdentity]

theorem execDebugChallenge_lanesLast {s : State} (p : Port) {s₁ : State} (hs : s₀.LanesLast s)
    (h : execDebugChallenge p s = .next s₁) :
    s₀.LanesLast s₁ := by
  have := @State.requestOn_lanesLast s₀
  grind [execDebugChallenge]

theorem execDebugUnlock_lanesLast {s : State} (p : Port) (t : Token) {s₁ : State} (hs : s₀.LanesLast s)
    (h : execDebugUnlock p t s = .next s₁) :
    s₀.LanesLast s₁ := by
  have := @State.requestOn_lanesLast s₀
  grind [execDebugUnlock]

theorem State.readResponse_lanesLast {s : State} (hs : s₀.LanesLast s) : s₀.LanesLast (State.readResponse s) := by
  have := @State.modSec_lanesLast s₀
  grind [_=_ lanesLast_iff, State.readResponse]

theorem execManagementResponseRead_lanesLast {s s₁ : State} (hs : s₀.LanesLast s)
    (h : execManagementResponseRead s = .next s₁) :
    s₀.LanesLast s₁ := by
  have := @State.readResponse_lanesLast s₀
  grind [execManagementResponseRead]

theorem execDynamicAddressAssignment_lanesLast {s : State} (addr : BitVec 7) {s₁ : State} (hs : s₀.LanesLast s)
    (h : execDynamicAddressAssignment addr s = .next s₁) :
    s₀.LanesLast s₁ := by
  have := @State.modSec_lanesLast s₀
  grind [execDynamicAddressAssignment]

theorem State.requestReseed_lanesLast {s : State} (hs : s₀.LanesLast s) : s₀.LanesLast (State.requestReseed s) := by
  have := @State.modSec_lanesLast s₀
  grind [State.requestReseed]

theorem execRngReseedRequest_lanesLast {s s₁ : State} (hs : s₀.LanesLast s)
    (h : execRngReseedRequest s = .next s₁) :
    s₀.LanesLast s₁ := by
  have := @State.requestReseed_lanesLast s₀
  grind [execRngReseedRequest]

theorem execDrbgAutoReseed_lanesLast {s s₁ : State} (hs : s₀.LanesLast s) (h : execDrbgAutoReseed s = .next s₁) :
    s₀.LanesLast s₁ := by
  have := @State.passTo_lanesLast s₀
  have := @State.requestReseed_lanesLast s₀
  grind [execDrbgAutoReseed]

theorem execDrbgReseedDone_lanesLast {s s₁ : State} (hs : s₀.LanesLast s) (h : execDrbgReseedDone s = .next s₁) :
    s₀.LanesLast s₁ := by
  have := @State.carryOn_lanesLast s₀
  have := @State.reseedDrbg_lanesLast s₀
  have := @State.retryRequest_lanesLast s₀
  grind [execDrbgReseedDone]

theorem execEntropyHealthFailure_lanesLast {s s₁ : State} (hs : s₀.LanesLast s)
    (h : execEntropyHealthFailure s = .next s₁) :
    s₀.LanesLast s₁ := by
  have := @State.carryOn_lanesLast s₀
  have := @State.rngFail_lanesLast s₀
  have := @State.retryRequest_lanesLast s₀
  grind [execEntropyHealthFailure]

theorem execRngWord_lanesLast {s s₁ : State} (hs : s₀.LanesLast s) (h : execRngWord s = .next s₁) :
    s₀.LanesLast s₁ := by
  have := @State.generate_lanesLast s₀
  grind [_=_ lanesLast_iff, execRngWord]

/-! ### Machine/BootRows.lean -/

theorem State.setStage_lanesLast {s : State} (k : Nat) (hs : s₀.LanesLast s) :
    s₀.LanesLast (State.setStage s k) := by
  grind [_=_ lanesLast_iff, State.setStage]

theorem State.failBoot_lanesLast {s : State} (code : Nat) (hs : s₀.LanesLast s) :
    s₀.LanesLast (State.failBoot s code) := by
  grind [_=_ lanesLast_iff, State.failBoot]

theorem execMainPllLock_lanesLast {s : State} (link : HostLink) (width : Fin 5) {s₁ : State} (hs : s₀.LanesLast s)
    (h : execMainPllLock link width s = .next s₁) :
    s₀.LanesLast s₁ := by
  have := @State.setStage_lanesLast s₀
  grind [_=_ lanesLast_iff, execMainPllLock]

theorem execKnownAnswerTests_lanesLast {s : State} (pass identityOk : Bool) {s₁ : State} (hs : s₀.LanesLast s)
    (h : execKnownAnswerTests pass identityOk s = .next s₁) :
    s₀.LanesLast s₁ := by
  have := @State.modSec_lanesLast s₀
  have := @State.retryRequest_lanesLast s₀
  have := @State.setStage_lanesLast s₀
  have := @State.failBoot_lanesLast s₀
  grind [execKnownAnswerTests]

theorem execMarchTest_lanesLast {s : State} (findings : List MarchFinding) (serviceFail : Bool) {s₁ : State}
    (hs : s₀.LanesLast s) (h : execMarchTest findings serviceFail s = .next s₁) :
    s₀.LanesLast s₁ := by
  have := @State.marchResult_lanesLast s₀
  have := @State.retryRequest_lanesLast s₀
  have := @State.setStage_lanesLast s₀
  have := @State.failBoot_lanesLast s₀
  grind [_=_ lanesLast_iff, execMarchTest, State.withFlt, foldl_lanesLast]

theorem execEntropyStartupTest_lanesLast {s : State} (main fallback : BitVec 4096) {s₁ : State}
    (hs : s₀.LanesLast s) (h : execEntropyStartupTest main fallback s = .next s₁) :
    s₀.LanesLast s₁ := by
  grind [execEntropyStartupTest, State.carryOn_lanesLast, State.modSec_lanesLast, State.rngFail_lanesLast,
    State.setStage_lanesLast]

theorem State.instantiate_lanesLast {s : State} (hs : s₀.LanesLast s) : s₀.LanesLast (State.instantiate s) := by
  have := @State.generate_lanesLast s₀
  have := @State.modSec_lanesLast s₀
  have := @State.seedDrbg_lanesLast s₀
  grind [State.instantiate]

theorem State.applySeverities_lanesLast {s : State} (l : List (BlockId × Nat × Nat)) (hs : s₀.LanesLast s) :
    s₀.LanesLast (State.applySeverities s l) := by
  have := @State.doSetSeverity_lanesLast s₀
  grind [State.applySeverities, foldl_lanesLast]

theorem execImageVerification_lanesLast {s : State} (i0 i1 c0 c1 : ObjChecks) (cfg : ConfigBlock) {s₁ : State}
    (hs : s₀.LanesLast s) (h : execImageVerification i0 i1 c0 c1 cfg s = .next s₁) :
    s₀.LanesLast s₁ := by
  unfold execImageVerification at h
  dsimp only at h
  (repeat' split at h)
  all_goals grind [State.modLink_lanesLast, State.startTraining_lanesLast, State.carryOn_lanesLast,
    State.modSec_lanesLast, State.retryRequest_lanesLast, State.setStage_lanesLast, State.failBoot_lanesLast,
    State.instantiate_lanesLast, State.applySeverities_lanesLast, foldl_lanesLast]

theorem execGddr7Training_lanesLast {s : State} (rates : List (Option (Fin 3))) {s₁ : State} (hs : s₀.LanesLast s)
    (h : execGddr7Training rates s = .next s₁) :
    s₀.LanesLast s₁ := by
  have := @State.modMem_lanesLast s₀
  have := @State.raiseMandatory_lanesLast s₀
  have := @State.carryOn_lanesLast s₀
  have := @State.setStage_lanesLast s₀
  unfold execGddr7Training at h
  split at h
  all_goals grind [_=_ lanesLast_iff, foldl_lanesLast]

theorem State.enumerate_lanesLast {s : State} (p : Nat) (d : CxlDevice) (hs : s₀.LanesLast s) :
    s₀.LanesLast (State.enumerate s p d) := by
  have := @State.modCxl_lanesLast s₀
  have := @State.generate_lanesLast s₀
  have := @State.wrapKey_lanesLast s₀
  have := @State.raiseMandatory_lanesLast s₀
  have := @State.modSec_lanesLast s₀
  grind [State.enumerate]

theorem execCxlEnumeration_lanesLast {s : State} (p0 p1 : CxlDevice) {s₁ : State} (hs : s₀.LanesLast s)
    (h : execCxlEnumeration p0 p1 s = .next s₁) :
    s₀.LanesLast s₁ := by
  unfold execCxlEnumeration at h
  split at h
  · have he := State.enumerate_lanesLast 1 p1 (State.enumerate_lanesLast 0 p0 hs)
    generalize (s.enumerate 0 p0).enumerate 1 p1 = t at h he
    rw [← Host.Outcome.next.inj h]
    exact State.carryOn_lanesLast (State.modSec_lanesLast _ (State.LanesLast.rest he))
  · rw [← Host.Outcome.next.inj h]
    exact hs

/-! ### Machine/Links.lean -/

theorem State.forwardFlit_lanesLast {s : State} (l : Nat) (h : FlitHdr) (kind aux : Nat) (payload : List Byte)
    (hs : s₀.LanesLast s) :
    s₀.LanesLast (State.forwardFlit s l h kind aux payload) := by
  have := @State.dropFlit_lanesLast s₀
  have := @State.routeFlit_lanesLast s₀
  grind [State.forwardFlit]

theorem State.receive_lanesLast {s : State} (l : Nat) (h : FlitHdr) (kind aux : Nat) (payload : List Byte)
    (deliver : State → State) (hf : ∀ x, s₀.LanesLast x → s₀.LanesLast (deliver x)) (hs : s₀.LanesLast s) :
    s₀.LanesLast (State.receive s l h kind aux payload deliver) := by
  grind [State.receive, State.modLink_lanesLast, State.pumpLink_lanesLast, State.carryOn_lanesLast,
    State.forwardFlit_lanesLast]

theorem State.sendCompletion_lanesLast {s : State} (h : FlitHdr) (tag status offset : Nat) (data : List Byte)
    (hs : s₀.LanesLast s) :
    s₀.LanesLast (State.sendCompletion s h tag status offset data) := by
  have := @State.sendTo_lanesLast s₀
  grind [State.sendCompletion]

theorem State.linkAtadd_lanesLast {s : State} (h : FlitHdr) (a : Nat) (wide : Bool) (tag : Nat)
    (value : BitVec 64) (hs : s₀.LanesLast s) :
    s₀.LanesLast (State.linkAtadd s h a wide tag value) := by
  have := @State.noteRequest_lanesLast s₀
  have := @State.atomicAt_lanesLast s₀
  have := @State.sendCompletion_lanesLast s₀
  grind [State.linkAtadd]

theorem State.linkRead_lanesLast {s : State} (h : FlitHdr) (a n tag : Nat) (hs : s₀.LanesLast s) :
    s₀.LanesLast (State.linkRead s h a n tag) := by
  have := @State.noteRequest_lanesLast s₀
  have := @State.sendCompletion_lanesLast s₀
  grind [State.linkRead, foldl_lanesLast]

theorem State.linkWrite_lanesLast {s : State} (h : FlitHdr) (a tag : Nat) (reply : Bool) (data : List Byte)
    (hs : s₀.LanesLast s) :
    s₀.LanesLast (State.linkWrite s h a tag reply data) := by
  have := @State.writeBytes_lanesLast s₀
  have := @State.noteSettle_lanesLast s₀
  have := @State.sendCompletion_lanesLast s₀
  grind [State.linkWrite]

theorem State.linkMinIndex_lanesLast {s : State} (h : FlitHdr) (a : Nat) (least : Bool) (tag : Nat) (e : RedEntry)
    (hs : s₀.LanesLast s) :
    s₀.LanesLast (State.linkMinIndex s h a least tag e) := by
  have := @State.noteRequest_lanesLast s₀
  have := @State.writeBytes_lanesLast s₀
  have := @State.sendCompletion_lanesLast s₀
  grind [State.linkMinIndex]

theorem State.linkIncs_lanesLast {s : State} (ef : BitVec 16) (l : List FieldIncEntry) (hs : s₀.LanesLast s) :
    s₀.LanesLast (State.linkIncs s ef l) := by
  have := @State.modEng_lanesLast s₀
  grind [State.linkIncs, foldl_lanesLast]

theorem State.linkCommand_lanesLast {s : State} (l : Nat) (h : FlitHdr) (c tag : Nat) (packet : List Byte)
    (hs : s₀.LanesLast s) :
    s₀.LanesLast (State.linkCommand s l h c tag packet) := by
  have := @State.writeBytes_lanesLast s₀
  have := @State.doorbell_lanesLast s₀
  have := @State.sendCompletion_lanesLast s₀
  grind [State.linkCommand]

theorem State.request_lanesLast {s : State} (l : Nat) (h : FlitHdr) (a n kind : Nat) (payload : List Byte)
    (deliver : State → State) (hf : ∀ x, s₀.LanesLast x → s₀.LanesLast (deliver x)) (hs : s₀.LanesLast s) :
    s₀.LanesLast (State.request s l h a n kind payload deliver) := by
  have := @State.receive_lanesLast s₀
  grind [State.request]

theorem State.message_lanesLast {s : State} (l : Nat) (h : FlitHdr) (stops : List Nat) (kind : Nat)
    (payload : List Byte) (deliver : State → State) (hf : ∀ x, s₀.LanesLast x → s₀.LanesLast (deliver x))
    (hs : s₀.LanesLast s) :
    s₀.LanesLast (State.message s l h stops kind payload deliver) := by
  have := @State.receive_lanesLast s₀
  grind [State.message]

theorem execFlipBatch_lanesLast {s : State} (l : Fin 4) (h : FlitHdr) (b : FlipBatch) {s₁ : State}
    (hs : s₀.LanesLast s) (h : execFlipBatch l h b s = .next s₁) :
    s₀.LanesLast s₁ := by
  have := @State.takeBatch_lanesLast s₀
  have := @State.receive_lanesLast s₀
  grind [execFlipBatch]

theorem execFieldInc_lanesLast {s : State} (l : Fin 4) (h : FlitHdr) (ef : BitVec 16)
    (entries : List FieldIncEntry) {s₁ : State} (hs : s₀.LanesLast s)
    (h : execFieldInc l h ef entries s = .next s₁) :
    s₀.LanesLast s₁ := by
  have := @State.linkIncs_lanesLast s₀
  have := @State.message_lanesLast s₀
  grind [execFieldInc]

theorem execLinkAtadd_lanesLast {s : State} (l : Fin 4) (h : FlitHdr) (addr : BitVec 48) (wide : Bool)
    (tag : BitVec 16) (value : BitVec 64) {s₁ : State} (hs : s₀.LanesLast s)
    (h : execLinkAtadd l h addr wide tag value s = .next s₁) :
    s₀.LanesLast s₁ := by
  have := @State.linkAtadd_lanesLast s₀
  have := @State.request_lanesLast s₀
  grind [execLinkAtadd]

theorem execDmaRd_lanesLast {s : State} (l : Fin 4) (h : FlitHdr) (addr : BitVec 64) (length tag : BitVec 16)
    {s₁ : State} (hs : s₀.LanesLast s) (h : execDmaRd l h addr length tag s = .next s₁) :
    s₀.LanesLast s₁ := by
  have := @State.linkRead_lanesLast s₀
  have := @State.request_lanesLast s₀
  grind [execDmaRd]

theorem execDmaWr_lanesLast {s : State} (l : Fin 4) (h : FlitHdr) (addr : BitVec 64) (tag : BitVec 16)
    (reply : Bool) (data : List Byte) {s₁ : State} (hs : s₀.LanesLast s)
    (h : execDmaWr l h addr tag reply data s = .next s₁) :
    s₀.LanesLast s₁ := by
  have := @State.linkWrite_lanesLast s₀
  have := @State.request_lanesLast s₀
  grind [execDmaWr]

theorem execCompletion_lanesLast {s : State} (l : Fin 4) (h : FlitHdr) (tag : BitVec 16) (status : BitVec 8)
    (offset : BitVec 64) (data : List Byte) {s₁ : State} (hs : s₀.LanesLast s)
    (h : execCompletion l h tag status offset data s = .next s₁) :
    s₀.LanesLast s₁ := by
  have := @State.receive_lanesLast s₀
  grind [execCompletion]

theorem execEventSignal_lanesLast {s : State} (l : Fin 4) (h : FlitHdr) (e : BitVec 16) (add error : Bool)
    (value : BitVec 64) {s₁ : State} (hs : s₀.LanesLast s)
    (h : execEventSignal l h e add error value s = .next s₁) :
    s₀.LanesLast s₁ := by
  have := @State.eventOp_lanesLast s₀
  have := @State.message_lanesLast s₀
  grind [execEventSignal]

theorem execFwdCmd_lanesLast {s : State} (l : Fin 4) (h : FlitHdr) (c : Fin 1024) (tag : BitVec 16)
    (packet : List Byte) {s₁ : State} (hs : s₀.LanesLast s) (h : execFwdCmd l h c tag packet s = .next s₁) :
    s₀.LanesLast s₁ := by
  have := @State.linkCommand_lanesLast s₀
  have := @State.message_lanesLast s₀
  grind [execFwdCmd]

theorem State.marker_lanesLast {s : State} (l : Nat) (h : FlitHdr) (aux : Nat) (m : Marker) (hs : s₀.LanesLast s) :
    s₀.LanesLast (State.marker s l h aux m) := by
  have := @State.takeMarker_lanesLast s₀
  have := @State.receive_lanesLast s₀
  grind [State.marker]

theorem execEpochMarker_lanesLast {s : State} (l : Fin 4) (h : FlitHdr) (m : Marker) {s₁ : State}
    (hs : s₀.LanesLast s) (h : execEpochMarker l h m s = .next s₁) :
    s₀.LanesLast s₁ := by
  have := @State.marker_lanesLast s₀
  grind [execEpochMarker]

theorem execSweepEndMarker_lanesLast {s : State} (l : Fin 4) (h : FlitHdr) (m : Marker) {s₁ : State}
    (hs : s₀.LanesLast s) (h : execSweepEndMarker l h m s = .next s₁) :
    s₀.LanesLast s₁ := by
  have := @State.marker_lanesLast s₀
  grind [execSweepEndMarker]

theorem execUndoEndMarker_lanesLast {s : State} (l : Fin 4) (h : FlitHdr) (m : Marker) {s₁ : State}
    (hs : s₀.LanesLast s) (h : execUndoEndMarker l h m s = .next s₁) :
    s₀.LanesLast s₁ := by
  have := @State.marker_lanesLast s₀
  grind [execUndoEndMarker]

theorem execReadyMarker_lanesLast {s : State} (l : Fin 4) (h : FlitHdr) (m : Marker) {s₁ : State}
    (hs : s₀.LanesLast s) (h : execReadyMarker l h m s = .next s₁) :
    s₀.LanesLast s₁ := by
  have := @State.marker_lanesLast s₀
  grind [execReadyMarker]

theorem execRunStartMarker_lanesLast {s : State} (l : Fin 4) (h : FlitHdr) (m : Marker) {s₁ : State}
    (hs : s₀.LanesLast s) (h : execRunStartMarker l h m s = .next s₁) :
    s₀.LanesLast s₁ := by
  have := @State.marker_lanesLast s₀
  grind [execRunStartMarker]

theorem execStartMarker_lanesLast {s : State} (l : Fin 4) (h : FlitHdr) (m : Marker) {s₁ : State}
    (hs : s₀.LanesLast s) (h : execStartMarker l h m s = .next s₁) :
    s₀.LanesLast s₁ := by
  have := @State.marker_lanesLast s₀
  grind [execStartMarker]

theorem execSettleUpMarker_lanesLast {s : State} (l : Fin 4) (h : FlitHdr) (m : Marker) {s₁ : State}
    (hs : s₀.LanesLast s) (h : execSettleUpMarker l h m s = .next s₁) :
    s₀.LanesLast s₁ := by
  have := @State.marker_lanesLast s₀
  grind [execSettleUpMarker]

theorem execSettleDoneMarker_lanesLast {s : State} (l : Fin 4) (h : FlitHdr) (m : Marker) {s₁ : State}
    (hs : s₀.LanesLast s) (h : execSettleDoneMarker l h m s = .next s₁) :
    s₀.LanesLast s₁ := by
  have := @State.marker_lanesLast s₀
  grind [execSettleDoneMarker]

theorem execMinIndex_lanesLast {s : State} (l : Fin 4) (h : FlitHdr) (addr : BitVec 64) (least : Bool)
    (tag : BitVec 16) (entry : RedEntry) {s₁ : State} (hs : s₀.LanesLast s)
    (h : execMinIndex l h addr least tag entry s = .next s₁) :
    s₀.LanesLast s₁ := by
  have := @State.linkMinIndex_lanesLast s₀
  have := @State.request_lanesLast s₀
  grind [execMinIndex]

theorem execParam_lanesLast {s : State} (l : Fin 4) (h : FlitHdr) (module : BitVec 12) (widthCap : BitVec 8)
    (enc : Bool) {s₁ : State} (hs : s₀.LanesLast s) (h : execParam l h module widthCap enc s = .next s₁) :
    s₀.LanesLast s₁ := by
  have := @State.modLink_lanesLast s₀
  have := @State.receive_lanesLast s₀
  grind [execParam]

theorem execKeySwitch_lanesLast {s : State} (l : Fin 4) (h : FlitHdr) (slot : Fin 2) (count : BitVec 64)
    {s₁ : State} (hs : s₀.LanesLast s) (h : execKeySwitch l h slot count s = .next s₁) :
    s₀.LanesLast s₁ := by
  have := @State.modLink_lanesLast s₀
  have := @State.receive_lanesLast s₀
  grind [execKeySwitch]

theorem State.exitLost_lanesLast {s : State} (l : Nat) (hs : s₀.LanesLast s) :
    s₀.LanesLast (State.exitLost s l) := by
  have := @State.waitFails_lanesLast s₀
  grind [State.exitLost, foldl_lanesLast]

theorem execDown_lanesLast {s : State} (l : Fin 4) (h : FlitHdr) (cause : BitVec 8) {s₁ : State}
    (hs : s₀.LanesLast s) (h : execDown l h cause s = .next s₁) :
    s₀.LanesLast s₁ := by
  have := @State.modLink_lanesLast s₀
  have := @State.receive_lanesLast s₀
  have := @State.exitLost_lanesLast s₀
  grind [execDown]

theorem execWidth_lanesLast {s : State} (l : Fin 4) (h : FlitHdr) (code lanes : BitVec 8) {s₁ : State}
    (hs : s₀.LanesLast s) (h : execWidth l h code lanes s = .next s₁) :
    s₀.LanesLast s₁ := by
  have := @State.retrainTo_lanesLast s₀
  have := @State.receive_lanesLast s₀
  grind [execWidth]

theorem execRetrain_lanesLast {s : State} (l : Fin 4) (h : FlitHdr) {s₁ : State} (hs : s₀.LanesLast s)
    (h : execRetrain l h s = .next s₁) :
    s₀.LanesLast s₁ := by
  have := @State.retrainTo_lanesLast s₀
  have := @State.receive_lanesLast s₀
  grind [execRetrain]

theorem execPing_lanesLast {s : State} (l : Fin 4) (h : FlitHdr) (time : BitVec 64) {s₁ : State}
    (hs : s₀.LanesLast s) (h : execPing l h time s = .next s₁) :
    s₀.LanesLast s₁ := by
  have := @State.sendNeighbour_lanesLast s₀
  have := @State.receive_lanesLast s₀
  grind [execPing]

theorem execPong_lanesLast {s : State} (l : Fin 4) (h : FlitHdr) (time : BitVec 64) {s₁ : State}
    (hs : s₀.LanesLast s) (h : execPong l h time s = .next s₁) :
    s₀.LanesLast s₁ := by
  have := @State.receive_lanesLast s₀
  grind [execPong]

theorem execBadKind_lanesLast {s : State} (l : Fin 4) (h : FlitHdr) {s₁ : State} (hs : s₀.LanesLast s)
    (h : execBadKind l h s = .next s₁) :
    s₀.LanesLast s₁ := by
  have := @State.modLink_lanesLast s₀
  have := @State.raise_lanesLast s₀
  have := @State.receive_lanesLast s₀
  grind [execBadKind]

theorem execFlitForward_lanesLast {s : State} (l : Fin 4) (h : FlitHdr) (kind : BitVec 4) (aux : BitVec 8)
    (payload : List Byte) {s₁ : State} (hs : s₀.LanesLast s)
    (h : execFlitForward l h kind aux payload s = .next s₁) :
    s₀.LanesLast s₁ := by
  have := @State.receive_lanesLast s₀
  grind [execFlitForward]

theorem execFlitDiscard_lanesLast {s : State} (l : Fin 4) (h : FlitHdr) (tagFail uncorrectable : Bool)
    {s₁ : State} (hs : s₀.LanesLast s) (h : execFlitDiscard l h tagFail uncorrectable s = .next s₁) :
    s₀.LanesLast s₁ := by
  have := @State.modLink_lanesLast s₀
  have := @State.takeDown_lanesLast s₀
  have := @State.raise_lanesLast s₀
  have := @State.carryOn_lanesLast s₀
  grind [execFlitDiscard]

theorem execIdleFlit_lanesLast {s : State} (l : Fin 4) (h : FlitHdr) {s₁ : State} (hs : s₀.LanesLast s)
    (h : execIdleFlit l h s = .next s₁) :
    s₀.LanesLast s₁ := by
  have := @State.modLink_lanesLast s₀
  have := @State.pumpLink_lanesLast s₀
  grind [execIdleFlit]

theorem execReplayTimeout_lanesLast {s : State} (l : Fin 4) {s₁ : State} (hs : s₀.LanesLast s)
    (h : execReplayTimeout l s = .next s₁) :
    s₀.LanesLast s₁ := by
  have := @State.modLink_lanesLast s₀
  have := @State.pumpLink_lanesLast s₀
  have := @State.passTo_lanesLast s₀
  grind [execReplayTimeout]

theorem execReplayLimit_lanesLast {s : State} (l : Fin 4) {s₁ : State} (hs : s₀.LanesLast s)
    (h : execReplayLimit l s = .next s₁) :
    s₀.LanesLast s₁ := by
  have := @State.retrainTo_lanesLast s₀
  have := @State.raise_lanesLast s₀
  have := @State.carryOn_lanesLast s₀
  grind [execReplayLimit]

theorem State.activate_lanesLast {s : State} (l : Nat) (hs : s₀.LanesLast s) :
    s₀.LanesLast (State.activate s l) := by
  have := @State.modLink_lanesLast s₀
  have := @State.pumpLink_lanesLast s₀
  grind [State.activate]

theorem State.trainFails_lanesLast {s : State} (l : Nat) (hs : s₀.LanesLast s) :
    s₀.LanesLast (State.trainFails s l) := by
  have := @State.modLink_lanesLast s₀
  have := @State.raise_lanesLast s₀
  grind [State.trainFails]

theorem execLinkTrainingAdvance_lanesLast {s : State} (d : LinkDetect) {s₁ : State} (hs : s₀.LanesLast s)
    (h : execLinkTrainingAdvance d s = .next s₁) :
    s₀.LanesLast s₁ := by
  have := @State.modLink_lanesLast s₀
  have := @State.carryOn_lanesLast s₀
  have := @State.activate_lanesLast s₀
  have := @State.trainFails_lanesLast s₀
  grind [execLinkTrainingAdvance]

theorem execLinkTrainingTimeout_lanesLast {s : State} (l : Fin 4) {s₁ : State} (hs : s₀.LanesLast s)
    (h : execLinkTrainingTimeout l s = .next s₁) :
    s₀.LanesLast s₁ := by
  have := @State.startTraining_lanesLast s₀
  have := @State.passTo_lanesLast s₀
  have := @State.carryOn_lanesLast s₀
  have := @State.trainFails_lanesLast s₀
  grind [execLinkTrainingTimeout]

theorem execLaneFailure_lanesLast {s : State} (l : Fin 4) (lanes : BitVec 8) {s₁ : State} (hs : s₀.LanesLast s)
    (h : execLaneFailure l lanes s = .next s₁) :
    s₀.LanesLast s₁ := by
  have := @State.loseLanes_lanesLast s₀
  have := @State.raise_lanesLast s₀
  have := @State.carryOn_lanesLast s₀
  grind [execLaneFailure]

theorem State.lnkCtl_lanesLast {s : State} (l : Nat) (enable fwdEn dateline retrain : Bool) (hs : s₀.LanesLast s) :
    s₀.LanesLast (State.lnkCtl s l enable fwdEn dateline retrain) := by
  have := @State.modLink_lanesLast s₀
  have := @State.takeDown_lanesLast s₀
  have := @State.startTraining_lanesLast s₀
  grind [State.lnkCtl]

theorem execLinkEnable_lanesLast {s : State} (l : Fin 4) (fwdEn dateline : Bool) {s₁ : State}
    (hs : s₀.LanesLast s) (h : execLinkEnable l fwdEn dateline s = .next s₁) :
    s₀.LanesLast s₁ := by
  have := @State.carryOn_lanesLast s₀
  have := @State.lnkCtl_lanesLast s₀
  grind [execLinkEnable]

theorem execLinkDisable_lanesLast {s : State} (l : Fin 4) (fwdEn dateline : Bool) {s₁ : State}
    (hs : s₀.LanesLast s) (h : execLinkDisable l fwdEn dateline s = .next s₁) :
    s₀.LanesLast s₁ := by
  have := @State.carryOn_lanesLast s₀
  have := @State.lnkCtl_lanesLast s₀
  grind [execLinkDisable]

theorem execLinkRetrain_lanesLast {s : State} (l : Fin 4) {s₁ : State} (hs : s₀.LanesLast s)
    (h : execLinkRetrain l s = .next s₁) :
    s₀.LanesLast s₁ := by
  have := @State.carryOn_lanesLast s₀
  have := @State.lnkCtl_lanesLast s₀
  grind [execLinkRetrain]

/-! ### Machine/ConfigSpace.lean -/

theorem State.configure_lanesLast {s : State} (f : State → State) (hf : ∀ x, s₀.LanesLast x → s₀.LanesLast (f x))
    (hs : s₀.LanesLast s) :
    s₀.LanesLast (State.configure s f) := by
  grind [_=_ lanesLast_iff, State.configure]

/-! ### Machine/Host.lean -/

theorem State.fltIfWrite_lanesLast {s : State} (b : BlockId) (o v : Nat) (hs : s₀.LanesLast s) :
    s₀.LanesLast (State.fltIfWrite s b o v) := by
  have := @State.modBlock_lanesLast s₀
  unfold State.fltIfWrite
  grind

theorem State.clearStatus_lanesLast {s : State} (b : BlockId) (shift n v : Nat) (hs : s₀.LanesLast s) :
    s₀.LanesLast (State.clearStatus s b shift n v) := by
  have := @State.fltIfWrite_lanesLast s₀
  grind [State.clearStatus]

theorem State.devWrite_lanesLast {s : State} (o v : Nat) (hs : s₀.LanesLast s) :
    s₀.LanesLast (State.devWrite s o v) := by
  have := @State.softReset_lanesLast s₀
  unfold State.devWrite
  split
  all_goals grind [_=_ lanesLast_iff]

theorem State.mbxCommand_lanesLast {s : State} (v : Nat) (hs : s₀.LanesLast s) :
    s₀.LanesLast (State.mbxCommand s v) := by
  have := @State.answerMailbox_lanesLast s₀
  grind [_=_ lanesLast_iff, State.mbxCommand]

theorem State.mbxWrite_lanesLast {s : State} (o v : Nat) (hs : s₀.LanesLast s) :
    s₀.LanesLast (State.mbxWrite s o v) := by
  have := @State.mbxCommand_lanesLast s₀
  unfold State.mbxWrite
  split
  all_goals grind [_=_ lanesLast_iff]

theorem State.memWrite_lanesLast {s : State} (n o v : Nat) (hs : s₀.LanesLast s) :
    s₀.LanesLast (State.memWrite s n o v) := by
  have := @State.retrainMem_lanesLast s₀
  have := @State.clearStatus_lanesLast s₀
  grind [State.memWrite]

theorem State.lnkWrite_lanesLast {s : State} (l o v : Nat) (hs : s₀.LanesLast s) :
    s₀.LanesLast (State.lnkWrite s l o v) := by
  have := @State.lnkCtl_lanesLast s₀
  unfold State.lnkWrite
  split
  all_goals grind [_=_ lanesLast_iff]

theorem State.spnWrite_lanesLast {s : State} (n o v : Nat) (hs : s₀.LanesLast s) :
    s₀.LanesLast (State.spnWrite s n o v) := by
  have := @State.modSpan_lanesLast s₀
  have := @State.spanReset_lanesLast s₀
  have := @State.marchRequest_lanesLast s₀
  have := @State.clearStatus_lanesLast s₀
  unfold State.spnWrite
  grind

theorem State.ctxWrite_lanesLast {s : State} (c o v : Nat) (hs : s₀.LanesLast s) :
    s₀.LanesLast (State.ctxWrite s c o v) := by
  have := @State.modCtx_lanesLast s₀
  have := @State.doorbell_lanesLast s₀
  have := @State.ctlWrite_lanesLast s₀
  have := @State.cplHeadWrite_lanesLast s₀
  unfold State.ctxWrite
  grind

theorem State.evtWrite_lanesLast {s : State} (e o v : Nat) (hs : s₀.LanesLast s) :
    s₀.LanesLast (State.evtWrite s e o v) := by
  have := @State.setEvent_lanesLast s₀
  have := @State.eventOp_lanesLast s₀
  unfold State.evtWrite
  grind

theorem State.msixWrite_lanesLast {s : State} (o v : Nat) (hs : s₀.LanesLast s) :
    s₀.LanesLast (State.msixWrite s o v) := by
  have := @State.sendPending_lanesLast s₀
  grind [_=_ lanesLast_iff, State.msixWrite]

theorem State.bar0WriteWord_lanesLast {s : State} (o v : Nat) (hs : s₀.LanesLast s) :
    s₀.LanesLast (State.bar0WriteWord s o v) := by
  grind [_=_ lanesLast_iff, State.bar0WriteWord, State.ackFault_lanesLast, State.requestReseed_lanesLast,
    State.fltIfWrite_lanesLast, State.clearStatus_lanesLast, State.devWrite_lanesLast, State.mbxWrite_lanesLast,
    State.memWrite_lanesLast, State.lnkWrite_lanesLast, State.spnWrite_lanesLast, State.ctxWrite_lanesLast,
    State.evtWrite_lanesLast, State.msixWrite_lanesLast]

theorem State.bar0Write_lanesLast {s : State} (o n v : Nat) (hs : s₀.LanesLast s) :
    s₀.LanesLast (State.bar0Write s o n v) := by
  have := @State.eventOp_lanesLast s₀
  have := @State.bar0WriteWord_lanesLast s₀
  grind [State.bar0Write]

theorem execRegisterWrite_lanesLast {s : State} (offset : BitVec 26) (bytes : Nat) (value : BitVec 64)
    {s₁ : State} (hs : s₀.LanesLast s) (h : execRegisterWrite offset bytes value s = .next s₁) :
    s₀.LanesLast s₁ := by
  have := @State.carryOn_lanesLast s₀
  have := @State.bar0Write_lanesLast s₀
  grind [execRegisterWrite]

theorem State.bar2Note_lanesLast {s : State} (write : Bool) (l : List (Nat × Bar2Io)) (hs : s₀.LanesLast s) :
    s₀.LanesLast (State.bar2Note s write l) := by
  have := @State.setHerr_lanesLast s₀
  have := @State.countDrops_lanesLast s₀
  grind [State.bar2Note]

theorem execBar2Read_lanesLast {s : State} (offset : BitVec 38) (enables : List Bool) (events : List MemEvent)
    {s₁ : State} (hs : s₀.LanesLast s) (h : execBar2Read offset enables events s = .next s₁) :
    s₀.LanesLast s₁ := by
  have := @State.memEvents_lanesLast s₀
  have := @State.carryOn_lanesLast s₀
  have := @State.bar2Note_lanesLast s₀
  grind [_=_ lanesLast_iff, execBar2Read]

theorem execBar2Write_lanesLast {s : State} (offset : BitVec 38) (data : List (Option Byte))
    (events : List MemEvent) {s₁ : State} (hs : s₀.LanesLast s)
    (h : execBar2Write offset data events s = .next s₁) :
    s₀.LanesLast s₁ := by
  have := @State.storeCells_lanesLast s₀
  have := @State.memEvents_lanesLast s₀
  have := @State.carryOn_lanesLast s₀
  have := @State.bar2Note_lanesLast s₀
  grind [execBar2Write]

theorem execMsixUnmask_lanesLast {s : State} (m : MsixChange) {s₁ : State} (hs : s₀.LanesLast s)
    (h : execMsixUnmask m s = .next s₁) :
    s₀.LanesLast s₁ := by
  have := @State.sendPending_lanesLast s₀
  have := @State.configure_lanesLast s₀
  have := @State.msixWrite_lanesLast s₀
  unfold execMsixUnmask at h
  split at h
  all_goals grind [_=_ lanesLast_iff]

theorem execD3hot_lanesLast {s : State} (enter : Bool) {s₁ : State} (hs : s₀.LanesLast s)
    (h : execD3hot enter s = .next s₁) :
    s₀.LanesLast s₁ := by
  have := @State.configure_lanesLast s₀
  grind [_=_ lanesLast_iff, execD3hot]

theorem execConfigurationWrite_lanesLast {s : State} (w : ConfigWrite) {s₁ : State} (hs : s₀.LanesLast s)
    (h : execConfigurationWrite w s = .next s₁) :
    s₀.LanesLast s₁ := by
  have := @State.configure_lanesLast s₀
  grind [_=_ lanesLast_iff, execConfigurationWrite]

/-! ### Machine/Timeouts.lean -/

theorem State.rowOf_lanesLast {s : State} (c : Fin 1024) {s₁ : State} (hs : s₀.LanesLast s)
    (h : State.rowOf s c = .next s₁) :
    s₀.LanesLast s₁ := by
  have := @execCopy_lanesLast s₀
  have := @execFill_lanesLast s₀
  have := @execLaunch_lanesLast s₀
  have := @execAnneal_lanesLast s₀
  have := @execSample_lanesLast s₀
  have := @execRestore_lanesLast s₀
  have := @execPload_lanesLast s₀
  have := @execEval_lanesLast s₀
  have := @execEwise_lanesLast s₀
  have := @execConvert_lanesLast s₀
  have := @execMatmul_lanesLast s₀
  have := @execReduce_lanesLast s₀
  grind [State.rowOf]

theorem State.failing_lanesLast {s : State} (a : Nat) (how : ReadFail) (row : State → Out) {s₁ : State}
    (hs : s₀.LanesLast s) (hf : ∀ t, s₀.LanesLast t → ∀ u, row t = .next u → s₀.LanesLast u)
    (h : s.failing a how row = .next s₁) :
    s₀.LanesLast s₁ := by
  grind [_=_ lanesLast_iff, State.failing]

theorem State.readerFails_lanesLast {s : State} (r : HostReader) (a : Nat) (how : ReadFail) {s₁ : State}
    (hs : s₀.LanesLast s) (h : s.readerFails r a how = .next s₁) :
    s₀.LanesLast s₁ := by
  have := @State.modPier_lanesLast s₀
  have := @State.failing_lanesLast s₀
  have := @execCommandFetch_lanesLast s₀
  have := @execBatchDescriptorTake_lanesLast s₀
  have := @State.rowOf_lanesLast s₀
  have := @execDmaRd_lanesLast s₀
  unfold State.readerFails at h
  grind

theorem execCplTimeout_lanesLast {s : State} (reader : HostReader) (addr : BitVec 48) (how : HostError)
    {s₁ : State} (hs : s₀.LanesLast s) (h : execCplTimeout reader addr how s = .next s₁) :
    s₀.LanesLast s₁ := by
  have := @State.readerFails_lanesLast s₀
  grind [execCplTimeout]

theorem State.failAtomic_lanesLast {s : State} (n a : Nat) (hs : s₀.LanesLast s) :
    s₀.LanesLast (State.failAtomic s n a) := by
  have := @State.modPier_lanesLast s₀
  grind [State.failAtomic]

theorem State.cxlFails_lanesLast {s : State} (r : CxlRequester) (a : Nat) {s₁ : State} (hs : s₀.LanesLast s)
    (h : s.cxlFails r a = .next s₁) :
    s₀.LanesLast s₁ := by
  have := @State.readerFails_lanesLast s₀
  have := @State.failAtomic_lanesLast s₀
  have := @State.failing_lanesLast s₀
  have := @execBar2Read_lanesLast s₀
  have := @execBar2Write_lanesLast s₀
  have := @execDmaWr_lanesLast s₀
  have := @execLinkAtadd_lanesLast s₀
  have := @execMinIndex_lanesLast s₀
  have := @State.carryOn_lanesLast s₀
  have := @State.stopRun_lanesLast s₀
  unfold State.cxlFails at h
  grind

theorem State.countTimeout_lanesLast {s : State} (p : Fin 2) (hs : s₀.LanesLast s) :
    s₀.LanesLast (State.countTimeout s p) := by
  have := @State.modCxl_lanesLast s₀
  have := @State.enterRaise_lanesLast s₀
  have := @State.fenceCxl_lanesLast s₀
  have := @State.raise_lanesLast s₀
  have := @State.carryOn_lanesLast s₀
  grind [State.countTimeout]

theorem execCxlTimeout_lanesLast {s : State} (q : CxlRequest) {s₁ : State} (hs : s₀.LanesLast s)
    (h : execCxlTimeout q s = .next s₁) :
    s₀.LanesLast s₁ := by
  have := @State.cxlFails_lanesLast s₀
  have := @State.countTimeout_lanesLast s₀
  grind [execCxlTimeout]

end Sys2Proof.Machine
end

section
/-! PROOFS. No command but a reset of the die lifts a fence (17 R424).
-/

namespace Sys2Proof.Machine

variable {s t : State}

/-- No command but a reset of the die lifts the fence of a lane. -/
theorem exec_lanesLast {i : Instr} (hi : isDieReset i = false) (hs : s.LanesLast s) (h : exec i s = .next t) :
    s.LanesLast t := by
  cases i with
  | launch => exact execLaunch_lanesLast _ hs h
  | constBuf => exact execConstBuf_lanesLast _ hs h
  | evrec => exact execEvrec_lanesLast _ hs h
  | evwait => exact execEvwait_lanesLast _ hs h
  | copy => exact execCopy_lanesLast _ hs h
  | fill => exact execFill_lanesLast _ hs h
  | pload => exact execPload_lanesLast _ hs h
  | pfree => exact execPfree_lanesLast _ hs h
  | anneal => exact execAnneal_lanesLast _ hs h
  | annealBatch => exact execAnnealBatch_lanesLast _ hs h
  | batchDescriptorTake => exact execBatchDescriptorTake_lanesLast _ hs h
  | endDescriptor => exact execEndDescriptor_lanesLast _ hs h
  | sample => exact execSample_lanesLast _ hs h
  | eval => exact execEval_lanesLast _ hs h
  | ckpt => exact execCkpt_lanesLast _ hs h
  | restore => exact execRestore_lanesLast _ hs h
  | matmul => exact execMatmul_lanesLast _ hs h
  | reduce => exact execReduce_lanesLast _ hs h
  | ewise => exact execEwise_lanesLast _ hs h
  | convert => exact execConvert_lanesLast _ hs h
  | qstop => exact execQstop_lanesLast _ hs h
  | nopc => exact execNopc_lanesLast _ hs h
  | commandFetch => exact execCommandFetch_lanesLast _ hs h
  | commandStart => exact execCommandStart_lanesLast hs h
  | commandCompletion => exact execCommandCompletion_lanesLast _ hs h
  | pierLaunch => exact execPierLaunch_lanesLast _ hs h
  | ctxDoorbell => exact execCtxDoorbell_lanesLast _ _ hs h
  | contextCreate => exact execContextCreate_lanesLast _ _ _ hs h
  | contextDestroy => exact execContextDestroy_lanesLast _ _ _ hs h
  | destroyAbort => exact execDestroyAbort_lanesLast _ _ hs h
  | resume => exact execResume_lanesLast _ _ _ hs h
  | destroyDone => exact execDestroyDone_lanesLast _ hs h
  | ctxCplHead => exact execCtxCplHead_lanesLast _ _ hs h
  | evtValue => exact execEvtValue_lanesLast _ _ hs h
  | evtAdd => exact execEvtAdd_lanesLast _ _ hs h
  | evtErrorClear => exact execEvtErrorClear_lanesLast _ hs h
  | fltAck => exact execFltAck_lanesLast hs h
  | devTimeSet => exact execDevTimeSet_lanesLast _ hs h
  | devSoftReset => exact execDevSoftReset_lanesLast hs h
  | spanReset => exact execSpanReset_lanesLast _ hs h
  | marchTestRequest => exact execMarchTestRequest_lanesLast _ _ hs h
  | memRetrain => exact execMemRetrain_lanesLast _ _ hs h
  | rngReseedRequest => exact execRngReseedRequest_lanesLast hs h
  | rngWord => exact execRngWord_lanesLast hs h
  | linkEnable => exact execLinkEnable_lanesLast _ _ _ hs h
  | linkDisable => exact execLinkDisable_lanesLast _ _ _ hs h
  | linkRetrain => exact execLinkRetrain_lanesLast _ hs h
  | fltQueueClear => exact execFltQueueClear_lanesLast _ hs h
  | msixUnmask => exact execMsixUnmask_lanesLast _ hs h
  | d3hot => exact execD3hot_lanesLast _ hs h
  | registerWrite => exact execRegisterWrite_lanesLast _ _ _ hs h
  | bar2Read => exact execBar2Read_lanesLast _ _ _ hs h
  | bar2Write => exact execBar2Write_lanesLast _ _ _ hs h
  | stallReport => exact execStallReport_lanesLast _ hs h
  | fenceStatus => exact execFenceStatus_lanesLast _ hs h
  | faultState => exact execFaultState_lanesLast _ hs h
  | fwVersion => exact execFwVersion_lanesLast _ hs h
  | rngRead => exact execRngRead_lanesLast _ _ hs h
  | fwWrite => exact execFwWrite_lanesLast _ _ _ _ _ hs h
  | fwVerify => exact execFwVerify_lanesLast _ _ _ hs h
  | fwCommit => exact execFwCommit_lanesLast _ _ hs h
  | selfTest => exact execSelfTest_lanesLast _ _ hs h
  | setSeverity => exact execSetSeverity_lanesLast _ _ _ _ hs h
  | fenceUnit => exact execFenceUnit_lanesLast _ _ hs h
  | setFltParam => exact execSetFltParam_lanesLast _ _ _ _ _ hs h
  | keyInstall => exact execKeyInstall_lanesLast _ _ _ _ _ _ hs h
  | linkKeySwitch => exact execLinkKeySwitch_lanesLast _ _ hs h
  | keyZeroize => exact execKeyZeroize_lanesLast _ _ hs h
  | drbgReseed => exact execDrbgReseed_lanesLast _ _ hs h
  | drbgInstantiate => exact execDrbgInstantiate_lanesLast _ _ hs h
  | attest => exact execAttest_lanesLast _ _ hs h
  | getIdentity => exact execGetIdentity_lanesLast _ hs h
  | debugChallenge => exact execDebugChallenge_lanesLast _ hs h
  | debugUnlock => exact execDebugUnlock_lanesLast _ _ hs h
  | nop => exact execNop_lanesLast _ hs h
  | halt => exact execHalt_lanesLast _ hs h
  | endlp => exact execEndlp_lanesLast _ hs h
  | br => exact execBr_lanesLast _ hs h
  | brc => exact execBrc_lanesLast _ hs h
  | loop => exact execLoop_lanesLast _ hs h
  | seti => exact execSeti_lanesLast _ hs h
  | addi => exact execAddi_lanesLast _ hs h
  | alu => exact execAlu_lanesLast _ hs h
  | ldc => exact execLdc_lanesLast _ hs h
  | rdtime => exact execRdtime_lanesLast _ hs h
  | spanEvrec => exact execSpanEvrec_lanesLast _ hs h
  | spanEvwait => exact execSpanEvwait_lanesLast _ hs h
  | barrier => exact execBarrier_lanesLast _ hs h
  | fence => exact execFence_lanesLast _ hs h
  | dma => exact execDma_lanesLast _ hs h
  | dmaComplete => exact execDmaComplete_lanesLast _ _ _ hs h
  | dmaw => exact execDmaw_lanesLast _ hs h
  | atadd => exact execAtadd_lanesLast _ hs h
  | atswp => exact execAtswp_lanesLast _ hs h
  | bset => exact execBset_lanesLast _ hs h
  | bclr => exact execBclr_lanesLast _ hs h
  | mcast => exact execMcast_lanesLast _ hs h
  | deliveryNotice => exact execDeliveryNotice_lanesLast _ _ _ hs h
  | cancelNotice => exact execCancelNotice_lanesLast _ _ _ hs h
  | mma => exact execMma_lanesLast _ hs h
  | mmaz => exact execMmaz_lanesLast _ hs h
  | accz => exact execAccz_lanesLast _ hs h
  | red => exact execRed_lanesLast _ hs h
  | accmv => exact execAccmv_lanesLast _ hs h
  | cvt => exact execCvt_lanesLast _ hs h
  | ewo => exact execEwo_lanesLast _ hs h
  | fldcAccumulate => exact execFldcAccumulate_lanesLast _ hs h
  | fldcCommitAdd => exact execFldcCommitAdd_lanesLast _ hs h
  | fldcCommitSet => exact execFldcCommitSet_lanesLast _ hs h
  | gibbs => exact execGibbs_lanesLast _ hs h
  | schedBind => exact execSchedBind_lanesLast _ hs h
  | sweep => exact execSweep_lanesLast _ hs h
  | fref => exact execFref_lanesLast _ hs h
  | eaud => exact execEaud_lanesLast _ hs h
  | snap => exact execSnap_lanesLast _ hs h
  | xchg => exact execXchg_lanesLast _ hs h
  | schedEnd => exact execSchedEnd_lanesLast _ hs h
  | rmig => exact execRmig_lanesLast _ hs h
  | wrot => exact execWrot_lanesLast _ hs h
  | schedNext => exact execSchedNext_lanesLast _ hs h
  | illegalOp => exact execIllegalOp_lanesLast _ hs h
  | spanEvwaitTimeout => exact execSpanEvwaitTimeout_lanesLast _ hs h
  | waitTimeout => exact execWaitTimeout_lanesLast _ hs h
  | hangLimit => exact execHangLimit_lanesLast _ hs h
  | blockDecide => exact execBlockDecide_lanesLast _ _ hs h
  | continuation => exact execContinuation_lanesLast _ hs h
  | blockRefresh => exact execBlockRefresh_lanesLast _ hs h
  | spanFlipFlit => exact execSpanFlipFlit_lanesLast _ _ hs h
  | spanEpochMarker => exact execSpanEpochMarker_lanesLast _ _ hs h
  | epochBoundary => exact execEpochBoundary_lanesLast _ hs h
  | sweepFlush => exact execSweepFlush_lanesLast _ hs h
  | settle => exact execSettle_lanesLast _ hs h
  | deadline => exact execDeadline_lanesLast _ hs h
  | spanHeartbeatTimeout => exact execSpanHeartbeatTimeout_lanesLast _ hs h
  | spanRemap => exact execSpanRemap_lanesLast _ hs h
  | scrubPeriod => exact execScrubPeriod_lanesLast _ _ hs h
  | routerFailure => exact execRouterFailure_lanesLast _ hs h
  | creditTimeout => exact execCreditTimeout_lanesLast _ hs h
  | detourInstall => exact execDetourInstall_lanesLast _ _ hs h
  | memPeriodicRetrain => exact execMemPeriodicRetrain_lanesLast _ _ hs h
  | cxlTimeout => exact execCxlTimeout_lanesLast _ hs h
  | cxlLinkLoss => exact execCxlLinkLoss_lanesLast _ hs h
  | cplTimeout => exact execCplTimeout_lanesLast _ _ _ hs h
  | flr => exact execFlr_lanesLast hs h
  | perstNAssert => cases hi
  | perstNRelease => exact execPerstNRelease_lanesLast _ hs h
  | pwrEnAssert => cases hi
  | pwrEnDeassert => cases hi
  | vinUndervoltage => cases hi
  | vinOvervoltage => cases hi
  | pllLockLoss => cases hi
  | thermalTrip => cases hi
  | mainPllLock => exact execMainPllLock_lanesLast _ _ hs h
  | knownAnswerTests => exact execKnownAnswerTests_lanesLast _ _ hs h
  | marchTest => exact execMarchTest_lanesLast _ _ hs h
  | entropyStartupTest => exact execEntropyStartupTest_lanesLast _ _ hs h
  | imageVerification => exact execImageVerification_lanesLast _ _ _ _ _ hs h
  | gddr7Training => exact execGddr7Training_lanesLast _ hs h
  | cxlEnumeration => exact execCxlEnumeration_lanesLast _ _ hs h
  | entropyHealthFailure => exact execEntropyHealthFailure_lanesLast hs h
  | drbgAutoReseed => exact execDrbgAutoReseed_lanesLast hs h
  | drbgReseedDone => exact execDrbgReseedDone_lanesLast hs h
  | escalationExpiry => exact execEscalationExpiry_lanesLast hs h
  | quietPeriodEnd => exact execQuietPeriodEnd_lanesLast hs h
  | watchdogExpiry => exact execWatchdogExpiry_lanesLast hs h
  | stallCheck => exact execStallCheck_lanesLast hs h
  | exchangeTimeout => exact execExchangeTimeout_lanesLast _ hs h
  | thermalControl => exact execThermalControl_lanesLast hs h
  | sensorSample => exact execSensorSample_lanesLast _ _ hs h
  | voltageSample => exact execVoltageSample_lanesLast _ hs h
  | processMonitorWindow => exact execProcessMonitorWindow_lanesLast _ _ hs h
  | ppsCapture => exact execPpsCapture_lanesLast hs h
  | ppsAccept => exact execPpsAccept_lanesLast hs h
  | ppsLost => exact execPpsLost_lanesLast hs h
  | timeRollover => exact execTimeRollover_lanesLast hs h
  | aliveToggle => exact execAliveToggle_lanesLast hs h
  | flipBatch => exact execFlipBatch_lanesLast _ _ _ hs h
  | fieldInc => exact execFieldInc_lanesLast _ _ _ _ hs h
  | linkAtadd => exact execLinkAtadd_lanesLast _ _ _ _ _ _ hs h
  | dmaRd => exact execDmaRd_lanesLast _ _ _ _ _ hs h
  | dmaWr => exact execDmaWr_lanesLast _ _ _ _ _ _ hs h
  | completion => exact execCompletion_lanesLast _ _ _ _ _ _ hs h
  | eventSignal => exact execEventSignal_lanesLast _ _ _ _ _ _ hs h
  | fwdCmd => exact execFwdCmd_lanesLast _ _ _ _ _ hs h
  | epochMarker => exact execEpochMarker_lanesLast _ _ _ hs h
  | sweepEndMarker => exact execSweepEndMarker_lanesLast _ _ _ hs h
  | undoEndMarker => exact execUndoEndMarker_lanesLast _ _ _ hs h
  | readyMarker => exact execReadyMarker_lanesLast _ _ _ hs h
  | runStartMarker => exact execRunStartMarker_lanesLast _ _ _ hs h
  | startMarker => exact execStartMarker_lanesLast _ _ _ hs h
  | settleUpMarker => exact execSettleUpMarker_lanesLast _ _ _ hs h
  | settleDoneMarker => exact execSettleDoneMarker_lanesLast _ _ _ hs h
  | minIndex => exact execMinIndex_lanesLast _ _ _ _ _ _ hs h
  | param => exact execParam_lanesLast _ _ _ _ _ hs h
  | keySwitch => exact execKeySwitch_lanesLast _ _ _ _ hs h
  | down => exact execDown_lanesLast _ _ _ hs h
  | width => exact execWidth_lanesLast _ _ _ _ hs h
  | retrain => exact execRetrain_lanesLast _ _ hs h
  | ping => exact execPing_lanesLast _ _ _ hs h
  | pong => exact execPong_lanesLast _ _ _ hs h
  | badKind => exact execBadKind_lanesLast _ _ hs h
  | flitForward => exact execFlitForward_lanesLast _ _ _ _ _ hs h
  | flitDiscard => exact execFlitDiscard_lanesLast _ _ _ _ hs h
  | replayTimeout => exact execReplayTimeout_lanesLast _ hs h
  | replayLimit => exact execReplayLimit_lanesLast _ hs h
  | laneFailure => exact execLaneFailure_lanesLast _ _ hs h
  | linkTrainingAdvance => exact execLinkTrainingAdvance_lanesLast _ hs h
  | linkTrainingTimeout => exact execLinkTrainingTimeout_lanesLast _ hs h
  | idleFlit => exact execIdleFlit_lanesLast _ _ hs h
  | instructionCompletion => exact execInstructionCompletion_lanesLast _ _ hs h
  | marchTestDone => exact execMarchTestDone_lanesLast _ _ hs h
  | memTemperatureChange => exact execMemTemperatureChange_lanesLast _ _ hs h
  | vinRestored => cases hi
  | configurationWrite => exact execConfigurationWrite_lanesLast _ hs h
  | managementResponseRead => exact execManagementResponseRead_lanesLast hs h
  | dynamicAddressAssignment => exact execDynamicAddressAssignment_lanesLast _ hs h

theorem Grown.refl (a : Flt) : Grown a a := .same rfl rfl rfl rfl

theorem Grown.trans {a b c : Flt} (h : Grown a b) (g : Grown b c) : Grown a c :=
  ⟨fun k x => g.spans k (h.spans k x), fun k x => g.mems k (h.mems k x), fun k x => g.links k (h.links k x),
   fun k x => g.cxls k (h.cxls k x)⟩

/-- The fences of `s` other than those of lanes stand in `t`. -/
def State.FencesStand (s t : State) : Prop := Grown s.flt t.flt

/-- That the fences of a state stand is kept by everything but a reset of the die. -/
theorem fencesStand_whole (s : State) : Whole s.FencesStand where
  rest h := h
  mem _ h := h
  herr _ h := h
  pba _ h := h
  sent _ h := h
  drbg _ _ h := h
  cxlPerst _ h := h
  fence _ hf h := h.trans hf.toGrown
  escalate _ h := h.trans (.same rfl rfl rfl rfl)
  wide _ h := h
  fltSame _ hf _ _ h := h.trans hf
  acked _ hf _ _ _ h := h.trans hf
  latched _ hf _ _ _ h := h.trans hf
  faulted _ _ hf _ _ _ h := h.trans hf
  recovered _ _ hf _ _ _ _ h := h.trans hf
  memFilter _ h := h

/-- Settles O7: the fences of units stand by the law of whole properties, and those of lanes by the laws of the fenced
lanes, one for each operation. -/
theorem fencesLast : Obligations.FencesLast := by
  intro c s t hc h
  have hf : s.FencesStand t := exec_whole (fencesStand_whole s) c hc (Grown.refl s.flt) t h
  have hl : s.LanesLast t := exec_lanesLast hc (fun _ _ hk => hk) h
  exact ⟨hf.spans, hf.mems, hf.links, hl, hf.cxls⟩

end Sys2Proof.Machine
end
